-- ==== Sys2Proof/Word.lean ====
section
/-! DEFINITION. The word types of the K9 and the sparse table that holds every numbered
collection of registers, queues and memory cells. -/

namespace Sys2Proof

/-- One byte. -/
abbrev Byte := BitVec 8

/-- A 64-bit register (R11) or general register (R169). -/
abbrev Word := BitVec 64

/-- A sparse table: keys strictly rising, an unlisted key holds the table's default. -/
abbrev Table (α : Type) := List (Nat × α)

end Sys2Proof
end

