-- ==== Sys2Proof/Machine/Kinds.lean ====
section
/-! DEFINITION. The operand types of the commands: the choices an outside party or a unit makes when
it acts on the module. -/

namespace Sys2Proof

/-- How the host reaches a 64-bit register (R11): whole, or one aligned 32-bit half. -/
inductive Acc where
  | full | lo | hi
  deriving DecidableEq, Repr

/-- The three module variants (R1). -/
inductive Variant where
  | k9a | k9s | k9c
  deriving DecidableEq, Repr

/-- What a host request for a PCIe reset was (R530). -/
inductive PcieReset where
  | hotReset | linkDown | flr | perstN
  deriving DecidableEq, Repr

/-- How a read or write of memory ended at its target: clean, corrected (R57), uncorrectable
(R57, R227), target port failed (R230), endpoint refused (R270), host refused (R283), or lost in a
failed router (R268). -/
inductive Res where
  | ok | corrected | uncorrectable | portFailed | refused | hostRefused | lost
  deriving DecidableEq, Repr

/-- What the host answered to the reads of one operation: the bytes it returned from host memory, in
ascending address order (empty when the operation reads no host memory). -/
abbrev HostBytes := List Byte

/-- The way an orchestrator command arrives (R472, R475): session, sequence, and whether the KMAC256 tag
verifies under the session's C2D key. -/
structure Frame where
  sid   : BitVec 32
  seq   : BitVec 64
  tagOk : Bool
  deriving DecidableEq, Repr

/-- One Tamdan or in-module message (R365): the header fields, the payload and what the receiver found
when it verified the trailer (R373). `port` is the lane quad (4 × port + quad) it came by, none within the module. -/
structure Msg where
  bunch   : BitVec 32
  src     : Nat
  dst     : Nat
  epoch   : BitVec 16
  cls     : Nat
  chan    : Nat
  enc     : Bool
  len     : Nat
  seq     : Nat
  keyId   : Nat
  param   : BitVec 64
  payload : List Byte
  intact  : Bool
  port    : Option Nat
  srcGen  : BitVec 32
  /-- captured under FREEZE, its answer has gone out (R343); the MODEL's own -/
  answered : Bool := false
  deriving DecidableEq, Repr

/-- A direct member of a bunch as the orchestrator lists it (R37): a tile of this module, a bunch with a record here, a
leaf tile of another module (module number, tile number and generation there, R337), or a bunch that lies wholly on other
modules (its height above its leaves, R38, and its leaf tiles in rank order). -/
inductive Member where
  | tile (n : Nat) | bunch (id : BitVec 32) | remote (module : Nat) (tile : Nat) (gen : BitVec 32)
  | away (depth : Nat) (leaves : List (Nat × Nat × BitVec 32))
  deriving DecidableEq, Repr

/-- One memory range that a composition grants (R229). -/
structure RangeReq where
  port : Nat
  base : Nat
  len  : Nat
  deriving DecidableEq, Repr

/-- Which requester an answer of the memory system belongs to (R230, R270, R283). -/
inductive Requester where
  | core (t : Nat) | mover (t mv : Nat) | dispatch (t kd : Nat) | command (q : Nat) (seq : BitVec 32) | headWord (q : Nat)
  deriving DecidableEq, Repr

/-- The first event that took a quad down (R377). -/
inductive DownWhy where
  | lockLost | crcSilence | ackStall | naks | disabled
  deriving DecidableEq, Repr

/-- What a router failure was (R266). -/
inductive RouterWhy where
  | stall | parity | selftest
  deriving DecidableEq, Repr

/-- A safety fault as the unit that detects it reports it (R442, R443): row, source identifier, the contexts the
operation served, the record's detail; the pacer count of its tile and the context that ran there when it was detected (R444,
R458). -/
structure SafetyFault where
  row    : Nat
  src    : BitVec 32
  ctxs   : List Nat
  detail : BitVec 64
  pacer  : Word := 0
  running : List Nat := []
  deriving DecidableEq, Repr

/-- The credential a CRED_SET carries (R473): a provisioned key, or a password-derived key with salt and
cost exponent. -/
inductive Cred where
  | key (k : BitVec 256) | password (k : BitVec 256) (salt : BitVec 128) (c : Nat)
  deriving DecidableEq, Repr

/-- One firmware image as FW_WRITE presents it (R470): the fields of its header and its payload, and what the verification of the
signature over the header and of the signer's certificate chain found. -/
structure Image where
  kind    : Nat
  svn     : Nat
  version : BitVec 32
  digest  : BitVec 256
  sigOk   : Bool
  magic   : BitVec 32 := 0x4D46394B
  format  : BitVec 16 := 1
  length  : Nat := 0
  zero    : BitVec 64 := 0
  payload : List Byte := []
  chainOk : Bool := true
  deriving DecidableEq, Repr

/-- A peer's quote as KEY_AGREE presents it (R477): the peer, its encapsulation key, its measurement slots 0 to 6,
and what the check of certificate chain, signature and nonce found. -/
structure PeerQuote where
  device : BitVec 64
  ek     : List Byte
  meas   : List (BitVec 256)
  ok     : Bool
  deriving DecidableEq, Repr

/-- The quarter power controllers' readings of one estimate window (R407): the sums the fused coefficients
give per tile (mW) and for the rest of the module. -/
structure Activity where
  tileMilliwatts : List Nat
  restMilliwatts : Nat
  deriving DecidableEq, Repr

/-- Who asks for a module reset (R431, R507). -/
inductive ResetBy where
  | resetN | stone | orchestrator (f : Frame) (maintenance : Bool)
  deriving DecidableEq, Repr

end Sys2Proof
end

