-- ==== Sys2Proof/Syntax.lean ====
section
/-! DEFINITION. The commands of the K9: one constructor per row of the table of operations and events.
A Rilax row names the tile `t` whose control core retires the instruction, the base word `w` that its fetch
delivered and, for an engine operation, the extension word `x` (R198). A mailbox row is the host's write of
MGMT_CMD (R305). A register row names the half or whole word written (R11). An orchestrator row names the frame
that carried it (R472). -/

namespace Sys2Proof

/-- One command. Each docstring gives the rule that governs the row. -/
inductive Instr where
  /-- INPUT_IN_RANGE (R504). -/
  | inputInRange (vin : BitVec 16)
  /-- PWR_EN_ASSERT (R517). -/
  | pwrEnAssert
  /-- PWR_EN_DEASSERT (R517). -/
  | pwrEnDeassert
  /-- RESET_N_ASSERT (R518). -/
  | resetNAssert
  /-- RESET_N_RELEASE (R518). -/
  | resetNRelease
  /-- UNDERVOLTAGE_LOCKOUT (R514). -/
  | undervoltageLockout
  /-- VIN_RANGE (R398). -/
  | vinRange (vin : BitVec 16)
  /-- MEMPORT_TRAINING_DONE (R504). -/
  | memportTrainingDone (m : Nat)
  /-- POWER_UP_SELFTEST_DONE (R16). -/
  | powerUpSelftestDone (failed : List Nat)
  /-- HOST_READY (R504). -/
  | hostReady
  /-- PCIE_CONFIG_REQUEST (R505). -/
  | pcieConfigRequest
  /-- PCIE_HOT_RESET (R530). -/
  | pcieHotReset (why : PcieReset)
  /-- MMIO_WRITE (R11). -/
  | mmioWrite (off len : Nat) (v : Word)
  /-- BAR2_SUBMISSION (R285). -/
  | bar2Submission (off : Nat) (data : List Byte) (allEnabled : Bool)
  /-- COMMAND_CONSUME (R290). -/
  | commandConsume (q : Nat) (pt : List (Nat × Word))
  /-- COMMAND_START (R296). -/
  | commandStart (q : Nat)
  /-- NOP (R299). -/
  | nop (q : Nat) (seq : BitVec 32)
  /-- LAUNCH (R294). -/
  | launch (q : Nat) (seq : BitVec 32)
  /-- COPY (R295). -/
  | copy (q : Nat) (seq : BitVec 32)
  /-- FILL (R295). -/
  | fill (q : Nat) (seq : BitVec 32)
  /-- COMPARE (R295). -/
  | compare (q : Nat) (seq : BitVec 32)
  /-- FENCE_SIGNAL (R297). -/
  | fenceSignal (q : Nat) (seq : BitVec 32)
  /-- FENCE_WAIT (R298). -/
  | fenceWait (q : Nat) (seq : BitVec 32)
  /-- BARRIER (R299). -/
  | barrier (q : Nat) (seq : BitVec 32)
  /-- MARKER (R299). -/
  | marker (q : Nat) (seq : BitVec 32)
  /-- QUIESCE (R299). -/
  | quiesce (q : Nat) (seq : BitVec 32)
  /-- HOST_MOVER_COMPLETE (R277). -/
  | hostMoverComplete (q : Nat) (seq : BitVec 32) (res : Res) (a b : HostBytes)
  /-- COALESCE_TIMER_EXPIRE (R302). -/
  | coalesceTimerExpire (q : Nat)
  /-- CQ_HEAD_REREAD (R301). -/
  | cqHeadReread (q : Nat) (head : Option Word)
  /-- HOST_DMA_REFUSED (R283). -/
  | hostDmaRefused (who : Requester)
  /-- MGMT_CMD_INDEX_WRITE (R305). -/
  | mgmtCmdIndexWrite (v : BitVec 32)
  /-- MAILBOX_UNKNOWN_OP (R306). -/
  | mailboxUnknownOp (acc : Acc) (v : Word)
  /-- CTX_CREATE (R306). -/
  | ctxCreate (acc : Acc) (v : Word)
  /-- CTX_SHARE (R385). -/
  | ctxShare (acc : Acc) (v : Word)
  /-- CTX_SEG (R232). -/
  | ctxSeg (acc : Acc) (v : Word)
  /-- CTX_QUIESCE (R307). -/
  | ctxQuiesce (acc : Acc) (v : Word)
  /-- CTX_QUIESCED (R307). -/
  | ctxQuiesced (c : Nat)
  /-- CTX_RESUME (R307). -/
  | ctxResume (acc : Acc) (v : Word)
  /-- CTX_RESET (R308). -/
  | ctxReset (acc : Acc) (v : Word)
  /-- CTX_REMOVE (R308). -/
  | ctxRemove (acc : Acc) (v : Word)
  /-- CTX_SAVE (R348). -/
  | ctxSave (acc : Acc) (v : Word)
  /-- CTX_RESTORE (R350). -/
  | ctxRestore (acc : Acc) (v : Word)
  /-- CTX_BACKING (R384). -/
  | ctxBacking (acc : Acc) (v : Word)
  /-- Q_ENABLE (R308). -/
  | qEnable (acc : Acc) (v : Word)
  /-- Q_RESUME (R299). -/
  | qResume (acc : Acc) (v : Word)
  /-- Q_DESTROY (R309). -/
  | qDestroy (acc : Acc) (v : Word)
  /-- OBJ_CREATE (R310). -/
  | objCreate (acc : Acc) (v : Word)
  /-- OBJ_FREE (R311). -/
  | objFree (acc : Acc) (v : Word)
  /-- OBJ_DESTROY (R312). -/
  | objDestroy (acc : Acc) (v : Word)
  /-- FENCE_CREATE (R306). -/
  | fenceCreate (acc : Acc) (v : Word)
  /-- FENCE_BIND (R306). -/
  | fenceBind (acc : Acc) (v : Word)
  /-- FENCE_RESET (R316). -/
  | fenceReset (acc : Acc) (v : Word)
  /-- FENCE_DESTROY (R317). -/
  | fenceDestroy (acc : Acc) (v : Word)
  /-- FENCE_FLUSH_ACK (R317). -/
  | fenceFlushAck (f t : Nat)
  /-- FENCE_SIGNAL_ARRIVAL (R314). -/
  | fenceSignalArrival (t f : Nat) (agree : Bool)
  /-- ATTEST (R469). -/
  | attest (acc : Acc) (v : Word)
  /-- QUOTE_READY (R469). -/
  | quoteReady
  /-- BAR4_CTRL_WRITE (R284). -/
  | bar4CtrlWrite (acc : Acc) (v : Word)
  /-- BAR4_ACCESS (R284). -/
  | bar4Access (write : Bool) (off len : Nat) (data : List Byte) (res : Res)
  /-- Q_STATUS_W1C (R319). -/
  | qStatusW1c (q : Nat) (acc : Acc) (v : Word)
  /-- HI_ERR_CLEAR (R318). -/
  | hiErrClear (acc : Acc) (v : Word)
  /-- SLOT_FLAGS_W1C (R103). -/
  | slotFlagsW1c (t i : Nat) (acc : Acc) (v : Word)
  /-- SLOT_DEADLINE_WRITE (R64). -/
  | slotDeadlineWrite (t i : Nat) (acc : Acc) (v : Word)
  /-- STORE_ERR_CLEAR (R71). -/
  | storeErrClear (i : Nat) (acc : Acc) (v : Word)
  /-- MP_ERR_CLEAR (R252). -/
  | mpErrClear (i : Nat) (acc : Acc) (v : Word)
  /-- LOSS_CLEAR (R278). -/
  | lossClear (acc : Acc) (v : Word)
  /-- RN_ERR_CLEAR (R382). -/
  | rnErrClear (i : Nat) (acc : Acc) (v : Word)
  /-- SCHED_STATUS_CLEAR (R397). -/
  | schedStatusClear (i : Nat) (acc : Acc) (v : Word)
  /-- XING_STATE_CLEAR (R434). -/
  | xingStateClear (i : Nat) (acc : Acc) (v : Word)
  /-- FQ_CFG_WRITE (R459). -/
  | fqCfgWrite (acc : Acc) (v : Word)
  /-- FQ_HEAD_WRITE (R459). -/
  | fqHeadWrite (acc : Acc) (v : Word)
  /-- FQ_STATUS_CLEAR (R465). -/
  | fqStatusClear (acc : Acc) (v : Word)
  /-- HOST_CAP_WRITE (R402). -/
  | hostCapWrite (acc : Acc) (v : Word)
  /-- MGR_VOTE_WRITE (R414). -/
  | mgrVoteWrite (i : Nat) (acc : Acc) (v : Word)
  /-- PAD_RELEASE (R419). -/
  | padRelease (i : Nat) (acc : Acc) (v : Word)
  /-- SMP_CFG_WRITE (R503). -/
  | smpCfgWrite (acc : Acc) (v : Word)
  /-- SMP_INTERVAL_WRITE (R503). -/
  | smpIntervalWrite (acc : Acc) (v : Word)
  /-- SMP_HEAD_WRITE (R497). -/
  | smpHeadWrite (acc : Acc) (v : Word)
  /-- SMP_STATUS_CLEAR (R503). -/
  | smpStatusClear (acc : Acc) (v : Word)
  /-- GRP_CTL_WRITE (R503). -/
  | grpCtlWrite (i : Nat) (acc : Acc) (v : Word)
  /-- GRP_CTL_CLEAR (R494). -/
  | grpCtlClear (i : Nat) (acc : Acc) (v : Word)
  /-- TRACE_CTL_WRITE (R501). -/
  | traceCtlWrite (i : Nat) (acc : Acc) (v : Word)
  /-- ADD (R204). -/
  | add (t : Nat) (w : Word)
  /-- SUB (R204). -/
  | sub (t : Nat) (w : Word)
  /-- AND (R204). -/
  | and (t : Nat) (w : Word)
  /-- OR (R204). -/
  | or (t : Nat) (w : Word)
  /-- XOR (R204). -/
  | xor (t : Nat) (w : Word)
  /-- SHL (R204). -/
  | shl (t : Nat) (w : Word)
  /-- SHR (R204). -/
  | shr (t : Nat) (w : Word)
  /-- SRA (R204). -/
  | sra (t : Nat) (w : Word)
  /-- MUL (R204). -/
  | mul (t : Nat) (w : Word)
  /-- MULHU (R204). -/
  | mulhu (t : Nat) (w : Word)
  /-- DIVU (R204). -/
  | divu (t : Nat) (w : Word)
  /-- REMU (R204). -/
  | remu (t : Nat) (w : Word)
  /-- CMP (R205). -/
  | cmp (t : Nat) (w : Word)
  /-- LI (R204). -/
  | li (t : Nat) (w : Word)
  /-- PSET (R205). -/
  | pset (t : Nat) (w : Word)
  /-- LIH (R204). -/
  | lih (t : Nat) (w : Word)
  /-- BR (R206). -/
  | br (t : Nat) (w : Word)
  /-- CALL (R206). -/
  | call (t : Nat) (w : Word)
  /-- JR (R206). -/
  | jr (t : Nat) (w : Word)
  /-- LD_U8 (R207). -/
  | ldU8 (t : Nat) (w : Word)
  /-- LD_U16 (R207). -/
  | ldU16 (t : Nat) (w : Word)
  /-- LD_U32 (R207). -/
  | ldU32 (t : Nat) (w : Word)
  /-- LD_64 (R207). -/
  | ld64 (t : Nat) (w : Word)
  /-- LD_S8 (R207). -/
  | ldS8 (t : Nat) (w : Word)
  /-- LD_S16 (R207). -/
  | ldS16 (t : Nat) (w : Word)
  /-- LD_S32 (R207). -/
  | ldS32 (t : Nat) (w : Word)
  /-- ST_8 (R207). -/
  | st8 (t : Nat) (w : Word)
  /-- ST_16 (R207). -/
  | st16 (t : Nat) (w : Word)
  /-- ST_32 (R207). -/
  | st32 (t : Nat) (w : Word)
  /-- ST_64 (R207). -/
  | st64 (t : Nat) (w : Word)
  /-- LD_TD (R174). -/
  | ldTd (t : Nat) (w : Word)
  /-- ST_TD (R207). -/
  | stTd (t : Nat) (w : Word)
  /-- TD_WR (R207). -/
  | tdWr (t : Nat) (w : Word)
  /-- TD_RD (R207). -/
  | tdRd (t : Nat) (w : Word)
  /-- LOAD_DATA_RETURN (R207). -/
  | loadDataReturn (t : Nat) (res : Res) (host : HostBytes)
  /-- WAIT (R47). -/
  | wait (t : Nat) (w : Word)
  /-- TOK_POLL (R178). -/
  | tokPoll (t : Nat) (w : Word)
  /-- FENCE_SIG (R184). -/
  | fenceSig (t : Nat) (w : Word)
  /-- FENCE_WAIT_INSTR (R208). -/
  | fenceWaitInstr (t : Nat) (w : Word)
  /-- INTAKE_OPEN (R155). -/
  | intakeOpen (t : Nat) (w : Word)
  /-- INTAKE_TAKE (R157). -/
  | intakeTake (t : Nat) (w : Word)
  /-- MV_COPY (R210). -/
  | mvCopy (t : Nat) (w x : Word)
  /-- MV_FILL (R210). -/
  | mvFill (t : Nat) (w x : Word)
  /-- MV_CMP (R210). -/
  | mvCmp (t : Nat) (w x : Word)
  /-- MOVER_OP_COMPLETE (R273). -/
  | moverOpComplete (t mv : Nat) (res : Res) (a b : HostBytes)
  /-- VLD (R212). -/
  | vld (t : Nat) (w x : Word)
  /-- VST (R212). -/
  | vst (t : Nat) (w x : Word)
  /-- VARITH (R212). -/
  | varith (t : Nat) (w x : Word)
  /-- VFMA (R212). -/
  | vfma (t : Nat) (w x : Word)
  /-- VSF (R213). -/
  | vsf (t : Nat) (w x : Word)
  /-- VCMP (R212). -/
  | vcmp (t : Nat) (w x : Word)
  /-- VRED (R212). -/
  | vred (t : Nat) (w x : Word)
  /-- VBCAST (R212). -/
  | vbcast (t : Nat) (w x : Word)
  /-- VSEL (R212). -/
  | vsel (t : Nat) (w x : Word)
  /-- VMASK (R212). -/
  | vmask (t : Nat) (w x : Word)
  /-- CVT (R214). -/
  | cvt (t : Nat) (w x : Word)
  /-- VECTOR_OP_COMPLETE (R103). -/
  | vectorOpComplete (t : Nat) (res : Res)
  /-- MMA (R112). -/
  | mma (t : Nat) (w x : Word)
  /-- MMA_S24 (R135). -/
  | mmaS24 (t : Nat) (w x : Word)
  /-- MMA_SEED (R140). -/
  | mmaSeed (t : Nat) (w x : Word)
  /-- MMA_ROWMASK (R146). -/
  | mmaRowmask (t : Nat) (w x : Word)
  /-- TENSOR_OP_START (R125). -/
  | tensorOpStart (t : Nat) (res : Res)
  /-- TENSOR_OP_COMPLETE (R112). -/
  | tensorOpComplete (t : Nat)
  /-- TENSOR_CHECK_FAIL (R131). -/
  | tensorCheckFail (t code array row : Nat)
  /-- GATE_TOPK (R151). -/
  | gateTopk (t : Nat) (w x : Word)
  /-- DISP (R160). -/
  | disp (t : Nat) (w x : Word)
  /-- DISP_COMPLETE (R160). -/
  | dispComplete (t kd : Nat)
  /-- COMB (R163). -/
  | comb (t : Nat) (w x : Word)
  /-- COMB_SUM (R164). -/
  | combSum (t : Nat) (w x : Word)
  /-- COMPACT_G (R149). -/
  | compactG (t : Nat) (w x : Word)
  /-- COMPACT_S (R149). -/
  | compactS (t : Nat) (w x : Word)
  /-- DISPATCH_OP_COMPLETE (R177). -/
  | dispatchOpComplete (t kd : Nat) (res : Res)
  /-- SEND (R219). -/
  | send (t : Nat) (w x : Word)
  /-- RECV (R219). -/
  | recv (t : Nat) (w x : Word)
  /-- PUT (R374). -/
  | put (t : Nat) (w x : Word)
  /-- GET (R374). -/
  | get (t : Nat) (w x : Word)
  /-- BAR (R185). -/
  | bar (t : Nat) (w x : Word)
  /-- ALLREDUCE (R221). -/
  | allreduce (t : Nat) (w x : Word)
  /-- BCAST (R221). -/
  | bcast (t : Nat) (w x : Word)
  /-- ALLGATHER (R221). -/
  | allgather (t : Nat) (w x : Word)
  /-- PACE_ARM (R63). -/
  | paceArm (t : Nat) (w : Word)
  /-- PACE_ARM_REL (R63). -/
  | paceArmRel (t : Nat) (w : Word)
  /-- PACE_ARM_DL (R222). -/
  | paceArmDl (t : Nat) (w : Word)
  /-- PACE_WAIT (R222). -/
  | paceWait (t : Nat) (w : Word)
  /-- PACE_CLEAR (R211). -/
  | paceClear (t : Nat) (w : Word)
  /-- PACER_COMPARATOR_FIRE (R63). -/
  | pacerComparatorFire (t c : Nat)
  /-- MARK_OP (R494). -/
  | markOp (t : Nat) (w : Word)
  /-- MARK_EV (R501). -/
  | markEv (t : Nat) (w : Word)
  /-- OBS_RD (R500). -/
  | obsRd (t : Nat) (w : Word)
  /-- SYS_READ (R175). -/
  | sysRead (t : Nat) (w : Word)
  /-- SYS_EXIT (R50). -/
  | sysExit (t : Nat) (w : Word)
  /-- SYS_DIST (R224). -/
  | sysDist (t : Nat) (w : Word)
  /-- ENGINE_SLOT_FREE (R45). -/
  | engineSlotFree (t : Nat)
  /-- KERNEL_BOUNDARY (R69). -/
  | kernelBoundary (t : Nat)
  /-- CORE_LOCKSTEP (R52). -/
  | coreLockstep (t : Nat)
  /-- PATROL_SCRUB (R58). -/
  | patrolScrub (t line : Nat) (res : Res)
  /-- WRITTEN_BIT_CLEAR_DONE (R60). -/
  | writtenBitClearDone (t : Nat)
  /-- WATCHDOG_EXPIRE (R392). -/
  | watchdogExpire (t : Nat)
  /-- WATCHDOG_ESCALATE (R393). -/
  | watchdogEscalate (t : Nat)
  /-- SWAP_DONE (R387). -/
  | swapDone (t : Nat)
  /-- ROW_MESSAGE (R158). -/
  | rowMessage (m : Msg)
  /-- MARKER_MESSAGE (R157). -/
  | markerMessage (m : Msg)
  /-- RETURN_MESSAGE (R163). -/
  | returnMessage (m : Msg)
  /-- ANSWER_MESSAGE (R366). -/
  | answerMessage (m : Msg)
  /-- SEND_MESSAGE (R219). -/
  | sendMessage (m : Msg)
  /-- PUT_MESSAGE (R220). -/
  | putMessage (m : Msg) (res : Res)
  /-- GET_REQ_MESSAGE (R220). -/
  | getReqMessage (m : Msg) (res : Res) (host : HostBytes)
  /-- GET_REPLY_MESSAGE (R374). -/
  | getReplyMessage (m : Msg)
  /-- CREDIT_MESSAGE (R366). -/
  | creditMessage (m : Msg)
  /-- BAR_MESSAGE (R185). -/
  | barMessage (m : Msg)
  /-- COLL_SEQ_MESSAGE (R375). -/
  | collSeqMessage (m : Msg)
  /-- COLL_DATA_MESSAGE (R375). -/
  | collDataMessage (m : Msg)
  /-- FREEZE_MARK_MESSAGE (R343). -/
  | freezeMarkMessage (m : Msg)
  /-- EPOCH_MESSAGE (R335). -/
  | epochMessage (m : Msg)
  /-- MEMBER_LOST_MESSAGE (R379). -/
  | memberLostMessage (m : Msg)
  /-- HEARTBEAT_MESSAGE (R380). -/
  | heartbeatMessage (m : Msg)
  /-- EPOCH_HOLD_EXPIRE (R334). -/
  | epochHoldExpire (b : BitVec 32)
  /-- EARLY_MESSAGE_TIMEOUT (R158). -/
  | earlyMessageTimeout (t : Nat)
  /-- MSG_TIMEOUT (R370). -/
  | msgTimeout (t : Nat) (seq : Nat)
  /-- HEARTBEAT_SEND (R380). -/
  | heartbeatSend (b : BitVec 32)
  /-- HEARTBEAT_LOSS (R380). -/
  | heartbeatLoss (b : BitVec 32) (module : Nat)
  /-- QUAD_TRAINED (R358). -/
  | quadTrained (x : Nat) (full reversed : Bool) (kind : Nat) (partner : Word) (bufs : BitVec 64) (retry : Nat)
  /-- TRAINING_TIMEOUT (R359). -/
  | trainingTimeout (x : Nat)
  /-- TRAINING_RETRY (R359). -/
  | trainingRetry (x : Nat)
  /-- DATA_FLIT_RX (R361). -/
  | dataFlitRx (x : Nat) (flit : BitVec 512)
  /-- CTRL_FLIT_RX (R362). -/
  | ctrlFlitRx (x : Nat) (flit : BitVec 512)
  /-- ACK_TIMEOUT (R361). -/
  | ackTimeout (x : Nat)
  /-- QUAD_DOWN (R378). -/
  | quadDown (x : Nat) (why : DownWhy)
  /-- ROUTER_FAILED (R266). -/
  | routerFailed (i : Nat) (why : RouterWhy)
  /-- ROUTER_DRAINED (R267). -/
  | routerDrained (i : Nat)
  /-- REFUSED_REPLY (R270). -/
  | refusedReply (who : Requester)
  /-- ENDPOINT_PACKET_ARRIVAL (R415). -/
  | endpointPacketArrival (t : Nat)
  /-- MEMPORT_FAILED (R230). -/
  | memportFailed (m : Nat)
  /-- MEMPORT_READ_COMPLETE (R227). -/
  | memportReadComplete (m off : Nat) (who : Requester) (clean mirrored mirrorClean : Bool)
  /-- MIRROR_REBUILD_DONE (R237). -/
  | mirrorRebuildDone (c seg lost new : Nat)
  /-- BANDWIDTH_WINDOW_END (R250). -/
  | bandwidthWindowEnd (m : Nat)
  /-- ZQ_CALIBRATION (R249). -/
  | zqCalibration (m : Nat)
  /-- PEEL_GRANULE_DONE (R483). -/
  | peelGranuleDone (m g : Nat) (ok : Bool)
  /-- COMPOSE_BUNCH (R322). -/
  | composeBunch (f : Frame) (id parent : BitVec 32) (members : List Member) (ranges : List RangeReq) (quads : List Nat) (host encrypt : Bool)
  /-- DISSOLVE_BUNCH (R323). -/
  | dissolveBunch (f : Frame) (b : BitVec 32)
  /-- RANGE_GRANT (R229). -/
  | rangeGrant (f : Frame) (b : BitVec 32) (r : RangeReq)
  /-- RANGE_RELEASE (R482). -/
  | rangeRelease (f : Frame) (b : BitVec 32) (m : Nat)
  /-- TILE_REPLACE (R326). -/
  | tileReplace (f : Frame) (b : BitVec 32) (out inc : Nat)
  /-- TILE_MOVE (R327). -/
  | tileMove (f : Frame) (t : Nat) (losing gaining : BitVec 32) (pos : Nat) (heir : Option Nat) (reserve : Option (Nat × Nat))
  /-- RANGE_RELOCATE (R331). -/
  | rangeRelocate (f : Frame) (b : BitVec 32) (m newPort newFirst : Nat)
  /-- RANGE_MOVE (R331). -/
  | rangeMove (f : Frame) (b : BitVec 32) (m : Nat) (gaining : BitVec 32)
  /-- QUAD_MOVE (R332). -/
  | quadMove (f : Frame) (x : Nat) (gaining : BitVec 32)
  /-- GRAFT_DRAIN_DONE (R326). -/
  | graftDrainDone (b : BitVec 32)
  /-- SHARE_COPY_DONE (R327). -/
  | shareCopyDone (b : BitVec 32) (bad : List Nat)
  /-- EPOCH_DRAIN_ZERO (R335). -/
  | epochDrainZero (b : BitVec 32)
  /-- RANGE_COPY_DONE (R331). -/
  | rangeCopyDone (b : BitVec 32)
  /-- QUAD_RETRY_EMPTY (R332). -/
  | quadRetryEmpty (x : Nat)
  /-- DETACH_RELEASE (R353). -/
  | detachRelease (f : Frame) (d : Nat)
  /-- FREEZE (R343). -/
  | freeze (f : Frame) (b : BitVec 32)
  /-- THAW (R345). -/
  | thaw (f : Frame) (b : BitVec 32)
  /-- HALT (R346). -/
  | halt (f : Frame) (b : BitVec 32)
  /-- RESUME (R347). -/
  | resume (f : Frame) (b : BitVec 32)
  /-- BUNCH_RESET (R431). -/
  | bunchReset (f : Frame) (b : BitVec 32)
  /-- TILE_REJOIN (R338). -/
  | tileRejoin (t : Nat)
  /-- SET_PERF_MODE (R405). -/
  | setPerfMode (f : Frame) (free : Bool)
  /-- SET_ORCH_CAP (R402). -/
  | setOrchCap (f : Frame) (w : Nat)
  /-- SET_FLOORS (R248). -/
  | setFloors (f : Frame) (m : Nat) (floors : Option (List Nat))
  /-- SET_VC_ARB (R262). -/
  | setVcArb (f : Frame) (port : Option Nat) (v : Word)
  /-- SET_POWER_POLICY (R416). -/
  | setPowerPolicy (f : Frame) (b : BitVec 32) (keepIdle : Bool)
  /-- ORCH_VOTE (R414). -/
  | orchVote (f : Frame) (d v : Nat)
  /-- PORT_DISABLE (R377). -/
  | portDisable (f : Frame) (x : Nat)
  /-- I3C_TRAY_CAP_WRITE (R524). -/
  | i3cTrayCapWrite (w : BitVec 16)
  /-- I3C_ADDRESS_ASSIGN (R523). -/
  | i3cAddressAssign (a : BitVec 7)
  /-- POWER_ESTIMATE_TICK (R407). -/
  | powerEstimateTick (act : Activity)
  /-- CAP_UNMET_CLEAR (R404). -/
  | capUnmetClear
  /-- CALIBRATION_WINDOW (R408). -/
  | calibrationWindow (estimated measured rail : Nat) (vin iin : BitVec 16)
  /-- THERMAL_SAMPLE (R411). -/
  | thermalSample (readings : List (Nat × Int))
  /-- VDD_LOW (R401). -/
  | vddLow (t : Nat)
  /-- REGULATOR (R420). -/
  | regulator (d : Nat)
  /-- DEMAND_IDLE_TIMEOUT (R415). -/
  | demandIdleTimeout (t : Nat)
  /-- DOMAIN_WAKE_DONE (R413). -/
  | domainWakeDone (d : Nat)
  /-- QUARTER_BANKED (R418). -/
  | quarterBanked (q : Nat)
  /-- RESYNC_REQ (R427). -/
  | resyncReq (i : Nat) (island : Bool) (dropped : Nat)
  /-- RESYNC_DONE (R427). -/
  | resyncDone (i : Nat) (island : Bool)
  /-- CROSSING_PARK (R429). -/
  | crossingPark (i : Nat)
  /-- CLOCK_STOPPED (R430). -/
  | clockStopped (i : Nat)
  /-- CLOCK_RETURN (R430). -/
  | clockReturn (i : Nat)
  /-- XING_CLOCK_LOST (R430). -/
  | xingClockLost (i : Nat)
  /-- HANDSHAKE_STALL (R22). -/
  | handshakeStall (t : Nat)
  /-- ISLAND_RESET (R431). -/
  | islandReset (i : Nat)
  /-- TILE_RESET (R431). -/
  | tileReset (t : Nat)
  /-- MODULE_RESET (R431). -/
  | moduleReset (by_ : ResetBy)
  /-- POWER_CYCLE (R521). -/
  | powerCycle
  /-- SAFETY_FAULT_REACTION (R443). -/
  | safetyFaultReaction (flt : SafetyFault)
  /-- ESCALATION (R451). -/
  | escalation (row : Nat)
  /-- HUSK_RECORD_COMPLETE (R463). -/
  | huskRecordComplete (units : List (BitVec 32))
  /-- HUSK_UNIT_TIMEOUT (R462). -/
  | huskUnitTimeout (src : BitVec 32)
  /-- ROW_ACKNOWLEDGE (R445). -/
  | rowAcknowledge (f : Frame) (rows : List Nat)
  /-- PACER_FREQ_WINDOW (R439). -/
  | pacerFreqWindow (p sys l : Nat)
  /-- MGC_KICK (R440). -/
  | mgcKick
  /-- HOSTIF_HEARTBEAT (R440). -/
  | hostifHeartbeat
  /-- MGC_WATCHDOG (R440). -/
  | mgcWatchdog
  /-- HOSTIF_WATCHDOG (R440). -/
  | hostifWatchdog
  /-- STONE_LOCKSTEP (R449). -/
  | stoneLockstep
  /-- ROTATION_TURN_START (R453). -/
  | rotationTurnStart
  /-- ROTATION_SELFTEST_DONE (R453). -/
  | rotationSelftestDone (t : Nat) (pass : Bool)
  /-- SELFTEST_REQUEST (R457). -/
  | selftestRequest (f : Frame) (t : Nat)
  /-- HELLO (R474). -/
  | hello (slot : Nat) (nc : BitVec 256)
  /-- PROOF (R474). -/
  | proof (sid : BitVec 32) (proof : BitVec 256)
  /-- SESSION_IDLE_TIMEOUT (R474). -/
  | sessionIdleTimeout (sid : BitVec 32)
  /-- SLOT_LOCK_EXPIRE (R474). -/
  | slotLockExpire (slot : Nat)
  /-- CLOSE (R474). -/
  | close (f : Frame)
  /-- QUOTE (R469). -/
  | quote (f : Option Frame) (nonce : BitVec 256)
  /-- CLAIM (R473). -/
  | claim (ct : List Byte)
  /-- CRED_SET (R473). -/
  | credSet (f : Frame) (slot : Nat) (cred : Cred)
  /-- CRED_CLEAR (R473). -/
  | credClear (f : Frame) (slot : Nat)
  /-- UNCLAIM (R473). -/
  | unclaim (f : Frame)
  /-- KEY_INSTALL (R477). -/
  | keyInstall (f : Frame) (b : BitVec 32) (id : Nat) (wrapped : List Byte)
  /-- KEY_AGREE_BEGIN (R477). -/
  | keyAgreeBegin (f : Frame)
  /-- KEY_AGREE (R477). -/
  | keyAgree (f : Frame) (b : BitVec 32) (id : Nat) (quotes : List PeerQuote)
  /-- KEY_ACCEPT (R477). -/
  | keyAccept (f : Frame) (b : BitVec 32) (id : Nat) (blob : List Byte)
  /-- KEY_ACTIVATE (R478). -/
  | keyActivate (f : Frame) (b : BitVec 32) (id : Nat)
  /-- KEY_DESTROY (R478). -/
  | keyDestroy (f : Frame) (b : BitVec 32) (id : Nat)
  /-- IMAGE_KEY_INSTALL (R479). -/
  | imageKeyInstall (f : Frame) (b : BitVec 32) (id : Nat) (wrapped : List Byte)
  /-- CONF_SET (R480). -/
  | confSet (f : Frame) (b : BitVec 32)
  /-- FW_WRITE (R471). -/
  | fwWrite (f : Frame) (imgs : List Image)
  /-- FW_TRIAL (R471). -/
  | fwTrial (f : Frame)
  /-- FW_COMMIT (R471). -/
  | fwCommit (f : Frame) (advance : Bool)
  /-- FW_UPDATE (R509). -/
  | fwUpdate (f : Frame) (kind : Nat)
  /-- UNIT_UPDATE_DONE (R509). -/
  | unitUpdateDone (ok : Bool)
  /-- MAINT_ENTER (R507). -/
  | maintEnter (f : Frame)
  /-- MAINT_LEAVE (R241). -/
  | maintLeave (f : Frame)
  /-- FACTORY_UNLOCK (R485). -/
  | factoryUnlock (f : Frame) (tokenOk : Bool)
  /-- SAMPLER_TICK (R496). -/
  | samplerTick (g : Nat)
  /-- BOOT_VERIFY_DONE (R504). -/
  | bootVerifyDone (okA okB : Bool)
  /-- RAILS_UP (R504). -/
  | railsUp
  /-- PCIE_LINK_TRAINED (R530). -/
  | pcieLinkTrained (speed width : Nat) (flit : Bool)
  /-- CTX_SAVE_DONE (R348). -/
  | ctxSaveDone (res : Res)
  /-- CTX_RESTORE_DONE (R350). -/
  | ctxRestoreDone (res : Res) (image : HostBytes)
  /-- BUNCH_ACTIVATE (R322). -/
  | bunchActivate (f : Frame) (b : BitVec 32)
  /-- SET_BANK_KEEP (R413). -/
  | setBankKeep (f : Frame) (q : Nat) (keep : BitVec 17)
  /-- FLIT_SLOT (R363). -/
  | flitSlot (x : Nat)
  deriving DecidableEq, Repr

end Sys2Proof
end

