-- ==== Sys2Proof/Decode.lean ====
section
/-! DEFINITION. The commands that words spell. -/

namespace Sys2Proof

/-- The command that a word of `nbits` bits spells. The table of operations and events gives no row any bits: a command
is a register access, an instruction of a tile, a message, a pin or an event of a unit, with the operands its
constructor names, so no word spells one. -/
def decodeTableWord (nbits w : Nat) : Option Instr :=
  match nbits, w with
  | _, _ => none

end Sys2Proof
end

