-- ==== Sys2Proof/Machine/Bits.lean ====
section
/-! DEFINITION. Bit fields, little-endian bytes, saturating counts, halves of registers, and the sparse tables. -/

namespace Sys2Proof.Machine

/-- The `n` bits of `x` from bit `lo` up. -/
def fld (x lo n : Nat) : Nat := (x >>> lo) % 2 ^ n

/-- `x` with the `n` bits from `lo` up replaced by `v`. -/
def putFld (x lo n v : Nat) : Nat := x - fld x lo n * 2 ^ lo + v % 2 ^ n * 2 ^ lo

/-- The `n`-bit two's-complement value of `x`. -/
def sextNat (x n : Nat) : Int :=
  if (x % 2 ^ n).testBit (n - 1) then (x % 2 ^ n : Int) - (2 ^ n : Nat) else (x % 2 ^ n : Nat)

/-- A Bool as one bit. -/
def bit (b : Bool) : Nat := if b then 1 else 0

/-- A count that saturates at `max` (R319 and each counter's own limit). -/
def satAdd (max x k : Nat) : Nat := min max (x + k)

/-- The value of a little-endian byte string. -/
def ofBytes : List Byte → Nat
  | [] => 0
  | b :: bs => b.toNat + 256 * ofBytes bs

/-- The `n` little-endian bytes of a value. -/
def toBytes : Nat → Nat → List Byte
  | 0, _ => []
  | n + 1, v => BitVec.ofNat 8 v :: toBytes n (v / 256)

/-- A register write through a half leaves the other half unchanged (R11). A half's value stands in bits [31:0]. -/
def mergeHalf (acc : Acc) (old v : Word) : Word :=
  match acc with
  | .full => v
  | .lo => (old &&& 0xFFFFFFFF00000000) ||| (v &&& 0xFFFFFFFF)
  | .hi => (old &&& 0xFFFFFFFF) ||| (v <<< 32)

/-- The bits a write of a half presents to W1C and W1S fields: zero in the half not written (R11). -/
def halfBits (acc : Acc) (v : Word) : Word := mergeHalf acc 0 v

/-- Serial comparison over half the range (R31): `a` is later than `b`. -/
def seqLater (a b : BitVec 32) : Bool := 1 ≤ (a - b).toNat && (a - b).toNat < 2 ^ 31

/-- Entry `k` of a table, the default when it is not listed. -/
def tget {α : Type} (d : α) : Table α → Nat → α
  | [], _ => d
  | (k', v) :: r, k => if k' = k then v else tget d r k

/-- Write entry `k` at its place in the rising order of keys. -/
def tput {α : Type} : Table α → Nat → α → Table α
  | [], k, v => [(k, v)]
  | (k', w) :: r, k, v =>
    if k < k' then (k, v) :: (k', w) :: r
    else if k' = k then (k, v) :: r
    else (k', w) :: tput r k v

/-- Remove entry `k`. -/
def tdel {α : Type} (t : Table α) (k : Nat) : Table α := t.filter (fun p => p.1 != k)

/-- Keys rise strictly. -/
def tsorted {α : Type} : Table α → Bool
  | [] => true
  | [_] => true
  | (k, _) :: (k', w) :: r => k < k' && tsorted ((k', w) :: r)

/-- `i` when it holds in the list, by position. -/
def findIdx {α : Type} (p : α → Bool) : List α → Nat → Option Nat
  | [], _ => none
  | x :: xs, i => if p x then some i else findIdx p xs (i + 1)

/-- Replace the first element that satisfies `p`. -/
def updFirst {α : Type} (p : α → Bool) (f : α → α) : List α → List α
  | [] => []
  | x :: xs => if p x then f x :: xs else x :: updFirst p f xs

/-- Position of the `k`-th set bit of `x` among bits `i` to `i + n − 1`, counted from zero. -/
def nthBit (x : Nat) : Nat → Nat → Nat → Option Nat
  | 0, _, _ => none
  | n + 1, i, k =>
    if x.testBit i then (if k = 0 then some i else nthBit x n (i + 1) (k - 1)) else nthBit x n (i + 1) k

/-- Number of set bits among bits 0 to `n − 1`. -/
def popCount (x n : Nat) : Nat := ((List.range n).filter (fun i => x.testBit i)).length

/-- Lowest `k` positions of the first `n` that satisfy `p`, as a bit map. -/
def lowestBits (p : Nat → Bool) (n k : Nat) : Option Nat :=
  let l := ((List.range n).filter p).take k
  if l.length = k then some (l.foldl (fun a i => a + 2 ^ i) 0) else none

end Sys2Proof.Machine
end

