-- ==== Sys2Proof/Machine/Numbers.lean ====
section
/-! DEFINITION. Numbers: the formats of R74 to R84, exact values, rounding (R85 to R90) and the flags of R102. -/

namespace Sys2Proof.Machine

/-! ### Exact values -/

/-- The real number (p + q·√2)·2^e. -/
structure Ex where
  p : Int
  q : Int := 0
  e : Int := 0
  deriving DecidableEq, Repr

/-- A value on its way through arithmetic: NaN, an infinity, or a finite value; `nz` is the sign of a zero. -/
inductive Num where
  | nan
  | inf (neg : Bool)
  | fin (nz : Bool) (x : Ex)
  deriving DecidableEq, Repr

/-- x · 2^n for a natural n. -/
def shiftUp (x : Int) (n : Int) : Int := x * (2 ^ n.toNat : Nat)

def Ex.neg (a : Ex) : Ex := { a with p := -a.p, q := -a.q }

def Ex.add (a b : Ex) : Ex :=
  let e := min a.e b.e
  { p := shiftUp a.p (a.e - e) + shiftUp b.p (b.e - e), q := shiftUp a.q (a.e - e) + shiftUp b.q (b.e - e), e }

def Ex.mul (a b : Ex) : Ex := { p := a.p * b.p + 2 * (a.q * b.q), q := a.p * b.q + a.q * b.p, e := a.e + b.e }

/-- Sign of p + q·√2, as −1, 0 or 1. -/
def rootSign (p q : Int) : Int :=
  if q = 0 then p.sign
  else if p = 0 then q.sign
  else if p.sign = q.sign then p.sign
  else if 2 * q * q < p * p then p.sign else q.sign

def Ex.sign (a : Ex) : Int := rootSign a.p a.q
def Ex.isZero (a : Ex) : Bool := a.p == 0 && a.q == 0
def Ex.abs (a : Ex) : Ex := if a.sign < 0 then a.neg else a
def Ex.lt (a b : Ex) : Bool := (a.add b.neg).sign < 0

/-- Integer square root; `k` is at least half the bit length of `n`. -/
def isqrt : Nat → Nat → Nat
  | 0, _ => 0
  | k + 1, n =>
    let r := 2 * isqrt k (n / 4)
    if (r + 1) * (r + 1) ≤ n then r + 1 else r

/-- Floor of the square root. -/
def natSqrt (n : Nat) : Nat := isqrt (n.log2 / 2 + 1) n

/-- A positive value: n·2^e, or strictly between n·2^e and (n + 1)·2^e when `sticky`. -/
structure Mag where
  n : Nat
  sticky : Bool := false
  e : Int := 0
  deriving DecidableEq, Repr

/-- The magnitude of an exact value; a value with a √2 part is irrational and is given 300 further bits. -/
def Ex.mag (a : Ex) : Mag :=
  let b := a.abs
  if b.q = 0 then { n := b.p.natAbs, e := b.e }
  else
    let r := natSqrt (2 * b.q.natAbs * b.q.natAbs * 2 ^ 600)
    let v := b.p * (2 ^ 300 : Nat) + (if b.q < 0 then -(r : Int) - 1 else r)
    { n := v.toNat, sticky := true, e := b.e - 300 }

/-- floor(log2) of a positive magnitude. -/
def Mag.log2 (m : Mag) : Int := if m.n = 0 then m.e - 1 else m.e + m.n.log2

def Mag.isZero (m : Mag) : Bool := m.n == 0 && !m.sticky

/-! ### Rounding (R85, R90) -/

/-- A rounding mode; SR carries its 24-bit random value. -/
inductive Rnd where
  | rne | rtz | sr (r : Nat)
  deriving DecidableEq, Repr

/-- Round a magnitude to `mb` mantissa bits with no unit below 2^umin. Answers the code (the mantissa with exponent field
of a format whose smallest unit is 2^umin), the code of the lower neighbour, and whether the value is between codes. -/
def roundMag (mb : Nat) (umin : Int) (rnd : Rnd) (m : Mag) : Nat × Nat × Bool :=
  let u := max (m.log2 - mb) umin
  let base := (u - umin).toNat * 2 ^ mb
  if u ≤ m.e then
    let k := m.n * 2 ^ (m.e - u).toNat
    (base + k, base + k, m.sticky)
  else
    let d := (u - m.e).toNat
    let k := m.n / 2 ^ d
    let rem := m.n % 2 ^ d
    let inexact := rem != 0 || m.sticky
    let half := 2 ^ (d - 1)
    let up := match rnd with
      | .rne => half < rem || (rem == half && (m.sticky || k % 2 == 1))
      | .rtz => false
      | .sr r => inexact && r < rem * 2 ^ 24 / 2 ^ d
    (base + k + bit up, base + k, inexact)

/-! ### Flags (R102) -/

def flInvalid : Nat := 1
def flDivZero : Nat := 2
def flOverflow : Nat := 4
def flUnderflow : Nat := 8
def flInexact : Nat := 16
def flFold : Nat := 32
def flNanIn : Nat := 64
def flClamp : Nat := 128

/-! ### Formats (R74 to R81) -/

/-- A floating-point element format (R75). -/
structure Fmt where
  w : Nat
  mb : Nat
  bias : Nat
  top : Nat
  inf : Option Nat := none
  nan : Option Nat := none
  /-- a finite value beyond max becomes ±max (R86) -/
  sat : Bool := true
  deriving DecidableEq, Repr

def fp32 : Fmt := { w := 32, mb := 23, bias := 127, top := 0x7F7FFFFF, inf := some 0x7F800000, nan := some 0x7FC00000, sat := false }
def bf16 : Fmt := { w := 16, mb := 7, bias := 127, top := 0x7F7F, inf := some 0x7F80, nan := some 0x7FC0, sat := false }
def fp16 : Fmt := { w := 16, mb := 10, bias := 15, top := 0x7BFF, inf := some 0x7C00, nan := some 0x7E00, sat := false }
def e4m3 : Fmt := { w := 8, mb := 3, bias := 7, top := 0x7E, nan := some 0x7F }
def e5m2 : Fmt := { w := 8, mb := 2, bias := 15, top := 0x7B, inf := some 0x7C, nan := some 0x7E }
def e2m3 : Fmt := { w := 6, mb := 3, bias := 1, top := 0x1F }
def e3m2 : Fmt := { w := 6, mb := 2, bias := 3, top := 0x1F }
def e2m1 : Fmt := { w := 4, mb := 1, bias := 1, top := 7 }

/-- Element format code of a block format (R74). -/
def elemCode (c : Nat) : Nat := if 0x0B ≤ c && c ≤ 0x0F then c - 8 else c

/-- The floating-point format of a code; integers and PIP4 have none. -/
def fmtOf (c : Nat) : Fmt :=
  match elemCode c with
  | 0 => fp32
  | 1 => bf16
  | 2 => fp16
  | 3 => e4m3
  | 4 => e5m2
  | 5 => e2m3
  | 6 => e3m2
  | _ => e2m1

/-- A block format (R74). -/
def isBlock (c : Nat) : Bool := 0x0A ≤ c && c ≤ 0x0F

/-- Element bits of a format code (R74). -/
def widthOf (c : Nat) : Nat :=
  match elemCode c with
  | 0 => 32
  | 1 | 2 => 16
  | 3 | 4 | 8 => 8
  | 5 | 6 => 6
  | _ => 4

/-- A format of the exact class (R91). -/
def exactClass (c : Nat) : Bool := 3 ≤ c && c ≤ 0x0F

/-- Two to the power of an integer, as an exact value. -/
def pow2 (e : Int) : Ex := { p := 1, e }

/-- Magnitude of a PIP4 code (R80). -/
def pipMag (c : Nat) : Ex :=
  if c = 0 then { p := 0 }
  else if c % 2 = 0 then { p := 1, e := (c : Int) / 2 - 2 }
  else { p := 0, q := 1, e := ((c : Int) - 5) / 2 }

/-- Value of a floating-point code (R75, R78). -/
def decFp (f : Fmt) (bits : Nat) : Num :=
  let neg := bits.testBit (f.w - 1)
  let m := bits % 2 ^ (f.w - 1)
  let s : Int := if neg then -1 else 1
  if f.inf = some m then .inf neg
  else if f.top < m then .nan
  else if m / 2 ^ f.mb = 0 then .fin neg { p := s * m, e := 1 - (f.bias : Int) - f.mb }
  else .fin neg { p := s * (2 ^ f.mb + m % 2 ^ f.mb : Nat), e := (m / 2 ^ f.mb : Nat) - (f.bias : Int) - f.mb }

/-- Value of an element of a format code, without its block's scale (R75 to R81). -/
def decElem (c bits : Nat) : Num :=
  if c = 8 then .fin false { p := sextNat bits 8 }
  else if c = 9 then .fin false { p := sextNat bits 4 }
  else if c = 0x0A then
    let x := pipMag (bits % 8)
    .fin false (if bits.testBit 3 then x.neg else x)
  else decFp (fmtOf c) bits

/-- Value of an element of a block with scale byte `x` (R82). -/
def scaled (x : Nat) (v : Num) : Num :=
  if x = 0xFF then .nan
  else match v with
    | .fin nz a => .fin nz { a with e := a.e + (x : Int) - 127 }
    | v => v

/-- Value of an element of a format code with its block's scale byte. -/
def decScaled (c x bits : Nat) : Num := if isBlock c then scaled x (decElem c bits) else decElem c bits

/-! ### Writing a value (R86 to R89) -/

/-- A code with its sign bit. -/
def signed (w : Nat) (neg : Bool) (m : Nat) : Nat := m + bit neg * 2 ^ (w - 1)

/-- Round a non-zero magnitude to a floating-point format (R85, R86, R102): code and flags. -/
def encMag (f : Fmt) (rnd : Rnd) (neg : Bool) (m : Mag) : Nat × Nat :=
  let (c, lo, inexact) := roundMag f.mb (1 - (f.bias : Int) - f.mb) rnd m
  if f.top < c then
    let big := match f.inf with
      | some i => if f.sat || rnd == .rtz then f.top else i
      | none => f.top
    (signed f.w neg big, flOverflow + flInexact)
  else
    let above := f.top < lo || (lo == f.top && inexact)
    let under := inexact && m.log2 < 1 - (f.bias : Int)
    (signed f.w neg c, bit above * flOverflow + bit under * flUnderflow + bit inexact * flInexact)

/-- Write a value in a floating-point format (R86): code and flags. A zero keeps its sign only in IEEE 754 arithmetic
(R76), where `ieee` is set. -/
def encFp (f : Fmt) (rnd : Rnd) (ieee : Bool) (v : Num) : Nat × Nat :=
  match v with
  | .nan => match f.nan with
    | some n => (n, 0)
    | none => (0, flInvalid)
  | .inf neg => match f.inf with
    | some i => (signed f.w neg i, 0)
    | none => (signed f.w neg f.top, flOverflow)
  | .fin nz x => if x.isZero then (signed f.w (ieee && nz) 0, 0) else encMag f rnd (x.sign < 0) x.mag

/-- Write a value in an integer format of `w` bits (R79, R86). -/
def encInt (w : Nat) (rnd : Rnd) (v : Num) : Nat × Nat :=
  match v with
  | .nan => (0, flInvalid)
  | .inf neg => (if neg then 2 ^ (w - 1) else 2 ^ (w - 1) - 1, flOverflow)
  | .fin _ x =>
    let neg := x.sign < 0
    let top := if neg then 2 ^ (w - 1) else 2 ^ (w - 1) - 1
    let (k, lo, inexact) := roundMag 64 0 rnd x.mag
    let bits := fun (k : Nat) => if neg then (2 ^ w - k) % 2 ^ w else k
    if top < k then (bits top, flOverflow + flInexact)
    else
      (bits k, bit (top < lo || (lo == top && inexact)) * flOverflow + bit (inexact && k == 0) * flUnderflow
        + bit inexact * flInexact)

/-- Round a positive value to a PIP4 code (R87; R85 and R90 give the other modes): the code, whether the value lies between
codes, and whether it lies above 2^1.5. -/
def roundPip (rnd : Rnd) (x : Ex) : Nat × Bool × Bool :=
  if (pipMag 7).lt x then (7, true, true)
  else
    let c := ((List.range 8).filter (fun c => !x.lt (pipMag c))).length - 1
    let lo := pipMag c
    let hi := pipMag (c + 1)
    if (x.add lo.neg).isZero then (c, false, false)
    else
      let up := match rnd with
        | .rne =>
          let s := ((x.mul (pow2 1)).add (lo.add hi).neg).sign
          0 < s || (s == 0 && c % 2 == 1)
        | .rtz => false
        | .sr r => !((x.add lo.neg).mul (pow2 24)).lt ((hi.add lo.neg).mul { p := r + 1 })
      (if up then c + 1 else c, true, false)

/-- Write one value in a format that is not a block format (R85, R86). -/
def encElem (c : Nat) (rnd : Rnd) (v : Num) : Nat × Nat :=
  if c = 8 then encInt 8 rnd v else if c = 9 then encInt 4 rnd v else encFp (fmtOf c) rnd false v

/-- ceil(log2) of the square of a positive value whose p or q is zero, or that is irrational. -/
def Ex.clog2sq (x : Ex) : Int :=
  let y := x.mul x
  let m := y.mag
  if m.sticky || m.n != 2 ^ m.n.log2 then m.log2 + 1 else m.log2

/-- Scale exponent of one value of a block (R88, R89). -/
def blockExp (c : Nat) (x : Ex) : Int :=
  if c = 0x0A then -((3 - x.clog2sq) / 2)
  else
    let emax : Int := match elemCode c with
      | 3 => 8
      | 4 => 15
      | 6 => 4
      | _ => 2
    x.abs.mag.log2 - emax

/-- Greatest scale exponent of the finite non-zero values of a block, none when there is none. -/
def blockMax (c : Nat) (vs : List (Option Num)) : Option Int :=
  vs.foldl (fun a v =>
    match v with
    | some (.fin _ x) =>
      if x.isZero then a
      else match a with
        | none => some (blockExp c x)
        | some k => some (max k (blockExp c x))
    | _ => a) none

/-- Write one value of a block whose scale exponent is `k` (R86 to R89). PIP4 has no smallest normal: UNDERFLOW is set there only
for a value that becomes zero (R102; DEDUCED, log 163). -/
def encInBlock (c : Nat) (rnd : Rnd) (k : Int) (clamped : Bool) (v : Num) : Nat × Nat :=
  match v with
  | .nan => (0, 0)
  | .inf neg => if c = 0x0A then (signed 4 neg 7, flOverflow) else
    let f := fmtOf c
    (signed f.w neg f.top, flOverflow)
  | .fin _ x =>
    if x.isZero then (0, 0)
    else
      let y := { x with e := x.e - k }
      let neg := x.sign < 0
      if c = 0x0A then
        let (i, inexact, above) := roundPip rnd y.abs
        (if i = 0 then 0 else signed 4 neg i,
          bit inexact * flInexact + bit (inexact && i == 0) * flUnderflow
            + bit (above && clamped && k == 127) * flOverflow)
      else
        let f := fmtOf c
        let (b, fl) := encMag { f with sat := true } rnd neg y.mag
        (b, fl - (fl &&& flOverflow))

/-- The clamped scale exponent of a block and whether the clamp changed it (R88, R89). -/
def clampExp (k : Int) : Int × Bool :=
  if 127 < k then (127, true) else if k < -127 then (-127, true) else (k, false)

/-- Write a block (R86, R88, R89): scale byte, element codes, flags. Values that are none are not written. A block that holds a
NaN raises no flag, for its other elements neither (R86; DESIGN CHOICE, log 164). -/
def encBlock (c : Nat) (rnd : Nat → Rnd) (vs : List (Option Num)) : Nat × List (Option Nat) × Nat :=
  if vs.any (fun v => v == some .nan) then (0xFF, vs.map (fun v => v.map (fun _ => 0)), 0)
  else
    let (k, cl) := match blockMax c vs with
      | none => (0, false)
      | some k => clampExp k
    let es := ((List.range vs.length).zip vs).map (fun (i, v) => v.map (encInBlock c (rnd i) k cl))
    let fl := es.foldl (fun a e => match e with | some x => a ||| x.2 | none => a) (bit cl * flClamp)
    ((k + 127).toNat, es.map (fun e => e.map Prod.fst), fl)

end Sys2Proof.Machine
end

