-- ==== Sys2Proof/Machine/Functions.lean ====
section
/-! DEFINITION. FP32 arithmetic (R212) and the special functions of R213, correctly rounded. A transcendental value is
computed in fixed point with 1,024 fractional bits, which no FP32 input's rounding boundary approaches (log 22). -/

namespace Sys2Proof.Machine

/-! ### FP32 arithmetic -/

/-- An FP32 code as a value. -/
def f32 (b : Nat) : Num := decFp fp32 b

/-- A rounded FP32 result and its flags. -/
abbrev FRes := Nat × Nat

def rnd32 (v : Num) : FRes := encFp fp32 .rne true v

/-- A NaN that no operand was: it sets INVALID (R102). -/
def newNan : FRes := (0x7FC00000, flInvalid)

/-- The exact sum of two finite values with the sign IEEE 754 gives a zero. -/
def addFin (n1 : Bool) (a : Ex) (n2 : Bool) (b : Ex) : Num :=
  .fin (a.isZero && b.isZero && n1 && n2) (a.add b)

/-- The exact sum, none where infinities of opposite signs meet. -/
def addNum (a b : Num) : Option Num :=
  match a, b with
  | .nan, _ | _, .nan => some .nan
  | .inf x, .inf y => if x = y then some (.inf x) else none
  | .inf x, _ => some (.inf x)
  | _, .inf y => some (.inf y)
  | .fin n1 x, .fin n2 y => some (addFin n1 x n2 y)

/-- Round an exact result to FP32; none is a new NaN. -/
def res32 : Option Num → FRes
  | some v => rnd32 v
  | none => newNan

def fAdd (a b : Num) : FRes := res32 (addNum a b)

/-- Sign of a value, counting the sign of a zero. -/
def Num.neg : Num → Bool
  | .nan => false
  | .inf n => n
  | .fin nz x => if x.isZero then nz else x.sign < 0

def Num.isZero : Num → Bool
  | .fin _ x => x.isZero
  | _ => false

/-- The exact product, none where an infinity meets a zero. -/
def mulNum (a b : Num) : Option Num :=
  let n := a.neg != b.neg
  match a, b with
  | .nan, _ | _, .nan => some .nan
  | .fin _ x, .fin _ y => some (.fin n (x.mul y))
  | _, _ => if a.isZero || b.isZero then none else some (.inf n)

def fMul (a b : Num) : FRes := res32 (mulNum a b)

/-- a × b + c with one rounding. -/
def fFma (a b c : Num) : FRes :=
  match mulNum a b with
  | none => if c = .nan then rnd32 .nan else newNan
  | some p => fAdd p c

def Num.negate : Num → Num
  | .nan => .nan
  | .inf n => .inf (!n)
  | .fin nz x => .fin (!nz) x.neg

def fSub (a b : Num) : FRes := fAdd a b.negate

/-- Total order of R212's MIN and MAX on values that are not NaN: −0 below +0. -/
def Num.below (a b : Num) : Bool :=
  match a, b with
  | .inf x, .inf y => x && !y
  | .inf x, _ => x
  | _, .inf y => !y
  | .fin n1 x, .fin n2 y => if x.isZero && y.isZero then n1 && !n2 else x.lt y
  | _, _ => false

/-- MIN and MAX of R212. -/
def fMin (a b : Num) : Num := if a = .nan then b else if b = .nan then a else if b.below a then b else a
def fMax (a b : Num) : Num := if a = .nan then b else if b = .nan then a else if a.below b then b else a

/-- Comparison of R212's `vcmp`: 0 EQ, 1 NE, 2 LT, 3 LE. -/
def fCmp (fn : Nat) (a b : Num) : Bool :=
  if a = .nan || b = .nan then fn == 1
  else
    let eq := (a.isZero && b.isZero) || (!a.below b && !b.below a)
    match fn with
    | 0 => eq
    | 1 => !eq
    | 2 => !eq && a.below b
    | _ => eq || a.below b

/-! ### Fixed point -/

/-- Fractional bits. -/
def fxBits : Nat := 1024
def fxOne : Nat := 2 ^ fxBits

/-- Sum of z^(2i+1)/(2i+1) for odd powers, in fixed point. -/
def atanhSum : Nat → Nat → Nat → Nat → Nat
  | 0, _, _, _ => 0
  | n + 1, zz, pow, k => pow / k + atanhSum n zz (pow * zz / fxOne) (k + 2)

/-- atanh of a fixed-point z of at most 1/3. -/
def fxAtanh (z : Nat) : Nat := atanhSum 340 (z * z / fxOne) z 1

/-- ln 2 = 2 · atanh(1/3). -/
def fxLn2 : Nat := 2 * fxAtanh (fxOne / 3)

/-- Taylor sum of e^r from term k up. -/
def expSum : Nat → Nat → Nat → Nat → Nat
  | 0, _, _, _ => 0
  | n + 1, r, term, k => term + expSum n r (term * r / fxOne / k) (k + 1)

/-- Square a fixed-point value n times. -/
def sqTimes : Nat → Nat → Nat
  | 0, x => x
  | n + 1, x => sqTimes n (x * x / fxOne)

/-- e^r for 0 ≤ r < 1. -/
def fxExp (r : Nat) : Nat := sqTimes 16 (expSum 64 (r / 2 ^ 16) fxOne 1)

/-- A rational value in fixed point, rounded down. -/
def Ex.fx (a : Ex) : Int := if 0 ≤ a.e + fxBits then shiftUp a.p (a.e + fxBits) else a.p / (2 ^ (-(a.e + fxBits)).toNat : Nat)

/-- e^y for a non-zero rational y with |y| ≤ 200, as a magnitude. -/
def expMag (y : Int) : Mag :=
  let k := y / (fxLn2 : Int)
  { n := fxExp (y - k * fxLn2).toNat, sticky := true, e := k - fxBits }

/-- A positive value below every representable one. -/
def tinyMag : Mag := { n := 0, sticky := true, e := -400 }

/-- A magnitude in fixed point. -/
def Mag.fx (m : Mag) : Nat :=
  if 0 ≤ m.e + fxBits then m.n * 2 ^ (m.e + fxBits).toNat else m.n / 2 ^ (-(m.e + fxBits)).toNat

/-- e^−|y| in fixed point, at least one unit. -/
def expNeg (y : Ex) : Nat :=
  if (pow2 8).lt y.abs then 1 else max 1 (expMag (-(y.abs.fx))).fx

/-- A rounded positive or negative irrational result. -/
def irr (neg : Bool) (m : Mag) : FRes := encMag fp32 .rne neg m

/-! ### Special functions (R213) -/

def fExp (v : Num) : FRes :=
  match v with
  | .nan => rnd32 .nan
  | .inf neg => if neg then (0, 0) else rnd32 (.inf false)
  | .fin _ y =>
    if y.isZero then rnd32 (.fin false { p := 1 })
    else if (pow2 7).lt y then irr false { n := 1, sticky := true, e := 180 }
    else if y.lt (pow2 7).neg then irr false tinyMag
    else irr false (expMag y.fx)

/-- ln of a positive rational value, as a fixed-point integer: the mantissa in [1, 2) gives 2·atanh((m − 1)/(m + 1)). -/
def fxLn (y : Ex) : Int :=
  let n := y.p.toNat
  let l := n.log2
  let z := (n - 2 ^ l) * fxOne / (n + 2 ^ l)
  (2 * fxAtanh z : Nat) + (y.e + l) * (fxLn2 : Int)

def fLog (v : Num) : FRes :=
  match v with
  | .nan => rnd32 .nan
  | .inf neg => if neg then newNan else rnd32 (.inf false)
  | .fin _ y =>
    if y.isZero then (0xFF800000, flDivZero)
    else if y.sign < 0 then newNan
    else if (y.add (pow2 0).neg).isZero then (0, 0)
    else
      let l := fxLn y
      irr (l < 0) { n := l.natAbs, sticky := true, e := -(fxBits : Int) }

def fRcp (v : Num) : FRes :=
  match v with
  | .nan => rnd32 .nan
  | .inf neg => rnd32 (.fin neg { p := 0 })
  | .fin nz y =>
    if y.isZero then (signed 32 nz 0x7F800000, flDivZero)
    else
      let m := y.p.natAbs
      irr (y.sign < 0) { n := 2 ^ 200 / m, sticky := 2 ^ 200 % m != 0, e := -200 - y.e }

def fRsqrt (v : Num) : FRes :=
  match v with
  | .nan => rnd32 .nan
  | .inf neg => if neg then newNan else (0, 0)
  | .fin nz y =>
    if y.isZero then (signed 32 nz 0x7F800000, flDivZero)
    else if y.sign < 0 then newNan
    else
      let odd := (y.e % 2).toNat
      let m := y.p.toNat * 2 ^ odd
      let e := (y.e - odd) / 2
      let n := natSqrt (2 ^ 400 / m)
      irr false { n, sticky := n * n * m != 2 ^ 400, e := -200 - e }

def fSigmoid (v : Num) : FRes :=
  match v with
  | .nan => rnd32 .nan
  | .inf neg => if neg then (0, 0) else rnd32 (.fin false { p := 1 })
  | .fin _ y =>
    if y.isZero then rnd32 (.fin false { p := 1, e := -1 })
    else
      let x := expNeg y
      let top := if y.sign < 0 then x else fxOne
      irr false { n := top * fxOne / (fxOne + x), sticky := true, e := -(fxBits : Int) }

/-- tanh of a zero is +0 by R76 (log 23). -/
def fTanh (v : Num) : FRes :=
  match v with
  | .nan => rnd32 .nan
  | .inf neg => rnd32 (.fin neg { p := if neg then -1 else 1 })
  | .fin _ y =>
    if y.isZero then (0, 0)
    else
      let x := expNeg (y.mul (pow2 1))
      irr (y.sign < 0) { n := (fxOne - x) * fxOne / (fxOne + x), sticky := true, e := -(fxBits : Int) }

def fRelu (v : Num) : FRes :=
  match v with
  | .nan => rnd32 .nan
  | v => if v.neg then (0, 0) else rnd32 v

def fLeaky (v : Num) (param : Nat) : FRes :=
  match v with
  | .nan => rnd32 .nan
  | v => if v.neg && !v.isZero then fMul v (f32 param) else rnd32 v

/-- One step after another, joining flags. -/
def fThen (a : FRes) (f : Num → FRes) : FRes :=
  let b := f (f32 a.1)
  (b.1, a.2 ||| b.2)

def fSilu (v : Num) : FRes := if v = .nan then rnd32 .nan else fThen (fSigmoid v) (fMul v)

/-- GELU_T: the sequence of R213. -/
def fGelu (y : Num) : FRes :=
  if y = .nan then rnd32 .nan
  else
    let t := fThen (fMul y y) (fun t => fMul t y)
    let t := fThen t (fun t => fFma (f32 0x3D372713) t y)
    let t := fThen t (fun t => fMul t (f32 0x3F4C422A))
    let t := fThen t fTanh
    let t := fThen t (fun t => fAdd t (f32 0x3F800000))
    let t := fThen t (fun t => fMul t y)
    fThen t (fun t => fMul t (f32 0x3F000000))

/-- A special function by its FN (R213). -/
def special (fn : Nat) (param : Nat) (v : Num) : FRes :=
  match fn with
  | 0 => fExp v
  | 1 => fLog v
  | 2 => fRcp v
  | 3 => fRsqrt v
  | 4 => fSigmoid v
  | 5 => fTanh v
  | 6 => fRelu v
  | 7 => fLeaky v param
  | 8 => fSilu v
  | _ => fGelu v

end Sys2Proof.Machine
end

