-- ==== Sys2Proof/Machine/State.lean ====
section
/-! DEFINITION. The state of one K9 module as plain data. Each field's docstring names the rule that gives the
machine the field, its width, and its value at reset. `Table` fields hold numbered instances; an unlisted instance
is at its reset value. -/

namespace Sys2Proof.Machine

/-! ### Tiles: control core -/

/-- A completion token (R46, R177, R178). -/
structure Tok where
  /-- state, 2 bits; R46; reset FREE 0 (R47). -/
  st : Nat := 0
  /-- TOKEN_DETAIL, 16 bits; R177; reset 0. -/
  det : BitVec 16 := 0
  /-- the ERROR was waited on or polled, 1 bit; R50, R178; reset no. -/
  acked : Bool := false
  deriving DecidableEq, Repr

/-- A pacer comparator (R63). -/
structure Cmp where
  /-- armed since kernel entry or since its last clear, 1 bit; R63, R222; reset no. -/
  armed : Bool := false
  /-- armed value, 64 bits; R63; reset 0. -/
  val : Word := 0
  /-- fired, 1 bit; R63; reset no. -/
  fired : Bool := false
  deriving DecidableEq, Repr

/-- Why a control core does not retire its next instruction. -/
inductive Stall where
  /-- runs -/
  | none
  /-- waits for load data (R207): destination register (or descriptor when td), bytes, sign, location -/
  | load (td : Bool) (rd : Nat) (bytes : Nat) (signed : Bool) (va : Word)
  /-- a store whose packets a failed router cut, until its source resolves it (R267, R268) -/
  | lost
  /-- `wait` on a PENDING token (R47) -/
  | wait (k : Nat)
  /-- `fence.wait` (R208): result register, fence, value -/
  | fence (rd f : Nat) (v : BitVec 32)
  /-- `intake.take` (R157): result register, intake -/
  | intake (rd i : Nat)
  /-- `pace.wait` (R222) -/
  | pace (c : Nat)
  /-- a full engine queue (R45): the two words -/
  | queue (w x : Word)
  /-- `sys.exit` waiting for tokens (R50), or a stopped kernel waiting under R50 -/
  | exit
  deriving DecidableEq, Repr

/-- One launch as it reaches a tile (R190, R293). -/
structure Launch where
  q : Nat
  seq : BitVec 32
  ctx : Nat
  /-- the scope's bunch and, for SCOPE 1, its leaf rank -/
  scope : BitVec 32
  one : Option Nat
  code : Word
  budget : BitVec 32
  args : List Word
  layer : BitVec 16
  op : BitVec 16
  ordinal : Nat
  /-- frames of the PAGED segments as the consumed LAUNCH recorded them (R244) -/
  frames : Table (List Nat) := []
  deriving DecidableEq, Repr

/-- The running kernel of a tile: what R175 fixes at dispatch. -/
structure Run where
  slot : Nat
  launch : Launch
  rank : Nat
  size : Nat
  depth : Nat
  epoch : BitVec 16
  bunch : BitVec 32
  gen : BitVec 32
  /-- member rank of the tile in `bunch`, which its messages carry (R188, R189) -/
  mrank : Nat
  /-- pacer count at step 5 of R69 -/
  start : Word
  /-- watchdog budget left when the bunch was halted (R347) -/
  left : Option Word
  conf : Bool
  deriving DecidableEq, Repr

/-- The reason that stopped a kernel (R196): status, trap code, and whether it was a safety stop. -/
structure Stop where
  status : BitVec 16
  trap : Nat := 0
  safety : Bool := false
  deriving DecidableEq, Repr

/-- The control core and register files of a tile. -/
structure Core where
  /-- the running kernel; R69; reset none. -/
  run : Option Run := none
  /-- program counter, 64 bits; R190, R206; reset 0 DESIGN CHOICE (log 3). -/
  pc : Word := 0
  /-- g0 to g31, 64 bits each; R169; reset 0 (R67). -/
  g : Table Word := []
  /-- p0 to p7, 1 bit each; R169; reset p0 reads one, others 0. -/
  p : BitVec 8 := 0
  /-- v0 to v31, 32768 bits each; R169; reset 0. -/
  v : Table (BitVec 32768) := []
  /-- m0 to m7, 1024 bits each; R169; reset 0. -/
  m : Table (BitVec 1024) := []
  /-- td0 to td15, 256 bits each; R169, R173; reset 0. -/
  td : Table (BitVec 256) := []
  /-- k0 to k15; R169, R46; reset FREE. -/
  tok : Table Tok := []
  /-- comparators 0 to 7; R63; reset clear. -/
  comps : Table Cmp := []
  /-- sixteen segment registers, 256 bits each; R66; reset 0. -/
  segs : Table (BitVec 256) := []
  /-- ranges that the LPDDR segment registers name, by identity, as kernel entry took them; R66, R181, R238; reset none. -/
  names : Table (List Nat × List Nat) := []
  /-- sticky flags of the kernel, 16 bits; R175, R102; reset 0. -/
  flags : BitVec 16 := 0
  /-- LAYER_ID, 16 bits; R175; reset 0. -/
  layer : BitVec 16 := 0
  /-- OP_ID, 16 bits; R175; reset 0. -/
  op : BitVec 16 := 0
  /-- why the core waits; R45, R47, R207; reset none. -/
  stall : Stall := .none
  /-- the reason that stopped the kernel; R196; reset none. -/
  stop : Option Stop := none
  /-- an unacknowledged ERROR was reissued to; R50; reset no. -/
  unacked : Bool := false
  /-- barriers and collectives issued by the kernel; R185; reset 0. -/
  colls : Nat := 0
  /-- halted at an instruction boundary; R346; reset no. -/
  halted : Bool := false
  /-- routes of the request that a stalled load has out, and of its reply; R267, R268; reset none. -/
  loadRoutes : List (List Nat) := []
  /-- route-arounds that the load's routes did not survive: 1 retried, 2 lost; R268; reset 0. -/
  loadLost : Nat := 0
  /-- the load's packets met a failed router as they went out; R267; reset no. -/
  loadCut : Bool := false
  /-- fence signals issued and not yet arrived at their fence, oldest first: fence, value and signalling context; R184, R208, R441;
  reset none. -/
  sigs : List (Nat × BitVec 32 × Nat) := []
  deriving DecidableEq, Repr

/-! ### Tiles: engines -/

/-- A message that an operation has yet to send (R366): `info` names what an answer to it settles. -/
structure Outgoing where
  dst : Nat
  cls : Nat
  chan : Nat
  len : Nat
  param : BitVec 64
  payload : List Byte
  info : Nat := 0
  /-- the credit its receiver gives for it: 1 message, 2 pool, 0 none (R366) -/
  kind : Nat := 0
  deriving DecidableEq, Repr

/-- A message sent and not yet answered (R370). -/
structure Sent where
  dst : Nat
  seq : Nat
  cls : Nat
  info : Nat := 0
  /-- the credit its receiver gives for it: 1 message, 2 pool, 0 none (R366) -/
  kind : Nat := 0
  /-- a GET_REQ that was sent again when its quad went DOWN (R378) -/
  again : Bool := false
  deriving DecidableEq, Repr

/-- One engine operation that holds a queue slot (R45). `eng` is numbered as R177 numbers engines. -/
structure EngOp where
  id : Nat
  eng : Nat
  kd : Nat
  w : Word
  x : Word
  /-- register operands copied at issue (R203): g values in the order RA, RB, RC, then the extension word's -/
  ga : Word := 0
  gb : Word := 0
  gc : Word := 0
  ge : Word := 0
  gf : Word := 0
  /-- descriptors copied at issue (R174): RA, RB, RC -/
  ta : BitVec 256 := 0
  tb : BitVec 256 := 0
  tc : BitVec 256 := 0
  started : Bool := false
  /-- a dispatch-unit operation has begun: it reads memory and sends (R48, R203) -/
  begun : Bool := false
  /-- the accumulators it continues or fills (R112, R116) -/
  cont : Bool := false
  /-- waits for a comparator (some true c) or a mover's operation (some false id) (R211) -/
  trig : Option (Bool × Nat) := none
  /-- ends in ERROR with this detail code -/
  err : Option Nat := none
  flags : BitVec 16 := 0
  /-- messages not yet sent, in order -/
  todo : List Outgoing := []
  /-- messages sent and not yet answered (R370) -/
  unans : List Sent := []
  /-- SEQ of the failing answer that set `err` (R374) -/
  errSeq : Nat := 0
  /-- parts of a collective already landed (R375) -/
  heard : List Nat := []
  /-- count of the barrier or collective within the kernel (R185) -/
  ordinal : Nat := 0
  /-- routes of a mover's reads and of its writes, with those of their replies, by the tables in force at its start (R268) -/
  routesR : List (List Nat) := []
  routesW : List (List Nat) := []
  /-- what a route-around did to it: 1 its reads were retried, 2 it lost requests (R268) -/
  lost : Nat := 0
  /-- it waits for injection to resume (R267) -/
  held : Bool := false
  /-- packets of it met a failed router as they went out (R267) -/
  cut : Bool := false
  /-- messages of its tile that were on their way to its endpoints on its channels when it started (R261) -/
  behind : List Msg := []
  /-- the 64 bytes of its dispatch descriptor, as it read them (R160) -/
  dd : Nat := 0
  deriving DecidableEq, Repr

/-- What a mover did last since kernel entry (R211). -/
structure MoverSt where
  /-- id of the operation most recently issued to the mover, 0 for none; R211; reset none. -/
  last : Nat := 0
  /-- 0 running, 1 DONE, 2 ERROR; R211; reset 0. -/
  res : Nat := 0
  deriving DecidableEq, Repr

/-- A long accumulator (R93) with its fold counters (R127), or the working accumulator W of R100. -/
structure Accum where
  /-- P, 128-bit two's complement; R93; reset 0. -/
  p : Int := 0
  /-- Q, 128-bit two's complement; R93; reset 0. -/
  q : Int := 0
  /-- anchor A; R93; reset 0. -/
  a : Int := 0
  /-- ANCHORED; R93; reset 0. -/
  anchored : Bool := false
  /-- NAN, PINF, NINF; R93; reset 0. -/
  nan : Bool := false
  pinf : Bool := false
  ninf : Bool := false
  /-- fold counters of the two lanes, 32 bits saturating; R127; reset 0. -/
  foldP : Nat := 0
  foldQ : Nat := 0
  /-- working accumulator W of R100 as significand and exponent; R100; reset 0. -/
  wm : Int := 0
  we : Int := 0
  deriving DecidableEq, Repr

/-- The held set of the tensor engine (R115, R116). -/
structure HeldSet where
  /-- the D descriptor that created it (base, shape, stride, format) -/
  d : BitVec 256
  /-- true for the BF16 or FP16 path, with the operand format -/
  wide : Bool
  fmt : Nat
  /-- one accumulator per output element, key row × N + column -/
  accs : Table Accum
  /-- one checksum accumulator per row and array column block (R126), key row × 4 + block -/
  chks : Table Accum
  deriving DecidableEq, Repr

/-! ### Tiles: slots, standby, swaps -/

/-- A context slot (R67). -/
structure Slot where
  /-- VALID, 1 bit; R67; reset 0. -/
  valid : Bool := false
  /-- CONTEXT_ID, 10 bits; R67; reset 0. -/
  ctx : Nat := 0
  /-- SLOT_SHARE, 256 bits; R55, R67; reset 0. -/
  share : BitVec 256 := 0
  /-- DEADLINE, 64 bits; R64; reset no deadline DEDUCED (log 12); reads 0 while not VALID (R73). -/
  deadline : Word := BitVec.allOnes 64
  /-- SLOT_FLAGS, 16 bits; R67, R103; reset 0. -/
  flags : BitVec 16 := 0
  /-- pending-launch FIFO, at most 8; R67, R68; reset empty. -/
  fifo : List Launch := []
  deriving DecidableEq, Repr

/-- A standby entry (R383). -/
structure Standby where
  ctx : Nat
  rank : Nat
  granules : Nat
  deadline : Word
  /-- EMPTY: its first swap-in reads nothing (R385) -/
  empty : Bool
  fifo : List Launch
  flags : BitVec 16
  /-- lines of the share that were written when it left residence (R387 step 3) -/
  lines : List Nat
  /-- those of them that were uncorrectable then (R57) -/
  bad : List Nat := []
  deriving DecidableEq, Repr

/-- A swap in progress (R387): the incoming entry's context, none when CTX_SHARE of a pinned context made it (R385 step 3), the reserved
slot, the victims' slots, and the free granules that it has reserved. -/
structure Swap where
  ctx : Option Nat
  slot : Nat
  victims : List Nat
  bm : BitVec 256 := 0
  deriving DecidableEq, Repr

/-! ### Tiles: dispatch unit receive path -/

/-- A batch released by an intake (R157). -/
structure Batch where
  start : Nat
  count : Nat
  last : Bool
  spilled : Bool
  lost : Bool
  deriving DecidableEq, Repr

/-- An intake (R154 to R158). -/
structure Intake where
  /-- open, 1 bit; R154; reset no. -/
  isOpen : Bool := false
  /-- opened since module reset, 1 bit; R158; reset no. -/
  ever : Bool := false
  /-- ROUND last opened, 16 bits; R158; reset 0. -/
  round : BitVec 16 := 0
  /-- the 64-byte intake descriptor, 512 bits; R154; reset 0. -/
  desc : BitVec 512 := 0
  /-- rows accepted into the buffer this round; R156; reset 0. -/
  rows : Nat := 0
  /-- rows of the buffer already released in batches this round; R157; reset 0. -/
  filled : Nat := 0
  /-- parts of a row of several messages, by origin; R165; reset none. -/
  parts : Table (List Byte) := []
  /-- buffer slots in use (filled or released and not freed); R157; reset none. -/
  busy : List Nat := []
  /-- rows at SPILL_VA; R160; reset 0. -/
  spill : Nat := 0
  /-- origins whose marker has arrived; R157; reset none. -/
  markers : List Nat := []
  /-- rows within quota accepted from each origin; R168; reset 0. -/
  counts : Table Nat := []
  /-- BLOCK rows that occupy the pool, by buffer slot; R160; reset none. -/
  pool : Table Nat := []
  /-- released batches not yet taken; R157; reset none. -/
  released : List Batch := []
  /-- the batch taken last; R157; reset none. -/
  taken : Option Batch := none
  /-- the round has closed; R157; reset no. -/
  closed : Bool := false
  /-- the LAST batch has been taken; R209; reset no. -/
  lastTaken : Bool := false
  /-- rows dropped for the quota, over all rounds; R168; reset 0. No register of the spec shows the count
  (DESIGN CHOICE, log 149). -/
  breaches : Nat := 0
  deriving DecidableEq, Repr

/-- The combine state of one round at an origin (R163, R164). -/
structure Round where
  /-- ROUND, 16 bits -/
  round : BitVec 16
  /-- combine buffer VA, K and RET_BYTES of the dispatch descriptor -/
  cb : Word
  k : Nat
  retBytes : Nat
  /-- slots (row × 8 + slot) sent: 0 waiting, 1 returned, 2 dropped, 3 failed -/
  slots : Table Nat
  /-- origin rank of each waiting slot's host: destination rank -/
  dests : Table Nat
  deriving DecidableEq, Repr

/-- A tile (R44 to R73, R383). -/
structure Tile where
  /-- role, 2 bits; R15; reset SERVING 0 until R16 assigns it DESIGN CHOICE (log 4). -/
  role : Nat := 0
  /-- endpoint refuses traffic, 1 bit; R270, R352; reset 0. -/
  refusing : Bool := false
  /-- a handshake stall fault is latched, 1 bit; R71; reset 0. -/
  stallFault : Bool := false
  core : Core := {}
  /-- engine operations holding queue slots, in issue order; R44, R45; reset none. -/
  ops : List EngOp := []
  /-- id of the next engine operation; model's own; R211; reset 1. -/
  nextId : Nat := 1
  /-- movers 0 to 7; R211; reset idle. -/
  movers : Table MoverSt := []
  /-- held set; R115; reset none. -/
  held : Option HeldSet := none
  /-- slots 0 to 15; R67; reset not VALID. -/
  slots : Table Slot := []
  /-- standby entries, at most 48; R383; reset none. -/
  standby : List Standby := []
  /-- swap in progress; R388; reset none. -/
  swap : Option Swap := none
  /-- granules being cleared and the slot they join (none when released); R60, R61; reset none. -/
  clearing : List (BitVec 256 × Option Nat) := []
  /-- intakes 0 to 3; R154; reset closed. -/
  intakes : Table Intake := []
  /-- early and waiting messages at the receive path; R158, R161; reset none. -/
  early : List Msg := []
  /-- unmatched SEND messages, at most 64; R219; reset none. -/
  unmatched : List Msg := []
  /-- barrier and collective contributions held; R191; reset none. -/
  contribs : List Msg := []
  /-- rounds sent and not yet summed; R164; reset none. -/
  rounds : List Round := []
  /-- parts of a return of several messages, by source rank; R165; reset none. -/
  retParts : Table (List Byte) := []
  /-- credits received and not yet used, by kind × 2^24 + rank they came from; R219, R160, R366; reset none. -/
  credits : Table Nat := []
  /-- CE_COUNT, 24 bits; R71; reset 0. -/
  ce : Nat := 0
  /-- UE_COUNT, 16 bits; R71; reset 0. -/
  ue : Nat := 0
  /-- LAST_UE_BANK, 6 bits; R71; reset 0. -/
  ueBank : Nat := 0
  /-- SWAPS, 16 bits; R397; reset 0. -/
  swaps : Nat := 0
  /-- OVER_BUDGET, 16 bits; R397; reset 0. -/
  overBudget : Nat := 0
  /-- WATCHDOGS, 16 bits; R397; reset 0. -/
  watchdogs : Nat := 0
  /-- bytes that its master moved at memory ports since step 5 of R69; R410; reset 0. -/
  memBytes : Nat := 0
  /-- module time at which the tile's uncore powered up, 64 bits: pacer = time − base; R62; reset 0 DESIGN CHOICE (log 5). -/
  base : Word := 0
  /-- Packets held in the endpoint buffer (R258, R415); reset 0. -/
  buffered : Nat := 0
  /-- messages held in the endpoint buffer: for a tile that sleeps, or whose shares move (R258, R329); reset none. -/
  endBuf : List Msg := []
  /-- accepts no further launch: a graft drains the tile, a turn is overdue (R326 step 1, R454, R456); reset no. -/
  noLaunch : Bool := false
  deriving DecidableEq, Repr

/-! ### Host interface -/

/-- Where an address operand leads after translation (R239): names that survive a graft. -/
inductive Loc where
  /-- the share of a context on the tile that runs its kernel, at a share offset (R234) -/
  | own (t ctx off : Nat)
  /-- the share of a rank of the context's bunch (R234, R310) -/
  | share (ctx rank off : Nat)
  /-- SHARED_SHARE: first rank, bytes per member, base, offset (R235) -/
  | slices (ctx first slice base off : Nat)
  /-- the ranges of an LPDDR segment in the order of its ports, by identity, and their mirrors, at BASE + offset
  (R229, R236, R237) -/
  | range (ranges mirrors : List Nat) (off : Nat)
  /-- host memory (R231) -/
  | host (pasid : BitVec 20) (iova : Nat)
  /-- recorded leaf entries of pages of 64 KiB, at a byte offset from the first (R242, R244) -/
  | frames (pasid : BitVec 20) (off : Nat) (pages : List Nat)
  deriving DecidableEq, Repr

/-- Where one byte of an access lies now: a device address with the address of its mirror copy (R237), host memory,
or nowhere (the range or share it names is gone). -/
inductive Spot where
  | dev (a : Nat) (mirror : Option Nat)
  | host (pasid : BitVec 20) (iova : Nat)
  | gone
  deriving DecidableEq, Repr

/-- A context (R304, R306, R319). -/
structure Ctx where
  /-- VALID, 1 bit; R319; reset 0. -/
  valid : Bool := false
  /-- CONFIDENTIAL, 1 bit; R319; reset 0. -/
  conf : Bool := false
  /-- PINNED, 1 bit; R319; reset 0. -/
  pinned : Bool := false
  /-- STATE, 3 bits: 0 ACTIVE, 1 QUIESCING, 2 QUIESCED; R319; reset 0. -/
  st : Nat := 0
  /-- PASID, 20 bits; R319; reset 0. -/
  pasid : BitVec 20 := 0
  /-- BUNCH_ID, 32 bits; R319; reset 0. -/
  bunch : BitVec 32 := 0
  /-- segment descriptors 0 to 15, 256 bits each; R231; reset 0. -/
  segs : Table (BitVec 256) := []
  /-- ranges that an LPDDR descriptor names through PORTS and through MPORTS, by identity, as they stood when it was
  written; R229, R236, R237; reset none. -/
  names : Table (List Nat × List Nat) := []
  /-- backing area: segment, offset, stride; R384; reset none. -/
  backing : Option (Nat × Nat × Nat) := none
  /-- frame array, leaf entries of 64 KiB pages by segment; R244; reset none. -/
  frames : Table (List Nat) := []
  /-- the DRAIN had IRQ set; R307; reset no. -/
  drainIrq : Bool := false
  /-- the quiesce was made by a safety reaction; R443; reset no. -/
  fenced : Bool := false
  deriving DecidableEq, Repr

/-- A consumed command (R290, R296). -/
structure QCmd where
  /-- CMD_SEQ -/
  seq : BitVec 32
  /-- the 64 bytes of R291 -/
  raw : BitVec 512
  started : Bool := false
  loc1 : Option Loc := none
  loc2 : Option Loc := none
  /-- handles it holds references on (R290) -/
  refs : List Nat := []
  epoch : BitVec 16 := 0
  bunch : BitVec 32 := 0
  /-- LAUNCH: leaf tiles of this module that have not reported, and the reports (rank, status, trap, flags) (R192) -/
  waiting : List (Nat × Nat) := []
  reports : List (Nat × BitVec 16 × Nat × BitVec 16) := []
  /-- FENCE_WAIT, MARKER: evaluation has begun and waits -/
  inWait : Bool := false
  /-- LAUNCH: entered the FIFOs (R296); COPY, FILL, COMPARE: a host mover has taken it -/
  taken : Bool := false
  /-- the handle of the fence or object it names that was destroyed after its consumption (R312, R317) -/
  gone : Option Nat := none
  ordinal : Nat := 0
  /-- routes of its reads and of its writes, and what a route-around did to it, as an engine operation's (R268) -/
  routesR : List (List Nat) := []
  routesW : List (List Nat) := []
  lost : Nat := 0
  held : Bool := false
  cut : Bool := false
  /-- LAUNCH: a leaf tile of this module has run it, and the bytes that its tiles' masters moved at memory ports (R410) -/
  ran : Bool := false
  moved : Nat := 0
  /-- frames that a LAUNCH recorded (R244) -/
  frames : Table (List Nat) := []
  /-- CMD_SEQ of the FENCE_SIGNAL consumed before it (R297) -/
  prevSig : Option (BitVec 32) := none
  deriving DecidableEq, Repr

/-- A queue (R285 to R303, R319). -/
structure Queue where
  /-- STATE, 3 bits: 0 DISABLED, 1 ACTIVE, 2 QUIESCING, 3 QUIESCED; R319; reset 0. -/
  st : Nat := 0
  /-- DEPTH_LOG, 3 bits; R319; reset 0. -/
  depthLog : Nat := 0
  /-- CONTEXT, 10 bits; R319; reset 0. -/
  ctx : Nat := 0
  /-- Q_CREDIT, 64 bits; R319; reset 0. -/
  credit : Word := 0
  /-- Q_CQ, 64 bits; R319; reset 0. -/
  cq : Word := 0
  /-- Q_CQ_HEAD, 64 bits; R319; reset 0. -/
  headAddr : Word := 0
  /-- Q_IRQ, 64 bits; R319; reset 0. -/
  irq : Word := 0
  /-- SEQ, 32 bits; R319; reset 0. -/
  seq : BitVec 32 := 0
  /-- OVERRUN, 1 bit; R319; reset 0. -/
  overrun : Bool := false
  /-- FORMAT, 1 bit; R319; reset 0. -/
  format : Bool := false
  /-- DROPPED, 16 bits; R319; reset 0. -/
  dropped : Nat := 0
  /-- command buffer, at most DEPTH: CMD_SEQ and 64 bytes; R286; reset empty. -/
  buf : List (BitVec 32 × BitVec 512) := []
  /-- consumed count, 64 bits; R289; reset 0. -/
  consumed : Nat := 0
  /-- consumed commands whose record is not written, oldest first (each holds a reserved ring slot); R290, R301; reset none. -/
  cmds : List QCmd := []
  /-- records written since enable; R301; reset 0. -/
  written : Nat := 0
  /-- head value last read; R301; reset 0. -/
  head : Nat := 0
  /-- records counted since the last message under COALESCE; R302; reset 0. -/
  coalesced : Nat := 0
  /-- quiesced by a QUIESCE command while its context is ACTIVE; R299, R306; reset no. -/
  byCmd : Bool := false
  /-- the state CTX_RESUME returns it to; R307; reset 0. -/
  prior : Nat := 0
  /-- failed commands not yet covered by a FENCE_SIGNAL: CMD_SEQ and status; R297; reset none. -/
  fails : List (BitVec 32 × BitVec 16) := []
  /-- STOP_ON_ERROR waits that failed and still end later commands: CMD_SEQ and status; R298; reset none. -/
  stops : List (BitVec 32 × BitVec 16) := []
  /-- CMD_SEQ of the FENCE_SIGNAL consumed last; R297; reset none. -/
  lastSig : Option (BitVec 32) := none
  deriving DecidableEq, Repr

/-- A fence (R313). -/
structure Fence where
  /-- VALID, 1 bit; R319; reset 0. -/
  valid : Bool := false
  /-- VALUE, 32 bits; R313; reset 0. -/
  val : BitVec 32 := 0
  /-- ERROR, 1 bit; R313; reset 0. -/
  err : Bool := false
  /-- ERR_STATUS, 16 bits; R313; reset 0. -/
  errStatus : BitVec 16 := 0
  /-- STALE, 16 bits; R313; reset 0. -/
  stale : Nat := 0
  /-- binding, FENCE_CFG[47:0]; R313, R319; reset 0. -/
  bind : BitVec 48 := 0
  /-- tiles that have not acknowledged the flush of FENCE_DESTROY; R317; reset none. -/
  flush : Option (List Nat) := none
  deriving DecidableEq, Repr

/-- A memory object (R310). -/
structure Obj where
  /-- STATE, 2 bits: 0 FREE, 1 LIVE, 2 DOOMED; R319; reset 0. -/
  st : Nat := 0
  /-- CONTEXT, 10 bits; R319; reset 0. -/
  ctx : Nat := 0
  /-- SEGMENT, 4 bits; R319; reset 0. -/
  seg : Nat := 0
  /-- OFFSET, 44 bits; R319; reset 0. -/
  off : Nat := 0
  /-- RANK, 24 bits; R319; reset 0. -/
  rank : Nat := 0
  /-- LENGTH, 40 bits; R319; reset 0. -/
  len : Nat := 0
  /-- references held by consumed commands; R290, R311; reset 0. -/
  refs : Nat := 0
  deriving DecidableEq, Repr

/-- The mailbox operation in progress (R305): OP, INDEX, SUB, IRQ, captured arguments. -/
structure Mgmt where
  op : Nat
  idx : Nat
  sub : Nat
  irq : Bool
  args : List Word
  deriving DecidableEq, Repr

/-- A request through BAR4 that an endpoint holds (R258, R284, R329): the tile and store offset it names, and the context and share
offset of its granule's owner. -/
structure BarReq where
  tile : Nat
  write : Bool
  off : Nat
  len : Nat
  data : List Byte
  own : Option (Nat × Nat)
  deriving DecidableEq, Repr

/-- The HOSTIF block (R318, R319, R465). -/
structure HostIf where
  /-- READY, 1 bit; R319; reset 0. -/
  ready : Bool := false
  /-- SPEED, 4 bits; R319; reset 0. -/
  speed : Nat := 0
  /-- WIDTH, 5 bits; R319; reset 0. -/
  width : Nat := 0
  /-- FLIT, 1 bit; R319; reset 0. -/
  flit : Bool := false
  /-- PCIe link trained since the last reset request; R530; reset no. -/
  link : Bool := false
  /-- APERTURE_DROPS, 16 bits; R319; reset 0. -/
  apDrops : Nat := 0
  /-- FENCE_DISCARDS, 16 bits; R319; reset 0. -/
  fenceDisc : Nat := 0
  /-- MGMT_DISCARDS, 16 bits; R319; reset 0. -/
  mgmtDisc : Nat := 0
  /-- BAR4_CTRL.OPEN, 1 bit; R319; reset 0. -/
  bar4Open : Bool := false
  /-- BAR4_CTRL.TILE, 7 bits; R319; reset 0. -/
  bar4Tile : Nat := 0
  /-- requests through BAR4 that endpoints hold, oldest first; R258, R284, R329; reset none. -/
  barWait : List BarReq := []
  /-- MGMT_ARG[0..3], 64 bits each; R319; reset 0. -/
  args : Table Word := []
  /-- MGMT_CMD.INDEX half as last written, 32 bits; R305; reset 0. -/
  index : BitVec 32 := 0
  /-- MGMT_STATUS.BUSY and the operation in progress; R305; reset none. -/
  busy : Option Mgmt := none
  /-- MGMT_STATUS.STATUS, 16 bits; R319; reset 0. -/
  status : BitVec 16 := 0
  /-- MGMT_STATUS.DETAIL, 32 bits; R319; reset 0. -/
  detail : BitVec 32 := 0
  /-- FQ_CFG, 64 bits; R465; reset 0. -/
  fqCfg : Word := 0
  /-- FQ_HEAD, 64 bits; R465; reset 0. -/
  fqHead : Word := 0
  /-- FQ_STATUS.OVERFLOWS, 16 bits; R465; reset 0. -/
  fqOver : Nat := 0
  /-- fault records written since enable; R459, R465; reset 0. -/
  fqWritten : Nat := 0
  /-- MSI-X table, 4096 words of 64 bits (vector i at 2i, 2i+1); R318; reset 0 but masked per entry (log 9). -/
  msixTable : Table Word := []
  /-- MSI-X pending bits; R318; reset none. -/
  msixPend : Table Bool := []
  /-- queues 0 to 4095; R304; reset DISABLED. -/
  queues : Table Queue := []
  /-- contexts 0 to 1023; R304; reset not VALID. -/
  ctxs : Table Ctx := []
  /-- fences 0 to 65535; R313; reset not VALID. -/
  fences : Table Fence := []
  /-- objects 0 to 262143; R310; reset FREE. -/
  objs : Table Obj := []
  deriving DecidableEq, Repr

/-! ### Bunches, grafts, messages between members -/

/-- A leaf tile in a rank map (R337): module 0 is this module; the tile and the generation the map records. -/
structure Leaf where
  module : Nat
  tile : Nat
  gen : BitVec 32
  deriving DecidableEq, Repr

/-- A bunch record (R322, R334, R352). -/
structure Bunch where
  /-- STATE, 3 bits: 0 INVALID to 6 DISSOLVING; R322; reset 0. -/
  st : Nat := 0
  /-- ID, 32 bits; R36; reset 0. -/
  id : BitVec 32 := 0
  /-- PARENT, 32 bits; R352; reset 0. -/
  parent : BitVec 32 := 0
  /-- direct members in listed order; R37; reset none. -/
  members : List Member := []
  /-- EPOCH, 16 bits; R334; reset 0. -/
  epoch : BitVec 16 := 0
  /-- PREV_LIVE, 1 bit; R335; reset 0. -/
  prevLive : Bool := false
  /-- rank map of the current epoch; R334; reset none. -/
  map : List Leaf := []
  /-- rank map of the previous epoch; R334; reset none. -/
  prevMap : List Leaf := []
  /-- CONFIDENTIAL, 1 bit; R352; reset 0. -/
  conf : Bool := false
  /-- HOST, 1 bit; R352; reset 0. -/
  host : Bool := false
  /-- marked ENCRYPT, 1 bit; R478; reset 0. -/
  encrypt : Bool := false
  /-- power policy KEEP_IDLE, 1 bit; R416; reset 0. -/
  keepIdle : Bool := false
  /-- lost ranks; R339; reset none. -/
  lost : List Nat := []
  /-- modules whose EPOCH_DRAINED for the previous epoch has arrived; R335; reset none. -/
  drained : List Nat := []
  /-- this module sent EPOCH_DRAINED; R335; reset no. -/
  sentDrained : Bool := false
  /-- messages held for an epoch not yet installed; R334; reset none. -/
  heldMsgs : List Msg := []
  /-- FREEZE in progress: leaf tiles that passed their boundary; R343; reset none. -/
  freezing : Option (List Nat) := none
  /-- FREEZE markers arrived: endpoint tile × 2^26 + source rank × 4 + channel; R343; reset none. -/
  marks : List Nat := []
  /-- captured channel state: endpoint tile and message; R343; reset none. -/
  captured : List (Nat × Msg) := []
  /-- freeze number; R366; reset 0. -/
  freezeNo : BitVec 32 := 0
  /-- LAUNCHes consumed under the epoch, by scope: key 0 the bunch, 1 + rank a leaf tile; R324; reset 0. -/
  ordinals : Table Nat := []
  /-- sequence counter of each pair (source rank × 2^24 + destination rank), 48 bits; R367; reset 0. -/
  pairSeq : Table Nat := []
  /-- last SEQ accepted from a pair on a channel (pair × 4 + channel, plus one); R367; reset none. -/
  lastSeq : Table Nat := []
  /-- results given to the messages of a pair on a channel ((pair × 4 + channel) × 2^48 + SEQ), for answering
  duplicates; R367; reset none. -/
  lastRes : Table Nat := []
  /-- heartbeat heard from other modules since the last loss check; R380; reset none. -/
  alive : List Nat := []
  /-- a FREEZE waits for the graft in progress; R344; reset no. -/
  wantFreeze : Bool := false
  /-- it, not a bunch nested in it, has lost a member or a range and no graft has repaired it; R339, R341; reset no. -/
  hurt : Bool := false
  /-- HALT was requested on it, or on a bunch that holds it; R323, R346; reset no. -/
  halts : Bool := false
  deriving DecidableEq, Repr

/-- A graft in progress (R325, R326): kind 0 TILE_REPLACE, 1 TILE_MOVE, 2 RANGE_RELOCATE, 3 RANGE_MOVE, 4 QUAD_MOVE. -/
structure Graft where
  kind : Nat
  bunch : BitVec 32
  gaining : BitVec 32
  out : Nat
  inc : Nat
  pos : Nat
  heir : Option Nat
  reserve : Option (Nat × Nat)
  /-- 0 waiting for a previous epoch to retire (R333), 1 drain, 2 shares, 3 nothing left but the epoch change -/
  step : Nat
  /-- rotation or repair started it: the outgoing tile becomes TESTING, or is reset -/
  why : Nat
  /-- contexts still to be copied -/
  todo : List Nat
  port : Nat
  first : Nat
  /-- contexts whose share went to the heir -/
  heirs : List Nat := []
  deriving DecidableEq, Repr

/-- A detached share (R353). -/
structure Detach where
  /-- VALID, 1 bit; R352; reset 0. -/
  valid : Bool := false
  granules : Nat := 0
  ctx : Nat := 0
  rank : Nat := 0
  port : Nat := 0
  off : Nat := 0
  /-- identity of the range that holds it; R229, R331; the MODEL's own; reset 0. -/
  home : Nat := 0
  deriving DecidableEq, Repr

/-- A composition change other than a graft, which first wakes the units that it names (R322, R323, R417, R482). -/
inductive Change where
  | compose (id parent : BitVec 32) (members : List Member) (ranges : List RangeReq) (quads : List Nat) (host encrypt : Bool)
  | activate (b : BitVec 32)
  | dissolve (b : BitVec 32)
  | grant (b : BitVec 32) (r : RangeReq)
  | release (b : BitVec 32) (m : Nat)
  deriving DecidableEq, Repr

/-- The COMPOSE block (R352). -/
structure Compose where
  /-- CHANGE_SEQ, 32 bits; R352; reset 0. -/
  changeSeq : BitVec 32 := 0
  /-- bunch records 0 to 255; R322; reset INVALID. -/
  bunches : Table Bunch := []
  /-- grafts in progress, oldest first; R333; reset none. -/
  grafts : List Graft := []
  /-- lane-quad owners 0 to 15, 32 bits; R352; reset 0. -/
  quadOwner : Table (BitVec 32) := []
  /-- DETACH entries 0 to 63; R353; reset not VALID. -/
  detach : Table Detach := []
  /-- range grants that wait for their granules to be CLEAN: bunch and range, oldest first; R506; reset none. -/
  grants : List (BitVec 32 × RangeReq) := []
  /-- grants made so far, which number the ranges; the MODEL's own; reset 0. -/
  grantNo : Nat := 0
  /-- messages for other modules that wait for a quad, oldest first; R332, R369; reset none. -/
  waits : List Msg := []
  /-- composition commands that wait for their units to wake, oldest first; R417; reset none. -/
  waking : List (Frame × Change) := []
  deriving DecidableEq, Repr

/-! ### Memory ports, Bramble, runners -/

/-- A capacity range (R229). -/
structure Range where
  /-- VALID, 1 bit; R252; reset 0. -/
  valid : Bool := false
  /-- BASE, 11 bits; R252; reset 0. -/
  base : Nat := 0
  /-- LENGTH, 11 bits; R252; reset 0. -/
  len : Nat := 0
  /-- OWNER, 32 bits; R252; reset 0. -/
  owner : BitVec 32 := 0
  /-- identity of the range, which it keeps when it moves: the number of its grant; R229; the MODEL's own; reset 0. -/
  home : Nat := 0
  deriving DecidableEq, Repr

/-- A memory port (R226 to R253). -/
structure Port where
  /-- STATE, 4 bits: 0 UNTRAINED, 1 TRAINING, 2 READY, 3 SELF_REFRESH, 4 FAILED, 5 OFF; R252; reset 0. -/
  st : Nat := 0
  /-- OCC, 9 bits; R252; reset 0. -/
  occ : Nat := 0
  /-- THROTTLING, 1 bit; R252; reset 0. -/
  throttling : Bool := false
  /-- CE_COUNT, 24 bits; R252; reset 0. -/
  ce : Nat := 0
  /-- UE_COUNT, 16 bits; R252; reset 0. -/
  ue : Nat := 0
  /-- ranges 0 to 7; R229; reset not VALID. -/
  ranges : Table Range := []
  /-- EXPLICIT, 1 bit; R252; reset 0. -/
  explicit : Bool := false
  /-- floors of masters 0 to 72, 20 bits; R252; reset 0 until the first window (log 13). -/
  floors : Table Nat := []
  /-- sequence number of the window in progress, 32 bits; R250; reset 0. -/
  window : BitVec 32 := 0
  /-- bytes of each class in the window in progress; R250; reset 0. -/
  bytes : Table Nat := []
  /-- WIN_BYTES latched: class → bytes; R252; reset 0. -/
  latched : Table Nat := []
  /-- WIN_BYTES.WINDOW latched, 32 bits; R252; reset 0. -/
  latchedWin : BitVec 32 := 0
  /-- bytes of each master in the window in progress; R246; reset 0. -/
  masters : Table Nat := []
  /-- bytes of transfers beyond the window's 524,288, which the next windows carry: class, master, bytes; R246; reset none. -/
  backlog : List (Nat × Nat × Nat) := []
  /-- granule state: 0 DIRTY, 1 PEELING, 2 CLEAN, 3 withheld, 4 peeled once and failed; R483; reset DIRTY. -/
  granules : Table Nat := []
  /-- a tile role changed since the floors were computed; R248; reset no. -/
  stale : Bool := false
  /-- a request waits at the port's crossing; R429; reset no. -/
  waiting : Bool := false
  deriving DecidableEq, Repr

/-- The BRAMBLE block (R278). -/
structure Bramble where
  /-- TABLE_GEN, 32 bits; R278; reset 0. -/
  gen : BitVec 32 := 0
  /-- PAUSED, 1 bit; R278; reset 0. -/
  paused : Bool := false
  /-- ROUTE_AROUND, 1 bit; R278; reset 0. -/
  around : Bool := false
  /-- VC_ARB, 64 bits; R278; reset FLOOR 8, 8, 8 and WEIGHT 1, 1, 2. -/
  arb : Word := 0x0008080800000112
  /-- REFUSED, 16 bits; R278; reset 0. -/
  refused : Nat := 0
  /-- RETRIED, 16 bits; R278; reset 0. -/
  retried : Nat := 0
  /-- DISCARDED, 16 bits; R278; reset 0. -/
  discarded : Nat := 0
  /-- router states: 1 OK, 2 ENDPOINT_FENCED, 3 FAILED; R278; reset OK DESIGN CHOICE (log 6). -/
  routers : Table Nat := []
  /-- routers that have reported empty buffers; R267; reset none. -/
  empty : List Nat := []
  /-- routers the tables in force avoid; R267; reset none. -/
  avoid : List Nat := []
  /-- tables in force: 0 the default routes, 1 the MGC's own of their generation, 2 a tree; R264, R267; reset 0. -/
  tables : Nat := 0
  /-- messages sent within the module and not yet arrived, oldest first; R259, R261, R268; reset none. -/
  flight : List Msg := []
  /-- messages that wait for injection to resume, oldest first; R267; reset none. -/
  held : List Msg := []
  /-- messages whose packets met a failed router as they went out, oldest first; R267, R268; reset none. -/
  cut : List Msg := []
  /-- messages within the module that a route-around lost; R268; reset none. -/
  gone : List Msg := []
  deriving DecidableEq, Repr

/-- A lane quad's link (R355 to R363, R382). -/
structure Quad where
  /-- STATE, 3 bits: 1 UNTRAINED, 2 TRAINING, 3 READY, 4 DOWN, 5 PARKED; R382; reads 0 until the rails are up; reset UNTRAINED
  where present (log 7). -/
  st : Nat := 1
  /-- FULL_LAST, 1 bit; R382; reset 0. -/
  full : Bool := false
  /-- REVERSED, 1 bit; R382; reset 0. -/
  reversed : Bool := false
  /-- REPLAYS, 16 bits; R382; reset 0. -/
  replays : Nat := 0
  /-- DOWNS, 16 bits; R382; reset 0. -/
  downs : Nat := 0
  /-- SEQ of the next DATA flit to send, 12 bits; R361; reset 0. -/
  txSeq : BitVec 12 := 0
  /-- retry buffer, at most 2048 DATA flits, oldest first; R361; reset empty. -/
  retry : List (BitVec 512) := []
  /-- flits of the retry buffer to send again, counted from its end; R361; reset 0. -/
  resend : Nat := 0
  /-- expected SEQ, 12 bits; R361; reset 0. -/
  rxSeq : BitVec 12 := 0
  /-- a NAK has been sent for the expected SEQ and DATA is discarded; R361; reset no. -/
  nakking : Bool := false
  /-- a NAK flit is due; R361; reset no. -/
  nakDue : Bool := false
  /-- NAKs received for one SEQ: SEQ and count; R377; reset 0. -/
  naks : BitVec 12 × Nat := (0, 0)
  /-- receive-buffer flits of the partner, TC TS TQ TB; R362; reset 0. -/
  bufs : BitVec 64 := 0
  /-- partner's cumulative credits, TC TS TQ TB 16 bits each; R362; reset 0. -/
  credits : BitVec 64 := 0
  /-- DATA flits sent per channel, 16 bits each; R362; reset 0. -/
  sent : BitVec 64 := 0
  /-- receive-buffer flits freed per channel, 16 bits each; R362; reset 0. -/
  freed : BitVec 64 := 0
  /-- a CTRL flit with new credits is due; R362; reset no. -/
  ctrlDue : Bool := false
  /-- slots since it became due; R362; reset 0. -/
  ctrlAge : Nat := 0
  /-- the next CTRL flit carries this module's parameters, as the partner still sends its own; R358, R362; reset no. -/
  paramDue : Bool := false
  /-- it retries full training after a failed one; R359; reset no. -/
  retries : Bool := false
  /-- messages waiting to be sent, one list per channel; R363; reset none. -/
  txq : Table (List Msg) := []
  /-- flits already sent of the first message of each channel; R363; reset 0. -/
  part : Table Nat := []
  /-- messages sent on the quad and not answered, oldest first; R369, R378; reset none. -/
  unans : List Msg := []
  /-- message parts received and not yet ended, per channel; R368; reset none. -/
  rxq : Table (List (BitVec 448)) := []
  /-- slots since the last SKIP; R357; reset 0. -/
  skip : Nat := 0
  /-- slots of the arbitration frame of 64 used so far, and those each channel took; R262, R363; reset 0. -/
  slot : Nat := 0
  frame : Table Nat := []
  /-- weighted round robin: the channel being served and what is left of its turn; R262; reset 0. -/
  turn : Nat × Nat := (1, 0)
  /-- the partner's retry-buffer size in flits; R362; reset 0. -/
  partnerRetry : Nat := 0
  deriving DecidableEq, Repr

/-- A lane (R382). -/
structure Lane where
  /-- FEC_CORRECTED, 32 bits; R382; reset 0. -/
  fecC : Nat := 0
  /-- FEC_UNCORRECTED, 16 bits; R382; reset 0. -/
  fecU : Nat := 0
  /-- SNR, 8 bits; R382; reset 0. -/
  snr : Nat := 0
  /-- POL_INV, 1 bit; R382; reset 0. -/
  inv : Bool := false
  /-- LOCKED, 1 bit; R382; reset 0. -/
  locked : Bool := false
  deriving DecidableEq, Repr

/-- A runner port (R355, R382). -/
structure Runner where
  /-- DISABLED by the orchestrator, 1 bit; R382; reset 0. -/
  disabled : Bool := false
  /-- port is parked, 1 bit; R413; reset 0. -/
  parked : Bool := false
  /-- a message waits at the port's crossing; R429; reset no. -/
  waiting : Bool := false
  /-- PARTNER_KIND, 2 bits; R382; reset 0. -/
  kind : Nat := 0
  /-- RN_PARTNER, 64 bits; R382; reset 0. -/
  partner : Word := 0
  /-- STORED_VALID with the saved partner, in flash; R359; reset none. -/
  stored : Option Word := none
  /-- saved lane map, in flash: whether a quad's lanes arrive in reverse order, by quad; R359; reset none. -/
  laneMap : Table Bool := []
  /-- saved coefficients, in flash, by lane; R359; reset none. -/
  coefs : Table Nat := []
  /-- INTEGRITY, 16 bits; R382; reset 0. -/
  integrity : Nat := 0
  /-- DUPLICATES, 16 bits; R382; reset 0. -/
  duplicates : Nat := 0
  /-- PROTOCOL, 16 bits; R382; reset 0. -/
  protocol : Nat := 0
  /-- RN_ARB, 64 bits; R382; reset FLOOR 8, 8, 8 and WEIGHT 1, 1, 2. -/
  arb : Word := 0x0008080800000112
  deriving DecidableEq, Repr

/-! ### Power, crossings -/

/-- One tile's power registers (R421). -/
structure TilePwr where
  /-- TJ, 10 bits; R421; reset 0. -/
  tj : Nat := 0
  /-- RATE, 12 bits; R421; reset 0. -/
  rate : Nat := 0
  /-- VDD, 12 bits; R421; reset 0. -/
  vdd : Nat := 0
  deriving DecidableEq, Repr

/-- A power domain (R413, R421). -/
structure Dom where
  /-- STATE, 2 bits: 0 OFF, 1 retained, 2 ON, 3 WAKING; R421; reset OFF. -/
  st : Nat := 0
  /-- HELD, 1 bit; R421; reset 0. -/
  held : Bool := false
  /-- VOTES, 32 bits; R414, R421; reset 0. -/
  votes : BitVec 32 := 0
  /-- the orchestrator's own vote, which slot 2 shows unless a composition command's ON is above it; R414, R417; reset 0. -/
  orch : Nat := 0
  /-- the tile has had demand and has not been 100 µs without it; R415; reset no. -/
  warm : Bool := false
  deriving DecidableEq, Repr

/-- The POWER block (R421). -/
structure Power where
  /-- ORCH_CAP, 16 bits; R402; reset the variant's maximum (2400 for the reset variant). -/
  orchCap : Nat := 2400
  /-- TRAY_CAP, 16 bits; R402, R524; reset the variant's maximum. -/
  trayCap : Nat := 2400
  /-- HOST_CAP, 16 bits; R402; reset 0. -/
  hostCap : Nat := 0
  /-- MODE, 1 bit: FREE; R421; reset REPEATABLE 0. -/
  free : Bool := false
  /-- FIRST_USE, 1 bit; R421; reset 1. -/
  firstUse : Bool := true
  /-- CAP_UNMET, 1 bit; R421; reset 0. -/
  capUnmet : Bool := false
  /-- REPEATABLE_LOST, 1 bit; R421; reset 0. -/
  lost : Bool := false
  /-- THERMAL_LIMIT, 1 bit; R421; reset 0. -/
  thermal : Bool := false
  /-- VIN_RANGE, 1 bit; R421; reset 0. -/
  vinRange : Bool := false
  /-- TJ_MAX, 10 bits; R421; reset 0. -/
  tjMax : Nat := 0
  /-- CAL_WINDOWS, 12 bits; R421; reset 0. -/
  calWindows : Nat := 0
  /-- EFF × 65536, 16 bits; R421; reset 59965. -/
  eff : Nat := 59965
  /-- CAL × 16384, 16 bits; R421; reset 16384. -/
  cal : Nat := 16384
  /-- the last eight windows' ratios (CAL × 16384, EFF × 65536), newest first; R408; reset none. -/
  ratios : List (Nat × Nat) := []
  /-- windows in range since CAL_DIVERGED, none when not diverged; R408; reset none. -/
  diverged : Option Nat := none
  /-- ESTIMATE, 16 bits; R421; reset 0. -/
  estimate : Nat := 0
  /-- MEASURED, 16 bits; R421; reset 0. -/
  measured : Nat := 0
  /-- IIN, 16 bits; R421; reset 0. -/
  iin : BitVec 16 := 0
  /-- VIN, 16 bits; R421; reset 0. -/
  vin : BitVec 16 := 0
  /-- a sensor reads 100 °C or more; R411, R524; reset no. -/
  tjAlert : Bool := false
  /-- domains whose sensor has failed; R441; reset none. -/
  badSensors : List Nat := []
  /-- domains at or above 110 °C, whose TJ_HIGH is raised; R411; reset none. -/
  hot : List Nat := []
  /-- quarters whose uncore or PHY sensor is at the limit of 105 °C, which lowers all their tiles; R411; reset none. -/
  hotQuarters : List Nat := []
  /-- the latest reading of each sensor by domain, in units of 0.25 °C; R411, R441; reset none. -/
  temps : Table Int := []
  /-- TJ_SHUTDOWN has withdrawn every vote but those on the always-on domain, 1 bit; R412; reset 0. -/
  shut : Bool := false
  /-- sum of the estimates of the calibration window in progress, in units of 10 µJ (1 W for 10 µs); R407, R408; reset 0. -/
  energySum : Nat := 0
  /-- TILE_PWR 0 to 67; R421; reset 0. -/
  tiles : Table TilePwr := []
  /-- domains 0 to 161; R413; reset OFF. -/
  doms : Table Dom := []
  /-- BANK_KEEP of quarters 0 to 3, 17 bits; R421; reset 0. -/
  keep : Table (BitVec 17) := []
  deriving DecidableEq, Repr

/-- A holding register that passes one value across a crossing at a time (R424). -/
structure Hold where
  /-- the value held, by bytes; R424; reset none. -/
  value : List Byte := []
  /-- one parity bit for each byte; R424; reset none. -/
  parity : List Bool := []
  /-- request flag of the sender and acknowledge flag of the receiver, 1 bit each; R424; reset 0. -/
  req : Bool := false
  ack : Bool := false
  deriving DecidableEq, Repr

/-- The FIFO of one direction of a crossing (R425). -/
structure Stream where
  /-- entries written and not yet taken, at most 16, oldest first; R425; reset empty. -/
  fifo : List (List Byte) := []
  /-- write pointer of the sender and read pointer of the receiver, 16 entries and a wrap bit; R425; reset 0. -/
  wr : BitVec 5 := 0
  rd : BitVec 5 := 0
  /-- the other side's pointer as each side last took it; R425; reset 0. -/
  wrSeen : BitVec 5 := 0
  rdSeen : BitVec 5 := 0
  /-- the registers that the Gray-coded pointers pass through; R424, R425; reset empty. -/
  wrHold : Hold := {}
  rdHold : Hold := {}
  deriving DecidableEq, Repr

/-- A crossing (R423, R434). -/
structure Xing where
  /-- STATE, 3 bits: 1 RUN, 2 RESYNC, 3 PARKED, 4 CLOCK_STOPPED, 5 FAILED; R434; XING_STATE reads 0 until the always-on domain is up (R504);
  reset RUN where present DEDUCED (log 7). -/
  st : Nat := 1
  /-- LAST_SIDE, 1 bit: island; R434; reset 0. -/
  side : Bool := false
  /-- RESYNCS, 16 bits; R434; reset 0. -/
  resyncs : Nat := 0
  /-- DROPPED, 16 bits; R434; reset 0. -/
  dropped : Nat := 0
  /-- sides that have reset and not yet sent RESYNC_REQ: core, island; R427, R428; reset no. -/
  reqCore : Bool := false
  reqIsland : Bool := false
  /-- sides whose RESYNC_DONE has arrived: core, island; R427; reset no. -/
  doneCore : Bool := false
  doneIsland : Bool := false
  /-- the stopped clock failed the crossing, which waits for its island's reset; R430; reset no. -/
  needReset : Bool := false
  /-- streams from the core to the island and back; R425; reset empty. -/
  down : Stream := {}
  up : Stream := {}
  deriving DecidableEq, Repr

/-! ### Stone island, security, observation, boot -/

/-- A latch row (R447). -/
structure Latch where
  /-- LATCHED, 1 bit; R447; reset 0. -/
  set : Bool := false
  /-- COUNT, 16 bits; R447; reset 0. -/
  count : Nat := 0
  /-- FIRST, 32 bits; R447; reset 0. -/
  first : BitVec 32 := 0
  /-- lifetime count in the non-volatile fault store; R447; reset 0. -/
  life : Nat := 0
  deriving DecidableEq, Repr

/-- A reaction in progress (R442, R450): its row, source, the SRC_SEQ of its record and its reaction value; `phase` 0 waits for
its Husk, 1 for the end of its step. -/
structure React where
  row : Nat
  src : BitVec 32
  seq : BitVec 32
  reaction : Nat
  phase : Nat
  detail : BitVec 64
  unreadable : List (BitVec 32)
  /-- contexts that the failing operation served (R444) -/
  served : List Nat := []
  /-- the context that ran on the failing tile at detection (R444) -/
  running : List Nat := []
  deriving DecidableEq, Repr

/-- The Stone island (R446) and the rotation engine (R453). -/
structure Stone where
  /-- latch rows 0 to 23; R447; reset clear. -/
  rows : Table Latch := []
  /-- reaction of each row when raised above its default; R448; reset none. -/
  raised : Table Nat := []
  /-- LOCKED, 1 bit; R448; reset 0. -/
  locked : Bool := false
  /-- SAFE_N asserted, 1 bit; R519, R523; reset 1. -/
  safe : Bool := true
  /-- CYCLE_REQ_N asserted, 1 bit; R521; reset 0. -/
  cycleReq : Bool := false
  /-- safety faults detected and not yet reacted to; R443; reset none. -/
  faults : List SafetyFault := []
  /-- reactions in progress; R445; reset none. -/
  reacts : List React := []
  /-- steps completed: row, source and module time, 10 s of which count; R451; reset none. -/
  recent : List (Nat × BitVec 32 × Word) := []
  /-- I3_CAUSE, 16 bits; R524; reset 0. -/
  cause : BitVec 16 := 0
  /-- generation of each tile, 32 bits; R337; reset 0 DESIGN CHOICE (log 8). -/
  gens : Table (BitVec 32) := []
  /-- retired tiles in the non-volatile fault store; R16, R447; reset none. -/
  retired : List Nat := []
  /-- row 17 recorded by the hardware, which every boot restores until it is acknowledged, 1 bit; R445, R449; reset no. -/
  nvRow17 : Bool := false
  /-- module times of module resets by the Stone island, 10 minutes of which count; R507; reset none. -/
  resetTimes : List Word := []
  /-- module time of the last rotation graft of each bunch, by identifier; R396; reset none. -/
  rotated : Table Word := []
  /-- CYCLES, 16 bits; R465; reset 0. -/
  cycles : BitVec 16 := 0
  /-- LAST_CYCLE, 16 bits; R465; reset 0. -/
  lastCycle : Nat := 0
  /-- module time at which the cycle in progress began, 64 bits; R465; reset 0. -/
  cycleStart : Word := 0
  /-- tiles passed in the cycle in progress; R455; reset none. -/
  passed : List Nat := []
  /-- order of each tile's last pass, larger is later; R454; reset 0. -/
  lastPass : Table Nat := []
  /-- module time of each tile's last pass; R454, R455; reset 0. -/
  passTime : Table Word := []
  /-- passes so far; R454; reset 0. -/
  passes : Nat := 0
  /-- tiles in a turn; R465; reset none. -/
  inTurn : List Nat := []
  /-- BORROWING, 1 bit; R465; reset 0. -/
  borrowing : Bool := false
  /-- tiles whose turn the orchestrator brought forward; R457; reset none. -/
  asked : List Nat := []
  /-- tiles that must take their turn before they start a launch; R454; reset none. -/
  overdue : List Nat := []
  /-- HUSK_SEQ, 32 bits, and VALID; R465; reset none. -/
  huskSeq : Nat := 0
  /-- OFFSET of the latest record, 12 bits; R465; reset 0. -/
  huskOff : Nat := 0
  /-- next free 64 KiB unit of the Husk log; R463; reset 0. -/
  huskNext : Nat := 0
  /-- consecutive failing windows of the pacer check; R439; reset 0. -/
  pacerBad : Nat := 0
  /-- MGC kick and host-interface heartbeat heard since the watchdog last looked; R440; reset no. -/
  mgcAlive : Bool := false
  hostAlive : Bool := false
  /-- MGC watchdog suspended for an update; R510; reset no. -/
  mgcSuspended : Bool := false
  deriving DecidableEq, Repr

/-- A credential slot (R473, R474). -/
structure CredSlot where
  /-- empty, key, or password-derived; R473; reset empty. -/
  cred : Option Cred := none
  /-- module times of failed PROOFs, 60 s of which count; R474; reset none. -/
  fails : List Word := []
  /-- locked, 1 bit; R474; reset no. -/
  locked : Bool := false
  deriving DecidableEq, Repr

/-- A management session or attempt (R474, R475). -/
structure Session where
  sid : BitVec 32
  slot : Nat
  isOpen : Bool
  nc : BitVec 256
  nd : BitVec 256
  c2d : BitVec 256
  d2c : BitVec 256
  wrap : BitVec 256
  /-- last SEQ accepted from the orchestrator, last SEQ sent to it -/
  seqIn : Nat
  seqOut : Nat
  discards : Nat
  deriving DecidableEq, Repr

/-- A job key or image key (R476, R479). -/
structure Key where
  id : Nat
  bunch : BitVec 32
  active : Bool
  key : BitVec 256
  deriving DecidableEq, Repr

/-- An image held in flash (R470). -/
structure Flash where
  /-- VERSION, 32 bits; R470; reset 0 DESIGN CHOICE (log 10). -/
  version : BitVec 32 := 0
  /-- SVN; R470; reset 0. -/
  svn : Nat := 0
  /-- DIGEST, 256 bits; R470; reset 0. -/
  digest : BitVec 256 := 0
  /-- the image verifies; R470; reset yes. -/
  valid : Bool := true
  deriving DecidableEq, Repr

/-- A quote in progress (R469): requested by the mailbox or by a management frame, with its nonce. -/
structure QuoteReq where
  mailbox : Bool
  sid : BitVec 32
  /-- SEQ of the command, for its answer (R472) -/
  seq : BitVec 64 := 0
  nonce : BitVec 256
  deriving DecidableEq, Repr

/-- Identity, sessions, keys and firmware banks (R466 to R486, R509). -/
structure Sec where
  /-- credential slots 0 to 7; R473; reset empty. -/
  slots : Table CredSlot := []
  /-- sessions and attempts; R474; reset none. -/
  sessions : List Session := []
  /-- the next SID counter of the model; R474; reset 1. -/
  nextSid : Nat := 1
  /-- job keys, at most 64; R476; reset none. -/
  jobKeys : List Key := []
  /-- image keys; R479; reset none. -/
  imgKeys : List Key := []
  /-- number of key-pair generations (module resets); R467; reset 0. -/
  kemEpoch : Nat := 0
  /-- private attestation and KEM keys, 512 bits each; R467; reset none. -/
  attKey : Option (BitVec 512) := none
  kemKey : Option (BitVec 512) := none
  /-- nonce given by KEY_AGREE_BEGIN; R477; reset none. -/
  agree : Option (BitVec 256) := none
  /-- quote in progress; R469; reset none. -/
  quote : Option QuoteReq := none
  /-- QUOTE_SEQ, 32 bits; R468; reset 0. -/
  quoteSeq : BitVec 32 := 0
  /-- UNLOCKED, 1 bit; R485; reset 0. -/
  unlocked : Bool := false
  /-- flash images, key bank × 8 + KIND; R471; reset valid, version 0. -/
  flash : Table Flash := []
  /-- committed bank, 0 A or 1 B; R471; reset 0 DESIGN CHOICE (log 10). -/
  committed : Nat := 0
  /-- BANK, booted bank; R486; reset 0. -/
  booted : Nat := 0
  /-- TRIAL marked, 1 bit; R471; reset 0. -/
  trial : Bool := false
  /-- a trial bank is running, 1 bit; R486; reset 0. -/
  trialRun : Bool := false
  /-- fused minimum SVN and advances of each KIND; R470, R471; reset 0. -/
  minSvn : Table (Nat × Nat) := []
  /-- neither bank verifies, 1 bit; R471, R524; reset 0. -/
  noBank : Bool := false
  /-- UPD_STATUS: KIND, DONE, TOTAL, FAILED, ACTIVE; R512; reset 0. -/
  updKind : Nat := 0
  updDone : Nat := 0
  updTotal : Nat := 0
  updFailed : Bool := false
  updActive : Bool := false
  /-- session and SEQ of the update's command, for its answer; R510; reset 0. -/
  updSid : BitVec 32 := 0
  updSeq : BitVec 64 := 0
  /-- the drain of the instance to update has begun, 1 bit (it waits while a graft uses the unit); R510; reset 0. -/
  updDrained : Bool := false
  /-- tiles that an update of KIND 5 has loaded, each in its rotation turn; R509; reset none. -/
  updTiles : List Nat := []
  /-- image digest of each KIND, 256 bits, as the boot loaded it; R468, R504; reset none. -/
  bootImg : Table (BitVec 256) := []
  /-- image digest, 256 bits, that a unit (KIND × 128 + instance) has loaded since the boot; R468, R509, R510; reset none. -/
  loaded : Table (BitVec 256) := []
  deriving DecidableEq, Repr

/-- A counter group (R488 to R495, R503). -/
structure Group where
  /-- ENABLE, SAMPLE, CLOSE_RECORDS, KERNEL_READ, FIRST, COUNT as GRP_CTL, 24 bits; R503; reset 0. -/
  ctl : BitVec 24 := 0
  /-- open bank, 64-bit saturating counters; R494; reset 0. -/
  counters : Table Nat := []
  /-- closed bank; R494; reset 0. -/
  closed : Table Nat := []
  /-- the open bank's CONTEXT_ID (none for groups other than tiles), LAYER_ID, OP_ID, LAUNCH_SEQ; R494; reset none. -/
  ctx : Option Nat := none
  layer : BitVec 16 := 0
  op : BitVec 16 := 0
  seq : BitVec 32 := 0
  conf : Bool := false
  /-- pacer count at which the bank opened, 64 bits; R498; reset 0. -/
  opened : Word := 0
  /-- PARTIAL, 1 bit; R498; reset 0. -/
  part : Bool := false
  deriving DecidableEq, Repr

/-- A tile's instruction trace (R501, R502). -/
structure Trace where
  /-- MODE, 2 bits; R503; reset OFF. -/
  mode : Nat := 0
  /-- STALL, 1 bit; R503; reset 0. -/
  stall : Bool := false
  /-- LOST, 16 bits; R503; reset 0. -/
  lost : Nat := 0
  /-- packets in the 4 KiB staging buffer, 128 bits each, oldest first; R501; reset none. -/
  stage : List (BitVec 128) := []
  /-- packets lost since the last GAP; R502; reset 0. -/
  gap : Nat := 0
  deriving DecidableEq, Repr

/-- The OBSERVE block (R503). -/
structure Obs where
  /-- SMP_CFG, 64 bits; R503; reset 0. -/
  cfg : Word := 0
  /-- SMP_INTERVAL, 32 bits; R503; reset 0. -/
  interval : BitVec 32 := 0
  /-- SMP_HEAD, 64 bits; R503; reset 0. -/
  head : Word := 0
  /-- OVERFLOWS, 16 bits; R503; reset 0. -/
  overs : Nat := 0
  /-- lines written since enable; R503; reset 0. -/
  written : Nat := 0
  /-- LOST_COUNT of each source's sample records, 16 bits; R499; reset 0. -/
  lostBy : Table Nat := []
  /-- groups 0 to 215; R488; reset disabled. -/
  groups : Table Group := []
  /-- traces of tiles 0 to 67; R501; reset off. -/
  traces : Table Trace := []
  deriving DecidableEq, Repr

/-- Boot and service state (R504 to R512, R516 to R524). -/
structure Boot where
  /-- the variant, fixed for the module; R1; reset AKM-K9A-1536 DESIGN CHOICE (log 2). -/
  variant : Variant := .k9a
  /-- step of R504 last completed, 0 to 6; R504; reset 0. -/
  step : Nat := 0
  /-- usable tile count; R16; reset 0 until R16 sets it DESIGN CHOICE (log 4). -/
  usable : Nat := 0
  /-- power-up self-test ended; R504; reset no. -/
  tested : Bool := false
  /-- PWR_EN level, RESET_N asserted; R516; reset deasserted. -/
  pwrEn : Bool := false
  resetN : Bool := false
  /-- RESETS, 32 bits; R512; reset 0. -/
  resets : Nat := 0
  /-- CAUSE, 8 bits; R512; reset POWER_ON 0. -/
  cause : Nat := 0
  /-- PEEL_DONE, 1 bit; R512; reset 0. -/
  peelDone : Bool := false
  /-- MAINTENANCE state; R512; reset SERVICE. -/
  maint : Bool := false
  /-- the boot in progress was asked to enter MAINTENANCE; R507; reset no. -/
  wantMaint : Bool := false
  /-- I3_STATE.PHASE, 2 bits; R524; reset AON_ONLY 0. -/
  phase : Nat := 0
  /-- dynamic I3C address, 7 bits; R523; reset none. -/
  i3cAddr : Option (BitVec 7) := none
  /-- last I3_STATE reported by an In-Band Interrupt, 8 bits; R523; reset 1. -/
  i3cLast : BitVec 8 := 1
  deriving DecidableEq, Repr

/-! ### Outputs -/

/-- What the PCIe function presents in its configuration space (R280). -/
structure PcieConfig where
  /-- vendor identifier, device identifier, class code -/
  vendor : BitVec 16
  device : BitVec 16
  cls : BitVec 24
  /-- largest payload, largest read request and outstanding non-posted requests it supports -/
  maxPayload : Nat
  maxRead : Nat
  tags : Nat
  /-- PASID width; the Execute Requested and Privileged Mode Requested bits are never set -/
  pasidBits : Nat
  /-- MSI-X vectors, and the BAR that holds their table and pending bits -/
  msixVectors : Nat
  msixBar : Nat
  ats : Bool
  pri : Bool
  aer : Bool
  sriov : Bool
  deriving DecidableEq, Repr

/-- What the module sends to its outside partners or between its units. -/
inductive Out where
  /-- a DMA write to host memory under a PASID (R283): data, credit words, completion, fault and sample records -/
  | dma (pasid : BitVec 20) (iova : Nat) (bytes : List Byte)
  /-- a DMA read of host memory under a PASID (R283): data, head words, page-table entries -/
  | dmaRead (pasid : BitVec 20) (iova n : Nat)
  /-- an MSI-X message (R280) -/
  | msix (vector : Nat)
  /-- the answer to a host read, with the EP bit (R284) -/
  | readData (data : List Byte) (poisoned : Bool)
  /-- Unsupported Request, Configuration Request Retry Status, configuration data (R505) -/
  | ur | crs | cfg (c : PcieConfig)
  /-- a management response (R472) or event (R460), with its TAG in a session (R475) -/
  | mgmt (sid : BitVec 32) (seq : Nat) (status : BitVec 16) (body : List Byte) (tag : Option (BitVec 256))
  /-- a Tamdan or in-module message (R365) -/
  | msg (m : Msg)
  /-- the training frames on the four lanes of a quad: partner identifier, full or stored training (R358) -/
  | training (x : Nat) (id : Word) (full : Bool)
  /-- a flit on a quad (R360) -/
  | flit (x : Nat) (f : BitVec 512)
  /-- route control on VC-C: ROUTE_PAUSE, ROUTE_RESUME with the router (R267) -/
  | routePause | routeResume (i : Nat)
  /-- a fence flush to a tile (R317) -/
  | flush (f t : Nat)
  /-- an I3C In-Band Interrupt (R523) -/
  | ibi (b : BitVec 8)
  deriving DecidableEq, Repr

/-- Bytes that a PENDING tensor operation names (R114, R146): its tile and number, the device address and length, and whether one
of them has been written since its issue. -/
structure Watch where
  tile : Nat
  id : Nat
  addr : Nat
  len : Nat
  hit : Bool := false
  deriving DecidableEq, Repr

/-- The state of the module. -/
structure State where
  /-- commands waiting, first in first out; the block's queue; reset empty. -/
  pending : List Instr := []
  /-- module time in 10 ns pacer counts, 64 bits; the oscillator of R62; reset 0. -/
  time : Word := 0
  /-- counter that makes each free value fresh; the MODEL's own, not the spec's; reset 0 DESIGN CHOICE (log 1). -/
  fresh : Nat := 0
  /-- what the module has sent, newest first; the MODEL's own record of its outputs; reset none. -/
  out : List Out := []
  /-- tile stores and LPDDR5X by device address of R242; R54, R226, R242; reset nothing listed. -/
  mem : List Host.Cell := []
  /-- written-bits by line of the device address (address / 64) of tile stores; R59; reset clear. -/
  written : Table Bool := []
  /-- lines (address / 64) of tile stores found uncorrectable and not written whole since; R57, R59; reset none. -/
  badLines : List Nat := []
  /-- drain descriptors, row masks, scales and biases that PENDING tensor operations name; R114, R146; reset none. -/
  watch : List Watch := []
  boot : Boot := {}
  hif : HostIf := {}
  comp : Compose := {}
  /-- tiles 0 to 67; R13. -/
  tiles : Table Tile := []
  /-- memory ports 0 to 15; R226. -/
  ports : Table Port := []
  bram : Bramble := {}
  /-- runner ports 0 to 3; R355. -/
  runners : Table Runner := []
  /-- lane quads 0 to 15; R355. -/
  quads : Table Quad := []
  /-- lanes 0 to 63; R382. -/
  lanes : Table Lane := []
  pwr : Power := {}
  /-- crossings by index; R423. -/
  xings : Table Xing := []
  stone : Stone := {}
  sec : Sec := {}
  obs : Obs := {}
  /-- sequence counter of each event source, 32 bits, by source identifier; R31; reset 0. -/
  seqs : Table (BitVec 32) := []
  /-- LOST_COUNT of each source's fault records, 16 bits; R460; reset 0. -/
  faultLost : Table Nat := []
  deriving DecidableEq, Repr

/-- The machine right after reset: every register at its Reset column, the input not yet in range, nothing in
memory, no command waiting. -/
def State.reset : State := {}

/-- Why the machine stops with a fault. -/
inductive Fault where
  /-- Raised by no meaning: the K9 answers an address that does not exist with an effect (reads zero, SEGMENT,
  SEGMENT_FAULT, unmapped), so no access ends the machine. Safe. -/
  | addressHole
  deriving DecidableEq, Repr

/-- Why the machine refuses a command. -/
inductive Refusal where
  /-- Answered by exec for a constructor that has no meaning. Safe. -/
  | notModelled (mnemonic : String)
  /-- Answered by an event command in a state where the event cannot come about (no such operation in progress,
  the condition the rule gives for the event does not hold): the spec gives the event no effect there. Safe. -/
  | notEnabled (event : String)
  /-- Answered by a Rilax command whose base word is not a word of its row. Safe. -/
  | otherWord (mnemonic : String)
  deriving DecidableEq, Repr

/-- One step's answer. -/
abbrev Ans := Host.Outcome State Fault Refusal

end Sys2Proof.Machine
end

