-- ==== Sys2Proof/Machine/Image.lean ====
section
/-! DEFINITION. Migration images (R349, R350). Tools must treat the sections as opaque, so their bytes are the value of
a function with no body, and a restore reads them by another (log 18). -/

namespace Sys2Proof.Machine

/-- A saved share: rank, granules, DEADLINE as an offset from the pacer (none for no deadline), SLOT_FLAGS, the
pending-launch FIFO, and the written lines by number within the share. -/
structure SavedShare where
  rank : Nat := 0
  granules : Nat := 0
  deadline : Option Word := none
  flags : BitVec 16 := 0
  fifo : List Launch := []
  lines : List (Nat × List Byte) := []
  deriving DecidableEq, Repr, Inhabited

/-- What an image holds of a context (R349). -/
structure Saved where
  bunch : BitVec 32 := 0
  pasid : BitVec 20 := 0
  pinned : Bool := false
  segs : Table (BitVec 256) := []
  names : Table (List Nat × List Nat) := []
  backing : Option (Nat × Nat × Nat) := none
  queues : List (Nat × Queue) := []
  fences : List (Nat × Fence) := []
  objs : List (Nat × Obj) := []
  shares : List SavedShare := []
  channel : List Msg := []
  /-- contents of capacity ranges: port, granules, bytes that are not zero by range offset -/
  ranges : List (Nat × Nat × List (Nat × Byte)) := []
  deriving DecidableEq, Repr, Inhabited

end Sys2Proof.Machine

namespace Sys2Proof.Config

/-- The contents of the section of a TYPE (R349); tools must treat them as opaque. -/
opaque sectionOf (ty : Nat) (x : Sys2Proof.Machine.Saved) (n : Nat) : List Byte

/-- The contents of an AUTH section: KEY_ID, nonce and tags (R479). -/
opaque authOf (key : BitVec 256) (keyId nonce : Nat) (image : List Byte) : List Byte

/-- The KEY_ID that the AUTH section of an image holds (R479). -/
opaque imageKeyId (bytes : List Byte) : Nat

/-- What the sections of an image say; none when a tag fails (R351). -/
opaque imageIn (bytes : List Byte) (key : BitVec 256) : Option Sys2Proof.Machine.Saved

end Sys2Proof.Config
end

