-- ==== Sys2Proof/Config.lean ====
section
/-! DEFINITION. What one implementation fixes and the manual leaves open (free values, with no body), and the fixed
numbers of the three variants. -/

namespace Sys2Proof.Config

/-- A free value of `w` bits: the `n`-th draw of the machine's open values (log 1). -/
opaque freeBits (w n : Nat) : BitVec w

/-- KMAC256 under a key (R475, R474); the manual names the function and gives no values. -/
opaque kmac256 (key : BitVec 256) (label : Nat) (data : List Byte) : BitVec 256

/-- The cipher of the K9's key wraps, KEM and AES-256-GCM (R372, R477, R479): the bytes that key and nonce give. -/
opaque cipher (key : BitVec 256) (nonce : Nat) (data : List Byte) : List Byte

/-- What unwrapping the bytes with a key gives: none when the check fails (R475, R477, R479). -/
opaque unwrap (key : BitVec 256) (data : List Byte) : Option (BitVec 256)

/-- The generation of the module's KEM key pair to which a ciphertext is encapsulated, none where it is to no key of the module, and
the secret that it opens to under a private key (R467, R473, R477). -/
opaque kemTo (bytes : List Byte) : Option Nat
opaque kemSecret (key : BitVec 512) (bytes : List Byte) : BitVec 256

/-- Byte `i` of the encapsulation key of a private ML-KEM-1024 key (R468). -/
opaque kemPublic (key : BitVec 512) (i : Nat) : Byte

/-- Byte `i` of the SLH-DSA-SHAKE-256f signature of data under a private attestation key (R468), and the certificate that the identity
key gives that key (R467), in DER form. -/
opaque slhSign (key : BitVec 512) (data : List Byte) (i : Nat) : Byte
opaque attCert (key : BitVec 512) : List Byte

/-- Byte `i` of the module's public identity key, and its certificate, made at manufacture (R466). -/
opaque identityByte (i : Nat) : Byte
opaque identityCert : List Byte

/-- SHAKE256 digest of 32 bytes (R464, R470). -/
opaque shake256 (data : List Byte) : BitVec 256

/-- OP of a management frame (R472): of the command that a response answers, or of an event. The manual gives no numbers. -/
opaque mgmtOp (sid : BitVec 32) (seq : Nat) : BitVec 16

/-- Estimated energy of a launch's tiles in nJ, or the bytes of a transfer that ended early or compared (R410): open values. -/
opaque energy (n : Nat) : Nat

/-- The 64-byte public identity key (R466). -/
def identityKey : List Byte := (List.range 64).map identityByte

/-- DEVICE_ID: the first 8 bytes of SHAKE256 of the public identity key (R466). -/
def deviceId : BitVec 64 := (shake256 identityKey).setWidth 64

/-- Silicon stepping (R512) and the test-mode fuse (R485, R486), fixed for a module. -/
opaque stepping : BitVec 16
opaque testFuse : Bool
/-- Akmenor's PCI-SIG vendor identifier (R280); the spec gives no number. -/
opaque vendorId : BitVec 16

/-- The set point, in units of 0.5 mV, that the power controller seeks for a rate that no set point of the tile reads (R405). -/
opaque vddFor (tile mhz : Nat) : Nat

/-- The step rate in MHz that one tile's monitor reads at a set point, in units of 0.5 mV, and a temperature (R5, R20). -/
opaque rateAt (tile halfMillivolts : Nat) (celsius : Int) : Nat

/-- The path that the MGC's tables of a generation give a packet from one router to another, both included (R264, R267). -/
opaque tablePath (generation a b : Nat) : List Nat

/-- A partner is connected to a runner port: how the module is wired (R28). -/
opaque hasPartner (port : Nat) : Bool

/-- The counter event `i` of a group's source in one bank (R489 to R492). -/
opaque counterOf (group index n : Nat) : BitVec 64

end Sys2Proof.Config

namespace Sys2Proof.Machine

/-- Physical tiles of a variant (R1). -/
def tilesOf : Variant → Nat
  | .k9c => 34
  | _ => 68

/-- Memory ports (R1). -/
def portsOf : Variant → Nat
  | .k9c => 8
  | _ => 16

/-- Runner ports (R1). -/
def runnersOf : Variant → Nat
  | .k9a => 4
  | .k9s => 0
  | .k9c => 2

/-- Quarters (R13). -/
def quartersOf : Variant → Nat
  | .k9c => 2
  | _ => 4

/-- Tiles in service at most (R16). -/
def usableOf : Variant → Nat
  | .k9c => 32
  | _ => 64

/-- Maximum input power in watts (R1). -/
def maxPowerOf : Variant → Nat
  | .k9a => 2400
  | .k9s => 2300
  | .k9c => 1250

/-- PCIe device identifier (R280). -/
def deviceOf : Variant → Nat
  | .k9a => 0x0A91
  | .k9s => 0x0A92
  | .k9c => 0x0A93

/-- The port whose Husk copy pairs with M0's (R4, R228). -/
def huskPortOf : Variant → Nat
  | .k9c => 4
  | _ => 8

/-- Quarter of a tile (R13). -/
def quarterOf (t : Nat) : Nat := t / 17

end Sys2Proof.Machine
end

