-- ==== Sys2Proof/Machine/Crossings.lean ====
section
/-! DEFINITION. How values cross between the self-timed core and the clocked islands: the hold-stable-and-flag rule (R424) and the
FIFOs of the streams (R425). -/

namespace Sys2Proof.Machine

def State.xing (s : State) (i : Nat) : Xing := tget {} s.xings i
def State.setXing (s : State) (i : Nat) (x : Xing) : State := { s with xings := tput s.xings i x }

/-- Parity bit of a byte: odd number of ones (the sense of the parity is the model's; log 175). -/
def byteParity (b : Byte) : Bool := popCount b.toNat 8 % 2 == 1

/-- Steps 1 and 2 of R424: the sender writes its holding register only when the last value was acknowledged. -/
def Hold.offer (h : Hold) (v : List Byte) : Option Hold :=
  if h.req == h.ack then some { h with value := v, parity := v.map byteParity, req := !h.req } else none

/-- Steps 3 and 4: the receiver takes a requested value, whose parity is good or not (none), and acknowledges it. -/
def Hold.take (h : Hold) : Option (Option (List Byte) × Hold) :=
  if h.req == h.ack then none
  else some (if h.value.map byteParity == h.parity then some h.value else none, { h with ack := !h.ack })

/-- One whole transfer. -/
def Hold.pass (h : Hold) (v : List Byte) : Option (List Byte) × Hold :=
  match (h.offer v).bind Hold.take with
  | some r => r
  | none => (none, h)

/-- Gray code of a pointer. -/
def grayOf (p : BitVec 5) : List Byte := [(p ^^^ (p >>> 1)).setWidth 8]

/-- The pointer of a Gray code. -/
def ofGray (l : List Byte) : BitVec 5 :=
  let g : BitVec 5 := (l.headD 0).setWidth 5
  g ^^^ (g >>> 1) ^^^ (g >>> 2) ^^^ (g >>> 3) ^^^ (g >>> 4)

/-- An entry is written only while the pointers show it free. -/
def Stream.write (x : Stream) (e : List Byte) : Option Stream :=
  if (x.wr - x.rdSeen).toNat < 16 then some { x with fifo := x.fifo ++ [e], wr := x.wr + 1 } else none

/-- An entry is read only while the pointers show it full. -/
def Stream.read (x : Stream) : Option (List Byte × Stream) :=
  if x.wrSeen = x.rd then none
  else match x.fifo with
    | e :: r => some (e, { x with fifo := r, rd := x.rd + 1 })
    | [] => none

/-- The write pointer passes to the receiver, the read pointer to the sender: each takes what the holding register gave it, and
nothing where its parity is bad (R424, R426). -/
def Stream.tellWr (x : Stream) : Stream :=
  let r := x.wrHold.pass (grayOf x.wr)
  { x with wrSeen := (r.1.map ofGray).getD x.wrSeen, wrHold := r.2 }
def Stream.tellRd (x : Stream) : Stream :=
  let r := x.rdHold.pass (grayOf x.rd)
  { x with rdSeen := (r.1.map ofGray).getD x.rdSeen, rdHold := r.2 }

/-- One entry crosses: written, announced, read, and its place given back. -/
def Stream.carry (x : Stream) (e : List Byte) : Stream :=
  match ((x.write e).map Stream.tellWr).bind Stream.read with
  | some (_, y) => y.tellRd
  | none => x

/-- One entry crosses crossing `i` to its island, or from it. -/
def State.crossDown (s : State) (i : Nat) (e : List Byte) : State :=
  s.setXing i { s.xing i with down := (s.xing i).down.carry e }
def State.crossUp (s : State) (i : Nat) (e : List Byte) : State :=
  s.setXing i { s.xing i with up := (s.xing i).up.carry e }

/-- The crossing that an output takes to its island, and what passes (R423, R425): the PCIe controller's, the management MAC's,
the Stone island's, or a runner port's. -/
def Out.crosses : Out → Option (Nat × List Byte)
  | .dma _ iova bytes => some (0, toBytes 8 iova ++ bytes)
  | .dmaRead _ iova n => some (0, toBytes 8 iova ++ toBytes 4 n)
  | .msix v => some (0, toBytes 2 v)
  | .readData d _ => some (0, d)
  | .mgmt sid _ _ body _ => some (1, toBytes 4 sid.toNat ++ body)
  | .ibi b => some (2, toBytes 1 b.toNat)
  | .training x id full => some (32 + x / 4, toBytes 8 id.toNat ++ toBytes 1 (bit full))
  | .flit x f => some (32 + x / 4, toBytes 64 f.toNat)
  | _ => none

/-- What an output does to its crossing. -/
def State.crossOut (s : State) (o : Out) : State :=
  match o.crosses with
  | some (i, e) => s.crossDown i e
  | none => s

/-- The crossing carries traffic (R427, R429, R430). -/
def State.xingRuns (s : State) (i : Nat) : Bool := (s.xing i).st == 1

/-- Step 3 of R427: a side clears its own pointers, and discards what it has not taken. -/
def Stream.clearSender (x : Stream) : Stream := { x with fifo := [], wr := 0, rdSeen := 0, wrHold := {} }
def Stream.clearReceiver (x : Stream) : Stream := { x with fifo := [], rd := 0, wrSeen := 0, rdHold := {} }
def Xing.clearSide (x : Xing) (island : Bool) : Xing :=
  if island then { x with down := x.down.clearReceiver, up := x.up.clearSender, doneIsland := true }
  else { x with down := x.down.clearSender, up := x.up.clearReceiver, doneCore := true }

end Sys2Proof.Machine
end

