-- ==== Sys2Proof/Machine/Ops.lean ====
section
/-! DEFINITION. The named operations over the state: instances by number, memory, outputs, interrupts, fault records,
completion records, counters and fences' users. Meanings write memory, records and registers only through these. -/

namespace Sys2Proof.Machine

/-! ### Instances -/

def State.tile (s : State) (t : Nat) : Tile := tget {} s.tiles t
def State.setTile (s : State) (t : Nat) (x : Tile) : State := { s with tiles := tput s.tiles t x }
def State.queue (s : State) (q : Nat) : Queue := tget {} s.hif.queues q
def State.setQueue (s : State) (q : Nat) (x : Queue) : State :=
  { s with hif := { s.hif with queues := tput s.hif.queues q x } }
def State.ctx (s : State) (c : Nat) : Ctx := tget {} s.hif.ctxs c
def State.setCtx (s : State) (c : Nat) (x : Ctx) : State :=
  { s with hif := { s.hif with ctxs := tput s.hif.ctxs c x } }
def State.fence (s : State) (f : Nat) : Fence := tget {} s.hif.fences f
def State.setFence (s : State) (f : Nat) (x : Fence) : State :=
  { s with hif := { s.hif with fences := tput s.hif.fences f x } }
def State.obj (s : State) (h : Nat) : Obj := tget {} s.hif.objs h
def State.setObj (s : State) (h : Nat) (x : Obj) : State :=
  { s with hif := { s.hif with objs := tput s.hif.objs h x } }
def State.bunch (s : State) (i : Nat) : Bunch := tget {} s.comp.bunches i
def State.setBunch (s : State) (i : Nat) (x : Bunch) : State :=
  { s with comp := { s.comp with bunches := tput s.comp.bunches i x } }
def State.port (s : State) (m : Nat) : Port := tget {} s.ports m
def State.setPort (s : State) (m : Nat) (x : Port) : State := { s with ports := tput s.ports m x }
def State.quad (s : State) (x : Nat) : Quad := tget {} s.quads x
def State.setQuad (s : State) (x : Nat) (v : Quad) : State := { s with quads := tput s.quads x v }
def State.runner (s : State) (x : Nat) : Runner := tget {} s.runners x
def State.setRunner (s : State) (x : Nat) (v : Runner) : State := { s with runners := tput s.runners x v }
def State.dom (s : State) (d : Nat) : Dom := tget {} s.pwr.doms d
def State.setDom (s : State) (d : Nat) (x : Dom) : State :=
  { s with pwr := { s.pwr with doms := tput s.pwr.doms d x } }
def State.latch (s : State) (r : Nat) : Latch := tget {} s.stone.rows r
def State.group (s : State) (g : Nat) : Group := tget {} s.obs.groups g
def State.setGroup (s : State) (g : Nat) (x : Group) : State :=
  { s with obs := { s.obs with groups := tput s.obs.groups g x } }

def State.setCore (s : State) (t : Nat) (c : Core) : State := s.setTile t { s.tile t with core := c }
def Tile.slot (x : Tile) (i : Nat) : Slot := tget {} x.slots i
def Tile.setSlot (x : Tile) (i : Nat) (v : Slot) : Tile := { x with slots := tput x.slots i v }
def Tile.intake (x : Tile) (i : Nat) : Intake := tget {} x.intakes i
def Tile.setIntake (x : Tile) (i : Nat) (v : Intake) : Tile := { x with intakes := tput x.intakes i v }

/-- A physical tile of the variant (R1). -/
def State.hasTile (s : State) (t : Nat) : Bool := t < tilesOf s.boot.variant
def State.hasPort (s : State) (m : Nat) : Bool := m < portsOf s.boot.variant
def State.hasRunner (s : State) (x : Nat) : Bool := x < runnersOf s.boot.variant
def State.tileNos (s : State) : List Nat := List.range (tilesOf s.boot.variant)

/-- The pacer count of a tile (R62). -/
def State.pacer (s : State) (t : Nat) : Word := s.time - (s.tile t).base

/-- Slot of a tile that holds context `c` (R67). -/
def Tile.slotOf (x : Tile) (c : Nat) : Option Nat :=
  (List.range 16).find? (fun i => (x.slot i).valid && (x.slot i).ctx == c)

/-- The context of the running kernel (R175). -/
def Core.ctx (c : Core) : Option Nat := c.run.map (fun r => r.launch.ctx)

/-- Index of the record of a bunch identifier (R322). -/
def State.findBunch (s : State) (id : BitVec 32) : Option Nat :=
  (List.range 256).find? (fun i => (s.bunch i).st != 0 && (s.bunch i).id == id)

/-- The bunch record of an identifier, an INVALID one when no record holds it. -/
def State.bunchOf (s : State) (id : BitVec 32) : Bunch :=
  match s.findBunch id with
  | some i => s.bunch i
  | none => {}

/-- Update the record of a bunch identifier. -/
def State.updBunch (s : State) (id : BitVec 32) (f : Bunch → Bunch) : State :=
  match s.findBunch id with
  | some i => s.setBunch i (f (s.bunch i))
  | none => s

/-- Parent chain of a bunch, itself first (R35). -/
def State.ancestors (s : State) : Nat → BitVec 32 → List (BitVec 32)
  | 0, _ => []
  | n + 1, id => if id = 0 then [] else id :: s.ancestors n (s.bunchOf id).parent

/-- `id` is `top` or nested in it (R294, R322). -/
def State.nestedIn (s : State) (id top : BitVec 32) : Bool := (s.ancestors 257 id).contains top

/-- A bunch is assigned to this host: it, or one that holds it, was assigned (R304). -/
def State.assigned (s : State) (id : BitVec 32) : Bool := (s.ancestors 257 id).any (fun a => (s.bunchOf a).host)

/-- Leaf tiles of a bunch on this module that are not lost, with their ranks (R37, R334: the current map). -/
def Bunch.localLeaves (b : Bunch) : List (Nat × Nat) :=
  ((List.range b.map.length).zip b.map).filterMap (fun (r, l) =>
    if l.module = 0 && !b.lost.contains r then some (r, l.tile) else none)

/-- Bunch of which a tile of this module is a direct member, 0 for none (R35). -/
def State.tileBunch (s : State) (t : Nat) : BitVec 32 :=
  match (List.range 256).find? (fun i => (s.bunch i).st != 0 && (s.bunch i).members.contains (.tile t)
      && (s.bunch i).localLeaves.any (fun p => p.2 == t)) with
  | some i => (s.bunch i).id
  | none => 0

/-- The map under which traffic of an epoch is served (R334): none for a stale epoch. -/
def Bunch.mapFor (x : Bunch) (e : BitVec 16) : Option (List Leaf) :=
  if e = x.epoch then some x.map else if e + 1 = x.epoch && x.prevLive then some x.prevMap else none

/-- Local tile at a rank of a map. -/
def leafAt (m : List Leaf) (r : Nat) : Option Nat :=
  match m[r]? with
  | some l => if l.module = 0 then some l.tile else none
  | none => none

/-- A graft migrates the shares of a tile: its endpoint holds the requests for them (R329). -/
def State.movesShares (s : State) (t : Nat) : Bool := s.comp.grafts.any (fun g => g.kind ≤ 1 && 2 ≤ g.step && g.out == t)

/-- Launches that have started on a tile and not ended there (R296, R390). -/
def Tile.launches (x : Tile) : List Launch :=
  (x.core.run.map (·.launch)).toList ++ x.slots.flatMap (fun e => e.2.fifo) ++ x.standby.flatMap (·.fifo)

/-- A borrowed tile runs its self-test: the launches that had started on it have ended on every tile here, and its endpoint holds
all packets (R456). -/
def State.inBist (s : State) (t : Nat) : Bool :=
  s.stone.inTurn.contains t && (s.tile t).role == 0 && (s.tile t).noLaunch
    && !s.comp.grafts.any (fun g => g.kind ≤ 1 && g.out == t)
    && s.tiles.all (fun e => e.2.launches.all (fun l =>
      !(e.1 == t || (l.one.isNone && (s.bunchOf l.scope).localLeaves.any (fun p => p.2 == t)))))

/-- A tile graft names the tile: what leaves it, what comes in or its heir (R325). -/
def State.inGraft (s : State) (t : Nat) : Bool :=
  s.comp.grafts.any (fun g => g.kind ≤ 1 && (g.out == t || g.inc == t || g.heir == some t))

/-- Context-owned confidentiality (R480, R319). -/
def State.confCtx (s : State) (c : Nat) : Bool := (s.ctx c).conf

/-! ### Free values -/

/-- The next open value of `w` bits, and the state that has drawn it (log 1). -/
def State.draw (s : State) (w : Nat) : BitVec w × State :=
  (Config.freeBits w s.fresh, { s with fresh := s.fresh + 1 })

/-! ### Memory -/

/-- Device address of a byte of a memory port (R242). -/
def lpAddr (m off : Nat) : Nat := m * 2 ^ 40 + off

/-- Device address of a byte of a tile store (R242). -/
def tsAddr (t off : Nat) : Nat := 2 ^ 52 + t * 2 ^ 32 + off

/-- A device address of the tile-store space (R242). -/
def isStore (a : Nat) : Bool := fld a 52 4 == 1

/-- The byte a cell holds; an unlisted cell reads zero (log 11). -/
def memGet (m : List Host.Cell) (a : Nat) : Byte := tget 0 m a

/-- Write one cell: the zero byte is not listed. -/
def memPut (m : List Host.Cell) (a : Nat) (b : Byte) : List Host.Cell :=
  if b = 0 then tdel m a else tput m a b

/-- The canonical form of the memory: addresses rise strictly and no entry equals what an unlisted address reads as. -/
abbrev memWf (m : List Host.Cell) : Prop :=
  m.Pairwise (fun x y => x.1 < y.1) ∧ ∀ c ∈ m, c.2 ≠ 0

/-- The written-bit of the line that holds a byte of a tile store (R59). -/
def State.lineWritten (s : State) (a : Nat) : Bool := tget false s.written (a / 64)

/-- Read one byte (R59: a line whose written-bit is clear reads zero). -/
def State.peek (s : State) (a : Nat) : Byte :=
  if isStore a && !s.lineWritten a then 0 else memGet s.mem a

/-- Remove the cells of `n` bytes from `a`. -/
def memErase (m : List Host.Cell) (a n : Nat) : List Host.Cell := m.filter (fun c => c.1 < a || a + n ≤ c.1)

/-- A byte is written: the PENDING tensor operations that name it know (R114, R146). -/
def Watch.at (w : Watch) (a : Nat) : Watch := if w.addr ≤ a && a < w.addr + w.len then { w with hit := true } else w

/-- Write one byte. A write to a line whose written-bit is clear sets it and zeroes the rest of the line (R59). -/
def State.poke (s : State) (a : Nat) (b : Byte) : State :=
  if isStore a && !s.lineWritten a then
    { s with
      mem := memPut (memErase s.mem (a / 64 * 64) 64) a b, written := tput s.written (a / 64) true, watch := s.watch.map (·.at a) }
  else { s with mem := memPut s.mem a b, watch := s.watch.map (·.at a) }

/-- Read `n` bytes in ascending order. -/
def State.peekN (s : State) (a n : Nat) : List Byte := (List.range n).map (fun i => s.peek (a + i))

/-- Write bytes in ascending order. -/
def State.pokeN (s : State) (a : Nat) : List Byte → State
  | [] => s
  | b :: bs => (s.poke a b).pokeN (a + 1) bs

/-- Clear the written-bits of `n` bytes of a tile store (R60); their cells go with them. -/
def State.clearStore (s : State) (a n : Nat) : State :=
  { s with
    mem := memErase s.mem a n
    written := s.written.filter (fun p => p.1 * 64 < a || a + n ≤ p.1 * 64)
    badLines := s.badLines.filter (fun k => k * 64 < a || a + n ≤ k * 64) }

/-- Granules of a bit map in ascending order (R55). -/
def granulesOf (bm : BitVec 256) : List Nat := (List.range 256).filter (fun i => bm.getLsbD i)

/-- Clear the granules of a bit map on a tile (R60). -/
def State.clearGranules (s : State) (t : Nat) (bm : BitVec 256) : State :=
  (granulesOf bm).foldl (fun s g => s.clearStore (tsAddr t (g * 0x200000)) 0x200000) s

/-- Store offset that a share offset maps to (R55): none beyond the share. -/
def shareOff (bm : BitVec 256) (o : Nat) : Option Nat :=
  (nthBit bm.toNat 256 0 (o / 0x200000)).map (fun g => g * 0x200000 + o % 0x200000)

/-- Size of a share in bytes (R55). -/
def shareBytes (bm : BitVec 256) : Nat := popCount bm.toNat 256 * 0x200000

/-- Bank of a store offset (R56). -/
def bankOf (off : Nat) : Nat := (fld (off >>> 6) 0 6) ^^^ (fld (off >>> 6) 6 6)

/-- Row of a store offset within its bank (R56). -/
def rowOf (off : Nat) : Nat := off >>> 12

/-! ### Sources, outputs and interrupts -/

/-- Source identifier of a class and index (R30). -/
def srcId (cls idx : Nat) : BitVec 32 := BitVec.ofNat 32 (cls * 2 ^ 28 + idx)

/-- What a source's next event carries, and the counter after it (R31). -/
def State.nextSeq (s : State) (src : BitVec 32) : BitVec 32 × State :=
  (tget 0 s.seqs src.toNat, { s with seqs := tput s.seqs src.toNat (tget 0 s.seqs src.toNat + 1) })

/-- Send one output, through the crossing of its island. -/
def State.emit (s : State) (o : Out) : State := { s.crossOut o with out := o :: s.out }

/-- Word `i` of the MSI-X table: the vector control of an entry resets masked (log 9). -/
def State.msixWord (s : State) (i : Nat) : Word :=
  tget (if i % 2 = 1 then 0x100000000 else 0) s.hif.msixTable i

/-- Send MSI-X vector `v`, or set its pending bit while the entry is masked (R280, R318). -/
def State.msix (s : State) (v : Nat) : State :=
  if (s.msixWord (2 * v + 1)).getLsbD 32 then
    { s with hif := { s.hif with msixPend := tput s.hif.msixPend v true } }
  else s.emit (.msix v)

/-- The manager's PASID: that of context 0 (R304). -/
def State.mgrPasid (s : State) : BitVec 20 := (s.ctx 0).pasid

/-! ### Fault records -/

/-- The 32 bytes of a fault record (R458). -/
def faultBytes (src seq : BitVec 32) (code : BitVec 16) (ctx : Option Nat) (safety lost conf phase : Bool)
    (lostCount : Nat) (detail : BitVec 64) (pacer : Word) : List Byte :=
  toBytes 4 src.toNat ++ toBytes 4 seq.toNat ++ toBytes 2 code.toNat
    ++ toBytes 2 (match ctx with | some c => c % 1024 + 0x8000 | none => 0)
    ++ toBytes 2 (bit safety + 2 * bit lost + 4 * bit conf + 0x8000 * bit phase)
    ++ toBytes 2 lostCount ++ toBytes 8 (if conf then 0 else detail.toNat) ++ toBytes 8 pacer.toNat

/-- The tile whose pacer a fault record of the source carries (R458). -/
def srcTile (src : BitVec 32) : Option Nat :=
  if fld src.toNat 28 4 = 1 then some (fld src.toNat 0 16)
  else if fld src.toNat 28 4 = 2 then some (fld src.toNat 0 16 / 8) else none

/-- Records the fault ring holds (R459). -/
def State.fqSize (s : State) : Nat := 2 ^ fld s.hif.fqCfg.toNat 0 5

/-- Bytes 0 to the end of BODY of a management frame (R472); the manual gives OP no numbers. -/
def mgmtFrame (sid : BitVec 32) (seq : Nat) (status : BitVec 16) (body : List Byte) : List Byte :=
  toBytes 4 sid.toNat ++ toBytes 8 seq ++ toBytes 2 (Config.mgmtOp sid seq).toNat ++ toBytes 2 status.toNat
    ++ toBytes 4 body.length ++ toBytes 4 0 ++ body

/-- A frame to an open session, under its next SEQ, with the TAG of its D2C key (R475; label 6). -/
def Session.frame (x : Session) (status : BitVec 16) (body : List Byte) : Out :=
  .mgmt x.sid x.seqOut status body (some (Config.kmac256 x.d2c 6 (mgmtFrame x.sid x.seqOut status body)))

/-- Send an event to every open session (R460, R475): each carries the session's next SEQ. -/
def State.sendEvents (s : State) (body : List Byte) : State :=
  let s := s.sec.sessions.foldl (fun s x => if x.isOpen then s.emit (x.frame 0 body) else s) s
  { s with sec := { s.sec with
      sessions := s.sec.sessions.map (fun x => if x.isOpen then { x with seqOut := x.seqOut + 1 } else x) } }

/-- Produce one fault record with the pacer count at its fault (R458 to R460): written and signalled by MSI-X vector 2, or counted
as lost. -/
def State.faultAt (s : State) (pac : Word) (src : BitVec 32) (code : BitVec 16) (ctx : Option Nat) (safety : Bool)
    (detail : BitVec 64) : State :=
  let (seq, s) := s.nextSeq src
  let conf := match ctx with | some c => s.confCtx c | none => false
  let lost := tget 0 s.faultLost src.toNat
  let r := s.hif.fqWritten
  let bytes := faultBytes src seq code ctx safety (lost != 0) conf ((r / s.fqSize + 1) % 2 == 1) lost detail pac
  let s := if safety then s.sendEvents bytes else s
  if s.hif.fqCfg.getLsbD 11 && r - s.hif.fqHead.toNat < s.fqSize then
    let s := s.emit (.dma s.mgrPasid (fld s.hif.fqCfg.toNat 12 52 * 4096 + r % s.fqSize * 32) bytes)
    let s := { s with hif := { s.hif with fqWritten := r + 1 }, faultLost := tput s.faultLost src.toNat 0 }
    s.msix 2
  else
    { s with
      hif := { s.hif with fqOver := satAdd 0xFFFF s.hif.fqOver 1 }
      faultLost := tput s.faultLost src.toNat (satAdd 0xFFFF lost 1) }

/-- The pacer count that a fault of a source detected now carries (R458). -/
def State.srcPacer (s : State) (src : BitVec 32) : Word := match srcTile src with | some t => s.pacer t | none => 0

/-- Produce the record of a fault detected now. -/
def State.fault (s : State) (src : BitVec 32) (code : BitVec 16) (ctx : Option Nat) (safety : Bool) (detail : BitVec 64) : State :=
  s.faultAt (s.srcPacer src) src code ctx safety detail

/-- Tile that a safety fault concerns: the source of classes 1 and 2, the detail of rows 19 and 21 (R420, R442). -/
def unitTile (row : Nat) (src : BitVec 32) (detail : BitVec 64) : Option Nat :=
  if row = 19 then some detail.toNat
  else if row = 21 then (if detail.toNat < 136 then some (detail.toNat % 68) else none)
  else srcTile src

/-- The context that runs on a tile that a fault concerns. -/
def State.runningOn (s : State) (t : Option Nat) : List Nat := (t.bind (fun t => (s.tile t).core.ctx)).toList

/-- Report a safety fault to the Stone island, which reacts by SAFETY_FAULT_REACTION (R443): it passes crossing 2. -/
def State.raiseSafety (s : State) (row : Nat) (src : BitVec 32) (ctxs : List Nat) (detail : BitVec 64) : State :=
  { s.crossDown 2 (toBytes 4 src.toNat ++ toBytes 8 detail.toNat) with stone := { s.stone with
    faults := s.stone.faults ++ [{ row, src, ctxs, detail, pacer := s.srcPacer src, running := s.runningOn (unitTile row src detail) }] } }

/-! ### Counters (R488 to R495) -/

/-- Add `k` to counter `i` of group `g` when the group is enabled; counters saturate (R487, R488). -/
def State.count (s : State) (g i k : Nat) : State :=
  let x := s.group g
  if x.ctl.getLsbD 0 then
    s.setGroup g { x with counters := tput x.counters i (satAdd (2 ^ 64 - 1) (tget 0 x.counters i) k) }
  else s

/-! ### Completion records -/

/-- The 32 bytes of a completion record (R300). -/
def recordBytes (src seq : BitVec 32) (q : Nat) (phase : Bool) (status layer op : BitVec 16) (detail : BitVec 32)
    (flags : BitVec 16) (energy : BitVec 32) : List Byte :=
  toBytes 4 src.toNat ++ toBytes 4 seq.toNat ++ toBytes 2 (q % 4096 + 0x8000 * bit phase)
    ++ toBytes 2 status.toNat ++ toBytes 2 layer.toNat ++ toBytes 2 op.toNat ++ toBytes 4 detail.toNat
    ++ toBytes 2 flags.toNat ++ toBytes 2 0 ++ toBytes 4 energy.toNat ++ toBytes 4 0

/-- Ring size of a queue (R301). -/
def Queue.ringSize (x : Queue) : Nat := 2 ^ fld x.cq.toNat 0 5

/-- Command buffer depth of a queue (R319). -/
def Queue.depth (x : Queue) : Nat := 16 * 2 ^ x.depthLog

/-- A ring slot is free: written + reserved − head < 2^SIZE_LOG (R301); each consumed command holds one slot. -/
def Queue.slotFree (x : Queue) : Bool :=
  x.written + x.cmds.length - min x.head x.written < x.ringSize

/-- After a record: MSI-X under EACH, or under COALESCE at COUNT records (R302). -/
def State.recordIrq (s : State) (q : Nat) (noIrq : Bool) : State :=
  let x := s.queue q
  let mode := fld x.irq.toNat 0 2
  let v := fld x.irq.toNat 32 11
  if noIrq then s
  else if mode = 1 then s.msix v
  else if mode = 2 then
    if x.coalesced + 1 ≥ fld x.irq.toNat 24 8 then (s.setQueue q { x with coalesced := 0 }).msix v
    else s.setQueue q { x with coalesced := x.coalesced + 1 }
  else s

/-- Write the next completion record of a queue (R300, R301) and send its message (R302). -/
def State.writeRecord (s : State) (q : Nat) (seq : BitVec 32) (status layer op : BitVec 16) (detail : BitVec 32)
    (flags : BitVec 16) (energy : BitVec 32) (noIrq : Bool) : State :=
  let x := s.queue q
  let (src, s) := s.nextSeq (srcId 5 q)
  let phase := (x.written / x.ringSize + 1) % 2 == 1
  let s := s.emit (.dma (s.ctx x.ctx).pasid (fld x.cq.toNat 12 52 * 4096 + x.written % x.ringSize * 32)
    (recordBytes src seq q phase status layer op detail flags energy))
  let s := s.setQueue q { s.queue q with written := x.written + 1 }
  s.recordIrq q noIrq

/-- Drop one reference on an object; a DOOMED object becomes FREE with the last (R311). -/
def State.dropRef (s : State) (h : Nat) : State :=
  let o := s.obj h
  if o.st = 2 && o.refs ≤ 1 then s.setObj h {} else s.setObj h { o with refs := o.refs - 1 }

/-- Field of a command packet: `n` bytes from byte `b` (R291). -/
def cmdFld (raw : BitVec 512) (b n : Nat) : Nat := fld raw.toNat (8 * b) (8 * n)

def QCmd.type (c : QCmd) : Nat := cmdFld c.raw 0 1
def QCmd.flags (c : QCmd) : Nat := cmdFld c.raw 1 1
def QCmd.layer (c : QCmd) : BitVec 16 := BitVec.ofNat 16 (cmdFld c.raw 2 2)
def QCmd.op (c : QCmd) : BitVec 16 := BitVec.ofNat 16 (cmdFld c.raw 4 2)

/-- The consumed command of a sequence number. -/
def Queue.cmd (x : Queue) (seq : BitVec 32) : Option QCmd := x.cmds.find? (fun c => c.seq == seq)

/-- Every command before `seq` in its queue has completed (R296). -/
def Queue.oldest (x : Queue) (seq : BitVec 32) : Bool :=
  match x.cmds with
  | c :: _ => c.seq == seq
  | [] => true

/-- Whether a status makes a later FENCE_SIGNAL set its fence's error flag (R297). -/
def failing (status : BitVec 16) : Bool := status != 0 && status != 6

/-- ENERGY in whole µJ (R410): an estimate in nJ scaled by CAL, and 12 pJ per byte moved, divided by EFF; it saturates (R300). -/
def State.energyOf (s : State) (nanojoules bytes : Nat) : BitVec 32 :=
  BitVec.ofNat 32 (min 0xFFFFFFFF ((nanojoules * 1000 * s.pwr.cal + bytes * 12 * 16384) * 4 / (s.pwr.eff * 1000000)))

/-- ENERGY of a command's record (R410): for a LAUNCH the estimate of its tiles, an open value, and the bytes of their masters;
for COPY, FILL and COMPARE the bytes moved, an open value where a transfer ended early or compared (log 17); 0 otherwise. -/
def State.cmdEnergy (s : State) (c : QCmd) (status : BitVec 16) : BitVec 32 :=
  if c.type = 1 then s.energyOf (if c.ran then Config.energy s.fresh else 0) c.moved
  else if !c.taken then 0
  else if (c.type = 2 || c.type = 3) && status = 0 then s.energyOf 0 (cmdFld c.raw 24 8)
  else if c.type = 2 || c.type = 3 || c.type = 4 then s.energyOf 0 (Config.energy s.fresh)
  else 0

/-- One command's end without the MARKERs it may free: its record is written and its references drop
(R290, R301, R311); a failure is kept for the next FENCE_SIGNAL (R297), and that of a FENCE_WAIT with STOP_ON_ERROR ends later
commands (R298). -/
def State.endCmd (s : State) (q : Nat) (seq : BitVec 32) (status : BitVec 16) (detail : BitVec 32)
    (flags : BitVec 16) : State :=
  match (s.queue q).cmd seq with
  | none => s
  | some c =>
    let x := s.queue q
    let s := s.setQueue q { x with
      cmds := x.cmds.filter (fun d => d.seq != seq)
      fails := if failing status then x.fails ++ [(seq, status)] else x.fails
      stops := if c.type = 6 && c.flags.testBit 2 && status != 0 then x.stops ++ [(seq, status)] else x.stops }
    let e := s.cmdEnergy c status
    let s := { s with fresh := s.fresh + 1 }
    let s := s.writeRecord q seq status c.layer c.op detail flags e ((c.flags).testBit 3)
    c.refs.foldl (fun s h => s.dropRef h) s

/-- Complete the MARKERs that wait and whose earlier commands have all completed (R299), oldest first. -/
def State.endMarkers (q : Nat) : Nat → State → State
  | 0, s => s
  | n + 1, s =>
    match (s.queue q).cmds with
    | c :: _ =>
      if c.type = 8 && c.inWait then
        State.endMarkers q n (s.endCmd q c.seq 0 (BitVec.ofNat 32 (cmdFld c.raw 8 4)) 0)
      else s
    | [] => s

/-- Write a queue's consumed count to its credit word (R289). -/
def State.writeCredit (s : State) (q : Nat) : State :=
  let x := s.queue q
  s.emit (.dma (s.ctx x.ctx).pasid (fld x.credit.toNat 3 61 * 8) (toBytes 8 x.consumed))

/-- A command that may have written data: a launch, COPY or FILL that has acted. -/
def QCmd.wroteData (c : QCmd) : Bool := c.taken && (c.type == 1 || c.type == 2 || c.type == 3)

/-- A command completes (R299, R301). Between its data and its record the credit word is written again (R302; log 156). -/
def State.finishCmd (s : State) (q : Nat) (seq : BitVec 32) (status : BitVec 16) (detail : BitVec 32)
    (flags : BitVec 16) : State :=
  let s := if ((s.queue q).cmd seq).any QCmd.wroteData then s.writeCredit q else s
  let s := s.endCmd q seq status detail flags
  State.endMarkers q (s.queue q).cmds.length s

/-- Update a consumed command. -/
def State.updCmd (s : State) (q : Nat) (seq : BitVec 32) (f : QCmd → QCmd) : State :=
  let x := s.queue q
  s.setQueue q { x with cmds := updFirst (fun c => c.seq == seq) f x.cmds }

/-! ### Fences (R313 to R317) -/

/-- A context a fence is bound to (R313). -/
def Fence.boundTo (x : Fence) (c : Nat) : Bool :=
  (List.range 4).any (fun j => x.bind.getLsbD (44 + j) && fld x.bind.toNat (10 * j) 10 == c)

/-- Contexts bound to a fence (R313, R441). -/
def Fence.bound (x : Fence) : List Nat :=
  (List.range 4).filterMap (fun j => if x.bind.getLsbD (44 + j) then some (fld x.bind.toNat (10 * j) 10) else none)

/-- A waiter with threshold `t` is reached (R315). -/
def fenceReached (t v : BitVec 32) : Bool := (t - v) == 0 || (t - v).toNat > 2 ^ 31

/-- What a waiter sees: none while it waits, else GONE 2, ERROR_FLAG 1 or REACHED 0 in that precedence (R208, R298). -/
def Fence.look (x : Fence) (t : BitVec 32) : Option Nat :=
  if !x.valid then some 2 else if x.err then some 1 else if fenceReached t x.val then some 0 else none

/-- A FENCE_WAIT ends with what its waiter saw (R298). -/
def State.endWait (s : State) (q : Nat) (c : QCmd) (f : Nat) (r : Nat) : State :=
  let status : BitVec 16 := if r = 0 then 0 else if r = 2 then 2 else (s.fence f).errStatus
  let detail : BitVec 32 := if r = 0 then 0 else BitVec.ofNat 32 f
  s.finishCmd q c.seq status detail 0

/-- Evaluate the host waiters of a fence (R315). -/
def State.evalHostWaits (s : State) (f : Nat) : State :=
  s.hif.queues.foldl (fun s (q, x) =>
    x.cmds.foldl (fun s c =>
      if c.type = 6 && c.inWait && cmdFld c.raw 8 2 = f then
        match (s.fence f).look (BitVec.ofNat 32 (cmdFld c.raw 12 4)) with
        | some r => s.endWait q c f r
        | none => s
      else s) s) s

/-- Write a general register; g0 discards (R170). -/
def Core.setG (c : Core) (i : Nat) (v : Word) : Core := if i = 0 then c else { c with g := tput c.g i v }

/-- Read a general register; g0 reads zero (R169). -/
def Core.getG (c : Core) (i : Nat) : Word := if i = 0 then 0 else tget 0 c.g i

/-- Read a predicate; p0 reads one (R169). -/
def Core.getP (c : Core) (i : Nat) : Bool := i == 0 || c.p.getLsbD i

/-- Write a predicate; p0 discards (R170). -/
def Core.setP (c : Core) (i : Nat) (b : Bool) : Core :=
  if i = 0 then c else { c with p := BitVec.ofNat 8 (putFld c.p.toNat i 1 (bit b)) }

def Core.getTok (c : Core) (k : Nat) : Tok := tget {} c.tok k
def Core.setTok (c : Core) (k : Nat) (x : Tok) : Core := { c with tok := tput c.tok k x }
def Core.getTd (c : Core) (i : Nat) : BitVec 256 := tget 0 c.td i
def Core.getV (c : Core) (i : Nat) : BitVec 32768 := tget 0 c.v i
def Core.getM (c : Core) (i : Nat) : BitVec 1024 := tget 0 c.m i
def Core.getCmp (c : Core) (i : Nat) : Cmp := tget {} c.comps i

/-- Set a fence's error flag; the first status stays (R316). -/
def State.flagFence (s : State) (f : Nat) (status : BitVec 16) : State :=
  let x := s.fence f
  if x.err then s else (s.setFence f { x with err := true, errStatus := status })

/-- A signal of value `v` (R314): the new fence, and whether the signal was stale. -/
def Fence.signal (x : Fence) (v : BitVec 32) : Fence × Bool :=
  if (v - x.val) = 0 then (x, false)
  else if (v - x.val).toNat < 2 ^ 31 then ({ x with val := v }, false)
  else ({ x with stale := satAdd 0xFFFF x.stale 1 }, true)

/-! ### Firmware of the units (R471, R509, R510) -/

/-- Digest of an image in flash, by bank and KIND. -/
def State.flashDigest (s : State) (bank kind : Nat) : BitVec 256 := (tget {} s.sec.flash (bank * 8 + kind) : Flash).digest

/-- An image in flash verifies at its load: it was found valid when it was written and has not been erased, and its SVN reaches the
fused minimum (R470, R471). -/
def State.flashOk (s : State) (bank kind : Nat) : Bool :=
  let x : Flash := tget {} s.sec.flash (bank * 8 + kind)
  x.valid && (tget (0, 0) s.sec.minSvn kind).1 ≤ x.svn

/-- A unit that is reset loads its image: the trial bank's while one is marked and its image verifies, else the committed bank's
(R471, R510). -/
def State.loadImage (s : State) (kind i : Nat) : State :=
  let other := 1 - s.sec.committed
  let bank := if s.sec.trial && s.flashOk other kind then other else s.sec.committed
  { s with sec := { s.sec with loaded := tput s.sec.loaded (kind * 128 + i) (s.flashDigest bank kind) } }

/-- The MGC restarts from a trial image (R509): mailbox operations and composition changes wait. -/
def State.mgcAway (s : State) : Bool := s.sec.updActive && s.sec.updKind == 2

/-- An instance is being updated: its drain has begun (R509). -/
def State.updating (s : State) (kind i : Nat) : Bool :=
  s.sec.updActive && s.sec.updDrained && s.sec.updKind == kind && s.sec.updDone == i

/-! ### Power state of a tile (R413) -/

/-- A quarter is BANKED or OFF, and the tables in force route nothing through it: its neighbours' bridge routers refuse every
packet addressed to it (R418). -/
def State.banked (s : State) (q : Nat) : Bool := (s.dom (136 + q)).st ≤ 1 && s.bram.avoid.contains (q * 32 + 14)

/-- TILE_STATUS.POWER of a tile domain: 0 ON, 1 KEEP, 2 OFF (R71, R413). -/
def State.tilePower (s : State) (t : Nat) : Nat :=
  match (s.dom t).st with
  | 0 => 2
  | 1 => 1
  | _ => 0

end Sys2Proof.Machine
end

