-- ==== Sys2Proof/Machine/Mesh.lean ====
section
/-! DEFINITION. The router mesh: positions (R254), links (R255, R256), default routes (R264), the tables in force and what makes a
table set fit (R265, R267), distances (R224, R251, R257), packets and their channels (R259, R260), and floors (R248). -/

namespace Sys2Proof.Machine

/-- Kind and local number of the router at x + 5y (R254, ROUTER.KIND of R278): 0 tile, 1 memory port, 2 runner,
3 infrastructure, 4 bridge H, 5 bridge V. -/
def routerKinds : List (Nat × Nat) :=
  [(2, 0), (1, 0), (0, 0), (1, 1), (3, 0),
   (1, 2), (0, 1), (0, 2), (0, 3), (0, 4)]
  ++ [(0, 5), (0, 6), (0, 7), (0, 8), (4, 0),
      (1, 3), (0, 9), (0, 10), (0, 11), (0, 12)]
  ++ [(0, 13), (0, 14), (5, 0), (0, 15), (0, 16)]

/-- The unit kind and unit number of router `i` of R30, none where no router lies. -/
def routerUnit (i : Nat) : Option (Nat × Nat) :=
  match routerKinds[i % 32]? with
  | some (0, n) => some (0, i / 32 * 17 + n)
  | some (1, n) => some (1, i / 32 * 4 + n)
  | some (k, _) => some (k, i / 32)
  | none => none

/-- The router exists on the variant (R279). -/
def State.hasRouter (s : State) (i : Nat) : Bool := i % 32 < 25 && i / 32 < quartersOf s.boot.variant

/-- The position within its quarter of a unit of a kind. -/
def routerPos (kind n : Nat) : Nat := (findIdx (fun p => p == (kind, n)) routerKinds 0).getD 0

/-- Router index of a tile, memory port, runner port, and the host interface (R30, R254). -/
def tileRouter (t : Nat) : Nat := t / 17 * 32 + routerPos 0 (t % 17)
def portRouter (m : Nat) : Nat := m / 4 * 32 + routerPos 1 (m % 4)
def runnerRouter (x : Nat) : Nat := x * 32 + routerPos 2 0
def hostRouter : Nat := routerPos 3 0

def routerX (i : Nat) : Nat := i % 32 % 5
def routerY (i : Nat) : Nat := i % 32 / 5

/-- Distance of two coordinates. -/
def absDiff (a b : Nat) : Nat := (a - b) + (b - a)

/-! ### Links (R255, R256) -/

/-- Bridge H and bridge V of a router's quarter. -/
def bridgeH (i : Nat) : Nat := i / 32 * 32 + 14
def bridgeV (i : Nat) : Nat := i / 32 * 32 + 22

/-- The router has an express link to bridge H, or to bridge V, of its quarter. -/
def onH (i : Nat) : Bool := (routerY i == 2 || routerX i == 4) && i % 32 != 14
def onV (i : Nat) : Bool := (routerY i == 4 || routerX i == 2) && i % 32 != 22

/-- One express link joins two routers of a quarter. -/
def expressLink (a b : Nat) : Bool :=
  a / 32 == b / 32 && ((a == bridgeH a && onH b) || (b == bridgeH b && onH a) || (a == bridgeV a && onV b) || (b == bridgeV b && onV a))

/-- Routers that link to router `i`: its mesh neighbours, by express links, and across a bridge. -/
def linksOf (i : Nat) : List Nat :=
  let x := routerX i
  let y := routerY i
  let q := i / 32
  let near := (if x = 0 then [] else [i - 1]) ++ (if x = 4 then [] else [i + 1])
    ++ (if y = 0 then [] else [i - 5]) ++ (if y = 4 then [] else [i + 5])
  let far := ((List.range 25).map (fun k => q * 32 + k)).filter (fun k => expressLink i k && !near.contains k)
  near ++ far ++ (if i % 32 = 14 then [(q ^^^ 1) * 32 + 14] else []) ++ (if i % 32 = 22 then [(q ^^^ 2) * 32 + 22] else [])

/-! ### Default routes (R264) -/

/-- Routers after `a` on the way in x, or in y, to a coordinate of its quarter. -/
def alongX (a x : Nat) : List Nat :=
  (List.range (absDiff (routerX a) x)).map (fun k => if routerX a < x then a + (k + 1) else a - (k + 1))
def alongY (a y : Nat) : List Nat :=
  (List.range (absDiff (routerY a) y)).map (fun k => if routerY a < y then a + 5 * (k + 1) else a - 5 * (k + 1))

/-- Routers after `a` up to `b` within a quarter: their express link, or x and then y. -/
def withinPath (a b : Nat) : List Nat :=
  if a = b then [] else if expressLink a b then [b]
  else
    let l := alongX a (routerX b)
    l ++ alongY (l.getLastD a) (routerY b)

/-- Routers after `a` up to bridge H, or bridge V, of its quarter. -/
def leaveH (a : Nat) : List Nat :=
  if a = bridgeH a then [] else if routerX a = 4 then [bridgeH a] else alongY a 2 ++ [bridgeH a]
def leaveV (a : Nat) : List Nat :=
  if a = bridgeV a then [] else if routerY a = 4 then [bridgeV a] else alongX a 2 ++ [bridgeV a]

/-- Routers after the arrival bridge H, or V, up to `b`. -/
def enterH (b : Nat) : List Nat :=
  if b = bridgeH b then [] else if routerX b = 4 then [b]
  else
    let e := b / 32 * 32 + 10 + routerX b
    e :: alongY e (routerY b)
def enterV (b : Nat) : List Nat :=
  if b = bridgeV b then [] else if routerY b = 4 then [b]
  else
    let e := b / 32 * 32 + 5 * routerY b + 2
    e :: alongX e (routerX b)

/-- The default path from `a` to `b`, both included. -/
def defaultPath (a b : Nat) : List Nat :=
  let p := a / 32
  let q := b / 32
  a :: (if p = q then withinPath a b
    else if p / 2 = q / 2 then leaveH a ++ bridgeH b :: enterH b
    else if p % 2 = q % 2 then leaveV a ++ bridgeV b :: enterV b
    else
      let m := (p ^^^ 1) * 32
      leaveH a ++ [m + 14, m + 12, m + 22] ++ bridgeV b :: enterV b)

/-- Hops and bridge crossings of a path. -/
def pathCost (p : List Nat) : Nat × Nat :=
  (p.length - 1, ((p.zip p.tail).filter (fun (a, b) => a / 32 != b / 32)).length)

/-- Hops and bridge crossings of the default route between two routers. -/
def defaultRoute (a b : Nat) : Nat × Nat := pathCost (defaultPath a b)

/-- NS of a route (R251), in units of 0.125 ns: 2.0 ns per router hop and 6.0 ns per bridge crossing. -/
def routeNs (hops bridges : Nat) : Nat := (hops - bridges) * 16 + bridges * 48

/-! ### Routers in service, and the tables in force (R264, R265, R267) -/

/-- The router is FAILED. -/
def State.routerFailed (s : State) (i : Nat) : Bool := tget 1 s.bram.routers i == 3

/-- Routers the variant has. -/
def State.routers (s : State) : List Nat := (List.range 128).filter s.hasRouter

/-- Routers in service that a set of routers reaches in `n` more links. -/
def State.reach (s : State) : Nat → List Nat → List Nat
  | 0, l => l
  | n + 1, l =>
    let more := ((l.flatMap linksOf).filter (fun i => s.hasRouter i && !s.routerFailed i && !l.contains i)).eraseDups
    if more.isEmpty then l else s.reach n (l ++ more)

/-- Routers in service without a path to the infrastructure router of Q0 count as failed (R269). -/
def State.cutOff (s : State) : List Nat :=
  let l := s.reach 128 [hostRouter]
  s.routers.filter (fun i => !s.routerFailed i && !l.contains i)

/-- Buffers that a path takes: each link with its class, 0 until the first bridge is crossed and 1 after (R265). -/
def buffersOf (p : List Nat) : List (Nat × Nat × Nat) :=
  ((p.zip p.tail).foldl (fun (r : List (Nat × Nat × Nat) × Nat) (a, b) =>
    (r.1 ++ [(a, b, r.2)], if a / 32 != b / 32 then 1 else r.2)) ([], 0)).1

/-- Buffer dependencies of a path. -/
def depsOf (p : List Nat) : List ((Nat × Nat × Nat) × (Nat × Nat × Nat)) :=
  let l := buffersOf p
  l.zip l.tail

/-- The dependencies hold no cycle: taking away those whose source nothing waits for leaves none. -/
def acyclic : Nat → List ((Nat × Nat × Nat) × (Nat × Nat × Nat)) → Bool
  | 0, l => l.isEmpty
  | n + 1, l =>
    let r := l.filter (fun d => l.any (fun e => e.2 == d.1))
    if r.length = l.length then l.isEmpty else acyclic n r

/-- A path leads from `a` to `b` over links of the mesh, takes no router twice, and holds no router but those the variant has
outside `bad`. -/
def State.pathOk (s : State) (bad : List Nat) (a b : Nat) (p : List Nat) : Bool :=
  p.head? == some a && p.getLast? == some b && p.eraseDups.length == p.length
    && (p.zip p.tail).all (fun (i, k) => (linksOf i).contains k) && p.all (fun i => s.hasRouter i && !bad.contains i)

/-- A table set gives every pair of routers outside `bad` a path that avoids it, and its buffer dependencies are acyclic
(R265: only such a set is installed). -/
def State.tablesOk (s : State) (bad : List Nat) (path : Nat → Nat → List Nat) : Bool :=
  let l := s.routers.filter (fun i => !bad.contains i)
  l.all (fun a => l.all (fun b => s.pathOk bad a b (path a b)))
    && (let ds := (l.flatMap (fun a => l.flatMap (fun b => depsOf (path a b)))).eraseDups
        acyclic (ds.length + 1) ds)

/-- The tree of routers that the infrastructure router of Q0 reaches outside `bad`: each with the one before it. -/
def State.tree (s : State) (bad : List Nat) : Nat → List (Nat × Nat) → List (Nat × Nat)
  | 0, l => l
  | n + 1, l =>
    let more := l.flatMap (fun (i, _) => (linksOf i).filterMap (fun k =>
      if s.hasRouter k && !bad.contains k && !l.any (fun e => e.1 == k) then some (k, i) else none))
    let more := more.foldl (fun r e => if r.any (fun f => f.1 == e.1) then r else r ++ [e]) []
    if more.isEmpty then l else s.tree bad n (l ++ more)

/-- Routers from one up to the root of a tree. -/
def upTree (tr : List (Nat × Nat)) : Nat → Nat → List Nat
  | 0, i => [i]
  | n + 1, i => match tr.find? (fun e => e.1 == i) with
    | some (_, k) => if k = i then [i] else i :: upTree tr n k
    | none => [i]

/-- The path of a tree: up, and down again. -/
def State.treePath (s : State) (bad : List Nat) (a b : Nat) : List Nat :=
  let tr := s.tree bad 128 [(hostRouter, hostRouter)]
  let x := upTree tr 128 a
  let y := upTree tr 128 b
  match x.find? (fun i => y.contains i) with
  | some c => x.takeWhile (· != c) ++ c :: (y.takeWhile (· != c)).reverse
  | none => [a]

/-- The default paths of the routers outside `bad` are whole. -/
def State.defaultWhole (s : State) (bad : List Nat) : Bool :=
  let l := s.routers.filter (fun i => !bad.contains i)
  l.all (fun a => l.all (fun b => (defaultPath a b).all (fun i => !bad.contains i)))

/-- The tables that the MGC writes at a generation to avoid routers (R264, R265, R267 step 4): the default routes where they
are whole; else its own, which are open as long as R265 allows them, and a tree's where it does not (log 150). -/
def State.newTables (s : State) (gen : BitVec 32) (bad : List Nat) : Nat :=
  if s.defaultWhole bad then 0 else if s.tablesOk bad (Config.tablePath gen.toNat) then 1 else 2

/-- The path of the tables in force, both ends included (R264). -/
def State.path (s : State) (a b : Nat) : List Nat :=
  match s.bram.tables with
  | 0 => defaultPath a b
  | 1 => Config.tablePath s.bram.gen.toNat a b
  | _ => s.treePath s.bram.avoid a b

/-- New tables avoid routers: the generation rises (R267 step 4, R418). -/
def State.setTables (s : State) (bad : List Nat) : State :=
  { s with bram := { s.bram with gen := s.bram.gen + 1, avoid := bad, tables := s.newTables (s.bram.gen + 1) bad } }

/-- HOPS and BRIDGES of the current route between two routers. -/
def State.route (s : State) (a b : Nat) : Nat × Nat := pathCost (s.path a b)

/-- The router is reachable: not FAILED, and no BANKED quarter holds it (R251, R418). -/
def State.reachable (s : State) (i : Nat) : Bool := !s.routerFailed i && !s.bram.avoid.contains i

/-- A memory port is near a tile: one hop on a route that exists (R251, R257). -/
def State.isNear (s : State) (t m : Nat) : Bool :=
  s.reachable (tileRouter t) && s.reachable (portRouter m) && (s.route (tileRouter t) (portRouter m)).1 == 1

/-- The distance word of a target unit's router (R224, R251). -/
def State.distWord (s : State) (t target : Nat) (dead memport : Bool) : Word :=
  let a := tileRouter t
  if dead || !s.reachable target then BitVec.ofNat 64 (0xFF + 0xF * 2 ^ 8 + 0xFFFF * 2 ^ 16)
  else
    let (h, b) := s.route a target
    BitVec.ofNat 64 (h % 256 + b % 16 * 2 ^ 8 + routeNs h b % 2 ^ 16 * 2 ^ 16 + bit (memport && h == 1) * 2 ^ 32)

/-! ### Packets (R259, R260) -/

/-- Traffic of the Bramble by what it carries. -/
inductive Traffic where
  | fenceSignal | barrier | sequencing | credit | freezeMark | faultRecord | routeControl
  | writeResponse | acknowledgement | refusal | readReply (bytes : Nat)
  | readRequest | coreStore | sendData
  | moverWrite | putData | getReply | collectiveData | rebuild | peel | husk
  deriving DecidableEq, Repr

/-- Virtual channel: 0 VC-C, 1 VC-S, 2 VC-Q, 3 VC-B (R260). -/
def Traffic.vc : Traffic → Nat
  | .fenceSignal | .barrier | .sequencing | .credit | .freezeMark | .faultRecord | .routeControl => 0
  | .writeResponse | .acknowledgement | .refusal => 1
  | .readReply n => if n ≤ 64 then 1 else 3
  | .readRequest | .coreStore | .sendData => 2
  | .moverWrite | .putData | .getReply | .collectiveData | .rebuild | .peel | .husk => 3

/-- Bytes that the next packet of a range carries: the most of 512, 256, 128 or up to 64 that fits, within its 4 KiB of the target (R259;
the most is a DESIGN CHOICE, log 215). -/
def packetSize (a n : Nat) : Nat :=
  let room := min n (4096 - a % 4096)
  if 512 ≤ room then 512 else if 256 ≤ room then 256 else if 128 ≤ room then 128 else min 64 room

/-- Cut a range of a target's addresses into packets: address and bytes. -/
def cutPackets : Nat → Nat → Nat → List (Nat × Nat)
  | 0, _, _ => []
  | k + 1, a, n =>
    if n = 0 then [] else (a, packetSize a n) :: cutPackets k (a + packetSize a n) (n - packetSize a n)

/-- Packets of a range. -/
def packetsOf (a n : Nat) : List (Nat × Nat) := cutPackets n a n

/-- Flits of a packet of data (R259). -/
def flitsOf (n : Nat) : Nat := max 1 ((n + 127) / 128)

/-- Default weights of the masters of a port (R248): tiles 0–67, 68 host interface, 69–72 runner ingress. -/
def State.weight (s : State) (m i : Nat) : Nat :=
  if i < 68 then
    if s.hasTile i && (s.tile i).role = 0 then (if s.isNear i m then 2 else 1) else 0
  else if i = 68 then 4 else if s.hasRunner (i - 69) then 2 else 0

/-- Default floors of a port (R248). -/
def State.defaultFloors (s : State) (m : Nat) : Table Nat :=
  let ws := (List.range 73).map (s.weight m)
  let sum := ws.foldl (· + ·) 0
  ((List.range 73).zip ws).filterMap (fun (i, w) => if w = 0 then none else some (i, 262144 * w / sum / 64 * 64))

end Sys2Proof.Machine
end

