-- ==== Sys2Proof/Machine/Domains.lean ====
section
/-! DEFINITION. Power domains, votes and demand (R413 to R419), and the effective cap (R402). -/

namespace Sys2Proof.Machine

/-! ### Caps -/

/-- Lowest and highest cap of a variant (R402). -/
def capLow : Variant → Nat
  | .k9c => 500
  | _ => 1000

/-- A cap is clamped to the range of its variant (R402). -/
def State.clampCap (s : State) (w : Nat) : Nat := max (capLow s.boot.variant) (min (maxPowerOf s.boot.variant) w)

/-- The effective cap: the lowest of the caps and of 63.2 A × VIN (R398, R402). -/
def State.effectiveCap (s : State) : Nat :=
  let c := min (min s.pwr.orchCap s.pwr.trayCap) (s.pwr.vin.toNat * 632 / 1000)
  if s.pwr.hostCap = 0 then c else min c s.pwr.hostCap

/-! ### Domains -/

/-- The variant has domain `d` (R413). -/
def State.hasDom (s : State) (d : Nat) : Bool :=
  if d < 68 then s.hasTile d else if d < 136 then s.hasTile (d - 68)
  else if d < 140 then d - 136 < quartersOf s.boot.variant
  else if d < 156 then s.hasPort (d - 140) else if d < 160 then s.hasRunner (d - 156) else d < 162

/-- A tile has demand (R415). -/
def State.demand (s : State) (t : Nat) : Bool :=
  let x := s.tile t
  x.core.run.isSome || x.swap.isSome || x.buffered != 0
    || (List.range 16).any (fun i => (x.slot i).valid && !(x.slot i).fifo.isEmpty)
    || x.standby.any (fun e => !e.fifo.isEmpty)

/-- The highest vote of a domain (R414). -/
def Dom.level (x : Dom) : Nat := ((List.range 16).map (fun i => fld x.votes.toNat (2 * i) 2)).foldl max 0

/-- What keeps a domain from going below its retained state (R417). -/
def State.keeps (s : State) (d : Nat) : Bool :=
  if d < 68 then (List.range 16).any (fun i => ((s.tile d).slot i).valid)
  else if 140 ≤ d && d < 156 then (List.range 8).any (fun r => (tget {} (s.port (d - 140)).ranges r : Range).valid)
  else false

/-- A request waits at the crossing of a port's domain, or a tile has demand or had it less than 100 µs ago (R415, R429). -/
def State.called (s : State) (d : Nat) : Bool :=
  if d < 68 then s.demand d || (s.dom d).warm
  else if 140 ≤ d && d < 156 then (s.port (d - 140)).waiting
  else 156 ≤ d && d < 160 && (s.runner (d - 156)).waiting

/-- The state that votes and demand give a domain but a store's: 0 OFF, 1 retained, 2 ON (R413 to R417, R429). A RETIRED tile
stays OFF (R15). -/
def State.wanted (s : State) (d : Nat) : Nat :=
  if s.pwr.shut && d != 161 then 0
  else if 160 ≤ d then 2
  else if d < 68 && (s.tile d).role == 3 then 0
  else if s.called d then 2
  else
    let l := (s.dom d).level
    if l ≥ 2 then 2 else if l = 1 || s.keeps d then 1 else 0

/-- The state of the store of tile `t`: its tile's while that is ON, waking or KEEP. While the tile is OFF it stays as a BANKED
quarter left it, and elsewhere only a vote of ON on it counts, since it may not stay in RETAIN (R413). -/
def State.storeWanted (s : State) (t : Nat) : Nat :=
  match (s.dom t).st with
  | 0 =>
    if s.pwr.shut then 0
    else if (s.dom (136 + quarterOf t)).st = 1 then min 1 (s.dom (68 + t)).st
    else if (s.tile t).role == 3 then 0
    else if 2 ≤ (s.dom (68 + t)).level then 2 else 0
  | 1 => 1
  | _ => 2

/-- The crossing of a memory port's or runner port's domain (R423). -/
def domXing (d : Nat) : Nat := if d < 156 then d - 140 + 16 else d - 156 + 32

/-- A planned stop puts a crossing in PARKED before the clock of its island stops (R429). -/
def State.park (s : State) (d : Nat) : State :=
  if (s.xing (domXing d)).st = 1 then s.setXing (domXing d) { s.xing (domXing d) with st := 3 } else s

/-- A domain whose pads RELEASE frees: a memory or runner port. -/
def padDom (d : Nat) : Bool := 140 ≤ d && d < 160

/-- A quarter that is OFF keeps no store (R413). -/
def State.dropStores (s : State) (q : Nat) : State :=
  (s.tileNos.filter (fun t => quarterOf t == q)).foldl (fun s t =>
    (s.setDom (68 + t) { s.dom (68 + t) with st := 0 }).clearStore (tsAddr t 0) 0x20000000) s

/-- Effects of a domain's fall to its retained state or OFF (R338, R413, R419, R429). -/
def State.enterLow (s : State) (d low : Nat) : State :=
  if d < 68 then
    if low = 0 then
      let x := s.tile d
      s.setTile d { x with refusing := true, core := {}, ops := [], held := none, movers := [], slots := [] }
    else s
  else if d < 136 then
    if low = 0 then s.clearStore (tsAddr (d - 68) 0) 0x20000000 else s
  else if d < 140 then (if low = 0 then s.dropStores (d - 136) else s)
  else if d < 156 then
    let s := s.park d
    let p := s.port (d - 140)
    let s := if p.st = 4 then s else s.setPort (d - 140) { p with st := if low = 1 then 3 else 5 }
    if low = 0 then s.setDom d { s.dom d with held := true } else s
  else if 156 ≤ d && d < 160 then
    let s := s.park d
    let x := d - 156
    let s := s.setRunner x { s.runner x with parked := low = 1 }
    let s := (List.range 4).foldl (fun s j =>
      let q := s.quad (4 * x + j)
      s.setQuad (4 * x + j) { q with st := if low = 1 then (if q.st = 3 then 5 else q.st) else 1 }) s
    if low = 0 then s.setDom d { s.dom d with held := true } else s
  else s

/-- Start the wake of a domain (R413): training for a port that was OFF. -/
def State.startWake (s : State) (d : Nat) : State :=
  let s := s.setDom d { s.dom d with st := 3 }
  if 140 ≤ d && d < 156 && (s.port (d - 140)).st = 5 then
    s.setPort (d - 140) { s.port (d - 140) with st := 1 }
  else s

/-- Quarter of a domain that lies in one. -/
def domQuarter (d : Nat) : Nat := if d < 136 then quarterOf (d % 68) else if d < 156 then (d - 140) / 4 else d - 156

/-- The uncore of a domain's quarter is not ON, so that the domain cannot wake: only a vote wakes a BANKED quarter (R418). -/
def State.uncoreDown (s : State) (d : Nat) : Bool :=
  (d < 136 || padDom d) && (s.dom (136 + domQuarter d)).st != 2

/-- A domain leaves ON once it may: a quarter only by QUARTER_BANKED (R418), a port once its crossing is PARKED or has no clock
(R429). -/
def State.mayFall (s : State) (d : Nat) : Bool :=
  if 136 ≤ d && d < 140 then (s.dom d).st != 2
  else !padDom d || (s.xing (domXing d)).st == 3 || (s.xing (domXing d)).st == 5 || (s.dom d).st != 2

/-- Bring one domain toward the state its votes and demand give (R414). One that is OFF reaches its retained state through ON
(log 97). -/
def State.evalOne (s : State) (d : Nat) : State :=
  if !s.hasDom d then s
  else
    let w := if 68 ≤ d && d < 136 then s.storeWanted (d - 68) else s.wanted d
    let st := (s.dom d).st
    if w = 2 || (st = 0 && w = 1) then (if st = 2 || st = 3 || s.uncoreDown d then s else s.startWake d)
    else if st = w || st = 3 || !s.mayFall d then s
    else (s.setDom d { s.dom d with st := w }).enterLow d w

/-- A tile that has demand stays ON until it has been without for 100 µs (R415). -/
def State.warmUp (s : State) (d : Nat) : State :=
  if d < 68 && s.demand d then s.setDom d { s.dom d with warm := true } else s

/-- Bring a domain toward its state, and a tile's store with the tile (R413). -/
def State.evalDom (s : State) (d : Nat) : State :=
  if d < 68 then ((s.warmUp d).evalOne d).evalOne (68 + d) else s.evalOne d

/-- Set the vote of a slot on a domain and act on it (R414). After a thermal shutdown none counts (R412). -/
def State.vote (s : State) (d slot v : Nat) : State :=
  let x := s.dom d
  if s.pwr.shut then s else
  (s.setDom d { x with votes := BitVec.ofNat 32 (putFld x.votes.toNat (2 * slot) 2 v) }).evalDom d

/-! ### Votes of bunches and of the rotation engine -/

/-- The vote one bunch holds on a domain, 0 for none (R416). -/
def State.bunchVote (s : State) (b : Bunch) (d : Nat) : Nat :=
  let frozen := b.st == 4
  let owns := fun m => (List.range 8).any (fun r =>
    let x : Range := tget {} (s.port m).ranges r
    x.valid && x.owner == b.id)
  let quads := fun x => (List.range 4).any (fun j => tget 0 s.comp.quadOwner (4 * x + j) == b.id)
  let use := fun (k : Bool) => if k then (if frozen then 1 else 2) else 0
  if b.st = 0 then 0
  else if d < 136 then
    if b.members.contains (.tile (d % 68)) then (if frozen || b.keepIdle then 1 else 2) else 0
  else if d < 140 then
    let q := d - 136
    if b.members.any (fun m => match m with | .tile t => quarterOf t == q | _ => false) then 2
    else use (quads q || (List.range 4).any (fun j => owns (4 * q + j)))
  else if d < 156 then use (owns (d - 140))
  else if d < 160 then use (quads (d - 156))
  else 0

/-- Slots 4 to 15 of a domain: bunches in record order, the twelfth and later together in slot 15 (R414). -/
def State.bunchSlots (s : State) (d : Nat) : Nat :=
  let vs := (s.comp.bunches.map (fun p => s.bunchVote p.2 d)).filter (· != 0)
  let low := ((List.range 11).zip (vs.take 11)).foldl (fun a p => a + p.2 * 2 ^ (2 * (p.1 + 4))) 0
  low + (vs.drop 11).foldl max 0 * 2 ^ 30

/-- The rotation engine's vote on a domain (R414): ON on every spare and testing tile and its store. -/
def State.rotationVote (s : State) (d : Nat) : Nat :=
  if d < 136 && ((s.tile (d % 68)).role = 1 || (s.tile (d % 68)).role = 2) then 2 else 0

/-- Domains of a tile, a memory port and a runner port, each with its quarter's. -/
def tileUnits (t : Nat) : List Nat := [t, 68 + t, 136 + quarterOf t]
def portUnits (m : Nat) : List Nat := [140 + m, 136 + m / 4]
def runnerUnits (x : Nat) : List Nat := [156 + x, 136 + x]

/-- Domains of the units that a graft names. -/
def graftUnits (g : Graft) : List Nat :=
  if g.kind ≤ 1 then ([g.out, g.inc] ++ g.heir.toList).flatMap tileUnits
  else if g.kind ≤ 3 then [g.out, g.port].flatMap portUnits
  else runnerUnits (g.out / 4)

/-- Domains of the tiles among members. -/
def memberUnits (l : List Member) : List Nat :=
  l.flatMap (fun m => match m with
    | .tile t => tileUnits t
    | _ => [])

/-- Domains of a bunch's direct members and slices. -/
def State.bunchUnits (s : State) (b : BitVec 32) : List Nat :=
  memberUnits (s.bunchOf b).members
    ++ (((List.range 16).filter (fun m => (List.range 8).any (fun r =>
        let x : Range := tget {} (s.port m).ranges r
        x.valid && x.owner == b))).flatMap portUnits)
    ++ (((List.range 16).filter (fun q => tget 0 s.comp.quadOwner q == b)).flatMap (fun q => runnerUnits (q / 4)))

/-- Domains of the units that a composition change names: those that it lists, or those of the bunch that it names (R417). -/
def State.changeUnits (s : State) : Change → List Nat
  | .compose _ _ ms rs qs _ _ => memberUnits ms ++ rs.flatMap (fun r => portUnits r.port) ++ qs.flatMap (fun q => runnerUnits (q / 4))
  | .activate b | .dissolve b => s.bunchUnits b
  | .grant _ r => portUnits r.port
  | .release _ m => portUnits m

/-- Every domain of a list that the variant has is ON. -/
def State.unitsOn (s : State) (l : List Nat) : Bool := l.all (fun d => !s.hasDom d || (s.dom d).st == 2)

/-- Composition commands in progress vote ON for the units that they name: grafts, changes that wait for a wake, and grants that
wait for Peel (R417). -/
def State.composeVote (s : State) (d : Nat) : Nat :=
  if s.comp.grafts.any (fun g => (graftUnits g).contains d) || s.comp.waking.any (fun c => (s.changeUnits c.2).contains d)
      || s.comp.grants.any (fun g => (portUnits g.2.port).contains d) then 2 else 0

/-- Recompute the votes that the K9 itself holds on every domain, and act on them (R414, R416, R417). -/
def State.revote (s : State) : State :=
  if s.pwr.shut then s else (List.range 162).foldl (fun s d =>
    let x := s.dom d
    let n := putFld (putFld (fld x.votes.toNat 0 8 + s.bunchSlots d) 2 2 (s.rotationVote d)) 4 2 (max x.orch (s.composeVote d))
    (s.setDom d { x with votes := BitVec.ofNat 32 n }).evalDom d) s

/-! ### Host writes of DOM (R419, R421, R422) -/

/-- The port's training has completed (R419). -/
def State.padTrained (s : State) (d : Nat) : Bool :=
  if d < 156 then (s.port (d - 140)).st == 2
  else (List.range 4).any (fun j => (s.quad (4 * (d - 156) + j)).st == 3)

/-- Release a domain's held pads. -/
def State.releasePads (s : State) (d : Nat) : State := s.setDom d { s.dom d with held := false }

/-- A write of DOM[d]: MGR_VOTE, where 3 is discarded, and RELEASE, which acts in MAINTENANCE state on a trained port
with pads (R419, R421, R422). -/
def State.writeDom (s : State) (d : Nat) (acc : Acc) (v : Word) : State :=
  if !s.hasDom d then s
  else
    let x := s.dom d
    let old := BitVec.ofNat 64 (fld x.votes.toNat 6 2 * 2 ^ 48)
    let m := fld (mergeHalf acc old v).toNat 48 2
    let s := if m = 3 then s else s.vote d 3 m
    if (halfBits acc v).getLsbD 63 && padDom d && s.boot.maint && s.padTrained d then s.releasePads d else s

end Sys2Proof.Machine
end

