-- ==== Sys2Proof/Machine/Segments.lean ====
section
/-! DEFINITION. Segments (R231 to R237), translation at enqueue (R239), page tables (R241 to R244), and reads and
writes of the bytes that an access reaches. -/

namespace Sys2Proof.Machine

/-! ### Descriptors -/

/-- Word `i` of a 32-byte descriptor (R173, R231). -/
def word4 (d : BitVec 256) (i : Nat) : Nat := fld d.toNat (64 * i) 64

def segValid (d : BitVec 256) : Bool := d.getLsbD 63
def segSize (d : BitVec 256) : Nat := fld (word4 d 0) 0 44
def segTarget (d : BitVec 256) : Nat := fld (word4 d 0) 56 4
def segBase (d : BitVec 256) : Nat := fld (word4 d 1) 0 48
def segSlice (d : BitVec 256) : Nat := fld (word4 d 3) 0 44
def segPorts (d : BitVec 256) : Nat := fld (word4 d 2) 0 16
def segMports (d : BitVec 256) : Nat := fld (word4 d 2) 16 16
def segFirst (d : BitVec 256) : Nat := fld (word4 d 2) 0 24
def segCount (d : BitVec 256) : Nat := fld (word4 d 2) 24 24
def segSpill (d : BitVec 256) : Bool := d.getLsbD 53
def segMirror (d : BitVec 256) : Bool := d.getLsbD 52

/-- Kinds of access: 0 read, 1 write, 2 execute (R231: bits 62, 61, 60). -/
def segAllows (d : BitVec 256) (kind : Nat) : Bool := d.getLsbD (62 - kind)

/-! ### Shares and ranges -/

/-- SLOT_SHARE of a context on a tile, empty when it is not resident there (R55). -/
def State.shareOn (s : State) (t c : Nat) : BitVec 256 :=
  match (s.tile t).slotOf c with
  | some i => ((s.tile t).slot i).share
  | none => 0

/-- Granules of a context's share on a tile, resident or standby (R383). -/
def State.granulesOn (s : State) (t c : Nat) : Nat :=
  match (s.tile t).slotOf c with
  | some i => popCount ((s.tile t).slot i).share.toNat 256
  | none => match (s.tile t).standby.find? (fun e => e.ctx == c) with
    | some e => e.granules
    | none => 0

/-- Index of the range a bunch holds on a port (R229: at most one). -/
def Port.rangeOf (p : Port) (id : BitVec 32) : Option Nat :=
  (List.range 8).find? (fun r => (tget {} p.ranges r : Range).valid && (tget {} p.ranges r : Range).owner == id)

/-- The range a bunch holds on a port, not VALID when it holds none. -/
def Port.rangeFor (p : Port) (id : BitVec 32) : Range :=
  match p.rangeOf id with
  | some r => tget {} p.ranges r
  | none => {}

/-- Port and place of the range of an identity (R229: a range that moved keeps it). -/
def State.rangeById (s : State) (rid : Nat) : Option (Nat × Range) :=
  (List.range 16).findSome? (fun k => (List.range 8).findSome? (fun i =>
    let r : Range := tget {} (s.port k).ranges i
    if r.valid && r.home == rid then some (k, r) else none))

/-- Device address of a byte at an offset within a range (R229, R236). -/
def State.rangeAddr (s : State) (rid off : Nat) : Option Nat :=
  match s.rangeById rid with
  | some (k, r) => if off < r.len * 0x4000000 then some (lpAddr k (r.base * 0x4000000 + off)) else none
  | none => none

/-- Identities of the ranges that a bunch holds on the ports of a mask, in ascending order. -/
def State.rangeNames (s : State) (id : BitVec 32) (mask : Nat) : List Nat :=
  ((List.range 16).filter mask.testBit).map (fun m => ((s.port m).rangeFor id).home)

/-- Ranges that a descriptor of a context names now: through PORTS and through MPORTS. -/
def State.segNames (s : State) (c seg : Nat) : List Nat × List Nat := tget ([], []) (s.ctx c).names seg

/-- Place among a segment's `n` ranges, and range offset, of an LPDDR segment's byte x = BASE + a (R236). -/
def interleave (n x : Nat) : Nat × Nat :=
  let c := x / 4096
  (c % n, c / n * 4096 + x % 4096)

/-- Local tile of a rank of a context's bunch, under the current map. -/
def State.rankTile (s : State) (c r : Nat) : Option Nat := leafAt (s.bunchOf (s.ctx c).bunch).map r

/-- The byte at offset `i` of a translated operand, as it lies now. -/
def State.locSpot (s : State) (l : Loc) (i : Nat) : Spot :=
  match l with
  | .own t c off =>
    match shareOff (s.shareOn t c) (off + i) with
    | some o => .dev (tsAddr t o) none
    | none => .gone
  | .share c r off =>
    match s.rankTile c r with
    | some t => match shareOff (s.shareOn t c) (off + i) with
      | some o => .dev (tsAddr t o) none
      | none => .gone
    | none => .gone
  | .slices c first slice base off =>
    match s.rankTile c (first + (off + i) / slice) with
    | some t => match shareOff (s.shareOn t c) (base + (off + i) % slice) with
      | some o => .dev (tsAddr t o) none
      | none => .gone
    | none => .gone
  | .range ranges mirrors off =>
    let (k, o) := interleave ranges.length (off + i)
    match ranges[k]?.bind (fun r => s.rangeAddr r o) with
    | some a => .dev a (mirrors[k]?.bind (fun r => s.rangeAddr r o))
    | none => .gone
  | .host p iova => .host p (iova + i)
  | .frames p off pages =>
    match pages[(off + i) / 0x10000]? with
    | some e =>
      if !e.testBit 0 then .gone
      else if fld e 52 4 = 2 then .host p (fld e 12 40 * 4096 + (off + i) % 0x10000)
      else .dev (fld e 12 44 * 4096 + (off + i) % 0x10000) none
    | none => .gone

/-- Where a segment offset of a context leads (R234 to R236, R242); `own` is the tile that runs the kernel, `rank`
the rank of an object, `names` the ranges that the descriptor names, `fr` the recorded frames of the segment. -/
def State.segLoc (s : State) (c : Nat) (own rank : Option Nat) (d : BitVec 256) (names : List Nat × List Nat) (a : Nat)
    (fr : List Nat) : Option Loc :=
  match segTarget d with
  | 0 => match own, rank with
    | _, some r => some (.share c r (segBase d + a))
    | some t, none => some (.own t c (segBase d + a))
    | none, none => none
  | 1 => some (.slices c (segFirst d) (segSlice d) (segBase d) a)
  | 2 => some (.range names.1 (if segMirror d then names.2 else []) (segBase d + a))
  | 3 => some (.host (s.ctx c).pasid (segBase d + a))
  | 4 => some (.frames (s.ctx c).pasid a fr)
  | _ => none

/-- The `n` bytes of a translated operand, as they lie now. -/
def State.spots (s : State) (l : Loc) (n : Nat) : List Spot := (List.range n).map (s.locSpot l)

/-! ### Reading and writing spots -/

/-- A device address lies on a FAILED memory port (R230). -/
def State.addrFailed (s : State) (a : Nat) : Bool := !isStore a && (s.port (fld a 40 4)).st == 4

/-- A device address lies in a quarter whose neighbours refuse what is addressed to it (R418). -/
def State.addrBanked (s : State) (a : Nat) : Bool :=
  s.banked (if isStore a then quarterOf (fld a 32 7) else fld a 40 4 / 4)

/-- A device address lies in a tile whose endpoint refuses traffic (R270), and holds no requests in place of that (R452), or in a
BANKED quarter. -/
def State.addrRefused (s : State) (a : Nat) : Bool :=
  (isStore a && (s.tile (fld a 32 7)).refusing && !s.movesShares (fld a 32 7)) || s.addrBanked a

/-- A device address lies in a tile behind a FAILED router, which no packet reaches (R269; log 202). -/
def State.addrCut (s : State) (a : Nat) : Bool := isStore a && s.routerFailed (tileRouter (fld a 32 7))

/-- What an access to a byte meets from the state alone (R230, R237, R269, R270). -/
def State.spotRes (s : State) : Spot → Res
  | .host .. => .ok
  | .gone => .refused
  | .dev a m =>
    if s.addrFailed a then
      match m with
      | some b => if s.addrFailed b then .portFailed else .ok
      | none => .portFailed
    else if s.addrCut a then .lost else if s.addrRefused a then .refused else .ok

/-- The outcome of an access to a range: what the state gives first, else what came about at the target. -/
def State.rangeRes (s : State) (l : List Spot) (res : Res) : Res :=
  match l.find? (fun p => s.spotRes p != .ok) with
  | some p => s.spotRes p
  | none => res

/-- The address a read of a byte is served from (R237). -/
def State.readAddr (s : State) (a : Nat) (m : Option Nat) : Nat :=
  match m with
  | some b => if s.addrFailed a then b else a
  | none => a

/-- An open byte of a read, by its place from the end (log 1). -/
def State.openByte (s : State) (n : Nat) : Byte := Config.freeBits 8 (2 ^ 64 * (s.fresh + 1) + n)

/-- Read spots in order; bytes of host memory are those the host returned, in order. -/
def State.readSpots (s : State) : List Spot → HostBytes → List Byte
  | [], _ => []
  | .dev a m :: r, h => s.peek (s.readAddr a m) :: s.readSpots r h
  | .host _ _ :: r, b :: h => b :: s.readSpots r h
  | .host _ _ :: r, [] => s.openByte r.length :: s.readSpots r []
  | .gone :: r, h => s.openByte r.length :: s.readSpots r h

/-- Write one byte of the device: both copies of a MIRROR segment, or the surviving one (R237). -/
def State.pokeSpot (s : State) (p : Spot) (b : Byte) : State :=
  match p with
  | .dev a m =>
    let s := if s.addrFailed a then s else s.poke a b
    match m with
    | some k => if s.addrFailed k then s else s.poke k b
    | none => s
  | _ => s

/-- Write bytes to the device spots of a range in order. -/
def State.pokeSpots (s : State) : List (Spot × Byte) → State
  | [] => s
  | (p, b) :: r => (s.pokeSpot p b).pokeSpots r

/-- Group the host bytes of a write into one DMA write per run of rising addresses (R283). -/
def dmaRuns : List (Spot × Byte) → List (BitVec 20 × Nat × List Byte)
  | [] => []
  | (.host p i, b) :: r =>
    match dmaRuns r with
    | (p', i', bs) :: q => if p = p' && i + 1 = i' then (p, i, b :: bs) :: q else (p, i, [b]) :: (p', i', bs) :: q
    | [] => [(p, i, [b])]
  | _ :: r => dmaRuns r

/-- Device addresses a spot names, its mirror copy included. -/
def Spot.addrs : Spot → List Nat
  | .dev a (some m) => [a, m]
  | .dev a none => [a]
  | _ => []

/-- Lines that a range covers whole are no longer uncorrectable. -/
def State.renewLines (s : State) (l : List Spot) : State :=
  if s.badLines.isEmpty then s
  else
    let as := l.flatMap Spot.addrs
    { s with badLines := s.badLines.filter (fun n => !(List.range 64).all (fun i => as.contains (n * 64 + i))) }

/-- Write bytes to a range: device bytes to memory, host bytes by DMA. -/
def State.writeSpots (s : State) (l : List Spot) (bs : List Byte) : State :=
  let s := (s.pokeSpots (l.zip bs)).renewLines l
  (dmaRuns (l.zip bs)).foldl (fun s (p, i, x) => s.emit (.dma p i x)) s

/-- Two ranges reach a common byte (R210, R295). -/
def overlap (x y : List Spot) : Bool :=
  x.any (fun p => y.any (fun q => match p, q with
    | .host a i, .host b j => a == b && i == j
    | p, q => p.addrs.any (fun a => q.addrs.contains a)))

/-! ### Checks of a virtual address at a tile (R66, R179, R233) -/

/-- Segment register of the running kernel (R66). -/
def Core.seg (c : Core) (i : Nat) : BitVec 256 := tget 0 c.segs i

/-- Frames that the running kernel's LAUNCH recorded for a segment (R244). -/
def Core.frames (c : Core) (seg : Nat) : List Nat :=
  match c.run with
  | some r => tget [] r.launch.frames seg
  | none => []

/-- The recorded pages of a PAGED range allow the access (R243, R244); an empty range has none. -/
def pagesOk (fr : List Nat) (a len kind : Nat) : Bool :=
  len == 0 || (List.range ((a + len - 1) / 0x10000 + 1)).all (fun i =>
    i < a / 0x10000 ||
      (let e := fr[i]?.getD 0
       e.testBit 0 && e.testBit (1 + kind)))

/-- The range of an access passes R66 and R179 for an engine that accepts `targets` (R233). -/
def State.vaOk (s : State) (t : Nat) (va : Word) (len kind : Nat) (targets : List Nat) : Bool :=
  let c := (s.tile t).core
  let seg := fld va.toNat 44 4
  let a := fld va.toNat 0 44
  let d := c.seg seg
  fld va.toNat 48 16 == 0 && segValid d && segAllows d kind && a + len ≤ segSize d
    && targets.contains (segTarget d)
    && (match c.ctx with
      | none => false
      | some x =>
        if segTarget d = 0 then segBase d + a + len ≤ shareBytes (s.shareOn t x)
        else if segTarget d = 4 then pagesOk (c.frames seg) a len kind
        else true)

/-- Where a virtual address of the running kernel leads. -/
def State.vaLoc (s : State) (t : Nat) (va : Word) : Option Loc :=
  match (s.tile t).core.ctx with
  | none => none
  | some c =>
    let seg := fld va.toNat 44 4
    s.segLoc c (some t) none ((s.tile t).core.seg seg) (tget ([], []) (s.tile t).core.names seg) (fld va.toNat 0 44)
      ((s.tile t).core.frames seg)

/-- The bytes of a range of the running kernel. -/
def State.vaSpots (s : State) (t : Nat) (va : Word) (n : Nat) : List Spot :=
  match s.vaLoc t va with
  | some l => s.spots l n
  | none => List.replicate n .gone

/-- Read a range of the running kernel from the device (engines under R233 read their own share). -/
def State.vaRead (s : State) (t : Nat) (va : Word) (n : Nat) : List Byte := s.readSpots (s.vaSpots t va n) []

/-- Targets the control core and the tensor and vector engines accept (R233). -/
def coreTargets : List Nat := [0, 1, 2, 4]
def ownTargets : List Nat := [0]
def allTargets : List Nat := [0, 1, 2, 3, 4]

/-! ### Page tables (R242, R243) -/

/-- The entry the host returned for an address of its tables; one it did not return counts as not valid. -/
def ptEntry (pt : List (Nat × Word)) (a : Nat) : Nat :=
  match pt.find? (fun e => e.1 == a) with
  | some e => e.2.toNat
  | none => 0

/-- A table entry of level 1 or 2 that names the next table, aligned to `align` (R242, R243). -/
def dirOk (e align : Nat) : Bool :=
  e.testBit 0 && fld e 56 8 == 0 && fld e 1 11 == 0 && fld e 12 44 * 4096 % align == 0

/-- A leaf entry that counts as mapped (R242, R243, R463). -/
def State.leafOk (s : State) (e : Nat) : Bool :=
  e.testBit 0 && fld e 56 8 == 0 && fld e 4 8 == 0 && fld e 12 4 == 0 &&
    (match fld e 52 4 with
     | 0 =>
       let m := fld e 40 4
       let g := fld e 12 28 * 4096 / 0x4000000
       fld e 44 8 == 0 && s.hasPort m && g < 1430
         && !(e.testBit 2 && (m == 0 || m == huskPortOf s.boot.variant) && 1426 ≤ g)
     | 1 => fld e 39 13 == 0 && fld e 29 3 == 0 && s.hasTile (fld e 32 7)
     | 2 => true
     | _ => false)

/-- The leaf entry of a table virtual address, 0 when unmapped. -/
def State.walk (s : State) (pt : List (Nat × Word)) (root va : Nat) : Nat :=
  let e1 := ptEntry pt (root + 8 * fld va 40 8)
  if !dirOk e1 32768 then 0
  else
    let e2 := ptEntry pt (fld e1 12 44 * 4096 + 8 * fld va 28 12)
    if !dirOk e2 32768 then 0
    else
      let e3 := ptEntry pt (fld e2 12 44 * 4096 + 8 * fld va 16 12)
      if s.leafOk e3 then e3 else 0

/-- Table entries that a walk reads. -/
def walkReads (pt : List (Nat × Word)) (root va : Nat) : List Nat :=
  let e1 := ptEntry pt (root + 8 * fld va 40 8)
  (root + 8 * fld va 40 8) :: (if !dirOk e1 32768 then []
    else
      let e2 := ptEntry pt (fld e1 12 44 * 4096 + 8 * fld va 28 12)
      (fld e1 12 44 * 4096 + 8 * fld va 28 12) ::
        (if !dirOk e2 32768 then [] else [fld e2 12 44 * 4096 + 8 * fld va 16 12]))

/-- Walk reads go to the host under the manager's PASID (R242, R283). -/
def State.askTables (s : State) (pt : List (Nat × Word)) (d : BitVec 256) (n : Nat) : State :=
  ((List.range n).flatMap (fun i => walkReads pt (word4 d 2) (segBase d + i * 0x10000))).foldl
    (fun s a => s.emit (.dmaRead s.mgrPasid a 8)) s

/-- The leaf entries of the first `n` pages of a PAGED segment (R244). -/
def State.walkPages (s : State) (pt : List (Nat × Word)) (d : BitVec 256) (n : Nat) : List Nat :=
  (List.range n).map (fun i => s.walk pt (word4 d 2) (segBase d + i * 0x10000))

/-! ### Descriptor writes (R232) -/

/-- Tiles of this module on which a context is resident with a share (R234); a standby share is not (R383). -/
def State.shareTiles (s : State) (c : Nat) : List Nat := s.tileNos.filter (fun t => s.shareOn t c != 0)

/-- The set bits of PORTS or MPORTS name ports on which the bunch holds a range that is not on its way to another bunch (R331), and the
segment's blocks lie within those ranges (R232, R236). -/
def State.portsHold (s : State) (id : BitVec 32) (ports base size : Nat) : Bool :=
  let ms := (List.range 16).filter ports.testBit
  let n := ms.length
  (size == 0 || n != 0) && ((List.range n).zip ms).all (fun (k, m) =>
    let r := (s.port m).rangeFor id
    let last := (base + size - 1) / 4096
    let c := if last % n ≥ k then last - (last % n - k) else last - (last % n + n - k)
    s.hasPort m && r.valid && !s.comp.grafts.any (fun g => g.kind == 3 && g.port == m && g.bunch == id)
      && (size == 0 || last < k || c < base / 4096 || (c / n + 1) * 4096 ≤ r.len * 0x4000000))

/-- R232's conditions on the ports that a descriptor names and on where its offsets lead. -/
def State.mapOk (s : State) (c : Nat) (d : BitVec 256) : Bool :=
  match segTarget d with
  | 0 => segSize d == 0 || (s.shareTiles c).all (fun t => segBase d + segSize d ≤ shareBytes (s.shareOn t c))
  | 1 =>
    segSize d == segCount d * segSlice d && (List.range (segCount d)).all (fun i =>
      match s.rankTile c (segFirst d + i) with
      | some t => ((s.tile t).slotOf c).isSome && segBase d + segSlice d ≤ shareBytes (s.shareOn t c)
      | none => false)
  | 2 =>
    s.portsHold (s.ctx c).bunch (segPorts d) (segBase d) (segSize d)
      && (segMports d == 0 || s.portsHold (s.ctx c).bunch (segMports d) (segBase d) (segSize d))
  | 4 => segBase d + segSize d ≤ 2 ^ 48
  | _ => true

/-- A descriptor write is accepted (R232, R241). -/
def State.descOk (s : State) (c seg : Nat) (d : BitVec 256) : Bool :=
  let w := word4 d
  let tg := segTarget d
  fld (w 0) 54 2 == 0 && fld (w 0) 44 8 == 0 && fld (w 1) 48 16 == 0 && fld (w 3) 44 20 == 0 && tg ≤ 4
    && segSize d % 4096 == 0 && segBase d % (if tg = 4 then 0x10000 else 4096) == 0
    && (!segValid d || segSize d != 0)
    && (tg == 2 || (!segMirror d && !segSpill d))
    && !(tg == 3 && segAllows d 2)
    && (match tg with
      | 1 => fld (w 2) 48 16 == 0 && segSlice d % 4096 == 0 && (!segValid d || segSlice d != 0)
      | 2 =>
        fld (w 2) 32 32 == 0 && w 3 == 0 && (segMports d == 0 || segMirror d) && segPorts d &&& segMports d == 0
          && (!segMirror d || popCount (segPorts d) 16 == popCount (segMports d) 16)
      | 4 => w 2 % 2048 == 0 && w 3 == 0 && (c == 0 || s.boot.maint)
      | _ => w 2 == 0 && w 3 == 0)
    && s.mapOk c d
    && !(segValid d && segSpill d && (List.range 16).any (fun i =>
      i != seg && segValid (tget 0 (s.ctx c).segs i) && segSpill (tget 0 (s.ctx c).segs i)))

/-! ### Translation at enqueue (R239, R292, R310) -/

/-- What translating one command address gives: the operand's location and the handle it references, or a status and
its detail. -/
inductive Trans where
  | ok (l : Loc) (handle : Option Nat)
  | bad (status : BitVec 16) (detail : BitVec 32)
  deriving DecidableEq, Repr

/-- Detail of SEGMENT_FAULT (R303): cause and segment. -/
def segDetail (cause seg : Nat) : BitVec 32 := BitVec.ofNat 32 (cause + 256 * seg)

/-- Names a host command may not use (R290 step 2, R292): status and detail of the failure. -/
def State.addrName (s : State) (c : Nat) (a : Word) : Option (BitVec 16 × BitVec 32) :=
  if a.getLsbD 63 then
    let h := fld a.toNat 44 18
    let o := s.obj h
    if a.getLsbD 62 then some (0x14, 0)
    else if o.st != 0 && o.ctx != c then some (0x14, 0)
    else if o.st != 1 then some (2, BitVec.ofNat 32 h)
    else if o.rank = 0xFFFFFF then some (0x14, 0)
    else none
  else if fld a.toNat 48 15 != 0 then some (0x14, 0)
  else
    let d := tget 0 (s.ctx c).segs (fld a.toNat 44 4)
    if segValid d && segTarget d == 0 then some (0x14, 0) else none

/-- Segment of a command address (R292, R310). -/
def State.addrSeg (s : State) (a : Word) : Nat :=
  if a.getLsbD 63 then (s.obj (fld a.toNat 44 18)).seg else fld a.toNat 44 4

/-- Page-table reads of a command address. -/
def State.askPages (s : State) (c : Nat) (pt : List (Nat × Word)) (a : Word) (len : Nat) : State :=
  let d := tget 0 (s.ctx c).segs (s.addrSeg a)
  let off := fld a.toNat 0 44
  let at' := if a.getLsbD 63 then (s.obj (fld a.toNat 44 18)).off + off else off
  if segTarget d = 4 && len != 0 then s.askTables pt d ((at' + len + 0xFFFF) / 0x10000) else s

/-- Translate a command address whose name is usable (R239 steps 1 to 3). -/
def State.translate (s : State) (c : Nat) (pt : List (Nat × Word)) (a : Word) (len kind : Nat) : Trans :=
  let isObj := a.getLsbD 63
  let h := fld a.toNat 44 18
  let o := s.obj h
  let seg := if isObj then o.seg else fld a.toNat 44 4
  let off := fld a.toNat 0 44
  let at' := if isObj then o.off + off else off
  let d := tget 0 (s.ctx c).segs seg
  if isObj && (!segValid d || !segAllows d kind || o.off + o.len > segSize d || off + len > o.len) then
    .bad 5 (segDetail 3 seg)
  else if !segValid d || !segAllows d kind then .bad 5 (segDetail 1 seg)
  else if at' + len > segSize d then .bad 5 (segDetail 2 seg)
  else
    let pages := if len = 0 then 0 else (at' + len + 0xFFFF) / 0x10000
    let es := if segTarget d = 4 then s.walkPages pt d pages else []
    if segTarget d = 4 && (List.range pages).any (fun i =>
        at' / 0x10000 ≤ i && !((es[i]?.getD 0).testBit 0 && (es[i]?.getD 0).testBit (1 + kind))) then
      .bad 0x10 0
    else if segTarget d = 4 then .ok (.frames (s.ctx c).pasid at' es) (if isObj then some h else none)
    else match s.segLoc c none (if isObj then some o.rank else none) d (s.segNames c seg) at' [] with
      | some l => .ok l (if isObj then some h else none)
      | none => .bad 0x14 0

/-! ### The footprint of a LAUNCH (R240) -/

/-- Bytes of the SPILL segment of a context, 0 for none. -/
def State.spillSize (s : State) (c : Nat) : Nat :=
  ((List.range 16).map (fun i =>
    let d := tget 0 (s.ctx c).segs i
    if segValid d && segSpill d then segSize d else 0)).foldl max 0

/-- The footprint check over the scope's leaf tiles on this module (R240). -/
def State.footprintOk (s : State) (c footprint : Nat) (spill : Bool) (tiles : List Nat) : Bool :=
  let sizes := tiles.map (fun t => s.granulesOn t c * 0x200000)
  let smin := sizes.foldl min (sizes.headD 0)
  footprint ≤ smin || (spill && tiles.length * (footprint - smin) ≤ s.spillSize c)

end Sys2Proof.Machine
end

