-- ==== Sys2Proof/Machine/Access.lean ====
section
/-! DEFINITION. What an access meets on its way: uncorrectable lines (R57, R59), refusals (R270), sleeping tiles (R258), the
pause of a route-around (R267), windows and credits of memory ports (R246, R247, R250), and its routes (R268). -/

namespace Sys2Proof.Machine

/-- The context of a tile's running kernel. -/
def State.runCtx (s : State) (t : Nat) : Option Nat := (s.tile t).core.ctx

/-! ### Outcomes -/

/-- Token detail of a mover for an access that did not succeed (R211, R230, R268, R270, R283). -/
def mvErr : Res → Nat
  | .portFailed => 0x44
  | .refused => 0x45
  | .hostRefused => 0x41
  | _ => 0x40

/-- Status of a host command for an access that did not succeed (R57, R227, R230, R268, R270, R283). -/
def resStatus : Res → BitVec 16 × BitVec 32
  | .portFailed => (0x11, 0)
  | .refused => (3, 0)
  | .uncorrectable => (8, 0)
  | .hostRefused => (5, 4)
  | .lost => (7, 0)
  | _ => (0, 0)

/-- Token detail of a dispatch-unit operation for a local access that did not succeed (R220, R230, R270, R283, R268). -/
def exErr : Res → Option Nat
  | .portFailed => some 0x31
  | .refused => some 0x23
  | .hostRefused => some 0x32
  | .lost => some 0x2E
  | _ => none

/-- The address that a read of a spot is served from, none outside the device. -/
def State.served (s : State) : Spot → Option Nat
  | .dev a m => some (s.readAddr a m)
  | _ => none

/-- A spot lies in a line of a tile store that was found uncorrectable and has not been written whole since (R57). -/
def State.badSpot (s : State) (p : Spot) : Bool :=
  match s.served p with
  | some a => s.badLines.contains (a / 64)
  | none => false

/-- Lines of a range whose codes a read checks: those of memory ports, and those of stores whose written-bit is set or known to be
uncorrectable (R57, R59, R227). -/
def State.eccLines (s : State) (l : List Spot) : List Nat :=
  ((l.filterMap s.served).map (· / 64)).eraseDups.filter (fun n =>
    !isStore (n * 64) || s.lineWritten (n * 64) || s.badLines.contains n)

/-- An error that a read reports lies in a line whose codes it checked; without such a line there is none (R59). -/
def State.seenRes (s : State) (reads : List Spot) (res : Res) : Res :=
  if (res = .corrected || res = .uncorrectable) && (s.eccLines reads).isEmpty then .ok else res

/-- The outcome of an access that reads and writes ranges: what the state gives first, else what came about at the target. -/
def State.moveRes (s : State) (reads writes : List Spot) (res : Res) : Res :=
  match s.rangeRes (reads ++ writes) .ok with
  | .ok => if reads.any s.badSpot then .uncorrectable else s.seenRes reads res
  | r => r

/-- A read whose outcome no row reports meets an error that the codes of its lines cannot correct: an open event (R57, R227; log 198). -/
def State.meetsUe (s : State) (l : List Spot) : Bool :=
  !(s.eccLines l).isEmpty && Config.freeBits 1 (2 ^ 66 * (s.fresh + 1)) == 1

/-- The outcome of such a read. -/
def State.readRes (s : State) (l : List Spot) : Res := s.moveRes l [] (if s.meetsUe l then .uncorrectable else .ok)

/-! ### Writes that stop short (R274) -/

/-- What a transfer that stops short has written: each line of its destination or not, which of the two is open (log 16). A
refusing endpoint changes no state (R270). -/
def State.partSpots (s : State) (l : List (Spot × Byte)) : List (Spot × Byte) :=
  (((List.range l.length).zip l).filter (fun p =>
    s.spotRes p.2.1 == .ok && Config.freeBits 1 (s.fresh + p.1 / 64) == 1)).map Prod.snd

/-- The pattern of R274: each line of the destination holds the new data or is unchanged. -/
def State.partialWrite (s : State) (l : List Spot) (bs : List Byte) : State :=
  let z := s.partSpots (l.zip bs)
  let s := { s with fresh := s.fresh + l.length / 64 + 1 }
  s.writeSpots (z.map Prod.fst) (z.map Prod.snd)

/-- The bytes of a copy but for those whose source line is uncorrectable, which are not written (R57). -/
def State.soundPairs (s : State) (rd wr : List Spot) (bs : List Byte) (bad : List Nat) : List (Spot × Byte) :=
  ((rd.zip (wr.zip bs)).filter (fun (p, _) => match s.served p with
    | some a => !bad.contains (a / 64)
    | none => true)).map Prod.snd

/-- The pattern of R274 for a copy. -/
def State.partialCopy (s : State) (rd wr : List Spot) (bs : List Byte) (bad : List Nat) : State :=
  let ok := s.soundPairs rd wr bs bad
  s.partialWrite (ok.map Prod.fst) (ok.map Prod.snd)

/-- Byte offset of the first 64-byte line in which two strings differ (R210, R272). -/
def firstDiff (a b : List Byte) : Option Nat :=
  (findIdx (fun (p : Byte × Byte) => p.1 != p.2) (a.zip b) 0).map (fun i => i / 64 * 64)

/-- Pattern bytes of FILL and `mv.fill` (R210, R295). -/
def fillBytes (pattern n : Nat) : List Byte :=
  (List.range n).map (fun i => BitVec.ofNat 8 (pattern >>> (8 * (i % 8))))

/-! ### Corrected and uncorrectable lines (R57, R71, R227, R252) -/

/-- Lines of a range in which a read of a given outcome found its errors: those known to be uncorrectable; else the only line that it
checked; else an open choice of them, at least one (log 151). -/
def State.errLines (s : State) (l : List Spot) : List Nat :=
  let ls := s.eccLines l
  let known := ls.filter s.badLines.contains
  if !known.isEmpty then known
  else if ls.length ≤ 1 then ls
  else
    let at' := fun n => Config.freeBits 1 (2 ^ 64 * (s.fresh + 1) + n) == 1
    let hit := ls.filter at'
    if hit.isEmpty then (ls.drop ((Config.freeBits 32 (2 ^ 64 * (s.fresh + 1))).toNat % ls.length)).take 1 else hit

/-- Count the error of one line in the store or port it lies in; an uncorrectable line of a store stays so. -/
def State.countLine (s : State) (res : Res) (n : Nat) : State :=
  let a := n * 64
  if isStore a then
    let t := fld a 32 7
    let x := s.tile t
    match res with
    | .corrected => s.setTile t { x with ce := satAdd 0xFFFFFF x.ce 1 }
    | .uncorrectable =>
      let s := s.setTile t { x with ue := satAdd 0xFFFF x.ue 1, ueBank := bankOf (fld a 0 29) }
      { s with badLines := if s.badLines.contains n then s.badLines else s.badLines ++ [n] }
    | _ => s
  else
    let m := fld a 40 4
    let x := s.port m
    match res with
    | .corrected => s.setPort m { x with ce := satAdd 0xFFFFFF x.ce 1 }
    | .uncorrectable => s.setPort m { x with ue := satAdd 0xFFFF x.ue 1 }
    | _ => s

/-- Add the corrected or uncorrectable errors of a read to the counts of the stores and ports they lie in. -/
def State.countEcc (s : State) (l : List Spot) (res : Res) : State := (s.errLines l).foldl (fun s n => s.countLine res n) s

/-- Raise STORE_UE or MEMPORT_UE for each unit in which lines were uncorrectable, and the contexts served (R57, R227, R444). -/
def State.raiseUe (s : State) (lines : List Nat) (ctxs : List Nat) : State :=
  let units := (lines.map (fun n =>
    if isStore (n * 64) then (1, srcId 1 (fld (n * 64) 32 7)) else (11, srcId 3 (fld (n * 64) 40 4)))).eraseDups
  units.foldl (fun s (row, src) => s.raiseSafety row src ctxs 0) s

/-- An uncorrectable read of a range that served contexts: counted and raised. -/
def State.ueRead (s : State) (l : List Spot) (ctxs : List Nat) : State :=
  let s' := (s.countEcc l .uncorrectable).raiseUe (s.errLines l) ctxs
  { s' with fresh := s'.fresh + 1 }

/-! ### Windows and counters of memory ports (R246, R250, R276, R490, R493) -/

/-- Bytes of the window in progress. -/
def Port.used (x : Port) : Nat := (x.bytes.map Prod.snd).foldl (· + ·) 0

/-- Bytes of a class and a master join the window as far as its 524,288 allow, and the rest the windows behind it. A master
of 73 or above stands for traffic of the port's own. -/
def Port.carry (x : Port) (cls master n : Nat) : Port :=
  let k := min n (524288 - x.used)
  { x with
    bytes := if k = 0 then x.bytes else tput x.bytes cls (tget 0 x.bytes cls + k)
    masters := if k = 0 || 73 ≤ master then x.masters else tput x.masters master (tget 0 x.masters master + k)
    backlog := if k = n then x.backlog else x.backlog ++ [(cls, master, n - k)] }

/-- Bytes of a class move at a port for a master, through the port's crossing: read data up, all other down (R425). -/
def State.portMove (s : State) (m cls master n : Nat) : State :=
  let s := if cls = 0 then s.crossUp (16 + m) (toBytes 8 n) else s.crossDown (16 + m) (toBytes 8 n)
  let s := if master < 68 then
      (s.setTile master { s.tile master with memBytes := (s.tile master).memBytes + n }).count master 21 n
    else s
  let s := (s.setPort m ((s.port m).carry cls master n)).count (68 + m) cls n
  let conf := master < 68 && (match s.runCtx master with | some c => s.confCtx c | none => false)
  if conf || 73 ≤ master then s else s.count (68 + m) (16 + master) n

/-- Lines of memory ports that device addresses lie in. -/
def portLines (as : List Nat) : List Nat := ((as.filter (fun a => !isStore a)).map (· / 64)).eraseDups

/-- Count the requests of 64 bytes that lines make at their ports. -/
def State.moveLines (s : State) (cls master : Nat) (ls : List Nat) : State :=
  (List.range 16).foldl (fun s m =>
    let n := (ls.filter (fun k => fld (k * 64) 40 4 == m)).length
    if n = 0 then s else s.portMove m cls master (64 * n)) s

/-- Runs of the host bytes of a range: PASID, first IOVA and length. -/
def hostRuns (l : List Spot) : List (BitVec 20 × Nat × Nat) :=
  (dmaRuns (l.map (fun p => (p, 0)))).map (fun (p, i, b) => (p, i, b.length))

/-- Ask the host for the bytes that a read reaches there (R283). -/
def State.askHost (s : State) (l : List Spot) : State :=
  (hostRuns l).foldl (fun s (p, i, n) => s.emit (.dmaRead p i n)) s

/-- Bytes moved at the memory ports by an access, and a read's requests to the host: class 0 for a read; for a write class
1, and class 2 for the second copies of MIRROR segments (R237, R250). -/
def State.traffic (s : State) (l : List Spot) (cls master : Nat) : State :=
  let first := l.filterMap (fun p => match p with
    | .dev a m => if cls = 0 then some (s.readAddr a m) else if s.addrFailed a then none else some a
    | _ => none)
  let second := if cls = 0 then [] else l.filterMap (fun p => match p with
    | .dev _ (some m) => if s.addrFailed m then none else some m
    | _ => none)
  let s := if cls = 0 then s.askHost l else s
  (s.moveLines cls master (portLines first)).moveLines 2 master (portLines second)

/-! ### Reads that the mirror copy serves (R227, R237) -/

/-- Source of a memory port's records (R30). -/
def mpSrc (m : Nat) : BitVec 32 := srcId 3 m

/-- Range of a port that holds a byte offset. -/
def Port.rangeAt (p : Port) (off : Nat) : Option Range :=
  let g := off / 0x4000000
  ((List.range 8).map (fun r => (tget {} p.ranges r : Range))).find? (fun r => r.valid && r.base ≤ g && g < r.base + r.len)

/-- Move the contents of a run of bytes to another place. -/
def moveCells (m : List Host.Cell) (a b n : Nat) : List Host.Cell :=
  (m.filter (fun c => a ≤ c.1 && c.1 < a + n)).foldl (fun r c => memPut r (c.1 - a + b) c.2) (memErase m b n)

/-- The range offset of a port's byte, in units of 4 KiB. -/
def Port.blockAt (p : Port) (off : Nat) : Nat :=
  match p.rangeAt off with
  | some r => (off - r.base * 0x4000000) / 4096
  | none => off / 4096

/-- A read is served from the mirror copy at `k`: a corrected error, a MIRROR_READS count and fault 0x0303; the failing 4 KiB
block of the PORTS copy at `a` is rewritten as REBUILD traffic (R227). -/
def State.mirrorServed (s : State) (a k : Nat) : State :=
  let m := fld a 40 4
  let s := (s.countLine .corrected (a / 64)).count (68 + m) 10 1
  let s := (State.portMove { s with mem := moveCells s.mem (k / 4096 * 4096) (a / 4096 * 4096) 4096 } m 3 73 4096).portMove
    (fld k 40 4) 3 73 4096
  s.fault (mpSrc m) 0x0303 none false (BitVec.ofNat 64 ((s.port m).blockAt (fld a 0 40)))

/-- The other copy of a line that a read takes from the PORTS copy, where its port is in service (R227, R237). -/
def State.otherCopy (s : State) : Spot → Option Nat
  | .dev a (some k) => if s.addrFailed a || s.addrFailed k then none else some k
  | _ => none

/-- A read whose uncorrectable lines have all another copy that reads cleanly, an open event, is served from there (R227; log 198). -/
def State.copiesClean (s : State) (l : List Spot) : Bool :=
  let bad := s.errLines l
  !bad.isEmpty && bad.all (fun n => l.any (fun p => (s.served p).map (· / 64) == some n && (s.otherCopy p).isSome))
    && Config.freeBits 1 (2 ^ 67 * (s.fresh + 1)) == 1

/-- Serve the uncorrectable lines of a read from their other copies. -/
def State.serveCopies (s : State) (l : List Spot) : State :=
  let s' := (s.errLines l).foldl (fun s' n =>
    match (l.find? (fun p => (s.served p).map (· / 64) == some n)).bind s.otherCopy with
    | some k => s'.mirrorServed (n * 64) (k / 64 * 64)
    | none => s') s
  { s' with fresh := s'.fresh + 1 }

/-! ### Packets and refusals (R259, R270, R278) -/

/-- Runs of rising addresses: start and length. -/
def runsOf : List Nat → List (Nat × Nat)
  | [] => []
  | a :: r => match runsOf r with
    | (b, n) :: q => if a + 1 = b then (a, n + 1) :: q else (a, 1) :: (b, n) :: q
    | [] => [(a, 1)]

/-- A packet: its header and how many bytes it carries or asks for (R259). -/
structure Packet where
  /-- routers on its way -/
  route : List Nat
  vc : Nat
  /-- source identifier, and the value of the source's counter, which packets do not use up (R31; log 203) -/
  src : BitVec 32
  seq : BitVec 32
  /-- table generation -/
  gen : BitVec 32
  /-- router and address of its target: a device address or an IOVA -/
  target : Nat
  addr : Nat
  bytes : Nat
  deriving DecidableEq, Repr

/-- Router and address of each byte of a range that lies outside router `r`: an own share does not leave the tile (R271). -/
def farBytes (r : Nat) (l : List Spot) : List (Nat × Nat) :=
  (l.flatMap (fun p => match p with
    | .host _ i => [(hostRouter, i)]
    | p => p.addrs.map (fun a => (if isStore a then tileRouter (fld a 32 7) else portRouter (fld a 40 4), a)))).filter
      (fun e => e.1 != r)

/-- The packets of a range from router `r` on a channel, target router by target router (R259). -/
def State.packets (s : State) (src : BitVec 32) (vc r : Nat) (l : List Spot) : List Packet :=
  let bs := farBytes r l
  ((bs.map Prod.fst).eraseDups.flatMap (fun k =>
    ((runsOf ((bs.filter (fun e => e.1 == k)).map Prod.snd)).flatMap (fun e => packetsOf e.1 e.2)).map (fun p =>
      { route := s.path r k, vc, src, seq := tget 0 s.seqs src.toNat, gen := s.bram.gen, target := k, addr := p.1, bytes := p.2 })))

/-- Routes meet a router of a list. -/
def crosses (bad : List Nat) (l : List (List Nat)) : Bool := l.any (·.any bad.contains)

/-- Packets of a range from router `r` that, or whose answers, met a router of a list on routes that were taken. -/
def State.packetsCut (s : State) (bad : List Nat) (routes : List (List Nat)) (r : Nat) (l : List Spot) : Nat :=
  ((s.packets 0 0 r l).filter (fun p =>
    crosses bad (routes.filter (fun q => q.head? == some p.target || q.getLast? == some p.target)))).length

/-- Packets of a range that a refusing endpoint answers: one for an access without a place (log 152). -/
def State.refusals (s : State) (l : List Spot) : Nat :=
  let as := l.filterMap (fun p => match p with
    | .dev a _ => if s.addrRefused a then some a else none
    | _ => none)
  max 1 ((runsOf as).flatMap (fun r => packetsOf r.1 r.2)).length

/-- Count refusals in LOSS.REFUSED. -/
def State.countRefused (s : State) (l : List Spot) (res : Res) : State :=
  if res = .refused then { s with bram := { s.bram with refused := satAdd 0xFFFF s.bram.refused (s.refusals l) } } else s

/-! ### Sleeping tiles, paused injection and withheld credits -/

/-- Routers that a range's packets go to from router `r`. -/
def targets (r : Nat) (l : List Spot) : List Nat := ((farBytes r l).map Prod.fst).eraseDups

/-- Routes of the requests of a range from router `r`, and of their replies (R268). -/
def State.routesTo (s : State) (r : Nat) (l : List Spot) : List (List Nat) :=
  (targets r l).flatMap (fun k => [s.path r k, s.path k r])

/-- Tiles other than the requester, named by a range, that are in KEEP or OFF. -/
def State.asleep (s : State) (self : Nat) (l : List Spot) : List Nat :=
  ((l.flatMap Spot.addrs).filterMap (fun a =>
    if isStore a && fld a 32 7 != self && (s.dom (fld a 32 7)).st != 2 && !s.addrBanked a then some (fld a 32 7) else none)).eraseDups

/-- A memory port serves requests, or answers that it has FAILED; one whose pads are held carries no traffic, and its crossing must
run (R230, R419, R427). -/
def State.portServes (s : State) (m : Nat) : Bool :=
  (s.port m).st == 4 || ((s.port m).st == 2 && !(s.dom (140 + m)).held && s.xingRuns (16 + m))

/-- Memory ports that a range names and that do not serve yet. -/
def State.portsAway (s : State) (l : List Spot) : List Nat :=
  ((l.flatMap Spot.addrs).filterMap (fun a =>
    if !isStore a && !s.portServes (fld a 40 4) && !s.addrBanked a then some (fld a 40 4) else none)).eraseDups

/-- Packets to sleeping tiles wait in their endpoint buffers, and requests to parked ports at their crossings; both wake what
they wait for (R258, R415, R429). -/
def State.wakeFor (s : State) (self : Nat) (l : List Spot) : State :=
  let s' := (s.asleep self l).foldl (fun s t => (s.setTile t { s.tile t with buffered := (s.tile t).buffered + 1 }).evalDom t) s
  (s.portsAway l).foldl (fun s m =>
    if (s.dom (140 + m)).st = 2 then s else (s.setPort m { s.port m with waiting := true }).evalDom (140 + m)) s'

/-- A master receives credits of a port: the port is not THROTTLING, or the master's bytes lie below its floor (R246, R247). -/
def Port.credits (x : Port) (master : Nat) : Bool :=
  !x.throttling || (master < 73 && tget 0 x.masters master < tget 0 x.floors master)

/-- A range reaches the store of tile `t`. -/
def reaches (t : Nat) (l : List Spot) : Bool := (l.flatMap Spot.addrs).any (fun a => isStore a && fld a 32 7 == t)

/-- An access of a range can come to its end: its tiles are awake and hold no requests for shares in migration or for a
self-test (R258, R329, R456), its ports serve and give the master credits, and the host's crossing runs (R427, R430). -/
def State.accessOpen (s : State) (self master : Nat) (l : List Spot) : Bool :=
  (s.asleep self l).isEmpty && (s.portsAway l).isEmpty && ((hostRuns l).isEmpty || s.xingRuns 0) && (l.flatMap Spot.addrs).all (fun a =>
    if isStore a then fld a 32 7 == self || !(s.movesShares (fld a 32 7) || s.inBist (fld a 32 7))
    else (s.port (fld a 40 4)).credits master)

/-- A router has failed that the tables in force do not avoid yet: packets that meet it are discarded (R267 step 1). -/
def State.cutYet (s : State) : Bool := s.bram.routers.any (fun e => e.2 == 3 && !s.bram.avoid.contains e.1)

/-- Routers that have failed. -/
def State.failedRouters (s : State) : List Nat := s.routers.filter s.routerFailed

/-- A range's packets from router `r`, or their answers, meet a failed router that the tables in force do not avoid yet, and are lost
(R267 step 1). -/
def State.meetsFailed (s : State) (r : Nat) (l : List Spot) : Bool := s.cutYet && crosses s.failedRouters (s.routesTo r l)

/-- Count packets discarded or lost (R267). -/
def State.discarded (s : State) (n : Nat) : State :=
  { s with bram := { s.bram with discarded := satAdd 0xFFFF s.bram.discarded n } }

/-- A range's packets go out from router `r`: of those that meet a failed router, the first at least and an open number in all go out
before injection pauses, and they are counted (R267 step 1; log 79). -/
def State.sendCut (s : State) (r : Nat) (l : List Spot) : State :=
  if s.meetsFailed r l then
    let (v, s') := s.draw 32
    s'.discarded (1 + v.toNat % max 1 (s.packetsCut s.failedRouters (s.routesTo r l) r l))
  else s

/-- What becomes of an access is not known yet: its packets were cut as they went out, or its target has failed, and the source does not
know it before ROUTE_RESUME (R268). -/
def State.unresolved (s : State) (cut : Bool) (res : Res) : Bool := cut || (res == .lost && s.cutYet)

/-- The outcome of an operation that a route-around may have cost requests: TIMEOUT is open to no other (R268). -/
def lostRes (lost : Nat) (res : Res) : Option Res :=
  if lost = 2 then some .lost else if res = .lost then none else some res

/-- The host interface as a requester, which has no tile. -/
def hostSelf : Nat := 128
def hostMaster : Nat := 68

/-- A range cannot be sent now: injection on VC-S, VC-Q and VC-B is paused and the range leaves router `r` (R267). -/
def State.injectHeld (s : State) (r : Nat) (l : List Spot) : Bool := s.bram.paused && !(targets r l).isEmpty

end Sys2Proof.Machine
end

