-- ==== Sys2Proof/Machine/Observe.lean ====
section
/-! DEFINITION. Counter banks, the sample ring and instruction trace (R487 to R503). -/

namespace Sys2Proof.Machine

/-- Source of a counter group (R488). -/
def groupSrc (g : Nat) : BitVec 32 :=
  if g < 68 then srcId 1 g else if g < 84 then srcId 3 (g - 68) else if g < 88 then srcId 4 (g - 84)
  else srcId 6 (g - 88)

/-- A group defines counter `i` (R488). -/
def counterDefined (g i : Nat) : Bool :=
  if g < 68 then i ≤ 23
  else if g < 84 then i ≤ 10 || (16 ≤ i && i ≤ 88)
  else if g < 88 then i ≤ 15
  else i ≤ 9

/-- Counters whose every event this model performs; the others depend on timing and arbitration and read as open
values (log 14). -/
def counterKept (g i : Nat) : Bool :=
  if g < 68 then i ≤ 4 || (7 ≤ i && i ≤ 13) || (19 ≤ i && i ≤ 22)
  else if g < 84 then i ≤ 10 || 16 ≤ i
  else g < 88

/-- Value of counter `i` of one bank of group `g` (R488, R490). -/
def State.counterOfBank (s : State) (g : Nat) (bank : Table Nat) (i : Nat) : Nat :=
  if !(s.group g).ctl.getLsbD 0 || !counterDefined g i then 0
  else if counterKept g i then tget 0 bank i
  else (Config.counterOf g i s.fresh).toNat

/-- The pacer a group's records carry (R496): that of Q0's infrastructure block runs from the same start as that of Q0's tile 0,
since both restart when Q0's uncore powers up (R62). -/
def State.groupPacer (s : State) (g : Nat) : Word := if g < 68 then s.pacer g else s.pacer 0

/-! ### The sample ring (R497 to R499) -/

def State.smpEnabled (s : State) : Bool := s.obs.cfg.getLsbD 11

/-- Lines of the ring. -/
def State.smpSize (s : State) : Nat := 2 ^ fld s.obs.cfg.toNat 0 5

/-- PHASE of a record that `w` lines precede (R497). -/
def State.smpPhase (s : State) (w : Nat) : Bool := (w / s.smpSize + 1) % 2 == 1

/-- The 64-byte header of a record (R498). -/
def smpHeader (src seq : BitVec 32) (kind flags lines ctx : Nat) (layer op : BitVec 16) (first count : Nat)
    (cmdSeq : BitVec 32) (pacer opened : Word) (lost : Nat) : List Byte :=
  toBytes 4 src.toNat ++ toBytes 4 seq.toNat ++ toBytes 1 kind ++ toBytes 1 flags ++ toBytes 2 lines ++ toBytes 2 ctx
    ++ toBytes 2 layer.toNat ++ toBytes 2 op.toNat ++ toBytes 1 first ++ toBytes 1 count ++ toBytes 4 cmdSeq.toNat
    ++ toBytes 8 pacer.toNat ++ toBytes 8 opened.toNat ++ toBytes 2 lost ++ toBytes 22 0

/-- Write lines at a place of the ring: host memory under the manager's PASID, or LPDDR5X, where they count as writes of no master of R247
(R250, R497). -/
def State.smpPut (s : State) (line : Nat) (bs : List Byte) : State :=
  let a := fld s.obs.cfg.toNat 12 52 * 4096 + line * 64
  if s.obs.cfg.getLsbD 10 then
    let l := (List.range bs.length).map (fun i => Spot.dev (a + i) none)
    (s.traffic l 1 73).writeSpots l bs
  else s.emit (.dma s.mgrPasid a bs)

/-- Place one record: body lines first and the header last, after a PAD record where it would wrap; or count it as
lost (R497, R499). `hdr` makes the header from the sequence number, LOST_COUNT and PHASE. -/
def State.smpRecord (s : State) (src : BitVec 32) (lines : Nat) (body : List Byte)
    (hdr : BitVec 32 → Nat → Bool → List Byte) : State :=
  let (seq, s) := s.nextSeq src
  let lost := tget 0 s.obs.lostBy src.toNat
  let size := s.smpSize
  let pos := s.obs.written % size
  let pad := if pos + lines > size then size - pos else 0
  if s.smpEnabled && s.obs.written + pad + lines - s.obs.head.toNat ≤ size then
    let s := if pad = 0 then s else
      s.smpPut pos (smpHeader 0 0 4 (0x80 * bit (s.smpPhase s.obs.written)) pad 0 0 0 0 0 0 0 0 0)
    let w := s.obs.written + pad
    let s := if body.isEmpty then s else s.smpPut (w % size + 1) body
    let s := s.smpPut (w % size) (hdr seq lost (s.smpPhase w))
    { s with obs := { s.obs with written := w + lines, lostBy := tput s.obs.lostBy src.toNat 0 } }
  else
    { s with obs := { s.obs with
        overs := satAdd 0xFFFF s.obs.overs 1
        lostBy := tput s.obs.lostBy src.toNat (satAdd 0xFFFF lost 1) } }

/-- Emit a PERIODIC 1 or CLOSE 2 record of a bank of group `g` (R494, R496, R498). -/
def State.bankRecord (s : State) (g kind : Nat) (bank : Table Nat) : State :=
  let x := s.group g
  let first := fld x.ctl.toNat 8 8
  let n := fld x.ctl.toNat 16 8
  let lines := 1 + (n * 8 + 63) / 64
  let vals := (List.range n).map (fun i => if x.conf then 0 else s.counterOfBank g bank (first + i))
  let body := vals.flatMap (fun v => toBytes 8 v)
  let body := body ++ List.replicate ((lines - 1) * 64 - body.length) 0
  let pac := s.groupPacer g
  s.smpRecord (groupSrc g) lines body (fun seq lost ph =>
    smpHeader (groupSrc g) seq kind (bit (lost != 0) + 2 * bit x.conf + 4 * bit x.part + 0x80 * bit ph) lines
      (match x.ctx with | some c => c + 0x8000 | none => 0)
      (if x.conf then 0 else x.layer) (if x.conf then 0 else x.op) first n x.seq pac x.opened lost)

/-- Close the open bank of a group and open the other at zero (R494). For a tile group the new bank takes what is in
force after the swap. -/
def State.bankSwap (s : State) (g : Nat) (ctx : Option Nat) (layer op : BitVec 16) (seq : BitVec 32) (conf : Bool) :
    State :=
  let x := s.group g
  let s := if x.ctl.getLsbD 0 && x.ctl.getLsbD 2 then s.bankRecord g 2 x.counters else s
  s.setGroup g { s.group g with
    closed := x.counters, counters := [], ctx, layer, op, seq, conf, opened := s.groupPacer g, part := false }

/-! ### Instruction trace (R501, R502) -/

/-- The trace of a tile. -/
def State.trace (s : State) (t : Nat) : Trace := tget {} s.obs.traces t
def State.setTrace (s : State) (t : Nat) (x : Trace) : State :=
  { s with obs := { s.obs with traces := tput s.obs.traces t x } }

/-- A trace packet (R501). -/
def tracePacket (type code : Nat) (pacer value : Word) : BitVec 128 :=
  BitVec.ofNat 128 (type + code % 256 * 2 ^ 8 + pacer.toNat % 2 ^ 32 * 2 ^ 32 + value.toNat * 2 ^ 64)

/-- Emit the gathered lines as one TRACE record of at most 63 lines (R501). -/
def State.traceFlush (s : State) (t : Nat) : State :=
  let x := s.trace t
  if x.stage.isEmpty then s
  else
    let pk := x.stage.take 252
    let lines := (pk.length + 3) / 4
    let body := pk.flatMap (fun p => toBytes 16 p.toNat)
    let body := body ++ List.replicate (lines * 64 - body.length) 0
    let pac := s.pacer t
    let g := s.group t
    let s := s.setTrace t { x with stage := x.stage.drop 252 }
    s.smpRecord (srcId 1 t) (1 + lines) body (fun seq lost ph =>
      smpHeader (srcId 1 t) seq 3 (bit (lost != 0) + 0x80 * bit ph) (1 + lines)
        (match g.ctx with | some c => c + 0x8000 | none => 0) g.layer g.op 0 lines g.seq pac g.opened lost)

/-- Stage one packet of a tile's trace, or lose it when the 4 KiB buffer is full (R501, R502). `full` packets appear
in FULL mode only. -/
def State.traceEmit (s : State) (t : Nat) (full : Bool) (type code : Nat) (value : Word) : State :=
  let x := s.trace t
  let conf := match (s.tile t).core.ctx with | some c => s.confCtx c | none => false
  if x.mode = 0 || (full && x.mode != 2) || conf then s
  else if x.stage.length ≥ 256 then
    s.setTrace t { x with lost := satAdd 0xFFFF x.lost 1, gap := x.gap + 1 }
  else
    let gap := if x.gap = 0 then [] else [tracePacket 7 0 (s.pacer t) (BitVec.ofNat 64 x.gap)]
    let s := s.setTrace t { x with stage := x.stage ++ gap ++ [tracePacket type code (s.pacer t) value], gap := 0 }
    if (s.trace t).stage.length ≥ 128 then s.traceFlush t else s

/-! ### The OBSERVE registers' writes (R503) -/

/-- The whole ring lies in host memory, or in one range of a bunch assigned to this host (R497). -/
def State.ringOk (s : State) (base sizeLog : Nat) (lpddr : Bool) : Bool :=
  let len := 2 ^ sizeLog * 64
  if !lpddr then true
  else
    let m := fld base 40 4
    let o := fld base 0 40
    fld base 44 20 == 0 && s.hasPort m && (List.range 8).any (fun r =>
      let x : Range := tget {} (s.port m).ranges r
      x.valid && x.base * 0x4000000 ≤ o && o + len ≤ (x.base + x.len) * 0x4000000 && (s.bunchOf x.owner).host)

/-- Write SMP_CFG (R503). -/
def State.writeSmpCfg (s : State) (acc : Acc) (v : Word) : State :=
  let old := s.obs.cfg
  let v := mergeHalf acc old v
  let on := old.getLsbD 11
  let base := if on then fld old.toNat 12 52 else fld v.toNat 12 52
  let size := fld v.toNat 0 5
  if v.getLsbD 11 && !(8 ≤ size && size ≤ 24 && s.ringOk (base * 4096) size (v.getLsbD 10)) then
    { s with obs := { s.obs with cfg := BitVec.ofNat 64 (putFld old.toNat 9 1 1) } }
  else
    let err := if v.getLsbD 11 then 0 else fld old.toNat 9 1
    let n := base * 4096 + bit (v.getLsbD 11) * 2 ^ 11 + bit (v.getLsbD 10) * 2 ^ 10 + err * 2 ^ 9 + size
    { s with obs := { s.obs with
        cfg := BitVec.ofNat 64 n
        written := if v.getLsbD 11 && !on then 0 else s.obs.written } }

/-- Write SMP_INTERVAL: below 1,000 sets 1,000 (R503). -/
def State.writeSmpInterval (s : State) (acc : Acc) (v : Word) : State :=
  let n := fld (mergeHalf acc (s.obs.interval.setWidth 64) v).toNat 0 32
  match acc with
  | .hi => s
  | _ => { s with obs := { s.obs with interval := BitVec.ofNat 32 (max 1000 n) } }

/-- Write SMP_HEAD (R497). -/
def State.writeSmpHead (s : State) (acc : Acc) (v : Word) : State :=
  { s with obs := { s.obs with head := mergeHalf acc s.obs.head v } }

/-- Write SMP_STATUS: CLEAR zeroes OVERFLOWS (R503). -/
def State.writeSmpStatus (s : State) (acc : Acc) (v : Word) : State :=
  if (halfBits acc v).getLsbD 63 then { s with obs := { s.obs with overs := 0 } } else s

/-- A group of a unit the variant has (R3, R503). -/
def State.groupPresent (s : State) (g : Nat) : Bool :=
  if g < 68 then s.hasTile g else if g < 84 then s.hasPort (g - 68) else if g < 88 then s.hasRunner (g - 84)
  else g < 216 && (g - 88) / 32 < quartersOf s.boot.variant && (g - 88) % 32 < 25

/-- Write GRP_CTL (R503): enables and range, discarded when FIRST + COUNT exceeds 256; CLEAR swaps the banks of a
group other than a tile's (R494). -/
def State.writeGrpCtl (s : State) (g : Nat) (acc : Acc) (v : Word) : State :=
  if !s.groupPresent g then s
  else
    let x := s.group g
    let w := mergeHalf acc (x.ctl.setWidth 64) v
    let ctl := w.toNat % 16 + fld w.toNat 8 16 * 2 ^ 8
    let s :=
      if fld ctl 16 8 > 128 || fld ctl 8 8 + fld ctl 16 8 > 256 then s
      else
        let moved := ctl % 2 != x.ctl.toNat % 2 || ctl / 256 != x.ctl.toNat / 256
        s.setGroup g { x with ctl := BitVec.ofNat 24 ctl, part := x.part || moved }
    if (halfBits acc v).getLsbD 63 && 68 ≤ g then s.bankSwap g none 0 0 0 false else s

/-- Write TRACE_CTL (R503): a MODE of 3 is discarded. -/
def State.writeTraceCtl (s : State) (t : Nat) (acc : Acc) (v : Word) : State :=
  let x := s.trace t
  let w := mergeHalf acc (BitVec.ofNat 64 (bit x.stall * 8 + x.mode * 2)) v
  if !s.hasTile t || fld w.toNat 1 2 = 3 then s
  else s.setTrace t { x with mode := fld w.toNat 1 2, stall := w.getLsbD 3 }

/-- `obs.rd`'s value (R223, R500). -/
def State.obsRead (s : State) (t g i : Nat) : Word :=
  let x := s.group g
  let c := (s.tile t).core.ctx
  let conf := match c with | some c => s.confCtx c | none => false
  if x.ctl.getLsbD 0 && x.ctl.getLsbD 3 && counterDefined g i && !conf && (68 ≤ g || x.ctx == c) then
    BitVec.ofNat 64 (s.counterOfBank g x.counters i)
  else 0

end Sys2Proof.Machine
end

