-- ==== Sys2Proof/Machine/Flits.lean ====
section
/-! DEFINITION. Flits and message bytes on a lane quad (R360, R362, R365, R368, R372), and the quad of a pair (R369). -/

namespace Sys2Proof.Machine

/-! ### CRC-32C (R360, R372): the Castagnoli polynomial, PRESUMED by its name (log 25) -/

/-- One bit of the reflected CRC. -/
def crcBit (c : BitVec 32) : BitVec 32 := if c.getLsbD 0 then (c >>> 1) ^^^ 0x82F63B78 else c >>> 1

/-- Eight bits. -/
def crcByte (c : BitVec 32) (b : Byte) : BitVec 32 :=
  (List.range 8).foldl (fun c _ => crcBit c) (c ^^^ b.setWidth 32)

/-- CRC-32C of a byte string. -/
def crc32c (bs : List Byte) : BitVec 32 := ~~~ bs.foldl crcByte 0xFFFFFFFF

/-! ### Flits (R360) -/

def fTYPE (f : BitVec 512) : Nat := fld f.toNat 28 4
def fVC (f : BitVec 512) : Nat := fld f.toNat 26 2
def fSOM (f : BitVec 512) : Bool := f.getLsbD 25
def fEOM (f : BitVec 512) : Bool := f.getLsbD 24
def fSEQ (f : BitVec 512) : BitVec 12 := BitVec.ofNat 12 (fld f.toNat 12 12)
def fACK (f : BitVec 512) : BitVec 12 := BitVec.ofNat 12 (fld f.toNat 0 12)

/-- The 56 DATA bytes. -/
def fDATA (f : BitVec 512) : BitVec 448 := BitVec.ofNat 448 (fld f.toNat 32 448)

/-- The flit's CRC covers bytes 0 to 59. -/
def crcGood (f : BitVec 512) : Bool := fld f.toNat 480 32 == (crc32c (toBytes 60 f.toNat)).toNat

/-- A flit of a header and DATA, closed by its CRC. -/
def mkFlit (hdr : Nat) (data : Nat) : BitVec 512 :=
  let b := hdr % 2 ^ 32 + data % 2 ^ 448 * 2 ^ 32
  BitVec.ofNat 512 (b + (crc32c (toBytes 60 b)).toNat * 2 ^ 480)

/-- Header of a DATA flit. -/
def dataHdr (vc : Nat) (som eom : Bool) (seq ack : BitVec 12) : Nat :=
  1 * 2 ^ 28 + vc % 4 * 2 ^ 26 + bit som * 2 ^ 25 + bit eom * 2 ^ 24 + seq.toNat * 2 ^ 12 + ack.toNat

/-- A flit sent again: the same message bytes with the ACK of now. -/
def reAck (f : BitVec 512) (ack : BitVec 12) : BitVec 512 :=
  mkFlit (dataHdr (fVC f) (fSOM f) (fEOM f) (fSEQ f) ack) (fDATA f).toNat

/-! ### Message bytes (R365, R368, R372) -/

/-- The 32-byte header. -/
def msgHeader (m : Msg) : List Byte :=
  toBytes 4 m.bunch.toNat ++ toBytes 3 m.src ++ toBytes 3 m.dst ++ toBytes 2 m.epoch.toNat ++ toBytes 1 m.cls
    ++ toBytes 1 (m.chan % 4 + 4 * bit m.enc) ++ toBytes 2 m.len ++ toBytes 6 m.seq ++ toBytes 2 m.keyId
    ++ toBytes 8 m.param.toNat

/-- The 96-bit IV of an encrypted message. -/
def msgIv (m : Msg) : Nat := m.src * 2 ^ 72 + m.dst * 2 ^ 48 + m.seq

/-- Key of an identifier. -/
def State.jobKey (s : State) (id : Nat) : BitVec 256 :=
  match s.sec.jobKeys.find? (fun k => k.id == id) with
  | some k => k.key
  | none => 0

/-- Header, payload and trailer: a CRC-32C in clear, or AES-256-GCM under the job key, whose bytes are open. -/
def State.msgBytes (s : State) (m : Msg) : List Byte :=
  let h := msgHeader m
  if m.enc then
    let c := Config.cipher (s.jobKey m.keyId) (msgIv m) (h ++ m.payload)
    h ++ (List.range (m.payload.length + 16)).map (fun i => c.getD i 0)
  else h ++ m.payload ++ toBytes 4 (crc32c (h ++ m.payload)).toNat

/-- Flits of a message: ceil(bytes / 56) (R368). -/
def State.msgFlits (s : State) (m : Msg) : Nat := ((s.msgBytes m).length + 55) / 56

/-! ### The quad of a pair (R369) -/

/-- State of a quad whose port powers up: it trains if its port has a partner, and stays UNTRAINED otherwise (R28, R358). -/
def quadStart (x : Nat) : Nat := if Config.hasPartner (x / 4) then 2 else 1

/-- A quad carries traffic: it is READY, its port's pads are not held, and its crossing runs (R419, R427). -/
def State.quadUp (s : State) (x : Nat) : Bool :=
  (s.quad x).st == 3 && !(s.dom (156 + x / 4)).held && s.xingRuns (32 + x / 4)

/-- A quad takes no new message: it is moving to another bunch, once its graft no longer waits (R332, R333), or its port drains
for an update (R509). -/
def State.quadMoving (s : State) (x : Nat) : Bool :=
  s.comp.grafts.any (fun g => g.kind == 4 && g.out == x && 1 ≤ g.step)
    || (s.sec.updActive && s.sec.updKind == 4 && s.sec.updDone == x / 4)

/-- The partner of a quad leads to a module: it is a switch, or the module itself (log 26). -/
def State.quadReaches (s : State) (x module : Nat) : Bool :=
  let r := s.runner (x / 4)
  r.kind == 2 || (r.kind == 1 && r.partner.toNat == module)

/-- A quad is not DOWN: it is READY or PARKED, or its port has been OFF and its partner is known (R369, R377). -/
def State.quadAlive (s : State) (x : Nat) : Bool := (s.quad x).st == 3 || (s.quad x).st == 5 || (s.quad x).st == 1

/-- The quads of a bunch that reach a module, in ascending order: QUAD_MOVE, an epoch change and a quad going DOWN change the list;
one that is parked or whose crossing does not run stays in it (R369). -/
def State.listedQuads (s : State) (b : BitVec 32) (module : Nat) : List Nat :=
  (List.range 16).filter (fun x => tget 0 s.comp.quadOwner x == b && s.quadAlive x && !s.quadMoving x && s.quadReaches x module)

/-- Two messages are of one pair. -/
def samePair (k m : Msg) : Bool := k.bunch == m.bunch && k.src == m.src && k.dst == m.dst

/-- The pair has a message on the quad, waiting or unanswered. -/
def Quad.carries (q : Quad) (m : Msg) : Bool := q.unans.any (samePair m) || q.txq.any (fun e => e.2.any (samePair m))

/-- Module of the leaf that a message goes to, under the map of its epoch (R334), none for no leaf of another module. -/
def State.awayTo (s : State) (m : Msg) : Option Nat :=
  let x := s.bunchOf m.bunch
  match ((x.mapFor m.epoch).getD x.map)[m.dst]? with
  | some l => if l.module = 0 then none else some l.module
  | none => none

/-- The quad that a message takes: the one its pair still uses, else the pair's place in the list. None while that quad is moving or
belongs to another bunch by now, or carries no traffic: the message waits (R332, R369, R429). -/
def State.quadFor (s : State) (m : Msg) : Option Nat :=
  let x := match (List.range 16).find? (fun x => (s.quad x).carries m) with
    | some x => if s.quadMoving x || tget 0 s.comp.quadOwner x != m.bunch then none else some x
    | none => match s.awayTo m with
      | some module =>
        let l := s.listedQuads m.bunch module
        l[(m.src + m.dst) % l.length]?
      | none => none
  x.filter s.quadUp

/-- Queue a message on a quad's channel. -/
def State.queueMsg (s : State) (x : Nat) (m : Msg) : State :=
  let q := s.quad x
  s.setQuad x { q with txq := tput q.txq (m.chan % 4) (tget [] q.txq (m.chan % 4) ++ [m]) }

/-- A message that waits for a quad of its bunch whose port is PARKED or OFF wakes the port (R429). -/
def State.wakeRunners (s : State) (b : BitVec 32) : State :=
  (List.range 4).foldl (fun s x =>
    if s.hasRunner x && (s.dom (156 + x)).st ≤ 1 && (List.range 4).any (fun j => tget 0 s.comp.quadOwner (4 * x + j) == b) then
      (s.setRunner x { s.runner x with waiting := true }).evalDom (156 + x)
    else s) s

/-- Send a message that leaves the module. It waits while its bunch has no quad for it, or its pair must not move yet, behind
the pair's messages that wait already (R332, R369). -/
def State.queueAway (s : State) (m : Msg) : State :=
  match (if s.comp.waits.any (samePair m) then none else s.quadFor m) with
  | some x => s.queueMsg x m
  | none => State.wakeRunners { s with comp := { s.comp with waits := s.comp.waits ++ [m] } } m.bunch

/-- Try the waiting messages again, in order. -/
def State.flushWaits (s : State) : State :=
  s.comp.waits.foldl (fun s m => s.queueAway m) { s with comp := { s.comp with waits := [] } }

end Sys2Proof.Machine
end

