-- ==== Sys2Proof/Machine/Messages.lean ====
section
/-! DEFINITION. Messages between members: sequence numbers, headers, answers and their results (R365 to R373). -/

namespace Sys2Proof.Machine

/-- Message classes (R366). -/
def clsAnswer : Nat := 0x01
def clsSend : Nat := 0x02
def clsPut : Nat := 0x03
def clsGetReq : Nat := 0x04
def clsGetReply : Nat := 0x05
def clsRow : Nat := 0x06
def clsMarker : Nat := 0x07
def clsReturn : Nat := 0x08
def clsCredit : Nat := 0x09
def clsBar : Nat := 0x0A
def clsCollSeq : Nat := 0x0B
def clsCollData : Nat := 0x0C
def clsFreeze : Nat := 0x0D
def clsEpoch : Nat := 0x0E
def clsLost : Nat := 0x0F
def clsBeat : Nat := 0x10

/-- The channel of a class (R218, R366): 0 TC, 1 TS, 2 TQ, 3 TB. -/
def chanOf (cls : Nat) : Nat :=
  if cls = 1 then 1 else if cls = 2 || cls = 4 then 2
  else if cls = 3 || cls = 5 || cls = 6 || cls = 7 || cls = 8 || cls = 12 then 3 else 0

/-- Key of a rank pair in the sequence tables (R367). -/
def pairKey (src dst : Nat) : Nat := src * 2 ^ 24 + dst

/-- The pair has sequence values left (R367). -/
def State.pairOpen (s : State) (b : BitVec 32) (src dst : Nat) : Bool :=
  tget 0 (s.bunchOf b).pairSeq (pairKey src dst) < 0xFFFFFFFF0000

/-- The messages of the bunch between modules are encrypted (R478). -/
def Bunch.encrypts (x : Bunch) : Bool := x.encrypt || x.conf

/-- The ACTIVE job key of a bunch, 0 for none (R478). -/
def State.activeKey (s : State) (b : BitVec 32) : Nat :=
  match s.sec.jobKeys.find? (fun k => k.bunch == b && k.active) with
  | some k => k.id
  | none => 0

/-- Router where a rank's unit joins the Bramble, for a message of its pair: a tile of this module, or the runner port of the
quad that carries the pair. -/
def State.endRouter (s : State) (m : Msg) (r : Nat) : Option Nat :=
  let x := s.bunchOf m.bunch
  match ((x.mapFor m.epoch).getD x.map)[r]? with
  | some l => if l.module = 0 then some (tileRouter l.tile)
    else ((List.range 16).find? (fun k => (s.quad k).carries m)).map (fun k => runnerRouter (k / 4))
  | none => none

/-- Routes of a message and of its answer on the tables in force (R268). -/
def State.msgRoutes (s : State) (m : Msg) : List (List Nat) :=
  match s.endRouter m m.src, s.endRouter m m.dst with
  | some a, some b => if a = b then [] else [s.path a b, s.path b a]
  | _, _ => []

/-- Two messages are of one pair, channel and SEQ. -/
def sameMsg (k m : Msg) : Bool := samePair k m && k.chan == m.chan && k.seq == m.seq

/-- Packets that carry a message within the module: its payload's, at least one (R259). -/
def msgPackets (m : Msg) : Nat := max 1 (packetsOf 0 m.payload.length).length

/-- Two messages take one channel between the same endpoints of the module (R261). -/
def State.sameWay (s : State) (k m : Msg) : Bool :=
  k.chan == m.chan && s.endRouter k k.src == s.endRouter m m.src && s.endRouter k k.dst == s.endRouter m m.dst

/-- Messages on their way on a channel from a tile to targets of a range: what the tile sends there on the channel later arrives after
them (R261). -/
def State.ahead (s : State) (t chan : Nat) (l : List Spot) : List Msg :=
  if s.bram.flight.isEmpty then []
  else
    let ts := targets (tileRouter t) l
    s.bram.flight.filter (fun m => m.chan == chan && s.endRouter m m.src == some (tileRouter t)
      && ((s.endRouter m m.dst).map ts.contains).getD false)

/-- Put a message within the module on its way; its packets may meet a failed router at once (R267 step 1). -/
def State.postNear (s : State) (m : Msg) : State :=
  if s.cutYet && crosses s.failedRouters ((s.msgRoutes m).take 1) then
    State.discarded { s with bram := { s.bram with cut := s.bram.cut ++ [m] } } (msgPackets m)
  else { s with bram := { s.bram with flight := s.bram.flight ++ [m] } }

/-- Put a message on the Bramble: to a quad, or on its way within the module. While injection is paused, all but VC-C's wait
(R267). -/
def State.post (s : State) (m : Msg) : State :=
  if s.bram.paused && m.chan != 0 then { s with bram := { s.bram with held := s.bram.held ++ [m] } }
  else
    let s := s.emit (.msg m)
    if (s.awayTo m).isSome then s.queueAway m else s.postNear m

/-- Injection resumes: the messages that waited go out in order (R267 step 5). -/
def State.postHeld (s : State) : State := s.bram.held.foldl (fun s m => s.post m) { s with bram := { s.bram with held := [] } }

/-- Build and send one message of a pair; the sequence value it took and the state after (R365, R367). A pair whose sequence
is used up sends none. Messages that leave the module carry ENC when the bunch is confidential or marked ENCRYPT (R478). -/
def State.sendMsg (s : State) (b : BitVec 32) (src dst : Nat) (epoch : BitVec 16) (gen : BitVec 32) (cls chan len : Nat)
    (param : BitVec 64) (payload : List Byte) : Nat × State :=
  let seq := tget 0 (s.bunchOf b).pairSeq (pairKey src dst)
  if !s.pairOpen b src dst then (seq, s)
  else
    let m : Msg := { bunch := b, src, dst, epoch, cls, chan, enc := false, len, seq, keyId := 0, param, payload
                     intact := true, port := none, srcGen := gen }
    let enc := (s.awayTo m).isSome && (s.bunchOf b).encrypts
    let s := s.updBunch b (fun x => { x with pairSeq := tput x.pairSeq (pairKey src dst) (seq + 1) })
    (seq, s.post { m with enc, keyId := if enc then s.activeKey b else 0 })

/-- A message of a pair is answered or ended: nothing keeps it, and messages that waited for it go on (R268, R369, R370). -/
def State.dropSent (s : State) (b : BitVec 32) (src dst seq : Nat) : State :=
  let is := fun (m : Msg) => m.bunch == b && m.src == src && m.dst == dst && m.seq == seq
  State.flushWaits { s with
    quads := s.quads.map (fun (x, q) => (x, { q with unans := q.unans.filter (fun m => !is m) }))
    comp := { s.comp with waits := s.comp.waits.filter (fun m => !is m) }
    bram := { s.bram with
      flight := s.bram.flight.filter (fun m => !is m), held := s.bram.held.filter (fun m => !is m)
      cut := s.bram.cut.filter (fun m => !is m) } }

/-- The leaf is lost: a lost rank of the current map holds this tile under this generation (R337, R339). -/
def Bunch.leafLost (x : Bunch) (l : Leaf) : Bool := x.lost.any (fun r => x.map[r]? == some l)

/-- A rank under the map of an epoch is lost. -/
def State.rankLost (s : State) (b : BitVec 32) (epoch : BitVec 16) (r : Nat) : Bool :=
  let x := s.bunchOf b
  match ((x.mapFor epoch).getD x.map)[r]? with
  | some l => x.leafLost l
  | none => false

/-- RESULT values of an answer (R366). -/
def resOk : Nat := 0
def resStale : Nat := 1
def resBunch : Nat := 2
def resRank : Nat := 3
def resHandle : Nat := 4
def resBounds : Nat := 5
def resRefused : Nat := 6
def resDropped : Nat := 7
def resClosed : Nat := 8
def resLength : Nat := 9
def resState : Nat := 10
def resHost : Nat := 11

/-- The detail a RESULT becomes at the sender (R366); a drop notice ends no operation. -/
def resDetail (r : Nat) : Nat :=
  match r with
  | 1 => 0x26 | 2 => 0x29 | 3 => 0x2A | 4 => 0x2B | 5 => 0x2C | 6 => 0x23 | 8 => 0x24 | 9 => 0x27
  | 10 => 0x31 | 11 => 0x32 | _ => 0

/-- The RESULT of a GET_REQ whose line is uncorrectable, which R366 does not list: the requester's launch ends with
SAFETY_FENCED (R57; DESIGN CHOICE, log 153). -/
def resFenced : Nat := 12

/-- PARAM of an ANSWER. -/
def answerParam (m : Msg) (result : Nat) : BitVec 64 :=
  BitVec.ofNat 64 (m.seq % 2 ^ 48 + m.cls % 256 * 2 ^ 48 + result * 2 ^ 56)

/-- Answer a message with a RESULT (R366): PARAM holds its SEQ, its class and the result. The result is kept for duplicates
(R367). A message captured under FREEZE has its answer already (R343). The answer to a message of a bunch without a record
here returns on the quad that brought it, with an open SEQ (log 154). -/
def State.answer (s : State) (m : Msg) (result : Nat) : State :=
  if m.answered then s else match s.findBunch m.bunch, m.port with
  | none, some p =>
    let (v, s) := s.draw 48
    let a : Msg := { m with src := m.dst, dst := m.src, cls := clsAnswer, chan := 1, enc := false, len := 0, seq := v.toNat
                            keyId := 0, param := answerParam m result, payload := [], port := none, srcGen := 0 }
    (s.emit (.msg a)).queueMsg p a
  | _, _ =>
    let x := s.bunchOf m.bunch
    let gen := match leafAt ((x.mapFor m.epoch).getD x.map) m.dst with
      | some t => tget 0 s.stone.gens t
      | none => 0
    let (_, s) := s.sendMsg m.bunch m.dst m.src m.epoch gen clsAnswer 1 0 (answerParam m result) []
    s.updBunch m.bunch (fun x => { x with
      lastRes := tput x.lastRes ((pairKey m.src m.dst * 4 + m.chan % 4) * 2 ^ 48 + m.seq % 2 ^ 48) result })

/-! ### Credits (R160, R191, R219, R366) -/

/-- Kinds of credit. -/
def creditMsg : Nat := 1
def creditPool : Nat := 2
def creditColl : Nat := 3

/-- The credit that the receiver of a message returns when it had to wait for room (log 50). -/
def creditOf (m : Msg) : Nat :=
  if m.cls = clsSend then creditMsg
  else if m.cls = clsRow && m.param.getLsbD 9 then creditPool
  else if m.cls = clsBar || m.cls = clsCollSeq then creditColl
  else 0

/-- Room has come for a message that waited: its sender receives a credit. -/
def State.sendCredit (s : State) (t : Nat) (m : Msg) : State :=
  if creditOf m = 0 then s
  else (s.sendMsg m.bunch m.dst m.src m.epoch (tget 0 s.stone.gens t) clsCredit 0 8 (BitVec.ofNat 64 (creditOf m))
    (toBytes 8 1)).2

/-- Key of the credits of a kind that a rank gave. -/
def creditKey (kind rank : Nat) : Nat := kind * 2 ^ 24 + rank

/-- Credits arrive at a tile (R366). -/
def State.addCredit (s : State) (t : Nat) (m : Msg) : State :=
  let x := s.tile t
  let k := creditKey (fld m.param.toNat 0 8) m.src
  s.setTile t { x with credits := tput x.credits k (tget 0 x.credits k + ofBytes m.payload) }

end Sys2Proof.Machine
end

