-- ==== Sys2Proof/Machine/Intake.lean ====
section
/-! DEFINITION. Intakes: the receive path of the dispatch unit (R154 to R158, R160, R168). -/

namespace Sys2Proof.Machine

/-! ### Tags and descriptors -/

/-- The 16-byte row tag (R156) as a number. -/
def mkTag (origin slot : Nat) (spilled : Bool) (row weight expert round : Nat) : Nat :=
  origin % 2 ^ 24 + (slot % 8 + 128 * bit spilled) * 2 ^ 24 + row % 2 ^ 32 * 2 ^ 32 + weight % 2 ^ 32 * 2 ^ 64
    + expert % 2 ^ 16 * 2 ^ 96 + round % 2 ^ 16 * 2 ^ 112

def tagOrigin (g : Nat) : Nat := fld g 0 24
def tagSlot (g : Nat) : Nat := fld g 24 3
def tagRow (g : Nat) : Nat := fld g 32 32
def tagWeight (g : Nat) : Nat := fld g 64 32
def tagRound (g : Nat) : Nat := fld g 112 16

/-- Fields of the intake descriptor (R154). -/
def Intake.fieldAt (x : Intake) (byte n : Nat) : Nat := fld x.desc.toNat (8 * byte) (8 * n)
def Intake.buf (x : Intake) : Nat := x.fieldAt 0 8
def Intake.tagVa (x : Intake) : Nat := x.fieldAt 8 8
def Intake.spillVa (x : Intake) : Nat := x.fieldAt 16 8
def Intake.spillRows (x : Intake) : Nat := x.fieldAt 24 4
def Intake.rowsMax (x : Intake) : Nat := x.fieldAt 28 2
def Intake.threshold (x : Intake) : Nat := x.fieldAt 30 2
def Intake.rowBytes (x : Intake) : Nat := x.fieldAt 32 2
def Intake.roundOf (x : Intake) : Nat := x.fieldAt 36 2
def Intake.quota (x : Intake) : Nat := x.fieldAt 38 2
def Intake.origins (x : Intake) : Nat := x.fieldAt 40 3

/-- Rows of the shared pool (R160). -/
def Intake.poolMax (x : Intake) : Nat := x.rowsMax - x.origins * x.quota

/-- Rows of the pool in use. -/
def Intake.poolUsed (x : Intake) : Nat := (x.pool.map Prod.snd).foldl (· + ·) 0

/-- How a message's round stands to the kept ROUND (R158): 0 accepted, 1 past, 2 early. -/
def Intake.timing (x : Intake) (round : Nat) : Nat :=
  let d := (round + 65536 - x.round.toNat) % 65536
  if !x.ever then 2
  else if d = 0 then (if x.isOpen && !x.closed then 0 else 1)
  else if 2 ^ 15 ≤ d then 1 else 2

/-! ### Batches (R157) -/

/-- Mark the last batch of a list LAST. -/
def markLast (lost : Bool) : List Batch → List Batch
  | [] => []
  | [b] => [{ b with last := true, lost }]
  | b :: r => b :: markLast lost r

/-- Close the round: release the part-filled slot, then the spill rows, the last batch with LAST (R157). -/
def Intake.close (x : Intake) (lost : Bool) : Intake :=
  let th := x.threshold
  let rest := x.rows - x.filled
  let start := x.filled % max 1 x.rowsMax
  let part : List Batch := if rest = 0 then [] else [{ start, count := rest, last := false, spilled := false, lost := false }]
  let spills : List Batch := (List.range ((x.spill + th - 1) / max 1 th)).map (fun k =>
    { start := k * th, count := min th (x.spill - k * th), last := false, spilled := true, lost := false })
  let all := x.released ++ part ++ spills
  let all := if all.isEmpty then [{ start := 0, count := 0, last := false, spilled := false, lost := false }] else all
  { x with
    closed := true
    filled := x.rows
    busy := if rest = 0 then x.busy else x.busy ++ [start / max 1 th]
    released := markLast lost all }

/-- Write one row and its tag at row `n` of an area. -/
def State.putRowAt (s : State) (t va tagVa n rowBytes : Nat) (row : List Byte) (tag : Nat) : State :=
  let s := s.writeSpots (s.vaSpots t (BitVec.ofNat 64 (va + n * rowBytes)) row.length) row
  s.writeSpots (s.vaSpots t (BitVec.ofNat 64 (tagVa + n * 16)) 16) (toBytes 16 tag)

/-- Put a row into the buffer, releasing its slot when THRESHOLD rows have filled it (R156, R157). -/
def State.placeRow (s : State) (t i src : Nat) (block : Bool) (row : List Byte) (tag : Nat) : State :=
  let x := (s.tile t).intake i
  let pos := x.rows % max 1 x.rowsMax
  let slot := pos / max 1 x.threshold
  let s := s.putRowAt t x.buf x.tagVa pos x.rowBytes row tag
  let full := (x.rows + 1 - x.filled) = x.threshold
  let y := { x with
    rows := x.rows + 1
    counts := if block then x.counts else tput x.counts src (tget 0 x.counts src + 1)
    pool := if block then tput x.pool slot (tget 0 x.pool slot + 1) else x.pool
    filled := if full then x.rows + 1 else x.filled
    busy := if full then x.busy ++ [slot] else x.busy
    released := if full then
      x.released ++ [{ start := slot * x.threshold, count := x.threshold, last := false, spilled := false, lost := false }]
      else x.released }
  s.setTile t ((s.tile t).setIntake i y)

/-- Count a row that the receiver drops, and among those the quota breaches (R160, R168, R489; log 149). -/
def State.countBreach (s : State) (t i : Nat) (quota : Bool) : State :=
  let x := (s.tile t).intake i
  let s := s.count t 11 1
  if quota then s.setTile t ((s.tile t).setIntake i { x with breaches := x.breaches + 1 }) else s

/-- Where row `n` of an area and its tag lie. -/
def State.spillSpots (s : State) (t va tagVa n rowBytes : Nat) : List Spot :=
  s.vaSpots t (BitVec.ofNat 64 (va + n * rowBytes)) rowBytes ++ s.vaSpots t (BitVec.ofNat 64 (tagVa + n * 16)) 16

/-- Write a SPILLED row to LPDDR5X, as traffic of the tile (R160, R250): it waits for its ports' credits (R247), and on a failed port
it is lost, which its answer says (R230). -/
def State.spillRow (s : State) (t i tag : Nat) (row : List Byte) : State × Option Nat :=
  let x := (s.tile t).intake i
  let tagVa := x.spillVa + x.spillRows * x.rowBytes
  let l := s.spillSpots t x.spillVa tagVa x.spill x.rowBytes
  match s.moveRes [] l .ok with
  | .portFailed => (s, some resState)
  | _ =>
    if !s.accessOpen t t l then (s.wakeFor t l, none)
    else
      let s := (s.traffic l 1 t).putRowAt t x.spillVa tagVa x.spill x.rowBytes row tag
      (s.setTile t ((s.tile t).setIntake i { x with spill := x.spill + 1 }), some resOk)

/-- Take a whole row at an intake whose round it carries: the result it is answered with, none while it waits for pool
credit or for its memory (R160, R168). -/
def State.acceptRow (s : State) (t i src : Nat) (spilled block : Bool) (tag : Nat) (row : List Byte) : State × Option Nat :=
  let x := (s.tile t).intake i
  if row.length ≠ x.rowBytes then (s, some resLength)
  else if spilled then
    if x.spill < x.spillRows && x.spillVa != 0 then
      s.spillRow t i tag row
    else (s.countBreach t i false, some resDropped)
  else if block then
    if x.poolUsed < x.poolMax then (s.placeRow t i src true row tag, some resOk) else (s, none)
  else if tget 0 x.counts src < x.quota then (s.placeRow t i src false row tag, some resOk)
  else (s.countBreach t i true, some resDropped)

/-! ### Rows and markers -/

/-- Fields of a ROW's PARAM (R366). -/
def rowIntake (m : Msg) : Nat := fld m.param.toNat 0 2
def rowSpilled (m : Msg) : Bool := m.param.getLsbD 8
def rowBlock (m : Msg) : Bool := m.param.getLsbD 9
def rowPart (m : Msg) : Nat := fld m.param.toNat 16 8
def rowParts (m : Msg) : Nat := fld m.param.toNat 24 8

/-- Key of a row's earlier parts: the origin in its bunch. -/
def partsKey (m : Msg) : Nat := m.bunch.toNat * 2 ^ 24 + m.src

/-- A row's bytes so far: part 0 starts afresh, a later part follows those before it. The tag comes first (log 24). -/
def Intake.rowBytesOf (x : Intake) (m : Msg) : List Byte :=
  (if rowPart m = 0 then [] else tget [] x.parts (partsKey m)) ++ m.payload

/-- Round that a ROW or MARKER carries (R158). -/
def Intake.msgRound (x : Intake) (m : Msg) : Nat :=
  if m.cls = clsMarker then fld m.param.toNat 16 16 else tagRound (ofBytes ((x.rowBytesOf m).take 16))

/-- What becomes of a ROW or MARKER at its intake: its result, none while it waits (R157, R158, R160). -/
def State.tryIntake (s : State) (t : Nat) (m : Msg) : State × Option Nat :=
  let i := rowIntake m
  let x := (s.tile t).intake i
  if m.cls = clsRow && rowPart m + 1 < rowParts m then
    (s.setTile t ((s.tile t).setIntake i { x with parts := tput x.parts (partsKey m) (x.rowBytesOf m) }), some resOk)
  else match x.timing (x.msgRound m) with
    | 2 => (s, none)
    | 1 => (s.setTile t ((s.tile t).setIntake i { x with parts := tdel x.parts (partsKey m) }), some resClosed)
    | _ =>
      if m.cls = clsMarker then
        let y := { x with markers := if x.markers.contains m.src then x.markers else x.markers ++ [m.src] }
        let y := if y.origins ≤ y.markers.length then y.close false else y
        (s.setTile t ((s.tile t).setIntake i y), some resOk)
      else
        let bs := x.rowBytesOf m
        match s.acceptRow t i m.src (rowSpilled m) (rowBlock m) (ofBytes (bs.take 16)) (bs.drop 16) with
        | (s, none) => (s, none)
        | (s, some r) =>
          let x := (s.tile t).intake i
          (s.setTile t ((s.tile t).setIntake i { x with parts := tdel x.parts (partsKey m) }), some r)

/-- A message waits at the intakes of a tile (R158, R161). -/
def isIntakeMsg (m : Msg) : Bool := m.cls == clsRow || m.cls == clsMarker

/-- Two rows or markers come from one origin to one intake. -/
def sameRoute (k m : Msg) : Bool :=
  isIntakeMsg k && isIntakeMsg m && k.bunch == m.bunch && k.src == m.src && rowIntake k == rowIntake m

/-- Try every waiting row and marker once, in arrival order; one that waits holds back those of its origin behind it, since
a marker never overtakes the rows before it (R165). Room that comes for a row returns a credit with its answer (R160). -/
def State.tryWaiting (s : State) (t : Nat) : State :=
  let r := (s.tile t).early.foldl (fun (a : State × List Msg) m =>
    let (s, kept) := a
    if !isIntakeMsg m || kept.any (sameRoute m) then (s, kept ++ [m])
    else match s.tryIntake t m with
      | (s, none) => (s, kept ++ [m])
      | (s, some res) => ((s.sendCredit t m).answer m res, kept)) (s, [])
  r.1.setTile t { r.1.tile t with early := r.2 }

/-- A row or marker arrives at its intake: it is taken and answered, or it waits (R157, R158, R160, R165). -/
def State.arriveRow (s : State) (t : Nat) (m : Msg) : State :=
  let wait := fun (s : State) => s.setTile t { s.tile t with early := (s.tile t).early ++ [m] }
  if (s.tile t).early.any (sameRoute m) then wait s
  else match s.tryIntake t m with
    | (s, none) => wait s
    | (s, some res) => s.answer m res

/-! ### `intake.take` (R157, R209) -/

/-- Result word of `intake.take`. -/
def Batch.word (b : Batch) : Word :=
  BitVec.ofNat 64 (b.count % 2 ^ 24 + b.start % 2 ^ 24 * 2 ^ 24 + bit b.lost * 2 ^ 61 + bit b.spilled * 2 ^ 62
    + bit b.last * 2 ^ 63)

/-- Free the slot of the batch taken before (R157): its pool rows return their credit. -/
def Intake.freeTaken (x : Intake) : Intake :=
  match x.taken with
  | none => x
  | some b =>
    let slot := b.start / max 1 x.threshold
    if b.spilled || b.count = 0 then { x with taken := none }
    else { x with taken := none, busy := x.busy.filter (· != slot), pool := tdel x.pool slot }

/-- Take the next released batch: the intake after it and the result word. -/
def Intake.takeNext (x : Intake) : Option (Intake × Word) :=
  match x.released with
  | [] => none
  | b :: r => some ({ x with
      released := r, taken := some b
      isOpen := x.isOpen && !b.last
      lastTaken := x.lastTaken || b.last }, b.word)

/-- Wake an `intake.take` that waits for a batch. `resume` makes it retire with its result. -/
def State.wakeTake (s : State) (t : Nat) (resume : State → Nat → Word → State) : State :=
  let c := (s.tile t).core
  match c.stall with
  | .intake rd i =>
    if c.halted then s
    else match ((s.tile t).intake i).takeNext with
      | none => s
      | some (x, w) => resume (s.setTile t ((s.tile t).setIntake i x)) rd w
  | _ => s

/-- Let waiting messages and a waiting `intake.take` go on as far as they can. -/
def State.settleIntakes : Nat → State → Nat → (State → Nat → Word → State) → State
  | 0, s, _, _ => s
  | n + 1, s, t, resume => State.settleIntakes n ((s.tryWaiting t).wakeTake t resume) t resume

/-- Close every intake of a tile at `sys.exit` (R154); a message that waited for a round that closes is refused (R158). -/
def State.closeIntakes (s : State) (t : Nat) : State :=
  let x := s.tile t
  let s := s.setTile t { x with intakes := x.intakes.map (fun (i, k) => (i, { k with isOpen := false })) }
  s.tryWaiting t

end Sys2Proof.Machine
end

