-- ==== Sys2Proof/Machine/Kernel.lean ====
section
/-! DEFINITION. The life of a kernel on a tile: stops and traps (R193 to R197), the end of engine operations (R45 to
R50, R211), the kernel boundary, dispatch, launches and their ends (R69, R190, R192), swaps (R385 to R390). -/

namespace Sys2Proof.Machine

/-! ### Engine operations -/

/-- Token detail of an engine and a code (R177). -/
def tokDetail (eng code : Nat) : BitVec 16 := BitVec.ofNat 16 (eng * 256 + code)

/-- One engine operation leaves its queue: its token becomes DONE or ERROR and its flags join the kernel's
(R46, R102, R177). -/
def State.closeOp (s : State) (t : Nat) (o : EngOp) (err : Option Nat) : State :=
  let x := s.tile t
  let tok : Tok := match err with
    | none => { st := 2 }
    | some e => { st := 3, det := tokDetail o.eng e }
  let core := { x.core.setTok o.kd tok with flags := x.core.flags ||| o.flags }
  let movers := if o.eng < 3 then x.movers else
    let m := tget {} x.movers (o.eng - 3)
    if m.last = o.id then tput x.movers (o.eng - 3) { m with res := if err.isSome then 2 else 1 } else x.movers
  s.setTile t { x with core, movers, ops := x.ops.filter (fun p => p.id != o.id) }

/-- Operation code of an engine operation's word (R198). -/
def EngOp.op (o : EngOp) : Nat := fld o.w.toNat 56 4

/-- The ranges that a mover operation reads, in the order of its host bytes, and the range that it writes (R210): 0 `mv.copy`,
1 `mv.fill`, 2 `mv.cmp`. -/
def State.mvFirst (s : State) (t : Nat) (o : EngOp) : List Spot :=
  match o.op with
  | 0 => s.vaSpots t o.gb o.gc.toNat
  | 1 => []
  | _ => s.vaSpots t o.ga o.gc.toNat
def State.mvSecond (s : State) (t : Nat) (o : EngOp) : List Spot := if o.op = 2 then s.vaSpots t o.gb o.gc.toNat else []
def State.mvReads (s : State) (t : Nat) (o : EngOp) : List Spot := s.mvFirst t o ++ s.mvSecond t o
def State.mvWrites (s : State) (t : Nat) (o : EngOp) : List Spot :=
  if o.op = 2 then s.vaSpots t o.ge 8 else s.vaSpots t o.ga o.gc.toNat

/-- What a mover operation writes (R210). -/
def State.mvBytes (s : State) (t : Nat) (o : EngOp) (a b : HostBytes) : List Byte :=
  match o.op with
  | 0 => s.readSpots (s.mvFirst t o) a
  | 1 => fillBytes o.gb.toNat o.gc.toNat
  | _ => toBytes 8 (match firstDiff (s.readSpots (s.mvFirst t o) a) (s.readSpots (s.mvSecond t o) b) with
    | some d => d
    | none => 2 ^ 64 - 1)

/-- The trigger starts a mover operation: its requests go out on the routes in force, or wait while injection is paused
(R211, R267, R268). Sleeping tiles wake for them (R258). -/
def State.markStarted (s : State) (t : Nat) (o : EngOp) : State :=
  let x := s.tile t
  let r := tileRouter t
  let rd := s.mvReads t o
  let wr := s.mvWrites t o
  let held := s.injectHeld r (rd ++ wr)
  let s' := s.setTile t { x with ops := updFirst (fun p => p.id == o.id) (fun p => { p with
    started := true, routesR := s.routesTo r rd, routesW := s.routesTo r wr, held, cut := !held && s.meetsFailed r (rd ++ wr)
    behind := s.ahead t 2 rd ++ s.ahead t 3 wr }) x.ops }
  (if held then s' else s'.sendCut r (rd ++ wr)).wakeFor t (rd ++ wr)

/-- A length of zero moves nothing, and `mv.cmp` writes that the empty ranges are equal (R210, log 32). -/
def State.zeroWrite (s : State) (t : Nat) (o : EngOp) : State :=
  if o.op = 2 then s.writeSpots (s.mvWrites t o) (s.mvBytes t o [] []) else s

/-- Start or fail the operations chained to operation `id` (R211). A length of zero completes when its trigger starts it
(R210). -/
def State.chain : Nat → State → Nat → Nat → Bool → State
  | 0, s, _, _, _ => s
  | n + 1, s, t, id, ok =>
    (s.tile t).ops.foldl (fun s o =>
      if o.trig = some (false, id) && !o.started then
        if !ok then State.chain n (s.closeOp t o (some 0x42)) t o.id false
        else if (s.tile t).core.halted then s
        else if o.gc = 0 then State.chain n ((s.zeroWrite t o).closeOp t o none) t o.id true
        else s.markStarted t o
      else s) s

/-- Count the bytes that a tile's movers wrote, into its store and elsewhere (R489). -/
def State.countMoved (s : State) (t : Nat) (l : List Spot) : State :=
  let own := l.filter (fun p => p.addrs.any (fun a => isStore a && fld a 32 7 == t))
  (s.count t 19 own.length).count t 20 (l.length - own.length)

/-- A mover operation stops short: lines whose source is uncorrectable are not written, and of the others R274 leaves open
which are (log 16). -/
def State.moverStops (s : State) (t : Nat) (o : EngOp) (bs : List Byte) (bad : List Nat) : State :=
  let wr := s.mvWrites t o
  let l := if o.op = 0 then s.soundPairs (s.mvReads t o) wr bs bad else wr.zip bs
  let n := (s.partSpots l).map Prod.fst
  (s.partialWrite (l.map Prod.fst) (l.map Prod.snd)).countMoved t n

/-- A started operation of a mover has issued writes, which complete. The operations of the other engines write at their end,
or at their start. -/
def State.landWrites (s : State) (t : Nat) (o : EngOp) : State :=
  if 3 ≤ o.eng && o.started then
    let s := s.moverStops t o (s.mvBytes t o [] []) s.badLines
    { s with fresh := s.fresh + 1 }
  else s

/-- Abort every PENDING operation of a tile (R70, R195): each token ends in ERROR with the code, and writes already issued
complete. -/
def State.abortOps (s : State) (t : Nat) (code : Nat) : State :=
  (s.tile t).ops.foldl (fun s o => (s.landWrites t o).closeOp t o (some code)) s

/-- End the operations that still wait for a trigger at `sys.exit` (R211). -/
def State.endWaiting (s : State) (t : Nat) : State :=
  (s.tile t).ops.foldl (fun s o =>
    if o.trig.isSome && !o.started then s.closeOp t o (some 0x43) else s) s

/-! ### Stops -/

/-- Launch status of a trap (R193). -/
def trapStatus : Nat → BitVec 16
  | 2 => 0x0A
  | 3 => 4
  | 4 => 5
  | 7 => 7
  | _ => 1

/-- A reason stops the running kernel of a tile. The first reason stays, but a safety stop replaces it (R196). A safety
stop, the watchdog and an ABORT also abort every PENDING operation (R70, R195, R307); after any other stop, operations already
issued continue (R194). -/
def State.stopKernel (s : State) (t : Nat) (st : Stop) (abort : Option Nat) : State :=
  let c := (s.tile t).core
  match c.run with
  | none => s
  | some _ =>
    let stop := match c.stop with
      | none => st
      | some old => if st.safety && !old.safety then { old with status := 8, safety := true } else old
    let s := s.setCore t { c with stop := some stop, stall := .exit }
    match abort with
    | some code => s.abortOps t code
    | none => s

/-- A safety stop of the running kernel (R70, R196). -/
def State.safetyStop (s : State) (t : Nat) : State :=
  s.stopKernel t { status := 8, safety := true } (some 0xE1)

/-- The running kernel has used 2 × BUDGET pacer counts (R392). -/
def State.watchdogDue (s : State) (t : Nat) : Bool :=
  match (s.tile t).core.run with
  | some r => !(s.tile t).core.halted && 2 * r.launch.budget.toNat ≤ (s.pacer t - r.start).toNat
  | none => false

/-- The core waits at an instruction for something other than load data (R195, R197). -/
def Core.stalled (c : Core) : Bool :=
  match c.stall with
  | .none | .load .. | .lost => false
  | _ => true

/-- The tile takes WATCHDOG: every PENDING operation aborts and the record holds the address, or zero when the core was
stalled (R195, R197). A kernel that another reason has stopped keeps its status, and its operations abort. -/
def State.takeWatchdog (s : State) (t : Nat) : State :=
  let c := (s.tile t).core
  match c.stop with
  | some _ => s.abortOps t 0xE0
  | none =>
    let pc : Word := if c.stalled then 0 else c.pc
    let s := (s.count t 22 1).traceEmit t false 4 7 c.pc
    let s := s.stopKernel t { status := trapStatus 7, trap := 7 } (some 0xE0)
    s.fault (srcId 1 t) 0x0107 (s.runCtx t) false (BitVec.ofNat 64 (pc.toNat % 2 ^ 32))

/-- WATCHDOG stands before the reasons of items 3 to 5 at one boundary (R196). -/
def State.watchdogFirst (s : State) (t : Nat) : Bool := s.watchdogDue t && (s.tile t).core.stop.isNone

/-- A reason of item 3 or item 4 of R196 stops the running kernel. -/
def State.stopFor (s : State) (t : Nat) (st : Stop) (abort : Option Nat) : State :=
  if s.watchdogFirst t then s.takeWatchdog t else s.stopKernel t st abort

/-- Take a trap at the instruction at `pc` (R193 to R197): the kernel stops with the trap's status and a fault record
is written. `hi` is bits [47:32] of the record's detail. -/
def State.trap (s : State) (t code : Nat) (pc : Word) (hi : BitVec 16) : State :=
  if s.watchdogFirst t then s.takeWatchdog t
  else
    let ctx := s.runCtx t
    let s := (s.count t 22 1).traceEmit t false 4 code pc
    let s := s.stopKernel t { status := trapStatus code, trap := code } none
    s.fault (srcId 1 t) (BitVec.ofNat 16 (0x100 + code)) ctx false
      (BitVec.ofNat 64 (pc.toNat % 2 ^ 32 + hi.toNat * 2 ^ 32))

/-! ### Retirement and resumption -/

/-- An instruction retires: it is counted (R489), traced in FULL mode (R501), and the core goes on at `pc`. -/
def State.retireTo (s : State) (t : Nat) (instr : Bool) (pc : Word) : State :=
  let s := s.count t 1 1
  let s := if instr then s.traceEmit t true 6 0 (s.tile t).core.pc else s
  s.setCore t { (s.tile t).core with pc, stall := .none }

/-- The instruction at the program counter retires and fetch goes on after its `n` bytes (R200). -/
def State.retire (s : State) (t n : Nat) : State := s.retireTo t true ((s.tile t).core.pc + BitVec.ofNat 64 n)

/-- A stalled `wait` whose token has left PENDING returns, or traps on ERROR (R47). -/
def State.wakeWait (s : State) (t : Nat) : State :=
  let c := (s.tile t).core
  match c.stall with
  | .wait k =>
    let x := c.getTok k
    if c.halted || x.st = 1 then s
    else if x.st = 2 then s.retire t 8
    else s.trap t 5 c.pc x.det
  | _ => s

/-- End an engine operation, act on the operations chained to it (R211), and resume a `wait` on its token. -/
def State.endOp (s : State) (t : Nat) (o : EngOp) (err : Option Nat) : State :=
  (State.chain ((s.tile t).ops.length) (s.closeOp t o err) t o.id err.isNone).wakeWait t

/-- The trigger of a mover operation starts it; a length of zero completes (R210, R211). -/
def State.beginMover (s : State) (t : Nat) (o : EngOp) : State :=
  if o.gc = 0 then (s.zeroWrite t o).endOp t o none else s.markStarted t o

/-- A control core that waits on fence `f` resumes with what the waiter saw (R208). -/
def State.wakeFence (s : State) (t f : Nat) : State :=
  let c := (s.tile t).core
  match c.stall with
  | .fence rd f' v =>
    if f' = f && !c.halted then
      match (s.fence f).look v with
      | some r => (s.setCore t (c.setG rd (BitVec.ofNat 64 r))).retire t 8
      | none => s
    else s
  | _ => s

/-- Evaluate every waiter of a fence (R315): host commands, then control cores. -/
def State.evalWaiters (s : State) (f : Nat) : State :=
  (s.evalHostWaits f).tiles.foldl (fun s e => s.wakeFence e.1 f) (s.evalHostWaits f)

/-! ### Reports and launch ends (R69 step 2, R192) -/

/-- A launch whose every leaf tile of this module has reported completes under R192. Of several tiles that report SAFETY_FENCED the
lowest rank fills DETAIL, which is 0 when the status is OK (DESIGN CHOICE, log 210). -/
def State.launchEnd (s : State) (q : Nat) (seq : BitVec 32) (c : QCmd) : State :=
  let rs := c.reports
  let low := fun (l : List (Nat × BitVec 16 × Nat × BitVec 16)) =>
    l.foldl (fun (a : Option (Nat × BitVec 16 × Nat × BitVec 16)) r =>
      match a with
      | none => some r
      | some b => if r.1 < b.1 then some r else a) none
  let pick := match low (rs.filter (fun r => r.2.1 == 8)) with
    | some r => some r
    | none => low (rs.filter (fun r => r.2.1 != 0))
  let flags := rs.foldl (fun f r => f ||| r.2.2.2) 0
  match pick with
  | some (rank, status, trap, _) => s.finishCmd q seq status (BitVec.ofNat 32 (trap * 2 ^ 24 + rank % 2 ^ 24)) flags
  | none => s.finishCmd q seq 0 0 flags

/-- A tile reports the end of its part of a launch to the host interface (R69 step 2, R192). -/
def State.report (s : State) (t q : Nat) (seq : BitVec 32) (rank : Nat) (status : BitVec 16) (trap : Nat)
    (flags : BitVec 16) : State :=
  match (s.queue q).cmd seq with
  | none => s
  | some c =>
    if c.type = 1 && c.waiting.any (fun w => w.2 == t) then
      let c' := { c with
        waiting := c.waiting.filter (fun w => w.2 != t)
        reports := c.reports ++ [(rank, status, trap, flags)] }
      let s := s.updCmd q seq (fun _ => c')
      if c'.waiting.isEmpty then s.launchEnd q seq c' else s
    else s

/-- Charge a launch with the bytes that a tile's master moved for it (R410). -/
def State.charge (s : State) (t q : Nat) (seq : BitVec 32) : State :=
  s.updCmd q seq (fun c => { c with ran := true, moved := c.moved + (s.tile t).memBytes })

/-- End a launch that waits in a FIFO of a tile, without running (R307, R452): its rank reports the status. -/
def State.dropLaunch (s : State) (t : Nat) (l : Launch) (status : BitVec 16) : State :=
  let rank := match l.one with
    | some _ => 0
    | none => match (s.bunchOf l.scope).localLeaves.find? (fun p => p.2 == t) with
      | some p => p.1
      | none => 0
  s.report t l.q l.seq rank status 0 0

/-! ### Swaps (R387 to R390) -/

/-- Rank of a DEADLINE at pacer count `p` (R69 step 3): none after every other. -/
def deadlineKey (p d : Word) : Int := if d = BitVec.allOnes 64 then 2 ^ 63 else (d - p).toInt

/-- Granules of a tile that no slot owns and no clear holds (R55, R61). -/
def Tile.unowned (x : Tile) (g : Nat) : Bool :=
  (List.range 16).all (fun i => !((x.slot i).valid && (x.slot i).share.getLsbD g))
    && x.clearing.all (fun c => !c.1.getLsbD g)

/-- Those of them that no swap has reserved (R387 step 1). -/
def Tile.freeGranule (x : Tile) (g : Nat) : Bool :=
  x.unowned g && (match x.swap with | some w => !w.bm.getLsbD g | none => true)

/-- A slot that holds no context and that no swap has reserved. -/
def Tile.slotFree (x : Tile) (i : Nat) : Bool :=
  !(x.slot i).valid && (match x.swap with | some w => w.slot != i | none => true)

/-- Number of free granules. -/
def Tile.freeCount (x : Tile) : Nat := ((List.range 256).filter x.freeGranule).length

/-- Lowest-numbered free slot. -/
def Tile.freeSlot (x : Tile) : Option Nat := (List.range 16).find? x.slotFree

/-- Slots a swap may take as victims: not pinned, no running kernel, no pending launch, a backing area
(R385, R387), and whole, with no clear for it in progress (R61); latest DEADLINE first and the highest slot among equals. -/
def State.victimOrder (s : State) (t : Nat) : List Nat :=
  let x := s.tile t
  let p := s.pacer t
  let ok := (List.range 16).filter (fun i =>
    let sl := x.slot i
    sl.valid && !(s.ctx sl.ctx).pinned && (s.ctx sl.ctx).backing.isSome && sl.fifo.isEmpty
      && x.clearing.all (fun e => e.2 != some i)
      && !(match x.core.run with | some r => r.slot == i | none => false))
  ok.reverse.mergeSort (fun i j => deadlineKey p (x.slot j).deadline ≤ deadlineKey p (x.slot i).deadline)

/-- The shortest run of victims that gives a slot and `need` granules, none when no run does. The tile keeps at most 48 standby
entries, of which `coming` leave by the swap (R383). -/
def State.chooseVictims (s : State) (t need coming : Nat) : Option (List Nat) :=
  let x := s.tile t
  let order := s.victimOrder t
  ((List.range (order.length + 1)).find? (fun n =>
    let v := order.take n
    (n != 0 || x.freeSlot.isSome) && x.standby.length + n ≤ 48 + coming &&
      need ≤ x.freeCount + (v.map (fun i => popCount (x.slot i).share.toNat 256)).foldl (· + ·) 0)).map order.take

/-- Backing location of rank `r` of a context (R384). -/
def State.backingLoc (s : State) (c r : Nat) : Option Loc :=
  match (s.ctx c).backing with
  | none => none
  | some (seg, off, stride) => s.segLoc c none none (tget 0 (s.ctx c).segs seg) (s.segNames c seg) (off + r * stride) []

/-- The first `n` bytes of a backing area (R384). -/
def State.backing (s : State) (c r n : Nat) : List Spot :=
  match s.backingLoc c r with
  | some l => s.spots l n
  | none => []

/-- The bytes that a tile reads back of a share. The manual gives none for a line whose backing port has FAILED: they are open
(R230, R387; log 179). -/
def State.backed (s : State) (l : List Spot) : List Byte :=
  if s.rangeRes l .ok = .ok then s.readSpots l [] else (List.range l.length).map s.openByte

/-- Leaf rank of a tile in a context's bunch (R37). -/
def State.ctxRank (s : State) (c t : Nat) : Nat :=
  match (s.bunchOf (s.ctx c).bunch).localLeaves.find? (fun p => p.2 == t) with
  | some p => p.1
  | none => 0

/-- Written lines of a share, as line numbers within it (R59, R387). -/
def State.shareLines (s : State) (t : Nat) (bm : BitVec 256) : List Nat :=
  (List.range (shareBytes bm / 64)).filter (fun i =>
    match shareOff bm (i * 64) with
    | some o => s.lineWritten (tsAddr t o)
    | none => false)

/-- Bytes that a swap moves: they count at the tile's master and are charged to no command (R387, R410). -/
def State.swapTraffic (s : State) (t : Nat) (l : List Spot) (cls : Nat) : State :=
  let n := (s.tile t).memBytes
  let s := s.traffic l cls t
  s.setTile t { s.tile t with memBytes := n }

/-- The bytes of a share in the order of its offsets. -/
def shareSpots (t : Nat) (share : BitVec 256) : List Spot :=
  (List.range (shareBytes share)).map (fun k => match shareOff share k with
    | some o => .dev (tsAddr t o) none
    | none => .gone)

/-- A swap's read of a range: what it finds uncorrectable is counted and raised for the context (R57, R227; log 198). -/
def State.swapRead (s : State) (l : List Spot) (c : Nat) : State :=
  if s.readRes l = .uncorrectable then s.ueRead l [c] else { s with fresh := s.fresh + 1 }

/-- The lines that a share's offsets give, and which lie in lines known to be uncorrectable. -/
def State.badOf (s : State) (t : Nat) (share : BitVec 256) (lines : List Nat) : List Nat :=
  lines.filter (fun k => match shareOff share (k * 64) with
    | some o => s.badLines.contains (tsAddr t o / 64)
    | none => false)

/-- Move a resident context of a tile to standby (R387 step 2): its share goes to the backing area, but for its uncorrectable lines,
which are never written there as valid and stay so (R57), and its granules are cleared. -/
def State.swapOut (s : State) (t i : Nat) : State :=
  let sl := (s.tile t).slot i
  let r := s.ctxRank sl.ctx t
  let n := shareBytes sl.share
  let lines := s.shareLines t sl.share
  let from' := shareSpots t sl.share
  let s := s.swapRead from' sl.ctx
  let bad := s.badOf t sl.share lines
  let l := s.backing sl.ctx r n
  let ok := (l.zip (s.readSpots from' [])).zip (List.range n) |>.filter (fun p => !bad.contains (p.2 / 64)) |>.map Prod.fst
  let s := ((s.swapTraffic t l 1).writeSpots (ok.map Prod.fst) (ok.map Prod.snd)).clearGranules t sl.share
  let x := (s.tile t).setSlot i {}
  s.setTile t { x with
    standby := x.standby ++ [{ ctx := sl.ctx, rank := r, granules := n / 0x200000, deadline := sl.deadline,
                               empty := false, fifo := sl.fifo, flags := sl.flags, lines, bad }] }

/-- Bring a standby share of a tile into a slot (R387 steps 3 and 4): every line the share had written, and every other
line reads zero. What was uncorrectable when it left, or is so in the backing area, is uncorrectable (R57). -/
def State.swapIn (s : State) (t i c : Nat) : State :=
  let x := s.tile t
  match x.standby.find? (fun e => e.ctx == c) with
  | none => s
  | some e =>
    match lowestBits x.unowned 256 e.granules with
    | none => s
    | some bm =>
      let share := BitVec.ofNat 256 bm
      let s := s.clearGranules t share
      let all := if e.empty then [] else s.backing c e.rank (e.granules * 0x200000)
      let line := fun k => (all.drop (k * 64)).take 64
      let found := s.errLines (e.lines.flatMap line)
      let ue := s.readRes (e.lines.flatMap line) = .uncorrectable
      let bad := e.lines.filter (fun k => e.bad.contains k || (ue && (line k).any (fun p => match s.served p with
        | some a => found.contains (a / 64)
        | none => false)))
      let s := (s.swapRead (e.lines.flatMap line) c).swapTraffic t (e.lines.flatMap line) 0
      let s := e.lines.foldl (fun s k =>
        match shareOff share (k * 64) with
        | none => s
        | some o => { s.pokeN (tsAddr t o) (s.backed (line k)) with fresh := s.fresh + 1 }) s
      let s : State := { s with
        badLines := s.badLines ++ bad.filterMap (fun k => (shareOff share (k * 64)).map (fun o => tsAddr t o / 64)) }
      let x := s.tile t
      s.setTile t { (x.setSlot i { valid := true, ctx := c, share, deadline := e.deadline, flags := e.flags,
                                   fifo := e.fifo }) with
        standby := x.standby.filter (fun d => d.ctx != c), swaps := satAdd 0xFFFF x.swaps 1 }

/-- What a swap reads and writes in backing areas. -/
def State.swapSpots (s : State) (t : Nat) (w : Swap) : List Spot :=
  let x := s.tile t
  w.victims.flatMap (fun i => s.backing (x.slot i).ctx (s.ctxRank (x.slot i).ctx t) (shareBytes (x.slot i).share))
    ++ (match w.ctx.bind (fun c => x.standby.find? (fun e => e.ctx == c)) with
      | some e => if e.empty then [] else s.backing e.ctx e.rank (e.granules * 0x200000)
      | none => [])

/-- A swap for `need` granules begins: it reserves its slot and the granules that are free (R387 step 1), and wakes the ports that serve
its backing areas (R429). -/
def State.beginSwap (s : State) (t need : Nat) (w : Swap) : State :=
  let x := s.tile t
  let bm := ((List.range 256).filter x.freeGranule).take need |>.foldl (fun b g => b + 2 ^ g) 0
  (s.setTile t { x with swap := some { w with bm := BitVec.ofNat 256 bm } }).wakeFor t (s.swapSpots t w)

/-- Start a swap for the earliest standby entry with a pending launch that ranks before `best` (R389); it waits when no
victim qualifies. -/
def State.startSwap (s : State) (t : Nat) (best : Option Int) : State :=
  let x := s.tile t
  let p := s.pacer t
  if x.swap.isSome then s
  else
    let cand := x.standby.filter (fun e => !e.fifo.isEmpty &&
      (match best with | none => true | some b => deadlineKey p e.deadline < b))
    let first := cand.foldl (fun (a : Option Standby) e =>
      match a with
      | none => some e
      | some b => if deadlineKey p e.deadline < deadlineKey p b.deadline then some e else a) none
    match first with
    | none => s
    | some e =>
      match s.chooseVictims t e.granules 1 with
      | none => s
      | some v =>
        let slot := match x.freeSlot with
          | some i => i
          | none => v.headD 0
        s.beginSwap t e.granules { ctx := some e.ctx, slot, victims := v }

/-! ### Dispatch (R69 steps 3 to 5, R190) -/

/-- Height of a unit above its leaves (R38). -/
def State.depthOf (s : State) : Nat → BitVec 32 → Nat
  | 0, _ => 0
  | n + 1, id =>
    (s.bunchOf id).members.foldl (fun d m => match m with
      | .bunch b => max d (1 + s.depthOf n b)
      | .away h _ => max d (1 + h)
      | _ => max d 1) 0

/-- A tile whose bunch is frozen, being frozen, halted or dissolving starts no launch (R343, R346, R322). -/
def State.tileStopped (s : State) (t : Nat) : Bool :=
  let id := s.tileBunch t
  4 ≤ (s.bunchOf id).st || (s.ancestors 257 id).any (fun b => (s.bunchOf b).freezing.isSome)

/-- What a launch finds on a tile at dispatch (R69 step 4, R175, R189, R190). -/
def State.runOf (s : State) (t slot : Nat) (l : Launch) : Run :=
  let direct := s.tileBunch t
  let one := l.one.isSome
  let b := if one then direct else l.scope
  let x := s.bunchOf b
  let mrank := match x.localLeaves.find? (fun p => p.2 == t) with | some p => p.1 | none => 0
  { slot, launch := l, rank := if one then 0 else mrank, size := if one then 1 else x.map.length
    depth := if one then 0 else s.depthOf 257 b, epoch := x.epoch, bunch := b, gen := tget 0 s.stone.gens t, mrank
    start := s.pacer t, left := none, conf := s.confCtx l.ctx }

/-- Clear all kernel state, load the segment registers and start fetching (R69 steps 4 and 5, R190). -/
def State.enterKernel (s : State) (t slot : Nat) (l : Launch) (rest : List Launch) : State :=
  let x := s.tile t
  let r := s.runOf t slot l
  let c := s.ctx l.ctx
  let core : Core := {
    run := some r, pc := l.code, sigs := x.core.sigs, segs := c.segs, names := c.names, layer := l.layer, op := l.op
    g := (List.range 4).foldl (fun g i => tput g (i + 1) (l.args.getD i 0)) [] }
  let x := x.setSlot slot { x.slot slot with fifo := rest }
  let s := s.setTile t { x with core, held := none, movers := [], ops := [], memBytes := 0 }
  let s := s.bankSwap t (some l.ctx) l.layer l.op l.seq c.conf
  s.traceEmit t false 1 0 l.code

/-- Choose the next kernel of a tile without a running one and start it (R69 steps 3 to 5, R389). A tile that is not ON
waits for its wake (R415), one whose turn is overdue for its turn (R454). -/
def State.dispatchTile (s : State) (t : Nat) : State :=
  let x := s.tile t
  if x.role != 0 || x.refusing || x.core.run.isSome || s.stone.overdue.contains t || (s.dom t).st != 2 || s.tileStopped t then s
  else
    let p := s.pacer t
    let inSwap := fun i => match x.swap with | some w => w.victims.contains i | none => false
    let ready := (List.range 16).filter (fun i =>
      let sl := x.slot i
      sl.valid && !sl.fifo.isEmpty && !inSwap i)
    let best := ready.foldl (fun (a : Option Nat) i =>
      match a with
      | none => some i
      | some b => if deadlineKey p (x.slot i).deadline < deadlineKey p (x.slot b).deadline then some i else a) none
    let s := s.startSwap t (best.map (fun i => deadlineKey p (x.slot i).deadline))
    match best with
    | none => s
    | some i =>
      match (x.slot i).fifo with
      | [] => s
      | l :: rest => s.enterKernel t i l rest

/-- A FIFO of a tile has room for a launch of a context (R68, R390). -/
def State.fifoRoom (s : State) (t c : Nat) : Bool :=
  let x := s.tile t
  match x.slotOf c with
  | some i => (x.slot i).fifo.length < 8
  | none => match x.standby.find? (fun e => e.ctx == c) with
    | some e => e.fifo.length < 8
    | none => false

/-- A launch enters the FIFO of its context on a tile, wakes a tile that is not ON (R415), and an idle tile makes its
choice (R389, R390, R296). -/
def State.enqueueLaunch (s : State) (t : Nat) (l : Launch) : State :=
  let x := s.tile t
  let s := match x.slotOf l.ctx with
    | some i => s.setTile t (x.setSlot i { x.slot i with fifo := (x.slot i).fifo ++ [l] })
    | none => s.setTile t { x with
        standby := updFirst (fun e => e.ctx == l.ctx) (fun e => { e with fifo := e.fifo ++ [l] }) x.standby }
  (s.evalDom t).dispatchTile t

/-! ### FREEZE at a boundary (R343) -/

/-- The freezing roots that hold a bunch. -/
def State.freezingRoots (s : State) (id : BitVec 32) : List (BitVec 32) :=
  (s.ancestors 257 id).filter (fun b => (s.bunchOf b).freezing.isSome)

/-- A tile passes its boundary under FREEZE: it sends a marker to every member endpoint on every channel (R343
step 3). -/
def State.sendMarkers (s : State) (t : Nat) (root : BitVec 32) : State :=
  let x := s.bunchOf root
  match x.localLeaves.find? (fun p => p.2 == t) with
  | none => s
  | some (r, _) =>
    let s := s.updBunch root (fun x => { x with freezing := x.freezing.map (fun l => t :: l) })
    (List.range x.map.length).foldl (fun s dst =>
      (List.range 4).foldl (fun s ch =>
        (s.sendMsg root r dst x.epoch (tget 0 s.stone.gens t) clsFreeze ch 0 (x.freezeNo.setWidth 64) []).2) s) s

/-- Send a tile's markers for every freezing root it has not yet passed (R343). -/
def State.freezeBoundary (s : State) (t : Nat) : State :=
  (s.freezingRoots (s.tileBunch t)).foldl (fun s b =>
    match (s.bunchOf b).freezing with
    | some l => if l.contains t then s else s.sendMarkers t b
    | none => s) s

/-! ### The kernel boundary (R50, R69) -/

/-- Status and trap a finished kernel reports (R50, R196). Under SAFETY_FENCED the trap code is 0, also where a trap had stopped
the kernel first (DESIGN CHOICE, log 155). -/
def Core.endStatus (c : Core) : BitVec 16 × Nat :=
  match c.stop with
  | some st => (st.status, if st.safety then 0 else st.trap)
  | none =>
    if c.unacked || (List.range 16).any (fun k => (c.getTok k).st == 3 && !(c.getTok k).acked) then (1, 0) else (0, 0)

/-- The trap that stopped the kernel, 0 for none; a later safety stop does not undo it (R196). -/
def Core.trapTaken (c : Core) : Nat := match c.stop with | some st => st.trap | none => 0

/-- The kernel of a tile that ends without a trap has used more than its BUDGET (R394). -/
def State.overrun (s : State) (t : Nat) : Bool :=
  match (s.tile t).core.run with
  | some r => (s.tile t).core.trapTaken = 0 && (s.pacer t - r.start).toNat > r.launch.budget.toNat
  | none => false

/-- The scheduling counts of a tile after its kernel: OVER_BUDGET and WATCHDOGS (R394, R397). -/
def State.overCount (s : State) (t : Nat) : Nat :=
  if s.overrun t then satAdd 0xFFFF (s.tile t).overBudget 1 else (s.tile t).overBudget
def State.dogCount (s : State) (t : Nat) : Nat :=
  if (s.tile t).core.run.isSome && (s.tile t).core.trapTaken = 7 then satAdd 0xFFFF (s.tile t).watchdogs 1 else (s.tile t).watchdogs

/-- The kernel has ended under R50: stopped or at `sys.exit`, with no operation PENDING. -/
def State.kernelDone (s : State) (t : Nat) : Bool :=
  let x := s.tile t
  x.core.run.isSome && x.core.stall == .exit && x.ops.isEmpty

/-- A message belongs to the launch that a kernel ran, `ordinal` its launch ordinal (R219, R324). -/
def Run.owns (r : Run) (m : Msg) (ordinal : Nat) : Bool :=
  m.bunch == r.bunch && ordinal == r.launch.ordinal % 2 ^ 32 && (r.launch.one.isNone || m.src == r.mrank)

/-- Launch ordinal of a SEND, and of a BAR or COLL_SEQ (R366). -/
def sendOrdinal (m : Msg) : Nat := fld m.param.toNat 16 32
def barOrdinal (m : Msg) : Nat := fld m.param.toNat 0 32

/-- Steps 1 and 2 of R69: the kernel's flags, its scheduling counts (R394, R397), its report, and what its end clears
(R63, R67, R219). -/
def State.endKernel (s : State) (t : Nat) : State :=
  let x := s.tile t
  match x.core.run with
  | none => s
  | some r =>
    let (status, trap) := x.core.endStatus
    let overs := s.overCount t
    let dogs := s.dogCount t
    let s := (s.traceEmit t false 2 (status.toNat % 256) x.core.pc).traceFlush t
    let s := s.closeIntakes t
    let s := s.count t 13 (x.unmatched.filter (fun m => r.owns m (sendOrdinal m))).length
    let x := s.tile t
    let sl := x.slot r.slot
    let s := s.setTile t { (x.setSlot r.slot { sl with flags := sl.flags ||| x.core.flags }) with
      core := { sigs := x.core.sigs }
      held := none
      movers := []
      unmatched := x.unmatched.filter (fun m => !r.owns m (sendOrdinal m))
      contribs := x.contribs.filter (fun m =>
        if m.cls = clsCollData then m.bunch != r.bunch else !r.owns m (barOrdinal m))
      credits := []
      rounds := []
      retParts := []
      overBudget := overs, watchdogs := dogs }
    (s.charge t r.launch.q r.launch.seq).report t r.launch.q r.launch.seq r.rank status trap x.core.flags

/-- The kernel boundary of a tile (R69, R343, R389). -/
def State.boundary (s : State) (t : Nat) : State := ((s.endKernel t).freezeBoundary t).dispatchTile t

end Sys2Proof.Machine
end

