-- ==== Sys2Proof/Machine/Queues.lean ====
section
/-! DEFINITION. Submission, consumption, start and completion of host commands (R285 to R303). -/

namespace Sys2Proof.Machine

/-- A host access to a BAR before the host interface is ready completes with Unsupported Request (R505). While crossing 0
does not run it carries no access (R427, R430): the access is not taken until the crossing runs again. -/
def mmio (s : State) (k : State → State) : Ans :=
  if !s.hif.ready then .next (s.emit .ur)
  else if s.xingRuns 0 then .next (k s)
  else .refused (.notEnabled "MMIO")

/-! ### Submission -/

/-- Commands a write of `len` bytes counts as when it is dropped (R285, R286). -/
def dropCount (len : Nat) : Nat := max 1 ((len + 63) / 64)

/-- Report a dropped TLP of a queue (R287): DROPPED, the W1C bit, and one record if an unreserved slot is free. -/
def State.dropTlp (s : State) (q k : Nat) (overrun : Bool) : State :=
  let x := s.queue q
  let s := s.setQueue q { x with
    dropped := satAdd 0xFFFF x.dropped k
    overrun := x.overrun || overrun
    format := x.format || !overrun }
  if x.slotFree then
    s.writeRecord q x.seq (if overrun then 0x0D else 0x13) 0 0 (BitVec.ofNat 32 (k % 2 ^ 16)) 0 0 false
  else s

/-- Accept commands in order while the buffer has room (R286); the number dropped. -/
def Queue.accept (x : Queue) : List (List Byte) → Queue × Nat
  | [] => (x, 0)
  | b :: r =>
    if x.buf.length < x.depth then
      Queue.accept { x with buf := x.buf ++ [(x.seq, BitVec.ofNat 512 (ofBytes b))], seq := x.seq + 1 } r
    else
      let (y, n) := Queue.accept x r
      (y, n + 1)

/-- Cut a payload into 64-byte commands. -/
def commandsOf (data : List Byte) : List (List Byte) :=
  (List.range (data.length / 64)).map (fun i => (data.drop (64 * i)).take 64)

/-- A posted write to BAR2 (R285 to R287). -/
def State.submit (s : State) (off : Nat) (data : List Byte) (enabled : Bool) : State :=
  let q := off / 4096
  let x := s.queue q
  if x.st != 1 then
    { s with hif := { s.hif with apDrops := satAdd 0xFFFF s.hif.apDrops (dropCount data.length) } }
  else if off % 64 != 0 || data.length % 64 != 0 || !enabled then s.dropTlp q (dropCount data.length) false
  else
    let (y, n) := x.accept (commandsOf data)
    let s := s.setQueue q y
    if n = 0 then s else s.dropTlp q n true

def execBar2Submission (off : Nat) (data : List Byte) (allEnabled : Bool) (s : State) : Ans :=
  mmio s (fun s => (s.crossUp 0 data).submit off data allEnabled)

/-! ### Consumption -/

/-- Flags that a TYPE may set (R291). -/
def flagsOk (ty flags : Nat) : Bool :=
  flags < 16 && (!flags.testBit 1 || ty == 1) && (!flags.testBit 2 || ty == 6)

/-- Reserved TYPE, flags and fields of a command packet are clear (R290 step 1, R291, R293). -/
def formatOk (raw : BitVec 512) : Bool :=
  let ty := cmdFld raw 0 1
  ty ≤ 9 && flagsOk ty (cmdFld raw 1 1) && cmdFld raw 6 2 == 0 &&
    (match ty with
     | 1 => true
     | 2 | 3 | 4 => cmdFld raw 32 32 == 0
     | 5 | 6 => cmdFld raw 10 2 == 0 && cmdFld raw 16 48 == 0
     | 8 => cmdFld raw 12 52 == 0
     | _ => cmdFld raw 8 56 == 0)

/-- A status with its detail. -/
abbrev Fail := BitVec 16 × BitVec 32

/-- The fence of a command is usable by its context (R290 step 2, R313). -/
def State.fenceName (s : State) (c f : Nat) : Option Fail :=
  let x := s.fence f
  if !x.valid then some (2, BitVec.ofNat 32 f) else if !x.boundTo c then some (0x14, 0) else none

/-- Leaf tiles of this module that a LAUNCH's scope holds, with the rank each reports (R38, R294). -/
def State.scopeTiles (s : State) (raw : BitVec 512) : List (Nat × Nat) :=
  let b := s.bunchOf (BitVec.ofNat 32 (cmdFld raw 8 4))
  if cmdFld raw 15 1 = 0 then b.localLeaves
  else (b.localLeaves.filter (fun p => p.1 == cmdFld raw 12 3)).map (fun p => (0, p.2))

/-- LAUNCH's names and fields (R290 step 2, R294, R392). -/
def State.launchName (s : State) (c : Nat) (raw : BitVec 512) : Option Fail :=
  let id := BitVec.ofNat 32 (cmdFld raw 8 4)
  let b := s.bunchOf id
  let scope := cmdFld raw 15 1
  if id = 0 || !s.nestedIn id (s.ctx c).bunch || b.st == 0 || b.st == 1 || b.st == 6 || scope > 1
      || (scope == 0 && cmdFld raw 12 3 != 0) || (scope == 1 && b.map.length ≤ cmdFld raw 12 3)
      || cmdFld raw 28 4 == 0 then some (0x14, 0)
  else none

/-- Walk the PAGED segments of a context for a LAUNCH (R244): the frame array, none above 16,384 pages. -/
def State.recordFrames (s : State) (c : Nat) (pt : List (Nat × Word)) : Option (Table (List Nat)) :=
  let segs := (List.range 16).filter (fun i =>
    let d := tget 0 (s.ctx c).segs i
    segValid d && segTarget d == 4)
  let pages := fun i => (segSize (tget 0 (s.ctx c).segs i) + 0xFFFF) / 0x10000
  if (segs.map pages).foldl (· + ·) 0 > 16384 then none
  else some (segs.foldl (fun t i => tput t i (s.walkPages pt (tget 0 (s.ctx c).segs i) (pages i))) [])

/-- Key of a LAUNCH's scope among the ordinals of its bunch (R324). -/
def scopeKey (raw : BitVec 512) : Nat := if cmdFld raw 15 1 = 0 then 0 else cmdFld raw 12 3 + 1

/-- Every LAUNCH of a scope that is consumed counts (R324). -/
def State.countLaunch (s : State) (raw : BitVec 512) : State :=
  if cmdFld raw 0 1 = 1 then
    s.updBunch (BitVec.ofNat 32 (cmdFld raw 8 4)) (fun b => { b with
      ordinals := tput b.ordinals (scopeKey raw) (tget 0 b.ordinals (scopeKey raw) + 1) })
  else s

/-- Ask the host for the table entries that the translations of a command need (R239, R244). -/
def State.askCmd (s : State) (q : Nat) (raw : BitVec 512) (pt : List (Nat × Word)) : State :=
  let c := (s.queue q).ctx
  let len := cmdFld raw 24 8
  let a := fun (i : Nat) => BitVec.ofNat 64 (cmdFld raw i 8)
  match cmdFld raw 0 1 with
  | 1 => (List.range 16).foldl (fun s i =>
      let d := tget 0 (s.ctx c).segs i
      if segValid d && segTarget d == 4 then s.askTables pt d ((segSize d + 0xFFFF) / 0x10000) else s) s
  | 2 | 4 => (s.askPages c pt (a 8) len).askPages c pt (a 16) len
  | 3 => s.askPages c pt (a 8) len
  | _ => s

/-- Check one consumed command (R290, R239, R294, R295): a failure's status, or the command with its translations and
the state that its check leaves (LAUNCH: frames). -/
def State.checkCmd (s : State) (q : Nat) (seq : BitVec 32) (raw : BitVec 512) (pt : List (Nat × Word)) :
    Except Fail (QCmd × State) :=
  let c := (s.queue q).ctx
  let ty := cmdFld raw 0 1
  let base : QCmd := { seq, raw, epoch := (s.bunchOf (s.ctx c).bunch).epoch, bunch := (s.ctx c).bunch }
  if !formatOk raw then .error (0x13, 0x80000000)
  else
    match ty with
    | 1 =>
      match s.launchName c raw with
      | some f => .error f
      | none =>
        let id := BitVec.ofNat 32 (cmdFld raw 8 4)
        let tiles := (s.scopeTiles raw).map (·.2)
        match s.recordFrames c pt with
        | none => .error (0x0E, 0)
        | some fr =>
          if tiles.any (fun t => s.granulesOn t c == 0) then .error (0x0E, 0)
          else if !s.footprintOk c (cmdFld raw 24 4 * 4096) ((cmdFld raw 1 1).testBit 1) tiles then .error (0x0E, 0)
          else
            let ordinal := tget 0 (s.bunchOf id).ordinals (scopeKey raw)
            .ok ({ base with ordinal, epoch := (s.bunchOf id).epoch, bunch := id, frames := fr }, s.setCtx c { s.ctx c with frames := fr })
    | 2 | 3 | 4 =>
      let a1 := BitVec.ofNat 64 (cmdFld raw 8 8)
      let a2 := BitVec.ofNat 64 (cmdFld raw 16 8)
      let len := cmdFld raw 24 8
      let two := ty != 3
      match s.addrName c a1, (if two then s.addrName c a2 else none) with
      | some f, _ => .error f
      | none, some f => .error f
      | none, none =>
        if len > 2 ^ 32 then .error (0x14, 0)
        else if a1.toNat % 64 != 0 || (two && a2.toNat % 64 != 0) || len % 64 != 0 then .error (4, 0)
        else
          match s.translate c pt a1 len (if ty = 4 then 0 else 1) with
          | .bad st d => .error (st, d)
          | .ok l1 h1 =>
            if !two then .ok ({ base with loc1 := some l1, refs := h1.toList }, s)
            else match s.translate c pt a2 len 0 with
              | .bad st d => .error (st, d)
              | .ok l2 h2 =>
                if ty = 2 && overlap (s.spots l1 len) (s.spots l2 len) then .error (0x14, 0)
                else .ok ({ base with loc1 := some l1, loc2 := some l2, refs := (h1.toList ++ h2.toList).eraseDups }, s)
    | 5 =>
      match s.fenceName c (cmdFld raw 8 2) with
      | some f => .error f
      | none => .ok (base, s)
    | 6 =>
      match s.fenceName c (cmdFld raw 8 2) with
      | some f => .error f
      | none =>
        if BitVec.ofNat 32 (cmdFld raw 12 4) - (s.fence (cmdFld raw 8 2)).val = 0x80000000 then .error (0x0F, 0)
        else .ok (base, s)
    | _ => .ok (base, s)

/-- Take one reference on each object a command names (R290). -/
def State.takeRefs (s : State) (hs : List Nat) : State :=
  hs.foldl (fun s h => s.setObj h { s.obj h with refs := (s.obj h).refs + 1 }) s

/-- Step 1 of FREEZE stops consumption and holds every consumed command that has not started (R343). -/
def State.freezeHolds (s : State) (ctx : Nat) : Bool :=
  (s.ancestors 257 (s.ctx ctx).bunch).any (fun b => (s.bunchOf b).freezing.isSome || (s.bunchOf b).st == 4)

/-- The queue may consume its next command (R290, R296, R299, R301, R307, R343). -/
def State.mayConsume (s : State) (q : Nat) : Bool :=
  let x := s.queue q
  x.st == 1 && !x.buf.isEmpty && x.slotFree && !x.cmds.any (fun c => c.type == 9)
    && (s.ctx x.ctx).st == 0 && !s.freezeHolds x.ctx

/-- Consume the next command of a queue (R289, R290): the credit word, then the checks. A FENCE_SIGNAL covers what stands
before it, also where its own checks fail (R297), and a FENCE_WAIT whose checks fail stops later commands (R298). -/
def State.consume (s : State) (q : Nat) (pt : List (Nat × Word)) : State :=
  let x := s.queue q
  match x.buf with
  | [] => s
  | (seq, raw) :: rest =>
    let ty := cmdFld raw 0 1
    let s := (s.setQueue q { x with
      buf := rest, consumed := x.consumed + 1, lastSig := if ty = 5 then some seq else x.lastSig }).writeCredit q
    let r := s.checkCmd q seq raw pt
    let asked := fun (s : State) => ((if formatOk raw then s.askCmd q raw pt else s).countLaunch raw)
    match r with
    | .error (st, d) =>
      let s := asked s
      let y := s.queue q
      let s := s.setQueue q { y with
        fails := if failing st then y.fails ++ [(seq, st)] else y.fails
        stops := if ty = 6 && (cmdFld raw 1 1).testBit 2 then y.stops ++ [(seq, st)] else y.stops }
      s.writeRecord q seq st (BitVec.ofNat 16 (cmdFld raw 2 2)) (BitVec.ofNat 16 (cmdFld raw 4 2)) d 0 0
        ((cmdFld raw 1 1).testBit 3)
    | .ok (c, s) =>
      let s := (asked s).takeRefs c.refs
      s.setQueue q { s.queue q with cmds := (s.queue q).cmds ++ [{ c with prevSig := x.lastSig }] }

def execCommandConsume (q : Nat) (pt : List (Nat × Word)) (s : State) : Ans :=
  if s.mayConsume q then .next (s.consume q pt) else .refused (.notEnabled "COMMAND_CONSUME")

/-! ### Start -/

/-- The next command of a queue that has not started. -/
def Queue.nextStart (x : Queue) : Option QCmd := x.cmds.find? (fun c => !c.started)

/-- Commands that host movers hold (R277). -/
def State.hostMovers (s : State) : Nat :=
  (s.hif.queues.map (fun p => (p.2.cmds.filter (fun c =>
    c.started && (c.type == 2 || c.type == 3 || c.type == 4))).length)).foldl (· + ·) 0

/-- A graft, a borrowed turn or a freeze holds the launches of a unit unstarted (R326 step 1, R343, R456). -/
def State.launchHeld (s : State) (id : BitVec 32) (tiles : List Nat) : Bool :=
  tiles.any (fun t => (s.tile t).noLaunch) || s.comp.grafts.any (fun g => g.kind ≤ 1 && 1 ≤ g.step &&
    ((s.ancestors 257 g.bunch).contains id || (s.ancestors 257 g.gaining).contains id
      || (s.ancestors 257 (s.tileBunch g.inc)).contains id || s.nestedIn id g.bunch))

/-- What holds a command back, beyond its queue's order (R296, R326, R343). A LENGTH of zero needs no host mover (R295). -/
def State.startHeld (s : State) (c : QCmd) (ctx : Nat) : Bool :=
  s.freezeHolds ctx || (match c.type with
    | 1 =>
      let tiles := (s.scopeTiles c.raw).map (·.2)
      s.launchHeld (BitVec.ofNat 32 (cmdFld c.raw 8 4)) tiles || !tiles.all (fun t => s.fifoRoom t ctx)
    | 2 | 3 | 4 => s.hostMovers ≥ 32 && cmdFld c.raw 24 8 != 0
    | _ => false)

/-- The order of R296 lets a command start. -/
def Queue.mayStart (x : Queue) (c : QCmd) : Bool :=
  !(x.cmds.takeWhile (fun d => d.seq != c.seq)).any (fun d => d.type == 6)
    && (!(c.flags.testBit 0 || c.type == 7 || c.type == 5 || c.type == 9) || x.oldest c.seq)

/-- A LAUNCH's scope holds a lost leaf tile (R340). -/
def State.scopeLost (s : State) (raw : BitVec 512) : Bool :=
  let b := s.bunchOf (BitVec.ofNat 32 (cmdFld raw 8 4))
  if cmdFld raw 15 1 = 0 then !b.lost.isEmpty else b.lost.contains (cmdFld raw 12 3)

/-- An event at `k` lies before a command, and no FENCE_SIGNAL stands between the two (R297, R298). -/
def QCmd.sinceSig (c : QCmd) (k : BitVec 32) : Bool :=
  seqLater c.seq k && (match c.prevSig with | some p => !seqLater p k | none => true)

/-- Status of the failed STOP_ON_ERROR wait that ends a command, the first of them (R298). -/
def Queue.stopped (x : Queue) (c : QCmd) : Option (BitVec 16) := (x.stops.find? (fun p => c.sinceSig p.1)).map Prod.snd

/-- Start the next command of a queue, or end it without starting (R296, R298, R311, R317, R340); FREEZE holds it either way (R343). -/
def execCommandStart (q : Nat) (s : State) : Ans :=
  let x := s.queue q
  match x.nextStart with
  | none => .refused (.notEnabled "COMMAND_START")
  | some c =>
    if !x.mayStart c || x.st == 0 || s.freezeHolds x.ctx then .refused (.notEnabled "COMMAND_START")
    else if (x.stopped c).isSome && c.type != 5 then .next (s.finishCmd q c.seq 1 3 0)
    else match (if c.type = 5 then none else c.gone) with
    | some h => .next (if c.type = 6 then s.endWait q c h 2 else s.finishCmd q c.seq 2 (BitVec.ofNat 32 h) 0)
    | none =>
    match c.refs.find? (fun h => (s.obj h).st != 1) with
      | some h => .next (s.finishCmd q c.seq 2 (BitVec.ofNat 32 h) 0)
      | none =>
        if c.type == 1 && s.scopeLost c.raw then .next (s.finishCmd q c.seq 3 0 0)
        else if s.startHeld c x.ctx then .refused (.notEnabled "COMMAND_START")
        else .next (s.updCmd q c.seq (fun c => { c with started := true }))

/-- The command has acted on its start. -/
def QCmd.begun (c : QCmd) : Bool := c.taken || c.inWait

/-- The started command of a type that has not yet acted, when every command before it has (R296). -/
def State.startedCmd (s : State) (q : Nat) (seq : BitVec 32) (ty : Nat) : Option QCmd :=
  match (s.queue q).cmd seq with
  | some c =>
    if c.started && !c.begun && c.type == ty && ((s.queue q).cmds.takeWhile (fun d => d.seq != seq)).all QCmd.begun then some c
    else none
  | none => none

/-- Run the evaluation of a started command of a type. -/
def evalCmd (s : State) (q : Nat) (seq : BitVec 32) (ty : Nat) (name : String) (k : QCmd → State) : Ans :=
  match s.startedCmd q seq ty with
  | some c => .next (k c)
  | none => .refused (.notEnabled name)

def execNop (q : Nat) (seq : BitVec 32) (s : State) : Ans :=
  evalCmd s q seq 0 "NOP" (fun _ => s.finishCmd q seq 0 0 0)

/-- The launch that a LAUNCH command brings to a tile (R190, R293). -/
def State.launchOf (s : State) (q : Nat) (c : QCmd) : Launch :=
  let raw := c.raw
  { q, seq := c.seq, ctx := (s.queue q).ctx, scope := BitVec.ofNat 32 (cmdFld raw 8 4)
    one := if cmdFld raw 15 1 = 1 then some (cmdFld raw 12 3) else none
    code := BitVec.ofNat 64 (cmdFld raw 16 8), budget := BitVec.ofNat 32 (cmdFld raw 28 4)
    args := (List.range 4).map (fun i => BitVec.ofNat 64 (cmdFld raw (32 + 8 * i) 8))
    layer := c.layer, op := c.op, ordinal := c.ordinal, frames := c.frames }

/-- Enter the FIFO of every leaf tile of the scope on this module (R296). A scope without a leaf tile here completes
with OK (R192: every leaf tile here has reported). -/
def State.startLaunch (s : State) (q : Nat) (c : QCmd) : State :=
  let tiles := s.scopeTiles c.raw
  let s := s.updCmd q c.seq (fun c => { c with taken := true, waiting := tiles })
  if tiles.isEmpty then s.finishCmd q c.seq 0 0 0
  else
    let l := s.launchOf q c
    tiles.foldl (fun s p => s.enqueueLaunch p.2 l) s

/-- LAUNCH enters the FIFOs; while one of them is full, or the launch is held, it waits (R296, R326). It completes with MEMBER_LOST
without starting when a leaf of its scope has been lost by then (R340). -/
def execLaunch (q : Nat) (seq : BitVec 32) (s : State) : Ans :=
  match s.startedCmd q seq 1 with
  | some c =>
    if s.freezeHolds (s.queue q).ctx then .refused (.notEnabled "LAUNCH")
    else if s.scopeLost c.raw then .next (s.finishCmd q c.seq 3 0 0)
    else if s.startHeld c (s.queue q).ctx then .refused (.notEnabled "LAUNCH") else .next (s.startLaunch q c)
  | none => .refused (.notEnabled "LAUNCH")

/-- The ranges that a host mover's command reads, in the order of their host bytes, and the one that it writes. -/
def State.cmdSpots (s : State) (c : QCmd) (l : Option Loc) : List Spot :=
  match l with
  | some l => s.spots l (cmdFld c.raw 24 8)
  | none => []
def State.cmdReads (s : State) (c : QCmd) : List Spot :=
  if c.type = 2 then s.cmdSpots c c.loc2 else if c.type = 4 then s.cmdSpots c c.loc1 ++ s.cmdSpots c c.loc2 else []
def State.cmdWrites (s : State) (c : QCmd) : List Spot := if c.type = 4 then [] else s.cmdSpots c c.loc1

/-- A host mover takes a command; a LENGTH of zero completes with OK at once (R295, R296). Its requests wake sleeping tiles
(R258), and go out on the routes in force or wait while injection is paused (R267, R268). -/
def State.takeMover (s : State) (q : Nat) (c : QCmd) : State :=
  if cmdFld c.raw 24 8 = 0 then s.finishCmd q c.seq 0 0 0
  else
    let rd := s.cmdReads c
    let wr := s.cmdWrites c
    let held := s.injectHeld hostRouter (rd ++ wr)
    let s' := s.updCmd q c.seq (fun c => { c with
      taken := true, routesR := s.routesTo hostRouter rd, routesW := s.routesTo hostRouter wr, held
      cut := !held && s.meetsFailed hostRouter (rd ++ wr) })
    (if held then s' else s'.sendCut hostRouter (rd ++ wr)).wakeFor hostSelf (rd ++ wr)

def execCopy (q : Nat) (seq : BitVec 32) (s : State) : Ans := evalCmd s q seq 2 "COPY" (s.takeMover q)
def execFill (q : Nat) (seq : BitVec 32) (s : State) : Ans := evalCmd s q seq 3 "FILL" (s.takeMover q)
def execCompare (q : Nat) (seq : BitVec 32) (s : State) : Ans := evalCmd s q seq 4 "COMPARE" (s.takeMover q)

/-- FENCE_SIGNAL (R297, R298, R317): the commands since the FENCE_SIGNAL before it decide the fence's error flag. -/
def State.signalCmd (s : State) (q : Nat) (c : QCmd) : State :=
  let x := s.queue q
  let f := cmdFld c.raw 8 2
  let err := match x.stopped c, x.fails.filter (fun p => c.sinceSig p.1) with
    | some st, _ => some st
    | none, p :: r => some (r.foldl (fun a b => if seqLater a.1 b.1 then b else a) p).2
    | none, [] => none
  let s := s.setQueue q { x with
    fails := x.fails.filter (fun p => !seqLater c.seq p.1), stops := x.stops.filter (fun p => !seqLater c.seq p.1) }
  if c.gone.isSome || !(s.fence f).valid then s.finishCmd q c.seq 2 (BitVec.ofNat 32 f) 0
  else
    let (y, stale) := (s.fence f).signal (BitVec.ofNat 32 (cmdFld c.raw 12 4))
    let s := s.setFence f y
    let s := match err with
      | some st => s.flagFence f st
      | none => s
    let s := s.evalWaiters f
    if (x.stopped c).isSome then s.finishCmd q c.seq 1 3 0
    else s.finishCmd q c.seq 0 (if stale then 1 else 0) 0

def execFenceSignal (q : Nat) (seq : BitVec 32) (s : State) : Ans := evalCmd s q seq 5 "FENCE_SIGNAL" (s.signalCmd q)

/-- FENCE_WAIT (R298); one whose fence was destroyed meanwhile ends with OBJECT_GONE (R317). -/
def State.waitCmd (s : State) (q : Nat) (c : QCmd) : State :=
  let f := cmdFld c.raw 8 2
  match (if c.gone.isSome then some 2 else (s.fence f).look (BitVec.ofNat 32 (cmdFld c.raw 12 4))) with
  | some r => s.endWait q c f r
  | none => s.updCmd q c.seq (fun c => { c with inWait := true })

def execFenceWait (q : Nat) (seq : BitVec 32) (s : State) : Ans := evalCmd s q seq 6 "FENCE_WAIT" (s.waitCmd q)

def execBarrier (q : Nat) (seq : BitVec 32) (s : State) : Ans :=
  evalCmd s q seq 7 "BARRIER" (fun _ => s.finishCmd q seq 0 0 0)

/-- MARKER waits for every earlier command (R299). -/
def State.markerCmd (s : State) (q : Nat) (c : QCmd) : State :=
  if (s.queue q).oldest c.seq then s.finishCmd q c.seq 0 (BitVec.ofNat 32 (cmdFld c.raw 8 4)) 0
  else s.updCmd q c.seq (fun c => { c with inWait := true })

def execMarker (q : Nat) (seq : BitVec 32) (s : State) : Ans := evalCmd s q seq 8 "MARKER" (s.markerCmd q)

def execQuiesce (q : Nat) (seq : BitVec 32) (s : State) : Ans :=
  evalCmd s q seq 9 "QUIESCE" (fun _ =>
    let s := s.finishCmd q seq 0 0 0
    s.setQueue q { s.queue q with st := 3, byCmd := true })

/-! ### Host movers -/

/-- The segment of the operand whose host memory the host refused: the read one first (R303). -/
def State.hostSeg (s : State) (c : QCmd) : Nat :=
  let inHost := fun (l : Option Loc) => (s.cmdSpots c l).any (fun p => match p with | .host .. => true | _ => false)
  let a := if c.type = 2 && inHost c.loc2 || c.type = 4 && !inHost c.loc1 then 16 else 8
  s.addrSeg (BitVec.ofNat 64 (cmdFld c.raw a 8))

/-- Status and DETAIL of a host mover's command for an access that did not succeed. -/
def State.cmdStatus (s : State) (c : QCmd) (r : Res) : BitVec 16 × BitVec 32 :=
  if r = .hostRefused then (5, segDetail 4 (s.hostSeg c)) else resStatus r

/-- What a host mover writes. -/
def State.cmdBytes (s : State) (c : QCmd) (a : HostBytes) : List Byte :=
  match c.type with
  | 2 => s.readSpots (s.cmdReads c) a
  | 3 => fillBytes (cmdFld c.raw 16 8) (cmdFld c.raw 24 8)
  | _ => []

/-- A host mover's command met uncorrectable lines among `at'`: it completes with SAFETY_FENCED, and its other lines follow R274
(R57, R227). -/
def State.hostUe (s : State) (q : Nat) (c : QCmd) (at' : List Spot) (new : List Byte) : State :=
  let rd := s.cmdReads c
  let wr := s.cmdWrites c
  let bad := s.errLines at'
  let s := s.ueRead at' [(s.queue q).ctx]
  let s := if c.type = 2 then s.partialCopy rd wr new bad else s
  s.finishCmd q c.seq 8 0 0

/-- A COPY, FILL or COMPARE names a range of the module under an epoch of its bunch that is no longer served: its requests are
refused and it completes with STALE_EPOCH (R303, R334, R336; log 178). -/
def State.cmdStale (s : State) (c : QCmd) : Bool :=
  (s.findBunch c.bunch).isSome && ((s.bunchOf c.bunch).mapFor c.epoch).isNone &&
    (s.cmdReads c ++ s.cmdWrites c).any (fun p => match p with | .dev _ _ => true | _ => false)

/-- A host mover finishes a command (R272 to R274, R277, R295, R336). `a` holds the host bytes of SRC or FIRST, `b` those of
SECOND. -/
def State.hostMoved (s : State) (q : Nat) (c : QCmd) (res : Res) (a b : HostBytes) : State :=
  let rd := s.cmdReads c
  let wr := s.cmdWrites c
  if s.cmdStale c then s.finishCmd q c.seq 0x000B 0 0 else
  let eff := s.moveRes rd wr res
  let new := s.cmdBytes c a
  let diff := firstDiff (s.readSpots (s.cmdSpots c c.loc1) a) (s.readSpots (s.cmdSpots c c.loc2) b)
  let out' := s.cmdStatus c eff
  let s := (s.traffic rd 0 hostMaster).traffic wr 1 hostMaster
  match eff with
  | .ok | .corrected =>
    let s := s.countEcc rd eff
    if c.type = 4 then
      match diff with
      | some d => s.finishCmd q c.seq 6 (BitVec.ofNat 32 d) 0
      | none => s.finishCmd q c.seq 0 0 0
    else (s.writeSpots wr new).finishCmd q c.seq 0 0 0
  | .uncorrectable => s.hostUe q c rd new
  | _ =>
    let s := s.countRefused (rd ++ wr) eff
    let s := if c.type = 2 then s.partialCopy rd wr new s.badLines else s.partialWrite wr new
    s.finishCmd q c.seq out'.1 out'.2 0

/-- A COPY, FILL or COMPARE that a host mover holds. -/
def State.moverCmd (s : State) (q : Nat) (seq : BitVec 32) : Option QCmd :=
  match (s.queue q).cmd seq with
  | some c => if c.taken && (c.type == 2 || c.type == 3 || c.type == 4) then some c else none
  | none => none

/-- A host mover's command has ended its transfers: its tiles are awake, its ports gave it credits, and nothing holds it
(R247, R258, R267). -/
def execHostMoverComplete (q : Nat) (seq : BitVec 32) (res : Res) (a b : HostBytes) (s : State) : Ans :=
  match s.moverCmd q seq with
  | some c =>
    match lostRes c.lost res with
    | some r =>
      if c.held || s.unresolved c.cut (s.moveRes (s.cmdReads c) (s.cmdWrites c) r)
          || !s.accessOpen hostSelf hostMaster (s.cmdReads c ++ s.cmdWrites c) then
        .refused (.notEnabled "HOST_MOVER_COMPLETE")
      else .next (s.hostMoved q c r a b)
    | none => .refused (.notEnabled "HOST_MOVER_COMPLETE")
  | none => .refused (.notEnabled "HOST_MOVER_COMPLETE")

/-! ### Records and head words -/

/-- TIMER after the first unsignalled record (R302). -/
def execCoalesceTimerExpire (q : Nat) (s : State) : Ans :=
  let x := s.queue q
  if fld x.irq.toNat 0 2 = 2 && x.coalesced != 0 then
    .next ((s.setQueue q { x with coalesced := 0 }).msix (fld x.irq.toNat 32 11))
  else .refused (.notEnabled "COALESCE_TIMER_EXPIRE")

/-- Re-read the head word; a refused read keeps the value, one above the records written counts as that number
(R301). -/
def execCqHeadReread (q : Nat) (head : Option Word) (s : State) : Ans :=
  let x := s.queue q
  let asked := s.emit (.dmaRead (s.ctx x.ctx).pasid (fld x.headAddr.toNat 3 61 * 8) 8)
  match head with
  | none => .next asked
  | some h => .next (asked.setQueue q { x with head := min h.toNat x.written })

end Sys2Proof.Machine
end

