-- ==== Sys2Proof/Machine/Regs.lean ====
section
/-! DEFINITION. Host writes of the registers that have a behaviour of their own, outside the mailbox, and BAR4
(R10 to R12, R64, R73, R284, R319, R402, R459, R465, R503). -/

namespace Sys2Proof.Machine

/-! ### HOSTIF and queue registers -/

/-- Write BAR4_CTRL: OPEN and TILE (R319). -/
def State.writeBar4Ctrl (s : State) (acc : Acc) (v : Word) : State :=
  let w := (mergeHalf acc (BitVec.ofNat 64 (bit s.hif.bar4Open * 2 ^ 63 + s.hif.bar4Tile)) v).toNat
  { s with hif := { s.hif with bar4Open := w.testBit 63, bar4Tile := fld w 0 7 } }

def execBar4CtrlWrite (acc : Acc) (v : Word) (s : State) : Ans := mmio s (fun s => s.writeBar4Ctrl acc v)

/-- CONF_CLOSED: a granule of the tile that BAR4_CTRL names belongs to a confidential context (R284). -/
def State.confClosed (s : State) : Bool :=
  (List.range 16).any (fun i =>
    let x := (s.tile s.hif.bar4Tile).slot i
    x.valid && x.share != 0 && s.confCtx x.ctx)

/-- The BAR4 window is open (R284). -/
def State.windowOpen (s : State) : Bool :=
  s.hif.bar4Open && s.hasTile s.hif.bar4Tile && (s.tile s.hif.bar4Tile).role != 3 && !s.confClosed

/-- Owner of a granule of a tile (R67). -/
def State.granuleOwner (s : State) (t g : Nat) : Option Nat :=
  ((List.range 16).find? (fun i => ((s.tile t).slot i).valid && ((s.tile t).slot i).share.getLsbD g)).map
    (fun i => ((s.tile t).slot i).ctx)

/-- The share offset of a byte of a store in its granule's owner: the granules of the share are numbered upwards (R55). -/
def State.shareAt (s : State) (t off : Nat) : Option (Nat × Nat) :=
  (s.granuleOwner t (off / 0x200000)).map (fun c =>
    let own := (List.range (off / 0x200000)).filter (fun g => s.granuleOwner t g == some c)
    (c, own.length * 0x200000 + off % 0x200000))

/-- The bytes of a store that a request through BAR4 names. -/
def BarReq.spots (b : BarReq) : List Spot := (List.range b.len).map (fun i => .dev (tsAddr b.tile b.off + i) none)

/-- A store serves a request through BAR4 (R284). `res` is what it found when it read a written line. A refusing endpoint answers
REFUSED and changes no state (R270), and no packet reaches a tile behind a failed router (R269): the read returns zeros (log 184). -/
def State.serveBar (s : State) (b : BarReq) (res : Res) : State :=
  let a := tsAddr b.tile b.off
  let zeros := Out.readData (List.replicate b.len 0) false
  if s.addrCut a then (if b.write then s else s.emit zeros)
  else if s.addrRefused a then
    let s := s.countRefused b.spots .refused
    if b.write then s else s.emit zeros
  else if b.write then s.writeSpots b.spots (b.data.take b.len)
  else if s.moveRes b.spots [] res = .uncorrectable then
    (s.emit (.readData [] true)).ueRead b.spots (s.granuleOwner b.tile (b.off / 0x200000)).toList
  else if !s.lineWritten a then s.emit zeros
  else (s.countEcc b.spots (s.moveRes b.spots [] res)).emit (.readData (s.peekN a b.len) false)

/-- A request through BAR4 comes to a tile: one that sleeps wakes for it (R258, R415), and the request waits for that, for the end of
a migration of its share (R329) or of a self-test (R456). -/
def State.takeBar (s : State) (b : BarReq) (res : Res) : State :=
  let wait := { s with hif := { s.hif with barWait := s.hif.barWait ++ [b] } }
  if s.addrCut (tsAddr b.tile b.off) || s.addrRefused (tsAddr b.tile b.off) then s.serveBar b res
  else if (s.dom b.tile).st != 2 then
    (wait.setTile b.tile { s.tile b.tile with buffered := (s.tile b.tile).buffered + 1 }).evalDom b.tile
  else if (s.movesShares b.tile && b.own.isSome) || s.inBist b.tile then wait
  else s.serveBar b res

/-- The request is a held one of a tile. -/
def State.barsOf (s : State) (t : Nat) : List BarReq := s.hif.barWait.filter (fun b => b.tile == t)

/-- Without the held requests of a tile. -/
def State.dropBars (s : State) (t : Nat) : State :=
  { s with hif := { s.hif with barWait := s.hif.barWait.filter (fun b => b.tile != t) } }

/-- What a held request finds in its line is an open event (R57; log 198). -/
def State.barRes (s : State) (b : BarReq) : Res := if !b.write && s.meetsUe b.spots then .uncorrectable else .ok

/-- Give a tile the requests through BAR4 that its endpoint held. -/
def State.emptyBars (s : State) (t : Nat) : State := (s.barsOf t).foldl (fun s b => s.takeBar b (s.barRes b)) (s.dropBars t)

/-- The endpoint forwards the requests that it held to the tile that has the share now; one for a share that went to the reserve is
REFUSED, and one for a granule without an owner is served in its place (R329). -/
def State.forwardBars (s : State) (out : Nat) (heir : Nat → Option Nat) : State :=
  (s.barsOf out).foldl (fun s b =>
    match b.own with
    | none => s.takeBar b (s.barRes b)
    | some (c, o) =>
      let place := (heir c).bind (fun t => ((s.tile t).slotOf c).bind (fun i =>
        (shareOff ((s.tile t).slot i).share o).map (fun off => (t, off))))
      match place with
      | some (t, off) => let b := { b with tile := t, off }; s.takeBar b (s.barRes b)
      | none =>
        let s := s.countRefused b.spots .refused
        if b.write then s else s.emit (.readData (List.replicate b.len 0) false)) (s.dropBars out)

/-- A host access through BAR4 (R284): the window takes it, or answers zeros and discards what is written. -/
def State.bar4 (s : State) (write : Bool) (off len : Nat) (data : List Byte) (res : Res) : State :=
  let tile := s.hif.bar4Tile
  if s.windowOpen && 1 ≤ len && off % 64 + len ≤ 64 && off + len ≤ 0x20000000 then
    s.takeBar { tile, write, off, len, data, own := s.shareAt tile off } res
  else if write then s else s.emit (.readData (List.replicate len 0) false)

def execBar4Access (write : Bool) (off len : Nat) (data : List Byte) (res : Res) (s : State) : Ans :=
  mmio s (fun s => s.bar4 write off len data res)

/-- Write Q_STATUS: its W1C bits OVERRUN and FORMAT (R319). -/
def State.writeQStatus (s : State) (q : Nat) (acc : Acc) (v : Word) : State :=
  let b := halfBits acc v
  let x := s.queue q
  if q < 4096 then
    s.setQueue q { x with overrun := x.overrun && !b.getLsbD 17, format := x.format && !b.getLsbD 16 }
  else s

def execQStatusW1c (q : Nat) (acc : Acc) (v : Word) (s : State) : Ans := mmio s (fun s => s.writeQStatus q acc v)

/-- CLEAR, bit 63 of a half or whole write. -/
def clearBit (acc : Acc) (v : Word) : Bool := (halfBits acc v).getLsbD 63

/-- Write HI_ERR (R318, R319). -/
def State.writeHiErr (s : State) (acc : Acc) (v : Word) : State :=
  if clearBit acc v then { s with hif := { s.hif with apDrops := 0, fenceDisc := 0, mgmtDisc := 0 } } else s

def execHiErrClear (acc : Acc) (v : Word) (s : State) : Ans := mmio s (fun s => s.writeHiErr acc v)

/-- Write FQ_CFG: BASE and SIZE_LOG only while ENABLE is 0; setting ENABLE zeroes WRITTEN (R465). -/
def State.writeFqCfg (s : State) (acc : Acc) (v : Word) : State :=
  let old := s.hif.fqCfg
  let w := (mergeHalf acc old v).toNat
  let on := old.getLsbD 11
  let keep := if on then old.toNat else w
  let n := fld keep 12 52 * 4096 + bit (w.testBit 11) * 2048 + fld keep 0 5
  { s with hif := { s.hif with
      fqCfg := BitVec.ofNat 64 n
      fqWritten := if w.testBit 11 && !on then 0 else s.hif.fqWritten } }

def execFqCfgWrite (acc : Acc) (v : Word) (s : State) : Ans := mmio s (fun s => s.writeFqCfg acc v)

/-- Write FQ_HEAD (R459, R465). -/
def State.writeFqHead (s : State) (acc : Acc) (v : Word) : State :=
  { s with hif := { s.hif with fqHead := mergeHalf acc s.hif.fqHead v } }

def execFqHeadWrite (acc : Acc) (v : Word) (s : State) : Ans := mmio s (fun s => s.writeFqHead acc v)

/-- Write FQ_STATUS (R465). -/
def State.writeFqStatus (s : State) (acc : Acc) (v : Word) : State :=
  if clearBit acc v then { s with hif := { s.hif with fqOver := 0 } } else s

def execFqStatusClear (acc : Acc) (v : Word) (s : State) : Ans := mmio s (fun s => s.writeFqStatus acc v)

/-! ### TILE registers -/

/-- Write SLOT_FLAGS (R72, R73, R103): W1C while the slot is VALID. -/
def State.writeSlotFlags (s : State) (t i : Nat) (acc : Acc) (v : Word) : State :=
  let x := s.tile t
  let sl := x.slot i
  if s.hasTile t && i < 16 && sl.valid then
    s.setTile t (x.setSlot i { sl with flags := sl.flags &&& ~~~((halfBits acc v).setWidth 16) })
  else s

def execSlotFlagsW1c (t i : Nat) (acc : Acc) (v : Word) (s : State) : Ans :=
  mmio s (fun s => s.writeSlotFlags t i acc v)

/-- Write SLOT_DEADLINE (R64, R73). -/
def State.writeSlotDeadline (s : State) (t i : Nat) (acc : Acc) (v : Word) : State :=
  let x := s.tile t
  let sl := x.slot i
  if s.hasTile t && i < 16 && sl.valid then
    s.setTile t (x.setSlot i { sl with deadline := mergeHalf acc sl.deadline v })
  else s

def execSlotDeadlineWrite (t i : Nat) (acc : Acc) (v : Word) (s : State) : Ans :=
  mmio s (fun s => s.writeSlotDeadline t i acc v)

/-- Write STORE_ERR (R71). -/
def State.writeStoreErr (s : State) (t : Nat) (acc : Acc) (v : Word) : State :=
  if s.hasTile t && clearBit acc v then s.setTile t { s.tile t with ce := 0, ue := 0 } else s

def execStoreErrClear (i : Nat) (acc : Acc) (v : Word) (s : State) : Ans := mmio s (fun s => s.writeStoreErr i acc v)

/-- Write SCHED_STATUS (R397). -/
def State.writeSched (s : State) (t : Nat) (acc : Acc) (v : Word) : State :=
  if s.hasTile t && clearBit acc v then
    s.setTile t { s.tile t with swaps := 0, overBudget := 0, watchdogs := 0 }
  else s

def execSchedStatusClear (i : Nat) (acc : Acc) (v : Word) (s : State) : Ans := mmio s (fun s => s.writeSched i acc v)

/-! ### MEMPORT, BRAMBLE, RUNNER and XING registers -/

/-- Write MP_ERR (R252). -/
def State.writeMpErr (s : State) (m : Nat) (acc : Acc) (v : Word) : State :=
  if s.hasPort m && clearBit acc v then s.setPort m { s.port m with ce := 0, ue := 0 } else s

def execMpErrClear (i : Nat) (acc : Acc) (v : Word) (s : State) : Ans := mmio s (fun s => s.writeMpErr i acc v)

/-- Write LOSS (R278). -/
def State.writeLoss (s : State) (acc : Acc) (v : Word) : State :=
  if clearBit acc v then { s with bram := { s.bram with refused := 0, retried := 0, discarded := 0 } } else s

def execLossClear (acc : Acc) (v : Word) (s : State) : Ans := mmio s (fun s => s.writeLoss acc v)

/-- Write RN_ERR (R382). -/
def State.writeRnErr (s : State) (x : Nat) (acc : Acc) (v : Word) : State :=
  if s.hasRunner x && clearBit acc v then
    s.setRunner x { s.runner x with integrity := 0, duplicates := 0, protocol := 0 }
  else s

def execRnErrClear (i : Nat) (acc : Acc) (v : Word) (s : State) : Ans := mmio s (fun s => s.writeRnErr i acc v)

/-- The variant has crossing `i` (R423, R435). -/
def State.hasXing (s : State) (i : Nat) : Bool :=
  if i < 3 then true else if 16 ≤ i && i < 32 then s.hasPort (i - 16)
  else if 32 ≤ i && i < 36 then s.hasRunner (i - 32) else 64 ≤ i && s.hasTile (i - 64)

/-- Write XING_STATE (R434). -/
def State.writeXing (s : State) (i : Nat) (acc : Acc) (v : Word) : State :=
  if s.hasXing i && clearBit acc v then s.setXing i { s.xing i with resyncs := 0, dropped := 0 } else s

def execXingStateClear (i : Nat) (acc : Acc) (v : Word) (s : State) : Ans := mmio s (fun s => s.writeXing i acc v)

/-! ### POWER registers -/

/-- Write PWR_CAP: HOST_CAP, clamped unless 0 (R402, R421). -/
def State.writeHostCap (s : State) (acc : Acc) (v : Word) : State :=
  let w := fld (mergeHalf acc (BitVec.ofNat 64 s.pwr.hostCap) v).toNat 0 16
  { s with pwr := { s.pwr with hostCap := if w = 0 then 0 else s.clampCap w } }

def execHostCapWrite (acc : Acc) (v : Word) (s : State) : Ans := mmio s (fun s => s.writeHostCap acc v)

def execMgrVoteWrite (i : Nat) (acc : Acc) (v : Word) (s : State) : Ans := mmio s (fun s => s.writeDom i acc v)

def execPadRelease (i : Nat) (acc : Acc) (v : Word) (s : State) : Ans := mmio s (fun s => s.writeDom i acc v)

/-! ### OBSERVE registers -/

def execSmpCfgWrite (acc : Acc) (v : Word) (s : State) : Ans := mmio s (fun s => s.writeSmpCfg acc v)
def execSmpIntervalWrite (acc : Acc) (v : Word) (s : State) : Ans := mmio s (fun s => s.writeSmpInterval acc v)
def execSmpHeadWrite (acc : Acc) (v : Word) (s : State) : Ans := mmio s (fun s => s.writeSmpHead acc v)
def execSmpStatusClear (acc : Acc) (v : Word) (s : State) : Ans := mmio s (fun s => s.writeSmpStatus acc v)
def execGrpCtlWrite (i : Nat) (acc : Acc) (v : Word) (s : State) : Ans := mmio s (fun s => s.writeGrpCtl i acc v)
def execGrpCtlClear (i : Nat) (acc : Acc) (v : Word) (s : State) : Ans := mmio s (fun s => s.writeGrpCtl i acc v)
def execTraceCtlWrite (i : Nat) (acc : Acc) (v : Word) (s : State) : Ans := mmio s (fun s => s.writeTraceCtl i acc v)

end Sys2Proof.Machine
end

