-- ==== Sys2Proof/Machine/Contexts.lean ====
section
/-! DEFINITION. Ending a context's work (R307, R309, R443), and the sharing of a tile's store (R60, R306, R385). -/

namespace Sys2Proof.Machine

/-! ### Ending launches and commands -/

/-- Launches waiting on a tile that satisfy `p`. -/
def Tile.waitingLaunches (x : Tile) (p : Launch → Bool) : List Launch :=
  ((List.range 16).flatMap (fun i => (x.slot i).fifo) ++ x.standby.flatMap (fun e => e.fifo)).filter p

/-- Remove launches that satisfy `p` from a tile's FIFOs. -/
def Tile.withoutLaunches (x : Tile) (p : Launch → Bool) : Tile :=
  { x with
    slots := x.slots.map (fun q => (q.1, { q.2 with fifo := q.2.fifo.filter (fun l => !p l) }))
    standby := x.standby.map (fun e => { e with fifo := e.fifo.filter (fun l => !p l) }) }

/-- Remove the waiting launches that satisfy `p` from one tile and end each there with a status (R307, R452). -/
def State.dropOn (s : State) (t : Nat) (p : Launch → Bool) (status : BitVec 16) : State :=
  let ls := (s.tile t).waitingLaunches p
  let s := s.setTile t ((s.tile t).withoutLaunches p)
  ls.foldl (fun s l => s.dropLaunch t l status) s

/-- Remove the waiting launches that satisfy `p` from every tile. -/
def State.dropWaiting (s : State) (p : Launch → Bool) (status : BitVec 16) : State :=
  s.tiles.foldl (fun s e => s.dropOn e.1 p status) s

/-- Take the kernel boundary of a tile whose kernel has ended (R50, R69). -/
def State.endIfDone (s : State) (t : Nat) : State := if s.kernelDone t then s.boundary t else s

/-- Stop the running kernel of a tile when its launch satisfies `p`, and abort its operations (R195, R307). -/
def State.stopOn (s : State) (t : Nat) (p : Launch → Bool) (safety : Bool) : State :=
  match (s.tile t).core.run with
  | some r =>
    if p r.launch then
      (if safety then s.safetyStop t else s.stopFor t { status := 1 } (some 0xE0)).endIfDone t
    else s
  | none => s

/-- Stop the running kernels whose launches satisfy `p`. -/
def State.stopRunning (s : State) (p : Launch → Bool) (safety : Bool) : State :=
  s.tiles.foldl (fun s e => s.stopOn e.1 p safety) s

/-- A host mover stops: R274 leaves open which lines of its destination are written (log 16). -/
def State.stopMover (s : State) (c : QCmd) : State :=
  if !c.taken || c.type = 1 then s
  else if c.type = 2 then s.partialCopy (s.cmdReads c) (s.cmdWrites c) (s.cmdBytes c []) s.badLines
  else s.partialWrite (s.cmdWrites c) (s.cmdBytes c [])

/-- End a consumed command that is no running launch: a host mover stops under R274. -/
def State.abortCmd (s : State) (q : Nat) (seq : BitVec 32) (status : BitVec 16) (detail : BitVec 32) : State :=
  match (s.queue q).cmd seq with
  | none => s
  | some c => (s.stopMover c).finishCmd q seq status detail 0

/-- Queues of a context, by number. -/
def State.queuesOf (s : State) (c : Nat) : List Nat :=
  (s.hif.queues.filter (fun p => p.2.st != 0 && p.2.ctx == c)).map (·.1)

/-- Apply an update to every queue of a context. -/
def State.updQueues (s : State) (c : Nat) (f : Queue → Queue) : State :=
  { s with hif := { s.hif with queues := s.hif.queues.map (fun p =>
      if p.2.st != 0 && p.2.ctx == c then (p.1, f p.2) else p) } }

/-- CTX_QUIESCE's first effect: the queues of an ACTIVE context stop consuming and keep their state for CTX_RESUME
(R307). -/
def State.stopQueues (s : State) (c : Nat) : State :=
  if (s.ctx c).st = 0 then
    s.updQueues c (fun x => { x with prior := x.st, st := if x.st = 1 then 2 else x.st })
  else s

/-- The context and its QUIESCING queues become QUIESCED. -/
def State.setQuiesced (s : State) (c : Nat) : State :=
  let s := s.updQueues c (fun x => { x with st := if x.st = 2 then 3 else x.st })
  s.setCtx c { s.ctx c with st := 2 }

/-- Quiesce a context as ABORT (R307); under a safety reaction the commands end with SAFETY_FENCED (R443). -/
def State.abortCtx (s : State) (c : Nat) (safety : Bool) : State :=
  let status : BitVec 16 := if safety then 8 else 1
  let s := s.stopQueues c
  let s := s.dropWaiting (fun l => l.ctx == c) status
  let s := s.stopRunning (fun l => l.ctx == c) safety
  let s := (s.queuesOf c).foldl (fun s q =>
    (s.queue q).cmds.foldl (fun s x =>
      if x.type = 1 && x.taken then s else s.abortCmd q x.seq status (if safety then 0 else 1)) s) s
  let s := s.setQuiesced c
  if safety then s.setCtx c { s.ctx c with fenced := true } else s

/-! ### Shares of a tile's store -/

/-- A slot whose context leaves it is no victim of a swap in progress; `bm` of its granules are the swap's now (R387). -/
def Tile.unvictim (x : Tile) (i : Nat) (bm : BitVec 256) : Tile :=
  { x with swap := x.swap.map (fun w => if w.victims.contains i then
      { w with victims := w.victims.filter (· != i), bm := w.bm ||| bm } else w) }

/-- Release what a context holds on a tile (R60): its granules clear before they are free. -/
def State.releaseShare (s : State) (t c : Nat) : State :=
  let x := s.tile t
  let s := match x.slotOf c with
    | some i => s.setTile t { ((x.setSlot i {}).unvictim i 0) with clearing := x.clearing ++ [((x.slot i).share, none)] }
    | none => s
  let x := s.tile t
  s.setTile t { x with standby := x.standby.filter (fun e => e.ctx != c) }

/-- Release a share whose clear is part of the operation (R308). -/
def State.dropShare (s : State) (t c : Nat) : State :=
  let bm := s.shareOn t c
  let s := s.clearGranules t bm
  let s := match (s.tile t).slotOf c with
    | some i => s.setTile t ((s.tile t).unvictim i bm)
    | none => s
  let s := s.releaseShare t c
  let x := s.tile t
  let swap := match x.swap with
    | some w => if w.ctx = some c then none else some w
    | none => none
  s.setTile t { x with clearing := x.clearing.filter (fun e => e.1 != bm || e.2.isSome), swap }

/-- The bit map of the lowest `n` granules free on a tile when the granules of `old` count as free. -/
def Tile.lowestFree (x : Tile) (old : BitVec 256) (n : Nat) : Option (BitVec 256) :=
  (lowestBits (fun g => old.getLsbD g || x.freeGranule g) 256 n).map (BitVec.ofNat 256)

/-- How a share of `n` granules can be placed on a tile (R385). -/
inductive Placing where
  | resident (slot : Nat) (bm : BitVec 256)
  | standby
  | swapOut (slot : Nat) (victims : List Nat)
  | wait
  | none
  deriving DecidableEq, Repr

/-- Steps 1 to 4 of R385 for context `c`, whose share on the tile, if any, has been taken away. While a swap runs on
the tile the operation waits for its end, since the swap has reserved a slot and granules (R387, R388). -/
def State.placing (s : State) (t c n : Nat) (old : BitVec 256) : Placing :=
  let x := s.tile t
  if x.swap.isSome then .wait
  else match x.freeSlot, x.lowestFree old n with
  | some i, some bm => .resident i bm
  | _, _ =>
    if !(s.ctx c).pinned && (s.ctx c).backing.isSome && x.standby.length < 48 then .standby
    else if (s.ctx c).pinned then
      match s.chooseVictims t n 0 with
      | some v => .swapOut (x.freeSlot.getD (v.headD 0)) v
      | none => .none
    else .none

/-- Assign granules to a slot for a context: the clear of R60 runs first, so the slot names no granule yet (R61). -/
def State.assignShare (s : State) (t c slot : Nat) (bm : BitVec 256) : State :=
  let x := s.tile t
  s.setTile t { (x.setSlot slot { valid := true, ctx := c }) with clearing := x.clearing ++ [(bm, some slot)] }

/-- Add an EMPTY standby entry (R385 step 2). -/
def State.addStandby (s : State) (t c n : Nat) : State :=
  let x := s.tile t
  let e : Standby := { ctx := c, rank := s.ctxRank c t, granules := n, deadline := BitVec.allOnes 64, empty := true,
                       fifo := [], flags := 0, lines := [] }
  s.setTile t { x with standby := x.standby ++ [e] }

end Sys2Proof.Machine
end

