-- ==== Sys2Proof/Machine/Rilax.lean ====
section
/-! DEFINITION. Rilax instructions: words (R198 to R201), the checks at issue (R202, R203), and the classes that the
control core executes (R204 to R209, R222 to R225, R47, R50, R63, R64, R175, R178). -/

namespace Sys2Proof.Machine

/-! ### Words (R198, R199) -/

def wClass (w : Word) : Nat := fld w.toNat 60 4
def wOp (w : Word) : Nat := fld w.toNat 56 4
def wGP (w : Word) : Nat := fld w.toNat 53 3
def wGN (w : Word) : Bool := w.getLsbD 52
def wRA (w : Word) : Nat := fld w.toNat 47 5
def wRB (w : Word) : Nat := fld w.toNat 42 5
def wRC (w : Word) : Nat := fld w.toNat 37 5
def wImm (w : Word) : Nat := fld w.toNat 0 37

/-- sext(IMM) as a 64-bit value. -/
def wSext (w : Word) : Word := BitVec.ofInt 64 (sextNat (wImm w) 37)

/-- Bit `i` and field of an immediate or extension word. -/
def xFld (x : Word) (lo n : Nat) : Nat := fld x.toNat lo n

/-- KD of an extension word. -/
def xKD (x : Word) : Nat := fld x.toNat 56 4

/-- The class and operation that no table of the reference defines (R201 and each class's table). -/
def reservedOp (w : Word) : Bool :=
  match wClass w with
  | 0x0 => false
  | 0x1 => 3 ≤ wOp w
  | 0x2 => wOp w == 15
  | 0x3 => 6 ≤ wOp w
  | 0x4 => 3 ≤ wOp w
  | 0x5 => 10 ≤ wOp w
  | 0x6 => 1 ≤ wOp w
  | 0x7 => wOp w == 3 || 10 ≤ wOp w
  | 0x8 => 8 ≤ wOp w
  | 0x9 => 5 ≤ wOp w
  | 0xA => 3 ≤ wOp w
  | 0xB => 1 ≤ wOp w
  | 0xF => 3 ≤ wOp w
  | _ => true

/-- The guard reads one (R172). -/
def Core.guard (c : Core) (w : Word) : Bool := c.getP (wGP w) != wGN w

/-! ### One-word instructions -/

/-- What an instruction that passes its checks does: it retires, with or without an INSTR trace packet; it branches;
it holds the core; it traps; or its access stops the kernel with a status (R196 item 4, R57). -/
inductive Eff where
  | retire (s : State)
  | marked (s : State)
  | jump (s : State) (pc : Word)
  | hold (s : State)
  | trap (code : Nat) (hi : BitVec 16)
  | halt (s : State)

/-- Carry out an effect at an instruction of `n` bytes. -/
def State.apply (s : State) (t n : Nat) : Eff → State
  | .retire s => s.retire t n
  | .marked s => s.retireTo t false ((s.tile t).core.pc + BitVec.ofNat 64 n)
  | .jump s pc => (s.traceEmit t false 3 0 pc).retireTo t false pc
  | .hold s => s
  | .halt s => s
  | .trap code hi => s.trap t code (s.tile t).core.pc hi

/-- The control core of a tile can take its next instruction. -/
def State.coreReady (s : State) (t : Nat) : Bool :=
  let c := (s.tile t).core
  c.run.isSome && c.stall == .none && c.stop.isNone && !c.halted && s.hasTile t

/-- The trap a fetch of `n` bytes at the program counter raises (R179, R190, R200, R206). -/
def State.fetchTrap (s : State) (t n : Nat) : Option Nat :=
  let pc := (s.tile t).core.pc
  if pc.toNat % 8 != 0 then some 3
  else if s.vaOk t pc 8 2 coreTargets && (n = 8 || s.vaOk t (pc + 8) 8 2 coreTargets) then none
  else some 4

/-- Checks 1 and 2 of R202 and then the instruction itself: `dec` says the fields decode. -/
def State.issueBase (s : State) (t : Nat) (w : Word) (dec : Bool) (k : State → Eff) : State :=
  if !dec then s.apply t 8 (.trap 1 0)
  else if (s.tile t).core.guard w then s.apply t 8 (k s)
  else s.apply t 8 (.retire s)

/-- A one-word row: the word at the program counter is the row's, or no row's (then it raises ILLEGAL_OP, R199). -/
def rilax (name : String) (cls op : Nat) (t : Nat) (w : Word) (dec : Bool) (k : State → Eff) (s : State) : Ans :=
  if !s.coreReady t then .refused (.notEnabled name)
  else if wClass w = cls && wOp w = op then
    .next (match s.fetchTrap t 8 with
      | some c => s.apply t 8 (.trap c 0)
      | none => s.issueBase t w dec k)
  else if reservedOp w then
    .next (match s.fetchTrap t 8 with
      | some c => s.apply t 8 (.trap c 0)
      | none => s.apply t 8 (.trap 1 0))
  else .refused (.otherWord name)

/-- General register of a tile's core. -/
def State.g (s : State) (t i : Nat) : Word := (s.tile t).core.getG i

/-- Write a general register of a tile's core (R170). -/
def State.setG (s : State) (t i : Nat) (v : Word) : State := s.setCore t ((s.tile t).core.setG i v)

/-! ### Scalar ALU (R204, R205) -/

/-- I, bit 36 of IMM. -/
def wI (w : Word) : Bool := w.getLsbD 36

/-- Decode of operations 0x0 to 0xB. -/
def aluDec (w : Word) : Bool := if wI w then wRC w == 0 else fld (wImm w) 0 36 == 0

/-- Second source of operations 0x0 to 0xB. -/
def State.aluC (s : State) (t : Nat) (w : Word) : Word :=
  if wI w then BitVec.ofInt 64 (sextNat (wImm w) 36) else s.g t (wRC w)

/-- A scalar operation `f` on its two sources. -/
def aluRow (name : String) (op : Nat) (f : Word → Word → Word) (t : Nat) (w : Word) (s : State) : Ans :=
  rilax name 0 op t w (aluDec w) (fun s => .retire (s.setG t (wRA w) (f (s.g t (wRB w)) (s.aluC t w)))) s

/-- The shift amount c AND 63. -/
def shamt (c : Word) : Nat := c.toNat % 64

/-- High 64 bits of the unsigned product. -/
def mulHigh (b c : Word) : Word := BitVec.ofNat 64 (b.toNat * c.toNat / 2 ^ 64)

/-- Unsigned division; a zero divisor gives all ones. -/
def divU (b c : Word) : Word := if c = 0 then BitVec.allOnes 64 else b / c

/-- Unsigned remainder; a zero divisor gives b. -/
def remU (b c : Word) : Word := if c = 0 then b else b % c

def execAdd (t : Nat) (w : Word) (s : State) : Ans := aluRow "ADD" 0x0 (· + ·) t w s
def execSub (t : Nat) (w : Word) (s : State) : Ans := aluRow "SUB" 0x1 (· - ·) t w s
def execAnd (t : Nat) (w : Word) (s : State) : Ans := aluRow "AND" 0x2 (· &&& ·) t w s
def execOr (t : Nat) (w : Word) (s : State) : Ans := aluRow "OR" 0x3 (· ||| ·) t w s
def execXor (t : Nat) (w : Word) (s : State) : Ans := aluRow "XOR" 0x4 (· ^^^ ·) t w s
def execShl (t : Nat) (w : Word) (s : State) : Ans := aluRow "SHL" 0x5 (fun b c => b <<< shamt c) t w s
def execShr (t : Nat) (w : Word) (s : State) : Ans := aluRow "SHR" 0x6 (fun b c => b >>> shamt c) t w s
def execSra (t : Nat) (w : Word) (s : State) : Ans := aluRow "SRA" 0x7 (fun b c => b.sshiftRight (shamt c)) t w s
def execMul (t : Nat) (w : Word) (s : State) : Ans := aluRow "MUL" 0x8 (· * ·) t w s
def execMulhu (t : Nat) (w : Word) (s : State) : Ans := aluRow "MULHU" 0x9 mulHigh t w s
def execDivu (t : Nat) (w : Word) (s : State) : Ans := aluRow "DIVU" 0xA divU t w s
def execRemu (t : Nat) (w : Word) (s : State) : Ans := aluRow "REMU" 0xB remU t w s

/-- COND of `cmp` (R205). -/
def condOf (cond : Nat) (b c : Word) : Bool :=
  match cond with
  | 0 => b == c
  | 1 => b != c
  | 2 => b.slt c
  | 3 => !b.slt c
  | 4 => b.ult c
  | _ => !b.ult c

def execCmp (t : Nat) (w : Word) (s : State) : Ans :=
  let cond := fld (wImm w) 33 3
  let dec := wRA w ≤ 7 && cond ≤ 5 && (if wI w then wRC w == 0 else fld (wImm w) 0 33 == 0)
  rilax "CMP" 0 0xC t w dec (fun s =>
    let c := if wI w then BitVec.ofInt 64 (sextNat (wImm w) 33) else s.g t (wRC w)
    .retire (s.setCore t ((s.tile t).core.setP (wRA w) (condOf cond (s.g t (wRB w)) c)))) s

def execLi (t : Nat) (w : Word) (s : State) : Ans :=
  rilax "LI" 0 0xD t w (wRB w == 0 && wRC w == 0) (fun s => .retire (s.setG t (wRA w) (wSext w))) s

def execPset (t : Nat) (w : Word) (s : State) : Ans :=
  let dec := wRA w ≤ 7 && wRB w ≤ 7 && wRC w ≤ 7 && fld (wImm w) 4 33 == 0
  rilax "PSET" 0 0xE t w dec (fun s =>
    let c := (s.tile t).core
    let i := 2 * bit (c.getP (wRB w)) + bit (c.getP (wRC w))
    .retire (s.setCore t (c.setP (wRA w) ((wImm w).testBit i)))) s

def execLih (t : Nat) (w : Word) (s : State) : Ans :=
  let dec := wRB w == 0 && wRC w == 0 && fld (wImm w) 27 10 == 0
  rilax "LIH" 0 0xF t w dec (fun s =>
    .retire (s.setG t (wRA w) (BitVec.ofNat 64 (fld (s.g t (wRA w)).toNat 0 37 + wImm w * 2 ^ 37)))) s

/-! ### Branch (R206) -/

/-- Target of `br` and `call`: pc + 8 × sext(IMM). -/
def State.branchTo (s : State) (t : Nat) (w : Word) : Word := (s.tile t).core.pc + 8 * wSext w

def execBr (t : Nat) (w : Word) (s : State) : Ans :=
  rilax "BR" 1 0 t w (wRA w == 0 && wRB w == 0 && wRC w == 0) (fun s => .jump s (s.branchTo t w)) s

def execCall (t : Nat) (w : Word) (s : State) : Ans :=
  rilax "CALL" 1 1 t w (wRB w == 0 && wRC w == 0) (fun s =>
    .jump (s.setG t (wRA w) ((s.tile t).core.pc + 8)) (s.branchTo t w)) s

def execJr (t : Nat) (w : Word) (s : State) : Ans :=
  rilax "JR" 1 2 t w (wRA w == 0 && wRC w == 0 && wImm w == 0) (fun s =>
    let v := s.g t (wRB w)
    if v.toNat % 8 != 0 then .trap 3 0 else .jump s v) s

/-! ### Load and store (R207, R174, R180, R184) -/

/-- Virtual address of a load or store. -/
def State.lsVa (s : State) (t : Nat) (w : Word) : Word := s.g t (wRB w) + wSext w

/-- An uncorrectable read stops the kernel with SAFETY_FENCED and is reported (R57, R70, R227). -/
def State.readUe (s : State) (t : Nat) (l : List Spot) : State := (s.safetyStop t).ueRead l (s.runCtx t).toList

/-- Stop the kernel for an access of its control core that could not complete (R57, R196, R227, R230, R268, R270);
the status after a host refusal of a page's host memory is not stated (log 20). -/
def State.accessStop (s : State) (t : Nat) (l : List Spot) (res : Res) : State :=
  match res with
  | .portFailed => s.stopFor t { status := 0x11 } none
  | .refused => (s.countRefused l res).stopFor t { status := 3 } none
  | .lost => s.stopFor t { status := 7 } none
  | .hostRefused =>
    let (v, s) := (s.askHost l).draw 16
    s.stopFor t { status := v } none
  | .uncorrectable => s.readUe t l
  | _ => s

/-- An access of a control core cannot go out: injection is paused, or messages of its tile on VC-Q are on their way to its target
(R261, R267). -/
def State.coreQueued (s : State) (t : Nat) (l : List Spot) : Bool := s.injectHeld (tileRouter t) l || !(s.ahead t 2 l).isEmpty

/-- An access of a control core cannot be sent, or not come to its end: injection is paused, a tile sleeps, or a port gives no
credits (R247, R258, R267). -/
def State.coreWaits (s : State) (t : Nat) (l : List Spot) : Bool :=
  s.injectHeld (tileRouter t) l || !s.accessOpen t t l

/-- A load of `n` bytes passes its checks and stalls the core until its data returns (R207). -/
def loadEff (t : Nat) (td : Bool) (n : Nat) (signed : Bool) (w : Word) (s : State) : Eff :=
  let va := s.lsVa t w
  if va.toNat % n != 0 then .trap 3 0
  else if !s.vaOk t va n 0 coreTargets then .trap 4 0
  else
    let l := s.vaSpots t va n
    if s.coreQueued t l then .hold s
    else
      let c := (s.tile t).core
      .hold (((s.setCore t { c with stall := .load td (wRA w) n signed va, loadRoutes := s.routesTo (tileRouter t) l
                                    loadLost := 0, loadCut := s.meetsFailed (tileRouter t) l }).sendCut (tileRouter t) l).wakeFor t l)

/-- A store of bytes passes its checks and writes them, or stops the kernel. While injection is paused it waits, and one whose packets
a failed router cuts waits until its source resolves it (R267, R268). -/
def storeEff (t n : Nat) (w : Word) (bytes : State → List Byte) (s : State) : Eff :=
  let va := s.lsVa t w
  if va.toNat % n != 0 then .trap 3 0
  else if !s.vaOk t va n 1 coreTargets then .trap 4 0
  else
    let l := s.vaSpots t va n
    if s.coreQueued t l then .hold s
    else if s.meetsFailed (tileRouter t) l then
      .hold ((s.setCore t { (s.tile t).core with stall := .lost }).sendCut (tileRouter t) l)
    else match s.moveRes [] l .ok with
    | .ok | .corrected =>
      if s.coreWaits t l then .hold (s.wakeFor t l) else .retire ((s.traffic l 1 t).writeSpots l (bytes s))
    | r => .halt (s.accessStop t l r)

def loadRow (name : String) (op n : Nat) (signed : Bool) (t : Nat) (w : Word) (s : State) : Ans :=
  rilax name 2 op t w (wRC w == 0) (loadEff t false n signed w) s

def storeRow (name : String) (op n : Nat) (t : Nat) (w : Word) (s : State) : Ans :=
  rilax name 2 op t w (wRC w == 0) (storeEff t n w (fun s => toBytes n (s.g t (wRA w)).toNat)) s

def execLdU8 (t : Nat) (w : Word) (s : State) : Ans := loadRow "LD_U8" 0x0 1 false t w s
def execLdU16 (t : Nat) (w : Word) (s : State) : Ans := loadRow "LD_U16" 0x1 2 false t w s
def execLdU32 (t : Nat) (w : Word) (s : State) : Ans := loadRow "LD_U32" 0x2 4 false t w s
def execLd64 (t : Nat) (w : Word) (s : State) : Ans := loadRow "LD_64" 0x3 8 false t w s
def execLdS8 (t : Nat) (w : Word) (s : State) : Ans := loadRow "LD_S8" 0x4 1 true t w s
def execLdS16 (t : Nat) (w : Word) (s : State) : Ans := loadRow "LD_S16" 0x5 2 true t w s
def execLdS32 (t : Nat) (w : Word) (s : State) : Ans := loadRow "LD_S32" 0x6 4 true t w s
def execSt8 (t : Nat) (w : Word) (s : State) : Ans := storeRow "ST_8" 0x7 1 t w s
def execSt16 (t : Nat) (w : Word) (s : State) : Ans := storeRow "ST_16" 0x8 2 t w s
def execSt32 (t : Nat) (w : Word) (s : State) : Ans := storeRow "ST_32" 0x9 4 t w s
def execSt64 (t : Nat) (w : Word) (s : State) : Ans := storeRow "ST_64" 0xA 8 t w s

def execLdTd (t : Nat) (w : Word) (s : State) : Ans :=
  rilax "LD_TD" 2 0xB t w (wRC w == 0 && wRA w ≤ 15) (loadEff t true 32 false w) s

def execStTd (t : Nat) (w : Word) (s : State) : Ans :=
  rilax "ST_TD" 2 0xC t w (wRC w == 0 && wRA w ≤ 15)
    (storeEff t 32 w (fun s => toBytes 32 ((s.tile t).core.getTd (wRA w)).toNat)) s

def execTdWr (t : Nat) (w : Word) (s : State) : Ans :=
  rilax "TD_WR" 2 0xD t w (wRC w == 0 && wRA w ≤ 15 && fld (wImm w) 2 35 == 0) (fun s =>
    let c := (s.tile t).core
    let d := BitVec.ofNat 256 (putFld (c.getTd (wRA w)).toNat (64 * fld (wImm w) 0 2) 64 (s.g t (wRB w)).toNat)
    .retire (s.setCore t { c with td := tput c.td (wRA w) d })) s

def execTdRd (t : Nat) (w : Word) (s : State) : Ans :=
  rilax "TD_RD" 2 0xE t w (wRC w == 0 && wRB w ≤ 15 && fld (wImm w) 2 35 == 0) (fun s =>
    .retire (s.setG t (wRA w) (BitVec.ofNat 64 (word4 ((s.tile t).core.getTd (wRB w)) (fld (wImm w) 0 2))))) s

/-- Load data as a register value (R207). -/
def loadValue (n : Nat) (signed : Bool) (bs : List Byte) : Word :=
  if signed then BitVec.ofInt 64 (sextNat (ofBytes bs) (8 * n)) else BitVec.ofNat 64 (ofBytes bs)

/-- The data of a stalled load returns, or the kernel stops (R207, R57, R227, R230, R268, R270). The data of a tile that sleeps,
or of a port that gives no credits, does not come yet (R247, R258). -/
def execLoadDataReturn (t : Nat) (res : Res) (host : HostBytes) (s : State) : Ans :=
  let c := (s.tile t).core
  match c.stall, lostRes c.loadLost res with
  | .load td rd n signed va, some res =>
    let l := s.vaSpots t va n
    if s.unresolved c.loadCut (s.moveRes l [] res) || !s.accessOpen t t l then .refused (.notEnabled "LOAD_DATA_RETURN")
    else match s.moveRes l [] res with
    | .ok | .corrected =>
      let bs := s.readSpots l host
      let s := (s.countEcc l (s.moveRes l [] res)).traffic l 0 t
      let c := (s.tile t).core
      let c := if td then { c with td := tput c.td rd (BitVec.ofNat 256 (ofBytes bs)) }
        else c.setG rd (loadValue n signed bs)
      .next ((s.setCore t c).retire t 8)
    | r => .next (s.accessStop t l r)
  | _, _ => .refused (.notEnabled "LOAD_DATA_RETURN")

/-! ### Synchronisation (R47, R178, R208) -/

def execWait (t : Nat) (w : Word) (s : State) : Ans :=
  rilax "WAIT" 3 0 t w (wRA w ≤ 15 && wRB w == 0 && wRC w == 0 && wImm w == 0) (fun s =>
    let c := (s.tile t).core
    let x := c.getTok (wRA w)
    match x.st with
    | 0 => .trap 5 0
    | 1 => .hold (s.setCore t { c with stall := .wait (wRA w) })
    | 2 => .retire s
    | _ => .trap 5 x.det) s

def execTokPoll (t : Nat) (w : Word) (s : State) : Ans :=
  rilax "TOK_POLL" 3 1 t w (wRB w ≤ 15 && wRC w == 0 && wImm w == 0) (fun s =>
    let c := (s.tile t).core
    let x := c.getTok (wRB w)
    let c := c.setTok (wRB w) { x with acked := x.acked || x.st == 3 }
    .retire (s.setCore t (c.setG (wRA w) (BitVec.ofNat 64 x.st)))) s

/-- The values of a fence operation are usable (R208): a 16-bit handle, a 32-bit value, a fence bound to the running
context. -/
def State.fenceUsable (s : State) (t : Nat) (h v : Word) : Bool :=
  fld h.toNat 16 48 == 0 && fld v.toNat 32 32 == 0 &&
    (match s.runCtx t with
     | some c => (s.fence h.toNat).boundTo c
     | none => false)

def execFenceSig (t : Nat) (w : Word) (s : State) : Ans :=
  rilax "FENCE_SIG" 3 2 t w (wRA w == 0 && wImm w == 0) (fun s =>
    let h := s.g t (wRB w)
    let v := s.g t (wRC w)
    if s.fenceUsable t h v then
      let c := (s.tile t).core
      .retire (s.setCore t { c with sigs := c.sigs ++ [(h.toNat, v.setWidth 32, (s.runCtx t).getD 0)] })
    else .trap 1 0) s

def execFenceWaitInstr (t : Nat) (w : Word) (s : State) : Ans :=
  rilax "FENCE_WAIT_INSTR" 3 3 t w (wImm w == 0) (fun s =>
    let h := s.g t (wRB w)
    let v := (s.g t (wRC w)).setWidth 32
    let f := s.fence h.toNat
    if !s.fenceUsable t h (s.g t (wRC w)) || v - f.val = 0x80000000 then .trap 1 0
    else match f.look v with
      | some r => .retire (s.setG t (wRA w) (BitVec.ofNat 64 r))
      | none => .hold (s.setCore t { (s.tile t).core with stall := .fence (wRA w) h.toNat v })) s

/-! ### Pace (R63, R211, R222) -/

/-- Start the mover operations that wait for comparator `c` (R211). -/
def State.startTriggered (s : State) (t c : Nat) : State :=
  (s.tile t).ops.foldl (fun s o => if o.trig = some (true, c) && !o.started then s.beginMover t o else s) s

/-- A comparator fires (R63): it starts its movers and wakes a `pace.wait`, on a HALTED tile at RESUME (R347). -/
def State.fireCmp (s : State) (t c : Nat) : State :=
  let core := (s.tile t).core
  let s := s.setCore t { core with comps := tput core.comps c { core.getCmp c with fired := true } }
  if core.halted then s
  else
    let s := s.startTriggered t c
    if core.stall = .pace c then s.retire t 8 else s

/-- Arm a comparator; a value in the past fires at once (R63). -/
def State.armCmp (s : State) (t c : Nat) (v : Word) : State :=
  let core := (s.tile t).core
  let s := s.setCore t { core with comps := tput core.comps c { armed := true, val := v } }
  if v.toNat ≤ (s.pacer t).toNat then s.fireCmp t c else s

def execPaceArm (t : Nat) (w : Word) (s : State) : Ans :=
  rilax "PACE_ARM" 9 0 t w (wRA w == 0 && wRC w == 0 && fld (wImm w) 3 34 == 0) (fun s =>
    .retire (s.armCmp t (wImm w) (s.g t (wRB w)))) s

def execPaceArmRel (t : Nat) (w : Word) (s : State) : Ans :=
  rilax "PACE_ARM_REL" 9 1 t w (wRA w == 0 && wRC w == 0 && fld (wImm w) 3 34 == 0) (fun s =>
    .retire (s.armCmp t (wImm w) (s.pacer t + s.g t (wRB w)))) s

def execPaceArmDl (t : Nat) (w : Word) (s : State) : Ans :=
  rilax "PACE_ARM_DL" 9 2 t w (wRA w == 0 && wRC w == 0 && wImm w == 0) (fun s =>
    let x := s.tile t
    match x.core.run with
    | some r => .retire (s.setTile t (x.setSlot r.slot { x.slot r.slot with deadline := s.g t (wRB w) }))
    | none => .retire s) s

def execPaceWait (t : Nat) (w : Word) (s : State) : Ans :=
  rilax "PACE_WAIT" 9 3 t w (wRA w == 0 && wRB w == 0 && wRC w == 0 && fld (wImm w) 3 34 == 0) (fun s =>
    let c := (s.tile t).core
    let x := c.getCmp (wImm w)
    if !x.armed then .trap 1 0
    else if x.fired then .retire s
    else .hold (s.setCore t { c with stall := .pace (wImm w) })) s

/-- Disarm a comparator and end the mover operations that wait for it (R211). -/
def State.clearCmp (s : State) (t c : Nat) : State :=
  let core := (s.tile t).core
  let s := s.setCore t { core with comps := tput core.comps c {} }
  (s.tile t).ops.foldl (fun s o =>
    if o.trig = some (true, c) && !o.started then s.endOp t o (some 0x43) else s) s

def execPaceClear (t : Nat) (w : Word) (s : State) : Ans :=
  rilax "PACE_CLEAR" 9 4 t w (wRA w == 0 && wRB w == 0 && wRC w == 0 && fld (wImm w) 3 34 == 0) (fun s =>
    .retire (s.clearCmp t (wImm w))) s

/-- The pacer has reached an armed comparator's value (R63). -/
def execPacerComparatorFire (t c : Nat) (s : State) : Ans :=
  let x := (s.tile t).core.getCmp c
  if (s.tile t).core.run.isSome && x.armed && !x.fired && x.val.toNat ≤ (s.pacer t).toNat && c < 8 then
    .next (s.fireCmp t c)
  else .refused (.notEnabled "PACER_COMPARATOR_FIRE")

/-! ### Mark and observe (R494, R500, R501, R223) -/

def execMarkOp (t : Nat) (w : Word) (s : State) : Ans :=
  rilax "MARK_OP" 0xA 0 t w (wRA w == 0 && wRB w == 0 && wRC w == 0 && fld (wImm w) 32 5 == 0) (fun s =>
    let layer := BitVec.ofNat 16 (fld (wImm w) 16 16)
    let op := BitVec.ofNat 16 (fld (wImm w) 0 16)
    let s := s.setCore t { (s.tile t).core with layer, op }
    match (s.tile t).core.run with
    | some r => .retire (s.bankSwap t (some r.launch.ctx) layer op r.launch.seq (s.confCtx r.launch.ctx))
    | none => .retire s) s

def execMarkEv (t : Nat) (w : Word) (s : State) : Ans :=
  rilax "MARK_EV" 0xA 1 t w (wRA w == 0 && wRC w == 0 && wImm w == 0) (fun s =>
    .marked (s.traceEmit t false 5 0 (s.g t (wRB w)))) s

/-- CLASS and INDEX of `obs.rd` in range (R223). -/
def obsIndexOk (cls idx : Nat) : Bool :=
  (cls == 1 && idx ≤ 67) || (cls == 3 && idx ≤ 15) || (cls == 4 && idx ≤ 3) || (cls == 6 && idx ≤ 127)

/-- The variant lacks a unit that `obs.rd` or `sys.dist` names (R2, R225). -/
def State.unitAbsent (s : State) (cls idx : Nat) : Bool :=
  match cls with
  | 1 => !s.hasTile idx
  | 3 => !s.hasPort idx
  | 4 => !s.hasRunner idx
  | 6 => quartersOf s.boot.variant ≤ idx / 32
  | _ => false

/-- Counter group of a source (R488). -/
def groupOf (cls idx : Nat) : Nat :=
  match cls with
  | 1 => idx
  | 3 => 68 + idx
  | 4 => 84 + idx
  | _ => 88 + idx

def execObsRd (t : Nat) (w : Word) (s : State) : Ans :=
  let cls := fld (wImm w) 28 4
  let idx := fld (wImm w) 16 7
  let dec := wRB w == 0 && wRC w == 0 && fld (wImm w) 32 5 == 0 && fld (wImm w) 23 5 == 0 && fld (wImm w) 8 8 == 0
    && obsIndexOk cls idx
  rilax "OBS_RD" 0xA 2 t w dec (fun s =>
    if s.unitAbsent cls idx then .trap 2 0
    else .retire (s.setG t (wRA w) (s.obsRead t (groupOf cls idx) (fld (wImm w) 0 8)))) s

/-! ### System (R175, R176, R224, R50) -/

/-- A selector that R175 lists. -/
def selectorOk (n : Nat) : Bool := n ≤ 0x0C || (0x10 ≤ n && n ≤ 0x2F)

/-- The special register a selector names (R175). -/
def State.special (s : State) (t n : Nat) : Word :=
  let c := (s.tile t).core
  match c.run with
  | none => 0
  | some r =>
    match n with
    | 0x00 => BitVec.ofNat 64 r.rank
    | 0x01 => BitVec.ofNat 64 r.size
    | 0x02 => BitVec.ofNat 64 r.depth
    | 0x03 => BitVec.ofNat 64 r.launch.ctx
    | 0x04 => c.layer.setWidth 64
    | 0x05 => c.op.setWidth 64
    | 0x06 => s.pacer t
    | 0x07 => r.epoch.setWidth 64
    | 0x08 => r.gen.setWidth 64
    | 0x09 => r.bunch.setWidth 64
    | 0x0A => r.launch.seq.setWidth 64
    | 0x0B => ((s.tile t).slot r.slot).deadline
    | 0x0C => c.flags.setWidth 64
    | _ =>
      if n < 0x20 then
        let k := c.getTok (n - 0x10)
        if k.st = 3 then k.det.setWidth 64 else 0
      else
        let d := c.seg (n - 0x20)
        if segValid d then BitVec.ofNat 64 (segSize d) else 0

def execSysRead (t : Nat) (w : Word) (s : State) : Ans :=
  let dec := wRB w == 0 && wRC w == 0 && fld (wImm w) 8 29 == 0 && selectorOk (wImm w)
  rilax "SYS_READ" 0xF 0 t w dec (fun s => .retire (s.setG t (wRA w) (s.special t (wImm w)))) s

/-- `sys.exit` (R50): the core issues nothing more, and operations that still wait for a trigger end (R211). -/
def execSysExit (t : Nat) (w : Word) (s : State) : Ans :=
  rilax "SYS_EXIT" 0xF 1 t w (wRA w == 0 && wRB w == 0 && wRC w == 0 && wImm w == 0) (fun s =>
    let s := s.retire t 8
    .hold (((s.setCore t { (s.tile t).core with stall := .exit }).endWaiting t).closeIntakes t)) s

/-- CLASS and INDEX of `sys.dist` in range (R224). -/
def distIndexOk (cls idx : Nat) : Bool :=
  (cls == 1 && idx ≤ 67) || (cls == 3 && idx ≤ 15) || (cls == 4 && idx ≤ 3) || (cls == 5 && idx == 0x1000)

/-- The distance word from a tile to a unit (R224, R251). -/
def State.distTo (s : State) (t cls idx : Nat) : Word :=
  match cls with
  | 1 => s.distWord t (tileRouter idx) ((s.tile idx).role == 3) false
  | 3 => s.distWord t (portRouter idx) false true
  | 4 => s.distWord t (runnerRouter idx) false false
  | _ => s.distWord t hostRouter false false

def execSysDist (t : Nat) (w : Word) (s : State) : Ans :=
  let cls := fld (wImm w) 28 4
  let idx := fld (wImm w) 0 16
  let dec := wRB w == 0 && wRC w == 0 && fld (wImm w) 32 5 == 0 && fld (wImm w) 16 12 == 0 && distIndexOk cls idx
  rilax "SYS_DIST" 0xF 2 t w dec (fun s =>
    if s.unitAbsent cls idx then .trap 2 0 else .retire (s.setG t (wRA w) (s.distTo t cls idx))) s

/-! ### Engine operations (R45, R199, R200, R202, R203) -/

/-- Queued operations an engine accepts (R44). -/
def engineDepth (eng : Nat) : Nat := if eng = 0 then 4 else if eng = 1 then 8 else if eng = 2 then 4 else 1

/-- The engine that executes an instruction (R201). -/
def engineOf (w x : Word) : Nat :=
  match wClass w with
  | 4 => 3 + xFld x 53 3
  | 5 | 0xB => 1
  | 6 => 0
  | 7 => if wOp w ≤ 2 then 0 else if wOp w = 4 then 1 else 2
  | _ => 2

/-- The engine's queue has no free slot. -/
def Tile.engineFull (x : Tile) (eng : Nat) : Bool := engineDepth eng ≤ (x.ops.filter (fun o => o.eng == eng)).length

/-- The operation that an instruction issues: register and descriptor operands are copied at issue (R203). -/
def State.newOp (s : State) (t : Nat) (w x : Word) (e f : Nat) : EngOp :=
  let c := (s.tile t).core
  { id := (s.tile t).nextId, eng := engineOf w x, kd := xKD x, w, x,
    ga := c.getG (wRA w), gb := c.getG (wRB w), gc := c.getG (wRC w), ge := c.getG e, gf := c.getG f,
    ta := c.getTd (wRA w % 16), tb := c.getTd (wRB w % 16), tc := c.getTd (wRC w % 16) }

/-- The operation takes its slot and its token becomes PENDING (R46, R47, R50, R203). -/
def State.takeSlot (s : State) (t : Nat) (o : EngOp) : State :=
  let x := s.tile t
  let old := x.core.getTok o.kd
  let core := { x.core.setTok o.kd { st := 1 } with unacked := x.core.unacked || (old.st == 3 && !old.acked) }
  let movers := if o.eng < 3 then x.movers else tput x.movers (o.eng - 3) { last := o.id }
  s.setTile t { x with core, movers, ops := x.ops ++ [o], nextId := x.nextId + 1 }

/-- An engine operation's own checks and what its issue does. `dec` is step 1 of R202 beyond XMARK, `chk` the trap of
steps 3 to 7, `e` and `f` the g registers that the extension word names, `post` what follows the taking of the slot. -/
structure EngRow where
  dec : Bool
  chk : State → Option Nat
  e : Nat := 0
  f : Nat := 0
  prep : State → EngOp → EngOp := fun _ o => o
  post : State → EngOp → State := fun s _ => s

/-- Issue an engine operation (R202, R203): a full queue stalls the core (R45). -/
def State.issueEngine (s : State) (t : Nat) (w x : Word) (r : EngRow) : State :=
  let c := (s.tile t).core
  if fld x.toNat 60 4 != 0xE then s.apply t 16 (.trap 1 0)
  else if (s.tile t).engineFull (engineOf w x) then s.setCore t { c with stall := .queue w x }
  else if !r.dec then s.apply t 16 (.trap 1 0)
  else if !c.guard w then s.apply t 16 (.retire s)
  else match r.chk s with
    | some code => s.apply t 16 (.trap code 0)
    | none =>
      if (c.getTok (xKD x)).st = 1 then s.apply t 16 (.trap 5 0)
      else
        let o := r.prep s (s.newOp t w x r.e r.f)
        r.post ((s.takeSlot t o).retire t 16) o

/-- A two-word row. -/
def rilax2 (name : String) (cls op : Nat) (t : Nat) (w : Word) (k : State → State) (s : State) : Ans :=
  if !s.coreReady t then .refused (.notEnabled name)
  else if wClass w = cls && wOp w = op then
    .next (match s.fetchTrap t 16 with
      | some c => s.apply t 16 (.trap c 0)
      | none => k s)
  else if reservedOp w then
    .next (match s.fetchTrap t 8 with
      | some c => s.apply t 8 (.trap c 0)
      | none => s.apply t 8 (.trap 1 0))
  else .refused (.otherWord name)

end Sys2Proof.Machine
end

