-- ==== Sys2Proof/Machine/Movers.lean ====
section
/-! DEFINITION. Movers: issue (R210, R211) and completion (R271 to R274). -/

namespace Sys2Proof.Machine

def mvNo (x : Word) : Nat := xFld x 53 3
def mvTrig (x : Word) : Nat := xFld x 51 2
def mvSrc (x : Word) : Nat := xFld x 48 3
def mvGR (x : Word) : Nat := xFld x 43 5

/-- Fields of a mover operation decode (R199, R210). -/
def mvDec (w x : Word) : Bool :=
  wImm w == 0 && xFld x 0 43 == 0 && mvTrig x != 3 && (mvTrig x != 0 || mvSrc x == 0) && (wOp w == 2 || mvGR x == 0)

/-- The trigger is usable (R211): an armed comparator, another mover that has been issued to. -/
def State.trigOk (s : State) (t : Nat) (x : Word) : Bool :=
  match mvTrig x with
  | 1 => ((s.tile t).core.getCmp (mvSrc x)).armed
  | 2 => mvSrc x != mvNo x && (tget {} (s.tile t).movers (mvSrc x) : MoverSt).last != 0
  | _ => true

/-- A `mv.copy` whose ranges resolve to a common byte (R210). -/
def State.copyOverlaps (s : State) (t : Nat) (dst src : Word) (n : Nat) : Bool :=
  s.vaOk t dst n 1 allTargets && s.vaOk t src n 0 allTargets && overlap (s.vaSpots t dst n) (s.vaSpots t src n)

/-- Steps 4 to 6 of R202 for a mover operation (R210, R211). -/
def State.mvChk (s : State) (t : Nat) (w x : Word) : Option Nat :=
  let a := s.g t (wRA w)
  let b := s.g t (wRB w)
  let n := (s.g t (wRC w)).toNat
  let r := s.g t (mvGR x)
  if 2 ^ 32 < n || !s.trigOk t x then some 1
  else if wOp w = 0 && s.copyOverlaps t a b n then some 1
  else if a.toNat % 64 != 0 || (wOp w != 1 && b.toNat % 64 != 0) || n % 64 != 0 || (wOp w = 2 && r.toNat % 8 != 0) then
    some 3
  else
    let ok := match wOp w with
      | 0 => s.vaOk t a n 1 allTargets && s.vaOk t b n 0 allTargets
      | 1 => s.vaOk t a n 1 allTargets
      | _ => s.vaOk t a n 0 allTargets && s.vaOk t b n 0 allTargets && s.vaOk t r 8 1 allTargets
    if ok then none else some 4

/-- The trigger that an operation waits for (R211). -/
def State.mvPrep (s : State) (t : Nat) (x : Word) (o : EngOp) : EngOp :=
  match mvTrig x with
  | 0 => o
  | 1 => { o with trig := some (true, mvSrc x) }
  | _ => { o with trig := some (false, (tget {} (s.tile t).movers (mvSrc x) : MoverSt).last) }

/-- An operation begins at its issue when its trigger is ISSUE or has come already; behind an operation that ended in ERROR it
ends in ERROR (R210, R211). -/
def State.mvPost (s : State) (t : Nat) (x : Word) (o : EngOp) : State :=
  match mvTrig x with
  | 0 => s.beginMover t o
  | 1 => if ((s.tile t).core.getCmp (mvSrc x)).fired then s.beginMover t o else s
  | _ => match (tget {} (s.tile t).movers (mvSrc x) : MoverSt).res with
    | 1 => s.beginMover t o
    | 2 => s.endOp t o (some 0x42)
    | _ => s

/-- A mover operation met uncorrectable lines among `at'`: it ends in ERROR and its kernel stops; lines copied from them are
not written, the others follow R274 (R57, R227). -/
def State.moverUe (s : State) (t : Nat) (o : EngOp) (at' : List Spot) (new : List Byte) : State :=
  let bad := s.errLines at'
  let s := s.ueRead at' (s.runCtx t).toList
  let s := if o.op = 0 then s.moverStops t o new bad else s
  (s.closeOp t o (some 0xE1)).safetyStop t

/-- A mover operation ends (R210, R272 to R274). `a` holds the host bytes of its first range read, `b` of its second. A compare reads both
ranges whole (DESIGN CHOICE, log 214). -/
def State.moved (s : State) (t : Nat) (o : EngOp) (res : Res) (a b : HostBytes) : State :=
  let rd := s.mvReads t o
  let wr := s.mvWrites t o
  let eff := s.moveRes rd wr res
  let new := s.mvBytes t o a b
  let s := (s.traffic rd 0 t).traffic wr 1 t
  match eff with
  | .ok | .corrected => (((s.countEcc rd eff).writeSpots wr new).countMoved t wr).endOp t o none
  | .uncorrectable => s.moverUe t o rd new
  | r => ((s.moverStops t o new []).countRefused (rd ++ wr) r).endOp t o (some (mvErr r))

/-- Issue a mover operation. -/
def State.issueMv (s : State) (t : Nat) (w x : Word) : State :=
  s.issueEngine t w x { dec := mvDec w x, chk := fun s => s.mvChk t w x, e := mvGR x,
                        prep := fun s o => s.mvPrep t x o, post := fun s o => s.mvPost t x o }

def execMvCopy (t : Nat) (w x : Word) (s : State) : Ans := rilax2 "MV_COPY" 4 0 t w (fun s => s.issueMv t w x) s
def execMvFill (t : Nat) (w x : Word) (s : State) : Ans := rilax2 "MV_FILL" 4 1 t w (fun s => s.issueMv t w x) s
def execMvCmp (t : Nat) (w x : Word) (s : State) : Ans := rilax2 "MV_CMP" 4 2 t w (fun s => s.issueMv t w x) s

/-- The started operation of a mover. -/
def Tile.moverOp (x : Tile) (mv : Nat) : Option EngOp := x.ops.find? (fun o => o.eng == 3 + mv && o.started)

/-- A mover's operation has ended its transfers: its tiles are awake, its ports gave it credits, what its tile sent before it has
arrived, and nothing holds it (R247, R258, R261, R267). -/
def execMoverOpComplete (t mv : Nat) (res : Res) (a b : HostBytes) (s : State) : Ans :=
  match (s.tile t).moverOp mv with
  | some o =>
    match lostRes o.lost res with
    | some r =>
      if mv < 8 && !o.held && !s.unresolved o.cut (s.moveRes (s.mvReads t o) (s.mvWrites t o) r)
          && !o.behind.any s.bram.flight.contains && s.accessOpen t t (s.mvReads t o ++ s.mvWrites t o) then
        .next (s.moved t o r a b)
      else .refused (.notEnabled "MOVER_OP_COMPLETE")
    | none => .refused (.notEnabled "MOVER_OP_COMPLETE")
  | none => .refused (.notEnabled "MOVER_OP_COMPLETE")

end Sys2Proof.Machine
end

