-- ==== Sys2Proof/Machine/Tensors.lean ====
section
/-! DEFINITION. Tensor descriptors (R173) and the layout of tensors in memory (R82 to R84). -/

namespace Sys2Proof.Machine

def tdBase (d : BitVec 256) : Nat := fld (word4 d 0) 0 48
def tdRows (d : BitVec 256) : Nat := fld (word4 d 1) 0 24
def tdCols (d : BitVec 256) : Nat := fld (word4 d 1) 24 24
def tdFormat (d : BitVec 256) : Nat := fld (word4 d 1) 48 5
def tdSparsity (d : BitVec 256) : Nat := fld (word4 d 1) 53 3
def tdStride (d : BitVec 256) : Nat := fld (word4 d 2) 0 48

/-- Reserved fields of a descriptor are zero (R173, R174), its format code and sparsity are defined (R74, R134), it has a row
(R173), and R84 holds. -/
def tdOk (d : BitVec 256) : Bool :=
  fld (word4 d 0) 48 16 == 0 && fld (word4 d 1) 56 8 == 0 && fld (word4 d 2) 48 16 == 0 && word4 d 3 == 0
    && tdFormat d < 0x10 && tdSparsity d ≤ 4 && 1 ≤ tdRows d
    && (!(isBlock (tdFormat d) || widthOf (tdFormat d) < 8) || tdCols d % 32 == 0)

/-- Round up to a multiple of 64. -/
def up64 (n : Nat) : Nat := (n + 63) / 64 * 64

/-- Bytes of a run of `n` elements of a format (R83). -/
def runBytes (c n : Nat) : Nat := (n * widthOf c + 7) / 8

/-- Bytes of one row of a dense tensor. -/
def tdRowBytes (d : BitVec 256) : Nat := runBytes (tdFormat d) (tdCols d)

/-- Offset of the scale plane of a tensor whose last row ends `row` bytes after its start: it begins at the first 64-byte
boundary of memory at or after that end (R83, R139). -/
def planeOff (d : BitVec 256) (row : Nat) : Nat := up64 (tdBase d + (tdRows d - 1) * tdStride d + row) - tdBase d

/-- Bytes from BASE to the end of a tensor with rows of `row` bytes, its scale plane included (R83, R108). -/
def spanBytes (d : BitVec 256) (row : Nat) : Nat :=
  if isBlock (tdFormat d) then planeOff d row + tdRows d * (tdCols d / 32) else (tdRows d - 1) * tdStride d + row

/-- Range of a dense tensor (R108). -/
def denseBytes (d : BitVec 256) : Nat := spanBytes d (tdRowBytes d)

/-- Read bytes of the running kernel's memory at a 48-bit virtual address. -/
def State.readAt (s : State) (t a n : Nat) : List Byte := s.vaRead t (BitVec.ofNat 64 a) n

/-- Write bytes of the running kernel's memory at a 48-bit virtual address. -/
def State.writeAt (s : State) (t a : Nat) (bs : List Byte) : State :=
  s.writeSpots (s.vaSpots t (BitVec.ofNat 64 a) bs.length) bs

/-- Element `i` of a packed run (R83). -/
def elemAt (c : Nat) (run i : Nat) : Nat := fld run (i * widthOf c) (widthOf c)

/-- The elements of row `r` of a dense tensor, as codes. -/
def State.rowCodes (s : State) (t : Nat) (d : BitVec 256) (r : Nat) : List Nat :=
  let run := ofBytes (s.readAt t (tdBase d + r * tdStride d) (tdRowBytes d))
  (List.range (tdCols d)).map (elemAt (tdFormat d) run)

/-- The scale bytes of row `r` of a block tensor with rows of `row` bytes (R83); 127 for a format that has none (R91). -/
def State.rowScales (s : State) (t : Nat) (d : BitVec 256) (row r : Nat) : List Nat :=
  let n := (tdCols d + 31) / 32
  if isBlock (tdFormat d) then
    (s.readAt t (tdBase d + planeOff d row + r * n) n).map BitVec.toNat
  else List.replicate n 127

/-- Pack element codes of `w` bits into one number, first element lowest. -/
def packCodes (w : Nat) : List Nat → Nat
  | [] => 0
  | x :: r => x + packCodes w r * 2 ^ w

/-- Bit `i` of a row mask held as bytes (R146). -/
def maskBit (bs : List Byte) (i : Nat) : Bool := (bs.getD (i / 8) 0).getLsbD (i % 8)

end Sys2Proof.Machine
end

