-- ==== Sys2Proof/Machine/Vector.lean ====
section
/-! DEFINITION. The vector unit: vector operations (R212, R213), `cvt` (R214) and `gate.topk` (R150 to R152). An operation
takes its whole effect when it completes, in queue order (R48, R203). -/

namespace Sys2Proof.Machine

/-! ### Registers as elements -/

/-- The 1,024 elements of a v register. -/
def vElems (v : BitVec 32768) : List Nat := (List.range 1024).map (fun i => fld v.toNat (32 * i) 32)

/-- A v register of elements. -/
def vPack (l : List Nat) : BitVec 32768 := BitVec.ofNat 32768 (packCodes 32 l)

def vMK (x : Word) : Bool := x.getLsbD 55
def vMR (x : Word) : Nat := xFld x 52 3
def vVC (x : Word) : Nat := xFld x 47 5
def vTY (x : Word) : Bool := x.getLsbD 46
def vFN (x : Word) : Nat := xFld x 40 6

/-- Element `i` is enabled (R171). -/
def Core.enabled (c : Core) (x : Word) (i : Nat) : Bool := !vMK x || (c.getM (vMR x)).getLsbD i

/-- One lane of a BF16 operation: FP32 arithmetic, then one rounding to BF16 (R212). -/
def laneBf (f : Num → Num → Num → FRes) (a b c : Nat) : FRes :=
  let r := f (decFp bf16 a) (decFp bf16 b) (decFp bf16 c)
  let q := encFp bf16 .rne true (f32 r.1)
  (q.1, r.2 ||| q.2)

/-- One element of an operation: an FP32 lane, or two BF16 lanes (R171). -/
def laneOp (ty : Bool) (f : Num → Num → Num → FRes) (a b c : Nat) : FRes :=
  if ty then
    let l := laneBf f (a % 2 ^ 16) (b % 2 ^ 16) (c % 2 ^ 16)
    let h := laneBf f (a / 2 ^ 16) (b / 2 ^ 16) (c / 2 ^ 16)
    (l.1 + h.1 * 2 ^ 16, l.2 ||| h.2)
  else f (f32 a) (f32 b) (f32 c)

/-- Write the enabled elements of a v register: element i becomes f i. -/
def Core.vWrite (c : Core) (x : Word) (d : Nat) (f : Nat → FRes) : Core × Nat :=
  let old := vElems (c.getV d)
  let rs := ((List.range 1024).zip old).map (fun (i, o) => if c.enabled x i then f i else (o, 0))
  ({ c with v := tput c.v d (vPack (rs.map Prod.fst)) }, rs.foldl (fun a r => a ||| r.2) 0)

/-- Elementwise operation on up to three v registers. -/
def Core.vMap (c : Core) (x : Word) (d a b e : Nat) (f : Num → Num → Num → FRes) : Core × Nat :=
  let va := vElems (c.getV a)
  let vb := vElems (c.getV b)
  let ve := vElems (c.getV e)
  c.vWrite x d (fun i => laneOp (vTY x) f (va.getD i 0) (vb.getD i 0) (ve.getD i 0))

/-- The function of `varith` (R212). -/
def arith (fn : Nat) (a b : Num) : FRes :=
  match fn with
  | 0 => fAdd a b
  | 1 => fSub a b
  | 2 => fMul a b
  | 3 => rnd32 (fMin a b)
  | 4 => rnd32 (fMax a b)
  | 5 => rnd32 (if a.neg then a.negate else a)
  | _ => rnd32 a.negate

/-- Combine adjacent elements. -/
def pairUp {α : Type} (f : α → α → α) : List α → List α
  | a :: b :: r => f a b :: pairUp f r
  | l => l

/-- The fixed tree of `vred` (R212): ten levels over 1,024 elements. -/
def redTree {α : Type} (f : α → α → α) : Nat → List α → List α
  | 0, l => l
  | n + 1, l => redTree f n (pairUp f l)

/-- `vred` (R212): the result and its flags. -/
def vReduce (fn : Nat) (l : List (Option Nat)) : FRes :=
  if l.all Option.isNone then (0, 0)
  else if fn = 0 then
    (redTree (fun (a b : FRes) =>
      let r := fAdd (f32 a.1) (f32 b.1)
      (r.1, a.2 ||| b.2 ||| r.2)) 10 (l.map (fun x => (x.getD 0, 0)))).headD (0, 0)
  else
    let f := fun (a b : Option Num) => match a, b with
      | some x, some y => some (if fn = 1 then fMax x y else fMin x y)
      | some x, none => some x
      | none, y => y
    match (redTree f 10 (l.map (fun x => x.map f32))).headD none with
    | some v => rnd32 v
    | none => (0, 0)

/-! ### Effects of the vector operations -/

/-- The registers and flags after a register-to-register operation of class 0x5. -/
def Core.vExec (c : Core) (o : EngOp) : Core × Nat :=
  let d := wRA o.w
  let a := wRB o.w
  let b := wRC o.w
  let x := o.x
  match wOp o.w with
  | 2 => c.vMap x d a b b (fun p q _ => arith (vFN x) p q)
  | 3 => c.vMap x d a b (vVC x) fFma
  | 4 => c.vMap x d a a a (fun p _ _ => special (vFN x) (xFld x 0 32) p)
  | 5 =>
    let va := vElems (c.getV a)
    let vb := vElems (c.getV b)
    let bits := (List.range 1024).map (fun i =>
      bit (if c.enabled x i then fCmp (vFN x) (f32 (va.getD i 0)) (f32 (vb.getD i 0)) else (c.getM d).getLsbD i))
    ({ c with m := tput c.m d (BitVec.ofNat 1024 (packCodes 1 bits)) }, 0)
  | 6 =>
    let r := vReduce (vFN x) (((List.range 1024).zip (vElems (c.getV a))).map (fun (i, e) =>
      if c.enabled x i then some e else none))
    ({ c with v := tput c.v d (BitVec.ofNat 32768 r.1) }, r.2)
  | 7 =>
    let k := o.gb.toNat
    c.vWrite x d (fun _ => (if vTY x then k % 2 ^ 16 + k % 2 ^ 16 * 2 ^ 16 else k % 2 ^ 32, 0))
  | 8 =>
    let va := vElems (c.getV a)
    let vb := vElems (c.getV b)
    c.vWrite x d (fun i => (if (c.getM (vMR x)).getLsbD i then va.getD i 0 else vb.getD i 0, 0))
  | _ =>
    let bits := (List.range 1024).map (fun i =>
      bit ((vFN x).testBit (2 * bit ((c.getM a).getLsbD i) + bit ((c.getM b).getLsbD i))))
    ({ c with m := tput c.m d (BitVec.ofNat 1024 (packCodes 1 bits)) }, 0)

/-- `vld`: 4,096 bytes into the enabled elements. -/
def State.vLoad (s : State) (t : Nat) (o : EngOp) : State :=
  let c := (s.tile t).core
  let bs := ofBytes (s.vaRead t o.gb 4096)
  s.setCore t (c.vWrite o.x (wRA o.w) (fun i => (fld bs (32 * i) 32, 0))).1

/-- `vst`: the enabled elements, 4 bytes each. -/
def State.vStore (s : State) (t : Nat) (o : EngOp) : State :=
  let c := (s.tile t).core
  let es := (vElems (c.getV (wRA o.w))).flatMap (toBytes 4)
  let l := (s.vaSpots t o.gb 4096).zip es
  s.pokeSpots (((List.range 4096).zip l).filterMap (fun (i, p) => if c.enabled o.x (i / 4) then some p else none))

/-! ### `cvt` (R214) -/

def cVS (x : Word) : Nat := xFld x 47 5
def cFS (x : Word) : Nat := xFld x 42 5
def cFD (x : Word) : Nat := xFld x 37 5
def cRM (x : Word) : Nat := xFld x 35 2
def cSP (x : Word) : Nat := xFld x 30 5
def cDP (x : Word) : Nat := xFld x 25 5

/-- Write elements of `w` bits of part `p` into a register; the others stay. -/
def putPart (v w p : Nat) (l : List (Option Nat)) : Nat :=
  ((List.range l.length).zip l).foldl (fun v (i, e) =>
    match e with
    | some b => putFld v ((1024 * p + i) * w) w b
    | none => v) v

/-- The rounding mode of element `i` of a `cvt`. -/
def Core.cvtRnd (c : Core) (o : EngOp) (i : Nat) : Rnd :=
  match cRM o.x with
  | 0 => .rne
  | 1 => .rtz
  | _ => .sr (fld (c.getV (wRC o.w)).toNat (32 * i) 24)

/-- The registers and flags after a `cvt`. -/
def Core.cvtExec (c : Core) (o : EngOp) : Core × Nat :=
  let x := o.x
  let fs := cFS x
  let fd := cFD x
  let src := (c.getV (wRB o.w)).toNat
  let sc := (c.getV (cVS x)).toNat
  let vals : List (Option Num) := (List.range 1024).map (fun i =>
    if c.enabled x i then
      some (decScaled fs (fld sc (8 * (32 * cSP x + i / 32)) 8) (fld src ((1024 * cSP x + i) * widthOf fs) (widthOf fs)))
    else none)
  let nanIn := bit (vals.any (fun v => v == some .nan)) * flNanIn
  let old := (c.getV (wRA o.w)).toNat
  if isBlock fd then
    let blocks : List (Nat × List (Option Num) × (Nat × List (Option Nat) × Nat)) := (List.range 32).map (fun b =>
      (b, (vals.drop (32 * b)).take 32, encBlock fd (fun i => c.cvtRnd o (32 * b + i)) ((vals.drop (32 * b)).take 32)))
    let codes : List (Option Nat) := blocks.flatMap (fun (_, _, e) => e.2.1)
    let c' := { c with v := tput c.v (wRA o.w) (BitVec.ofNat 32768 (putPart old (widthOf fd) (cDP x) codes)) }
    let sc' := blocks.foldl (fun v (b, vs, e) =>
      if vs.any Option.isSome then putFld v (8 * (32 * cDP x + b)) 8 e.1 else v) (c'.getV (cVS x)).toNat
    ({ c' with v := tput c'.v (cVS x) (BitVec.ofNat 32768 sc') },
      blocks.foldl (fun a (_, vs, e) => if vs.any Option.isSome then a ||| e.2.2 else a) nanIn)
  else
    let es := ((List.range 1024).zip vals).map (fun (i, v) => v.map (encElem fd (c.cvtRnd o i)))
    ({ c with v := tput c.v (wRA o.w) (BitVec.ofNat 32768
        (putPart old (widthOf fd) (cDP x) (es.map (fun e => e.map Prod.fst)))) },
      es.foldl (fun a e => match e with | some r => a ||| r.2 | none => a) nanIn)

/-! ### `gate.topk` (R150 to R152, R216) -/

def tkK (x : Word) : Nat := xFld x 53 3 + 1
def tkWM (x : Word) : Nat := xFld x 51 2
def tkMSK (x : Word) : Bool := x.getLsbD 50

/-- The expert with the largest logit among those not yet chosen; the lower index among equals. -/
def pickTop (ls : List (Nat × Num)) : Option (Nat × Num) :=
  ls.foldl (fun a e =>
    if e.2 = .nan then a
    else match a with
      | none => some e
      | some b => if fCmp 2 b.2 e.2 then some e else some b) none

/-- The `k` slots of a row (R151). -/
def topSlots : Nat → List (Nat × Num) → List (Option (Nat × Num))
  | 0, _ => []
  | k + 1, ls =>
    match pickTop ls with
    | none => none :: topSlots k ls
    | some e => some e :: topSlots k (ls.filter (fun x => x.1 != e.1))

/-- exp(l − m) in FP32 with its flags (R152). -/
def expDiff (m l : Num) : FRes := fThen (fSub l m) fExp

/-- Sum in order, in FP32 with RNE, starting from the first. -/
def sumSeq : List FRes → FRes
  | [] => (0, 0)
  | a :: r => r.foldl (fun x y =>
      let z := fAdd (f32 x.1) (f32 y.1)
      (z.1, x.2 ||| y.2 ||| z.2)) a

/-- The pair entries of one row and their flags (R150 to R152). -/
def gateRow (mode k : Nat) (ls : List (Nat × Num)) : List (Nat × Nat) × Nat :=
  let slots := topSlots k ls
  let nanIn := bit (ls.any (fun e => e.2 == .nan)) * flNanIn
  match slots.head? with
  | some (some (_, m)) =>
    let valid := slots.filterMap id
    let sum := if mode = 1 then sumSeq (valid.map (fun e => expDiff m e.2))
      else if mode = 2 then sumSeq ((ls.filter (fun e => e.2 != .nan)).map (fun e => expDiff m e.2)) else (0, 0)
    let r := if mode = 0 then (0, 0) else fRcp (f32 sum.1)
    slots.foldl (fun (acc, fl) e =>
      match e with
      | none => (acc ++ [(0xFFFF, 0)], fl)
      | some (i, l) =>
        if mode = 0 then (acc ++ [(i, (rnd32 l).1)], fl)
        else
          let x := expDiff m l
          let w := fMul (f32 x.1) (f32 r.1)
          (acc ++ [(i, w.1)], fl ||| x.2 ||| w.2)) ([], nanIn ||| sum.2 ||| r.2)
  | _ => (List.replicate k (0xFFFF, 0), nanIn)

/-- `gate.topk` over its rows. -/
def State.gateExec (s : State) (t : Nat) (o : EngOp) : State × Nat :=
  let d := o.tb
  let k := tkK o.x
  let f := if tdFormat d = 0 then fp32 else bf16
  let mask := if tkMSK o.x then s.vaRead t o.gc ((tdRows d + 7) / 8) else []
  (List.range (tdRows d)).foldl (fun (s, fl) r =>
    let (es, g) :=
      if tkMSK o.x && !maskBit mask r then (List.replicate k (0xFFFF, 0), 0)
      else gateRow (tkWM o.x) k ((List.range (tdCols d)).zip ((s.rowCodes t d r).map (decFp f)))
    let bs := es.flatMap (fun e => toBytes 4 e.1 ++ toBytes 4 e.2)
    (s.writeAt t (o.ga.toNat + r * k * 8) bs, fl ||| g)) (s, 0)

/-! ### Issue -/

/-- Fields of class 0x5 decode (R199, R212). -/
def vDec (w x : Word) : Bool :=
  let op := wOp w
  let fn := vFN x
  let mreg := op = 5 || op = 9
  wImm w == 0 && xFld x 32 8 == 0
    && (vMK x || op == 8 || vMR x == 0) && (op == 3 || vVC x == 0)
    && ((op == 4 && fn == 7) || xFld x 0 32 == 0)
    && (!mreg || wRA w ≤ 7) && (op != 9 || (wRB w ≤ 7 && wRC w ≤ 7))
    && (match op with
      | 0 | 1 => wRC w == 0 && !vTY x && fn == 0
      | 2 => fn ≤ 6 && (fn ≤ 4 || wRC w == 0)
      | 3 => fn == 0
      | 4 => fn ≤ 9 && wRC w == 0
      | 5 => fn ≤ 3 && !vTY x
      | 6 => fn ≤ 2 && !vTY x && wRC w == 0
      | 7 => fn == 0 && wRC w == 0
      | 8 => fn == 0 && !vMK x
      | _ => fn ≤ 15 && !vMK x && !vTY x)

/-- Steps 4 to 6 of R202 for class 0x5: `vld` and `vst` name 4,096 bytes. -/
def State.vChk (s : State) (t : Nat) (w : Word) : Option Nat :=
  if 2 ≤ wOp w then none
  else
    let a := s.g t (wRB w)
    if a.toNat % 64 != 0 then some 3 else if s.vaOk t a 4096 (wOp w) ownTargets then none else some 4

/-- Issue a vector operation; its `started` marks it as one that only waits for its turn. -/
def State.issueVec (s : State) (t : Nat) (w x : Word) : State :=
  s.issueEngine t w x { dec := vDec w x, chk := fun s => s.vChk t w }

def cvtDec (w x : Word) : Bool :=
  wImm w == 0 && xFld x 0 25 == 0 && cRM x ≤ 2 && (cRM x == 2 || wRC w == 0) && (vMK x || vMR x == 0)
    && cFS x < 0x10 && cFD x < 0x10 && (isBlock (cFS x) || isBlock (cFD x) || cVS x == 0)

/-- A part lies in its register (R214). -/
def partOk (c p : Nat) : Bool := p < 32 / widthOf c

/-- Issue a convert. A part beyond its format's is a value that step 4 of R202 refuses, after the guard (DESIGN CHOICE, log 211). -/
def State.issueCvt (s : State) (t : Nat) (w x : Word) : State :=
  s.issueEngine t w x { dec := cvtDec w x
                        chk := fun _ => if partOk (cFS x) (cSP x) && partOk (cFD x) (cDP x) then none else some 1 }

def gateDec (w x : Word) : Bool :=
  wImm w == 0 && xFld x 0 50 == 0 && tkWM x ≤ 2 && wRB w ≤ 15 && (tkMSK x || wRC w == 0)

/-- Steps 4 to 6 of R202 for `gate.topk` (R216). -/
def State.gateChk (s : State) (t : Nat) (w x : Word) : Option Nat :=
  let d := (s.tile t).core.getTd (wRB w)
  let p := s.g t (wRA w)
  let m := s.g t (wRC w)
  if !(tdOk d && tdSparsity d == 0 && tdFormat d ≤ 1 && 1 ≤ tdCols d && tdCols d ≤ 1024 && 1 ≤ tdRows d) then some 1
  else if p.toNat % 64 != 0 || (tkMSK x && m.toNat % 64 != 0) then some 3
  else if s.vaOk t (BitVec.ofNat 64 (tdBase d)) (denseBytes d) 0 ownTargets
      && s.vaOk t p (tdRows d * tkK x * 8) 1 ownTargets
      && (!tkMSK x || s.vaOk t m ((tdRows d + 7) / 8) 0 ownTargets) then none
  else some 4

def State.issueGate (s : State) (t : Nat) (w x : Word) : State :=
  s.issueEngine t w x { dec := gateDec w x, chk := fun s => s.gateChk t w x }

def execVld (t : Nat) (w x : Word) (s : State) : Ans := rilax2 "VLD" 5 0 t w (fun s => s.issueVec t w x) s
def execVst (t : Nat) (w x : Word) (s : State) : Ans := rilax2 "VST" 5 1 t w (fun s => s.issueVec t w x) s
def execVarith (t : Nat) (w x : Word) (s : State) : Ans := rilax2 "VARITH" 5 2 t w (fun s => s.issueVec t w x) s
def execVfma (t : Nat) (w x : Word) (s : State) : Ans := rilax2 "VFMA" 5 3 t w (fun s => s.issueVec t w x) s
def execVsf (t : Nat) (w x : Word) (s : State) : Ans := rilax2 "VSF" 5 4 t w (fun s => s.issueVec t w x) s
def execVcmp (t : Nat) (w x : Word) (s : State) : Ans := rilax2 "VCMP" 5 5 t w (fun s => s.issueVec t w x) s
def execVred (t : Nat) (w x : Word) (s : State) : Ans := rilax2 "VRED" 5 6 t w (fun s => s.issueVec t w x) s
def execVbcast (t : Nat) (w x : Word) (s : State) : Ans := rilax2 "VBCAST" 5 7 t w (fun s => s.issueVec t w x) s
def execVsel (t : Nat) (w x : Word) (s : State) : Ans := rilax2 "VSEL" 5 8 t w (fun s => s.issueVec t w x) s
def execVmask (t : Nat) (w x : Word) (s : State) : Ans := rilax2 "VMASK" 5 9 t w (fun s => s.issueVec t w x) s
def execCvt (t : Nat) (w x : Word) (s : State) : Ans := rilax2 "CVT" 0xB 0 t w (fun s => s.issueCvt t w x) s
def execGateTopk (t : Nat) (w x : Word) (s : State) : Ans := rilax2 "GATE_TOPK" 7 4 t w (fun s => s.issueGate t w x) s

/-! ### Completion -/

/-- The effect of a vector operation and its flags. -/
def State.vecEffect (s : State) (t : Nat) (o : EngOp) : State × Nat :=
  let c := (s.tile t).core
  if wClass o.w = 7 then s.gateExec t o
  else if wClass o.w = 0xB then
    let (c, fl) := c.cvtExec o
    (s.setCore t c, fl)
  else match wOp o.w with
    | 0 => (s.vLoad t o, 0)
    | 1 => (s.vStore t o, 0)
    | _ =>
      let (c, fl) := c.vExec o
      (s.setCore t c, fl)

/-- The oldest operation of an engine. -/
def Tile.oldestOp (x : Tile) (eng : Nat) : Option EngOp := x.ops.find? (fun o => o.eng == eng)

/-- What a vector operation reads from the store: the logits and the row mask of `gate.topk`, the source of `vld`. -/
def State.vecReads (s : State) (t : Nat) (o : EngOp) : List Spot :=
  if wClass o.w = 7 then
    s.vaSpots t (BitVec.ofNat 64 (tdBase o.tb)) (denseBytes o.tb)
      ++ (if tkMSK o.x then s.vaSpots t o.gc ((tdRows o.tb + 7) / 8) else [])
  else if wClass o.w = 5 && wOp o.w = 0 then s.vaSpots t o.gb 4096 else []

/-- An operation of the tensor or vector engine reads an uncorrectable line of its tile's own store (R57). -/
def State.engineUe (s : State) (l : List Spot) (res : Res) : Bool := !l.isEmpty && s.moveRes l [] res == .uncorrectable

/-- The oldest vector operation finishes (R48, R103), or an uncorrectable line that it reads stops its kernel, the operation
withheld (R57). -/
def execVectorOpComplete (t : Nat) (res : Res) (s : State) : Ans :=
  match (s.tile t).oldestOp 1 with
  | none => .refused (.notEnabled "VECTOR_OP_COMPLETE")
  | some o =>
    let l := s.vecReads t o
    if s.engineUe l res then .next (s.readUe t l)
    else
      let (s, fl) := (s.countEcc l res).vecEffect t o
      let s := if wClass o.w = 7 then s else s.count t 9 1
      .next (s.endOp t { o with flags := BitVec.ofNat 16 fl } none)

end Sys2Proof.Machine
end

