-- ==== Sys2Proof/Machine/Accumulate.lean ====
section
/-! DEFINITION. Accumulation in the tensor engine: the long accumulator (R92 to R98), the working accumulator (R100), and
the checksum comparison (R126 to R128). -/

namespace Sys2Proof.Machine

/-! ### The long accumulator -/

/-- One operand pair at one K position; none where the position is pruned or skipped (R142, R145). -/
abbrev Pair := Option (Num × Num)

/-- What the products of one block give: the exact sums Tp and Tq, specials and flags (R92, R94, R97). -/
structure BlockSum where
  t : Ex := { p := 0 }
  nan : Bool := false
  pinf : Bool := false
  ninf : Bool := false
  fl : Nat := 0
  deriving DecidableEq, Repr

/-- Add one product (R97): a NaN operand sets NAN_IN, an infinity times zero INVALID. An infinity times an infinity, of which R97
does not speak, counts as one times a finite value (DESIGN CHOICE, log 162). -/
def BlockSum.add (b : BlockSum) (x : Pair) : BlockSum :=
  match x with
  | none => b
  | some (u, v) =>
    if u = .nan || v = .nan then { b with nan := true, fl := b.fl ||| flNanIn }
    else match mulNum u v with
      | none => { b with nan := true, fl := b.fl ||| flInvalid }
      | some (.inf n) => if n then { b with ninf := true } else { b with pinf := true }
      | some (.fin _ y) => { b with t := b.t.add y }
      | some .nan => b

/-- Round x / 2^d to the nearest integer, ties to even, and whether a non-zero bit is lost. -/
def rneShift (x : Int) (d : Nat) : Int × Bool :=
  let m : Int := (2 ^ d : Nat)
  let k := x / m
  let r := x % m
  if r = 0 then (k, false)
  else if m < 2 * r || (m == 2 * r && k % 2 == 1) then (k + 1, true) else (k, true)

/-- floor(log2) of the larger magnitude of two integers, one of them non-zero. -/
def log2Max (p q : Int) : Int := ((max p.natAbs q.natAbs).log2 : Nat)

/-- Add one to a fold counter that saturates (R127). -/
def foldUp (n : Nat) (b : Bool) : Nat := if b then satAdd 0xFFFFFFFF n 1 else n

/-- Flags of a rule of R95 that loses bits. -/
def foldFlags (b : Bool) : Nat := if b then flFold + flInexact else 0

/-- Re-anchor lanes that hold p and q in units of 2^g: both are rounded once to the new window (R95). -/
def Accum.reanchor (x : Accum) (p q g : Int) : Accum × Nat :=
  let a := g + log2Max p q
  let d := (a - 64 - g).toNat
  let (p', lp) := if a - 64 ≤ g then (shiftUp p (g - (a - 64)), false) else rneShift p d
  let (q', lq) := if a - 64 ≤ g then (shiftUp q (g - (a - 64)), false) else rneShift q d
  ({ x with p := p', q := q', a, foldP := foldUp x.foldP lp, foldQ := foldUp x.foldQ lq }, foldFlags (lp || lq))

/-- Add one block sum to its lanes (R94, R95). -/
def Accum.addTerm (x : Accum) (t : Ex) : Accum × Nat :=
  if t.isZero then (x, 0)
  else
    let x := if x.anchored then x else { x with anchored := true, a := t.e + log2Max t.p t.q }
    let w := x.a - 64
    let g := min w t.e
    let p := shiftUp x.p (w - g) + shiftUp t.p (t.e - g)
    let q := shiftUp x.q (w - g) + shiftUp t.q (t.e - g)
    let top : Nat := 2 ^ (x.a + 63 - g).toNat
    if top ≤ max p.natAbs q.natAbs then x.reanchor p q g
    else
      let d := (w - t.e).toNat
      let (tp, lp) := if w ≤ t.e then (shiftUp t.p (t.e - w), false) else rneShift t.p d
      let (tq, lq) := if w ≤ t.e then (shiftUp t.q (t.e - w), false) else rneShift t.q d
      let y := { x with p := x.p + tp, q := x.q + tq, foldP := foldUp x.foldP lp, foldQ := foldUp x.foldQ lq }
      let fl := foldFlags (lp || lq)
      if 2 ^ 127 ≤ max y.p.natAbs y.q.natAbs then
        let (z, f) := y.reanchor y.p y.q w
        (z, fl ||| f)
      else (y, fl)

/-- Accumulate one block of 32 K positions. -/
def Accum.addBlock (x : Accum) (ps : List Pair) : Accum × Nat :=
  let b := ps.foldl BlockSum.add {}
  let (y, fl) := x.addTerm b.t
  ({ y with nan := y.nan || b.nan, pinf := y.pinf || b.pinf, ninf := y.ninf || b.ninf }, fl ||| b.fl)

/-- Split a list into pieces of `n`. -/
def pieces {α : Type} (n : Nat) : Nat → List α → List (List α)
  | 0, _ => []
  | k + 1, l => if l.isEmpty then [] else l.take n :: pieces n k (l.drop n)

/-- Accumulate all K of an operation, block by block (R112). -/
def Accum.addExact (x : Accum) (ps : List Pair) : Accum × Nat :=
  (pieces 32 ps.length ps).foldl (fun (x, fl) b =>
    let (y, f) := x.addBlock b
    (y, fl ||| f)) (x, 0)

/-- V of R98 with its specials: the value that a drain rounds, and INVALID for both infinities (R97). An element with NAN set and both
infinities as well sets none (DESIGN CHOICE, log 205). -/
def Accum.value (x : Accum) : Num × Nat :=
  if x.nan then (.nan, 0)
  else if x.pinf && x.ninf then (.nan, flInvalid)
  else if x.pinf || x.ninf then (.inf x.ninf, 0)
  else (.fin false { p := x.p, q := x.q, e := x.a - 64 }, 0)

/-! ### The working accumulator (R100) -/

/-- The working format W: FP32's range with a 32-bit significand. -/
def wfmt : Fmt :=
  { w := 40, mb := 31, bias := 127, top := 255 * 2 ^ 31 - 1, inf := some (255 * 2 ^ 31), nan := some (255 * 2 ^ 31 + 2 ^ 30),
    sat := false }

/-- Round an exact result to W. -/
def toW : Option Num → Num × Nat
  | none => (.nan, flInvalid)
  | some v =>
    let r := encFp wfmt .rne true v
    (decFp wfmt r.1, r.2)

/-- w(x + y). -/
def wAdd (a b : Num × Nat) : Num × Nat :=
  let r := toW (addNum a.1 b.1)
  (r.1, a.2 ||| b.2 ||| r.2)

/-- p[t] of R100; a skipped term is +0 (R145), and a NaN operand sets NAN_IN. -/
def wMul : Pair → Num × Nat
  | none => (.fin false { p := 0 }, 0)
  | some (u, v) =>
    let r := toW (mulNum u v)
    (r.1, r.2 ||| (if u = .nan || v = .nan then flNanIn else 0))

/-- One group of eight: the tree of R100. -/
def wGroup (ps : List Pair) : Num × Nat :=
  let p := fun i => wMul (ps.getD i none)
  wAdd (wAdd (wAdd (p 0) (p 1)) (wAdd (p 2) (p 3))) (wAdd (wAdd (p 4) (p 5)) (wAdd (p 6) (p 7)))

/-- The working accumulator as a value. -/
def Accum.wide (x : Accum) : Num :=
  if x.nan then .nan else if x.pinf || x.ninf then .inf x.ninf else .fin false { p := x.wm, e := x.we }

/-- A value as the working accumulator. -/
def Accum.ofWide : Num → Accum
  | .nan => { nan := true }
  | .inf n => { ninf := n, pinf := !n }
  | .fin _ v => { wm := v.p, we := v.e }

/-- Accumulate all K of an operation in groups of eight (R100). -/
def Accum.addWide (x : Accum) (ps : List Pair) : Accum × Nat :=
  let r := (pieces 8 ps.length ps).foldl (fun a g => wAdd a (wGroup g)) (x.wide, 0)
  (Accum.ofWide r.1, r.2)

/-! ### The checksum column (R126 to R128) -/

/-- A finite value as an exact number, zero for a value tracked outside the lanes (R97). -/
def Num.finite : Num → Ex
  | .fin _ x => x
  | _ => { p := 0 }

/-- (B·1)[k] over the columns of one array tile: the sum of the stored entries (R126, R145). -/
def colSum (col : List (Option Num)) : Ex :=
  col.foldl (fun a v => match v with | some x => a.add x.finite | none => a) { p := 0 }

/-- The lanes of an accumulator as one exact sum. -/
def Accum.lanes (x : Accum) : Ex := { p := x.p, q := x.q, e := x.a - 64 }

/-- Permitted difference of one lane, in units of 2^(A − 65) summed exactly (R128). -/
def foldBound (l : List Accum) (q : Bool) : Ex :=
  l.foldl (fun t x => t.add { p := if q then x.foldQ else x.foldP, e := x.a - 65 }) { p := 0 }

/-- How the check of one output row ends (R128). -/
inductive RowCheck where
  | pass | skip | fail
  deriving DecidableEq, Repr

/-- Compare the row's product cells with its checksum cell, lane by lane. -/
def checkRow (cells : List Accum) (chk : Accum) : RowCheck :=
  let all := chk :: cells
  if all.any (fun x => x.foldP == 0xFFFFFFFF || x.foldQ == 0xFFFFFFFF) then .skip
  else
    let d : Ex := (cells.foldl (fun (t : Ex) x => t.add x.lanes) { p := 0 }).add chk.lanes.neg
    let dp : Ex := { p := d.p.natAbs, e := d.e }
    let dq : Ex := { p := d.q.natAbs, e := d.e }
    if (foldBound all false).lt dp || (foldBound all true).lt dq then .fail else .pass

end Sys2Proof.Machine
end

