-- ==== Sys2Proof/Machine/Tensor.lean ====
section
/-! DEFINITION. The tensor engine: issue checks (R105 to R110, R115, R116, R135, R137, R140, R148, R215), operands and
sparsity (R134 to R147), computation and drain (R112, R118 to R125), and checks (R126 to R131). An operation takes its
whole effect when it starts; its token leaves PENDING when it completes. -/

namespace Sys2Proof.Machine

/-! ### Fields -/

def tnGD (x : Word) : Nat := xFld x 51 5
def tnGM (x : Word) : Nat := xFld x 46 5
def tnFA (x : Word) : Nat := xFld x 41 5
def tnFB (x : Word) : Nat := xFld x 36 5
def tnFD (x : Word) : Nat := xFld x 31 5
def tnClear (x : Word) : Bool := x.getLsbD 30
def tnDrain (x : Word) : Bool := x.getLsbD 29
def tnZskip (x : Word) : Bool := x.getLsbD 28

/-- The form of a tensor operation: 0 mma, 1 mma.s24, 2 mma.seed, 3 mma.rowmask. -/
def tnForm (w : Word) : Nat := if wClass w = 6 then 0 else wOp w + 1

def tnDec (w x : Word) : Bool :=
  wImm w == 0 && wRA w ≤ 15 && wRB w ≤ 15 && wRC w ≤ 15 && xFld x 0 28 == 0 && (tnForm w == 3 || tnGM x == 0)
    && tnFA x < 0x10 && tnFB x < 0x10 && tnFD x < 0x10

/-! ### Layout of a sparse B -/

/-- Kept values per group of four (R137); four when dense. -/
def keptPer (sp : Nat) : Nat := if sp = 1 || sp = 4 then 2 else if sp = 2 then 1 else 4

/-- Bytes of one stored row up to the end of its index run (R83, R137). -/
def bRowBytes (d : BitVec 256) : Nat :=
  let kept := tdCols d * keptPer (tdSparsity d) / 4
  if tdSparsity d = 0 then tdRowBytes d else up64 (runBytes (tdFormat d) kept) + (kept + 3) / 4

/-- Range of B (R108, R141). -/
def bBytes (d : BitVec 256) : Nat := if 3 ≤ tdSparsity d then tdStride d else spanBytes d (bRowBytes d)

/-! ### Issue (R202, R215) -/

/-- B formats that a form accepts (R135). -/
def formTakes (form sp : Nat) : Bool :=
  match form with
  | 0 => sp == 0
  | 1 => sp == 1 || sp == 2
  | 2 => sp == 3 || sp == 4
  | _ => sp ≤ 4

/-- Operand pairs of R105. -/
def pairOk (a b : Nat) : Bool := (exactClass a && exactClass b) || (a == 1 && b == 1) || (a == 2 && b == 2)

/-- Output formats of R110. -/
def outOk (c : Nat) : Bool := [0, 1, 2, 3, 4, 7, 0x0A, 0x0B, 0x0C, 0x0F].contains c

/-- Two ranges of virtual addresses meet (R108). An empty range whose base lies strictly inside the other meets it (DESIGN CHOICE, log
206). -/
def rangesMeet (a n b m : Nat) : Bool := a < b + m && b < a + n

/-- One super-tile or less (R115). -/
def oneSuper (m n : Nat) : Bool := (m ≤ 128 && n ≤ 512) || (m ≤ 512 && n ≤ 128) || (m ≤ 256 && n ≤ 256)

/-- The held set as issue sees it: what the queued operations will have made of it (R116). -/
def Tile.heldView (x : Tile) : Option (BitVec 256 × Bool) :=
  (x.ops.filter (fun o => o.eng == 0 && !o.started)).foldl (fun h o =>
    if !tnDrain o.x then some (o.ta, !exactClass (tnFA o.x)) else if !tnClear o.x then none else h)
    (x.held.map (fun h => (h.d, h.wide)))

/-- Value checks of a tensor operation (step 4 of R202). -/
def State.tnValues (s : State) (t : Nat) (w x : Word) (d a b : BitVec 256) : Bool :=
  let form := tnForm w
  let m := tdRows a
  let n := tdRows b
  let k := tdCols a
  let sp := tdSparsity b
  let gd := s.g t (tnGD x)
  let dn := denseBytes d
  tdOk d && tdOk a && tdOk b && tnFA x == tdFormat a && tnFB x == tdFormat b && tnFD x == tdFormat d
    && tdSparsity a == 0 && tdSparsity d == 0 && formTakes form sp && pairOk (tnFA x) (tnFB x) && outOk (tnFD x)
    && 1 ≤ m && 1 ≤ n && 1 ≤ k && tdCols b == k && tdRows d == m && tdCols d == n
    && (match sp with
      | 1 => k % 64 == 0 && tdStride b % 64 == 0 && bRowBytes b ≤ tdStride b
      | 2 => k % 128 == 0 && tdStride b % 64 == 0 && bRowBytes b ≤ tdStride b
      | 0 => true
      | _ => n % 128 == 0 && k % 128 == 0)
    && tdRowBytes d ≤ tdStride d
    && !rangesMeet (tdBase d) dn (tdBase a) (denseBytes a) && !rangesMeet (tdBase d) dn (tdBase b) (bBytes b)
    && (tnGD x == 0 || !rangesMeet (tdBase d) dn gd.toNat 64)
    && (tnDrain x || oneSuper m n)
    && (form != 3 || (tnClear x && tnDrain x))
    && (tnClear x || (match (s.tile t).heldView with
      | none => true
      | some (h, wide) => h == d && wide == !exactClass (tnFA x)))

/-- Steps 4 to 6 of R202 for a tensor operation. The row stride of a Seedmap, which holds a length, may have any value (R141;
DESIGN CHOICE, log 159). -/
def State.tnChk (s : State) (t : Nat) (w x : Word) : Option Nat :=
  let c := (s.tile t).core
  let d := c.getTd (wRA w)
  let a := c.getTd (wRB w)
  let b := c.getTd (wRC w)
  let gd := s.g t (tnGD x)
  if !s.tnValues t w x d a b then some 1
  else if tdBase d % 64 != 0 || tdStride d % 64 != 0 || tdBase a % 64 != 0 || tdStride a % 64 != 0
      || tdBase b % 64 != 0 || (tdSparsity b ≤ 2 && tdStride b % 64 != 0) || (tnGD x != 0 && gd.toNat % 64 != 0)
      || (tnForm w == 3 && (s.g t (tnGM x)).toNat % 64 != 0) then some 3
  else if s.vaOk t (BitVec.ofNat 64 (tdBase a)) (denseBytes a) 0 ownTargets
      && s.vaOk t (BitVec.ofNat 64 (tdBase b)) (bBytes b) 0 ownTargets
      && s.vaOk t (BitVec.ofNat 64 (tdBase d)) (denseBytes d) 1 ownTargets
      && (tnGD x == 0 || s.vaOk t gd 64 0 ownTargets) then none
  else some 4

/-- The drain descriptor of an operation, as a number. -/
def State.tnDesc (s : State) (t : Nat) (o : EngOp) : Nat := if tnGD o.x = 0 then 0 else ofBytes (s.vaRead t o.ge 64)

/-- Drain descriptor, row mask, scales and biases that an operation names (R114, R146): their addresses and lengths. -/
def State.tnNames (s : State) (t : Nat) (o : EngOp) : List (Nat × Nat) :=
  let d := s.tnDesc t o
  let vec := fun a => if a = 0 then [] else [(a, 4 * tdCols o.ta)]
  (if tnGD o.x = 0 then [] else [(o.ge.toNat, 64)]) ++ (if tnForm o.w = 3 then [(o.gf.toNat, (tdRows o.tb + 7) / 8)] else [])
    ++ vec (fld d 0 64) ++ vec (fld d 64 64)

/-- From its issue on, writes to what an operation names are noticed (R114). What operations that have ended named is forgotten. -/
def State.tnWatch (s : State) (t : Nat) (o : EngOp) : State :=
  let runs := (s.tnNames t o).flatMap (fun e => runsOf ((s.vaSpots t (BitVec.ofNat 64 e.1) e.2).flatMap Spot.addrs))
  { s with watch := s.watch.filter (fun w => (s.tile w.tile).ops.any (fun p => p.id == w.id))
      ++ runs.map (fun e => { tile := t, id := o.id, addr := e.1, len := e.2 }) }

/-- What a PENDING operation names has been written: the operation's result is undefined (R114, R146). A write of the D of another
operation, or of its own, counts as one too (DESIGN CHOICE, log 158). -/
def State.tnStale (s : State) (t : Nat) (o : EngOp) : Bool := s.watch.any (fun w => w.tile == t && w.id == o.id && w.hit)

/-- Issue a tensor operation; one that continues a held set is marked (R116). -/
def State.issueTensor (s : State) (t : Nat) (w x : Word) : State :=
  s.issueEngine t w x { dec := tnDec w x, chk := fun s => s.tnChk t w x, e := tnGD x, f := tnGM x,
                        prep := fun s o => { o with cont := !tnClear x && (s.tile t).heldView.isSome }
                        post := fun s o => s.tnWatch t o }

def execMma (t : Nat) (w x : Word) (s : State) : Ans := rilax2 "MMA" 6 0 t w (fun s => s.issueTensor t w x) s
def execMmaS24 (t : Nat) (w x : Word) (s : State) : Ans := rilax2 "MMA_S24" 7 0 t w (fun s => s.issueTensor t w x) s
def execMmaSeed (t : Nat) (w x : Word) (s : State) : Ans := rilax2 "MMA_SEED" 7 1 t w (fun s => s.issueTensor t w x) s
def execMmaRowmask (t : Nat) (w x : Word) (s : State) : Ans :=
  rilax2 "MMA_ROWMASK" 7 2 t w (fun s => s.issueTensor t w x) s

/-! ### Reading operands -/

/-- One row along K: none where a position is pruned or skipped. -/
abbrev KRow := List (Option Num)

/-- Values of a row's codes under the row's scales. -/
def rowValues (c : Nat) (scales : List Nat) (codes : List (Option Nat)) : KRow :=
  ((List.range codes.length).zip codes).map (fun (k, b) => b.map (decScaled c (scales.getD (k / 32) 127)))

/-- Skip the all-zero groups of eight of a row of A (R142). -/
def skipGroups (r : KRow) : KRow :=
  (pieces 8 r.length r).flatMap (fun g =>
    if g.all (fun v => match v with | some x => x.isZero | none => true) then g.map (fun _ => none) else g)

/-- Row `r` of A. -/
def State.aRow (s : State) (t : Nat) (d : BitVec 256) (skip : Bool) (r : Nat) : KRow :=
  let v := rowValues (tdFormat d) (s.rowScales t d (tdRowBytes d) r) ((s.rowCodes t d r).map some)
  if skip then skipGroups v else v

/-- Expand kept values to `n` positions (R137). -/
def expand (c per run idx n : Nat) : List (Option Nat) :=
  (List.range n).map (fun k =>
    ((List.range per).find? (fun j => fld idx (2 * (per * (k / 4) + j)) 2 == k % 4)).map (fun j =>
      elemAt c run (per * (k / 4) + j)))

/-- Some group of two indices of `g` groups from group `g0` is not strictly increasing (R138). -/
def badIndex (idx g0 g : Nat) : Bool :=
  (List.range g).any (fun i => fld idx (4 * (g0 + i) + 2) 2 ≤ fld idx (4 * (g0 + i)) 2)

/-- A stored row of B, or the error that feeding it finds. -/
structure BRow where
  err : Option Nat := none
  row : KRow := []
  deriving DecidableEq, Repr

/-- A stored row of an S24 or S14 B (R137 to R139). -/
def State.bRowKept (s : State) (t : Nat) (d : BitVec 256) (r : Nat) : BRow :=
  let c := tdFormat d
  let per := keptPer (tdSparsity d)
  let kept := tdCols d * per / 4
  let a := tdBase d + r * tdStride d
  let run := ofBytes (s.readAt t a (runBytes c kept))
  let idx := ofBytes (s.readAt t (a + up64 (runBytes c kept)) ((kept + 3) / 4))
  { err := if per = 2 && badIndex idx 0 (tdCols d / 4) then some 4 else none
    row := rowValues c (s.rowScales t d (bRowBytes d) r) (expand c per run idx (tdCols d)) }

/-- Bytes of a present block of a Seedmap (R140). -/
def seedBlock (d : BitVec 256) : Nat :=
  if tdSparsity d = 4 then up64 (runBytes (tdFormat d) 128 + 32) else up64 (16 * runBytes (tdFormat d) 16)

/-- A weight tile of a Seedmap: its offset from the base and its bitmap, none when its entry or header is malformed
(R140, R141). A tile whose blocks run past the tensor's length is malformed too (DESIGN CHOICE, log 159). -/
def State.seedTile (s : State) (t : Nat) (d : BitVec 256) (i : Nat) : Option (Nat × Nat) :=
  let off := 64 * ofBytes (s.readAt t (tdBase d + 4 * i) 4)
  if tdStride d < off + 64 then none
  else
    let h := ofBytes (s.readAt t (tdBase d + off) 64)
    let bm := fld h 0 64
    let n := fld h 64 16
    if fld h 80 432 != 0 || n != popCount bm 64 || tdStride d < off + 64 + n * seedBlock d then none else some (off, bm)

/-- One row of 16 positions of a present block, and whether its indices are well ordered. -/
def State.seedRow (s : State) (t : Nat) (d : BitVec 256) (a r : Nat) : Bool × List (Option Nat) :=
  let c := tdFormat d
  if tdSparsity d = 4 then
    let run := ofBytes (s.readAt t a (runBytes c 128))
    let idx := ofBytes (s.readAt t (a + runBytes c 128) 32)
    (!badIndex idx (4 * r) 4, ((expand c 2 run idx 256).drop (16 * r)).take 16)
  else
    let run := ofBytes (s.readAt t (a + r * runBytes c 16) (runBytes c 16))
    (true, (List.range 16).map (fun k => some (elemAt c run k)))

/-- Offset of the scale plane of a Seedmap: after its last weight tile (R140), taken as the one that ends highest, whatever the
order of the directory (DESIGN CHOICE, log 159). -/
def State.seedPlane (s : State) (t : Nat) (d : BitVec 256) : Nat :=
  let n := tdRows d / 128 * (tdCols d / 128)
  up64 ((List.range n).foldl (fun e i =>
    match s.seedTile t d i with
    | some (off, bm) => max e (off + 64 + popCount bm 64 * seedBlock d)
    | none => e) (up64 (4 * n)))

/-- A stored row of a Seedmap B (R140, R141). -/
def State.bRowSeed (s : State) (t : Nat) (d : BitVec 256) (j : Nat) : BRow :=
  let nk := tdCols d / 128
  let tiles := (List.range nk).map (fun tk => s.seedTile t d (j / 128 * nk + tk))
  if tiles.any Option.isNone then { err := some 5 }
  else
    let br := j % 128 / 16
    let parts := tiles.flatMap (fun x =>
      let (off, bm) := x.getD (0, 0)
      (List.range 8).map (fun bc =>
        if bm.testBit (8 * br + bc) then
          s.seedRow t d (tdBase d + off + 64 + popCount bm (8 * br + bc) * seedBlock d) (j % 16)
        else (true, List.replicate 16 none)))
    let n := tdCols d / 32
    let scales := if isBlock (tdFormat d) then (s.readAt t (tdBase d + s.seedPlane t d + j * n) n).map BitVec.toNat else []
    { err := if parts.any (fun p => !p.1) then some 4 else none
      row := rowValues (tdFormat d) scales (parts.flatMap Prod.snd) }

/-- A stored row of B. -/
def State.bRow (s : State) (t : Nat) (d : BitVec 256) (j : Nat) : BRow :=
  match tdSparsity d with
  | 0 => { row := rowValues (tdFormat d) (s.rowScales t d (tdRowBytes d) j) ((s.rowCodes t d j).map some) }
  | 1 | 2 => s.bRowKept t d j
  | _ => s.bRowSeed t d j

/-! ### The drain (R119 to R125) -/

/-- `sr_bits` of R90. -/
def srBits (seed : Word) (i j : Nat) : Nat :=
  let x : Word := seed ^^^ (BitVec.ofNat 64 i <<< 32) ^^^ BitVec.ofNat 64 (j % 2 ^ 32)
  let x := x ^^^ (x >>> 33)
  let x := x * 0xFF51AFD7ED558CCD
  let x := x ^^^ (x >>> 33)
  let x := x * 0xC4CEB9FE1A85EC53
  let x := x ^^^ (x >>> 33)
  (x >>> 40).toNat

/-- Fields of the 64 bytes of a drain descriptor (R122). -/
def ddScale (d : Nat) : Nat := fld d 0 64
def ddBias (d : Nat) : Nat := fld d 64 64
def ddRq (d : Nat) : Nat := fld d 128 32
def ddParam (d : Nat) : Nat := fld d 160 32
def ddAct (d : Nat) : Nat := fld d 192 8
def ddRQ (d : Nat) : Bool := d.testBit 200
def ddSR (d : Nat) : Bool := d.testBit 201
def ddSeed (d : Nat) : Word := BitVec.ofNat 64 (fld d 256 64)
def ddRow (d : Nat) : Nat := fld d 320 32
def ddCol (d : Nat) : Nat := fld d 352 32

/-- No drain descriptor: every field zero makes the drain plain (R119). -/
def ddPlain (d : Nat) : Bool := ddScale d == 0 && ddBias d == 0 && ddAct d == 0 && !ddRQ d

/-- What validating a drain descriptor finds (R125). -/
def State.ddError (s : State) (t d n : Nat) : Option Nat :=
  let vec := fun (a : Nat) => a != 0
  if fld d 202 6 != 0 || fld d 208 48 != 0 || fld d 384 128 != 0 || 6 < ddAct d || (ddParam d != 0 && ddAct d != 2) then
    some 1
  else if ddScale d % 4 != 0 || ddBias d % 4 != 0 then some 2
  else if (vec (ddScale d) && !s.vaOk t (BitVec.ofNat 64 (ddScale d)) (4 * n) 0 ownTargets)
      || (vec (ddBias d) && !s.vaOk t (BitVec.ofNat 64 (ddBias d)) (4 * n) 0 ownTargets) then some 3
  else none

/-- The rounding of D2 (k = 0) or D6 (k = 1) of the element of D at row i and column j (R120). -/
def ddRnd (d k i j : Nat) : Rnd :=
  if ddSR d then
    .sr (srBits (ddSeed d + BitVec.ofNat 64 k) ((ddRow d + i) % 2 ^ 32) ((ddCol d + j) % 2 ^ 32))
  else .rne

/-- Activation of D4 (R123, R124). -/
def activate (act param : Nat) (y : Num) : FRes :=
  match act with
  | 0 => rnd32 y
  | 1 => special 6 0 y
  | 2 => special 7 param y
  | 3 => special 4 0 y
  | 4 => special 5 0 y
  | 5 => special 8 0 y
  | _ => special 9 0 y

/-- Stages D2 to D5 of one element: the value that the last rounding takes, and flags. -/
def State.drainVal (s : State) (t d i j : Nat) (v : Num × Nat) : Num × Nat :=
  if ddPlain d then v
  else
    let vec := fun (a one : Nat) => if a = 0 then one else ofBytes (s.readAt t (a + 4 * j) 4)
    let y := encFp fp32 (ddRnd d 0 i j) false v.1
    let y := (y.1, y.2 ||| v.2)
    let y := if ddScale d = 0 && ddBias d = 0 then y
      else fThen y (fun y => fFma y (f32 (vec (ddScale d) 0x3F800000)) (f32 (vec (ddBias d) 0)))
    let y := if ddAct d = 0 then y else fThen y (activate (ddAct d) (ddParam d))
    let y := if ddRQ d then fThen y (fun y => fMul y (f32 (ddRq d))) else y
    (f32 y.1, y.2)

/-- The mode of an element's last rounding: D2 of a plain drain, D6 otherwise. -/
def lastRnd (d i j : Nat) : Rnd := ddRnd d (bit (!ddPlain d)) i j

/-- Drain one row of D from column `c0` (R119): bytes in the element plane, scale bytes, flags. -/
def State.drainRow (s : State) (t d fd i c0 : Nat) (cells : List (Num × Nat)) : List Byte × List Byte × Nat :=
  let vs : List (Num × Nat) := ((List.range cells.length).zip cells).map (fun (j, v) => s.drainVal t d i (c0 + j) v)
  let fl := vs.foldl (fun a v => a ||| v.2) 0
  if isBlock fd then
    let bs : List (Nat × List (Option Nat) × Nat) :=
      ((List.range (vs.length / 32)).zip (pieces 32 vs.length vs)).map (fun (b, l) =>
        encBlock fd (fun k => lastRnd d i (c0 + 32 * b + k)) (l.map (fun v => some v.1)))
    let codes : List Nat := bs.flatMap (fun (_, l, _) => l.map (fun e => e.getD 0))
    (toBytes (runBytes fd codes.length) (packCodes (widthOf fd) codes), bs.map (fun b => BitVec.ofNat 8 b.1),
      bs.foldl (fun a b => a ||| b.2.2) fl)
  else
    let es := ((List.range vs.length).zip vs).map (fun (j, v) => encElem fd (lastRnd d i (c0 + j)) v.1)
    (toBytes (runBytes fd es.length) (packCodes (widthOf fd) (es.map Prod.fst)), [], es.foldl (fun a e => a ||| e.2) fl)

/-- Write a drained part of row `i` of D. -/
def State.putRow (s : State) (t : Nat) (d : BitVec 256) (i c0 : Nat) (r : List Byte × List Byte × Nat) : State :=
  let s := s.writeAt t (tdBase d + i * tdStride d + runBytes (tdFormat d) c0) r.1
  if r.2.1.isEmpty then s
  else s.writeAt t (tdBase d + planeOff d (tdRowBytes d) + i * (tdCols d / 32) + c0 / 32) r.2.1

/-! ### Running an operation -/

/-- Super-tile rows and columns (R111). -/
def superDims (m n : Nat) : Nat × Nat := if m ≤ 128 then (128, 512) else if n ≤ 128 then (512, 128) else (256, 256)

/-- Operand pairs of one output element. -/
def pairs (a b : KRow) : List Pair :=
  (a.zip b).map (fun (u, v) => match u, v with | some x, some y => some (x, y) | _, _ => none)

/-- (B·1) of an array tile's columns as the second operands of the checksum cell (R126). -/
def sumRow (k : Nat) (cols : List KRow) : List Ex := (List.range k).map (fun i => colSum (cols.map (fun c => c.getD i none)))

/-- The checksum cell's products; a value tracked outside the lanes contributes nothing. -/
def chkPairs (a : KRow) (b : List Ex) : List Pair :=
  (a.zip b).map (fun (u, v) => match u with
    | some (.fin nz x) => some (.fin nz x, .fin false v)
    | _ => none)

/-- Accumulators of one row of a super-tile from column `c0`: cells, checksum cells, flags (R112). -/
def superRow (wide : Bool) (h : Option HeldSet) (n i c0 : Nat) (a : KRow) (cols : List KRow) (sums : List (List Ex)) :
    List Accum × List Accum × Nat :=
  let start : Nat → Accum := fun j => match h with | some x => tget {} x.accs (i * n + c0 + j) | none => {}
  let startC : Nat → Accum := fun b => match h with | some x => tget {} x.chks (i * 4 + c0 / 128 + b) | none => {}
  let cells := ((List.range cols.length).zip cols).map (fun (j, b) =>
    if wide then (start j).addWide (pairs a b) else (start j).addExact (pairs a b))
  let chks := if wide then [] else
    ((List.range sums.length).zip sums).map (fun (b, v) => ((startC b).addExact (chkPairs a v)).1)
  (cells.map Prod.fst, chks, cells.foldl (fun f c => f ||| c.2) 0)

/-- Check the array tiles of one row (R128): the first that fails, and how many were skipped. -/
def checkTiles (cells chks : List Accum) : Option Nat × Nat :=
  let rs := ((pieces 128 cells.length cells).zip chks).map (fun (c, k) => checkRow c k)
  (findIdx (· == .fail) rs 0, (rs.filter (fun r => r == .skip)).length)

/-- The array that computes the output tile of row `p` and column `c` of a super-tile of `sr` rows (R111). -/
def arrayOf (sr p c : Nat) : Nat :=
  if sr = 128 then c / 128 else if sr = 512 then p / 128 else 2 * (p / 128) + c / 128

/-- What a tensor operation does while it runs. -/
structure TRun where
  s : State
  fl : Nat := 0
  /-- a row of an array's tile failed its check: no further row is written (R131) -/
  failed : Option (Nat × Nat) := none
  held : HeldSet
  deriving DecidableEq, Repr

/-- Run one super-tile: its rows, numbered within it, against its columns. -/
def TRun.super (r : TRun) (t : Nat) (o : EngOp) (dd : Nat) (h : Option HeldSet) (sr : Nat) (rows : List (Nat × Nat × KRow))
    (c0 : Nat) (cols : List KRow) : TRun :=
  let d := o.ta
  let n := tdCols d
  let wide := !exactClass (tnFA o.x)
  let sums := if wide then [] else (pieces 128 cols.length cols).map (sumRow (tdCols o.tb))
  rows.foldl (fun r (p, i, a) =>
    let (cells, chks, fl) := superRow wide h n i c0 a cols sums
    let r := { r with fl := r.fl ||| fl }
    if !tnDrain o.x then
      { r with held := { r.held with
          accs := r.held.accs ++ (List.range cells.length).map (fun j => (i * n + c0 + j, cells.getD j {}))
          chks := r.held.chks ++ (List.range chks.length).map (fun b => (i * 4 + c0 / 128 + b, chks.getD b {})) } }
    else if r.failed.isSome then r
    else
      match (if wide then (none, 0) else checkTiles cells chks) with
      | (some b, _) => { r with failed := some (arrayOf sr p (128 * b), i) }
      | (none, skips) =>
        let vals := cells.map (fun c => if wide then (c.wide, 0) else c.value)
        let out := r.s.drainRow t dd (tdFormat d) i c0 vals
        { r with s := (r.s.putRow t d i c0 out).count t 8 skips, fl := r.fl ||| out.2.2 }) r

/-- Where a check fails: row and column of the super-tile, how many rows of each of its tiles were written before, and the array
and row of the report (R131). -/
structure Cut where
  q : Nat
  c : Nat
  before : Nat
  array : Nat
  row : Nat
  deriving DecidableEq, Repr

/-- Run the super-tiles in row-major order (R111); `stopAt` is the column of the first super-tile that is not run, and `cut` where
a check fails. -/
def TRun.all (r : TRun) (t : Nat) (o : EngOp) (dd : Nat) (h : Option HeldSet) (rows : List (Nat × KRow))
    (cols : List KRow) (stopAt : Option Nat) (cut : Option Cut) : TRun :=
  let (sr, sc) := superDims rows.length cols.length
  let sets := pieces sr rows.length rows
  let sets := (((List.range sets.length).zip sets)).take (if stopAt.isSome then 1 else rows.length)
  sets.foldl (fun r (q, rs) =>
    ((List.range ((cols.length + sc - 1) / sc)).zip (pieces sc cols.length cols)).foldl (fun r (c, cs) =>
      let ps := (List.range rs.length).zip rs
      if r.failed.isSome || (match stopAt with | some j => j / sc ≤ c | none => false) then r
      else match cut with
        | some k =>
          if k.q = q && k.c = c then
            { r.super t o dd h sr (ps.filter (fun e => e.1 % 128 < k.before)) (c * sc) cs with failed := some (k.array, k.row) }
          else r.super t o dd h sr ps (c * sc) cs
        | none => r.super t o dd h sr ps (c * sc) cs) r) r

/-- Mark an operation of a tile. -/
def State.markOp (s : State) (t id : Nat) (f : EngOp → EngOp) : State :=
  let x := s.tile t
  s.setTile t { x with ops := updFirst (fun p => p.id == id) f x.ops }

/-- The held set that an operation continues. A set of another D or path, which an operation that failed between them was to
discard, is none: the operation accumulates onto zero (R116, R125; DESIGN CHOICE, log 160). -/
def State.heldFor (s : State) (t : Nat) (o : EngOp) : Option HeldSet :=
  match (s.tile t).held with
  | some h => if o.cont && h.d == o.ta && h.wide == !exactClass (tnFA o.x) then some h else none
  | none => none

/-- Release the held set that a failed or draining operation continued (R116, R125). -/
def State.dropHeld (s : State) (t : Nat) (o : EngOp) : State :=
  if (s.heldFor t o).isSome then s.setTile t { s.tile t with held := none } else s

/-- The operation's rows of A and the rows a mask disables (R146, R147). -/
def State.tnRows (s : State) (t : Nat) (o : EngOp) : List (Nat × KRow) × Nat :=
  let m := tdRows o.tb
  let mask := if tnForm o.w = 3 then s.vaRead t o.gf ((m + 7) / 8) else []
  let on := (List.range m).filter (fun i => tnForm o.w != 3 || maskBit mask i)
  (on.map (fun i => (i, s.aRow t o.tb (tnZskip o.x) i)), m - on.length)

/-- Lines of rows of a tensor, with the scale plane of a block format. -/
def State.rowSpots (s : State) (t : Nat) (d : BitVec 256) (row : Nat) (rows : List Nat) : List Spot :=
  rows.flatMap (fun i => s.vaSpots t (BitVec.ofNat 64 (tdBase d + i * tdStride d)) row)
    ++ (if isBlock (tdFormat d) then rows.flatMap (fun i =>
        s.vaSpots t (BitVec.ofNat 64 (tdBase d + planeOff d row + i * (tdCols d / 32))) (tdCols d / 32)) else [])

/-- What a tensor operation reads: descriptor, scales and biases, row mask, the enabled rows of A, and B (R113, R114, R147). -/
def State.tnReads (s : State) (t : Nat) (o : EngOp) : List Spot :=
  let dd := s.tnDesc t o
  let on := (s.tnRows t o).1.map Prod.fst
  let vec := fun a => if a = 0 || !tnDrain o.x then [] else s.vaSpots t (BitVec.ofNat 64 a) (4 * tdCols o.ta)
  (if tnGD o.x = 0 then [] else s.vaSpots t o.ge 64) ++ vec (ddScale dd) ++ vec (ddBias dd)
    ++ (if tnForm o.w = 3 then s.vaSpots t o.gf ((tdRows o.tb + 7) / 8) else [])
    ++ s.rowSpots t o.tb (tdRowBytes o.tb) on
    ++ (if on.isEmpty then [] else if 3 ≤ tdSparsity o.tc then s.vaSpots t (BitVec.ofNat 64 (tdBase o.tc)) (bBytes o.tc)
        else s.rowSpots t o.tc (bRowBytes o.tc) (List.range (tdRows o.tc)))

/-- Super-tiles of `m` rows and `n` columns (R111). -/
def superCount (m n : Nat) : Nat :=
  let (sr, sc) := superDims m n
  ((m + sr - 1) / sr) * ((n + sc - 1) / sc)

/-- A safety fault of a failed check (R131): no further row is written, and the kernel stops. -/
def State.checkStop (s : State) (t code array row : Nat) : State :=
  (s.safetyStop t).raiseSafety (6 + code % 4) (srcId 1 t) (s.runCtx t).toList
    (BitVec.ofNat 64 (array % 4 + row % 2 ^ 24 * 2 ^ 8))

/-- A tensor operation starts: it validates its drain descriptor and row mask, computes and drains (R112, R125, R146). Where a
check of code `cut.1` fails, it writes the rows before it (R131). -/
def State.tnStart (s : State) (t : Nat) (o : EngOp) (cut : Option (Nat × Cut)) : State :=
  let d := o.ta
  let dd := s.tnDesc t o
  match s.ddError t dd (tdCols d) with
  | some e => (s.dropHeld t o).endOp t o (some e)
  | none =>
    if tnForm o.w = 3 && !s.vaOk t o.gf ((tdRows o.tb + 7) / 8) 0 ownTargets then (s.dropHeld t o).endOp t o (some 6)
    else
      let (rows, masked) := s.tnRows t o
      let bs := (List.range (tdRows o.tc)).map (s.bRow t o.tc)
      let h := s.heldFor t o
      let bad := if rows.isEmpty then none else (List.range bs.length).find? (fun j => (bs.getD j {}).err.isSome)
      let r0 : TRun := { s, held := { d, wide := !exactClass (tnFA o.x), fmt := tnFA o.x, accs := [], chks := [] } }
      let r := r0.all t o dd h rows (bs.map BRow.row) bad (cut.map Prod.snd)
      match r.failed, bad with
      | some (array, row), _ => r.s.checkStop t ((cut.map Prod.fst).getD 0) array row
      | none, some j => (r.s.dropHeld t o).endOp t { o with flags := BitVec.ofNat 16 r.fl } (bs.getD j {}).err
      | none, none =>
        let s := (r.s.count t 4 (superCount rows.length (tdCols d))).count t 7 masked
        let s := if tnDrain o.x then s.dropHeld t o else s.setTile t { s.tile t with held := some r.held }
        s.markOp t o.id (fun p => { p with started := true, flags := BitVec.ofNat 16 r.fl })

/-- The oldest tensor operation that has not started, none while it waits its turn. -/
def Tile.nextTensor (x : Tile) : Option EngOp := x.ops.find? (fun o => o.eng == 0 && !o.started)

/-- A queued tensor operation starts (R125), or an uncorrectable line among its operands stops its kernel (R57). -/
def execTensorOpStart (t : Nat) (res : Res) (s : State) : Ans :=
  match (s.tile t).nextTensor with
  | none => .refused (.notEnabled "TENSOR_OP_START")
  | some o =>
    let l := s.tnReads t o
    if s.engineUe l res then .next (s.readUe t l)
    else .next ((s.countEcc l res).tnStart t o none)

/-- The rows of D hold undefined values (R114; log 158). -/
def State.blurRows (s : State) (t : Nat) (o : EngOp) : State :=
  let l := s.rowSpots t o.ta (tdRowBytes o.ta) (List.range (tdRows o.ta))
  let s' := s.pokeSpots ((List.range l.length).zip l |>.map (fun (i, p) => (p, s.openByte i)))
  { s' with fresh := s'.fresh + 1 }

/-- The oldest started tensor operation completes (R112, R103). Where what the operation names was written while it was PENDING, what it
drained is undefined, and so are the flags that it raises (R114, R146; log 158). -/
def execTensorOpComplete (t : Nat) (s : State) : Ans :=
  match (s.tile t).ops.find? (fun o => o.eng == 0 && o.started) with
  | none => .refused (.notEnabled "TENSOR_OP_COMPLETE")
  | some o =>
    if tnDrain o.x && s.tnStale t o then
      let (v, s) := (s.blurRows t o).draw 8
      .next ((s.count t 3 1).endOp t { o with flags := v.setWidth 16 } none)
    else .next ((s.count t 3 1).endOp t o none)

/-- Where a check of an operation fails, none where the check does not apply to the operation (R111, R129, R130): `i` numbers the
enabled rows. The residue and parity checks fail before a row of the super-tile is written. Which super-tile's column fails is
open, and for these two its row as well (log 161). A drain with no extra stage but RELU or LEAKY may fail the drain check (DESIGN CHOICE,
log 207). -/
def State.cutOf (s : State) (t : Nat) (o : EngOp) (code array row : Nat) : Option Cut :=
  let dd := s.tnDesc t o
  let rows := (s.tnRows t o).1.map Prod.fst
  let n := tdCols o.ta
  let (sr, sc) := superDims rows.length n
  let feed := code = 1 || code = 2
  let qs := (rows.length + sr - 1) / sr
  let pick := (Config.freeBits 32 (2 ^ 64 * (s.fresh + 1))).toNat
  if qs = 0 || 4 ≤ array || (s.ddError t dd n).isSome then none
  else if feed then
    if (code = 2 || !exactClass (tnFA o.x)) && row < max (tdRows o.tb) n then
      some { q := pick / 2 ^ 16 % qs, c := pick % ((n + sc - 1) / sc), before := 0, array, row }
    else none
  else match findIdx (· == row) rows 0 with
    | none => none
    | some i =>
      let p := i % sr
      let cs := (List.range ((n + sc - 1) / sc)).filter (fun c =>
        (List.range (min sc (n - c * sc))).any (fun k => arrayOf sr p k == array))
      if tnDrain o.x && (if code = 0 then exactClass (tnFA o.x) else !ddPlain dd) && !cs.isEmpty then
        some { q := i / sr, c := cs.getD (pick % cs.length) 0, before := p % 128, array, row }
      else none

/-- A check of the tensor engine fails in the next operation to run (R131): the engine writes no row from the failing one on, the
kernel stops as by a safety stop, and the fault is reported. -/
def execTensorCheckFail (t code array row : Nat) (s : State) : Ans :=
  match (s.tile t).nextTensor with
  | none => .refused (.notEnabled "TENSOR_CHECK_FAIL")
  | some o =>
    match s.cutOf t o code array row with
    | none => .refused (.notEnabled "TENSOR_CHECK_FAIL")
    | some k => .next ({ s with fresh := s.fresh + 1 }.tnStart t o (some (code, k)))

end Sys2Proof.Machine
end

