-- ==== Sys2Proof/Machine/Exchange.lean ====
section
/-! DEFINITION. The dispatch unit's operations: `disp`, `comb`, `comb.sum`, `compact` (R149, R159 to R164, R216), messages,
remote memory, barriers and collectives (R185, R188, R189, R217 to R221, R374, R375), and the intake instructions (R155,
R157, R209). The unit begins its operations in issue order (R48), sends at most 256 unanswered messages (R370), and ends the
oldest by its completion row. -/

namespace Sys2Proof.Machine

/-! ### Ranks and fields -/

/-- Member rank of a rank within the kernel's scope (R188, R189). -/
def Run.member (r : Run) (k : Nat) : Nat := if r.launch.one.isSome then r.mrank else k

/-- Kind of a dispatch-unit operation: OP of class 0x7, or 16 + OP of class 0x8. -/
def exKind (w : Word) : Nat := if wClass w = 8 then 16 + wOp w else wOp w

def exTag (x : Word) : Nat := xFld x 40 16
def exGH (x : Word) : Nat := xFld x 51 5
def exGO (x : Word) : Nat := xFld x 46 5
def exRF (x : Word) : Nat := xFld x 55 1
def exRedOp (x : Word) : Nat := xFld x 54 2
def exRedTy (x : Word) : Bool := x.getLsbD 53

/-- Fields decode (R199 and the tables of R216 and R217). -/
def exDec (w x : Word) : Bool :=
  wImm w == 0 && (match exKind w with
    | 5 => wRA w == 0 && wRC w == 0 && xFld x 0 56 == 0
    | 6 => wRA w ≤ 15 && xFld x 0 55 == 0
    | 7 => wRA w ≤ 15 && wRC w == 0 && xFld x 0 56 == 0
    | 8 => wRA w ≤ 15 && wRB w ≤ 15 && xFld x 0 51 == 0
    | 9 => wRA w ≤ 15 && wRB w ≤ 15 && xFld x 0 56 == 0
    | 16 | 17 => xFld x 0 40 == 0
    | 18 | 19 => xFld x 0 46 == 0
    | 20 => wRA w == 0 && wRB w == 0 && wRC w == 0 && xFld x 0 56 == 0
    | 21 => wRB w == 0 && xFld x 0 53 == 0 && exRedOp x != 3
    | 22 | 23 => xFld x 0 56 == 0
    | _ => false)

/-- The g registers that the extension word names. -/
def exE (w x : Word) : Nat := if exKind w = 8 then exGH x else if exKind w = 18 || exKind w = 19 then exGH x else 0
def exF (w x : Word) : Nat := if exKind w = 18 || exKind w = 19 then exGO x else 0

/-! ### Checks at issue (R202 steps 4 to 7) -/

/-- The first of values, alignment, segments and ranks that fails. -/
def firstTrap (values aligned segs ranks : Bool) : Option Nat :=
  if !values then some 1 else if !aligned then some 3 else if !segs then some 4 else if !ranks then some 6 else none

/-- BUNCH_SIZE of the running kernel. -/
def State.runSize (s : State) (t : Nat) : Nat :=
  match (s.tile t).core.run with
  | some r => r.size
  | none => 0

/-- A dense FP32 or BF16 output. -/
def tdPlain (d : BitVec 256) : Bool := tdOk d && tdSparsity d == 0 && tdFormat d ≤ 1

/-- Checks of `disp`, `comb`, `comb.sum` and `compact` (R149, R216). An output of `comb.sum` that is not DENSE raises ILLEGAL_OP, as
one of `comb` does (DESIGN CHOICE, log 182). -/
def State.exChk7 (s : State) (t : Nat) (w x : Word) : Option Nat :=
  let c := (s.tile t).core
  let a := c.getTd (wRA w % 16)
  let b := c.getTd (wRB w % 16)
  let gb := s.g t (wRB w)
  let gc := s.g t (wRC w)
  let gm := s.g t (exGH x)
  let base := fun (d : BitVec 256) => BitVec.ofNat 64 (tdBase d)
  let ok := fun va n kind => s.vaOk t va n kind allTargets
  match exKind w with
  | 5 => firstTrap true (gb.toNat % 64 == 0) (ok gb 64 0) true
  | 6 =>
    firstTrap (tdPlain a && gc.toNat ≤ tdRows a) (gb.toNat % 16 == 0)
      (ok (base a) (denseBytes a) 0 && ok gb (gc.toNat * 16) 0) true
  | 7 =>
    firstTrap (tdOk a && tdSparsity a == 0) (gb.toNat % 64 == 0) (ok (base a) (denseBytes a) 1 && ok gb 64 0) true
  | k =>
    let full := if k = 8 then b else a
    let small := if k = 8 then a else b
    firstTrap (tdOk a && tdOk b && tdSparsity a == 0 && tdSparsity b == 0 && tdFormat a == tdFormat b
        && tdCols a == tdCols b && (k != 8 || tdRows full ≤ tdRows small))
      (tdRowBytes a % 64 == 0 && tdStride a % 64 == 0 && tdStride b % 64 == 0 && (k != 8 || gm.toNat % 64 == 0))
      (ok (base a) (denseBytes a) 1 && ok (base b) (denseBytes b) 0
        && ok gc (64 + 4 * (if k = 8 then tdRows full else tdRows small)) (if k = 8 then 1 else 0)
        && (k != 8 || ok gm ((tdRows full + 7) / 8) 0)) true

/-- Checks of class 0x8 (R188, R217). -/
def State.exChk8 (s : State) (t : Nat) (w x : Word) : Option Nat :=
  let ga := s.g t (wRA w)
  let gb := s.g t (wRB w)
  let n := (s.g t (wRC w)).toNat
  let h := s.g t (exGH x)
  let o := s.g t (exGO x)
  let size := s.runSize t
  let al := fun (v : Word) => v.toNat % 64 == 0
  let ok := fun va n kind => s.vaOk t va n kind allTargets
  let rank := ga.toNat < size
  match exKind w with
  | 16 => firstTrap (64 ≤ n && n ≤ 4096) (al gb && n % 64 == 0) (ok gb n 0) rank
  | 17 => firstTrap (64 ≤ n && n ≤ 4096) (al gb && n % 64 == 0) (ok gb n 1) rank
  | 18 => firstTrap (n ≤ 2 ^ 32 && h.toNat < 262144) (al gb && n % 64 == 0 && al o) (ok gb n 0) rank
  | 19 => firstTrap (n ≤ 2 ^ 32 && h.toNat < 262144) (al gb && n % 64 == 0 && al o) (ok gb n 1) rank
  | 20 => none
  | 21 => firstTrap (64 ≤ n && n ≤ 0x4000000) (al ga && n % 64 == 0) (ok ga n 0 && ok ga n 1) true
  | 22 =>
    let root := match (s.tile t).core.run with | some r => gb.toNat == r.rank | none => false
    firstTrap (64 ≤ n && n ≤ 0x4000000) (al ga && n % 64 == 0) (ok ga n (if root then 0 else 1)) (gb.toNat < size)
  | _ => firstTrap (64 ≤ n && n ≤ 0x4000000) (al ga && al gb && n % 64 == 0) (ok ga (n * size) 1 && ok gb n 0) true

def State.exChk (s : State) (t : Nat) (w x : Word) : Option Nat :=
  if wClass w = 8 then s.exChk8 t w x else s.exChk7 t w x

/-! ### Sending -/

/-- Cut bytes into parts of at most 4,096. -/
def parts4k (bs : List Byte) : List (List Byte) := pieces 4096 (bs.length + 1) bs

/-- Number the elements of a list. -/
def numbered {α : Type} (l : List α) : List (Nat × α) := (List.range l.length).zip l

/-- Record a failing answer: the first in SEQ order sets the detail (R374). -/
def EngOp.fail (o : EngOp) (seq code : Nat) : EngOp :=
  match o.err with
  | none => { o with err := some code, errSeq := seq }
  | some _ => if seq < o.errSeq then { o with err := some code, errSeq := seq } else o

/-- What sending a list of messages gives: the state, the messages sent, those not yet sent, those that cannot be, and a
failure. -/
structure Pumped where
  s : State
  sent : List Sent := []
  rest : List Outgoing := []
  lost : List Outgoing := []
  err : Option Nat := none

/-- A message waits for credit: one of its kind to its rank is unanswered (of the pool, of another row), and no credit has come
(R160, R191, R219; log 50). -/
def creditWaits (un : List Sent) (credits : Table Nat) (m : Outgoing) : Bool :=
  m.kind != 0 && tget 0 credits (creditKey m.kind m.dst) == 0
    && un.any (fun u => u.kind == m.kind && u.dst == m.dst && (m.kind != creditPool || u.info != m.info))

/-- Use the credit that a message needs, if one has come. -/
def State.useCredit (s : State) (t : Nat) (m : Outgoing) : State :=
  let x := s.tile t
  let k := creditKey m.kind m.dst
  if m.kind = 0 || tget 0 x.credits k = 0 then s else s.setTile t { x with credits := tput x.credits k (tget 0 x.credits k - 1) }

/-- A message keeps its place behind another that waits: of one pair and channel, but rows and markers for two intakes do not order
each other (R165, R186). -/
def sameWay (k m : Outgoing) : Bool :=
  k.dst == m.dst && k.chan == m.chan
    && !((k.cls == clsRow || k.cls == clsMarker) && (m.cls == clsRow || m.cls == clsMarker)
      && fld k.param.toNat 0 2 != fld m.param.toNat 0 2)

/-- Send messages of a kernel in order, at most `n` of them; one that waits for credit holds back only those of its way, so that rows
within quota go on to other intakes (R161). A message to a lost rank fails with DISP_MEMBER_LOST (R379), one of an exhausted pair with
SEQ_EXHAUSTED (R367). `un` are the messages already unanswered, `kept` those that wait. -/
def pumpList (t : Nat) (r : Run) : Nat → List Sent → List Outgoing → List Outgoing → State → Pumped
  | _, _, _, [], s => { s }
  | 0, _, _, l, s => { s, rest := l }
  | n + 1, un, kept, m :: l, s =>
    let fail := fun (code : Nat) =>
      let p := pumpList t r (n + 1) un kept l s
      { p with err := some code, lost := m :: p.lost }
    if s.rankLost r.bunch r.epoch m.dst then fail 0x23
    else if !s.pairOpen r.bunch r.mrank m.dst then fail 0x2F
    else if creditWaits un (s.tile t).credits m || kept.any (sameWay m) then
      let p := pumpList t r (n + 1) un (m :: kept) l s
      { p with rest := m :: p.rest }
    else
      let s := if un.any (fun u => u.kind == m.kind && u.dst == m.dst) then s.useCredit t m else s
      let (seq, s) := s.sendMsg r.bunch r.mrank m.dst r.epoch r.gen m.cls m.chan m.len m.param m.payload
      let s := s.count t 12 1
      let u : Sent := { dst := m.dst, seq, cls := m.cls, info := m.info, kind := m.kind }
      let p := pumpList t r n (un ++ [u]) kept l s
      { p with sent := u :: p.sent }

/-- Set the slot of a row in the round of its operation: 0 sent, 1 returned, 2 dropped, 3 failed (R163, R164). -/
def Round.mark (q : Round) (round key v : Nat) : Round :=
  if q.round.toNat = round then { q with slots := tput q.slots key v } else q

/-- Fields of a dispatch descriptor that name its round. -/
def ddRound (d : Nat) : Nat := fld d 400 16

/-- A row that cannot be sent leaves its round: its slot was never sent, and one whose first part has gone out fails (R164). -/
def Round.unsend (q : Round) (round : Nat) (sent : List Sent) (m : Outgoing) : Round :=
  if q.round.toNat != round || m.cls != clsRow then q
  else if sent.any (fun u => u.cls == clsRow && u.info == m.info) then { q with slots := tput q.slots m.info 3 }
  else { q with slots := tdel q.slots m.info }

/-- Messages of an operation that cannot be sent are dropped from its round. -/
def State.unsend (s : State) (t : Nat) (o : EngOp) (sent : List Sent) (l : List Outgoing) : State :=
  let x := s.tile t
  if o.eng = 2 && exKind o.w = 5 then
    s.setTile t { x with rounds := x.rounds.map (fun q => l.foldl (fun q m => q.unsend (ddRound o.dd) sent m) q) }
  else s

/-- Send what one operation still has to send while the unit has fewer than 256 messages unanswered (R370). -/
def State.pumpOp (s : State) (t id : Nat) : State :=
  let x := s.tile t
  match x.core.run, x.ops.find? (fun o => o.id == id) with
  | some r, some o =>
    let un := x.ops.flatMap (fun o => o.unans)
    let p := pumpList t r (256 - un.length) un [] o.todo s
    (p.s.unsend t o (o.unans ++ p.sent) p.lost).markOp t id (fun o =>
      let o := { o with todo := p.rest, unans := o.unans ++ p.sent }
      match p.err with
      | some e => o.fail (2 ^ 48) e
      | none => o)
  | _, _ => s

/-- Send what the operations of a tile's dispatch unit still have to send, in issue order. -/
def State.pump (s : State) (t : Nat) : State :=
  ((s.tile t).ops.filter (fun o => o.eng == 2 && !o.todo.isEmpty)).foldl (fun s o => s.pumpOp t o.id) s

/-- Add messages to an operation. -/
def State.queueOut (s : State) (t id : Nat) (l : List Outgoing) : State :=
  s.markOp t id (fun o => { o with todo := o.todo ++ l })

/-- Read bytes that an operation sends. Bytes of host memory are open here. -/
def State.sendBytes (s : State) (t : Nat) (va : Word) (n : Nat) : List Byte × State :=
  (s.vaRead t va n, { s with fresh := s.fresh + 1 })

/-! ### `disp` (R159 to R162) -/

/-- Fields of a dispatch descriptor held as a number. -/
def ddX (d : Nat) : Nat := fld d 0 64
def ddPairs (d : Nat) : Nat := fld d 64 64
def ddMap (d : Nat) : Nat := fld d 128 64
def ddReport (d : Nat) : Nat := fld d 192 64
def ddCb (d : Nat) : Nat := fld d 256 64
def ddM (d : Nat) : Nat := fld d 320 24
def ddK (d : Nat) : Nat := fld d 344 8
def ddRowBytes (d : Nat) : Nat := fld d 352 16
def ddRetBytes (d : Nat) : Nat := fld d 368 16
def ddEntries (d : Nat) : Nat := fld d 384 16
def ddRetFormat (d : Nat) : Nat := fld d 416 8

/-- Fields of a dispatch descriptor lie in their ranges (R159). -/
def ddFieldsOk (d : Nat) : Bool :=
  fld d 424 88 == 0 && ddX d % 64 == 0 && ddCb d % 64 == 0 && 1 ≤ ddM d && 1 ≤ ddK d && ddK d ≤ 8
    && ddRowBytes d % 64 == 0 && 64 ≤ ddRowBytes d && ddRowBytes d ≤ 16384 && ddRetBytes d % 64 == 0
    && 1 ≤ ddEntries d && ddEntries d ≤ 1024 && ddRetFormat d ≤ 1 && ddMap d % 16 == 0

/-- Address ranges of a dispatch descriptor pass the segment check (R160). -/
def State.ddRangesOk (s : State) (t d : Nat) : Bool :=
  let ok := fun a n kind => s.vaOk t (BitVec.ofNat 64 a) n kind allTargets
  ok (ddX d) (ddM d * ddRowBytes d) 0 && ok (ddPairs d) (ddM d * ddK d * 8) 0 && ok (ddMap d) (ddEntries d * 16) 0
    && (ddReport d == 0 || ok (ddReport d) (ddEntries d * 8) 1) && ok (ddCb d) (ddM d * ddK d * ddRetBytes d) 1

/-- Fields of an expert map entry (R153). -/
def meRank (e : Nat) : Nat := fld e 0 24
def mePolicy (e : Nat) : Nat := fld e 24 8
def meQuota (e : Nat) : Nat := fld e 32 16
def meIntake (e : Nat) : Nat := fld e 48 8
def meHosted (e : Nat) : Bool := meRank e != 0xFFFFFF

/-- Numbers of `n` bytes that bytes hold one after another. -/
def numsOf (n : Nat) (bs : List Byte) : List Nat := (pieces n (bs.length + 1) bs).map ofBytes

/-- Why a `disp` sends nothing (R160), none when it may. A reserved field of a list decides before a range of the same list (DESIGN
CHOICE, log 208). -/
def State.dispErr (s : State) (t d size : Nat) (map pairs : List Nat) : Option Nat :=
  if !ddFieldsOk d then some 0x20
  else if !s.ddRangesOk t d then some 0x21
  else if map.any (fun e => fld e 56 72 != 0 || 3 ≤ mePolicy e || 3 < meIntake e) then some 0x20
  else if map.any (fun e => meHosted e && size ≤ meRank e) then some 0x22
  else if pairs.any (fun p => fld p 16 16 != 0) then some 0x20
  else if pairs.any (fun p => fld p 0 16 != 0xFFFF && ddEntries d ≤ fld p 0 16) then some 0x22
  else none

/-- What `disp` does with one pair: nothing, a row within quota, one beyond it that is sent, or one dropped at the origin. -/
inductive PairFate where
  | absent | within | beyond (spilled : Bool) | dropped
  deriving DecidableEq, Repr

/-- Fates of the pairs in ascending (row, slot): rows are counted per expert (R160). -/
def pairFates (map : List Nat) : List Nat → Table Nat → List PairFate
  | [], _ => []
  | p :: r, n =>
    let e := fld p 0 16
    let m := map.getD e 0xFFFFFF
    if e = 0xFFFF || !meHosted m then .absent :: pairFates map r n
    else
      let k := tget 0 n e
      let f := if k < meQuota m then .within
        else match mePolicy m with
          | 0 => .dropped
          | 1 => .beyond true
          | _ => .beyond false
      f :: pairFates map r (tput n e (k + 1))

/-- The report entry of one expert (R162). -/
def reportEntry (fates : List (Nat × PairFate)) (e : Nat) : List Byte :=
  let n := fun (p : PairFate → Bool) => min 0xFFFF (fates.filter (fun f => f.1 == e && p f.2)).length
  toBytes 2 (n (· == .within)) ++ toBytes 2 (n (fun f => match f with | .beyond _ => true | _ => false))
    ++ toBytes 2 (n (· == .dropped)) ++ [0, 0]

/-- The messages of one sent row (R156, R165, R366). -/
def rowMsgs (dst intake key : Nat) (spilled block : Bool) (bytes : List Byte) : List Outgoing :=
  let ps := parts4k bytes
  (numbered ps).map (fun (i, b) =>
    { dst, cls := clsRow, chan := 3, len := b.length, info := key, kind := bit block * creditPool
      param := BitVec.ofNat 64 (intake % 4 + bit spilled * 2 ^ 8 + bit block * 2 ^ 9 + i * 2 ^ 16 + ps.length * 2 ^ 24)
      payload := b })

/-- The row of one pair, with its tag. -/
def State.pairRow (s : State) (t d : Nat) (r : Run) (i p : Nat) (spilled : Bool) : List Byte :=
  let row := i / ddK d
  toBytes 16 (mkTag r.rank (i % ddK d) spilled row (fld p 32 32) (fld p 0 16) (ddRound d))
    ++ s.readAt t (ddX d + row * ddRowBytes d) (ddRowBytes d)

/-- Map and pairs of a dispatch descriptor. -/
def State.ddMapOf (s : State) (t d : Nat) : List Nat :=
  if ddFieldsOk d then numsOf 16 (s.readAt t (ddMap d) (ddEntries d * 16)) else []
def State.ddPairsOf (s : State) (t d : Nat) : List Nat :=
  if ddFieldsOk d then numsOf 8 (s.readAt t (ddPairs d) (ddM d * ddK d * 8)) else []

/-- `disp` begins. -/
def State.startDisp (s : State) (t : Nat) (r : Run) (o : EngOp) : State :=
  let d := o.dd
  let map := s.ddMapOf t d
  let pairs := s.ddPairsOf t d
  match s.dispErr t d r.size map pairs with
  | some e => s.markOp t o.id (fun o => { o with err := some e })
  | none =>
    let fates := pairFates map pairs []
    let all := numbered (pairs.zip fates)
    let sent := all.filter (fun (_, _, f) => f == .within || f == .beyond true || f == .beyond false)
    let key := fun i => i / ddK d * 8 + i % ddK d
    let host := fun p => r.member (meRank (map.getD (fld p 0 16) 0))
    let rows := sent.flatMap (fun (i, p, f) =>
      rowMsgs (host p) (meIntake (map.getD (fld p 0 16) 0)) (key i) (f == .beyond true) (f == .beyond false)
        (s.pairRow t d r i p (f == .beyond true)))
    let marks := (map.filter meHosted).map (fun e =>
      ({ dst := r.member (meRank e), cls := clsMarker, chan := 3, len := 0, payload := []
         param := BitVec.ofNat 64 (meIntake e % 4 + ddRound d * 2 ^ 16) } : Outgoing))
    let s := { s with fresh := s.fresh + 1 }
    let s := if ddReport d = 0 then s else
      s.writeAt t (ddReport d) ((List.range (ddEntries d)).flatMap
        (reportEntry ((pairs.zip fates).map (fun (p, f) => (fld p 0 16, f)))))
    let s := (s.count t 10 sent.length).count t 11 (fates.filter (· == .dropped)).length
    let x := s.tile t
    let rd : Round := { round := BitVec.ofNat 16 (ddRound d), cb := BitVec.ofNat 64 (ddCb d), k := ddK d
                        retBytes := ddRetBytes d
                        slots := sent.foldl (fun t (i, _, _) => tput t (key i) 0) []
                        dests := sent.foldl (fun t (i, p, _) => tput t (key i) (host p)) [] }
    let s := s.setTile t { x with rounds := x.rounds.filter (fun q => q.round != rd.round) ++ [rd] }
    s.queueOut t o.id (rows ++ marks)

/-! ### `comb` (R163) -/

/-- A result of FP32 arithmetic outside the vector unit: an exact zero is +0 (R76, log 29). -/
def plainZero : Option Num → FRes
  | some v => encFp fp32 .rne false v
  | none => newNan

/-- Bytes of the return of one row: tag, then elements in the return format, padded to 64. -/
def State.combRow (s : State) (t : Nat) (o : EngOp) (tag i : Nat) : List Byte × Nat :=
  let d := o.ta
  let f := if tdFormat d = 0 then fp32 else bf16
  let w := f32 (tagWeight tag)
  let rs := (s.rowCodes t d i).map (fun c =>
    let y := plainZero (mulNum (decFp f c) w)
    if exRF o.x = 0 then y else
      let q := encFp bf16 .rne true (f32 y.1)
      (q.1, y.2 ||| q.2))
  let n := if exRF o.x = 0 then 4 else 2
  let bs := rs.flatMap (fun r => toBytes n r.1)
  (toBytes 16 tag ++ bs ++ List.replicate (up64 bs.length - bs.length) 0, rs.foldl (fun a r => a ||| r.2) 0)

/-- The messages of one return (R165, R366). -/
def retMsgs (dst tag : Nat) (bytes : List Byte) : List Outgoing :=
  let ps := parts4k bytes
  (numbered ps).map (fun (i, b) =>
    { dst, cls := clsReturn, chan := 3, len := b.length, payload := b
      param := BitVec.ofNat 64 (tagRow tag + tagSlot tag * 2 ^ 32 + i * 2 ^ 40 + ps.length * 2 ^ 48) })

/-- `comb` begins. A tag whose origin lies at or beyond BUNCH_SIZE ends it with REMOTE_RANK. -/
def State.startComb (s : State) (t : Nat) (r : Run) (o : EngOp) : State :=
  let n := o.gc.toNat
  let tags := numsOf 16 (s.vaRead t o.gb (n * 16))
  if tags.any (fun g => r.size ≤ tagOrigin g) then s.markOp t o.id (fun o => { o with err := some 0x2A })
  else
    let rows := (numbered tags).map (fun (i, g) => (g, s.combRow t o g i))
    let fl := rows.foldl (fun a e => a ||| e.2.2) 0
    let s := s.markOp t o.id (fun o => { o with flags := BitVec.ofNat 16 fl })
    s.queueOut t o.id (rows.flatMap (fun (g, b, _) => retMsgs (r.member (tagOrigin g)) g b))

/-! ### `comb.sum` (R164) -/

/-- The descriptor's breach of R216, or an address of it that fails the segment check, if any: `comb.sum` reads the combine buffer
(R160). Of both, the first decides (DESIGN CHOICE, log 200). -/
def State.combSumErr (s : State) (t : Nat) (out : BitVec 256) (d : Nat) : Option Nat :=
  let e := if ddRetFormat d = 0 then 4 else 2
  if !ddFieldsOk d || tdRows out != ddM d || 1 < tdFormat out || tdCols out * e != ddRetBytes d then some 0x20
  else if !s.ddRangesOk t d || !s.vaOk t (BitVec.ofNat 64 (ddCb d)) (ddM d * ddK d * ddRetBytes d) 0 allTargets then some 0x21
  else none

/-- The round of an operation's descriptor. -/
def State.opRound (s : State) (t : Nat) (o : EngOp) : Option Round :=
  (s.tile t).rounds.find? (fun q => q.round.toNat == ddRound o.dd)

/-- Sum of the present returns of one element, in ascending slot order (R164). -/
def sumPresent : List (Option Nat) → FRes
  | l => match l.filterMap id with
    | [] => (0, 0)
    | a :: r => r.foldl (fun x y =>
        let z := fAdd (f32 x.1) (f32 y)
        (z.1, x.2 ||| z.2)) (a, 0)

/-- Write the sums of a round (R164); the flags of the adds and conversions. -/
def State.combSums (s : State) (t : Nat) (o : EngOp) (q : Round) : State × Nat :=
  let d := o.dd
  let f := if ddRetFormat d = 0 then fp32 else bf16
  let e := if ddRetFormat d = 0 then 4 else 2
  let cols := tdCols o.ta
  (List.range (ddM d)).foldl (fun (s, fl) row =>
    let slots : List (Option (List Nat)) := (List.range (ddK d)).map (fun k =>
      if tget 2 q.slots (row * 8 + k) = 1 then
        some (numsOf e (s.readAt t (ddCb d + (row * ddK d + k) * ddRetBytes d) (cols * e)))
      else none)
    let rs := (List.range cols).map (fun j =>
      let v := sumPresent (slots.map (fun l => l.map (fun r => (encFp fp32 .rne true (decFp f (r.getD j 0))).1)))
      let z := encElem (tdFormat o.ta) .rne (f32 v.1)
      (z.1, v.2 ||| z.2))
    let s := s.writeAt t (tdBase o.ta + row * tdStride o.ta)
      (toBytes (tdRowBytes o.ta) (packCodes (widthOf (tdFormat o.ta)) (rs.map Prod.fst)))
    (s, rs.foldl (fun a r => a ||| r.2) fl)) (s, 0)

/-! ### `compact` (R149) -/

/-- Copy one row of a dense tensor to another, with its scales (R83, R149). -/
def State.copyRow (s : State) (t : Nat) (dst : BitVec 256) (i : Nat) (src : BitVec 256) (j : Nat) : State :=
  let row := s.readAt t (tdBase src + j * tdStride src) (tdRowBytes src)
  let n := tdCols src / 32
  let sc := if isBlock (tdFormat src) then
      s.readAt t (tdBase src + planeOff src (tdRowBytes src) + j * n) n else []
  let s := s.writeAt t (tdBase dst + i * tdStride dst) row
  if isBlock (tdFormat src) then s.writeAt t (tdBase dst + planeOff dst (tdRowBytes dst) + i * n) sc else s

/-- Gather the enabled rows and write the index list. -/
def State.gatherRows (s : State) (t : Nat) (o : EngOp) : State :=
  let m := tdRows o.tb
  let mask := s.vaRead t o.ge ((m + 7) / 8)
  let on := (List.range m).filter (maskBit mask)
  let s := (numbered on).foldl (fun s (i, j) => s.copyRow t o.ta i o.tb j) s
  s.writeAt t o.gc.toNat (toBytes 4 on.length ++ List.replicate 60 0 ++ on.flatMap (toBytes 4))

/-- Scatter rows by the index list, or COMPACT_RANGE. -/
def State.scatterRows (s : State) (t : Nat) (o : EngOp) : State × Option Nat :=
  let n := ofBytes (s.vaRead t o.gc 4)
  if tdRows o.tb < n then (s, some 0x30)
  else
    let list := numsOf 4 (s.readAt t (o.gc.toNat + 64) (4 * n))
    if list.any (fun i => tdRows o.ta ≤ i) then (s, some 0x30)
    else ((numbered list).foldl (fun s (j, i) => s.copyRow t o.ta i o.tb j) s, none)

/-! ### Messages and remote memory (R219, R220, R374) -/

/-- A held SEND is the one that a `recv` of the running kernel waits for (R219). -/
def recvMatches (r : Run) (o : EngOp) (m : Msg) : Bool :=
  r.owns m (sendOrdinal m) && m.src == r.member o.ga.toNat && fld m.param.toNat 0 16 == exTag o.x

/-- A `recv` takes its message: the lengths must be equal (R219). -/
def State.recvTake (s : State) (t : Nat) (o : EngOp) (m : Msg) : State :=
  if m.payload.length = o.gc.toNat then
    (s.writeSpots (s.vaSpots t o.gb m.payload.length) m.payload).markOp t o.id (fun o => { o with heard := [1] })
  else s.markOp t o.id (fun o => { o with err := some 0x28 })

/-- Hold a SEND at the receiver, or give it to the oldest `recv` that waits for it (R219). One that comes after its launch's kernel has
ended there is held as any other (DESIGN CHOICE, log 212). -/
def State.holdSend (s : State) (t : Nat) (m : Msg) : State :=
  let x := s.tile t
  let o := match x.core.run with
    | some r => x.ops.find? (fun o =>
        o.eng == 2 && o.begun && exKind o.w == 17 && o.heard.isEmpty && o.err.isNone && recvMatches r o m)
    | none => none
  match o with
  | some o => s.recvTake t o m
  | none => s.setTile t { x with unmatched := x.unmatched ++ [m] }

/-- The unit has room for one more unmatched SEND (R219). -/
def Tile.sendRoom (x : Tile) : Bool := x.unmatched.length < 64

/-- A barrier or collective contribution is at most four operations ahead of the tile's kernel (R191). -/
def Tile.contribRoom (x : Tile) (m : Msg) : Bool :=
  let n := fld m.param.toNat 32 16
  match x.core.run with
  | some r =>
    if r.owns m (if m.cls = clsCollData then r.launch.ordinal % 2 ^ 32 else barOrdinal m) then n ≤ x.core.colls + 4
    else n ≤ 4
  | none => n ≤ 4

/-- PARAM of a PUT or GET_REQ (R366). An offset beyond its 44 bits lies beyond every object, and is sent as the largest, so that
the target answers BOUNDS (R220; log 66). -/
def memParam (h o : Nat) : BitVec 64 := BitVec.ofNat 64 (min o (2 ^ 44 - 1) + h % 2 ^ 18 * 2 ^ 44)

/-- `put` begins: PUT messages at ascending offsets. -/
def State.startPut (s : State) (t : Nat) (r : Run) (o : EngOp) : State :=
  let (bs, s) := s.sendBytes t o.gb o.gc.toNat
  s.queueOut t o.id ((numbered (parts4k bs)).map (fun (k, b) =>
    { dst := r.member o.ga.toNat, cls := clsPut, chan := 3, len := b.length, info := k
      param := memParam o.ge.toNat (o.gf.toNat + 4096 * k), payload := b }))

/-- GET_REQ `k` of a `get` (R374). -/
def getReq (r : Run) (o : EngOp) (k : Nat) : Outgoing :=
  { dst := r.member o.ga.toNat, cls := clsGetReq, chan := 2, len := min 4096 (o.gc.toNat - 4096 * k), info := k
    param := memParam o.ge.toNat (o.gf.toNat + 4096 * k), payload := [] }

/-- `get` begins: GET_REQ messages at ascending offsets. -/
def State.startGet (s : State) (t : Nat) (r : Run) (o : EngOp) : State :=
  s.queueOut t o.id ((List.range ((o.gc.toNat + 4095) / 4096)).map (getReq r o))

/-- `send` begins. -/
def State.startSend (s : State) (t : Nat) (r : Run) (o : EngOp) : State :=
  let (bs, s) := s.sendBytes t o.gb o.gc.toNat
  s.queueOut t o.id [{ dst := r.member o.ga.toNat, cls := clsSend, chan := 2, len := bs.length, payload := bs, kind := creditMsg
                       param := BitVec.ofNat 64 (exTag o.x + r.launch.ordinal % 2 ^ 32 * 2 ^ 16) }]

/-! ### Barriers and collectives (R185, R191, R221, R375) -/

/-- PARAM of BAR and COLL_SEQ (R366). -/
def collParam (r : Run) (n : Nat) : BitVec 64 := BitVec.ofNat 64 (r.launch.ordinal % 2 ^ 32 + n % 2 ^ 16 * 2 ^ 32)

/-- The 8 bytes that members compare: length, then OP, TY and kind, then root (log 31). -/
def collWord (o : EngOp) : Nat :=
  let n := o.gc.toNat % 2 ^ 32
  match exKind o.w with
  | 21 => n + (exRedOp o.x + bit (exRedTy o.x) * 4) * 2 ^ 32
  | 22 => n + 16 * 2 ^ 32 + o.gb.toNat % 2 ^ 24 * 2 ^ 40
  | _ => n + 32 * 2 ^ 32

/-- Ranks of a kernel's scope other than its own. -/
def Run.others (r : Run) : List Nat := (List.range r.size).filter (fun k => r.member k != r.mrank)

/-- Input bytes of one 4 KiB segment of the partial results: BF16 partials travel in FP32. -/
def segIn (o : EngOp) : Nat := if exKind o.w = 21 && exRedTy o.x then 2048 else 4096

/-- Segments of a collective. -/
def segCountOf (o : EngOp) : Nat := (o.gc.toNat + segIn o - 1) / segIn o

/-- Key of a landed part. -/
def partKey (src seg : Nat) : Nat := 2 ^ 50 + src * 2 ^ 20 + seg

/-- Parts that a member receives in the data phase. -/
def partsDue (r : Run) (o : EngOp) : Nat :=
  let n := segCountOf o
  if r.size ≤ 1 then 0
  else match exKind o.w with
    | 21 => (if r.mrank = 0 then 0 else n) + (if r.mrank + 1 = r.size then 0 else n)
    | 22 => if r.member o.gb.toNat = r.mrank then 0 else n
    | _ => n * (r.size - 1)

/-- A COLL_DATA message (R366). The flags raised in computing its bytes travel in the bits that R366 leaves unused, so that every
member's result brings its flags (R221; DESIGN CHOICE, log 165). -/
def dataMsg (dst seg n flags : Nat) (bs : List Byte) : Outgoing :=
  { dst, cls := clsCollData, chan := 3, len := bs.length, payload := bs
    param := BitVec.ofNat 64 (seg % 2 ^ 32 + n % 2 ^ 16 * 2 ^ 32 + flags % 2 ^ 16 * 2 ^ 48) }

/-- This member's own bytes of a segment of its buffer. -/
def State.ownSeg (s : State) (t : Nat) (o : EngOp) (va : Word) (seg : Nat) : List Byte :=
  s.readAt t (va.toNat + seg * segIn o) (min (segIn o) (o.gc.toNat - seg * segIn o))

/-- FP32 codes of a segment of the member's buffer (R221: BF16 inputs are widened exactly). -/
def segCodes (o : EngOp) (bs : List Byte) : List Nat :=
  if exRedTy o.x then (numsOf 2 bs).map (fun c => (encFp fp32 .rne true (decFp bf16 c)).1) else numsOf 4 bs

/-- One step of the reduction on the vector unit (R221, R375): any NaN input of MAX and MIN gives the canonical NaN. -/
def reduceOne (op a b : Nat) : FRes :=
  match op with
  | 0 => fAdd (f32 a) (f32 b)
  | _ =>
    if f32 a = .nan || f32 b = .nan then rnd32 .nan
    else rnd32 (if op = 1 then fMax (f32 a) (f32 b) else fMin (f32 a) (f32 b))

/-- The result's bytes in the buffer's type. -/
def resultBytes (o : EngOp) (codes : List Nat) : List Byte × Nat :=
  if exRedTy o.x then
    let rs := codes.map (fun c => encFp bf16 .rne true (f32 c))
    (rs.flatMap (fun r => toBytes 2 r.1), rs.foldl (fun a r => a ||| r.2) 0)
  else (codes.flatMap (toBytes 4), 0)

/-- A part lands at a member: the partial of `allreduce` is reduced and passed on with its flags, data is written (R221, R375). -/
def State.collPart (s : State) (t : Nat) (r : Run) (o : EngOp) (src seg flags : Nat) (bs : List Byte) : State :=
  let s := s.markOp t o.id (fun o => { o with heard := partKey src seg :: o.heard })
  let raise := fun (s : State) (f : Nat) => s.markOp t o.id (fun o => { o with flags := o.flags ||| BitVec.ofNat 16 f })
  match exKind o.w with
  | 21 =>
    if src + 1 = r.mrank then
      let own := segCodes o (s.ownSeg t o o.ga seg)
      let sums := ((numsOf 4 bs).zip own).map (fun (a, b) => reduceOne (exRedOp o.x) a b)
      let fl := sums.foldl (fun a v => a ||| v.2) flags
      if r.mrank + 1 = r.size then
        let (out, f2) := resultBytes o (sums.map Prod.fst)
        let s := (raise s (fl ||| f2)).writeAt t (o.ga.toNat + seg * segIn o) out
        s.queueOut t o.id (r.others.map (fun k => dataMsg k seg o.ordinal (fl ||| f2) out))
      else s.queueOut t o.id [dataMsg (r.mrank + 1) seg o.ordinal fl (sums.flatMap (fun v => toBytes 4 v.1))]
    else (raise s flags).writeAt t (o.ga.toNat + seg * segIn o) bs
  | 22 => s.writeAt t (o.ga.toNat + seg * 4096) bs
  | _ => s.writeAt t (o.ga.toNat + src * o.gc.toNat + seg * 4096) bs

/-! ### What operations read and write -/

/-- What an operation reads of its tile's memory. -/
def State.exReads (s : State) (t : Nat) (o : EngOp) : List Spot :=
  let at' := fun (a n : Nat) => s.vaSpots t (BitVec.ofNat 64 a) n
  let d := o.dd
  match exKind o.w with
  | 5 =>
    s.vaSpots t o.gb 64 ++ (if ddFieldsOk d && s.ddRangesOk t d then
      at' (ddMap d) (ddEntries d * 16) ++ at' (ddPairs d) (ddM d * ddK d * 8) ++ at' (ddX d) (ddM d * ddRowBytes d) else [])
  | 6 => at' (tdBase o.ta) (denseBytes o.ta) ++ s.vaSpots t o.gb (o.gc.toNat * 16)
  | 7 =>
    s.vaSpots t o.gb 64 ++ (match s.opRound t o with
      | some q => if ddFieldsOk d then at' q.cb.toNat (ddM d * ddK d * ddRetBytes d) else []
      | none => [])
  | 8 => at' (tdBase o.tb) (denseBytes o.tb) ++ s.vaSpots t o.ge ((tdRows o.tb + 7) / 8)
  | 9 => at' (tdBase o.tb) (denseBytes o.tb) ++ s.vaSpots t o.gc (64 + 4 * tdRows o.tb)
  | 16 | 18 => s.vaSpots t o.gb o.gc.toNat
  | 21 => s.vaSpots t o.ga o.gc.toNat
  | 22 =>
    match (s.tile t).core.run with
    | some r => if o.gb.toNat = r.rank then s.vaSpots t o.ga o.gc.toNat else []
    | none => []
  | 23 => s.vaSpots t o.gb o.gc.toNat
  | _ => []

/-- What an operation writes there. -/
def State.exWrites (s : State) (t : Nat) (o : EngOp) : List Spot :=
  match exKind o.w with
  | 5 =>
    if o.err.isNone && ddReport o.dd != 0 then s.vaSpots t (BitVec.ofNat 64 (ddReport o.dd)) (ddEntries o.dd * 8) else []
  | 7 => s.vaSpots t (BitVec.ofNat 64 (tdBase o.ta)) (denseBytes o.ta)
  | 8 => s.vaSpots t (BitVec.ofNat 64 (tdBase o.ta)) (denseBytes o.ta) ++ s.vaSpots t o.gc (64 + 4 * tdRows o.tb)
  | 9 => s.vaSpots t (BitVec.ofNat 64 (tdBase o.ta)) (denseBytes o.ta)
  | 17 | 19 => s.vaSpots t o.gb o.gc.toNat
  | 21 | 22 => s.vaSpots t o.ga o.gc.toNat
  | 23 => s.vaSpots t o.ga (o.gc.toNat * s.runSize t)
  | _ => []

/-- An operation reads before it sends: an uncorrectable line stops the kernel with the operation withheld, and an access that
fails ends the operation (R57, R230, R270). -/
def State.readFirst (s : State) (t : Nat) (o : EngOp) (go : State → State) : State :=
  let rd := s.exReads t o
  match s.readRes rd with
  | .uncorrectable => s.readUe t rd
  | r =>
    match exErr r with
    | some e => (s.countRefused rd r).markOp t o.id (fun o => { o with err := some e })
    | none => go { s.traffic rd 0 t with fresh := s.fresh + 1 }

/-- The data phase begins: a member sends what it has from the start and writes its own part. -/
def State.collBegin (s : State) (t : Nat) (r : Run) (o : EngOp) : State :=
  (s.markOp t o.id (fun o => { o with started := true })).readFirst t o (fun s =>
    let segs := List.range (segCountOf o)
    match exKind o.w with
    | 21 =>
      if r.mrank = 0 && 1 < r.size then
        s.queueOut t o.id (segs.map (fun k =>
          dataMsg 1 k o.ordinal 0 ((segCodes o (s.ownSeg t o o.ga k)).flatMap (toBytes 4))))
      else s
    | 22 =>
      if r.member o.gb.toNat = r.mrank then
        s.queueOut t o.id (segs.flatMap (fun k => r.others.map (fun d => dataMsg d k o.ordinal 0 (s.ownSeg t o o.ga k))))
      else s
    | _ =>
      let own := s.vaRead t o.gb o.gc.toNat
      let s := s.writeAt t (o.ga.toNat + r.rank * o.gc.toNat) own
      s.queueOut t o.id (segs.flatMap (fun k => r.others.map (fun d => dataMsg d k o.ordinal 0 (s.ownSeg t o o.gb k)))))

/-- Members whose sequencing message an operation has. -/
def EngOp.seqHeard (o : EngOp) : Nat := (o.heard.filter (· < 2 ^ 50)).length

/-- A contribution belongs to a barrier or collective that the running kernel has begun (R185, R324). -/
def contribFor (r : Run) (o : EngOp) (m : Msg) : Bool :=
  o.eng == 2 && o.begun && 20 ≤ exKind o.w && fld m.param.toNat 32 16 == o.ordinal % 2 ^ 16
    && r.owns m (if m.cls = clsCollData then r.launch.ordinal % 2 ^ 32 else barOrdinal m)

/-- Take one held contribution into its operation: a barrier or sequencing message is heard, and compared (R221, R375). -/
def State.takeContrib (s : State) (t : Nat) (r : Run) (id : Nat) (m : Msg) : State :=
  match (s.tile t).ops.find? (fun o => o.id == id) with
  | none => s
  | some o =>
    if m.cls = clsCollData then s.collPart t r o m.src (fld m.param.toNat 0 32) (fld m.param.toNat 48 16) m.payload
    else
      s.markOp t id (fun o =>
        let o := { o with heard := if o.heard.contains m.src then o.heard else m.src :: o.heard }
        if m.cls = clsCollSeq && ofBytes m.payload != collWord o then o.fail 0 0x2D else o)

/-- Take the held contributions of an operation; data waits for the data phase. -/
def State.takeContribs (s : State) (t : Nat) (r : Run) (id : Nat) (data : Bool) : State :=
  match (s.tile t).ops.find? (fun o => o.id == id) with
  | none => s
  | some o =>
    let x := s.tile t
    let mine := fun (m : Msg) => contribFor r o m && (m.cls == clsCollData) == data
    let s := s.setTile t { x with contribs := x.contribs.filter (fun m => !mine m) }
    (x.contribs.filter mine).foldl (fun s m => s.takeContrib t r id m) s

/-- Let a barrier or collective go on: the data phase begins when every member's sequencing message agrees, and its reads are served
(R247, R258). -/
def State.collAdvance (s : State) (t : Nat) (r : Run) (id : Nat) : State :=
  let s := s.takeContribs t r id false
  match (s.tile t).ops.find? (fun o => o.id == id) with
  | none => s
  | some o =>
    if exKind o.w = 20 then s
    else
      let s := if !o.started && o.err.isNone && r.size ≤ o.seqHeard && s.accessOpen t t (s.exReads t o) then s.collBegin t r o else s
      match (s.tile t).ops.find? (fun o => o.id == id) with
      | none => s
      | some o => if o.started then s.takeContribs t r id true else s

/-- A barrier or collective begins: its number within the kernel, its message to every other member, its own part. -/
def State.startColl (s : State) (t : Nat) (r : Run) (o : EngOp) : State :=
  let c := (s.tile t).core
  let n := c.colls + 1
  let s := s.setCore t { c with colls := n }
  let s := s.markOp t o.id (fun o => { o with ordinal := n, heard := [r.mrank] })
  let msg := fun (k : Nat) =>
    if exKind o.w = 20 then
      ({ dst := k, cls := clsBar, chan := 0, len := 0, param := collParam r n, payload := [], kind := creditColl } : Outgoing)
    else { dst := k, cls := clsCollSeq, chan := 0, len := 8, param := collParam r n, payload := toBytes 8 (collWord o),
           kind := creditColl }
  (s.queueOut t o.id (r.others.map msg)).collAdvance t r o.id

/-! ### Waiting messages -/

/-- Try one message that waits for room at a tile: SEND and contributions; whether it was taken. -/
def State.tryHeld (s : State) (t : Nat) (m : Msg) : State × Bool :=
  let x := s.tile t
  if m.cls = clsSend then
    if x.sendRoom then (s.holdSend t m, true) else (s, false)
  else if m.cls = clsBar || m.cls = clsCollSeq || m.cls = clsCollData then
    if x.contribRoom m then
      let s := s.setTile t { x with contribs := x.contribs ++ [m] }
      match x.core.run with
      | none => (s, true)
      | some r =>
        match x.ops.find? (fun o => contribFor r o m) with
        | some o => (s.collAdvance t r o.id, true)
        | none => (s, true)
    else (s, false)
  else (s, false)

/-- Take the waiting messages for which room has come, in arrival order: each returns a credit and then its answer (R191,
R219). -/
def State.retryHeld (s : State) (t : Nat) : State :=
  let l := (s.tile t).early
  let r := l.foldl (fun (a : State × List Msg) m =>
    if isIntakeMsg m then (a.1, a.2 ++ [m])
    else match a.1.tryHeld t m with
      | (s, true) => ((s.sendCredit t m).answer m resOk, a.2)
      | (s, false) => (s, a.2 ++ [m])) (s, [])
  r.1.setTile t { r.1.tile t with early := r.2 }

/-- A waiting `intake.take` retires with its result. -/
def resumeTake (t : Nat) (s : State) (rd : Nat) (v : Word) : State := (s.setG t rd v).retire t 8

/-- Let everything that waits at a tile's dispatch unit go on. -/
def State.settle (s : State) (t : Nat) : State :=
  let s := s.settleIntakes ((s.tile t).early.length + 2) t (resumeTake t)
  (s.retryHeld t).pump t

/-! ### The order of the unit (R48) -/

/-- An operation that reads or writes the tile's memory to its end: those issued behind it begin when it has ended. -/
def exLocal (o : EngOp) : Bool := [7, 8, 9, 17, 19, 21, 22, 23].contains (exKind o.w)

/-- The next operation that the unit begins: every one before it has begun and sent what it sends, and none of them still reads
or writes the tile's memory (R48; log 38). -/
def Tile.nextBegin (x : Tile) : Option EngOp :=
  match (x.ops.filter (fun o => o.eng == 2)).dropWhile (fun o => o.begun && o.todo.isEmpty && !exLocal o) with
  | o :: _ => if o.begun then none else some o
  | [] => none

/-- What an operation does when it begins. -/
def State.exStart (s : State) (t : Nat) (r : Run) (o : EngOp) : State :=
  match exKind o.w with
  | 5 => s.readFirst t o (fun s => s.startDisp t r o)
  | 6 => s.readFirst t o (fun s => s.startComb t r o)
  | 7 =>
    match s.combSumErr t o.ta o.dd with
    | some e => s.markOp t o.id (fun o => { o with err := some e })
    | none => s
  | 16 => s.readFirst t o (fun s => s.startSend t r o)
  | 17 =>
    match (s.tile t).unmatched.find? (recvMatches r o) with
    | some m =>
      let x := s.tile t
      (s.setTile t { x with unmatched := x.unmatched.erase m }).recvTake t o m
    | none => s
  | 18 => s.readFirst t o (fun s => s.startPut t r o)
  | 19 => s.startGet t r o
  | 20 | 21 | 22 | 23 => s.startColl t r o
  | _ => s

/-- The operation with its dispatch descriptor, which it reads as it begins (R160). -/
def State.withDd (s : State) (t : Nat) (o : EngOp) : EngOp :=
  { o with dd := if exKind o.w = 5 || exKind o.w = 7 then ofBytes (s.vaRead t o.gb 64) else 0 }

/-- What an operation reads before it sends can be served: its tiles are awake and its ports give credits (R247, R258). -/
def State.readsOpen (s : State) (t : Nat) (o : EngOp) : Bool :=
  !([5, 6, 16, 18].contains (exKind o.w)) || (s.accessOpen t t (s.exReads t (s.withDd t o))
    && !s.unresolved false (s.moveRes (s.exReads t (s.withDd t o)) [] .ok))

/-- Begin an operation: it reads its descriptor, and its routes are those in force (R160, R268). -/
def State.exBegin (s : State) (t : Nat) (o : EngOp) : State :=
  match (s.tile t).core.run with
  | none => s
  | some r =>
    let o := { s.withDd t o with begun := true }
    let rd := s.exReads t o
    let wr := s.exWrites t o
    let o := { o with
      routesR := s.routesTo (tileRouter t) rd, routesW := s.routesTo (tileRouter t) wr
      cut := s.meetsFailed (tileRouter t) (rd ++ wr), behind := s.ahead t 2 rd ++ s.ahead t 3 wr }
    (((s.markOp t o.id (fun _ => o)).sendCut (tileRouter t) (rd ++ wr)).wakeFor t (rd ++ wr)).exStart t r o

/-- Begin what the unit may begin, `n` operations at most. One that leaves its tile waits while injection is paused (R267), and one
that reads before it sends until its reads are served. -/
def State.advance : Nat → State → Nat → State
  | 0, s, t => s.settle t
  | n + 1, s, t =>
    let s := s.settle t
    match (s.tile t).nextBegin with
    | none => s
    | some o =>
      if s.injectHeld (tileRouter t) (s.exReads t o ++ s.exWrites t o) then s
      else if !s.readsOpen t o then s.wakeFor t (s.exReads t (s.withDd t o))
      else State.advance n (s.exBegin t o) t

/-- Let a tile's dispatch unit go on as far as it can. -/
def State.proceed (s : State) (t : Nat) : State := s.advance (s.tile t).ops.length t

/-- A tile's dispatch unit waits for something that a wake or a new window can bring: an operation, or a message at its receive path. -/
def Tile.unitWaits (x : Tile) : Bool :=
  x.nextBegin.isSome || !x.early.isEmpty || x.ops.any (fun o => o.eng == 2 && o.begun && !o.started && 21 ≤ exKind o.w)

/-- The collectives of a tile whose data phase waits for memory go on. -/
def State.collsOn (s : State) (t : Nat) : State :=
  match (s.tile t).core.run with
  | some r => (s.tile t).ops.foldl (fun s o =>
      if o.eng == 2 && o.begun && !o.started && 21 ≤ exKind o.w then s.collAdvance t r o.id else s) s
  | none => s

/-- A port serves or gives credits again, or a tile is awake: dispatch units that waited go on (R247, R258, R429). -/
def State.unitsGo (s : State) : State :=
  s.tiles.foldl (fun s e => if e.2.unitWaits then (s.collsOn e.1).proceed e.1 else s) s

/-! ### Issue -/

def State.issueEx (s : State) (t : Nat) (w x : Word) : State :=
  s.issueEngine t w x { dec := exDec w x, chk := fun s => s.exChk t w x, e := exE w x, f := exF w x,
                        post := fun s _ => s.proceed t }

def execDisp (t : Nat) (w x : Word) (s : State) : Ans := rilax2 "DISP" 7 5 t w (fun s => s.issueEx t w x) s
def execComb (t : Nat) (w x : Word) (s : State) : Ans := rilax2 "COMB" 7 6 t w (fun s => s.issueEx t w x) s
def execCombSum (t : Nat) (w x : Word) (s : State) : Ans := rilax2 "COMB_SUM" 7 7 t w (fun s => s.issueEx t w x) s
def execCompactG (t : Nat) (w x : Word) (s : State) : Ans := rilax2 "COMPACT_G" 7 8 t w (fun s => s.issueEx t w x) s
def execCompactS (t : Nat) (w x : Word) (s : State) : Ans := rilax2 "COMPACT_S" 7 9 t w (fun s => s.issueEx t w x) s
def execSend (t : Nat) (w x : Word) (s : State) : Ans := rilax2 "SEND" 8 0 t w (fun s => s.issueEx t w x) s
def execRecv (t : Nat) (w x : Word) (s : State) : Ans := rilax2 "RECV" 8 1 t w (fun s => s.issueEx t w x) s
def execPut (t : Nat) (w x : Word) (s : State) : Ans := rilax2 "PUT" 8 2 t w (fun s => s.issueEx t w x) s
def execGet (t : Nat) (w x : Word) (s : State) : Ans := rilax2 "GET" 8 3 t w (fun s => s.issueEx t w x) s
def execBar (t : Nat) (w x : Word) (s : State) : Ans := rilax2 "BAR" 8 4 t w (fun s => s.issueEx t w x) s
def execAllreduce (t : Nat) (w x : Word) (s : State) : Ans := rilax2 "ALLREDUCE" 8 5 t w (fun s => s.issueEx t w x) s
def execBcast (t : Nat) (w x : Word) (s : State) : Ans := rilax2 "BCAST" 8 6 t w (fun s => s.issueEx t w x) s
def execAllgather (t : Nat) (w x : Word) (s : State) : Ans := rilax2 "ALLGATHER" 8 7 t w (fun s => s.issueEx t w x) s

/-! ### Completion -/

/-- An operation has neither a message to send nor one unanswered. -/
def EngOp.quiet (o : EngOp) : Bool := o.todo.isEmpty && o.unans.isEmpty

/-- The dispatch-unit operation of a token: the oldest of the unit (R48). -/
def Tile.exOp (x : Tile) (kd : Nat) : Option EngOp :=
  match x.ops.find? (fun o => o.eng == 2) with
  | some o => if o.kd = kd && o.begun then some o else none
  | none => none

/-- What an operation waits for has come: `disp` waits for its answers only. -/
def State.exReady (s : State) (t : Nat) (o : EngOp) : Bool :=
  let size := s.runSize t
  o.quiet && (o.err.isSome || (match exKind o.w with
    | 7 =>
      match s.opRound t o with
      | some q => q.slots.any (fun e => e.2 == 3) || q.slots.all (fun e => e.2 != 0)
      | none => true
    | 17 => !o.heard.isEmpty
    | 20 => size ≤ o.heard.length
    | 21 | 22 | 23 =>
      match (s.tile t).core.run with
      | some r => o.started && partsDue r o ≤ (o.heard.filter (2 ^ 50 ≤ ·)).length
      | none => false
    | _ => true))

/-- The effect that an operation takes at its end: `comb.sum` and `compact` write; the flags and the error. -/
def State.exEffect (s : State) (t : Nat) (o : EngOp) : State × Nat × Option Nat :=
  match exKind o.w with
  | 7 =>
    match s.opRound t o with
    | none =>
      let (s, fl) := s.combSums t o { round := 0, cb := 0, k := 0, retBytes := 0, slots := [], dests := [] }
      (s, fl, none)
    | some q =>
      if q.slots.any (fun e => e.2 == 3) then (s, 0, some 0x25)
      else
        let (s, fl) := s.combSums t o q
        let x := s.tile t
        (s.setTile t { x with rounds := x.rounds.filter (fun p => p.round != q.round) }, fl, none)
  | 8 => (s.gatherRows t o, 0, none)
  | 9 =>
    let (s, e) := s.scatterRows t o
    (s, 0, e)
  | _ => (s, 0, none)

/-- A dispatch-unit operation ends (R160, R177, R185, R219 to R221); an uncorrectable line that it read stops its kernel (R57). -/
def State.exEnd (s : State) (t : Nat) (o : EngOp) (res : Res) : State :=
  match o.err with
  | some e => s.endOp t o (some e)
  | none =>
    let rd := s.exReads t o
    let wr := s.exWrites t o
    let early := [5, 6, 16, 18].contains (exKind o.w)
    let res := if (rd ++ wr).isEmpty then Res.ok else s.moveRes (if early then [] else rd) wr res
    match res with
    | .uncorrectable => if rd.isEmpty then s.endOp t o none else s.readUe t rd
    | r =>
      match exErr r with
      | some e => (s.countRefused (rd ++ wr) r).endOp t o (some e)
      | none =>
        let s := s.countEcc rd r
        let s := if [7, 8, 9].contains (exKind o.w) then s.traffic rd 0 t else s
        let (s, fl, e) := (s.traffic wr 1 t).exEffect t o
        s.endOp t { o with flags := o.flags ||| BitVec.ofNat 16 fl } e

/-- A dispatch-unit operation can end its accesses: its tiles are awake, its ports give it credits, and its requests are not
held (R247, R258, R267). -/
def State.exOpen (s : State) (t : Nat) (o : EngOp) : Bool :=
  s.accessOpen t t (s.exReads t o ++ s.exWrites t o) && !o.behind.any s.bram.flight.contains

/-- An operation that still sends reads an uncorrectable line: what has gone out stays, the rest is withheld (R57). -/
def State.readsBad (s : State) (t : Nat) (o : EngOp) (res : Res) : Bool :=
  res == .uncorrectable && !o.todo.isEmpty && !(s.exReads t o).isEmpty

/-- The completion row of the unit's oldest operation, if the row is for it: it ends when what it waits for has come. What an operation
has sent it has read without error (R57). -/
def exRow (name : String) (ours : EngOp → Bool) (t kd : Nat) (res : Res) (s : State) : Ans :=
  match (s.tile t).exOp kd with
  | none => .refused (.notEnabled name)
  | some o =>
    match lostRes o.lost res with
    | none => .refused (.notEnabled name)
    | some r =>
      if !ours o || s.unresolved o.cut (s.moveRes (s.exReads t o) (s.exWrites t o) r)
          || (r = .uncorrectable && o.todo.isEmpty && [5, 6, 16, 18].contains (exKind o.w)) then .refused (.notEnabled name)
      else if s.exReady t o && s.exOpen t o then .next ((s.exEnd t o r).proceed t)
      else if s.readsBad t o r then .next (s.readUe t (s.exReads t o))
      else .refused (.notEnabled name)

/-- `disp` is DONE when every row and marker has been accepted or answered (R160). -/
def execDispComplete (t kd : Nat) (s : State) : Ans := exRow "DISP_COMPLETE" (fun o => exKind o.w == 5) t kd .ok s

/-- An operation ends (R177): one of another kind, or a `disp` whose reads did not all come back clean. -/
def execDispatchOpComplete (t kd : Nat) (res : Res) (s : State) : Ans :=
  exRow "DISPATCH_OP_COMPLETE" (fun o => exKind o.w != 5 || res != .ok) t kd res s

/-! ### Intake instructions (R155, R157, R209) -/

/-- Fields and relations of an intake descriptor (R154, R155). -/
def Intake.descOk (x : Intake) : Bool :=
  x.fieldAt 43 21 == 0 && x.buf % 64 == 0 && x.tagVa % 64 == 0 && x.spillVa % 64 == 0 && 1 ≤ x.threshold
    && x.rowsMax % max 1 x.threshold == 0 && x.rowBytes % 64 == 0 && 64 ≤ x.rowBytes && x.rowBytes ≤ 16384
    && 1 ≤ x.origins && x.origins * x.quota ≤ x.rowsMax

/-- Address ranges of an intake descriptor (R66, R155): buffer and tags in the tile's own share, spill in LPDDR5X. -/
def State.intakeRanges (s : State) (t : Nat) (x : Intake) : Bool :=
  let ok := fun a n tg => s.vaOk t (BitVec.ofNat 64 a) n 1 tg
  ok x.buf (x.rowsMax * x.rowBytes) ownTargets && ok x.tagVa (x.rowsMax * 16) ownTargets
    && (x.spillVa == 0 || ok x.spillVa (x.spillRows * (x.rowBytes + 16)) [2])

/-- `intake.open`: open an intake for the round of its descriptor, which the core reads as a load does (R57, R230, R247). -/
def execIntakeOpen (t : Nat) (w : Word) (s : State) : Ans :=
  rilax "INTAKE_OPEN" 3 4 t w (wRA w == 0 && wRC w == 0 && fld (wImm w) 2 35 == 0) (fun s =>
    let i := fld (wImm w) 0 2
    let va := s.g t (wRB w)
    let x := (s.tile t).intake i
    let y : Intake := { desc := BitVec.ofNat 512 (ofBytes (s.vaRead t va 64)), isOpen := true, ever := true
                        parts := x.parts, breaches := x.breaches }
    let y := { y with round := BitVec.ofNat 16 y.roundOf }
    let readable := s.vaOk t va 64 0 coreTargets
    let l := s.vaSpots t va 64
    if x.isOpen then .trap 1 0
    else if va.toNat % 64 != 0 then .trap 3 0
    else if !readable then .trap 4 0
    else if s.coreWaits t l then .hold (s.wakeFor t l)
    else match s.readRes l with
      | .ok =>
        if !y.descOk then .trap 1 0
        else if !s.intakeRanges t y then .trap 4 0
        else .retire ((State.setTile { s.traffic l 0 t with fresh := s.fresh + 1 } t (((s.traffic l 0 t).tile t).setIntake i y)).proceed t)
      | r => .halt (s.accessStop t l r)) s

/-- `intake.take`: free the batch taken before, and return the next released batch or wait for one. -/
def execIntakeTake (t : Nat) (w : Word) (s : State) : Ans :=
  rilax "INTAKE_TAKE" 3 5 t w (wRB w == 0 && wRC w == 0 && fld (wImm w) 2 35 == 0) (fun s =>
    let i := fld (wImm w) 0 2
    let x := (s.tile t).intake i
    if !x.isOpen || x.lastTaken then .trap 1 0
    else
      let s := (s.setTile t ((s.tile t).setIntake i x.freeTaken)).proceed t
      match ((s.tile t).intake i).takeNext with
      | some (y, v) => .retire ((s.setTile t ((s.tile t).setIntake i y)).setG t (wRA w) v)
      | none => .hold (s.setCore t { (s.tile t).core with stall := .intake (wRA w) i })) s

end Sys2Proof.Machine
end

