-- ==== Sys2Proof/Machine/Arrival.lean ====
section
/-! DEFINITION. Messages that arrive: the checks of R373, R42 and R334, delivery by class (R366), answers, FREEZE capture
(R343), epochs (R335), heartbeats and lost members (R167, R379, R380). -/

namespace Sys2Proof.Machine

/-! ### Lost members (R167, R339, R379) -/

/-- An ACTIVE bunch and its ACTIVE ancestors become DEGRADED (R323, R339), until a graft repairs the bunch (R341). -/
def State.degrade (s : State) (b : BitVec 32) : State :=
  let s := s.updBunch b (fun x => { x with hurt := true })
  (s.ancestors 257 b).foldl (fun s a => s.updBunch a (fun x => { x with st := if x.st = 2 then 3 else x.st })) s

/-- Messages of an operation to lost ranks end, and a barrier or collective of which one is a member ends, with DISP_MEMBER_LOST (R221,
R379). A failing answer's detail wins over the loss, which is recorded behind every SEQ (DESIGN CHOICE, log 209). -/
def EngOp.loseRanks (o : EngOp) (r : Run) (ranks : List Nat) : EngOp :=
  if o.eng != 2 || !o.begun then o
  else
    let hit := o.todo.any (fun m => ranks.contains m.dst) || o.unans.any (fun m => ranks.contains m.dst)
      || (20 ≤ exKind o.w && (List.range r.size).any (fun k => ranks.contains (r.member k)))
    let o := { o with todo := o.todo.filter (fun m => !ranks.contains m.dst)
                      unans := o.unans.filter (fun m => !ranks.contains m.dst) }
    if hit then o.fail (2 ^ 48) 0x23 else o

/-- Slots that wait for a return from a lost rank fail (R167). -/
def Round.loseRanks (q : Round) (ranks : List Nat) : Round :=
  { q with slots := q.slots.map (fun (k, v) => (k, if v = 0 && ranks.contains (tget (2 ^ 24) q.dests k) then 3 else v)) }

/-- An open intake that still waits for a marker from a lost rank closes its round with LOST (R167). -/
def Intake.loseRanks (x : Intake) (ranks : List Nat) : Intake :=
  if x.isOpen && !x.closed && ranks.any (fun r => !x.markers.contains r) then x.close true else x

/-- What a tile's dispatch unit does when leaf tiles of the bunch its kernel runs in are lost: the ranks are those of the kernel's
epoch, and rows not yet sent to them leave their rounds (R164). -/
def State.loseOn (s : State) (t : Nat) (b : BitVec 32) : State :=
  let x := s.tile t
  match x.core.run with
  | none => s
  | some r =>
    if r.bunch != b then s
    else
      let bb := s.bunchOf b
      let ranks := (List.range ((bb.mapFor r.epoch).getD bb.map).length).filter (s.rankLost b r.epoch)
      let s := x.ops.foldl (fun s o => s.unsend t o o.unans (o.todo.filter (fun m => ranks.contains m.dst))) s
      let x := s.tile t
      let s := s.setTile t { x with
        ops := x.ops.map (fun o => o.loseRanks r ranks)
        rounds := x.rounds.map (fun q => q.loseRanks ranks)
        intakes := x.intakes.map (fun (i, k) => (i, k.loseRanks ranks)) }
      s.proceed t

/-- Ranks of a bunch are lost: it becomes DEGRADED, and every tile of this module acts on it. -/
def State.loseRanks (s : State) (b : BitVec 32) (ranks : List Nat) : State :=
  if ranks.isEmpty then s
  else
    let s := s.updBunch b (fun x => { x with lost := x.lost ++ ranks.filter (fun r => !x.lost.contains r) })
    let s := { s with comp := { s.comp with waits := s.comp.waits.filter (fun m => !(m.bunch == b && s.rankLost b m.epoch m.dst)) } }
    (s.degrade b).tiles.foldl (fun s e => s.loseOn e.1 b) (s.degrade b)

/-- Lowest leaf rank of a bunch on a module, none when it has none there. -/
def Bunch.lowestOn (x : Bunch) (module : Nat) : Option Nat :=
  ((numbered x.map).find? (fun e => e.2.module == module)).map Prod.fst

/-- Other modules that hold leaf tiles of a bunch. -/
def Bunch.otherModules (x : Bunch) : List Nat := ((x.map.map (·.module)).filter (· != 0)).eraseDups

/-- Ranks of a bunch on a module. -/
def Bunch.ranksOn (x : Bunch) (module : Nat) : List Nat :=
  ((numbered x.map).filter (fun e => e.2.module == module)).map Prod.fst

/-- Send one TC message from this module's lowest rank of a bunch to the lowest rank on another module. -/
def State.sendToModule (s : State) (b : BitVec 32) (module cls len : Nat) (param : BitVec 64) (payload : List Byte) : State :=
  let x := s.bunchOf b
  match x.lowestOn 0, x.lowestOn module with
  | some src, some dst =>
    let gen := match leafAt x.map src with | some t => tget 0 s.stone.gens t | none => 0
    (s.sendMsg b src dst x.epoch gen cls 0 len param payload).2
  | _, _ => s

/-- This module declares ranks of a bunch lost and tells every other module of it (R379). -/
def State.declareLost (s : State) (b : BitVec 32) (ranks : List Nat) : State :=
  let s := s.loseRanks b ranks
  (s.bunchOf b).otherModules.foldl (fun s m =>
    ranks.foldl (fun s r => s.sendToModule b m clsLost 8 (BitVec.ofNat 64 r) (toBytes 8 1)) s) s

/-! ### Epochs (R334, R335) -/

/-- Retire the previous epoch once this module and every other one have drained it (R335). -/
def State.tryRetire (s : State) (b : BitVec 32) : State :=
  s.updBunch b (fun x =>
    if x.prevLive && x.sentDrained && x.otherModules.all (fun m => x.drained.contains m) then
      { x with prevLive := false, prevMap := [], drained := [], sentDrained := false }
    else x)

/-! ### FREEZE (R343) -/

/-- Rank of a leaf in a map: its tile under its generation (R337). -/
def rankOfLeaf (map : List Leaf) (l : Leaf) : Option Nat := findIdx (fun k => k == l) map 0

/-- Key of a marker at an endpoint. -/
def markKey (t src ch : Nat) : Nat := t * 2 ^ 26 + src * 4 + ch

/-- The freezing root for which an arriving message is captured at a tile: the tile has passed its boundary and the channel's
marker has not arrived (R343 step 4). -/
def State.capturing (s : State) (t : Nat) (l : Leaf) (m : Msg) : Option (BitVec 32) :=
  (s.freezingRoots m.bunch).find? (fun b =>
    let x := s.bunchOf b
    match x.freezing, rankOfLeaf x.map l with
    | some ts, some r => ts.contains t && !x.marks.contains (markKey t r m.chan)
    | _, _ => false)

/-- Every endpoint of this module has the markers of every member on every channel. -/
def Bunch.allMarked (x : Bunch) : Bool :=
  match x.freezing with
  | none => false
  | some ts =>
    x.localLeaves.all (fun (_, t) => ts.contains t
      && (List.range x.map.length).all (fun r => x.lost.contains r || (List.range 4).all (fun c => x.marks.contains (markKey t r c))))

/-- Give every bunch nested in one, itself included, a state. -/
def State.setNested (s : State) (b : BitVec 32) (st : Bunch → Nat) : State :=
  let ids := (s.comp.bunches.filter (fun e => e.2.st != 0 && s.nestedIn e.2.id b)).map (fun e => e.2.id)
  ids.foldl (fun s i => s.updBunch i (fun x => { x with st := st x })) s

/-- The bunch and all within it are FROZEN on this module when every endpoint has reported (R343 step 5); one that is FORMING or
DISSOLVING stays so. Their votes follow (R416). -/
def State.tryFrozen (s : State) (b : BitVec 32) : State :=
  if (s.bunchOf b).allMarked then
    ((s.updBunch b (fun x => { x with freezing := none, marks := [] })).setNested b (fun x =>
      if x.st = 1 || x.st = 6 then x.st else 4)).revote
  else s

/-! ### Delivery -/

/-- Classes that are answered (R366). -/
def isAnswered (cls : Nat) : Bool := cls != clsAnswer && cls != clsGetReply

/-- Answer a message of a class that is answered. -/
def State.reply (s : State) (m : Msg) (result : Nat) : State := if isAnswered m.cls then s.answer m result else s

/-- Capture a message: it is answered, and given to its kernel later (R343, R345). -/
def State.capture (s : State) (b : BitVec 32) (t : Nat) (m : Msg) : State :=
  (s.answer m resOk).updBunch b (fun x => { x with captured := x.captured ++ [(t, { m with answered := true })] })

/-- SEND, BAR, COLL_SEQ and COLL_DATA: matched, held or waiting for room (R191, R219). -/
def State.giveHeld (s : State) (t : Nat) (m : Msg) : State :=
  match s.tryHeld t m with
  | (s, true) => (s.answer m resOk).proceed t
  | (s, false) => s.setTile t { s.tile t with early := (s.tile t).early ++ [m] }

/-- A message for a kernel's dispatch unit: captured under FREEZE (R343 step 4), else a ROW or MARKER goes to its intake (R157,
R158) and another is matched, held or waits. -/
def State.gotHeld (s : State) (t : Nat) (l : Leaf) (m : Msg) : State :=
  match s.capturing t l m with
  | some b => s.capture b t m
  | none => if isIntakeMsg m then (s.arriveRow t m).proceed t else s.giveHeld t m

/-- Give a captured message to the kernel it was meant for (R345). -/
def State.deliverCaptured (s : State) (t : Nat) (m : Msg) : State :=
  if isIntakeMsg m then (s.arriveRow t m).proceed t else s.giveHeld t m

/-- Give all that a bunch captured to its kernels (R345, R350). -/
def State.deliverAll (s : State) (b : BitVec 32) : State :=
  (s.bunchOf b).captured.foldl (fun s e => s.deliverCaptured e.1 e.2) (s.updBunch b (fun x => { x with captured := [] }))

/-- Fields of a PUT's or GET_REQ's PARAM (R366). -/
def memHandle (m : Msg) : Nat := fld m.param.toNat 44 18
def memOffset (m : Msg) : Nat := fld m.param.toNat 0 44

/-- The map of a context's bunch at the moment under which traffic of an epoch of `b` is served (R42, R334): where that is the
previous one, the previous map of the context's bunch too, if it lives. -/
def State.mapAt (s : State) (b : BitVec 32) (e : BitVec 16) (id : BitVec 32) : List Leaf :=
  let x := s.bunchOf id
  if e = (s.bunchOf b).epoch || !x.prevLive then x.map else x.prevMap

/-- Conditions 4 and 5 of R42, with R310: where the access leads, or the result that rejects it. The message reached the
endpoint of tile `home`, and tile `t` serves it. -/
def State.remoteLoc (s : State) (home t : Nat) (m : Msg) (kind : Nat) : Except Nat Loc :=
  let o := s.obj (memHandle m)
  let c := s.ctx o.ctx
  let member := o.rank == 0xFFFFFF || leafAt (s.mapAt m.bunch m.epoch c.bunch) o.rank == some home
  let d := tget 0 c.segs o.seg
  let at' := o.off + memOffset m
  let fr : List Nat := tget [] c.frames o.seg
  if !(o.st == 1 && s.nestedIn m.bunch c.bunch && member) then .error resHandle
  else if o.len < memOffset m + m.len || !segValid d || !segAllows d kind || segSize d < o.off + o.len
      || (segTarget d == 4 && !pagesOk fr at' m.len kind) then .error resBounds
  else match s.segLoc o.ctx (some t) none d (s.segNames o.ctx o.seg) at' fr with
    | some l => .ok l
    | none => .error resBounds

/-- Result of an access at the target that did not succeed (R230, R270, R283). -/
def resOfAccess : Res → Option Nat
  | .portFailed => some resState
  | .refused => some resRefused
  | .hostRefused => some resHost
  | _ => none

/-- A request for a share of tile `t` in migration: the endpoint holds it (R329). -/
def State.holdsRequest (s : State) (t : Nat) (l : List Spot) : Bool := s.movesShares t && reaches t l

/-- A message waits in a tile's endpoint buffer (R258, R329). -/
def State.waitAt (s : State) (t : Nat) (m : Msg) : State :=
  s.setTile t { s.tile t with endBuf := (s.tile t).endBuf ++ [m] }

/-- The outcome of a remote access at its target: what the state gives, the routers on its way, else what came about (R57, R230,
R268, R270). -/
def State.targetRes (s : State) (t : Nat) (rd wr : List Spot) (res : Res) : Res :=
  if s.meetsFailed (tileRouter t) (rd ++ wr) then .lost else s.moveRes rd wr res

/-- PUT: checked, written and answered after the write response; one that is lost on its way to memory is not answered (R220,
R268). `home` as in `remoteLoc`. Its bytes count for the serving tile, by whatever port the message came (DESIGN CHOICE, log 213). -/
def State.gotPut (s : State) (home t : Nat) (m : Msg) (res : Res) : State :=
  match s.remoteLoc home t m 1 with
  | .error r => s.answer m r
  | .ok l =>
    let sp := s.spots l m.payload.length
    if s.holdsRequest t sp then s.waitAt t m
    else
      let r := s.targetRes t [] sp res
      match resOfAccess r with
      | some a => (s.countRefused sp r).answer m a
      | none => if r = .lost then s else ((s.traffic sp 1 t).writeSpots sp m.payload).answer m resOk

/-- A GET_REQ is served: its bytes go to the requester in a GET_REPLY. -/
def State.replyGet (s : State) (t : Nat) (m : Msg) (sp : List Spot) (host : HostBytes) : State :=
  let bs := s.readSpots sp host
  let s := s.traffic sp 0 t
  (s.sendMsg m.bunch m.dst m.src m.epoch (tget 0 s.stone.gens t) clsGetReply 3 bs.length m.param bs).2

/-- GET_REQ: checked, read and answered by a GET_REPLY; an uncorrectable line stops the requester's kernel, unless the mirror
copy serves it (R57, R220, R227; log 153). -/
def State.gotGetReq (s : State) (home t : Nat) (l : Leaf) (m : Msg) (res : Res) (host : HostBytes) : State :=
  match s.remoteLoc home t m 0 with
  | .error r => s.answer m r
  | .ok loc =>
    let sp := s.spots loc m.len
    if s.holdsRequest t sp then s.waitAt t m
    else
      let r := s.targetRes t sp [] res
      match resOfAccess r with
      | some a => ((if r = .hostRefused then s.askHost sp else s).countRefused sp r).answer m a
      | none =>
        match r with
        | .lost => s
        | .uncorrectable =>
          if s.copiesClean sp then (s.serveCopies sp).replyGet t m sp host
          else (s.ueRead sp ((s.obj (memHandle m)).ctx :: (if l.module = 0 then (s.runCtx l.tile).toList else []))).answer m resFenced
        | r => (s.countEcc sp r).replyGet t m sp host

/-- GET_REPLY: the data lands in the local destination (R186, R374). -/
def State.gotGetReply (s : State) (t : Nat) (m : Msg) : State :=
  let want := fun (o : EngOp) (u : Sent) =>
    u.cls == clsGetReq && u.dst == m.src && memParam o.ge.toNat (o.gf.toNat + 4096 * u.info) == m.param
  match (s.tile t).ops.find? (fun o => o.unans.any (want o)) with
  | none => s
  | some o =>
    match o.unans.find? (want o) with
    | none => s
    | some u =>
      let s := (s.dropSent m.bunch m.dst m.src u.seq).writeAt t (o.gb.toNat + 4096 * u.info) m.payload
      (s.markOp t o.id (fun o => { o with unans := o.unans.erase u })).proceed t

/-- What the answer to a ROW makes of its slot (R160, R164): a drop notice is counted, a failure fails the slot. -/
def State.answeredRow (s : State) (t : Nat) (o : EngOp) (key r : Nat) : State :=
  if r = resOk then s
  else
    let x := s.tile t
    let s := s.setTile t { x with
      rounds := x.rounds.map (fun q => q.mark (ddRound o.dd) key (if r = resDropped then 2 else 3)) }
    if r = resDropped then s.count t 11 1 else s

/-- ANSWER: settles the message it answers; the first failing answer in SEQ order sets the detail (R366, R374). A GET_REQ that
read an uncorrectable line stops the kernel (R57; log 153). -/
def State.gotAnswer (s : State) (t : Nat) (m : Msg) : State :=
  let seq := fld m.param.toNat 0 48
  let cls := fld m.param.toNat 48 8
  let r := fld m.param.toNat 56 8
  let is := fun (u : Sent) => u.dst == m.src && u.seq == seq && u.cls == cls
  let s := s.dropSent m.bunch m.dst m.src seq
  match (s.tile t).ops.find? (fun o => o.unans.any is) with
  | none => s
  | some o =>
    let info := match o.unans.find? is with | some u => u.info | none => 0
    let s := s.markOp t o.id (fun o =>
      let o := { o with unans := o.unans.filter (fun u => !is u) }
      if r = resOk || r = resDropped || r = resFenced then o else o.fail seq (resDetail r))
    let s := if cls = clsRow then s.answeredRow t o info r else s
    let s := if r = resFenced then s.safetyStop t else s
    s.proceed t

/-- RETURN: written to its combine slot; a return of another length fails the slot (R163, R216). A round that this tile does
not hold, and a slot of one that waits no more, is closed (DEDUCED, log 45). -/
def State.gotReturn (s : State) (t : Nat) (m : Msg) : State :=
  let part := fld m.param.toNat 40 8
  let parts := fld m.param.toNat 48 8
  let x := s.tile t
  let bs := (if part = 0 then [] else tget [] x.retParts (partsKey m)) ++ m.payload
  if part + 1 < parts then (s.setTile t { x with retParts := tput x.retParts (partsKey m) bs }).answer m resOk
  else
    let s := s.setTile t { x with retParts := tdel x.retParts (partsKey m) }
    let x := s.tile t
    let tag := ofBytes (bs.take 16)
    let data := bs.drop 16
    let key := fld m.param.toNat 0 32 * 8 + fld m.param.toNat 32 3
    match x.rounds.find? (fun q => q.round.toNat == tagRound tag) with
    | none => s.answer m resClosed
    | some q =>
      let set := fun (s : State) (v : Nat) => s.setTile t { s.tile t with
        rounds := (s.tile t).rounds.map (fun p => p.mark q.round.toNat key v) }
      if tget 2 q.slots key != 0 then s.answer m resClosed
      else if data.length != q.retBytes then (set s 3).answer m resLength
      else
        let n := fld m.param.toNat 0 32 * q.k + fld m.param.toNat 32 3
        let va := BitVec.ofNat 64 (q.cb.toNat + n * q.retBytes)
        let sp := s.vaSpots t va data.length
        (set ((s.traffic sp 1 t).writeSpots sp data) 1).answer m resOk

/-- FREEZE_MARK: ends capture on its channel (R343). One that comes before this module's own FREEZE is kept for it. -/
def State.gotMark (s : State) (t : Nat) (m : Msg) : State :=
  let s := s.updBunch m.bunch (fun x =>
    if x.freezeNo + (if x.freezing.isSome then 0 else 1) == BitVec.ofNat 32 (fld m.param.toNat 0 32) then
      { x with marks := markKey t m.src m.chan :: x.marks } else x)
  (s.answer m resOk).tryFrozen m.bunch

/-- EPOCH: a module has drained the previous epoch (R335). -/
def State.gotEpoch (s : State) (l : Leaf) (m : Msg) : State :=
  let s := s.updBunch m.bunch (fun x =>
    if fld m.param.toNat 16 8 = 1 && BitVec.ofNat 16 (fld m.param.toNat 0 16) + 1 == x.epoch && !x.drained.contains l.module then
      { x with drained := l.module :: x.drained } else x)
  (s.answer m resOk).tryRetire m.bunch

/-- MEMBER_LOST: passed on to the tiles of this module (R379). -/
def State.gotLost (s : State) (m : Msg) : State :=
  let first := fld m.param.toNat 0 24
  let n := min (ofBytes m.payload) (s.bunchOf m.bunch).map.length
  (s.answer m resOk).loseRanks m.bunch ((List.range n).map (first + ·))

/-- Delivery by class (R366). -/
def State.deliver (s : State) (t : Nat) (l : Leaf) (m : Msg) (res : Res) (host : HostBytes) : State :=
  match m.cls with
  | 0x01 => s.gotAnswer t m
  | 0x02 | 0x06 | 0x07 | 0x0A | 0x0B | 0x0C => s.gotHeld t l m
  | 0x03 => s.gotPut t t m res
  | 0x04 => s.gotGetReq t t l m res host
  | 0x05 => s.gotGetReply t m
  | 0x08 => s.gotReturn t m
  | 0x09 => ((s.addCredit t m).answer m resOk).proceed t
  | 0x0D => s.gotMark t m
  | 0x0E => s.gotEpoch l m
  | 0x0F => s.gotLost m
  | 0x10 => s.answer m resOk
  | _ => s

/-! ### The checks of R373 -/

/-- Count a misrouted message of a runner port (R371, R382). -/
def State.countProtocol (s : State) (port : Option Nat) : State :=
  match port with
  | some p => s.setRunner (p / 4) { s.runner (p / 4) with protocol := satAdd 0xFFFF (s.runner (p / 4)).protocol 1 }
  | none => s

/-- Step 1 fails (R373): the message is dropped, counted and reported in fault 0x0401. -/
def State.dropIntegrity (s : State) (m : Msg) : State :=
  match m.port with
  | none => s
  | some p =>
    let x := s.runner (p / 4)
    (s.setRunner (p / 4) { x with integrity := satAdd 0xFFFF x.integrity 1 }).fault (srcId 4 (p / 4)) 0x0401 none false
      (BitVec.ofNat 64 (p % 4))

/-- Step 1 of R373: the trailer is good, and a bunch that requires encryption has it under a key held for it. -/
def State.intactOk (s : State) (m : Msg) : Bool :=
  m.intact && (m.port.isNone || ((!(s.bunchOf m.bunch).encrypts || m.enc)
    && (!m.enc || s.sec.jobKeys.any (fun k => k.bunch == m.bunch && k.id == m.keyId))))

/-- Steps 3 and 4 of R373: the checks of R42, R334, R337 and R270 in order, then delivery. A message for a tile that sleeps waits
in the endpoint buffer and wakes it (R258, R415), and so does one for a borrowed tile in its self-test (R456). -/
def State.accept (s : State) (m : Msg) (res : Res) (host : HostBytes) : State :=
  let x := s.bunchOf m.bunch
  match x.mapFor m.epoch with
  | none => s.reply m resStale
  | some map =>
    match map[m.dst]?, map[m.src]? with
    | some d, some l =>
      if d.module != 0 then (s.countProtocol m.port).reply m resRank
      else if l.gen != m.srcGen || ((s.tile d.tile).refusing && !s.movesShares d.tile) || x.leafLost d then
        (s.countRefused [] .refused).reply m resRefused
      else if (s.dom d.tile).st != 2 then
        let s := s.waitAt d.tile m
        (s.setTile d.tile { s.tile d.tile with buffered := (s.tile d.tile).buffered + 1 }).evalDom d.tile
      else if s.inBist d.tile then s.waitAt d.tile m
      else s.deliver d.tile l m res host
    | none, _ => (s.countProtocol m.port).reply m resRank
    | some _, none => s.reply m resRank

/-- Give a tile what waits in its endpoint buffer: messages, and requests through BAR4 (R258, R329). -/
def State.emptyBuf (s : State) (t : Nat) : State :=
  State.emptyBars ((s.tile t).endBuf.foldl (fun s m => s.accept m .ok []) (s.setTile t { s.tile t with endBuf := [] })) t

/-- A message, whatever becomes of it, is a sign of life of the module that sent it (R380). -/
def State.hear (s : State) (m : Msg) : State :=
  let x := s.bunchOf m.bunch
  match ((x.mapFor m.epoch).getD x.map)[m.src]? with
  | some l => if l.module = 0 || x.alive.contains l.module then s
    else s.updBunch m.bunch (fun x => { x with alive := l.module :: x.alive })
  | none => s

/-- A message arrives (R373). A duplicate of a GET_REQ that was served is served again (R367; DESIGN CHOICE, log 166). -/
def State.receiveMsg (s : State) (m : Msg) (res : Res) (host : HostBytes) : State :=
  let m := { m with answered := false }
  if !s.intactOk m then s.dropIntegrity m
  else match s.findBunch m.bunch with
    | none => s.reply m resBunch
    | some i =>
      let s := s.hear m
      let x := s.bunch i
      let key := pairKey m.src m.dst * 4 + m.chan % 4
      if m.seq + 1 ≤ tget 0 x.lastSeq key then
        let s := match m.port with
          | some p => s.setRunner (p / 4) { s.runner (p / 4) with duplicates := satAdd 0xFFFF (s.runner (p / 4)).duplicates 1 }
          | none => s
        match x.lastRes.find? (fun e => e.1 == key * 2 ^ 48 + m.seq % 2 ^ 48) with
        | some e => s.reply m e.2
        | none => if m.cls = clsGetReq then s.accept m res host else s
      else
        let s := s.setBunch i { x with lastSeq := tput x.lastSeq key (m.seq + 1) }
        if m.epoch = x.epoch + 1 then s.setBunch i { s.bunch i with heldMsgs := x.heldMsgs ++ [m] }
        else s.accept m res host

/-- A message within the module cannot have arrived: one sent before it on its channel between its endpoints is still on its way
(R261), its packets met a failed router, or a route-around has lost it (R267, R268). -/
def State.outrun (s : State) (m : Msg) : Bool :=
  m.port.isNone && ((s.bram.flight.any (sameMsg m)
      && (s.bram.flight.takeWhile (fun k => !sameMsg m k)).any (fun k => s.sameWay k m))
    || s.bram.flight.any (fun k => samePair k m && k.chan == m.chan && k.seq < m.seq)
    || s.bram.cut.any (sameMsg m) || s.bram.gone.any (sameMsg m))

/-- A message within the module has arrived: it is on its way no more. -/
def State.landed (s : State) (m : Msg) : State :=
  if m.port.isNone then
    { s with bram := { s.bram with flight := s.bram.flight.filter (fun k => !sameMsg m k) } }
  else s

/-- The memory that a PUT or GET_REQ reaches can be reached now: its ports give the target credits (R247). -/
def State.servedNow (s : State) (m : Msg) (kind : Nat) : Bool :=
  match ((s.bunchOf m.bunch).mapFor m.epoch).bind (fun l => leafAt l m.dst) with
  | some t => match s.remoteLoc t t m kind with
    | .ok l => s.accessOpen t t (s.spots l m.len)
    | .error _ => true
  | none => true

/-- A message row: the message that arrives is of the row's class. -/
def msgRow (name : String) (cls : Nat) (m : Msg) (res : Res) (host : HostBytes) (s : State) : Ans :=
  if m.cls != cls then .refused (.otherWord name)
  else if s.outrun m then .refused (.notEnabled name)
  else .next ((s.landed m).receiveMsg m res host)

/-- A PUT or GET_REQ: a route that has failed is the state's to say, so that `lost` is no outcome of its own (R268). -/
def memRow (name : String) (cls kind : Nat) (m : Msg) (res : Res) (host : HostBytes) (s : State) : Ans :=
  if res = .lost || !s.servedNow m kind then .refused (.notEnabled name) else msgRow name cls m res host s

def execRowMessage (m : Msg) (s : State) : Ans := msgRow "ROW_MESSAGE" 0x06 m .ok [] s
def execMarkerMessage (m : Msg) (s : State) : Ans := msgRow "MARKER_MESSAGE" 0x07 m .ok [] s
/-- The combine slot that a RETURN fills can be written now: its ports give the tile credits (R247). -/
def State.returnOpen (s : State) (m : Msg) : Bool :=
  match ((s.bunchOf m.bunch).mapFor m.epoch).bind (fun l => leafAt l m.dst) with
  | some t => (s.tile t).rounds.all (fun q => s.accessOpen t t (s.vaSpots t
      (BitVec.ofNat 64 (q.cb.toNat + (fld m.param.toNat 0 32 * q.k + fld m.param.toNat 32 3) * q.retBytes)) q.retBytes))
  | none => true

def execReturnMessage (m : Msg) (s : State) : Ans :=
  if s.returnOpen m then msgRow "RETURN_MESSAGE" 0x08 m .ok [] s else .refused (.notEnabled "RETURN_MESSAGE")
def execAnswerMessage (m : Msg) (s : State) : Ans := msgRow "ANSWER_MESSAGE" 0x01 m .ok [] s
def execSendMessage (m : Msg) (s : State) : Ans := msgRow "SEND_MESSAGE" 0x02 m .ok [] s
def execPutMessage (m : Msg) (res : Res) (s : State) : Ans := memRow "PUT_MESSAGE" 0x03 1 m res [] s
def execGetReqMessage (m : Msg) (res : Res) (host : HostBytes) (s : State) : Ans :=
  memRow "GET_REQ_MESSAGE" 0x04 0 m res host s
def execGetReplyMessage (m : Msg) (s : State) : Ans := msgRow "GET_REPLY_MESSAGE" 0x05 m .ok [] s
def execCreditMessage (m : Msg) (s : State) : Ans := msgRow "CREDIT_MESSAGE" 0x09 m .ok [] s
def execBarMessage (m : Msg) (s : State) : Ans := msgRow "BAR_MESSAGE" 0x0A m .ok [] s
def execCollSeqMessage (m : Msg) (s : State) : Ans := msgRow "COLL_SEQ_MESSAGE" 0x0B m .ok [] s
def execCollDataMessage (m : Msg) (s : State) : Ans := msgRow "COLL_DATA_MESSAGE" 0x0C m .ok [] s
def execFreezeMarkMessage (m : Msg) (s : State) : Ans := msgRow "FREEZE_MARK_MESSAGE" 0x0D m .ok [] s
def execMemberLostMessage (m : Msg) (s : State) : Ans := msgRow "MEMBER_LOST_MESSAGE" 0x0F m .ok [] s
def execHeartbeatMessage (m : Msg) (s : State) : Ans := msgRow "HEARTBEAT_MESSAGE" 0x10 m .ok [] s

/-! ### Epoch changes, timeouts and heartbeats -/

/-- Serve the messages held for an epoch that this module has now installed (R334). -/
def State.releaseHeld (s : State) (b : BitVec 32) : State :=
  let l := (s.bunchOf b).heldMsgs
  let s := s.updBunch b (fun x => { x with heldMsgs := [] })
  l.foldl (fun s m => s.accept m .ok []) s

/-- Install a bunch's next epoch under a new rank map; the previous stays live (R334). Lost leaves keep their loss under
their new ranks. -/
def State.nextEpoch (s : State) (b : BitVec 32) (map : List Leaf) (prevLive : Bool) : State :=
  let s := s.updBunch b (fun x => { x with
    epoch := x.epoch + 1, prevMap := x.map, prevLive, map, drained := [], sentDrained := false, ordinals := []
    lost := x.lost.filterMap (fun r => (x.map[r]?).bind (rankOfLeaf map)) })
  s.releaseHeld b

/-- Held traffic whose 10 ms have run out is answered with STALE_EPOCH (R334). -/
def execEpochHoldExpire (b : BitVec 32) (s : State) : Ans :=
  match (s.bunchOf b).heldMsgs with
  | m :: r => .next ((s.updBunch b (fun x => { x with heldMsgs := r })).reply m resStale)
  | [] => .refused (.notEnabled "EPOCH_HOLD_EXPIRE")

/-- What this module still has under the previous epoch of a bunch (R335): kernels with their messages, and commands. -/
def State.oldTraffic (s : State) (b : BitVec 32) : Bool :=
  let e := (s.bunchOf b).epoch - 1
  s.tiles.any (fun (_, x) => match x.core.run with
    | some r => r.bunch == b && r.epoch == e
    | none => false)
  || s.hif.queues.any (fun (_, q) => q.cmds.any (fun c => c.bunch == b && c.epoch == e))
  || (s.bram.flight ++ s.bram.cut ++ s.bram.held ++ s.comp.waits ++ s.quads.flatMap (fun (_, q) => q.unans ++ q.txq.flatMap Prod.snd)).any
    (fun m => m.bunch == b && m.epoch == e && isAnswered m.cls)

/-- Remove the oldest waiting message of a tile whose 20 ms are over; its sender's operation ends with MSG_TIMEOUT (R158,
R370). -/
def execEarlyMessageTimeout (t : Nat) (s : State) : Ans :=
  match (s.tile t).early with
  | [] => .refused (.notEnabled "EARLY_MESSAGE_TIMEOUT")
  | m :: r =>
    let s := s.setTile t { s.tile t with early := r }
    let x := s.bunchOf m.bunch
    .next (match leafAt ((x.mapFor m.epoch).getD x.map) m.src with
      | none => s
      | some u =>
        let is := fun (q : Sent) => q.dst == m.dst && q.seq == m.seq
        match (s.tile u).ops.find? (fun o => o.unans.any is) with
        | none => s
        | some o => (s.markOp u o.id (fun o =>
            { o with unans := o.unans.filter (fun q => !is q) }.fail m.seq 0x2E)).proceed u)

/-- The oldest message of a tile with a SEQ that has no answer, and its operation: SEQs repeat over pairs, and the row names none
(DEDUCED, log 197). -/
def Tile.sentWith (x : Tile) (seq : Nat) : Option (EngOp × Sent) :=
  x.ops.findSome? (fun o => (o.unans.find? (fun u => u.seq == seq)).map (fun u => (o, u)))

/-- No answer within 20 ms (R370): that message's operation ends in ERROR. -/
def execMsgTimeout (t : Nat) (seq : Nat) (s : State) : Ans :=
  match (s.tile t).sentWith seq with
  | none => .refused (.notEnabled "MSG_TIMEOUT")
  | some (o, u) =>
    let s := match (s.tile t).core.run with
      | some r => s.dropSent r.bunch r.mrank u.dst seq
      | none => s
    .next ((s.markOp t o.id (fun o => { o with unans := o.unans.erase u }.fail seq 0x2E)).proceed t)

/-- HEARTBEAT to the lowest leaf rank on each other module of a bunch (R380). -/
def execHeartbeatSend (b : BitVec 32) (s : State) : Ans :=
  let x := s.bunchOf b
  if x.st != 0 && !x.otherModules.isEmpty && (x.lowestOn 0).isSome then
    .next (x.otherModules.foldl (fun s m => s.sendToModule b m clsBeat 0 0 []) s)
  else .refused (.notEnabled "HEARTBEAT_SEND")

/-- 500 µs have passed since the last look at another module of a bunch: silence loses its ranks (R380). -/
def execHeartbeatLoss (b : BitVec 32) (module : Nat) (s : State) : Ans :=
  let x := s.bunchOf b
  if x.st != 0 && x.otherModules.contains module then
    if x.alive.contains module then
      .next (s.updBunch b (fun x => { x with alive := x.alive.filter (· != module) }))
    else .next (s.declareLost b (x.ranksOn module))
  else .refused (.notEnabled "HEARTBEAT_LOSS")

end Sys2Proof.Machine
end

