-- ==== Sys2Proof/Machine/Frames.lean ====
section
/-! DEFINITION. Management frames of the orchestrator (R472, R475): sessions, tags, sequence numbers and responses. -/

namespace Sys2Proof.Machine

/-- The open session of an identifier. -/
def State.openSession (s : State) (sid : BitVec 32) : Option Session :=
  s.sec.sessions.find? (fun x => x.isOpen && x.sid == sid)

/-- Update the session of an identifier. -/
def State.updSession (s : State) (sid : BitVec 32) (f : Session → Session) : State :=
  { s with sec := { s.sec with sessions := updFirst (fun x => x.sid == sid) f s.sec.sessions } }

/-- Close a session or an attempt (R474). -/
def State.closeSession (s : State) (sid : BitVec 32) : State :=
  { s with sec := { s.sec with sessions := s.sec.sessions.filter (fun x => x.sid != sid) } }

/-- Respond to a command of a session: the body begins with the command's SEQ (R472, R475). -/
def State.respond (s : State) (f : Frame) (status : BitVec 16) (body : List Byte) : State :=
  match s.openSession f.sid with
  | some x =>
    (s.emit (x.frame status (toBytes 8 f.seq.toNat ++ body))).updSession f.sid
      (fun x => { x with seqOut := x.seqOut + 1 })
  | none => s

/-- A frame is discarded: the sixteenth in a row closes its session (R475). -/
def State.discardFrame (s : State) (f : Frame) : State :=
  match s.openSession f.sid with
  | none => s
  | some x => if 15 ≤ x.discards then s.closeSession f.sid else s.updSession f.sid (fun x => { x with discards := x.discards + 1 })

/-- The K9 accepts the frame (R475). -/
def State.frameOk (s : State) (f : Frame) : Bool :=
  match s.openSession f.sid with
  | some x => f.tagOk && x.seqIn < f.seq.toNat
  | none => false

/-- The frame's SEQ becomes the last accepted. -/
def State.takeFrame (s : State) (f : Frame) : State :=
  s.updSession f.sid (fun x => { x with seqIn := f.seq.toNat, discards := 0 })

/-- What a command answers: the state, the status and the body of the response. -/
structure Reply where
  s : State
  status : BitVec 16 := 0
  body : List Byte := []

/-- Frames of the management network are taken: the crossing of the management MAC runs (R427, R430), and the MGC, which serves them, is
not away for an update (R509; DEDUCED, log 204). -/
def State.mgmtOpen (s : State) : Bool := s.xingRuns 1 && !s.mgcAway

/-- A frame of the management network, of a session or of none: it waits outside until frames are taken. -/
def onMgmt (s : State) (t : State) : Ans := if s.mgmtOpen then .next t else .refused (.notEnabled "MGMT_FRAME")

/-- A management command: accepted, performed and answered; or discarded. -/
def framed (f : Frame) (s : State) (k : State → Reply) : Ans :=
  onMgmt s (if s.frameOk f then
      let r := k (s.takeFrame f)
      r.s.respond f r.status r.body
    else s.discardFrame f)

/-- A command that changes nothing and answers with a status. -/
def Reply.fail (s : State) (status : BitVec 16) : Reply := { s, status }

/-- A command that answers OK. -/
def Reply.ok (s : State) : Reply := { s }

end Sys2Proof.Machine
end

