-- ==== Sys2Proof/Machine/Mailbox.lean ====
section
/-! DEFINITION. The mailbox of R305 and its operations (R306 to R317, R348 to R350, R384, R385, R469). -/

namespace Sys2Proof.Machine

/-! ### Completion -/

/-- An operation completes: STATUS and DETAIL are set, BUSY clears, and MSI-X vector 0 is sent under IRQ (R305). -/
def State.mboxEnd (s : State) (status : BitVec 16) (detail : BitVec 32) : State :=
  let irq := match s.hif.busy with
    | some m => m.irq
    | none => false
  let s := { s with hif := { s.hif with busy := none, status, detail } }
  if irq then s.msix 0 else s

def stOk : BitVec 16 := 0
def stSegment : BitVec 16 := 5
def stNotQuiesced : BitVec 16 := 9
def stIntegrity : BitVec 16 := 0x0C
def stResource : BitVec 16 := 0x0E
def stBusy : BitVec 16 := 0x12
def stBadArg : BitVec 16 := 0x14

/-- Argument `i` of an operation. -/
def Mgmt.arg (m : Mgmt) (i : Nat) : Nat := (m.args.getD i 0).toNat

/-! ### Contexts -/

/-- A bunch that is assigned to this host (R304). -/
def State.hostBunch (s : State) (id : BitVec 32) : Bool :=
  id != 0 && (s.findBunch id).isSome && s.assigned id

/-- A valid context holds the PASID (R304). -/
def State.pasidUsed (s : State) (p : BitVec 20) : Bool := s.hif.ctxs.any (fun e => e.2.valid && e.2.pasid == p)

def State.opCtxCreate (s : State) (m : Mgmt) : State :=
  let id := BitVec.ofNat 32 (fld (m.arg 0) 0 32)
  let p := BitVec.ofNat 20 (fld (m.arg 0) 32 20)
  if 1024 ≤ m.idx then s.mboxEnd stBadArg 0
  else if (s.ctx m.idx).valid then s.mboxEnd stBusy 0
  else if !s.hostBunch id || s.pasidUsed p then s.mboxEnd stBadArg 0
  else (s.setCtx m.idx { valid := true, conf := (s.bunchOf id).conf, pinned := (m.arg 0).testBit 52, pasid := p,
                         bunch := id }).mboxEnd stOk 0

/-- A swap in progress moves the share of a context on a tile, out of residence or into it (R387). -/
def Tile.swaps' (x : Tile) (c : Nat) : Bool :=
  match x.swap with
  | some w => w.ctx == some c || w.victims.any (fun i => (x.slot i).valid && (x.slot i).ctx == c)
  | none => false

/-- CTX_SHARE (R306, R385): it stays BUSY while a clear of R60 or a swap runs for it, while a swap moves the share (R387), and while a
graft moves the shares of its tile (R327; DEDUCED, log 169). -/
def State.opCtxShare (s : State) (m : Mgmt) : State :=
  let c := m.idx
  let n := fld (m.arg 0) 32 9
  match s.rankTile c (fld (m.arg 0) 0 24) with
  | none => s.mboxEnd stBadArg 0
  | some t =>
    let cur := s.granulesOn t c
    if 256 < n then s.mboxEnd stBadArg 0
    else if s.inGraft t || (s.tile t).swaps' c then s
    else if n = cur then s.mboxEnd stOk 0
    else if cur != 0 && (s.ctx c).st != 2 then s.mboxEnd stNotQuiesced 0
    else if n = 0 then
      let s := s.releaseShare t c
      if (s.tile t).clearing.isEmpty then s.mboxEnd stOk 0 else s
    else
      let old := s.shareOn t c
      let bare := s.releaseShare t c
      let bare := bare.setTile t { bare.tile t with clearing := (s.tile t).clearing }
      let clear := fun (s : State) (bm : BitVec 256) =>
        if bm = 0 then s else s.setTile t { s.tile t with clearing := (s.tile t).clearing ++ [(bm, none)] }
      match bare.placing t c n old with
      | .resident i bm => clear (bare.assignShare t c i bm) (old &&& ~~~bm)
      | .standby =>
        let s := clear (bare.addStandby t c n) old
        if (s.tile t).clearing.isEmpty then s.mboxEnd stOk 0 else s
      | .swapOut i v => s.beginSwap t n { ctx := none, slot := i, victims := v }
      | .wait => s
      | .none => s.mboxEnd stResource 0

/-- The mailbox waits in a CTX_SHARE for a share on this tile: the operation, its context and its granule count. -/
def State.sharingOn (s : State) (t : Nat) : Option (Mgmt × Nat × Nat) :=
  match s.hif.busy with
  | some m =>
    if m.op = 2 && s.rankTile m.idx (fld (m.arg 0) 0 24) == some t then some (m, m.idx, fld (m.arg 0) 32 9) else none
  | none => none

/-- A CTX_SHARE that waited on a tile goes on: what it has placed already only clears. -/
def State.shareGoes (s : State) (t : Nat) : State :=
  match s.sharingOn t with
  | some (m, c, n) =>
    let x := s.tile t
    if x.clearing.any (fun e => e.2.isSome && e.2 == x.slotOf c) || (s.granulesOn t c == n && !x.clearing.isEmpty) then s
    else s.opCtxShare m
  | none => s

/-- CTX_SEG (R232); an LPDDR descriptor names the ranges that its ports hold now (R229). -/
def State.opCtxSeg (s : State) (m : Mgmt) : State :=
  let d := BitVec.ofNat 256 (m.arg 0 + m.arg 1 * 2 ^ 64 + m.arg 2 * 2 ^ 128 + m.arg 3 * 2 ^ 192)
  if s.descOk m.idx m.sub d then
    let x := s.ctx m.idx
    let names := if segTarget d = 2 then (s.rangeNames x.bunch (segPorts d), s.rangeNames x.bunch (segMports d)) else ([], [])
    (s.setCtx m.idx { x with segs := tput x.segs m.sub d, names := tput x.names m.sub names }).mboxEnd stOk 0
  else s.mboxEnd stSegment (segDetail 5 m.sub)

def State.opCtxQuiesce (s : State) (m : Mgmt) : State :=
  if (m.arg 0).testBit 0 then (s.abortCtx m.idx false).mboxEnd stOk 0
  else if (s.ctx m.idx).st = 2 then s.mboxEnd stOk 0
  else
    let s := s.stopQueues m.idx
    (s.setCtx m.idx { s.ctx m.idx with st := 1, drainIrq := m.irq }).mboxEnd stOk 0

/-- The bunch of a context, or one that holds it, is FROZEN. -/
def State.frozenCtx (s : State) (c : Nat) : Bool :=
  (s.ancestors 257 (s.ctx c).bunch).any (fun b => (s.bunchOf b).st == 4)

/-- A FREEZE is involved: the context's bunch, or one that holds it, is FROZEN or on its way there (R343). -/
def State.freezes (s : State) (c : Nat) : Bool :=
  s.frozenCtx c || (s.ancestors 257 (s.ctx c).bunch).any (fun b => (s.bunchOf b).freezing.isSome)

/-- CTX_RESUME (R307); where no FREEZE is involved, channel state that an image brought is delivered (R350). -/
def State.opCtxResume (s : State) (m : Mgmt) : State :=
  if (s.ctx m.idx).st != 2 then s.mboxEnd stBusy 0
  else
    let s := s.updQueues m.idx (fun x => { x with st := x.prior })
    let s := s.setCtx m.idx { s.ctx m.idx with st := 0, drainIrq := false, fenced := false }
    (if s.freezes m.idx then s else s.deliverAll (s.ctx m.idx).bunch).mboxEnd stOk 0

/-- Clear what CTX_RESET clears of a context's shares (R308). -/
def State.resetShares (s : State) (c : Nat) : State :=
  s.tiles.foldl (fun s e =>
    let t := e.1
    let s := s.clearGranules t (s.shareOn t c)
    let x := s.tile t
    let x := match x.slotOf c with
      | some i => x.setSlot i { x.slot i with deadline := BitVec.allOnes 64, flags := 0 }
      | none => x
    s.setTile t { x with standby := x.standby.map (fun e =>
      if e.ctx == c then { e with deadline := BitVec.allOnes 64, flags := 0, empty := true, lines := [] } else e) }) s

/-- Write 0 to the credit word of a queue (R308). -/
def State.zeroCredit (s : State) (q : Nat) : State :=
  let x := s.queue q
  s.emit (.dma (s.ctx x.ctx).pasid (fld x.credit.toNat 3 61 * 8) (toBytes 8 0))

def State.opCtxReset (s : State) (m : Mgmt) : State :=
  if (s.ctx m.idx).st != 2 then s.mboxEnd stNotQuiesced 0
  else
    let s := s.updQueues m.idx (fun x => { x with buf := [], seq := 0, consumed := 0, fails := [], stops := [], lastSig := none })
    let s := (s.queuesOf m.idx).foldl (fun s q => s.zeroCredit q) s
    (s.resetShares m.idx).mboxEnd stOk 0

/-- A DISABLED queue keeps its RW registers and nothing else (R309, R320). -/
def Queue.disabled (x : Queue) : Queue :=
  { depthLog := x.depthLog, ctx := x.ctx, credit := x.credit, cq := x.cq, headAddr := x.headAddr, irq := x.irq }

/-- Remove a context from a fence's binding (R308). -/
def Fence.unbind (x : Fence) (c : Nat) : Fence :=
  { x with bind := (List.range 4).foldl (fun b j =>
      if b.getLsbD (44 + j) && fld b.toNat (10 * j) 10 == c
      then BitVec.ofNat 48 (putFld (putFld b.toNat (44 + j) 1 0) (10 * j) 10 0) else b) x.bind }

/-- CTX_REMOVE's effect on what the context owns (R308, R353). -/
def State.removeCtx (s : State) (c : Nat) : State :=
  let s := s.updQueues c (fun x => x.disabled)
  let s : State := { s with
    hif := { s.hif with
      objs := s.hif.objs.filter (fun e => e.2.ctx != c)
      fences := s.hif.fences.map (fun e => (e.1, e.2.unbind c)) }
    comp := { s.comp with detach := s.comp.detach.filter (fun e => e.2.ctx != c) } }
  let s := s.tiles.foldl (fun s e => s.dropShare e.1 c) s
  s.setCtx c {}

def State.opCtxRemove (s : State) (m : Mgmt) : State :=
  if (s.ctx m.idx).st != 2 then s.mboxEnd stNotQuiesced 0 else (s.removeCtx m.idx).mboxEnd stOk 0

/-- Some share of the context is standby or in a swap (R384). -/
def State.anyStandby (s : State) (c : Nat) : Bool :=
  s.tiles.any (fun e => e.2.standby.any (fun d => d.ctx == c) || (match e.2.swap with
    | some w => w.ctx == some c || w.victims.any (fun i => (e.2.slot i).ctx == c)
    | none => false))

/-- Ranks of a context that carry a share on this module, with its granules. -/
def State.sharedRanks (s : State) (c : Nat) : List (Nat × Nat) :=
  ((s.bunchOf (s.ctx c).bunch).localLeaves.map (fun p => (p.1, s.granulesOn p.2 c))).filter (fun p => p.2 != 0)

/-- CTX_BACKING (R384). -/
def State.opCtxBacking (s : State) (m : Mgmt) : State :=
  let seg := fld (m.arg 0) 0 4
  let off := m.arg 1
  let stride := m.arg 2
  let d := tget 0 (s.ctx m.idx).segs seg
  let rs := s.sharedRanks m.idx
  if s.anyStandby m.idx then s.mboxEnd stBusy 0
  else if !(segValid d && segTarget d == 2 && segAllows d 0 && segAllows d 1) || off % 0x200000 != 0
      || stride % 0x200000 != 0 then s.mboxEnd stBadArg 0
  else if rs.any (fun p => stride < p.2 * 0x200000 || segSize d < off + p.1 * stride + p.2 * 0x200000) then
    s.mboxEnd stSegment (segDetail 2 seg)
  else (s.setCtx m.idx { s.ctx m.idx with backing := some (seg, off, stride) }).mboxEnd stOk 0

/-! ### Save and restore (R348 to R350, R479) -/

/-- What CTX_SAVE saves of a share (R67, R350: the DEADLINE as an offset from the pacer). -/
def State.saveShare (s : State) (c : Nat) (p : Nat × Nat) : SavedShare :=
  let (r, t) := p
  let x := s.tile t
  let rel := fun d => if d = BitVec.allOnes 64 then none else some (d - s.pacer t)
  match x.slotOf c with
  | some i =>
    let sl := x.slot i
    { rank := r, granules := popCount sl.share.toNat 256, deadline := rel sl.deadline, flags := sl.flags, fifo := sl.fifo
      lines := (s.shareLines t sl.share).filterMap (fun k =>
        (shareOff sl.share (k * 64)).map (fun o => (k, s.peekN (tsAddr t o) 64))) }
  | none =>
    match x.standby.find? (fun e => e.ctx == c) with
    | none => { rank := r }
    | some e =>
      { rank := r, granules := e.granules, deadline := rel e.deadline, flags := e.flags, fifo := e.fifo
        lines := match s.backingLoc c e.rank with
          | some l => e.lines.map (fun k => (k, s.readSpots ((s.spots l (k * 64 + 64)).drop (k * 64)) []))
          | none => [] }

/-- A consumed command is saved: it has not started, or it is a LAUNCH that waits in FIFOs (R68, R348). -/
def QCmd.kept (c : QCmd) : Bool := !c.started || (c.type == 1 && c.taken)

/-- The contents of the capacity ranges of a bunch: the port, the granules, and the bytes that are not zero by range offset (R349). -/
def State.rangeContents (s : State) (b : BitVec 32) : List (Nat × Nat × List (Nat × Byte)) :=
  (List.range 16).filterMap (fun m =>
    let r := (s.port m).rangeFor b
    let a := lpAddr m (r.base * 0x4000000)
    if r.valid then some (m, r.len, (s.mem.filter (fun c => a ≤ c.1 && c.1 < a + r.len * 0x4000000)).map (fun c => (c.1 - a, c.2)))
    else none)

/-- The state that CTX_SAVE saves (R348, R350), the contents of the bunch's ranges with it under RANGES (R349). Tiles are named by
their rank. -/
def State.savedOf (s : State) (c : Nat) (ranges : Bool) : Saved :=
  let x := s.ctx c
  let rank := fun (w : Nat × Nat) => (w.1, s.ctxRank c w.2)
  { bunch := x.bunch, pasid := x.pasid, pinned := x.pinned, segs := x.segs, names := x.names, backing := x.backing
    ranges := if ranges then s.rangeContents x.bunch else []
    queues := (s.hif.queues.filter (fun e => e.2.st != 0 && e.2.ctx == c)).map (fun e =>
      (e.1, { e.2 with cmds := (e.2.cmds.filter QCmd.kept).map (fun d => { d with waiting := d.waiting.map rank }) }))
    fences := s.hif.fences.filter (fun e => e.2.valid && e.2.boundTo c)
    objs := s.hif.objs.filter (fun e => e.2.st != 0 && e.2.ctx == c)
    shares := ((s.bunchOf x.bunch).localLeaves.filter (fun p => s.granulesOn p.2 c != 0)).map (s.saveShare c)
    channel := ((s.ancestors 257 x.bunch).flatMap (fun b => (s.bunchOf b).captured.map Prod.snd)).filter (·.bunch == x.bunch) }

/-- Bytes padded to whole units of 4 KiB. -/
def pad4k (bs : List Byte) : List Byte := bs ++ List.replicate ((4096 - bs.length % 4096) % 4096) 0

/-- Directory of sections: TYPE and length in units of 4 KiB, the first at unit 1 (R349). -/
def directory : List (Nat × Nat) → Nat → List Byte
  | [], _ => []
  | (ty, n) :: r, at' => toBytes 2 ty ++ toBytes 6 0 ++ toBytes 4 at' ++ toBytes 4 n ++ directory r (at' + n)

/-- Section types of an image: AUTH where it is confidential, RANGES where it holds them (R349). -/
def sectionTypes (conf ranges : Bool) : List Nat :=
  [1, 2, 3, 4, 5, 6, 7] ++ (if ranges then [8] else []) ++ (if conf then [9] else [])

/-- The image key of a bunch with its KEY_ID (R479). -/
def State.imageKey (s : State) (b : BitVec 32) : Option Key := s.sec.imgKeys.find? (fun k => k.bunch == b)

/-- The image of a context: header and directory, then its sections, which an image key encrypts one by one (R349, R479). -/
def State.imageBytes (s : State) (c : Nat) : List Byte :=
  let x := s.ctx c
  let ranges := Config.freeBits 1 s.fresh == 1
  let nonce := (Config.freeBits 64 s.fresh).toNat
  let key := s.imageKey x.bunch
  let id := match key with | some k => k.id | none => 0
  let types := sectionTypes x.conf ranges
  let plain := types.map (fun ty => (ty, pad4k (if ty = 9 then [] else Config.sectionOf ty (s.savedOf c ranges) s.fresh)))
  let lens := plain.map (fun (ty, bs) => (ty, if ty = 9 then 1 else bs.length / 4096))
  let total := 4096 * (1 + (lens.map Prod.snd).foldl (· + ·) 0)
  let head := toBytes 2 1 ++ toBytes 2 (Config.freeBits 16 s.fresh).toNat
    ++ toBytes 4 (bit x.conf + 2 * bit ranges) ++ toBytes 4 (deviceOf s.boot.variant)
    ++ toBytes 4 c ++ toBytes 4 x.bunch.toNat ++ toBytes 4 (s.sharedRanks c).length ++ toBytes 8 total ++ toBytes 32 0
  let front := let d := directory lens 1; pad4k (head ++ d ++ List.replicate (256 - d.length) 0)
  let kv := match key with | some k => k.key | none => 0
  let sealed := plain.map (fun (ty, bs) =>
    if !x.conf then bs
    else if ty = 9 then (pad4k (Config.authOf kv id nonce (front ++ plain.flatMap Prod.snd))).take 4096
    else ((Config.cipher kv (nonce * 2 ^ 32 + ty) (front ++ bs)).take bs.length
      ++ List.replicate bs.length 0).take bs.length)
  front ++ sealed.flatten

/-- Why a save cannot be made now, none when it can (R348): a confidential context whose bunch has no image key ends it with INTEGRITY
(log 157). -/
def State.saveFails (s : State) (m : Mgmt) : Option (BitVec 16 × BitVec 32) :=
  let need := (s.imageBytes m.idx).length / 4096
  if (s.ctx m.idx).st != 2 && !s.frozenCtx m.idx then some (stNotQuiesced, 0)
  else if m.arg 0 % 4096 != 0 then some (stBadArg, 0)
  else if (s.ctx m.idx).conf && (s.imageKey (s.ctx m.idx).bunch).isNone then some (stIntegrity, 0)
  else if m.arg 1 < need * 4096 then some (stResource, BitVec.ofNat 32 need)
  else none

/-- CTX_SAVE checks its buffer and begins; CTX_SAVE_DONE ends it (R348). -/
def State.opCtxSave (s : State) (m : Mgmt) : State :=
  match s.saveFails m with
  | some (st, d) => s.mboxEnd st d
  | none => s

/-- The lines of shares that a save of a context reads (R57). -/
def State.saveReads (s : State) (c : Nat) : List Spot :=
  s.tileNos.flatMap (fun t => shareSpots t (s.shareOn t c))

/-- CTX_RESTORE checks its arguments and begins; CTX_RESTORE_DONE ends it (R348). -/
def State.opCtxRestore (s : State) (m : Mgmt) : State :=
  if 1024 ≤ m.idx then s.mboxEnd stBadArg 0
  else if (s.ctx m.idx).valid then s.mboxEnd stBusy 0
  else if !s.hostBunch (BitVec.ofNat 32 (fld (m.arg 2) 0 32)) || s.pasidUsed (BitVec.ofNat 20 (fld (m.arg 2) 32 20)) then
    s.mboxEnd stBadArg 0
  else s

/-! ### Queues -/

/-- Q_ENABLE's fields are legal (R319). -/
def Queue.cfgOk (x : Queue) : Bool :=
  let mode := fld x.irq.toNat 0 2
  let size := fld x.cq.toNat 0 5
  x.depthLog ≤ 4 && 7 ≤ size && size ≤ 16 && mode != 3
    && (mode != 2 || (fld x.irq.toNat 24 8 != 0 && fld x.irq.toNat 8 8 != 0))

/-- The limits of R304 leave room for a queue. -/
def State.queueRoom (s : State) (x : Queue) : Bool :=
  (s.queuesOf x.ctx).length < 8
    && ((s.hif.queues.filter (fun e => e.2.st != 0)).map (fun e => e.2.depth)).foldl (· + ·) 0 + x.depth ≤ 65536

def State.opQEnable (s : State) (m : Mgmt) : State :=
  let x := s.queue m.idx
  if 4096 ≤ m.idx then s.mboxEnd stBadArg 0
  else if x.st != 0 then s.mboxEnd stBusy 0
  else if !x.cfgOk || !(s.ctx x.ctx).valid then s.mboxEnd stBadArg 0
  else if !s.queueRoom x then s.mboxEnd stResource 0
  else
    let s := s.setQueue m.idx { x.disabled with st := if (s.ctx x.ctx).st = 0 then 1 else 3, prior := 1 }
    (s.zeroCredit m.idx).mboxEnd stOk 0

def State.opQResume (s : State) (m : Mgmt) : State :=
  let x := s.queue m.idx
  if x.st = 3 && x.byCmd && (s.ctx x.ctx).st = 0 then
    (s.setQueue m.idx { x with st := 1, byCmd := false }).mboxEnd stOk 0
  else s.mboxEnd stBusy 0

/-- End a queue's consumed commands without a record (R309): their references drop, launches and movers stop. -/
def State.destroyQueue (s : State) (q : Nat) : State :=
  let x := s.queue q
  let s := x.cmds.foldl (fun s c => c.refs.foldl (fun s h => s.dropRef h) (s.stopMover c)) s
  let s := s.setQueue q x.disabled
  let s := s.dropWaiting (fun l => l.q == q) 1
  s.stopRunning (fun l => l.q == q) false

def State.opQDestroy (s : State) (m : Mgmt) : State :=
  if (s.queue m.idx).st = 0 then s.mboxEnd stBusy 0 else (s.destroyQueue m.idx).mboxEnd stOk 0

/-! ### Objects -/

def State.opObjCreate (s : State) (m : Mgmt) : State :=
  let c := fld (m.arg 0) 0 10
  let seg := fld (m.arg 0) 16 4
  let rank := fld (m.arg 0) 24 24
  let off := m.arg 1
  let len := m.arg 2
  let d := tget 0 (s.ctx c).segs seg
  if 262144 ≤ m.idx then s.mboxEnd stBadArg 0
  else if (s.obj m.idx).st != 0 then s.mboxEnd stBusy 0
  else if !(s.ctx c).valid || off % 64 != 0 || len % 64 != 0 || len < 64 || 2 ^ 40 - 64 < len || 2 ^ 44 ≤ off
      || !(rank == 0xFFFFFF || rank < (s.bunchOf (s.ctx c).bunch).map.length) then s.mboxEnd stBadArg 0
  else if !segValid d then s.mboxEnd stSegment (segDetail 1 seg)
  else if segSize d < off + len then s.mboxEnd stSegment (segDetail 3 seg)
  else (s.setObj m.idx { st := 1, ctx := c, seg, off, rank, len }).mboxEnd stOk 0

def State.opObjFree (s : State) (m : Mgmt) : State :=
  let o := s.obj m.idx
  if o.st != 1 then s.mboxEnd stBusy 0
  else (s.setObj m.idx (if o.refs = 0 then {} else { o with st := 2 })).mboxEnd stOk (BitVec.ofNat 32 o.refs)

/-- Stop the started commands that use an object, and take the object from those that have not started (R312). -/
def State.stopObject (s : State) (h : Nat) : State :=
  s.hif.queues.foldl (fun s e =>
    e.2.cmds.foldl (fun s c =>
      if !c.refs.contains h then s
      else if c.started then s.abortCmd e.1 c.seq 1 2
      else s.updCmd e.1 c.seq (fun c => { c with gone := some h, refs := c.refs.filter (· != h) })) s) s

def State.opObjDestroy (s : State) (m : Mgmt) : State :=
  if (s.obj m.idx).st = 0 then s.mboxEnd stBusy 0
  else ((s.stopObject m.idx).setObj m.idx {}).mboxEnd stOk (BitVec.ofNat 32 (s.obj m.idx).refs)

/-! ### Fences -/

/-- Every context that a binding names is valid (R306). -/
def State.bindOk (s : State) (b : Nat) : Bool :=
  fld b 40 4 == 0 && (List.range 4).all (fun j => !b.testBit (44 + j) || (s.ctx (fld b (10 * j) 10)).valid)

def State.opFenceCreate (s : State) (m : Mgmt) : State :=
  if 65535 < m.idx then s.mboxEnd stBadArg 0
  else if (s.fence m.idx).valid then s.mboxEnd stBusy 0
  else if !s.bindOk (m.arg 1) then s.mboxEnd stBadArg 0
  else (s.setFence m.idx { valid := true, val := BitVec.ofNat 32 (m.arg 0),
                           bind := BitVec.ofNat 48 (m.arg 1) }).mboxEnd stOk 0

def State.opFenceBind (s : State) (m : Mgmt) : State :=
  if 65535 < m.idx then s.mboxEnd stBadArg 0
  else if !(s.fence m.idx).valid then s.mboxEnd stBusy 0
  else if !s.bindOk (m.arg 1) then s.mboxEnd stBadArg 0
  else (s.setFence m.idx { s.fence m.idx with bind := BitVec.ofNat 48 (m.arg 1) }).mboxEnd stOk 0

def State.opFenceReset (s : State) (m : Mgmt) : State :=
  if 65535 < m.idx then s.mboxEnd stBadArg 0
  else if !(s.fence m.idx).valid then s.mboxEnd stBusy 0
  else
    let x := { s.fence m.idx with val := BitVec.ofNat 32 (m.arg 0), err := false, errStatus := 0, stale := 0 }
    ((s.setFence m.idx x).evalWaiters m.idx).mboxEnd stOk 0

/-- Tiles where a context bound to a fence is resident (R317). -/
def State.flushTiles (s : State) (f : Nat) : List Nat :=
  s.tileNos.filter (fun t => (s.fence f).bound.any (fun c => ((s.tile t).slotOf c).isSome))

/-- Consumed commands that name a fence and have not acted lose it (R317). -/
def State.orphanFence (s : State) (f : Nat) : State :=
  { s with hif := { s.hif with queues := s.hif.queues.map (fun e => (e.1, { e.2 with
      cmds := e.2.cmds.map (fun c =>
        if (c.type == 5 || c.type == 6) && !c.inWait && cmdFld c.raw 8 2 == f then { c with gone := some f }
        else c) })) } }

/-- FENCE_DESTROY (R317): waiters are released and tiles flushed; it stays BUSY until every tile has acknowledged. -/
def State.opFenceDestroy (s : State) (m : Mgmt) : State :=
  let f := m.idx
  if 65535 < f then s.mboxEnd stBadArg 0
  else if !(s.fence f).valid then s.mboxEnd stBusy 0
  else
    let ts := s.flushTiles f
    let s := (s.setFence f { s.fence f with valid := false }).orphanFence f
    let s := s.evalWaiters f
    if ts.isEmpty then (s.setFence f {}).mboxEnd stOk 0
    else (ts.foldl (fun s t => s.emit (.flush f t)) s).setFence f { flush := some ts }

/-- ATTEST (R469): a quote over the nonce in the host's buffer, whose bytes are open here (log 19). -/
def State.opAttest (s : State) (m : Mgmt) : State :=
  if m.idx != 0 || m.arg 0 % 4096 != 0 || m.arg 1 < 131072 then s.mboxEnd stBadArg 0
  else if s.sec.quote.isSome then s.mboxEnd stBusy 0
  else
    let (n, s) := (s.emit (.dmaRead s.mgrPasid (m.arg 0) 32)).draw 256
    { s with sec := { s.sec with quote := some { mailbox := true, sid := 0, nonce := n } } }

/-! ### The mailbox -/

/-- Operations whose INDEX names a context that must be VALID (R306, R348, R384). -/
def ctxOps : List Nat := [2, 3, 4, 5, 6, 7, 8, 10]

/-- Perform an operation (R306). -/
def State.mboxRun (s : State) (m : Mgmt) : State :=
  if ctxOps.contains m.op && !(s.ctx m.idx).valid then s.mboxEnd stBusy 0
  else match m.op with
    | 0x01 => s.opCtxCreate m
    | 0x02 => s.opCtxShare m
    | 0x03 => s.opCtxSeg m
    | 0x04 => s.opCtxQuiesce m
    | 0x05 => s.opCtxResume m
    | 0x06 => s.opCtxReset m
    | 0x07 => s.opCtxRemove m
    | 0x08 => s.opCtxSave m
    | 0x09 => s.opCtxRestore m
    | 0x0A => s.opCtxBacking m
    | 0x0B => s.opAttest m
    | 0x10 => s.opQEnable m
    | 0x11 => s.opQResume m
    | 0x12 => s.opQDestroy m
    | 0x20 => s.opObjCreate m
    | 0x21 => s.opObjFree m
    | 0x22 => s.opObjDestroy m
    | 0x30 => s.opFenceCreate m
    | 0x31 => s.opFenceBind m
    | 0x32 => s.opFenceReset m
    | 0x33 => s.opFenceDestroy m
    | _ => s.mboxEnd stBadArg 0

/-- A write of MGMT_CMD (R305): the high half alone sets INDEX; any other write issues, is discarded while BUSY, and
completes with BAD_ARGUMENT when a reserved field is not zero. -/
def State.writeMgmtCmd (s : State) (acc : Acc) (v : Word) : State :=
  let half := fld v.toNat 0 32
  if acc = .hi then { s with hif := { s.hif with index := BitVec.ofNat 32 half } }
  else if s.hif.busy.isSome then { s with hif := { s.hif with mgmtDisc := satAdd 0xFFFF s.hif.mgmtDisc 1 } }
  else
    let index := if acc = .full then BitVec.ofNat 32 (fld v.toNat 32 32) else s.hif.index
    let m : Mgmt := { op := fld half 0 8, idx := fld index.toNat 0 18, sub := fld half 8 4, irq := half.testBit 31
                      args := (List.range 4).map (fun i => tget 0 s.hif.args i) }
    let s := { s with hif := { s.hif with index, busy := some m } }
    if fld half 12 19 != 0 || fld index.toNat 18 14 != 0 then s.mboxEnd stBadArg 0
    else if s.mgcAway then s
    else s.mboxRun m

/-- A mailbox row: the host's write of MGMT_CMD that spells operation `op`. -/
def mboxRow (op : Nat) (name : String) (acc : Acc) (v : Word) (s : State) : Ans :=
  if acc != .hi && fld v.toNat 0 8 != op then .refused (.otherWord name)
  else mmio s (fun s => s.writeMgmtCmd acc v)

/-- OP values that a mailbox table lists (R306, R348, R384, R469). -/
def knownOps : List Nat :=
  [0x01, 0x02, 0x03, 0x04, 0x05, 0x06, 0x07, 0x08, 0x09, 0x0A, 0x0B, 0x10, 0x11, 0x12, 0x20, 0x21, 0x22,
   0x30, 0x31, 0x32, 0x33]

def execMgmtCmdIndexWrite (v : BitVec 32) (s : State) : Ans :=
  mmio s (fun s => s.writeMgmtCmd .hi (v.setWidth 64))

/-- An OP that no table lists, or a reserved field that is not zero (R306). -/
def execMailboxUnknownOp (acc : Acc) (v : Word) (s : State) : Ans :=
  let index := if acc = .full then BitVec.ofNat 32 (fld v.toNat 32 32) else s.hif.index
  if acc != .hi && knownOps.contains (fld v.toNat 0 8) && fld v.toNat 12 19 == 0 && fld index.toNat 18 14 == 0 then
    .refused (.otherWord "MAILBOX_UNKNOWN_OP")
  else mmio s (fun s => s.writeMgmtCmd acc v)

def execCtxCreate (acc : Acc) (v : Word) (s : State) : Ans := mboxRow 0x01 "CTX_CREATE" acc v s
def execCtxShare (acc : Acc) (v : Word) (s : State) : Ans := mboxRow 0x02 "CTX_SHARE" acc v s
def execCtxSeg (acc : Acc) (v : Word) (s : State) : Ans := mboxRow 0x03 "CTX_SEG" acc v s
def execCtxQuiesce (acc : Acc) (v : Word) (s : State) : Ans := mboxRow 0x04 "CTX_QUIESCE" acc v s
def execCtxResume (acc : Acc) (v : Word) (s : State) : Ans := mboxRow 0x05 "CTX_RESUME" acc v s
def execCtxReset (acc : Acc) (v : Word) (s : State) : Ans := mboxRow 0x06 "CTX_RESET" acc v s
def execCtxRemove (acc : Acc) (v : Word) (s : State) : Ans := mboxRow 0x07 "CTX_REMOVE" acc v s
def execCtxSave (acc : Acc) (v : Word) (s : State) : Ans := mboxRow 0x08 "CTX_SAVE" acc v s
def execCtxRestore (acc : Acc) (v : Word) (s : State) : Ans := mboxRow 0x09 "CTX_RESTORE" acc v s
def execCtxBacking (acc : Acc) (v : Word) (s : State) : Ans := mboxRow 0x0A "CTX_BACKING" acc v s
def execAttest (acc : Acc) (v : Word) (s : State) : Ans := mboxRow 0x0B "ATTEST" acc v s
def execQEnable (acc : Acc) (v : Word) (s : State) : Ans := mboxRow 0x10 "Q_ENABLE" acc v s
def execQResume (acc : Acc) (v : Word) (s : State) : Ans := mboxRow 0x11 "Q_RESUME" acc v s
def execQDestroy (acc : Acc) (v : Word) (s : State) : Ans := mboxRow 0x12 "Q_DESTROY" acc v s
def execObjCreate (acc : Acc) (v : Word) (s : State) : Ans := mboxRow 0x20 "OBJ_CREATE" acc v s
def execObjFree (acc : Acc) (v : Word) (s : State) : Ans := mboxRow 0x21 "OBJ_FREE" acc v s
def execObjDestroy (acc : Acc) (v : Word) (s : State) : Ans := mboxRow 0x22 "OBJ_DESTROY" acc v s
def execFenceCreate (acc : Acc) (v : Word) (s : State) : Ans := mboxRow 0x30 "FENCE_CREATE" acc v s
def execFenceBind (acc : Acc) (v : Word) (s : State) : Ans := mboxRow 0x31 "FENCE_BIND" acc v s
def execFenceReset (acc : Acc) (v : Word) (s : State) : Ans := mboxRow 0x32 "FENCE_RESET" acc v s
def execFenceDestroy (acc : Acc) (v : Word) (s : State) : Ans := mboxRow 0x33 "FENCE_DESTROY" acc v s

/-! ### Ends of longer operations -/

/-- DRAIN has ended: every consumed command's record is written (R307). -/
def execCtxQuiesced (c : Nat) (s : State) : Ans :=
  if (s.ctx c).valid && (s.ctx c).st == 1 && (s.queuesOf c).all (fun q => (s.queue q).cmds.isEmpty) then
    let irq := (s.ctx c).drainIrq
    let s := s.setQuiesced c
    .next (if irq then s.msix 0 else s)
  else .refused (.notEnabled "CTX_QUIESCED")

/-- A tile acknowledges a flush once its earlier signals to the fence are delivered (R317). -/
def execFenceFlushAck (f t : Nat) (s : State) : Ans :=
  match (s.fence f).flush with
  | some ts =>
    if ts.contains t && !(s.tile t).core.sigs.any (fun e => e.1 == f) then
      let rest := ts.filter (· != t)
      if rest.isEmpty then .next ((s.setFence f {}).mboxEnd stOk 0)
      else .next (s.setFence f { s.fence f with flush := some rest })
    else .refused (.notEnabled "FENCE_FLUSH_ACK")
  | none => .refused (.notEnabled "FENCE_FLUSH_ACK")

/-- A `fence.sig` of context `c` reaches its fence (R314, R317). When the two copies of the update disagree, neither is applied, the
error flag is set and FENCE_CHECK is raised (R441). -/
def State.sigArrives (s : State) (c f : Nat) (v : BitVec 32) (agree : Bool) : State :=
  let x := s.fence f
  if !x.valid then { s with hif := { s.hif with fenceDisc := satAdd 0xFFFF s.hif.fenceDisc 1 } }
  else if agree then (s.setFence f (x.signal v).1).evalWaiters f
  else
    let s := (s.flagFence f 8).evalWaiters f
    s.raiseSafety 14 (srcId 5 0x1000) (x.bound ++ [c]) (BitVec.ofNat 64 f)

def execFenceSignalArrival (t f : Nat) (agree : Bool) (s : State) : Ans :=
  let c := (s.tile t).core
  match c.sigs.find? (fun e => e.1 == f) with
  | some e =>
    let s := s.setCore t { c with sigs := c.sigs.erase e }
    .next (s.sigArrives e.2.2 f e.2.1 agree)
  | none => .refused (.notEnabled "FENCE_SIGNAL_ARRIVAL")

/-- The save has ended: the image lies in the buffer (R348), or a line was uncorrectable (R57), or the host refused it (R283). What
the image takes is checked again, since the context or its key may have changed. -/
def execCtxSaveDone (res : Res) (s : State) : Ans :=
  match s.hif.busy with
  | some m =>
    if m.op != 8 then .refused (.notEnabled "CTX_SAVE_DONE")
    else match s.saveFails m with
      | some (st, d) => .next (s.mboxEnd st d)
      | none =>
        let img := s.imageBytes m.idx
        let rd := s.saveReads m.idx
        let res := s.moveRes rd [] res
        let s : State := { s with fresh := s.fresh + 1 }
        match res with
        | .ok | .corrected =>
          .next (((s.countEcc rd res).emit (.dma s.mgrPasid (m.arg 0) img)).mboxEnd stOk (BitVec.ofNat 32 (img.length / 4096)))
        | .uncorrectable => .next ((s.ueRead rd [m.idx]).mboxEnd 8 0)
        | r => .next (s.mboxEnd (resStatus r).1 (resStatus r).2)
  | none => .refused (.notEnabled "CTX_SAVE_DONE")

/-- Place one saved share on the tile of its rank (R350): none when the tile lacks a slot or granules. -/
def State.restoreShare (s : State) (c : Nat) (x : SavedShare) : Option State :=
  match s.rankTile c x.rank with
  | none => none
  | some t =>
    match (s.tile t).freeSlot, (s.tile t).lowestFree 0 x.granules with
    | some i, some bm =>
      let s := s.clearGranules t bm
      let d := match x.deadline with
        | none => BitVec.allOnes 64
        | some d => d + s.pacer t
      let s := s.setTile t ((s.tile t).setSlot i { valid := true, ctx := c, share := bm, deadline := d, flags := x.flags
                                                   fifo := x.fifo })
      some (x.lines.foldl (fun s l => match shareOff bm (l.1 * 64) with
        | some o => s.pokeN (tsAddr t o) (l.2.take 64)
        | none => s) s)
    | _, _ => none

/-- Place every saved share, or none. -/
def State.restoreShares (c : Nat) : List SavedShare → State → Option State
  | [], s => some s
  | x :: r, s => match s.restoreShare c x with
    | some s => State.restoreShares c r s
    | none => none

/-- A launch that an image holds, in its new context and bunch. -/
def Launch.moveTo (l : Launch) (c : Nat) (old b : BitVec 32) : Launch :=
  { l with ctx := c, scope := if l.scope = old then b else l.scope }

/-- A translated operand that an image holds, in its new context: the identity of each range by its place among the old names (R229,
R350). -/
def Loc.moveTo (l : Loc) (c : Nat) (pasid : BitVec 20) (ids : List (Nat × Nat)) : Loc :=
  let id := fun (k : Nat) => match ids.find? (fun e => e.1 == k) with | some e => e.2 | none => 0
  match l with
  | .own t _ off => .own t c off
  | .share _ rank off => .share c rank off
  | .slices _ first slice base off => .slices c first slice base off
  | .range ranges mirrors off => .range (ranges.map id) (mirrors.map id) off
  | .host _ iova => .host pasid iova
  | .frames _ off pages => .frames pasid off pages

/-- A command that an image holds, in its new context and bunch: a LAUNCH on the old bunch goes to the new one. -/
def State.moveCmd (s : State) (c : Nat) (old b : BitVec 32) (ids : List (Nat × Nat)) (d : QCmd) : QCmd :=
  let p := (s.ctx c).pasid
  let raw := if d.type = 1 && BitVec.ofNat 32 (cmdFld d.raw 8 4) == old then
      BitVec.ofNat 512 (putFld d.raw.toNat 64 32 b.toNat) else d.raw
  { d with raw, epoch := (s.bunchOf b).epoch, bunch := b
           loc1 := d.loc1.map (·.moveTo c p ids), loc2 := d.loc2.map (·.moveTo c p ids)
           waiting := d.waiting.filterMap (fun (r, k) => (leafAt (s.bunchOf b).map k).map (fun t => (r, t))) }

/-- Range identities of the old names beside those of the new (R229). -/
def rangeIds (old new : Table (List Nat × List Nat)) : List (Nat × Nat) :=
  (List.range 16).flatMap (fun i =>
    (tget ([], []) old i).1.zip (tget ([], []) new i).1 ++ (tget ([], []) old i).2.zip (tget ([], []) new i).2)

/-- The contents of a saved range return to the range that the target bunch has on the same port, as far as that reaches (DESIGN CHOICE,
log 199). -/
def State.fillRange (s : State) (b : BitVec 32) (e : Nat × Nat × List (Nat × Byte)) : State :=
  let r := (s.port e.1).rangeFor b
  let a := lpAddr e.1 (r.base * 0x4000000)
  let n := min r.len e.2.1 * 0x4000000
  if r.valid then
    { s with mem := (e.2.2.filter (fun c => c.1 < n)).foldl (fun m c => memPut m (a + c.1) c.2) (memErase s.mem a n) }
  else s

/-- A descriptor with VALID clear. -/
def unvalid (d : BitVec 256) : BitVec 256 := BitVec.ofNat 256 (putFld d.toNat 63 1 0)

/-- A graft or a migration has changed shares: OWN_SHARE descriptors are checked again, and one that no longer fits the share of
each tile on which its context is resident loses VALID (R234; log 194). -/
def State.recheckSegs (s : State) : State :=
  { s with hif := { s.hif with ctxs := s.hif.ctxs.map (fun e => (e.1, { e.2 with segs := e.2.segs.map (fun d =>
      (d.1, if e.2.valid && segValid d.2 && segTarget d.2 == 0 && !s.mapOk e.1 d.2 then unvalid d.2 else d.2)) })) } }

/-- The limits of R304 leave room for the queues of an image. -/
def State.queuesFit (s : State) (l : List (Nat × Queue)) : Bool :=
  l.length ≤ 8 && ((s.hif.queues.filter (fun e => e.2.st != 0)).map (fun e => e.2.depth)).foldl (· + ·) 0
    + (l.map (fun e => e.2.depth)).foldl (· + ·) 0 ≤ 65536

/-- A captured message that an image holds, for the tiles, the bunch and the epoch of the target (R350). -/
def State.moveMsg (s : State) (b : BitVec 32) (m : Msg) : Option (Nat × Msg) :=
  let x := s.bunchOf b
  match leafAt x.map m.dst, x.map[m.src]? with
  | some t, some l => some (t, { m with bunch := b, epoch := x.epoch, srcGen := l.gen })
  | _, _ => none

/-- Rebuild a context from what an image holds (R350); the status of a restore that fails. -/
def State.rebuild (s : State) (m : Mgmt) (x : Saved) : Except (BitVec 16) State :=
  let c := m.idx
  let b := BitVec.ofNat 32 (fld (m.arg 2) 0 32)
  let names := fun (i : Nat) (d : BitVec 256) =>
    if segTarget d = 2 then (s.rangeNames b (segPorts d), s.rangeNames b (segMports d)) else tget ([], []) x.names i
  if (s.bunchOf b).map.length < x.shares.length || !s.queuesFit x.queues then .error stResource
  else if x.queues.any (fun e => (s.queue e.1).st != 0) || x.fences.any (fun e => (s.fence e.1).valid)
      || x.objs.any (fun e => (s.obj e.1).st != 0) then .error stBusy
  else
    let s := s.setCtx c { valid := true, conf := (s.bunchOf b).conf, pinned := x.pinned, st := 2, bunch := b,
                          pasid := BitVec.ofNat 20 (fld (m.arg 2) 32 20), segs := x.segs, backing := x.backing
                          names := x.segs.map (fun e => (e.1, names e.1 e.2)) }
    let shares := x.shares.map (fun h => { h with fifo := h.fifo.map (fun l => l.moveTo c x.bunch b) })
    match State.restoreShares c shares s with
    | none => .error stResource
    | some s =>
      let ids := rangeIds x.names (s.ctx c).names
      let s := x.queues.foldl (fun s e =>
        s.setQueue e.1 { e.2 with ctx := c, st := 3, cmds := e.2.cmds.map (s.moveCmd c x.bunch b ids) }) s
      let s := x.fences.foldl (fun s e => s.setFence e.1 { e.2 with bind := BitVec.ofNat 48 (c + 2 ^ 44) }) s
      let s := x.objs.foldl (fun s e => s.setObj e.1 { e.2 with ctx := c }) s
      let s := x.ranges.foldl (fun s e => s.fillRange b e) s
      .ok (s.updBunch b (fun y => { y with captured := y.captured ++ x.channel.filterMap (s.moveMsg b) })).recheckSegs

/-- The key that opens an image for a bunch (R479): for a confidential image the one of its KEY_ID, for another none is
needed. -/
def State.openKey (s : State) (b : BitVec 32) (img : HostBytes) : Option (BitVec 256) :=
  if (ofBytes ((img.drop 4).take 4)).testBit 0 then
    (s.sec.imgKeys.find? (fun k => k.bunch == b && k.id == Config.imageKeyId img)).map (·.key)
  else some 0

/-- The restore has ended (R350): MAJOR 1 is accepted, a failed tag or a missing key gives INTEGRITY (R351, R479). -/
def State.restoreEnd (s : State) (m : Mgmt) (img : HostBytes) : State :=
  if ofBytes (img.take 2) != 1 then s.mboxEnd stBadArg 0
  else match s.openKey (BitVec.ofNat 32 (fld (m.arg 2) 0 32)) img with
    | none => s.mboxEnd stIntegrity 0
    | some k =>
      match Config.imageIn img k with
      | none => s.mboxEnd stIntegrity 0
      | some x =>
        match s.rebuild m x with
        | .ok s => s.mboxEnd stOk 0
        | .error e => s.mboxEnd e 0

def execCtxRestoreDone (res : Res) (image : HostBytes) (s : State) : Ans :=
  match s.hif.busy with
  | some m =>
    if m.op != 9 then .refused (.notEnabled "CTX_RESTORE_DONE")
    else
      let s := s.emit (.dmaRead s.mgrPasid (m.arg 0) (m.arg 1))
      match res with
      | .ok | .corrected => .next (s.restoreEnd m image)
      | r => .next (s.mboxEnd (resStatus r).1 (resStatus r).2)
  | none => .refused (.notEnabled "CTX_RESTORE_DONE")

/-! ### MMIO writes -/

/-- Write a queue register: its RW fields, while the queue is DISABLED (R319). -/
def State.writeQueueReg (s : State) (q reg : Nat) (acc : Acc) (v : Word) : State :=
  let x := s.queue q
  if reg = 5 then s.writeQStatus q acc v
  else if x.st != 0 then s
  else match reg with
    | 0 =>
      let w := (mergeHalf acc (BitVec.ofNat 64 (x.depthLog * 2 ^ 16 + x.ctx)) v).toNat
      s.setQueue q { x with depthLog := fld w 16 3, ctx := fld w 0 10 }
    | 1 => s.setQueue q { x with credit := mergeHalf acc x.credit v &&& 0xFFFFFFFFFFFFFFF8 }
    | 2 => s.setQueue q { x with cq := mergeHalf acc x.cq v &&& 0xFFFFFFFFFFFFF01F }
    | 3 => s.setQueue q { x with headAddr := mergeHalf acc x.headAddr v &&& 0xFFFFFFFFFFFFFFF8 }
    | 4 => s.setQueue q { x with irq := mergeHalf acc x.irq v &&& 0x000007FFFF00FF03 }
    | _ => s

/-- Write a word of the MSI-X table; unmasking an entry sends its pending message (R318, PCIe). -/
def State.writeMsix (s : State) (i : Nat) (acc : Acc) (v : Word) : State :=
  let w := mergeHalf acc (s.msixWord i) v
  let w := if i % 2 = 1 then w &&& 0x00000001FFFFFFFF else w
  let s := { s with hif := { s.hif with msixTable := tput s.hif.msixTable i w } }
  let n := i / 2
  if i % 2 = 1 && !w.getLsbD 32 && tget false s.hif.msixPend n then
    { s with hif := { s.hif with msixPend := tput s.hif.msixPend n false } }.emit (.msix n)
  else s

/-- Write MGMT_ARG[i] (R319). -/
def State.writeMgmtArg (s : State) (i : Nat) (acc : Acc) (v : Word) : State :=
  { s with hif := { s.hif with args := tput s.hif.args i (mergeHalf acc (tget 0 s.hif.args i) v) } }

/-- A host write of the register at an aligned BAR0 offset; reserved and read-only registers discard it
(R10, R11, R281, R318, and each block's register table). -/
def State.writeReg (s : State) (off : Nat) (acc : Acc) (v : Word) : State :=
  let h := off - 0x100000
  let q := off - 0x200000
  let t := (off - 0x1000000) / 0x100000
  let tr := (off - 0x1000000) % 0x100000
  let o := off - 0x7000000
  if off < 0x100000 then s
  else if off < 0x200000 then
    if h = 0x8 then s.writeHiErr acc v
    else if h = 0x10 then s.writeBar4Ctrl acc v
    else if 0x100 ≤ h && h < 0x120 then s.writeMgmtArg ((h - 0x100) / 8) acc v
    else if h = 0x120 then s.writeMgmtCmd acc v
    else if h = 0x200 then s.writeFqCfg acc v
    else if h = 0x208 then s.writeFqHead acc v
    else if h = 0x210 then s.writeFqStatus acc v
    else if 0x80000 ≤ h && h < 0x88000 then s.writeMsix ((h - 0x80000) / 8) acc v
    else s
  else if off < 0x240000 then s.writeQueueReg (q / 0x40) (q % 0x40 / 8) acc v
  else if off < 0x1000000 then s
  else if off < 0x1000000 + 68 * 0x100000 then
    if tr = 0x20 then s.writeStoreErr t acc v
    else if tr = 0x48 then s.writeSched t acc v
    else if 0x1000 ≤ tr && tr < 0x1800 && tr % 0x80 = 8 then s.writeSlotDeadline t ((tr - 0x1000) / 0x80) acc v
    else if 0x1000 ≤ tr && tr < 0x1800 && tr % 0x80 = 0x10 then s.writeSlotFlags t ((tr - 0x1000) / 0x80) acc v
    else s
  else if 0x6000000 ≤ off && off < 0x6400000 then
    if (off - 0x6000000) % 0x40000 = 0x10 then s.writeMpErr ((off - 0x6000000) / 0x40000) acc v else s
  else if 0x6400000 ≤ off && off < 0x6500000 then
    if (off - 0x6400000) % 0x40000 = 0x10 then s.writeRnErr ((off - 0x6400000) / 0x40000) acc v else s
  else if off = 0x6800010 then s.writeLoss acc v
  else if off = 0x6C00008 then s.writeHostCap acc v
  else if 0x6C02000 ≤ off && off < 0x6C02000 + 162 * 8 then s.writeDom ((off - 0x6C02000) / 8) acc v
  else if 0x7000000 ≤ off && off < 0x7400000 then
    if o = 0 then s.writeSmpCfg acc v
    else if o = 8 then s.writeSmpInterval acc v
    else if o = 0x10 then s.writeSmpHead acc v
    else if o = 0x18 then s.writeSmpStatus acc v
    else if 0x100 ≤ o && o < 0x100 + 216 * 8 then s.writeGrpCtl ((o - 0x100) / 8) acc v
    else if 0x1000 ≤ o && o < 0x1000 + 68 * 8 then s.writeTraceCtl ((o - 0x1000) / 8) acc v
    else s
  else if 0x7800100 ≤ off && off < 0x7800100 + 132 * 8 then s.writeXing ((off - 0x7800100) / 8) acc v
  else s

/-- A host write to BAR0 (R11): an aligned 64-bit word or an aligned half; any other width or alignment is
discarded. -/
def State.writeBar0 (s : State) (off len : Nat) (v : Word) : State :=
  if len = 8 && off % 8 = 0 then s.writeReg off .full v
  else if len = 4 && off % 4 = 0 then s.writeReg (off / 8 * 8) (if off % 8 = 0 then .lo else .hi) (v &&& 0xFFFFFFFF)
  else s

def execMmioWrite (off len : Nat) (v : Word) (s : State) : Ans := mmio s (fun s => s.writeBar0 off len v)

end Sys2Proof.Machine
end

