-- ==== Sys2Proof/Machine/Life.lean ====
section
/-! DEFINITION. The events of a tile outside its instructions: queue slots that free (R45), kernel boundaries (R69), lockstep
and scrubbing (R52, R58), clears (R60), watchdogs (R392), swaps (R387), refusals (R270, R283), and demand (R415). -/

namespace Sys2Proof.Machine

/-! ### Engine queues and kernel boundaries -/

/-- Issue an engine operation by the class of its base word (R201). -/
def State.issueWord (s : State) (t : Nat) (w x : Word) : State :=
  match wClass w with
  | 4 => s.issueMv t w x
  | 5 => s.issueVec t w x
  | 6 => s.issueTensor t w x
  | 0xB => s.issueCvt t w x
  | 7 => if wOp w ≤ 2 then s.issueTensor t w x else if wOp w = 4 then s.issueGate t w x else s.issueEx t w x
  | _ => s.issueEx t w x

/-- A core that stalled on a full queue issues its operation when a slot has freed (R45). -/
def execEngineSlotFree (t : Nat) (s : State) : Ans :=
  let c := (s.tile t).core
  match c.stall with
  | .queue w x =>
    if (s.tile t).engineFull (engineOf w x) || c.halted then .refused (.notEnabled "ENGINE_SLOT_FREE")
    else .next ((s.setCore t { c with stall := .none }).issueWord t w x)
  | _ => .refused (.notEnabled "ENGINE_SLOT_FREE")

def execKernelBoundary (t : Nat) (s : State) : Ans :=
  if s.kernelDone t && !(s.tile t).core.halted then .next (s.boundary t)
  else .refused (.notEnabled "KERNEL_BOUNDARY")

/-! ### Safety events of a tile -/

/-- A lockstep mismatch stops the kernel at the instruction, with its write withheld, and is row 0 (R51, R52, R442). -/
def execCoreLockstep (t : Nat) (s : State) : Ans :=
  match s.runCtx t with
  | some c => .next ((s.safetyStop t).raiseSafety 0 (srcId 1 t) [c] 0)
  | none => .refused (.notEnabled "CORE_LOCKSTEP")

/-- The patrol scrubber reads a written line (R57, R58). -/
def execPatrolScrub (t line : Nat) (res : Res) (s : State) : Ans :=
  let a := tsAddr t (line * 64)
  if s.hasTile t && s.lineWritten a then
    let l : List Spot := [.dev a none]
    match s.moveRes l [] res with
    | .uncorrectable => .next (s.ueRead l (s.granuleOwner t (line / 0x8000)).toList)
    | r => .next (s.countEcc l r)
  else .refused (.notEnabled "PATROL_SCRUB")

/-- A self-timed handshake of a tile has not completed 2 ms after its request (R22, R442). -/
def execHandshakeStall (t : Nat) (s : State) : Ans :=
  if s.hasTile t then
    .next ((s.setTile t { s.tile t with stallFault := true }).raiseSafety 3 (srcId 1 t) (s.runCtx t).toList 0)
  else .refused (.notEnabled "HANDSHAKE_STALL")

/-! ### Clears and swaps -/

/-- The oldest clear of a tile completes: its granules read zero and join their share (R60, R61). -/
def State.clearDone (s : State) (t : Nat) (bm : BitVec 256) (slot : Option Nat) (rest : List (BitVec 256 × Option Nat)) :
    State :=
  let s := (s.clearGranules t bm).setTile t { s.tile t with clearing := rest }
  match slot with
  | some i => s.setTile t ((s.tile t).setSlot i { (s.tile t).slot i with share := ((s.tile t).slot i).share ||| bm })
  | none => s

def execWrittenBitClearDone (t : Nat) (s : State) : Ans :=
  match (s.tile t).clearing with
  | [] => .refused (.notEnabled "WRITTEN_BIT_CLEAR_DONE")
  | (bm, slot) :: rest =>
    let s := s.clearDone t bm slot rest
    match s.sharingOn t with
    | some (_, c, n) => if rest.isEmpty && s.granulesOn t c == n then .next (s.mboxEnd stOk 0) else .next s
    | none => .next s

/-- The swap ends (R387): victims go to standby, the incoming share becomes resident, a CTX_SHARE that waited goes on
(R385), and an idle tile chooses again (R389). -/
def State.swapEnd (s : State) (t : Nat) (w : Swap) : State :=
  let s := w.victims.foldl (fun s i => s.swapOut t i) s
  let s := match w.ctx with
    | some c => s.swapIn t w.slot c
    | none => s
  let s := s.setTile t { s.tile t with swap := none }
  (s.shareGoes t).dispatchTile t

/-- The ports that serve the backing areas have served the swap: one that withholds credits holds it up (R247, R387). -/
def execSwapDone (t : Nat) (s : State) : Ans :=
  match (s.tile t).swap with
  | some w =>
    if s.accessOpen t t (s.swapSpots t w) then .next (s.swapEnd t w) else .refused (.notEnabled "SWAP_DONE")
  | none => .refused (.notEnabled "SWAP_DONE")

/-! ### The watchdog (R392, R393) -/

/-- WATCHDOG is taken at an instruction boundary: a core that waits for load data is not at one (R195). -/
def Core.atBoundary (c : Core) : Bool :=
  match c.stall with
  | .load .. => false
  | _ => true

def execWatchdogExpire (t : Nat) (s : State) : Ans :=
  if s.watchdogDue t && (s.tile t).core.atBoundary then .next (s.takeWatchdog t)
  else .refused (.notEnabled "WATCHDOG_EXPIRE")

/-! ### Accesses that the host or a fenced endpoint refuses (R270, R283) -/

/-- A dispatch-unit operation sends no more and ends with a detail, once its sent messages are answered. -/
def State.failDispatch (s : State) (t : Nat) (o : EngOp) (code : Nat) : State :=
  let s := (s.unsend t o o.unans o.todo).markOp t o.id (fun o => { o with todo := [] }.fail 0 code)
  match (s.tile t).ops.find? (fun p => p.id == o.id) with
  | some p => if p.quiet then (s.endOp t p p.err).proceed t else s
  | none => s

/-- What a requester's access in progress reads and writes, none when it has none. -/
def State.asks (s : State) (who : Requester) : Option (List Spot) :=
  match who with
  | .core t => match (s.tile t).core.stall with
    | .load _ _ n _ va => some (s.vaSpots t va n)
    | _ => none
  | .mover t mv => ((s.tile t).moverOp mv).map (fun o => s.mvReads t o ++ s.mvWrites t o)
  | .dispatch t kd => ((s.tile t).exOp kd).map (fun o => s.exReads t o ++ s.exWrites t o)
  | .command q seq => (s.moverCmd q seq).map (fun c => s.cmdReads c ++ s.cmdWrites c)
  | .headWord q => if (s.queue q).st = 0 then none else some [.host (s.ctx (s.queue q).ctx).pasid (fld (s.queue q).headAddr.toNat 3 61 * 8)]

/-- What a requester's access in progress reads. -/
def State.reading (s : State) (who : Requester) : List Spot :=
  match who with
  | .core t => (s.asks (.core t)).getD []
  | .mover t mv => match (s.tile t).moverOp mv with
    | some o => s.mvReads t o
    | none => []
  | .dispatch t kd => match (s.tile t).exOp kd with
    | some o => s.exReads t o
    | none => []
  | .command q seq => match s.moverCmd q seq with
    | some c => s.cmdReads c
    | none => []
  | .headWord _ => []

/-- The access of a requester ends with a result that did not succeed. -/
def State.refuse (s : State) (who : Requester) (l : List Spot) (res : Res) : State :=
  match who with
  | .core t => s.accessStop t l res
  | .mover t mv => match (s.tile t).moverOp mv with
    | some o => s.moved t o res [] []
    | none => s
  | .dispatch t kd => match (s.tile t).exOp kd with
    | some o => (s.countRefused l res).failDispatch t o ((exErr res).getD 0)
    | none => s
  | .command q seq => match s.moverCmd q seq with
    | some c => s.hostMoved q c res [] []
    | none => s
  | .headWord _ => s.countRefused l res

/-- The host refuses a request of an access that reaches its memory (R283). -/
def execHostDmaRefused (who : Requester) (s : State) : Ans :=
  match s.asks who with
  | some l =>
    if l.any (fun p => match p with | .host .. => true | _ => false) then .next (s.refuse who l .hostRefused)
    else .refused (.notEnabled "HOST_DMA_REFUSED")
  | none => .refused (.notEnabled "HOST_DMA_REFUSED")

/-- A refusing endpoint in its range refuses a request of an access (R270). -/
def execRefusedReply (who : Requester) (s : State) : Ans :=
  match s.asks who with
  | some l =>
    if l.any (fun p => s.spotRes p == .refused) then .next (s.refuse who l .refused) else .refused (.notEnabled "REFUSED_REPLY")
  | none => .refused (.notEnabled "REFUSED_REPLY")

/-! ### Demand and wakes of tiles (R415) -/

/-- A packet for a tile that is not ON waits in its endpoint buffer and wakes it (R258, R415); one for a BANKED quarter is refused
(R418). -/
def execEndpointPacketArrival (t : Nat) (s : State) : Ans :=
  if s.hasTile t && s.banked (quarterOf t) then .next (s.countRefused [] .refused)
  else if s.hasTile t && (s.dom t).st != 2 then
    .next ((s.setTile t { s.tile t with buffered := (s.tile t).buffered + 1 }).evalDom t)
  else .refused (.notEnabled "ENDPOINT_PACKET_ARRIVAL")

/-- A tile without demand for 100 µs returns to the state that its votes give (R415). -/
def execDemandIdleTimeout (t : Nat) (s : State) : Ans :=
  if s.hasTile t && !s.demand t then .next ((s.setDom t { s.dom t with warm := false }).evalDom t)
  else .refused (.notEnabled "DEMAND_IDLE_TIMEOUT")

end Sys2Proof.Machine
end

