-- ==== Sys2Proof/Machine/Runners.lean ====
section
/-! DEFINITION. Lane quads: training (R358, R359), flits received and sent (R360 to R363), and quads that go DOWN (R377 to R381). -/

namespace Sys2Proof.Machine

/-- Source of a runner port's records: class 4 (R30). -/
def portSrc (x : Nat) : BitVec 32 := srcId 4 (x / 4)

/-- Fault of a quad (R382): the detail holds the quad within its port. -/
def State.quadFault (s : State) (x : Nat) (code : BitVec 16) : State :=
  s.fault (portSrc x) code none false (BitVec.ofNat 64 (x % 4))

/-! ### 16-bit counts per channel -/

def ch16 (w : BitVec 64) (c : Nat) : Nat := fld w.toNat (16 * c) 16
def addCh (w : BitVec 64) (c k : Nat) : BitVec 64 := BitVec.ofNat 64 (putFld w.toNat (16 * c) 16 (ch16 w c + k))

/-- Count `k` events of the port of a quad, unless its owner is confidential (R491). -/
def State.countPort (s : State) (x i k : Nat) : State :=
  if (s.bunchOf (tget 0 s.comp.quadOwner x)).conf then s else s.count (84 + x / 4) i k

/-! ### Training -/

/-- A quad that can become READY: its port is not disabled and it trains. -/
def State.training (s : State) (x : Nat) : Bool :=
  s.hasRunner (x / 4) && !(s.runner (x / 4)).disabled && (s.quad x).st == 2 && !s.routerFailed (runnerRouter (x / 4))

/-- Receive buffers that the module advertises, TC TS TQ TB, and its retry buffer (R361, R362). -/
def ownBufs : Nat := 64 + 512 * 2 ^ 16 + 512 * 2 ^ 32 + 1024 * 2 ^ 48
def ownRetry : Nat := 2048

/-- SEQ of the last DATA flit received in order. -/
def Quad.ack (q : Quad) : BitVec 12 := q.rxSeq - 1

/-- The link parameters of a CTRL flit with PARAM, as its DATA holds them (R362). -/
def paramData : Nat :=
  2 + 1 * 2 ^ 96 + Config.deviceId.toNat * 2 ^ 160 + ownBufs * 2 ^ 224 + ownRetry * 2 ^ 288

/-- A CTRL flit with the credits of now, a NAK, and link parameters (R362). -/
def Quad.ctrl (q : Quad) (nak param : Bool) : BitVec 512 :=
  mkFlit (2 * 2 ^ 28 + q.ack.toNat)
    (bit nak + (if nak then q.rxSeq.toNat * 2 ^ 16 else 0) + q.freed.toNat * 2 ^ 32 + (if param then paramData else 0))

/-- Fresh link state of a quad after training (R358): both sides count from zero (log 27). -/
def Quad.linked (q : Quad) (full reversed : Bool) (bufs : BitVec 64) (retry : Nat) : Quad :=
  { st := 3, full, reversed, replays := q.replays, downs := q.downs, bufs, partnerRetry := retry }

/-- Saved training fits the partner and the order of a quad's lanes (R359). -/
def Runner.savedFor (r : Runner) (j : Nat) (reversed : Bool) (partner : Word) : Bool :=
  r.stored == some partner && r.laneMap.any (fun e => e.1 == j && e.2 == reversed)

/-- Training is full: the saved one does not fit, or the quad retries after a failure (R359). -/
def State.needsFull (s : State) (x : Nat) (reversed : Bool) (partner : Word) : Bool :=
  (s.quad x).retries || !(s.runner (x / 4)).savedFor (x % 4) reversed partner

/-- A full training saves the partner, the lane map and the coefficients (R359); those of another partner are gone. -/
def Runner.save (r : Runner) (j : Nat) (reversed : Bool) (partner : Word) (coef : Nat → Nat) : Runner :=
  let old := r.stored == some partner
  { r with
    stored := some partner
    laneMap := tput (if old then r.laneMap else []) j reversed
    coefs := (List.range 4).foldl (fun c i => tput c (4 * j + i) (coef i)) (if old then r.coefs else []) }

/-- A flit leaves on a quad, through the crossing of its port. -/
def State.sendFlit (s : State) (x : Nat) (f : BitVec 512) : State :=
  s.emit (.flit x f)

/-- A quad completes its training (R358, R359): it has sent training frames with the module's identifier (R466) and its parameters,
and has the partner's. Messages that waited for it go
out (R369, R381). The MGC frees held pads outside MAINTENANCE (R419). -/
def State.quadReady (s : State) (x : Nat) (full reversed : Bool) (kind : Nat) (partner : Word) (bufs : BitVec 64)
    (retry : Nat) : State :=
  let p := x / 4
  let s := (s.emit (.training x Config.deviceId full)).sendFlit x ({ s.quad x with rxSeq := 0, freed := 0 }.ctrl false true)
  let (v, s) := s.draw 100
  let r := s.runner p
  let r := if full then r.save (x % 4) reversed partner (fun i => fld v.toNat (36 + 16 * i) 16) else r
  let s := s.setRunner p { r with kind, partner }
  let s := s.setQuad x ((s.quad x).linked full reversed bufs retry)
  let s := (List.range 4).foldl (fun (s : State) i =>
    { s with lanes := tput s.lanes (4 * x + i) { (tget {} s.lanes (4 * x + i) : Lane) with
        locked := true, snr := fld v.toNat (9 * i) 8, inv := v.getLsbD (9 * i + 8) } }) s
  let s := if (s.dom (156 + p)).held && !s.boot.maint then s.releasePads (156 + p) else s
  s.flushWaits

/-- Every READY quad of a port has one partner (R28). -/
def State.onePartner (s : State) (x kind : Nat) (partner : Word) : Bool :=
  let r := s.runner (x / 4)
  (List.range 4).all (fun j => (s.quad (x / 4 * 4 + j)).st != 3 || (r.kind == kind && r.partner == partner))

def execQuadTrained (x : Nat) (full reversed : Bool) (kind : Nat) (partner : Word) (bufs : BitVec 64) (retry : Nat)
    (s : State) : Ans :=
  if s.training x && full == s.needsFull x reversed partner && s.onePartner x kind partner then
    .next (s.quadReady x full reversed kind partner bufs retry)
  else .refused (.notEnabled "QUAD_TRAINED")

/-- Three times the bound has passed: fault 0x0402, and the quad stays DOWN (R359). -/
def execTrainingTimeout (x : Nat) (s : State) : Ans :=
  if s.training x then .next ((s.setQuad x { s.quad x with st := 4 }).quadFault x 0x0402)
  else .refused (.notEnabled "TRAINING_TIMEOUT")

/-- Full training again, every 10 s while the port is not disabled (R359); a port without a partner stays untrained (R28). -/
def execTrainingRetry (x : Nat) (s : State) : Ans :=
  if s.hasRunner (x / 4) && Config.hasPartner (x / 4) && !(s.runner (x / 4)).disabled && (s.quad x).st == 4 then
    .next (s.setQuad x { s.quad x with st := 2, retries := true })
  else .refused (.notEnabled "TRAINING_RETRY")

/-! ### A quad goes DOWN (R378) -/

/-- An unanswered message of a quad that went DOWN: TC is resent with its SEQ, a GET_REQ once with a new one, any other ends
its operation with MSG_TIMEOUT. One to a rank that is lost by now has ended so (R379). -/
def State.redo (s : State) (m : Msg) : State :=
  if s.rankLost m.bunch m.epoch m.dst then s
  else if m.chan = 0 then s.queueAway m
  else
    let x := s.bunchOf m.bunch
    match leafAt ((x.mapFor m.epoch).getD x.map) m.src with
    | none => s
    | some t =>
      let is := fun (u : Sent) => u.dst == m.dst && u.seq == m.seq && u.cls == m.cls
      match (s.tile t).ops.find? (fun o => o.unans.any is) with
      | none => s
      | some o =>
        let fresh := match o.unans.find? is with
          | some u => m.cls == clsGetReq && !u.again
          | none => false
        let open' := s.pairOpen m.bunch m.src m.dst
        if fresh && open' then
          let (seq, s) := s.sendMsg m.bunch m.src m.dst m.epoch m.srcGen m.cls m.chan m.len m.param m.payload
          s.markOp t o.id (fun o => { o with
            unans := o.unans.map (fun u => if is u then { u with seq, again := true } else u) })
        else
          (s.markOp t o.id (fun o => { o with unans := o.unans.filter (fun u => !is u) }.fail m.seq
            (if fresh then 0x2F else 0x2E))).proceed t

/-- Messages of a quad that no flit has carried yet. -/
def Quad.waiting (q : Quad) : List Msg :=
  (List.range 4).flatMap (fun c => (tget [] q.txq c).drop (if tget 0 q.part c = 0 then 0 else 1))

/-- A quad goes DOWN: its buffers are discarded, its owner's ranks that no listed quad reaches any more are lost (R379), and its other
pairs move (R378). It retrains at once unless its port is disabled (R381). -/
def State.quadDown (s : State) (x : Nat) : State :=
  let q := s.quad x
  let b := tget 0 s.comp.quadOwner x
  let st := if (s.runner (x / 4)).disabled then 4 else 2
  let s := s.setQuad x { st, full := q.full, reversed := q.reversed, replays := q.replays, downs := satAdd 0xFFFF q.downs 1 }
  let s := (List.range 4).foldl (fun (s : State) i =>
    { s with lanes := tput s.lanes (4 * x + i) { (tget {} s.lanes (4 * x + i) : Lane) with locked := false } }) s
  let y := s.bunchOf b
  let gone := if b = 0 then [] else y.otherModules.filter (fun m => (s.listedQuads b m).isEmpty)
  let s := if gone.isEmpty then s else s.declareLost b (gone.flatMap y.ranksOn)
  let s := q.unans.foldl (fun s m => s.redo m) s
  (q.waiting.foldl (fun s m => if s.rankLost m.bunch m.epoch m.dst then s else s.queueAway m) s).flushWaits

/-- The event that takes a quad DOWN has come about (R377). -/
def State.downDue (s : State) (x : Nat) (why : DownWhy) : Bool :=
  let q := s.quad x
  match why with
  | .lockLost | .crcSilence => true
  | .ackStall => !q.retry.isEmpty
  | .naks => 16 ≤ q.naks.2
  | .disabled => (s.runner (x / 4)).disabled

def execQuadDown (x : Nat) (why : DownWhy) (s : State) : Ans :=
  if s.hasRunner (x / 4) && (s.quad x).st == 3 && s.downDue x why then .next ((s.quadDown x).quadFault x 0x0400)
  else .refused (.notEnabled "QUAD_DOWN")

/-- The orchestrator disables a runner port: its quads that train, are READY or PARKED go DOWN (R377, R382). -/
def State.disablePort (s : State) (p : Nat) : State :=
  let s := s.setRunner p { s.runner p with disabled := true }
  (List.range 4).foldl (fun s j =>
    let x := 4 * p + j
    if (s.quad x).st = 1 || (s.quad x).st = 4 then s else (s.quadDown x).quadFault x 0x0400) s

def execPortDisable (f : Frame) (x : Nat) (s : State) : Ans :=
  framed f s (fun s => if s.hasRunner x then .ok (s.disablePort x) else .fail s 0x14)

/-! ### Receiving flits (R360 to R362) -/

/-- The ACK of a flit frees the retry buffer (R361). -/
def Quad.acked (q : Quad) (ack : BitVec 12) : Quad :=
  match findIdx (fun f => fSEQ f == ack) q.retry 0 with
  | some i => { q with retry := q.retry.drop (i + 1), resend := min q.resend (q.retry.length - (i + 1)) }
  | none => q

/-- A DATA flit out of order, or any flit with a bad CRC: one NAK, and DATA is discarded until the expected SEQ arrives. -/
def Quad.rejects (q : Quad) : Quad := if q.nakking then q else { q with nakking := true, nakDue := true }

/-- The class byte of a received message. -/
def classOf (parts : List (BitVec 448)) : Nat := fld (parts.headD 0).toNat 96 8

/-- Accept a DATA flit: at the message's end its buffers are freed, and a reserved class counts as a protocol error (R366). -/
def State.takeData (s : State) (x : Nat) (f : BitVec 512) : State :=
  let q := s.quad x
  let c := fVC f
  let parts := (if fSOM f then [] else tget [] q.rxq c) ++ [fDATA f]
  let q := { q with rxSeq := q.rxSeq + 1, nakking := false }
  if fEOM f then
    let s := s.setQuad x { q with rxq := tput q.rxq c [], freed := addCh q.freed c parts.length, ctrlDue := true }
    let s := s.countPort x (4 + c) (fld (parts.headD 0).toNat 112 16)
    let s := if classOf parts = clsAnswer then s.countPort x 9 1 else s
    if classOf parts = 0 || 0x10 < classOf parts then s.countProtocol (some x) else s
  else s.setQuad x { q with rxq := tput q.rxq c parts }

/-- A flit with a good CRC and a reserved TYPE takes the quad DOWN with fault 0x0403 (R360). -/
def State.badType (s : State) (x : Nat) : State := (s.quadDown x).quadFault x 0x0403

/-- A flit other than CTRL arrives. -/
def State.rxData (s : State) (x : Nat) (f : BitVec 512) : State :=
  if !crcGood f then s.setQuad x (s.quad x).rejects
  else if 4 ≤ fTYPE f then s.badType x
  else
    let s := s.setQuad x ((s.quad x).acked (fACK f))
    if fTYPE f = 1 then
      if fSEQ f = (s.quad x).rxSeq then s.takeData x f else s.setQuad x (s.quad x).rejects
    else s

/-- Field of a CTRL flit: `n` bytes from byte `b` (R362). -/
def ctrlFld (f : BitVec 512) (b n : Nat) : Nat := fld f.toNat (8 * b) (8 * n)

/-- A NAK resends from NAK_SEQ onward (R361), and is counted for R377. -/
def Quad.nak (q : Quad) (n : BitVec 12) : Quad :=
  let q := { q with naks := if q.naks.1 = n && q.naks.2 != 0 then (n, q.naks.2 + 1) else (n, 1) }
  match findIdx (fun f => fSEQ f == n) q.retry 0 with
  | some i => { q with resend := q.retry.length - i, replays := satAdd 0xFFFF q.replays 1 }
  | none => q

/-- A CTRL flit arrives (R362): cumulative credits, a NAK, and the partner's parameters. -/
def State.rxCtrl (s : State) (x : Nat) (f : BitVec 512) : State :=
  if !crcGood f then s.setQuad x (s.quad x).rejects
  else
    let q := (s.quad x).acked (fACK f)
    let q := { q with credits := BitVec.ofNat 64 (ctrlFld f 8 8) }
    let q := if (ctrlFld f 4 1).testBit 0 then q.nak (BitVec.ofNat 12 (ctrlFld f 6 2)) else q
    let q := if (ctrlFld f 4 1).testBit 1 then
        { q with bufs := BitVec.ofNat 64 (ctrlFld f 32 8), partnerRetry := ctrlFld f 40 2, ctrlDue := true, paramDue := true }
      else q
    let s := s.setQuad x q
    if (ctrlFld f 4 1).testBit 1 then
      s.setRunner (x / 4) { s.runner (x / 4) with kind := ctrlFld f 16 1 % 4, partner := BitVec.ofNat 64 (ctrlFld f 24 8) }
    else s

/-- The codewords that brought a flit add to their lanes' FEC counts: open numbers of corrected ones, and of uncorrected ones where the
flit's CRC is bad (R382; log 196). -/
def State.countFec (s : State) (x : Nat) (f : BitVec 512) : State :=
  let (v, s) := s.draw 20
  (List.range 4).foldl (fun (s : State) i =>
    let l : Lane := tget {} s.lanes (4 * x + i)
    { s with lanes := tput s.lanes (4 * x + i) { l with
        fecC := satAdd 0xFFFFFFFF l.fecC (fld v.toNat (5 * i) 4)
        fecU := if crcGood f then l.fecU else satAdd 0xFFFF l.fecU (fld v.toNat (5 * i + 4) 1) } }) s

/-- A flit has come through the crossing of its port. -/
def State.flitIn (s : State) (x : Nat) (f : BitVec 512) : State := (s.crossUp (32 + x / 4) (toBytes 64 f.toNat)).countFec x f

def execDataFlitRx (x : Nat) (flit : BitVec 512) (s : State) : Ans :=
  if !(s.hasRunner (x / 4) && s.quadUp x) then .refused (.notEnabled "DATA_FLIT_RX")
  else if crcGood flit && fTYPE flit == 2 then .refused (.otherWord "DATA_FLIT_RX")
  else .next ((s.flitIn x flit).rxData x flit)

def execCtrlFlitRx (x : Nat) (flit : BitVec 512) (s : State) : Ans :=
  if !(s.hasRunner (x / 4) && s.quadUp x) then .refused (.notEnabled "CTRL_FLIT_RX")
  else if crcGood flit && fTYPE flit != 2 then .refused (.otherWord "CTRL_FLIT_RX")
  else .next ((s.flitIn x flit).rxCtrl x flit)

/-- The ACK has made no progress for 5 µs: resend from the oldest (R361). -/
def execAckTimeout (x : Nat) (s : State) : Ans :=
  let q := s.quad x
  if q.st = 3 && !q.retry.isEmpty then
    .next (s.setQuad x { q with resend := q.retry.length, replays := satAdd 0xFFFF q.replays 1 })
  else .refused (.notEnabled "ACK_TIMEOUT")

/-! ### Sending flits (R361 to R363) -/

/-- A channel has a new DATA flit that may be sent: a message, a credit, room in the retry buffer, and nothing to resend. -/
def Quad.ready (q : Quad) (c : Nat) : Bool :=
  !(tget [] q.txq c).isEmpty && q.retry.length < 2048 && q.resend == 0
    && (ch16 q.sent c + 0x10000 - ch16 q.credits c) % 0x10000 < ch16 q.bufs c

/-- A message is answered by the receiver, so its quad keeps it (R366, R378). -/
def keepsSent (m : Msg) : Bool := m.cls != clsAnswer && m.cls != clsGetReply

/-- Send the next flit of a channel's first message. -/
def State.txData (s : State) (x c : Nat) : State :=
  let q := s.quad x
  match tget [] q.txq c with
  | [] => s
  | m :: rest =>
    let bs := s.msgBytes m
    let i := tget 0 q.part c
    let last := i + 1 == s.msgFlits m
    let f := mkFlit (dataHdr c (i == 0) last q.txSeq q.ack) (ofBytes ((bs.drop (56 * i)).take 56))
    let q := { q with
      txSeq := q.txSeq + 1, retry := q.retry ++ [f], sent := addCh q.sent c 1
      part := tput q.part c (if last then 0 else i + 1)
      txq := if last then tput q.txq c rest else q.txq
      unans := if i = 0 && keepsSent m then q.unans ++ [m] else q.unans }
    let s := ((s.setQuad x q).sendFlit x f).countPort x (12 + x % 4) 1
    if last then (s.countPort x c m.payload.length).countPort x 8 1 else s

/-- Send a flit of the retry buffer again. -/
def State.txAgain (s : State) (x : Nat) : State :=
  let q := s.quad x
  match q.retry.drop (q.retry.length - q.resend) with
  | [] => s
  | f :: _ => ((s.setQuad x { q with resend := q.resend - 1 }).sendFlit x (reAck f q.ack)).countPort x 11 1

/-- Floors and weights of RN_ARB for TS 1, TQ 2 and TB 3. -/
def arbFloor (w : Word) (c : Nat) : Nat := fld w.toNat (24 + 8 * c) 8
def arbWeight (w : Word) (c : Nat) : Nat := fld w.toNat (4 * (c - 1)) 4

/-- The channel that takes an arbitrated slot (R262): a floor first, then weighted round robin from the channel whose turn it is. -/
def Quad.pick (q : Quad) (arb : Word) : Option Nat :=
  match [1, 2, 3].find? (fun c => q.ready c && tget 0 q.frame c < arbFloor arb c) with
  | some c => some c
  | none =>
    if q.ready q.turn.1 && q.turn.2 != 0 then some q.turn.1
    else (List.range 3).findSome? (fun i =>
      let c := (q.turn.1 + i) % 3 + 1
      if q.ready c then some c else none)

/-- The turn after a channel took a slot. -/
def Quad.turned (q : Quad) (arb : Word) (c : Nat) : Quad :=
  if tget 0 q.frame c < arbFloor arb c then { q with frame := tput q.frame c (tget 0 q.frame c + 1) }
  else
    let left := if c = q.turn.1 && q.turn.2 != 0 then q.turn.2 - 1 else arbWeight arb c - 1
    { q with turn := (c, left), frame := tput q.frame c (tget 0 q.frame c + 1) }

/-- Count a slot: frames have 64 slots, a SKIP comes at least once in every 4,096, and changed credits in every 256. -/
def Quad.tick (q : Quad) : Quad :=
  let q := { q with skip := q.skip + 1, ctrlAge := if q.ctrlDue then q.ctrlAge + 1 else 0 }
  if q.slot = 63 then { q with slot := 0, frame := [] } else { q with slot := q.slot + 1 }

/-- VC of the flit that is sent again next. -/
def Quad.againVc (q : Quad) : Option Nat :=
  ((q.retry.drop (q.retry.length - q.resend)).head?).map fVC

/-- Send the CTRL flit that is due. -/
def State.txCtrl (s : State) (x : Nat) (nak : Bool) : State :=
  let q := s.quad x
  (s.setQuad x { q with ctrlDue := false, ctrlAge := 0, paramDue := false, nakDue := q.nakDue && !nak }).sendFlit x
    (q.ctrl nak q.paramDue)

/-- Fill one flit slot in the order of R363; a flit sent again stands where its channel stands, before new flits. The CTRL flit
that R362 requires in the 256th slot goes before the arbitrated channels (DEDUCED, log 167). -/
def State.fillSlot (s : State) (x : Nat) : State :=
  let s := s.setQuad x (s.quad x).tick
  let q := s.quad x
  let arb := (s.runner (x / 4)).arb
  if q.nakDue then (s.txCtrl x true).countPort x 10 1
  else if q.againVc = some 0 then s.txAgain x
  else if q.ready 0 then s.txData x 0
  else if 4095 ≤ q.skip then (s.setQuad x { q with skip := 0 }).sendFlit x (mkFlit (3 * 2 ^ 28 + q.ack.toNat) 0)
  else if 256 ≤ q.ctrlAge then s.txCtrl x false
  else if q.againVc.isSome then s.txAgain x
  else match q.pick arb with
    | some c => (s.setQuad x (q.turned arb c)).txData x c
    | none => if q.ctrlDue then s.txCtrl x false else s.sendFlit x (mkFlit q.ack.toNat 0)

def execFlitSlot (x : Nat) (s : State) : Ans :=
  if s.hasRunner (x / 4) && s.quadUp x then .next (s.fillSlot x) else .refused (.notEnabled "FLIT_SLOT")

end Sys2Proof.Machine
end

