-- ==== Sys2Proof/Machine/Compose.lean ====
section
/-! DEFINITION. Composition: bunch records and slices (R321 to R323), loss and repair (R339, R341), ranges (R229, R482), and the
requests for grafts (R325 to R333). -/

namespace Sys2Proof.Machine

/-! ### Changes, roles and generations -/

/-- A composition change: CHANGE_SEQ and MSI-X vector 1 (R354). -/
def State.changed (s : State) : State :=
  { s with comp := { s.comp with changeSeq := s.comp.changeSeq + 1 } }.msix 1

/-- Change a tile's role (R15); ports recompute default floors at their next window (R248). -/
def State.setRole (s : State) (t role : Nat) : State :=
  let s := s.setTile t { s.tile t with role }
  { s with ports := s.ports.map (fun e => (e.1, { e.2 with stale := true })) }

/-- Increment the generation of a tile (R337). -/
def State.bumpGen (s : State) (t : Nat) : State :=
  { s with stone := { s.stone with gens := tput s.stone.gens t (tget 0 s.stone.gens t + 1) } }

/-! ### Rank maps (R37) -/

/-- Leaf tiles of a bunch in rank order, with the generations of now. -/
def State.leavesOf (s : State) : Nat → BitVec 32 → List Leaf
  | 0, _ => []
  | n + 1, id => (s.bunchOf id).members.flatMap (fun m => match m with
    | .tile t => [{ module := 0, tile := t, gen := tget 0 s.stone.gens t }]
    | .remote md t g => [{ module := md, tile := t, gen := g }]
    | .away _ ls => ls.map (fun l => { module := l.1, tile := l.2.1, gen := l.2.2 })
    | .bunch b => s.leavesOf n b)

/-- Recompute the maps of a bunch and its ancestors without an epoch change (a FORMING bunch serves no traffic). -/
def State.remapUp (s : State) (id : BitVec 32) : State :=
  (s.ancestors 257 id).foldl (fun s b => s.updBunch b (fun x => { x with map := s.leavesOf 257 b })) s

/-- Move bunches to their next epoch (R326, R334): the previous one stays live. -/
def State.epochAll (s : State) (ids : List (BitVec 32)) : State :=
  ids.eraseDups.foldl (fun s b => s.nextEpoch b (s.leavesOf 257 b) true) s

/-- Move a bunch and its ancestors to their next epoch. -/
def State.epochUp (s : State) (id : BitVec 32) : State := s.epochAll (s.ancestors 257 id)

/-! ### Loss and repair of the state (R339, R341) -/

/-- A MIRROR segment of a context of the bunch covers granule `g` of range `rid`, and its other copy lies on a port in service
(R237). -/
def State.granuleMirrored (s : State) (b : BitVec 32) (rid g : Nat) : Bool :=
  s.hif.ctxs.any (fun e => e.2.valid && s.nestedIn e.2.bunch b && (List.range 16).any (fun i =>
    let d := tget 0 e.2.segs i
    let (rs, ms) := tget ([], []) e.2.names i
    let n := rs.length
    let other := fun (k : Nat) => match s.rangeById k with | some (m, _) => (s.port m).st != 4 | none => false
    segValid d && segTarget d == 2 && segMirror d
      && (rs.zip ms).any (fun (x, y) => (x == rid && other y) || (y == rid && other x))
      && segBase d ≤ g * n * 0x4000000 && (g + 1) * n * 0x4000000 ≤ segBase d + segSize d))

/-- A bunch has a range on FAILED port `m` that no MIRROR segment covers whole (R339). -/
def State.rangeLostOn (s : State) (m : Nat) (b : BitVec 32) : Bool :=
  let r := (s.port m).rangeFor b
  (s.port m).st == 4 && r.valid && !(List.range r.len).all (fun g => s.granuleMirrored b r.home g)

def State.rangeLost (s : State) (b : BitVec 32) : Bool := (List.range 16).any (fun m => s.rangeLostOn m b)

/-- Some bunch nested directly in a bunch has state `st`. -/
def State.memberIn (s : State) (b : BitVec 32) (st : Nat) : Bool :=
  (s.bunchOf b).members.any (fun m => match m with
    | .bunch k => (s.bunchOf k).st == st
    | _ => false)

/-- The state of a bunch that is composed and not being taken apart (R323, R339, R341): FROZEN and HALTED by its members,
DEGRADED until a graft repairs what it lost. -/
def State.liveState (s : State) (b : BitVec 32) : Nat :=
  if s.memberIn b 4 then 4 else if s.memberIn b 5 then 5 else if (s.bunchOf b).hurt || s.memberIn b 3 then 3 else 2

/-- A graft has repaired a bunch, or one that holds it, when no rank and no range of it is lost any more: it returns to ACTIVE, the
inner bunch first (R341). -/
def State.heal (s : State) (b : BitVec 32) : State :=
  (s.ancestors 257 b).foldl (fun s a =>
    let s := s.updBunch a (fun x => { x with hurt := x.hurt && (!x.lost.isEmpty || s.rangeLost a) })
    if (s.bunchOf a).st = 3 then s.updBunch a (fun x => { x with st := s.liveState a }) else s) s

/-- Ranks that a tile of this module holds in any bunch are lost, and its bunches become DEGRADED (R339, R452). -/
def State.loseTile (s : State) (t : Nat) : State :=
  let bs := (s.comp.bunches.filter (fun e => e.2.st != 0)).map (fun e => e.2.id)
  bs.foldl (fun s b =>
    let rs := ((s.bunchOf b).localLeaves.filter (fun p => p.2 == t)).map Prod.fst
    if rs.isEmpty then s else s.declareLost b rs) s

/-- A tile that loses its place leaves its bunch (R35): a lost leaf stands there until a graft replaces it. -/
def State.dropTile (s : State) (t : Nat) : State :=
  let s := s.loseTile t
  let g := tget 0 s.stone.gens t
  { s with comp := { s.comp with bunches := s.comp.bunches.map (fun e => (e.1, { e.2 with
      members := e.2.members.map (fun m => if m = .tile t then .remote 0 t g else m) })) } }

/-- The member, or the lost leaf in its place, is tile `t` of this module. -/
def isPlace (t : Nat) : Member → Bool
  | .tile k => k == t
  | .remote md k _ => md == 0 && k == t
  | _ => false

/-! ### Ranges (R228, R229, R483) -/

/-- Granules of a port that may be granted: 0 to 1,429, without the Husk region. -/
def State.lastGranule (s : State) (m : Nat) : Nat := if m = 0 || m = huskPortOf s.boot.variant then 1426 else 1430

/-- Runs that RANGE_RELOCATE grafts have taken on a port and not yet filled. -/
def State.relocating (s : State) (m : Nat) : List (Nat × Nat) :=
  (s.comp.grafts.filter (fun g => g.kind == 2 && g.port == m)).map (fun g => (g.first, ((s.port g.out).rangeFor g.bunch).len))

/-- Two runs have no granule in common. -/
def apart (a n b k : Nat) : Bool := a + n ≤ b || b + k ≤ a

/-- The run lies in the port, overlaps no range on it and none that a graft moves there, and the port has a free entry. -/
def State.rangeFits (s : State) (m base len : Nat) : Bool :=
  let rs : List Range := ((List.range 8).map (fun i => tget {} (s.port m).ranges i)).filter (·.valid)
  s.hasPort m && 1 ≤ len && base + len ≤ s.lastGranule m
    && rs.all (fun r => apart base len r.base r.len) && (s.relocating m).all (fun r => apart base len r.1 r.2)
    && rs.length + (s.relocating m).length < 8

/-- The same, and no grant that waits for its granules wants one of the run. -/
def State.rangeFree (s : State) (m base len : Nat) : Bool :=
  s.rangeFits m base len && s.comp.grants.all (fun g => g.2.port != m || apart base len g.2.base g.2.len)

/-- Every granule of the run is CLEAN (R483). -/
def State.runClean (s : State) (m base len : Nat) : Bool :=
  (List.range len).all (fun i => tget 0 (s.port m).granules (base + i) == 2)

/-- Some granule of the run is withheld from every grant (R483). -/
def State.runWithheld (s : State) (m base len : Nat) : Bool :=
  (List.range len).any (fun i => tget 0 (s.port m).granules (base + i) == 3)

/-- Put a range of an identity on a port for a bunch. -/
def State.placeRange (s : State) (b : BitVec 32) (m base len home : Nat) : State :=
  let p := s.port m
  match (List.range 8).find? (fun i => !(tget {} p.ranges i : Range).valid) with
  | some i => s.setPort m { p with ranges := tput p.ranges i { valid := true, base, len, owner := b, home } }
  | none => s

/-- Give a bunch a new range: its identity is the number of its grant (R229). -/
def State.addRange (s : State) (b : BitVec 32) (m base len : Nat) : State :=
  let n := s.comp.grantNo + 1
  State.placeRange { s with comp := { s.comp with grantNo := n } } b m base len n

/-- Granules of a run start DIRTY for Peel (R483). -/
def Port.dirty (p : Port) (base len : Nat) : Port :=
  { p with granules := (List.range len).foldl (fun g k => tput g (base + k) 0) p.granules }

/-- Take a bunch's range away: its granules start DIRTY for Peel (R482, R483). -/
def State.dropRange (s : State) (b : BitVec 32) (m : Nat) : State :=
  let p := s.port m
  match p.rangeOf b with
  | some i =>
    let r : Range := tget {} p.ranges i
    s.setPort m ({ p with ranges := tdel p.ranges i }.dirty r.base r.len)
  | none => s

/-- Grant the waiting ranges whose granules are CLEAN, oldest first (R506). -/
def State.grantReady (s : State) : State :=
  s.comp.grants.foldl (fun s g =>
    if s.rangeFits g.2.port g.2.base g.2.len && s.runClean g.2.port g.2.base g.2.len then
      let s := s.addRange g.1 g.2.port g.2.base g.2.len
      ({ s with comp := { s.comp with grants := s.comp.grants.erase g } }.changed).revote
    else s) s

/-- A bunch has, or is about to have, a range on a port: it holds at most one there (R229). -/
def State.rangeTaken (s : State) (b : BitVec 32) (m : Nat) : Bool :=
  ((s.port m).rangeOf b).isSome || s.comp.grants.any (fun g => g.1 == b && g.2.port == m)
    || s.comp.grafts.any (fun g => (g.kind == 2 || g.kind == 3) && g.gaining == b && g.port == m)

/-- A bunch may be granted a range (R228, R229). -/
def State.grantOk (s : State) (b : BitVec 32) (r : RangeReq) : Bool :=
  s.rangeFree r.port r.base r.len && !s.rangeTaken b r.port && !s.runWithheld r.port r.base r.len

/-- Enter a range grant; it waits until its granules are CLEAN. -/
def State.askGrant (s : State) (b : BitVec 32) (r : RangeReq) : State :=
  { s with comp := { s.comp with grants := s.comp.grants ++ [(b, r)] } }.grantReady

/-! ### Composing and dissolving (R321 to R323) -/

/-- A listed member can join: a SERVING tile of no bunch and of no graft (R35), a recorded bunch without a parent that does not
hold the new one, leaves of other modules. -/
def State.memberOk (s : State) (id parent : BitVec 32) : Member → Bool
  | .tile t => s.hasTile t && (s.tile t).role == 0 && s.tileBunch t == 0 && !s.inGraft t
  | .bunch b => b != id && !(s.ancestors 257 parent).contains b && (s.findBunch b).isSome && (s.bunchOf b).parent == 0
      && (s.bunchOf b).st != 6
  | .remote md _ _ => md != 0
  | .away d ls => d != 0 && !ls.isEmpty && ls.all (fun l => l.1 != 0)

/-- A lane quad can be granted: no owner, and a partner at its port (R321). -/
def State.quadFree (s : State) (x : Nat) : Bool :=
  x < 16 && s.hasRunner (x / 4) && tget 0 s.comp.quadOwner x == 0 && (s.runner (x / 4)).kind != 0

/-- Lowest unused record. -/
def State.freeRecord (s : State) : Option Nat := (List.range 256).find? (fun i => (s.bunch i).st == 0)

/-- Leaf tiles that a composition would give a bunch stay within R37. -/
def leavesFit (n : Nat) : Bool := n ≤ 16777215

/-- No two leaves are one tile (R35). -/
def leavesApart (l : List Leaf) : Bool := (l.map (fun x => (x.module, x.tile))).eraseDups.length == l.length

/-- Create a bunch record with its slices, nested in its parent. -/
def State.compose (s : State) (i : Nat) (id parent : BitVec 32) (members : List Member) (ranges : List RangeReq)
    (quads : List Nat) (host encrypt : Bool) : State :=
  let conf := (s.bunchOf parent).conf && parent != 0
  let s := s.setBunch i { st := 1, id, parent, members, host, encrypt, conf }
  let s := members.foldl (fun s m => match m with
    | .bunch b => s.updBunch b (fun x => { x with parent := id })
    | _ => s) s
  let s := s.updBunch parent (fun x =>
    { x with members := if x.members.contains (.bunch id) then x.members else x.members ++ [.bunch id] })
  let s : State := { s with comp := { s.comp with quadOwner := quads.foldl (fun q x => tput q x id) s.comp.quadOwner } }
  let s := ranges.foldl (fun s r => s.askGrant id r) (s.remapUp id)
  s.changed.revote

/-- TILE_MOVE grafts in progress that will bring a leaf tile into a bunch. -/
def State.comingInto (s : State) (b : BitVec 32) : Nat :=
  (s.comp.grafts.filter (fun g => g.kind == 1 && s.nestedIn g.gaining b)).length

/-- COMPOSE_BUNCH (R322, R323, R37). -/
def State.composeNew (s : State) (id parent : BitVec 32) (members : List Member) (ranges : List RangeReq) (quads : List Nat)
    (host encrypt : Bool) : Reply :=
  if id = 0 || id = parent || !members.all (s.memberOk id parent) || members.eraseDups.length != members.length
      || !quads.all s.quadFree || quads.eraseDups.length != quads.length || !ranges.all (s.grantOk id)
      || (ranges.map (·.port)).eraseDups.length != ranges.length
      || (parent != 0 && (s.bunchOf parent).st != 1) then .fail s 0x14
  else if (s.findBunch id).isSome then .fail s 0x12
  else match s.freeRecord with
    | none => .fail s 0x0E
    | some i =>
      let t := s.compose i id parent members ranges quads host encrypt
      if !leavesApart (t.bunchOf id).map then .fail s 0x14
      else if (t.ancestors 257 id).all (fun b => leavesFit ((t.bunchOf b).map.length + t.comingInto b)) then .ok t
      else .fail s 0x0E

/-- A bunch on several modules that is confidential or marked ENCRYPT needs an ACTIVE key here (R478). -/
def State.keyReady (s : State) (b : BitVec 32) : Bool :=
  let x := s.bunchOf b
  !(x.conf || x.encrypt) || x.otherModules.isEmpty || s.activeKey b != 0

/-- BUNCH_ACTIVATE (R322, R478). -/
def State.activate (s : State) (b : BitVec 32) : Reply :=
  if (s.findBunch b).isNone then .fail s 0x14
  else if (s.bunchOf b).st != 1 || !s.keyReady b then .fail s 0x12
  else .ok ((s.updBunch b (fun x => { x with st := s.liveState b })).changed.revote)

/-- Contexts of a bunch and of those nested in it. -/
def State.ctxsOf (s : State) (b : BitVec 32) : List Nat :=
  (s.hif.ctxs.filter (fun e => e.2.valid && s.nestedIn e.2.bunch b)).map Prod.fst

/-- A graft waits for an in-service update: of the MGC, or of a port it involves (R509, R510). -/
def State.waitsUpdate (s : State) (g : Graft) : Bool :=
  s.mgcAway || (g.kind == 4 && s.updating 4 (g.out / 4))
    || ((g.kind == 2 || g.kind == 3) && (s.updating 3 g.out || s.updating 3 g.port))

/-- Bunches that a graft names: those it moves between, and that of the tile it brings in. -/
def State.graftBunches (s : State) (g : Graft) : List (BitVec 32) :=
  [g.bunch, g.gaining] ++ (if g.kind = 0 then [s.tileBunch g.inc] else [])

/-- A bunch takes part in a graft. -/
def State.grafting (s : State) (b : BitVec 32) : Bool := s.comp.grafts.any (fun g => (s.graftBunches g).contains b)

/-- The previous epoch of a bunch of a graft, or of one that holds it and whose epoch it changes, is still live: the graft
waits (R333, R335). -/
def State.prevLives (s : State) (g : Graft) : Bool :=
  (s.graftBunches g).any (fun b => (s.ancestors 257 b).any (fun a => (s.bunchOf a).prevLive))

/-- Remove a bunch record: its slices are free, nested bunches become roots, its votes end (R323, R416). -/
def State.dissolve (s : State) (b : BitVec 32) : State :=
  let parent := (s.bunchOf b).parent
  let s := (List.range 16).foldl (fun s m => s.dropRange b m) s
  let s : State := { s with comp := { s.comp with
    quadOwner := s.comp.quadOwner.filter (fun e => e.2 != b)
    grants := s.comp.grants.filter (fun g => g.1 != b)
    bunches := (s.comp.bunches.filter (fun e => e.2.id != b)).map (fun e => (e.1, { e.2 with
      parent := if e.2.parent = b then 0 else e.2.parent
      members := e.2.members.filter (fun m => m != .bunch b) })) } }
  ((s.epochUp parent).changed).revote

/-- A bunch in DISSOLVING is gone once no previous epoch of those that hold it is live: they move to their next (R322, R335). -/
def State.tryDissolve (s : State) (b : BitVec 32) : State :=
  if (s.bunchOf b).st = 6 && ((s.ancestors 257 b).drop 1).all (fun a => !(s.bunchOf a).prevLive) then s.dissolve b else s

/-- DISSOLVE_BUNCH (R323, R482). -/
def State.askDissolve (s : State) (b : BitVec 32) : Reply :=
  if (s.findBunch b).isNone then .fail s 0x14
  else if (s.ctxsOf b).any (fun c => !(s.queuesOf c).isEmpty) || s.grafting b || (s.bunchOf b).st == 6
      || ((List.range 16).any (fun m => ((s.port m).rangeOf b).isSome) && s.sec.jobKeys.any (fun k => k.bunch == b)) then
    .fail s 0x12
  else .ok ((s.updBunch b (fun x => { x with st := 6 })).tryDissolve b)

/-- RANGE_GRANT (R228, R229, R506). -/
def State.grantRange (s : State) (b : BitVec 32) (r : RangeReq) : Reply :=
  if (s.findBunch b).isNone || !s.grantOk b r then .fail s 0x14 else .ok (s.askGrant b r)

/-- RANGE_RELEASE (R482). -/
def State.releaseRange (s : State) (b : BitVec 32) (m : Nat) : Reply :=
  if ((s.port m).rangeOf b).isNone then .fail s 0x14
  else if s.sec.jobKeys.any (fun k => k.bunch == b) || s.grafting b then .fail s 0x12
  else .ok ((s.dropRange b m).changed.revote)

/-! ### Changes that first wake their units (R417) -/

/-- What a composition change does and answers. -/
def State.change (s : State) : Change → Reply
  | .compose id parent members ranges quads host encrypt => s.composeNew id parent members ranges quads host encrypt
  | .activate b => s.activate b
  | .dissolve b => s.askDissolve b
  | .grant b r => s.grantRange b r
  | .release b m => s.releaseRange b m

/-- A composition change that can be made waits until its units are ON, and holds votes of ON for them meanwhile (R417); one that
cannot is answered at once. -/
def State.changeWaits (s : State) (c : Change) : Bool := (s.change c).status == 0 && !s.unitsOn (s.changeUnits c)

/-- A composition command: accepted and performed, or left waiting for its units to wake. -/
def changing (f : Frame) (c : Change) (s : State) : Ans :=
  if s.mgmtOpen && s.frameOk f && (s.takeFrame f).changeWaits c then
    let s := s.takeFrame f
    .next (State.revote { s with comp := { s.comp with waking := s.comp.waking ++ [(f, c)] } })
  else framed f s (fun s => s.change c)

def execComposeBunch (f : Frame) (id parent : BitVec 32) (members : List Member) (ranges : List RangeReq) (quads : List Nat)
    (host encrypt : Bool) (s : State) : Ans := changing f (.compose id parent members ranges quads host encrypt) s
def execBunchActivate (f : Frame) (b : BitVec 32) (s : State) : Ans := changing f (.activate b) s
def execDissolveBunch (f : Frame) (b : BitVec 32) (s : State) : Ans := changing f (.dissolve b) s
def execRangeGrant (f : Frame) (b : BitVec 32) (r : RangeReq) (s : State) : Ans := changing f (.grant b r) s
def execRangeRelease (f : Frame) (b : BitVec 32) (m : Nat) (s : State) : Ans := changing f (.release b m) s

/-- A change that waited is made and answered, and its votes end. -/
def State.wakeChange (s : State) (e : Frame × Change) : State :=
  let r := s.change e.2
  State.revote { r.s.respond e.1 r.status r.body with comp := { (r.s.respond e.1 r.status r.body).comp with
    waking := r.s.comp.waking.erase e } }

/-- Changes whose units have woken are made, oldest first (R417); while the MGC restarts they wait (R509). -/
def State.wakeChanges (s : State) : State :=
  if s.mgcAway then s else s.comp.waking.foldl (fun s e => if s.changeWaits e.2 then s else s.wakeChange e) s

/-! ### Requests for grafts (R325, R333) -/

/-- A bunch may take part in a graft: recorded, in no other one, not FROZEN, HALTED or DISSOLVING. -/
def State.graftBad (s : State) (b : BitVec 32) : Option (BitVec 16) :=
  if (s.findBunch b).isNone then some 0x14
  else if s.grafting b || 4 ≤ (s.bunchOf b).st || (s.ancestors 257 b).any (fun a => (s.bunchOf a).freezing.isSome) then
    some 0x12
  else none

/-- A bunch named by a graft, none for 0. -/
def State.graftBadOpt (s : State) (b : BitVec 32) : Option (BitVec 16) := if b = 0 then none else s.graftBad b

/-- Contexts with a share on a tile: pinned ones first, each in slot order (R327). -/
def State.copyOrder (s : State) (t : Nat) : List Nat :=
  let cs := (List.range 16).filterMap (fun i => let x := (s.tile t).slot i; if x.valid then some x.ctx else none)
  cs.filter (fun c => (s.ctx c).pinned) ++ cs.filter (fun c => !(s.ctx c).pinned)

/-- Free slots of a tile. -/
def Tile.freeSlots (x : Tile) : Nat := ((List.range 16).filter x.slotFree).length

/-- The incoming tile has room for every share and standby entry of the outgoing one (R327). -/
def State.replaceFits (s : State) (out inc : Nat) : Bool :=
  let cs := s.copyOrder out
  cs.length ≤ (s.tile inc).freeSlots
    && (cs.map (s.granulesOn out)).foldl (· + ·) 0 ≤ (s.tile inc).freeCount
    && (s.tile out).standby.length + (s.tile inc).standby.length ≤ 48

/-- What a TILE_MOVE has used so far of the heir's slots and granules, of the reserve's bytes and of DETACH entries. -/
structure MovePlan where
  slots : Nat
  granules : Nat
  bytes : Nat
  entries : Nat

/-- A share goes to the heir. -/
def State.toHeir (s : State) (heir : Option Nat) (c need usedSlots usedGranules : Nat) : Bool :=
  match heir with
  | some h => s.granulesOn h c == 0 && usedSlots < (s.tile h).freeSlots && usedGranules + need ≤ (s.tile h).freeCount
  | none => false

/-- DETACH entries in use, and those that TILE_MOVE grafts in progress may still need (R353). -/
def State.detachUsed (s : State) : Nat :=
  (s.comp.detach.filter (fun e => e.2.valid)).length
    + ((s.comp.grafts.filter (fun g => g.kind == 1 && g.reserve.isSome)).map (fun g =>
        if g.step ≤ 1 then (s.copyOrder g.out).length else g.todo.length)).foldl (· + ·) 0

/-- Bytes from an offset to the end of the losing bunch's range on a port. -/
def State.reserveRoom (s : State) (losing : BitVec 32) (reserve : Option (Nat × Nat)) : Nat :=
  match reserve with
  | some (m, off) => ((s.port m).rangeFor losing).len * 0x4000000 - off
  | none => 0

/-- Every share of a moving tile fits the heir or the reserve (R327, R353). -/
def State.moveFits (s : State) (t : Nat) (losing : BitVec 32) (heir : Option Nat) (reserve : Option (Nat × Nat)) : Bool :=
  let step := fun (p : Option MovePlan) (c : Nat) => p.bind (fun p =>
    let n := s.granulesOn t c
    if s.toHeir heir c n p.slots p.granules then some { p with slots := p.slots + 1, granules := p.granules + n }
    else if p.bytes + n * 0x200000 ≤ s.reserveRoom losing reserve && p.entries < 64 then
      some { p with bytes := p.bytes + n * 0x200000, entries := p.entries + 1 }
    else none)
  ((s.copyOrder t).foldl step (some { slots := 0, granules := 0, bytes := 0, entries := s.detachUsed })).isSome

/-- Tiles in SERVING. -/
def State.serving (s : State) : Nat := (s.tileNos.filter (fun t => (s.tile t).role == 0)).length

/-- A graft adds a SERVING tile when it ends: a replacement does where only a lost leaf stands in the outgoing tile's place. -/
def State.addsServing (s : State) (g : Graft) : Bool :=
  if g.kind = 0 then (s.tile g.inc).role != 0 && !(s.bunchOf g.bunch).members.contains (.tile g.out)
  else g.kind = 1 && (s.tile g.out).role != 0 && g.gaining != 0

/-- One more SERVING tile stays within the usable count, with those of the grafts in progress (R17). -/
def State.mayServe (s : State) : Bool := s.serving + (s.comp.grafts.filter s.addsServing).length < s.boot.usable

/-- The rotation engine has started a graft of a bunch: the time counts for it and for those that hold it (R396). -/
def State.stampTurn (s : State) (b : BitVec 32) : State :=
  { s with stone := { s.stone with rotated := (s.ancestors 257 b).foldl (fun l a => tput l a.toNat s.time) s.stone.rotated } }

/-- A graft whose previous epochs have retired and whose units are awake begins (R333, R417): at a tile graft the outgoing tile
accepts no further launch (R326 step 1), RANGE_MOVE sends its range through Peel (R331). -/
def State.startGraft (s : State) (g : Graft) : State :=
  let step := if g.kind ≤ 1 then 1 else 3
  let s : State := { s with comp := { s.comp with grafts := updFirst (fun k => k == g) (fun k => { k with step }) s.comp.grafts } }
  let s := if g.why = 1 then s.stampTurn g.bunch else s
  if g.kind ≤ 1 then s.setTile g.out { s.tile g.out with noLaunch := true }
  else if g.kind = 3 then
    let r := (s.port g.port).rangeFor g.bunch
    s.setPort g.port ((s.port g.port).dirty r.base r.len)
  else s

/-- A graft waits: a previous epoch of its bunches is live (R333), or a unit that it names has still to wake (R417). -/
def State.graftWaits (s : State) (g : Graft) : Bool := s.prevLives g || !s.unitsOn (graftUnits g)

/-- A graft is requested: it wakes the units that it names (R338, R417), and begins when it need not wait. -/
def State.beginGraft (s : State) (g : Graft) : State :=
  let s := State.revote { s with comp := { s.comp with grafts := s.comp.grafts ++ [g] } }
  if s.graftWaits g then s else s.startGraft g

/-- The graft of TILE_REPLACE. -/
def replaceGraft (b : BitVec 32) (out inc why : Nat) : Graft :=
  { kind := 0, bunch := b, gaining := b, out, inc, pos := 0, heir := none, reserve := none, step := 0, why, todo := [],
    port := 0, first := 0 }

/-- A tile can come in: SPARE, or SERVING in another bunch without a share or launch of its own; no graft names it. -/
def State.incomingOk (s : State) (b : BitVec 32) (inc : Nat) : Bool :=
  s.hasTile inc && !s.inGraft inc && !(s.tile inc).refusing && ((s.tile inc).role == 1 || ((s.tile inc).role == 0
    && s.tileBunch inc != b && s.copyOrder inc == [] && (s.tile inc).core.run.isNone && (s.tile inc).standby.isEmpty))

/-- A bunch has the tile as a direct member, or a lost leaf in its place. -/
def State.lists (s : State) (b : BitVec 32) (t : Nat) : Bool := (s.bunchOf b).members.any (isPlace t)

/-- A replacement of tile `out` in a bunch keeps within the usable count (R17): the tile leaves its place, what comes in serves
already, or one more may serve. -/
def State.replaceServes (s : State) (b : BitVec 32) (out inc : Nat) : Bool :=
  (s.bunchOf b).members.contains (.tile out) || (s.tile inc).role == 0 || s.mayServe

def execTileReplace (f : Frame) (b : BitVec 32) (out inc : Nat) (s : State) : Ans :=
  framed f s (fun s =>
    match s.graftBad b, s.graftBadOpt (s.tileBunch inc) with
    | some e, _ => .fail s e
    | _, some e => .fail s e
    | none, none =>
      if !s.lists b out || !s.incomingOk b inc then .fail s 0x14
      else if ((s.bunchOf b).members.contains (.tile out) && !s.replaceFits out inc) || !s.replaceServes b out inc then .fail s 0x0E
      else .ok (s.beginGraft (replaceGraft b out inc 0)))

/-- One more leaf tile in a bunch, and in those that hold it but not the losing one, stays within R37. -/
def State.gainFits (s : State) (losing gaining : BitVec 32) : Bool :=
  (s.ancestors 257 gaining).all (fun a => (s.ancestors 257 losing).contains a
    || leavesFit ((s.bunchOf a).map.length + 1 + s.comingInto a))

def execTileMove (f : Frame) (t : Nat) (losing gaining : BitVec 32) (pos : Nat) (heir : Option Nat)
    (reserve : Option (Nat × Nat)) (s : State) : Ans :=
  framed f s (fun s =>
    match s.graftBadOpt losing, s.graftBadOpt gaining with
    | some e, _ => .fail s e
    | _, some e => .fail s e
    | none, none =>
      let joins := losing = 0 && (s.tile t).role != 0
      if !s.hasTile t || losing = gaining || (s.tile t).role = 2 || (s.tile t).role = 3 || s.tileBunch t != losing
          || s.inGraft t || (s.tile t).refusing
          || (match heir with | some h => h == t || s.tileBunch h != losing | none => false) then .fail s 0x14
      else if !s.moveFits t losing heir reserve || (joins && !s.mayServe) || !s.gainFits losing gaining then .fail s 0x0E
      else .ok (s.beginGraft { kind := 1, bunch := losing, gaining, out := t, inc := t, pos, heir, reserve, step := 0, why := 0,
                               todo := [], port := 0, first := 0 }))

def execRangeRelocate (f : Frame) (b : BitVec 32) (m newPort newFirst : Nat) (s : State) : Ans :=
  framed f s (fun s =>
    let r := (s.port m).rangeFor b
    match s.graftBad b with
    | some e => .fail s e
    | none =>
      if !r.valid || !s.rangeFree newPort newFirst r.len || (newPort != m && s.rangeTaken b newPort) then
        .fail s 0x14
      else if !s.runClean newPort newFirst r.len then .fail s 0x12
      else .ok (s.beginGraft { kind := 2, bunch := b, gaining := b, out := m, inc := 0, pos := 0, heir := none, reserve := none,
                               step := 0, why := 0, todo := [], port := newPort, first := newFirst }))

/-- A valid LPDDR segment of a context leads to a range. -/
def State.segLeads (s : State) (home c i : Nat) : Bool :=
  let d := tget 0 (s.ctx c).segs i
  let (rs, ms) := s.segNames c i
  segValid d && segTarget d == 2 && (rs.contains home || ms.contains home)

/-- A segment of a context of the bunch, or of one nested in it, names the port or the range on it, or an object or DETACH
record lies in that range (R331). An object lies where its segment leads. -/
def State.rangeUsed (s : State) (b : BitVec 32) (m : Nat) : Bool :=
  let home := ((s.port m).rangeFor b).home
  let names := fun (c i : Nat) =>
    let d := tget 0 (s.ctx c).segs i
    segValid d && segTarget d == 2 && ((segPorts d).testBit m || (segMports d).testBit m)
  (s.ctxsOf b).any (fun c => (List.range 16).any (fun i => names c i || s.segLeads home c i))
    || s.hif.objs.any (fun e => e.2.st != 0 && s.segLeads home e.2.ctx e.2.seg)
    || s.comp.detach.any (fun e => e.2.valid && e.2.home == home)

def execRangeMove (f : Frame) (b : BitVec 32) (m : Nat) (gaining : BitVec 32) (s : State) : Ans :=
  framed f s (fun s =>
    match s.graftBad b, s.graftBad gaining with
    | some e, _ => .fail s e
    | _, some e => .fail s e
    | none, none =>
      let r := (s.port m).rangeFor b
      if !r.valid || b = gaining || s.rangeTaken gaining m then .fail s 0x14
      else if s.rangeUsed b m then .fail s 0x12
      else .ok (s.beginGraft
        { kind := 3, bunch := b, gaining, out := m, inc := 0, pos := 0, heir := none, reserve := none, step := 0,
          why := 0, todo := [], port := m, first := r.base }))

/-! ### FREEZE (R343) -/

/-- Begin a FREEZE of a root bunch: tiles without a kernel pass their boundary at once. Markers of this FREEZE that came before
it are kept. -/
def State.beginFreeze (s : State) (b : BitVec 32) : State :=
  let s := s.updBunch b (fun x => { x with wantFreeze := false, freezing := some [], freezeNo := x.freezeNo + 1 })
  let s := (s.bunchOf b).localLeaves.foldl (fun s p =>
    if (s.tile p.2).core.run.isNone then s.freezeBoundary p.2 else s) s
  s.tryFrozen b

/-- A graft has ended: a FREEZE that waited for it begins (R344). -/
def State.graftGone (s : State) (g : Graft) : State :=
  let s : State := { s with comp := { s.comp with grafts := s.comp.grafts.erase g } }
  let roots := (s.comp.bunches.filter (fun e => e.2.wantFreeze)).map (fun e => e.2.id)
  roots.foldl (fun s b => if s.comp.grafts.any (fun h => (s.graftBunches h).any (fun k => s.nestedIn k b)) then s
    else s.beginFreeze b) s

/-! ### Lane quads that change owner (R332) -/

/-- Nothing of the quad is left to send or to be acknowledged by its partner (R332). -/
def State.quadEmpty (s : State) (x : Nat) : Bool :=
  let q := s.quad x
  q.retry.isEmpty && q.txq.all (fun e => e.2.isEmpty)

/-- A lane quad changes owner (R332); messages of its new owner that waited for a quad go out. -/
def State.moveQuad (s : State) (g : Graft) : State :=
  let s : State := { s with comp := { s.comp with
    quadOwner := if g.gaining = 0 then tdel s.comp.quadOwner g.out else tput s.comp.quadOwner g.out g.gaining } }
  (((s.graftGone g).flushWaits).changed).revote

/-- A QUAD_MOVE can end: it need not wait, nothing it involves is updated, and nothing of the losing bunch is on the quad. -/
def State.quadDone (s : State) (g : Graft) : Bool :=
  (g.bunch == 0 || s.quadEmpty g.out) && !s.graftWaits g && !s.waitsUpdate g

def execQuadMove (f : Frame) (x : Nat) (gaining : BitVec 32) (s : State) : Ans :=
  framed f s (fun s =>
    let losing := tget 0 s.comp.quadOwner x
    match s.graftBadOpt losing, s.graftBadOpt gaining with
    | some e, _ => .fail s e
    | _, some e => .fail s e
    | none, none =>
      if 16 ≤ x || !s.hasRunner (x / 4) || losing = gaining || (losing = 0 && !s.quadFree x)
          || s.comp.grafts.any (fun g => g.kind == 4 && g.out == x) then .fail s 0x14
      else
        let g : Graft := { kind := 4, bunch := losing, gaining, out := x, inc := 0, pos := 0, heir := none, reserve := none,
                           step := 0, why := 0, todo := [], port := 0, first := 0 }
        if s.quadDone g then .ok (s.moveQuad g) else .ok (s.beginGraft g))

/-- The moving quad's retry buffer has emptied, and its graft need not wait (R332, R333, R417). -/
def execQuadRetryEmpty (x : Nat) (s : State) : Ans :=
  match s.comp.grafts.find? (fun g => g.kind == 4 && g.out == x) with
  | some g => if s.quadDone g then .next (s.moveQuad g) else .refused (.notEnabled "QUAD_RETRY_EMPTY")
  | none => .refused (.notEnabled "QUAD_RETRY_EMPTY")

end Sys2Proof.Machine
end

