-- ==== Sys2Proof/Machine/Grafts.lean ====
section
/-! DEFINITION. The steps of grafts (R326, R327, R329, R331), epochs that retire (R335), FREEZE, THAW, HALT and RESUME (R343 to
R347), resets of tiles and bunches (R431), and the return of a tile (R338). -/

namespace Sys2Proof.Machine

/-! ### Steps of a tile graft (R326, R327, R329) -/

/-- DEADLINE of a share that moves between tiles (R65). A DEADLINE of all ones, which means none, stays so (DESIGN CHOICE,
log 170). -/
def State.movedDeadline (s : State) (out inc : Nat) (d : Word) : Word :=
  if d = BitVec.allOnes 64 then d else d + (s.pacer inc - s.pacer out)

/-- Store line at line `k` of a share. -/
def storeLine (t : Nat) (bm : BitVec 256) (k : Nat) : Option Nat := (shareOff bm (k * 64)).map (fun o => tsAddr t o / 64)

/-- Lines of a share that its copy cannot read: those named, and those known to be uncorrectable (R452). -/
def State.unreadable (s : State) (t : Nat) (bm : BitVec 256) (bad : List Nat) : List Nat :=
  (s.shareLines t bm).filter (fun k => bad.contains k || (match storeLine t bm k with
    | some n => s.badLines.contains n
    | none => false))

/-- Copy one share with its slot state to another tile (R327, R65): every written line but those the copy cannot read, which
stay clear there (R452). -/
def State.moveShare (s : State) (out inc c : Nat) (bad : List Nat) : State :=
  match (s.tile out).slotOf c, (s.tile inc).freeSlot with
  | some i, some j =>
    let sl := (s.tile out).slot i
    match (s.tile inc).lowestFree 0 (popCount sl.share.toNat 256) with
    | none => s
    | some bm =>
      let no := s.unreadable out sl.share bad
      let lines := (s.shareLines out sl.share).filter (fun k => !no.contains k)
      let s := lines.foldl (fun s k =>
        match shareOff sl.share (k * 64), shareOff bm (k * 64) with
        | some a, some b => s.pokeN (tsAddr inc b) (s.peekN (tsAddr out a) 64)
        | _, _ => s) (s.clearGranules inc bm)
      s.setTile inc ((s.tile inc).setSlot j { sl with share := bm, deadline := s.movedDeadline out inc sl.deadline })
  | _, _ => s

/-- Write a share to the reserve and record it in DETACH (R327, R353); the rest of the reserve follows. -/
def State.reserveShare (s : State) (b : BitVec 32) (out c m off : Nat) (bad : List Nat) : State :=
  match (s.tile out).slotOf c, (List.range 64).find? (fun d => !(tget {} s.comp.detach d : Detach).valid) with
  | some i, some d =>
    let sl := (s.tile out).slot i
    let n := popCount sl.share.toNat 256
    let rank := s.ctxRank c out
    let r := (s.port m).rangeFor b
    let base := lpAddr m (r.base * 0x4000000 + off)
    let no := s.unreadable out sl.share bad
    let lines := (s.shareLines out sl.share).filter (fun k => !no.contains k)
    let s : State := { s with mem := memErase s.mem base (n * 0x200000) }
    let s := lines.foldl (fun s k => match shareOff sl.share (k * 64) with
      | some a => s.pokeN (base + k * 64) (s.peekN (tsAddr out a) 64)
      | none => s) s
    State.portMove { s with comp := { s.comp with
      detach := tput s.comp.detach d
        { valid := true, granules := n, ctx := c, rank, port := m, off, home := r.home } } } m 1 out (n * 0x200000)
  | _, _ => s

/-- The share of a context has room where R327 sends it. It was looked for at the request; a place that a swap has taken since
is waited for (DEDUCED, log 169). -/
def State.shareRoom (s : State) (g : Graft) (c : Nat) : Bool :=
  let n := s.granulesOn g.out c
  if g.kind = 0 then 0 < (s.tile g.inc).freeSlots && n ≤ (s.tile g.inc).freeCount
  else s.toHeir g.heir c n 0 0 || (n * 0x200000 ≤ s.reserveRoom g.bunch g.reserve
    && (match g.reserve with | some (m, _) => (s.port m).st != 4 | none => false)
    && (List.range 64).any (fun d => !(tget {} s.comp.detach d : Detach).valid))

/-- Copy or dispose of the share of one context under R327; the graft with what it has used of the reserve. The share stays on
the outgoing tile, whose endpoint holds all requests for it, until the tile is cleared. -/
def State.graftShare (s : State) (g : Graft) (c : Nat) (bad : List Nat) : State × Graft :=
  let n := s.granulesOn g.out c
  if g.kind = 0 then (s.moveShare g.out g.inc c bad, g)
  else if s.toHeir g.heir c n 0 0 then
    (s.moveShare g.out (g.heir.getD 0) c bad, { g with heirs := g.heirs ++ [c] })
  else match g.reserve with
    | some (m, off) => (s.reserveShare g.bunch g.out c m off bad, { g with reserve := some (m, off + n * 0x200000) })
    | none => (s, g)

/-- Standby entries move with their rank, their DEADLINE translated (R65, R388). Without an heir they end with it, and so do those
whose context the heir holds already or that it has no entry for (log 28). -/
def State.moveStandby (s : State) (out : Nat) (inc : Option Nat) : State :=
  let es := (s.tile out).standby
  match inc with
  | some t =>
    if t = out then s
    else
      let es := (es.filter (fun e => s.granulesOn t e.ctx == 0)).map (fun e =>
        { e with deadline := s.movedDeadline out t e.deadline })
      s.setTile t { s.tile t with standby := ((s.tile t).standby ++ es).take 48 }
  | none => s

/-- The endpoint forwards the requests that it held to the tile that has the share now; a request for a share that went to the
reserve is REFUSED (R329). -/
def State.forwardHeld (s : State) (out : Nat) (heir : Nat → Option Nat) (l : List Msg) : State :=
  l.foldl (fun s m =>
    match heir (s.obj (memHandle m)).ctx with
    | none => s.answer m resRefused
    | some t =>
      if m.cls = clsPut then s.gotPut out t m .ok
      else match ((s.bunchOf m.bunch).mapFor m.epoch).bind (fun map => map[m.src]?) with
        | some l => if m.cls = clsGetReq then s.gotGetReq out t l m .ok [] else s
        | none => s) s

/-- Put a tile in the place of another: of the member, or else of the lost leaf in its place. -/
def swapMember (l : List Member) (out inc : Nat) : List Member :=
  if l.contains (.tile out) then l.map (fun m => if m = .tile out then .tile inc else m)
  else updFirst (isPlace out) (fun _ => .tile inc) l

/-- Insert a member at a list position. -/
def insertMember (l : List Member) (pos : Nat) (m : Member) : List Member := l.take pos ++ [m] ++ l.drop pos

/-- Clear the outgoing tile and give it its role: step 4 of R326. -/
def State.clearOut (s : State) (t role : Nat) : State :=
  let x := s.tile t
  let s := (s.clearStore (tsAddr t 0) 0x20000000).setTile t { x with
    refusing := x.refusing || role == 2
    noLaunch := false, slots := [], standby := [], clearing := [], early := [], unmatched := [], contribs := [], rounds := []
    retParts := [], intakes := [], credits := [], endBuf := [] }
  (s.bumpGen t).setRole t role

/-- Tile reset: what waits on the tile ends with MEMBER_LOST, a running kernel with the reason that stopped it, or
SAFETY_FENCED (R393, R452); cores, engines, movers, dispatch unit, slots and store are cleared, the generation is incremented, and
the endpoint refuses until the tile rejoins. -/
def State.resetTile (s : State) (t : Nat) : State :=
  let s := s.dropOn t (fun _ => true) 3
  let c := (s.tile t).core
  let s := match c.run with
    | none => s
    | some r =>
      let (status, trap) := match c.stop with
        | some st => (st.status, if st.safety then 0 else st.trap)
        | none => ((8 : BitVec 16), 0)
      (s.charge t r.launch.q r.launch.seq).report t r.launch.q r.launch.seq r.rank status trap c.flags
  let x := s.tile t
  let s := ((s.loadImage 5 t).clearStore (tsAddr t 0) 0x20000000).setTile t
    { role := x.role, refusing := true, core := { sigs := x.core.sigs }, nextId := x.nextId, ce := x.ce, ue := x.ue
      ueBank := x.ueBank, swaps := x.swaps, overBudget := s.overCount t, watchdogs := s.dogCount t, base := x.base
      noLaunch := x.noLaunch }
  (s.bumpGen t).emptyBars t

/-- The tile comes in: its generation is incremented before a map holds it (R326 step 5, R337). -/
def State.bringIn (s : State) (t : Nat) : State :=
  let s := (s.bumpGen t).setRole t 0
  s.setTile t { s.tile t with noLaunch := false, refusing := false }

/-- The outgoing tile leaves its place to another: it is cleared and takes its role; in a repair it is reset (R452 step 5). -/
def State.leavePlace (s : State) (g : Graft) : State :=
  let s := (s.moveStandby g.out (some g.inc)).clearOut g.out (if g.why = 0 then 1 else 2)
  if g.why = 2 then s.resetTile g.out else s

/-- Steps 3 to 5 of R326 for TILE_REPLACE. The outgoing tile keeps its role where only its lost place was left. A lost leaf that
the new maps do not hold is lost no more. -/
def State.finishReplace (s : State) (g : Graft) : State :=
  let member := (s.bunchOf g.bunch).members.contains (.tile g.out)
  let held := (s.tile g.out).endBuf
  let from' := s.tileBunch g.inc
  let s := if member then s.leavePlace g else s
  let s := s.updBunch from' (fun x => { x with members := x.members.filter (fun m => m != .tile g.inc) })
  let s := s.bringIn g.inc
  let s := s.updBunch g.bunch (fun x => { x with members := swapMember x.members g.out g.inc })
  let s := s.epochAll (s.ancestors 257 from' ++ s.ancestors 257 g.bunch)
  ((s.heal g.bunch).forwardHeld g.out (fun _ => some g.inc) held).forwardBars g.out (fun _ => some g.inc)

/-- Steps 3 to 5 of R326 for TILE_MOVE. -/
def State.finishMove (s : State) (g : Graft) : State :=
  let held := (s.tile g.out).endBuf
  let s := (s.moveStandby g.out g.heir).clearOut g.out 1
  let s := s.updBunch g.bunch (fun x => { x with members := x.members.filter (fun m => m != .tile g.out) })
  let s := if g.gaining = 0 then s
    else (s.bringIn g.out).updBunch g.gaining (fun x => { x with members := insertMember x.members g.pos (.tile g.out) })
  let s := s.epochAll (s.ancestors 257 g.bunch ++ s.ancestors 257 g.gaining)
  let heir := fun c => if g.heirs.contains c then g.heir else none
  (s.forwardHeld g.out heir held).forwardBars g.out heir

/-- A CTX_SHARE that waited for a graft on its tile goes on. -/
def State.resumeShare (s : State) (t : Nat) : State :=
  if (s.tile t).swap.isSome then s else s.shareGoes t

/-- A tile graft has moved its shares: the maps change and the graft ends. -/
def State.finishTile (s : State) (g : Graft) : State :=
  let s := (if g.kind = 0 then s.finishReplace g else s.finishMove g).recheckSegs
  let s := (((s.graftGone g).changed).revote).dispatchTile g.inc
  [g.inc, g.heir.getD g.inc].eraseDups.foldl (fun s t => s.resumeShare t) s

/-- A recorded frame that lies in the store of tile `t`, or on port `m` in granules from `base` on (R242, R244). -/
def frameOn (t : Nat) (e : Nat) : Bool := e.testBit 0 && fld e 52 4 == 1 && fld e 32 7 == t
def frameIn (m base len e : Nat) : Bool :=
  let g := fld e 12 28 * 4096 / 0x4000000
  e.testBit 0 && fld e 52 4 == 0 && fld e 40 4 == m && base ≤ g && g < base + len

/-- Frames that an operand of a command holds. -/
def locFrames : Option Loc → List Nat
  | some (.frames _ _ fr) => fr
  | _ => []

/-- A command that has not completed holds a frame that satisfies `p` (R244). -/
def State.framesHeld (s : State) (p : Nat → Bool) : Bool :=
  s.hif.queues.any (fun e => e.2.cmds.any (fun c =>
    (locFrames c.loc1).any p || (locFrames c.loc2).any p || c.frames.any (fun f => f.2.any p)))

/-- The outgoing tile of a graft still has its place in the losing bunch. -/
def State.hasPlace (s : State) (g : Graft) : Bool := (s.bunchOf g.bunch).members.contains (.tile g.out)

/-- A tile graft may not yet make its epoch change: a previous epoch lives (R335), the MGC restarts (R509), or a command holds a
frame in the store that its shares leave (R244). -/
def State.tileHeld (s : State) (g : Graft) : Bool :=
  s.prevLives g || s.mgcAway || (s.hasPlace g && s.framesHeld (frameOn g.out))

/-- The outgoing tile has ended what it had started and no swap runs on it (R326 step 1, R388), the tiles are awake, and no
command holds a frame in its store (R244). On a fenced tile, and on one that the cycle bound has passed, no launch starts, and the
waiting ones move with their slots (R452, R454). -/
def State.drained (s : State) (g : Graft) : Bool :=
  let x := s.tile g.out
  !s.hasPlace g && g.kind == 0
    || (x.core.run.isNone && x.swap.isNone && !s.mgcAway && (s.dom g.out).st == 2 && (s.dom g.inc).st == 2
      && (g.why == 2 || s.stone.overdue.contains g.out || (x.waitingLaunches (fun _ => true)).isEmpty)
      && !s.framesHeld (frameOn g.out))

/-- The tile graft of a bunch at a step. -/
def State.tileGraft (s : State) (b : BitVec 32) (step : Nat) : Option Graft :=
  s.comp.grafts.find? (fun g => g.kind ≤ 1 && (g.bunch == b || g.gaining == b) && g.step == step)

/-- Replace a graft's record. -/
def State.setGraft (s : State) (g h : Graft) : State :=
  { s with comp := { s.comp with grafts := updFirst (fun k => k == g) (fun _ => h) s.comp.grafts } }

/-- A tile graft has no share left to move: its maps change now, or once nothing holds it. -/
def State.sharesMoved (s : State) (g : Graft) : State :=
  let h := { g with step := 3 }
  let s := s.setGraft g h
  if s.tileHeld h then s else s.finishTile h

/-- What a tile graft waited for has come about: its drain (R326 step 1), or, after its shares have moved, the end of the commands
that held a frame (R244). -/
def execGraftDrainDone (b : BitVec 32) (s : State) : Ans :=
  match s.tileGraft b 1, s.tileGraft b 3 with
  | none, some g => if s.tileHeld g then .refused (.notEnabled "GRAFT_DRAIN_DONE") else .next (s.finishTile g)
  | none, none => .refused (.notEnabled "GRAFT_DRAIN_DONE")
  | some g, _ =>
    if !s.drained g then .refused (.notEnabled "GRAFT_DRAIN_DONE")
    else
      let h := { g with step := 2, todo := if s.hasPlace g then s.copyOrder g.out else [] }
      let s := s.setGraft g h
      .next (if h.todo.isEmpty then s.sharesMoved h else s)

/-- Count lines of a share that its copy could not read, and raise STORE_UE for their context (R57, R452). -/
def State.copyUe (s : State) (t c : Nat) (lines : List Nat) : State :=
  if lines.isEmpty then s
  else (lines.foldl (fun s n => s.countLine .uncorrectable n) s).raiseSafety 1 (srcId 1 t) [c] 0

/-- A share's copy has ended; `bad` are lines of it that could not be read, whose context is affected (R452). -/
def execShareCopyDone (b : BitVec 32) (bad : List Nat) (s : State) : Ans :=
  match s.tileGraft b 2 with
  | none => .refused (.notEnabled "SHARE_COPY_DONE")
  | some g =>
    match (if s.mgcAway then [] else g.todo) with
    | [] => .refused (.notEnabled "SHARE_COPY_DONE")
    | c :: rest =>
      if (s.granulesOn g.out c != 0 && !s.shareRoom g c) || s.framesHeld (frameOn g.out) then .refused (.notEnabled "SHARE_COPY_DONE")
      else
        let bm := s.shareOn g.out c
        let lines := (s.unreadable g.out bm bad).filterMap (storeLine g.out bm)
        let (s, h) := s.graftShare g c bad
        let h := { h with todo := rest }
        let s := (s.setGraft g h).copyUe g.out c lines
        .next (if rest.isEmpty then s.sharesMoved h else s)

/-! ### Range grafts (R331) -/

/-- The copy of RANGE_RELOCATE has ended: the range's place changes at the epoch change, and the old granules go to Peel
(R331); a DETACH record of a share in it names the port that holds it now (R353). While it ran, writes went to both places,
so that the new one holds what the old one does; its bytes are REBUILD's (R250). A range on a failed port has lost its
contents (R341). -/
def State.finishRelocate (s : State) (g : Graft) : State :=
  let r := (s.port g.out).rangeFor g.bunch
  let a := lpAddr g.out (r.base * 0x4000000)
  let b := lpAddr g.port (g.first * 0x4000000)
  let n := r.len * 0x4000000
  let s := if (s.port g.out).st = 4 then s
    else (State.portMove { s with mem := moveCells s.mem a b n } g.out 3 73 n).portMove g.port 3 73 n
  let s := (s.dropRange g.bunch g.out).placeRange g.bunch g.port g.first r.len r.home
  let s : State := { s with comp := { s.comp with
    detach := s.comp.detach.map (fun e => (e.1, if e.2.home = r.home then { e.2 with port := g.port } else e.2)) } }
  ((((s.epochUp g.bunch).heal g.bunch).graftGone g).changed).revote

/-- The ports of a range graft serve and give REBUILD credits (R247). -/
def State.rebuildOpen (s : State) (g : Graft) : Bool :=
  s.portServes g.out && s.portServes g.port && (s.port g.port).st == 2 && (s.port g.out).credits 73 && (s.port g.port).credits 73

def execRangeCopyDone (b : BitVec 32) (s : State) : Ans :=
  match s.comp.grafts.find? (fun g => g.kind == 2 && g.bunch == b && g.step == 3) with
  | some g =>
    let r := (s.port g.out).rangeFor b
    if s.prevLives g || s.waitsUpdate g || !s.rebuildOpen g || s.framesHeld (frameIn g.out r.base r.len) then
      .refused (.notEnabled "RANGE_COPY_DONE")
    else .next (s.finishRelocate g)
  | none => .refused (.notEnabled "RANGE_COPY_DONE")

/-- The range of a RANGE_MOVE has passed through Peel. -/
def State.rangePeeled (s : State) (g : Graft) : Bool :=
  let r := (s.port g.port).rangeFor g.bunch
  s.runClean g.port r.base r.len

/-- RANGE_MOVE gives the range to its gaining bunch at an epoch change (R331). -/
def State.finishRangeMove (s : State) (g : Graft) : State :=
  let p := s.port g.port
  let s := match p.rangeOf g.bunch with
    | some i => s.setPort g.port { p with ranges := tput p.ranges i { (tget {} p.ranges i : Range) with owner := g.gaining } }
    | none => s
  (((s.epochUp g.gaining).graftGone g).changed).revote

/-! ### Grafts that waited, and epochs that retire (R333, R335) -/

/-- What a graft that waited can do now: begin, or make its epoch change. -/
def State.goGraft (s : State) (g : Graft) : State :=
  if s.prevLives g then s
  else if g.step = 0 then (if s.graftWaits g then s else s.startGraft g)
  else if s.waitsUpdate g || g.step != 3 then s
  else if g.kind ≤ 1 then (if s.tileHeld g then s else s.finishTile g)
  else if g.kind = 3 && s.rangePeeled g then s.finishRangeMove g
  else s

/-- Composition changes and grafts that waited, and bunches in DISSOLVING, go on. -/
def State.goOn (s : State) : State :=
  let s := s.wakeChanges
  let s := s.comp.grafts.foldl (fun s g => if s.comp.grafts.contains g then s.goGraft g else s) s
  ((s.comp.bunches.filter (fun e => e.2.st == 6)).map (fun e => e.2.id)).foldl (fun s b => s.tryDissolve b) s

/-- EPOCH_DRAINED from another module; what waited for the epoch goes on (R333, R335). -/
def execEpochMessage (m : Msg) (s : State) : Ans :=
  if m.cls != clsEpoch then .refused (.otherWord "EPOCH_MESSAGE")
  else if s.outrun m then .refused (.notEnabled "EPOCH_MESSAGE")
  else .next ((s.landed m).receiveMsg m .ok []).goOn

/-- The count under the previous epoch has reached zero: EPOCH_DRAINED goes to every module of the bunch (R335). -/
def execEpochDrainZero (b : BitVec 32) (s : State) : Ans :=
  let x := s.bunchOf b
  if x.prevLive && !x.sentDrained && !s.oldTraffic b then
    let s := x.otherModules.foldl (fun s m =>
      s.sendToModule b m clsEpoch 0 (BitVec.ofNat 64 ((x.epoch - 1).toNat + 2 ^ 16)) []) s
    .next (((s.updBunch b (fun x => { x with sentDrained := true })).tryRetire b).goOn)
  else .refused (.notEnabled "EPOCH_DRAIN_ZERO")

/-! ### Detached shares -/

def execDetachRelease (f : Frame) (d : Nat) (s : State) : Ans :=
  framed f s (fun s =>
    if (tget {} s.comp.detach d : Detach).valid then
      .ok { s with comp := { s.comp with detach := tdel s.comp.detach d } }.changed
    else .fail s 0x14)

/-! ### FREEZE, THAW, HALT, RESUME (R343 to R347) -/

def execFreeze (f : Frame) (b : BitVec 32) (s : State) : Ans :=
  framed f s (fun s =>
    let x := s.bunchOf b
    if (s.findBunch b).isNone || x.parent != 0 then .fail s 0x14
    else if x.st = 4 || x.freezing.isSome then .ok s
    else if x.st = 1 || 5 ≤ x.st then .fail s 0x12
    else if s.comp.grafts.any (fun g => (s.graftBunches g).any (fun k => s.nestedIn k b)) then
      .ok (s.updBunch b (fun x => { x with wantFreeze := true }))
    else .ok (s.beginFreeze b))

/-- Bunches nested in one, itself included, the deepest first. -/
def State.nestedDeep (s : State) (b : BitVec 32) : List (BitVec 32) :=
  let ids := (s.comp.bunches.filter (fun e => e.2.st != 0 && s.nestedIn e.2.id b)).map (fun e => e.2.id)
  ids.mergeSort (fun i j => (s.ancestors 257 j).length ≤ (s.ancestors 257 i).length)

/-- Return a bunch and all within it to service, nested ones first; one that is FORMING or DISSOLVING stays so. -/
def State.liveNested (s : State) (b : BitVec 32) : State :=
  let s := s.setNested b (fun x => if x.st = 4 || x.st = 5 then 2 else x.st)
  (s.nestedDeep b).foldl (fun s i =>
    let s := s.updBunch i (fun x => { x with halts := false })
    if (s.bunchOf i).st = 2 then s.updBunch i (fun x => { x with st := s.liveState i }) else s) s

/-- The idle tiles of a bunch on this module choose their next kernels. -/
def State.dispatchBunch (s : State) (b : BitVec 32) : State :=
  (s.bunchOf b).localLeaves.foldl (fun s p => s.dispatchTile p.2) s

/-- The cycle bound has passed for a tile (R455): 10 s with the full complement of spares, else 60 s. -/
def State.passLate (s : State) (t : Nat) : Bool :=
  let spares := (s.tileNos.filter (fun k => (s.tile k).role == 1 || (s.tile k).role == 2)).length
  let bound := if spares = quartersOf s.boot.variant then 1000000000 else 6000000000
  bound < (s.time - tget 0 s.stone.passTime t).toNat

/-- Tiles of a bunch that the cycle bound has passed start no launch until their turn has run (R454). -/
def State.holdOverdue (s : State) (b : BitVec 32) : State :=
  ((s.bunchOf b).localLeaves.map Prod.snd).foldl (fun s t =>
    if s.passLate t && !s.stone.overdue.contains t then
      { s with stone := { s.stone with overdue := s.stone.overdue ++ [t] } }
    else s) s

/-- THAW delivers what was captured in the bunch and in those within it (R345, R350). -/
def execThaw (f : Frame) (b : BitVec 32) (s : State) : Ans :=
  framed f s (fun s =>
    let x := s.bunchOf b
    if (s.findBunch b).isNone || x.parent != 0 then .fail s 0x14
    else if x.st != 4 then .fail s 0x12
    else .ok ((((s.nestedDeep b).foldl (fun s i => s.deliverAll i) (s.liveNested b).revote).holdOverdue b).dispatchBunch b))

/-- A control core stops at its next instruction boundary; its watchdog keeps what it has left (R346, R347). One that has
stopped already keeps what it had left. -/
def State.haltTile (s : State) (t : Nat) : State :=
  let c := (s.tile t).core
  match c.run with
  | none => s
  | some r =>
    let left := match r.left with
      | some l => l
      | none => r.start + BitVec.ofNat 64 (2 * r.launch.budget.toNat) - s.pacer t
    s.setCore t { c with halted := true, run := some { r with left := some left } }

/-- Ancestors in service take the state of a bunch that is HALTED (R323). -/
def State.haltUp (s : State) (b : BitVec 32) : State :=
  ((s.ancestors 257 b).drop 1).foldl (fun s a =>
    s.updBunch a (fun x => { x with st := if x.st = 2 || x.st = 3 then 5 else x.st })) s

/-- A bunch and all within it are HALTED; one that is FORMING or DISSOLVING stays so. -/
def State.haltNested (s : State) (b : BitVec 32) : State :=
  (s.nestedDeep b).foldl (fun s i => s.updBunch i (fun x =>
    { x with halts := true, st := if x.st = 1 || x.st = 6 then x.st else 5 })) s

def execHalt (f : Frame) (b : BitVec 32) (s : State) : Ans :=
  framed f s (fun s =>
    let x := s.bunchOf b
    if (s.findBunch b).isNone then .fail s 0x14
    else if x.conf || x.st = 1 || x.st = 4 || x.st = 6
        || (s.ancestors 257 b).any (fun a => (s.bunchOf a).freezing.isSome || (s.bunchOf a).wantFreeze) then .fail s 0x12
    else
      let s := x.localLeaves.foldl (fun s p => s.haltTile p.2) s
      .ok ((s.haltNested b).haltUp b))

/-- Mover operations whose trigger came while the tile was HALTED start now, or end (R211, R347). -/
def State.resumeTriggers (s : State) (t : Nat) : State :=
  (s.tile t).ops.foldl (fun s o =>
    if o.started then s
    else match o.trig with
      | some (true, c) => if ((s.tile t).core.getCmp c).fired then s.beginMover t o else s
      | some (false, id) =>
        match (s.tile t).movers.find? (fun e => e.2.last == id) with
        | some (_, m) => if m.res = 1 then s.beginMover t o else if m.res = 2 then s.endOp t o (some 0x42) else s
        | none => s
      | none => s) s

/-- A halted control core goes on where it stopped, with what its watchdog had left, and sees what came meanwhile (R347). -/
def State.resumeTile (s : State) (t : Nat) : State :=
  let c := (s.tile t).core
  match c.run with
  | none => s
  | some r =>
    let start := match r.left with
      | some l => s.pacer t + l - BitVec.ofNat 64 (2 * r.launch.budget.toNat)
      | none => r.start
    let s := s.setCore t { c with halted := false, run := some { r with left := none, start } }
    let s := (s.resumeTriggers t).wakeWait t
    let s := match (s.tile t).core.stall with
      | .fence _ f _ => s.wakeFence t f
      | .pace k => if ((s.tile t).core.getCmp k).fired then s.retire t 8 else s
      | _ => s
    s.proceed t

/-- Ancestors that were HALTED for a bunch alone return to service with it (R323). -/
def State.resumeUp (s : State) (b : BitVec 32) : State :=
  ((s.ancestors 257 b).drop 1).foldl (fun s a =>
    if (s.bunchOf a).st = 5 && !(s.bunchOf a).halts then s.updBunch a (fun x => { x with st := s.liveState a }) else s) s

def execResume (f : Frame) (b : BitVec 32) (s : State) : Ans :=
  framed f s (fun s =>
    if (s.findBunch b).isNone then .fail s 0x14
    else if (s.bunchOf b).st != 5 then .fail s 0x12
    else
      let s := (s.liveNested b).resumeUp b
      let s := (s.bunchOf b).localLeaves.foldl (fun s p => s.resumeTile p.2) s
      .ok ((s.holdOverdue b).dispatchBunch b))

/-! ### Resets of tiles and bunches (R393, R431) -/

/-- Set the error flag of every fence bound to a context (R443 step 3). -/
def State.flagFences (s : State) (c : Nat) : State :=
  (s.hif.fences.filter (fun e => e.2.valid && e.2.boundTo c)).foldl (fun s e => (s.flagFence e.1 8).evalWaiters e.1) s

/-- Quiesce an affected context as ABORT with SAFETY_FENCED (R443 step 3). -/
def State.quiesceSafe (s : State) (c : Nat) : State :=
  if (s.ctx c).valid then (s.abortCtx c true).flagFences c else s

/-- Contexts with a share on a tile. -/
def State.ctxsOn (s : State) (t : Nat) : List Nat := s.copyOrder t ++ ((s.tile t).standby.map (·.ctx))

/-- A tile leaves its place for a role: its waiting launches end with MEMBER_LOST for their ranks, its ranks are lost, and it is reset
(R339, R452). -/
def State.leaveFor (s : State) (t role : Nat) : State :=
  (((s.dropOn t (fun _ => true) 3).dropTile t).resetTile t).setRole t role

/-- What a cancelled graft has put on another tile is released there. -/
def State.undoShares (s : State) (g : Graft) : State :=
  let moved := if g.step < 2 then [] else if g.kind = 0 then (s.copyOrder g.out).filter (fun c => !g.todo.contains c) else g.heirs
  moved.foldl (fun s c => s.releaseShare (if g.kind = 0 then g.inc else g.heir.getD 0) c) s

/-- A tile of a graft loses its place: the graft ends without its epoch change (DESIGN CHOICE, log 195). An outgoing tile that keeps
its place serves on; in a repair it is reset in place (R452 step 4). -/
def State.cancelGraft (s : State) (t : Nat) (g : Graft) : State :=
  let s := (s.undoShares g).graftGone g
  if g.out = t then s
  else if g.why = 2 then (s.ctxsOn g.out).foldl (fun s c => s.quiesceSafe c) (s.leaveFor g.out 2)
  else
    let s := s.setTile g.out { s.tile g.out with noLaunch := false }
    let s : State := if g.why = 1 then { s with stone := { s.stone with inTurn := s.stone.inTurn.erase g.out } } else s
    (s.emptyBuf g.out).dispatchTile g.out

/-- Tile grafts that name a tile end: what leaves, what comes in, the heir of a move. -/
def State.cancelGrafts (s : State) (t : Nat) : State :=
  (s.comp.grafts.filter (fun g => g.kind ≤ 1 && (g.out == t || g.inc == t || g.heir == some t))).foldl (fun s g => s.cancelGraft t g) s

/-- A reset tile loses its place: it returns by R338, as SPARE or by a graft, and tests itself first (R339, R431; DEDUCED,
log 171). -/
def State.resetOut (s : State) (t : Nat) : State := ((s.cancelGrafts t).leaveFor t 2).revote

/-- Reset a tile in place: its ranks are lost, its contexts affected, and it waits for its self-test (R452 step 4). -/
def State.resetInPlace (s : State) (t : Nat) : State := (s.ctxsOn t).foldl (fun s c => s.quiesceSafe c) (s.resetOut t)

def execTileReset (t : Nat) (s : State) : Ans :=
  if s.hasTile t && (s.tile t).role != 3 then .next (s.resetOut t) else .refused (.notEnabled "TILE_RESET")

/-- A kernel that has not ended 1 ms after its watchdog trap, because one of its operations does not finish: the Stone island resets its
tile (R393). Its kernel boundary has not come about, though the model holds no operation of it any more (R195; log 201). -/
def execWatchdogEscalate (t : Nat) (s : State) : Ans :=
  match (s.tile t).core.run, (s.tile t).core.stop with
  | some _, some st =>
    if st.trap = 7 then .next (s.resetOut t) else .refused (.notEnabled "WATCHDOG_ESCALATE")
  | _, _ => .refused (.notEnabled "WATCHDOG_ESCALATE")

/-- Write a tile's generation of now into the current maps that hold it. -/
def State.refreshGen (s : State) (t : Nat) : State :=
  let g := tget 0 s.stone.gens t
  { s with comp := { s.comp with bunches := s.comp.bunches.map (fun e => (e.1, { e.2 with
      map := e.2.map.map (fun l => if l.module = 0 && l.tile = t then { l with gen := g } else l) })) } }

/-- Tiles of this module that are direct members of a bunch or of one nested in it. -/
def State.memberTiles (s : State) (b : BitVec 32) : List Nat :=
  (s.nestedDeep b).flatMap (fun i => (s.bunchOf i).members.filterMap (fun m => match m with
    | .tile t => some t
    | _ => none))

/-- Bunch reset: its contexts are quiesced as ABORT, its member tiles reset, its epoch advances and the previous retires at
once (R431). Its tiles keep their places: the new maps hold their new generations (DESIGN CHOICE, log 171). -/
def State.resetBunch (s : State) (b : BitVec 32) : State :=
  let s := (s.ctxsOf b).foldl (fun s c => s.abortCtx c false) s
  let s := (s.memberTiles b).foldl (fun s t => (s.resetTile t).refreshGen t) s
  ((s.nestedDeep b).foldl (fun s i => s.nextEpoch i (s.leavesOf 257 i) false) s).goOn

def execBunchReset (f : Frame) (b : BitVec 32) (s : State) : Ans :=
  framed f s (fun s => if (s.findBunch b).isNone then .fail s 0x14 else .ok ((s.resetBunch b).changed))

/-- Steps 2 and 3 of R338: instruction buffer, slot table, segment registers and written-bits are cleared. -/
def State.clearTile (s : State) (t : Nat) : State :=
  let s := s.clearStore (tsAddr t 0) 0x20000000
  s.setTile t { s.tile t with slots := [], core := { sigs := (s.tile t).core.sigs }, clearing := [] }

/-- A tile that has passed its self-test returns (R338): as SPARE with a new generation, or, after a bunch reset, to the place
that its bunch has kept (log 171). -/
def State.rejoin (s : State) (t : Nat) : State :=
  let s := s.clearTile t
  let s := if s.tileBunch t = 0 then (s.bumpGen t).setRole t 1 else s
  (s.setTile t { s.tile t with refusing := false, noLaunch := false }).revote

end Sys2Proof.Machine
end

