-- ==== Sys2Proof/Machine/Ports.lean ====
section
/-! DEFINITION. Memory ports and routers: training, failure, reads and mirrors (R226 to R237), floors and windows (R246 to
R250), Peel (R483), channel weights (R262), and route-around (R266 to R269). -/

namespace Sys2Proof.Machine

/-- Source of a crossing's faults (R423). -/
def xingSrc (i : Nat) : BitVec 32 :=
  if i = 0 then srcId 5 0x1000 else if i < 16 then srcId 7 0 else if i < 32 then srcId 3 (i - 16)
  else if i < 64 then srcId 4 (i - 32) else srcId 1 (i - 64)

/-- A device byte of a port. -/
def mpSpot (m off : Nat) : Spot := .dev (lpAddr m off) none

/-! ### Training and failure -/

/-- The port trains with its contents kept; the MGC frees held pads outside MAINTENANCE (R419, R504). -/
def execMemportTrainingDone (m : Nat) (s : State) : Ans :=
  if s.hasPort m && (s.port m).st == 1 then
    let s := s.setPort m { s.port m with st := if (s.dom (140 + m)).st = 1 then 3 else 2 }
    .next (if (s.dom (140 + m)).held && !s.boot.maint then s.releasePads (140 + m) else s).unitsGo
  else .refused (.notEnabled "MEMPORT_TRAINING_DONE")

/-- A port fails: accesses that no mirror covers end with STATE_LOST as they complete, and bunches whose range that leaves
without a copy become DEGRADED (R230, R237, R339). -/
def State.failPort (s : State) (m : Nat) : State :=
  let lost := fun (s : State) (b : BitVec 32) => s.rangeLost b
  let s' := s.setPort m { s.port m with st := 4 }
  let ids := (s.comp.bunches.filter (fun e => e.2.st != 0)).map (fun e => e.2.id)
  (ids.filter (fun b => !lost s b && lost s' b)).foldl (fun s b => s.degrade b) s'

def execMemportFailed (m : Nat) (s : State) : Ans :=
  if s.hasPort m && (s.port m).st != 4 then .next ((s.failPort m).raiseSafety 12 (mpSrc m) [] 0)
  else .refused (.notEnabled "MEMPORT_FAILED")

/-! ### Reads (R227) -/

/-- The request queue of a port has an open level; above 192 credits are withheld, until below 128 (R247). -/
def State.portLevel (s : State) (m : Nat) : State :=
  let (v, s) := s.draw 9
  let p := s.port m
  let occ := min 256 v.toNat
  s.setPort m { p with occ, throttling := 192 < occ || (p.throttling && 128 ≤ occ) }

/-- An uncorrectable read of one line ends its requester with SAFETY_FENCED and raises MEMPORT_UE (R227). -/
def State.portUe (s : State) (who : Requester) (p : Spot) : Option State :=
  match who with
  | .core t => match (s.tile t).core.stall with
    | .load .. => some (s.accessStop t [p] .uncorrectable)
    | _ => none
  | .mover t mv => ((s.tile t).moverOp mv).map (fun o =>
      ((s.traffic (s.mvReads t o) 0 t).traffic (s.mvWrites t o) 1 t).moverUe t o [p] (s.mvBytes t o [] []))
  | .dispatch t kd => ((s.tile t).exOp kd).map (fun _ => s.readUe t [p])
  | .command q seq => (s.moverCmd q seq).map (fun c =>
      ((s.traffic (s.cmdReads c) 0 hostMaster).traffic (s.cmdWrites c) 1 hostMaster).hostUe q c [p] (s.cmdBytes c []))
  | .headWord _ => none

/-- The spot of a requester's reads that a line of a port serves. -/
def State.lineRead (s : State) (who : Requester) (m off : Nat) : Option Spot :=
  (s.reading who).find? (fun p => (s.served p).map (· / 64) == some (lpAddr m off / 64))

/-- A read of a memory port that its requester has made comes to its end. `mirrored` says that the line has another copy; one that this
copy serves waits for the credits of the rewrite (R247). -/
def execMemportReadComplete (m off : Nat) (who : Requester) (clean mirrored mirrorClean : Bool) (s : State) : Ans :=
  match s.lineRead who m off with
  | none => .refused (.notEnabled "MEMPORT_READ_COMPLETE")
  | some p =>
    if !(s.hasPort m && s.portServes m && (s.port m).st == 2) || (s.otherCopy p).isSome != mirrored then
      .refused (.notEnabled "MEMPORT_READ_COMPLETE")
    else
      let s := ((s.portLevel m).crossDown (16 + m) (toBytes 8 off)).crossUp (16 + m) (s.peekN (lpAddr m (off / 64 * 64)) 64)
      if clean then .next s
      else match (if mirrorClean then s.otherCopy p else none) with
        | some k =>
          if (s.port m).credits 73 && (s.port (fld k 40 4)).credits 73 then .next (s.mirrorServed (lpAddr m off) k)
          else .refused (.notEnabled "MEMPORT_READ_COMPLETE")
        | none => match s.portUe who p with
          | some s => .next s
          | none => .refused (.notEnabled "MEMPORT_READ_COMPLETE")

/-! ### Rebuilding a mirror copy (R237) -/

/-- Replace one port's bit by another's. -/
def swapBit (mask old new : Nat) : Nat :=
  if mask.testBit old then mask - 2 ^ old + (if mask.testBit new then 0 else 2 ^ new) else mask

/-- An LPDDR descriptor with other PORTS and MPORTS. -/
def withPorts (d : BitVec 256) (ports mports : Nat) : BitVec 256 :=
  BitVec.ofNat 256 (putFld (putFld d.toNat 128 16 ports) 144 16 mports)

/-- Range offsets of each port that a segment's blocks take: first and last plus one. -/
def segSpan (d : BitVec 256) : Nat × Nat :=
  let n := popCount (segPorts d) 16
  (segBase d / 4096 / n * 4096, ((segBase d + segSize d + 4095) / 4096 + n - 1) / n * 4096)

/-- Place of the copy that lies on a port, and identity of the other copy's range. -/
def State.lostCopy (s : State) (rs ms : List Nat) (lost : Nat) : Option (Bool × Nat × Nat) :=
  let on := fun (rid : Nat) => match s.rangeById rid with | some (k, _) => k == lost | none => false
  match findIdx on rs 0, findIdx on ms 0 with
  | some i, _ => (ms[i]?).map (fun r => (true, i, r))
  | none, some i => (rs[i]?).map (fun r => (false, i, r))
  | none, none => none

/-- The kernels of a context that run with a segment's old names go on with the new ones (R237; log 172). -/
def State.renameRunning (s : State) (c seg : Nat) (old new : List Nat × List Nat) (d : BitVec 256) : State :=
  { s with tiles := s.tiles.map (fun e =>
      if e.2.core.ctx == some c && tget ([], []) e.2.core.names seg == old then
        (e.1, { e.2 with core := { e.2.core with segs := tput e.2.core.segs seg d, names := tput e.2.core.names seg new } })
      else e) }

/-- The lost copy has been rebuilt onto the replacement range on the new port, as REBUILD traffic: the descriptor names the new
port, and the pairs stay as they were (DEDUCED, log 172). -/
def State.rebuilt (s : State) (c seg lost new : Nat) : Option State :=
  let x := s.ctx c
  let d := tget 0 x.segs seg
  let (rs, ms) := tget ([], []) x.names seg
  let (lo, hi) := segSpan d
  let r := (s.port new).rangeFor x.bunch
  match (s.lostCopy rs ms lost).bind (fun (first, i, k) => (s.rangeById k).map (fun pr => (first, i, pr.1, pr.2))) with
  | some (first, i, m, p) =>
    if x.valid && segValid d && segTarget d == 2 && segMirror d && (s.port lost).st == 4 && s.portServes m && (s.port m).st == 2
        && s.portServes new && (s.port new).st == 2 && r.valid && hi ≤ r.len * 0x4000000
        && (s.port m).credits 73 && (s.port new).credits 73
        && !(segPorts d).testBit new && !(segMports d).testBit new then
      let n := hi - lo
      let a := lpAddr m (p.base * 0x4000000 + lo)
      let b := lpAddr new (r.base * 0x4000000 + lo)
      let s := (State.portMove { s with mem := moveCells s.mem a b n } m 3 73 n).portMove new 3 73 n
      let d' := withPorts d (swapBit (segPorts d) lost new) (swapBit (segMports d) lost new)
      let names := if first then (rs.set i r.home, ms) else (rs, ms.set i r.home)
      let x := s.ctx c
      some ((s.setCtx c { x with segs := tput x.segs seg d', names := tput x.names seg names }).renameRunning c seg (rs, ms) names d')
    else none
  | none => none

def execMirrorRebuildDone (c seg lost new : Nat) (s : State) : Ans :=
  match s.rebuilt c seg lost new with
  | some s => .next s
  | none => .refused (.notEnabled "MIRROR_REBUILD_DONE")

/-! ### Windows and floors (R246 to R250) -/

/-- The window of a port ends: its counts are latched, and the next window carries what this one could not. -/
def State.windowEnd (s : State) (m : Nat) : State :=
  let p := s.port m
  let fresh := !p.explicit && (p.stale || p.floors.isEmpty)
  let next := { p with
    latched := p.bytes, latchedWin := p.window, window := p.window + 1, bytes := [], masters := [], backlog := []
    floors := if fresh then s.defaultFloors m else p.floors
    stale := p.stale && p.explicit }
  s.setPort m (p.backlog.foldl (fun x (cls, master, n) => x.carry cls master n) next)

/-- Count a window in which THROTTLING was set (R490). -/
def State.countThrottled (s : State) (m : Nat) : State := if (s.port m).throttling then s.count (68 + m) 8 1 else s

def execBandwidthWindowEnd (m : Nat) (s : State) : Ans :=
  if s.hasPort m && (s.port m).st == 2 then .next (((s.countThrottled m).portLevel m).windowEnd m).unitsGo
  else .refused (.notEnabled "BANDWIDTH_WINDOW_END")

/-- A ZQ calibration stalls the port and changes no window (R249). -/
def execZqCalibration (m : Nat) (s : State) : Ans :=
  if s.hasPort m && (s.port m).st == 2 then .next (s.count (68 + m) 9 1)
  else .refused (.notEnabled "ZQ_CALIBRATION")

/-- A master of a port is present (R253). -/
def State.hasMaster (s : State) (i : Nat) : Bool :=
  if i < 68 then s.hasTile i else i == 68 || (i < 73 && s.hasRunner (i - 69))

/-- Explicit floors: one for each master, multiples of 64 that sum to at most 393,216 (R248). -/
def State.floorsOk (s : State) (l : List Nat) : Bool :=
  l.length ≤ 73 && l.all (fun n => n % 64 == 0) && l.foldl (· + ·) 0 ≤ 393216
    && ((List.range l.length).zip l).all (fun p => p.2 == 0 || s.hasMaster p.1)

def execSetFloors (f : Frame) (m : Nat) (floors : Option (List Nat)) (s : State) : Ans :=
  framed f s (fun s =>
    if !s.hasPort m then .fail s 0x14
    else match floors with
      | none => .ok (s.setPort m { s.port m with explicit := false, stale := false, floors := s.defaultFloors m })
      | some l =>
        if s.floorsOk l then .ok (s.setPort m { s.port m with
            explicit := true, floors := ((List.range l.length).zip l).filter (fun p => p.2 != 0) })
        else .fail s 0x14)

/-! ### Peel (R483) -/

/-- Peel has nothing left to do: every granule of every port is CLEAN or withheld (R506). -/
def State.peelAll (s : State) : Bool :=
  (List.range (portsOf s.boot.variant)).all (fun m => (List.range (s.lastGranule m)).all (fun g =>
    let x := tget 0 (s.port m).granules g
    x == 2 || x == 3))

/-- The granule lies in no range but one that a RANGE_MOVE sends through Peel (R331). -/
def State.released (s : State) (m g : Nat) : Bool :=
  match (s.port m).rangeAt (g * 0x4000000) with
  | some r => s.comp.grafts.any (fun k => k.kind == 3 && k.step == 3 && k.port == m && k.bunch == r.owner)
  | none => true

/-- A granule that Peel may take: outside the Husk region, released, in no frame that a command holds (R244), on a port that
gives PEEL credits (R247). -/
def State.peelable (s : State) (m g : Nat) : Bool :=
  s.hasPort m && s.portServes m && (s.port m).st == 2 && (s.port m).credits 73 && g < s.lastGranule m && s.released m g
    && !s.framesHeld (frameIn m g 1)
    && (let x := tget 0 (s.port m).granules g
        x != 2 && x != 3)

/-- The state a granule takes after a readback. -/
def peelNext (old : Nat) (ok : Bool) : Nat := if ok then 2 else if old = 4 then 3 else 4

/-- Peel has overwritten a granule with zeros and read the first line of each of its 4 KiB blocks back. -/
def State.peeled (s : State) (m g : Nat) (ok : Bool) : State :=
  let p := s.port m
  let st := peelNext (tget 0 p.granules g) ok
  let s : State := { s with mem := memErase s.mem (lpAddr m (g * 0x4000000)) 0x4000000 }
  let s := (s.setPort m { p with granules := tput p.granules g st }).portMove m 4 73 (0x4000000 + 0x4000000 / 4096 * 64)
  let s := if st = 3 then s.fault (mpSrc m) 0x0302 none false (BitVec.ofNat 64 g) else s
  let s := if st = 2 then s.grantReady.goOn else s
  if st = 4 then s else { s with boot := { s.boot with peelDone := s.peelAll } }

def execPeelGranuleDone (m g : Nat) (ok : Bool) (s : State) : Ans :=
  if s.peelable m g then .next (s.peeled m g ok) else .refused (.notEnabled "PEEL_GRANULE_DONE")

/-! ### Channel weights and floors (R262, R278, R382) -/

/-- A VC_ARB or RN_ARB value keeps its limits: floors that sum to at most 48, weights 1 to 15, reserved bits zero. -/
def arbOk (v : Word) : Bool :=
  fld v.toNat 56 8 == 0 && fld v.toNat 12 20 == 0 && fld v.toNat 0 4 != 0 && fld v.toNat 4 4 != 0 && fld v.toNat 8 4 != 0
    && fld v.toNat 32 8 + fld v.toNat 40 8 + fld v.toNat 48 8 ≤ 48

def execSetVcArb (f : Frame) (port : Option Nat) (v : Word) (s : State) : Ans :=
  framed f s (fun s =>
    if !arbOk v then .fail s 0x14
    else match port with
      | none => .ok { s with bram := { s.bram with arb := v } }
      | some x => if s.hasRunner x then .ok (s.setRunner x { s.runner x with arb := v }) else .fail s 0x14)

/-! ### Route-around (R266 to R269) -/

/-- A tile that can no longer be reached or no longer passes its test loses its place, and is fenced and RETIRED: it is powered
off for good (R15, R269, R452). -/
def State.retireTile (s : State) (t : Nat) : State :=
  let s := (s.cancelGrafts t).leaveFor t 3
  State.revote { s with stone := { s.stone with
    retired := if s.stone.retired.contains t then s.stone.retired else s.stone.retired ++ [t]
    inTurn := s.stone.inTurn.erase t, asked := s.stone.asked.erase t, overdue := s.stone.overdue.erase t } }

/-- A runner port has lost its link: every quad of it that has a partner is DOWN (R28, R269, R426). -/
def State.portLinkLost (s : State) (x : Nat) : State :=
  (List.range 4).foldl (fun s j =>
    let q := 4 * x + j
    let s := if (s.quad q).st = 3 then (s.quadDown q).quadFault q 0x0400 else s
    if s.hasRunner x && (s.quad q).st != 1 then s.setQuad q { s.quad q with st := 4 } else s) s

/-- A host command, an open choice of those in progress, is lost with its transfer: it ends as a lost request does (R268, R426;
log 191). -/
def State.loseCommand (s : State) : State :=
  let l := s.hif.queues.flatMap (fun e => e.2.cmds.map (fun c => (e.1, c.seq)))
  let (k, s) := s.draw 32
  match l[k.toNat % l.length]? with
  | some (q, seq) => s.finishCmd q seq 7 0 0
  | none => s

/-- The unit behind a crossing that lost a transfer or failed is handled as failed (R426, R430): a memory port, every quad of a runner
port, or a command of the host interface. -/
def State.failIsland (s : State) (i : Nat) : State :=
  if i = 0 then s.loseCommand
  else if 16 ≤ i && i < 32 then s.failPort (i - 16)
  else if 32 ≤ i && i < 36 then s.portLinkLost (i - 32) else s

/-- What a router's failure does to its unit (R269). -/
def State.unitCut (s : State) (i : Nat) : State :=
  match routerUnit i with
  | some (0, t) => s.retireTile t
  | some (1, m) => s.failPort m
  | some (2, x) => s.portLinkLost x
  | _ => s

/-- Routers that no table leads through: FAILED ones, and those of BANKED quarters (R267, R418). -/
def State.outOfService (s : State) : List Nat :=
  s.routers.filter (fun i => s.routerFailed i || (s.dom (136 + i / 32)).st != 2)

/-- A router is FAILED: the safety fault of its index, and the effect on its unit (R266, R269). -/
def State.cutRouter (s : State) (i : Nat) : State :=
  State.raiseSafety (State.unitCut { s with bram := { s.bram with routers := tput s.bram.routers i 3 } } i) 15 (srcId 6 i) [] 0

/-- A message of a kernel as its header names it. -/
def Sent.msg (u : Sent) (r : Run) : Msg :=
  { bunch := r.bunch, src := r.mrank, dst := u.dst, epoch := r.epoch, cls := u.cls, chan := chanOf u.cls, enc := false, len := 0
    seq := u.seq, keyId := 0, param := 0, payload := [], intact := true, port := none, srcGen := r.gen }

/-- Messages of a tile's kernel without an answer whose routes meet a router of a list: with their operations. -/
def State.lostSents (s : State) (bad : List Nat) (t : Nat) : List (Run × EngOp × Sent) :=
  match (s.tile t).core.run with
  | none => []
  | some r => (s.tile t).ops.flatMap (fun o => (o.unans.filter (fun u =>
      chanOf u.cls != 0 && crosses bad (s.msgRoutes (u.msg r)))).map (fun u => (r, o, u)))

/-- What a route-around did to routes: 2 when those of writes were cut, else one more than before when those of reads were. -/
def lostBy (bad : List Nat) (reads writes : List (List Nat)) (lost : Nat) : Nat :=
  if crosses bad writes then 2 else if crosses bad reads then min 2 (lost + 1) else lost

/-- Ranges that an operation of a tile's mover or dispatch unit reads and writes. -/
def State.opRanges (s : State) (t : Nat) (o : EngOp) : List Spot × List Spot :=
  if 3 ≤ o.eng then (s.mvReads t o, s.mvWrites t o) else (s.exReads t o, s.exWrites t o)

/-- Packets of an operation's requests that met a router of a list. -/
def State.opCut (s : State) (bad : List Nat) (t : Nat) (o : EngOp) : Nat :=
  if o.held then 0
  else
    let (rd, wr) := s.opRanges t o
    s.packetsCut bad o.routesR (tileRouter t) rd + s.packetsCut bad o.routesW (tileRouter t) wr

/-- Packets of a host mover's command that met a router of a list. -/
def State.cmdCut (s : State) (bad : List Nat) (c : QCmd) : Nat :=
  if !c.taken || c.held then 0
  else s.packetsCut bad c.routesR hostRouter (s.cmdReads c) + s.packetsCut bad c.routesW hostRouter (s.cmdWrites c)

/-- Packets of outstanding requests whose routes, or whose answers' routes, meet a router of a list: of loads, movers and dispatch units of
the tiles, of commands, and of messages within the module. -/
def State.cutItems (s : State) (bad : List Nat) : Nat :=
  (s.tiles.map (fun (t, x) => (match x.core.stall with
      | .load _ _ n _ va => s.packetsCut bad x.core.loadRoutes (tileRouter t) (s.vaSpots t va n)
      | _ => 0) + (x.ops.map (s.opCut bad t)).foldl (· + ·) 0)).foldl (· + ·) 0
    + (s.hif.queues.map (fun (_, q) => (q.cmds.map (s.cmdCut bad)).foldl (· + ·) 0)).foldl (· + ·) 0
    + ((s.bram.flight.filter (fun m => crosses bad ((s.msgRoutes m).take 1))).map msgPackets).foldl (· + ·) 0

/-- Packets that neighbours discard as a router fails: an open count of those that are out on routes that it cuts (R267 step 1; log
79). -/
def State.discard (s : State) (bad : List Nat) : State :=
  let n := s.cutItems bad
  if n = 0 then s
  else
    let (v, s) := s.draw 32
    s.discarded (v.toNat % (n + 1))

/-- Injection pauses while the routers drain (R267 step 2). -/
def State.pauseRoutes (s : State) : State :=
  State.emit { s with bram := { s.bram with paused := true, around := true, empty := [] } } .routePause

/-- A router fails. Behind the infrastructure router of Q0 lies the MGC, so the K9 makes no route-around then; routers without a
path to it count as failed too (R269). While the MGC restarts, the route-around waits (R510). -/
def State.failRouter (s : State) (i : Nat) : State :=
  let s := s.discard [i]
  let s := s.cutRouter i
  if i = hostRouter then s
  else
    let far := s.cutOff
    let s := far.foldl (fun s k => s.cutRouter k) (s.discard far)
    if s.mgcAway then s else s.pauseRoutes

def execRouterFailed (i : Nat) (_why : RouterWhy) (s : State) : Ans :=
  if s.hasRouter i && !s.routerFailed i then .next (s.failRouter i) else .refused (.notEnabled "ROUTER_FAILED")

/-- Count reads that were sent again. -/
def State.retried (s : State) (n : Nat) : State :=
  { s with bram := { s.bram with retried := satAdd 0xFFFF s.bram.retried n } }

/-- Of `n` packets that ask for a range and whose routes were cut, an open number, at least one, are sent again (log 79). -/
def State.retriedRange (s : State) (n : Nat) : State :=
  let (v, s) := s.draw 32
  s.retried (1 + v.toNat % max 1 n)

/-- A stalled load whose routes were cut is retried once, and then lost; a store that was cut stops its kernel (R268). -/
def State.resolveLoad (s : State) (bad : List Nat) (t : Nat) : State :=
  let c := (s.tile t).core
  match c.stall with
  | .load _ _ n _ va =>
    let routes := s.routesTo (tileRouter t) (s.vaSpots t va n)
    if !crosses bad c.loadRoutes then s.setCore t { c with loadRoutes := routes }
    else if c.loadLost = 0 then (s.setCore t { c with loadRoutes := routes, loadLost := 1, loadCut := false }).retried 1
    else s.setCore t { c with loadLost := 2, loadCut := false }
  | .lost => s.accessStop t [] .lost
  | _ => s

/-- The requests of a mover or dispatch-unit operation that it has out (R268), or has held back (R267), on the new routes. -/
def State.resolveOp (s : State) (bad : List Nat) (t : Nat) (o : EngOp) : State :=
  let r := tileRouter t
  let (rd, wr) := s.opRanges t o
  if !(o.started && 3 ≤ o.eng || o.begun && o.eng == 2) then s
  else
    let lost := if o.held then o.lost else lostBy bad o.routesR o.routesW o.lost
    let s := s.markOp t o.id (fun o => { o with
      lost, held := false, cut := false, routesR := s.routesTo r rd, routesW := s.routesTo r wr })
    if o.lost = 0 && lost = 1 then s.retriedRange (s.packetsCut bad o.routesR r rd) else s

/-- The requests of a host mover's command. -/
def State.resolveCmd (s : State) (bad : List Nat) (q : Nat) (c : QCmd) : State :=
  if !c.taken || c.type = 1 then s
  else
    let lost := if c.held then c.lost else lostBy bad c.routesR c.routesW c.lost
    let s := s.updCmd q c.seq (fun c => { c with
      lost, held := false, cut := false
      routesR := s.routesTo hostRouter (s.cmdReads c), routesW := s.routesTo hostRouter (s.cmdWrites c) })
    if c.lost = 0 && lost = 1 then s.retriedRange (s.packetsCut bad c.routesR hostRouter (s.cmdReads c)) else s

/-- A message without an answer whose route was cut: a GET_REQ is sent once more with a new SEQ, any other ends its operation with
MSG_TIMEOUT (R268). -/
def State.resolveSent (s : State) (t : Nat) (r : Run) (o : EngOp) (u : Sent) : State :=
  let s := s.dropSent r.bunch r.mrank u.dst u.seq
  let first := u.cls = clsGetReq && !u.again
  if first && s.pairOpen r.bunch r.mrank u.dst then
    let m := getReq r o u.info
    let (seq, s) := s.sendMsg r.bunch r.mrank u.dst r.epoch r.gen m.cls m.chan m.len m.param m.payload
    (s.markOp t o.id (fun o => { o with
      unans := o.unans.map (fun v => if v == u then { v with seq, again := true } else v) })).retried 1
  else
    s.markOp t o.id (fun o => { o with unans := o.unans.filter (fun v => v != u) }.fail u.seq (if first then 0x2F else 0x2E))

/-- No route-around is in progress, and nothing is on its way: the routers report empty buffers (R267 step 3). -/
def State.quiet (s : State) : Bool := !s.bram.paused && s.bram.flight.isEmpty

/-- Every router in service has reported empty buffers: new tables avoid those out of service, and ROUTE_RESUME names a router
that has failed since (R267 step 4). Of the messages within the module, those that VC-C does not carry are lost with their
routes; those of VC-C go out again (R268). -/
def State.tablesOn (s : State) (failed : List Nat) : State :=
  let last := (failed.filter (fun i => !s.bram.avoid.contains i)).headD (failed.headD 0)
  let kept := fun (m : Msg) => m.chan == 0 || m.cls == clsFreeze
  let gone := s.bram.flight.filter (fun m => !kept m && crosses failed (s.msgRoutes m))
  let s := s.setTables s.outOfService
  State.emit { s with bram := { s.bram with
    paused := false, around := false, empty := [], cut := []
    flight := s.bram.flight.filter (fun m => !gone.contains m) ++ s.bram.cut.filter kept
    gone := s.bram.gone ++ gone ++ s.bram.cut.filter (fun m => !kept m) } } (.routeResume last)

/-- Each source resolves its outstanding requests, and the tiles go on (R268). -/
def State.resolveAll (s : State) (failed : List Nat) (sents : List (Nat × Run × EngOp × Sent)) : State :=
  let s := s.tileNos.foldl (fun s t => (s.tile t).ops.foldl (fun s o => s.resolveOp failed t o) (s.resolveLoad failed t)) s
  let s := s.hif.queues.foldl (fun s (q, x) => x.cmds.foldl (fun s c => s.resolveCmd failed q c) s) s
  let s := sents.foldl (fun s (t, r, o, u) => s.resolveSent t r o u) s
  s.tileNos.foldl (fun s t => s.proceed t) s.postHeld

/-- Route-around ends: new tables, each source resolves its outstanding requests, and injection resumes (R267, R268). -/
def State.resumeRoutes (s : State) : State :=
  let failed := s.failedRouters
  let sents := s.tileNos.flatMap (fun t => (s.lostSents failed t).map (fun p => (t, p)))
  (s.tablesOn failed).resolveAll failed sents

/-- The MGC changes the tables by steps 2 to 5 of R267 without discarding a packet (R418): what is out takes the new routes. The
router that ROUTE_RESUME names is open, since none has failed (log 188). -/
def State.retable (s : State) : State :=
  let (k, s) := s.draw 7
  let s := (s.emit .routePause).setTables s.outOfService
  (s.emit (.routeResume k.toNat)).resolveAll [] []

end Sys2Proof.Machine
end

