-- ==== Sys2Proof/Machine/Power.lean ====
section
/-! DEFINITION. Power and temperature: caps and modes (R402 to R406), estimate and calibration (R407 to R409), thermal limits
(R411), power faults (R420), domains that wake and quarters that bank (R413, R418), and the sideband state (R520 to R524). -/

namespace Sys2Proof.Machine

/-! ### Sideband state (R516, R519 to R524) -/

/-- I3_ALERT_CAUSE (R524). -/
def State.alertCause (s : State) : Nat :=
  bit s.pwr.vinRange + 2 * bit s.pwr.tjAlert + 4 * bit s.pwr.capUnmet + 8 * bit s.sec.noBank

/-- I3_STATE, whose bits [2:0] are CYCLE_REQ, ALERT and SAFE (R524). -/
def State.i3State (s : State) : Nat :=
  bit s.stone.safe + 2 * bit (s.alertCause != 0) + 4 * bit s.stone.cycleReq + 8 * bit s.hif.ready + 16 * (s.boot.phase % 4)

/-- A change of SAFE, ALERT or CYCLE_REQ raises an In-Band Interrupt once the module has its dynamic address (R523). -/
def State.signal (s : State) : State :=
  let b := BitVec.ofNat 8 s.i3State
  if s.boot.i3cAddr.isSome && fld b.toNat 0 3 != fld s.boot.i3cLast.toNat 0 3 then
    State.emit { s with boot := { s.boot with i3cLast := b } } (.ibi b)
  else s

/-- Source of the power controller's records (R420). -/
def pwrSrc : BitVec 32 := srcId 8 0

/-! ### Commands of the orchestrator and the tray controller -/

def execSetPerfMode (f : Frame) (free : Bool) (s : State) : Ans :=
  framed f s (fun s => .ok { s with pwr := { s.pwr with free } })

def execSetOrchCap (f : Frame) (w : Nat) (s : State) : Ans :=
  framed f s (fun s => .ok { s with pwr := { s.pwr with orchCap := s.clampCap w } })

def execSetPowerPolicy (f : Frame) (b : BitVec 32) (keepIdle : Bool) (s : State) : Ans :=
  framed f s (fun s =>
    if (s.findBunch b).isNone then .fail s 0x14
    else .ok (s.updBunch b (fun x => { x with keepIdle })).revote)

def execOrchVote (f : Frame) (d v : Nat) (s : State) : Ans :=
  framed f s (fun s => if !s.hasDom d || 3 ≤ v then .fail s 0x14
    else .ok ((s.setDom d { s.dom d with orch := v }).vote d 2 (max v (s.composeVote d))))

def execSetBankKeep (f : Frame) (q : Nat) (keep : BitVec 17) (s : State) : Ans :=
  framed f s (fun s =>
    if quartersOf s.boot.variant ≤ q then .fail s 0x14
    else .ok { s with pwr := { s.pwr with keep := tput s.pwr.keep q keep } })

def execI3cTrayCapWrite (w : BitVec 16) (s : State) : Ans :=
  .next { s with pwr := { s.pwr with trayCap := s.clampCap w.toNat } }

def execI3cAddressAssign (a : BitVec 7) (s : State) : Ans :=
  .next (State.signal { s with boot := { s.boot with i3cAddr := some a } })

/-! ### Estimate and voltages (R400, R403 to R407) -/

/-- What the power controller holds the module to: 85 % of the cap in first use (R409), and 10 % less while it controls on the
measured power (R408). -/
def State.powerLimit (s : State) : Nat :=
  let c := if s.pwr.firstUse then s.effectiveCap * 85 / 100 else s.effectiveCap
  if s.pwr.diverged.isSome then c * 9 / 10 else c

/-- The power it controls on. -/
def State.powerNow (s : State) : Nat := if s.pwr.diverged.isSome then s.pwr.measured else s.pwr.estimate

/-- The cap is exceeded. -/
def State.overCap (s : State) : Bool := s.powerLimit < s.powerNow

/-- The estimate in W (R407): the sum in mW times CAL divided by EFF. -/
def State.estimateOf (s : State) (a : Activity) : Nat :=
  (a.tileMilliwatts.foldl (· + ·) 0 + a.restMilliwatts) * s.pwr.cal * 4 / (s.pwr.eff * 1000)

/-- What a sensor counts as: its latest reading, and 105 °C where it has failed (R441). -/
def State.temp (s : State) (d : Nat) : Int := if s.pwr.badSensors.contains d then 420 else tget 0 s.pwr.temps d

/-- A tile is at its limit of 105 °C, or its quarter's uncore or a PHY of it is (R411). -/
def State.tileHot (s : State) (t : Nat) : Bool := 420 ≤ s.temp t || s.pwr.hotQuarters.contains (quarterOf t)

/-- A set point in units of 0.5 mV: 2.5 mV steps from 0.520 V to 0.720 V (R400). -/
def vddPoint (mv2 : Nat) : Nat := max 1040 (min 1440 (mv2 / 5 * 5))

/-- The 81 set points of R400, highest first. -/
def vddPoints : List Nat := (List.range 81).map (fun i => 1440 - 5 * i)

/-- The set point that a mode seeks (R405): where the monitor reads 2.00 G steps/s ±0.5 %, or in FREE mode the highest that R20
allows at the tile's temperature. Where no set point reads so, the choice is open (log 81). -/
def State.seek (s : State) (t : Nat) : Nat :=
  let fits := fun p =>
    let r := Config.rateAt t p (s.temp t / 4)
    if s.pwr.free then r ≤ 2450 else 1990 ≤ r && r ≤ 2010
  (vddPoints.find? fits).getD (if s.pwr.free then 1040 else vddPoint (Config.vddFor t 2000))

/-- The highest set point up to one, and within the slew of one tick, at which the tile's monitor reads no more than 2.45 G steps/s;
the lowest in reach where none does (R20, R400). -/
def pointFor (t old vdd : Nat) (tj : Int) : Nat :=
  let low := min vdd (vddPoint (old - 200))
  (((List.range 81).map (fun i => vdd - 5 * i)).find? (fun p => low ≤ p && Config.rateAt t p tj ≤ 2450)).getD low

/-- Set one tile's voltage (R20, R400, R403 to R406): within the slew of one tick; how far a limit lowers it is open. RATE is what
the tile's monitor reads there. -/
def State.steer (s : State) (t : Nat) (forced : Bool) : State :=
  let x : TilePwr := tget {} s.pwr.tiles t
  let (k, s) := s.draw 16
  let old := vddPoint x.vdd
  let forced := forced || s.tileHot t
  let goal := s.seek t
  let vdd := if forced then vddPoint (old - 5 * (1 + k.toNat % 40)) else if old < goal then min goal (old + 200) else max goal (old - 200)
  let vdd := pointFor t old vdd (s.temp t / 4)
  let rate := Config.rateAt t vdd (s.temp t / 4)
  { s with pwr := { s.pwr with
    tiles := tput s.pwr.tiles t { x with vdd, rate }
    lost := s.pwr.lost || (forced && !s.pwr.free && rate < 2000) } }

/-- Tiles that the power controller steers: those that are ON, but for quarters whose controller has lost its router and holds
its last voltages (R269). -/
def State.steered (s : State) : List Nat :=
  s.tileNos.filter (fun t => (s.dom t).st == 2 && !(1 ≤ quarterOf t && s.routerFailed (quarterOf t * 32 + 4)))

/-- One estimate window (R404, R407); the calibration window sums the estimates (R408). -/
def State.estimateTick (s : State) (a : Activity) : State :=
  let s : State := { s with pwr := { s.pwr with estimate := s.estimateOf a, energySum := s.pwr.energySum + s.estimateOf a } }
  let capped := s.overCap
  let low := s.steered.all (fun t => vddPoint (tget {} s.pwr.tiles t : TilePwr).vdd == 1040)
  let s := s.steered.foldl (fun s t => s.steer t capped) s
  State.signal { s with pwr := { s.pwr with capUnmet := s.pwr.capUnmet || (capped && low) } }

def execPowerEstimateTick (act : Activity) (s : State) : Ans := .next (s.estimateTick act)

/-- The cap has been met for 100 ms (R404). -/
def execCapUnmetClear (s : State) : Ans :=
  if s.pwr.capUnmet && !s.overCap then .next (State.signal { s with pwr := { s.pwr with capUnmet := false } })
  else .refused (.notEnabled "CAP_UNMET_CLEAR")

/-! ### Calibration (R408, R409) -/

/-- Mean of the last eight windows. -/
def meanOf (l : List Nat) (dflt : Nat) : Nat := if l.isEmpty then dflt else l.foldl (· + ·) 0 / l.length

/-- The ratio of the window lies within 0.80 to 1.25. -/
def ratioOk (measured estimated : Nat) : Bool := 80 * estimated ≤ 100 * measured && 100 * measured ≤ 125 * estimated

/-- An input within 38 to 52 V, in units of 0.01 V (R398). -/
def vinOk (v : BitVec 16) : Bool := 3800 ≤ v.toNat && v.toNat ≤ 5200

/-- One calibration window of 100 ms: energies in mJ, of which the estimated one is the sum of the window's estimates (R407), each
of 1 W for 10 µs. A ratio to zero energy is an open value. -/
def State.calibrate (s : State) (measured rail : Nat) (vin iin : BitVec 16) : State :=
  let (v, s) := s.draw 32
  let sum := s.pwr.energySum
  let cal := if sum = 0 then fld v.toNat 0 16 else measured * 16384 * 100 / sum
  let eff := if measured = 0 then fld v.toNat 16 16 else rail * 65536 / measured
  let ratios := ((cal, eff) :: s.pwr.ratios).take 8
  let ok := ratioOk (100 * measured) sum
  let diverged := match s.pwr.diverged with
    | some n => if ok then (if 7 ≤ n then none else some (n + 1)) else some 0
    | none => if ok then none else some 0
  let n := satAdd 0xFFF s.pwr.calWindows 1
  let s : State := { s with pwr := { s.pwr with
    ratios, diverged, energySum := 0, calWindows := n, firstUse := s.pwr.firstUse && n < 20
    cal := min 0xFFFF (meanOf (ratios.map Prod.fst) s.pwr.cal), eff := min 0xFFFF (meanOf (ratios.map Prod.snd) s.pwr.eff)
    measured := min 0xFFFF (measured / 100), vin, iin, vinRange := s.pwr.vinRange && !vinOk vin } }
  let s := if ok then s else s.fault pwrSrc 0x0804 none false 0
  s.signal

/-- The window ends. The estimated energy is the module's own sum; the operand of that name is not used (log 186). -/
def execCalibrationWindow (_estimated measured rail : Nat) (vin iin : BitVec 16) (s : State) : Ans :=
  .next (s.calibrate measured rail vin iin)

/-- The input has been outside 38 to 52 V for 1 ms (R398). -/
def execVinRange (vin : BitVec 16) (s : State) : Ans :=
  if vinOk vin then .refused (.notEnabled "VIN_RANGE")
  else
    let s : State := { s with pwr := { s.pwr with vin, vinRange := true } }
    .next (s.fault pwrSrc 0x0800 none false 0).signal

/-! ### Temperature (R411, R441) -/

/-- Quarter of a domain with a sensor: a tile, a quarter's uncore, or a memory port's PHY. -/
def sensorQuarter (d : Nat) : Option Nat :=
  if d < 68 then some (quarterOf d) else if 136 ≤ d && d < 140 then some (d - 136)
  else if 140 ≤ d && d < 156 then some ((d - 140) / 4) else none

/-- A sensor reading in units of 0.25 °C is implausible (R441): outside −40 to 150 °C, or more than 15 °C from a sensor of the
same quarter. -/
def sensorBad (l : List (Nat × Int)) (d : Nat) (r : Int) : Bool :=
  r < -160 || 600 < r || l.any (fun p => p.1 != d && sensorQuarter p.1 == sensorQuarter d && (60 < r - p.2 || 60 < p.2 - r))

/-- A sample of sensors that the module has, each once. -/
def State.sampleOk (s : State) (l : List (Nat × Int)) : Bool :=
  !l.isEmpty && l.all (fun p => s.hasDom p.1 && (sensorQuarter p.1).isSome) && (l.map Prod.fst).eraseDups.length == l.length

/-- A reading as a register shows it: a reading below zero has no stated form. -/
def State.tjField (s : State) (r : Int) : Nat := if r < 0 then (Config.freeBits 10 s.fresh).toNat else min 1023 r.toNat

/-- What one reading raises: SENSOR_FAIL and TJ_HIGH as their conditions begin, and TJ_SHUTDOWN for a `fresh` one. -/
def State.heat (s : State) (d : Nat) (r : Int) (bad fresh : Bool) : State :=
  let detail := BitVec.ofNat 64 d
  let s := if bad && !s.pwr.badSensors.contains d then s.fault pwrSrc 0x0806 none false detail else s
  let s := if 440 ≤ r && !s.pwr.hot.contains d then s.fault pwrSrc 0x0802 none false detail else s
  if fresh && 480 ≤ r then s.raiseSafety 20 pwrSrc [] detail else s

/-- One sample (R411): sensors that it does not name keep their latest reading, and a failed sensor's domain counts as 105 °C
(R441). -/
def State.sample (s : State) (new : List (Nat × Int)) : State :=
  let l := new.foldl (fun t p => tput t p.1 p.2) s.pwr.temps
  let s : State := { s with fresh := s.fresh + 1, pwr := { s.pwr with temps := l } }
  let bad := (l.filter (fun p => sensorBad l p.1 p.2)).map Prod.fst
  let eff := l.map (fun p => (p.1, if bad.contains p.1 then (420 : Int) else p.2))
  let s := eff.foldl (fun s p => s.heat p.1 p.2 (bad.contains p.1) (new.any (fun q => q.1 == p.1))) s
  let tiles := eff.foldl (fun t p =>
    if p.1 < 68 then tput t p.1 { (tget {} t p.1 : TilePwr) with tj := s.tjField p.2 } else t) s.pwr.tiles
  let top := eff.foldl (fun (m : Int) p => max m p.2) ((eff.head?.map Prod.snd).getD 0)
  let s : State := { s with pwr := { s.pwr with
    tiles, badSensors := bad, tjMax := s.tjField top, tjAlert := decide (400 ≤ top), thermal := decide (420 ≤ top)
    hot := (eff.filter (fun p => 440 ≤ p.2)).map Prod.fst
    hotQuarters := ((eff.filter (fun p => 136 ≤ p.1 && 420 ≤ p.2)).filterMap (fun p => sensorQuarter p.1)).eraseDups } }
  s.signal

def execThermalSample (readings : List (Nat × Int)) (s : State) : Ans :=
  if s.sampleOk readings then .next (s.sample readings) else .refused (.notEnabled "THERMAL_SAMPLE")

/-! ### Voltage faults (R401, R420) -/

def execVddLow (t : Nat) (s : State) : Ans :=
  if s.hasTile t && (s.dom t).st != 0 then .next (s.raiseSafety 19 pwrSrc (s.runCtx t).toList (BitVec.ofNat 64 t))
  else .refused (.notEnabled "VDD_LOW")

def execRegulator (d : Nat) (s : State) : Ans :=
  if s.hasDom d then
    .next (s.raiseSafety 21 pwrSrc (if d < 136 then (s.runCtx (d % 68)).toList else []) (BitVec.ofNat 64 d))
  else .refused (.notEnabled "REGULATOR")

/-! ### Wakes (R413, R415) -/

/-- A tile is awake: the messages that its endpoint held are delivered, or refused until it rejoins (R338, R415), and it may
start a kernel. -/
def State.tileAwake (s : State) (t : Nat) : State :=
  State.dispatchTile (State.emptyBuf (s.setTile t { s.tile t with buffered := 0 }) t) t

/-- A quarter's uncore is up: its tiles' pacers start from zero (R62), its tiles wait for R338, and the MGC's tables lead through it
again. -/
def State.quarterAwake (s : State) (q : Nat) : State :=
  let ts := s.tileNos.filter (fun t => quarterOf t == q)
  let s := ts.foldl (fun s t => s.setTile t { s.tile t with base := s.time, refusing := true }) s
  (ts.foldl (fun s t => s.evalDom t) s).retable

/-- What waits for a wake has come about: a tile's store is ON (R413), a port that was OFF has trained. -/
def State.wakeReady (s : State) (d : Nat) : Bool :=
  if d < 68 then (s.dom (68 + d)).st == 2
  else if 136 ≤ d && d < 140 then s.quiet
  else if 140 ≤ d && d < 156 then (s.port (d - 140)).st == 2 || (s.port (d - 140)).st == 3 else true

/-- The crossing of a port's domain leaves PARKED (R429). -/
def State.unpark (s : State) (d : Nat) : State :=
  let i := if 140 ≤ d && d < 156 then d - 140 + 16 else d - 156 + 32
  if 140 ≤ d && d < 160 && (s.xing i).st = 3 then s.setXing i { s.xing i with st := 1 } else s

/-- A domain is ON again: composition commands that waited for it go on (R417). -/
def State.awake (s : State) (d : Nat) : State :=
  let s := (s.setDom d { s.dom d with st := 2 }).unpark d
  let s :=
    if d < 68 then s.tileAwake d
    else if d < 136 then s
    else if d < 140 then s.quarterAwake (d - 136)
    else if d < 156 then s.setPort (d - 140) { s.port (d - 140) with st := 2, waiting := false }
    else if d < 160 then
      let x := d - 156
      let s := s.setRunner x { s.runner x with parked := false, waiting := false }
      State.flushWaits ((List.range 4).foldl (fun s j =>
        let q := s.quad (4 * x + j)
        s.setQuad (4 * x + j) { q with st := if q.st = 5 then 3 else if q.st = 1 then quadStart (4 * x + j) else q.st }) s)
    else s
  (s.evalDom d).goOn.unitsGo

def execDomainWakeDone (d : Nat) (s : State) : Ans :=
  if s.hasDom d && (s.dom d).st == 3 && s.wakeReady d then .next (s.awake d) else .refused (.notEnabled "DOMAIN_WAKE_DONE")

/-! ### BANKED quarters (R418) -/

/-- Every condition of R418 holds for a quarter. -/
def State.canBank (s : State) (q : Nat) : Bool :=
  let ts := s.tileNos.filter (fun t => quarterOf t == q)
  let live := s.comp.bunches.filter (fun e => e.2.st != 0)
  1 ≤ q && q < quartersOf s.boot.variant && (s.dom (136 + q)).st == 2 && s.wanted (136 + q) ≤ 1
    && ts.all (fun t => live.all (fun e => !e.2.members.contains (.tile t))
      && (List.range 16).all (fun i => !((s.tile t).slot i).valid))
    && live.all (fun e => e.2.st == 4 || ((List.range 4).all (fun j => ((s.port (4 * q + j)).rangeOf e.2.id).isNone
      && tget 0 s.comp.quadOwner (4 * q + j) != e.2.id)))
    && (List.range 4).all (fun j => !s.hasPort (4 * q + j) || (s.dom (140 + 4 * q + j)).st ≤ 1)
    && (!s.hasRunner q || (s.dom (156 + q)).st ≤ 1) && s.quiet

/-- A quarter enters BANKED, or OFF when no vote is left (R413, R414; log 187): in BANKED the stores in BANK_KEEP that hold their
contents are retained; every other tile and store of it is OFF, and new tables avoid it. -/
def State.bank (s : State) (q : Nat) : State :=
  let low := s.wanted (136 + q)
  let keep := if low = 0 then 0 else tget 0 s.pwr.keep q
  let ts := s.tileNos.filter (fun t => quarterOf t == q)
  let s := ts.foldl (fun s t =>
    let s := (s.setDom t { s.dom t with st := 0, warm := false }).enterLow t 0
    if keep.getLsbD (t % 17) && (s.dom (68 + t)).st != 0 then s.setDom (68 + t) { s.dom (68 + t) with st := 1 }
    else (s.setDom (68 + t) { s.dom (68 + t) with st := 0 }).enterLow (68 + t) 0) s
  (s.setDom (136 + q) { s.dom (136 + q) with st := low }).retable

def execQuarterBanked (q : Nat) (s : State) : Ans :=
  if s.canBank q then .next (s.bank q) else .refused (.notEnabled "QUARTER_BANKED")

end Sys2Proof.Machine
end

