-- ==== Sys2Proof/Machine/Safety.lean ====
section
/-! DEFINITION. Safety faults and reactions (R442 to R452), the Husk (R461 to R464), watchdogs and the pacer check (R439, R440,
R449), and the rotation self-test (R453 to R457). -/

namespace Sys2Proof.Machine

/-! ### Rows and reactions (R442, R448) -/

/-- Fault code of each row (R442). -/
def rowCodes : List (BitVec 16) :=
  [0x0200, 0x0201, 0x0202, 0x0203, 0x0204, 0x0205, 0x0210, 0x0211, 0x0212, 0x0213, 0x0230, 0x0300,
   0x0301, 0x0500, 0x0501, 0x0600, 0x0700, 0x0701, 0x0702, 0x0801, 0x0803, 0x0805, 0x0900, 0x0901]

def rowCode (row : Nat) : BitVec 16 := rowCodes.getD row 0

/-- Default reaction of each row: 1 CONTEXT, 2 UNIT, 3 TILE, 4 BUNCH, 5 MODULE, 6 CYCLE, 7 SHUTDOWN. Row 21 is MODULE for a
domain that is neither a tile nor a store. -/
def rowDefaults : List Nat := [3, 1, 3, 3, 3, 3, 1, 1, 1, 1, 1, 1, 2, 5, 1, 2, 5, 6, 5, 3, 7, 3, 2, 2]

/-- The failing unit is an infrastructure router: no route-around can serve it (R269). -/
def infraFault (f : SafetyFault) : Bool := f.row == 15 && (match routerUnit (fld f.src.toNat 0 16) with
  | some (3, _) => true
  | _ => false)

/-- The reaction in force for a row (R448): its default, or the higher one of the configuration. -/
def State.rowReaction (s : State) (row : Nat) : Nat := max (rowDefaults.getD row 0) (tget 0 s.stone.raised row)

/-- The reaction to a fault. -/
def State.reactionTo (s : State) (f : SafetyFault) : Nat :=
  let r := s.rowReaction f.row
  if infraFault f || (f.row = 21 && 136 ≤ f.detail.toNat) then max r 5 else r

/-- Root bunch that holds a tile. -/
def State.rootOf (s : State) (t : Nat) : BitVec 32 := ((s.ancestors 257 (s.tileBunch t)).getLast?).getD 0

/-! ### Steps 1 to 3 of R443 -/

/-- Latch a row (R447). -/
def State.latchRow (s : State) (row : Nat) (src : BitVec 32) : State :=
  let x := s.latch row
  { s with stone := { s.stone with rows := tput s.stone.rows row {
      set := true, count := satAdd 0xFFFF x.count 1, first := if x.set then x.first else src, life := x.life + 1 } } }

/-- Every context. -/
def State.allCtxs (s : State) : List Nat := (s.hif.ctxs.filter (fun e => e.2.valid)).map Prod.fst

/-- Contexts that a reaction affects (R444): `served` are those of the failing operation, `running` the one that ran on the failing
tile at detection. -/
def State.affected (s : State) (reaction : Nat) (served running : List Nat) (tile : Option Nat) : List Nat :=
  if reaction = 1 then served
  else if reaction = 3 then running
  else if reaction = 2 then []
  else if reaction = 4 then (match tile with | some t => s.ctxsOf (s.rootOf t) | none => [])
  else s.allCtxs

/-! ### Completion of reactions and SAFE_N (R445) -/

/-- A reaction is in progress: it waits for its Husk, its graft and the self-test behind it, its route-around, its module reset or its
power cycle (R267, R452). -/
def State.reactBusy (s : State) (r : React) : Bool :=
  r.phase == 0 || r.reaction == 5 || r.reaction == 6
    || (r.reaction == 2 && r.row == 15 && !s.bram.avoid.contains (fld r.src.toNat 0 16))
    || (r.reaction == 3 && (match unitTile r.row r.src r.detail with
      | some t => (s.tile t).role == 2 || s.comp.grafts.any (fun g => g.kind == 0 && g.out == t)
      | none => false))

/-- Reactions that have completed leave the list and begin the 10 s of R451; SAFE_N is released when none is in progress
and every row is acknowledged (R445), once the host interface has reported ready (R519). -/
def State.settleSafe (s : State) : State :=
  let done := s.stone.reacts.filter (fun r => !s.reactBusy r)
  let s : State := { s with stone := { s.stone with
    reacts := s.stone.reacts.filter s.reactBusy
    recent := done.map (fun r => (r.row, r.src, s.time)) ++ s.stone.recent } }
  let free := s.stone.reacts.isEmpty && s.stone.faults.isEmpty && s.stone.rows.all (fun e => !e.2.set) && s.hif.ready
    && !s.stone.cycleReq && !s.stone.nvRow17
  State.signal (if free then { s with stone := { s.stone with safe := false } } else s)

/-- A router reports empty buffers; with the last one the route-around ends, and what waited for it (R267, R445). -/
def execRouterDrained (i : Nat) (s : State) : Ans :=
  if s.bram.paused && !s.mgcAway && s.hasRouter i && !s.routerFailed i && !s.bram.empty.contains i then
    let s : State := { s with bram := { s.bram with empty := s.bram.empty ++ [i] } }
    if (List.range 128).all (fun k => !s.hasRouter k || s.routerFailed k || s.bram.empty.contains k) then .next s.resumeRoutes.settleSafe
    else .next s
  else .refused (.notEnabled "ROUTER_DRAINED")

/-! ### The tile step (R452) -/

/-- Spares that can take a tile's place: in the same quarter first, then by HOPS. -/
def State.nearSpare (s : State) (t : Nat) : Option Nat :=
  let l := s.tileNos.filter (fun k => (s.tile k).role == 1 && !s.stone.inTurn.contains k && !(s.tile k).refusing
    && !s.inGraft k && s.replaceFits t k)
  let key := fun k => if quarterOf k = quarterOf t then 0 else 1 + (s.route (tileRouter t) (tileRouter k)).1
  l.foldl (fun (a : Option Nat) k => match a with
    | none => some k
    | some b => if key k < key b then some k else a) none

/-- The tile step after its Husk: repair by a spare, or reset in place, also where R333 lets no graft begin (DEDUCED, log 173). -/
def State.tileStep (s : State) (row t : Nat) : State :=
  let b := s.tileBunch t
  if (s.tile t).role = 3 || s.comp.grafts.any (fun g => g.kind == 0 && g.out == t) then s
  else match (if row = 1 || row = 2 || b = 0 || (s.graftBad b).isSome then none else s.nearSpare t) with
    | some k => s.beginGraft (replaceGraft b t k 2)
    | none => s.resetInPlace t

/-- Fence a tile: its endpoint refuses traffic (R452 step 1). -/
def State.fenceTile (s : State) (t : Nat) : State := s.setTile t { s.tile t with refusing := true }

/-! ### The Husk (R461 to R464) -/

/-- Contexts whose state a tile holds: of its running kernel, its slots and its standby entries. -/
def Tile.holds (x : Tile) : List Nat :=
  x.core.ctx.toList ++ (x.slots.filter (fun e => e.2.valid)).map (fun e => e.2.ctx) ++ x.standby.map (·.ctx)

/-- A unit's entry would hold state of a confidential context (R464): a tile's core and slots, a queue, or the fences bound to one. -/
def State.huskConf (s : State) (u : BitVec 32) : Bool :=
  let n := fld u.toNat 0 16
  if fld u.toNat 28 4 = 5 then
    if n < 4096 then s.confCtx (s.queue n).ctx
    else s.hif.fences.any (fun e => e.2.valid && e.2.bound.any s.confCtx) || s.hif.queues.any (fun e => e.2.st != 0 && s.confCtx e.2.ctx)
  else match srcTile u with
    | some t => (s.tile t).holds.any s.confCtx
    | none => false

/-- Queues of contexts, and the host interface for the fences bound to them: which entry holds a fence is open (log 180). -/
def State.huskHost (s : State) (cs : List Nat) : List (BitVec 32) :=
  (cs.flatMap s.queuesOf).map (srcId 5)
    ++ (if s.hif.fences.any (fun e => e.2.valid && cs.any e.2.boundTo) then [srcId 5 0x1000] else [])

/-- The units that the Husk collects before a step (R461). The entry of a crossing is that of its unit, which for the management
MAC's and the Stone island's is the island itself (log 180). -/
def State.huskScope (s : State) (r : React) : List (BitVec 32) :=
  let tiles := fun (l : List Nat) => l.map (srcId 1) ++ l.map (fun t => srcId 6 (tileRouter t))
  let t := unitTile r.row r.src r.detail
  if r.reaction = 3 then tiles t.toList ++ s.huskHost (s.affected 3 r.served r.running t)
  else if r.reaction = 4 then match t with
    | none => []
    | some t =>
      let b := s.rootOf t
      let runner := fun x => (List.range 4).any (fun j =>
        tget 0 s.comp.quadOwner (4 * x + j) != 0 && s.nestedIn (tget 0 s.comp.quadOwner (4 * x + j)) b)
      tiles ((s.bunchOf b).localLeaves.map Prod.snd) ++ ((List.range 4).filter runner).map (srcId 4) ++ s.huskHost (s.ctxsOf b)
  else s.tileNos.map (srcId 1) ++ s.routers.map (srcId 6) ++ ((List.range 16).filter s.hasPort).map (srcId 3)
    ++ ((List.range 4).filter s.hasRunner).map (srcId 4) ++ [srcId 5 0x1000, srcId 7 0]

/-- Units are those of a reaction's scope, once each; their order is open. -/
def State.huskAll (s : State) (r : React) (units : List (BitVec 32)) : Bool :=
  units.length == (s.huskScope r).length && units.eraseDups.length == units.length && units.all (s.huskScope r).contains

/-- What a record holds that a greater step closes: the units found UNREADABLE, and an open choice of the others (log 180). -/
def State.huskSoFar (s : State) (r : React) : List (BitVec 32) :=
  let l := s.huskScope r
  (((List.range l.length).zip l).filter (fun p =>
    r.unreadable.contains p.2 || Config.freeBits 1 (2 ^ 65 * (s.fresh + 1) + p.1) == 1)).map Prod.snd

/-- A parity error of the observation ring corrupts the collection of the `n`-th unit: an open event (R462; log 180). -/
def State.ringBad (s : State) (n : Nat) : Bool := Config.freeBits 1 (2 ^ 64 * (s.fresh + 1) + n) == 1

/-- A unit entry: its 16-byte header, and contents that tools treat as opaque, or their digest. -/
def State.huskEntry (s : State) (bad : List (BitVec 32)) (u : BitVec 32) (n : Nat) : List Byte :=
  let data := toBytes ((Config.freeBits 6 (s.fresh + n)).toNat) (Config.freeBits 512 (s.fresh + n)).toNat
  let hdr := fun kind len => toBytes 4 u.toNat ++ toBytes 1 kind ++ toBytes 3 0 ++ toBytes 8 len
  if bad.contains u then hdr 1 0
  else if s.ringBad n then hdr 3 0
  else if s.huskConf u then hdr 2 32 ++ toBytes 32 (Config.shake256 data).toNat
  else hdr 0 data.length ++ data

/-- A whole record (R463). -/
def State.huskRecord (s : State) (r : React) (units : List (BitVec 32)) (part : Bool) : List Byte :=
  let us := (List.range units.length).zip units
  let body := us.flatMap (fun p => s.huskEntry r.unreadable p.2 p.1)
  toBytes 4 1 ++ toBytes 4 s.stone.huskSeq ++ toBytes 8 (64 + body.length) ++ toBytes 4 r.src.toNat ++ toBytes 4 r.seq.toNat
    ++ toBytes 2 (rowCode r.row).toNat ++ toBytes 1 r.reaction ++ toBytes 1 (bit part) ++ toBytes 2 units.length
    ++ toBytes 2 ((us.filter (fun p => r.unreadable.contains p.2 || s.ringBad p.1)).length) ++ toBytes 32 0 ++ body

/-- Write bytes to the circular region of one port from a 64 KiB unit on. -/
def State.huskPut (s : State) (m off : Nat) : Nat → List Byte → State
  | _, [] => s
  | i, b :: bs =>
    (s.poke (lpAddr m (1426 * 0x4000000 + (off * 0x10000 + i) % 0x10000000)) b).huskPut m off (i + 1) bs

/-- Write a record to both copies of the region, or to the survivor where a port has failed or trains (R463, R510), and report it. -/
def State.writeHusk (s : State) (r : React) (units : List (BitVec 32)) (part : Bool) : State :=
  let bs := s.huskRecord r units part
  let off := s.stone.huskNext
  let s := [0, huskPortOf s.boot.variant].foldl (fun s m =>
    if (s.port m).st = 2 || (s.port m).st = 3 then (s.huskPut m off 0 bs).portMove m 5 73 bs.length else s) s
  let s : State := { s with
    fresh := s.fresh + units.length
    stone := { s.stone with
      huskSeq := s.stone.huskSeq + 1, huskOff := off, huskNext := (off + (bs.length + 0xFFFF) / 0x10000) % 4096 } }
  s.fault (srcId 7 0) 0x0703 none false (BitVec.ofNat 64 off)

/-! ### Beginning a reaction (R433, R443 step 5) -/

/-- A step of one reaction acts on the unit of another: the module's, a root bunch's, or a tile's. -/
def State.covers (s : State) (r q : React) : Bool :=
  let t := unitTile r.row r.src r.detail
  let u := unitTile q.row q.src q.detail
  if 5 ≤ r.reaction then true
  else if r.reaction = 4 then (match t, u with
    | some t, some u => s.rootOf t == s.rootOf u
    | _, _ => false)
  else r.reaction == 3 && t == u && t.isSome

/-- A greater step of the same unit is in progress: a lesser one is discarded (R433). -/
def State.outranked (s : State) (r : React) : Bool :=
  3 ≤ r.reaction && s.stone.reacts.any (fun q => r.reaction < q.reaction && s.covers q r)

/-- A greater step replaces the lesser ones of its unit, and a record that one of them was collecting closes with PARTIAL set (R433,
R461). -/
def State.replaceLesser (s : State) (r : React) : State :=
  let gone := s.stone.reacts.filter (fun q => 3 ≤ q.reaction && q.reaction < r.reaction && s.covers r q)
  let s := gone.foldl (fun s q => if q.phase = 0 then s.writeHusk q (s.huskSoFar q) true else s) s
  { s with stone := { s.stone with reacts := s.stone.reacts.filter (fun q => !gone.contains q) } }

/-- SHUTDOWN (R412): every vote but that on the always-on domain is withdrawn, and every other domain goes OFF. -/
def State.shutDown (s : State) : State :=
  let s := (List.range 161).foldl (fun s d =>
    if s.hasDom d then (s.setDom d { s.dom d with st := 0, votes := 0 }).enterLow d 0 else s) s
  { s with hif := { s.hif with ready := false, link := false }, boot := { s.boot with phase := 3 }
           pwr := { s.pwr with shut := true } }

/-- A reaction begins. -/
def State.beginReact (s : State) (r : React) : State :=
  let t := unitTile r.row r.src r.detail
  let s := (s.affected r.reaction r.served r.running t).foldl (fun s c => s.quiesceSafe c) s
  if s.outranked r then s
  else
    let s := s.replaceLesser r
    let s := match t with
      | some t => if r.reaction = 3 then s.fenceTile t else s
      | none => s
    let s : State := { s with stone := { s.stone with reacts := s.stone.reacts ++ [r] } }
    if r.reaction = 7 then s.shutDown
    else if r.reaction = 2 && r.row = 23 then s.failIsland r.detail.toNat else s

/-- The step that follows in the ranking of R450: a step that names no unit here is passed over (DEDUCED, log 189). -/
def State.nextStep (s : State) (reaction : Nat) (tile : Option Nat) : Nat :=
  if reaction = 1 then (if tile.isSome then 3 else 5)
  else if reaction = 3 then (match tile with | some t => if s.rootOf t = 0 then 5 else 4 | none => 5)
  else if reaction = 2 || reaction = 4 then 5 else 6

/-- The same row has latched from the same source within 10 s after its step completed (R451). -/
def State.recurs (s : State) (f : SafetyFault) : Bool :=
  s.stone.recent.any (fun e => e.1 == f.row && e.2.1 == f.src && (s.time - e.2.2).toNat ≤ 1000000000)

/-- Whether a reaction waits for a Husk (R461). -/
def huskStep (reaction : Nat) : Bool := 3 ≤ reaction && reaction ≤ 6

/-- The step would need a unit that is itself failed (R451): a route-around needs the MGC behind the infrastructure router of Q0. -/
def State.needsFailed (s : State) (f : SafetyFault) (reaction : Nat) : Bool :=
  reaction == 2 && f.row == 15 && s.routerFailed hostRouter

/-- The Stone island's reaction to a fault (R443). -/
def State.reactTo (s : State) (f : SafetyFault) : State :=
  let s := s.latchRow f.row f.src
  let s : State := { s with stone := { s.stone with safe := true, cause := rowCode f.row } }
  let base := s.reactionTo f
  let t := unitTile f.row f.src f.detail
  let reaction := if (s.recurs f || s.needsFailed f base) && base < 6 then s.nextStep base t else base
  let s := (s.affected reaction f.ctxs f.running t).foldl (fun s c => s.quiesceSafe c) s
  let seq := tget 0 s.seqs f.src.toNat
  let s := s.faultAt f.pacer f.src (rowCode f.row) f.ctxs.head? true f.detail
  let r : React := { row := f.row, src := f.src, seq, reaction, phase := if huskStep reaction then 0 else 1, detail := f.detail,
                     unreadable := [], served := f.ctxs, running := f.running }
  (s.beginReact r).settleSafe

/-- The context that a host command on a fence signals for: that of a queue whose oldest command is a FENCE_SIGNAL of it. -/
def State.signalsFor (s : State) (f c : Nat) : Bool :=
  s.hif.queues.any (fun e => e.2.ctx == c && (match e.2.cmds with
    | k :: _ => k.type == 5 && cmdFld k.raw 8 2 == f
    | [] => false))

/-- A mismatch of the two copies of an update or evaluation of fence `f` that no other command reports (R441): the contexts are
those bound to it, and that of the signalling command where there is one. -/
def State.fenceReport (s : State) (f : SafetyFault) : Bool :=
  let n := f.detail.toNat
  let x := s.fence n
  f.row == 14 && f.src == srcId 5 0x1000 && x.valid && x.bound.isPrefixOf f.ctxs
    && (match f.ctxs.drop x.bound.length with
      | [] => true
      | [c] => s.signalsFor n c
      | _ => false)

/-- Faults that no other command of the table reports: written-bit and control-path parity, mover parity and crossing parity, and
the checks of fences. They are detected now, and served the context running on their tile, and a crossing none (R444). -/
def State.ownReport (s : State) (f : SafetyFault) : Bool :=
  let i := fld f.src.toNat 0 16
  let of := fun t => s.hasTile t && f.ctxs == (s.runCtx t).toList
  f.pacer == s.srcPacer f.src && f.running == s.runningOn (unitTile f.row f.src f.detail)
    && (((f.row = 2 || f.row = 5) && f.src == srcId 1 i && of i && f.detail == 0)
      || (f.row = 10 && f.src == srcId 2 i && of (i / 8) && f.detail == 0)
      || (f.row = 23 && s.hasXing f.detail.toNat && f.src == xingSrc f.detail.toNat && f.ctxs.isEmpty)
      || s.fenceReport f)

/-- Store line of a tile in a bank and row (R56). -/
def bankLine (t bank row : Nat) : Nat := tsAddr t 0 / 64 + row * 64 + (bank ^^^ row % 64)

/-- A parity error in a written-bit array makes every line that the failing word covers uncorrectable (R59): lines of one bank
(R56) in an open run of rows, 1 to 64 of them (log 174). -/
def State.parityUe (s : State) (t : Nat) : State :=
  let (v, s) := s.draw 32
  let row := fld v.toNat 6 17
  ((List.range (1 + fld v.toNat 23 6)).map (fun i => bankLine t (fld v.toNat 0 6) ((row + i) % 2 ^ 17))).foldl
    (fun s n => s.countLine .uncorrectable n) s

/-- What a fault that is reported with its reaction did at its detection: lost lines (R59), or neither result of a fence's update
applied and its error flag set (R441). -/
def State.detected (s : State) (f : SafetyFault) : State :=
  if f.row = 2 then s.parityUe (fld f.src.toNat 0 16)
  else if f.row = 14 then (s.flagFence f.detail.toNat 8).evalWaiters f.detail.toNat
  else s

def execSafetyFaultReaction (flt : SafetyFault) (s : State) : Ans :=
  if s.stone.faults.contains flt then
    .next (State.reactTo { s with stone := { s.stone with faults := s.stone.faults.erase flt } } flt)
  else if s.ownReport flt then .next ((s.detected flt).reactTo flt)
  else .refused (.notEnabled "SAFETY_FAULT_REACTION")

/-! ### The step behind a Husk (R443, R461, R462) -/

/-- The step of a reaction, after its Husk. -/
def State.runStep (s : State) (r : React) : State :=
  let t := unitTile r.row r.src r.detail
  if r.reaction = 3 then (match t with | some t => s.tileStep r.row t | none => s)
  else if r.reaction = 4 then (match t with | some t => (s.resetBunch (s.rootOf t)).changed | none => s)
  else if r.reaction = 6 then { s with stone := { s.stone with cycleReq := true } }
  else s

/-- The first reaction that waits for its Husk. -/
def State.huskFor (s : State) : Option React := s.stone.reacts.find? (fun r => r.phase == 0)

/-- Replace a reaction's record. -/
def State.setReact (s : State) (r r' : React) : State :=
  { s with stone := { s.stone with reacts := updFirst (fun x => x == r) (fun _ => r') s.stone.reacts } }

def execHuskRecordComplete (units : List (BitVec 32)) (s : State) : Ans :=
  match s.huskFor.filter (fun r => s.huskAll r units) with
  | none => .refused (.notEnabled "HUSK_RECORD_COMPLETE")
  | some r => .next (((s.writeHusk r units false).setReact r { r with phase := 1 }).runStep { r with phase := 1 }).settleSafe

/-- A unit has not answered the observation ring in 100 µs (R462). -/
def execHuskUnitTimeout (src : BitVec 32) (s : State) : Ans :=
  match s.huskFor.filter (fun r => (s.huskScope r).contains src) with
  | some r => .next (s.setReact r { r with unreadable := if r.unreadable.contains src then r.unreadable else r.unreadable ++ [src] })
  | none => .refused (.notEnabled "HUSK_UNIT_TIMEOUT")

/-! ### Escalation (R451) -/

/-- A reaction in progress moves one step up; a Husk record in progress closes with PARTIAL set (R461). -/
def State.escalate (s : State) (r : React) : State :=
  let t := unitTile r.row r.src r.detail
  let next := s.nextStep r.reaction t
  let s := if r.phase = 0 then s.writeHusk r (s.huskSoFar r) true else s
  let s : State := { s with stone := { s.stone with reacts := s.stone.reacts.erase r, safe := true } }
  (s.beginReact { r with reaction := next, phase := 0, unreadable := [] }).settleSafe

def execEscalation (row : Nat) (s : State) : Ans :=
  match s.stone.reacts.find? (fun r => r.row == row && r.reaction < 6) with
  | some r => .next (s.escalate r)
  | none => .refused (.notEnabled "ESCALATION")

/-! ### Acknowledgement (R445, R447) -/

def execRowAcknowledge (f : Frame) (rows : List Nat) (s : State) : Ans :=
  framed f s (fun s =>
    if rows.any (fun r => 24 ≤ r) then .fail s 0x14
    else
      let clear := rows.foldl (fun t r => tput t r { (tget {} t r : Latch) with set := false, count := 0, first := 0 }) s.stone.rows
      .ok (State.settleSafe { s with stone := { s.stone with rows := clear, nvRow17 := s.stone.nvRow17 && !rows.contains 17 } }))

/-! ### Clocks and watchdogs (R439, R440, R449) -/

/-- Two oscillator counts, in hundredths of an edge, agree within 100 edges. -/
def countsAgree (a b : Nat) : Bool := absDiff a b ≤ 10000

/-- A window fails the pacer check (R439): L is scaled by 100 / 156.25, so that 64 hundredths stand for each of its edges. -/
def windowFails (p s l : Nat) : Bool :=
  let p := 100 * p
  let s := 100 * s
  let k := 64 * l
  (countsAgree s k && !countsAgree p s && !countsAgree p k)
    || (!countsAgree s k && !countsAgree p s && !countsAgree p k)

def execPacerFreqWindow (p sys l : Nat) (s : State) : Ans :=
  if windowFails p sys l then
    let n := s.stone.pacerBad + 1
    let s : State := { s with stone := { s.stone with pacerBad := n } }
    .next (if 2 ≤ n then s.raiseSafety 18 (srcId 7 0) [] 0 else s)
  else .next { s with stone := { s.stone with pacerBad := 0 } }

def execMgcKick (s : State) : Ans := .next { s with stone := { s.stone with mgcAlive := true } }

def execHostifHeartbeat (s : State) : Ans := .next { s with stone := { s.stone with hostAlive := true } }

/-- The Stone island looks for the MGC's kick (R440); an update suspends the check (R510). -/
def execMgcWatchdog (s : State) : Ans :=
  if s.stone.mgcAlive || s.stone.mgcSuspended then .next { s with stone := { s.stone with mgcAlive := false } }
  else .next (s.raiseSafety 16 (srcId 7 0) [] 0)

/-- The Stone island looks for the host interface's heartbeat (R440). -/
def execHostifWatchdog (s : State) : Ans :=
  if s.stone.hostAlive then .next { s with stone := { s.stone with hostAlive := false } }
  else .next (s.raiseSafety 13 (srcId 5 0x1000) [] 0)

/-- The Stone island's own lockstep: hardware drives the pins and records row 17, with its lifetime count, for the next boot (R447,
R449); the fault has its record (R458). -/
def execStoneLockstep (s : State) : Ans :=
  let x := s.latch 17
  let s : State := { s with stone := { s.stone with
    safe := true, cycleReq := true, nvRow17 := true, rows := tput s.stone.rows 17 { x with life := x.life + 1 } } }
  .next (State.signal (s.fault (srcId 7 0) (rowCode 17) none true 0))

/-! ### The rotation self-test (R453 to R457) -/

/-- Tiles that rotation passes: SERVING and SPARE. -/
def State.rotating (s : State) : List Nat := s.tileNos.filter (fun t => (s.tile t).role ≤ 1)

/-- A bunch holds a pinned context (R396). -/
def State.holdsPinned (s : State) (b : BitVec 32) : Bool := s.hif.ctxs.any (fun e => e.2.valid && e.2.pinned && e.2.bunch == b)

/-- The rotation engine started a graft of the bunch's tiles within the last 100 ms (R396). -/
def State.turnedLately (s : State) (b : BitVec 32) : Bool :=
  match s.stone.rotated.find? (fun e => e.1 == b.toNat) with
  | some e => (s.time - e.2).toNat < 10000000
  | none => false

/-- A graft that the rotation engine asked for waits to start on the bunch, or on one nested in it. -/
def State.turnAsked (s : State) (b : BitVec 32) : Bool :=
  s.comp.grafts.any (fun g => g.why == 1 && g.step == 0 && s.nestedIn g.bunch b)

/-- A tile may take its turn now (R333, R396, R454): a graft of a bunch is one of those that hold it. -/
def State.turnOk (s : State) (t : Nat) : Bool :=
  let b := s.tileBunch t
  !s.stone.inTurn.contains t && !(s.tile t).refusing && !s.inGraft t
    && ((s.tile t).role == 1 || ((s.graftBadOpt b).isNone && (s.bunchOf b).st != 1
      && (s.ancestors 257 b).all (fun a => !(s.holdsPinned a && (s.turnedLately a || s.turnAsked a)))))

/-- The next tile: one that was asked for (R457), else the one whose last pass lies furthest back, the lowest number among equals
(R454). -/
def State.nextTurn (s : State) : Option Nat :=
  let l := s.rotating.filter s.turnOk
  match s.stone.asked.find? (fun t => l.contains t) with
  | some t => some t
  | none => l.foldl (fun (a : Option Nat) t => match a with
    | none => some t
    | some b => if tget 0 s.stone.lastPass t < tget 0 s.stone.lastPass b then some t else a) none

/-- Spare and testing tiles: the full set from which turns draw. -/
def State.spares (s : State) : List Nat := s.tileNos.filter (fun t => (s.tile t).role == 1 || (s.tile t).role == 2)

/-- A tile's turn begins. -/
def State.inTurn (s : State) (t : Nat) : State :=
  { s with stone := { s.stone with inTurn := s.stone.inTurn ++ [t], asked := s.stone.asked.erase t } }

/-- A SERVING tile is borrowed (R456): it starts no launch until its turn has ended. -/
def State.borrow (s : State) (t : Nat) : State :=
  let s := (s.setTile t { s.tile t with noLaunch := true }).inTurn t
  { s with stone := { s.stone with borrowing := true } }

/-- A SERVING tile of no bunch changes places with a spare: it has no share to move. -/
def State.swapFree (s : State) (t k : Nat) : State := ((s.clearOut t 2).bringIn k).revote

/-- Start the turn of a tile (R453), none when no spare is free. -/
def State.startTurn (s : State) (t : Nat) : Option State :=
  if (s.tile t).role = 1 then
    if s.stone.inTurn.length < s.spares.length then
      some ((((s.setRole t 2).setTile t { (s.setRole t 2).tile t with refusing := true }).inTurn t).revote)
    else none
  else if s.spares.isEmpty then (if s.stone.inTurn.isEmpty then some (s.borrow t) else none)
  else match s.nearSpare t with
    | some k =>
      let b := s.tileBunch t
      let s := (if b = 0 then s.swapFree t k else s.beginGraft (replaceGraft b t k 1)).inTurn t
      some { s with stone := { s.stone with borrowing := false } }
    | none => none

def execRotationTurnStart (s : State) : Ans :=
  if s.mgcAway then .refused (.notEnabled "ROTATION_TURN_START")
  else match s.nextTurn.bind s.startTurn with
  | some s => .next s
  | none => .refused (.notEnabled "ROTATION_TURN_START")

/-- A pass ends a tile's turn, and the cycle when no tile that serves, is spare or is in its test has still to pass (R455). -/
def State.passTile (s : State) (t : Nat) : State :=
  let n := s.stone.passes + 1
  let passed := if s.stone.passed.contains t then s.stone.passed else s.stone.passed ++ [t]
  let s : State := { s with stone := { s.stone with
    passes := n, lastPass := tput s.stone.lastPass t n, passTime := tput s.stone.passTime t s.time, passed
    overdue := s.stone.overdue.erase t } }
  if (s.tileNos.filter (fun k => (s.tile k).role ≤ 2)).all (fun k => passed.contains k) then
    { s with stone := { s.stone with
      cycles := s.stone.cycles + 1, passed := [], cycleStart := s.time
      lastCycle := min 0xFFFF ((s.time - s.stone.cycleStart).toNat / 10000000) } }
  else s

/-- A tile leaves its turn. -/
def State.leaveTurn (s : State) (t : Nat) : State :=
  { s with stone := { s.stone with inTurn := s.stone.inTurn.erase t } }

/-- A failed test: SELFTEST_FAIL is latched and the tile becomes RETIRED (R453). -/
def State.failTest (s : State) (t : Nat) : State :=
  ((s.raiseSafety 4 (srcId 1 t) (s.runCtx t).toList 0).retireTile t)

/-- The end of a TESTING tile's test. -/
def State.endTest (s : State) (t : Nat) (pass : Bool) : State :=
  let s := s.leaveTurn t
  if pass then
    let s := ((s.clearTile t).bumpGen t).setRole t 1
    ((s.setTile t { s.tile t with refusing := false, noLaunch := false }).passTile t).revote
  else s.failTest t

/-- The end of a borrowed tile's test (R456): the packets that waited are served, and the held launches start. -/
def State.endBorrow (s : State) (t : Nat) (pass : Bool) : State :=
  let s := s.leaveTurn t
  let s := s.setTile t { s.tile t with noLaunch := false }
  if pass then ((s.passTile t).emptyBuf t).dispatchTile t else (s.failTest t).emptyBuf t

def execRotationSelftestDone (t : Nat) (pass : Bool) (s : State) : Ans :=
  if !s.hasTile t then .refused (.notEnabled "ROTATION_SELFTEST_DONE")
  else if (s.tile t).role = 2 then .next (s.endTest t pass).settleSafe
  else if s.inBist t then .next (s.endBorrow t pass).settleSafe
  else .refused (.notEnabled "ROTATION_SELFTEST_DONE")

/-- A tile returns (R338): it is not RETIRED, it has power, and neither a turn, a reaction nor a graft still has it. The command
is the end of its self-test. -/
def execTileRejoin (t : Nat) (s : State) : Ans :=
  let x := s.tile t
  if s.hasTile t && x.refusing && x.role != 3 && (s.dom t).st == 2 && !s.stone.inTurn.contains t
      && s.stone.reacts.all (fun r => r.reaction != 3 || unitTile r.row r.src r.detail != some t)
      && s.comp.grafts.all (fun g => 2 ≤ g.kind || g.out != t) then .next (s.rejoin t)
  else .refused (.notEnabled "TILE_REJOIN")

/-- No spare is free for a tile's turn, and no borrowed turn can start: the module has spares, or the tile's bunch is FROZEN, HALTED or
DISSOLVING (R454, R456, R457; log 190). -/
def State.turnBusy (s : State) (t : Nat) : Bool :=
  let free := if (s.tile t).role = 1 then s.stone.inTurn.length < s.spares.length else (s.nearSpare t).isSome
  !free && (!s.spares.isEmpty || 4 ≤ (s.bunchOf (s.tileBunch t)).st)

/-- The orchestrator brings a tile's turn forward (R457). -/
def execSelftestRequest (f : Frame) (t : Nat) (s : State) : Ans :=
  framed f s (fun s =>
    if !s.hasTile t || 2 ≤ (s.tile t).role then .fail s 0x14
    else if s.turnBusy t then .fail s 0x12
    else .ok { s with stone := { s.stone with asked := if s.stone.asked.contains t then s.stone.asked else s.stone.asked ++ [t] } })

end Sys2Proof.Machine
end

