-- ==== Sys2Proof/Machine/Resets.lean ====
section
/-! DEFINITION. Crossings (R427 to R430), island, PCIe, module and power resets (R431 to R433, R530), the sideband pins and the
cold start (R504 to R507, R514 to R522), and the sampler's tick (R496). -/

namespace Sys2Proof.Machine

/-! ### Crossings -/

/-- A side of a crossing that has reset asks for resynchronisation: the other discards the entries that it has not taken, of which the
operand says how many there were (R425, R427, R428; log 131), and the owning unit reports what is lost (R426). -/
def execResyncReq (i : Nat) (island : Bool) (dropped : Nat) (s : State) : Ans :=
  let x := s.xing i
  if s.hasXing i && x.st == 2 && (if island then x.reqIsland else x.reqCore) && dropped ≤ 16 then
    let s := s.setXing i { x with
      dropped := satAdd 0xFFFF x.dropped dropped, side := if x.reqCore && x.reqIsland then island else x.side
      reqCore := x.reqCore && island, reqIsland := x.reqIsland && !island
      up := if island then { x.up with fifo := [] } else x.up, down := if island then x.down else { x.down with fifo := [] } }
    .next (if dropped != 0 && 4 ≤ s.boot.step then s.raiseSafety 23 (xingSrc i) [] (BitVec.ofNat 64 i) else s)
  else .refused (.notEnabled "RESYNC_REQ")

/-- A side clears its pointers; with both, the crossing returns to RUN (R427), and messages that waited for it go out. -/
def execResyncDone (i : Nat) (island : Bool) (s : State) : Ans :=
  let x := s.xing i
  if s.hasXing i && x.st == 2 && !x.reqCore && !x.reqIsland then
    let x := x.clearSide island
    .next (State.flushWaits (s.setXing i (if x.doneCore && x.doneIsland then
      { x with st := 1, resyncs := satAdd 0xFFFF x.resyncs 1, doneCore := false, doneIsland := false } else x))).unitsGo
  else .refused (.notEnabled "RESYNC_DONE")

/-- A planned stop of the clock of a memory port or runner port: its crossing enters PARKED, and then its domain leaves ON
(R429). -/
def execCrossingPark (i : Nat) (s : State) : Ans :=
  if s.hasXing i && 16 ≤ i && i < 64 && (s.xing i).st == 1 && s.wanted (i + 124) ≤ 1 then
    .next ((s.setXing i { s.xing i with st := 3 }).evalDom (i + 124))
  else .refused (.notEnabled "CROSSING_PARK")

/-- The clock monitor sees no edge for 10 µs (R430). -/
def execClockStopped (i : Nat) (s : State) : Ans :=
  if s.hasXing i && (s.xing i).st == 1 then .next (s.setXing i { s.xing i with st := 4 })
  else .refused (.notEnabled "CLOCK_STOPPED")

/-- The clock returns: the crossing resumes where it stopped and loses nothing (R430). -/
def execClockReturn (i : Nat) (s : State) : Ans :=
  if s.hasXing i && (s.xing i).st == 4 then .next (State.flushWaits (s.setXing i { s.xing i with st := 1 })).unitsGo
  else .refused (.notEnabled "CLOCK_RETURN")

/-- A clock is still missing 2 ms after the stalled request (R430). -/
def execXingClockLost (i : Nat) (s : State) : Ans :=
  if s.hasXing i && (s.xing i).st == 4 then
    let s := (s.setXing i { s.xing i with st := 5, needReset := true }).failIsland i
    .next (s.raiseSafety 22 (xingSrc i) [] (BitVec.ofNat 64 i))
  else .refused (.notEnabled "XING_CLOCK_LOST")

/-! ### Island reset (R431) -/

/-- An island's logic resets and its crossing resynchronises: a memory port retrains with its contents, unless it is FAILED or OFF
(R230, R413); a runner quad retrains by stored training, the PCIe controller trains its link. -/
def State.resetIsland (s : State) (i : Nat) : State :=
  let s := s.setXing i { s.xing i with
    st := 2, side := true, needReset := false, reqIsland := true, doneCore := false, doneIsland := false }
  if i = 0 then { s with hif := { s.hif with link := false } }
  else if 16 ≤ i && i < 32 then
    let p := s.port (i - 16)
    (s.loadImage 3 (i - 16)).setPort (i - 16) { p with st := if 4 ≤ p.st then p.st else 1, occ := 0, throttling := false }
  else if 32 ≤ i && i < 36 then
    (List.range 4).foldl (fun s j =>
      let q := 4 * (i - 32) + j
      let s := if (s.quad q).st = 3 then s.quadDown q else s
      if (s.runner (i - 32)).disabled then s else s.setQuad q { s.quad q with st := quadStart q }) (s.loadImage 4 (i - 32))
  else s

def execIslandReset (i : Nat) (s : State) : Ans :=
  if s.hasXing i then .next (s.resetIsland i) else .refused (.notEnabled "ISLAND_RESET")

/-! ### PCIe resets (R431, R530) -/

/-- Quiesce every context as ABORT, disable every queue, and clear MSI-X and BAR4_CTRL. -/
def State.pcieReset (s : State) : State :=
  let s := s.allCtxs.foldl (fun s c => s.abortCtx c false) s
  { s with hif := { s.hif with
      queues := [], msixTable := [], msixPend := [], bar4Open := false, bar4Tile := 0, barWait := [], link := false } }

def execPcieHotReset (_why : PcieReset) (s : State) : Ans := .next s.pcieReset

def execPcieLinkTrained (speed width : Nat) (flit : Bool) (s : State) : Ans :=
  if 4 ≤ s.boot.step && !s.hif.link then
    .next { s with hif := { s.hif with link := true, speed := speed % 16, width := width % 32, flit } }
  else .refused (.notEnabled "PCIE_LINK_TRAINED")

/-- The configuration space of the one function, PF0 (R280). -/
def pcieConfig (v : Variant) : PcieConfig :=
  { vendor := Config.vendorId, device := BitVec.ofNat 16 (deviceOf v), cls := 0x120000, maxPayload := 512, maxRead := 4096
    tags := 768, pasidBits := 20, msixVectors := 2048, msixBar := 0, ats := false, pri := false, aer := true, sriov := false }

/-- A Configuration Request: Retry Status until the host interface is ready (R504, R505, R530). -/
def execPcieConfigRequest (s : State) : Ans :=
  .next (s.emit (if s.hif.ready && s.hif.link then .cfg (pcieConfig s.boot.variant) else .crs))

/-! ### Module reset (R431, R432, R467, R471, R474) -/

/-- The domains that are ON whenever the module has power: the host interface and the always-on domain, by the Stone
island's votes, which also hold Q0's uncore (R413, R414). -/
def State.stoneVotes (s : State) : State :=
  let s := (s.setDom 161 { s.dom 161 with st := 2, votes := 2 }).setDom 160 { s.dom 160 with votes := 2 }
  s.setDom 136 { s.dom 136 with votes := 2 }

/-- What the security state keeps: flash and fuses. Sessions close and volatile keys are lost. -/
def Sec.kept (x : Sec) : Sec :=
  { slots := x.slots, nextSid := x.nextSid, kemEpoch := x.kemEpoch + 1, unlocked := x.unlocked, flash := x.flash
    committed := x.committed, booted := x.booted, trial := x.trial && !x.trialRun, minSvn := x.minSvn }

/-- What the Stone island keeps across a reset below a power cycle: its latches, generations and records (R431, R447). -/
def Stone.kept (x : Stone) : Stone :=
  { x with raised := [], locked := false, safe := true, faults := [], reacts := [], passed := []
           inTurn := [], borrowing := false, asked := [], overdue := [], mgcSuspended := false }

/-- A reset generates an attestation key pair and a KEM key pair from on-die entropy (R467). -/
def State.freshKeys (s : State) : State :=
  let (a, s) := s.draw 512
  let (k, s) := s.draw 512
  { s with sec := { s.sec with attKey := some a, kemKey := some k } }

/-- A granule map on which only the Husk region is not DIRTY: nothing is listed. -/
def Port.kept (p : Port) : Port := { st := if p.st = 0 then 0 else 3 }

/-- A byte of the Husk region, whose contents alone stay readable after a module reset (R228, R432; DEDUCED, log 192). -/
def State.huskByte (s : State) (a : Nat) : Bool :=
  (a / 2 ^ 40 == 0 || a / 2 ^ 40 == huskPortOf s.boot.variant) && 1426 ≤ a % 2 ^ 40 / 0x4000000 && a % 2 ^ 40 / 0x4000000 < 1430

/-- What a module reset keeps of the module: the readable LPDDR5X contents, pacers, stored coefficients, caps, and the always-on domain. -/
def State.moduleReset (s : State) (cause : Nat) (maint : Bool) : State :=
  let r : State := {
    pending := s.pending, time := s.time, fresh := s.fresh, out := s.out
    mem := s.mem.filter (fun e => s.huskByte e.1)
    boot := { variant := s.boot.variant, step := 1, pwrEn := s.boot.pwrEn, resetN := s.boot.resetN
              resets := satAdd 0xFFFFFFFF s.boot.resets 1, cause, wantMaint := maint, phase := 1
              i3cAddr := s.boot.i3cAddr, i3cLast := s.boot.i3cLast }
    tiles := s.tiles.map (fun e => (e.1, { base := e.2.base }))
    ports := s.ports.map (fun e => (e.1, e.2.kept))
    runners := s.runners.map (fun e => (e.1, { stored := e.2.stored, laneMap := e.2.laneMap, coefs := e.2.coefs }))
    pwr := { orchCap := s.pwr.orchCap, trayCap := s.pwr.trayCap, vin := s.pwr.vin, iin := s.pwr.iin, vinRange := s.pwr.vinRange
             doms := (List.range 4).foldl (fun d q =>
               if (s.dom (136 + q)).st = 2 then tput d (136 + q) { st := 2 } else d) [] }
    xings := ((List.range 132).filter s.hasXing).map (fun i => (i, { st := 2, reqCore := true, reqIsland := true }))
    stone := s.stone.kept
    sec := s.sec.kept }
  r.freshKeys.stoneVotes.signal

/-- A confidential bunch record exists (R480, R507). -/
def State.confBunch (s : State) : Bool := s.comp.bunches.any (fun e => e.2.st != 0 && e.2.conf)

/-- A reaction of MODULE has its Husk and waits for its reset. -/
def State.moduleDue (s : State) : Bool := s.stone.reacts.any (fun r => r.reaction == 5 && r.phase == 1)

/-- A power cycle is in progress: a module reset requested meanwhile is discarded (R433). -/
def State.cycling (s : State) : Bool := s.stone.cycleReq || s.stone.reacts.any (fun r => r.reaction == 6)

/-- A module reset replaces the steps in progress: the record that one of them was collecting closes with PARTIAL set (R461). -/
def State.closeHusks (s : State) : State :=
  s.stone.reacts.foldl (fun s q => if q.phase = 0 then s.writeHusk q (s.huskSoFar q) true else s) s

/-- A module reset by one of its three requesters. The orchestrator's is answered with BUSY while a power cycle is in progress
(log 193). -/
def execModuleReset (by_ : ResetBy) (s : State) : Ans :=
  match by_ with
  | .resetN =>
    if s.boot.resetN && s.boot.pwrEn && !s.cycling then .next (s.closeHusks.moduleReset 1 false) else .refused (.notEnabled "MODULE_RESET")
  | .stone =>
    if s.moduleDue && !s.cycling then
      let done := s.stone.reacts.filter (fun r => r.reaction == 5 && r.phase == 1)
      let s := s.closeHusks
      .next (State.moduleReset { s with stone := { s.stone with
        resetTimes := s.time :: s.stone.resetTimes
        recent := done.map (fun r => (r.row, r.src, s.time)) ++ s.stone.recent } } 2 false)
    else .refused (.notEnabled "MODULE_RESET")
  | .orchestrator f maint =>
    onMgmt s (if s.frameOk f then
        let bad := maint && s.confBunch
        if s.cycling then (s.takeFrame f).respond f 0x12 []
        else ((s.takeFrame f).respond f (if bad then 0x12 else 0) []).closeHusks.moduleReset 3 (maint && !bad)
      else s.discardFrame f)

/-! ### Power loss (R431, R514, R517, R521) -/

/-- What survives a loss of input power: flash, fuses, and the non-volatile fault store with row 17 (R431, R447, R449). -/
def State.powerLoss (s : State) : State :=
  let keepLatch := fun (x : Latch) => ({ life := x.life } : Latch)
  let sec := s.sec.kept
  { pending := s.pending, time := s.time, fresh := s.fresh, out := s.out
    boot := { variant := s.boot.variant, pwrEn := s.boot.pwrEn }
    runners := s.runners.map (fun e => (e.1, { stored := e.2.stored, laneMap := e.2.laneMap, coefs := e.2.coefs }))
    pwr := { orchCap := maxPowerOf s.boot.variant, trayCap := maxPowerOf s.boot.variant }
    stone := { rows := s.stone.rows.map (fun e => (e.1, keepLatch e.2)), retired := s.stone.retired, nvRow17 := s.stone.nvRow17
               resetTimes := s.stone.resetTimes }
    sec := sec }

/-- The tray controller removes and restores the input (R521). -/
def execPowerCycle (s : State) : Ans :=
  if s.stone.cycleReq then .next s.powerLoss else .refused (.notEnabled "POWER_CYCLE")

/-- The input falls below the turn-off threshold (R514). -/
def execUndervoltageLockout (s : State) : Ans := .next s.powerLoss

/-- PWR_EN has been deasserted for 10 µs (R517): SAFE_N, every domain but always-on OFF with the ports'
pads held (R419), LPDDR5X lost. -/
def execPwrEnDeassert (s : State) : Ans :=
  let r := s.moduleReset 0 false
  .next (State.signal { r with
    mem := [], boot := { r.boot with pwrEn := false, resets := s.boot.resets, phase := 3 }, ports := []
    tiles := []
    pwr := { r.pwr with doms := (((List.range 20).map (fun i => 140 + i)).filter s.hasDom).map (fun d => (d, { held := true }))
               ++ [(161, { st := 2, votes := 2 })] } })

/-- PWR_EN is asserted; while CYCLE_REQ_N is asserted it has no effect (R517, R522). -/
def execPwrEnAssert (s : State) : Ans :=
  if s.stone.cycleReq then .next s else .next { s with boot := { s.boot with pwrEn := true } }

/-- RESET_N has been low for 100 µs: it requests a module reset, without effect while PWR_EN is deasserted or CYCLE_REQ_N
asserted (R518, R522). -/
def execResetNAssert (s : State) : Ans :=
  if !s.boot.pwrEn || s.stone.cycleReq then .next s else .next { s with boot := { s.boot with resetN := true } }

/-- RESET_N is released: the restart of R504 may begin (R518). -/
def execResetNRelease (s : State) : Ans := .next { s with boot := { s.boot with resetN := false } }

/-! ### Cold start (R504) -/

/-- Step 1: the always-on domain powers up; row 17 is restored as latched (R449). -/
def State.aonUp (s : State) (vin : BitVec 16) : State :=
  let rows := if s.stone.nvRow17 then
      tput s.stone.rows 17 { (tget {} s.stone.rows 17 : Latch) with set := true, count := 1, first := srcId 7 0 }
    else s.stone.rows
  let s : State := { s with
    boot := { s.boot with step := 1 }
    stone := { s.stone with rows, safe := true }
    xings := ((List.range 132).filter s.hasXing).map (fun i => (i, { st := 2, reqCore := true, reqIsland := true }))
    pwr := { s.pwr with
      vin, vinRange := false, orchCap := maxPowerOf s.boot.variant, trayCap := maxPowerOf s.boot.variant } }
  s.freshKeys.stoneVotes.signal

def execInputInRange (vin : BitVec 16) (s : State) : Ans :=
  if !vinOk vin then .refused (.notEnabled "INPUT_IN_RANGE")
  else if s.boot.step = 0 then .next (s.aonUp vin)
  else .next (State.signal { s with pwr := { s.pwr with vin, vinRange := false } })

/-- The reaction matrix of the configuration image of a bank: opaque entries, each in force only above its default (R448). -/
def State.matrixOf (s : State) (bank : Nat) : Table Nat :=
  let v := Config.freeBits 72 (tget {} s.sec.flash (bank * 8 + 6) : Flash).digest.toNat
  (List.range 24).filterMap (fun r =>
    let x := fld v.toNat (3 * r) 3
    if rowDefaults.getD r 0 < x then some (r, x) else none)

/-- Step 2: the trial bank boots when it is marked and verifies, else the committed bank, else the module stays in ROM with
ALERT_N asserted (R471). The operands say what the verification of each bank's images as they stand in flash found; an image that
was erased, or whose SVN lies below the fused minimum, never verifies (R470). -/
def State.bootVerify (s : State) (okA okB : Bool) : State :=
  let ok := fun b => (if b = 0 then okA else okB) && (List.range 7).all (fun k => s.flashOk b k)
  let other := 1 - s.sec.committed
  let trial := s.sec.trial && ok other
  if !trial && !ok s.sec.committed then
    State.signal { s with sec := { s.sec with noBank := true, trial := false } }
  else
    let bank := if trial then other else s.sec.committed
    State.signal { s with
      boot := { s.boot with step := 2 }
      sec := { s.sec with noBank := false, booted := bank, trial, trialRun := trial, loaded := []
                          bootImg := (List.range 7).map (fun k => (k, s.flashDigest bank k)) }
      stone := { s.stone with raised := s.matrixOf bank } }

def execBootVerifyDone (okA okB : Bool) (s : State) : Ans :=
  if s.boot.step = 1 && !s.boot.resetN && !s.sec.noBank then .next (s.bootVerify okA okB)
  else .refused (.notEnabled "BOOT_VERIFY_DONE")

/-- Step 4: every rail is up; ports, quads and tiles begin their training and tests. Pacers start with their uncore (R62). -/
def State.railsUp (s : State) : State :=
  let cold := (List.range 4).filter (fun q => (s.dom (136 + q)).st != 2)
  let s := (List.range 162).foldl (fun s d => if s.hasDom d then s.setDom d { s.dom d with st := 2 } else s) s
  let s := s.tileNos.foldl (fun s t => if cold.contains (quarterOf t) then s.setTile t { s.tile t with base := s.time } else s) s
  let s := ((List.range 16).filter s.hasPort).foldl (fun s m => s.setPort m { s.port m with st := 1 }) s
  let s := ((List.range 16).filter (fun x => s.hasRunner (x / 4))).foldl (fun s x => s.setQuad x { s.quad x with st := quadStart x }) s
  { s with boot := { s.boot with step := 4, phase := 1 } }

def execRailsUp (s : State) : Ans :=
  if s.boot.step = 2 && s.boot.pwrEn && !s.boot.resetN && !s.stone.cycleReq then .next s.railsUp
  else .refused (.notEnabled "RAILS_UP")

/-- R16 step 3: at most one spare per quarter, while more tiles remain than are usable. -/
def pickSpares (variant : Variant) (retired : List Nat) : List Nat :=
  let all := (List.range (tilesOf variant)).filter (fun t => !retired.contains t)
  let usable := min (usableOf variant) all.length
  (List.range (quartersOf variant)).foldl (fun l q =>
    if usable < all.length - l.length then
      match (all.filter (fun t => quarterOf t == q)).getLast? with
      | some t => l ++ [t]
      | none => l
    else l) []

/-- The roles after the power-up self-test (R16), and with them the default floors (R248); a tile that failed is latched and recorded as
retired. -/
def State.assignRoles (s : State) (failed : List Nat) : State :=
  let retired := s.stone.retired ++ failed.filter (fun t => !s.stone.retired.contains t)
  let spares := pickSpares s.boot.variant retired
  let n := (s.tileNos.filter (fun t => !retired.contains t)).length
  let s := failed.foldl (fun s t => s.raiseSafety 4 (srcId 1 t) [] 0) s
  let s := s.tileNos.foldl (fun s t => s.setTile t { s.tile t with
    role := if retired.contains t then 3 else if spares.contains t then 1 else 0
    refusing := retired.contains t }) s
  let s := ((List.range 16).filter s.hasPort).foldl (fun s m => s.setPort m { s.port m with floors := s.defaultFloors m }) s
  State.revote { s with
    stone := { s.stone with retired }
    boot := { s.boot with tested := true, usable := min (usableOf s.boot.variant) n } }

def execPowerUpSelftestDone (failed : List Nat) (s : State) : Ans :=
  if s.boot.step = 4 && !s.boot.tested && failed.all s.hasTile && failed.eraseDups.length == failed.length then
    .next (s.assignRoles failed)
  else .refused (.notEnabled "POWER_UP_SELFTEST_DONE")

/-- Three module resets by the Stone island within the last 10 minutes: a recovery boot (R507). -/
def State.recoveryBoot (s : State) : Bool :=
  s.boot.cause == 2 && 3 ≤ (s.stone.resetTimes.filter (fun t => (s.time - t).toNat ≤ 60000000000)).length

/-- Step 6: the matrix is locked and the host interface reports ready; R507 decides the state. -/
def State.hostReady (s : State) : State :=
  let maint := (s.boot.wantMaint || s.recoveryBoot) && !s.confBunch
  State.settleSafe { s with
    hif := { s.hif with ready := true }
    boot := { s.boot with step := 6, phase := 2, maint, wantMaint := false }
    stone := { s.stone with locked := true } }

def execHostReady (s : State) : Ans :=
  if s.boot.step = 4 && s.boot.tested && ((List.range 16).filter s.hasPort).all (fun m => (s.port m).st != 1) then
    .next s.hostReady
  else .refused (.notEnabled "HOST_READY")

/-! ### The sampler (R496, R501) -/

/-- A group's sample is due: its record, and its tile's gathered trace. -/
def State.sampleGroup (s : State) (g : Nat) : State :=
  let x := s.group g
  let s := if x.ctl.getLsbD 0 && x.ctl.getLsbD 1 then s.bankRecord g 1 x.counters else s
  if g < 68 then s.traceFlush g else s

def execSamplerTick (g : Nat) (s : State) : Ans :=
  if s.groupPresent g && s.smpEnabled then .next (s.sampleGroup g) else .refused (.notEnabled "SAMPLER_TICK")

end Sys2Proof.Machine
end

