-- ==== Sys2Proof/Machine/Security.lean ====
section
/-! DEFINITION. Sessions and credentials (R472 to R475), quotes (R468, R469), keys (R476 to R479), confidential mode (R480),
MAINTENANCE (R507), firmware banks and in-service update (R470, R471, R509, R510), and factory test entry (R485). The values of
cryptographic functions are open. -/

namespace Sys2Proof.Machine

/-! ### Credential slots and sessions (R473 to R475) -/

def State.credSlot (s : State) (i : Nat) : CredSlot := tget {} s.sec.slots i

def State.setCred (s : State) (i : Nat) (x : CredSlot) : State := { s with sec := { s.sec with slots := tput s.sec.slots i x } }

/-- The 256-bit key a credential holds. -/
def credKey : Cred → BitVec 256
  | .key k => k
  | .password k _ _ => k

/-- A cost exponent lies within 10 to 24 (R473). -/
def credOk : Cred → Bool
  | .key _ => true
  | .password _ _ c => 10 ≤ c && c ≤ 24

/-- Salt and cost exponent, which HELLO's answer carries for a password slot. -/
def credSalt : Cred → List Byte
  | .key _ => []
  | .password _ salt c => toBytes 16 salt.toNat ++ toBytes 1 c

/-- Answer a frame of SESSION 0, which has no TAG. Its SEQ and that of its command, with which the body begins, are open (R472;
log 181). -/
def State.answerOpen (s : State) (status : BitVec 16) (body : List Byte) : State :=
  let (v, s) := s.draw 128
  s.emit (.mgmt 0 (fld v.toNat 64 64) status (toBytes 8 (fld v.toNat 0 64) ++ body) none)

/-- What the session keys are taken over (R474). The labels of KMAC256 are C2D 0, D2C 1, WRAP 2, ACCEPT 3, CLAIM 4, OPEN 5, FRAME
6, JOB 7. -/
def sessionSeed (x : Session) : List Byte := toBytes 32 x.nc.toNat ++ toBytes 32 x.nd.toNat ++ toBytes 4 x.sid.toNat

/-- The PROOF that opens an attempt under a key (R474 step 3). -/
def openProof (k : BitVec 256) (x : Session) : BitVec 256 := Config.kmac256 k 5 (sessionSeed x ++ toBytes 8 Config.deviceId.toNat)

/-- Open an attempt: a nonce, an identifier, and the slot's salt and cost (R474). -/
def State.helloOk (s : State) (slot : Nat) (cred : Cred) (nc : BitVec 256) : State :=
  let (nd, s) := s.draw 256
  let sid := BitVec.ofNat 32 s.sec.nextSid
  let x : Session := { sid, slot, isOpen := false, nc, nd, c2d := 0, d2c := 0, wrap := 0, seqIn := 0, seqOut := 1, discards := 0 }
  let s : State := { s with sec := { s.sec with sessions := s.sec.sessions ++ [x], nextSid := s.sec.nextSid + 1 } }
  s.answerOpen 0 (toBytes 32 nd.toNat ++ toBytes 4 sid.toNat ++ credSalt cred)

def execHello (slot : Nat) (nc : BitVec 256) (s : State) : Ans :=
  onMgmt s (match (s.credSlot slot).cred with
    | none => s.answerOpen 0x14 []
    | some cred =>
      if 4 ≤ s.sec.sessions.length || (s.credSlot slot).locked then s.answerOpen 0x12 [] else s.helloOk slot cred nc)

/-- A failed PROOF closes the attempt; five on a slot within 60 s lock it (R474). -/
def State.proofFails (s : State) (x : Session) : State :=
  let c := s.credSlot x.slot
  let fails := (s.time :: c.fails).filter (fun t => (s.time - t).toNat ≤ 6000000000)
  (s.closeSession x.sid).setCred x.slot { c with fails, locked := c.locked || 5 ≤ fails.length }

/-- A PROOF that matches opens the session and derives its keys. -/
def State.proofPasses (s : State) (x : Session) (k : BitVec 256) : State :=
  let seed := sessionSeed x
  let s := s.updSession x.sid (fun x => { x with
    isOpen := true, c2d := Config.kmac256 k 0 seed, d2c := Config.kmac256 k 1 seed, wrap := Config.kmac256 k 2 seed })
  s.answerOpen 0 (toBytes 32 (Config.kmac256 k 3 (toBytes 32 x.nd.toNat ++ toBytes 32 x.nc.toNat ++ toBytes 4 x.sid.toNat
    ++ toBytes 8 Config.deviceId.toNat)).toNat)

def execProof (sid : BitVec 32) (proof : BitVec 256) (s : State) : Ans :=
  onMgmt s (match s.sec.sessions.find? (fun x => !x.isOpen && x.sid == sid) with
    | none => s
    | some x =>
      match (s.credSlot x.slot).cred with
      | none => s.closeSession sid
      | some c =>
        if !(s.credSlot x.slot).locked && proof == openProof (credKey c) x then s.proofPasses x (credKey c) else s.proofFails x)

/-- 300 s without a valid command (R474). -/
def execSessionIdleTimeout (sid : BitVec 32) (s : State) : Ans :=
  if s.sec.sessions.any (fun x => x.sid == sid) then .next (s.closeSession sid)
  else .refused (.notEnabled "SESSION_IDLE_TIMEOUT")

def execSlotLockExpire (slot : Nat) (s : State) : Ans :=
  if (s.credSlot slot).locked then .next (s.setCred slot { s.credSlot slot with locked := false, fails := [] })
  else .refused (.notEnabled "SLOT_LOCK_EXPIRE")

/-- A command whose effect closes sessions: it answers first. -/
def closing (f : Frame) (s : State) (k : State → Option (BitVec 16)) (act : State → State) : Ans :=
  onMgmt s (if s.frameOk f then
      let s := s.takeFrame f
      match k s with
      | some e => s.respond f e []
      | none => act (s.respond f 0 [])
    else s.discardFrame f)

def execClose (f : Frame) (s : State) : Ans := closing f s (fun _ => none) (fun s => s.closeSession f.sid)

/-- The slot that a frame's session was opened on. -/
def State.slotOfFrame (s : State) (f : Frame) : Option Nat := (s.openSession f.sid).map (·.slot)

/-- A session may change a slot: slots 1 to 7 from any, slot 0 only from slot 0 (R473). -/
def State.credAllowed (s : State) (f : Frame) (slot : Nat) : Bool := slot < 8 && (slot != 0 || s.slotOfFrame f == some 0)

def execCredSet (f : Frame) (slot : Nat) (cred : Cred) (s : State) : Ans :=
  framed f s (fun s =>
    if s.credAllowed f slot && credOk cred then .ok (s.setCred slot { cred := some cred }) else .fail s 0x14)

/-- Close every session of a slot. -/
def State.closeSlot (s : State) (slot : Nat) : State :=
  { s with sec := { s.sec with sessions := s.sec.sessions.filter (fun x => x.slot != slot) } }

def execCredClear (f : Frame) (slot : Nat) (s : State) : Ans :=
  closing f s (fun s => if s.credAllowed f slot then none else some 0x14) (fun s => (s.setCred slot {}).closeSlot slot)

/-- Empty every slot and destroy every job and image key. -/
def State.forgetAll (s : State) : State := { s with sec := { s.sec with slots := [], jobKeys := [], imgKeys := [] } }

/-- Some bunch record exists. -/
def State.anyBunch (s : State) : Bool := s.comp.bunches.any (fun e => e.2.st != 0)

def execUnclaim (f : Frame) (s : State) : Ans :=
  closing f s (fun s => if s.slotOfFrame f != some 0 then some 0x14 else if s.anyBunch then some 0x12 else none)
    (fun s => let s := s.forgetAll
              { s with sec := { s.sec with sessions := [] } })

/-- The secret of a ciphertext under the module's KEM key: one that is encapsulated to an earlier key fails (R467). -/
def State.kemOpen (s : State) (ct : List Byte) : Option (BitVec 256) :=
  s.sec.kemKey.bind (fun k => if Config.kemTo ct = some s.sec.kemEpoch then some (Config.kemSecret k ct) else none)

/-- An unclaimed module accepts one CLAIM to the key of a quote taken since the last reset (R473). -/
def execClaim (ct : List Byte) (s : State) : Ans :=
  onMgmt s (if (List.range 8).any (fun i => (s.credSlot i).cred.isSome) || s.sec.quoteSeq = 0 then s.answerOpen 0x12 []
    else match s.kemOpen ct with
      | none => s.answerOpen 0x0C []
      | some ss =>
        let k := Config.kmac256 ss 4 (toBytes 8 Config.deviceId.toNat)
        (s.setCred 0 { cred := some (.key k) }).answerOpen 0 [])

/-! ### Quotes (R468, R469) -/

/-- The image of a KIND that instance `i` runs: the boot's, or the one it has loaded since (R509, R510). -/
def State.imageRun (s : State) (kind i : Nat) : BitVec 256 :=
  match s.sec.loaded.find? (fun e => e.1 == kind * 128 + i) with
  | some e => e.2
  | none => tget 0 s.sec.bootImg kind

/-- Digests of every instance of a KIND. -/
def State.imagesRun (s : State) (kind n : Nat) : List Byte := (List.range n).flatMap (fun i => toBytes 32 (s.imageRun kind i).toNat)

/-- Instances of a KIND (R509). -/
def State.instances (s : State) (kind : Nat) : Nat :=
  if kind = 3 then portsOf s.boot.variant else if kind = 4 then runnersOf s.boot.variant
  else if kind = 5 then tilesOf s.boot.variant else 1

/-- One bunch as slot 8 lists it: identifier, parent, CONFIDENTIAL, leaf count, ranges and quads. -/
def State.bunchMeasure (s : State) (x : Bunch) : List Byte :=
  toBytes 4 x.id.toNat ++ toBytes 4 x.parent.toNat ++ toBytes 1 (bit x.conf) ++ toBytes 4 x.map.length
    ++ (List.range 16).flatMap (fun m => let r := (s.port m).rangeFor x.id
                                         if r.valid then toBytes 1 m ++ toBytes 2 r.len else [])
    ++ ((List.range 16).filter (fun q => tget 0 s.comp.quadOwner q == x.id)).flatMap (fun q => toBytes 1 q)

/-- Recorded bunches in ascending identifier. -/
def State.bunchesById (s : State) : List Bunch :=
  ((s.comp.bunches.filter (fun e => e.2.st != 0)).map Prod.snd).mergeSort (fun a b => a.id.toNat ≤ b.id.toNat)

/-- What measurement slot `i` from 3 on is taken over (R468). -/
def State.measured (s : State) (i : Nat) : List Byte :=
  match i with
  | 3 | 4 | 5 => s.imagesRun i (s.instances i)
  | 6 => (List.range 24).flatMap (fun r => toBytes 1 (s.rowReaction r))
  | 7 => toBytes 1 (bit s.pwr.free) ++ (List.range 16).flatMap (fun m => toBytes 1 (bit (s.port m).explicit))
      ++ (List.range 8).flatMap (fun k => toBytes 1 (bit (s.credSlot k).cred.isSome))
      ++ (List.range 7).flatMap (fun k => toBytes 4 (tget (0, 0) s.sec.minSvn k).1)
  | 8 => s.bunchesById.flatMap s.bunchMeasure
  | _ => (s.bunchesById.filter (fun x => x.conf)).flatMap (fun x =>
      toBytes 4 x.id.toNat ++ ((s.sec.jobKeys.filter (fun k => k.bunch == x.id)).flatMap (fun k => toBytes 2 k.id)))

/-- Measurement slot `i`: of the firmware itself in slots 0 to 2, whose SHAKE256 is the image's DIGEST (R470); slots 10 to 15 are
zero. -/
def State.measure (s : State) (i : Nat) : BitVec 256 :=
  if i < 3 then s.imageRun i 0 else if 10 ≤ i then 0 else Config.shake256 (s.measured i)

/-- Bytes 0 to 575 of a quote. -/
def State.quoteHead (s : State) (nonce : BitVec 256) : List Byte :=
  toBytes 4 1 ++ toBytes 4 (bit s.boot.maint + 2 * bit s.sec.trialRun + 4 * bit s.sec.unlocked) ++ toBytes 8 Config.deviceId.toNat
    ++ toBytes 4 (deviceOf s.boot.variant) ++ toBytes 4 s.sec.quoteSeq.toNat ++ toBytes 4 s.comp.changeSeq.toNat ++ toBytes 4 0
    ++ toBytes 32 nonce.toNat ++ (List.range 16).flatMap (fun i => toBytes 32 (s.measure i).toNat)

/-- Bytes 0 to 2,143 of a quote, which the signature covers: the encapsulation key follows the measurements. -/
def State.quoteSigned (s : State) (nonce : BitVec 256) : List Byte :=
  s.quoteHead nonce ++ (List.range 1568).map (fun i => Config.kemPublic (s.sec.kemKey.getD 0) i)

/-- The quote over a nonce: the signature of 49,856 bytes and the certificates follow; the whole is at most 128 KiB. -/
def State.quoteBytes (s : State) (nonce : BitVec 256) : List Byte :=
  let h := s.quoteSigned nonce
  let k := s.sec.attKey.getD 0
  (h ++ (List.range 49856).map (fun i => Config.slhSign k h i) ++ Config.attCert k ++ Config.identityCert).take 131072

/-- Request a quote; one is produced at a time (R469). -/
def State.askQuote (s : State) (sid : BitVec 32) (seq : BitVec 64) (nonce : BitVec 256) : State :=
  { s with sec := { s.sec with quote := some { mailbox := false, sid, seq, nonce } } }

def execQuote (f : Option Frame) (nonce : BitVec 256) (s : State) : Ans :=
  onMgmt s (match f with
    | none => if s.sec.quote.isSome then s.answerOpen 0x12 [] else s.askQuote 0 0 nonce
    | some f =>
      if s.frameOk f then
        let s := s.takeFrame f
        if s.sec.quote.isSome then s.respond f 0x12 [] else s.askQuote f.sid f.seq nonce
      else s.discardFrame f)

/-- Deliver a quote to the mailbox's buffer or to the management network. -/
def State.deliverQuote (s : State) (r : QuoteReq) (bs : List Byte) : State :=
  if r.mailbox then
    match s.hif.busy with
    | some m => (s.emit (.dma s.mgrPasid (m.arg 0) bs)).mboxEnd stOk 0
    | none => s
  else if r.sid = 0 then s.answerOpen 0 bs
  else s.respond { sid := r.sid, seq := r.seq, tagOk := true } 0 bs

/-- A graft in progress delays the quote until its epoch change ends (R469). -/
def execQuoteReady (s : State) : Ans :=
  match s.sec.quote with
  | none => .refused (.notEnabled "QUOTE_READY")
  | some r =>
    if !s.comp.grafts.isEmpty || s.mgcAway then .refused (.notEnabled "QUOTE_READY")
    else
      let bs := s.quoteBytes r.nonce
      .next (State.deliverQuote { s with sec := { s.sec with quote := none, quoteSeq := s.sec.quoteSeq + 1 } } r bs)

/-! ### Job and image keys (R476 to R479) -/

/-- Why a key cannot be added to a store: a bad name, an identifier in use, or a full store. -/
def keyBad (l : List Key) (b : BitVec 32) (id : Nat) (known : Bool) : Option (BitVec 16) :=
  if !known || id = 0 || 65535 < id then some 0x14
  else if l.any (fun k => k.id == id) then some 0x12
  else if 64 ≤ l.length || 2 ≤ (l.filter (fun k => k.bunch == b)).length then some 0x0E
  else none

/-- The session's WRAP key. -/
def State.wrapKey (s : State) (f : Frame) : BitVec 256 :=
  match s.openSession f.sid with
  | some x => x.wrap
  | none => 0

/-- Install a job key. -/
def State.addKey (s : State) (b : BitVec 32) (id : Nat) (key : BitVec 256) : State :=
  { s with sec := { s.sec with jobKeys := s.sec.jobKeys ++ [{ id, bunch := b, active := false, key }] } }

def execKeyInstall (f : Frame) (b : BitVec 32) (id : Nat) (wrapped : List Byte) (s : State) : Ans :=
  framed f s (fun s =>
    match keyBad s.sec.jobKeys b id (s.findBunch b).isSome, Config.unwrap (s.wrapKey f) wrapped with
    | some e, _ => .fail s e
    | none, none => .fail s 0x0C
    | none, some k => .ok (s.addKey b id k))

def execKeyAgreeBegin (f : Frame) (s : State) : Ans :=
  framed f s (fun s =>
    let (n, s) := s.draw 256
    { s := { s with sec := { s.sec with agree := some n } }, body := toBytes 32 n.toNat })

/-- A peer's quote passes R477 step 3. -/
def State.peerOk (s : State) (q : PeerQuote) : Bool := q.ok && q.meas == (List.range 7).map s.measure

/-- The key that wraps a job key for one module, from the secret shared with it (R477 step 4). -/
def jobWrap (ss : BitVec 256) (b : BitVec 32) (id : Nat) (device : BitVec 64) : BitVec 256 :=
  Config.kmac256 ss 7 (toBytes 4 b.toNat ++ toBytes 2 id ++ toBytes 8 device.toNat)

/-- The blob for one peer: the 1,568 bytes that encapsulate a secret to its key, and the 40 of the wrapped job key. -/
def jobBlob (ss key : BitVec 256) (b : BitVec 32) (id : Nat) (q : PeerQuote) : List Byte :=
  let c := Config.cipher ss 0 q.ek
  let w := Config.cipher (jobWrap ss b id q.device) 1 (toBytes 32 key.toNat)
  (List.range 1568).map (fun i => c.getD i 0) ++ (List.range 40).map (fun i => w.getD i 0)

/-- Open a blob: decapsulate with the current KEM key, and unwrap (R477 step 5). -/
def State.openBlob (s : State) (b : BitVec 32) (id : Nat) (blob : List Byte) : Option (BitVec 256) :=
  (s.kemOpen (blob.take 1568)).bind (fun ss =>
    Config.unwrap (jobWrap ss b id Config.deviceId) (blob.drop 1568))

def execKeyAgree (f : Frame) (b : BitVec 32) (id : Nat) (quotes : List PeerQuote) (s : State) : Ans :=
  framed f s (fun s =>
    match keyBad s.sec.jobKeys b id (s.findBunch b).isSome with
    | some e => .fail s e
    | none =>
      if s.sec.agree.isNone || !quotes.all s.peerOk then .fail s 0x0C
      else
        let (k, s) := s.draw 256
        let n := s.fresh
        let s := s.addKey b id k
        { s := { s with fresh := n + quotes.length, sec := { s.sec with agree := none } }
          body := ((List.range quotes.length).zip quotes).flatMap (fun p => jobBlob (Config.freeBits 256 (n + p.1)) k b id p.2) })

def execKeyAccept (f : Frame) (b : BitVec 32) (id : Nat) (blob : List Byte) (s : State) : Ans :=
  framed f s (fun s =>
    match keyBad s.sec.jobKeys b id (s.findBunch b).isSome, s.openBlob b id blob with
    | some e, _ => .fail s e
    | none, none => .fail s 0x0C
    | none, some k => .ok (s.addKey b id k))

/-- The key becomes ACTIVE and the bunch's other key INSTALLED (R478). -/
def activateKey (l : List Key) (b : BitVec 32) (id : Nat) : List Key :=
  l.map (fun k => if k.bunch = b then { k with active := k.id == id } else k)

/-- The store holds a key of the bunch. -/
def hasKey (l : List Key) (b : BitVec 32) (id : Nat) : Bool := l.any (fun k => k.bunch == b && k.id == id)

def execKeyActivate (f : Frame) (b : BitVec 32) (id : Nat) (s : State) : Ans :=
  framed f s (fun s =>
    if hasKey s.sec.jobKeys b id then .ok { s with sec := { s.sec with jobKeys := activateKey s.sec.jobKeys b id } }
    else .fail s 0x14)

/-- Remove a key of a bunch. -/
def dropKey (l : List Key) (b : BitVec 32) (id : Nat) : List Key := l.filter (fun k => !(k.bunch == b && k.id == id))

def execKeyDestroy (f : Frame) (b : BitVec 32) (id : Nat) (s : State) : Ans :=
  framed f s (fun s =>
    if hasKey s.sec.jobKeys b id || hasKey s.sec.imgKeys b id then
      .ok { s with sec := { s.sec with jobKeys := dropKey s.sec.jobKeys b id, imgKeys := dropKey s.sec.imgKeys b id } }
    else .fail s 0x14)

def execImageKeyInstall (f : Frame) (b : BitVec 32) (id : Nat) (wrapped : List Byte) (s : State) : Ans :=
  framed f s (fun s =>
    match keyBad s.sec.imgKeys b id (s.findBunch b).isSome, Config.unwrap (s.wrapKey f) wrapped with
    | some e, _ => .fail s e
    | none, none => .fail s 0x0C
    | none, some k =>
      .ok { s with sec := { s.sec with imgKeys := s.sec.imgKeys ++ [{ id, bunch := b, active := false, key := k }] } })

/-! ### Confidential mode and MAINTENANCE (R241, R480, R485, R507) -/

/-- Mark a root bunch, all nested in it, and their contexts. -/
def State.markConf (s : State) (b : BitVec 32) : State :=
  let ids := (s.comp.bunches.filter (fun e => e.2.st != 0 && s.nestedIn e.2.id b)).map (fun e => e.2.id)
  let cs := s.ctxsOf b
  let s := ids.foldl (fun s i => s.updBunch i (fun x => { x with conf := true })) s
  cs.foldl (fun s c => s.setCtx c { s.ctx c with conf := true }) s

def execConfSet (f : Frame) (b : BitVec 32) (s : State) : Ans :=
  framed f s (fun s =>
    let x := s.bunchOf b
    if (s.findBunch b).isNone then .fail s 0x14
    else if x.parent != 0 || x.st != 1 || s.boot.maint then .fail s 0x12
    else .ok (s.markConf b).changed)

def execMaintEnter (f : Frame) (s : State) : Ans :=
  framed f s (fun s => if s.confBunch then .fail s 0x12 else .ok { s with boot := { s.boot with maint := true } })

/-- A context other than the manager's holds a PAGED segment (R241). -/
def State.pagedElsewhere (s : State) : Bool :=
  s.hif.ctxs.any (fun e => e.1 != 0 && e.2.valid && (List.range 16).any (fun i =>
    segValid (tget 0 e.2.segs i) && segTarget (tget 0 e.2.segs i) == 4))

def execMaintLeave (f : Frame) (s : State) : Ans :=
  framed f s (fun s => if s.pagedElsewhere then .fail s 0x12 else .ok { s with boot := { s.boot with maint := false } })

/-- Every granule that may be granted is CLEAN. -/
def State.allClean (s : State) : Bool :=
  (List.range (portsOf s.boot.variant)).all (fun m => s.runClean m 0 (s.lastGranule m))

def execFactoryUnlock (f : Frame) (tokenOk : Bool) (s : State) : Ans :=
  framed f s (fun s =>
    if !tokenOk || s.slotOfFrame f != some 0 then .fail s 0x14
    else if !s.boot.maint || s.anyBunch || !s.allClean then .fail s 0x12
    else
      let s := s.forgetAll
      .ok { s with sec := { s.sec with unlocked := true } })

/-! ### Firmware (R470, R471) -/

/-- The bank that is not committed. -/
def State.otherBank (s : State) : Nat := 1 - s.sec.committed

/-- The header is one (R470): MAGIC, KIND, FORMAT, LENGTH and the zero bytes. -/
def headerOk (x : Image) : Bool :=
  x.magic == 0x4D46394B && x.kind ≤ 6 && x.format == 1 && x.length == x.payload.length && x.zero == 0

/-- An image is valid (R470): its signature and the signer's chain verify, its DIGEST is that of the payload, and its SVN reaches the
fused minimum. -/
def State.imageOk (s : State) (x : Image) : Bool :=
  headerOk x && x.sigOk && x.chainOk && x.digest == Config.shake256 x.payload && (tget (0, 0) s.sec.minSvn x.kind).1 ≤ x.svn

/-- Write one image into the other bank; one that fails is erased. -/
def State.writeImage (s : State) (x : Image) : State :=
  let e : Flash := if s.imageOk x then { version := x.version, svn := x.svn, digest := x.digest, valid := true }
    else { valid := false }
  if x.kind ≤ 6 then { s with sec := { s.sec with flash := tput s.sec.flash (s.otherBank * 8 + x.kind) e } } else s

def execFwWrite (f : Frame) (imgs : List Image) (s : State) : Ans :=
  framed f s (fun s =>
    let t := imgs.foldl (fun s x => s.writeImage x) s
    if imgs.all s.imageOk then .ok t else .fail t 0x0C)

def execFwTrial (f : Frame) (s : State) : Ans :=
  framed f s (fun s => .ok { s with sec := { s.sec with trial := true } })

/-- Fused minima after an ADVANCE to a bank: each KIND that rises uses one of its 64 advances. -/
def advanceSvn (m : Table (Nat × Nat)) (flash : Table Flash) (bank : Nat) : Table (Nat × Nat) :=
  (List.range 7).foldl (fun m k =>
    let n := (tget {} flash (bank * 8 + k) : Flash).svn
    let (old, used) := tget (0, 0) m k
    if old < n then tput m k (n, used + 1) else m) m

def execFwCommit (f : Frame) (advance : Bool) (s : State) : Ans :=
  framed f s (fun s =>
    let m := if advance then advanceSvn s.sec.minSvn s.sec.flash s.otherBank else s.sec.minSvn
    if !s.sec.trial then .fail s 0x12
    else if m.any (fun e => 64 < e.2.2) then .fail s 0x0E
    else .ok { s with sec := { s.sec with committed := s.otherBank, trial := false, trialRun := false, minSvn := m } })

/-! ### In-service update (R509, R510) -/

/-- A port holds every quad that a bunch has toward another module (R510). -/
def State.lastQuads (s : State) (x : Nat) : Bool :=
  s.comp.bunches.any (fun e => e.2.st != 0 && e.2.otherModules.any (fun m =>
    let l := s.listedQuads e.2.id m
    !l.isEmpty && l.all (fun q => q / 4 == x)))

/-- A graft involves the unit to update: the update waits for its end (R510). -/
def State.updateWaits (s : State) : Bool :=
  s.comp.grafts.any (fun g => s.sec.updKind == 2
    || (s.sec.updKind == 3 && (g.kind == 2 || g.kind == 3) && (g.out == s.sec.updDone || g.port == s.sec.updDone))
    || (s.sec.updKind == 4 && g.kind == 4 && g.out / 4 == s.sec.updDone))

/-- The next instance of the update drains (R509). -/
def State.drainNow (s : State) : State :=
  let i := s.sec.updDone
  let s : State := { s with sec := { s.sec with updDrained := true } }
  if s.sec.updKind = 2 then
    { s with sec := { s.sec with sessions := [] }, stone := { s.stone with mgcSuspended := true } }
  else if s.sec.updKind = 3 then
    let s := if (s.port i).st = 2 then s.setPort i { s.port i with st := 3 } else s
    s.setXing (16 + i) { s.xing (16 + i) with st := 3 }
  else if s.sec.updKind = 4 then
    (List.range 4).foldl (fun s j =>
      let q := 4 * i + j
      if (s.quad q).st = 3 then s.setQuad q { s.quad q with st := 5 } else s) s
  else s

/-- A runner port's pairs have moved off its quads: nothing waits on them, and nothing sent on them is unanswered (R369, R509). -/
def State.portQuiet (s : State) (p : Nat) : Bool :=
  (List.range 4).all (fun j => s.quadEmpty (4 * p + j) && (s.quad (4 * p + j)).unans.isEmpty)

/-- The instance to update can drain: no graft involves it, and a runner port is quiet (R509, R510). -/
def State.drainOk (s : State) : Bool := !s.updateWaits && (s.sec.updKind != 4 || s.portQuiet s.sec.updDone)

/-- Drain the next instance, or wait until it can. -/
def State.drainUnit (s : State) : State :=
  if s.drainOk then s.drainNow else { s with sec := { s.sec with updDrained := false } }

/-- Tiles that an update of KIND 5 must reach: a RETIRED one has no turn (R453, R509). -/
def State.updatable (s : State) : List Nat := s.tileNos.filter (fun t => (s.tile t).role != 3)

/-- Instances to update (R509, R512). -/
def State.updateCount (s : State) (kind : Nat) : Nat := if kind = 5 then s.updatable.length else s.instances kind

/-- The instance that can load its image now: for a dispatch unit, a tile in its rotation turn; else the one drained (R509). -/
def State.updUnit (s : State) : Option Nat :=
  if s.sec.updKind = 5 then
    s.stone.inTurn.find? (fun t => ((s.tile t).role == 2 || s.inBist t) && !s.sec.updTiles.contains t)
  else if s.sec.updDrained || s.drainOk then some s.sec.updDone else none

/-- Every instance is updated. -/
def State.updAll (s : State) : Bool :=
  if s.sec.updKind = 5 then s.updatable.all s.sec.updTiles.contains else s.sec.updTotal ≤ s.sec.updDone

def execFwUpdate (f : Frame) (kind : Nat) (s : State) : Ans :=
  framed f s (fun s =>
    if kind < 2 || 5 < kind || s.instances kind = 0 then .fail s 0x14
    else if s.sec.updActive || !s.sec.trial || (kind = 4 && (List.range 4).any s.lastQuads) then .fail s 0x12
    else .ok (State.drainUnit { s with sec := { s.sec with
        updKind := kind, updDone := 0, updTotal := s.updateCount kind, updTiles := [], updFailed := false, updActive := true
        updSid := f.sid, updSeq := f.seq } }))

/-- One instance rejoins with its image (R509): the trial bank's, or the committed one where that fails (R510). -/
def State.unitBack (s : State) (kind i : Nat) (ok : Bool) : State :=
  let s := if kind = 3 then s.resetIsland (16 + i) else if kind = 4 then s.resetIsland (32 + i)
    else if kind = 2 then { s with stone := { s.stone with mgcSuspended := false } } else s
  let img := s.flashDigest (if ok then s.otherBank else s.sec.committed) kind
  { s with sec := { s.sec with loaded := tput s.sec.loaded (kind * 128 + i) img } }

/-- A route-around that was needed while the MGC was away begins when it returns (R510). -/
def State.startRoutes (s : State) : State :=
  if !s.bram.paused && !s.routerFailed hostRouter && s.routers.any (fun i => s.routerFailed i && !s.bram.avoid.contains i) then
    s.pauseRoutes
  else s

/-- The update ends: its session, if still open, has the status, and a mailbox operation that waited for the MGC runs (R510). -/
def State.endUpdate (s : State) (status : BitVec 16) : State :=
  let s := s.respond { sid := s.sec.updSid, seq := s.sec.updSeq, tagOk := true } status []
  let s := State.startRoutes { s with sec := { s.sec with updActive := false, updFailed := status != 0 } }
  match s.hif.busy with
  | some m => if s.sec.updKind = 2 then s.mboxRun m else s
  | none => s

/-- Instance `i` finishes; a failed verification stops the update with INTEGRITY (R510). Grafts that waited for it go on. -/
def State.unitDone (s : State) (i : Nat) (ok : Bool) : State :=
  let k := s.sec.updKind
  let s := s.unitBack k i ok
  let s :=
    if !ok then s.endUpdate 0x0C
    else
      let s : State := { s with sec := { s.sec with
        updDone := s.sec.updDone + 1, updTiles := if k = 5 then s.sec.updTiles ++ [i] else s.sec.updTiles } }
      if s.updAll then s.endUpdate 0 else s.drainUnit
  s.goOn

/-- An update of dispatch units also ends when its last tile was RETIRED instead (R453, R509). -/
def execUnitUpdateDone (ok : Bool) (s : State) : Ans :=
  if !s.sec.updActive then .refused (.notEnabled "UNIT_UPDATE_DONE")
  else match s.updUnit with
    | some i => .next ((if s.sec.updDrained then s else s.drainNow).unitDone i (ok && s.flashOk s.otherBank s.sec.updKind))
    | none => if s.updAll then .next (s.endUpdate 0).goOn else .refused (.notEnabled "UNIT_UPDATE_DONE")

end Sys2Proof.Machine
end

