-- ==== Sys2Proof/Machine/Dispatch.lean ====
section
/-! DEFINITION. One arm per command: the meaning that gives it its effect. -/

namespace Sys2Proof.Machine

/-- The effect of a command on everything but the queue of waiting commands. -/
def exec (i : Instr) (s : State) : Host.Outcome State Fault Refusal :=
  match i with
  | .inputInRange vin => Sys2Proof.Machine.execInputInRange vin s
  | .pwrEnAssert => Sys2Proof.Machine.execPwrEnAssert s
  | .pwrEnDeassert => Sys2Proof.Machine.execPwrEnDeassert s
  | .resetNAssert => Sys2Proof.Machine.execResetNAssert s
  | .resetNRelease => Sys2Proof.Machine.execResetNRelease s
  | .undervoltageLockout => Sys2Proof.Machine.execUndervoltageLockout s
  | .vinRange vin => Sys2Proof.Machine.execVinRange vin s
  | .memportTrainingDone m => Sys2Proof.Machine.execMemportTrainingDone m s
  | .powerUpSelftestDone failed => Sys2Proof.Machine.execPowerUpSelftestDone failed s
  | .hostReady => Sys2Proof.Machine.execHostReady s
  | .pcieConfigRequest => Sys2Proof.Machine.execPcieConfigRequest s
  | .pcieHotReset why => Sys2Proof.Machine.execPcieHotReset why s
  | .mmioWrite off len v => Sys2Proof.Machine.execMmioWrite off len v s
  | .bar2Submission off data allEnabled => Sys2Proof.Machine.execBar2Submission off data allEnabled s
  | .commandConsume q pt => Sys2Proof.Machine.execCommandConsume q pt s
  | .commandStart q => Sys2Proof.Machine.execCommandStart q s
  | .nop q seq => Sys2Proof.Machine.execNop q seq s
  | .launch q seq => Sys2Proof.Machine.execLaunch q seq s
  | .copy q seq => Sys2Proof.Machine.execCopy q seq s
  | .fill q seq => Sys2Proof.Machine.execFill q seq s
  | .compare q seq => Sys2Proof.Machine.execCompare q seq s
  | .fenceSignal q seq => Sys2Proof.Machine.execFenceSignal q seq s
  | .fenceWait q seq => Sys2Proof.Machine.execFenceWait q seq s
  | .barrier q seq => Sys2Proof.Machine.execBarrier q seq s
  | .marker q seq => Sys2Proof.Machine.execMarker q seq s
  | .quiesce q seq => Sys2Proof.Machine.execQuiesce q seq s
  | .hostMoverComplete q seq res a b => Sys2Proof.Machine.execHostMoverComplete q seq res a b s
  | .coalesceTimerExpire q => Sys2Proof.Machine.execCoalesceTimerExpire q s
  | .cqHeadReread q head => Sys2Proof.Machine.execCqHeadReread q head s
  | .hostDmaRefused who => Sys2Proof.Machine.execHostDmaRefused who s
  | .mgmtCmdIndexWrite v => Sys2Proof.Machine.execMgmtCmdIndexWrite v s
  | .mailboxUnknownOp acc v => Sys2Proof.Machine.execMailboxUnknownOp acc v s
  | .ctxCreate acc v => Sys2Proof.Machine.execCtxCreate acc v s
  | .ctxShare acc v => Sys2Proof.Machine.execCtxShare acc v s
  | .ctxSeg acc v => Sys2Proof.Machine.execCtxSeg acc v s
  | .ctxQuiesce acc v => Sys2Proof.Machine.execCtxQuiesce acc v s
  | .ctxQuiesced c => Sys2Proof.Machine.execCtxQuiesced c s
  | .ctxResume acc v => Sys2Proof.Machine.execCtxResume acc v s
  | .ctxReset acc v => Sys2Proof.Machine.execCtxReset acc v s
  | .ctxRemove acc v => Sys2Proof.Machine.execCtxRemove acc v s
  | .ctxSave acc v => Sys2Proof.Machine.execCtxSave acc v s
  | .ctxRestore acc v => Sys2Proof.Machine.execCtxRestore acc v s
  | .ctxBacking acc v => Sys2Proof.Machine.execCtxBacking acc v s
  | .qEnable acc v => Sys2Proof.Machine.execQEnable acc v s
  | .qResume acc v => Sys2Proof.Machine.execQResume acc v s
  | .qDestroy acc v => Sys2Proof.Machine.execQDestroy acc v s
  | .objCreate acc v => Sys2Proof.Machine.execObjCreate acc v s
  | .objFree acc v => Sys2Proof.Machine.execObjFree acc v s
  | .objDestroy acc v => Sys2Proof.Machine.execObjDestroy acc v s
  | .fenceCreate acc v => Sys2Proof.Machine.execFenceCreate acc v s
  | .fenceBind acc v => Sys2Proof.Machine.execFenceBind acc v s
  | .fenceReset acc v => Sys2Proof.Machine.execFenceReset acc v s
  | .fenceDestroy acc v => Sys2Proof.Machine.execFenceDestroy acc v s
  | .fenceFlushAck f t => Sys2Proof.Machine.execFenceFlushAck f t s
  | .fenceSignalArrival t f agree => Sys2Proof.Machine.execFenceSignalArrival t f agree s
  | .attest acc v => Sys2Proof.Machine.execAttest acc v s
  | .quoteReady => Sys2Proof.Machine.execQuoteReady s
  | .bar4CtrlWrite acc v => Sys2Proof.Machine.execBar4CtrlWrite acc v s
  | .bar4Access write off len data res => Sys2Proof.Machine.execBar4Access write off len data res s
  | .qStatusW1c q acc v => Sys2Proof.Machine.execQStatusW1c q acc v s
  | .hiErrClear acc v => Sys2Proof.Machine.execHiErrClear acc v s
  | .slotFlagsW1c t j acc v => Sys2Proof.Machine.execSlotFlagsW1c t j acc v s
  | .slotDeadlineWrite t j acc v => Sys2Proof.Machine.execSlotDeadlineWrite t j acc v s
  | .storeErrClear j acc v => Sys2Proof.Machine.execStoreErrClear j acc v s
  | .mpErrClear j acc v => Sys2Proof.Machine.execMpErrClear j acc v s
  | .lossClear acc v => Sys2Proof.Machine.execLossClear acc v s
  | .rnErrClear j acc v => Sys2Proof.Machine.execRnErrClear j acc v s
  | .schedStatusClear j acc v => Sys2Proof.Machine.execSchedStatusClear j acc v s
  | .xingStateClear j acc v => Sys2Proof.Machine.execXingStateClear j acc v s
  | .fqCfgWrite acc v => Sys2Proof.Machine.execFqCfgWrite acc v s
  | .fqHeadWrite acc v => Sys2Proof.Machine.execFqHeadWrite acc v s
  | .fqStatusClear acc v => Sys2Proof.Machine.execFqStatusClear acc v s
  | .hostCapWrite acc v => Sys2Proof.Machine.execHostCapWrite acc v s
  | .mgrVoteWrite j acc v => Sys2Proof.Machine.execMgrVoteWrite j acc v s
  | .padRelease j acc v => Sys2Proof.Machine.execPadRelease j acc v s
  | .smpCfgWrite acc v => Sys2Proof.Machine.execSmpCfgWrite acc v s
  | .smpIntervalWrite acc v => Sys2Proof.Machine.execSmpIntervalWrite acc v s
  | .smpHeadWrite acc v => Sys2Proof.Machine.execSmpHeadWrite acc v s
  | .smpStatusClear acc v => Sys2Proof.Machine.execSmpStatusClear acc v s
  | .grpCtlWrite j acc v => Sys2Proof.Machine.execGrpCtlWrite j acc v s
  | .grpCtlClear j acc v => Sys2Proof.Machine.execGrpCtlClear j acc v s
  | .traceCtlWrite j acc v => Sys2Proof.Machine.execTraceCtlWrite j acc v s
  | .add t w => Sys2Proof.Machine.execAdd t w s
  | .sub t w => Sys2Proof.Machine.execSub t w s
  | .and t w => Sys2Proof.Machine.execAnd t w s
  | .or t w => Sys2Proof.Machine.execOr t w s
  | .xor t w => Sys2Proof.Machine.execXor t w s
  | .shl t w => Sys2Proof.Machine.execShl t w s
  | .shr t w => Sys2Proof.Machine.execShr t w s
  | .sra t w => Sys2Proof.Machine.execSra t w s
  | .mul t w => Sys2Proof.Machine.execMul t w s
  | .mulhu t w => Sys2Proof.Machine.execMulhu t w s
  | .divu t w => Sys2Proof.Machine.execDivu t w s
  | .remu t w => Sys2Proof.Machine.execRemu t w s
  | .cmp t w => Sys2Proof.Machine.execCmp t w s
  | .li t w => Sys2Proof.Machine.execLi t w s
  | .pset t w => Sys2Proof.Machine.execPset t w s
  | .lih t w => Sys2Proof.Machine.execLih t w s
  | .br t w => Sys2Proof.Machine.execBr t w s
  | .call t w => Sys2Proof.Machine.execCall t w s
  | .jr t w => Sys2Proof.Machine.execJr t w s
  | .ldU8 t w => Sys2Proof.Machine.execLdU8 t w s
  | .ldU16 t w => Sys2Proof.Machine.execLdU16 t w s
  | .ldU32 t w => Sys2Proof.Machine.execLdU32 t w s
  | .ld64 t w => Sys2Proof.Machine.execLd64 t w s
  | .ldS8 t w => Sys2Proof.Machine.execLdS8 t w s
  | .ldS16 t w => Sys2Proof.Machine.execLdS16 t w s
  | .ldS32 t w => Sys2Proof.Machine.execLdS32 t w s
  | .st8 t w => Sys2Proof.Machine.execSt8 t w s
  | .st16 t w => Sys2Proof.Machine.execSt16 t w s
  | .st32 t w => Sys2Proof.Machine.execSt32 t w s
  | .st64 t w => Sys2Proof.Machine.execSt64 t w s
  | .ldTd t w => Sys2Proof.Machine.execLdTd t w s
  | .stTd t w => Sys2Proof.Machine.execStTd t w s
  | .tdWr t w => Sys2Proof.Machine.execTdWr t w s
  | .tdRd t w => Sys2Proof.Machine.execTdRd t w s
  | .loadDataReturn t res host => Sys2Proof.Machine.execLoadDataReturn t res host s
  | .wait t w => Sys2Proof.Machine.execWait t w s
  | .tokPoll t w => Sys2Proof.Machine.execTokPoll t w s
  | .fenceSig t w => Sys2Proof.Machine.execFenceSig t w s
  | .fenceWaitInstr t w => Sys2Proof.Machine.execFenceWaitInstr t w s
  | .intakeOpen t w => Sys2Proof.Machine.execIntakeOpen t w s
  | .intakeTake t w => Sys2Proof.Machine.execIntakeTake t w s
  | .mvCopy t w x => Sys2Proof.Machine.execMvCopy t w x s
  | .mvFill t w x => Sys2Proof.Machine.execMvFill t w x s
  | .mvCmp t w x => Sys2Proof.Machine.execMvCmp t w x s
  | .moverOpComplete t mv res a b => Sys2Proof.Machine.execMoverOpComplete t mv res a b s
  | .vld t w x => Sys2Proof.Machine.execVld t w x s
  | .vst t w x => Sys2Proof.Machine.execVst t w x s
  | .varith t w x => Sys2Proof.Machine.execVarith t w x s
  | .vfma t w x => Sys2Proof.Machine.execVfma t w x s
  | .vsf t w x => Sys2Proof.Machine.execVsf t w x s
  | .vcmp t w x => Sys2Proof.Machine.execVcmp t w x s
  | .vred t w x => Sys2Proof.Machine.execVred t w x s
  | .vbcast t w x => Sys2Proof.Machine.execVbcast t w x s
  | .vsel t w x => Sys2Proof.Machine.execVsel t w x s
  | .vmask t w x => Sys2Proof.Machine.execVmask t w x s
  | .cvt t w x => Sys2Proof.Machine.execCvt t w x s
  | .vectorOpComplete t res => Sys2Proof.Machine.execVectorOpComplete t res s
  | .mma t w x => Sys2Proof.Machine.execMma t w x s
  | .mmaS24 t w x => Sys2Proof.Machine.execMmaS24 t w x s
  | .mmaSeed t w x => Sys2Proof.Machine.execMmaSeed t w x s
  | .mmaRowmask t w x => Sys2Proof.Machine.execMmaRowmask t w x s
  | .tensorOpStart t res => Sys2Proof.Machine.execTensorOpStart t res s
  | .tensorOpComplete t => Sys2Proof.Machine.execTensorOpComplete t s
  | .tensorCheckFail t code array row => Sys2Proof.Machine.execTensorCheckFail t code array row s
  | .gateTopk t w x => Sys2Proof.Machine.execGateTopk t w x s
  | .disp t w x => Sys2Proof.Machine.execDisp t w x s
  | .dispComplete t kd => Sys2Proof.Machine.execDispComplete t kd s
  | .comb t w x => Sys2Proof.Machine.execComb t w x s
  | .combSum t w x => Sys2Proof.Machine.execCombSum t w x s
  | .compactG t w x => Sys2Proof.Machine.execCompactG t w x s
  | .compactS t w x => Sys2Proof.Machine.execCompactS t w x s
  | .dispatchOpComplete t kd res => Sys2Proof.Machine.execDispatchOpComplete t kd res s
  | .send t w x => Sys2Proof.Machine.execSend t w x s
  | .recv t w x => Sys2Proof.Machine.execRecv t w x s
  | .put t w x => Sys2Proof.Machine.execPut t w x s
  | .get t w x => Sys2Proof.Machine.execGet t w x s
  | .bar t w x => Sys2Proof.Machine.execBar t w x s
  | .allreduce t w x => Sys2Proof.Machine.execAllreduce t w x s
  | .bcast t w x => Sys2Proof.Machine.execBcast t w x s
  | .allgather t w x => Sys2Proof.Machine.execAllgather t w x s
  | .paceArm t w => Sys2Proof.Machine.execPaceArm t w s
  | .paceArmRel t w => Sys2Proof.Machine.execPaceArmRel t w s
  | .paceArmDl t w => Sys2Proof.Machine.execPaceArmDl t w s
  | .paceWait t w => Sys2Proof.Machine.execPaceWait t w s
  | .paceClear t w => Sys2Proof.Machine.execPaceClear t w s
  | .pacerComparatorFire t c => Sys2Proof.Machine.execPacerComparatorFire t c s
  | .markOp t w => Sys2Proof.Machine.execMarkOp t w s
  | .markEv t w => Sys2Proof.Machine.execMarkEv t w s
  | .obsRd t w => Sys2Proof.Machine.execObsRd t w s
  | .sysRead t w => Sys2Proof.Machine.execSysRead t w s
  | .sysExit t w => Sys2Proof.Machine.execSysExit t w s
  | .sysDist t w => Sys2Proof.Machine.execSysDist t w s
  | .engineSlotFree t => Sys2Proof.Machine.execEngineSlotFree t s
  | .kernelBoundary t => Sys2Proof.Machine.execKernelBoundary t s
  | .coreLockstep t => Sys2Proof.Machine.execCoreLockstep t s
  | .patrolScrub t line res => Sys2Proof.Machine.execPatrolScrub t line res s
  | .writtenBitClearDone t => Sys2Proof.Machine.execWrittenBitClearDone t s
  | .watchdogExpire t => Sys2Proof.Machine.execWatchdogExpire t s
  | .watchdogEscalate t => Sys2Proof.Machine.execWatchdogEscalate t s
  | .swapDone t => Sys2Proof.Machine.execSwapDone t s
  | .rowMessage m => Sys2Proof.Machine.execRowMessage m s
  | .markerMessage m => Sys2Proof.Machine.execMarkerMessage m s
  | .returnMessage m => Sys2Proof.Machine.execReturnMessage m s
  | .answerMessage m => Sys2Proof.Machine.execAnswerMessage m s
  | .sendMessage m => Sys2Proof.Machine.execSendMessage m s
  | .putMessage m res => Sys2Proof.Machine.execPutMessage m res s
  | .getReqMessage m res host => Sys2Proof.Machine.execGetReqMessage m res host s
  | .getReplyMessage m => Sys2Proof.Machine.execGetReplyMessage m s
  | .creditMessage m => Sys2Proof.Machine.execCreditMessage m s
  | .barMessage m => Sys2Proof.Machine.execBarMessage m s
  | .collSeqMessage m => Sys2Proof.Machine.execCollSeqMessage m s
  | .collDataMessage m => Sys2Proof.Machine.execCollDataMessage m s
  | .freezeMarkMessage m => Sys2Proof.Machine.execFreezeMarkMessage m s
  | .epochMessage m => Sys2Proof.Machine.execEpochMessage m s
  | .memberLostMessage m => Sys2Proof.Machine.execMemberLostMessage m s
  | .heartbeatMessage m => Sys2Proof.Machine.execHeartbeatMessage m s
  | .epochHoldExpire b => Sys2Proof.Machine.execEpochHoldExpire b s
  | .earlyMessageTimeout t => Sys2Proof.Machine.execEarlyMessageTimeout t s
  | .msgTimeout t seq => Sys2Proof.Machine.execMsgTimeout t seq s
  | .heartbeatSend b => Sys2Proof.Machine.execHeartbeatSend b s
  | .heartbeatLoss b module => Sys2Proof.Machine.execHeartbeatLoss b module s
  | .quadTrained x full reversed kind partner bufs retry => Sys2Proof.Machine.execQuadTrained x full reversed kind partner bufs retry s
  | .trainingTimeout x => Sys2Proof.Machine.execTrainingTimeout x s
  | .trainingRetry x => Sys2Proof.Machine.execTrainingRetry x s
  | .dataFlitRx x flit => Sys2Proof.Machine.execDataFlitRx x flit s
  | .ctrlFlitRx x flit => Sys2Proof.Machine.execCtrlFlitRx x flit s
  | .ackTimeout x => Sys2Proof.Machine.execAckTimeout x s
  | .quadDown x why => Sys2Proof.Machine.execQuadDown x why s
  | .routerFailed j why => Sys2Proof.Machine.execRouterFailed j why s
  | .routerDrained j => Sys2Proof.Machine.execRouterDrained j s
  | .refusedReply who => Sys2Proof.Machine.execRefusedReply who s
  | .endpointPacketArrival t => Sys2Proof.Machine.execEndpointPacketArrival t s
  | .memportFailed m => Sys2Proof.Machine.execMemportFailed m s
  | .memportReadComplete m off who clean mirrored mirrorClean => Sys2Proof.Machine.execMemportReadComplete m off who clean mirrored mirrorClean s
  | .mirrorRebuildDone c seg lost new => Sys2Proof.Machine.execMirrorRebuildDone c seg lost new s
  | .bandwidthWindowEnd m => Sys2Proof.Machine.execBandwidthWindowEnd m s
  | .zqCalibration m => Sys2Proof.Machine.execZqCalibration m s
  | .peelGranuleDone m g ok => Sys2Proof.Machine.execPeelGranuleDone m g ok s
  | .composeBunch f id parent members ranges quads host encrypt => Sys2Proof.Machine.execComposeBunch f id parent members ranges quads host encrypt s
  | .dissolveBunch f b => Sys2Proof.Machine.execDissolveBunch f b s
  | .rangeGrant f b r => Sys2Proof.Machine.execRangeGrant f b r s
  | .rangeRelease f b m => Sys2Proof.Machine.execRangeRelease f b m s
  | .tileReplace f b out inc => Sys2Proof.Machine.execTileReplace f b out inc s
  | .tileMove f t losing gaining pos heir reserve => Sys2Proof.Machine.execTileMove f t losing gaining pos heir reserve s
  | .rangeRelocate f b m newPort newFirst => Sys2Proof.Machine.execRangeRelocate f b m newPort newFirst s
  | .rangeMove f b m gaining => Sys2Proof.Machine.execRangeMove f b m gaining s
  | .quadMove f x gaining => Sys2Proof.Machine.execQuadMove f x gaining s
  | .graftDrainDone b => Sys2Proof.Machine.execGraftDrainDone b s
  | .shareCopyDone b bad => Sys2Proof.Machine.execShareCopyDone b bad s
  | .epochDrainZero b => Sys2Proof.Machine.execEpochDrainZero b s
  | .rangeCopyDone b => Sys2Proof.Machine.execRangeCopyDone b s
  | .quadRetryEmpty x => Sys2Proof.Machine.execQuadRetryEmpty x s
  | .detachRelease f d => Sys2Proof.Machine.execDetachRelease f d s
  | .freeze f b => Sys2Proof.Machine.execFreeze f b s
  | .thaw f b => Sys2Proof.Machine.execThaw f b s
  | .halt f b => Sys2Proof.Machine.execHalt f b s
  | .resume f b => Sys2Proof.Machine.execResume f b s
  | .bunchReset f b => Sys2Proof.Machine.execBunchReset f b s
  | .tileRejoin t => Sys2Proof.Machine.execTileRejoin t s
  | .setPerfMode f free => Sys2Proof.Machine.execSetPerfMode f free s
  | .setOrchCap f w => Sys2Proof.Machine.execSetOrchCap f w s
  | .setFloors f m floors => Sys2Proof.Machine.execSetFloors f m floors s
  | .setVcArb f port v => Sys2Proof.Machine.execSetVcArb f port v s
  | .setPowerPolicy f b keepIdle => Sys2Proof.Machine.execSetPowerPolicy f b keepIdle s
  | .orchVote f d v => Sys2Proof.Machine.execOrchVote f d v s
  | .portDisable f x => Sys2Proof.Machine.execPortDisable f x s
  | .i3cTrayCapWrite w => Sys2Proof.Machine.execI3cTrayCapWrite w s
  | .i3cAddressAssign a => Sys2Proof.Machine.execI3cAddressAssign a s
  | .powerEstimateTick act => Sys2Proof.Machine.execPowerEstimateTick act s
  | .capUnmetClear => Sys2Proof.Machine.execCapUnmetClear s
  | .calibrationWindow estimated measured rail vin iin => Sys2Proof.Machine.execCalibrationWindow estimated measured rail vin iin s
  | .thermalSample readings => Sys2Proof.Machine.execThermalSample readings s
  | .vddLow t => Sys2Proof.Machine.execVddLow t s
  | .regulator d => Sys2Proof.Machine.execRegulator d s
  | .demandIdleTimeout t => Sys2Proof.Machine.execDemandIdleTimeout t s
  | .domainWakeDone d => Sys2Proof.Machine.execDomainWakeDone d s
  | .quarterBanked q => Sys2Proof.Machine.execQuarterBanked q s
  | .resyncReq j island dropped => Sys2Proof.Machine.execResyncReq j island dropped s
  | .resyncDone j island => Sys2Proof.Machine.execResyncDone j island s
  | .crossingPark j => Sys2Proof.Machine.execCrossingPark j s
  | .clockStopped j => Sys2Proof.Machine.execClockStopped j s
  | .clockReturn j => Sys2Proof.Machine.execClockReturn j s
  | .xingClockLost j => Sys2Proof.Machine.execXingClockLost j s
  | .handshakeStall t => Sys2Proof.Machine.execHandshakeStall t s
  | .islandReset j => Sys2Proof.Machine.execIslandReset j s
  | .tileReset t => Sys2Proof.Machine.execTileReset t s
  | .moduleReset by_ => Sys2Proof.Machine.execModuleReset by_ s
  | .powerCycle => Sys2Proof.Machine.execPowerCycle s
  | .safetyFaultReaction flt => Sys2Proof.Machine.execSafetyFaultReaction flt s
  | .escalation row => Sys2Proof.Machine.execEscalation row s
  | .huskRecordComplete units => Sys2Proof.Machine.execHuskRecordComplete units s
  | .huskUnitTimeout src => Sys2Proof.Machine.execHuskUnitTimeout src s
  | .rowAcknowledge f rows => Sys2Proof.Machine.execRowAcknowledge f rows s
  | .pacerFreqWindow p sys l => Sys2Proof.Machine.execPacerFreqWindow p sys l s
  | .mgcKick => Sys2Proof.Machine.execMgcKick s
  | .hostifHeartbeat => Sys2Proof.Machine.execHostifHeartbeat s
  | .mgcWatchdog => Sys2Proof.Machine.execMgcWatchdog s
  | .hostifWatchdog => Sys2Proof.Machine.execHostifWatchdog s
  | .stoneLockstep => Sys2Proof.Machine.execStoneLockstep s
  | .rotationTurnStart => Sys2Proof.Machine.execRotationTurnStart s
  | .rotationSelftestDone t pass => Sys2Proof.Machine.execRotationSelftestDone t pass s
  | .selftestRequest f t => Sys2Proof.Machine.execSelftestRequest f t s
  | .hello slot nc => Sys2Proof.Machine.execHello slot nc s
  | .proof sid proof => Sys2Proof.Machine.execProof sid proof s
  | .sessionIdleTimeout sid => Sys2Proof.Machine.execSessionIdleTimeout sid s
  | .slotLockExpire slot => Sys2Proof.Machine.execSlotLockExpire slot s
  | .close f => Sys2Proof.Machine.execClose f s
  | .quote f nonce => Sys2Proof.Machine.execQuote f nonce s
  | .claim ct => Sys2Proof.Machine.execClaim ct s
  | .credSet f slot cred => Sys2Proof.Machine.execCredSet f slot cred s
  | .credClear f slot => Sys2Proof.Machine.execCredClear f slot s
  | .unclaim f => Sys2Proof.Machine.execUnclaim f s
  | .keyInstall f b id wrapped => Sys2Proof.Machine.execKeyInstall f b id wrapped s
  | .keyAgreeBegin f => Sys2Proof.Machine.execKeyAgreeBegin f s
  | .keyAgree f b id quotes => Sys2Proof.Machine.execKeyAgree f b id quotes s
  | .keyAccept f b id blob => Sys2Proof.Machine.execKeyAccept f b id blob s
  | .keyActivate f b id => Sys2Proof.Machine.execKeyActivate f b id s
  | .keyDestroy f b id => Sys2Proof.Machine.execKeyDestroy f b id s
  | .imageKeyInstall f b id wrapped => Sys2Proof.Machine.execImageKeyInstall f b id wrapped s
  | .confSet f b => Sys2Proof.Machine.execConfSet f b s
  | .fwWrite f imgs => Sys2Proof.Machine.execFwWrite f imgs s
  | .fwTrial f => Sys2Proof.Machine.execFwTrial f s
  | .fwCommit f advance => Sys2Proof.Machine.execFwCommit f advance s
  | .fwUpdate f kind => Sys2Proof.Machine.execFwUpdate f kind s
  | .unitUpdateDone ok => Sys2Proof.Machine.execUnitUpdateDone ok s
  | .maintEnter f => Sys2Proof.Machine.execMaintEnter f s
  | .maintLeave f => Sys2Proof.Machine.execMaintLeave f s
  | .factoryUnlock f tokenOk => Sys2Proof.Machine.execFactoryUnlock f tokenOk s
  | .samplerTick g => Sys2Proof.Machine.execSamplerTick g s
  | .bootVerifyDone okA okB => Sys2Proof.Machine.execBootVerifyDone okA okB s
  | .railsUp => Sys2Proof.Machine.execRailsUp s
  | .pcieLinkTrained speed width flit => Sys2Proof.Machine.execPcieLinkTrained speed width flit s
  | .ctxSaveDone res => Sys2Proof.Machine.execCtxSaveDone res s
  | .ctxRestoreDone res image => Sys2Proof.Machine.execCtxRestoreDone res image s
  | .bunchActivate f b => Sys2Proof.Machine.execBunchActivate f b s
  | .setBankKeep f q keep => Sys2Proof.Machine.execSetBankKeep f q keep s
  | .flitSlot x => Sys2Proof.Machine.execFlitSlot x s

end Sys2Proof.Machine
end

