-- ==== Sys2Proof/Machine/Tick.lean ====
section
/-! DEFINITION. What one count of the pacer oscillator does when no command waits. -/

namespace Sys2Proof.Machine

/-- The tile counters that count pacer counts (R489): 0 while a kernel runs, 2 while its core waits. -/
def State.tickTile (s : State) (t : Nat) (x : Tile) : State :=
  match x.core.run with
  | none => s
  | some _ =>
    let s := s.count t 0 1
    match x.core.stall with
    | .wait _ | .fence .. | .intake .. | .pace _ | .queue .. => s.count t 2 1
    | _ => s

/-- One 10 ns count of the pacer oscillator (R62). -/
def State.tick (s : State) : State :=
  let s := s.tiles.foldl (fun s p => s.tickTile p.1 p.2) s
  { s with time := s.time + 1 }

end Sys2Proof.Machine
end

