-- ==== Sys2Proof/Machine/Read.lean ====
section
/-! DEFINITION. What the host reads in every register of BAR0 (R3, R10 to R12, R71 to R73, R252, R253, R278, R279,
R318 to R320, R352, R353, R382, R397, R421, R434, R435, R465, R486, R503, R512). A read changes nothing. -/

namespace Sys2Proof.Machine

/-- A register made of fields: value, lowest bit, width. -/
def fields (l : List (Nat × Nat × Nat)) : Word :=
  BitVec.ofNat 64 (l.foldl (fun a f => a + f.1 % 2 ^ f.2.2 * 2 ^ f.2.1) 0)

/-- A bit map of the numbers below `n` that satisfy `p`. -/
def bitsOf (n : Nat) (p : Nat → Bool) : Nat := (List.range n).foldl (fun a i => a + bit (p i) * 2 ^ i) 0

/-- How many numbers below `n` satisfy `p`. -/
def countOf (n : Nat) (p : Nat → Bool) : Nat := ((List.range n).filter p).length

/-! ### GLOBAL (R486, R512) -/

def State.readGlobal (s : State) (o : Nat) : Word :=
  let v := s.boot.variant
  if o = 0 then fields [(deviceOf v, 16, 16), (Config.stepping.toNat, 0, 16)]
  else if o = 8 then
    fields [(maxPowerOf v, 48, 16), (s.boot.usable, 40, 8), (bit (runnersOf v != 0), 31, 1),
      (bitsOf 4 (· < runnersOf v), 24, 4), (bitsOf 4 (· < quartersOf v), 16, 4), (bitsOf 16 (· < portsOf v), 0, 16)]
  else if o = 0x10 then
    fields [(s.boot.resets, 32, 32), (s.boot.cause, 16, 8), (bit s.boot.peelDone, 4, 1),
      (if s.boot.maint then 2 else 1, 0, 2)]
  else if o = 0x18 then
    fields [(s.sec.updKind, 24, 8), (s.sec.updDone, 16, 8), (s.sec.updTotal, 8, 8), (bit s.sec.updFailed, 1, 1),
      (bit s.sec.updActive, 0, 1)]
  else if 0x100 ≤ o && o < 0x138 then
    let k := (o - 0x100) / 8
    let f := fun (b : Nat) => (tget {} s.sec.flash (b * 8 + k) : Flash).version.toNat
    fields [(f s.sec.committed, 32, 32), (if s.sec.trial then f s.otherBank else 0, 0, 32)]
  else if o = 0x800 then Config.deviceId
  else if o = 0x808 then
    let used := fun i => (s.credSlot i).cred.isSome
    fields [(s.sec.jobKeys.length, 24, 8), ((s.sec.sessions.filter (·.isOpen)).length, 16, 3), (bitsOf 8 used, 8, 8),
      (bit s.sec.unlocked, 4, 1), (bit Config.testFuse, 3, 1), (bit s.sec.trialRun, 2, 1), (s.sec.booted, 1, 1),
      (bit ((List.range 8).any used), 0, 1)]
  else 0

/-! ### HOSTIF (R318, R319, R465) -/

def State.readHostif (s : State) (o : Nat) : Word :=
  let h := s.hif
  if o = 0 then fields [(h.speed, 20, 4), (h.width, 8, 5), (bit h.flit, 1, 1), (bit h.ready, 0, 1)]
  else if o = 8 then fields [(h.apDrops, 32, 16), (h.fenceDisc, 16, 16), (h.mgmtDisc, 0, 16)]
  else if o = 0x10 then fields [(bit h.bar4Open, 63, 1), (bit s.confClosed, 62, 1), (h.bar4Tile, 0, 7)]
  else if 0x100 ≤ o && o < 0x120 then tget 0 h.args ((o - 0x100) / 8)
  else if o = 0x128 then fields [(bit h.busy.isSome, 63, 1), (h.detail.toNat, 16, 32), (h.status.toNat, 0, 16)]
  else if o = 0x200 then h.fqCfg
  else if o = 0x208 then h.fqHead
  else if o = 0x210 then fields [(h.fqOver, 32, 16), (h.fqWritten, 0, 32)]
  else if 0x80000 ≤ o && o < 0x88000 then s.msixWord ((o - 0x80000) / 8)
  else if 0x90000 ≤ o && o < 0x90100 then
    BitVec.ofNat 64 (bitsOf 64 (fun i => tget false h.msixPend ((o - 0x90000) * 8 + i)))
  else 0

/-! ### Queue control (R318 to R320) -/

/-- The completion ring is full (R301). -/
def Queue.ringFull (x : Queue) : Bool := x.st != 0 && !x.slotFree

def State.readQueue (s : State) (q i : Nat) : Word :=
  let x := s.queue q
  match i with
  | 0 => fields [(x.st, 61, 3), (x.depthLog, 16, 3), (x.ctx, 0, 10)]
  | 1 => x.credit
  | 2 => x.cq
  | 3 => x.headAddr
  | 4 => x.irq
  | 5 =>
    if x.st = 0 then 0 else
      fields [(x.seq.toNat, 32, 32), (bit x.ringFull, 18, 1), (bit x.overrun, 17, 1), (bit x.format, 16, 1), (x.dropped, 0, 16)]
  | _ => 0

def State.readCtx (s : State) (c o : Nat) : Word :=
  let x := s.ctx c
  if !x.valid then 0
  else if o = 0 then
    fields [(1, 63, 1), (bit x.conf, 62, 1), (bit x.pinned, 61, 1), (x.st, 58, 3), (x.pasid.toNat, 32, 20), (x.bunch.toNat, 0, 32)]
  else if 0x100 ≤ o && o < 0x300 then
    if x.conf then 0 else BitVec.ofNat 64 (word4 (tget 0 x.segs ((o - 0x100) / 0x20)) ((o - 0x100) % 0x20 / 8))
  else 0

def State.readFence (s : State) (f i : Nat) : Word :=
  let x := s.fence f
  if !x.valid then 0
  else if i = 0 then fields [(1, 63, 1), (bit x.err, 62, 1), (x.stale, 32, 16), (x.val.toNat, 0, 32)]
  else fields [(x.errStatus.toNat, 48, 16), (x.bind.toNat, 0, 48)]

def State.readObj (s : State) (h i : Nat) : Word :=
  let x := s.obj h
  if x.st = 0 then 0
  else if i = 0 then fields [(x.st, 62, 2), (x.seg, 58, 4), (x.ctx, 48, 10), (x.off, 0, 44)]
  else fields [(x.rank, 40, 24), (x.len, 0, 40)]

def State.readQctl (s : State) (o : Nat) : Word :=
  if o < 0x40000 then s.readQueue (o / 0x40) (o % 0x40 / 8)
  else if 0x100000 ≤ o && o < 0x200000 then s.readCtx ((o - 0x100000) / 0x400) (o % 0x400)
  else if 0x200000 ≤ o && o < 0x300000 then s.readFence ((o - 0x200000) / 0x10) (o % 0x10 / 8)
  else if 0x400000 ≤ o && o < 0x800000 then s.readObj ((o - 0x400000) / 0x10) (o % 0x10 / 8)
  else 0

/-! ### TILE (R71 to R73, R397) -/

/-- The running slot's context is confidential (R72, R397). -/
def State.confRun (s : State) (t : Nat) : Bool := match (s.tile t).core.run with | some r => r.conf | none => false

def State.readSlot (s : State) (t i o : Nat) : Word :=
  let x := (s.tile t).slot i
  let c := s.ctx x.ctx
  if !x.valid then 0
  else if o = 0 then
    fields [(1, 63, 1), (bit c.conf, 62, 1), (bit c.pinned, 61, 1), (popCount x.share.toNat 256, 48, 9), (c.pasid.toNat, 24, 20),
      (x.ctx, 0, 10)]
  else if o = 8 then x.deadline
  else if o = 0x10 then x.flags.setWidth 64
  else if 0x20 ≤ o && o < 0x40 then BitVec.ofNat 64 (word4 x.share ((o - 0x20) / 8))
  else 0

def State.readTile (s : State) (t o : Nat) : Word :=
  let x := s.tile t
  if !s.hasTile t then 0
  else if o = 0 then fields [((tget 0 s.stone.gens t).toNat, 32, 32), (quarterOf t, 8, 8), (t, 0, 8)]
  else if o = 8 then
    let pend := ((List.range 16).map (fun i => (x.slot i).fifo.length)).foldl (· + ·) 0
    fields [(pend, 32, 8), ((match x.core.run with | some r => r.slot | none => 0), 24, 4), (bit (!x.clearing.isEmpty), 20, 1),
      (bit x.stallFault, 17, 1), (bit x.core.run.isSome, 16, 1), (s.tilePower t, 4, 2), (x.role, 0, 2)]
  else if o = 0x10 then s.pacer t
  else if o = 0x20 then fields [(x.ce, 32, 24), (x.ue, 8, 16), (x.ueBank, 0, 6)]
  else if o = 0x40 then
    if x.core.run.isNone || s.confRun t then 0
    else fields ((List.range 16).map (fun k => ((x.core.getTok k).st, 2 * k, 2)))
  else if o = 0x48 then
    if s.confRun t then fields [(bit x.swap.isSome, 7, 1)]
    else fields [(x.swaps, 40, 16), (x.overBudget, 24, 16), (x.watchdogs, 8, 16), (bit x.swap.isSome, 7, 1),
      (x.standby.length, 0, 6)]
  else if 0x1000 ≤ o && o < 0x1800 then s.readSlot t ((o - 0x1000) / 0x80) (o % 0x80)
  else 0

/-! ### MEMPORT (R252, R253) -/

/-- STATE as a memory port reports it: with its pads held it is not READY; it shows TRAINING (R419; log 177). -/
def State.portShown (s : State) (m : Nat) : Nat :=
  if (s.port m).st == 2 && (s.dom (140 + m)).held then 1 else (s.port m).st

def State.readPort (s : State) (m o : Nat) : Word :=
  let x := s.port m
  let near := fun i => s.hasTile i && s.isNear i m
  if !s.hasPort m then 0
  else if o = 0 then fields [(1430, 32, 11), (m / 4, 8, 8), (m, 0, 8)]
  else if o = 8 then fields [(x.occ, 32, 9), (bit x.throttling, 16, 1), (s.portShown m, 0, 4)]
  else if o = 0x10 then fields [(x.ce, 32, 24), (x.ue, 0, 16)]
  else if o = 0x20 then BitVec.ofNat 64 (bitsOf 64 near)
  else if o = 0x28 then BitVec.ofNat 64 (bitsOf 4 (fun i => near (64 + i)))
  else if o = 0x30 then fields [(bit x.explicit, 0, 1)]
  else if 0x100 ≤ o && o < 0x140 then
    let r : Range := tget {} x.ranges ((o - 0x100) / 8)
    if r.valid then fields [(1, 63, 1), (r.len, 43, 11), (r.base, 32, 11), (r.owner.toNat, 0, 32)] else 0
  else if 0x200 ≤ o && o < 0x200 + 73 * 8 then
    let i := (o - 0x200) / 8
    if s.hasMaster i then fields [(tget 0 x.floors i, 0, 20)] else 0
  else if 0x600 ≤ o && o < 0x640 then
    fields [(x.latchedWin.toNat, 32, 32), (tget 0 x.latched ((o - 0x600) / 8), 0, 20)]
  else 0

/-! ### RUNNER (R382) -/

/-- STATE of a port: ABSENT, UNTRAINED, TRAINING, UP, PARKED, DISABLED: UP while a quad is READY, TRAINING while one
trains, else UNTRAINED (R28); its Reset value, 0, until the rails are up (R382, R431; log 7). -/
def State.runnerState (s : State) (x : Nat) : Nat :=
  let any := fun (k : Nat) => (List.range 4).any (fun j => (s.quad (4 * x + j)).st == k)
  if s.boot.step < 4 then 0 else if (s.runner x).disabled then 5 else if (s.runner x).parked then 4
  else if any 3 && !(s.dom (156 + x)).held then 3 else if any 3 || any 2 then 2 else 1

def State.readRunner (s : State) (x o : Nat) : Word :=
  let r := s.runner x
  if !s.hasRunner x then 0
  else if o = 0 then
    fields [(bitsOf 4 (fun j => (s.quad (4 * x + j)).st == 3), 20, 4), (bit r.stored.isSome, 16, 1), (r.kind, 8, 2),
      (s.runnerState x, 0, 3)]
  else if o = 8 then r.partner
  else if o = 0x10 then fields [(r.integrity, 32, 16), (r.duplicates, 16, 16), (r.protocol, 0, 16)]
  else if o = 0x18 then r.arb
  else if 0x100 ≤ o && o < 0x120 then
    let q := s.quad (4 * x + (o - 0x100) / 8)
    fields [(q.replays, 48, 16), (q.downs, 32, 16), (bit q.full, 4, 1), (bit q.reversed, 3, 1), (if s.boot.step < 4 then 0 else q.st, 0, 3)]
  else if 0x200 ≤ o && o < 0x280 then
    let l : Lane := tget {} s.lanes (16 * x + (o - 0x200) / 8)
    fields [(l.fecC, 32, 32), (l.fecU, 16, 16), (l.snr, 8, 8), (bit l.inv, 1, 1), (bit l.locked, 0, 1)]
  else 0

/-! ### BRAMBLE (R278, R279) -/

/-- STATE of a router: FAILED, or ENDPOINT_FENCED while its tile refuses traffic, or OK (R270, R278). -/
def State.routerState (s : State) (i : Nat) : Nat :=
  if s.routerFailed i then 3
  else match routerUnit i with
    | some (0, t) => if (s.tile t).refusing || (s.tile t).role == 3 then 2 else 1
    | _ => 1

def State.readBramble (s : State) (o : Nat) : Word :=
  let b := s.bram
  if o = 0 then
    fields [(b.gen.toNat, 32, 32), (bit b.paused, 17, 1), (bit b.around, 16, 1),
      (countOf 128 (fun i => s.hasRouter i && s.routerFailed i), 0, 8)]
  else if o = 8 then b.arb
  else if o = 0x10 then fields [(b.refused, 32, 16), (b.retried, 16, 16), (b.discarded, 0, 16)]
  else if 0x100 ≤ o && o < 0x500 then
    let i := (o - 0x100) / 8
    let kind := match routerKinds[i % 32]? with | some (k, _) => k | none => 0
    if s.hasRouter i then
      fields [(i / 32, 16, 2), (routerY i, 12, 3), (routerX i, 8, 3), (kind, 4, 3), (s.routerState i, 0, 2)]
    else 0
  else 0

/-! ### POWER (R421) -/

def State.readPower (s : State) (o : Nat) : Word :=
  let p := s.pwr
  if o = 0 then
    fields [(p.tjMax, 44, 10), (p.calWindows, 32, 12), (bit p.thermal, 8, 1), (bit p.lost, 7, 1), (bit p.capUnmet, 6, 1),
      (bit p.firstUse, 5, 1), (bit p.vinRange, 4, 1), (bit p.free, 0, 1)]
  else if o = 8 then fields [(p.orchCap, 48, 16), (p.trayCap, 32, 16), (s.effectiveCap, 16, 16), (p.hostCap, 0, 16)]
  else if o = 0x10 then fields [(p.eff, 32, 16), (p.cal, 16, 16), (p.estimate, 0, 16)]
  else if o = 0x18 then fields [(p.measured, 32, 16), (p.iin.toNat, 16, 16), (p.vin.toNat, 0, 16)]
  else if 0x100 ≤ o && o < 0x120 then
    let q := (o - 0x100) / 8
    if q < quartersOf s.boot.variant then (tget 0 p.keep q : BitVec 17).setWidth 64 else 0
  else if 0x1000 ≤ o && o < 0x1000 + 68 * 8 then
    let n := (o - 0x1000) / 8
    let x : TilePwr := tget {} p.tiles n
    if s.hasTile n then fields [(x.tj, 38, 10), (x.rate, 24, 12), (x.vdd, 0, 12)] else 0
  else if 0x2000 ≤ o && o < 0x2000 + 162 * 8 then
    let d := (o - 0x2000) / 8
    let x := s.dom d
    if s.hasDom d then
      fields [(bit x.held, 62, 1), (x.st, 56, 2), (fld x.votes.toNat 6 2, 48, 2), (x.votes.toNat, 0, 32)]
    else 0
  else 0

/-! ### STONE mirror (R465): until the AON domain is up SAFE has its Reset value, and NEXT until the tiles are tested (log 7) -/

def State.readStone (s : State) (o : Nat) : Word :=
  let z := s.stone
  if o = 0 then
    fields [(countOf 68 (fun t => s.hasTile t && (s.tile t).role == 3), 24, 8),
      ((match z.reacts with | r :: _ => r.reaction | [] => 0), 16, 4), (bit z.locked, 8, 1), (bit (!z.reacts.isEmpty), 1, 1),
      (bit (z.safe && s.boot.step != 0), 0, 1)]
  else if o = 8 then
    fields [(z.cycles.toNat, 48, 16), (z.lastCycle, 32, 16), (bit z.borrowing, 31, 1), (z.inTurn.length, 16, 4),
      (if s.boot.tested then s.nextTurn.getD 0xFF else 0xFF, 0, 8)]
  else if o = 0x10 then
    if z.huskSeq = 0 then 0 else fields [(z.huskSeq - 1, 32, 32), (1, 31, 1), (z.huskOff, 0, 12)]
  else if 0x100 ≤ o && o < 0x100 + 24 * 8 then
    let l := s.latch ((o - 0x100) / 8)
    fields [(bit l.set, 63, 1), (l.count, 32, 16), (l.first.toNat, 0, 32)]
  else if 0x200 ≤ o && o < 0x200 + 24 * 8 then fields [(s.rowReaction ((o - 0x200) / 8), 0, 3)]
  else 0

/-! ### OBSERVE (R503) -/

def State.readObserve (s : State) (o : Nat) : Word :=
  let x := s.obs
  if o = 0 then x.cfg
  else if o = 8 then x.interval.setWidth 64
  else if o = 0x10 then x.head
  else if o = 0x18 then fields [(x.overs, 32, 16), (x.written, 0, 32)]
  else if 0x100 ≤ o && o < 0x100 + 216 * 8 then
    let g := (o - 0x100) / 8
    if s.groupPresent g then (s.group g).ctl.setWidth 64 else 0
  else if 0x1000 ≤ o && o < 0x1000 + 68 * 8 then
    let n := (o - 0x1000) / 8
    let r := s.trace n
    if s.hasTile n then fields [(r.lost, 48, 16), (bit r.stall, 3, 1), (r.mode, 1, 2)] else 0
  else 0

/-! ### COMPOSE (R352, R353) -/

/-- The host reads a bunch record: of a bunch assigned to it (R304), or of an ancestor of one (R353). -/
def State.shownBunch (s : State) (i : Nat) : Bool :=
  let b := s.bunch i
  b.st != 0 && (s.assigned b.id || (List.range 256).any (fun k =>
    let x := s.bunch k
    x.st != 0 && x.host && s.nestedIn x.id b.id))

/-- BUNCH_INFO and BUNCH_STATE of a record (R352). -/
def State.bunchWords (s : State) (i : Nat) : Word × Word :=
  let b := s.bunch i
  (fields [(b.parent.toNat, 32, 32), (b.id.toNat, 0, 32)],
   fields [(b.map.length - 1, 40, 24), (b.epoch.toNat, 24, 16), (s.depthOf 257 b.id, 8, 16), (bit b.prevLive, 7, 1),
      (bit b.conf, 6, 1), (bit (s.assigned b.id), 5, 1), (bit (!b.otherModules.isEmpty), 4, 1), (b.st, 0, 3)])

/-- TILE_ROLE of a tile: its bunch, its rank there, ENDPOINT_FENCED and its role (R352). -/
def State.tileRoleWord (s : State) (t : Nat) : Word :=
  let b := s.tileBunch t
  let rank := match (s.bunchOf b).localLeaves.find? (fun p => p.2 == t) with | some p => p.1 | none => 0
  if s.hasTile t then
    fields [(b.toNat, 32, 32), (if b = 0 then 0 else rank, 8, 24), (bit (s.tile t).refusing, 2, 1), ((s.tile t).role, 0, 2)]
  else 0

/-- The unit tree as the orchestrator reads it, in the layout of the COMPOSE block: TILE_ROLE of every tile, its leaves, and
every bunch record, whatever host it belongs to (R40; the frame that asks for it has no row in the opcode table, log 176). -/
def State.readTree (s : State) : List Word × List (Word × Word) :=
  (((List.range 68).filter s.hasTile).map s.tileRoleWord,
   ((List.range 256).filter (fun i => (s.bunch i).st != 0)).map s.bunchWords)

/-- STATE of a lane quad: DOWN while a quad that went DOWN is not yet READY again (R381). -/
def State.quadShown (s : State) (x : Nat) : Nat :=
  let q := s.quad x
  if !s.hasRunner (x / 4) then 0
  else if q.st = 4 || (q.st = 2 && q.downs != 0) then 3
  else if tget 0 s.comp.quadOwner x = 0 then 1 else 2

def State.readCompose (s : State) (o : Nat) : Word :=
  let role := fun (k : Nat) => countOf 68 (fun t => s.hasTile t && (s.tile t).role == k)
  if o = 0 then
    fields [(s.comp.changeSeq.toNat, 32, 32), (countOf 256 (fun i => (s.bunch i).st != 0), 16, 9),
      (bit (!s.comp.grafts.isEmpty), 15, 1), (role 1, 8, 7), (role 0, 0, 7)]
  else if 0x100 ≤ o && o < 0x100 + 68 * 8 then
    s.tileRoleWord ((o - 0x100) / 8)
  else if 0x1000 ≤ o && o < 0x2000 then
    let i := (o - 0x1000) / 0x10
    if !s.shownBunch i then 0 else if o % 0x10 = 0 then (s.bunchWords i).1 else (s.bunchWords i).2
  else if 0x4000 ≤ o && o < 0x4080 then
    let x := (o - 0x4000) / 8
    fields [(s.quadShown x, 32, 2), ((tget 0 s.comp.quadOwner x).toNat, 0, 32)]
  else if 0x4100 ≤ o && o < 0x4500 then
    let d : Detach := tget {} s.comp.detach ((o - 0x4100) / 0x10)
    if !d.valid then 0
    else if o % 0x10 = 0 then fields [(1, 63, 1), (d.granules, 48, 9), (d.ctx, 24, 10), (d.rank, 0, 24)]
    else fields [(d.port, 44, 4), (d.off, 0, 44)]
  else 0

/-! ### XING (R434, R435) -/

/-- STATE of a crossing: its Reset value, 0, until the AON domain is up (R434, R431; log 7). -/
def State.xingShown (s : State) (i : Nat) : Nat := if s.boot.step = 0 || !s.hasXing i then 0 else (s.xing i).st

def State.readXing (s : State) (o : Nat) : Word :=
  let n := fun (k : Nat) => countOf 132 (fun i => s.xingShown i == k)
  if o = 0 then fields [(n 5, 24, 8), (n 4, 16, 8), (n 3, 8, 8), (n 2, 0, 8)]
  else if 0x100 ≤ o && o < 0x100 + 132 * 8 then
    let i := (o - 0x100) / 8
    let x := s.xing i
    if s.hasXing i then
      fields [(x.dropped, 32, 16), (x.resyncs, 16, 16), (bit x.side, 4, 1), (s.xingShown i, 0, 3)]
    else 0
  else 0

/-! ### BAR0 (R281, R11) -/

/-- The 64-bit register at an aligned offset of BAR0; every other offset reads zero (R12). -/
def State.readReg (s : State) (off : Nat) : Word :=
  if off < 0x100000 then s.readGlobal off
  else if off < 0x200000 then s.readHostif (off - 0x100000)
  else if off < 0x1000000 then s.readQctl (off - 0x200000)
  else if off < 0x1000000 + 68 * 0x100000 then s.readTile ((off - 0x1000000) / 0x100000) ((off - 0x1000000) % 0x100000)
  else if off < 0x6000000 then 0
  else if off < 0x6400000 then s.readPort ((off - 0x6000000) / 0x40000) ((off - 0x6000000) % 0x40000)
  else if off < 0x6500000 then s.readRunner ((off - 0x6400000) / 0x40000) ((off - 0x6400000) % 0x40000)
  else if off < 0x6800000 then 0
  else if off < 0x6C00000 then s.readBramble (off - 0x6800000)
  else if off < 0x6E00000 then s.readPower (off - 0x6C00000)
  else if off < 0x7000000 then s.readStone (off - 0x6E00000)
  else if off < 0x7400000 then s.readObserve (off - 0x7000000)
  else if off < 0x7800000 then s.readCompose (off - 0x7400000)
  else if off < 0x10000000 then s.readXing (off - 0x7800000)
  else 0

/-- What the tray controller reads at an index of I3C; an index not listed reads zero (R523, R524). -/
def State.readI3c (s : State) (i : Nat) : BitVec 16 :=
  BitVec.ofNat 16 (match i with
    | 0 => deviceOf s.boot.variant
    | 1 => s.i3State
    | 2 => s.stone.cause.toNat
    | 3 => s.pwr.trayCap
    | 4 => s.pwr.vin.toNat
    | 5 => s.pwr.iin.toNat
    | 6 => s.pwr.measured
    | 7 => s.pwr.tjMax
    | 8 => s.alertCause
    | _ => 0)

/-- What the host reads at an offset of BAR0: a 64-bit word, an aligned half, or zero for any other width or alignment
(R11); none before the host interface is ready, when the request is an Unsupported Request (R505). -/
def State.readBar0 (s : State) (off len : Nat) : Option Word :=
  if !s.hif.ready then none
  else if len = 8 && off % 8 = 0 then some (s.readReg off)
  else if len = 4 && off % 4 = 0 then
    let w := s.readReg (off / 8 * 8)
    some (if off % 8 = 0 then w &&& 0xFFFFFFFF else w >>> 32)
  else some 0

/-- What the host reads in BAR2, the queues' submission pages: zero at every offset (R285); none before the host interface is
ready (R505). -/
def State.readBar2 (s : State) (_off _len : Nat) : Option Word := if s.hif.ready then some 0 else none

end Sys2Proof.Machine
end

