-- ==== Sys2Proof/Safety.lean ====
section
/-! DEFINITION. What counts as a safe run of the module: a run whose every step answers a next state, from a state whose
memory is in canonical form. -/

namespace Sys2Proof

open Sys2Proof.Machine

/-- The commands `cs`, run in order with nothing else waiting, each answer a next state, and the last state is `s2`. -/
def Runs : State → List Instr → State → Prop
  | s, [], s2 => s = s2
  | s, c :: cs, s2 => ∃ s1, exec c s = .next s1 ∧ Runs s1 cs s2

/-- A state that claims may start from: memory lists each byte once, in rising order, and lists no byte that an unlisted
address reads as. -/
def Safe (s : State) : Prop := memWf s.mem

/-- A list of commands is safe from a state when it runs through to a state from which claims may start again. -/
def SafeRun (s : State) (cs : List Instr) : Prop := Safe s ∧ ∃ s2, Runs s cs s2 ∧ Safe s2

end Sys2Proof
end

