-- ==== Sys2Proof/Certificates/Slice0/Obligations.lean ====
section
/-! DEFINITION. The statements for the provers. `Claims` holds the words they are written in; each statement's docstring says
what it states and names the rules. -/

open Sys2Proof Sys2Proof.Machine

/-- For every state and command, a step of a state whose queue begins with the command is exec of that command on the
state with the rest of the queue. The queue of waiting commands is the block's own interface. -/
def Obligations.StepRunsFrontCommand : Prop :=
  ∀ (s : State) (c : Instr) (rest : List Instr), s.pending = c :: rest →
    step s = exec c { s with pending := rest }

/-- For every state whose memory lists each byte once, in rising order, and no byte equal to what an unlisted address
reads as, and every next state that a step answers, the next state's memory has that form too, whatever command runs.
-/
def Obligations.StepKeepsCanonicalMemory : Prop :=
  ∀ s u : State, memWf s.mem → step s = .next u → memWf u.mem

/-- MODEL'S CHOICE (log 15): a step of a state whose queue is empty answers a next state whose time is one 10 ns pacer
count later (R62) and which differs from the old one only in that count and in the open counters of the observation
groups, whose settings stay. For every command and state, a next state that exec answers has the same queue of waiting
commands and the same module variant (R1): a module does not become another variant, and only the step takes commands
from the queue. -/
def Obligations.IdleStepAndQueue : Prop :=
  (∀ s : State, s.pending = [] → ∃ u, step s = .next u ∧ u.time = s.time + 1
     ∧ { u with time := s.time, obs := s.obs } = s
     ∧ { u.obs with groups := s.obs.groups } = s.obs
     ∧ ∀ g, { u.group g with counters := (s.group g).counters } = s.group g)
  ∧ (∀ (c : Instr) (s u : State), exec c s = .next u → u.pending = s.pending ∧ u.boot.variant = s.boot.variant)

/-- At reset the memory is in canonical form and lists no byte, every address reads zero (log 11 for memory that
nothing has written), and the queue of waiting commands is empty. At reset: both kinds of arbitration register hold
floors 8, 8, 8 and weights 1, 1, 2 (R278, R382); FIRST_USE is 1, EFF 59965 and CAL 16384, every domain OFF (R421);
every crossing of the variant counts no resynchronisation (R434); every memory port is UNTRAINED (R252); the host
interface is not ready, BUSY is 0 and every queue is DISABLED (R319); and RESETS is 0 with CAUSE POWER_ON (R512). -/
def Obligations.ResetState : Prop :=
  (memWf State.reset.mem ∧ State.reset.mem = [] ∧ State.reset.pending = [] ∧ ∀ a, State.reset.peek a = 0)
  ∧ (State.reset.bram.arb = 0x0008080800000112 ∧ (∀ x, (State.reset.runner x).arb = 0x0008080800000112)
       ∧ State.reset.pwr.firstUse = true ∧ State.reset.pwr.eff = 59965 ∧ State.reset.pwr.cal = 16384
       ∧ (∀ d, (State.reset.dom d).st = 0) ∧ (∀ i, (State.reset.xing i).resyncs = 0) ∧ (∀ m, (State.reset.port m).st = 0)
       ∧ State.reset.hif.ready = false ∧ State.reset.hif.busy = none ∧ (∀ q, (State.reset.queue q).st = 0)
       ∧ State.reset.boot.resets = 0 ∧ State.reset.boot.cause = 0)

/-- After writing one byte at an address, reading it gives that byte and reading any other address gives what it gave
before, whether or not the line had been written; a line of a tile store is then written, and a line whose written-bit
is clear reads zero. -/
def Obligations.ByteReadAfterWrite : Prop :=
  ∀ (s : State) (a : Nat) (b : Byte),
    (s.poke a b).peek a = b ∧ (∀ c, c ≠ a → (s.poke a b).peek c = s.peek c)
    ∧ (isStore a = true → (s.poke a b).lineWritten a = true)
    ∧ (isStore a = true → s.lineWritten a = false → ∀ c, c / 64 = a / 64 → s.peek c = 0)

/-- After writing a list of bytes in ascending order from an address, reading as many bytes there gives the list, and
every address outside them reads as before. Clearing the written-bits of whole lines of a tile's store (R60) makes
every byte of those lines read zero (R59) and leaves every other byte of the device reading as before. -/
def Obligations.BytesWrittenAndCleared : Prop :=
  (∀ (s : State) (a : Nat) (bs : List Byte),
     (s.pokeN a bs).peekN a bs.length = bs
     ∧ ∀ c, (c < a ∨ a + bs.length ≤ c) → (s.pokeN a bs).peek c = s.peek c)
  ∧ (∀ (s : State) (t off n : Nat), t < 68 → off % 64 = 0 → n % 64 = 0 → off + n ≤ 0x20000000 →
       (∀ i, i < n → (s.clearStore (tsAddr t off) n).peek (tsAddr t off + i) = 0)
       ∧ ∀ c, (c < tsAddr t off ∨ tsAddr t off + n ≤ c) → (s.clearStore (tsAddr t off) n).peek c = s.peek c)

namespace Sys2Proof.Claims

/-- What a write of a half or of the whole register presents to bit `i` (R11): a half's value stands in bits 31 to 0, and a
bit outside the half is not written. -/
def wrote (acc : Acc) (v : Word) (i : Nat) : Bool :=
  match acc with
  | .full => v.getLsbD i
  | .lo => decide (i < 32) && v.getLsbD i
  | .hi => decide (32 ≤ i) && v.getLsbD (i - 32)

/-- The register after a write of a half or of the whole (R11): the other half keeps its bits. -/
def merged (acc : Acc) (old v : Word) : Word :=
  match acc with
  | .full => v
  | .lo => old.extractLsb' 32 32 ++ v.extractLsb' 0 32
  | .hi => v.extractLsb' 0 32 ++ old.extractLsb' 0 32

/-- One fault is reported to the Stone island (R443), with what its record needs of the moment of the fault: the pacer count of its
source and the context that runs there (R444, R458). -/
def Reported (s u : State) (row : Nat) (src : BitVec 32) (ctxs : List Nat) (detail : BitVec 64) : Prop :=
  u.stone.faults = s.stone.faults ++ [{ row, src, ctxs, detail, pacer := s.srcPacer src
                                        running := s.runningOn (unitTile row src detail) }]

end Sys2Proof.Claims

open Sys2Proof.Claims

/-- While the host interface is not ready, every register row, BAR2 submission, BAR4 access, MMIO write and INDEX
write completes as Unsupported Request: the next state differs only by that answer. -/
def Obligations.HostAccessBeforeReady : Prop :=
  ∀ s : State, s.hif.ready = false →
    (∀ acc v, exec (.bar4CtrlWrite acc v) s = .next (s.emit .ur) ∧ exec (.hiErrClear acc v) s = .next (s.emit .ur)
      ∧ exec (.fqCfgWrite acc v) s = .next (s.emit .ur) ∧ exec (.fqHeadWrite acc v) s = .next (s.emit .ur)
      ∧ exec (.fqStatusClear acc v) s = .next (s.emit .ur) ∧ exec (.lossClear acc v) s = .next (s.emit .ur)
      ∧ exec (.hostCapWrite acc v) s = .next (s.emit .ur) ∧ exec (.smpCfgWrite acc v) s = .next (s.emit .ur)
      ∧ exec (.smpIntervalWrite acc v) s = .next (s.emit .ur) ∧ exec (.smpHeadWrite acc v) s = .next (s.emit .ur)
      ∧ exec (.smpStatusClear acc v) s = .next (s.emit .ur))
    ∧ (∀ i acc v, exec (.qStatusW1c i acc v) s = .next (s.emit .ur) ∧ exec (.storeErrClear i acc v) s = .next (s.emit .ur)
      ∧ exec (.mpErrClear i acc v) s = .next (s.emit .ur) ∧ exec (.rnErrClear i acc v) s = .next (s.emit .ur)
      ∧ exec (.schedStatusClear i acc v) s = .next (s.emit .ur) ∧ exec (.xingStateClear i acc v) s = .next (s.emit .ur)
      ∧ exec (.mgrVoteWrite i acc v) s = .next (s.emit .ur) ∧ exec (.padRelease i acc v) s = .next (s.emit .ur)
      ∧ exec (.grpCtlWrite i acc v) s = .next (s.emit .ur) ∧ exec (.grpCtlClear i acc v) s = .next (s.emit .ur)
      ∧ exec (.traceCtlWrite i acc v) s = .next (s.emit .ur))
    ∧ (∀ t i acc v, exec (.slotFlagsW1c t i acc v) s = .next (s.emit .ur)
      ∧ exec (.slotDeadlineWrite t i acc v) s = .next (s.emit .ur))
    ∧ (∀ v, exec (.mgmtCmdIndexWrite v) s = .next (s.emit .ur))
    ∧ (∀ off len v, exec (.mmioWrite off len v) s = .next (s.emit .ur))
    ∧ (∀ off data en, exec (.bar2Submission off data en) s = .next (s.emit .ur))
    ∧ (∀ w off len data res, exec (.bar4Access w off len data res) s = .next (s.emit .ur))

/-- While the host interface is ready and its crossing runs (R427): SLOT_FLAGS of a VALID slot of a present tile
clears each flag that is written one (bits 15 to 0) and SLOT_DEADLINE takes the halves written; STORE_ERR with CLEAR
zeroes the tile's two error counts and SCHED_STATUS with CLEAR its three counts. For a slot that is not VALID, a slot
above 15, a tile that the variant lacks, or CLEAR not written, the state stays as it is. Nothing else changes. While
the host interface is ready and its crossing runs (R427): a write with CLEAR (bit 63) zeroes MP_ERR's, LOSS's,
RN_ERR's or XING_STATE's counts, of a unit that the variant has, and changes nothing else; without CLEAR, or for an
absent unit, nothing changes. A write of PWR_CAP's low half or whole sets HOST_CAP: 0 is taken as no cap, any other
value is clamped to the module's limits (R402); a write of its high half leaves a legal HOST_CAP as it is. -/
def Obligations.TileAndUnitRegisterWrites : Prop :=
  (∀ (s : State) (t i : Nat) (acc : Acc) (v : Word), s.hif.ready = true → s.xingRuns 0 = true →
     (if s.hasTile t ∧ i < 16 ∧ ((s.tile t).slot i).valid = true then
        (∃ f, exec (.slotFlagsW1c t i acc v) s
            = .next (s.setTile t ((s.tile t).setSlot i { (s.tile t).slot i with flags := f }))
          ∧ ∀ k, k < 16 → f.getLsbD k = (((s.tile t).slot i).flags.getLsbD k && !wrote acc v k))
        ∧ exec (.slotDeadlineWrite t i acc v) s = .next (s.setTile t ((s.tile t).setSlot i
            { (s.tile t).slot i with deadline := merged acc ((s.tile t).slot i).deadline v }))
      else exec (.slotFlagsW1c t i acc v) s = .next s ∧ exec (.slotDeadlineWrite t i acc v) s = .next s)
     ∧ exec (.storeErrClear t acc v) s = .next (if s.hasTile t && wrote acc v 63 then
         s.setTile t { s.tile t with ce := 0, ue := 0 } else s)
     ∧ exec (.schedStatusClear t acc v) s = .next (if s.hasTile t && wrote acc v 63 then
         s.setTile t { s.tile t with swaps := 0, overBudget := 0, watchdogs := 0 } else s))
  ∧ (∀ (s : State) (i : Nat) (acc : Acc) (v : Word), s.hif.ready = true → s.xingRuns 0 = true →
       exec (.mpErrClear i acc v) s = .next (if s.hasPort i && wrote acc v 63 then
         s.setPort i { s.port i with ce := 0, ue := 0 } else s)
       ∧ exec (.lossClear acc v) s = .next (if wrote acc v 63 then
           { s with bram := { s.bram with refused := 0, retried := 0, discarded := 0 } } else s)
       ∧ exec (.rnErrClear i acc v) s = .next (if s.hasRunner i && wrote acc v 63 then
           s.setRunner i { s.runner i with integrity := 0, duplicates := 0, protocol := 0 } else s)
       ∧ exec (.xingStateClear i acc v) s = .next (if s.hasXing i && wrote acc v 63 then
           s.setXing i { s.xing i with resyncs := 0, dropped := 0 } else s)
       ∧ (acc ≠ .hi → exec (.hostCapWrite acc v) s = .next { s with pwr := { s.pwr with
           hostCap := if v.toNat % 65536 = 0 then 0 else s.clampCap (v.toNat % 65536) } })
       ∧ (acc = .hi → s.pwr.hostCap = 0 ∨ (s.pwr.hostCap < 65536 ∧ s.clampCap s.pwr.hostCap = s.pwr.hostCap) →
           exec (.hostCapWrite acc v) s = .next s))

/-- While the host interface is ready and its crossing runs (R427): BAR4_CTRL takes OPEN and TILE; Q_STATUS clears
OVERRUN and FORMAT where bits 17 and 16 are written one; HI_ERR and FQ_STATUS clear their counts where CLEAR, bit 63,
is written one; FQ_HEAD takes the halves written; FQ_CFG takes ENABLE always and BASE and SIZE_LOG while it was
disabled, and enabling it zeroes the count of records written. A half not written keeps its bits (R11). Nothing else
of the state changes. While that crossing does not run, a request of the host waits outside it (R427, R430): no such
command can come, and the model refuses it by name. While the host interface is ready and its crossing runs (R427):
SMP_INTERVAL takes a value of at least 1,000 and a smaller one as 1,000; SMP_HEAD takes the halves written; SMP_STATUS
with CLEAR zeroes OVERFLOWS; a legal enable of SMP_CFG from disabled takes ENABLE, clears the error bit and starts the
count of written lines at zero, and an illegal one sets the error bit, bit 9, and changes nothing else; GRP_CTL takes
its 24 bits when FIRST + COUNT stays within 256 and COUNT within 128; GRP_CTL.CLEAR of a group other than a tile's
opens an empty bank; TRACE_CTL takes MODE 0 to 2 and STALL, and discards MODE 3. -/
def Obligations.HostAndObserveRegisterWrites : Prop :=
  (∀ (s : State) (acc : Acc) (v : Word), s.hif.ready = true →
     (s.xingRuns 0 = false → exec (.bar4CtrlWrite acc v) s = .refused (.notEnabled "MMIO")
       ∧ (∀ off len x, exec (.mmioWrite off len x) s = .refused (.notEnabled "MMIO"))
       ∧ (∀ off data en, exec (.bar2Submission off data en) s = .refused (.notEnabled "MMIO"))
       ∧ (∀ w off len data res, exec (.bar4Access w off len data res) s = .refused (.notEnabled "MMIO")))
     ∧ (s.xingRuns 0 = true →
     (exec (.bar4CtrlWrite acc v) s = .next { s with hif := { s.hif with
       bar4Open := if acc = .lo then s.hif.bar4Open else wrote acc v 63
       bar4Tile := if acc = .hi then s.hif.bar4Tile % 128 else v.toNat % 128 } })
     ∧ (∀ q, q < 4096 → exec (.qStatusW1c q acc v) s = .next (s.setQueue q { s.queue q with
         overrun := (s.queue q).overrun && !wrote acc v 17, format := (s.queue q).format && !wrote acc v 16 }))
     ∧ (exec (.hiErrClear acc v) s = .next (if wrote acc v 63 then
         { s with hif := { s.hif with apDrops := 0, fenceDisc := 0, mgmtDisc := 0 } } else s))
     ∧ (exec (.fqStatusClear acc v) s = .next (if wrote acc v 63 then { s with hif := { s.hif with fqOver := 0 } } else s))
     ∧ (exec (.fqHeadWrite acc v) s = .next { s with hif := { s.hif with fqHead := merged acc s.hif.fqHead v } })
     ∧ (∃ c n, exec (.fqCfgWrite acc v) s = .next { s with hif := { s.hif with fqCfg := c, fqWritten := n } }
         ∧ c.getLsbD 11 = (merged acc s.hif.fqCfg v).getLsbD 11
         ∧ (∀ i, (i < 5 ∨ (12 ≤ i ∧ i < 64)) →
             c.getLsbD i = if s.hif.fqCfg.getLsbD 11 then s.hif.fqCfg.getLsbD i else (merged acc s.hif.fqCfg v).getLsbD i)
         ∧ (∀ i, 5 ≤ i → i < 11 → c.getLsbD i = false)
         ∧ n = if (merged acc s.hif.fqCfg v).getLsbD 11 && !s.hif.fqCfg.getLsbD 11 then 0 else s.hif.fqWritten)))
  ∧ (∀ (s : State) (i : Nat) (acc : Acc) (v : Word), s.hif.ready = true → s.xingRuns 0 = true →
       (acc ≠ .hi → exec (.smpIntervalWrite acc v) s = .next { s with obs := { s.obs with
           interval := BitVec.ofNat 32 (max 1000 (v.toNat % 2 ^ 32)) } })
       ∧ exec (.smpHeadWrite acc v) s = .next { s with obs := { s.obs with head := merged acc s.obs.head v } }
       ∧ exec (.smpStatusClear acc v) s = .next (if wrote acc v 63 then { s with obs := { s.obs with overs := 0 } } else s)
       ∧ (s.obs.cfg.getLsbD 11 = false → v.getLsbD 11 = true →
           8 ≤ v.toNat % 32 → v.toNat % 32 ≤ 24 → s.ringOk (v.toNat / 4096 * 4096) (v.toNat % 32) (v.getLsbD 10) = true →
           ∃ c, exec (.smpCfgWrite .full v) s = .next { s with obs := { s.obs with cfg := c, written := 0 } }
             ∧ c.getLsbD 11 = true ∧ c.getLsbD 9 = false ∧ c.toNat / 4096 = v.toNat / 4096 ∧ c.toNat % 32 = v.toNat % 32)
       ∧ (s.obs.cfg.getLsbD 11 = false → v.getLsbD 11 = true → (v.toNat % 32 < 8 ∨ 24 < v.toNat % 32) →
           ∃ c, exec (.smpCfgWrite .full v) s = .next { s with obs := { s.obs with cfg := c } }
             ∧ c.getLsbD 9 = true ∧ ∀ k, k ≠ 9 → c.getLsbD k = s.obs.cfg.getLsbD k)
       ∧ (s.groupPresent i = true → v.getLsbD 63 = false → v.toNat / 2 ^ 16 % 256 ≤ 128 →
           v.toNat / 2 ^ 8 % 256 + v.toNat / 2 ^ 16 % 256 ≤ 256 →
           ∃ x, exec (.grpCtlWrite i .full v) s = .next (s.setGroup i x)
             ∧ x = { s.group i with ctl := x.ctl, part := x.part }
             ∧ x.ctl.toNat = v.toNat % 16 + v.toNat / 2 ^ 8 % 2 ^ 16 * 2 ^ 8)
       ∧ (s.groupPresent i = true → 68 ≤ i → (s.group i).ctl.getLsbD 2 = false → v.getLsbD 63 = true → v.getLsbD 2 = false →
           ∃ u, exec (.grpCtlClear i .full v) s = .next u ∧ (u.group i).counters = []
             ∧ (u.group i).closed = (s.group i).counters ∧ (u.group i).part = false ∧ u.out = s.out ∧ u.mem = s.mem)
       ∧ (s.hasTile i = true → exec (.traceCtlWrite i .full v) s = .next (if v.toNat / 2 % 4 = 3 then s else
           s.setTrace i { s.trace i with mode := v.toNat / 2 % 4, stall := v.getLsbD 3 })))

/-- While the host interface is ready and its crossing runs (R427), a whole write of DOM[d] for a domain of the
variant with MGR_VOTE 0 to 2 and without RELEASE sets vote slot 3 and no other, and if the domain is OFF, is no tile
or store, the vote is ON and, for a port, its quarter's uncore is ON, the domain is WAKING. After a thermal shutdown
no vote counts (R412) and nothing changes. In MAINTENANCE state a write of RELEASE with MGR_VOTE 3, which sets no
vote, frees the held pads of a trained port and changes nothing else. A write for an absent domain changes nothing.
While the host interface is ready and the BAR4 window is open, an access of 1 to 64 bytes within one line of the store
of a tile that is ON, refuses nothing, and migrates no owned granule and runs no self-test: a write stores its bytes,
which then read back, and leaves every other byte as it was; a read of a line never written answers zeros; a read of a
written line that neither is known to be uncorrectable (R57) nor turns out so answers the bytes it holds and leaves
memory as it was. An access to a tile that sleeps waits and wakes it (R258); while a share migrates (R329) or a self-
test runs (R456) it waits. A refusing endpoint (R270), a failed router (R269) and a closed window answer a read with
zeros and a write stores nothing. -/
def Obligations.DomainVotesAndBar4 : Prop :=
  (∀ (s : State) (d : Nat) (v : Word), s.hif.ready = true → s.xingRuns 0 = true →
     (s.pwr.shut = true → v.getLsbD 63 = false → exec (.mgrVoteWrite d .full v) s = .next s)
     ∧ (s.pwr.shut = false → s.hasDom d = true → v.getLsbD 63 = false → v.toNat / 2 ^ 48 % 4 ≠ 3 →
       ∃ u, exec (.mgrVoteWrite d .full v) s = .next u
         ∧ fld (u.dom d).votes.toNat 6 2 = v.toNat / 2 ^ 48 % 4
         ∧ (∀ j, j < 16 → j ≠ 3 → fld (u.dom d).votes.toNat (2 * j) 2 = fld (s.dom d).votes.toNat (2 * j) 2)
         ∧ ((s.dom d).st = 0 → 136 ≤ d → (padDom d = true → (s.dom (136 + domQuarter d)).st = 2) →
             v.toNat / 2 ^ 48 % 4 = 2 → (u.dom d).st = 3))
     ∧ (s.hasDom d = true → padDom d = true → s.boot.maint = true → s.padTrained d = true → v.getLsbD 63 = true →
         v.toNat / 2 ^ 48 % 4 = 3 → exec (.padRelease d .full v) s = .next (s.setDom d { s.dom d with held := false }))
     ∧ (s.hasDom d = false → exec (.mgrVoteWrite d .full v) s = .next s ∧ exec (.padRelease d .full v) s = .next s))
  ∧ (∀ (s : State) (off : Nat) (data : List Byte) (res : Res), s.hif.ready = true → s.xingRuns 0 = true →
       1 ≤ data.length → off % 64 + data.length ≤ 64 → off + data.length ≤ 0x20000000 →
       let a := tsAddr s.hif.bar4Tile off
       let own := s.shareAt s.hif.bar4Tile off
       let held := fun (w : Bool) => s.hif.barWait ++ [{ tile := s.hif.bar4Tile, write := w, off := off, len := data.length, data := data, own := own : BarReq }]
       (s.windowOpen = true → s.spotRes (.dev a none) = .ok → (s.dom s.hif.bar4Tile).st ≠ 2 →
         ∀ w, ∃ u, exec (.bar4Access w off data.length data res) s = .next u ∧ u.hif.barWait = held w ∧ u.out = s.out)
       ∧ (s.windowOpen = true → s.spotRes (.dev a none) = .ok → (s.dom s.hif.bar4Tile).st = 2 →
           ((s.movesShares s.hif.bar4Tile = true ∧ own ≠ none) ∨ s.inBist s.hif.bar4Tile = true) →
         ∀ w, exec (.bar4Access w off data.length data res) s = .next { s with hif := { s.hif with barWait := held w } })
       ∧ (s.windowOpen = true → s.spotRes (.dev a none) ≠ .ok →
           (∃ u, exec (.bar4Access true off data.length data res) s = .next u ∧ (∀ c, u.peek c = s.peek c) ∧ u.out = s.out)
           ∧ (∃ u, exec (.bar4Access false off data.length data res) s = .next u ∧ (∀ c, u.peek c = s.peek c)
               ∧ u.out = .readData (List.replicate data.length 0) false :: s.out))
       ∧ (s.windowOpen = true → s.spotRes (.dev a none) = .ok → (s.dom s.hif.bar4Tile).st = 2 →
           (s.movesShares s.hif.bar4Tile = true → own = none) → s.inBist s.hif.bar4Tile = false →
         (∃ u, exec (.bar4Access true off data.length data res) s = .next u
           ∧ u.peekN (tsAddr s.hif.bar4Tile off) data.length = data
           ∧ (∀ a, (a < tsAddr s.hif.bar4Tile off ∨ tsAddr s.hif.bar4Tile off + data.length ≤ a) → u.peek a = s.peek a)
           ∧ u.hif = s.hif ∧ u.tiles = s.tiles ∧ u.out = s.out)
         ∧ (s.lineWritten (tsAddr s.hif.bar4Tile off) = false → s.badLines.contains (tsAddr s.hif.bar4Tile off / 64) = false →
             exec (.bar4Access false off data.length data res) s = .next (s.emit (.readData (List.replicate data.length 0) false)))
         ∧ (s.lineWritten (tsAddr s.hif.bar4Tile off) = true → res ≠ .uncorrectable →
             s.badLines.contains (tsAddr s.hif.bar4Tile off / 64) = false →
             ∃ u, exec (.bar4Access false off data.length data res) s = .next u
               ∧ u.out = .readData (s.peekN (tsAddr s.hif.bar4Tile off) data.length) false :: s.out
               ∧ (∀ a, u.peek a = s.peek a) ∧ u.hif = s.hif))
       ∧ (s.windowOpen = false →
           exec (.bar4Access true off data.length data res) s = .next s
           ∧ exec (.bar4Access false off data.length data res) s = .next (s.emit (.readData (List.replicate data.length 0) false))))

namespace Sys2Proof.Claims

/-- Nothing but tile `t`'s control core, the observation block and what trace puts out differs: every other tile, the other parts
of tile `t`, and every other block. With the tile's trace OFF, memory, outputs, crossings and source counters stay too. -/
def CoreFrame (s u : State) (t : Nat) : Prop :=
  (∀ k, k ≠ t → u.tile k = s.tile k) ∧ u.tile t = { s.tile t with core := (u.tile t).core }
  ∧ u.pending = s.pending ∧ u.time = s.time ∧ u.fresh = s.fresh ∧ u.boot = s.boot ∧ u.hif = s.hif ∧ u.comp = s.comp
  ∧ u.ports = s.ports ∧ u.bram = s.bram ∧ u.runners = s.runners ∧ u.quads = s.quads ∧ u.lanes = s.lanes ∧ u.pwr = s.pwr
  ∧ u.stone = s.stone ∧ u.sec = s.sec ∧ u.faultLost = s.faultLost
  ∧ ((s.trace t).mode = 0 → u.out = s.out ∧ u.xings = s.xings ∧ u.watch = s.watch ∧ u.seqs = s.seqs ∧ ∀ a, u.peek a = s.peek a)

/-- The instruction of `n` bytes retired with `c` as the core's registers: the pc moves on, and nothing else changes. -/
def Retired (s u : State) (t n : Nat) (c : Core) : Prop :=
  (u.tile t).core = { c with pc := (s.tile t).core.pc + BitVec.ofNat 64 n, stall := .none } ∧ CoreFrame s u t

/-- The core of tile `t` takes the word `w` of class `cls` and operation `op`, whose fetch, fields and guard allow it. -/
def Takes (s : State) (t : Nat) (w : Word) (cls op : Nat) (dec : Bool) : Prop :=
  s.coreReady t = true ∧ s.fetchTrap t 8 = none ∧ wClass w = cls ∧ wOp w = op ∧ dec = true
    ∧ (s.tile t).core.guard w = true

/-- The core after writing general register `rd` (R170: a write of g0 is discarded). -/
def wroteG (s : State) (t rd : Nat) (v : Word) : Core :=
  if rd = 0 then (s.tile t).core else { (s.tile t).core with g := tput (s.tile t).core.g rd v }

/-- The core after writing predicate `pd` (R170: a write of p0 is discarded), the others as they were. -/
def WroteP (s u : State) (t pd : Nat) (b : Bool) : Prop :=
  ∃ p, Retired s u t 8 { (s.tile t).core with p := p }
    ∧ ∀ i, i < 8 → p.getLsbD i = if i = pd ∧ pd ≠ 0 then b else (s.tile t).core.p.getLsbD i

end Sys2Proof.Claims

/-- A general register written reads the value and every other one reads as before, but g0 always reads zero and a
write to it changes nothing; a predicate written reads the value and every other reads as before, but p0 always reads
one and a write to it changes nothing. -/
def Obligations.RegisterZero : Prop :=
  ∀ (c : Core) (i : Nat) (v : Word) (b : Bool),
    c.getG 0 = 0 ∧ c.getP 0 = true ∧ c.setG 0 v = c ∧ c.setP 0 b = c
    ∧ (i ≠ 0 → (c.setG i v).getG i = v) ∧ (∀ j, j ≠ i → (c.setG i v).getG j = c.getG j)
    ∧ (i ≠ 0 → i < 8 → (c.setP i b).getP i = b) ∧ (∀ j, j ≠ i → i < 8 → j < 8 → (c.setP i b).getP j = c.getP j)

/-- When the word at the pc is the row's, its fields decode and its guard reads one: td.wr replaces the 64-bit word of
the tensor descriptor that the immediate selects and td.rd reads it; tok.poll reads the token's state and marks an
ERROR as polled; sys.read reads the special register that the selector names (R175); sys.dist and obs.rd, for a unit
that the variant has, read the distance word and the counter. RA takes the value (nothing for g0); the pc moves by 8
and the frame holds. For a running kernel, the selectors of R175 read: rank, size and depth within the scope, the
context, LAYER_ID, OP_ID, the tile's pacer, the epoch, generation, bunch and launch sequence, the DEADLINE of its
slot, the sticky flags; selectors 0x10 to 0x1F the detail of a token in ERROR and zero otherwise. -/
def Obligations.DescriptorAndSpecialMoves : Prop :=
  (∀ (s : State) (t : Nat) (w : Word),
     (Takes s t w 2 0xD (wRC w == 0 && wRA w ≤ 15 && fld (wImm w) 2 35 == 0) → ∃ u d, exec (.tdWr t w) s = .next u
         ∧ Retired s u t 8 { (s.tile t).core with td := tput (s.tile t).core.td (wRA w) d }
         ∧ ∀ k, k < 4 → word4 d k = if k = fld (wImm w) 0 2 then (s.g t (wRB w)).toNat
             else word4 ((s.tile t).core.getTd (wRA w)) k)
     ∧ (Takes s t w 2 0xE (wRC w == 0 && wRB w ≤ 15 && fld (wImm w) 2 35 == 0) → ∃ u, exec (.tdRd t w) s = .next u
         ∧ Retired s u t 8 (wroteG s t (wRA w) (BitVec.ofNat 64 (word4 ((s.tile t).core.getTd (wRB w)) (fld (wImm w) 0 2)))))
     ∧ (Takes s t w 3 1 (wRB w ≤ 15 && wRC w == 0 && wImm w == 0) → ∃ u, exec (.tokPoll t w) s = .next u
         ∧ Retired s u t 8 { wroteG s t (wRA w) (BitVec.ofNat 64 ((s.tile t).core.getTok (wRB w)).st) with
             tok := tput (s.tile t).core.tok (wRB w) { (s.tile t).core.getTok (wRB w) with
               acked := ((s.tile t).core.getTok (wRB w)).acked || ((s.tile t).core.getTok (wRB w)).st == 3 } })
     ∧ (Takes s t w 0xF 0 (wRB w == 0 && wRC w == 0 && fld (wImm w) 8 29 == 0 && selectorOk (wImm w)) →
         ∃ u, exec (.sysRead t w) s = .next u ∧ Retired s u t 8 (wroteG s t (wRA w) (s.special t (wImm w))))
     ∧ (Takes s t w 0xF 2 (wRB w == 0 && wRC w == 0 && fld (wImm w) 32 5 == 0 && fld (wImm w) 16 12 == 0
           && distIndexOk (fld (wImm w) 28 4) (fld (wImm w) 0 16)) →
         s.unitAbsent (fld (wImm w) 28 4) (fld (wImm w) 0 16) = false →
         ∃ u, exec (.sysDist t w) s = .next u
           ∧ Retired s u t 8 (wroteG s t (wRA w) (s.distTo t (fld (wImm w) 28 4) (fld (wImm w) 0 16))))
     ∧ (Takes s t w 0xA 2 (wRB w == 0 && wRC w == 0 && fld (wImm w) 32 5 == 0 && fld (wImm w) 23 5 == 0
           && fld (wImm w) 8 8 == 0 && obsIndexOk (fld (wImm w) 28 4) (fld (wImm w) 16 7)) →
         s.unitAbsent (fld (wImm w) 28 4) (fld (wImm w) 16 7) = false →
         ∃ u, exec (.obsRd t w) s = .next u
           ∧ Retired s u t 8 (wroteG s t (wRA w) (s.obsRead t (groupOf (fld (wImm w) 28 4) (fld (wImm w) 16 7)) (fld (wImm w) 0 8)))))
  ∧ (∀ (s : State) (t : Nat) (r : Run), (s.tile t).core.run = some r →
       s.special t 0 = BitVec.ofNat 64 r.rank ∧ s.special t 1 = BitVec.ofNat 64 r.size
       ∧ s.special t 2 = BitVec.ofNat 64 r.depth ∧ s.special t 3 = BitVec.ofNat 64 r.launch.ctx
       ∧ s.special t 4 = (s.tile t).core.layer.setWidth 64 ∧ s.special t 5 = (s.tile t).core.op.setWidth 64
       ∧ s.special t 6 = s.time - (s.tile t).base ∧ s.special t 7 = r.epoch.setWidth 64 ∧ s.special t 8 = r.gen.setWidth 64
       ∧ s.special t 9 = r.bunch.setWidth 64 ∧ s.special t 10 = r.launch.seq.setWidth 64
       ∧ s.special t 11 = ((s.tile t).slot r.slot).deadline ∧ s.special t 12 = (s.tile t).core.flags.setWidth 64
       ∧ ∀ k, k < 16 → s.special t (0x10 + k)
           = if ((s.tile t).core.getTok k).st = 3 then ((s.tile t).core.getTok k).det.setWidth 64 else 0)

/-- When the word at the pc is the row's, its fields decode (R204) and its guard reads one, add, sub, and, or, xor,
shl, shr, sra, mul, mulhu, divu and remu each retire: RA (nothing for g0) takes the result of RB with RC or the sign-
extended immediate; shifts take the amount modulo 64, mulhu gives the high half of the unsigned product, a zero
divisor gives all ones and the dividend. The pc moves by 8, and the frame of CoreFrame holds. When the word at the pc
is the row's, its fields decode and its guard reads one: li writes the sign-extended 37-bit immediate; lih keeps bits
36 to 0 of the register and puts the immediate's 27 bits above them; cmp writes the predicate with the comparison COND
of RB with RC or the immediate (0 equal, 1 not equal, 2 and 3 signed less and not less, 4 and 5 unsigned); pset writes
the entry of its four-entry table that the two source predicates select. A write of g0 or p0 is discarded; the pc
moves by 8 and the frame holds. When the word at the pc is the row's, its fields decode and its guard reads one: br
and call go to the pc plus 8 times the sign-extended immediate, and call writes the address of the next instruction to
RA (nothing for g0); jr goes to the address in RB when it is a multiple of 8, and takes the ALIGN trap otherwise. No
other register changes and the frame holds. -/
def Obligations.ScalarResults : Prop :=
  (∀ (s : State) (t : Nat) (w : Word),
     (Takes s t w 0 0x0 (aluDec w) → ∃ u, exec (.add t w) s = .next u
         ∧ Retired s u t 8 (wroteG s t (wRA w) (s.g t (wRB w) + s.aluC t w)))
     ∧ (Takes s t w 0 0x1 (aluDec w) → ∃ u, exec (.sub t w) s = .next u
         ∧ Retired s u t 8 (wroteG s t (wRA w) (s.g t (wRB w) - s.aluC t w)))
     ∧ (Takes s t w 0 0x2 (aluDec w) → ∃ u, exec (.and t w) s = .next u
         ∧ Retired s u t 8 (wroteG s t (wRA w) (s.g t (wRB w) &&& s.aluC t w)))
     ∧ (Takes s t w 0 0x3 (aluDec w) → ∃ u, exec (.or t w) s = .next u
         ∧ Retired s u t 8 (wroteG s t (wRA w) (s.g t (wRB w) ||| s.aluC t w)))
     ∧ (Takes s t w 0 0x4 (aluDec w) → ∃ u, exec (.xor t w) s = .next u
         ∧ Retired s u t 8 (wroteG s t (wRA w) (s.g t (wRB w) ^^^ s.aluC t w)))
     ∧ (Takes s t w 0 0x5 (aluDec w) → ∃ u, exec (.shl t w) s = .next u
         ∧ Retired s u t 8 (wroteG s t (wRA w) (s.g t (wRB w) <<< ((s.aluC t w).toNat % 64))))
     ∧ (Takes s t w 0 0x6 (aluDec w) → ∃ u, exec (.shr t w) s = .next u
         ∧ Retired s u t 8 (wroteG s t (wRA w) (s.g t (wRB w) >>> ((s.aluC t w).toNat % 64))))
     ∧ (Takes s t w 0 0x7 (aluDec w) → ∃ u, exec (.sra t w) s = .next u
         ∧ Retired s u t 8 (wroteG s t (wRA w) ((s.g t (wRB w)).sshiftRight ((s.aluC t w).toNat % 64))))
     ∧ (Takes s t w 0 0x8 (aluDec w) → ∃ u, exec (.mul t w) s = .next u
         ∧ Retired s u t 8 (wroteG s t (wRA w) (s.g t (wRB w) * s.aluC t w)))
     ∧ (Takes s t w 0 0x9 (aluDec w) → ∃ u, exec (.mulhu t w) s = .next u
         ∧ Retired s u t 8 (wroteG s t (wRA w)
             (BitVec.ofNat 64 ((s.g t (wRB w)).toNat * (s.aluC t w).toNat / 2 ^ 64))))
     ∧ (Takes s t w 0 0xA (aluDec w) → ∃ u, exec (.divu t w) s = .next u
         ∧ Retired s u t 8 (wroteG s t (wRA w)
             (if s.aluC t w = 0 then BitVec.allOnes 64 else s.g t (wRB w) / s.aluC t w)))
     ∧ (Takes s t w 0 0xB (aluDec w) → ∃ u, exec (.remu t w) s = .next u
         ∧ Retired s u t 8 (wroteG s t (wRA w)
             (if s.aluC t w = 0 then s.g t (wRB w) else s.g t (wRB w) % s.aluC t w))))
  ∧ ((∀ (s : State) (t : Nat) (w : Word),
        (Takes s t w 0 0xD (wRB w == 0 && wRC w == 0) → ∃ u, exec (.li t w) s = .next u
            ∧ Retired s u t 8 (wroteG s t (wRA w) ((BitVec.ofNat 37 w.toNat).signExtend 64)))
        ∧ (Takes s t w 0 0xF (wRB w == 0 && wRC w == 0 && fld (wImm w) 27 10 == 0) → ∃ u, exec (.lih t w) s = .next u
            ∧ Retired s u t 8 (wroteG s t (wRA w) (BitVec.ofNat 27 w.toNat ++ (s.g t (wRA w)).extractLsb' 0 37)))
        ∧ (Takes s t w 0 0xC (wRA w ≤ 7 && fld (wImm w) 33 3 ≤ 5 && (if wI w then wRC w == 0 else fld (wImm w) 0 33 == 0)) →
            ∃ u, exec (.cmp t w) s = .next u
              ∧ WroteP s u t (wRA w)
                  (let b := s.g t (wRB w)
                   let c := if wI w then (BitVec.ofNat 33 w.toNat).signExtend 64 else s.g t (wRC w)
                   let k := fld (wImm w) 33 3
                   (k = 0 ∧ b = c) ∨ (k = 1 ∧ b ≠ c) ∨ (k = 2 ∧ b.toInt < c.toInt) ∨ (k = 3 ∧ c.toInt ≤ b.toInt)
                     ∨ (k = 4 ∧ b.toNat < c.toNat) ∨ (k = 5 ∧ c.toNat ≤ b.toNat)))
        ∧ (Takes s t w 0 0xE (wRA w ≤ 7 && wRB w ≤ 7 && wRC w ≤ 7 && fld (wImm w) 4 33 == 0) →
            ∃ u, exec (.pset t w) s = .next u
              ∧ WroteP s u t (wRA w) (w.getLsbD (2 * bit ((s.tile t).core.getP (wRB w)) + bit ((s.tile t).core.getP (wRC w))))))
     ∧ (∀ (s : State) (t : Nat) (w : Word),
          (Takes s t w 1 0 (wRA w == 0 && wRB w == 0 && wRC w == 0) → ∃ u, exec (.br t w) s = .next u
              ∧ (u.tile t).core = { (s.tile t).core with pc := (s.tile t).core.pc + 8 * (BitVec.ofNat 37 w.toNat).signExtend 64 }
              ∧ CoreFrame s u t)
          ∧ (Takes s t w 1 1 (wRB w == 0 && wRC w == 0) → ∃ u, exec (.call t w) s = .next u
              ∧ (u.tile t).core = { wroteG s t (wRA w) ((s.tile t).core.pc + 8) with
                  pc := (s.tile t).core.pc + 8 * (BitVec.ofNat 37 w.toNat).signExtend 64 }
              ∧ CoreFrame s u t)
          ∧ (Takes s t w 1 2 (wRA w == 0 && wRC w == 0 && wImm w == 0) → (s.g t (wRB w)).toNat % 8 = 0 →
              ∃ u, exec (.jr t w) s = .next u ∧ (u.tile t).core = { (s.tile t).core with pc := s.g t (wRB w) } ∧ CoreFrame s u t)
          ∧ (Takes s t w 1 2 (wRA w == 0 && wRC w == 0 && wImm w == 0) → (s.g t (wRB w)).toNat % 8 ≠ 0 →
              exec (.jr t w) s = .next (s.trap t 3 (s.tile t).core.pc 0))))

/-- For each of the eight loads: when the word is the row's, RC is zero (and RA names a tensor descriptor for ld.td)
and the guard reads one, the address is RB plus the sign-extended immediate. An address that is not a multiple of the
size takes ALIGN, one that no readable segment of the control core's targets covers takes SEGMENT; otherwise the core
holds, with its destination, size, sign, address and the routes of its requests (R268), until the data returns, and
nothing else of the state changes but that sleeping tiles and parked ports it asks are woken (R258, R429), and that
packets which meet a failed router are counted (R267). While a route-around pauses injection (R267), or messages of
the tile on the same channel are still on their way to its target (R261), a load that leaves the tile is not sent, and
nothing changes. When a core holds for a load, no route-around has taken its requests nor cut its packets, the tiles
and ports it asks serve, and every byte of it can be read, LOAD_DATA_RETURN writes the little-endian value of the
bytes, zero-extended or sign-extended to 64 bits, to the destination (nothing for g0), or the 32 bytes to the tensor
descriptor; the pc moves by 8 and the core goes on. No other register of the core changes, no other tile's core, and
with trace OFF every byte of memory reads as before. -/
def Obligations.Loads : Prop :=
  (∀ (s : State) (t : Nat) (w : Word) (op n : Nat) (td sg : Bool) (i : Instr),
     (i, op, n, td, sg) ∈ [(.ldU8 t w, 0, 1, false, false), (.ldU16 t w, 1, 2, false, false), (.ldU32 t w, 2, 4, false, false),
       (.ld64 t w, 3, 8, false, false), (.ldS8 t w, 4, 1, false, true), (.ldS16 t w, 5, 2, false, true),
       (.ldS32 t w, 6, 4, false, true), (.ldTd t w, 11, 32, true, false)] →
     Takes s t w 2 op (wRC w == 0 && (!td || wRA w ≤ 15)) →
     let va := s.g t (wRB w) + (BitVec.ofNat 37 w.toNat).signExtend 64
     (va.toNat % n ≠ 0 → exec i s = .next (s.trap t 3 (s.tile t).core.pc 0))
     ∧ (va.toNat % n = 0 → s.vaOk t va n 0 coreTargets = false → exec i s = .next (s.trap t 4 (s.tile t).core.pc 0))
     ∧ (va.toNat % n = 0 → s.vaOk t va n 0 coreTargets = true →
         let l := s.vaSpots t va n
         let u := s.setCore t { (s.tile t).core with
           stall := .load td (wRA w) n sg va
           loadRoutes := s.routesTo (tileRouter t) l, loadLost := 0, loadCut := s.meetsFailed (tileRouter t) l }
         (s.coreQueued t l = true → exec i s = .next s)
         ∧ (s.coreQueued t l = false → exec i s = .next ((u.sendCut (tileRouter t) l).wakeFor t l))
         ∧ (s.coreQueued t l = false → s.meetsFailed (tileRouter t) l = false → s.asleep t l = [] → s.portsAway l = [] →
             exec i s = .next u)))
  ∧ (∀ (s : State) (t rd n : Nat) (td sg : Bool) (va : Word) (host : HostBytes) (res : Res),
       (s.tile t).core.stall = .load td rd n sg va → (res = .ok ∨ res = .corrected) →
       (s.tile t).core.loadLost ≠ 2 → (s.tile t).core.loadCut = false → s.accessOpen t t (s.vaSpots t va n) = true →
       s.moveRes (s.vaSpots t va n) [] res = res → n ≤ 32 →
       ∃ u, exec (.loadDataReturn t res host) s = .next u
         ∧ (let v := ofBytes (s.readSpots (s.vaSpots t va n) host)
            (u.tile t).core = { (if td then { (s.tile t).core with td := tput (s.tile t).core.td rd (BitVec.ofNat 256 v) }
                else if sg then wroteG s t rd (BitVec.ofInt 64 (sextNat v (8 * n))) else wroteG s t rd (BitVec.ofNat 64 v)) with
              pc := (s.tile t).core.pc + 8, stall := .none })
         ∧ (∀ k, k ≠ t → (u.tile k).core = (s.tile k).core)
         ∧ ((s.trace t).mode = 0 → ∀ a, u.peek a = s.peek a))

/-- For each of the five stores: when the word is the row's, RC is zero (and RA names a tensor descriptor for st.td)
and the guard reads one, the address is RB plus the sign-extended immediate. A misaligned address takes ALIGN, an
address that no writable segment covers takes SEGMENT. Otherwise, while injection is paused (R267) or messages of the
tile are on their way to its target (R261), nothing changes; a store whose packets a failed router discards holds the
core until its source resolves it (R268). When no place of it has failed or refuses: while its tiles sleep or its
ports give no credits, the core holds and wakes what it asks (R247, R258); else the low bytes of RA (or the
descriptor's 32) are written little-endian to where the address leads, the pc moves by 8, the core's registers stay,
and with trace OFF memory reads as that write leaves it. Writing bytes to a range leaves every device byte that no
place of the range names, and no mirror copy of one, reading as before, and leaves every tile, port and register of
the module as it was. A range of one byte of a present memory or store reads back the byte written there. -/
def Obligations.Stores : Prop :=
  (∀ (s : State) (t : Nat) (w : Word) (op n : Nat) (i : Instr) (bs : List Byte),
     (i, op, n, bs) ∈ [(.st8 t w, 7, 1, toBytes 1 (s.g t (wRA w)).toNat), (.st16 t w, 8, 2, toBytes 2 (s.g t (wRA w)).toNat),
       (.st32 t w, 9, 4, toBytes 4 (s.g t (wRA w)).toNat), (.st64 t w, 10, 8, toBytes 8 (s.g t (wRA w)).toNat),
       (.stTd t w, 12, 32, toBytes 32 ((s.tile t).core.getTd (wRA w)).toNat)] →
     Takes s t w 2 op (wRC w == 0 && (op != 12 || wRA w ≤ 15)) →
     let va := s.g t (wRB w) + (BitVec.ofNat 37 w.toNat).signExtend 64
     (va.toNat % n ≠ 0 → exec i s = .next (s.trap t 3 (s.tile t).core.pc 0))
     ∧ (va.toNat % n = 0 → s.vaOk t va n 1 coreTargets = false → exec i s = .next (s.trap t 4 (s.tile t).core.pc 0))
     ∧ (va.toNat % n = 0 → s.vaOk t va n 1 coreTargets = true → s.coreQueued t (s.vaSpots t va n) = true → exec i s = .next s)
     ∧ (va.toNat % n = 0 → s.vaOk t va n 1 coreTargets = true → s.coreQueued t (s.vaSpots t va n) = false →
         s.meetsFailed (tileRouter t) (s.vaSpots t va n) = true →
         exec i s = .next ((s.setCore t { (s.tile t).core with stall := .lost }).sendCut (tileRouter t) (s.vaSpots t va n)))
     ∧ (va.toNat % n = 0 → s.vaOk t va n 1 coreTargets = true → s.coreQueued t (s.vaSpots t va n) = false →
         s.rangeRes (s.vaSpots t va n) .ok = .ok →
         s.meetsFailed (tileRouter t) (s.vaSpots t va n) = false → s.coreWaits t (s.vaSpots t va n) = true →
         exec i s = .next (s.wakeFor t (s.vaSpots t va n)))
     ∧ (va.toNat % n = 0 → s.vaOk t va n 1 coreTargets = true → s.coreQueued t (s.vaSpots t va n) = false →
         s.rangeRes (s.vaSpots t va n) .ok = .ok →
         s.meetsFailed (tileRouter t) (s.vaSpots t va n) = false → s.coreWaits t (s.vaSpots t va n) = false →
         ∃ u, exec i s = .next u
           ∧ (u.tile t).core = { (s.tile t).core with pc := (s.tile t).core.pc + 8, stall := .none }
           ∧ (∀ k, k ≠ t → (u.tile k).core = (s.tile k).core)
           ∧ ((s.trace t).mode = 0 → ∀ a, u.peek a = (s.writeSpots (s.vaSpots t va n) bs).peek a)))
  ∧ ((∀ (s : State) (l : List Spot) (bs : List Byte),
       (∀ a, (∀ p ∈ l, a ∉ p.addrs) → (s.writeSpots l bs).peek a = s.peek a)
       ∧ (s.writeSpots l bs).tiles = s.tiles ∧ (s.writeSpots l bs).ports = s.ports ∧ (s.writeSpots l bs).hif = s.hif
       ∧ (s.writeSpots l bs).comp = s.comp)
     ∧ (∀ (s : State) (a : Nat) (b : Byte), s.addrFailed a = false →
         (s.writeSpots [.dev a none] [b]).readSpots [.dev a none] [] = [b])
     ∧ (∀ (s : State) (a m : Nat) (b : Byte), s.addrFailed a = false → s.addrFailed m = false → a ≠ m →
         (s.writeSpots [.dev a (some m)] [b]).peek a = b ∧ (s.writeSpots [.dev a (some m)] [b]).peek m = b))

/-- While the host interface is ready and its crossing runs (R427), a write to BAR2 belongs to the queue of its 4 KiB
page. For an ENABLED queue, an aligned write of whole commands with every byte enabled, for which the buffer has room,
appends each command in order with consecutive sequence numbers and changes nothing else but the crossing that carries
it (R425); with the buffer full, every command is dropped, counted in DROPPED and sets OVERRUN; a misaligned, partial
or byte-masked one leaves the buffer and the sequence, adds the commands it counts as (at least one) to DROPPED and
sets FORMAT. For a queue that is not ENABLED only AP_DROPS counts. -/
def Obligations.Submission : Prop :=
  ∀ (s : State) (off : Nat) (data : List Byte) (en : Bool), s.hif.ready = true → s.xingRuns 0 = true →
    let q := off / 4096
    let x := s.queue q
    (x.st = 1 → off % 64 = 0 → data.length % 64 = 0 → en = true → x.buf.length + data.length / 64 ≤ 16 * 2 ^ x.depthLog →
      ∃ cs, exec (.bar2Submission off data en) s = .next ((s.crossUp 0 data).setQueue q { x with
          buf := x.buf ++ cs, seq := x.seq + BitVec.ofNat 32 (data.length / 64) })
        ∧ cs.length = data.length / 64
        ∧ ∀ i, i < data.length / 64 → cs[i]? = some (x.seq + BitVec.ofNat 32 i,
            BitVec.ofNat 512 (ofBytes ((data.drop (64 * i)).take 64))))
    ∧ (x.st = 1 → (off % 64 ≠ 0 ∨ data.length % 64 ≠ 0 ∨ en = false) →
      ∃ u, exec (.bar2Submission off data en) s = .next u
        ∧ (u.queue q).buf = x.buf ∧ (u.queue q).seq = x.seq ∧ (u.queue q).cmds = x.cmds
        ∧ (u.queue q).dropped = min 0xFFFF (x.dropped + max 1 ((data.length + 63) / 64))
        ∧ (u.queue q).format = true ∧ (u.queue q).overrun = x.overrun
        ∧ u.mem = s.mem ∧ u.tiles = s.tiles ∧ ∀ k, k ≠ q → u.queue k = s.queue k)
    ∧ (x.st = 1 → off % 64 = 0 → data.length % 64 = 0 → data ≠ [] → en = true → x.buf.length = 16 * 2 ^ x.depthLog →
      ∃ u, exec (.bar2Submission off data en) s = .next u
        ∧ (u.queue q).buf = x.buf ∧ (u.queue q).seq = x.seq ∧ (u.queue q).cmds = x.cmds
        ∧ (u.queue q).dropped = min 0xFFFF (x.dropped + data.length / 64)
        ∧ (u.queue q).overrun = true ∧ (u.queue q).format = x.format
        ∧ u.mem = s.mem ∧ u.tiles = s.tiles ∧ ∀ k, k ≠ q → u.queue k = s.queue k)
    ∧ (x.st ≠ 1 → exec (.bar2Submission off data en) s = .next { s.crossUp 0 data with hif := { s.hif with
        apDrops := min 0xFFFF (s.hif.apDrops + max 1 ((data.length + 63) / 64)) } })

/-- Writing a record puts 32 bytes, with the queue's next source sequence number and the phase of the lap, at record
WRITTEN modulo the ring's size of the completion ring, under the PASID of the queue's context, and counts it; after it
at most one MSI-X message goes out: none with NOIRQ or in POLL mode, the queue's vector in EACH mode while that vector
is unmasked. Memory, the tiles and every other queue stay. For a consumed command of a queue that names no object, in
a queue where no MARKER waits, ending it removes every entry with its sequence number, keeps a failing status other
than COMPARE's for the next FENCE_SIGNAL and that of a FENCE_WAIT with STOP_ON_ERROR (R298), and writes one record
with its LAYER_ID, OP_ID, the status, detail and flags given, and its energy; before the record of a LAUNCH, COPY or
FILL that has acted the credit word is written again (R302; MODEL'S READING, log 156); nothing else changes but the
count of open values (log 1). -/
def Obligations.CompletionRecords : Prop :=
  (∀ (s : State) (q : Nat) (seq : BitVec 32) (st layer op flags : BitVec 16) (d e : BitVec 32) (noIrq : Bool),
     let x := s.queue q
     let u := s.writeRecord q seq st layer op d flags e noIrq
     let rec32 := recordBytes (tget 0 s.seqs (srcId 5 q).toNat) seq q ((x.written / 2 ^ fld x.cq.toNat 0 5 + 1) % 2 == 1)
       st layer op d flags e
     ∃ ms, u.out = ms ++ Out.dma (s.ctx x.ctx).pasid
           (fld x.cq.toNat 12 52 * 4096 + x.written % 2 ^ fld x.cq.toNat 0 5 * 32) rec32 :: s.out
       ∧ rec32.length = 32 ∧ (ms = [] ∨ ms = [Out.msix (fld x.irq.toNat 32 11)])
       ∧ (noIrq = true ∨ fld x.irq.toNat 0 2 = 0 → ms = [])
       ∧ (noIrq = false → fld x.irq.toNat 0 2 = 1 → (s.msixWord (2 * fld x.irq.toNat 32 11 + 1)).getLsbD 32 = false →
           ms = [Out.msix (fld x.irq.toNat 32 11)])
       ∧ (u.queue q).written = x.written + 1 ∧ (u.queue q).cmds = x.cmds ∧ (u.queue q).buf = x.buf
       ∧ (∀ k, k ≠ q → u.queue k = s.queue k) ∧ u.mem = s.mem ∧ u.tiles = s.tiles ∧ u.comp = s.comp)
  ∧ (∀ (s : State) (q : Nat) (seq : BitVec 32) (c : QCmd) (st flags : BitVec 16) (d : BitVec 32),
       (s.queue q).cmd seq = some c → c.refs = [] → (∀ m ∈ (s.queue q).cmds, m.type = 8 → m.inWait = false) →
       let credit := Out.dma (s.ctx (s.queue q).ctx).pasid (fld (s.queue q).credit.toNat 3 61 * 8) (toBytes 8 (s.queue q).consumed)
       let b := if c.taken = true ∧ (c.type = 1 ∨ c.type = 2 ∨ c.type = 3) then s.emit credit else s
       let y := b.setQueue q { s.queue q with
         cmds := (s.queue q).cmds.filter (fun m => m.seq != seq)
         fails := if st ≠ 0 ∧ st ≠ 6 then (s.queue q).fails ++ [(seq, st)] else (s.queue q).fails
         stops := if c.type = 6 ∧ (cmdFld c.raw 1 1).testBit 2 ∧ st ≠ 0 then (s.queue q).stops ++ [(seq, st)] else (s.queue q).stops }
       s.finishCmd q seq st d flags
         = ({ y with fresh := s.fresh + 1 } : State).writeRecord q seq st (BitVec.ofNat 16 (cmdFld c.raw 2 2))
             (BitVec.ofNat 16 (cmdFld c.raw 4 2)) d flags (s.cmdEnergy c st) ((cmdFld c.raw 1 1).testBit 3))

/-- When a queue may consume, COMMAND_CONSUME takes the oldest packet out of its buffer, adds one to CONSUMED and
writes the count to the queue's credit word. A packet with a reserved TYPE, flag or field ends at once with
MALFORMED_COMMAND and its own sequence number; a fence command that names a fence not created ends with HANDLE and the
fence's number, one whose fence is not bound to the context with BAD_ARGUMENT; a NOP, BARRIER, MARKER, QUIESCE or
usable FENCE_SIGNAL joins the consumed commands, not started. A FENCE_SIGNAL counts as the latest also where it fails
(R297), and a LAUNCH counts in its bunch (R324). For the first command of an enabled queue that has not started and
that the order of R296 allows, while no FREEZE holds commands that have not started (R343): when a FENCE_WAIT with
STOP_ON_ERROR that failed stops it (R298) and it is no FENCE_SIGNAL, it ends ABORTED with cause 3; a command that lost
the object or fence it names ends with OBJECT_GONE; a LAUNCH whose scope holds a lost tile ends MEMBER_LOST;
otherwise, when its objects are VALID and nothing holds it, it is started and nothing else changes. -/
def Obligations.CommandsConsumedAndStarted : Prop :=
  (∀ (s : State) (q : Nat) (pt : List (Nat × Word)) (seq : BitVec 32) (raw : BitVec 512) (rest : List (BitVec 32 × BitVec 512)),
     s.mayConsume q = true → (s.queue q).buf = (seq, raw) :: rest →
     let x := s.queue q
     let ty := cmdFld raw 0 1
     let f := cmdFld raw 8 2
     let y : Queue := { x with
       buf := rest, consumed := x.consumed + 1, lastSig := if ty = 5 then some seq else x.lastSig }
     let credit := Out.dma (s.ctx x.ctx).pasid (fld x.credit.toNat 3 61 * 8) (toBytes 8 (x.consumed + 1))
     let ends := fun (st : BitVec 16) (d : BitVec 32) =>
       .next (((((s.setQueue q y).emit credit).countLaunch raw).setQueue q { y with
           fails := x.fails ++ [(seq, st)]
           stops := if ty = 6 ∧ (cmdFld raw 1 1).testBit 2 then x.stops ++ [(seq, st)] else x.stops }).writeRecord q seq st
         (BitVec.ofNat 16 (cmdFld raw 2 2)) (BitVec.ofNat 16 (cmdFld raw 4 2)) d 0 0 ((cmdFld raw 1 1).testBit 3))
     (formatOk raw = false → exec (.commandConsume q pt) s = ends 0x13 0x80000000)
     ∧ (formatOk raw = true → (ty = 5 ∨ ty = 6) → (s.fence f).valid = false →
         exec (.commandConsume q pt) s = ends 2 (BitVec.ofNat 32 f))
     ∧ (formatOk raw = true → (ty = 5 ∨ ty = 6) → (s.fence f).valid = true → (s.fence f).boundTo x.ctx = false →
         exec (.commandConsume q pt) s = ends 0x14 0)
     ∧ (formatOk raw = true → (ty = 0 ∨ ty = 7 ∨ ty = 8 ∨ ty = 9 ∨ (ty = 5 ∧ (s.fence f).valid = true
           ∧ (s.fence f).boundTo x.ctx = true)) →
         ∃ c : QCmd, exec (.commandConsume q pt) s
             = .next (((s.setQueue q y).emit credit).setQueue q { y with cmds := x.cmds ++ [c] })
           ∧ c.seq = seq ∧ c.raw = raw ∧ c.started = false ∧ c.taken = false ∧ c.inWait = false ∧ c.refs = []
           ∧ c.prevSig = x.lastSig))
  ∧ (∀ (s : State) (q : Nat) (c : QCmd), (s.queue q).nextStart = some c → (s.queue q).mayStart c = true → (s.queue q).st ≠ 0 →
       s.freezeHolds (s.queue q).ctx = false →
       let free := (s.queue q).stopped c = none ∨ c.type = 5
       let named := (c.gone = none ∨ c.type = 5) ∧ ∀ h ∈ c.refs, (s.obj h).st = 1
       ((s.queue q).stopped c ≠ none → c.type ≠ 5 → exec (.commandStart q) s = .next (s.finishCmd q c.seq 1 3 0))
       ∧ (free → ∀ h, c.gone = some h → c.type ≠ 5 →
           exec (.commandStart q) s = .next (s.finishCmd q c.seq 2 (BitVec.ofNat 32 h) 0))
       ∧ (free → (c.gone = none ∨ c.type = 5) → ∀ h, c.refs = [h] → (s.obj h).st ≠ 1 →
           exec (.commandStart q) s = .next (s.finishCmd q c.seq 2 (BitVec.ofNat 32 h) 0))
       ∧ (free → named → c.type = 1 → s.scopeLost c.raw = true → exec (.commandStart q) s = .next (s.finishCmd q c.seq 3 0 0))
       ∧ (free → named → (c.type = 1 → s.scopeLost c.raw = false) → s.startHeld c (s.queue q).ctx = false →
           exec (.commandStart q) s = .next (s.setQueue q { s.queue q with
             cmds := updFirst (fun d => d.seq == c.seq) (fun d => { d with started := true }) (s.queue q).cmds })))

/-- For a started command of the type whose earlier commands have acted (R296): NOP and BARRIER end with OK. MARKER
ends with OK and its token when it is the oldest, and else waits. QUIESCE ends with OK and leaves the queue QUIESCED.
FENCE_WAIT ends with OBJECT_GONE when the fence is gone, with the error's status when its error flag is set, with OK
when the value has reached the threshold (serial comparison), and else waits. COPY, FILL and COMPARE of length 0 end
with OK; of another length a host mover takes them with the routes of their requests, held while injection is paused
(R267), counts the packets that meet a failed router (R267), and wakes what they ask (R258). A LAUNCH whose scope has
lost a tile ends with MEMBER_LOST (R340); one that nothing holds enters the FIFO of each leaf tile of its scope here,
and with none ends with OK. For a started FENCE_SIGNAL on a valid fence that it has not lost: the fence's value
becomes the command's when it is later by less than 2^31, stays when equal, and otherwise the signal is stale: it
counts (to 0xFFFF) and the record's detail is 1. One command of the queue that failed before it, with no FENCE_SIGNAL
between, sets the fence's error flag with its status unless set. Then every waiter is evaluated and the command ends
with OK. One that a failed FENCE_WAIT with STOP_ON_ERROR stops sets the flag with the wait's status, still signals,
and ends ABORTED with cause 3. One whose fence is gone ends with OBJECT_GONE. The failures it covers are forgotten. -/
def Obligations.HostCommands : Prop :=
  (∀ (s : State) (q : Nat) (seq : BitVec 32) (c : QCmd),
     let run := fun (f : QCmd → QCmd) => s.setQueue q { s.queue q with
       cmds := updFirst (fun d => d.seq == c.seq) f (s.queue q).cmds }
     (s.startedCmd q seq 0 = some c → exec (.nop q seq) s = .next (s.finishCmd q seq 0 0 0))
     ∧ (s.startedCmd q seq 7 = some c → exec (.barrier q seq) s = .next (s.finishCmd q seq 0 0 0))
     ∧ (s.startedCmd q seq 8 = some c → exec (.marker q seq) s = .next (if (s.queue q).oldest c.seq then
         s.finishCmd q c.seq 0 (BitVec.ofNat 32 (cmdFld c.raw 8 4)) 0 else run (fun d => { d with inWait := true })))
     ∧ (s.startedCmd q seq 9 = some c → ∃ u, exec (.quiesce q seq) s = .next (u.setQueue q { u.queue q with st := 3, byCmd := true })
         ∧ u = s.finishCmd q seq 0 0 0)
     ∧ (s.startedCmd q seq 6 = some c →
         let f := cmdFld c.raw 8 2
         let d := (BitVec.ofNat 32 (cmdFld c.raw 12 4) - (s.fence f).val).toNat
         exec (.fenceWait q seq) s = .next (
           if c.gone ≠ none ∨ (s.fence f).valid = false then s.finishCmd q c.seq 2 (BitVec.ofNat 32 f) 0
           else if (s.fence f).err then s.finishCmd q c.seq (s.fence f).errStatus (BitVec.ofNat 32 f) 0
           else if d = 0 ∨ 2 ^ 31 < d then s.finishCmd q c.seq 0 0 0
           else run (fun d => { d with inWait := true })))
     ∧ (∀ ty i, (ty, i) ∈ [(2, Instr.copy q seq), (3, .fill q seq), (4, .compare q seq)] → s.startedCmd q seq ty = some c →
         (cmdFld c.raw 24 8 = 0 → exec i s = .next (s.finishCmd q c.seq 0 0 0))
         ∧ (cmdFld c.raw 24 8 ≠ 0 →
             let l := s.cmdReads c ++ s.cmdWrites c
             let held := s.injectHeld hostRouter l
             let w := run (fun d => { d with
               taken := true, routesR := s.routesTo hostRouter (s.cmdReads c), routesW := s.routesTo hostRouter (s.cmdWrites c)
               held := held, cut := !held && s.meetsFailed hostRouter l })
             exec i s = .next ((if held then w else w.sendCut hostRouter l).wakeFor hostSelf l)))
     ∧ (s.startedCmd q seq 1 = some c → s.freezeHolds (s.queue q).ctx = false → s.scopeLost c.raw = true →
         exec (.launch q seq) s = .next (s.finishCmd q c.seq 3 0 0))
     ∧ (s.startedCmd q seq 1 = some c → s.scopeLost c.raw = false → s.startHeld c (s.queue q).ctx = false →
         let ts := s.scopeTiles c.raw
         let r := run (fun d => { d with taken := true, waiting := ts })
         exec (.launch q seq) s = .next (if ts = [] then r.finishCmd q c.seq 0 0 0
           else ts.foldl (fun u p => u.enqueueLaunch p.2 (r.launchOf q c)) r)))
  ∧ (∀ (s : State) (q : Nat) (seq : BitVec 32) (c : QCmd), s.startedCmd q seq 5 = some c →
       let x := s.queue q
       let f := cmdFld c.raw 8 2
       let v := BitVec.ofNat 32 (cmdFld c.raw 12 4)
       let d := (v - (s.fence f).val).toNat
       let y : Fence := if d = 0 then s.fence f else if d < 2 ^ 31 then { s.fence f with val := v }
         else { s.fence f with stale := min 0xFFFF ((s.fence f).stale + 1) }
       let z := s.setQueue q { x with
         fails := x.fails.filter (fun p => !seqLater c.seq p.1), stops := x.stops.filter (fun p => !seqLater c.seq p.1) }
       let flagged := fun (st : BitVec 16) => ((z.setFence f y).setFence f { y with err := true, errStatus := st }).evalWaiters f
       let covered := x.fails.filter (fun p => c.sinceSig p.1)
       let stale : BitVec 32 := if 2 ^ 31 ≤ d then 1 else 0
       (c.gone ≠ none ∨ (s.fence f).valid = false → exec (.fenceSignal q seq) s = .next (z.finishCmd q c.seq 2 (BitVec.ofNat 32 f) 0))
       ∧ (c.gone = none → (s.fence f).valid = true →
         (x.stopped c = none → covered = [] ∨ (s.fence f).err = true →
           exec (.fenceSignal q seq) s = .next (((z.setFence f y).evalWaiters f).finishCmd q c.seq 0 stale 0))
         ∧ (x.stopped c = none → ∀ p, covered = [p] → (s.fence f).err = false →
           exec (.fenceSignal q seq) s = .next ((flagged p.2).finishCmd q c.seq 0 stale 0))
         ∧ (∀ st, x.stopped c = some st → (s.fence f).err = false →
           exec (.fenceSignal q seq) s = .next ((flagged st).finishCmd q c.seq 1 3 0))))

/-- When a host mover holds the command, no route-around holds or has taken its requests nor cut its packets, its
epoch is served, the tiles and ports it asks serve, and every byte of its ranges can be accessed: COPY writes the
bytes of SRC, FILL its 8-byte pattern repeated, to the destination, so that memory reads as that write leaves it, and
the command is gone from its queue. COMPARE leaves memory, tiles and queues as they were and ends with OK when the
ranges agree, with MISMATCH and the offset of the 64-byte line of the first difference when they do not. A command
whose epoch is no longer served ends with STALE_EPOCH and moves nothing (MODEL'S READING of R303 and R336, log 178).
COALESCE_TIMER_EXPIRE of a coalescing queue with unsignalled records clears their count and sends the queue's vector.
CQ_HEAD_REREAD reads the head word under the context's PASID and takes it, at most the records written; a refused read
keeps the head. When a COMPARE's access is refused (R270: where an endpoint in its range refuses), HOST_DMA_REFUSED,
where it reaches host memory, ends it with SEGMENT_FAULT and a detail of cause 4 and the segment, REFUSED_REPLY with
MEMBER_LOST and its refused packets counted; a load that such an endpoint refuses stops its kernel with MEMBER_LOST; a
head word's refusal by the host leaves the queue as it is, and no endpoint of the module refuses it. -/
def Obligations.HostMoverAndRings : Prop :=
  (∀ (s : State) (q : Nat) (seq : BitVec 32) (c : QCmd) (a b : HostBytes), s.moverCmd q seq = some c →
     c.held = false → c.lost ≠ 2 → s.unresolved c.cut (s.moveRes (s.cmdReads c) (s.cmdWrites c) .ok) = false → s.accessOpen hostSelf hostMaster (s.cmdReads c ++ s.cmdWrites c) = true →
     (s.cmdStale c = true → exec (.hostMoverComplete q seq .ok a b) s = .next (s.finishCmd q c.seq 0x000B 0 0))
     ∧ (s.cmdStale c = false → s.moveRes (s.cmdReads c) (s.cmdWrites c) .ok = .ok → ∀ l1, c.loc1 = some l1 →
       let n := cmdFld c.raw 24 8
       (c.type = 2 → ∀ l2, c.loc2 = some l2 →
         ∃ u, exec (.hostMoverComplete q seq .ok a b) s = .next u ∧ (∀ m ∈ (u.queue q).cmds, m.seq ≠ seq)
           ∧ ∀ k, u.peek k = (s.writeSpots (s.spots l1 n) (s.readSpots (s.spots l2 n) a)).peek k)
       ∧ (c.type = 3 →
         ∃ u, exec (.hostMoverComplete q seq .ok a b) s = .next u ∧ (∀ m ∈ (u.queue q).cmds, m.seq ≠ seq)
           ∧ ∀ k, u.peek k = (s.writeSpots (s.spots l1 n) ((List.range n).map (fun i =>
               BitVec.ofNat 8 (cmdFld c.raw (16 + i % 8) 1)))).peek k)
       ∧ (c.type = 4 → ∀ l2, c.loc2 = some l2 →
         ∃ w : State, (∀ k, w.peek k = s.peek k) ∧ w.tiles = s.tiles ∧ w.hif = s.hif
           ∧ (s.readSpots (s.spots l1 n) a = s.readSpots (s.spots l2 n) b →
               exec (.hostMoverComplete q seq .ok a b) s = .next (w.finishCmd q c.seq 0 0 0))
           ∧ ∀ i, i < n → (s.readSpots (s.spots l1 n) a).take i = (s.readSpots (s.spots l2 n) b).take i →
               (s.readSpots (s.spots l1 n) a)[i]? ≠ (s.readSpots (s.spots l2 n) b)[i]? →
               exec (.hostMoverComplete q seq .ok a b) s = .next (w.finishCmd q c.seq 6 (BitVec.ofNat 32 (i / 64 * 64)) 0))))
  ∧ (∀ (s : State) (q : Nat),
       (fld (s.queue q).irq.toNat 0 2 = 2 → (s.queue q).coalesced ≠ 0 →
         exec (.coalesceTimerExpire q) s = .next ((s.setQueue q { s.queue q with coalesced := 0 }).msix (fld (s.queue q).irq.toNat 32 11)))
       ∧ (let asked := s.emit (.dmaRead (s.ctx (s.queue q).ctx).pasid (fld (s.queue q).headAddr.toNat 3 61 * 8) 8)
         exec (.cqHeadReread q none) s = .next asked
         ∧ ∀ h, exec (.cqHeadReread q (some h)) s
             = .next (asked.setQueue q { s.queue q with head := min h.toNat (s.queue q).written }))
       ∧ ((s.queue q).st ≠ 0 → exec (.hostDmaRefused (.headWord q)) s = .next s
           ∧ exec (.refusedReply (.headWord q)) s = .refused (.notEnabled "REFUSED_REPLY"))
       ∧ (∀ t td rd n sg va, (s.tile t).core.stall = .load td rd n sg va → (∃ p ∈ s.vaSpots t va n, s.spotRes p = .refused) →
           exec (.refusedReply (.core t)) s
             = .next ((s.countRefused (s.vaSpots t va n) .refused).stopFor t { status := 3 } none))
       ∧ (∀ seq c, s.moverCmd q seq = some c → c.type = 4 → s.cmdStale c = false →
           (s.moveRes (s.cmdReads c) [] .hostRefused = .hostRefused → (∃ p i, Spot.host p i ∈ s.cmdReads c) →
             ∃ w : State, w.hif = s.hif ∧ w.tiles = s.tiles ∧ w.bram = s.bram
               ∧ exec (.hostDmaRefused (.command q seq)) s = .next (w.finishCmd q c.seq 5 (segDetail 4 (s.hostSeg c)) 0))
           ∧ (s.moveRes (s.cmdReads c) [] .refused = .refused → (∃ p ∈ s.cmdReads c, s.spotRes p = .refused) →
             ∃ w : State, w.hif = s.hif ∧ w.tiles = s.tiles
               ∧ w.bram = { s.bram with refused := min 0xFFFF (s.bram.refused + s.refusals (s.cmdReads c)) }
               ∧ exec (.refusedReply (.command q seq)) s = .next (w.finishCmd q c.seq 3 0 0))))

namespace Sys2Proof.Claims

/-- The mailbox rows, each with its operation's number (R306, R348, R384, R469). -/
def mailboxRows (acc : Acc) (v : Word) : List (Nat × Instr) :=
  [(0x01, .ctxCreate acc v), (0x02, .ctxShare acc v), (0x03, .ctxSeg acc v), (0x04, .ctxQuiesce acc v),
   (0x05, .ctxResume acc v), (0x06, .ctxReset acc v), (0x07, .ctxRemove acc v), (0x08, .ctxSave acc v),
   (0x09, .ctxRestore acc v), (0x0A, .ctxBacking acc v), (0x0B, .attest acc v), (0x10, .qEnable acc v),
   (0x11, .qResume acc v), (0x12, .qDestroy acc v), (0x20, .objCreate acc v), (0x21, .objFree acc v),
   (0x22, .objDestroy acc v), (0x30, .fenceCreate acc v), (0x31, .fenceBind acc v), (0x32, .fenceReset acc v),
   (0x33, .fenceDestroy acc v)]

/-- INDEX of the operation that a write of MGMT_CMD issues: a whole write carries it, a low half uses the one set before. -/
def indexOf (s : State) (acc : Acc) (v : Word) : Nat := if acc = .full then v.toNat / 2 ^ 32 else s.hif.index.toNat

/-- The operation that a write of MGMT_CMD issues (R305). -/
def mgmtOf (s : State) (acc : Acc) (v : Word) : Mgmt :=
  { op := v.toNat % 256, idx := indexOf s acc v % 2 ^ 18, sub := v.toNat / 256 % 16, irq := v.getLsbD 31
    args := (List.range 4).map (fun i => tget 0 s.hif.args i) }

/-- The mailbox while it performs the operation: BUSY is set. -/
def issued (s : State) (acc : Acc) (v : Word) : State :=
  { s with hif := { s.hif with index := BitVec.ofNat 32 (indexOf s acc v), busy := some (mgmtOf s acc v) } }

/-- A reserved field of MGMT_CMD is not zero: bits 30 to 12, or INDEX above its 18 bits. -/
def reservedSet (s : State) (acc : Acc) (v : Word) : Prop := v.toNat / 2 ^ 12 % 2 ^ 19 ≠ 0 ∨ indexOf s acc v / 2 ^ 18 ≠ 0

/-- The write issues operation `op`, which the mailbox performs now. -/
def Issues (s : State) (acc : Acc) (v : Word) (op : Nat) : Prop :=
  s.hif.ready = true ∧ s.xingRuns 0 = true ∧ s.hif.busy = none ∧ s.mgcAway = false ∧ acc ≠ .hi ∧ v.toNat % 256 = op ∧ ¬reservedSet s acc v

/-- The operation `m` is complete: STATUS and DETAIL are set, BUSY is clear, and MSI-X vector 0 is sent under IRQ. -/
def done (m : Mgmt) (u : State) (status : BitVec 16) (detail : BitVec 32) : State :=
  let w : State := { u with hif := { u.hif with busy := none, status, detail } }
  if m.irq then w.msix 0 else w

/-- Argument `i` of the mailbox. -/
def argOf (s : State) (i : Nat) : Nat := (tget 0 s.hif.args i).toNat

end Sys2Proof.Claims

/-- While the host interface is ready and its crossing runs (R427): a write to BAR0 that is not an aligned word or
half, and one into the identity page, change nothing. A word written to STORE_ERR of a tile acts as the register's
write, and so does each half. A word written to MGMT_ARG replaces that argument; one written to CREDIT of a DISABLED
queue sets it with its low three bits zero; the five configuration registers of a queue that is not DISABLED keep
their values. A write of MGMT_CMD's high half sets INDEX. Nothing else changes. While the host interface is ready and
its crossing runs (R427), for every mailbox row whose operation number the write carries: while BUSY the write is
discarded and MGMT_DISC counts it to 0xFFFF; with a reserved field set it completes with BAD_ARGUMENT; a write of the
high half alone sets INDEX and issues nothing. An operation number that no table lists completes with BAD_ARGUMENT.
Completing sets STATUS and DETAIL, clears BUSY and sends MSI-X vector 0 if IRQ was set. -/
def Obligations.MailboxAndMmioWrites : Prop :=
  (∀ (s : State) (v : Word), s.hif.ready = true → s.xingRuns 0 = true →
     (∀ off len, (len ≠ 4 ∧ len ≠ 8) ∨ (len = 4 ∧ off % 4 ≠ 0) ∨ (len = 8 ∧ off % 8 ≠ 0) → exec (.mmioWrite off len v) s = .next s)
     ∧ (∀ off len, off < 0x100000 → exec (.mmioWrite off len v) s = .next s)
     ∧ (∀ t, t < 68 → exec (.mmioWrite (0x1000020 + 0x100000 * t) 8 v) s = exec (.storeErrClear t .full v) s
         ∧ exec (.mmioWrite (0x1000020 + 0x100000 * t) 4 v) s = exec (.storeErrClear t .lo v) s
         ∧ exec (.mmioWrite (0x1000024 + 0x100000 * t) 4 v) s = exec (.storeErrClear t .hi v) s)
     ∧ (∀ i, i < 4 → exec (.mmioWrite (0x100100 + 8 * i) 8 v) s = .next { s with hif := { s.hif with args := tput s.hif.args i v } })
     ∧ (∀ q, q < 4096 → (s.queue q).st = 0 → ∃ c : Word,
         exec (.mmioWrite (0x200008 + 0x40 * q) 8 v) s = .next (s.setQueue q { s.queue q with credit := c })
         ∧ ∀ k, k < 64 → c.getLsbD k = (decide (3 ≤ k) && v.getLsbD k))
     ∧ (∀ q r, q < 4096 → r < 5 → (s.queue q).st ≠ 0 → exec (.mmioWrite (0x200000 + 0x40 * q + 8 * r) 8 v) s = .next s)
     ∧ (∀ x, exec (.mgmtCmdIndexWrite x) s = .next { s with hif := { s.hif with index := x } }))
  ∧ ((∀ (s : State) (acc : Acc) (v : Word), s.hif.ready = true → s.xingRuns 0 = true →
       (∀ r ∈ mailboxRows acc v,
         (acc ≠ .hi → v.toNat % 256 = r.1 → s.hif.busy ≠ none →
           exec r.2 s = .next { s with hif := { s.hif with mgmtDisc := min 0xFFFF (s.hif.mgmtDisc + 1) } })
         ∧ (acc ≠ .hi → v.toNat % 256 = r.1 → s.hif.busy = none → reservedSet s acc v →
           exec r.2 s = .next (done (mgmtOf s acc v) (issued s acc v) 0x14 0))
         ∧ (acc = .hi → exec r.2 s = .next { s with hif := { s.hif with index := BitVec.ofNat 32 v.toNat } }))
       ∧ (acc ≠ .hi → s.hif.busy = none → s.mgcAway = false → (∀ r ∈ mailboxRows acc v, r.1 ≠ v.toNat % 256) →
           exec (.mailboxUnknownOp acc v) s = .next (done (mgmtOf s acc v) (issued s acc v) 0x14 0)))
     ∧ ∀ (s : State) (m : Mgmt) (st : BitVec 16) (d : BitVec 32), s.hif.busy = some m → s.mboxEnd st d = done m s st d)

/-- CTX_CREATE of an INVALID index, for a bunch of this host and an unused PASID, makes the context ACTIVE with the
bunch's confidentiality, PINNED, PASID and BUNCH_ID given; of a VALID index it answers BUSY. On a VALID context:
CTX_SEG sets a legal descriptor, with the identities of the ranges that its ports hold (R229), and answers
SEGMENT_FAULT for an illegal one; CTX_QUIESCE as DRAIN makes it QUIESCING and stops its queues consuming, as ABORT
ends its work; CTX_RESUME makes a QUIESCED one ACTIVE, its queues as they were, and delivers captured channel state
unless a FREEZE is involved (R343, R350); CTX_RESET empties its queues and CTX_REMOVE makes it INVALID and its queues
DISABLED, both answering NOT_QUIESCED unless it is QUIESCED. -/
def Obligations.ContextOperations : Prop :=
  ∀ (s : State) (acc : Acc) (v : Word),
    let m := mgmtOf s acc v
    let h := issued s acc v
    let c := m.idx
    let b := BitVec.ofNat 32 (argOf s 0)
    let p := BitVec.ofNat 20 (argOf s 0 / 2 ^ 32)
    let d := BitVec.ofNat 256 (argOf s 0 + argOf s 1 * 2 ^ 64 + argOf s 2 * 2 ^ 128 + argOf s 3 * 2 ^ 192)
    (Issues s acc v 1 → c < 1024 →
      ((s.ctx c).valid = true → exec (.ctxCreate acc v) s = .next (done m h 0x12 0))
      ∧ ((s.ctx c).valid = false → s.hostBunch b = true → s.pasidUsed p = false → exec (.ctxCreate acc v) s = .next (done m
          (h.setCtx c { valid := true, conf := (s.bunchOf b).conf, pinned := (argOf s 0).testBit 52, pasid := p, bunch := b }) 0 0)))
    ∧ ((s.ctx c).valid = true →
      (Issues s acc v 3 → exec (.ctxSeg acc v) s = .next (if s.descOk c m.sub d
          then done m (h.setCtx c { s.ctx c with
            segs := tput (s.ctx c).segs m.sub d
            names := tput (s.ctx c).names m.sub (if segTarget d = 2
              then (s.rangeNames (s.ctx c).bunch (segPorts d), s.rangeNames (s.ctx c).bunch (segMports d)) else ([], [])) }) 0 0
          else done m h 5 (BitVec.ofNat 32 (5 + 256 * m.sub))))
      ∧ (Issues s acc v 4 → (argOf s 0).testBit 0 = true → exec (.ctxQuiesce acc v) s = .next ((h.abortCtx c false).mboxEnd 0 0))
      ∧ (Issues s acc v 4 → (argOf s 0).testBit 0 = false → (s.ctx c).st = 2 →
          exec (.ctxQuiesce acc v) s = .next (done m h 0 0))
      ∧ (Issues s acc v 4 → (argOf s 0).testBit 0 = false → (s.ctx c).st = 0 →
          exec (.ctxQuiesce acc v) s = .next (done m ((h.updQueues c (fun x => { x with
            prior := x.st, st := if x.st = 1 then 2 else x.st })).setCtx c { s.ctx c with st := 1, drainIrq := m.irq }) 0 0))
      ∧ (Issues s acc v 5 → (s.ctx c).st ≠ 2 → exec (.ctxResume acc v) s = .next (done m h 0x12 0))
      ∧ (Issues s acc v 5 → (s.ctx c).st = 2 →
        let w := (h.updQueues c (fun x => { x with st := x.prior })).setCtx c { s.ctx c with
          st := 0, drainIrq := false, fenced := false }
        (s.freezes c = true → exec (.ctxResume acc v) s = .next (done m w 0 0))
        ∧ (s.freezes c = false → exec (.ctxResume acc v) s = .next ((w.deliverAll (s.ctx c).bunch).mboxEnd 0 0)))
      ∧ (Issues s acc v 6 → (s.ctx c).st ≠ 2 → exec (.ctxReset acc v) s = .next (done m h 9 0))
      ∧ (Issues s acc v 6 → (s.ctx c).st = 2 → ∃ u, exec (.ctxReset acc v) s = .next u ∧ u.ctx c = s.ctx c
          ∧ u.hif.busy = none ∧ u.hif.status = 0
          ∧ (∀ q, (s.queue q).st ≠ 0 → (s.queue q).ctx = c →
              (u.queue q).buf = [] ∧ (u.queue q).seq = 0 ∧ (u.queue q).consumed = 0 ∧ (u.queue q).st = (s.queue q).st)
          ∧ ∀ q, (s.queue q).ctx ≠ c → u.queue q = s.queue q)
      ∧ (Issues s acc v 7 → (s.ctx c).st ≠ 2 → exec (.ctxRemove acc v) s = .next (done m h 9 0))
      ∧ (Issues s acc v 7 → (s.ctx c).st = 2 → ∃ u, exec (.ctxRemove acc v) s = .next u ∧ u.ctx c = {}
          ∧ u.hif.busy = none ∧ u.hif.status = 0 ∧ (∀ e ∈ u.hif.objs, e.2.ctx ≠ c)
          ∧ (∀ q, (s.queue q).st ≠ 0 → (s.queue q).ctx = c → (u.queue q).st = 0)
          ∧ (∀ q, (s.queue q).ctx ≠ c → u.queue q = s.queue q) ∧ ∀ k, k ≠ c → u.ctx k = s.ctx k))

/-- Q_ENABLE of a DISABLED queue with legal fields, a VALID context and room under the limits clears it, makes it
ENABLED (QUIESCED while its context is not ACTIVE) and writes 0 to its credit word; of another it answers BUSY.
Q_RESUME makes a queue that a QUIESCE command stopped ENABLED. Q_DESTROY ends the queue's work. OBJ_CREATE of a FREE
handle with a legal range of a VALID segment makes it VALID; OBJ_FREE answers its references and makes it FREE without
them, else DOOMED; OBJ_DESTROY stops what uses it and makes it FREE. A handle in the other state answers BUSY. -/
def Obligations.QueueAndObjectOperations : Prop :=
  ∀ (s : State) (acc : Acc) (v : Word),
    let m := mgmtOf s acc v
    let h := issued s acc v
    let i := m.idx
    let x := s.queue i
    let o := s.obj i
    (Issues s acc v 0x10 → i < 4096 → x.st ≠ 0 → exec (.qEnable acc v) s = .next (done m h 0x12 0))
    ∧ (Issues s acc v 0x10 → i < 4096 → x.st = 0 → x.cfgOk = true → (s.ctx x.ctx).valid = true → s.queueRoom x = true →
        exec (.qEnable acc v) s = .next (done m ((h.setQueue i {
          depthLog := x.depthLog, ctx := x.ctx, credit := x.credit, cq := x.cq, headAddr := x.headAddr, irq := x.irq
          st := if (s.ctx x.ctx).st = 0 then 1 else 3, prior := 1 }).emit
            (.dma (s.ctx x.ctx).pasid (fld x.credit.toNat 3 61 * 8) (toBytes 8 0))) 0 0))
    ∧ (Issues s acc v 0x11 → exec (.qResume acc v) s = .next (
        if x.st = 3 ∧ x.byCmd = true ∧ (s.ctx x.ctx).st = 0 then done m (h.setQueue i { x with st := 1, byCmd := false }) 0 0
        else done m h 0x12 0))
    ∧ (Issues s acc v 0x12 → exec (.qDestroy acc v) s = .next (if x.st = 0 then done m h 0x12 0 else (h.destroyQueue i).mboxEnd 0 0))
    ∧ (let c := argOf s 0 % 2 ^ 10
       let seg := argOf s 0 / 2 ^ 16 % 16
       let r := argOf s 0 / 2 ^ 24 % 2 ^ 24
       let off := argOf s 1
       let len := argOf s 2
       Issues s acc v 0x20 →
        (o.st ≠ 0 → exec (.objCreate acc v) s = .next (done m h 0x12 0))
        ∧ (o.st = 0 → (s.ctx c).valid = true → off % 64 = 0 → len % 64 = 0 → 64 ≤ len → len ≤ 2 ^ 40 - 64 → off < 2 ^ 44 →
            (r = 0xFFFFFF ∨ r < (s.bunchOf (s.ctx c).bunch).map.length) → segValid (tget 0 (s.ctx c).segs seg) = true →
            off + len ≤ segSize (tget 0 (s.ctx c).segs seg) →
            exec (.objCreate acc v) s
              = .next (done m (h.setObj i { st := 1, ctx := c, seg := seg, off := off, rank := r, len := len }) 0 0)))
    ∧ (Issues s acc v 0x21 → exec (.objFree acc v) s = .next (if o.st = 1
        then done m (h.setObj i (if o.refs = 0 then {} else { o with st := 2 })) 0 (BitVec.ofNat 32 o.refs)
        else done m h 0x12 0))
    ∧ (Issues s acc v 0x22 → exec (.objDestroy acc v) s = .next (if o.st = 0 then done m h 0x12 0
        else ((h.stopObject i).setObj i {}).mboxEnd 0 (BitVec.ofNat 32 o.refs)))

/-- FENCE_CREATE of a fence not created gives it the value and a legal binding, FENCE_BIND replaces its binding,
FENCE_RESET sets its value, clears its error and its stale count and evaluates its waiters, FENCE_DESTROY takes the
fence from its waiters and, without a bound context resident on a tile, ends; each answers BUSY in the other state. A
fence.sig that arrives raises the value in serial order, or counts as discarded for a fence that is gone; when its two
copies disagree the error flag is set and FENCE_CHECK raised for the context that signalled and those bound to the
fence. A tile acknowledges a flush after its earlier signals; the last ends FENCE_DESTROY. -/
def Obligations.FenceOperations : Prop :=
  ∀ (s : State),
    (∀ (acc : Acc) (v : Word),
      let m := mgmtOf s acc v
      let h := issued s acc v
      let f := m.idx
      f ≤ 65535 →
      (Issues s acc v 0x30 → (s.fence f).valid = true → exec (.fenceCreate acc v) s = .next (done m h 0x12 0))
      ∧ (Issues s acc v 0x30 → (s.fence f).valid = false → s.bindOk (argOf s 1) = true → exec (.fenceCreate acc v) s
          = .next (done m (h.setFence f {
              valid := true, val := BitVec.ofNat 32 (argOf s 0), bind := BitVec.ofNat 48 (argOf s 1) }) 0 0))
      ∧ (Issues s acc v 0x31 → (s.fence f).valid = true → s.bindOk (argOf s 1) = true → exec (.fenceBind acc v) s
          = .next (done m (h.setFence f { s.fence f with bind := BitVec.ofNat 48 (argOf s 1) }) 0 0))
      ∧ (Issues s acc v 0x32 → (s.fence f).valid = true → exec (.fenceReset acc v) s
          = .next (((h.setFence f { s.fence f with
              val := BitVec.ofNat 32 (argOf s 0), err := false, errStatus := 0, stale := 0 }).evalWaiters f).mboxEnd 0 0))
      ∧ (∀ i op, (op, i) ∈ [(0x31, Instr.fenceBind acc v), (0x32, .fenceReset acc v), (0x33, .fenceDestroy acc v)] →
          Issues s acc v op → (s.fence f).valid = false → exec i s = .next (done m h 0x12 0))
      ∧ (Issues s acc v 0x33 → (s.fence f).valid = true → s.flushTiles f = [] → exec (.fenceDestroy acc v) s
          = .next (((((h.setFence f { s.fence f with valid := false }).orphanFence f).evalWaiters f).setFence f {}).mboxEnd 0 0)))
    ∧ (∀ t f x agree, (s.tile t).core.sigs.find? (fun e => e.1 == f) = some x →
        let w := s.setCore t { (s.tile t).core with sigs := (s.tile t).core.sigs.erase x }
        let d := (x.2.1 - (s.fence f).val).toNat
        ((s.fence f).valid = false → exec (.fenceSignalArrival t f agree) s = .next { w with hif := { w.hif with
          fenceDisc := min 0xFFFF (s.hif.fenceDisc + 1) } })
        ∧ ((s.fence f).valid = true → agree = true → exec (.fenceSignalArrival t f agree) s = .next ((w.setFence f
            (if d = 0 then s.fence f else if d < 2 ^ 31 then { s.fence f with val := x.2.1 }
             else { s.fence f with stale := min 0xFFFF ((s.fence f).stale + 1) })).evalWaiters f))
        ∧ ((s.fence f).valid = true → agree = false → ∃ u, exec (.fenceSignalArrival t f agree) s = .next u
            ∧ (u.fence f).err = true ∧ (u.fence f).val = (s.fence f).val
            ∧ ∃ e ∈ u.stone.faults, e.row = 14 ∧ e.src = srcId 5 0x1000 ∧ e.detail = BitVec.ofNat 64 f ∧ x.2.2 ∈ e.ctxs))
    ∧ (∀ f t ts, (s.fence f).flush = some ts → t ∈ ts → (∀ e ∈ (s.tile t).core.sigs, e.1 ≠ f) →
        let rest := ts.filter (· != t)
        exec (.fenceFlushAck f t) s = .next (if rest = [] then (s.setFence f {}).mboxEnd 0 0
          else s.setFence f { s.fence f with flush := some rest }))

/-- On a VALID context: CTX_SHARE of the granules it has, no swap of them running, completes with OK, and its first
share on a tile with a free slot and enough free granules that no graft names takes the lowest of them, whose clear
must run before the operation completes. CTX_BACKING, with no share standby and a legal segment, sets the backing
area. CTX_SAVE of a context neither QUIESCED nor frozen answers NOT_QUIESCED; with an aligned buffer that is large
enough it goes on until CTX_SAVE_DONE; a smaller one answers RESOURCE with the size, a confidential context without an
image key INTEGRITY (MODEL'S CHOICE, log 157). While a graft names the tile a CTX_SHARE goes on (MODEL'S CHOICE, log
169). CTX_RESTORE to an INVALID context of a bunch of this host goes on until CTX_RESTORE_DONE. ATTEST with an aligned
buffer of 128 KiB reads its nonce from the buffer under the manager's PASID, an open value here (log 19), and begins a
quote. CTX_QUIESCED of a QUIESCING context all of whose queues have no consumed command makes it QUIESCED, and sends
MSI-X vector 0 if the DRAIN asked. CTX_SAVE_DONE checks again what the save needs and answers why it cannot be made;
else, where every line it reads is sound, it writes the image to the buffer and answers its length in pages; when the
host refuses it answers SEGMENT_FAULT. CTX_RESTORE_DONE, which read the buffer under the manager's PASID, answers
BAD_ARGUMENT for a MAJOR other than 1, INTEGRITY without the key that a confidential image names or with a tag that
fails, and else rebuilds the context or answers why it cannot. -/
def Obligations.ContextImagesAndEnds : Prop :=
  (∀ (s : State) (acc : Acc) (v : Word),
     let m := mgmtOf s acc v
     let h := issued s acc v
     let c := m.idx
     let n := argOf s 0 / 2 ^ 32 % 2 ^ 9
     ((s.ctx c).valid = true →
       (∀ t, Issues s acc v 2 → s.rankTile c (argOf s 0 % 2 ^ 24) = some t → s.inGraft t = false → (s.tile t).swaps' c = false → n = s.granulesOn t c → n ≤ 256 →
         exec (.ctxShare acc v) s = .next (done m h 0 0))
       ∧ (∀ t, Issues s acc v 2 → s.rankTile c (argOf s 0 % 2 ^ 24) = some t → s.inGraft t = true → n ≤ 256 →
         exec (.ctxShare acc v) s = .next h)
       ∧ (∀ t i bm, Issues s acc v 2 → s.rankTile c (argOf s 0 % 2 ^ 24) = some t → s.inGraft t = false → 0 < n → n ≤ 256 →
         (s.tile t).slotOf c = none → (∀ e ∈ (s.tile t).standby, e.ctx ≠ c) → (s.tile t).swap = none →
         (s.tile t).freeSlot = some i → (s.tile t).lowestFree 0 n = some bm →
         ∃ u, exec (.ctxShare acc v) s = .next u ∧ u.hif = h.hif ∧ (u.tile t).slot i = { valid := true, ctx := c }
           ∧ (u.tile t).clearing = (s.tile t).clearing ++ [(bm, some i)] ∧ u.mem = s.mem)
       ∧ (let seg := argOf s 0 % 16
          let d := tget 0 (s.ctx c).segs seg
          Issues s acc v 10 →
           (s.anyStandby c = true → exec (.ctxBacking acc v) s = .next (done m h 0x12 0))
           ∧ (s.anyStandby c = false → segValid d = true → segTarget d = 2 → segAllows d 0 = true → segAllows d 1 = true →
               argOf s 1 % 0x200000 = 0 → argOf s 2 % 0x200000 = 0 →
               (∀ p ∈ s.sharedRanks c, p.2 * 0x200000 ≤ argOf s 2 ∧ argOf s 1 + p.1 * argOf s 2 + p.2 * 0x200000 ≤ segSize d) →
               exec (.ctxBacking acc v) s = .next (done m (h.setCtx c { s.ctx c with
                 backing := some (seg, argOf s 1, argOf s 2) }) 0 0)))
       ∧ (Issues s acc v 8 → (s.ctx c).st ≠ 2 → s.frozenCtx c = false → exec (.ctxSave acc v) s = .next (done m h 9 0))
       ∧ (Issues s acc v 8 → (s.ctx c).st = 2 → argOf s 0 % 4096 ≠ 0 → exec (.ctxSave acc v) s = .next (done m h 0x14 0))
       ∧ (Issues s acc v 8 → (s.ctx c).st = 2 → argOf s 0 % 4096 = 0 →
         let sealed := (s.ctx c).conf = true ∧ s.imageKey (s.ctx c).bunch = none
         (sealed → exec (.ctxSave acc v) s = .next (done m h 0x0C 0))
         ∧ (¬sealed → exec (.ctxSave acc v) s = .next (if argOf s 1 < (h.imageBytes c).length / 4096 * 4096
             then done m h 0x0E (BitVec.ofNat 32 ((h.imageBytes c).length / 4096)) else h))))
     ∧ (Issues s acc v 9 → c < 1024 → (s.ctx c).valid = false → s.hostBunch (BitVec.ofNat 32 (argOf s 2)) = true →
         s.pasidUsed (BitVec.ofNat 20 (argOf s 2 / 2 ^ 32)) = false → exec (.ctxRestore acc v) s = .next h)
     ∧ (Issues s acc v 11 → c = 0 → argOf s 0 % 4096 = 0 → 131072 ≤ argOf s 1 → s.sec.quote = none →
         ∃ nonce, exec (.attest acc v) s = .next { h.emit (.dmaRead s.mgrPasid (argOf s 0) 32) with
           fresh := s.fresh + 1
           sec := { s.sec with quote := some { mailbox := true, sid := 0, nonce := nonce } } }))
  ∧ ((∀ (s : State) (c : Nat), (s.ctx c).valid = true → (s.ctx c).st = 1 → (∀ q ∈ s.queuesOf c, (s.queue q).cmds = []) →
       exec (.ctxQuiesced c) s = .next (if (s.ctx c).drainIrq then (s.setQuiesced c).msix 0 else s.setQuiesced c)
       ∧ ((s.setQuiesced c).ctx c).st = 2
       ∧ ∀ q, (s.queue q).st = 2 → (s.queue q).ctx = c → ((s.setQuiesced c).queue q).st = 3)
     ∧ (∀ (s : State) (m : Mgmt), s.hif.busy = some m → m.op = 8 →
         let img := s.imageBytes m.idx
         (∀ res st d, s.saveFails m = some (st, d) → exec (.ctxSaveDone res) s = .next (done m s st d))
         ∧ (s.saveFails m = none → s.moveRes (s.saveReads m.idx) [] .ok = .ok →
         exec (.ctxSaveDone .ok) s = .next (done m (({ s with fresh := s.fresh + 1 } : State).emit (.dma s.mgrPasid
           (m.args.getD 0 0).toNat img)) 0 (BitVec.ofNat 32 (img.length / 4096)))
         ∧ exec (.ctxSaveDone .hostRefused) s = .next (done m { s with fresh := s.fresh + 1 } 5 4)))
     ∧ (∀ (s : State) (m : Mgmt) (img : HostBytes), s.hif.busy = some m → m.op = 9 →
         let key := s.openKey (BitVec.ofNat 32 (m.args.getD 2 0).toNat) img
         let w := s.emit (.dmaRead s.mgrPasid (m.args.getD 0 0).toNat (m.args.getD 1 0).toNat)
         exec (.ctxRestoreDone .hostRefused img) s = .next (done m w 5 4)
         ∧ (ofBytes (img.take 2) ≠ 1 → exec (.ctxRestoreDone .ok img) s = .next (done m w 0x14 0))
         ∧ (ofBytes (img.take 2) = 1 → key = none → exec (.ctxRestoreDone .ok img) s = .next (done m w 0x0C 0))
         ∧ (∀ k, ofBytes (img.take 2) = 1 → key = some k → Config.imageIn img k = none →
             exec (.ctxRestoreDone .ok img) s = .next (done m w 0x0C 0))
         ∧ (∀ k x, ofBytes (img.take 2) = 1 → key = some k → Config.imageIn img k = some x →
             (∀ u, w.rebuild m x = .ok u → exec (.ctxRestoreDone .ok img) s = .next (u.mboxEnd 0 0))
             ∧ ∀ e, w.rebuild m x = .error e → exec (.ctxRestoreDone .ok img) s = .next (done m w e 0))))

namespace Sys2Proof.Claims

/-- No message waits at tile `t`, and no operation of its dispatch unit has a message to send or may begin. -/
def QuietTile (s : State) (t : Nat) : Prop :=
  (s.tile t).early = [] ∧ (∀ o ∈ (s.tile t).ops, o.todo = []) ∧ (s.tile t).nextBegin = none

/-- The one-word rows, each with its class, its operation and whether its fields decode (R199, R204 to R209, R222 to R225). -/
def oneWordRows (t : Nat) (w : Word) : List (Instr × Nat × Nat × Bool) :=
  let abc := wRA w == 0 && wRB w == 0 && wRC w == 0
  [(.add t w, 0, 0x0, aluDec w), (.sub t w, 0, 0x1, aluDec w), (.and t w, 0, 0x2, aluDec w), (.or t w, 0, 0x3, aluDec w),
   (.xor t w, 0, 0x4, aluDec w), (.shl t w, 0, 0x5, aluDec w), (.shr t w, 0, 0x6, aluDec w), (.sra t w, 0, 0x7, aluDec w),
   (.mul t w, 0, 0x8, aluDec w), (.mulhu t w, 0, 0x9, aluDec w), (.divu t w, 0, 0xA, aluDec w), (.remu t w, 0, 0xB, aluDec w),
   (.cmp t w, 0, 0xC, wRA w ≤ 7 && fld (wImm w) 33 3 ≤ 5 && (if wI w then wRC w == 0 else fld (wImm w) 0 33 == 0)),
   (.li t w, 0, 0xD, wRB w == 0 && wRC w == 0),
   (.pset t w, 0, 0xE, wRA w ≤ 7 && wRB w ≤ 7 && wRC w ≤ 7 && fld (wImm w) 4 33 == 0),
   (.lih t w, 0, 0xF, wRB w == 0 && wRC w == 0 && fld (wImm w) 27 10 == 0),
   (.br t w, 1, 0, abc), (.call t w, 1, 1, wRB w == 0 && wRC w == 0),
   (.jr t w, 1, 2, wRA w == 0 && wRC w == 0 && wImm w == 0),
   (.ldU8 t w, 2, 0, wRC w == 0), (.ldU16 t w, 2, 1, wRC w == 0), (.ldU32 t w, 2, 2, wRC w == 0), (.ld64 t w, 2, 3, wRC w == 0),
   (.ldS8 t w, 2, 4, wRC w == 0), (.ldS16 t w, 2, 5, wRC w == 0), (.ldS32 t w, 2, 6, wRC w == 0),
   (.st8 t w, 2, 7, wRC w == 0), (.st16 t w, 2, 8, wRC w == 0), (.st32 t w, 2, 9, wRC w == 0), (.st64 t w, 2, 10, wRC w == 0),
   (.ldTd t w, 2, 11, wRC w == 0 && wRA w ≤ 15), (.stTd t w, 2, 12, wRC w == 0 && wRA w ≤ 15),
   (.tdWr t w, 2, 13, wRC w == 0 && wRA w ≤ 15 && fld (wImm w) 2 35 == 0),
   (.tdRd t w, 2, 14, wRC w == 0 && wRB w ≤ 15 && fld (wImm w) 2 35 == 0),
   (.wait t w, 3, 0, wRA w ≤ 15 && wRB w == 0 && wRC w == 0 && wImm w == 0),
   (.tokPoll t w, 3, 1, wRB w ≤ 15 && wRC w == 0 && wImm w == 0),
   (.fenceSig t w, 3, 2, wRA w == 0 && wImm w == 0), (.fenceWaitInstr t w, 3, 3, wImm w == 0),
   (.intakeOpen t w, 3, 4, wRA w == 0 && wRC w == 0 && fld (wImm w) 2 35 == 0),
   (.intakeTake t w, 3, 5, wRB w == 0 && wRC w == 0 && fld (wImm w) 2 35 == 0),
   (.paceArm t w, 9, 0, wRA w == 0 && wRC w == 0 && fld (wImm w) 3 34 == 0),
   (.paceArmRel t w, 9, 1, wRA w == 0 && wRC w == 0 && fld (wImm w) 3 34 == 0),
   (.paceArmDl t w, 9, 2, wRA w == 0 && wRC w == 0 && wImm w == 0),
   (.paceWait t w, 9, 3, abc && fld (wImm w) 3 34 == 0), (.paceClear t w, 9, 4, abc && fld (wImm w) 3 34 == 0),
   (.markOp t w, 0xA, 0, abc && fld (wImm w) 32 5 == 0), (.markEv t w, 0xA, 1, wRA w == 0 && wRC w == 0 && wImm w == 0),
   (.obsRd t w, 0xA, 2, wRB w == 0 && wRC w == 0 && fld (wImm w) 32 5 == 0 && fld (wImm w) 23 5 == 0
      && fld (wImm w) 8 8 == 0 && obsIndexOk (fld (wImm w) 28 4) (fld (wImm w) 16 7)),
   (.sysRead t w, 0xF, 0, wRB w == 0 && wRC w == 0 && fld (wImm w) 8 29 == 0 && selectorOk (wImm w)),
   (.sysExit t w, 0xF, 1, abc && wImm w == 0),
   (.sysDist t w, 0xF, 2, wRB w == 0 && wRC w == 0 && fld (wImm w) 32 5 == 0 && fld (wImm w) 16 12 == 0
      && distIndexOk (fld (wImm w) 28 4) (fld (wImm w) 0 16))]

end Sys2Proof.Claims

/-- For every one-word row, when the core can take an instruction and the word is the row's: a fetch that fails traps
with its code; a word whose fields do not decode takes ILLEGAL_OP; one whose guard reads zero retires with no other
effect: the pc moves by 8 and the frame of CoreFrame holds. A word of a reserved class or operation takes ILLEGAL_OP
whichever row it is given to. -/
def Obligations.OneWordChecks : Prop :=
  ∀ (s : State) (t : Nat) (w : Word), s.coreReady t = true → ∀ r ∈ oneWordRows t w,
    (∀ code, wClass w = r.2.1 → wOp w = r.2.2.1 → s.fetchTrap t 8 = some code →
      exec r.1 s = .next (s.trap t code (s.tile t).core.pc 0))
    ∧ (wClass w = r.2.1 → wOp w = r.2.2.1 → s.fetchTrap t 8 = none → r.2.2.2 = false →
      exec r.1 s = .next (s.trap t 1 (s.tile t).core.pc 0))
    ∧ (wClass w = r.2.1 → wOp w = r.2.2.1 → s.fetchTrap t 8 = none → r.2.2.2 = true → (s.tile t).core.guard w = false →
      ∃ u, exec r.1 s = .next u ∧ Retired s u t 8 (s.tile t).core)
    ∧ (reservedOp w = true → s.fetchTrap t 8 = none → exec r.1 s = .next (s.trap t 1 (s.tile t).core.pc 0))

/-- When the word at the pc is the row's, its fields decode and its guard reads one: wait on a DONE token retires, on
a PENDING one holds the core, on an IDLE one traps TOKEN with no detail and on one in ERROR with its detail. fence.sig
with a usable fence and value adds one signal of the running context to those in flight and else traps ILLEGAL_OP.
fence.wait returns GONE, ERROR_FLAG or REACHED in that precedence, or holds the core. intake.open opens the intake
that its legal descriptor gives once its line can be read, and holds the core while memory sleeps or gives no credits
(R247, R258); intake.take gives the next released batch or holds the core (with no message waiting at the tile and its
dispatch unit quiet). -/
def Obligations.SyncInstructions : Prop :=
  ∀ (s : State) (t : Nat) (w : Word),
    let c := (s.tile t).core
    (Takes s t w 3 0 (wRA w ≤ 15 && wRB w == 0 && wRC w == 0 && wImm w == 0) →
      let k := c.getTok (wRA w)
      (k.st = 0 → exec (.wait t w) s = .next (s.trap t 5 c.pc 0))
      ∧ (k.st = 1 → exec (.wait t w) s = .next (s.setCore t { c with stall := .wait (wRA w) }))
      ∧ (k.st = 2 → ∃ u, exec (.wait t w) s = .next u ∧ Retired s u t 8 c)
      ∧ (k.st = 3 → exec (.wait t w) s = .next (s.trap t 5 c.pc k.det)))
    ∧ (Takes s t w 3 2 (wRA w == 0 && wImm w == 0) →
      let h := s.g t (wRB w)
      let v := s.g t (wRC w)
      (s.fenceUsable t h v = true → ∃ u, exec (.fenceSig t w) s = .next u
        ∧ Retired s u t 8 { c with sigs := c.sigs ++ [(h.toNat, v.setWidth 32, (s.runCtx t).getD 0)] })
      ∧ (s.fenceUsable t h v = false → exec (.fenceSig t w) s = .next (s.trap t 1 c.pc 0)))
    ∧ (Takes s t w 3 3 (wImm w == 0) →
      let h := s.g t (wRB w)
      let f := s.fence h.toNat
      let d := (s.g t (wRC w)).setWidth 32 - f.val
      (s.fenceUsable t h (s.g t (wRC w)) = false ∨ d = 0x80000000 → exec (.fenceWaitInstr t w) s = .next (s.trap t 1 c.pc 0))
      ∧ (s.fenceUsable t h (s.g t (wRC w)) = true → d ≠ 0x80000000 →
          (f.valid = false ∨ f.err = true ∨ d = 0 ∨ 2 ^ 31 < d.toNat → ∃ u, exec (.fenceWaitInstr t w) s = .next u
            ∧ Retired s u t 8 (wroteG s t (wRA w) (if f.valid = false then 2 else if f.err then 1 else 0)))
          ∧ (f.valid = true → f.err = false → d ≠ 0 → d.toNat < 2 ^ 31 → exec (.fenceWaitInstr t w) s
            = .next (s.setCore t { c with stall := .fence (wRA w) h.toNat ((s.g t (wRC w)).setWidth 32) }))))
    ∧ (Takes s t w 3 4 (wRA w == 0 && wRC w == 0 && fld (wImm w) 2 35 == 0) →
      let i := fld (wImm w) 0 2
      let va := s.g t (wRB w)
      let d : BitVec 512 := BitVec.ofNat 512 (ofBytes (s.vaRead t va 64))
      let x := (s.tile t).intake i
      let y : Intake := { desc := d, isOpen := true, ever := true, round := BitVec.ofNat 16 (d.toNat / 2 ^ 288)
                          parts := x.parts, breaches := x.breaches }
      (((s.tile t).intake i).isOpen = true → exec (.intakeOpen t w) s = .next (s.trap t 1 c.pc 0))
      ∧ (((s.tile t).intake i).isOpen = false → va.toNat % 64 ≠ 0 → exec (.intakeOpen t w) s = .next (s.trap t 3 c.pc 0))
      ∧ (((s.tile t).intake i).isOpen = false → va.toNat % 64 = 0 → s.vaOk t va 64 0 coreTargets = false →
          exec (.intakeOpen t w) s = .next (s.trap t 4 c.pc 0))
      ∧ (((s.tile t).intake i).isOpen = false → va.toNat % 64 = 0 → s.vaOk t va 64 0 coreTargets = true →
          s.coreWaits t (s.vaSpots t va 64) = true → exec (.intakeOpen t w) s = .next (s.wakeFor t (s.vaSpots t va 64)))
      ∧ (((s.tile t).intake i).isOpen = false → va.toNat % 64 = 0 → s.vaOk t va 64 0 coreTargets = true → y.descOk = true →
          s.intakeRanges t y = true → QuietTile s t → s.coreWaits t (s.vaSpots t va 64) = false → s.readRes (s.vaSpots t va 64) = .ok →
          ∃ u, exec (.intakeOpen t w) s = .next u ∧ (u.tile t).intake i = y
            ∧ (∀ k, k ≠ i → (u.tile t).intake k = (s.tile t).intake k)
            ∧ (u.tile t).core = { c with pc := c.pc + 8, stall := .none } ∧ (u.tile t).ops = (s.tile t).ops))
    ∧ (Takes s t w 3 5 (wRB w == 0 && wRC w == 0 && fld (wImm w) 2 35 == 0) →
      let i := fld (wImm w) 0 2
      let x := (s.tile t).intake i
      let y := x.freeTaken
      (x.isOpen = false ∨ x.lastTaken = true → exec (.intakeTake t w) s = .next (s.trap t 1 c.pc 0))
      ∧ (x.isOpen = true → x.lastTaken = false → QuietTile s t →
          (∀ b r, y.released = b :: r → ∃ u, exec (.intakeTake t w) s = .next u
            ∧ (u.tile t).core = { wroteG s t (wRA w) b.word with pc := c.pc + 8, stall := .none }
            ∧ (u.tile t).intake i = { y with
                released := r, taken := some b, isOpen := y.isOpen && !b.last, lastTaken := y.lastTaken || b.last })
          ∧ (y.released = [] → ∃ u, exec (.intakeTake t w) s = .next u
            ∧ (u.tile t).core = { c with stall := .intake (wRA w) i } ∧ (u.tile t).intake i = y)))

/-- When the word at the pc is the row's, its fields decode and its guard reads one: pace.arm and pace.arm.rel arm the
comparator with RB, or with the pacer plus RB; a value after the pacer's count waits, any other fires at once and
starts the movers' operations that wait for it (those of length 0 complete, R210). pace.arm.dl sets the DEADLINE of
the kernel's slot. pace.wait on a comparator not armed traps ILLEGAL_OP, on a fired one retires, else holds the core.
pace.clear disarms it. PACER_COMPARATOR_FIRE of an armed comparator whose count is reached marks it fired and frees a
core that waits for it. When the word at the pc is the row's, its fields decode and its guard reads one: mark.op sets
LAYER_ID and OP_ID, closes the tile's bank of counters and opens one under them. mark.ev with trace on stages its
packet with the pacer and RB, and no INSTR packet; otherwise it only retires. sys.exit, with no operation waiting for
a trigger and no message waiting, retires, holds the core for the kernel's boundary and closes every intake of the
tile. -/
def Obligations.PaceMarksAndExit : Prop :=
  (∀ (s : State) (t : Nat) (w : Word),
     let c := (s.tile t).core
     let k := wImm w
     (∀ i op v, (i, op, v) ∈ [(Instr.paceArm t w, 0, s.g t (wRB w)), (.paceArmRel t w, 1, s.time - (s.tile t).base + s.g t (wRB w))] →
       Takes s t w 9 op (wRA w == 0 && wRC w == 0 && fld (wImm w) 3 34 == 0) →
       ((s.time - (s.tile t).base).toNat < v.toNat → ∃ u, exec i s = .next u
         ∧ Retired s u t 8 { c with comps := tput c.comps k { armed := true, val := v } })
       ∧ (v.toNat ≤ (s.time - (s.tile t).base).toNat → ∃ u, exec i s = .next u
         ∧ (u.tile t).core.getCmp k = { armed := true, val := v, fired := true }
         ∧ (∀ j, j ≠ k → (u.tile t).core.getCmp j = c.getCmp j) ∧ (u.tile t).core.pc = c.pc + 8 ∧ (u.tile t).core.g = c.g
         ∧ ((∀ o ∈ (s.tile t).ops, o.trig = some (true, k) → o.started = true) → (u.tile t).ops = (s.tile t).ops)
         ∧ ((∀ o ∈ (s.tile t).ops, o.trig = some (true, k) → o.gc ≠ 0) →
             ∀ o ∈ (s.tile t).ops, o.trig = some (true, k) → ∃ p ∈ (u.tile t).ops, p.id = o.id ∧ p.started = true)))
     ∧ (∀ r, c.run = some r → Takes s t w 9 2 (wRA w == 0 && wRC w == 0 && wImm w == 0) →
         ∃ u, exec (.paceArmDl t w) s = .next u
           ∧ u.tile t = { (s.tile t).setSlot r.slot { (s.tile t).slot r.slot with deadline := s.g t (wRB w) } with
               core := { c with pc := c.pc + 8, stall := .none } }
           ∧ ∀ j, j ≠ t → u.tile j = s.tile j)
     ∧ (Takes s t w 9 3 (wRA w == 0 && wRB w == 0 && wRC w == 0 && fld (wImm w) 3 34 == 0) →
         ((c.getCmp k).armed = false → exec (.paceWait t w) s = .next (s.trap t 1 c.pc 0))
         ∧ ((c.getCmp k).armed = true → (c.getCmp k).fired = true → ∃ u, exec (.paceWait t w) s = .next u ∧ Retired s u t 8 c)
         ∧ ((c.getCmp k).armed = true → (c.getCmp k).fired = false →
             exec (.paceWait t w) s = .next (s.setCore t { c with stall := .pace k })))
     ∧ (Takes s t w 9 4 (wRA w == 0 && wRB w == 0 && wRC w == 0 && fld (wImm w) 3 34 == 0) →
         (∀ o ∈ (s.tile t).ops, o.trig = some (true, k) → o.started = true) →
         ∃ u, exec (.paceClear t w) s = .next u ∧ Retired s u t 8 { c with comps := tput c.comps k {} })
     ∧ (∀ j, c.run.isSome = true → j < 8 → (c.getCmp j).armed = true → (c.getCmp j).fired = false →
         (c.getCmp j).val.toNat ≤ (s.time - (s.tile t).base).toNat →
         ∃ u, exec (.pacerComparatorFire t j) s = .next u ∧ (u.tile t).core.getCmp j = { c.getCmp j with fired := true }
           ∧ (c.stall = .pace j → c.halted = false → (u.tile t).core.pc = c.pc + 8 ∧ (u.tile t).core.stall = .none)
           ∧ (c.stall ≠ .pace j → (∀ i, c.stall ≠ .wait i) →
               (u.tile t).core.pc = c.pc ∧ (u.tile t).core.stall = c.stall)))
  ∧ (∀ (s : State) (t : Nat) (w : Word),
       let c := (s.tile t).core
       (∀ r, c.run = some r → Takes s t w 0xA 0 (wRA w == 0 && wRB w == 0 && wRC w == 0 && fld (wImm w) 32 5 == 0) →
         ∃ u, exec (.markOp t w) s = .next u
           ∧ (u.tile t).core = { c with
               layer := BitVec.ofNat 16 (w.toNat / 2 ^ 16), op := BitVec.ofNat 16 w.toNat, pc := c.pc + 8, stall := .none }
           ∧ (∀ k, k ≠ t → u.tile k = s.tile k) ∧ (u.group t).closed = (s.group t).counters
           ∧ (u.group t).layer = BitVec.ofNat 16 (w.toNat / 2 ^ 16) ∧ (u.group t).op = BitVec.ofNat 16 w.toNat
           ∧ (u.group t).ctx = some r.launch.ctx)
       ∧ (Takes s t w 0xA 1 (wRA w == 0 && wRC w == 0 && wImm w == 0) →
         ∃ u, exec (.markEv t w) s = .next u ∧ Retired s u t 8 c
           ∧ (∀ r, c.run = some r → (s.trace t).mode ≠ 0 → (s.ctx r.launch.ctx).conf = false → (s.trace t).gap = 0 →
               (s.trace t).stage.length < 100 → (u.trace t).stage = (s.trace t).stage
                 ++ [BitVec.ofNat 128 (5 + (s.time - (s.tile t).base).toNat % 2 ^ 32 * 2 ^ 32 + (s.g t (wRB w)).toNat * 2 ^ 64)]))
       ∧ (Takes s t w 0xF 1 (wRA w == 0 && wRB w == 0 && wRC w == 0 && wImm w == 0) →
         (∀ o ∈ (s.tile t).ops, o.trig = none ∨ o.started = true) → (s.tile t).early = [] →
         ∃ u, exec (.sysExit t w) s = .next u ∧ (u.tile t).core = { c with pc := c.pc + 8, stall := .exit }
           ∧ (u.tile t).ops = (s.tile t).ops ∧ (∀ e ∈ (u.tile t).intakes, e.2.isOpen = false)
           ∧ ∀ k, k ≠ t → u.tile k = s.tile k))

namespace Sys2Proof.Claims

/-- The two-word rows, each with its class, its operation, whether its fields decode and its checks at issue (R202). -/
def twoWordRows (t : Nat) (w x : Word) : List (Instr × Nat × Nat × Bool × (State → Option Nat)) :=
  let vec := fun (i : Instr) (op : Nat) => (i, 5, op, vDec w x, fun (s : State) => s.vChk t w)
  let ex := fun (i : Instr) (cls op : Nat) => (i, cls, op, exDec w x, fun (s : State) => s.exChk t w x)
  let mv := fun (i : Instr) (op : Nat) => (i, 4, op, mvDec w x, fun (s : State) => s.mvChk t w x)
  let tn := fun (i : Instr) (cls op : Nat) => (i, cls, op, tnDec w x, fun (s : State) => s.tnChk t w x)
  [mv (.mvCopy t w x) 0, mv (.mvFill t w x) 1, mv (.mvCmp t w x) 2,
   vec (.vld t w x) 0, vec (.vst t w x) 1, vec (.varith t w x) 2, vec (.vfma t w x) 3, vec (.vsf t w x) 4,
   vec (.vcmp t w x) 5, vec (.vred t w x) 6, vec (.vbcast t w x) 7, vec (.vsel t w x) 8, vec (.vmask t w x) 9,
   (.cvt t w x, 0xB, 0, cvtDec w x,
     fun _ => if partOk (cFS x) (cSP x) && partOk (cFD x) (cDP x) then none else some 1),
   (.gateTopk t w x, 7, 4, gateDec w x, fun s => s.gateChk t w x),
   tn (.mma t w x) 6 0, tn (.mmaS24 t w x) 7 0, tn (.mmaSeed t w x) 7 1, tn (.mmaRowmask t w x) 7 2,
   ex (.disp t w x) 7 5, ex (.comb t w x) 7 6, ex (.combSum t w x) 7 7, ex (.compactG t w x) 7 8, ex (.compactS t w x) 7 9,
   ex (.send t w x) 8 0, ex (.recv t w x) 8 1, ex (.put t w x) 8 2, ex (.get t w x) 8 3, ex (.bar t w x) 8 4,
   ex (.allreduce t w x) 8 5, ex (.bcast t w x) 8 6, ex (.allgather t w x) 8 7]

/-- The core of tile `t` fetches the two words of row `r`. -/
def Fetches2 (s : State) (t : Nat) (w : Word) (r : Instr × Nat × Nat × Bool × (State → Option Nat)) : Prop :=
  s.coreReady t = true ∧ wClass w = r.2.1 ∧ wOp w = r.2.2.1 ∧ s.fetchTrap t 16 = none

/-- Row `r` passes every check of issue (R202, R203): XMARK, a free slot of its engine, fields, guard, its own checks, and a
token that is not PENDING. -/
def MayIssue (s : State) (t : Nat) (w x : Word) (r : Instr × Nat × Nat × Bool × (State → Option Nat)) : Prop :=
  Fetches2 s t w r ∧ fld x.toNat 60 4 = 0xE ∧ (s.tile t).engineFull (engineOf w x) = false ∧ r.2.2.2.1 = true
    ∧ (s.tile t).core.guard w = true ∧ r.2.2.2.2 s = none ∧ ((s.tile t).core.getTok (xKD x)).st ≠ 1

/-- Every tile but `t` and every other block but the observation block is as it was; with the tile's trace OFF, memory and
outputs too. -/
def Elsewhere (s u : State) (t : Nat) : Prop :=
  (∀ k, k ≠ t → u.tile k = s.tile k) ∧ u.pending = s.pending ∧ u.time = s.time ∧ u.boot = s.boot ∧ u.hif = s.hif
    ∧ u.comp = s.comp ∧ u.quads = s.quads ∧ u.lanes = s.lanes ∧ u.pwr = s.pwr ∧ u.stone = s.stone ∧ u.sec = s.sec
    ∧ ((s.trace t).mode = 0 → u.out = s.out ∧ ∀ a, u.peek a = s.peek a)

/-- The operation `o` has taken a slot of its engine with the operands copied from the registers, its token is PENDING, and the
instruction has retired (R46, R50, R174, R203). -/
def Issued (s u : State) (t : Nat) (w x : Word) (o : EngOp) : Prop :=
  o.id = (s.tile t).nextId ∧ o.eng = engineOf w x ∧ o.kd = xKD x ∧ o.w = w ∧ o.x = x ∧ o.ga = s.g t (wRA w)
    ∧ o.gb = s.g t (wRB w) ∧ o.gc = s.g t (wRC w) ∧ o.ta = (s.tile t).core.getTd (wRA w % 16)
    ∧ o.tb = (s.tile t).core.getTd (wRB w % 16) ∧ o.tc = (s.tile t).core.getTd (wRC w % 16)
    ∧ u.tile t = { s.tile t with
        core := { (s.tile t).core with
          tok := tput (s.tile t).core.tok (xKD x) { st := 1 }
          unacked := (s.tile t).core.unacked
            || (((s.tile t).core.getTok (xKD x)).st == 3 && !((s.tile t).core.getTok (xKD x)).acked)
          pc := (s.tile t).core.pc + 16, stall := .none }
        movers := if engineOf w x < 3 then (s.tile t).movers
          else tput (s.tile t).movers (engineOf w x - 3) { last := (s.tile t).nextId }
        ops := (s.tile t).ops ++ [o], nextId := (s.tile t).nextId + 1 }
    ∧ Elsewhere s u t

/-- Operation `o` is DONE: its token says so, it has left its engine, and its flags joined the kernel's (R46, R102). -/
def Done (s u : State) (t : Nat) (o : EngOp) (flags : BitVec 16) : Prop :=
  (u.tile t).core.getTok o.kd = { st := 2 } ∧ (∀ p ∈ (u.tile t).ops, p.id ≠ o.id)
    ∧ (u.tile t).core.flags = (s.tile t).core.flags ||| flags

/-- No core but one waiting on the token of `o` waits for a token on tile `t`, and no mover's operation waits for `o` to end. -/
def EndsAlone (s : State) (t : Nat) (o : EngOp) : Prop :=
  (∀ k, (s.tile t).core.stall = .wait k → k = o.kd)
    ∧ ∀ p ∈ (s.tile t).ops, p.trig = some (false, o.id) → p.started = true

/-- `o` is the only operation of the dispatch unit, and no message waits at the tile: nothing goes on when it ends. -/
def LastOfUnit (s : State) (t : Nat) (o : EngOp) : Prop :=
  (s.tile t).early = [] ∧ ∀ p ∈ (s.tile t).ops, p.eng = 2 → p.id = o.id

end Sys2Proof.Claims

/-- For every two-word row, when the core can take an instruction and the word is the row's: a fetch of its two words
that fails traps; an extension word without XMARK traps ILLEGAL_OP; a full engine queue holds the core with both
words; fields that do not decode trap ILLEGAL_OP; a guard that reads zero retires with no other effect than the pc's
move by 16; the row's own checks trap with their code; a token that is PENDING traps TOKEN. For every two-word row
that may issue: the operation joins its engine's queue with the operands that the registers and descriptors hold now,
its token becomes PENDING, the pc moves by 16 and nothing else changes. Vector, cvt, gate.topk and tensor operations
then wait for their turn. A mover operation without a trigger begins: with a length of zero it ends at once, else it
starts with the routes of its requests. One with a comparator begins if that has fired; one behind another mover
begins if that one's last operation is DONE, ends with MV_CHAIN if it is in ERROR, and else waits. A dispatch-unit
operation then begins as the unit's order allows (MODEL'S READING of R48, log 38). -/
def Obligations.EngineIssue : Prop :=
  (∀ (s : State) (t : Nat) (w x : Word), ∀ r ∈ twoWordRows t w x,
     (∀ code, s.coreReady t = true → wClass w = r.2.1 → wOp w = r.2.2.1 → s.fetchTrap t 16 = some code →
       exec r.1 s = .next (s.trap t code (s.tile t).core.pc 0))
     ∧ (Fetches2 s t w r →
       (fld x.toNat 60 4 ≠ 0xE → exec r.1 s = .next (s.trap t 1 (s.tile t).core.pc 0))
       ∧ (fld x.toNat 60 4 = 0xE →
         ((s.tile t).engineFull (engineOf w x) = true →
           exec r.1 s = .next (s.setCore t { (s.tile t).core with stall := .queue w x }))
         ∧ ((s.tile t).engineFull (engineOf w x) = false →
           (r.2.2.2.1 = false → exec r.1 s = .next (s.trap t 1 (s.tile t).core.pc 0))
           ∧ (r.2.2.2.1 = true → (s.tile t).core.guard w = false → ∃ u, exec r.1 s = .next u ∧ Retired s u t 16 (s.tile t).core)
           ∧ (r.2.2.2.1 = true → (s.tile t).core.guard w = true →
               (∀ code, r.2.2.2.2 s = some code → exec r.1 s = .next (s.trap t code (s.tile t).core.pc 0))
               ∧ (r.2.2.2.2 s = none → ((s.tile t).core.getTok (xKD x)).st = 1 →
                   exec r.1 s = .next (s.trap t 5 (s.tile t).core.pc 0)))))))
  ∧ (∀ (s : State) (t : Nat) (w x : Word), ∀ r ∈ twoWordRows t w x, MayIssue s t w x r →
       (r.2.1 = 5 ∨ r.2.1 = 6 ∨ r.2.1 = 0xB ∨ (r.2.1 = 7 ∧ r.2.2.1 ≤ 4) →
         ∃ u o, exec r.1 s = .next u ∧ Issued s u t w x o ∧ o.started = false ∧ o.trig = none ∧ o.err = none)
       ∧ (r.2.1 = 4 → ∃ u o, Issued s u t w x o ∧ o.started = false ∧ o.err = none
           ∧ (let begun := if s.g t (wRC w) = 0 then (u.zeroWrite t o).endOp t o none else u.markStarted t o
              let res := (tget {} (s.tile t).movers (mvSrc x) : MoverSt).res
             (mvTrig x = 0 → o.trig = none ∧ exec r.1 s = .next begun)
             ∧ (mvTrig x = 1 → o.trig = some (true, mvSrc x)
                 ∧ exec r.1 s = .next (if ((s.tile t).core.getCmp (mvSrc x)).fired then begun else u))
             ∧ (mvTrig x = 2 → o.trig = some (false, (tget {} (s.tile t).movers (mvSrc x) : MoverSt).last)
                 ∧ exec r.1 s = .next (if res = 1 then begun else if res = 2 then u.endOp t o (some 0x42) else u))))
       ∧ (r.2.1 = 8 ∨ (r.2.1 = 7 ∧ 5 ≤ r.2.2.1) → ∃ u o, exec r.1 s = .next (u.proceed t) ∧ Issued s u t w x o
           ∧ o.started = false ∧ o.begun = false ∧ o.todo = [] ∧ o.err = none))

/-- When a started mover operation ends, no route-around holds or has taken its requests nor cut its packets, what its
tile sent before it has arrived (R261), the tiles and ports it asks serve and every byte of its ranges can be
accessed, with the tile's trace OFF: mv.copy has written the bytes of its source to its destination, mv.fill its
8-byte pattern repeated, mv.cmp the offset of the 64-byte line of the first difference, or all ones when the ranges
agree; no other byte of the device changes; its token is DONE, it has left the mover and its flags join the kernel's.
VECTOR_OP_COMPLETE of an operation whose lines are not uncorrectable ends the oldest vector operation: its token is
DONE and its flags join the kernel's. vbcast writes the low 32 bits of RB, or its low 16 bits twice as BF16, to every
enabled element; vsel takes each element from RB or RC by its mask bit; vld takes element i from bytes 4i to 4i+3; an
element whose mask bit is clear keeps its value. vmask combines two masks by its four-entry table. Any other v
register keeps its value. -/
def Obligations.MoverAndVectorCompletion : Prop :=
  (∀ (s : State) (t mv : Nat) (o : EngOp) (a b : HostBytes), (s.tile t).moverOp mv = some o → mv < 8 → EndsAlone s t o →
     (s.trace t).mode = 0 → o.held = false → o.lost ≠ 2 → o.cut = false → o.behind.any s.bram.flight.contains = false →
     s.accessOpen t t (s.mvReads t o ++ s.mvWrites t o) = true → s.moveRes (s.mvReads t o) (s.mvWrites t o) .ok = .ok →
     let n := o.gc.toNat
     let la := s.vaSpots t o.ga n
     let lb := s.vaSpots t o.gb n
     let lr := s.vaSpots t o.ge 8
     (wOp o.w = 0 → ∃ u, exec (.moverOpComplete t mv .ok a b) s = .next u
       ∧ Done s u t o o.flags ∧ ∀ k, u.peek k = (s.writeSpots la (s.readSpots lb a)).peek k)
     ∧ (wOp o.w = 1 → ∃ u, exec (.moverOpComplete t mv .ok a b) s = .next u
       ∧ Done s u t o o.flags ∧ ∀ k, u.peek k = (s.writeSpots la ((List.range n).map (fun i =>
           BitVec.ofNat 8 (o.gb.toNat / 256 ^ (i % 8))))).peek k)
     ∧ (wOp o.w = 2 →
       (s.readSpots la a = s.readSpots lb b → ∃ u, exec (.moverOpComplete t mv .ok a b) s = .next u
         ∧ Done s u t o o.flags ∧ ∀ k, u.peek k = (s.writeSpots lr (toBytes 8 (2 ^ 64 - 1))).peek k)
       ∧ (∀ i, i < n → (s.readSpots la a).take i = (s.readSpots lb b).take i → (s.readSpots la a)[i]? ≠ (s.readSpots lb b)[i]? →
         ∃ u, exec (.moverOpComplete t mv .ok a b) s = .next u ∧ Done s u t o o.flags
           ∧ ∀ k, u.peek k = (s.writeSpots lr (toBytes 8 (i / 64 * 64))).peek k)))
  ∧ (∀ (s : State) (t : Nat) (o : EngOp), (s.tile t).oldestOp 1 = some o → EndsAlone s t o →
       s.moveRes (s.vecReads t o) [] .ok ≠ .uncorrectable →
       let c := (s.tile t).core
       let el := fun (v : BitVec 32768) (i : Nat) => v.extractLsb' (32 * i) 32
       (∃ u, exec (.vectorOpComplete t .ok) s = .next u ∧ Done s u t o (BitVec.ofNat 16 (s.vecEffect t o).2)
         ∧ (u.tile t).core.v = ((s.vecEffect t o).1.tile t).core.v ∧ (u.tile t).core.m = ((s.vecEffect t o).1.tile t).core.m
         ∧ ((s.trace t).mode = 0 → ∀ k, u.peek k = (s.vecEffect t o).1.peek k))
       ∧ (wClass o.w = 5 → wOp o.w ≠ 1 → wOp o.w ≠ 5 → wOp o.w ≠ 9 → ∀ d, d ≠ wRA o.w →
           ((s.vecEffect t o).1.tile t).core.getV d = c.getV d)
       ∧ (wClass o.w = 5 → wOp o.w = 7 → ∀ i, i < 1024 → el (((s.vecEffect t o).1.tile t).core.getV (wRA o.w)) i
           = if c.enabled o.x i then (if vTY o.x then o.gb.extractLsb' 0 16 ++ o.gb.extractLsb' 0 16 else o.gb.extractLsb' 0 32)
             else el (c.getV (wRA o.w)) i)
       ∧ (wClass o.w = 5 → wOp o.w = 8 → ∀ i, i < 1024 → el (((s.vecEffect t o).1.tile t).core.getV (wRA o.w)) i
           = if c.enabled o.x i then el (c.getV (if (c.getM (vMR o.x)).getLsbD i then wRB o.w else wRC o.w)) i
             else el (c.getV (wRA o.w)) i)
       ∧ (wClass o.w = 5 → wOp o.w = 9 → ∀ i, i < 1024 → (((s.vecEffect t o).1.tile t).core.getM (wRA o.w)).getLsbD i
           = (vFN o.x).testBit (2 * bit ((c.getM (wRB o.w)).getLsbD i) + bit ((c.getM (wRC o.w)).getLsbD i)))
       ∧ (wClass o.w = 5 → wOp o.w = 0 → ∀ i, i < 1024 → c.enabled o.x i = true →
           el (((s.vecEffect t o).1.tile t).core.getV (wRA o.w)) i
             = BitVec.ofNat 32 (ofBytes (((s.vaRead t o.gb 4096).drop (4 * i)).take 4))))

/-- TENSOR_OP_START of the next tensor operation starts it, one whose drain descriptor is bad ending at once in ERROR;
an uncorrectable line among its operands stops the kernel. TENSOR_OP_COMPLETE ends a started one with a DONE token and
its flags (open ones where what a drain names was written meanwhile, R114; MODEL'S CHOICE, log 158). TENSOR_CHECK_FAIL
of a check that applies runs the operation up to the failing row; the failure reports rows 6 to 9 and stops the kernel
as a safety stop. DISP_COMPLETE and DISPATCH_OP_COMPLETE end the unit's oldest operation when what it waits for has
come and what it asks serves: with its first failure's detail, or with its effect; a disp or a bar DONE. DISP_COMPLETE
is for a disp whose reads came back clean, DISPATCH_OP_COMPLETE for one whose reads did not, and for every other
operation; what an operation sends it has read without error before (R57). ENGINE_SLOT_FREE issues the held
instruction as its own row does. -/
def Obligations.TensorAndDispatchCompletion : Prop :=
  ∀ (s : State) (t : Nat) (o : EngOp), EndsAlone s t o →
    ((s.tile t).nextTensor = some o →
      (s.engineUe (s.tnReads t o) .ok = true → exec (.tensorOpStart t .ok) s = .next (s.readUe t (s.tnReads t o)))
      ∧ (s.engineUe (s.tnReads t o) .ok = false → exec (.tensorOpStart t .ok) s = .next (s.tnStart t o none))
      ∧ (∀ e, s.ddError t (if tnGD o.x = 0 then 0 else ofBytes (s.vaRead t o.ge 64)) (tdCols o.ta) = some e →
          s.tnStart t o none = (s.dropHeld t o).endOp t o (some e))
      ∧ ∀ code array row k, s.cutOf t o code array row = some k → exec (.tensorCheckFail t code array row) s
          = .next (({ s with fresh := s.fresh + 1 } : State).tnStart t o (some (code, k))))
    ∧ (∀ code array row r, (s.tile t).core.run = some r →
        let u := s.checkStop t code array row
        (∃ p run, u.stone.faults = s.stone.faults ++ [{
            row := 6 + code % 4, src := srcId 1 t, ctxs := [r.launch.ctx]
            detail := BitVec.ofNat 64 (array % 4 + row % 2 ^ 24 * 2 ^ 8), pacer := p, running := run }])
        ∧ (u.tile t).ops = [] ∧ (u.tile t).core.stall = .exit
        ∧ ((s.tile t).core.stop = none → (u.tile t).core.stop = some { status := 8, safety := true }))
    ∧ ((s.tile t).ops.find? (fun p => p.eng == 0 && p.started) = some o →
        ∃ u f, exec (.tensorOpComplete t) s = .next u ∧ Done s u t o f
          ∧ (tnDrain o.x = false ∨ s.tnStale t o = false → f = o.flags))
    ∧ (∀ kd i, (s.tile t).exOp kd = some o → o.lost ≠ 2 → o.cut = false → o.todo = [] → o.unans = [] → s.exOpen t o = true →
        s.rangeRes (s.exReads t o ++ s.exWrites t o) .ok ≠ .lost →
        i = (if exKind o.w = 5 then Instr.dispComplete t kd else .dispatchOpComplete t kd .ok) →
        (∀ e, o.err = some e → exec i s = .next ((s.endOp t o (some e)).proceed t))
        ∧ (s.exReady t o = true → exec i s = .next ((s.exEnd t o .ok).proceed t))
        ∧ (∀ res, s.exReady t o = true → res ≠ .lost → (exKind o.w = 5 → res ≠ .ok) →
            ([5, 6, 16, 18].contains (exKind o.w) = true → res ≠ .uncorrectable) →
            exec (.dispatchOpComplete t kd res) s = .next ((s.exEnd t o res).proceed t))
        ∧ (exKind o.w = 5 → o.err = none → s.rangeRes (s.exWrites t o) .ok = .ok → LastOfUnit s t o →
            ∃ u, exec i s = .next u ∧ Done s u t o o.flags)
        ∧ (exKind o.w = 20 → o.err = none → s.runSize t ≤ o.heard.length → LastOfUnit s t o →
            ∃ u, exec i s = .next u ∧ Done s u t o o.flags))
    ∧ (∀ w x, (s.tile t).core.stall = .queue w x → (s.tile t).core.halted = false →
        (s.tile t).engineFull (engineOf w x) = false → ∀ r ∈ twoWordRows t w x,
        Fetches2 (s.setCore t { (s.tile t).core with stall := .none }) t w r →
        exec (.engineSlotFree t) s = exec r.1 (s.setCore t { (s.tile t).core with stall := .none }))

namespace Sys2Proof.Claims

/-- The message rows, each with its class (R366) and what follows its arrival: grafts that waited for an epoch go on (R335). -/
def messageRows (m : Msg) (res : Res) (host : HostBytes) : List (Instr × Nat × (State → State)) :=
  [(.answerMessage m, 0x01, id), (.sendMessage m, 0x02, id), (.putMessage m res, 0x03, id),
   (.getReqMessage m res host, 0x04, id), (.getReplyMessage m, 0x05, id), (.rowMessage m, 0x06, id),
   (.markerMessage m, 0x07, id), (.returnMessage m, 0x08, id), (.creditMessage m, 0x09, id), (.barMessage m, 0x0A, id),
   (.collSeqMessage m, 0x0B, id), (.collDataMessage m, 0x0C, id), (.freezeMarkMessage m, 0x0D, id),
   (.epochMessage m, 0x0E, State.goOn), (.memberLostMessage m, 0x0F, id), (.heartbeatMessage m, 0x10, id)]

/-- The message can arrive now: none before it on its channel is still on its way (R261), and the memory that a PUT, a GET_REQ or
a RETURN reaches is served (R247); it is not lost on a route that is whole (R268). -/
def Arrives (s : State) (m : Msg) (res : Res) : Prop :=
  s.outrun m = false ∧ m.answered = false
    ∧ (m.cls = 0x03 → res ≠ .lost ∧ s.servedNow m 1 = true) ∧ (m.cls = 0x04 → res ≠ .lost ∧ s.servedNow m 0 = true)
    ∧ (m.cls = 0x08 → s.returnOpen m = true)

/-- Place of a rank pair's channel in the sequence tables of a bunch (R367). -/
def seqPlace (m : Msg) : Nat := pairKey m.src m.dst * 4 + m.chan % 4

/-- The message is the next of its pair: bunch record `i` has seen its sequence number. -/
def seen (s : State) (m : Msg) (i : Nat) : State :=
  s.setBunch i { s.bunch i with lastSeq := tput (s.bunch i).lastSeq (seqPlace m) (m.seq + 1) }

/-- The state that a message from leaf `l` is delivered in: its number is seen, and another module it came from is heard. -/
def heard (s : State) (m : Msg) (i : Nat) (l : Leaf) : State :=
  s.setBunch i { s.bunch i with
    lastSeq := tput (s.bunch i).lastSeq (seqPlace m) (m.seq + 1)
    alive := if l.module = 0 ∨ l.module ∈ (s.bunch i).alive then (s.bunch i).alive else l.module :: (s.bunch i).alive }

/-- The message passes every check of R373: it is intact, new, of the bunch's present epoch, from leaf `l` to leaf `d` of this
module, of `l`'s generation, to a tile that is ON, not lost, in no self-test, and does not refuse. -/
def Reaches (s : State) (m : Msg) (i : Nat) (d l : Leaf) : Prop :=
  s.outrun m = false ∧ m.answered = false
    ∧ s.intactOk m = true ∧ s.findBunch m.bunch = some i ∧ tget 0 (s.bunch i).lastSeq (seqPlace m) ≤ m.seq
    ∧ m.epoch = (s.bunch i).epoch ∧ (s.bunch i).map[m.dst]? = some d ∧ (s.bunch i).map[m.src]? = some l
    ∧ d.module = 0 ∧ l.gen = m.srcGen ∧ (s.tile d.tile).refusing = false ∧ (s.bunch i).leafLost d = false
    ∧ (s.dom d.tile).st = 2 ∧ s.inBist d.tile = false

/-- What becomes of a message of a class that is answered when it is rejected: its answer with the RESULT. -/
def rejected (s : State) (m : Msg) (result : Nat) : State :=
  if m.cls = 0x01 ∨ m.cls = 0x05 then s else s.answer m result

/-- A runner port has counted a duplicate (R367). -/
def duplicated (s : State) (m : Msg) : State :=
  match m.port with
  | some p => s.setRunner (p / 4) { s.runner (p / 4) with duplicates := min 0xFFFF ((s.runner (p / 4)).duplicates + 1) }
  | none => s

/-- A message waits at a tile. -/
def waitsAt (s : State) (t : Nat) (m : Msg) : State := s.setTile t { s.tile t with early := (s.tile t).early ++ [m] }

end Sys2Proof.Claims

/-- For every message row and a message of its class that can arrive: one that is not intact is dropped, counted in
INTEGRITY of the port it came by, and leaves tiles and memory; an unknown bunch answers result 2; a sequence number
already seen is not delivered again, counts as a duplicate at its port, and gets the answer it had (a GET_REQ without
one is served again, log 166); one of the next epoch is held; one of an epoch that is neither the present nor a live
previous one answers 1; a rank outside the map or of another module answers 3; another generation, a lost or a
refusing tile answers 6 and counts in LOSS.REFUSED. After an EPOCH, grafts that waited go on. The row takes no account
of the model's mark of captured messages. An intact message of a known bunch, whatever becomes of it, is a sign of
life of the module it came from (R380). An answer is one TS message back with the sequence number, class and result,
sent when the pair has sequence numbers and injection is not paused. -/
def Obligations.MessageChecks : Prop :=
  (∀ (s : State) (m : Msg) (res : Res) (host : HostBytes), ∀ r ∈ messageRows m res host, m.cls = r.2.1 → Arrives s m res →
    let w := s.landed m
    let v := w.hear m
    (s.intactOk m = false → m.port = none → exec r.1 s = .next (r.2.2 w))
    ∧ (∀ p, s.intactOk m = false → m.port = some p → ∃ u, exec r.1 s = .next (r.2.2 u)
        ∧ u.tiles = s.tiles ∧ u.mem = s.mem ∧ u.comp = s.comp
        ∧ u.runner (p / 4) = { s.runner (p / 4) with integrity := min 0xFFFF ((s.runner (p / 4)).integrity + 1) })
    ∧ (s.intactOk m = true → s.findBunch m.bunch = none → exec r.1 s = .next (r.2.2 (rejected w m 2)))
    ∧ (∀ i, s.intactOk m = true → s.findBunch m.bunch = some i → m.seq + 1 ≤ tget 0 (s.bunch i).lastSeq (seqPlace m) →
        ((s.bunch i).lastRes.find? (fun e => e.1 == seqPlace m * 2 ^ 48 + m.seq % 2 ^ 48) = none →
          exec r.1 s = .next (r.2.2 (if m.cls = 0x04 then (duplicated v m).accept m res host else duplicated v m)))
        ∧ (∀ e, (s.bunch i).lastRes.find? (fun e => e.1 == seqPlace m * 2 ^ 48 + m.seq % 2 ^ 48) = some e →
            exec r.1 s = .next (r.2.2 (rejected (duplicated v m) m e.2))))
    ∧ (∀ i, s.intactOk m = true → s.findBunch m.bunch = some i → tget 0 (s.bunch i).lastSeq (seqPlace m) ≤ m.seq →
        (m.epoch = (s.bunch i).epoch + 1 → exec r.1 s = .next (r.2.2 (v.setBunch i { v.bunch i with
            lastSeq := tput (s.bunch i).lastSeq (seqPlace m) (m.seq + 1)
            heldMsgs := (s.bunch i).heldMsgs ++ [m] })))
        ∧ (m.epoch ≠ (s.bunch i).epoch + 1 → m.epoch ≠ (s.bunch i).epoch →
            (m.epoch + 1 = (s.bunch i).epoch → (s.bunch i).prevLive = false) →
            exec r.1 s = .next (r.2.2 (rejected (seen v m i) m 1)))
        ∧ (m.epoch = (s.bunch i).epoch → (s.bunch i).map.length ≤ m.dst →
            exec r.1 s = .next (r.2.2 (rejected ((seen v m i).countProtocol m.port) m 3)))
        ∧ (m.epoch = (s.bunch i).epoch → m.dst < (s.bunch i).map.length → (s.bunch i).map.length ≤ m.src →
            exec r.1 s = .next (r.2.2 (rejected (seen v m i) m 3)))
        ∧ (∀ d l, m.epoch = (s.bunch i).epoch → (s.bunch i).map[m.dst]? = some d → (s.bunch i).map[m.src]? = some l →
            (d.module ≠ 0 → exec r.1 s = .next (r.2.2 (rejected ((seen v m i).countProtocol m.port) m 3)))
            ∧ (d.module = 0 →
                l.gen ≠ m.srcGen ∨ ((s.tile d.tile).refusing = true ∧ s.movesShares d.tile = false)
                  ∨ (s.bunch i).leafLost d = true →
                exec r.1 s = .next (r.2.2 (rejected { seen v m i with
                  bram := { w.bram with refused := min 0xFFFF (s.bram.refused + 1) } } m 6))))))
  ∧ (∀ (s : State) (m : Msg) (i : Nat), s.findBunch m.bunch = some i →
      let x := s.bunch i
      let from' := ((x.mapFor m.epoch).getD x.map)[m.src]?
      (from' = none → s.hear m = s)
      ∧ ∀ l, from' = some l → s.hear m = if l.module = 0 ∨ l.module ∈ x.alive then s
          else s.setBunch i { x with alive := l.module :: x.alive })
  ∧ (∀ (s : State) (m : Msg) (res : Res) (host : HostBytes),
      ∀ r ∈ (messageRows m res host).zip (messageRows { m with answered := false } res host), exec r.1.1 s = exec r.2.1 s)
  ∧ ∀ (s : State) (m : Msg) (result i : Nat), m.answered = false → s.findBunch m.bunch = some i → s.bram.paused = false →
      s.pairOpen m.bunch m.dst m.src = true →
      ∃ a, (s.answer m result).out = .msg a :: s.out ∧ a.bunch = m.bunch ∧ a.cls = 0x01
        ∧ a.src = m.dst ∧ a.dst = m.src ∧ a.chan = 1 ∧ a.epoch = m.epoch ∧ a.len = 0 ∧ a.payload = []
        ∧ a.seq = tget 0 (s.bunch i).pairSeq (pairKey m.dst m.src)
        ∧ a.param = BitVec.ofNat 64 (m.seq % 2 ^ 48 + m.cls % 256 * 2 ^ 48 + result * 2 ^ 56)

/-- A message that passes its checks: one for a kernel whose tile has passed its FREEZE boundary is captured and
answered OK. Else SEND with room is held or matched, and answered OK; BAR and the collective messages join the
contributions and are answered OK; without room each waits. ROW and MARKER wait behind those of their origin, go to
their intake's round, wait for one to come, or are answered 8 for one gone by. PUT writes its payload where its handle
leads and is answered OK, or is rejected with the check or access that fails; GET_REQ is answered by a GET_REPLY with
the bytes, likewise; both wait where the tile's shares are in migration. GET_REPLY and ANSWER settle what they answer.
A RETURN is written to its slot and answered OK, and 8 for a round or slot that waits no more, 9 for another length.
CREDIT adds to the credits of its kind. FREEZE_MARK is noted. EPOCH notes the module that has drained. MEMBER_LOST
marks its ranks lost. HEARTBEAT is answered OK. -/
def Obligations.MessageDelivery : Prop :=
  ∀ (s : State) (m : Msg) (i : Nat) (d l : Leaf), Reaches s m i d l →
    let w := heard (s.landed m) m i l
    let t := d.tile
    let x := w.tile t
    (∀ b, w.capturing t l m = some b →
      ∀ r ∈ [(Instr.sendMessage m, 0x02), (.rowMessage m, 0x06), (.markerMessage m, 0x07), (.barMessage m, 0x0A),
          (.collSeqMessage m, 0x0B), (.collDataMessage m, 0x0C)], m.cls = r.2 →
        exec r.1 s = .next ((w.answer m 0).updBunch b (fun y => { y with
          captured := y.captured ++ [(t, { m with answered := true })] })))
    ∧ (w.capturing t l m = none →
      (m.cls = 0x02 → exec (.sendMessage m) s = .next (if x.unmatched.length < 64
        then ((w.holdSend t m).answer m 0).proceed t else waitsAt w t m))
      ∧ (x.core.run = none → w.holdSend t m = w.setTile t { x with unmatched := x.unmatched ++ [m] })
      ∧ (∀ r ∈ [(Instr.barMessage m, 0x0A), (.collSeqMessage m, 0x0B), (.collDataMessage m, 0x0C)], m.cls = r.2 →
          (x.contribRoom m = false → exec r.1 s = .next (waitsAt w t m))
          ∧ (x.contribRoom m = true → (∀ k o, x.core.run = some k → o ∈ x.ops → contribFor k o m = false) →
            exec r.1 s = .next (((w.setTile t { x with contribs := x.contribs ++ [m] }).answer m 0).proceed t))
          ∧ (x.core.run = none → x.contribRoom m = decide (m.param.toNat / 2 ^ 32 % 2 ^ 16 ≤ 4)))
      ∧ (∀ r ∈ [(Instr.rowMessage m, 0x06), (.markerMessage m, 0x07)], m.cls = r.2 →
          exec r.1 s = .next ((w.arriveRow t m).proceed t)
          ∧ (x.early.any (sameRoute m) = true → w.arriveRow t m = waitsAt w t m)
          ∧ (x.early.any (sameRoute m) = false →
              let n := m.param.toNat % 4
              let k := x.intake n
              let put := fun (y : Intake) => w.setTile t (x.setIntake n y)
              let whole := m.cls = 0x07 ∨ m.param.toNat / 2 ^ 24 % 256 ≤ m.param.toNat / 2 ^ 16 % 256 + 1
              (¬ whole → w.arriveRow t m
                = (put { k with parts := tput k.parts (partsKey m) (k.rowBytesOf m) }).answer m 0)
              ∧ (whole → k.timing (k.msgRound m) = 2 → w.arriveRow t m = waitsAt w t m)
              ∧ (whole → k.timing (k.msgRound m) = 1 → w.arriveRow t m
                  = (put { k with parts := tdel k.parts (partsKey m) }).answer m 8)
              ∧ (m.cls = 0x07 → k.timing (k.msgRound m) = 0 →
                  let y := { k with markers := if m.src ∈ k.markers then k.markers else k.markers ++ [m.src] }
                  w.arriveRow t m = (put (if y.origins ≤ y.markers.length then y.close false else y)).answer m 0)
              ∧ (m.cls = 0x06 → whole → k.timing (k.msgRound m) = 0 →
                  let row := (k.rowBytesOf m).drop 16
                  (row.length ≠ k.rowBytes →
                    w.arriveRow t m = (put { k with parts := tdel k.parts (partsKey m) }).answer m 9)
                  ∧ (row.length = k.rowBytes → rowSpilled m = false → rowBlock m = false → tget 0 k.counts m.src < k.quota →
                    let v := w.placeRow t n m.src false row (ofBytes ((k.rowBytesOf m).take 16))
                    let z := (v.tile t).intake n
                    w.arriveRow t m = (v.setTile t ((v.tile t).setIntake n
                      { z with parts := tdel z.parts (partsKey m) })).answer m 0)))))
    ∧ (m.cls = 0x03 → ∀ res, res ≠ .lost → s.servedNow m 1 = true →
        (∀ e, w.remoteLoc t t m 1 = .error e → exec (.putMessage m res) s = .next (w.answer m e))
        ∧ (∀ loc, w.remoteLoc t t m 1 = .ok loc →
            let sp := w.spots loc m.payload.length
            let r := w.targetRes t [] sp res
            (w.holdsRequest t sp = true → exec (.putMessage m res) s = .next (w.waitAt t m))
            ∧ (w.holdsRequest t sp = false →
              (r = .portFailed → exec (.putMessage m res) s = .next (w.answer m 10))
              ∧ (r = .refused → exec (.putMessage m res) s = .next ((w.countRefused sp r).answer m 6))
              ∧ (r = .hostRefused → exec (.putMessage m res) s = .next (w.answer m 11))
              ∧ (r = .lost → exec (.putMessage m res) s = .next w)
              ∧ (r = .ok → exec (.putMessage m res) s = .next (((w.traffic sp 1 t).writeSpots sp m.payload).answer m 0)))))
    ∧ (m.cls = 0x04 → ∀ res host, res ≠ .lost → s.servedNow m 0 = true →
        (∀ e, w.remoteLoc t t m 0 = .error e → exec (.getReqMessage m res host) s = .next (w.answer m e))
        ∧ (∀ loc, w.remoteLoc t t m 0 = .ok loc →
            let sp := w.spots loc m.len
            let r := w.targetRes t sp [] res
            (w.holdsRequest t sp = true → exec (.getReqMessage m res host) s = .next (w.waitAt t m))
            ∧ (w.holdsRequest t sp = false →
              (r = .portFailed → exec (.getReqMessage m res host) s = .next (w.answer m 10))
              ∧ (r = .refused → exec (.getReqMessage m res host) s = .next ((w.countRefused sp r).answer m 6))
              ∧ (r = .hostRefused → exec (.getReqMessage m res host) s = .next ((w.askHost sp).answer m 11))
              ∧ (r = .ok → s.bram.paused = false → s.pairOpen m.bunch m.dst m.src = true →
                ∃ u a ds, exec (.getReqMessage m res host) s = .next u ∧ u.out = .msg a :: ds ++ s.out
                  ∧ a.cls = 0x05 ∧ a.dst = m.src ∧ a.src = m.dst ∧ a.param = m.param ∧ a.payload = w.readSpots sp host
                  ∧ u.mem = s.mem ∧ ∀ k, { u.tile k with memBytes := (s.tile k).memBytes } = s.tile k))))
    ∧ (m.cls = 0x05 → ∀ o y,
        let want := fun (o : EngOp) (u : Sent) =>
          u.cls == 0x04 && u.dst == m.src && memParam o.ge.toNat (o.gf.toNat + 4096 * u.info) == m.param
        x.ops.find? (fun o => o.unans.any (want o)) = some o → o.unans.find? (want o) = some y →
        exec (.getReplyMessage m) s = .next ((((w.dropSent m.bunch m.dst m.src y.seq).writeAt t
          (o.gb.toNat + 4096 * y.info) m.payload).markOp t o.id (fun o => { o with unans := o.unans.erase y })).proceed t))
    ∧ (m.cls = 0x01 → ∀ o,
        let r := m.param.toNat / 2 ^ 56
        let seq := m.param.toNat % 2 ^ 48
        let cls := m.param.toNat / 2 ^ 48 % 256
        let is := fun (u : Sent) => u.dst == m.src && u.seq == seq && u.cls == cls
        x.ops.find? (fun o => o.unans.any is) = some o →
        (r = 0 → exec (.answerMessage m) s = .next (((w.dropSent m.bunch m.dst m.src seq).markOp t o.id (fun o =>
          { o with unans := o.unans.filter (fun u => !is u) })).proceed t))
        ∧ (r ≠ 0 → r ≠ 7 → r ≠ 12 → cls ≠ 0x06 →
          exec (.answerMessage m) s = .next (((w.dropSent m.bunch m.dst m.src seq).markOp t o.id (fun o =>
            { o with unans := o.unans.filter (fun u => !is u) }.fail seq (resDetail r))).proceed t)))
    ∧ (m.cls = 0x08 → s.returnOpen m = true →
        let part := m.param.toNat / 2 ^ 40 % 256
        let bs := (if part = 0 then [] else tget [] x.retParts (partsKey m)) ++ m.payload
        let key := m.param.toNat % 2 ^ 32 * 8 + m.param.toNat / 2 ^ 32 % 8
        let v := w.setTile t { x with retParts := tdel x.retParts (partsKey m) }
        let mark := fun (v : State) (q : Round) (n : Nat) => v.setTile t { v.tile t with
          rounds := (v.tile t).rounds.map (fun p => p.mark q.round.toNat key n) }
        let round := x.rounds.find? (fun q => q.round.toNat == tagRound (ofBytes (bs.take 16)))
        (part + 1 < m.param.toNat / 2 ^ 48 % 256 → exec (.returnMessage m) s
          = .next ((w.setTile t { x with retParts := tput x.retParts (partsKey m) bs }).answer m 0))
        ∧ (m.param.toNat / 2 ^ 48 % 256 ≤ part + 1 →
          (round = none → exec (.returnMessage m) s = .next (v.answer m 8))
          ∧ (∀ q, round = some q →
            (tget 2 q.slots key ≠ 0 → exec (.returnMessage m) s = .next (v.answer m 8))
            ∧ (tget 2 q.slots key = 0 → (bs.drop 16).length ≠ q.retBytes →
                exec (.returnMessage m) s = .next ((mark v q 3).answer m 9))
            ∧ (tget 2 q.slots key = 0 → (bs.drop 16).length = q.retBytes →
                let sp := v.vaSpots t (BitVec.ofNat 64 (q.cb.toNat
                  + (m.param.toNat % 2 ^ 32 * q.k + m.param.toNat / 2 ^ 32 % 8) * q.retBytes)) q.retBytes
                exec (.returnMessage m) s
                  = .next ((mark ((v.traffic sp 1 t).writeSpots sp (bs.drop 16)) q 1).answer m 0)))))
    ∧ (m.cls = 0x09 → exec (.creditMessage m) s = .next (((w.setTile t { x with
        credits := tput x.credits (creditKey (m.param.toNat % 256) m.src)
          (tget 0 x.credits (creditKey (m.param.toNat % 256) m.src) + ofBytes m.payload) }).answer m 0).proceed t))
    ∧ (m.cls = 0x10 → exec (.heartbeatMessage m) s = .next (w.answer m 0))
    ∧ (m.cls = 0x0D → exec (.freezeMarkMessage m) s = .next (((w.updBunch m.bunch (fun y =>
        if y.freezeNo + (if y.freezing.isSome then 0 else 1) = BitVec.ofNat 32 m.param.toNat then
          { y with marks := markKey t m.src m.chan :: y.marks } else y)).answer m 0).tryFrozen m.bunch))
    ∧ (m.cls = 0x0E → exec (.epochMessage m) s = .next ((((w.updBunch m.bunch (fun x =>
        if m.param.toNat / 2 ^ 16 % 2 ^ 8 = 1 ∧ BitVec.ofNat 16 m.param.toNat + 1 = x.epoch ∧ l.module ∉ x.drained then
          { x with drained := l.module :: x.drained } else x)).answer m 0).tryRetire m.bunch).goOn))
    ∧ (m.cls = 0x0F → exec (.memberLostMessage m) s = .next ((w.answer m 0).loseRanks m.bunch
        ((List.range (min (ofBytes m.payload) (s.bunch i).map.length)).map (m.param.toNat % 2 ^ 24 + ·))))

/-- EPOCH_HOLD_EXPIRE answers the oldest held message with STALE_EPOCH. EARLY_MESSAGE_TIMEOUT removes the oldest
waiting message of a tile; a sender on this module takes it out of its operation with MSG_TIMEOUT. MSG_TIMEOUT takes
the oldest unanswered message with its SEQ (MODEL'S READING, log 197) out of its operation, which keeps the detail of
the first failing answer, and of the quads. HEARTBEAT_SEND sends one to every other module of the bunch whose pair has
sequence numbers; HEARTBEAT_LOSS clears what was heard of a module, and a silent one loses its ranks. EPOCH_DRAIN_ZERO
of a bunch whose previous epoch has no traffic tells every other module; of a bunch of this module alone it retires
that epoch, and what waited for it goes on. -/
def Obligations.MessageTimers : Prop :=
  (∀ (s : State) (b : BitVec 32) (m : Msg) (r : List Msg), (s.bunchOf b).heldMsgs = m :: r →
    exec (.epochHoldExpire b) s = .next (rejected (s.updBunch b (fun x => { x with heldMsgs := r })) m 1))
  ∧ (∀ (s : State) (t : Nat) (m : Msg) (r : List Msg), (s.tile t).early = m :: r →
    let w := s.setTile t { s.tile t with early := r }
    let x := s.bunchOf m.bunch
    let is := fun (q : Sent) => q.dst == m.dst && q.seq == m.seq
    let sender := leafAt ((x.mapFor m.epoch).getD x.map) m.src
    (sender = none → exec (.earlyMessageTimeout t) s = .next w)
    ∧ (∀ u, sender = some u → (w.tile u).ops.find? (fun o => o.unans.any is) = none → exec (.earlyMessageTimeout t) s = .next w)
    ∧ (∀ u o, sender = some u → (w.tile u).ops.find? (fun o => o.unans.any is) = some o →
        exec (.earlyMessageTimeout t) s = .next ((w.markOp u o.id (fun o =>
          { o with unans := o.unans.filter (fun q => !is q) }.fail m.seq 0x2E)).proceed u)))
  ∧ (∀ (s : State) (t seq : Nat) (o : EngOp) (u : Sent), (s.tile t).sentWith seq = some (o, u) →
    let ends := fun (w : State) => ((w.markOp t o.id (fun p =>
      { p with unans := p.unans.erase u }.fail seq 0x2E)).proceed t)
    ((s.tile t).core.run = none → exec (.msgTimeout t seq) s = .next (ends s))
    ∧ (∀ r, (s.tile t).core.run = some r →
        exec (.msgTimeout t seq) s = .next (ends (s.dropSent r.bunch r.mrank u.dst seq))))
  ∧ (∀ (s : State) (b : BitVec 32), (s.bunchOf b).st ≠ 0 → (s.bunchOf b).otherModules ≠ [] → ((s.bunchOf b).lowestOn 0).isSome = true →
    (∀ k ∈ (s.bunchOf b).otherModules, ∀ src dst, (s.bunchOf b).lowestOn 0 = some src → (s.bunchOf b).lowestOn k = some dst →
      s.pairOpen b src dst = true) →
    ∃ u ms, exec (.heartbeatSend b) s = .next u ∧ u.out = ms ++ s.out ∧ ms.length = (s.bunchOf b).otherModules.length
      ∧ (∀ o ∈ ms, ∃ a, o = .msg a ∧ a.bunch = b ∧ a.cls = 0x10 ∧ a.payload = []) ∧ u.tiles = s.tiles ∧ u.mem = s.mem)
  ∧ (∀ (s : State) (b : BitVec 32) (k : Nat), (s.bunchOf b).st ≠ 0 → k ∈ (s.bunchOf b).otherModules →
    exec (.heartbeatLoss b k) s = .next (if k ∈ (s.bunchOf b).alive
      then s.updBunch b (fun x => { x with alive := x.alive.filter (· != k) })
      else s.declareLost b ((s.bunchOf b).ranksOn k)))
  ∧ (∀ (s : State) (b : BitVec 32), (s.bunchOf b).prevLive = true → (s.bunchOf b).sentDrained = false → s.oldTraffic b = false →
    ((s.bunchOf b).otherModules = [] →
      ∃ u : State, exec (.epochDrainZero b) s = .next u.goOn ∧ (u.bunchOf b).prevLive = false ∧ (u.bunchOf b).prevMap = []
        ∧ (u.bunchOf b).epoch = (s.bunchOf b).epoch ∧ u.tiles = s.tiles ∧ u.mem = s.mem ∧ u.comp.grafts = s.comp.grafts
        ∧ u.out = s.out)
    ∧ ((s.bunchOf b).otherModules ≠ [] →
      let e := BitVec.ofNat 64 (((s.bunchOf b).epoch - 1).toNat + 2 ^ 16)
      let told : State := (s.bunchOf b).otherModules.foldl (fun w k => w.sendToModule b k 0x0E 0 e []) s
      exec (.epochDrainZero b) s = .next (((told.updBunch b (fun x => { x with sentDrained := true })).tryRetire b).goOn)))
  ∧ ∀ (s : State), s.comp.grafts = [] → s.comp.waking = [] → (∀ e ∈ s.comp.bunches, e.2.st ≠ 6) → s.goOn = s

/-- KERNEL_BOUNDARY of a tile whose kernel has stopped or exited with no operation PENDING, not halted, gives the
state after the kernel's end, the FREEZE markers and the next dispatch. The outcome is the stop's status with its
trap, no trap for a safety stop; else 1 when a token is in ERROR unacknowledged or an error was left unacknowledged,
else 0. A kernel that is entered has pc = CODE, g1 to g4 = its arguments, every other register, predicate, token,
comparator and accumulator clear, the segments of its context with their names as they stand now (R238), the launch's
LAYER and OP, no operation, no held set, and its launch is out of its FIFO; the tile's other state and other tiles
stay. -/
def Obligations.KernelBoundary : Prop :=
  (∀ (s : State) (t : Nat), s.kernelDone t = true → (s.tile t).core.halted = false →
      exec (.kernelBoundary t) s = .next (((s.endKernel t).freezeBoundary t).dispatchTile t))
  ∧ (∀ c : Core,
      (∀ st, c.stop = some st → c.endStatus = (st.status, if st.safety = true then 0 else st.trap))
      ∧ (c.stop = none → c.unacked = true → c.endStatus = (1, 0))
      ∧ (∀ k, k < 16 → c.stop = none → (c.getTok k).st = 3 → (c.getTok k).acked = false → c.endStatus = (1, 0))
      ∧ (c.stop = none → c.unacked = false → (∀ k, k < 16 → (c.getTok k).st = 3 → (c.getTok k).acked = true) → c.endStatus = (0, 0)))
  ∧ (∀ (s : State) (t slot : Nat) (l : Launch) (rest : List Launch),
      let u := s.enterKernel t slot l rest
      let c := (u.tile t).core
      c.run = some (s.runOf t slot l) ∧ c.pc = l.code ∧ c.getG 0 = 0 ∧ (∀ i, i < 4 → c.getG (i + 1) = l.args.getD i 0)
        ∧ (∀ i, 5 ≤ i → c.getG i = 0) ∧ c.p = 0 ∧ c.tok = [] ∧ c.comps = [] ∧ c.v = [] ∧ c.m = [] ∧ c.td = []
        ∧ c.flags = 0 ∧ c.stall = .none ∧ c.stop = none ∧ c.unacked = false ∧ c.halted = false
        ∧ c.segs = (s.ctx l.ctx).segs ∧ c.names = (s.ctx l.ctx).names ∧ c.layer = l.layer ∧ c.op = l.op ∧ c.sigs = (s.tile t).core.sigs
        ∧ (u.tile t).ops = [] ∧ (u.tile t).held = none ∧ (u.tile t).movers = []
        ∧ ((u.tile t).slot slot).fifo = rest ∧ (∀ i, i ≠ slot → (u.tile t).slot i = (s.tile t).slot i)
        ∧ (u.tile t).role = (s.tile t).role ∧ (u.tile t).standby = (s.tile t).standby ∧ (u.tile t).base = (s.tile t).base
        ∧ (∀ k, k ≠ t → u.tile k = s.tile k) ∧ u.hif = s.hif ∧ u.comp = s.comp)

/-- CORE_LOCKSTEP stops the running kernel with SAFETY_FENCED, aborts every operation so that none is left, and
reports row 0 with its context; memory stays unless a mover operation had started. HANDSHAKE_STALL notes the fault and
reports row 3. PATROL_SCRUB of a written line counts a corrected error, or an uncorrectable one with its bank and row
1 for the granule's owner, and the line stays uncorrectable; a clean line changes nothing. WATCHDOG_EXPIRE of a kernel
that has used twice its BUDGET, at an instruction boundary, stops it with status and trap 7 and aborts every
operation; a kernel already stopped keeps its stop and its operations abort. WATCHDOG_ESCALATE after trap 7 resets the
tile. -/
def Obligations.TileFaults : Prop :=
  ∀ (s : State) (t : Nat),
    (∀ r, (s.tile t).core.run = some r → ∃ u, exec (.coreLockstep t) s = .next u
        ∧ Reported s u 0 (srcId 1 t) [r.launch.ctx] 0
        ∧ (u.tile t).ops = [] ∧ (u.tile t).core.stall = .exit ∧ u.hif = s.hif
        ∧ ((∀ o ∈ (s.tile t).ops, o.eng < 3 ∨ o.started = false) → u.mem = s.mem)
        ∧ ((s.tile t).core.stop = none → (u.tile t).core.stop = some { status := 8, safety := true })
        ∧ (∀ st, (s.tile t).core.stop = some st → st.safety = false →
            (u.tile t).core.stop = some { st with status := 8, safety := true })
        ∧ (∀ o ∈ (s.tile t).ops, ((u.tile t).core.getTok o.kd).st = 3))
    ∧ (s.hasTile t = true → ∃ u, exec (.handshakeStall t) s = .next u ∧ u.tile t = { s.tile t with stallFault := true }
        ∧ Reported s u 3 (srcId 1 t) (s.runCtx t).toList 0 ∧ (∀ k, k ≠ t → u.tile k = s.tile k) ∧ u.hif = s.hif ∧ u.mem = s.mem)
    ∧ (∀ line, line < 8388608 → s.hasTile t = true → s.lineWritten (tsAddr t (line * 64)) = true →
        let n := tsAddr t (line * 64) / 64
        let found := fun (res : Res) => s.moveRes [.dev (tsAddr t (line * 64)) none] [] res
        (∀ res, found res ≠ .corrected → found res ≠ .uncorrectable → exec (.patrolScrub t line res) s = .next s)
        ∧ (∀ res, found res = .corrected → exec (.patrolScrub t line res) s
          = .next (s.setTile t { s.tile t with ce := min 0xFFFFFF ((s.tile t).ce + 1) }))
        ∧ (∀ res, found res = .uncorrectable → ∃ u, exec (.patrolScrub t line res) s = .next u
            ∧ u.tile t = { s.tile t with ue := min 0xFFFF ((s.tile t).ue + 1), ueBank := bankOf (line * 64) }
            ∧ u.badLines = (if n ∈ s.badLines then s.badLines else s.badLines ++ [n]) ∧ u.mem = s.mem ∧ u.hif = s.hif
            ∧ Reported s u 1 (srcId 1 t) (s.granuleOwner t (line / 0x8000)).toList 0 ∧ (∀ k, k ≠ t → u.tile k = s.tile k))
        ∧ (s.spotRes (.dev (tsAddr t (line * 64)) none) = .ok →
            ∀ res, found res = if n ∈ s.badLines then .uncorrectable else res))
    ∧ (∀ r, (s.tile t).core.run = some r → (s.tile t).core.halted = false → (s.tile t).core.atBoundary = true →
        2 * r.launch.budget.toNat ≤ (s.pacer t - r.start).toNat →
        ((s.tile t).core.stop = none → ∃ u, exec (.watchdogExpire t) s = .next u ∧ (u.tile t).ops = []
            ∧ (u.tile t).core.stop = some { status := 7, trap := 7 } ∧ (u.tile t).core.stall = .exit
            ∧ (u.tile t).core.run = some r)
        ∧ (∀ st, (s.tile t).core.stop = some st → ∃ u, exec (.watchdogExpire t) s = .next u ∧ (u.tile t).ops = []
            ∧ (u.tile t).core.stop = some st ∧ u.hif = s.hif ∧ u.stone = s.stone
            ∧ ((∀ o ∈ (s.tile t).ops, o.eng < 3 ∨ o.started = false) → u.mem = s.mem)))
    ∧ (∀ r st, (s.tile t).core.run = some r → (s.tile t).core.stop = some st → st.trap = 7 →
        exec (.watchdogEscalate t) s = .next (s.resetOut t))

/-- WRITTEN_BIT_CLEAR_DONE ends the oldest clear: its granules read zero, and they join the share of the slot they
were for. SWAP_DONE, once the ports of the backing areas serve it, ends the swap as R387 orders it; a victim's slot is
free and its standby entry keeps context, DEADLINE, flags and launches; the context that comes in takes its slot with
a share of free granules. TILE_RESET and WATCHDOG_ESCALATE leave a tile that refuses, in TESTING, with a new
generation, no kernel, slots or operations and a store that reads zero. TILE_REJOIN of a tile that is in no repair,
graft or self-test ends the refusal with cleared slots and store, as SPARE with a new generation outside a bunch, and
votes are taken anew. A packet for a tile that is not ON waits and wakes it, but one for a BANKED quarter is refused
(R418); a tile without demand for 100 µs is warm no more and goes to the state of its votes. -/
def Obligations.TileStores : Prop :=
  ∀ (s : State) (t : Nat),
    (∀ bm slot rest, (s.tile t).clearing = (bm, slot) :: rest → s.hif.busy = none →
      ∃ u, exec (.writtenBitClearDone t) s = .next u ∧ (u.tile t).clearing = rest ∧ u.hif = s.hif
        ∧ (∀ g k, g < 256 → bm.getLsbD g = true → k < 0x200000 → t < 2 ^ 20 → u.peek (tsAddr t (g * 0x200000 + k)) = 0)
        ∧ (slot = none → u.tile t = { s.tile t with clearing := rest })
        ∧ (∀ i, slot = some i → (u.tile t).slot i = { (s.tile t).slot i with share := ((s.tile t).slot i).share ||| bm }))
    ∧ (∀ w, (s.tile t).swap = some w → s.accessOpen t t (s.swapSpots t w) = true →
        exec (.swapDone t) s = .next (s.swapEnd t w))
    ∧ (∀ i c e bm, (s.tile t).standby.find? (fun e => e.ctx == c) = some e →
        lowestBits (s.tile t).unowned 256 e.granules = some bm →
        let u := s.swapIn t i c
        (u.tile t).slot i = { valid := true, ctx := c, share := BitVec.ofNat 256 bm, deadline := e.deadline, flags := e.flags,
                              fifo := e.fifo }
          ∧ (u.tile t).standby = (s.tile t).standby.filter (fun d => d.ctx != c)
          ∧ (u.tile t).swaps = min 0xFFFF ((s.tile t).swaps + 1) ∧ ∀ k, k ≠ i → (u.tile t).slot k = (s.tile t).slot k)
    ∧ (∀ i, let sl := (s.tile t).slot i
        let u := s.swapOut t i
        (u.tile t).slot i = {} ∧ ∃ e, (u.tile t).standby = (s.tile t).standby ++ [e] ∧ e.ctx = sl.ctx ∧ e.deadline = sl.deadline
          ∧ e.fifo = sl.fifo ∧ e.flags = sl.flags ∧ e.rank = s.ctxRank sl.ctx t)
    ∧ (s.hasTile t = true → (s.tile t).role ≠ 3 → ∃ u, exec (.tileReset t) s = .next u ∧ (u.tile t).refusing = true
        ∧ (u.tile t).core.run = none ∧ (u.tile t).core.stop = none ∧ (u.tile t).ops = [] ∧ (u.tile t).slots = []
        ∧ (u.tile t).held = none ∧ (u.tile t).standby = [] ∧ (u.tile t).swap = none ∧ (u.tile t).role = 2
        ∧ tget 0 u.stone.gens t = tget 0 s.stone.gens t + 1
        ∧ ∀ off, off < 0x20000000 → u.peek (tsAddr t off) = 0)
    ∧ (s.hasTile t = true → (s.tile t).refusing = true → (s.tile t).role ≠ 3 → (s.dom t).st = 2 → t ∉ s.stone.inTurn →
        (∀ r ∈ s.stone.reacts, r.reaction ≠ 3 ∨ unitTile r.row r.src r.detail ≠ some t) →
        (∀ g ∈ s.comp.grafts, 2 ≤ g.kind ∨ g.out ≠ t) → ∃ w : State,
        exec (.tileRejoin t) s = .next w.revote ∧ (w.tile t).refusing = false ∧ (w.tile t).slots = []
          ∧ (w.tile t).core = { sigs := (s.tile t).core.sigs } ∧ (w.tile t).noLaunch = false
          ∧ tget 0 w.stone.gens t = tget 0 s.stone.gens t + (if s.tileBunch t = 0 then 1 else 0)
          ∧ (w.tile t).role = (if s.tileBunch t = 0 then 1 else (s.tile t).role)
          ∧ ∀ off, off < 0x20000000 → w.peek (tsAddr t off) = 0)
    ∧ (s.hasTile t = true → s.banked (quarterOf t) = true → exec (.endpointPacketArrival t) s
        = .next (s.countRefused [] .refused))
    ∧ (s.hasTile t = true → s.banked (quarterOf t) = false → (s.dom t).st ≠ 2 → exec (.endpointPacketArrival t) s
        = .next ((s.setTile t { s.tile t with buffered := (s.tile t).buffered + 1 }).evalDom t))
    ∧ (s.hasTile t = true → s.demand t = false → exec (.demandIdleTimeout t) s
        = .next ((s.setDom t { s.dom t with warm := false }).evalDom t))

/-- A quad that trains becomes READY by QUAD_TRAINED with fresh counts and the partner's parameters, after it has sent
training frames with the module's identifier and its own parameters in a CTRL flit; the READY quads of a port have one
partner; training is full, and saves partner, lane order and coefficients, exactly when the saved training does not
fit or the quad retries; messages that waited then go out. TRAINING_TIMEOUT leaves it DOWN with fault 0x0402 and
TRAINING_RETRY trains it again, fully, where the port has a partner (R28). ACK_TIMEOUT resends everything
unacknowledged. QUAD_DOWN of a READY quad is the state of its fall with fault 0x0400; a quad without an owner or
messages then retrains, or stays DOWN when its port is disabled, with one more fall counted and everything else of the
link clear. No tile, memory byte or other quad changes in these. -/
def Obligations.QuadStates : Prop :=
  ∀ (s : State) (x : Nat),
    (∀ full rev kind partner bufs retry, s.training x = true →
        (full = true ↔ ((s.quad x).retries = true ∨ (s.runner (x / 4)).stored ≠ some partner
          ∨ ∀ e ∈ (s.runner (x / 4)).laneMap, e ≠ (x % 4, rev))) →
        (∀ j, j < 4 → (s.quad (x / 4 * 4 + j)).st = 3 →
          (s.runner (x / 4)).kind = kind ∧ (s.runner (x / 4)).partner = partner) →
        ∃ w : State, exec (.quadTrained x full rev kind partner bufs retry) s = .next w.flushWaits
          ∧ w.quad x = { st := 3, full := full, reversed := rev, replays := (s.quad x).replays, downs := (s.quad x).downs,
                         bufs := bufs, partnerRetry := retry }
          ∧ w.out = .flit x ({ s.quad x with rxSeq := 0, freed := 0 }.ctrl false true) :: .training x Config.deviceId full :: s.out
          ∧ (w.runner (x / 4)).kind = kind ∧ (w.runner (x / 4)).partner = partner
          ∧ (full = true → (w.runner (x / 4)).stored = some partner ∧ tget false (w.runner (x / 4)).laneMap (x % 4) = rev)
          ∧ (full = false → w.runner (x / 4) = { s.runner (x / 4) with kind := kind, partner := partner })
          ∧ (∀ y, y ≠ x → w.quad y = s.quad y) ∧ w.tiles = s.tiles ∧ w.mem = s.mem ∧ w.comp = s.comp
          ∧ (∀ i, i < 4 → (tget {} w.lanes (4 * x + i) : Lane).locked = true)
          ∧ ((s.dom (156 + x / 4)).held = true → (w.dom (156 + x / 4)).held = s.boot.maint))
    ∧ (s.training x = true → ∃ u, exec (.trainingTimeout x) s = .next u ∧ u.quad x = { s.quad x with st := 4 }
        ∧ u = (s.setQuad x { s.quad x with st := 4 }).fault (srcId 4 (x / 4)) 0x0402 none false (BitVec.ofNat 64 (x % 4)))
    ∧ (s.hasRunner (x / 4) = true → Config.hasPartner (x / 4) = true → (s.runner (x / 4)).disabled = false → (s.quad x).st = 4 →
        exec (.trainingRetry x) s = .next (s.setQuad x { s.quad x with st := 2, retries := true }))
    ∧ ((s.quad x).st = 3 → (s.quad x).retry ≠ [] → exec (.ackTimeout x) s = .next (s.setQuad x { s.quad x with
        resend := (s.quad x).retry.length, replays := min 0xFFFF ((s.quad x).replays + 1) }))
    ∧ (∀ why, s.hasRunner (x / 4) = true → (s.quad x).st = 3 → s.downDue x why = true →
        exec (.quadDown x why) s = .next ((s.quadDown x).quadFault x 0x0400)
        ∧ (tget 0 s.comp.quadOwner x = 0 → (s.quad x).txq = [] → (s.quad x).unans = [] → s.comp.waits = [] → ∃ u,
            exec (.quadDown x why) s = .next u
            ∧ u.quad x = { st := if (s.runner (x / 4)).disabled = true then 4 else 2, full := (s.quad x).full,
                           reversed := (s.quad x).reversed, replays := (s.quad x).replays,
                           downs := min 0xFFFF ((s.quad x).downs + 1) }
            ∧ (∀ y, y ≠ x → u.quad y = s.quad y) ∧ u.tiles = s.tiles ∧ u.mem = s.mem ∧ u.comp = s.comp
            ∧ u.runners = s.runners ∧ (∀ i, i < 4 → (tget {} u.lanes (4 * x + i) : Lane).locked = false)))

/-- On a READY quad that carries traffic each flit comes through the port's crossing, and its codewords add open
numbers to its lanes' FEC counts (log 196). One with a bad CRC asks once for a NAK and is dropped. A good flit frees
what its ACK covers. A DATA flit in order is taken: the expected SEQ advances, its bytes join its channel's message,
and the flit that ends a message frees that channel's buffers and makes a CTRL flit due. DATA out of order is dropped
like a bad CRC. A reserved TYPE takes the quad DOWN with fault 0x0403. An IDLE or SKIP flit only acknowledges. A CTRL
flit sets the credits, and a NAK in it resends from the flit it names; parameters in it replace the partner's and make
this quad's due. On a quad that carries traffic each FLIT_SLOT sends one flit: a CTRL flit with a NAK when one is due;
else channel TC, a flit sent again before a new one; else a SKIP after 4,096 slots without one; else a CTRL flit due
for 256 slots; else a flit sent again; else a new flit of the arbitrated channel; else a CTRL flit when due; else an
IDLE flit with the ACK of now. A new DATA flit enters the retry buffer and takes the next SEQ. Memory, tiles and the
other quads stay. -/
def Obligations.Flits : Prop :=
  (∀ (s : State) (x : Nat) (f : BitVec 512), s.hasRunner (x / 4) = true → s.quadUp x = true →
     let w := s.flitIn x f
     let q := s.quad x
     let a := q.acked (fACK f)
     let dropped := fun (k : Quad) => if k.nakking = true then k else { k with nakking := true, nakDue := true }
     (crcGood f = false → exec (.dataFlitRx x f) s = .next (w.setQuad x (dropped q))
       ∧ exec (.ctrlFlitRx x f) s = .next (w.setQuad x (dropped q)))
     ∧ (crcGood f = true →
         (4 ≤ fTYPE f → exec (.dataFlitRx x f) s = .next ((w.quadDown x).quadFault x 0x0403))
         ∧ (fTYPE f = 0 ∨ fTYPE f = 3 → exec (.dataFlitRx x f) s = .next (w.setQuad x a))
         ∧ (fTYPE f = 1 → fSEQ f ≠ q.rxSeq → exec (.dataFlitRx x f) s = .next ((w.setQuad x a).setQuad x (dropped a)))
         ∧ (fTYPE f = 1 → fSEQ f = q.rxSeq →
             let parts := (if fSOM f = true then [] else tget [] q.rxq (fVC f)) ++ [fDATA f]
             ∃ u, exec (.dataFlitRx x f) s = .next u ∧ u.tiles = s.tiles ∧ u.mem = s.mem ∧ u.comp = s.comp
               ∧ (∀ y, y ≠ x → u.quad y = s.quad y)
               ∧ (fEOM f = false → u.quad x = { a with
                   rxSeq := q.rxSeq + 1, nakking := false, rxq := tput a.rxq (fVC f) parts })
               ∧ (fEOM f = true → u.quad x = { a with
                   rxSeq := q.rxSeq + 1, nakking := false, rxq := tput a.rxq (fVC f) [], freed := addCh a.freed (fVC f) parts.length,
                   ctrlDue := true }))
         ∧ (fTYPE f = 2 → ∃ u, exec (.ctrlFlitRx x f) s = .next (if f.getLsbD 33 = true
               then (w.setQuad x u).setRunner (x / 4) { s.runner (x / 4) with
                 kind := fld f.toNat 128 8 % 4, partner := BitVec.ofNat 64 (fld f.toNat 192 64) }
               else w.setQuad x u)
             ∧ u.credits = BitVec.ofNat 64 (fld f.toNat 64 64)
             ∧ (f.getLsbD 32 = false → u.resend = a.resend ∧ u.replays = a.replays)
             ∧ (∀ i, f.getLsbD 32 = true → findIdx (fun k => fSEQ k == BitVec.ofNat 12 (fld f.toNat 48 16)) a.retry 0 = some i →
                 u.resend = a.retry.length - i ∧ u.replays = min 0xFFFF (a.replays + 1))
             ∧ (f.getLsbD 33 = false → u.bufs = a.bufs ∧ u.partnerRetry = a.partnerRetry ∧ u.paramDue = a.paramDue)
             ∧ (f.getLsbD 33 = true → u.bufs = BitVec.ofNat 64 (fld f.toNat 256 64) ∧ u.partnerRetry = fld f.toNat 320 16
                 ∧ u.paramDue = true ∧ u.ctrlDue = true)
             ∧ u.retry = a.retry ∧ u.rxSeq = q.rxSeq ∧ u.txq = q.txq ∧ u.rxq = q.rxq))
     ∧ (∃ lanes, w = { s.crossUp (32 + x / 4) (toBytes 64 f.toNat) with fresh := s.fresh + 1, lanes := lanes }
         ∧ ∀ i, i < 4 → let l : Lane := tget {} s.lanes (4 * x + i)
             ∃ c u, c < 16 ∧ u < 2 ∧ (tget {} lanes (4 * x + i) : Lane) = { l with
               fecC := min 0xFFFFFFFF (l.fecC + c), fecU := if crcGood f = true then l.fecU else min 0xFFFF (l.fecU + u) })
     ∧ (∀ i, findIdx (fun k => fSEQ k == fACK f) q.retry 0 = some i → a.retry = q.retry.drop (i + 1))
     ∧ (findIdx (fun k => fSEQ k == fACK f) q.retry 0 = none → a = q))
  ∧ (∀ (s : State) (x : Nat), s.hasRunner (x / 4) = true → s.quadUp x = true →
       let q := (s.quad x).tick
       ∃ u f, exec (.flitSlot x) s = .next u ∧ u.out = .flit x f :: s.out ∧ u.mem = s.mem ∧ u.tiles = s.tiles ∧ u.comp = s.comp
         ∧ (∀ y, y ≠ x → u.quad y = s.quad y) ∧ u.hif = s.hif ∧ u.runners = s.runners
         ∧ (q.nakDue = true → f = q.ctrl true q.paramDue
             ∧ u.quad x = { q with nakDue := false, ctrlDue := false, ctrlAge := 0, paramDue := false })
         ∧ (q.nakDue = false → q.againVc = none → q.ready 0 = true →
             (u.quad x).txSeq = q.txSeq + 1 ∧ (u.quad x).retry = q.retry ++ [f])
         ∧ (q.nakDue = false → q.againVc ≠ some 0 → q.ready 0 = false → 4095 ≤ q.skip →
             f = mkFlit (3 * 2 ^ 28 + q.ack.toNat) 0 ∧ u.quad x = { q with skip := 0 })
         ∧ (q.nakDue = false → q.againVc ≠ some 0 → q.ready 0 = false → q.skip < 4095 → 256 ≤ q.ctrlAge →
             f = q.ctrl false q.paramDue ∧ u.quad x = { q with ctrlDue := false, ctrlAge := 0, paramDue := false })
         ∧ (q.nakDue = false → q.againVc = none → q.ready 0 = false → q.skip < 4095 → q.ctrlAge < 256 →
             (q.pick (s.runner (x / 4)).arb = none →
               (q.ctrlDue = true → f = q.ctrl false q.paramDue
                 ∧ u.quad x = { q with ctrlDue := false, ctrlAge := 0, paramDue := false })
               ∧ (q.ctrlDue = false → f = mkFlit q.ack.toNat 0 ∧ u.quad x = q))
             ∧ (∀ c, q.pick (s.runner (x / 4)).arb = some c → tget [] q.txq c ≠ [] →
                 (u.quad x).txSeq = q.txSeq + 1 ∧ (u.quad x).retry = q.retry ++ [f]))
         ∧ (∀ v r g, q.nakDue = false → q.againVc = some v →
             (v = 0 ∨ (q.ready 0 = false ∧ q.skip < 4095 ∧ q.ctrlAge < 256)) →
             q.retry.drop (q.retry.length - q.resend) = g :: r →
               f = reAck g q.ack ∧ u.quad x = { q with resend := q.resend - 1 }))

/-- A training port becomes READY and its held pads are free outside MAINTENANCE; dispatch units that waited for a
port go on, as at a window's end. A port that fails shows FAILED, keeps its contents, and reports row 12. A read that
a requester has made passes the port's crossing and moves the port's queue level; a clean one changes no more, an
uncorrectable one with a clean mirror copy is served from it once the ports give credits for the rewrite, and counts
MIRROR_READS and fault 0x0303, and otherwise ends its requester. A window's end latches its bytes, opens the next, and
sets default floors unless explicit. ZQ_CALIBRATION only counts. MIRROR_REBUILD_DONE makes the segment name the new
port. Peel leaves a granule zero and CLEAN; one failed readback makes it failed once, a second withheld with fault
0x0302. -/
def Obligations.MemoryPorts : Prop :=
  ∀ (s : State) (m : Nat), s.hasPort m = true →
    ((s.port m).st = 1 → ∃ u : State, exec (.memportTrainingDone m) s = .next u.unitsGo
        ∧ u.port m = { s.port m with st := if (s.dom (140 + m)).st = 1 then 3 else 2 } ∧ u.mem = s.mem
        ∧ u.tiles = s.tiles ∧ ((s.dom (140 + m)).held = true → (u.dom (140 + m)).held = s.boot.maint))
    ∧ ((s.port m).st ≠ 4 → ∃ u, exec (.memportFailed m) s = .next u ∧ (u.port m).st = 4 ∧ u.mem = s.mem
        ∧ (u.port m).ranges = (s.port m).ranges
        ∧ u.stone.faults = s.stone.faults ++ [{ row := 12, src := srcId 3 m, ctxs := [], detail := 0 }])
    ∧ ((s.port m).st = 2 →
        (∀ off who p, s.lineRead who m off = some p → s.portServes m = true →
          let mi := (s.otherCopy p).isSome
          let w := ((s.portLevel m).crossDown (16 + m) (toBytes 8 off)).crossUp (16 + m) (s.peekN (lpAddr m (off / 64 * 64)) 64)
          (∀ mc, exec (.memportReadComplete m off who true mi mc) s = .next w)
          ∧ (∀ k, s.otherCopy p = some k → (w.port m).credits 73 = true → (w.port (fld k 40 4)).credits 73 = true →
              exec (.memportReadComplete m off who false mi true) s = .next (w.mirrorServed (lpAddr m off) k))
          ∧ (∀ mc u, (mc = true → s.otherCopy p = none) → w.portUe who p = some u →
              exec (.memportReadComplete m off who false mi mc) s = .next u)
          ∧ (∀ t rd wt n sx va, who = .core t → (s.tile t).core.stall = .load rd wt n sx va →
              w.portUe who p = some (w.accessStop t [p] .uncorrectable))
          ∧ (∀ k, off < 2 ^ 40 → ∃ v : State, (v.port m).ce = min 0xFFFFFF ((w.port m).ce + 1)
              ∧ w.mirrorServed (lpAddr m off) k
                = v.fault (srcId 3 m) 0x0303 none false (BitVec.ofNat 64 ((v.port m).blockAt off))))
        ∧ (∃ occ th, occ ≤ 256 ∧ (192 < occ → th = true) ∧ (occ < 128 → th = false)
          ∧ s.portLevel m = { s.setPort m { s.port m with occ := occ, throttling := th } with fresh := s.fresh + 1 })
        ∧ (∃ u : State, exec (.bandwidthWindowEnd m) s = .next u.unitsGo ∧ (u.port m).latched = (s.port m).bytes
            ∧ ((s.port m).backlog = [] → (u.port m).bytes = [] ∧ (u.port m).masters = [])
            ∧ (u.port m).latchedWin = (s.port m).window ∧ (u.port m).window = (s.port m).window + 1
            ∧ ((s.port m).explicit = true → (u.port m).floors = (s.port m).floors)
            ∧ u.tiles = s.tiles ∧ u.mem = s.mem ∧ (∀ k, k ≠ m → u.port k = s.port k))
        ∧ exec (.zqCalibration m) s = .next (s.count (68 + m) 9 1)
        ∧ (∀ g ok, s.peelable m g = true → exec (.peelGranuleDone m g ok) s = .next (s.peeled m g ok)
            ∧ (s.comp.grants = [] → s.comp.grafts = [] → s.comp.waking = [] → (∀ e ∈ s.comp.bunches, e.2.st ≠ 6) → tget 0 ((s.peeled m g ok).port m).granules g
                  = (if ok = true then 2 else if tget 0 (s.port m).granules g = 4 then 3 else 4)
                ∧ (∀ k, k < 0x4000000 → memGet (s.peeled m g ok).mem (lpAddr m (g * 0x4000000 + k)) = 0)
                ∧ (s.peeled m g ok).tiles = s.tiles ∧ (s.peeled m g ok).comp = s.comp)))
    ∧ (∀ c seg lost u, s.rebuilt c seg lost m = some u → exec (.mirrorRebuildDone c seg lost m) s = .next u
        ∧ tget 0 (u.ctx c).segs seg = withPorts (tget 0 (s.ctx c).segs seg)
            (swapBit (segPorts (tget 0 (s.ctx c).segs seg)) lost m) (swapBit (segMports (tget 0 (s.ctx c).segs seg)) lost m))

/-- ROUTER_FAILED of a router in service discards packets whose routes it cuts, makes that router FAILED with what
this does to its unit, and reports row 15; the host's router ends there, and else the routers it cuts off fail
likewise, and injection pauses until new tables, unless the MGC is away. A tile whose router fails is RETIRED and OFF
for good, a port FAILED, a runner's trained quads DOWN. Each ROUTER_DRAINED while paused notes one router; the last
one gives the next route generation, ends the pause, empties the list, makes new tables avoid every failed router,
sends ROUTE_RESUME, then each source resolves its outstanding requests, and a reaction that waited for it ends (R445).
A range is cut into packets of at most 512 bytes that cover it once and of which none crosses a 4 KiB boundary. -/
def Obligations.RouteAround : Prop :=
  ∀ (s : State) (i : Nat),
    (∀ why, s.hasRouter i = true → s.routerFailed i = false →
      let w := (s.discard [i]).cutRouter i
      w.stone.faults = w.stone.faults.dropLast ++ [{ row := 15, src := srcId 6 i, ctxs := [], detail := 0 }]
        ∧ (i = hostRouter → exec (.routerFailed i why) s = .next w)
        ∧ (i ≠ hostRouter →
            let v : State := w.cutOff.foldl (fun v k => v.cutRouter k) (w.discard w.cutOff)
            (v.mgcAway = true → exec (.routerFailed i why) s = .next v)
            ∧ (v.mgcAway = false → ∃ u, exec (.routerFailed i why) s = .next u ∧ u.out = .routePause :: v.out
                ∧ u.bram = { v.bram with paused := true, around := true, empty := [] } ∧ u.tiles = v.tiles ∧ u.mem = v.mem
                ∧ u.comp = v.comp ∧ u.stone = v.stone)))
    ∧ (∀ t, routerUnit i = some (0, t) →
        ∃ w : State, s.unitCut i = w.revote ∧ (w.tile t).role = 3 ∧ (w.tile t).refusing = true ∧ (w.tile t).core.run = none
          ∧ (w.tile t).slots = [] ∧ t ∈ w.stone.retired)
    ∧ (∀ m, routerUnit i = some (1, m) → ((s.unitCut i).port m).st = 4 ∧ (s.unitCut i).tiles = s.tiles ∧ (s.unitCut i).mem = s.mem)
    ∧ (∀ x, routerUnit i = some (2, x) → s.hasRunner x = true → (∀ j, j < 4 → (s.quad (4 * x + j)).st ≠ 3) →
        (∀ j, j < 4 → ((s.unitCut i).quad (4 * x + j)).st = if (s.quad (4 * x + j)).st = 1 then 1 else 4) ∧ (s.unitCut i).tiles = s.tiles ∧ (s.unitCut i).mem = s.mem)
    ∧ (s.bram.paused = true → s.mgcAway = false → s.hasRouter i = true → s.routerFailed i = false → i ∉ s.bram.empty →
        let noted := { s with bram := { s.bram with empty := s.bram.empty ++ [i] } }
        ((∃ k, k < 128 ∧ k ≠ i ∧ s.hasRouter k = true ∧ s.routerFailed k = false ∧ k ∉ s.bram.empty) →
          exec (.routerDrained i) s = .next noted)
        ∧ ((∀ k, k < 128 → s.hasRouter k = true → s.routerFailed k = false → k = i ∨ k ∈ s.bram.empty) →
          ∃ (w : State) (o : Nat), exec (.routerDrained i) s = .next (State.settleSafe (w.resolveAll (s.routers.filter s.routerFailed)
              (s.tileNos.flatMap (fun t => (noted.lostSents (s.routers.filter s.routerFailed) t).map (fun p => (t, p))))))
            ∧ w.bram.cut = [] ∧ w.out = .routeResume o :: s.out ∧ w.bram.gen = s.bram.gen + 1
            ∧ w.bram.paused = false ∧ w.bram.around = false ∧ w.bram.empty = [] ∧ w.bram.routers = s.bram.routers
            ∧ (∀ k ∈ s.routers, s.routerFailed k = true → k ∈ w.bram.avoid)
            ∧ (∀ k ∈ w.bram.avoid, k ∈ s.routers ∧ (s.routerFailed k = true ∨ (s.dom (136 + k / 32)).st ≠ 2))
            ∧ w.tiles = s.tiles ∧ w.mem = s.mem ∧ w.comp = s.comp))
    ∧ (∀ a n, ((packetsOf a n).map Prod.snd).foldl (· + ·) 0 = n
        ∧ ∀ p ∈ packetsOf a n, 0 < p.2 ∧ p.2 ≤ 512 ∧ a ≤ p.1 ∧ p.1 + p.2 ≤ a + n ∧ p.1 / 4096 = (p.1 + p.2 - 1) / 4096)

namespace Sys2Proof.Claims

/-- The frame that carries a management command. -/
def frameOf : Instr → Option Frame
  | .composeBunch f _ _ _ _ _ _ _ => some f
  | .dissolveBunch f _ => some f
  | .rangeGrant f _ _ => some f
  | .rangeRelease f _ _ => some f
  | .tileReplace f _ _ _ => some f
  | .tileMove f _ _ _ _ _ _ => some f
  | .rangeRelocate f _ _ _ _ => some f
  | .rangeMove f _ _ _ => some f
  | .quadMove f _ _ => some f
  | .detachRelease f _ => some f
  | .freeze f _ => some f
  | .thaw f _ => some f
  | .halt f _ => some f
  | .resume f _ => some f
  | .bunchReset f _ => some f
  | .setPerfMode f _ => some f
  | .setOrchCap f _ => some f
  | .setFloors f _ _ => some f
  | .setVcArb f _ _ => some f
  | .setPowerPolicy f _ _ => some f
  | .orchVote f _ _ => some f
  | .portDisable f _ => some f
  | .rowAcknowledge f _ => some f
  | .selftestRequest f _ => some f
  | .close f => some f
  | .quote f _ => f
  | .credSet f _ _ => some f
  | .credClear f _ => some f
  | .unclaim f => some f
  | .keyInstall f _ _ _ => some f
  | .keyAgreeBegin f => some f
  | .keyAgree f _ _ _ => some f
  | .keyAccept f _ _ _ => some f
  | .keyActivate f _ _ => some f
  | .keyDestroy f _ _ => some f
  | .imageKeyInstall f _ _ _ => some f
  | .confSet f _ => some f
  | .fwWrite f _ => some f
  | .fwTrial f => some f
  | .fwCommit f _ => some f
  | .fwUpdate f _ => some f
  | .maintEnter f => some f
  | .maintLeave f => some f
  | .factoryUnlock f _ => some f
  | .bunchActivate f _ => some f
  | .setBankKeep f _ _ => some f
  | .moduleReset (.orchestrator f _) => some f
  | _ => none
/-- The composition change that a management command asks for (R417). -/
def changeOf : Instr → Option (Frame × Change)
  | .composeBunch f id parent members ranges quads host encrypt => some (f, .compose id parent members ranges quads host encrypt)
  | .bunchActivate f b => some (f, .activate b)
  | .dissolveBunch f b => some (f, .dissolve b)
  | .rangeGrant f b r => some (f, .grant b r)
  | .rangeRelease f b m => some (f, .release b m)
  | _ => none
/-- The command answers its frame: the next state is `u` with the response of status `st` sent. -/
def Answers (c : Instr) (s : State) (f : Frame) (u : State) (st : BitVec 16) : Prop := exec c s = .next (u.respond f st [])

end Sys2Proof.Claims

/-- While the management channel's crossing does not run (R427, R430) or the MGC restarts (R509) no frame arrives: the
model refuses each of these commands by name (log 204). Else a command of a session is discarded when its tag fails,
its SEQ does not exceed the last accepted, or no such session is open: nothing changes but the session's count of
discards, and the sixteenth consecutive one closes the session. An accepted frame's SEQ becomes the last accepted and
clears the count, so the same frame is not accepted twice. A response carries the session's next SEQ, the status, the
command's SEQ and a TAG under the session's device key, and advances the next SEQ. -/
def Obligations.ManagementFrames : Prop :=
  (∀ (s : State) (c : Instr) (f : Frame), frameOf c = some f → s.mgmtOpen = false → exec c s = .refused (.notEnabled "MGMT_FRAME"))
  ∧ (∀ (s : State) (c : Instr) (f : Frame), frameOf c = some f → s.mgmtOpen = true → s.frameOk f = false → exec c s = .next (s.discardFrame f))
  ∧ (∀ (s : State) (f : Frame), (s.openSession f.sid = none → s.frameOk f = false ∧ s.discardFrame f = s)
      ∧ ∀ x, s.openSession f.sid = some x →
        (s.frameOk f = true ↔ f.tagOk = true ∧ x.seqIn < f.seq.toNat)
        ∧ (x.discards = 15 → (s.discardFrame f).openSession f.sid = none)
        ∧ (s.sec.sessions.find? (fun y => y.sid == f.sid) = some x →
          (x.discards < 15 → (s.discardFrame f).openSession f.sid = some { x with discards := x.discards + 1 })
          ∧ (s.takeFrame f).openSession f.sid = some { x with seqIn := f.seq.toNat, discards := 0 }
          ∧ (s.takeFrame f).frameOk f = false
          ∧ ∀ status body, (s.respond f status body).out
                = .mgmt f.sid x.seqOut status (toBytes 8 f.seq.toNat ++ body)
                    (some (Config.kmac256 x.d2c 6 (mgmtFrame f.sid x.seqOut status (toBytes 8 f.seq.toNat ++ body)))) :: s.out
              ∧ (s.respond f status body).openSession f.sid = some { x with seqOut := x.seqOut + 1 }
              ∧ (s.respond f status body).mem = s.mem ∧ (s.respond f status body).tiles = s.tiles
              ∧ (s.respond f status body).comp = s.comp))

/-- In an accepted frame COMPOSE_BUNCH with members that can join, free quads and grantable ranges makes a FORMING
record with its members, parent and quads and answers OK, BUSY for an identifier in use, RESOURCE without a free
record or with too many leaves, BAD_ARGUMENT for a leaf listed twice. BUNCH_ACTIVATE puts a FORMING bunch in service;
DISSOLVE_BUNCH puts the bunch in DISSOLVING and removes its record, ranges and quads once no previous epoch of its
ancestors is live; a queue, a graft, or a key with a range makes it BUSY. RANGE_GRANT of CLEAN granules gives the
range under a new identity (log 172); RANGE_RELEASE takes it unless a key or graft holds it; DETACH_RELEASE frees the
entry. An unknown name answers BAD_ARGUMENT. A change that could be made but names a unit that is not ON waits and has
votes taken for it (R417); it is made and answered once its units are ON. -/
def Obligations.BunchCommands : Prop :=
  ∀ (s : State) (f : Frame), s.mgmtOpen = true → s.frameOk f = true →
    let w := s.takeFrame f
    let on := fun (ch : Change) => w.unitsOn (w.changeUnits ch) = true
    (∀ c ch, changeOf c = some (f, ch) → ((w.change ch).status = 0 ∧ ¬ on ch →
        exec c s = .next (State.revote { w with comp := { w.comp with waking := w.comp.waking ++ [(f, ch)] } }))
      ∧ ((w.change ch).status ≠ 0 → Answers c s f (w.change ch).s (w.change ch).status))
    ∧ (∀ (v : State) (e : Frame × Change), v.comp.waking = [e] → (v.mgcAway = true → v.wakeChanges = v)
        ∧ (v.mgcAway = false → (v.change e.2).status = 0 → v.unitsOn (v.changeUnits e.2) = false → v.wakeChanges = v)
        ∧ (v.mgcAway = false → v.unitsOn (v.changeUnits e.2) = true →
            let r := (v.change e.2).s.respond e.1 (v.change e.2).status []
            ∃ l, v.wakeChanges = State.revote { r with comp := { r.comp with waking := l } }))
    ∧ (∀ id parent members ranges quads host encrypt,
      id ≠ 0 → id ≠ parent → (∀ m ∈ members, w.memberOk id parent m = true) → members.eraseDups.length = members.length →
      (∀ q ∈ quads, w.quadFree q = true) → quads.eraseDups.length = quads.length → (∀ r ∈ ranges, w.grantOk id r = true) →
      (ranges.map (·.port)).eraseDups.length = ranges.length → (parent = 0 ∨ (w.bunchOf parent).st = 1) →
      let c := Instr.composeBunch f id parent members ranges quads host encrypt
      ((w.findBunch id).isSome = true → Answers c s f w 0x12)
      ∧ (w.findBunch id = none → w.freeRecord = none → Answers c s f w 0x0E)
      ∧ (∀ i, w.findBunch id = none → w.freeRecord = some i →
          let t := w.compose i id parent members ranges quads host encrypt
          (leavesApart (t.bunchOf id).map = false → Answers c s f w 0x14)
          ∧ (leavesApart (t.bunchOf id).map = true → (∃ b ∈ t.ancestors 257 id, 16777215 < (t.bunchOf b).map.length + t.comingInto b) →
            Answers c s f w 0x0E)
          ∧ (leavesApart (t.bunchOf id).map = true → (∀ b ∈ t.ancestors 257 id, (t.bunchOf b).map.length + t.comingInto b ≤ 16777215) →
            on (.compose id parent members ranges quads host encrypt) →
          Answers c s f t 0
            ∧ (t.bunch i).st = 1 ∧ (t.bunch i).id = id ∧ (t.bunch i).parent = parent ∧ (t.bunch i).members = members
            ∧ ∀ q ∈ quads, tget 0 t.comp.quadOwner q = id)))
    ∧ (∀ b, (w.findBunch b = none → Answers (.bunchActivate f b) s f w 0x14 ∧ Answers (.dissolveBunch f b) s f w 0x14)
      ∧ ((w.findBunch b).isSome = true →
        ((w.bunchOf b).st = 1 → w.keyReady b = true → on (.activate b) → Answers (.bunchActivate f b) s f
          ((w.updBunch b (fun x => { x with st := w.liveState b })).changed.revote) 0)
        ∧ ((w.bunchOf b).st ≠ 1 ∨ w.keyReady b = false → Answers (.bunchActivate f b) s f w 0x12)
        ∧ ((∀ c ∈ w.ctxsOf b, w.queuesOf c = []) → w.grafting b = false → (w.bunchOf b).st ≠ 6 →
            ((∀ m, m < 16 → (w.port m).rangeOf b = none) ∨ ∀ k ∈ w.sec.jobKeys, k.bunch ≠ b) → on (.dissolve b) →
            let v := w.updBunch b (fun x => { x with st := 6 })
            ((∃ a ∈ (v.ancestors 257 b).drop 1, (v.bunchOf a).prevLive = true) → Answers (.dissolveBunch f b) s f v 0)
            ∧ ((∀ a ∈ (v.ancestors 257 b).drop 1, (v.bunchOf a).prevLive = false) →
              Answers (.dissolveBunch f b) s f (v.dissolve b) 0
                ∧ ∃ y : State, v.dissolve b = ((y.epochUp (w.bunchOf b).parent).changed).revote ∧ y.findBunch b = none
                  ∧ (∀ k ∈ y.comp.quadOwner, k.2 ≠ b) ∧ (∀ g ∈ y.comp.grants, g.1 ≠ b) ∧ y.tiles = w.tiles ∧ y.mem = w.mem))
        ∧ (∀ c ∈ w.ctxsOf b, w.queuesOf c ≠ [] → Answers (.dissolveBunch f b) s f w 0x12)
        ∧ (w.grafting b = true ∨ (w.bunchOf b).st = 6 → Answers (.dissolveBunch f b) s f w 0x12)
        ∧ (∀ m k, m < 16 → (w.port m).rangeOf b ≠ none → k ∈ w.sec.jobKeys → k.bunch = b →
            Answers (.dissolveBunch f b) s f w 0x12)))
    ∧ (∀ b r, (w.findBunch b).isSome = true → w.grantOk b r = true → on (.grant b r) → ∃ t, Answers (.rangeGrant f b r) s f t 0
        ∧ (w.comp.grants = [] → w.runClean r.port r.base r.len = true →
            (t.port r.port).rangeFor b = { valid := true, base := r.base, len := r.len, owner := b, home := w.comp.grantNo + 1 }
              ∧ t.comp.grants = [])
        ∧ (w.comp.grants = [] → w.runClean r.port r.base r.len = false →
            t = { w with comp := { w.comp with grants := [(b, r)] } }))
    ∧ (∀ b r, w.findBunch b = none ∨ w.grantOk b r = false → Answers (.rangeGrant f b r) s f w 0x14)
    ∧ (∀ b m, ((w.port m).rangeOf b = none → Answers (.rangeRelease f b m) s f w 0x14)
        ∧ (((w.port m).rangeOf b).isSome = true →
          ((∀ k ∈ w.sec.jobKeys, k.bunch ≠ b) → w.grafting b = false → on (.release b m) →
            Answers (.rangeRelease f b m) s f ((w.dropRange b m).changed.revote) 0)
          ∧ (w.grafting b = true ∨ (∃ k ∈ w.sec.jobKeys, k.bunch = b) → Answers (.rangeRelease f b m) s f w 0x12)))
    ∧ (∀ d, ((tget {} w.comp.detach d : Detach).valid = true → Answers (.detachRelease f d) s f
          ({ w with comp := { w.comp with detach := tdel w.comp.detach d } }.changed) 0)
        ∧ ((tget {} w.comp.detach d : Detach).valid = false → Answers (.detachRelease f d) s f w 0x14))

/-- In an accepted frame each graft command on bunches that may take part answers OK and enters its graft, which waits
while a previous epoch of its bunches is live or a unit that it names has still to wake, and then begins: at a tile
graft the outgoing tile accepts no further launch; a RANGE_MOVE sends the range through Peel. A quad with nothing to
send whose bunches have no live previous epoch changes owner at once. A bunch that is unknown answers BAD_ARGUMENT,
one in a graft, FROZEN, HALTED or being frozen BUSY, and shares or entries that do not fit, a tile beyond the usable
count, or leaves beyond the limit RESOURCE. GRAFT_DRAIN_DONE of a drained tile graft lists the shares of a member to
copy in order, or goes on when there are none; once they have moved, it is the end of what still held the graft
(R244). SHARE_COPY_DONE with room for the next share disposes of it, by a move to the tile that takes it or by the
reserve, counts lines that could not be read and reports them as row 1, and goes on after the last: the maps change
when no previous epoch lives and no command holds a frame in the store left. A moved share keeps its slot state, its
DEADLINE in the pacer of its new tile; one without a DEADLINE stays so (log 170); the outgoing tile keeps it until it
is cleared. RANGE_COPY_DONE finishes a relocation once no previous epoch lives, its ports serve it, and no command
holds a frame in it. QUAD_RETRY_EMPTY gives the empty quad to its gaining bunch and ends its graft. -/
def Obligations.Grafts : Prop :=
  (∀ (s : State) (f : Frame), s.mgmtOpen = true → s.frameOk f = true →
     let w := s.takeFrame f
     (∀ b out inc,
       (∀ e, w.graftBad b = some e → Answers (.tileReplace f b out inc) s f w e)
       ∧ (∀ e, w.graftBad b = none → w.graftBadOpt (w.tileBunch inc) = some e → Answers (.tileReplace f b out inc) s f w e)
       ∧ (w.graftBad b = none → w.graftBadOpt (w.tileBunch inc) = none →
         (w.lists b out = false ∨ w.incomingOk b inc = false → Answers (.tileReplace f b out inc) s f w 0x14)
         ∧ (w.lists b out = true → w.incomingOk b inc = true →
           (((Member.tile out ∈ (w.bunchOf b).members → w.replaceFits out inc = true) ∧ w.replaceServes b out inc = true) →
             Answers (.tileReplace f b out inc) s f (w.beginGraft (replaceGraft b out inc 0)) 0)
           ∧ ((Member.tile out ∈ (w.bunchOf b).members ∧ w.replaceFits out inc = false) ∨ w.replaceServes b out inc = false →
             Answers (.tileReplace f b out inc) s f w 0x0E))))
     ∧ (∀ g : Graft, g ∉ w.comp.grafts →
         let v := State.revote { w with comp := { w.comp with grafts := w.comp.grafts ++ [g] } }
         (v.graftWaits g = true ↔ w.prevLives g = true ∨ v.unitsOn (graftUnits g) = false)
         ∧ (v.graftWaits g = true → w.beginGraft g = v)
         ∧ (v.graftWaits g = false → ∃ u, w.beginGraft g = u ∧ u.mem = v.mem ∧ u.hif = v.hif ∧ u.comp.bunches = w.comp.bunches
             ∧ (g.kind ≤ 1 → u.comp.grafts = w.comp.grafts ++ [{ g with step := 1 }]
                 ∧ u.tile g.out = { v.tile g.out with noLaunch := true } ∧ (∀ k, k ≠ g.out → u.tile k = v.tile k)
                 ∧ u.ports = v.ports)
             ∧ (2 ≤ g.kind → u.comp.grafts = w.comp.grafts ++ [{ g with step := 3 }] ∧ u.tiles = v.tiles)
             ∧ (g.kind = 3 → u.port g.port = (v.port g.port).dirty ((v.port g.port).rangeFor g.bunch).base
                 ((v.port g.port).rangeFor g.bunch).len)
             ∧ (g.kind = 2 → u.ports = v.ports)))
     ∧ (∀ b, (w.findBunch b = none → w.graftBad b = some 0x14)
         ∧ ((w.findBunch b).isSome = true → w.grafting b = true ∨ 4 ≤ (w.bunchOf b).st → w.graftBad b = some 0x12))
     ∧ (∀ t losing gaining pos heir reserve, w.graftBadOpt losing = none → w.graftBadOpt gaining = none → w.hasTile t = true →
         losing ≠ gaining → (w.tile t).role ≠ 2 → (w.tile t).role ≠ 3 → w.tileBunch t = losing → w.inGraft t = false →
         (w.tile t).refusing = false → (∀ h, heir = some h → h ≠ t ∧ w.tileBunch h = losing) →
         (w.moveFits t losing heir reserve = true → (losing = 0 → (w.tile t).role ≠ 0 → w.mayServe = true) →
           w.gainFits losing gaining = true →
           Answers (.tileMove f t losing gaining pos heir reserve) s f (w.beginGraft
             { kind := 1, bunch := losing, gaining, out := t, inc := t, pos, heir, reserve, step := 0, why := 0, todo := [],
               port := 0, first := 0 }) 0)
         ∧ (w.moveFits t losing heir reserve = false ∨ (losing = 0 ∧ (w.tile t).role ≠ 0 ∧ w.mayServe = false)
             ∨ w.gainFits losing gaining = false →
           Answers (.tileMove f t losing gaining pos heir reserve) s f w 0x0E))
     ∧ (∀ b m newPort newFirst, w.graftBad b = none → ((w.port m).rangeFor b).valid = true →
         w.rangeFree newPort newFirst ((w.port m).rangeFor b).len = true →
         (newPort = m ∨ w.rangeTaken b newPort = false) →
         (w.runClean newPort newFirst ((w.port m).rangeFor b).len = true →
           ∃ g : Graft, Answers (.rangeRelocate f b m newPort newFirst) s f (w.beginGraft g) 0
             ∧ g.kind = 2 ∧ g.bunch = b ∧ g.gaining = b ∧ g.out = m ∧ g.port = newPort ∧ g.first = newFirst)
         ∧ (w.runClean newPort newFirst ((w.port m).rangeFor b).len = false →
           Answers (.rangeRelocate f b m newPort newFirst) s f w 0x12))
     ∧ (∀ b m gaining, w.graftBad b = none → w.graftBad gaining = none → ((w.port m).rangeFor b).valid = true → b ≠ gaining →
         w.rangeTaken gaining m = false →
         (w.rangeUsed b m = false → ∃ g : Graft, Answers (.rangeMove f b m gaining) s f (w.beginGraft g) 0
             ∧ g.kind = 3 ∧ g.bunch = b ∧ g.gaining = gaining ∧ g.port = m ∧ g.first = ((w.port m).rangeFor b).base)
         ∧ (w.rangeUsed b m = true → Answers (.rangeMove f b m gaining) s f w 0x12))
     ∧ (∀ x gaining, let losing := tget 0 w.comp.quadOwner x
         w.graftBadOpt losing = none → w.graftBadOpt gaining = none → x < 16 → w.hasRunner (x / 4) = true → losing ≠ gaining →
         (losing = 0 → w.quadFree x = true) → (∀ g ∈ w.comp.grafts, g.kind ≠ 4 ∨ g.out ≠ x) → ∃ g : Graft,
           g.kind = 4 ∧ g.bunch = losing ∧ g.gaining = gaining ∧ g.out = x
           ∧ (w.quadDone g = true → Answers (.quadMove f x gaining) s f (w.moveQuad g) 0)
           ∧ (w.quadDone g = false → Answers (.quadMove f x gaining) s f (w.beginGraft g) 0)
           ∧ (w.quadDone g = true ↔ (losing = 0 ∨ w.quadEmpty x = true) ∧ w.graftWaits g = false ∧ w.waitsUpdate g = false)
           ∧ ∃ v : State, w.moveQuad g = (((v.graftGone g).flushWaits).changed).revote
               ∧ tget 0 v.comp.quadOwner x = gaining ∧ (∀ y, y ≠ x → tget 0 v.comp.quadOwner y = tget 0 w.comp.quadOwner y)
               ∧ v.tiles = w.tiles ∧ v.mem = w.mem ∧ v.quads = w.quads))
  ∧ (∀ s : State,
       (∀ b g, s.tileGraft b 1 = some g → s.drained g = true →
         let todo := if (s.bunchOf g.bunch).members.contains (.tile g.out) then s.copyOrder g.out else []
         let h := { g with step := 2, todo }
         (todo = [] → exec (.graftDrainDone b) s = .next ((s.setGraft g h).sharesMoved h))
         ∧ (todo ≠ [] → ∃ u, exec (.graftDrainDone b) s = .next u ∧ h ∈ u.comp.grafts ∧ u.tiles = s.tiles
             ∧ u.mem = s.mem ∧ u.comp.bunches = s.comp.bunches))
       ∧ (∀ b g, s.tileGraft b 1 = none → s.tileGraft b 3 = some g →
           (s.tileHeld g = false → exec (.graftDrainDone b) s = .next (s.finishTile g))
           ∧ (s.tileHeld g = false ↔ s.prevLives g = false ∧ s.mgcAway = false
               ∧ (Member.tile g.out ∈ (s.bunchOf g.bunch).members → s.framesHeld (frameOn g.out) = false)))
       ∧ (∀ h : Graft, let k := { h with step := 3 }
           let v := s.setGraft h k
           (v.tileHeld k = true → s.sharesMoved h = v) ∧ (v.tileHeld k = false → s.sharesMoved h = v.finishTile k))
       ∧ (∀ b g c rest bad, s.tileGraft b 2 = some g → s.mgcAway = false → g.todo = c :: rest →
         (s.granulesOn g.out c = 0 ∨ s.shareRoom g c = true) → s.framesHeld (frameOn g.out) = false →
         let lines := (s.unreadable g.out (s.shareOn g.out c) bad).filterMap (storeLine g.out (s.shareOn g.out c))
         let p := s.graftShare g c bad
         let h := { p.2 with todo := rest }
         let v := (p.1.setGraft g h).copyUe g.out c lines
         exec (.shareCopyDone b bad) s = .next (if rest.isEmpty = true then v.sharesMoved h else v))
       ∧ (∀ t c, s.copyUe t c [] = s)
       ∧ (∀ t c n l, Reported s (s.copyUe t c (n :: l)) 1 (srcId 1 t) [c] 0)
       ∧ (∀ out inc c i j bm bad, out ≠ inc → (s.tile out).slotOf c = some i → (s.tile inc).freeSlot = some j →
           (s.tile inc).lowestFree 0 (popCount ((s.tile out).slot i).share.toNat 256) = some bm →
           let u := s.moveShare out inc c bad
           let d := ((s.tile out).slot i).deadline
           u.tile out = s.tile out
             ∧ (u.tile inc).slot j = { (s.tile out).slot i with share := bm, deadline := s.movedDeadline out inc d }
             ∧ (d = BitVec.allOnes 64 → s.movedDeadline out inc d = d)
             ∧ (d ≠ BitVec.allOnes 64 → s.movedDeadline out inc d = d + (s.pacer inc - s.pacer out))
             ∧ ∀ k, k ≠ j → (u.tile inc).slot k = (s.tile inc).slot k)
       ∧ (∀ b g, s.comp.grafts.find? (fun g => g.kind == 2 && g.bunch == b && g.step == 3) = some g → s.prevLives g = false →
           s.waitsUpdate g = false → s.rebuildOpen g = true →
           s.framesHeld (frameIn g.out ((s.port g.out).rangeFor b).base ((s.port g.out).rangeFor b).len) = false →
           exec (.rangeCopyDone b) s = .next (s.finishRelocate g))
       ∧ (∀ x g, s.comp.grafts.find? (fun g => g.kind == 4 && g.out == x) = some g → (g.bunch = 0 ∨ s.quadEmpty x = true) →
           s.graftWaits g = false → s.waitsUpdate g = false → exec (.quadRetryEmpty x) s = .next (s.moveQuad g)))

/-- In an accepted frame: FREEZE of a root bunch in service begins, or waits for a graft; a FROZEN bunch answers OK
and stays. THAW of a FROZEN root returns it to service, delivers the messages captured in it and in those within it,
takes votes anew and lets its tiles choose. HALT stops each of the bunch's control cores where it is, keeps what its
watchdog has left, and marks the bunch HALTED; RESUME of a HALTED bunch lets them go on. A reset of a known bunch
resets its tiles and counts a change. A nested or unknown bunch answers BAD_ARGUMENT, a state that forbids the command
BUSY. -/
def Obligations.FreezeAndHalt : Prop :=
  ∀ (s : State) (f : Frame) (b : BitVec 32), s.mgmtOpen = true → s.frameOk f = true →
    let w := s.takeFrame f
    let x := w.bunchOf b
    (w.findBunch b = none → Answers (.freeze f b) s f w 0x14 ∧ Answers (.thaw f b) s f w 0x14 ∧ Answers (.halt f b) s f w 0x14
        ∧ Answers (.resume f b) s f w 0x14 ∧ Answers (.bunchReset f b) s f w 0x14)
    ∧ ((w.findBunch b).isSome = true →
      (x.parent ≠ 0 → Answers (.freeze f b) s f w 0x14 ∧ Answers (.thaw f b) s f w 0x14)
      ∧ (x.parent = 0 →
        (x.st = 4 ∨ x.freezing.isSome = true → Answers (.freeze f b) s f w 0)
        ∧ (x.freezing = none → x.st = 1 ∨ 5 ≤ x.st → Answers (.freeze f b) s f w 0x12)
        ∧ (x.freezing = none → x.st = 2 ∨ x.st = 3 →
          ((∃ g ∈ w.comp.grafts, ∃ k ∈ w.graftBunches g, w.nestedIn k b = true) →
            Answers (.freeze f b) s f (w.updBunch b (fun x => { x with wantFreeze := true })) 0)
          ∧ ((∀ g ∈ w.comp.grafts, ∀ k ∈ w.graftBunches g, w.nestedIn k b = false) →
            Answers (.freeze f b) s f (w.beginFreeze b) 0))
        ∧ (x.st ≠ 4 → Answers (.thaw f b) s f w 0x12)
        ∧ (x.st = 4 →
            Answers (.thaw f b) s f
              ((((w.nestedDeep b).foldl (fun u i => u.deliverAll i) (w.liveNested b).revote).holdOverdue b).dispatchBunch b) 0
            ∧ ∀ (u : State) (i : BitVec 32), u.deliverAll i = (u.bunchOf i).captured.foldl (fun u e => u.deliverCaptured e.1 e.2)
                (u.updBunch i (fun y => { y with captured := [] }))))
      ∧ (x.conf = true ∨ x.st = 1 ∨ x.st = 4 ∨ x.st = 6 → Answers (.halt f b) s f w 0x12)
      ∧ (x.conf = false → x.st ≠ 1 → x.st ≠ 4 → x.st ≠ 6 →
          (∀ a ∈ w.ancestors 257 b, (w.bunchOf a).freezing = none ∧ (w.bunchOf a).wantFreeze = false) →
          ∃ u, Answers (.halt f b) s f u 0 ∧ (b ≠ 0 → (u.bunchOf b).st = 5) ∧ u.mem = w.mem ∧ u.hif = w.hif
            ∧ ∀ p ∈ x.localLeaves, ∀ r, (w.tile p.2).core.run = some r → (u.tile p.2).core.halted = true
              ∧ (u.tile p.2).core.pc = (w.tile p.2).core.pc ∧ (u.tile p.2).core.stall = (w.tile p.2).core.stall
              ∧ (u.tile p.2).core.g = (w.tile p.2).core.g
              ∧ ∃ q, (u.tile p.2).core.run = some q
                ∧ q.left = some (r.left.getD (r.start + BitVec.ofNat 64 (2 * r.launch.budget.toNat) - w.pacer p.2)))
      ∧ (x.st ≠ 5 → Answers (.resume f b) s f w 0x12)
      ∧ (x.st = 5 → let v := (w.liveNested b).resumeUp b
          Answers (.resume f b) s f (((((v.bunchOf b).localLeaves.foldl (fun s p => s.resumeTile p.2) v)).holdOverdue b).dispatchBunch b) 0)
      ∧ Answers (.bunchReset f b) s f ((w.resetBunch b).changed) 0)

/-- In an accepted frame SET_PERF_MODE, SET_ORCH_CAP (held within the variant's range), SET_POWER_POLICY, ORCH_VOTE 0
to 2 on a domain the variant has (held with the vote of composition commands in progress; after a thermal shutdown no
vote acts), SET_BANK_KEEP, SET_FLOORS, SET_VC_ARB and PORT_DISABLE set what they name, change nothing else of the
module but what that sets off, and answer OK; a name or value outside the limits answers BAD_ARGUMENT. The tray cap
written by I3C is held within the same range, and an assigned address may raise the In-Band Interrupt. -/
def Obligations.OrchestratorSettings : Prop :=
  (∀ (s : State) (f : Frame), s.mgmtOpen = true → s.frameOk f = true →
    let w := s.takeFrame f
    (∀ free, Answers (.setPerfMode f free) s f { w with pwr := { w.pwr with free := free } } 0)
    ∧ (∀ n, Answers (.setOrchCap f n) s f { w with pwr := { w.pwr with
        orchCap := max (capLow w.boot.variant) (min (maxPowerOf w.boot.variant) n) } } 0)
    ∧ (∀ b k, (w.findBunch b = none → Answers (.setPowerPolicy f b k) s f w 0x14)
        ∧ ((w.findBunch b).isSome = true →
          Answers (.setPowerPolicy f b k) s f (w.updBunch b (fun x => { x with keepIdle := k })).revote 0))
    ∧ (∀ d v, (w.hasDom d = false ∨ 3 ≤ v → Answers (.orchVote f d v) s f w 0x14)
        ∧ (w.hasDom d = true → v < 3 →
            let u := (w.setDom d { w.dom d with orch := v }).vote d 2 (max v (w.composeVote d))
            Answers (.orchVote f d v) s f u 0
            ∧ (w.pwr.shut = false → fld (u.dom d).votes.toNat 4 2 = max v (w.composeVote d)) ∧ (u.dom d).orch = v
            ∧ (w.pwr.shut = true → u = w.setDom d { w.dom d with orch := v })
            ∧ (d < 136 ∨ 140 ≤ d → ∀ k, k ≠ d → k ≠ 68 + d → u.dom k = w.dom k)))
    ∧ (∀ q keep, (quartersOf w.boot.variant ≤ q → Answers (.setBankKeep f q keep) s f w 0x14)
        ∧ (q < quartersOf w.boot.variant → Answers (.setBankKeep f q keep) s f
            { w with pwr := { w.pwr with keep := tput w.pwr.keep q keep } } 0))
    ∧ (∀ m fl, (w.hasPort m = false → Answers (.setFloors f m fl) s f w 0x14)
        ∧ (w.hasPort m = true →
          Answers (.setFloors f m none) s f (w.setPort m { w.port m with
            explicit := false, stale := false, floors := w.defaultFloors m }) 0
          ∧ (∀ l, w.floorsOk l = false → Answers (.setFloors f m (some l)) s f w 0x14)
          ∧ (∀ l, l.length ≤ 73 → (∀ n ∈ l, n % 64 = 0) → l.foldl (· + ·) 0 ≤ 393216 →
              (∀ p ∈ (List.range l.length).zip l, p.2 = 0 ∨ w.hasMaster p.1 = true) →
              Answers (.setFloors f m (some l)) s f (w.setPort m { w.port m with
                explicit := true, floors := ((List.range l.length).zip l).filter (fun p => p.2 != 0) }) 0)))
    ∧ (∀ p v, (arbOk v = false → Answers (.setVcArb f p v) s f w 0x14)
        ∧ (arbOk v = true → Answers (.setVcArb f none v) s f { w with bram := { w.bram with arb := v } } 0
          ∧ ∀ x, (w.hasRunner x = true → Answers (.setVcArb f (some x) v) s f
                (w.setRunner x { w.runner x with arb := v }) 0)
            ∧ (w.hasRunner x = false → Answers (.setVcArb f (some x) v) s f w 0x14)))
    ∧ (∀ x, (w.hasRunner x = false → Answers (.portDisable f x) s f w 0x14)
        ∧ (w.hasRunner x = true → Answers (.portDisable f x) s f (w.disablePort x) 0
            ∧ ((∀ j, j < 4 → (w.quad (4 * x + j)).st = 1 ∨ (w.quad (4 * x + j)).st = 4 ∨ ((w.quad (4 * x + j)).txq = []
                  ∧ (w.quad (4 * x + j)).unans = [] ∧ tget 0 w.comp.quadOwner (4 * x + j) = 0)) → w.comp.waits = [] →
                (w.disablePort x).runner x = { w.runner x with disabled := true }
                ∧ (∀ j, j < 4 → let q := w.quad (4 * x + j)
                    (w.disablePort x).quad (4 * x + j) = if q.st = 1 ∨ q.st = 4 then q else
                      { st := 4, full := q.full, reversed := q.reversed, replays := q.replays, downs := min 0xFFFF (q.downs + 1) })
                ∧ (∀ y, y / 4 ≠ x → (w.disablePort x).quad y = w.quad y)
                ∧ (w.disablePort x).tiles = w.tiles ∧ (w.disablePort x).mem = w.mem ∧ (w.disablePort x).comp = w.comp))))
  ∧ (∀ (s : State) (n : BitVec 16), exec (.i3cTrayCapWrite n) s = .next { s with pwr := { s.pwr with
      trayCap := max (capLow s.boot.variant) (min (maxPowerOf s.boot.variant) n.toNat) } })
  ∧ ∀ (s : State) (a : BitVec 7), exec (.i3cAddressAssign a) s = .next ({ s with boot := { s.boot with i3cAddr := some a } } : State).signal

/-- An estimate tick holds R407's estimate, keeps every steered tile's voltage between 0.520 and 0.720 V and every
other tile's as it was, and notes an unmet cap only while the cap is exceeded; CAP_UNMET_CLEAR ends it. A calibration
window holds the measured power, input and the ratios of eight windows, against the sum of the window's own estimates
(log 186), leaves first use after twenty, and a ratio outside 0.80 to 1.25 diverges with fault 0x0804 until eight good
windows. VIN_RANGE outside 38 to 52 V sets its flag with fault 0x0800. A sample joins the latest readings of the
sensors that it does not name; plausible readings set the alert at 100 °C and the thermal flag at 105 °C, and a new
one reports row 20 at 120 °C. VDD_LOW reports row 19, REGULATOR row 21. -/
def Obligations.PowerEvents : Prop :=
  ∀ s : State,
    (∀ act, ∃ u, exec (.powerEstimateTick act) s = .next u ∧ u.pwr.estimate = s.estimateOf act
        ∧ (∀ t, t ∈ s.steered → 1040 ≤ (tget {} u.pwr.tiles t : TilePwr).vdd ∧ (tget {} u.pwr.tiles t : TilePwr).vdd ≤ 1440)
        ∧ (∀ t, t ∉ s.steered → (tget {} u.pwr.tiles t : TilePwr) = tget {} s.pwr.tiles t)
        ∧ (({ s with pwr := { s.pwr with estimate := s.estimateOf act } } : State).overCap = false →
            u.pwr.capUnmet = s.pwr.capUnmet)
        ∧ u.tiles = s.tiles ∧ u.mem = s.mem ∧ u.hif = s.hif ∧ u.comp = s.comp)
    ∧ (s.pwr.capUnmet = true → s.overCap = false →
        exec (.capUnmetClear) s = .next ({ s with pwr := { s.pwr with capUnmet := false } } : State).signal)
    ∧ (∀ est mea rail vin iin, let sum := s.pwr.energySum
        ∃ u, exec (.calibrationWindow est mea rail vin iin) s = .next u
        ∧ u.pwr.measured = min 0xFFFF (mea / 100) ∧ u.pwr.vin = vin ∧ u.pwr.iin = iin
        ∧ u.pwr.calWindows = min 0xFFF (s.pwr.calWindows + 1)
        ∧ (u.pwr.firstUse = true ↔ s.pwr.firstUse = true ∧ min 0xFFF (s.pwr.calWindows + 1) < 20)
        ∧ u.pwr.energySum = 0
        ∧ (sum ≠ 0 → mea ≠ 0 → u.pwr.ratios = ((mea * 16384 * 100 / sum, rail * 65536 / mea) :: s.pwr.ratios).take 8)
        ∧ (80 * sum ≤ 10000 * mea → 10000 * mea ≤ 125 * sum → u.hif = s.hif
            ∧ (s.pwr.diverged = none → u.pwr.diverged = none)
            ∧ (∀ n, s.pwr.diverged = some n → u.pwr.diverged = if 7 ≤ n then none else some (n + 1)))
        ∧ (10000 * mea < 80 * sum ∨ 125 * sum < 10000 * mea → u.pwr.diverged = some 0))
    ∧ (∀ vin, vinOk vin = false → ∃ u, exec (.vinRange vin) s = .next u ∧ u.pwr = { s.pwr with vin := vin, vinRange := true }
        ∧ u.mem = s.mem ∧ u.tiles = s.tiles
        ∧ u = (({ s with pwr := { s.pwr with vin := vin, vinRange := true } } : State).fault (srcId 8 0) 0x0800 none false 0).signal)
    ∧ (∀ l, s.sampleOk l = true → let all := l.foldl (fun t p => tput t p.1 p.2) s.pwr.temps
        (∀ p ∈ all, sensorBad all p.1 p.2 = false) → ∃ u, exec (.thermalSample l) s = .next u
        ∧ u.pwr.temps = all
        ∧ (u.pwr.tjAlert = true ↔ ∃ p ∈ all, 400 ≤ p.2) ∧ (u.pwr.thermal = true ↔ ∃ p ∈ all, 420 ≤ p.2)
        ∧ u.pwr.badSensors = [] ∧ u.pwr.hot = (all.filter (fun p => 440 ≤ p.2)).map Prod.fst
        ∧ (∀ p ∈ l, p.1 < 68 → 0 ≤ p.2 → p.2 ≤ 1023 → (∀ q ∈ all, q.1 = p.1 → q = p) → (tget {} u.pwr.tiles p.1 : TilePwr).tj = p.2.toNat)
        ∧ (∀ p ∈ l, 480 ≤ p.2 → { row := 20, src := srcId 8 0, ctxs := [], detail := BitVec.ofNat 64 p.1 } ∈ u.stone.faults)
        ∧ ((∀ p ∈ all, (∃ q ∈ l, q.1 = p.1) → p.2 < 480) → u.stone = s.stone) ∧ u.tiles = s.tiles ∧ u.mem = s.mem)
    ∧ (∀ l, s.sampleOk l = true → exec (.thermalSample l) s = .next (s.sample l))
    ∧ (∀ t, s.hasTile t = true → (s.dom t).st ≠ 0 → ∃ u, exec (.vddLow t) s = .next u
        ∧ Reported s u 19 (srcId 8 0) (s.runCtx t).toList (BitVec.ofNat 64 t) ∧ u.tiles = s.tiles ∧ u.mem = s.mem ∧ u.pwr = s.pwr)
    ∧ (∀ d, s.hasDom d = true → ∃ u, exec (.regulator d) s = .next u
        ∧ Reported s u 21 (srcId 8 0) (if d < 136 then (s.runCtx (d % 68)).toList else []) (BitVec.ofNat 64 d)
        ∧ u.tiles = s.tiles ∧ u.mem = s.mem ∧ u.pwr = s.pwr)

/-- DOMAIN_WAKE_DONE of a waking domain that is ready is the state where it is ON, its unit goes on, and its votes and
demand act; a store domain only changes its own state. Composition changes, grafts and dispatch units that waited go
on. QUARTER_BANKED of a quarter that may bank takes its uncore to the state of its votes, retained or OFF (log 187);
where it is retained, so are the stores named in its BANK_KEEP that hold their contents; its other stores read zero
and are OFF, as every tile of it is. Then new tables, of the next route generation, avoid its routers, and what is out
takes the new routes. -/
def Obligations.DomainChanges : Prop :=
  ∀ s : State,
    (∀ d, s.hasDom d = true → (s.dom d).st = 3 → s.wakeReady d = true →
        exec (.domainWakeDone d) s = .next (s.awake d)
        ∧ (68 ≤ d → d < 136 → exec (.domainWakeDone d) s
          = .next ((s.setDom d { s.dom d with st := 2 }).evalDom d).goOn.unitsGo))
    ∧ (∀ q, s.canBank q = true → ∃ w : State, exec (.quarterBanked q) s = .next w.retable
        ∧ (w.dom (136 + q)).st = s.wanted (136 + q) ∧ s.wanted (136 + q) ≤ 1
        ∧ ∀ t, s.hasTile t = true → quarterOf t = q →
          let kept := s.wanted (136 + q) = 1 ∧ (tget 0 s.pwr.keep q).getLsbD (t % 17) = true ∧ (s.dom (68 + t)).st ≠ 0
          (w.dom t).st = 0 ∧ (w.tile t).refusing = true
          ∧ (kept → (w.dom (68 + t)).st = 1 ∧ ∀ off, off < 0x20000000 → w.peek (tsAddr t off) = s.peek (tsAddr t off))
          ∧ (¬ kept → (w.dom (68 + t)).st = 0 ∧ ∀ off, off < 0x20000000 → w.peek (tsAddr t off) = 0))
    ∧ ∃ v : State, s.retable = v.resolveAll [] [] ∧ v.bram.gen = s.bram.gen + 1 ∧ v.tiles = s.tiles ∧ v.mem = s.mem
        ∧ ∀ k ∈ s.routers, (s.dom (136 + k / 32)).st ≠ 2 → k ∈ v.bram.avoid

/-- A side of a crossing in RESYNC that has reset asks once: RESYNC_REQ counts what the other side discards, at most
16 entries, keeps the side that asked first, and reports row 23 where requests are lost (R426). When no side has still
to ask, RESYNC_DONE clears a side's pointers and discards what it has not taken; with both the crossing runs, one
resynchronisation is counted, and what waited for it goes on. CROSSING_PARK parks a running port crossing whose domain
is to leave ON, which then leaves; CLOCK_STOPPED stalls a running one, CLOCK_RETURN resumes it, and XING_CLOCK_LOST
fails it with its unit or a host command, reports row 22 and asks for a reset. ISLAND_RESET clears that and
resynchronises; a memory port then trains with its contents kept. A holding register that was acknowledged passes a
value whole; a stream takes an entry and gives it back in order. -/
def Obligations.Crossings : Prop :=
  (∀ (s : State) (i : Nat), s.hasXing i = true →
    let x := s.xing i
    (∀ island n, x.st = 2 → (if island = true then x.reqIsland else x.reqCore) = true → n ≤ 16 →
        let w := s.setXing i { x with
          dropped := min 0xFFFF (x.dropped + n), side := if x.reqCore = true ∧ x.reqIsland = true then island else x.side
          reqCore := x.reqCore && island, reqIsland := x.reqIsland && !island
          up := if island = true then { x.up with fifo := [] } else x.up
          down := if island = true then x.down else { x.down with fifo := [] } }
        (n = 0 ∨ s.boot.step < 4 → exec (.resyncReq i island n) s = .next w)
        ∧ (n ≠ 0 → 4 ≤ s.boot.step → exec (.resyncReq i island n) s
          = .next (w.raiseSafety 23 (xingSrc i) [] (BitVec.ofNat 64 i))))
    ∧ (x.st = 2 → x.reqCore = false → x.reqIsland = false →
        let core := { x with down := x.down.clearSender, up := x.up.clearReceiver, doneCore := true }
        let isle := { x with down := x.down.clearReceiver, up := x.up.clearSender, doneIsland := true }
        let run := fun (y : Xing) => { y with
          st := 1, resyncs := min 0xFFFF (x.resyncs + 1), doneCore := false, doneIsland := false }
        let goes := fun (y : Xing) => (s.setXing i y).flushWaits.unitsGo
        (x.doneIsland = false → exec (.resyncDone i false) s = .next (goes core))
        ∧ (x.doneCore = false → exec (.resyncDone i true) s = .next (goes isle))
        ∧ (x.doneIsland = true → exec (.resyncDone i false) s = .next (goes (run core)))
        ∧ (x.doneCore = true → exec (.resyncDone i true) s = .next (goes (run isle))))
    ∧ (x.st = 1 →
        (16 ≤ i → i < 64 → s.wanted (i + 124) ≤ 1 →
          exec (.crossingPark i) s = .next ((s.setXing i { x with st := 3 }).evalDom (i + 124)))
        ∧ exec (.clockStopped i) s = .next (s.setXing i { x with st := 4 }))
    ∧ (x.st = 4 → exec (.clockReturn i) s = .next (s.setXing i { x with st := 1 }).flushWaits.unitsGo
        ∧ let lost := s.setXing i { x with st := 5, needReset := true }
          let w := lost.failIsland i
          exec (.xingClockLost i) s = .next (w.raiseSafety 22 (xingSrc i) [] (BitVec.ofNat 64 i))
          ∧ Reported w (w.raiseSafety 22 (xingSrc i) [] (BitVec.ofNat 64 i)) 22 (xingSrc i) [] (BitVec.ofNat 64 i)
          ∧ (16 ≤ i → i < 32 → (w.port (i - 16)).st = 4 ∧ w.xing i = { x with st := 5, needReset := true } ∧ w.mem = s.mem)
          ∧ (32 ≤ i → i < 36 → (∀ j, j < 4 → (s.quad (4 * (i - 32) + j)).st ≠ 3) →
              (∀ j, j < 4 → (w.quad (4 * (i - 32) + j)).st = if (s.quad (4 * (i - 32) + j)).st = 1 then 1 else 4)
              ∧ w.xing i = { x with st := 5, needReset := true })
          ∧ (i = 0 → (∀ e ∈ s.hif.queues, e.2.cmds = []) → w = { lost with fresh := s.fresh + 1 })
          ∧ (i = 0 → (∃ e ∈ s.hif.queues, e.2.cmds ≠ []) → ∃ e ∈ s.hif.queues, ∃ c ∈ e.2.cmds,
              w = State.finishCmd { lost with fresh := s.fresh + 1 } e.1 c.seq 7 0 0)
          ∧ ((1 ≤ i ∧ i < 16) ∨ 36 ≤ i → w = lost))
    ∧ (exec (.islandReset i) s = .next (s.resetIsland i)
        ∧ ((∀ j, 32 ≤ i → i < 36 → j < 4 → (s.quad (4 * (i - 32) + j)).st ≠ 3) →
          let u := s.resetIsland i
          u.xing i = { x with
            st := 2, side := true, needReset := false, reqIsland := true, doneCore := false, doneIsland := false } ∧ u.mem = s.mem
          ∧ (i = 0 → u.hif = { s.hif with link := false })
          ∧ (16 ≤ i → i < 32 → u.port (i - 16) = { s.port (i - 16) with
              st := if 4 ≤ (s.port (i - 16)).st then (s.port (i - 16)).st else 1, occ := 0, throttling := false })
          ∧ (32 ≤ i → i < 36 → (s.runner (i - 32)).disabled = false → ∀ j, j < 4 →
              (u.quad (4 * (i - 32) + j)).st = quadStart (4 * (i - 32) + j)))))
  ∧ (∀ (h : Hold) (v : List Byte), h.req = h.ack → (h.pass v).1 = some v ∧ (h.pass v).2.req = (h.pass v).2.ack)
  ∧ ∀ (x : Stream) (e : List Byte), x.fifo = [] → x.wr = x.rd → x.rdSeen = x.rd → x.wrSeen = x.wr →
      x.wrHold.req = x.wrHold.ack → x.rdHold.req = x.rdHold.ack →
      (x.carry e).fifo = [] ∧ (x.carry e).wr = x.wr + 1 ∧ (x.carry e).rd = x.rd + 1 ∧ (x.carry e).rdSeen = (x.carry e).rd
        ∧ (x.carry e).wrSeen = (x.carry e).wr

/-- PWR_EN and RESET_N act as R517 and R518 say, PWR_EN's assertion and RESET_N's without effect while CYCLE_REQ_N is
asserted. Removed input power, by lockout or a power cycle, keeps the variant, flash, credential slots, fused minima,
retired tiles and row 17, and nothing of memory. Deasserted PWR_EN clears memory, tiles and ports with SAFE_N
asserted. A module reset by the pin, the Stone island or the orchestrator counts itself, notes its cause, closes a
Husk record in progress with PARTIAL, clears the host interface, bunches, stores, sessions and keys, generates new
attestation and KEM keys, resynchronises every crossing, keeps generations, fault latches and of LPDDR the Husk region
readable (log 192), and asserts SAFE_N; a power cycle in progress outranks it. -/
def Obligations.PinsAndPower : Prop :=
  (∀ s : State,
    (s.stone.cycleReq = true → exec .pwrEnAssert s = .next s ∧ exec .resetNAssert s = .next s)
    ∧ (s.stone.cycleReq = false → exec .pwrEnAssert s = .next { s with boot := { s.boot with pwrEn := true } }
        ∧ (s.boot.pwrEn = true → exec .resetNAssert s = .next { s with boot := { s.boot with resetN := true } })
        ∧ (s.boot.pwrEn = false → exec .resetNAssert s = .next s))
    ∧ exec .resetNRelease s = .next { s with boot := { s.boot with resetN := false } }
    ∧ (∃ u, exec .undervoltageLockout s = .next u ∧ (s.stone.cycleReq = true → exec .powerCycle s = .next u)
        ∧ u.mem = [] ∧ u.written = [] ∧ u.tiles = [] ∧ u.hif = {} ∧ u.comp = {} ∧ u.boot.step = 0 ∧ u.boot.variant = s.boot.variant
        ∧ u.boot.pwrEn = s.boot.pwrEn ∧ u.sec.slots = s.sec.slots ∧ u.sec.flash = s.sec.flash ∧ u.sec.minSvn = s.sec.minSvn
        ∧ u.sec.committed = s.sec.committed ∧ u.sec.sessions = [] ∧ u.sec.jobKeys = [] ∧ u.sec.imgKeys = []
        ∧ u.stone.retired = s.stone.retired ∧ u.stone.nvRow17 = s.stone.nvRow17 ∧ u.pending = s.pending)
    ∧ (∃ u, exec .pwrEnDeassert s = .next u ∧ u.mem = [] ∧ u.tiles = [] ∧ u.ports = [] ∧ u.boot.pwrEn = false
        ∧ u.stone.safe = true ∧ u.hif = {} ∧ u.comp = {} ∧ u.sec.sessions = [] ∧ u.boot.resets = s.boot.resets
        ∧ ∀ d, d < 161 → (u.dom d).st = 0))
  ∧ (∀ (s : State),
    ((∀ r ∈ s.stone.reacts, r.phase ≠ 0) → s.closeHusks = s)
    ∧ (s.boot.resetN = true → s.boot.pwrEn = true → s.cycling = false →
        exec (.moduleReset .resetN) s = .next (s.closeHusks.moduleReset 1 false))
    ∧ (s.moduleDue = true → s.cycling = false → let w := s.closeHusks
        exec (.moduleReset .stone) s = .next (State.moduleReset { w with stone := { w.stone with
          resetTimes := w.time :: w.stone.resetTimes
          recent := (s.stone.reacts.filter (fun r => r.reaction == 5 && r.phase == 1)).map (fun r => (r.row, r.src, w.time))
            ++ w.stone.recent } } 2 false))
    ∧ ∀ f maint, s.mgmtOpen = true → s.frameOk f = true →
      (s.cycling = true → Answers (.moduleReset (.orchestrator f maint)) s f (s.takeFrame f) 0x12)
      ∧ (s.cycling = false → (maint = false ∨ s.confBunch = false) → exec (.moduleReset (.orchestrator f maint)) s
          = .next (((s.takeFrame f).respond f 0 []).closeHusks.moduleReset 3 maint))
      ∧ (s.cycling = false → maint = true → s.confBunch = true → exec (.moduleReset (.orchestrator f maint)) s
          = .next (((s.takeFrame f).respond f 0x12 []).closeHusks.moduleReset 3 false)))
  ∧ ∀ (s : State) (cause : Nat) (maint : Bool), let u := s.moduleReset cause maint
    u.boot.step = 1 ∧ u.boot.resets = min 0xFFFFFFFF (s.boot.resets + 1) ∧ u.boot.cause = cause ∧ u.boot.wantMaint = maint
      ∧ u.boot.maint = false ∧ u.hif = {} ∧ u.comp = {} ∧ u.written = [] ∧ u.stone.safe = true ∧ u.stone.cycleReq = s.stone.cycleReq
      ∧ u.stone.nvRow17 = s.stone.nvRow17 ∧ u.sec.attKey = some (Config.freeBits 512 s.fresh)
      ∧ u.sec.kemKey = some (Config.freeBits 512 (s.fresh + 1))
      ∧ (∀ i, i < 132 → s.hasXing i = true → (u.xing i).st = 2 ∧ (u.xing i).reqCore = true ∧ (u.xing i).reqIsland = true)
      ∧ u.stone.gens = s.stone.gens ∧ u.stone.rows = s.stone.rows ∧ u.sec.sessions = [] ∧ u.sec.jobKeys = [] ∧ u.sec.agree = none
      ∧ u.sec.slots = s.sec.slots ∧ u.sec.flash = s.sec.flash ∧ u.sec.kemEpoch = s.sec.kemEpoch + 1
      ∧ u.pwr.orchCap = s.pwr.orchCap ∧ u.pwr.trayCap = s.pwr.trayCap ∧ u.pending = s.pending
      ∧ (∀ a, memGet u.mem a = if s.huskByte a = true then memGet s.mem a else 0) ∧ (∀ t off, t < 68 → off < 2 ^ 29 → u.peek (tsAddr t off) = 0)
      ∧ (∀ t, (u.tile t).base = (s.tile t).base ∧ (u.tile t).core = {} ∧ (u.tile t).slots = [] ∧ (u.tile t).ops = [])

/-- INPUT_IN_RANGE powers the always-on domain up with SAFE_N asserted, the caps at the variant's maximum, and row 17
as it was kept. An image that was erased or whose SVN is too low never verifies (R470). BOOT_VERIFY_DONE boots a
marked trial bank that verifies, else the committed one, else stays in ROM. RAILS_UP turns every domain ON and starts
training, of the runner ports that have a partner. POWER_UP_SELFTEST_DONE gives the roles of R16 and reports each
failed tile. HOST_READY opens the host interface in NORMAL or MAINTENANCE. A trained link holds its parameters; a
configuration request is retried until the interface is ready; a PCIe reset disables every queue and clears MSI-X and
BAR4. SAMPLER_TICK of a group without samples and traces changes nothing. -/
def Obligations.ColdStart : Prop :=
  ∀ s : State,
    (∀ vin, vinOk vin = true →
        (s.boot.step = 0 → ∃ u, exec (.inputInRange vin) s = .next u ∧ u.boot.step = 1 ∧ u.stone.safe = true ∧ u.pwr.vin = vin
          ∧ (u.dom 161).st = 2 ∧ u.stone.nvRow17 = s.stone.nvRow17
          ∧ u.pwr.orchCap = maxPowerOf s.boot.variant ∧ u.pwr.trayCap = maxPowerOf s.boot.variant ∧ (s.stone.nvRow17 = true → (u.latch 17).set = true)
          ∧ (s.stone.nvRow17 = false → u.stone.rows = s.stone.rows) ∧ u.mem = s.mem)
        ∧ (s.boot.step ≠ 0 → exec (.inputInRange vin) s
          = .next ({ s with pwr := { s.pwr with vin := vin, vinRange := false } } : State).signal))
    ∧ (s.boot.step = 1 → s.boot.resetN = false → s.sec.committed ≤ 1 → s.sec.noBank = false → ∀ okA okB,
        let ok := fun (b : Nat) => (if b = 0 then okA else okB) && (List.range 7).all (fun k => s.flashOk b k)
        let c := s.sec.committed
        ∃ u, exec (.bootVerifyDone okA okB) s = .next u
        ∧ (s.sec.trial = false ∨ ok (1 - c) = false → ok c = false → u.sec.noBank = true ∧ u.boot.step = 1 ∧ u.sec.trial = false)
        ∧ (s.sec.trial = true → ok (1 - c) = true →
            u.boot.step = 2 ∧ u.sec.booted = 1 - c ∧ u.sec.trialRun = true ∧ u.sec.noBank = false)
        ∧ (s.sec.trial = false ∨ ok (1 - c) = false → ok c = true →
            u.boot.step = 2 ∧ u.sec.booted = c ∧ u.sec.trialRun = false ∧ u.sec.noBank = false))
    ∧ (s.boot.step = 2 → s.boot.pwrEn = true → s.boot.resetN = false → s.stone.cycleReq = false →
        ∃ u, exec .railsUp s = .next u ∧ u.boot.step = 4 ∧ (∀ d, s.hasDom d = true → (u.dom d).st = 2)
          ∧ (∀ m, s.hasPort m = true → (u.port m).st = 1) ∧ (∀ x, s.hasRunner (x / 4) = true → (u.quad x).st = quadStart x) ∧ u.mem = s.mem)
    ∧ (∀ failed, s.boot.step = 4 → s.boot.tested = false → failed.all s.hasTile = true →
        failed.eraseDups.length = failed.length → ∃ u, exec (.powerUpSelftestDone failed) s = .next u ∧ u.boot.tested = true
          ∧ (∀ t, s.hasTile t = true → (t ∈ failed ∨ t ∈ s.stone.retired → (u.tile t).role = 3)
              ∧ (t ∉ failed → t ∉ s.stone.retired → (u.tile t).role
                = if t ∈ pickSpares s.boot.variant (s.stone.retired ++ failed.filter (fun t => !s.stone.retired.contains t))
                  then 1 else 0))
          ∧ u.stone.faults = s.stone.faults ++ failed.map (fun t => {
              row := 4, src := srcId 1 t, ctxs := [], detail := 0, pacer := s.srcPacer (srcId 1 t)
              running := s.runningOn (unitTile 4 (srcId 1 t) 0) }))
    ∧ (s.boot.step = 4 → s.boot.tested = true → (∀ m, s.hasPort m = true → (s.port m).st ≠ 1) →
        ∃ u, exec .hostReady s = .next u ∧ u.hif.ready = true ∧ u.boot.step = 6 ∧ u.stone.locked = true
          ∧ (u.boot.maint = true ↔ (s.boot.wantMaint = true ∨ s.recoveryBoot = true) ∧ s.confBunch = false)
          ∧ u.boot.wantMaint = false ∧ u.tiles = s.tiles ∧ u.mem = s.mem)
    ∧ (∀ sp wd fl, 4 ≤ s.boot.step → s.hif.link = false → sp < 16 → wd < 32 → exec (.pcieLinkTrained sp wd fl) s
        = .next { s with hif := { s.hif with link := true, speed := sp, width := wd, flit := fl } })
    ∧ (exec .pcieConfigRequest s = .next { s with out :=
        (if s.hif.ready = true ∧ s.hif.link = true then Out.cfg (pcieConfig s.boot.variant) else .crs) :: s.out }
        ∧ (pcieConfig s.boot.variant).cls = 0x120000 ∧ (pcieConfig s.boot.variant).maxPayload = 512
        ∧ (pcieConfig s.boot.variant).device = BitVec.ofNat 16 (deviceOf s.boot.variant))
    ∧ (∀ why, ∃ u, exec (.pcieHotReset why) s = .next u ∧ u.hif.queues = [] ∧ u.hif.msixTable = [] ∧ u.hif.msixPend = []
        ∧ u.hif.bar4Open = false ∧ u.hif.bar4Tile = 0 ∧ u.hif.barWait = [] ∧ u.hif.link = false)
    ∧ (∀ g, s.groupPresent g = true → s.smpEnabled = true → exec (.samplerTick g) s = .next (s.sampleGroup g)
        ∧ ((s.group g).ctl.getLsbD 1 = false → 68 ≤ g → exec (.samplerTick g) s = .next s))

/-- SAFETY_FAULT_REACTION of a fault reported, or of a row only this command reports, latches its row with count,
first source and life, asserts SAFE_N, notes the cause and reacts with the row's reaction, or the next step when it
recurs. HUSK_UNIT_TIMEOUT marks a unit of the first waiting reaction's scope unreadable, once; HUSK_RECORD_COMPLETE of
all its units writes the record, with the next HUSK_SEQ, to its region alone and takes the reaction's step; ESCALATION
moves a reaction below CYCLE one step up. ROW_ACKNOWLEDGE of rows 0 to 23 clears them, keeps their lifetime counts and
leaves other rows; a higher row answers BAD_ARGUMENT. -/
def Obligations.SafetyReaction : Prop :=
  ∀ s : State,
    (∀ flt, (flt ∈ s.stone.faults ∨ s.ownReport flt = true) → ∃ u, exec (.safetyFaultReaction flt) s = .next u
        ∧ u.latch flt.row = { set := true, count := min 0xFFFF ((s.latch flt.row).count + 1), life := (s.latch flt.row).life + 1
                              first := if (s.latch flt.row).set = true then (s.latch flt.row).first else flt.src }
        ∧ (∀ r, r ≠ flt.row → u.latch r = s.latch r) ∧ u.stone.safe = true ∧ u.stone.cause = rowCode flt.row)
    ∧ (∀ flt, flt ∈ s.stone.faults → exec (.safetyFaultReaction flt) s
        = .next (({ s with stone := { s.stone with faults := s.stone.faults.erase flt } } : State).reactTo flt))
    ∧ (∀ r src, s.huskFor = some r → src ∈ s.huskScope r →
        (src ∉ r.unreadable →
          exec (.huskUnitTimeout src) s = .next (s.setReact r { r with unreadable := r.unreadable ++ [src] }))
        ∧ (src ∈ r.unreadable → exec (.huskUnitTimeout src) s = .next s))
    ∧ (∀ r units, s.huskFor = some r → s.huskAll r units = true → exec (.huskRecordComplete units) s
          = .next (((s.writeHusk r units false).setReact r { r with phase := 1 }).runStep { r with phase := 1 }).settleSafe
        ∧ (s.writeHusk r units false).stone.huskSeq = s.stone.huskSeq + 1
        ∧ (s.writeHusk r units false).stone.huskOff = s.stone.huskNext ∧ (s.writeHusk r units false).tiles = s.tiles
        ∧ ∀ a, (∀ m, m = 0 ∨ m = huskPortOf s.boot.variant →
              a < lpAddr m (1426 * 0x4000000) ∨ lpAddr m (1426 * 0x4000000) + 0x10000000 ≤ a) →
            (s.writeHusk r units false).peek a = s.peek a)
    ∧ (∀ row r, s.stone.reacts.find? (fun r => r.row == row && r.reaction < 6) = some r →
        exec (.escalation row) s = .next (s.escalate r) ∧ s.nextStep 2 none = 5 ∧ s.nextStep 4 none = 5 ∧ s.nextStep 5 none = 6
          ∧ ∀ t, s.nextStep 1 (some t) = 3 ∧ (s.rootOf t ≠ 0 → s.nextStep 3 (some t) = 4) ∧ (s.rootOf t = 0 → s.nextStep 3 (some t) = 5))
    ∧ (∀ f rows, s.mgmtOpen = true → s.frameOk f = true →
        ((∃ r ∈ rows, 24 ≤ r) → Answers (.rowAcknowledge f rows) s f (s.takeFrame f) 0x14)
        ∧ ((∀ r ∈ rows, r < 24) → ∃ u, Answers (.rowAcknowledge f rows) s f u 0
            ∧ u.stone.nvRow17 = (s.stone.nvRow17 && !rows.contains 17) ∧ u.tiles = s.tiles ∧ u.mem = s.mem ∧ u.hif = s.hif
            ∧ ∀ r, (r ∈ rows → u.latch r = { set := false, count := 0, first := 0, life := (s.latch r).life })
              ∧ (r ∉ rows → u.latch r = s.latch r)))

/-- MGC_KICK and HOSTIF_HEARTBEAT show their unit alive. Each watchdog clears that, and without it reports row 16 or
row 13; the MGC's check is suspended during its update. A window of the pacer check in which the module's pacer
disagrees with both references by more than 100 edges, the second scaled by 100 to 156.25, counts; the second in a
row, and each later one, reports row 18, and a good window clears the count. STONE_LOCKSTEP asserts SAFE_N and
CYCLE_REQ_N, has its fault record, and records row 17 with its lifetime count for the next boot. A SPARE tile's turn
makes it TESTING and refusing, in turn; any turn that can start is the next tile's. A TESTING tile that passes is
SPARE again with a new generation and the pass counted; one that fails is RETIRED, recorded, and reported as row 4. A
borrowed tile that passes may start launches again: the messages that waited are served and a launch begins. A turn
asked for a SERVING or SPARE tile is noted once when a spare is free for it or a borrowed turn can start (log 190);
else the answer is BUSY, or BAD_ARGUMENT for a tile that takes no turns. -/
def Obligations.WatchdogsAndRotation : Prop :=
  (∀ s : State,
     exec .mgcKick s = .next { s with stone := { s.stone with mgcAlive := true } }
     ∧ exec .hostifHeartbeat s = .next { s with stone := { s.stone with hostAlive := true } }
     ∧ (s.stone.mgcAlive = true ∨ s.stone.mgcSuspended = true →
         exec .mgcWatchdog s = .next { s with stone := { s.stone with mgcAlive := false } })
     ∧ (s.stone.mgcAlive = false → s.stone.mgcSuspended = false → ∃ u, exec .mgcWatchdog s = .next u
         ∧ Reported s u 16 (srcId 7 0) [] 0 ∧ u.stone = { s.stone with faults := u.stone.faults } ∧ u.tiles = s.tiles
         ∧ u.mem = s.mem ∧ u.hif = s.hif)
     ∧ (s.stone.hostAlive = true → exec .hostifWatchdog s = .next { s with stone := { s.stone with hostAlive := false } })
     ∧ (s.stone.hostAlive = false → ∃ u, exec .hostifWatchdog s = .next u
         ∧ Reported s u 13 (srcId 5 0x1000) [] 0 ∧ u.stone = { s.stone with faults := u.stone.faults } ∧ u.tiles = s.tiles
         ∧ u.mem = s.mem ∧ u.hif = s.hif)
     ∧ (∀ p q l, let k := 64 * l
         (p ≤ q + 100 → q ≤ p + 100 → exec (.pacerFreqWindow p q l) s = .next { s with stone := { s.stone with pacerBad := 0 } })
         ∧ (100 * p ≤ k + 10000 → k ≤ 100 * p + 10000 → exec (.pacerFreqWindow p q l) s = .next { s with stone := { s.stone with pacerBad := 0 } })
         ∧ (p + 100 < q ∨ q + 100 < p → 100 * p + 10000 < k ∨ k + 10000 < 100 * p →
             (s.stone.pacerBad = 0 → exec (.pacerFreqWindow p q l) s = .next { s with stone := { s.stone with pacerBad := 1 } })
             ∧ (s.stone.pacerBad ≠ 0 → ∃ u, exec (.pacerFreqWindow p q l) s = .next u
                 ∧ Reported s u 18 (srcId 7 0) [] 0
                 ∧ u.stone = { s.stone with pacerBad := s.stone.pacerBad + 1, faults := u.stone.faults }
                 ∧ u.tiles = s.tiles ∧ u.mem = s.mem ∧ u.hif = s.hif)))
     ∧ exec .stoneLockstep s = .next (State.signal (State.fault { s with stone := { s.stone with
         safe := true, cycleReq := true, nvRow17 := true
         rows := tput s.stone.rows 17 { s.latch 17 with life := (s.latch 17).life + 1 } } } (srcId 7 0) 0x0701 none true 0)))
  ∧ (∀ s : State,
       (∀ t u, s.mgcAway = false → s.nextTurn = some t → s.startTurn t = some u → exec .rotationTurnStart s = .next u)
       ∧ (∀ t, s.mgcAway = false → s.nextTurn = some t → (s.tile t).role = 1 → s.stone.inTurn.length < s.spares.length →
           ∃ u, exec .rotationTurnStart s = .next u ∧ (u.tile t).role = 2 ∧ (u.tile t).refusing = true
             ∧ u.stone.inTurn = s.stone.inTurn ++ [t] ∧ u.comp = s.comp)
       ∧ (∀ t, s.hasTile t = true → (s.tile t).role = 2 →
           (∃ u, exec (.rotationSelftestDone t true) s = .next u ∧ (u.tile t).role = 1 ∧ u.stone.inTurn = s.stone.inTurn.erase t
             ∧ tget 0 u.stone.gens t = tget 0 s.stone.gens t + 1 ∧ u.stone.passes = s.stone.passes + 1
             ∧ tget 0 u.stone.lastPass t = s.stone.passes + 1 ∧ tget 0 u.stone.passTime t = s.time ∧ u.comp = s.comp)
           ∧ ∃ u, exec (.rotationSelftestDone t false) s = .next u ∧ (u.tile t).role = 3 ∧ (u.tile t).refusing = true
             ∧ t ∈ u.stone.retired
             ∧ ((∀ g ∈ s.comp.grafts, g.out ≠ t ∧ g.inc ≠ t ∧ g.heir ≠ some t) → ∀ k, k ≠ t → (k ∈ u.stone.inTurn ↔ k ∈ s.stone.inTurn))
             ∧ ∃ flt ∈ u.stone.faults, flt.row = 4 ∧ flt.src = srcId 1 t)
       ∧ (∀ t, s.hasTile t = true → s.inBist t = true → ∃ u : State,
           exec (.rotationSelftestDone t true) s = .next ((u.emptyBuf t).dispatchTile t).settleSafe
             ∧ (u.tile t).noLaunch = false ∧ u.stone.passes = s.stone.passes + 1 ∧ u.stone.inTurn = s.stone.inTurn.erase t
             ∧ u.comp = s.comp ∧ u.mem = s.mem)
       ∧ ∀ f t, s.mgmtOpen = true → s.frameOk f = true →
           let w := s.takeFrame f
           (w.hasTile t = false ∨ 2 ≤ (w.tile t).role → Answers (.selftestRequest f t) s f w 0x14)
           ∧ (w.hasTile t = true → (w.tile t).role < 2 →
             (w.turnBusy t = true ↔ (w.spares ≠ [] ∨ 4 ≤ (w.bunchOf (w.tileBunch t)).st)
                 ∧ (if (w.tile t).role = 1 then w.spares.length ≤ w.stone.inTurn.length else w.nearSpare t = none))
             ∧ (w.turnBusy t = true → Answers (.selftestRequest f t) s f w 0x12)
             ∧ (w.turnBusy t = false → t ∉ w.stone.asked → Answers (.selftestRequest f t) s f
                 { w with stone := { w.stone with asked := w.stone.asked ++ [t] } } 0)
             ∧ (w.turnBusy t = false → t ∈ w.stone.asked → Answers (.selftestRequest f t) s f w 0)))

/-- In an accepted frame a key that may be named and that unwraps is added INSTALLED, by KEY_INSTALL,
IMAGE_KEY_INSTALL or KEY_ACCEPT; an unusable name or store answers its status, a key that does not open INTEGRITY.
KEY_AGREE_BEGIN answers a nonce; KEY_AGREE adds a new key and answers a blob for each peer that passes. KEY_ACTIVATE
leaves one ACTIVE key of the bunch, KEY_DESTROY removes a key. CONF_SET marks a FORMING root and all in it.
MAINTENANCE is entered without confidential bunches and left without PAGED segments. FACTORY_UNLOCK needs the token,
slot 0, MAINTENANCE, no bunch and CLEAN memory, and forgets all keys. -/
def Obligations.KeysAndModes : Prop :=
  ∀ (s : State) (f : Frame), s.mgmtOpen = true → s.frameOk f = true →
    let w := s.takeFrame f
    (∀ b id bytes,
      let bad := keyBad w.sec.jobKeys b id (w.findBunch b).isSome
      let badImg := keyBad w.sec.imgKeys b id (w.findBunch b).isSome
      (∀ e, bad = some e → Answers (.keyInstall f b id bytes) s f w e ∧ Answers (.keyAccept f b id bytes) s f w e
          ∧ ∀ qs, Answers (.keyAgree f b id qs) s f w e)
      ∧ (∀ e, badImg = some e → Answers (.imageKeyInstall f b id bytes) s f w e)
      ∧ (Config.unwrap (w.wrapKey f) bytes = none → (bad = none → Answers (.keyInstall f b id bytes) s f w 0x0C)
          ∧ (badImg = none → Answers (.imageKeyInstall f b id bytes) s f w 0x0C))
      ∧ (∀ k, Config.unwrap (w.wrapKey f) bytes = some k →
          (bad = none → Answers (.keyInstall f b id bytes) s f { w with sec := { w.sec with
              jobKeys := w.sec.jobKeys ++ [{ id := id, bunch := b, active := false, key := k }] } } 0)
          ∧ (badImg = none → Answers (.imageKeyInstall f b id bytes) s f { w with sec := { w.sec with
              imgKeys := w.sec.imgKeys ++ [{ id := id, bunch := b, active := false, key := k }] } } 0))
      ∧ (bad = none → (w.openBlob b id bytes = none → Answers (.keyAccept f b id bytes) s f w 0x0C)
          ∧ ∀ k, w.openBlob b id bytes = some k → Answers (.keyAccept f b id bytes) s f { w with sec := { w.sec with
              jobKeys := w.sec.jobKeys ++ [{ id := id, bunch := b, active := false, key := k }] } } 0))
    ∧ (∃ n u, exec (.keyAgreeBegin f) s = .next (u.respond f 0 (toBytes 32 n)) ∧ n < 2 ^ 256
        ∧ u = { w with fresh := w.fresh + 1, sec := { w.sec with agree := some (BitVec.ofNat 256 n) } })
    ∧ (∀ b id qs, keyBad w.sec.jobKeys b id (w.findBunch b).isSome = none →
        (w.sec.agree = none ∨ (∃ q ∈ qs, w.peerOk q = false) → Answers (.keyAgree f b id qs) s f w 0x0C)
        ∧ (w.sec.agree ≠ none → (∀ q ∈ qs, w.peerOk q = true) → ∃ (k : BitVec 256) (ss : List (BitVec 256)) (u : State),
            exec (.keyAgree f b id qs) s = .next (u.respond f 0 ((ss.zip qs).flatMap (fun p => jobBlob p.1 k b id p.2)))
            ∧ ss.length = qs.length ∧ (∀ p ∈ ss.zip qs, (jobBlob p.1 k b id p.2).length = 1608)
            ∧ u = { w with fresh := w.fresh + 1 + qs.length, sec := { w.sec with
                      agree := none, jobKeys := w.sec.jobKeys ++ [{ id := id, bunch := b, active := false, key := k }] } }))
    ∧ (∀ b id, (hasKey w.sec.jobKeys b id = false → Answers (.keyActivate f b id) s f w 0x14)
        ∧ (hasKey w.sec.jobKeys b id = true → ∃ u, Answers (.keyActivate f b id) s f u 0
            ∧ u.sec.jobKeys.map (fun k => (k.id, k.bunch, k.key)) = w.sec.jobKeys.map (fun k => (k.id, k.bunch, k.key))
            ∧ (∀ k ∈ u.sec.jobKeys, k.bunch = b → k.active = (k.id == id))
            ∧ u = { w with sec := { w.sec with jobKeys := activateKey w.sec.jobKeys b id } })
        ∧ (hasKey w.sec.jobKeys b id = false → hasKey w.sec.imgKeys b id = false → Answers (.keyDestroy f b id) s f w 0x14)
        ∧ (hasKey w.sec.jobKeys b id = true ∨ hasKey w.sec.imgKeys b id = true → ∃ u, Answers (.keyDestroy f b id) s f u 0
            ∧ hasKey u.sec.jobKeys b id = false ∧ hasKey u.sec.imgKeys b id = false
            ∧ (∀ k ∈ w.sec.jobKeys, k.bunch ≠ b ∨ k.id ≠ id → k ∈ u.sec.jobKeys)))
    ∧ (∀ b, (w.findBunch b = none → Answers (.confSet f b) s f w 0x14)
        ∧ ((w.findBunch b).isSome = true →
          ((w.bunchOf b).parent ≠ 0 ∨ (w.bunchOf b).st ≠ 1 ∨ w.boot.maint = true → Answers (.confSet f b) s f w 0x12)
          ∧ ((w.bunchOf b).parent = 0 → (w.bunchOf b).st = 1 → w.boot.maint = false → Answers (.confSet f b) s f ((w.markConf b).changed) 0
              ∧ (b ≠ 0 → ((w.markConf b).changed.bunchOf b).conf = true)
              ∧ ∀ c ∈ w.ctxsOf b, ((w.markConf b).changed.ctx c).conf = true)))
    ∧ (w.confBunch = true → Answers (.maintEnter f) s f w 0x12)
    ∧ (w.confBunch = false → Answers (.maintEnter f) s f { w with boot := { w.boot with maint := true } } 0)
    ∧ (w.pagedElsewhere = true → Answers (.maintLeave f) s f w 0x12)
    ∧ (w.pagedElsewhere = false → Answers (.maintLeave f) s f { w with boot := { w.boot with maint := false } } 0)
    ∧ (∀ tok, (tok = false ∨ w.slotOfFrame f ≠ some 0 → Answers (.factoryUnlock f tok) s f w 0x14)
        ∧ (tok = true → w.slotOfFrame f = some 0 →
          (w.boot.maint = false ∨ w.anyBunch = true ∨ w.allClean = false → Answers (.factoryUnlock f tok) s f w 0x12)
          ∧ (w.boot.maint = true → w.anyBunch = false → w.allClean = true → Answers (.factoryUnlock f tok) s f
              { w with sec := { w.sec with slots := [], jobKeys := [], imgKeys := [], unlocked := true } } 0)))

/-- HELLO answers a slot with a credential with a nonce, an identifier and its salt, adding an attempt; an empty slot
answers BAD_ARGUMENT, a locked slot or four sessions BUSY. A matching PROOF opens its attempt with the derived keys;
another closes it and counts, and the fifth within 60 s locks the slot until SLOT_LOCK_EXPIRE. CLOSE, idleness and the
clearing of a slot close sessions after the answer. CRED_SET and CRED_CLEAR act on slots 1 to 7, and on slot 0 from
slot 0 alone. UNCLAIM from slot 0 without bunches forgets all; CLAIM takes an unclaimed module to which a quote was
taken; a ciphertext to an earlier KEM key fails (R467). While no frame can arrive, HELLO, PROOF and CLAIM are refused
by name (log 204). One quote is produced at a time, so a second request answers BUSY; QUOTE_READY without a graft or
MGC restart delivers it and advances QUOTE_SEQ. FW_WRITE writes the bank that is not committed, where an invalid image
is erased and answers INTEGRITY; FW_TRIAL marks it; FW_COMMIT of a trial commits it, advancing minima when asked, BUSY
without a trial. FW_UPDATE of KIND 2 to 5 with a trial begins, BUSY while one is active. UNIT_UPDATE_DONE of a failed
instance, or one whose image in the trial bank was erased, ends the update with INTEGRITY, from the committed bank; of
the last one it ends with OK; else the next follows. Grafts that waited for the update then go on. -/
def Obligations.SessionsQuotesFirmware : Prop :=
  (∀ s : State,
     (∀ status body, ∃ n q, n < 2 ^ 64 ∧ q < 2 ^ 64 ∧ s.answerOpen status body
         = State.emit { s with fresh := s.fresh + 1 } (.mgmt 0 q status (toBytes 8 n ++ body) none))
     ∧ (s.mgmtOpen = false → (∀ i nc, exec (.hello i nc) s = .refused (.notEnabled "MGMT_FRAME"))
         ∧ (∀ sid p, exec (.proof sid p) s = .refused (.notEnabled "MGMT_FRAME"))
         ∧ ∀ ct, exec (.claim ct) s = .refused (.notEnabled "MGMT_FRAME"))
     ∧ (∀ i nc, s.mgmtOpen = true → ((s.credSlot i).cred = none → exec (.hello i nc) s = .next (s.answerOpen 0x14 []))
       ∧ (∀ c, (s.credSlot i).cred = some c →
         (4 ≤ s.sec.sessions.length ∨ (s.credSlot i).locked = true →
           exec (.hello i nc) s = .next (s.answerOpen 0x12 []))
         ∧ (s.sec.sessions.length < 4 → (s.credSlot i).locked = false → ∃ u x, exec (.hello i nc) s = .next u
             ∧ u.sec.sessions = s.sec.sessions ++ [x] ∧ x.slot = i ∧ x.isOpen = false ∧ x.nc = nc ∧ x.seqIn = 0 ∧ x.seqOut = 1
             ∧ x.sid = BitVec.ofNat 32 s.sec.nextSid ∧ u.sec.nextSid = s.sec.nextSid + 1
             ∧ (∃ n q, n < 2 ^ 64 ∧ q < 2 ^ 64 ∧ u.out = .mgmt 0 q 0
                 (toBytes 8 n ++ (toBytes 32 x.nd.toNat ++ toBytes 4 x.sid.toNat ++ credSalt c)) none :: s.out)
             ∧ u.sec.slots = s.sec.slots ∧ u.mem = s.mem ∧ u.tiles = s.tiles)))
     ∧ (∀ sid p, s.mgmtOpen = true →
         (s.sec.sessions.find? (fun x => !x.isOpen && x.sid == sid) = none → exec (.proof sid p) s = .next s)
         ∧ (∀ x, s.sec.sessions.find? (fun x => !x.isOpen && x.sid == sid) = some x → (s.credSlot x.slot).cred = none →
             exec (.proof sid p) s = .next (s.closeSession sid))
         ∧ (∀ x c, s.sec.sessions.find? (fun x => !x.isOpen && x.sid == sid) = some x → (s.credSlot x.slot).cred = some c →
           ((s.credSlot x.slot).locked = false → p = openProof (credKey c) x →
             s.sec.sessions.find? (fun y => y.sid == sid) = some x → ∃ u y, exec (.proof sid p) s = .next u
               ∧ u.openSession sid = some y ∧ y.slot = x.slot ∧ y.seqIn = x.seqIn ∧ y.seqOut = x.seqOut
               ∧ y.c2d = Config.kmac256 (credKey c) 0 (sessionSeed x) ∧ y.d2c = Config.kmac256 (credKey c) 1 (sessionSeed x)
               ∧ y.wrap = Config.kmac256 (credKey c) 2 (sessionSeed x) ∧ u.sec.slots = s.sec.slots
               ∧ ∃ n q, u.out = .mgmt 0 q 0 (toBytes 8 n ++ toBytes 32 (Config.kmac256 (credKey c) 3 (toBytes 32 x.nd.toNat
                   ++ toBytes 32 x.nc.toNat ++ toBytes 4 x.sid.toNat ++ toBytes 8 Config.deviceId.toNat)).toNat) none :: s.out)
           ∧ ((s.credSlot x.slot).locked = true ∨ p ≠ openProof (credKey c) x →
             let recent := (s.time :: (s.credSlot x.slot).fails).filter (fun t => (s.time - t).toNat ≤ 6000000000)
             ∃ u, exec (.proof sid p) s = .next u ∧ u.sec.sessions = s.sec.sessions.filter (fun y => y.sid != x.sid)
               ∧ u.credSlot x.slot = { s.credSlot x.slot with
                   fails := recent, locked := (s.credSlot x.slot).locked || decide (5 ≤ recent.length) } ∧ u.out = s.out)))
     ∧ (∀ sid, (∃ x ∈ s.sec.sessions, x.sid = sid) → exec (.sessionIdleTimeout sid) s
         = .next { s with sec := { s.sec with sessions := s.sec.sessions.filter (fun x => x.sid != sid) } })
     ∧ (∀ i, (s.credSlot i).locked = true → exec (.slotLockExpire i) s = .next { s with sec := { s.sec with
         slots := tput s.sec.slots i { s.credSlot i with locked := false, fails := [] } } })
     ∧ (∀ ct, s.sec.kemKey = none ∨ Config.kemTo ct ≠ some s.sec.kemEpoch → s.kemOpen ct = none)
     ∧ (∀ ct, s.mgmtOpen = true → ((∃ i, i < 8 ∧ (s.credSlot i).cred ≠ none) ∨ s.sec.quoteSeq = 0 →
           exec (.claim ct) s = .next (s.answerOpen 0x12 []))
         ∧ ((∀ i, i < 8 → (s.credSlot i).cred = none) → s.sec.quoteSeq ≠ 0 →
           (s.kemOpen ct = none → exec (.claim ct) s = .next (s.answerOpen 0x0C []))
           ∧ ∀ k, s.kemOpen ct = some k → exec (.claim ct) s = .next (({ s with sec := { s.sec with
                 slots := tput s.sec.slots 0 { cred := some (.key (Config.kmac256 k 4 (toBytes 8 Config.deviceId.toNat))) } } }
               : State).answerOpen 0 [])))
     ∧ (∀ f, s.mgmtOpen = true → s.frameOk f = true →
         let w := s.takeFrame f
         exec (.close f) s = .next ((w.respond f 0 []).closeSession f.sid)
         ∧ (∀ i c, (i = 0 → w.slotOfFrame f = some 0) → i < 8 →
             (credOk c = true → Answers (.credSet f i c) s f
               { w with sec := { w.sec with slots := tput w.sec.slots i { cred := some c } } } 0)
             ∧ (credOk c = false → Answers (.credSet f i c) s f w 0x14)
             ∧ ∃ u, exec (.credClear f i) s = .next u ∧ u.credSlot i = {} ∧ ∀ x ∈ u.sec.sessions, x.slot ≠ i)
         ∧ (∀ i c, 8 ≤ i ∨ (i = 0 ∧ w.slotOfFrame f ≠ some 0) →
             Answers (.credSet f i c) s f w 0x14 ∧ Answers (.credClear f i) s f w 0x14)
         ∧ (w.slotOfFrame f ≠ some 0 → Answers (.unclaim f) s f w 0x14)
         ∧ (w.slotOfFrame f = some 0 → (∃ e ∈ w.comp.bunches, e.2.st ≠ 0) → Answers (.unclaim f) s f w 0x12)
         ∧ (w.slotOfFrame f = some 0 → (∀ e ∈ w.comp.bunches, e.2.st = 0) → ∃ u, exec (.unclaim f) s = .next u
             ∧ u.sec.slots = [] ∧ u.sec.sessions = [] ∧ u.sec.jobKeys = [] ∧ u.sec.imgKeys = [])))
  ∧ ((∀ (s : State) (nonce : BitVec 256),
       (s.mgmtOpen = true → (s.sec.quote.isSome = true → exec (.quote none nonce) s = .next (s.answerOpen 0x12 []))
       ∧ (s.sec.quote = none → exec (.quote none nonce) s = .next { s with sec := { s.sec with
           quote := some { mailbox := false, sid := 0, seq := 0, nonce := nonce } } })
       ∧ (∀ f, s.frameOk f = true →
           (s.sec.quote.isSome = true → exec (.quote (some f) nonce) s = .next ((s.takeFrame f).respond f 0x12 []))
           ∧ (s.sec.quote = none → exec (.quote (some f) nonce) s = .next { s.takeFrame f with sec := { (s.takeFrame f).sec with
               quote := some { mailbox := false, sid := f.sid, seq := f.seq, nonce := nonce } } })))
       ∧ (∀ r, s.sec.quote = some r → s.comp.grafts = [] → s.mgcAway = false → ∃ u, exec .quoteReady s = .next u
           ∧ u.sec.quote = none ∧ u.sec.quoteSeq = s.sec.quoteSeq + 1
           ∧ (r.mailbox = false → r.sid = 0 → ∃ n q, u.out = .mgmt 0 q 0 (toBytes 8 n ++ s.quoteBytes r.nonce) none :: s.out)))
     ∧ (∀ (s : State) (f : Frame), s.mgmtOpen = true → s.frameOk f = true →
       let w := s.takeFrame f
       (∀ imgs, ((∀ x ∈ imgs, w.imageOk x = true) → Answers (.fwWrite f imgs) s f (imgs.foldl (fun s x => s.writeImage x) w) 0)
           ∧ ((∃ x ∈ imgs, w.imageOk x = false) → Answers (.fwWrite f imgs) s f (imgs.foldl (fun s x => s.writeImage x) w) 0x0C))
       ∧ (∀ x : Image, x.kind ≤ 6 → tget {} (w.writeImage x).sec.flash (w.otherBank * 8 + x.kind)
           = if w.imageOk x = true then { version := x.version, svn := x.svn, digest := x.digest, valid := true }
             else { valid := false })
       ∧ Answers (.fwTrial f) s f { w with sec := { w.sec with trial := true } } 0
       ∧ (w.sec.trial = false → ∀ adv, Answers (.fwCommit f adv) s f w 0x12)
       ∧ (w.sec.trial = true → (∀ e ∈ w.sec.minSvn, e.2.2 ≤ 64) → Answers (.fwCommit f false) s f { w with sec := { w.sec with
           committed := w.otherBank, trial := false, trialRun := false } } 0)
       ∧ (w.sec.trial = true → let m := advanceSvn w.sec.minSvn w.sec.flash w.otherBank
           ((∀ e ∈ m, e.2.2 ≤ 64) → Answers (.fwCommit f true) s f { w with sec := { w.sec with
               committed := w.otherBank, trial := false, trialRun := false, minSvn := m } } 0)
           ∧ ((∃ e ∈ m, 64 < e.2.2) → Answers (.fwCommit f true) s f w 0x0E)
           ∧ ∀ k, k < 7 → (tget {} w.sec.flash (w.otherBank * 8 + k) : Flash).svn ≤ (tget (0, 0) m k).1)
       ∧ (∀ kind, (kind < 2 ∨ 5 < kind → Answers (.fwUpdate f kind) s f w 0x14)
           ∧ (2 ≤ kind → kind ≤ 5 → w.instances kind ≠ 0 →
             (w.sec.updActive = true ∨ w.sec.trial = false ∨ (kind = 4 ∧ ∃ j, j < 4 ∧ w.lastQuads j = true) →
               Answers (.fwUpdate f kind) s f w 0x12)
             ∧ (w.sec.updActive = false → w.sec.trial = true → (kind = 4 → ∀ j, j < 4 → w.lastQuads j = false) →
               Answers (.fwUpdate f kind) s f (({ w with sec := { w.sec with
                   updKind := kind, updDone := 0, updTotal := w.updateCount kind, updTiles := [], updFailed := false, updActive := true,
                   updSid := f.sid, updSeq := f.seq } } : State).drainUnit) 0))))
     ∧ ∀ s : State, s.sec.updActive = true →
       (∀ i ok, s.updUnit = some i → let good := ok && s.flashOk s.otherBank s.sec.updKind
           (s.sec.updDrained = true → exec (.unitUpdateDone ok) s = .next (s.unitDone i good))
           ∧ (s.sec.updDrained = false → exec (.unitUpdateDone ok) s = .next (s.drainNow.unitDone i good)))
       ∧ (∀ ok, s.updUnit = none → s.updAll = true → exec (.unitUpdateDone ok) s = .next (s.endUpdate 0).goOn)
       ∧ (∀ i, s.sec.updKind = 5 → s.updUnit = some i → s.sec.updDrained = true →
           (∃ u : State, exec (.unitUpdateDone false) s = .next u.goOn ∧ u.sec.updActive = false ∧ u.sec.updFailed = true
             ∧ u.sec.updDone = s.sec.updDone ∧ tget 0 u.sec.loaded (5 * 128 + i) = s.flashDigest s.sec.committed 5)
           ∧ (s.flashOk s.otherBank 5 = true → (∃ k ∈ s.updatable, k ∉ s.sec.updTiles ++ [i]) → ∃ u : State, exec (.unitUpdateDone true) s = .next u.goOn
               ∧ u.sec.updActive = true ∧ u.sec.updDone = s.sec.updDone + 1 ∧ u.sec.updTiles = s.sec.updTiles ++ [i]
               ∧ tget 0 u.sec.loaded (5 * 128 + i) = s.flashDigest s.otherBank 5)
           ∧ (s.flashOk s.otherBank 5 = true → (∀ k ∈ s.updatable, k ∈ s.sec.updTiles ++ [i]) → ∃ u : State, exec (.unitUpdateDone true) s = .next u.goOn
               ∧ u.sec.updActive = false ∧ u.sec.updFailed = false
               ∧ tget 0 u.sec.loaded (5 * 128 + i) = s.flashDigest s.otherBank 5)))

/-- ENGINE_SLOT_FREE issues the instruction that a full queue held, as its row does, and an engine operation that may
issue takes its slot. MOVER_OP_COMPLETE of a mover operation that may end and VECTOR_OP_COMPLETE of the oldest vector
operation end it with a DONE token. KERNEL_BOUNDARY, CORE_LOCKSTEP, PATROL_SCRUB, WRITTEN_BIT_CLEAR_DONE,
WATCHDOG_EXPIRE, WATCHDOG_ESCALATE, SWAP_DONE, HANDSHAKE_STALL, ENDPOINT_PACKET_ARRIVAL, DEMAND_IDLE_TIMEOUT,
TILE_RESET, TILE_REJOIN, PACER_COMPARATOR_FIRE and REFUSED_REPLY each answer a next state under the condition given on
the tile alone. -/
def Obligations.TileEventsComplete : Prop :=
  ∀ (s : State) (t : Nat),
    let c := (s.tile t).core
    (∀ w x, c.stall = .queue w x → c.halted = false → (s.tile t).engineFull (engineOf w x) = false →
      let u := s.setCore t { c with stall := .none }
      exec (.engineSlotFree t) s = .next (u.issueWord t w x)
      ∧ ∀ r ∈ twoWordRows t w x, MayIssue u t w x r → r.2.1 = 5 ∨ r.2.1 = 6 ∨ r.2.1 = 0xB ∨ (r.2.1 = 7 ∧ r.2.2.1 ≤ 4) →
          ∃ v o, exec (.engineSlotFree t) s = .next v ∧ Issued u v t w x o)
    ∧ (∀ mv o a b, (s.tile t).moverOp mv = some o → mv < 8 → wOp o.w ≤ 2 → EndsAlone s t o → o.held = false → o.lost ≠ 2 →
        o.cut = false → o.behind.any s.bram.flight.contains = false →
        s.accessOpen t t (s.mvReads t o ++ s.mvWrites t o) = true → s.moveRes (s.mvReads t o) (s.mvWrites t o) .ok = .ok →
        ∃ u, exec (.moverOpComplete t mv .ok a b) s = .next u ∧ Done s u t o o.flags)
    ∧ (∀ o, (s.tile t).oldestOp 1 = some o → EndsAlone s t o → s.moveRes (s.vecReads t o) [] .ok ≠ .uncorrectable →
        ∃ u, exec (.vectorOpComplete t .ok) s = .next u ∧ Done s u t o (BitVec.ofNat 16 (s.vecEffect t o).2))
    ∧ (s.kernelDone t = true → c.halted = false →
        exec (.kernelBoundary t) s = .next (((s.endKernel t).freezeBoundary t).dispatchTile t))
    ∧ (∀ r, c.run = some r → ∃ u, exec (.coreLockstep t) s = .next u ∧ Reported s u 0 (srcId 1 t) [r.launch.ctx] 0
        ∧ (u.tile t).ops = [])
    ∧ (∀ line res, line < 8388608 → s.hasTile t = true → s.lineWritten (tsAddr t (line * 64)) = true →
        ∃ u, exec (.patrolScrub t line res) s = .next u ∧ u.mem = s.mem ∧ u.hif = s.hif)
    ∧ (∀ bm slot rest, (s.tile t).clearing = (bm, slot) :: rest → s.hif.busy = none →
        ∃ u, exec (.writtenBitClearDone t) s = .next u ∧ (u.tile t).clearing = rest)
    ∧ (∀ r, c.run = some r → c.halted = false → c.atBoundary = true → 2 * r.launch.budget.toNat ≤ (s.pacer t - r.start).toNat →
        c.stop = none → ∃ u, exec (.watchdogExpire t) s = .next u ∧ (u.tile t).ops = []
          ∧ (u.tile t).core.stop = some { status := 7, trap := 7 })
    ∧ (∀ r st, c.run = some r → c.stop = some st → st.trap = 7 → exec (.watchdogEscalate t) s = .next (s.resetOut t))
    ∧ (∀ w, (s.tile t).swap = some w → s.accessOpen t t (s.swapSpots t w) = true → exec (.swapDone t) s = .next (s.swapEnd t w))
    ∧ (s.hasTile t = true → ∃ u, exec (.handshakeStall t) s = .next u ∧ u.tile t = { s.tile t with stallFault := true }
        ∧ Reported s u 3 (srcId 1 t) (s.runCtx t).toList 0)
    ∧ (s.hasTile t = true → s.banked (quarterOf t) = false → (s.dom t).st ≠ 2 → exec (.endpointPacketArrival t) s
        = .next ((s.setTile t { s.tile t with buffered := (s.tile t).buffered + 1 }).evalDom t))
    ∧ (s.hasTile t = true → s.demand t = false → exec (.demandIdleTimeout t) s
        = .next ((s.setDom t { s.dom t with warm := false }).evalDom t))
    ∧ (s.hasTile t = true → (s.tile t).role ≠ 3 → ∃ u, exec (.tileReset t) s = .next u ∧ (u.tile t).refusing = true
        ∧ (u.tile t).core.run = none ∧ (u.tile t).role = 2)
    ∧ (s.hasTile t = true → (s.tile t).refusing = true → (s.tile t).role ≠ 3 → (s.dom t).st = 2 → t ∉ s.stone.inTurn →
        (∀ r ∈ s.stone.reacts, r.reaction ≠ 3 ∨ unitTile r.row r.src r.detail ≠ some t) →
        (∀ g ∈ s.comp.grafts, 2 ≤ g.kind ∨ g.out ≠ t) → ∃ w : State,
        exec (.tileRejoin t) s = .next w.revote ∧ (w.tile t).refusing = false ∧ (w.tile t).slots = [])
    ∧ (∀ j, c.run.isSome = true → j < 8 → (c.getCmp j).armed = true → (c.getCmp j).fired = false →
        (c.getCmp j).val.toNat ≤ (s.time - (s.tile t).base).toNat →
        ∃ u, exec (.pacerComparatorFire t j) s = .next u ∧ (u.tile t).core.getCmp j = { c.getCmp j with fired := true })
    ∧ (∀ td rd n sg va, c.stall = .load td rd n sg va → (∃ p ∈ s.vaSpots t va n, s.spotRes p = .refused) →
        exec (.refusedReply (.core t)) s
          = .next ((s.countRefused (s.vaSpots t va n) .refused).stopFor t { status := 3 } none))

/-- ANSWER, SEND, PUT, GET_REQ, GET_REPLY, ROW, MARKER, RETURN, CREDIT, BAR, COLL_SEQ, COLL_DATA, FREEZE_MARK, EPOCH,
MEMBER_LOST and HEARTBEAT_MESSAGE: a message of the row's class that can arrive and that passes every check is
delivered at its tile (what that does by class: MessageDelivery). EPOCH_HOLD_EXPIRE, EARLY_MESSAGE_TIMEOUT,
MSG_TIMEOUT, HEARTBEAT_SEND, HEARTBEAT_LOSS, EPOCH_DRAIN_ZERO, QUAD_TRAINED, TRAINING_TIMEOUT, TRAINING_RETRY,
DATA_FLIT_RX, CTRL_FLIT_RX, ACK_TIMEOUT, QUAD_DOWN, FLIT_SLOT, ROUTER_FAILED and ROUTER_DRAINED each answer a next
state under the condition given, and the clause says what it holds. -/
def Obligations.LinkEventsComplete : Prop :=
  (∀ (s : State) (m : Msg) (res : Res) (host : HostBytes) (i : Nat) (d l : Leaf), Reaches s m i d l →
    ∀ r ∈ messageRows m res host, m.cls = r.2.1 → Arrives s m res →
      exec r.1 s = .next (r.2.2 ((heard (s.landed m) m i l).deliver d.tile l m res host)))
  ∧ (∀ (s : State) (b : BitVec 32),
    (∀ m r, (s.bunchOf b).heldMsgs = m :: r →
      exec (.epochHoldExpire b) s = .next (rejected (s.updBunch b (fun x => { x with heldMsgs := r })) m 1))
    ∧ ((s.bunchOf b).st ≠ 0 → (s.bunchOf b).otherModules ≠ [] → ((s.bunchOf b).lowestOn 0).isSome = true →
      ∃ u, exec (.heartbeatSend b) s = .next u ∧ u.tiles = s.tiles ∧ u.mem = s.mem)
    ∧ (∀ k, (s.bunchOf b).st ≠ 0 → k ∈ (s.bunchOf b).otherModules → k ∈ (s.bunchOf b).alive →
      exec (.heartbeatLoss b k) s = .next (s.updBunch b (fun x => { x with alive := x.alive.filter (· != k) })))
    ∧ ((s.bunchOf b).prevLive = true → (s.bunchOf b).sentDrained = false → s.oldTraffic b = false →
      (s.bunchOf b).otherModules = [] →
      ∃ u : State, exec (.epochDrainZero b) s = .next u.goOn ∧ (u.bunchOf b).prevLive = false))
  ∧ (∀ (s : State) (t : Nat),
    (∀ m r, (s.tile t).early = m :: r → leafAt (((s.bunchOf m.bunch).mapFor m.epoch).getD (s.bunchOf m.bunch).map) m.src = none →
      exec (.earlyMessageTimeout t) s = .next (s.setTile t { s.tile t with early := r }))
    ∧ (∀ seq o u r, (s.tile t).sentWith seq = some (o, u) → (s.tile t).core.run = some r →
      exec (.msgTimeout t seq) s = .next (((s.dropSent r.bunch r.mrank u.dst seq).markOp t o.id (fun p =>
        { p with unans := p.unans.erase u }.fail seq 0x2E)).proceed t)))
  ∧ (∀ (s : State) (x : Nat),
    (∀ full rev kind partner bufs retry, s.training x = true →
        (full = true ↔ ((s.quad x).retries = true ∨ (s.runner (x / 4)).stored ≠ some partner
          ∨ ∀ e ∈ (s.runner (x / 4)).laneMap, e ≠ (x % 4, rev))) →
        (∀ j, j < 4 → (s.quad (x / 4 * 4 + j)).st = 3 →
          (s.runner (x / 4)).kind = kind ∧ (s.runner (x / 4)).partner = partner) →
        ∃ w : State, exec (.quadTrained x full rev kind partner bufs retry) s = .next w.flushWaits ∧ (w.quad x).st = 3
          ∧ (w.quad x).full = full ∧ (w.quad x).bufs = bufs)
    ∧ (s.training x = true → ∃ u, exec (.trainingTimeout x) s = .next u ∧ u.quad x = { s.quad x with st := 4 })
    ∧ (s.hasRunner (x / 4) = true → Config.hasPartner (x / 4) = true → (s.runner (x / 4)).disabled = false → (s.quad x).st = 4 →
        exec (.trainingRetry x) s = .next (s.setQuad x { s.quad x with st := 2, retries := true }))
    ∧ (∀ f, s.hasRunner (x / 4) = true → s.quadUp x = true → crcGood f = true →
        (fTYPE f = 1 → fSEQ f = (s.quad x).rxSeq → ∃ u, exec (.dataFlitRx x f) s = .next u
          ∧ (u.quad x).rxSeq = (s.quad x).rxSeq + 1 ∧ (u.quad x).nakking = false)
        ∧ (fTYPE f = 2 → ∃ u, exec (.ctrlFlitRx x f) s = .next u
          ∧ (u.quad x).credits = BitVec.ofNat 64 (fld f.toNat 64 64)))
    ∧ ((s.quad x).st = 3 → (s.quad x).retry ≠ [] → exec (.ackTimeout x) s = .next (s.setQuad x { s.quad x with
        resend := (s.quad x).retry.length, replays := min 0xFFFF ((s.quad x).replays + 1) }))
    ∧ (∀ why, s.hasRunner (x / 4) = true → (s.quad x).st = 3 → s.downDue x why = true →
        exec (.quadDown x why) s = .next ((s.quadDown x).quadFault x 0x0400))
    ∧ (s.hasRunner (x / 4) = true → s.quadUp x = true →
        ∃ u f, exec (.flitSlot x) s = .next u ∧ u.out = .flit x f :: s.out))
  ∧ (∀ (s : State) (i : Nat),
    (∀ why, s.hasRouter i = true → s.routerFailed i = false → exec (.routerFailed i why) s = .next (s.failRouter i)
      ∧ (s.failRouter i).routerFailed i = true)
    ∧ (∀ k, s.bram.paused = true → s.mgcAway = false → s.hasRouter i = true → s.routerFailed i = false → i ∉ s.bram.empty →
        k < 128 → k ≠ i → s.hasRouter k = true → s.routerFailed k = false → k ∉ s.bram.empty →
        exec (.routerDrained i) s = .next { s with bram := { s.bram with empty := s.bram.empty ++ [i] } }))

/-- MEMPORT_TRAINING_DONE, MEMPORT_FAILED, MEMPORT_READ_COMPLETE, MIRROR_REBUILD_DONE, BANDWIDTH_WINDOW_END,
ZQ_CALIBRATION, PEEL_GRANULE_DONE, VIN_RANGE, I3C_TRAY_CAP_WRITE, I3C_ADDRESS_ASSIGN, POWER_ESTIMATE_TICK,
CAP_UNMET_CLEAR, CALIBRATION_WINDOW, THERMAL_SAMPLE, VDD_LOW, REGULATOR, DOMAIN_WAKE_DONE, QUARTER_BANKED, RESYNC_REQ,
RESYNC_DONE, CROSSING_PARK, CLOCK_STOPPED, CLOCK_RETURN, XING_CLOCK_LOST, ISLAND_RESET, MODULE_RESET, POWER_CYCLE,
RAILS_UP, BOOT_VERIFY_DONE, PCIE_LINK_TRAINED and SAMPLER_TICK each answer a next state under the condition given on
the state and the operands alone, and the clause says what it holds. -/
def Obligations.UnitEventsComplete : Prop :=
  (∀ (s : State) (m : Nat), s.hasPort m = true →
    ((s.port m).st = 1 → ∃ u : State, exec (.memportTrainingDone m) s = .next u.unitsGo
      ∧ (u.port m).st = (if (s.dom (140 + m)).st = 1 then 3 else 2) ∧ u.mem = s.mem)
    ∧ ((s.port m).st ≠ 4 → ∃ u, exec (.memportFailed m) s = .next u ∧ (u.port m).st = 4 ∧ u.mem = s.mem)
    ∧ ((s.port m).st = 2 →
      (∀ off who p mc, s.lineRead who m off = some p → s.portServes m = true → ∃ u,
        exec (.memportReadComplete m off who true (s.otherCopy p).isSome mc) s = .next u ∧ u.mem = s.mem ∧ u.hif = s.hif)
      ∧ (∃ u : State, exec (.bandwidthWindowEnd m) s = .next u.unitsGo ∧ (u.port m).latched = (s.port m).bytes
          ∧ (u.port m).window = (s.port m).window + 1)
      ∧ exec (.zqCalibration m) s = .next (s.count (68 + m) 9 1)
      ∧ (∀ g ok, s.peelable m g = true → exec (.peelGranuleDone m g ok) s = .next (s.peeled m g ok)))
    ∧ (∀ c seg lost u, s.rebuilt c seg lost m = some u → exec (.mirrorRebuildDone c seg lost m) s = .next u))
  ∧ (∀ s : State,
    (∀ vin, vinOk vin = false → ∃ u, exec (.vinRange vin) s = .next u
      ∧ u.pwr = { s.pwr with vin := vin, vinRange := true } ∧ u.mem = s.mem ∧ u.tiles = s.tiles)
    ∧ (∀ n, exec (.i3cTrayCapWrite n) s = .next { s with pwr := { s.pwr with
        trayCap := max (capLow s.boot.variant) (min (maxPowerOf s.boot.variant) n.toNat) } })
    ∧ (∀ a, exec (.i3cAddressAssign a) s = .next ({ s with boot := { s.boot with i3cAddr := some a } } : State).signal)
    ∧ (∀ act, ∃ u, exec (.powerEstimateTick act) s = .next u ∧ u.pwr.estimate = s.estimateOf act)
    ∧ (s.pwr.capUnmet = true → s.overCap = false →
        exec (.capUnmetClear) s = .next ({ s with pwr := { s.pwr with capUnmet := false } } : State).signal)
    ∧ (∀ est mea rail vin iin, ∃ u, exec (.calibrationWindow est mea rail vin iin) s = .next u
        ∧ u.pwr.measured = min 0xFFFF (mea / 100) ∧ u.pwr.vin = vin ∧ u.pwr.iin = iin)
    ∧ (∀ l, s.sampleOk l = true → exec (.thermalSample l) s = .next (s.sample l)
        ∧ (s.sample l).pwr.temps = l.foldl (fun t p => tput t p.1 p.2) s.pwr.temps)
    ∧ (∀ t, s.hasTile t = true → (s.dom t).st ≠ 0 → ∃ u, exec (.vddLow t) s = .next u
        ∧ Reported s u 19 (srcId 8 0) (s.runCtx t).toList (BitVec.ofNat 64 t))
    ∧ (∀ d, s.hasDom d = true → ∃ u, exec (.regulator d) s = .next u
        ∧ Reported s u 21 (srcId 8 0) (if d < 136 then (s.runCtx (d % 68)).toList else []) (BitVec.ofNat 64 d))
    ∧ (∀ d, s.hasDom d = true → (s.dom d).st = 3 → s.wakeReady d = true → exec (.domainWakeDone d) s = .next (s.awake d))
    ∧ (∀ q, s.canBank q = true → ∃ w : State, exec (.quarterBanked q) s = .next w.retable
        ∧ (w.dom (136 + q)).st = s.wanted (136 + q))
    ∧ (s.boot.resetN = true → s.boot.pwrEn = true → s.cycling = false →
        exec (.moduleReset .resetN) s = .next (s.closeHusks.moduleReset 1 false))
    ∧ (s.stone.cycleReq = true → ∃ u, exec .powerCycle s = .next u ∧ u.mem = [] ∧ u.tiles = [] ∧ u.boot.step = 0)
    ∧ (s.boot.step = 2 → s.boot.pwrEn = true → s.boot.resetN = false → s.stone.cycleReq = false →
        ∃ u, exec .railsUp s = .next u ∧ u.boot.step = 4 ∧ ∀ d, s.hasDom d = true → (u.dom d).st = 2)
    ∧ (s.boot.step = 1 → s.boot.resetN = false → s.sec.noBank = false → ∀ okA okB,
        exec (.bootVerifyDone okA okB) s = .next (s.bootVerify okA okB))
    ∧ (∀ sp wd fl, 4 ≤ s.boot.step → s.hif.link = false → sp < 16 → wd < 32 → exec (.pcieLinkTrained sp wd fl) s
        = .next { s with hif := { s.hif with link := true, speed := sp, width := wd, flit := fl } })
    ∧ (∀ g, s.groupPresent g = true → s.smpEnabled = true → exec (.samplerTick g) s = .next (s.sampleGroup g)))
  ∧ (∀ (s : State) (i : Nat), s.hasXing i = true →
    let x := s.xing i
    (∀ island, x.st = 2 → (if island = true then x.reqIsland else x.reqCore) = true → ∃ u,
      exec (.resyncReq i island 0) s = .next u ∧ (u.xing i).st = 2 ∧ (u.xing i).dropped = min 0xFFFF x.dropped)
    ∧ (x.st = 2 → x.reqCore = false → x.reqIsland = false → x.doneIsland = true → ∃ y : Xing,
        exec (.resyncDone i false) s = .next (s.setXing i y).flushWaits.unitsGo ∧ y.st = 1
          ∧ y.resyncs = min 0xFFFF (x.resyncs + 1))
    ∧ (x.st = 1 → 16 ≤ i → i < 64 → s.wanted (i + 124) ≤ 1 →
        exec (.crossingPark i) s = .next ((s.setXing i { x with st := 3 }).evalDom (i + 124)))
    ∧ (x.st = 1 → exec (.clockStopped i) s = .next (s.setXing i { x with st := 4 }))
    ∧ (x.st = 4 → exec (.clockReturn i) s = .next (s.setXing i { x with st := 1 }).flushWaits.unitsGo)
    ∧ (x.st = 4 → exec (.xingClockLost i) s
        = .next (((s.setXing i { x with st := 5, needReset := true }).failIsland i).raiseSafety 22 (xingSrc i) []
            (BitVec.ofNat 64 i)))
    ∧ exec (.islandReset i) s = .next (s.resetIsland i))

/-- With the management channel open and the frame accepted, each of COMPOSE_BUNCH, BUNCH_ACTIVATE, DISSOLVE_BUNCH,
RANGE_GRANT, RANGE_RELEASE, TILE_REPLACE, TILE_MOVE, RANGE_RELOCATE, RANGE_MOVE, QUAD_MOVE, DETACH_RELEASE, FREEZE,
THAW, HALT, RESUME, BUNCH_RESET, SET_PERF_MODE, SET_ORCH_CAP, SET_FLOORS, SET_VC_ARB, SET_POWER_POLICY, ORCH_VOTE,
PORT_DISABLE, SET_BANK_KEEP, ROW_ACKNOWLEDGE, SELFTEST_REQUEST, CLOSE, QUOTE, CRED_SET, CRED_CLEAR, UNCLAIM,
KEY_INSTALL, KEY_AGREE_BEGIN, KEY_AGREE, KEY_ACCEPT, KEY_ACTIVATE, KEY_DESTROY, IMAGE_KEY_INSTALL, CONF_SET, FW_WRITE,
FW_TRIAL, FW_COMMIT, FW_UPDATE, MAINT_ENTER, MAINT_LEAVE, FACTORY_UNLOCK and MODULE_RESET that may act does so and
answers status 0 (QUOTE later). -/
def Obligations.ManagementCommandsComplete : Prop :=
  ∀ (s : State) (f : Frame), s.mgmtOpen = true → s.frameOk f = true →
    let w := s.takeFrame f
    let on := fun (ch : Change) => w.unitsOn (w.changeUnits ch) = true
    (∀ c ch, changeOf c = some (f, ch) → (w.change ch).status = 0 → on ch → Answers c s f (w.change ch).s 0)
    ∧ (∀ b r, (w.findBunch b).isSome = true → w.grantOk b r = true → on (.grant b r) → ∃ t, Answers (.rangeGrant f b r) s f t 0)
    ∧ (∀ b m, ((w.port m).rangeOf b).isSome = true → (∀ k ∈ w.sec.jobKeys, k.bunch ≠ b) → w.grafting b = false →
        on (.release b m) → Answers (.rangeRelease f b m) s f ((w.dropRange b m).changed.revote) 0)
    ∧ (∀ b, (w.findBunch b).isSome = true → (w.bunchOf b).st = 1 → w.keyReady b = true → on (.activate b) →
        Answers (.bunchActivate f b) s f ((w.updBunch b (fun x => { x with st := w.liveState b })).changed.revote) 0)
    ∧ (∀ b, (w.findBunch b).isSome = true → (∀ c ∈ w.ctxsOf b, w.queuesOf c = []) → w.grafting b = false → (w.bunchOf b).st ≠ 6 →
        (∀ k ∈ w.sec.jobKeys, k.bunch ≠ b) → on (.dissolve b) → ∃ u, Answers (.dissolveBunch f b) s f u 0)
    ∧ (∀ b out inc, w.graftBad b = none → w.graftBadOpt (w.tileBunch inc) = none → w.lists b out = true →
        w.incomingOk b inc = true → (Member.tile out ∈ (w.bunchOf b).members → w.replaceFits out inc = true) →
        w.replaceServes b out inc = true → Answers (.tileReplace f b out inc) s f (w.beginGraft (replaceGraft b out inc 0)) 0)
    ∧ (∀ t losing gaining pos heir reserve, w.graftBadOpt losing = none → w.graftBadOpt gaining = none → w.hasTile t = true →
        losing ≠ gaining → (w.tile t).role ≠ 2 → (w.tile t).role ≠ 3 → w.tileBunch t = losing → w.inGraft t = false →
        (w.tile t).refusing = false → (∀ h, heir = some h → h ≠ t ∧ w.tileBunch h = losing) →
        w.moveFits t losing heir reserve = true → (losing = 0 → (w.tile t).role ≠ 0 → w.mayServe = true) →
        w.gainFits losing gaining = true →
        ∃ g : Graft, Answers (.tileMove f t losing gaining pos heir reserve) s f (w.beginGraft g) 0 ∧ g.kind = 1 ∧ g.out = t)
    ∧ (∀ b m p i, w.graftBad b = none → ((w.port m).rangeFor b).valid = true →
        w.rangeFree p i ((w.port m).rangeFor b).len = true → (p = m ∨ w.rangeTaken b p = false) →
        w.runClean p i ((w.port m).rangeFor b).len = true →
        ∃ g : Graft, Answers (.rangeRelocate f b m p i) s f (w.beginGraft g) 0 ∧ g.kind = 2 ∧ g.bunch = b ∧ g.out = m ∧ g.port = p)
    ∧ (∀ b m gaining, w.graftBad b = none → w.graftBad gaining = none → ((w.port m).rangeFor b).valid = true → b ≠ gaining →
        w.rangeTaken gaining m = false → w.rangeUsed b m = false →
        ∃ g : Graft, Answers (.rangeMove f b m gaining) s f (w.beginGraft g) 0 ∧ g.kind = 3 ∧ g.bunch = b ∧ g.gaining = gaining)
    ∧ (∀ x gaining, w.graftBadOpt (tget 0 w.comp.quadOwner x) = none → w.graftBadOpt gaining = none → x < 16 →
        w.hasRunner (x / 4) = true → tget 0 w.comp.quadOwner x ≠ gaining → (tget 0 w.comp.quadOwner x = 0 → w.quadFree x = true) →
        (∀ g ∈ w.comp.grafts, g.kind ≠ 4 ∨ g.out ≠ x) → ∃ u, Answers (.quadMove f x gaining) s f u 0)
    ∧ (∀ d, (tget {} w.comp.detach d : Detach).valid = true → Answers (.detachRelease f d) s f
          ({ w with comp := { w.comp with detach := tdel w.comp.detach d } }.changed) 0)
    ∧ (∀ b, (w.findBunch b).isSome = true →
        let x := w.bunchOf b
        (x.parent = 0 → x.freezing = none → x.st = 2 ∨ x.st = 3 →
          (∀ g ∈ w.comp.grafts, ∀ k ∈ w.graftBunches g, w.nestedIn k b = false) → Answers (.freeze f b) s f (w.beginFreeze b) 0)
        ∧ (x.parent = 0 → x.st = 4 → Answers (.thaw f b) s f
              ((((w.nestedDeep b).foldl (fun u i => u.deliverAll i) (w.liveNested b).revote).holdOverdue b).dispatchBunch b) 0)
        ∧ (x.conf = false → x.st ≠ 1 → x.st ≠ 4 → x.st ≠ 6 →
            (∀ a ∈ w.ancestors 257 b, (w.bunchOf a).freezing = none ∧ (w.bunchOf a).wantFreeze = false) →
            ∃ u, Answers (.halt f b) s f u 0 ∧ (b ≠ 0 → (u.bunchOf b).st = 5))
        ∧ (x.st = 5 → ∃ u : State, Answers (.resume f b) s f ((u.holdOverdue b).dispatchBunch b) 0)
        ∧ Answers (.bunchReset f b) s f ((w.resetBunch b).changed) 0
        ∧ (∀ k, Answers (.setPowerPolicy f b k) s f (w.updBunch b (fun x => { x with keepIdle := k })).revote 0)
        ∧ (x.parent = 0 → x.st = 1 → w.boot.maint = false → Answers (.confSet f b) s f ((w.markConf b).changed) 0))
    ∧ (∀ free, Answers (.setPerfMode f free) s f { w with pwr := { w.pwr with free := free } } 0)
    ∧ (∀ n, Answers (.setOrchCap f n) s f { w with pwr := { w.pwr with
        orchCap := max (capLow w.boot.variant) (min (maxPowerOf w.boot.variant) n) } } 0)
    ∧ (∀ m, w.hasPort m = true → Answers (.setFloors f m none) s f (w.setPort m { w.port m with
        explicit := false, stale := false, floors := w.defaultFloors m }) 0)
    ∧ (∀ v, arbOk v = true → Answers (.setVcArb f none v) s f { w with bram := { w.bram with arb := v } } 0)
    ∧ (∀ d v, w.hasDom d = true → v < 3 →
        Answers (.orchVote f d v) s f ((w.setDom d { w.dom d with orch := v }).vote d 2 (max v (w.composeVote d))) 0)
    ∧ (∀ x, w.hasRunner x = true → Answers (.portDisable f x) s f (w.disablePort x) 0)
    ∧ (∀ q keep, q < quartersOf w.boot.variant → Answers (.setBankKeep f q keep) s f
        { w with pwr := { w.pwr with keep := tput w.pwr.keep q keep } } 0)
    ∧ (∀ rows, (∀ r ∈ rows, r < 24) → ∃ u, Answers (.rowAcknowledge f rows) s f u 0 ∧ u.tiles = s.tiles ∧ u.mem = s.mem)
    ∧ (∀ t, w.hasTile t = true → (w.tile t).role < 2 → w.turnBusy t = false → t ∉ w.stone.asked →
        Answers (.selftestRequest f t) s f { w with stone := { w.stone with asked := w.stone.asked ++ [t] } } 0)
    ∧ exec (.close f) s = .next ((w.respond f 0 []).closeSession f.sid)
    ∧ (∀ nonce, s.sec.quote = none → exec (.quote (some f) nonce) s = .next { w with sec := { w.sec with
        quote := some { mailbox := false, sid := f.sid, seq := f.seq, nonce := nonce } } })
    ∧ (∀ i c, (i = 0 → w.slotOfFrame f = some 0) → i < 8 → credOk c = true → Answers (.credSet f i c) s f
        { w with sec := { w.sec with slots := tput w.sec.slots i { cred := some c } } } 0)
    ∧ (∀ i, (i = 0 → w.slotOfFrame f = some 0) → i < 8 → ∃ u, exec (.credClear f i) s = .next u ∧ u.credSlot i = {})
    ∧ (w.slotOfFrame f = some 0 → (∀ e ∈ w.comp.bunches, e.2.st = 0) → ∃ u, exec (.unclaim f) s = .next u
        ∧ u.sec.slots = [] ∧ u.sec.sessions = [])
    ∧ (∀ b id bytes k, keyBad w.sec.jobKeys b id (w.findBunch b).isSome = none →
        let more := { w with sec := { w.sec with jobKeys := w.sec.jobKeys ++ [{ id := id, bunch := b, active := false, key := k }] } }
        (Config.unwrap (w.wrapKey f) bytes = some k → Answers (.keyInstall f b id bytes) s f more 0)
        ∧ (w.openBlob b id bytes = some k → Answers (.keyAccept f b id bytes) s f more 0))
    ∧ (∀ b id bytes k, keyBad w.sec.imgKeys b id (w.findBunch b).isSome = none → Config.unwrap (w.wrapKey f) bytes = some k →
        Answers (.imageKeyInstall f b id bytes) s f { w with sec := { w.sec with
          imgKeys := w.sec.imgKeys ++ [{ id := id, bunch := b, active := false, key := k }] } } 0)
    ∧ (∃ (n : Nat) (u : State), exec (.keyAgreeBegin f) s = .next (u.respond f 0 (toBytes 32 n)) ∧ u.sec.agree = some (BitVec.ofNat 256 n))
    ∧ (∀ b id qs, keyBad w.sec.jobKeys b id (w.findBunch b).isSome = none → w.sec.agree ≠ none → (∀ q ∈ qs, w.peerOk q = true) →
        ∃ (u : State) (body : List Byte), exec (.keyAgree f b id qs) s = .next (u.respond f 0 body) ∧ u.sec.agree = none)
    ∧ (∀ b id, hasKey w.sec.jobKeys b id = true →
        Answers (.keyActivate f b id) s f { w with sec := { w.sec with jobKeys := activateKey w.sec.jobKeys b id } } 0
        ∧ ∃ u, Answers (.keyDestroy f b id) s f u 0 ∧ hasKey u.sec.jobKeys b id = false)
    ∧ (∀ imgs, (∀ x ∈ imgs, w.imageOk x = true) → Answers (.fwWrite f imgs) s f (imgs.foldl (fun s x => s.writeImage x) w) 0)
    ∧ Answers (.fwTrial f) s f { w with sec := { w.sec with trial := true } } 0
    ∧ (w.sec.trial = true → (∀ e ∈ w.sec.minSvn, e.2.2 ≤ 64) → Answers (.fwCommit f false) s f { w with sec := { w.sec with
        committed := w.otherBank, trial := false, trialRun := false } } 0)
    ∧ (∀ kind, 2 ≤ kind → kind ≤ 5 → w.instances kind ≠ 0 → w.sec.updActive = false → w.sec.trial = true →
        (kind = 4 → ∀ j, j < 4 → w.lastQuads j = false) → ∃ u : State, Answers (.fwUpdate f kind) s f u.drainUnit 0
          ∧ u.sec.updActive = true ∧ u.sec.updKind = kind ∧ u.sec.updTotal = w.updateCount kind)
    ∧ (w.confBunch = false → Answers (.maintEnter f) s f { w with boot := { w.boot with maint := true } } 0)
    ∧ (w.pagedElsewhere = false → Answers (.maintLeave f) s f { w with boot := { w.boot with maint := false } } 0)
    ∧ (w.slotOfFrame f = some 0 → w.boot.maint = true → w.anyBunch = false → w.allClean = true →
        Answers (.factoryUnlock f true) s f
          { w with sec := { w.sec with slots := [], jobKeys := [], imgKeys := [], unlocked := true } } 0)
    ∧ (s.cycling = false → exec (.moduleReset (.orchestrator f false)) s
        = .next ((w.respond f 0 []).closeHusks.moduleReset 3 false))

/-- GRAFT_DRAIN_DONE, SHARE_COPY_DONE, RANGE_COPY_DONE, QUAD_RETRY_EMPTY, SAFETY_FAULT_REACTION, ESCALATION,
HUSK_RECORD_COMPLETE, HUSK_UNIT_TIMEOUT, PACER_FREQ_WINDOW, MGC_KICK, HOSTIF_HEARTBEAT, MGC_WATCHDOG, HOSTIF_WATCHDOG,
STONE_LOCKSTEP, ROTATION_TURN_START, ROTATION_SELFTEST_DONE, HELLO, PROOF, CLAIM, SESSION_IDLE_TIMEOUT,
SLOT_LOCK_EXPIRE, UNIT_UPDATE_DONE, QUOTE_READY, CTX_SAVE_DONE and CTX_RESTORE_DONE each answer a next state under the
condition given on the state and the operands alone, and the clause says what it holds. -/
def Obligations.ControlEventsComplete : Prop :=
  ∀ s : State,
    (∀ b g, s.tileGraft b 1 = none → s.tileGraft b 3 = some g → s.tileHeld g = false →
      exec (.graftDrainDone b) s = .next (s.finishTile g))
    ∧ (∀ b g, s.tileGraft b 1 = some g → s.drained g = true → Member.tile g.out ∈ (s.bunchOf g.bunch).members →
        s.copyOrder g.out ≠ [] → ∃ u, exec (.graftDrainDone b) s = .next u
          ∧ { g with step := 2, todo := s.copyOrder g.out } ∈ u.comp.grafts ∧ u.mem = s.mem)
    ∧ (∀ b g c rest bad, s.tileGraft b 2 = some g → s.mgcAway = false → g.todo = c :: rest → rest ≠ [] →
        (s.granulesOn g.out c = 0 ∨ s.shareRoom g c = true) → s.framesHeld (frameOn g.out) = false →
        ∃ (v : State) (h : Graft) (lines : List Nat), exec (.shareCopyDone b bad) s = .next ((v.setGraft g h).copyUe g.out c lines)
          ∧ h.todo = rest)
    ∧ (∀ b g, s.comp.grafts.find? (fun g => g.kind == 2 && g.bunch == b && g.step == 3) = some g → s.prevLives g = false →
        s.waitsUpdate g = false → s.rebuildOpen g = true →
        s.framesHeld (frameIn g.out ((s.port g.out).rangeFor b).base ((s.port g.out).rangeFor b).len) = false →
        exec (.rangeCopyDone b) s = .next (s.finishRelocate g))
    ∧ (∀ x g, s.comp.grafts.find? (fun g => g.kind == 4 && g.out == x) = some g → (g.bunch = 0 ∨ s.quadEmpty x = true) →
        s.graftWaits g = false → s.waitsUpdate g = false → exec (.quadRetryEmpty x) s = .next (s.moveQuad g))
    ∧ (∀ flt, (flt ∈ s.stone.faults ∨ s.ownReport flt = true) → ∃ u, exec (.safetyFaultReaction flt) s = .next u
        ∧ (u.latch flt.row).set = true ∧ u.stone.safe = true ∧ u.stone.cause = rowCode flt.row)
    ∧ (∀ row r, s.stone.reacts.find? (fun r => r.row == row && r.reaction < 6) = some r →
        exec (.escalation row) s = .next (s.escalate r))
    ∧ (∀ r units, s.huskFor = some r → s.huskAll r units = true → exec (.huskRecordComplete units) s
          = .next (((s.writeHusk r units false).setReact r { r with phase := 1 }).runStep { r with phase := 1 }).settleSafe)
    ∧ (∀ r src, s.huskFor = some r → src ∈ s.huskScope r → src ∉ r.unreadable →
        exec (.huskUnitTimeout src) s = .next (s.setReact r { r with unreadable := r.unreadable ++ [src] }))
    ∧ (∀ p q l, p ≤ q + 100 → q ≤ p + 100 →
        exec (.pacerFreqWindow p q l) s = .next { s with stone := { s.stone with pacerBad := 0 } })
    ∧ exec .mgcKick s = .next { s with stone := { s.stone with mgcAlive := true } }
    ∧ exec .hostifHeartbeat s = .next { s with stone := { s.stone with hostAlive := true } }
    ∧ (s.stone.mgcAlive = false → s.stone.mgcSuspended = false → ∃ u, exec .mgcWatchdog s = .next u
        ∧ Reported s u 16 (srcId 7 0) [] 0)
    ∧ (s.stone.hostAlive = false → ∃ u, exec .hostifWatchdog s = .next u ∧ Reported s u 13 (srcId 5 0x1000) [] 0)
    ∧ (∃ u, exec .stoneLockstep s = .next u ∧ u.stone.safe = true ∧ u.stone.cycleReq = true ∧ u.stone.nvRow17 = true)
    ∧ (∀ t, s.mgcAway = false → s.nextTurn = some t → (s.tile t).role = 1 → s.stone.inTurn.length < s.spares.length →
        ∃ u, exec .rotationTurnStart s = .next u ∧ (u.tile t).role = 2 ∧ u.stone.inTurn = s.stone.inTurn ++ [t])
    ∧ (∀ t, s.hasTile t = true → (s.tile t).role = 2 →
        ∃ u, exec (.rotationSelftestDone t true) s = .next u ∧ (u.tile t).role = 1 ∧ u.stone.inTurn = s.stone.inTurn.erase t)
    ∧ (∀ i nc c, s.mgmtOpen = true → (s.credSlot i).cred = some c → s.sec.sessions.length < 4 → (s.credSlot i).locked = false →
        ∃ u x, exec (.hello i nc) s = .next u ∧ u.sec.sessions = s.sec.sessions ++ [x] ∧ x.slot = i ∧ x.nc = nc)
    ∧ (∀ sid x c, s.mgmtOpen = true → s.sec.sessions.find? (fun x => !x.isOpen && x.sid == sid) = some x →
        (s.credSlot x.slot).cred = some c → (s.credSlot x.slot).locked = false →
        s.sec.sessions.find? (fun y => y.sid == sid) = some x → ∃ u y, exec (.proof sid (openProof (credKey c) x)) s = .next u
          ∧ u.openSession sid = some y ∧ y.slot = x.slot)
    ∧ (∀ ct k, s.mgmtOpen = true → (∀ i, i < 8 → (s.credSlot i).cred = none) → s.sec.quoteSeq ≠ 0 → s.kemOpen ct = some k →
        exec (.claim ct) s = .next (({ s with sec := { s.sec with
          slots := tput s.sec.slots 0 { cred := some (.key (Config.kmac256 k 4 (toBytes 8 Config.deviceId.toNat))) } } }
          : State).answerOpen 0 []))
    ∧ (∀ sid, (∃ x ∈ s.sec.sessions, x.sid = sid) → exec (.sessionIdleTimeout sid) s
        = .next { s with sec := { s.sec with sessions := s.sec.sessions.filter (fun x => x.sid != sid) } })
    ∧ (∀ i, (s.credSlot i).locked = true → exec (.slotLockExpire i) s = .next { s with sec := { s.sec with
        slots := tput s.sec.slots i { s.credSlot i with locked := false, fails := [] } } })
    ∧ (∀ i ok, s.sec.updActive = true → s.updUnit = some i → s.sec.updDrained = true →
        exec (.unitUpdateDone ok) s = .next (s.unitDone i (ok && s.flashOk s.otherBank s.sec.updKind)))
    ∧ (∀ r, s.sec.quote = some r → s.comp.grafts = [] → s.mgcAway = false → ∃ u, exec .quoteReady s = .next u
        ∧ u.sec.quote = none ∧ u.sec.quoteSeq = s.sec.quoteSeq + 1)
    ∧ (∀ m, s.hif.busy = some m → m.op = 8 → s.saveFails m = none → s.moveRes (s.saveReads m.idx) [] .ok = .ok →
        exec (.ctxSaveDone .ok) s = .next (done m (({ s with fresh := s.fresh + 1 } : State).emit (.dma s.mgrPasid
          (m.args.getD 0 0).toNat (s.imageBytes m.idx))) 0 (BitVec.ofNat 32 ((s.imageBytes m.idx).length / 4096))))
    ∧ (∀ m img k x u, s.hif.busy = some m → m.op = 9 → ofBytes (img.take 2) = 1 →
        s.openKey (BitVec.ofNat 32 (m.args.getD 2 0).toNat) img = some k → Config.imageIn img k = some x →
        State.rebuild (s.emit (.dmaRead s.mgrPasid (m.args.getD 0 0).toNat (m.args.getD 1 0).toNat)) m x = .ok u →
        exec (.ctxRestoreDone .ok img) s = .next (u.mboxEnd 0 0))
end

