-- ==== Sys2Proof/Laws/Tables.lean ====
section
/-! SUPPORT. Sparse tables: a read after a write, and the rising order of keys. -/

namespace Sys2Proof.Machine

variable {α : Type}

/-- Keys rise strictly. -/
abbrev Rises (t : Table α) : Prop := t.Pairwise (fun x y => x.1 < y.1)

@[simp] theorem tget_nil (d : α) (k : Nat) : tget d [] k = d := rfl

@[simp] theorem tget_tput_same (d v : α) (t : Table α) (k : Nat) : tget d (tput t k v) k = v := by
  induction t with
  | nil => simp [tput, tget]
  | cons e r ih =>
    obtain ⟨k', w⟩ := e
    simp only [tput]
    split
    · simp [tget]
    · split
      · simp [tget]
      · simp [tget, *]

theorem tget_of_lt (d : α) (t : Table α) (k : Nat) (h : ∀ e ∈ t, k < e.1) : tget d t k = d := by
  induction t with
  | nil => rfl
  | cons e r ih =>
    obtain ⟨k', w⟩ := e
    have hk : k < k' := h (k', w) (by simp)
    have : k' ≠ k := by omega
    simp only [tget, this, if_false]
    exact ih (fun e he => h e (by simp [he]))

theorem tget_tput_ne (d v : α) (t : Table α) (k j : Nat) (h : j ≠ k) : tget d (tput t k v) j = tget d t j := by
  induction t with
  | nil => simp [tput, tget, Ne.symm h]
  | cons e r ih =>
    obtain ⟨k', w⟩ := e
    simp only [tput]
    split
    · simp [tget, Ne.symm h]
    · split
      · rename_i e'; subst e'; simp [tget, Ne.symm h]
      · simp [tget, ih]

/-- What a write can list: the new entry and the old ones. -/
theorem mem_tput (t : Table α) (k : Nat) (v : α) (e : Nat × α) (h : e ∈ tput t k v) : e = (k, v) ∨ e ∈ t := by
  induction t with
  | nil => simpa [tput] using h
  | cons c r ih =>
    obtain ⟨k', w⟩ := c
    simp only [tput] at h
    split at h
    · simpa using h
    · split at h
      · rcases List.mem_cons.1 h with h | h
        · exact .inl h
        · exact .inr (by simp [h])
      · rcases List.mem_cons.1 h with h | h
        · exact .inr (by simp [h])
        · rcases ih h with h | h
          · exact .inl h
          · exact .inr (by simp [h])

/-- A write keeps the rising order. -/
theorem rises_tput (t : Table α) (k : Nat) (v : α) (h : Rises t) : Rises (tput t k v) := by
  induction t with
  | nil => simp [Rises, tput]
  | cons c r ih =>
    obtain ⟨k', w⟩ := c
    obtain ⟨h1, h2⟩ := List.pairwise_cons.1 h
    simp only [tput]
    split
    · rename_i hk
      refine List.pairwise_cons.2 ⟨fun e he => ?_, h⟩
      rcases List.mem_cons.1 he with rfl | he
      · exact hk
      · exact Nat.lt_trans hk (h1 e he)
    · split
      · rename_i hk; subst hk
        exact List.pairwise_cons.2 ⟨fun e he => h1 e he, h2⟩
      · refine List.pairwise_cons.2 ⟨fun e he => ?_, ih h2⟩
        rcases mem_tput r k v e he with rfl | he
        · simp only []; omega
        · exact h1 e he

/-- A filter keeps the rising order. -/
theorem rises_filter (t : Table α) (p : Nat × α → Bool) (h : Rises t) : Rises (t.filter p) := h.filter p

/-- A read at a key that a removal or filter leaves is unchanged. -/
theorem tget_filter (d : α) (t : Table α) (p : Nat × α → Bool) (k : Nat) (hp : ∀ v, p (k, v) = true) :
    tget d (t.filter p) k = tget d t k := by
  induction t with
  | nil => rfl
  | cons c r ih =>
    obtain ⟨k', w⟩ := c
    by_cases hk : k' = k
    · subst hk; simp [hp, tget]
    · simp only [List.filter_cons]
      split
      · simp [tget, hk, ih]
      · simp [tget, hk, ih]

/-- A read at a key that a filter removes gives the default. -/
theorem tget_filter_gone (d : α) (t : Table α) (p : Nat × α → Bool) (k : Nat) (hp : ∀ v, p (k, v) = false) :
    tget d (t.filter p) k = d := by
  induction t with
  | nil => rfl
  | cons c r ih =>
    obtain ⟨k', w⟩ := c
    by_cases hk : k' = k
    · subst hk; simp [hp, ih]
    · simp only [List.filter_cons]
      split
      · simp [tget, hk, ih]
      · exact ih

end Sys2Proof.Machine
end

