-- ==== Sys2Proof/Laws/State.lean ====
section
/-! SUPPORT. What each update of one numbered instance changes and keeps: the instance itself, every other instance, and every
other field of the state. -/

namespace Sys2Proof.Machine

/-! ### `setTile` -/

@[simp] theorem State.setTile_tile (s : State) (i : Nat) (x : Tile) : (s.setTile i x).tile i = x :=
  tget_tput_same _ _ _ _

theorem State.setTile_tile_ne (s : State) (i j : Nat) (x : Tile) (h : j ≠ i) : (s.setTile i x).tile j = s.tile j :=
  tget_tput_ne _ _ _ _ _ h

@[simp] theorem State.setTile_pending (s : State) (i : Nat) (x : Tile) : (s.setTile i x).pending = s.pending := rfl
@[simp] theorem State.setTile_time (s : State) (i : Nat) (x : Tile) : (s.setTile i x).time = s.time := rfl
@[simp] theorem State.setTile_fresh (s : State) (i : Nat) (x : Tile) : (s.setTile i x).fresh = s.fresh := rfl
@[simp] theorem State.setTile_out (s : State) (i : Nat) (x : Tile) : (s.setTile i x).out = s.out := rfl
@[simp] theorem State.setTile_mem (s : State) (i : Nat) (x : Tile) : (s.setTile i x).mem = s.mem := rfl
@[simp] theorem State.setTile_written (s : State) (i : Nat) (x : Tile) : (s.setTile i x).written = s.written := rfl
@[simp] theorem State.setTile_badLines (s : State) (i : Nat) (x : Tile) : (s.setTile i x).badLines = s.badLines := rfl
@[simp] theorem State.setTile_watch (s : State) (i : Nat) (x : Tile) : (s.setTile i x).watch = s.watch := rfl
@[simp] theorem State.setTile_boot (s : State) (i : Nat) (x : Tile) : (s.setTile i x).boot = s.boot := rfl
@[simp] theorem State.setTile_hif (s : State) (i : Nat) (x : Tile) : (s.setTile i x).hif = s.hif := rfl
@[simp] theorem State.setTile_comp (s : State) (i : Nat) (x : Tile) : (s.setTile i x).comp = s.comp := rfl
@[simp] theorem State.setTile_ports (s : State) (i : Nat) (x : Tile) : (s.setTile i x).ports = s.ports := rfl
@[simp] theorem State.setTile_bram (s : State) (i : Nat) (x : Tile) : (s.setTile i x).bram = s.bram := rfl
@[simp] theorem State.setTile_runners (s : State) (i : Nat) (x : Tile) : (s.setTile i x).runners = s.runners := rfl
@[simp] theorem State.setTile_quads (s : State) (i : Nat) (x : Tile) : (s.setTile i x).quads = s.quads := rfl
@[simp] theorem State.setTile_lanes (s : State) (i : Nat) (x : Tile) : (s.setTile i x).lanes = s.lanes := rfl
@[simp] theorem State.setTile_pwr (s : State) (i : Nat) (x : Tile) : (s.setTile i x).pwr = s.pwr := rfl
@[simp] theorem State.setTile_xings (s : State) (i : Nat) (x : Tile) : (s.setTile i x).xings = s.xings := rfl
@[simp] theorem State.setTile_stone (s : State) (i : Nat) (x : Tile) : (s.setTile i x).stone = s.stone := rfl
@[simp] theorem State.setTile_sec (s : State) (i : Nat) (x : Tile) : (s.setTile i x).sec = s.sec := rfl
@[simp] theorem State.setTile_obs (s : State) (i : Nat) (x : Tile) : (s.setTile i x).obs = s.obs := rfl
@[simp] theorem State.setTile_seqs (s : State) (i : Nat) (x : Tile) : (s.setTile i x).seqs = s.seqs := rfl
@[simp] theorem State.setTile_faultLost (s : State) (i : Nat) (x : Tile) : (s.setTile i x).faultLost = s.faultLost := rfl
@[simp] theorem State.setTile_queue (s : State) (i j : Nat) (x : Tile) : (s.setTile i x).queue j = s.queue j := rfl
@[simp] theorem State.setTile_ctx (s : State) (i j : Nat) (x : Tile) : (s.setTile i x).ctx j = s.ctx j := rfl
@[simp] theorem State.setTile_fence (s : State) (i j : Nat) (x : Tile) : (s.setTile i x).fence j = s.fence j := rfl
@[simp] theorem State.setTile_obj (s : State) (i j : Nat) (x : Tile) : (s.setTile i x).obj j = s.obj j := rfl
@[simp] theorem State.setTile_bunch (s : State) (i j : Nat) (x : Tile) : (s.setTile i x).bunch j = s.bunch j := rfl
@[simp] theorem State.setTile_port (s : State) (i j : Nat) (x : Tile) : (s.setTile i x).port j = s.port j := rfl
@[simp] theorem State.setTile_quad (s : State) (i j : Nat) (x : Tile) : (s.setTile i x).quad j = s.quad j := rfl
@[simp] theorem State.setTile_runner (s : State) (i j : Nat) (x : Tile) : (s.setTile i x).runner j = s.runner j := rfl
@[simp] theorem State.setTile_dom (s : State) (i j : Nat) (x : Tile) : (s.setTile i x).dom j = s.dom j := rfl
@[simp] theorem State.setTile_xing (s : State) (i j : Nat) (x : Tile) : (s.setTile i x).xing j = s.xing j := rfl
@[simp] theorem State.setTile_group (s : State) (i j : Nat) (x : Tile) : (s.setTile i x).group j = s.group j := rfl
@[simp] theorem State.setTile_trace (s : State) (i j : Nat) (x : Tile) : (s.setTile i x).trace j = s.trace j := rfl
@[simp] theorem State.setTile_peek (s : State) (i a : Nat) (x : Tile) : (s.setTile i x).peek a = s.peek a := rfl

/-! ### `setQueue` -/

@[simp] theorem State.setQueue_queue (s : State) (i : Nat) (x : Queue) : (s.setQueue i x).queue i = x :=
  tget_tput_same _ _ _ _

theorem State.setQueue_queue_ne (s : State) (i j : Nat) (x : Queue) (h : j ≠ i) : (s.setQueue i x).queue j = s.queue j :=
  tget_tput_ne _ _ _ _ _ h

@[simp] theorem State.setQueue_pending (s : State) (i : Nat) (x : Queue) : (s.setQueue i x).pending = s.pending := rfl
@[simp] theorem State.setQueue_time (s : State) (i : Nat) (x : Queue) : (s.setQueue i x).time = s.time := rfl
@[simp] theorem State.setQueue_fresh (s : State) (i : Nat) (x : Queue) : (s.setQueue i x).fresh = s.fresh := rfl
@[simp] theorem State.setQueue_out (s : State) (i : Nat) (x : Queue) : (s.setQueue i x).out = s.out := rfl
@[simp] theorem State.setQueue_mem (s : State) (i : Nat) (x : Queue) : (s.setQueue i x).mem = s.mem := rfl
@[simp] theorem State.setQueue_written (s : State) (i : Nat) (x : Queue) : (s.setQueue i x).written = s.written := rfl
@[simp] theorem State.setQueue_badLines (s : State) (i : Nat) (x : Queue) : (s.setQueue i x).badLines = s.badLines := rfl
@[simp] theorem State.setQueue_watch (s : State) (i : Nat) (x : Queue) : (s.setQueue i x).watch = s.watch := rfl
@[simp] theorem State.setQueue_boot (s : State) (i : Nat) (x : Queue) : (s.setQueue i x).boot = s.boot := rfl
@[simp] theorem State.setQueue_comp (s : State) (i : Nat) (x : Queue) : (s.setQueue i x).comp = s.comp := rfl
@[simp] theorem State.setQueue_tiles (s : State) (i : Nat) (x : Queue) : (s.setQueue i x).tiles = s.tiles := rfl
@[simp] theorem State.setQueue_ports (s : State) (i : Nat) (x : Queue) : (s.setQueue i x).ports = s.ports := rfl
@[simp] theorem State.setQueue_bram (s : State) (i : Nat) (x : Queue) : (s.setQueue i x).bram = s.bram := rfl
@[simp] theorem State.setQueue_runners (s : State) (i : Nat) (x : Queue) : (s.setQueue i x).runners = s.runners := rfl
@[simp] theorem State.setQueue_quads (s : State) (i : Nat) (x : Queue) : (s.setQueue i x).quads = s.quads := rfl
@[simp] theorem State.setQueue_lanes (s : State) (i : Nat) (x : Queue) : (s.setQueue i x).lanes = s.lanes := rfl
@[simp] theorem State.setQueue_pwr (s : State) (i : Nat) (x : Queue) : (s.setQueue i x).pwr = s.pwr := rfl
@[simp] theorem State.setQueue_xings (s : State) (i : Nat) (x : Queue) : (s.setQueue i x).xings = s.xings := rfl
@[simp] theorem State.setQueue_stone (s : State) (i : Nat) (x : Queue) : (s.setQueue i x).stone = s.stone := rfl
@[simp] theorem State.setQueue_sec (s : State) (i : Nat) (x : Queue) : (s.setQueue i x).sec = s.sec := rfl
@[simp] theorem State.setQueue_obs (s : State) (i : Nat) (x : Queue) : (s.setQueue i x).obs = s.obs := rfl
@[simp] theorem State.setQueue_seqs (s : State) (i : Nat) (x : Queue) : (s.setQueue i x).seqs = s.seqs := rfl
@[simp] theorem State.setQueue_faultLost (s : State) (i : Nat) (x : Queue) : (s.setQueue i x).faultLost = s.faultLost := rfl
@[simp] theorem State.setQueue_hif_ready (s : State) (i : Nat) (x : Queue) :
    (s.setQueue i x).hif.ready = s.hif.ready := rfl
@[simp] theorem State.setQueue_hif_speed (s : State) (i : Nat) (x : Queue) :
    (s.setQueue i x).hif.speed = s.hif.speed := rfl
@[simp] theorem State.setQueue_hif_width (s : State) (i : Nat) (x : Queue) :
    (s.setQueue i x).hif.width = s.hif.width := rfl
@[simp] theorem State.setQueue_hif_flit (s : State) (i : Nat) (x : Queue) :
    (s.setQueue i x).hif.flit = s.hif.flit := rfl
@[simp] theorem State.setQueue_hif_link (s : State) (i : Nat) (x : Queue) :
    (s.setQueue i x).hif.link = s.hif.link := rfl
@[simp] theorem State.setQueue_hif_apDrops (s : State) (i : Nat) (x : Queue) :
    (s.setQueue i x).hif.apDrops = s.hif.apDrops := rfl
@[simp] theorem State.setQueue_hif_fenceDisc (s : State) (i : Nat) (x : Queue) :
    (s.setQueue i x).hif.fenceDisc = s.hif.fenceDisc := rfl
@[simp] theorem State.setQueue_hif_mgmtDisc (s : State) (i : Nat) (x : Queue) :
    (s.setQueue i x).hif.mgmtDisc = s.hif.mgmtDisc := rfl
@[simp] theorem State.setQueue_hif_bar4Open (s : State) (i : Nat) (x : Queue) :
    (s.setQueue i x).hif.bar4Open = s.hif.bar4Open := rfl
@[simp] theorem State.setQueue_hif_bar4Tile (s : State) (i : Nat) (x : Queue) :
    (s.setQueue i x).hif.bar4Tile = s.hif.bar4Tile := rfl
@[simp] theorem State.setQueue_hif_barWait (s : State) (i : Nat) (x : Queue) :
    (s.setQueue i x).hif.barWait = s.hif.barWait := rfl
@[simp] theorem State.setQueue_hif_args (s : State) (i : Nat) (x : Queue) :
    (s.setQueue i x).hif.args = s.hif.args := rfl
@[simp] theorem State.setQueue_hif_index (s : State) (i : Nat) (x : Queue) :
    (s.setQueue i x).hif.index = s.hif.index := rfl
@[simp] theorem State.setQueue_hif_busy (s : State) (i : Nat) (x : Queue) :
    (s.setQueue i x).hif.busy = s.hif.busy := rfl
@[simp] theorem State.setQueue_hif_status (s : State) (i : Nat) (x : Queue) :
    (s.setQueue i x).hif.status = s.hif.status := rfl
@[simp] theorem State.setQueue_hif_detail (s : State) (i : Nat) (x : Queue) :
    (s.setQueue i x).hif.detail = s.hif.detail := rfl
@[simp] theorem State.setQueue_hif_fqCfg (s : State) (i : Nat) (x : Queue) :
    (s.setQueue i x).hif.fqCfg = s.hif.fqCfg := rfl
@[simp] theorem State.setQueue_hif_fqHead (s : State) (i : Nat) (x : Queue) :
    (s.setQueue i x).hif.fqHead = s.hif.fqHead := rfl
@[simp] theorem State.setQueue_hif_fqOver (s : State) (i : Nat) (x : Queue) :
    (s.setQueue i x).hif.fqOver = s.hif.fqOver := rfl
@[simp] theorem State.setQueue_hif_fqWritten (s : State) (i : Nat) (x : Queue) :
    (s.setQueue i x).hif.fqWritten = s.hif.fqWritten := rfl
@[simp] theorem State.setQueue_hif_msixTable (s : State) (i : Nat) (x : Queue) :
    (s.setQueue i x).hif.msixTable = s.hif.msixTable := rfl
@[simp] theorem State.setQueue_hif_msixPend (s : State) (i : Nat) (x : Queue) :
    (s.setQueue i x).hif.msixPend = s.hif.msixPend := rfl
@[simp] theorem State.setQueue_hif_ctxs (s : State) (i : Nat) (x : Queue) :
    (s.setQueue i x).hif.ctxs = s.hif.ctxs := rfl
@[simp] theorem State.setQueue_hif_fences (s : State) (i : Nat) (x : Queue) :
    (s.setQueue i x).hif.fences = s.hif.fences := rfl
@[simp] theorem State.setQueue_hif_objs (s : State) (i : Nat) (x : Queue) :
    (s.setQueue i x).hif.objs = s.hif.objs := rfl
@[simp] theorem State.setQueue_tile (s : State) (i j : Nat) (x : Queue) : (s.setQueue i x).tile j = s.tile j := rfl
@[simp] theorem State.setQueue_ctx (s : State) (i j : Nat) (x : Queue) : (s.setQueue i x).ctx j = s.ctx j := rfl
@[simp] theorem State.setQueue_fence (s : State) (i j : Nat) (x : Queue) : (s.setQueue i x).fence j = s.fence j := rfl
@[simp] theorem State.setQueue_obj (s : State) (i j : Nat) (x : Queue) : (s.setQueue i x).obj j = s.obj j := rfl
@[simp] theorem State.setQueue_bunch (s : State) (i j : Nat) (x : Queue) : (s.setQueue i x).bunch j = s.bunch j := rfl
@[simp] theorem State.setQueue_port (s : State) (i j : Nat) (x : Queue) : (s.setQueue i x).port j = s.port j := rfl
@[simp] theorem State.setQueue_quad (s : State) (i j : Nat) (x : Queue) : (s.setQueue i x).quad j = s.quad j := rfl
@[simp] theorem State.setQueue_runner (s : State) (i j : Nat) (x : Queue) : (s.setQueue i x).runner j = s.runner j := rfl
@[simp] theorem State.setQueue_dom (s : State) (i j : Nat) (x : Queue) : (s.setQueue i x).dom j = s.dom j := rfl
@[simp] theorem State.setQueue_xing (s : State) (i j : Nat) (x : Queue) : (s.setQueue i x).xing j = s.xing j := rfl
@[simp] theorem State.setQueue_group (s : State) (i j : Nat) (x : Queue) : (s.setQueue i x).group j = s.group j := rfl
@[simp] theorem State.setQueue_trace (s : State) (i j : Nat) (x : Queue) : (s.setQueue i x).trace j = s.trace j := rfl
@[simp] theorem State.setQueue_peek (s : State) (i a : Nat) (x : Queue) : (s.setQueue i x).peek a = s.peek a := rfl

/-! ### `setCtx` -/

@[simp] theorem State.setCtx_ctx (s : State) (i : Nat) (x : Ctx) : (s.setCtx i x).ctx i = x :=
  tget_tput_same _ _ _ _

theorem State.setCtx_ctx_ne (s : State) (i j : Nat) (x : Ctx) (h : j ≠ i) : (s.setCtx i x).ctx j = s.ctx j :=
  tget_tput_ne _ _ _ _ _ h

@[simp] theorem State.setCtx_pending (s : State) (i : Nat) (x : Ctx) : (s.setCtx i x).pending = s.pending := rfl
@[simp] theorem State.setCtx_time (s : State) (i : Nat) (x : Ctx) : (s.setCtx i x).time = s.time := rfl
@[simp] theorem State.setCtx_fresh (s : State) (i : Nat) (x : Ctx) : (s.setCtx i x).fresh = s.fresh := rfl
@[simp] theorem State.setCtx_out (s : State) (i : Nat) (x : Ctx) : (s.setCtx i x).out = s.out := rfl
@[simp] theorem State.setCtx_mem (s : State) (i : Nat) (x : Ctx) : (s.setCtx i x).mem = s.mem := rfl
@[simp] theorem State.setCtx_written (s : State) (i : Nat) (x : Ctx) : (s.setCtx i x).written = s.written := rfl
@[simp] theorem State.setCtx_badLines (s : State) (i : Nat) (x : Ctx) : (s.setCtx i x).badLines = s.badLines := rfl
@[simp] theorem State.setCtx_watch (s : State) (i : Nat) (x : Ctx) : (s.setCtx i x).watch = s.watch := rfl
@[simp] theorem State.setCtx_boot (s : State) (i : Nat) (x : Ctx) : (s.setCtx i x).boot = s.boot := rfl
@[simp] theorem State.setCtx_comp (s : State) (i : Nat) (x : Ctx) : (s.setCtx i x).comp = s.comp := rfl
@[simp] theorem State.setCtx_tiles (s : State) (i : Nat) (x : Ctx) : (s.setCtx i x).tiles = s.tiles := rfl
@[simp] theorem State.setCtx_ports (s : State) (i : Nat) (x : Ctx) : (s.setCtx i x).ports = s.ports := rfl
@[simp] theorem State.setCtx_bram (s : State) (i : Nat) (x : Ctx) : (s.setCtx i x).bram = s.bram := rfl
@[simp] theorem State.setCtx_runners (s : State) (i : Nat) (x : Ctx) : (s.setCtx i x).runners = s.runners := rfl
@[simp] theorem State.setCtx_quads (s : State) (i : Nat) (x : Ctx) : (s.setCtx i x).quads = s.quads := rfl
@[simp] theorem State.setCtx_lanes (s : State) (i : Nat) (x : Ctx) : (s.setCtx i x).lanes = s.lanes := rfl
@[simp] theorem State.setCtx_pwr (s : State) (i : Nat) (x : Ctx) : (s.setCtx i x).pwr = s.pwr := rfl
@[simp] theorem State.setCtx_xings (s : State) (i : Nat) (x : Ctx) : (s.setCtx i x).xings = s.xings := rfl
@[simp] theorem State.setCtx_stone (s : State) (i : Nat) (x : Ctx) : (s.setCtx i x).stone = s.stone := rfl
@[simp] theorem State.setCtx_sec (s : State) (i : Nat) (x : Ctx) : (s.setCtx i x).sec = s.sec := rfl
@[simp] theorem State.setCtx_obs (s : State) (i : Nat) (x : Ctx) : (s.setCtx i x).obs = s.obs := rfl
@[simp] theorem State.setCtx_seqs (s : State) (i : Nat) (x : Ctx) : (s.setCtx i x).seqs = s.seqs := rfl
@[simp] theorem State.setCtx_faultLost (s : State) (i : Nat) (x : Ctx) : (s.setCtx i x).faultLost = s.faultLost := rfl
@[simp] theorem State.setCtx_hif_ready (s : State) (i : Nat) (x : Ctx) :
    (s.setCtx i x).hif.ready = s.hif.ready := rfl
@[simp] theorem State.setCtx_hif_speed (s : State) (i : Nat) (x : Ctx) :
    (s.setCtx i x).hif.speed = s.hif.speed := rfl
@[simp] theorem State.setCtx_hif_width (s : State) (i : Nat) (x : Ctx) :
    (s.setCtx i x).hif.width = s.hif.width := rfl
@[simp] theorem State.setCtx_hif_flit (s : State) (i : Nat) (x : Ctx) :
    (s.setCtx i x).hif.flit = s.hif.flit := rfl
@[simp] theorem State.setCtx_hif_link (s : State) (i : Nat) (x : Ctx) :
    (s.setCtx i x).hif.link = s.hif.link := rfl
@[simp] theorem State.setCtx_hif_apDrops (s : State) (i : Nat) (x : Ctx) :
    (s.setCtx i x).hif.apDrops = s.hif.apDrops := rfl
@[simp] theorem State.setCtx_hif_fenceDisc (s : State) (i : Nat) (x : Ctx) :
    (s.setCtx i x).hif.fenceDisc = s.hif.fenceDisc := rfl
@[simp] theorem State.setCtx_hif_mgmtDisc (s : State) (i : Nat) (x : Ctx) :
    (s.setCtx i x).hif.mgmtDisc = s.hif.mgmtDisc := rfl
@[simp] theorem State.setCtx_hif_bar4Open (s : State) (i : Nat) (x : Ctx) :
    (s.setCtx i x).hif.bar4Open = s.hif.bar4Open := rfl
@[simp] theorem State.setCtx_hif_bar4Tile (s : State) (i : Nat) (x : Ctx) :
    (s.setCtx i x).hif.bar4Tile = s.hif.bar4Tile := rfl
@[simp] theorem State.setCtx_hif_barWait (s : State) (i : Nat) (x : Ctx) :
    (s.setCtx i x).hif.barWait = s.hif.barWait := rfl
@[simp] theorem State.setCtx_hif_args (s : State) (i : Nat) (x : Ctx) :
    (s.setCtx i x).hif.args = s.hif.args := rfl
@[simp] theorem State.setCtx_hif_index (s : State) (i : Nat) (x : Ctx) :
    (s.setCtx i x).hif.index = s.hif.index := rfl
@[simp] theorem State.setCtx_hif_busy (s : State) (i : Nat) (x : Ctx) :
    (s.setCtx i x).hif.busy = s.hif.busy := rfl
@[simp] theorem State.setCtx_hif_status (s : State) (i : Nat) (x : Ctx) :
    (s.setCtx i x).hif.status = s.hif.status := rfl
@[simp] theorem State.setCtx_hif_detail (s : State) (i : Nat) (x : Ctx) :
    (s.setCtx i x).hif.detail = s.hif.detail := rfl
@[simp] theorem State.setCtx_hif_fqCfg (s : State) (i : Nat) (x : Ctx) :
    (s.setCtx i x).hif.fqCfg = s.hif.fqCfg := rfl
@[simp] theorem State.setCtx_hif_fqHead (s : State) (i : Nat) (x : Ctx) :
    (s.setCtx i x).hif.fqHead = s.hif.fqHead := rfl
@[simp] theorem State.setCtx_hif_fqOver (s : State) (i : Nat) (x : Ctx) :
    (s.setCtx i x).hif.fqOver = s.hif.fqOver := rfl
@[simp] theorem State.setCtx_hif_fqWritten (s : State) (i : Nat) (x : Ctx) :
    (s.setCtx i x).hif.fqWritten = s.hif.fqWritten := rfl
@[simp] theorem State.setCtx_hif_msixTable (s : State) (i : Nat) (x : Ctx) :
    (s.setCtx i x).hif.msixTable = s.hif.msixTable := rfl
@[simp] theorem State.setCtx_hif_msixPend (s : State) (i : Nat) (x : Ctx) :
    (s.setCtx i x).hif.msixPend = s.hif.msixPend := rfl
@[simp] theorem State.setCtx_hif_queues (s : State) (i : Nat) (x : Ctx) :
    (s.setCtx i x).hif.queues = s.hif.queues := rfl
@[simp] theorem State.setCtx_hif_fences (s : State) (i : Nat) (x : Ctx) :
    (s.setCtx i x).hif.fences = s.hif.fences := rfl
@[simp] theorem State.setCtx_hif_objs (s : State) (i : Nat) (x : Ctx) :
    (s.setCtx i x).hif.objs = s.hif.objs := rfl
@[simp] theorem State.setCtx_tile (s : State) (i j : Nat) (x : Ctx) : (s.setCtx i x).tile j = s.tile j := rfl
@[simp] theorem State.setCtx_queue (s : State) (i j : Nat) (x : Ctx) : (s.setCtx i x).queue j = s.queue j := rfl
@[simp] theorem State.setCtx_fence (s : State) (i j : Nat) (x : Ctx) : (s.setCtx i x).fence j = s.fence j := rfl
@[simp] theorem State.setCtx_obj (s : State) (i j : Nat) (x : Ctx) : (s.setCtx i x).obj j = s.obj j := rfl
@[simp] theorem State.setCtx_bunch (s : State) (i j : Nat) (x : Ctx) : (s.setCtx i x).bunch j = s.bunch j := rfl
@[simp] theorem State.setCtx_port (s : State) (i j : Nat) (x : Ctx) : (s.setCtx i x).port j = s.port j := rfl
@[simp] theorem State.setCtx_quad (s : State) (i j : Nat) (x : Ctx) : (s.setCtx i x).quad j = s.quad j := rfl
@[simp] theorem State.setCtx_runner (s : State) (i j : Nat) (x : Ctx) : (s.setCtx i x).runner j = s.runner j := rfl
@[simp] theorem State.setCtx_dom (s : State) (i j : Nat) (x : Ctx) : (s.setCtx i x).dom j = s.dom j := rfl
@[simp] theorem State.setCtx_xing (s : State) (i j : Nat) (x : Ctx) : (s.setCtx i x).xing j = s.xing j := rfl
@[simp] theorem State.setCtx_group (s : State) (i j : Nat) (x : Ctx) : (s.setCtx i x).group j = s.group j := rfl
@[simp] theorem State.setCtx_trace (s : State) (i j : Nat) (x : Ctx) : (s.setCtx i x).trace j = s.trace j := rfl
@[simp] theorem State.setCtx_peek (s : State) (i a : Nat) (x : Ctx) : (s.setCtx i x).peek a = s.peek a := rfl

/-! ### `setFence` -/

@[simp] theorem State.setFence_fence (s : State) (i : Nat) (x : Fence) : (s.setFence i x).fence i = x :=
  tget_tput_same _ _ _ _

theorem State.setFence_fence_ne (s : State) (i j : Nat) (x : Fence) (h : j ≠ i) : (s.setFence i x).fence j = s.fence j :=
  tget_tput_ne _ _ _ _ _ h

@[simp] theorem State.setFence_pending (s : State) (i : Nat) (x : Fence) : (s.setFence i x).pending = s.pending := rfl
@[simp] theorem State.setFence_time (s : State) (i : Nat) (x : Fence) : (s.setFence i x).time = s.time := rfl
@[simp] theorem State.setFence_fresh (s : State) (i : Nat) (x : Fence) : (s.setFence i x).fresh = s.fresh := rfl
@[simp] theorem State.setFence_out (s : State) (i : Nat) (x : Fence) : (s.setFence i x).out = s.out := rfl
@[simp] theorem State.setFence_mem (s : State) (i : Nat) (x : Fence) : (s.setFence i x).mem = s.mem := rfl
@[simp] theorem State.setFence_written (s : State) (i : Nat) (x : Fence) : (s.setFence i x).written = s.written := rfl
@[simp] theorem State.setFence_badLines (s : State) (i : Nat) (x : Fence) : (s.setFence i x).badLines = s.badLines := rfl
@[simp] theorem State.setFence_watch (s : State) (i : Nat) (x : Fence) : (s.setFence i x).watch = s.watch := rfl
@[simp] theorem State.setFence_boot (s : State) (i : Nat) (x : Fence) : (s.setFence i x).boot = s.boot := rfl
@[simp] theorem State.setFence_comp (s : State) (i : Nat) (x : Fence) : (s.setFence i x).comp = s.comp := rfl
@[simp] theorem State.setFence_tiles (s : State) (i : Nat) (x : Fence) : (s.setFence i x).tiles = s.tiles := rfl
@[simp] theorem State.setFence_ports (s : State) (i : Nat) (x : Fence) : (s.setFence i x).ports = s.ports := rfl
@[simp] theorem State.setFence_bram (s : State) (i : Nat) (x : Fence) : (s.setFence i x).bram = s.bram := rfl
@[simp] theorem State.setFence_runners (s : State) (i : Nat) (x : Fence) : (s.setFence i x).runners = s.runners := rfl
@[simp] theorem State.setFence_quads (s : State) (i : Nat) (x : Fence) : (s.setFence i x).quads = s.quads := rfl
@[simp] theorem State.setFence_lanes (s : State) (i : Nat) (x : Fence) : (s.setFence i x).lanes = s.lanes := rfl
@[simp] theorem State.setFence_pwr (s : State) (i : Nat) (x : Fence) : (s.setFence i x).pwr = s.pwr := rfl
@[simp] theorem State.setFence_xings (s : State) (i : Nat) (x : Fence) : (s.setFence i x).xings = s.xings := rfl
@[simp] theorem State.setFence_stone (s : State) (i : Nat) (x : Fence) : (s.setFence i x).stone = s.stone := rfl
@[simp] theorem State.setFence_sec (s : State) (i : Nat) (x : Fence) : (s.setFence i x).sec = s.sec := rfl
@[simp] theorem State.setFence_obs (s : State) (i : Nat) (x : Fence) : (s.setFence i x).obs = s.obs := rfl
@[simp] theorem State.setFence_seqs (s : State) (i : Nat) (x : Fence) : (s.setFence i x).seqs = s.seqs := rfl
@[simp] theorem State.setFence_faultLost (s : State) (i : Nat) (x : Fence) : (s.setFence i x).faultLost = s.faultLost := rfl
@[simp] theorem State.setFence_hif_ready (s : State) (i : Nat) (x : Fence) :
    (s.setFence i x).hif.ready = s.hif.ready := rfl
@[simp] theorem State.setFence_hif_speed (s : State) (i : Nat) (x : Fence) :
    (s.setFence i x).hif.speed = s.hif.speed := rfl
@[simp] theorem State.setFence_hif_width (s : State) (i : Nat) (x : Fence) :
    (s.setFence i x).hif.width = s.hif.width := rfl
@[simp] theorem State.setFence_hif_flit (s : State) (i : Nat) (x : Fence) :
    (s.setFence i x).hif.flit = s.hif.flit := rfl
@[simp] theorem State.setFence_hif_link (s : State) (i : Nat) (x : Fence) :
    (s.setFence i x).hif.link = s.hif.link := rfl
@[simp] theorem State.setFence_hif_apDrops (s : State) (i : Nat) (x : Fence) :
    (s.setFence i x).hif.apDrops = s.hif.apDrops := rfl
@[simp] theorem State.setFence_hif_fenceDisc (s : State) (i : Nat) (x : Fence) :
    (s.setFence i x).hif.fenceDisc = s.hif.fenceDisc := rfl
@[simp] theorem State.setFence_hif_mgmtDisc (s : State) (i : Nat) (x : Fence) :
    (s.setFence i x).hif.mgmtDisc = s.hif.mgmtDisc := rfl
@[simp] theorem State.setFence_hif_bar4Open (s : State) (i : Nat) (x : Fence) :
    (s.setFence i x).hif.bar4Open = s.hif.bar4Open := rfl
@[simp] theorem State.setFence_hif_bar4Tile (s : State) (i : Nat) (x : Fence) :
    (s.setFence i x).hif.bar4Tile = s.hif.bar4Tile := rfl
@[simp] theorem State.setFence_hif_barWait (s : State) (i : Nat) (x : Fence) :
    (s.setFence i x).hif.barWait = s.hif.barWait := rfl
@[simp] theorem State.setFence_hif_args (s : State) (i : Nat) (x : Fence) :
    (s.setFence i x).hif.args = s.hif.args := rfl
@[simp] theorem State.setFence_hif_index (s : State) (i : Nat) (x : Fence) :
    (s.setFence i x).hif.index = s.hif.index := rfl
@[simp] theorem State.setFence_hif_busy (s : State) (i : Nat) (x : Fence) :
    (s.setFence i x).hif.busy = s.hif.busy := rfl
@[simp] theorem State.setFence_hif_status (s : State) (i : Nat) (x : Fence) :
    (s.setFence i x).hif.status = s.hif.status := rfl
@[simp] theorem State.setFence_hif_detail (s : State) (i : Nat) (x : Fence) :
    (s.setFence i x).hif.detail = s.hif.detail := rfl
@[simp] theorem State.setFence_hif_fqCfg (s : State) (i : Nat) (x : Fence) :
    (s.setFence i x).hif.fqCfg = s.hif.fqCfg := rfl
@[simp] theorem State.setFence_hif_fqHead (s : State) (i : Nat) (x : Fence) :
    (s.setFence i x).hif.fqHead = s.hif.fqHead := rfl
@[simp] theorem State.setFence_hif_fqOver (s : State) (i : Nat) (x : Fence) :
    (s.setFence i x).hif.fqOver = s.hif.fqOver := rfl
@[simp] theorem State.setFence_hif_fqWritten (s : State) (i : Nat) (x : Fence) :
    (s.setFence i x).hif.fqWritten = s.hif.fqWritten := rfl
@[simp] theorem State.setFence_hif_msixTable (s : State) (i : Nat) (x : Fence) :
    (s.setFence i x).hif.msixTable = s.hif.msixTable := rfl
@[simp] theorem State.setFence_hif_msixPend (s : State) (i : Nat) (x : Fence) :
    (s.setFence i x).hif.msixPend = s.hif.msixPend := rfl
@[simp] theorem State.setFence_hif_queues (s : State) (i : Nat) (x : Fence) :
    (s.setFence i x).hif.queues = s.hif.queues := rfl
@[simp] theorem State.setFence_hif_ctxs (s : State) (i : Nat) (x : Fence) :
    (s.setFence i x).hif.ctxs = s.hif.ctxs := rfl
@[simp] theorem State.setFence_hif_objs (s : State) (i : Nat) (x : Fence) :
    (s.setFence i x).hif.objs = s.hif.objs := rfl
@[simp] theorem State.setFence_tile (s : State) (i j : Nat) (x : Fence) : (s.setFence i x).tile j = s.tile j := rfl
@[simp] theorem State.setFence_queue (s : State) (i j : Nat) (x : Fence) : (s.setFence i x).queue j = s.queue j := rfl
@[simp] theorem State.setFence_ctx (s : State) (i j : Nat) (x : Fence) : (s.setFence i x).ctx j = s.ctx j := rfl
@[simp] theorem State.setFence_obj (s : State) (i j : Nat) (x : Fence) : (s.setFence i x).obj j = s.obj j := rfl
@[simp] theorem State.setFence_bunch (s : State) (i j : Nat) (x : Fence) : (s.setFence i x).bunch j = s.bunch j := rfl
@[simp] theorem State.setFence_port (s : State) (i j : Nat) (x : Fence) : (s.setFence i x).port j = s.port j := rfl
@[simp] theorem State.setFence_quad (s : State) (i j : Nat) (x : Fence) : (s.setFence i x).quad j = s.quad j := rfl
@[simp] theorem State.setFence_runner (s : State) (i j : Nat) (x : Fence) : (s.setFence i x).runner j = s.runner j := rfl
@[simp] theorem State.setFence_dom (s : State) (i j : Nat) (x : Fence) : (s.setFence i x).dom j = s.dom j := rfl
@[simp] theorem State.setFence_xing (s : State) (i j : Nat) (x : Fence) : (s.setFence i x).xing j = s.xing j := rfl
@[simp] theorem State.setFence_group (s : State) (i j : Nat) (x : Fence) : (s.setFence i x).group j = s.group j := rfl
@[simp] theorem State.setFence_trace (s : State) (i j : Nat) (x : Fence) : (s.setFence i x).trace j = s.trace j := rfl
@[simp] theorem State.setFence_peek (s : State) (i a : Nat) (x : Fence) : (s.setFence i x).peek a = s.peek a := rfl

/-! ### `setObj` -/

@[simp] theorem State.setObj_obj (s : State) (i : Nat) (x : Obj) : (s.setObj i x).obj i = x :=
  tget_tput_same _ _ _ _

theorem State.setObj_obj_ne (s : State) (i j : Nat) (x : Obj) (h : j ≠ i) : (s.setObj i x).obj j = s.obj j :=
  tget_tput_ne _ _ _ _ _ h

@[simp] theorem State.setObj_pending (s : State) (i : Nat) (x : Obj) : (s.setObj i x).pending = s.pending := rfl
@[simp] theorem State.setObj_time (s : State) (i : Nat) (x : Obj) : (s.setObj i x).time = s.time := rfl
@[simp] theorem State.setObj_fresh (s : State) (i : Nat) (x : Obj) : (s.setObj i x).fresh = s.fresh := rfl
@[simp] theorem State.setObj_out (s : State) (i : Nat) (x : Obj) : (s.setObj i x).out = s.out := rfl
@[simp] theorem State.setObj_mem (s : State) (i : Nat) (x : Obj) : (s.setObj i x).mem = s.mem := rfl
@[simp] theorem State.setObj_written (s : State) (i : Nat) (x : Obj) : (s.setObj i x).written = s.written := rfl
@[simp] theorem State.setObj_badLines (s : State) (i : Nat) (x : Obj) : (s.setObj i x).badLines = s.badLines := rfl
@[simp] theorem State.setObj_watch (s : State) (i : Nat) (x : Obj) : (s.setObj i x).watch = s.watch := rfl
@[simp] theorem State.setObj_boot (s : State) (i : Nat) (x : Obj) : (s.setObj i x).boot = s.boot := rfl
@[simp] theorem State.setObj_comp (s : State) (i : Nat) (x : Obj) : (s.setObj i x).comp = s.comp := rfl
@[simp] theorem State.setObj_tiles (s : State) (i : Nat) (x : Obj) : (s.setObj i x).tiles = s.tiles := rfl
@[simp] theorem State.setObj_ports (s : State) (i : Nat) (x : Obj) : (s.setObj i x).ports = s.ports := rfl
@[simp] theorem State.setObj_bram (s : State) (i : Nat) (x : Obj) : (s.setObj i x).bram = s.bram := rfl
@[simp] theorem State.setObj_runners (s : State) (i : Nat) (x : Obj) : (s.setObj i x).runners = s.runners := rfl
@[simp] theorem State.setObj_quads (s : State) (i : Nat) (x : Obj) : (s.setObj i x).quads = s.quads := rfl
@[simp] theorem State.setObj_lanes (s : State) (i : Nat) (x : Obj) : (s.setObj i x).lanes = s.lanes := rfl
@[simp] theorem State.setObj_pwr (s : State) (i : Nat) (x : Obj) : (s.setObj i x).pwr = s.pwr := rfl
@[simp] theorem State.setObj_xings (s : State) (i : Nat) (x : Obj) : (s.setObj i x).xings = s.xings := rfl
@[simp] theorem State.setObj_stone (s : State) (i : Nat) (x : Obj) : (s.setObj i x).stone = s.stone := rfl
@[simp] theorem State.setObj_sec (s : State) (i : Nat) (x : Obj) : (s.setObj i x).sec = s.sec := rfl
@[simp] theorem State.setObj_obs (s : State) (i : Nat) (x : Obj) : (s.setObj i x).obs = s.obs := rfl
@[simp] theorem State.setObj_seqs (s : State) (i : Nat) (x : Obj) : (s.setObj i x).seqs = s.seqs := rfl
@[simp] theorem State.setObj_faultLost (s : State) (i : Nat) (x : Obj) : (s.setObj i x).faultLost = s.faultLost := rfl
@[simp] theorem State.setObj_hif_ready (s : State) (i : Nat) (x : Obj) :
    (s.setObj i x).hif.ready = s.hif.ready := rfl
@[simp] theorem State.setObj_hif_speed (s : State) (i : Nat) (x : Obj) :
    (s.setObj i x).hif.speed = s.hif.speed := rfl
@[simp] theorem State.setObj_hif_width (s : State) (i : Nat) (x : Obj) :
    (s.setObj i x).hif.width = s.hif.width := rfl
@[simp] theorem State.setObj_hif_flit (s : State) (i : Nat) (x : Obj) :
    (s.setObj i x).hif.flit = s.hif.flit := rfl
@[simp] theorem State.setObj_hif_link (s : State) (i : Nat) (x : Obj) :
    (s.setObj i x).hif.link = s.hif.link := rfl
@[simp] theorem State.setObj_hif_apDrops (s : State) (i : Nat) (x : Obj) :
    (s.setObj i x).hif.apDrops = s.hif.apDrops := rfl
@[simp] theorem State.setObj_hif_fenceDisc (s : State) (i : Nat) (x : Obj) :
    (s.setObj i x).hif.fenceDisc = s.hif.fenceDisc := rfl
@[simp] theorem State.setObj_hif_mgmtDisc (s : State) (i : Nat) (x : Obj) :
    (s.setObj i x).hif.mgmtDisc = s.hif.mgmtDisc := rfl
@[simp] theorem State.setObj_hif_bar4Open (s : State) (i : Nat) (x : Obj) :
    (s.setObj i x).hif.bar4Open = s.hif.bar4Open := rfl
@[simp] theorem State.setObj_hif_bar4Tile (s : State) (i : Nat) (x : Obj) :
    (s.setObj i x).hif.bar4Tile = s.hif.bar4Tile := rfl
@[simp] theorem State.setObj_hif_barWait (s : State) (i : Nat) (x : Obj) :
    (s.setObj i x).hif.barWait = s.hif.barWait := rfl
@[simp] theorem State.setObj_hif_args (s : State) (i : Nat) (x : Obj) :
    (s.setObj i x).hif.args = s.hif.args := rfl
@[simp] theorem State.setObj_hif_index (s : State) (i : Nat) (x : Obj) :
    (s.setObj i x).hif.index = s.hif.index := rfl
@[simp] theorem State.setObj_hif_busy (s : State) (i : Nat) (x : Obj) :
    (s.setObj i x).hif.busy = s.hif.busy := rfl
@[simp] theorem State.setObj_hif_status (s : State) (i : Nat) (x : Obj) :
    (s.setObj i x).hif.status = s.hif.status := rfl
@[simp] theorem State.setObj_hif_detail (s : State) (i : Nat) (x : Obj) :
    (s.setObj i x).hif.detail = s.hif.detail := rfl
@[simp] theorem State.setObj_hif_fqCfg (s : State) (i : Nat) (x : Obj) :
    (s.setObj i x).hif.fqCfg = s.hif.fqCfg := rfl
@[simp] theorem State.setObj_hif_fqHead (s : State) (i : Nat) (x : Obj) :
    (s.setObj i x).hif.fqHead = s.hif.fqHead := rfl
@[simp] theorem State.setObj_hif_fqOver (s : State) (i : Nat) (x : Obj) :
    (s.setObj i x).hif.fqOver = s.hif.fqOver := rfl
@[simp] theorem State.setObj_hif_fqWritten (s : State) (i : Nat) (x : Obj) :
    (s.setObj i x).hif.fqWritten = s.hif.fqWritten := rfl
@[simp] theorem State.setObj_hif_msixTable (s : State) (i : Nat) (x : Obj) :
    (s.setObj i x).hif.msixTable = s.hif.msixTable := rfl
@[simp] theorem State.setObj_hif_msixPend (s : State) (i : Nat) (x : Obj) :
    (s.setObj i x).hif.msixPend = s.hif.msixPend := rfl
@[simp] theorem State.setObj_hif_queues (s : State) (i : Nat) (x : Obj) :
    (s.setObj i x).hif.queues = s.hif.queues := rfl
@[simp] theorem State.setObj_hif_ctxs (s : State) (i : Nat) (x : Obj) :
    (s.setObj i x).hif.ctxs = s.hif.ctxs := rfl
@[simp] theorem State.setObj_hif_fences (s : State) (i : Nat) (x : Obj) :
    (s.setObj i x).hif.fences = s.hif.fences := rfl
@[simp] theorem State.setObj_tile (s : State) (i j : Nat) (x : Obj) : (s.setObj i x).tile j = s.tile j := rfl
@[simp] theorem State.setObj_queue (s : State) (i j : Nat) (x : Obj) : (s.setObj i x).queue j = s.queue j := rfl
@[simp] theorem State.setObj_ctx (s : State) (i j : Nat) (x : Obj) : (s.setObj i x).ctx j = s.ctx j := rfl
@[simp] theorem State.setObj_fence (s : State) (i j : Nat) (x : Obj) : (s.setObj i x).fence j = s.fence j := rfl
@[simp] theorem State.setObj_bunch (s : State) (i j : Nat) (x : Obj) : (s.setObj i x).bunch j = s.bunch j := rfl
@[simp] theorem State.setObj_port (s : State) (i j : Nat) (x : Obj) : (s.setObj i x).port j = s.port j := rfl
@[simp] theorem State.setObj_quad (s : State) (i j : Nat) (x : Obj) : (s.setObj i x).quad j = s.quad j := rfl
@[simp] theorem State.setObj_runner (s : State) (i j : Nat) (x : Obj) : (s.setObj i x).runner j = s.runner j := rfl
@[simp] theorem State.setObj_dom (s : State) (i j : Nat) (x : Obj) : (s.setObj i x).dom j = s.dom j := rfl
@[simp] theorem State.setObj_xing (s : State) (i j : Nat) (x : Obj) : (s.setObj i x).xing j = s.xing j := rfl
@[simp] theorem State.setObj_group (s : State) (i j : Nat) (x : Obj) : (s.setObj i x).group j = s.group j := rfl
@[simp] theorem State.setObj_trace (s : State) (i j : Nat) (x : Obj) : (s.setObj i x).trace j = s.trace j := rfl
@[simp] theorem State.setObj_peek (s : State) (i a : Nat) (x : Obj) : (s.setObj i x).peek a = s.peek a := rfl

/-! ### `setBunch` -/

@[simp] theorem State.setBunch_bunch (s : State) (i : Nat) (x : Bunch) : (s.setBunch i x).bunch i = x :=
  tget_tput_same _ _ _ _

theorem State.setBunch_bunch_ne (s : State) (i j : Nat) (x : Bunch) (h : j ≠ i) : (s.setBunch i x).bunch j = s.bunch j :=
  tget_tput_ne _ _ _ _ _ h

@[simp] theorem State.setBunch_pending (s : State) (i : Nat) (x : Bunch) : (s.setBunch i x).pending = s.pending := rfl
@[simp] theorem State.setBunch_time (s : State) (i : Nat) (x : Bunch) : (s.setBunch i x).time = s.time := rfl
@[simp] theorem State.setBunch_fresh (s : State) (i : Nat) (x : Bunch) : (s.setBunch i x).fresh = s.fresh := rfl
@[simp] theorem State.setBunch_out (s : State) (i : Nat) (x : Bunch) : (s.setBunch i x).out = s.out := rfl
@[simp] theorem State.setBunch_mem (s : State) (i : Nat) (x : Bunch) : (s.setBunch i x).mem = s.mem := rfl
@[simp] theorem State.setBunch_written (s : State) (i : Nat) (x : Bunch) : (s.setBunch i x).written = s.written := rfl
@[simp] theorem State.setBunch_badLines (s : State) (i : Nat) (x : Bunch) : (s.setBunch i x).badLines = s.badLines := rfl
@[simp] theorem State.setBunch_watch (s : State) (i : Nat) (x : Bunch) : (s.setBunch i x).watch = s.watch := rfl
@[simp] theorem State.setBunch_boot (s : State) (i : Nat) (x : Bunch) : (s.setBunch i x).boot = s.boot := rfl
@[simp] theorem State.setBunch_hif (s : State) (i : Nat) (x : Bunch) : (s.setBunch i x).hif = s.hif := rfl
@[simp] theorem State.setBunch_tiles (s : State) (i : Nat) (x : Bunch) : (s.setBunch i x).tiles = s.tiles := rfl
@[simp] theorem State.setBunch_ports (s : State) (i : Nat) (x : Bunch) : (s.setBunch i x).ports = s.ports := rfl
@[simp] theorem State.setBunch_bram (s : State) (i : Nat) (x : Bunch) : (s.setBunch i x).bram = s.bram := rfl
@[simp] theorem State.setBunch_runners (s : State) (i : Nat) (x : Bunch) : (s.setBunch i x).runners = s.runners := rfl
@[simp] theorem State.setBunch_quads (s : State) (i : Nat) (x : Bunch) : (s.setBunch i x).quads = s.quads := rfl
@[simp] theorem State.setBunch_lanes (s : State) (i : Nat) (x : Bunch) : (s.setBunch i x).lanes = s.lanes := rfl
@[simp] theorem State.setBunch_pwr (s : State) (i : Nat) (x : Bunch) : (s.setBunch i x).pwr = s.pwr := rfl
@[simp] theorem State.setBunch_xings (s : State) (i : Nat) (x : Bunch) : (s.setBunch i x).xings = s.xings := rfl
@[simp] theorem State.setBunch_stone (s : State) (i : Nat) (x : Bunch) : (s.setBunch i x).stone = s.stone := rfl
@[simp] theorem State.setBunch_sec (s : State) (i : Nat) (x : Bunch) : (s.setBunch i x).sec = s.sec := rfl
@[simp] theorem State.setBunch_obs (s : State) (i : Nat) (x : Bunch) : (s.setBunch i x).obs = s.obs := rfl
@[simp] theorem State.setBunch_seqs (s : State) (i : Nat) (x : Bunch) : (s.setBunch i x).seqs = s.seqs := rfl
@[simp] theorem State.setBunch_faultLost (s : State) (i : Nat) (x : Bunch) : (s.setBunch i x).faultLost = s.faultLost := rfl
@[simp] theorem State.setBunch_comp_changeSeq (s : State) (i : Nat) (x : Bunch) :
    (s.setBunch i x).comp.changeSeq = s.comp.changeSeq := rfl
@[simp] theorem State.setBunch_comp_grafts (s : State) (i : Nat) (x : Bunch) :
    (s.setBunch i x).comp.grafts = s.comp.grafts := rfl
@[simp] theorem State.setBunch_comp_quadOwner (s : State) (i : Nat) (x : Bunch) :
    (s.setBunch i x).comp.quadOwner = s.comp.quadOwner := rfl
@[simp] theorem State.setBunch_comp_detach (s : State) (i : Nat) (x : Bunch) :
    (s.setBunch i x).comp.detach = s.comp.detach := rfl
@[simp] theorem State.setBunch_comp_grants (s : State) (i : Nat) (x : Bunch) :
    (s.setBunch i x).comp.grants = s.comp.grants := rfl
@[simp] theorem State.setBunch_comp_grantNo (s : State) (i : Nat) (x : Bunch) :
    (s.setBunch i x).comp.grantNo = s.comp.grantNo := rfl
@[simp] theorem State.setBunch_comp_waits (s : State) (i : Nat) (x : Bunch) :
    (s.setBunch i x).comp.waits = s.comp.waits := rfl
@[simp] theorem State.setBunch_comp_waking (s : State) (i : Nat) (x : Bunch) :
    (s.setBunch i x).comp.waking = s.comp.waking := rfl
@[simp] theorem State.setBunch_tile (s : State) (i j : Nat) (x : Bunch) : (s.setBunch i x).tile j = s.tile j := rfl
@[simp] theorem State.setBunch_queue (s : State) (i j : Nat) (x : Bunch) : (s.setBunch i x).queue j = s.queue j := rfl
@[simp] theorem State.setBunch_ctx (s : State) (i j : Nat) (x : Bunch) : (s.setBunch i x).ctx j = s.ctx j := rfl
@[simp] theorem State.setBunch_fence (s : State) (i j : Nat) (x : Bunch) : (s.setBunch i x).fence j = s.fence j := rfl
@[simp] theorem State.setBunch_obj (s : State) (i j : Nat) (x : Bunch) : (s.setBunch i x).obj j = s.obj j := rfl
@[simp] theorem State.setBunch_port (s : State) (i j : Nat) (x : Bunch) : (s.setBunch i x).port j = s.port j := rfl
@[simp] theorem State.setBunch_quad (s : State) (i j : Nat) (x : Bunch) : (s.setBunch i x).quad j = s.quad j := rfl
@[simp] theorem State.setBunch_runner (s : State) (i j : Nat) (x : Bunch) : (s.setBunch i x).runner j = s.runner j := rfl
@[simp] theorem State.setBunch_dom (s : State) (i j : Nat) (x : Bunch) : (s.setBunch i x).dom j = s.dom j := rfl
@[simp] theorem State.setBunch_xing (s : State) (i j : Nat) (x : Bunch) : (s.setBunch i x).xing j = s.xing j := rfl
@[simp] theorem State.setBunch_group (s : State) (i j : Nat) (x : Bunch) : (s.setBunch i x).group j = s.group j := rfl
@[simp] theorem State.setBunch_trace (s : State) (i j : Nat) (x : Bunch) : (s.setBunch i x).trace j = s.trace j := rfl
@[simp] theorem State.setBunch_peek (s : State) (i a : Nat) (x : Bunch) : (s.setBunch i x).peek a = s.peek a := rfl

/-! ### `setPort` -/

@[simp] theorem State.setPort_port (s : State) (i : Nat) (x : Port) : (s.setPort i x).port i = x :=
  tget_tput_same _ _ _ _

theorem State.setPort_port_ne (s : State) (i j : Nat) (x : Port) (h : j ≠ i) : (s.setPort i x).port j = s.port j :=
  tget_tput_ne _ _ _ _ _ h

@[simp] theorem State.setPort_pending (s : State) (i : Nat) (x : Port) : (s.setPort i x).pending = s.pending := rfl
@[simp] theorem State.setPort_time (s : State) (i : Nat) (x : Port) : (s.setPort i x).time = s.time := rfl
@[simp] theorem State.setPort_fresh (s : State) (i : Nat) (x : Port) : (s.setPort i x).fresh = s.fresh := rfl
@[simp] theorem State.setPort_out (s : State) (i : Nat) (x : Port) : (s.setPort i x).out = s.out := rfl
@[simp] theorem State.setPort_mem (s : State) (i : Nat) (x : Port) : (s.setPort i x).mem = s.mem := rfl
@[simp] theorem State.setPort_written (s : State) (i : Nat) (x : Port) : (s.setPort i x).written = s.written := rfl
@[simp] theorem State.setPort_badLines (s : State) (i : Nat) (x : Port) : (s.setPort i x).badLines = s.badLines := rfl
@[simp] theorem State.setPort_watch (s : State) (i : Nat) (x : Port) : (s.setPort i x).watch = s.watch := rfl
@[simp] theorem State.setPort_boot (s : State) (i : Nat) (x : Port) : (s.setPort i x).boot = s.boot := rfl
@[simp] theorem State.setPort_hif (s : State) (i : Nat) (x : Port) : (s.setPort i x).hif = s.hif := rfl
@[simp] theorem State.setPort_comp (s : State) (i : Nat) (x : Port) : (s.setPort i x).comp = s.comp := rfl
@[simp] theorem State.setPort_tiles (s : State) (i : Nat) (x : Port) : (s.setPort i x).tiles = s.tiles := rfl
@[simp] theorem State.setPort_bram (s : State) (i : Nat) (x : Port) : (s.setPort i x).bram = s.bram := rfl
@[simp] theorem State.setPort_runners (s : State) (i : Nat) (x : Port) : (s.setPort i x).runners = s.runners := rfl
@[simp] theorem State.setPort_quads (s : State) (i : Nat) (x : Port) : (s.setPort i x).quads = s.quads := rfl
@[simp] theorem State.setPort_lanes (s : State) (i : Nat) (x : Port) : (s.setPort i x).lanes = s.lanes := rfl
@[simp] theorem State.setPort_pwr (s : State) (i : Nat) (x : Port) : (s.setPort i x).pwr = s.pwr := rfl
@[simp] theorem State.setPort_xings (s : State) (i : Nat) (x : Port) : (s.setPort i x).xings = s.xings := rfl
@[simp] theorem State.setPort_stone (s : State) (i : Nat) (x : Port) : (s.setPort i x).stone = s.stone := rfl
@[simp] theorem State.setPort_sec (s : State) (i : Nat) (x : Port) : (s.setPort i x).sec = s.sec := rfl
@[simp] theorem State.setPort_obs (s : State) (i : Nat) (x : Port) : (s.setPort i x).obs = s.obs := rfl
@[simp] theorem State.setPort_seqs (s : State) (i : Nat) (x : Port) : (s.setPort i x).seqs = s.seqs := rfl
@[simp] theorem State.setPort_faultLost (s : State) (i : Nat) (x : Port) : (s.setPort i x).faultLost = s.faultLost := rfl
@[simp] theorem State.setPort_tile (s : State) (i j : Nat) (x : Port) : (s.setPort i x).tile j = s.tile j := rfl
@[simp] theorem State.setPort_queue (s : State) (i j : Nat) (x : Port) : (s.setPort i x).queue j = s.queue j := rfl
@[simp] theorem State.setPort_ctx (s : State) (i j : Nat) (x : Port) : (s.setPort i x).ctx j = s.ctx j := rfl
@[simp] theorem State.setPort_fence (s : State) (i j : Nat) (x : Port) : (s.setPort i x).fence j = s.fence j := rfl
@[simp] theorem State.setPort_obj (s : State) (i j : Nat) (x : Port) : (s.setPort i x).obj j = s.obj j := rfl
@[simp] theorem State.setPort_bunch (s : State) (i j : Nat) (x : Port) : (s.setPort i x).bunch j = s.bunch j := rfl
@[simp] theorem State.setPort_quad (s : State) (i j : Nat) (x : Port) : (s.setPort i x).quad j = s.quad j := rfl
@[simp] theorem State.setPort_runner (s : State) (i j : Nat) (x : Port) : (s.setPort i x).runner j = s.runner j := rfl
@[simp] theorem State.setPort_dom (s : State) (i j : Nat) (x : Port) : (s.setPort i x).dom j = s.dom j := rfl
@[simp] theorem State.setPort_xing (s : State) (i j : Nat) (x : Port) : (s.setPort i x).xing j = s.xing j := rfl
@[simp] theorem State.setPort_group (s : State) (i j : Nat) (x : Port) : (s.setPort i x).group j = s.group j := rfl
@[simp] theorem State.setPort_trace (s : State) (i j : Nat) (x : Port) : (s.setPort i x).trace j = s.trace j := rfl
@[simp] theorem State.setPort_peek (s : State) (i a : Nat) (x : Port) : (s.setPort i x).peek a = s.peek a := rfl

/-! ### `setQuad` -/

@[simp] theorem State.setQuad_quad (s : State) (i : Nat) (x : Quad) : (s.setQuad i x).quad i = x :=
  tget_tput_same _ _ _ _

theorem State.setQuad_quad_ne (s : State) (i j : Nat) (x : Quad) (h : j ≠ i) : (s.setQuad i x).quad j = s.quad j :=
  tget_tput_ne _ _ _ _ _ h

@[simp] theorem State.setQuad_pending (s : State) (i : Nat) (x : Quad) : (s.setQuad i x).pending = s.pending := rfl
@[simp] theorem State.setQuad_time (s : State) (i : Nat) (x : Quad) : (s.setQuad i x).time = s.time := rfl
@[simp] theorem State.setQuad_fresh (s : State) (i : Nat) (x : Quad) : (s.setQuad i x).fresh = s.fresh := rfl
@[simp] theorem State.setQuad_out (s : State) (i : Nat) (x : Quad) : (s.setQuad i x).out = s.out := rfl
@[simp] theorem State.setQuad_mem (s : State) (i : Nat) (x : Quad) : (s.setQuad i x).mem = s.mem := rfl
@[simp] theorem State.setQuad_written (s : State) (i : Nat) (x : Quad) : (s.setQuad i x).written = s.written := rfl
@[simp] theorem State.setQuad_badLines (s : State) (i : Nat) (x : Quad) : (s.setQuad i x).badLines = s.badLines := rfl
@[simp] theorem State.setQuad_watch (s : State) (i : Nat) (x : Quad) : (s.setQuad i x).watch = s.watch := rfl
@[simp] theorem State.setQuad_boot (s : State) (i : Nat) (x : Quad) : (s.setQuad i x).boot = s.boot := rfl
@[simp] theorem State.setQuad_hif (s : State) (i : Nat) (x : Quad) : (s.setQuad i x).hif = s.hif := rfl
@[simp] theorem State.setQuad_comp (s : State) (i : Nat) (x : Quad) : (s.setQuad i x).comp = s.comp := rfl
@[simp] theorem State.setQuad_tiles (s : State) (i : Nat) (x : Quad) : (s.setQuad i x).tiles = s.tiles := rfl
@[simp] theorem State.setQuad_ports (s : State) (i : Nat) (x : Quad) : (s.setQuad i x).ports = s.ports := rfl
@[simp] theorem State.setQuad_bram (s : State) (i : Nat) (x : Quad) : (s.setQuad i x).bram = s.bram := rfl
@[simp] theorem State.setQuad_runners (s : State) (i : Nat) (x : Quad) : (s.setQuad i x).runners = s.runners := rfl
@[simp] theorem State.setQuad_lanes (s : State) (i : Nat) (x : Quad) : (s.setQuad i x).lanes = s.lanes := rfl
@[simp] theorem State.setQuad_pwr (s : State) (i : Nat) (x : Quad) : (s.setQuad i x).pwr = s.pwr := rfl
@[simp] theorem State.setQuad_xings (s : State) (i : Nat) (x : Quad) : (s.setQuad i x).xings = s.xings := rfl
@[simp] theorem State.setQuad_stone (s : State) (i : Nat) (x : Quad) : (s.setQuad i x).stone = s.stone := rfl
@[simp] theorem State.setQuad_sec (s : State) (i : Nat) (x : Quad) : (s.setQuad i x).sec = s.sec := rfl
@[simp] theorem State.setQuad_obs (s : State) (i : Nat) (x : Quad) : (s.setQuad i x).obs = s.obs := rfl
@[simp] theorem State.setQuad_seqs (s : State) (i : Nat) (x : Quad) : (s.setQuad i x).seqs = s.seqs := rfl
@[simp] theorem State.setQuad_faultLost (s : State) (i : Nat) (x : Quad) : (s.setQuad i x).faultLost = s.faultLost := rfl
@[simp] theorem State.setQuad_tile (s : State) (i j : Nat) (x : Quad) : (s.setQuad i x).tile j = s.tile j := rfl
@[simp] theorem State.setQuad_queue (s : State) (i j : Nat) (x : Quad) : (s.setQuad i x).queue j = s.queue j := rfl
@[simp] theorem State.setQuad_ctx (s : State) (i j : Nat) (x : Quad) : (s.setQuad i x).ctx j = s.ctx j := rfl
@[simp] theorem State.setQuad_fence (s : State) (i j : Nat) (x : Quad) : (s.setQuad i x).fence j = s.fence j := rfl
@[simp] theorem State.setQuad_obj (s : State) (i j : Nat) (x : Quad) : (s.setQuad i x).obj j = s.obj j := rfl
@[simp] theorem State.setQuad_bunch (s : State) (i j : Nat) (x : Quad) : (s.setQuad i x).bunch j = s.bunch j := rfl
@[simp] theorem State.setQuad_port (s : State) (i j : Nat) (x : Quad) : (s.setQuad i x).port j = s.port j := rfl
@[simp] theorem State.setQuad_runner (s : State) (i j : Nat) (x : Quad) : (s.setQuad i x).runner j = s.runner j := rfl
@[simp] theorem State.setQuad_dom (s : State) (i j : Nat) (x : Quad) : (s.setQuad i x).dom j = s.dom j := rfl
@[simp] theorem State.setQuad_xing (s : State) (i j : Nat) (x : Quad) : (s.setQuad i x).xing j = s.xing j := rfl
@[simp] theorem State.setQuad_group (s : State) (i j : Nat) (x : Quad) : (s.setQuad i x).group j = s.group j := rfl
@[simp] theorem State.setQuad_trace (s : State) (i j : Nat) (x : Quad) : (s.setQuad i x).trace j = s.trace j := rfl
@[simp] theorem State.setQuad_peek (s : State) (i a : Nat) (x : Quad) : (s.setQuad i x).peek a = s.peek a := rfl

/-! ### `setRunner` -/

@[simp] theorem State.setRunner_runner (s : State) (i : Nat) (x : Runner) : (s.setRunner i x).runner i = x :=
  tget_tput_same _ _ _ _

theorem State.setRunner_runner_ne (s : State) (i j : Nat) (x : Runner) (h : j ≠ i) : (s.setRunner i x).runner j = s.runner j :=
  tget_tput_ne _ _ _ _ _ h

@[simp] theorem State.setRunner_pending (s : State) (i : Nat) (x : Runner) : (s.setRunner i x).pending = s.pending := rfl
@[simp] theorem State.setRunner_time (s : State) (i : Nat) (x : Runner) : (s.setRunner i x).time = s.time := rfl
@[simp] theorem State.setRunner_fresh (s : State) (i : Nat) (x : Runner) : (s.setRunner i x).fresh = s.fresh := rfl
@[simp] theorem State.setRunner_out (s : State) (i : Nat) (x : Runner) : (s.setRunner i x).out = s.out := rfl
@[simp] theorem State.setRunner_mem (s : State) (i : Nat) (x : Runner) : (s.setRunner i x).mem = s.mem := rfl
@[simp] theorem State.setRunner_written (s : State) (i : Nat) (x : Runner) : (s.setRunner i x).written = s.written := rfl
@[simp] theorem State.setRunner_badLines (s : State) (i : Nat) (x : Runner) : (s.setRunner i x).badLines = s.badLines := rfl
@[simp] theorem State.setRunner_watch (s : State) (i : Nat) (x : Runner) : (s.setRunner i x).watch = s.watch := rfl
@[simp] theorem State.setRunner_boot (s : State) (i : Nat) (x : Runner) : (s.setRunner i x).boot = s.boot := rfl
@[simp] theorem State.setRunner_hif (s : State) (i : Nat) (x : Runner) : (s.setRunner i x).hif = s.hif := rfl
@[simp] theorem State.setRunner_comp (s : State) (i : Nat) (x : Runner) : (s.setRunner i x).comp = s.comp := rfl
@[simp] theorem State.setRunner_tiles (s : State) (i : Nat) (x : Runner) : (s.setRunner i x).tiles = s.tiles := rfl
@[simp] theorem State.setRunner_ports (s : State) (i : Nat) (x : Runner) : (s.setRunner i x).ports = s.ports := rfl
@[simp] theorem State.setRunner_bram (s : State) (i : Nat) (x : Runner) : (s.setRunner i x).bram = s.bram := rfl
@[simp] theorem State.setRunner_quads (s : State) (i : Nat) (x : Runner) : (s.setRunner i x).quads = s.quads := rfl
@[simp] theorem State.setRunner_lanes (s : State) (i : Nat) (x : Runner) : (s.setRunner i x).lanes = s.lanes := rfl
@[simp] theorem State.setRunner_pwr (s : State) (i : Nat) (x : Runner) : (s.setRunner i x).pwr = s.pwr := rfl
@[simp] theorem State.setRunner_xings (s : State) (i : Nat) (x : Runner) : (s.setRunner i x).xings = s.xings := rfl
@[simp] theorem State.setRunner_stone (s : State) (i : Nat) (x : Runner) : (s.setRunner i x).stone = s.stone := rfl
@[simp] theorem State.setRunner_sec (s : State) (i : Nat) (x : Runner) : (s.setRunner i x).sec = s.sec := rfl
@[simp] theorem State.setRunner_obs (s : State) (i : Nat) (x : Runner) : (s.setRunner i x).obs = s.obs := rfl
@[simp] theorem State.setRunner_seqs (s : State) (i : Nat) (x : Runner) : (s.setRunner i x).seqs = s.seqs := rfl
@[simp] theorem State.setRunner_faultLost (s : State) (i : Nat) (x : Runner) : (s.setRunner i x).faultLost = s.faultLost := rfl
@[simp] theorem State.setRunner_tile (s : State) (i j : Nat) (x : Runner) : (s.setRunner i x).tile j = s.tile j := rfl
@[simp] theorem State.setRunner_queue (s : State) (i j : Nat) (x : Runner) : (s.setRunner i x).queue j = s.queue j := rfl
@[simp] theorem State.setRunner_ctx (s : State) (i j : Nat) (x : Runner) : (s.setRunner i x).ctx j = s.ctx j := rfl
@[simp] theorem State.setRunner_fence (s : State) (i j : Nat) (x : Runner) : (s.setRunner i x).fence j = s.fence j := rfl
@[simp] theorem State.setRunner_obj (s : State) (i j : Nat) (x : Runner) : (s.setRunner i x).obj j = s.obj j := rfl
@[simp] theorem State.setRunner_bunch (s : State) (i j : Nat) (x : Runner) : (s.setRunner i x).bunch j = s.bunch j := rfl
@[simp] theorem State.setRunner_port (s : State) (i j : Nat) (x : Runner) : (s.setRunner i x).port j = s.port j := rfl
@[simp] theorem State.setRunner_quad (s : State) (i j : Nat) (x : Runner) : (s.setRunner i x).quad j = s.quad j := rfl
@[simp] theorem State.setRunner_dom (s : State) (i j : Nat) (x : Runner) : (s.setRunner i x).dom j = s.dom j := rfl
@[simp] theorem State.setRunner_xing (s : State) (i j : Nat) (x : Runner) : (s.setRunner i x).xing j = s.xing j := rfl
@[simp] theorem State.setRunner_group (s : State) (i j : Nat) (x : Runner) : (s.setRunner i x).group j = s.group j := rfl
@[simp] theorem State.setRunner_trace (s : State) (i j : Nat) (x : Runner) : (s.setRunner i x).trace j = s.trace j := rfl
@[simp] theorem State.setRunner_peek (s : State) (i a : Nat) (x : Runner) : (s.setRunner i x).peek a = s.peek a := rfl

/-! ### `setDom` -/

@[simp] theorem State.setDom_dom (s : State) (i : Nat) (x : Dom) : (s.setDom i x).dom i = x :=
  tget_tput_same _ _ _ _

theorem State.setDom_dom_ne (s : State) (i j : Nat) (x : Dom) (h : j ≠ i) : (s.setDom i x).dom j = s.dom j :=
  tget_tput_ne _ _ _ _ _ h

@[simp] theorem State.setDom_pending (s : State) (i : Nat) (x : Dom) : (s.setDom i x).pending = s.pending := rfl
@[simp] theorem State.setDom_time (s : State) (i : Nat) (x : Dom) : (s.setDom i x).time = s.time := rfl
@[simp] theorem State.setDom_fresh (s : State) (i : Nat) (x : Dom) : (s.setDom i x).fresh = s.fresh := rfl
@[simp] theorem State.setDom_out (s : State) (i : Nat) (x : Dom) : (s.setDom i x).out = s.out := rfl
@[simp] theorem State.setDom_mem (s : State) (i : Nat) (x : Dom) : (s.setDom i x).mem = s.mem := rfl
@[simp] theorem State.setDom_written (s : State) (i : Nat) (x : Dom) : (s.setDom i x).written = s.written := rfl
@[simp] theorem State.setDom_badLines (s : State) (i : Nat) (x : Dom) : (s.setDom i x).badLines = s.badLines := rfl
@[simp] theorem State.setDom_watch (s : State) (i : Nat) (x : Dom) : (s.setDom i x).watch = s.watch := rfl
@[simp] theorem State.setDom_boot (s : State) (i : Nat) (x : Dom) : (s.setDom i x).boot = s.boot := rfl
@[simp] theorem State.setDom_hif (s : State) (i : Nat) (x : Dom) : (s.setDom i x).hif = s.hif := rfl
@[simp] theorem State.setDom_comp (s : State) (i : Nat) (x : Dom) : (s.setDom i x).comp = s.comp := rfl
@[simp] theorem State.setDom_tiles (s : State) (i : Nat) (x : Dom) : (s.setDom i x).tiles = s.tiles := rfl
@[simp] theorem State.setDom_ports (s : State) (i : Nat) (x : Dom) : (s.setDom i x).ports = s.ports := rfl
@[simp] theorem State.setDom_bram (s : State) (i : Nat) (x : Dom) : (s.setDom i x).bram = s.bram := rfl
@[simp] theorem State.setDom_runners (s : State) (i : Nat) (x : Dom) : (s.setDom i x).runners = s.runners := rfl
@[simp] theorem State.setDom_quads (s : State) (i : Nat) (x : Dom) : (s.setDom i x).quads = s.quads := rfl
@[simp] theorem State.setDom_lanes (s : State) (i : Nat) (x : Dom) : (s.setDom i x).lanes = s.lanes := rfl
@[simp] theorem State.setDom_xings (s : State) (i : Nat) (x : Dom) : (s.setDom i x).xings = s.xings := rfl
@[simp] theorem State.setDom_stone (s : State) (i : Nat) (x : Dom) : (s.setDom i x).stone = s.stone := rfl
@[simp] theorem State.setDom_sec (s : State) (i : Nat) (x : Dom) : (s.setDom i x).sec = s.sec := rfl
@[simp] theorem State.setDom_obs (s : State) (i : Nat) (x : Dom) : (s.setDom i x).obs = s.obs := rfl
@[simp] theorem State.setDom_seqs (s : State) (i : Nat) (x : Dom) : (s.setDom i x).seqs = s.seqs := rfl
@[simp] theorem State.setDom_faultLost (s : State) (i : Nat) (x : Dom) : (s.setDom i x).faultLost = s.faultLost := rfl
@[simp] theorem State.setDom_pwr_orchCap (s : State) (i : Nat) (x : Dom) :
    (s.setDom i x).pwr.orchCap = s.pwr.orchCap := rfl
@[simp] theorem State.setDom_pwr_trayCap (s : State) (i : Nat) (x : Dom) :
    (s.setDom i x).pwr.trayCap = s.pwr.trayCap := rfl
@[simp] theorem State.setDom_pwr_hostCap (s : State) (i : Nat) (x : Dom) :
    (s.setDom i x).pwr.hostCap = s.pwr.hostCap := rfl
@[simp] theorem State.setDom_pwr_free (s : State) (i : Nat) (x : Dom) :
    (s.setDom i x).pwr.free = s.pwr.free := rfl
@[simp] theorem State.setDom_pwr_firstUse (s : State) (i : Nat) (x : Dom) :
    (s.setDom i x).pwr.firstUse = s.pwr.firstUse := rfl
@[simp] theorem State.setDom_pwr_capUnmet (s : State) (i : Nat) (x : Dom) :
    (s.setDom i x).pwr.capUnmet = s.pwr.capUnmet := rfl
@[simp] theorem State.setDom_pwr_lost (s : State) (i : Nat) (x : Dom) :
    (s.setDom i x).pwr.lost = s.pwr.lost := rfl
@[simp] theorem State.setDom_pwr_thermal (s : State) (i : Nat) (x : Dom) :
    (s.setDom i x).pwr.thermal = s.pwr.thermal := rfl
@[simp] theorem State.setDom_pwr_vinRange (s : State) (i : Nat) (x : Dom) :
    (s.setDom i x).pwr.vinRange = s.pwr.vinRange := rfl
@[simp] theorem State.setDom_pwr_tjMax (s : State) (i : Nat) (x : Dom) :
    (s.setDom i x).pwr.tjMax = s.pwr.tjMax := rfl
@[simp] theorem State.setDom_pwr_calWindows (s : State) (i : Nat) (x : Dom) :
    (s.setDom i x).pwr.calWindows = s.pwr.calWindows := rfl
@[simp] theorem State.setDom_pwr_eff (s : State) (i : Nat) (x : Dom) :
    (s.setDom i x).pwr.eff = s.pwr.eff := rfl
@[simp] theorem State.setDom_pwr_cal (s : State) (i : Nat) (x : Dom) :
    (s.setDom i x).pwr.cal = s.pwr.cal := rfl
@[simp] theorem State.setDom_pwr_ratios (s : State) (i : Nat) (x : Dom) :
    (s.setDom i x).pwr.ratios = s.pwr.ratios := rfl
@[simp] theorem State.setDom_pwr_diverged (s : State) (i : Nat) (x : Dom) :
    (s.setDom i x).pwr.diverged = s.pwr.diverged := rfl
@[simp] theorem State.setDom_pwr_estimate (s : State) (i : Nat) (x : Dom) :
    (s.setDom i x).pwr.estimate = s.pwr.estimate := rfl
@[simp] theorem State.setDom_pwr_measured (s : State) (i : Nat) (x : Dom) :
    (s.setDom i x).pwr.measured = s.pwr.measured := rfl
@[simp] theorem State.setDom_pwr_iin (s : State) (i : Nat) (x : Dom) :
    (s.setDom i x).pwr.iin = s.pwr.iin := rfl
@[simp] theorem State.setDom_pwr_vin (s : State) (i : Nat) (x : Dom) :
    (s.setDom i x).pwr.vin = s.pwr.vin := rfl
@[simp] theorem State.setDom_pwr_tjAlert (s : State) (i : Nat) (x : Dom) :
    (s.setDom i x).pwr.tjAlert = s.pwr.tjAlert := rfl
@[simp] theorem State.setDom_pwr_badSensors (s : State) (i : Nat) (x : Dom) :
    (s.setDom i x).pwr.badSensors = s.pwr.badSensors := rfl
@[simp] theorem State.setDom_pwr_hot (s : State) (i : Nat) (x : Dom) :
    (s.setDom i x).pwr.hot = s.pwr.hot := rfl
@[simp] theorem State.setDom_pwr_hotQuarters (s : State) (i : Nat) (x : Dom) :
    (s.setDom i x).pwr.hotQuarters = s.pwr.hotQuarters := rfl
@[simp] theorem State.setDom_pwr_temps (s : State) (i : Nat) (x : Dom) :
    (s.setDom i x).pwr.temps = s.pwr.temps := rfl
@[simp] theorem State.setDom_pwr_shut (s : State) (i : Nat) (x : Dom) :
    (s.setDom i x).pwr.shut = s.pwr.shut := rfl
@[simp] theorem State.setDom_pwr_energySum (s : State) (i : Nat) (x : Dom) :
    (s.setDom i x).pwr.energySum = s.pwr.energySum := rfl
@[simp] theorem State.setDom_pwr_tiles (s : State) (i : Nat) (x : Dom) :
    (s.setDom i x).pwr.tiles = s.pwr.tiles := rfl
@[simp] theorem State.setDom_pwr_keep (s : State) (i : Nat) (x : Dom) :
    (s.setDom i x).pwr.keep = s.pwr.keep := rfl
@[simp] theorem State.setDom_tile (s : State) (i j : Nat) (x : Dom) : (s.setDom i x).tile j = s.tile j := rfl
@[simp] theorem State.setDom_queue (s : State) (i j : Nat) (x : Dom) : (s.setDom i x).queue j = s.queue j := rfl
@[simp] theorem State.setDom_ctx (s : State) (i j : Nat) (x : Dom) : (s.setDom i x).ctx j = s.ctx j := rfl
@[simp] theorem State.setDom_fence (s : State) (i j : Nat) (x : Dom) : (s.setDom i x).fence j = s.fence j := rfl
@[simp] theorem State.setDom_obj (s : State) (i j : Nat) (x : Dom) : (s.setDom i x).obj j = s.obj j := rfl
@[simp] theorem State.setDom_bunch (s : State) (i j : Nat) (x : Dom) : (s.setDom i x).bunch j = s.bunch j := rfl
@[simp] theorem State.setDom_port (s : State) (i j : Nat) (x : Dom) : (s.setDom i x).port j = s.port j := rfl
@[simp] theorem State.setDom_quad (s : State) (i j : Nat) (x : Dom) : (s.setDom i x).quad j = s.quad j := rfl
@[simp] theorem State.setDom_runner (s : State) (i j : Nat) (x : Dom) : (s.setDom i x).runner j = s.runner j := rfl
@[simp] theorem State.setDom_xing (s : State) (i j : Nat) (x : Dom) : (s.setDom i x).xing j = s.xing j := rfl
@[simp] theorem State.setDom_group (s : State) (i j : Nat) (x : Dom) : (s.setDom i x).group j = s.group j := rfl
@[simp] theorem State.setDom_trace (s : State) (i j : Nat) (x : Dom) : (s.setDom i x).trace j = s.trace j := rfl
@[simp] theorem State.setDom_peek (s : State) (i a : Nat) (x : Dom) : (s.setDom i x).peek a = s.peek a := rfl

/-! ### `setXing` -/

@[simp] theorem State.setXing_xing (s : State) (i : Nat) (x : Xing) : (s.setXing i x).xing i = x :=
  tget_tput_same _ _ _ _

theorem State.setXing_xing_ne (s : State) (i j : Nat) (x : Xing) (h : j ≠ i) : (s.setXing i x).xing j = s.xing j :=
  tget_tput_ne _ _ _ _ _ h

@[simp] theorem State.setXing_pending (s : State) (i : Nat) (x : Xing) : (s.setXing i x).pending = s.pending := rfl
@[simp] theorem State.setXing_time (s : State) (i : Nat) (x : Xing) : (s.setXing i x).time = s.time := rfl
@[simp] theorem State.setXing_fresh (s : State) (i : Nat) (x : Xing) : (s.setXing i x).fresh = s.fresh := rfl
@[simp] theorem State.setXing_out (s : State) (i : Nat) (x : Xing) : (s.setXing i x).out = s.out := rfl
@[simp] theorem State.setXing_mem (s : State) (i : Nat) (x : Xing) : (s.setXing i x).mem = s.mem := rfl
@[simp] theorem State.setXing_written (s : State) (i : Nat) (x : Xing) : (s.setXing i x).written = s.written := rfl
@[simp] theorem State.setXing_badLines (s : State) (i : Nat) (x : Xing) : (s.setXing i x).badLines = s.badLines := rfl
@[simp] theorem State.setXing_watch (s : State) (i : Nat) (x : Xing) : (s.setXing i x).watch = s.watch := rfl
@[simp] theorem State.setXing_boot (s : State) (i : Nat) (x : Xing) : (s.setXing i x).boot = s.boot := rfl
@[simp] theorem State.setXing_hif (s : State) (i : Nat) (x : Xing) : (s.setXing i x).hif = s.hif := rfl
@[simp] theorem State.setXing_comp (s : State) (i : Nat) (x : Xing) : (s.setXing i x).comp = s.comp := rfl
@[simp] theorem State.setXing_tiles (s : State) (i : Nat) (x : Xing) : (s.setXing i x).tiles = s.tiles := rfl
@[simp] theorem State.setXing_ports (s : State) (i : Nat) (x : Xing) : (s.setXing i x).ports = s.ports := rfl
@[simp] theorem State.setXing_bram (s : State) (i : Nat) (x : Xing) : (s.setXing i x).bram = s.bram := rfl
@[simp] theorem State.setXing_runners (s : State) (i : Nat) (x : Xing) : (s.setXing i x).runners = s.runners := rfl
@[simp] theorem State.setXing_quads (s : State) (i : Nat) (x : Xing) : (s.setXing i x).quads = s.quads := rfl
@[simp] theorem State.setXing_lanes (s : State) (i : Nat) (x : Xing) : (s.setXing i x).lanes = s.lanes := rfl
@[simp] theorem State.setXing_pwr (s : State) (i : Nat) (x : Xing) : (s.setXing i x).pwr = s.pwr := rfl
@[simp] theorem State.setXing_stone (s : State) (i : Nat) (x : Xing) : (s.setXing i x).stone = s.stone := rfl
@[simp] theorem State.setXing_sec (s : State) (i : Nat) (x : Xing) : (s.setXing i x).sec = s.sec := rfl
@[simp] theorem State.setXing_obs (s : State) (i : Nat) (x : Xing) : (s.setXing i x).obs = s.obs := rfl
@[simp] theorem State.setXing_seqs (s : State) (i : Nat) (x : Xing) : (s.setXing i x).seqs = s.seqs := rfl
@[simp] theorem State.setXing_faultLost (s : State) (i : Nat) (x : Xing) : (s.setXing i x).faultLost = s.faultLost := rfl
@[simp] theorem State.setXing_tile (s : State) (i j : Nat) (x : Xing) : (s.setXing i x).tile j = s.tile j := rfl
@[simp] theorem State.setXing_queue (s : State) (i j : Nat) (x : Xing) : (s.setXing i x).queue j = s.queue j := rfl
@[simp] theorem State.setXing_ctx (s : State) (i j : Nat) (x : Xing) : (s.setXing i x).ctx j = s.ctx j := rfl
@[simp] theorem State.setXing_fence (s : State) (i j : Nat) (x : Xing) : (s.setXing i x).fence j = s.fence j := rfl
@[simp] theorem State.setXing_obj (s : State) (i j : Nat) (x : Xing) : (s.setXing i x).obj j = s.obj j := rfl
@[simp] theorem State.setXing_bunch (s : State) (i j : Nat) (x : Xing) : (s.setXing i x).bunch j = s.bunch j := rfl
@[simp] theorem State.setXing_port (s : State) (i j : Nat) (x : Xing) : (s.setXing i x).port j = s.port j := rfl
@[simp] theorem State.setXing_quad (s : State) (i j : Nat) (x : Xing) : (s.setXing i x).quad j = s.quad j := rfl
@[simp] theorem State.setXing_runner (s : State) (i j : Nat) (x : Xing) : (s.setXing i x).runner j = s.runner j := rfl
@[simp] theorem State.setXing_dom (s : State) (i j : Nat) (x : Xing) : (s.setXing i x).dom j = s.dom j := rfl
@[simp] theorem State.setXing_group (s : State) (i j : Nat) (x : Xing) : (s.setXing i x).group j = s.group j := rfl
@[simp] theorem State.setXing_trace (s : State) (i j : Nat) (x : Xing) : (s.setXing i x).trace j = s.trace j := rfl
@[simp] theorem State.setXing_peek (s : State) (i a : Nat) (x : Xing) : (s.setXing i x).peek a = s.peek a := rfl

/-! ### `setGroup` -/

@[simp] theorem State.setGroup_group (s : State) (i : Nat) (x : Group) : (s.setGroup i x).group i = x :=
  tget_tput_same _ _ _ _

theorem State.setGroup_group_ne (s : State) (i j : Nat) (x : Group) (h : j ≠ i) : (s.setGroup i x).group j = s.group j :=
  tget_tput_ne _ _ _ _ _ h

@[simp] theorem State.setGroup_pending (s : State) (i : Nat) (x : Group) : (s.setGroup i x).pending = s.pending := rfl
@[simp] theorem State.setGroup_time (s : State) (i : Nat) (x : Group) : (s.setGroup i x).time = s.time := rfl
@[simp] theorem State.setGroup_fresh (s : State) (i : Nat) (x : Group) : (s.setGroup i x).fresh = s.fresh := rfl
@[simp] theorem State.setGroup_out (s : State) (i : Nat) (x : Group) : (s.setGroup i x).out = s.out := rfl
@[simp] theorem State.setGroup_mem (s : State) (i : Nat) (x : Group) : (s.setGroup i x).mem = s.mem := rfl
@[simp] theorem State.setGroup_written (s : State) (i : Nat) (x : Group) : (s.setGroup i x).written = s.written := rfl
@[simp] theorem State.setGroup_badLines (s : State) (i : Nat) (x : Group) : (s.setGroup i x).badLines = s.badLines := rfl
@[simp] theorem State.setGroup_watch (s : State) (i : Nat) (x : Group) : (s.setGroup i x).watch = s.watch := rfl
@[simp] theorem State.setGroup_boot (s : State) (i : Nat) (x : Group) : (s.setGroup i x).boot = s.boot := rfl
@[simp] theorem State.setGroup_hif (s : State) (i : Nat) (x : Group) : (s.setGroup i x).hif = s.hif := rfl
@[simp] theorem State.setGroup_comp (s : State) (i : Nat) (x : Group) : (s.setGroup i x).comp = s.comp := rfl
@[simp] theorem State.setGroup_tiles (s : State) (i : Nat) (x : Group) : (s.setGroup i x).tiles = s.tiles := rfl
@[simp] theorem State.setGroup_ports (s : State) (i : Nat) (x : Group) : (s.setGroup i x).ports = s.ports := rfl
@[simp] theorem State.setGroup_bram (s : State) (i : Nat) (x : Group) : (s.setGroup i x).bram = s.bram := rfl
@[simp] theorem State.setGroup_runners (s : State) (i : Nat) (x : Group) : (s.setGroup i x).runners = s.runners := rfl
@[simp] theorem State.setGroup_quads (s : State) (i : Nat) (x : Group) : (s.setGroup i x).quads = s.quads := rfl
@[simp] theorem State.setGroup_lanes (s : State) (i : Nat) (x : Group) : (s.setGroup i x).lanes = s.lanes := rfl
@[simp] theorem State.setGroup_pwr (s : State) (i : Nat) (x : Group) : (s.setGroup i x).pwr = s.pwr := rfl
@[simp] theorem State.setGroup_xings (s : State) (i : Nat) (x : Group) : (s.setGroup i x).xings = s.xings := rfl
@[simp] theorem State.setGroup_stone (s : State) (i : Nat) (x : Group) : (s.setGroup i x).stone = s.stone := rfl
@[simp] theorem State.setGroup_sec (s : State) (i : Nat) (x : Group) : (s.setGroup i x).sec = s.sec := rfl
@[simp] theorem State.setGroup_seqs (s : State) (i : Nat) (x : Group) : (s.setGroup i x).seqs = s.seqs := rfl
@[simp] theorem State.setGroup_faultLost (s : State) (i : Nat) (x : Group) : (s.setGroup i x).faultLost = s.faultLost := rfl
@[simp] theorem State.setGroup_obs_cfg (s : State) (i : Nat) (x : Group) :
    (s.setGroup i x).obs.cfg = s.obs.cfg := rfl
@[simp] theorem State.setGroup_obs_interval (s : State) (i : Nat) (x : Group) :
    (s.setGroup i x).obs.interval = s.obs.interval := rfl
@[simp] theorem State.setGroup_obs_head (s : State) (i : Nat) (x : Group) :
    (s.setGroup i x).obs.head = s.obs.head := rfl
@[simp] theorem State.setGroup_obs_overs (s : State) (i : Nat) (x : Group) :
    (s.setGroup i x).obs.overs = s.obs.overs := rfl
@[simp] theorem State.setGroup_obs_written (s : State) (i : Nat) (x : Group) :
    (s.setGroup i x).obs.written = s.obs.written := rfl
@[simp] theorem State.setGroup_obs_lostBy (s : State) (i : Nat) (x : Group) :
    (s.setGroup i x).obs.lostBy = s.obs.lostBy := rfl
@[simp] theorem State.setGroup_obs_traces (s : State) (i : Nat) (x : Group) :
    (s.setGroup i x).obs.traces = s.obs.traces := rfl
@[simp] theorem State.setGroup_tile (s : State) (i j : Nat) (x : Group) : (s.setGroup i x).tile j = s.tile j := rfl
@[simp] theorem State.setGroup_queue (s : State) (i j : Nat) (x : Group) : (s.setGroup i x).queue j = s.queue j := rfl
@[simp] theorem State.setGroup_ctx (s : State) (i j : Nat) (x : Group) : (s.setGroup i x).ctx j = s.ctx j := rfl
@[simp] theorem State.setGroup_fence (s : State) (i j : Nat) (x : Group) : (s.setGroup i x).fence j = s.fence j := rfl
@[simp] theorem State.setGroup_obj (s : State) (i j : Nat) (x : Group) : (s.setGroup i x).obj j = s.obj j := rfl
@[simp] theorem State.setGroup_bunch (s : State) (i j : Nat) (x : Group) : (s.setGroup i x).bunch j = s.bunch j := rfl
@[simp] theorem State.setGroup_port (s : State) (i j : Nat) (x : Group) : (s.setGroup i x).port j = s.port j := rfl
@[simp] theorem State.setGroup_quad (s : State) (i j : Nat) (x : Group) : (s.setGroup i x).quad j = s.quad j := rfl
@[simp] theorem State.setGroup_runner (s : State) (i j : Nat) (x : Group) : (s.setGroup i x).runner j = s.runner j := rfl
@[simp] theorem State.setGroup_dom (s : State) (i j : Nat) (x : Group) : (s.setGroup i x).dom j = s.dom j := rfl
@[simp] theorem State.setGroup_xing (s : State) (i j : Nat) (x : Group) : (s.setGroup i x).xing j = s.xing j := rfl
@[simp] theorem State.setGroup_trace (s : State) (i j : Nat) (x : Group) : (s.setGroup i x).trace j = s.trace j := rfl
@[simp] theorem State.setGroup_peek (s : State) (i a : Nat) (x : Group) : (s.setGroup i x).peek a = s.peek a := rfl

/-! ### `setTrace` -/

@[simp] theorem State.setTrace_trace (s : State) (i : Nat) (x : Trace) : (s.setTrace i x).trace i = x :=
  tget_tput_same _ _ _ _

theorem State.setTrace_trace_ne (s : State) (i j : Nat) (x : Trace) (h : j ≠ i) : (s.setTrace i x).trace j = s.trace j :=
  tget_tput_ne _ _ _ _ _ h

@[simp] theorem State.setTrace_pending (s : State) (i : Nat) (x : Trace) : (s.setTrace i x).pending = s.pending := rfl
@[simp] theorem State.setTrace_time (s : State) (i : Nat) (x : Trace) : (s.setTrace i x).time = s.time := rfl
@[simp] theorem State.setTrace_fresh (s : State) (i : Nat) (x : Trace) : (s.setTrace i x).fresh = s.fresh := rfl
@[simp] theorem State.setTrace_out (s : State) (i : Nat) (x : Trace) : (s.setTrace i x).out = s.out := rfl
@[simp] theorem State.setTrace_mem (s : State) (i : Nat) (x : Trace) : (s.setTrace i x).mem = s.mem := rfl
@[simp] theorem State.setTrace_written (s : State) (i : Nat) (x : Trace) : (s.setTrace i x).written = s.written := rfl
@[simp] theorem State.setTrace_badLines (s : State) (i : Nat) (x : Trace) : (s.setTrace i x).badLines = s.badLines := rfl
@[simp] theorem State.setTrace_watch (s : State) (i : Nat) (x : Trace) : (s.setTrace i x).watch = s.watch := rfl
@[simp] theorem State.setTrace_boot (s : State) (i : Nat) (x : Trace) : (s.setTrace i x).boot = s.boot := rfl
@[simp] theorem State.setTrace_hif (s : State) (i : Nat) (x : Trace) : (s.setTrace i x).hif = s.hif := rfl
@[simp] theorem State.setTrace_comp (s : State) (i : Nat) (x : Trace) : (s.setTrace i x).comp = s.comp := rfl
@[simp] theorem State.setTrace_tiles (s : State) (i : Nat) (x : Trace) : (s.setTrace i x).tiles = s.tiles := rfl
@[simp] theorem State.setTrace_ports (s : State) (i : Nat) (x : Trace) : (s.setTrace i x).ports = s.ports := rfl
@[simp] theorem State.setTrace_bram (s : State) (i : Nat) (x : Trace) : (s.setTrace i x).bram = s.bram := rfl
@[simp] theorem State.setTrace_runners (s : State) (i : Nat) (x : Trace) : (s.setTrace i x).runners = s.runners := rfl
@[simp] theorem State.setTrace_quads (s : State) (i : Nat) (x : Trace) : (s.setTrace i x).quads = s.quads := rfl
@[simp] theorem State.setTrace_lanes (s : State) (i : Nat) (x : Trace) : (s.setTrace i x).lanes = s.lanes := rfl
@[simp] theorem State.setTrace_pwr (s : State) (i : Nat) (x : Trace) : (s.setTrace i x).pwr = s.pwr := rfl
@[simp] theorem State.setTrace_xings (s : State) (i : Nat) (x : Trace) : (s.setTrace i x).xings = s.xings := rfl
@[simp] theorem State.setTrace_stone (s : State) (i : Nat) (x : Trace) : (s.setTrace i x).stone = s.stone := rfl
@[simp] theorem State.setTrace_sec (s : State) (i : Nat) (x : Trace) : (s.setTrace i x).sec = s.sec := rfl
@[simp] theorem State.setTrace_seqs (s : State) (i : Nat) (x : Trace) : (s.setTrace i x).seqs = s.seqs := rfl
@[simp] theorem State.setTrace_faultLost (s : State) (i : Nat) (x : Trace) : (s.setTrace i x).faultLost = s.faultLost := rfl
@[simp] theorem State.setTrace_obs_cfg (s : State) (i : Nat) (x : Trace) :
    (s.setTrace i x).obs.cfg = s.obs.cfg := rfl
@[simp] theorem State.setTrace_obs_interval (s : State) (i : Nat) (x : Trace) :
    (s.setTrace i x).obs.interval = s.obs.interval := rfl
@[simp] theorem State.setTrace_obs_head (s : State) (i : Nat) (x : Trace) :
    (s.setTrace i x).obs.head = s.obs.head := rfl
@[simp] theorem State.setTrace_obs_overs (s : State) (i : Nat) (x : Trace) :
    (s.setTrace i x).obs.overs = s.obs.overs := rfl
@[simp] theorem State.setTrace_obs_written (s : State) (i : Nat) (x : Trace) :
    (s.setTrace i x).obs.written = s.obs.written := rfl
@[simp] theorem State.setTrace_obs_lostBy (s : State) (i : Nat) (x : Trace) :
    (s.setTrace i x).obs.lostBy = s.obs.lostBy := rfl
@[simp] theorem State.setTrace_obs_groups (s : State) (i : Nat) (x : Trace) :
    (s.setTrace i x).obs.groups = s.obs.groups := rfl
@[simp] theorem State.setTrace_tile (s : State) (i j : Nat) (x : Trace) : (s.setTrace i x).tile j = s.tile j := rfl
@[simp] theorem State.setTrace_queue (s : State) (i j : Nat) (x : Trace) : (s.setTrace i x).queue j = s.queue j := rfl
@[simp] theorem State.setTrace_ctx (s : State) (i j : Nat) (x : Trace) : (s.setTrace i x).ctx j = s.ctx j := rfl
@[simp] theorem State.setTrace_fence (s : State) (i j : Nat) (x : Trace) : (s.setTrace i x).fence j = s.fence j := rfl
@[simp] theorem State.setTrace_obj (s : State) (i j : Nat) (x : Trace) : (s.setTrace i x).obj j = s.obj j := rfl
@[simp] theorem State.setTrace_bunch (s : State) (i j : Nat) (x : Trace) : (s.setTrace i x).bunch j = s.bunch j := rfl
@[simp] theorem State.setTrace_port (s : State) (i j : Nat) (x : Trace) : (s.setTrace i x).port j = s.port j := rfl
@[simp] theorem State.setTrace_quad (s : State) (i j : Nat) (x : Trace) : (s.setTrace i x).quad j = s.quad j := rfl
@[simp] theorem State.setTrace_runner (s : State) (i j : Nat) (x : Trace) : (s.setTrace i x).runner j = s.runner j := rfl
@[simp] theorem State.setTrace_dom (s : State) (i j : Nat) (x : Trace) : (s.setTrace i x).dom j = s.dom j := rfl
@[simp] theorem State.setTrace_xing (s : State) (i j : Nat) (x : Trace) : (s.setTrace i x).xing j = s.xing j := rfl
@[simp] theorem State.setTrace_group (s : State) (i j : Nat) (x : Trace) : (s.setTrace i x).group j = s.group j := rfl
@[simp] theorem State.setTrace_peek (s : State) (i a : Nat) (x : Trace) : (s.setTrace i x).peek a = s.peek a := rfl

/-! ### `crossDown` and `crossUp` -/

@[simp] theorem State.crossDown_pending (s : State) (i : Nat) (e : List Byte) : (s.crossDown i e).pending = s.pending := rfl
@[simp] theorem State.crossDown_time (s : State) (i : Nat) (e : List Byte) : (s.crossDown i e).time = s.time := rfl
@[simp] theorem State.crossDown_fresh (s : State) (i : Nat) (e : List Byte) : (s.crossDown i e).fresh = s.fresh := rfl
@[simp] theorem State.crossDown_out (s : State) (i : Nat) (e : List Byte) : (s.crossDown i e).out = s.out := rfl
@[simp] theorem State.crossDown_mem (s : State) (i : Nat) (e : List Byte) : (s.crossDown i e).mem = s.mem := rfl
@[simp] theorem State.crossDown_written (s : State) (i : Nat) (e : List Byte) : (s.crossDown i e).written = s.written := rfl
@[simp] theorem State.crossDown_badLines (s : State) (i : Nat) (e : List Byte) : (s.crossDown i e).badLines = s.badLines := rfl
@[simp] theorem State.crossDown_watch (s : State) (i : Nat) (e : List Byte) : (s.crossDown i e).watch = s.watch := rfl
@[simp] theorem State.crossDown_boot (s : State) (i : Nat) (e : List Byte) : (s.crossDown i e).boot = s.boot := rfl
@[simp] theorem State.crossDown_hif (s : State) (i : Nat) (e : List Byte) : (s.crossDown i e).hif = s.hif := rfl
@[simp] theorem State.crossDown_comp (s : State) (i : Nat) (e : List Byte) : (s.crossDown i e).comp = s.comp := rfl
@[simp] theorem State.crossDown_tiles (s : State) (i : Nat) (e : List Byte) : (s.crossDown i e).tiles = s.tiles := rfl
@[simp] theorem State.crossDown_ports (s : State) (i : Nat) (e : List Byte) : (s.crossDown i e).ports = s.ports := rfl
@[simp] theorem State.crossDown_bram (s : State) (i : Nat) (e : List Byte) : (s.crossDown i e).bram = s.bram := rfl
@[simp] theorem State.crossDown_runners (s : State) (i : Nat) (e : List Byte) : (s.crossDown i e).runners = s.runners := rfl
@[simp] theorem State.crossDown_quads (s : State) (i : Nat) (e : List Byte) : (s.crossDown i e).quads = s.quads := rfl
@[simp] theorem State.crossDown_lanes (s : State) (i : Nat) (e : List Byte) : (s.crossDown i e).lanes = s.lanes := rfl
@[simp] theorem State.crossDown_pwr (s : State) (i : Nat) (e : List Byte) : (s.crossDown i e).pwr = s.pwr := rfl
@[simp] theorem State.crossDown_stone (s : State) (i : Nat) (e : List Byte) : (s.crossDown i e).stone = s.stone := rfl
@[simp] theorem State.crossDown_sec (s : State) (i : Nat) (e : List Byte) : (s.crossDown i e).sec = s.sec := rfl
@[simp] theorem State.crossDown_obs (s : State) (i : Nat) (e : List Byte) : (s.crossDown i e).obs = s.obs := rfl
@[simp] theorem State.crossDown_seqs (s : State) (i : Nat) (e : List Byte) : (s.crossDown i e).seqs = s.seqs := rfl
@[simp] theorem State.crossDown_faultLost (s : State) (i : Nat) (e : List Byte) : (s.crossDown i e).faultLost = s.faultLost := rfl
@[simp] theorem State.crossUp_pending (s : State) (i : Nat) (e : List Byte) : (s.crossUp i e).pending = s.pending := rfl
@[simp] theorem State.crossUp_time (s : State) (i : Nat) (e : List Byte) : (s.crossUp i e).time = s.time := rfl
@[simp] theorem State.crossUp_fresh (s : State) (i : Nat) (e : List Byte) : (s.crossUp i e).fresh = s.fresh := rfl
@[simp] theorem State.crossUp_out (s : State) (i : Nat) (e : List Byte) : (s.crossUp i e).out = s.out := rfl
@[simp] theorem State.crossUp_mem (s : State) (i : Nat) (e : List Byte) : (s.crossUp i e).mem = s.mem := rfl
@[simp] theorem State.crossUp_written (s : State) (i : Nat) (e : List Byte) : (s.crossUp i e).written = s.written := rfl
@[simp] theorem State.crossUp_badLines (s : State) (i : Nat) (e : List Byte) : (s.crossUp i e).badLines = s.badLines := rfl
@[simp] theorem State.crossUp_watch (s : State) (i : Nat) (e : List Byte) : (s.crossUp i e).watch = s.watch := rfl
@[simp] theorem State.crossUp_boot (s : State) (i : Nat) (e : List Byte) : (s.crossUp i e).boot = s.boot := rfl
@[simp] theorem State.crossUp_hif (s : State) (i : Nat) (e : List Byte) : (s.crossUp i e).hif = s.hif := rfl
@[simp] theorem State.crossUp_comp (s : State) (i : Nat) (e : List Byte) : (s.crossUp i e).comp = s.comp := rfl
@[simp] theorem State.crossUp_tiles (s : State) (i : Nat) (e : List Byte) : (s.crossUp i e).tiles = s.tiles := rfl
@[simp] theorem State.crossUp_ports (s : State) (i : Nat) (e : List Byte) : (s.crossUp i e).ports = s.ports := rfl
@[simp] theorem State.crossUp_bram (s : State) (i : Nat) (e : List Byte) : (s.crossUp i e).bram = s.bram := rfl
@[simp] theorem State.crossUp_runners (s : State) (i : Nat) (e : List Byte) : (s.crossUp i e).runners = s.runners := rfl
@[simp] theorem State.crossUp_quads (s : State) (i : Nat) (e : List Byte) : (s.crossUp i e).quads = s.quads := rfl
@[simp] theorem State.crossUp_lanes (s : State) (i : Nat) (e : List Byte) : (s.crossUp i e).lanes = s.lanes := rfl
@[simp] theorem State.crossUp_pwr (s : State) (i : Nat) (e : List Byte) : (s.crossUp i e).pwr = s.pwr := rfl
@[simp] theorem State.crossUp_stone (s : State) (i : Nat) (e : List Byte) : (s.crossUp i e).stone = s.stone := rfl
@[simp] theorem State.crossUp_sec (s : State) (i : Nat) (e : List Byte) : (s.crossUp i e).sec = s.sec := rfl
@[simp] theorem State.crossUp_obs (s : State) (i : Nat) (e : List Byte) : (s.crossUp i e).obs = s.obs := rfl
@[simp] theorem State.crossUp_seqs (s : State) (i : Nat) (e : List Byte) : (s.crossUp i e).seqs = s.seqs := rfl
@[simp] theorem State.crossUp_faultLost (s : State) (i : Nat) (e : List Byte) : (s.crossUp i e).faultLost = s.faultLost := rfl

/-! ### `emit` -/

@[simp] theorem State.emit_pending (s : State) (x : Out) : (s.emit x).pending = s.pending := by
  unfold State.emit State.crossOut; split <;> try split
  all_goals rfl
@[simp] theorem State.emit_time (s : State) (x : Out) : (s.emit x).time = s.time := by
  unfold State.emit State.crossOut; split <;> try split
  all_goals rfl
@[simp] theorem State.emit_fresh (s : State) (x : Out) : (s.emit x).fresh = s.fresh := by
  unfold State.emit State.crossOut; split <;> try split
  all_goals rfl
@[simp] theorem State.emit_mem (s : State) (x : Out) : (s.emit x).mem = s.mem := by
  unfold State.emit State.crossOut; split <;> try split
  all_goals rfl
@[simp] theorem State.emit_written (s : State) (x : Out) : (s.emit x).written = s.written := by
  unfold State.emit State.crossOut; split <;> try split
  all_goals rfl
@[simp] theorem State.emit_badLines (s : State) (x : Out) : (s.emit x).badLines = s.badLines := by
  unfold State.emit State.crossOut; split <;> try split
  all_goals rfl
@[simp] theorem State.emit_watch (s : State) (x : Out) : (s.emit x).watch = s.watch := by
  unfold State.emit State.crossOut; split <;> try split
  all_goals rfl
@[simp] theorem State.emit_boot (s : State) (x : Out) : (s.emit x).boot = s.boot := by
  unfold State.emit State.crossOut; split <;> try split
  all_goals rfl
@[simp] theorem State.emit_hif (s : State) (x : Out) : (s.emit x).hif = s.hif := by
  unfold State.emit State.crossOut; split <;> try split
  all_goals rfl
@[simp] theorem State.emit_comp (s : State) (x : Out) : (s.emit x).comp = s.comp := by
  unfold State.emit State.crossOut; split <;> try split
  all_goals rfl
@[simp] theorem State.emit_tiles (s : State) (x : Out) : (s.emit x).tiles = s.tiles := by
  unfold State.emit State.crossOut; split <;> try split
  all_goals rfl
@[simp] theorem State.emit_ports (s : State) (x : Out) : (s.emit x).ports = s.ports := by
  unfold State.emit State.crossOut; split <;> try split
  all_goals rfl
@[simp] theorem State.emit_bram (s : State) (x : Out) : (s.emit x).bram = s.bram := by
  unfold State.emit State.crossOut; split <;> try split
  all_goals rfl
@[simp] theorem State.emit_runners (s : State) (x : Out) : (s.emit x).runners = s.runners := by
  unfold State.emit State.crossOut; split <;> try split
  all_goals rfl
@[simp] theorem State.emit_quads (s : State) (x : Out) : (s.emit x).quads = s.quads := by
  unfold State.emit State.crossOut; split <;> try split
  all_goals rfl
@[simp] theorem State.emit_lanes (s : State) (x : Out) : (s.emit x).lanes = s.lanes := by
  unfold State.emit State.crossOut; split <;> try split
  all_goals rfl
@[simp] theorem State.emit_pwr (s : State) (x : Out) : (s.emit x).pwr = s.pwr := by
  unfold State.emit State.crossOut; split <;> try split
  all_goals rfl
@[simp] theorem State.emit_stone (s : State) (x : Out) : (s.emit x).stone = s.stone := by
  unfold State.emit State.crossOut; split <;> try split
  all_goals rfl
@[simp] theorem State.emit_sec (s : State) (x : Out) : (s.emit x).sec = s.sec := by
  unfold State.emit State.crossOut; split <;> try split
  all_goals rfl
@[simp] theorem State.emit_obs (s : State) (x : Out) : (s.emit x).obs = s.obs := by
  unfold State.emit State.crossOut; split <;> try split
  all_goals rfl
@[simp] theorem State.emit_seqs (s : State) (x : Out) : (s.emit x).seqs = s.seqs := by
  unfold State.emit State.crossOut; split <;> try split
  all_goals rfl
@[simp] theorem State.emit_faultLost (s : State) (x : Out) : (s.emit x).faultLost = s.faultLost := by
  unfold State.emit State.crossOut; split <;> try split
  all_goals rfl
@[simp] theorem State.emit_out (s : State) (x : Out) : (s.emit x).out = x :: s.out := rfl
@[simp] theorem State.emit_tile (s : State) (x : Out) (j : Nat) : (s.emit x).tile j = s.tile j := by simp [State.tile]
@[simp] theorem State.emit_queue (s : State) (x : Out) (j : Nat) : (s.emit x).queue j = s.queue j := by simp [State.queue]
@[simp] theorem State.emit_ctx (s : State) (x : Out) (j : Nat) : (s.emit x).ctx j = s.ctx j := by simp [State.ctx]
@[simp] theorem State.emit_fence (s : State) (x : Out) (j : Nat) : (s.emit x).fence j = s.fence j := by simp [State.fence]
@[simp] theorem State.emit_obj (s : State) (x : Out) (j : Nat) : (s.emit x).obj j = s.obj j := by simp [State.obj]
@[simp] theorem State.emit_bunch (s : State) (x : Out) (j : Nat) : (s.emit x).bunch j = s.bunch j := by simp [State.bunch]
@[simp] theorem State.emit_port (s : State) (x : Out) (j : Nat) : (s.emit x).port j = s.port j := by simp [State.port]
@[simp] theorem State.emit_quad (s : State) (x : Out) (j : Nat) : (s.emit x).quad j = s.quad j := by simp [State.quad]
@[simp] theorem State.emit_runner (s : State) (x : Out) (j : Nat) : (s.emit x).runner j = s.runner j := by simp [State.runner]
@[simp] theorem State.emit_dom (s : State) (x : Out) (j : Nat) : (s.emit x).dom j = s.dom j := by simp [State.dom]
@[simp] theorem State.emit_group (s : State) (x : Out) (j : Nat) : (s.emit x).group j = s.group j := by simp [State.group]
@[simp] theorem State.emit_trace (s : State) (x : Out) (j : Nat) : (s.emit x).trace j = s.trace j := by simp [State.trace]
@[simp] theorem State.emit_peek (s : State) (x : Out) (a : Nat) : (s.emit x).peek a = s.peek a := by
  simp [State.peek, State.lineWritten]

/-! ### Registers of a control core -/

@[simp] theorem Core.getG_zero (c : Core) : c.getG 0 = 0 := rfl
@[simp] theorem Core.getG_setG (c : Core) (i : Nat) (v : Word) : (c.setG i v).getG i = if i = 0 then 0 else v := by
  by_cases h : i = 0 <;> simp [Core.getG, Core.setG, h]
theorem Core.getG_setG_ne (c : Core) (i j : Nat) (v : Word) (h : j ≠ i) : (c.setG i v).getG j = c.getG j := by
  by_cases hi : i = 0
  · simp [Core.setG, hi]
  · simp [Core.getG, Core.setG, hi, tget_tput_ne _ _ _ _ _ h]
@[simp] theorem Core.getTok_setTok (c : Core) (k : Nat) (x : Tok) : (c.setTok k x).getTok k = x :=
  tget_tput_same _ _ _ _
theorem Core.getTok_setTok_ne (c : Core) (k j : Nat) (x : Tok) (h : j ≠ k) : (c.setTok k x).getTok j = c.getTok j :=
  tget_tput_ne _ _ _ _ _ h

end Sys2Proof.Machine
end

