-- ==== Sys2Proof/Laws/Domains.lean ====
section
/-! SUPPORT. What the power-domain operations leave alone: the COMPOSE block and the host interface. -/

namespace Sys2Proof.Machine

/-- A fold keeps a part of the state that every step of it keeps. -/
theorem foldl_part {α β γ : Type} (p : β → γ) (f : β → α → β) (h : ∀ b a, p (f b a) = p b) :
    ∀ (l : List α) (b : β), p (l.foldl f b) = p b
  | [], _ => rfl
  | a :: l, b => by rw [List.foldl_cons, foldl_part p f h l, h]

theorem State.clearStore_comp (s : State) (a n : Nat) : (s.clearStore a n).comp = s.comp := rfl

theorem State.dropStores_comp (s : State) (q : Nat) : (s.dropStores q).comp = s.comp := by
  unfold State.dropStores
  apply foldl_part State.comp; intros; rfl

theorem State.park_comp (s : State) (d : Nat) : (s.park d).comp = s.comp := by
  unfold State.park
  split <;> rfl

theorem State.lowQuads_comp (l : List Nat) (t : State) (x low : Nat) : (l.foldl (fun s j =>
    let q := s.quad (4 * x + j)
    s.setQuad (4 * x + j) { q with st := if low = 1 then (if q.st = 3 then 5 else q.st) else 1 }) t).comp = t.comp := by
  apply foldl_part State.comp; intros; rfl

theorem State.enterLow_comp (s : State) (d low : Nat) : (s.enterLow d low).comp = s.comp := by
  unfold State.enterLow
  simp only [apply_ite State.comp, State.setTile_comp, State.setPort_comp, State.setDom_comp, State.setRunner_comp, State.park_comp,
    State.clearStore_comp, State.dropStores_comp, State.lowQuads_comp, ite_self]

theorem State.startWake_comp (s : State) (d : Nat) : (s.startWake d).comp = s.comp := by
  unfold State.startWake
  simp only [apply_ite State.comp, State.setDom_comp, State.setPort_comp, ite_self]

theorem State.evalOne_comp (s : State) (d : Nat) : (s.evalOne d).comp = s.comp := by
  unfold State.evalOne
  simp only [apply_ite State.comp, State.startWake_comp, State.enterLow_comp, State.setDom_comp, ite_self]

theorem State.warmUp_comp (s : State) (d : Nat) : (s.warmUp d).comp = s.comp := by
  unfold State.warmUp
  simp only [apply_ite State.comp, State.setDom_comp, ite_self]

@[simp] theorem State.evalDom_comp (s : State) (d : Nat) : (s.evalDom d).comp = s.comp := by
  unfold State.evalDom
  simp only [apply_ite State.comp, State.evalOne_comp, State.warmUp_comp, ite_self]

@[simp] theorem State.vote_comp (s : State) (d slot v : Nat) : (s.vote d slot v).comp = s.comp := by
  unfold State.vote
  simp only [apply_ite State.comp, State.evalDom_comp, State.setDom_comp, ite_self]

@[simp] theorem State.revote_comp (s : State) : s.revote.comp = s.comp := by
  unfold State.revote
  split
  · rfl
  · exact foldl_part State.comp _ (fun s d => by rw [State.evalDom_comp]; rfl) _ _

/-! Bunch records are read from the COMPOSE block alone. -/

theorem State.bunchOf_congr {s u : State} (h : s.comp = u.comp) (id : BitVec 32) : s.bunchOf id = u.bunchOf id := by
  unfold State.bunchOf State.findBunch State.bunch
  rw [h]

theorem State.ancestors_congr {s u : State} (h : s.comp = u.comp) : ∀ (n : Nat) (id : BitVec 32), s.ancestors n id = u.ancestors n id
  | 0, _ => rfl
  | n + 1, id => by
    unfold State.ancestors
    rw [State.bunchOf_congr h, State.ancestors_congr h n]

end Sys2Proof.Machine
end

