-- ==== Sys2Proof/Laws/Memory.lean ====
section
/-! SUPPORT. Memory keeps its canonical form, a read after a write gives the byte written, and a write leaves every
other byte alone (R54, R59, R60, R242). -/

namespace Sys2Proof.Machine

theorem memWf_nil : memWf [] := by simp [memWf]

/-- A write of one cell keeps the canonical form. -/
theorem memPut_wf (m : List Host.Cell) (a : Nat) (b : Byte) (h : memWf m) : memWf (memPut m a b) := by
  unfold memPut
  split
  · exact ⟨h.1.filter _, fun c hc => h.2 c (List.mem_filter.1 hc).1⟩
  · rename_i hb
    refine ⟨rises_tput m a b h.1, fun c hc => ?_⟩
    rcases mem_tput m a b c hc with rfl | hc
    · exact hb
    · exact h.2 c hc

/-- Removing cells keeps the canonical form. -/
theorem memFilter_wf (m : List Host.Cell) (p : Host.Cell → Bool) (h : memWf m) : memWf (m.filter p) :=
  ⟨h.1.filter _, fun c hc => h.2 c (List.mem_filter.1 hc).1⟩
theorem memErase_wf (m : List Host.Cell) (a n : Nat) (h : memWf m) : memWf (memErase m a n) := memFilter_wf _ _ h

/-- A read of the cell just written gives the byte. -/
@[simp] theorem memGet_memPut_same (m : List Host.Cell) (a : Nat) (b : Byte) : memGet (memPut m a b) a = b := by
  unfold memGet memPut
  split
  · rename_i hb; subst hb; exact tget_filter_gone _ _ _ _ (by simp)
  · simp

/-- A write leaves every other cell alone. -/
theorem memGet_memPut_ne (m : List Host.Cell) (a c : Nat) (b : Byte) (h : c ≠ a) :
    memGet (memPut m a b) c = memGet m c := by
  unfold memGet memPut
  split
  · exact tget_filter _ _ _ _ (by simp [h])
  · exact tget_tput_ne _ _ _ _ _ h

/-- Moving cells keeps the canonical form. -/
theorem moveCells_wf (m : List Host.Cell) (a b n : Nat) (h : memWf m) : memWf (moveCells m a b n) := by
  unfold moveCells
  generalize m.filter (fun c => a ≤ c.1 && c.1 < a + n) = l
  have h := memErase_wf m b n h
  revert h
  generalize memErase m b n = r
  induction l generalizing r with
  | nil => exact id
  | cons c l ih => exact fun h => ih _ (memPut_wf _ _ _ h)

/-- Writing cells one after another keeps the canonical form. -/
theorem memFill_wf {α : Type} (l : List α) (a : α → Nat) (b : α → Byte) :
    ∀ (m : List Host.Cell), memWf m → memWf (l.foldl (fun m x => memPut m (a x) (b x)) m) := by
  induction l with
  | nil => exact fun _ h => h
  | cons x l ih => exact fun _ h => ih _ (memPut_wf _ _ _ h)

/-- A write of one byte keeps the canonical form. -/
theorem poke_wf (s : State) (a : Nat) (b : Byte) (h : memWf s.mem) : memWf (s.poke a b).mem := by
  unfold State.poke
  split
  · exact memPut_wf _ _ _ (memErase_wf _ _ _ h)
  · exact memPut_wf _ _ _ h

/-- A write of bytes keeps the canonical form. -/
theorem pokeN_wf (bs : List Byte) : ∀ (s : State) (a : Nat), memWf s.mem → memWf (s.pokeN a bs).mem := by
  induction bs with
  | nil => intro s a h; exact h
  | cons b bs ih => intro s a h; exact ih _ _ (poke_wf s a b h)

/-- Clearing written-bits keeps the canonical form. -/
theorem clearStore_wf (s : State) (a n : Nat) (h : memWf s.mem) : memWf (s.clearStore a n).mem :=
  memErase_wf _ _ _ h

/-- The line of an address holds it. -/
theorem line_holds (a : Nat) : a / 64 * 64 ≤ a ∧ a < a / 64 * 64 + 64 := by omega

/-- A read of the byte just written gives it. -/
theorem peek_poke_same (s : State) (a : Nat) (b : Byte) : (s.poke a b).peek a = b := by
  unfold State.poke
  split
  · simp [State.peek, State.lineWritten]
  · rename_i h
    have : (isStore a && !tget false s.written (a / 64)) = false := by simpa [State.lineWritten] using h
    simp [State.peek, State.lineWritten, this]

/-- Two addresses of one line lie in one device. -/
theorem isStore_line (a c : Nat) (h : c / 64 = a / 64) : isStore c = isStore a := by
  have : c >>> 52 = a >>> 52 := by
    simp only [Nat.shiftRight_eq_div_pow]
    omega
  simp [isStore, fld, this]

theorem tget_put_filter_gone (m : List Host.Cell) (a n c : Nat) (h : a ≤ c ∧ c < a + n) :
    memGet (memErase m a n) c = 0 := tget_filter_gone _ _ _ _ (by simp; omega)

theorem memGet_memErase (m : List Host.Cell) (a n c : Nat) (h : c < a ∨ a + n ≤ c) :
    memGet (memErase m a n) c = memGet m c := tget_filter _ _ _ _ (by simpa using h)

/-- A write of one byte leaves every other byte alone. -/
theorem peek_poke_ne (s : State) (a c : Nat) (b : Byte) (h : c ≠ a) : (s.poke a b).peek c = s.peek c := by
  unfold State.poke
  split
  · rename_i hw
    simp only [Bool.and_eq_true, Bool.not_eq_true', State.lineWritten] at hw
    by_cases hl : c / 64 = a / 64
    · simp only [State.peek, State.lineWritten, hl, tget_tput_same, isStore_line a c hl, hw.1, hw.2,
        memGet_memPut_ne _ _ _ _ h]
      exact tget_put_filter_gone _ _ _ _ (by omega)
    · simp only [State.peek, State.lineWritten, tget_tput_ne _ _ _ _ _ hl, memGet_memPut_ne _ _ _ _ h]
      rw [memGet_memErase _ _ _ _ (by omega)]
      rfl
  · simp [State.peek, State.lineWritten, memGet_memPut_ne _ _ _ _ h]

/-- A write of bytes leaves every byte outside them alone. -/
theorem peek_pokeN_ne (bs : List Byte) : ∀ (s : State) (a c : Nat), (c < a ∨ a + bs.length ≤ c) →
    (s.pokeN a bs).peek c = s.peek c := by
  induction bs with
  | nil => intro s a c _; rfl
  | cons b bs ih =>
    intro s a c h
    simp only [List.length_cons] at h
    rw [State.pokeN, ih _ _ _ (by omega), peek_poke_ne _ _ _ _ (by omega)]

end Sys2Proof.Machine
end

