-- ==== Sys2Proof/Laws/Keep.lean ====
section
/-! SUPPORT. What every operation of the module keeps: the queue of waiting commands, the variant, and the canonical form of
memory. `Keep s0 s` says it of two states, and the lemmas here compose it. -/

namespace Sys2Proof.Machine

/-- The queue and the variant of `s0` still stand in `s`, and memory is in canonical form if it was. -/
structure Keep (s0 s : State) : Prop where
  pending : s.pending = s0.pending
  variant : s.boot.variant = s0.boot.variant
  mem : memWf s0.mem → memWf s.mem

theorem Keep.refl (s : State) : Keep s s := ⟨rfl, rfl, id⟩

theorem Keep.trans {a b c : State} (h : Keep a b) (k : Keep b c) : Keep a c :=
  ⟨k.pending.trans h.pending, k.variant.trans h.variant, fun w => k.mem (h.mem w)⟩

/-- An update of fields other than the queue, memory and boot state. -/
theorem Keep.upd {s0 s : State} (h : Keep s0 s) {time fresh out written badLines watch hif comp tiles ports bram runners quads lanes pwr
    xings stone sec obs seqs faultLost} :
    Keep s0 ⟨s.pending, time, fresh, out, s.mem, written, badLines, watch, s.boot, hif, comp, tiles, ports, bram, runners, quads, lanes, pwr,
      xings, stone, sec, obs, seqs, faultLost⟩ :=
  ⟨h.pending, h.variant, h.mem⟩

/-- The same with other fields of the boot state. -/
theorem Keep.updBoot {s0 s : State} (h : Keep s0 s) {time fresh out written badLines watch hif comp tiles ports bram runners quads lanes
    pwr xings stone sec obs seqs faultLost step usable tested pwrEn resetN resets cause peelDone maint wantMaint phase
    i3cAddr i3cLast} :
    Keep s0 ⟨s.pending, time, fresh, out, s.mem, written, badLines, watch, ⟨s.boot.variant, step, usable, tested, pwrEn, resetN, resets,
      cause, peelDone, maint, wantMaint, phase, i3cAddr, i3cLast⟩, hif, comp, tiles, ports, bram, runners, quads, lanes, pwr,
      xings, stone, sec, obs, seqs, faultLost⟩ :=
  ⟨h.pending, h.variant, h.mem⟩

theorem Keep.upd_iff {s0 s : State} {time fresh out written badLines watch hif comp tiles ports bram runners quads lanes pwr
    xings stone sec obs seqs faultLost} :
    Keep s0 ⟨s.pending, time, fresh, out, s.mem, written, badLines, watch, s.boot, hif, comp, tiles, ports, bram, runners, quads, lanes, pwr,
      xings, stone, sec, obs, seqs, faultLost⟩ ↔ Keep s0 s :=
  ⟨fun h => ⟨h.pending, h.variant, h.mem⟩, fun h => h.upd⟩

theorem Keep.updBoot_iff {s0 s : State} {time fresh out written badLines watch hif comp tiles ports bram runners quads lanes
    pwr xings stone sec obs seqs faultLost step usable tested pwrEn resetN resets cause peelDone maint wantMaint phase
    i3cAddr i3cLast} :
    Keep s0 ⟨s.pending, time, fresh, out, s.mem, written, badLines, watch, ⟨s.boot.variant, step, usable, tested, pwrEn, resetN, resets,
      cause, peelDone, maint, wantMaint, phase, i3cAddr, i3cLast⟩, hif, comp, tiles, ports, bram, runners, quads, lanes, pwr,
      xings, stone, sec, obs, seqs, faultLost⟩ ↔ Keep s0 s :=
  ⟨fun h => ⟨h.pending, h.variant, h.mem⟩, fun h => h.updBoot⟩

/-- An update that also changes memory. -/
theorem Keep.updMem {s0 s : State} (h : Keep s0 s) {m : List Host.Cell} (hm : memWf s.mem → memWf m) {time fresh out written badLines watch
    hif comp tiles ports bram runners quads lanes pwr xings stone sec obs seqs faultLost} :
    Keep s0 ⟨s.pending, time, fresh, out, m, written, badLines, watch, s.boot, hif, comp, tiles, ports, bram, runners, quads, lanes, pwr,
      xings, stone, sec, obs, seqs, faultLost⟩ :=
  ⟨h.pending, h.variant, fun w => hm (h.mem w)⟩

theorem Keep.foldl {α : Type} {s0 s : State} (h : Keep s0 s) (l : List α) (f : State → α → State)
    (hf : ∀ s x, Keep s0 s → Keep s0 (f s x)) : Keep s0 (l.foldl f s) := by
  induction l generalizing s with
  | nil => exact h
  | cons x l ih => exact ih (hf s x h)

theorem Keep.foldlPair {α β : Type} {s0 : State} {s : State × β} (h : Keep s0 s.1) (l : List α)
    (f : State × β → α → State × β) (hf : ∀ s x, Keep s0 s.1 → Keep s0 (f s x).1) : Keep s0 (l.foldl f s).1 := by
  induction l generalizing s with
  | nil => exact h
  | cons x l ih => exact ih (hf s x h)

theorem Keep.ite {s0 a b : State} {c : Prop} [Decidable c] (ha : Keep s0 a) (hb : Keep s0 b) :
    Keep s0 (if c then a else b) := by
  split
  · exact ha
  · exact hb

/-- The state in a pair that a match opened. -/
theorem Keep.ofFst {β : Type} {s0 s : State} {p : State × β} {b : β} (e : p = (s, b)) (h : Keep s0 p.1) : Keep s0 s := by
  subst e; exact h

theorem Keep.ofSnd {β : Type} {s0 s : State} {p : β × State} {b : β} (e : p = (b, s)) (h : Keep s0 p.2) : Keep s0 s := by
  subst e; exact h

/-- The state that an operation may answer. -/
def KeepOpt (s0 : State) : Option State → Prop
  | none => True
  | some s => Keep s0 s

theorem KeepOpt.none {s0 : State} : KeepOpt s0 none := trivial

theorem KeepOpt.some {s0 s : State} (h : Keep s0 s) : KeepOpt s0 (some s) := h

theorem Keep.ofOpt {s0 s : State} {o : Option State} (e : o = some s) (h : KeepOpt s0 o) : Keep s0 s := by
  subst e; exact h

theorem KeepOpt.map {α : Type} {s0 : State} {o : Option α} {f : α → State} (h : ∀ x, Keep s0 (f x)) :
    KeepOpt s0 (o.map f) := by
  cases o with
  | none => trivial
  | some x => exact h x

theorem KeepOpt.bind {s0 : State} {o : Option Nat} {f : Nat → Option State} (h : ∀ t, KeepOpt s0 (f t)) :
    KeepOpt s0 (o.bind f) := by
  cases o with
  | none => trivial
  | some t => exact h t

/-- The state that an operation answers or fails to. -/
def KeepExc {ε α : Type} (s0 : State) (f : α → State) : Except ε α → Prop
  | .error _ => True
  | .ok x => Keep s0 (f x)

theorem KeepExc.error {ε α : Type} {s0 : State} {f : α → State} {e : ε} : KeepExc s0 f (.error e) := trivial

theorem KeepExc.ok {ε α : Type} {s0 : State} {f : α → State} {x : α} (h : Keep s0 (f x)) :
    KeepExc (ε := ε) s0 f (.ok x) := h

theorem Keep.ofExc {ε : Type} {s0 s : State} {o : Except ε State} (e : o = .ok s) (h : KeepExc s0 (fun s => s) o) : Keep s0 s := by
  subst e; exact h

theorem Keep.ofExcPair {ε β : Type} {s0 s : State} {b : β} {o : Except ε (β × State)} (e : o = .ok (b, s))
    (h : KeepExc s0 Prod.snd o) : Keep s0 s := by
  subst e; exact h

/-- The state that a command answers. -/
def KeepAns (s0 : State) : Ans → Prop
  | .next s => Keep s0 s
  | _ => True

theorem KeepAns.next {s0 s : State} (h : Keep s0 s) : KeepAns s0 (.next s) := h

theorem KeepAns.refused {s0 : State} {r : Refusal} : KeepAns s0 (.refused r) := trivial

theorem KeepAns.ite {s0 : State} {a b : Ans} {c : Prop} [Decidable c] (ha : KeepAns s0 a) (hb : KeepAns s0 b) :
    KeepAns s0 (if c then a else b) := by
  split
  · exact ha
  · exact hb

end Sys2Proof.Machine
end

