-- ==== Sys2Proof/Laws/KeepCrossings.lean ====
section
/-! SUPPORT. The operations of Machine/Crossings.lean keep the queue, the variant and the canonical form of memory. -/

set_option linter.unusedSimpArgs false
set_option linter.unusedTactic false
set_option linter.unreachableTactic false

namespace Sys2Proof.Machine

theorem State.setXing_keep {s0 : State} (s : State) (i : Nat) (x : Xing) (hk : Keep s0 s) : Keep s0 (State.setXing s
    i x) := by
  unfold State.setXing
  try dsimp only
  repeat' first
    | with_reducible assumption | simp only [Keep.upd_iff]

theorem State.crossDown_keep {s0 : State} (s : State) (i : Nat) (e : List Byte) (hk : Keep s0 s) : Keep s0
    (State.crossDown s i e) := by
  unfold State.crossDown
  try dsimp only
  repeat' first
    | with_reducible assumption | with_reducible apply State.setXing_keep | simp only [Keep.upd_iff]

theorem State.crossUp_keep {s0 : State} (s : State) (i : Nat) (e : List Byte) (hk : Keep s0 s) : Keep s0
    (State.crossUp s i e) := by
  unfold State.crossUp
  try dsimp only
  repeat' first
    | with_reducible assumption | with_reducible apply State.setXing_keep | simp only [Keep.upd_iff]

theorem State.crossOut_keep {s0 : State} (s : State) (o : Out) (hk : Keep s0 s) : Keep s0 (State.crossOut s o) := by
  unfold State.crossOut
  try dsimp only
  repeat' first
    | with_reducible assumption | with_reducible apply State.crossDown_keep | simp only [Keep.upd_iff] | split

end Sys2Proof.Machine
end

