-- ==== Sys2Proof/Laws/KeepOps.lean ====
section
/-! SUPPORT. The operations of Machine/Ops.lean keep the queue, the variant and the canonical form of memory. -/

set_option linter.unusedSimpArgs false
set_option linter.unusedTactic false
set_option linter.unreachableTactic false

namespace Sys2Proof.Machine

theorem State.setTile_keep {s0 : State} (s : State) (t : Nat) (x : Tile) (hk : Keep s0 s) : Keep s0 (State.setTile s
    t x) := by
  unfold State.setTile
  try dsimp only
  repeat' first
    | with_reducible assumption | simp only [Keep.upd_iff]

theorem State.setQueue_keep {s0 : State} (s : State) (q : Nat) (x : Queue) (hk : Keep s0 s) : Keep s0 (State.setQueue
    s q x) := by
  unfold State.setQueue
  try dsimp only
  repeat' first
    | with_reducible assumption | simp only [Keep.upd_iff]

theorem State.setCtx_keep {s0 : State} (s : State) (c : Nat) (x : Ctx) (hk : Keep s0 s) : Keep s0 (State.setCtx s c
    x) := by
  unfold State.setCtx
  try dsimp only
  repeat' first
    | with_reducible assumption | simp only [Keep.upd_iff]

theorem State.setFence_keep {s0 : State} (s : State) (f : Nat) (x : Fence) (hk : Keep s0 s) : Keep s0 (State.setFence
    s f x) := by
  unfold State.setFence
  try dsimp only
  repeat' first
    | with_reducible assumption | simp only [Keep.upd_iff]

theorem State.setObj_keep {s0 : State} (s : State) (h : Nat) (x : Obj) (hk : Keep s0 s) : Keep s0 (State.setObj s h
    x) := by
  unfold State.setObj
  try dsimp only
  repeat' first
    | with_reducible assumption | simp only [Keep.upd_iff]

theorem State.setBunch_keep {s0 : State} (s : State) (i : Nat) (x : Bunch) (hk : Keep s0 s) : Keep s0 (State.setBunch
    s i x) := by
  unfold State.setBunch
  try dsimp only
  repeat' first
    | with_reducible assumption | simp only [Keep.upd_iff]

theorem State.setPort_keep {s0 : State} (s : State) (m : Nat) (x : Port) (hk : Keep s0 s) : Keep s0 (State.setPort s
    m x) := by
  unfold State.setPort
  try dsimp only
  repeat' first
    | with_reducible assumption | simp only [Keep.upd_iff]

theorem State.setQuad_keep {s0 : State} (s : State) (x : Nat) (v : Quad) (hk : Keep s0 s) : Keep s0 (State.setQuad s
    x v) := by
  unfold State.setQuad
  try dsimp only
  repeat' first
    | with_reducible assumption | simp only [Keep.upd_iff]

theorem State.setRunner_keep {s0 : State} (s : State) (x : Nat) (v : Runner) (hk : Keep s0 s) : Keep s0
    (State.setRunner s x v) := by
  unfold State.setRunner
  try dsimp only
  repeat' first
    | with_reducible assumption | simp only [Keep.upd_iff]

theorem State.setDom_keep {s0 : State} (s : State) (d : Nat) (x : Dom) (hk : Keep s0 s) : Keep s0 (State.setDom s d
    x) := by
  unfold State.setDom
  try dsimp only
  repeat' first
    | with_reducible assumption | simp only [Keep.upd_iff]

theorem State.setGroup_keep {s0 : State} (s : State) (g : Nat) (x : Group) (hk : Keep s0 s) : Keep s0 (State.setGroup
    s g x) := by
  unfold State.setGroup
  try dsimp only
  repeat' first
    | with_reducible assumption | simp only [Keep.upd_iff]

theorem State.setCore_keep {s0 : State} (s : State) (t : Nat) (c : Core) (hk : Keep s0 s) : Keep s0 (State.setCore s
    t c) := by
  unfold State.setCore
  try dsimp only
  repeat' first
    | with_reducible assumption | with_reducible apply State.setTile_keep | simp only [Keep.upd_iff]

theorem State.updBunch_keep {s0 : State} (s : State) (id : BitVec 32) (f : Bunch → Bunch) (hk : Keep s0 s) : Keep s0
    (State.updBunch s id f) := by
  unfold State.updBunch
  try dsimp only
  repeat' first
    | with_reducible assumption | with_reducible apply State.setBunch_keep | simp only [Keep.upd_iff] | split

theorem State.draw_keep {s0 : State} (s : State) (w : Nat) (hk : Keep s0 s) : Keep s0 (State.draw s w).2 := by
  unfold State.draw
  try dsimp only
  repeat' first
    | with_reducible assumption | simp only [Keep.upd_iff]

theorem State.poke_keep {s0 : State} (s : State) (a : Nat) (b : Byte) (h : Keep s0 s) : Keep s0 (s.poke a b) := by
  refine ⟨?_, ?_, fun w => poke_wf s a b (h.mem w)⟩ <;> unfold State.poke <;> split
  all_goals first | exact h.pending | exact h.variant

theorem State.pokeN_keep {s0 : State} (bs : List Byte) : ∀ (s : State) (a : Nat), Keep s0 s → Keep s0 (s.pokeN a bs) := by
  induction bs with
  | nil => intro s a h; exact h
  | cons b bs ih => intro s a h; exact ih _ _ (State.poke_keep s a b h)

theorem State.clearStore_keep {s0 : State} (s : State) (a n : Nat) (h : Keep s0 s) : Keep s0 (s.clearStore a n) :=
  h.updMem (memErase_wf _ _ _)

theorem State.clearGranules_keep {s0 : State} (s : State) (t : Nat) (bm : BitVec 256) (hk : Keep s0 s) : Keep s0
    (State.clearGranules s t bm) := by
  unfold State.clearGranules
  try dsimp only
  repeat' first
    | with_reducible assumption | with_reducible apply State.clearStore_keep | simp only [Keep.upd_iff]
      | with_reducible apply Keep.foldl | with_reducible apply Keep.foldlPair | intro _

theorem State.nextSeq_keep {s0 : State} (s : State) (src : BitVec 32) (hk : Keep s0 s) : Keep s0 (State.nextSeq s
    src).2 := by
  unfold State.nextSeq
  try dsimp only
  repeat' first
    | with_reducible assumption | simp only [Keep.upd_iff]

theorem State.emit_keep {s0 : State} (s : State) (o : Out) (hk : Keep s0 s) : Keep s0 (State.emit s o) := by
  unfold State.emit
  try dsimp only
  repeat' first
    | with_reducible assumption | with_reducible apply State.crossOut_keep | simp only [Keep.upd_iff]

theorem State.msix_keep {s0 : State} (s : State) (v : Nat) (hk : Keep s0 s) : Keep s0 (State.msix s v) := by
  unfold State.msix
  try dsimp only
  repeat' first
    | with_reducible assumption | with_reducible apply State.emit_keep | simp only [Keep.upd_iff]
      | with_reducible apply Keep.ite | split

theorem State.sendEvents_keep {s0 : State} (s : State) (body : List Byte) (hk : Keep s0 s) : Keep s0
    (State.sendEvents s body) := by
  unfold State.sendEvents
  try dsimp only
  repeat' first
    | with_reducible assumption | with_reducible apply State.emit_keep | simp only [Keep.upd_iff]
      | with_reducible apply Keep.foldl | with_reducible apply Keep.foldlPair | intro _
      | with_reducible apply Keep.ite | split

theorem State.faultAt_keep {s0 : State} (s : State) (pac : Word) (src : BitVec 32) (code : BitVec 16) (ctx : Option
    Nat) (safety : Bool) (detail : BitVec 64) (hk : Keep s0 s) : Keep s0 (State.faultAt s pac src code ctx safety detail) := by
  unfold State.faultAt
  try dsimp only
  repeat' first
    | with_reducible assumption | with_reducible apply State.nextSeq_keep | with_reducible apply State.emit_keep
      | with_reducible apply State.msix_keep | with_reducible apply State.sendEvents_keep | simp only [Keep.upd_iff]
      | with_reducible refine Keep.ofSnd (by assumption) ?_ | with_reducible apply Keep.ite | split

theorem State.fault_keep {s0 : State} (s : State) (src : BitVec 32) (code : BitVec 16) (ctx : Option Nat) (safety :
    Bool) (detail : BitVec 64) (hk : Keep s0 s) : Keep s0 (State.fault s src code ctx safety detail) := by
  unfold State.fault
  try dsimp only
  repeat' first
    | with_reducible assumption | with_reducible apply State.faultAt_keep | simp only [Keep.upd_iff]

theorem State.raiseSafety_keep {s0 : State} (s : State) (row : Nat) (src : BitVec 32) (ctxs : List Nat) (detail :
    BitVec 64) (hk : Keep s0 s) : Keep s0 (State.raiseSafety s row src ctxs detail) := by
  unfold State.raiseSafety
  try dsimp only
  repeat' first
    | with_reducible assumption | with_reducible apply State.crossDown_keep | simp only [Keep.upd_iff]

theorem State.count_keep {s0 : State} (s : State) (g i k : Nat) (hk : Keep s0 s) : Keep s0 (State.count s g i k) := by
  unfold State.count
  try dsimp only
  repeat' first
    | with_reducible assumption | with_reducible apply State.setGroup_keep | simp only [Keep.upd_iff]
      | with_reducible apply Keep.ite | split

theorem State.recordIrq_keep {s0 : State} (s : State) (q : Nat) (noIrq : Bool) (hk : Keep s0 s) : Keep s0
    (State.recordIrq s q noIrq) := by
  unfold State.recordIrq
  try dsimp only
  repeat' first
    | with_reducible assumption | with_reducible apply State.setQueue_keep | with_reducible apply State.msix_keep
      | simp only [Keep.upd_iff] | with_reducible apply Keep.ite | split

theorem State.writeRecord_keep {s0 : State} (s : State) (q : Nat) (seq : BitVec 32) (status layer op : BitVec 16)
    (detail : BitVec 32) (flags : BitVec 16) (energy : BitVec 32) (noIrq : Bool) (hk : Keep s0 s) : Keep s0 (State.writeRecord s q seq status layer op detail flags energy noIrq) := by
  unfold State.writeRecord
  try dsimp only
  repeat' first
    | with_reducible assumption | with_reducible apply State.setQueue_keep | with_reducible apply State.nextSeq_keep
      | with_reducible apply State.emit_keep | with_reducible apply State.recordIrq_keep | simp only [Keep.upd_iff]
      | with_reducible refine Keep.ofSnd (by assumption) ?_ | split

theorem State.dropRef_keep {s0 : State} (s : State) (h : Nat) (hk : Keep s0 s) : Keep s0 (State.dropRef s h) := by
  unfold State.dropRef
  try dsimp only
  repeat' first
    | with_reducible assumption | with_reducible apply State.setObj_keep | simp only [Keep.upd_iff]
      | with_reducible apply Keep.ite | split

theorem State.endCmd_keep {s0 : State} (s : State) (q : Nat) (seq : BitVec 32) (status : BitVec 16) (detail : BitVec
    32) (flags : BitVec 16) (hk : Keep s0 s) : Keep s0 (State.endCmd s q seq status detail flags) := by
  unfold State.endCmd
  try dsimp only
  repeat' first
    | with_reducible assumption | with_reducible apply State.setQueue_keep
      | with_reducible apply State.writeRecord_keep | with_reducible apply State.dropRef_keep
      | simp only [Keep.upd_iff] | with_reducible apply Keep.foldl | with_reducible apply Keep.foldlPair | intro _
      | with_reducible apply Keep.ite | split

theorem State.endMarkers_keep {s0 : State} (q : Nat) : ∀ (n : Nat) (s : State), Keep s0 s → Keep s0 (State.endMarkers q n s) := by
  intro n
  induction n with
  | zero => intro s hk; exact hk
  | succ n ih =>
    intro s hk
    unfold State.endMarkers
    repeat' first
      | with_reducible assumption | with_reducible apply ih | with_reducible apply State.endCmd_keep | split

theorem State.writeCredit_keep {s0 : State} (s : State) (q : Nat) (hk : Keep s0 s) : Keep s0 (State.writeCredit s q)
    := by
  unfold State.writeCredit
  try dsimp only
  repeat' first
    | with_reducible assumption | with_reducible apply State.emit_keep | simp only [Keep.upd_iff]

theorem State.finishCmd_keep {s0 : State} (s : State) (q : Nat) (seq : BitVec 32) (status : BitVec 16) (detail :
    BitVec 32) (flags : BitVec 16) (hk : Keep s0 s) : Keep s0 (State.finishCmd s q seq status detail flags) := by
  unfold State.finishCmd
  try dsimp only
  repeat' first
    | with_reducible assumption | with_reducible apply State.endCmd_keep | with_reducible apply State.endMarkers_keep
      | with_reducible apply State.writeCredit_keep | simp only [Keep.upd_iff] | with_reducible apply Keep.ite | split

theorem State.updCmd_keep {s0 : State} (s : State) (q : Nat) (seq : BitVec 32) (f : QCmd → QCmd) (hk : Keep s0 s) :
    Keep s0 (State.updCmd s q seq f) := by
  unfold State.updCmd
  try dsimp only
  repeat' first
    | with_reducible assumption | with_reducible apply State.setQueue_keep | simp only [Keep.upd_iff] | intro _

theorem State.endWait_keep {s0 : State} (s : State) (q : Nat) (c : QCmd) (f : Nat) (r : Nat) (hk : Keep s0 s) : Keep
    s0 (State.endWait s q c f r) := by
  unfold State.endWait
  try dsimp only
  repeat' first
    | with_reducible assumption | with_reducible apply State.finishCmd_keep | simp only [Keep.upd_iff]
      | with_reducible apply Keep.ite | split

theorem State.evalHostWaits_keep {s0 : State} (s : State) (f : Nat) (hk : Keep s0 s) : Keep s0 (State.evalHostWaits s
    f) := by
  unfold State.evalHostWaits
  try dsimp only
  repeat' first
    | with_reducible assumption | with_reducible apply State.endWait_keep | simp only [Keep.upd_iff]
      | with_reducible apply Keep.foldl | with_reducible apply Keep.foldlPair | intro _
      | with_reducible apply Keep.ite | split

theorem State.flagFence_keep {s0 : State} (s : State) (f : Nat) (status : BitVec 16) (hk : Keep s0 s) : Keep s0
    (State.flagFence s f status) := by
  unfold State.flagFence
  try dsimp only
  repeat' first
    | with_reducible assumption | with_reducible apply State.setFence_keep | simp only [Keep.upd_iff]
      | with_reducible apply Keep.ite | split

theorem State.loadImage_keep {s0 : State} (s : State) (kind i : Nat) (hk : Keep s0 s) : Keep s0 (State.loadImage s
    kind i) := by
  unfold State.loadImage
  try dsimp only
  repeat' first
    | with_reducible assumption | simp only [Keep.upd_iff] | with_reducible apply Keep.ite | split

end Sys2Proof.Machine
end

