-- ==== Sys2Proof/Laws/KeepMesh.lean ====
section
/-! SUPPORT. The operations of Machine/Mesh.lean keep the queue, the variant and the canonical form of memory. -/

set_option linter.unusedSimpArgs false
set_option linter.unusedTactic false
set_option linter.unreachableTactic false

namespace Sys2Proof.Machine

theorem State.setTables_keep {s0 : State} (s : State) (bad : List Nat) (hk : Keep s0 s) : Keep s0 (State.setTables s
    bad) := by
  unfold State.setTables
  try dsimp only
  repeat' first
    | with_reducible assumption | simp only [Keep.upd_iff]

end Sys2Proof.Machine
end

