-- ==== Sys2Proof/Laws/KeepDomains.lean ====
section
/-! SUPPORT. The operations of Machine/Domains.lean keep the queue, the variant and the canonical form of memory. -/

set_option linter.unusedSimpArgs false
set_option linter.unusedTactic false
set_option linter.unreachableTactic false

namespace Sys2Proof.Machine

theorem State.park_keep {s0 : State} (s : State) (d : Nat) (hk : Keep s0 s) : Keep s0 (State.park s d) := by
  unfold State.park
  try dsimp only
  repeat' first
    | with_reducible assumption | with_reducible apply State.setXing_keep | simp only [Keep.upd_iff]
      | with_reducible apply Keep.ite | split

theorem State.dropStores_keep {s0 : State} (s : State) (q : Nat) (hk : Keep s0 s) : Keep s0 (State.dropStores s q) := by
  unfold State.dropStores
  try dsimp only
  repeat' first
    | with_reducible assumption | with_reducible apply State.setDom_keep | with_reducible apply State.clearStore_keep
      | simp only [Keep.upd_iff] | with_reducible apply Keep.foldl | with_reducible apply Keep.foldlPair | intro _

theorem State.enterLow_keep {s0 : State} (s : State) (d low : Nat) (hk : Keep s0 s) : Keep s0 (State.enterLow s d
    low) := by
  unfold State.enterLow
  try dsimp only
  repeat' first
    | with_reducible assumption | with_reducible apply State.setTile_keep | with_reducible apply State.setPort_keep
      | with_reducible apply State.setQuad_keep | with_reducible apply State.setRunner_keep
      | with_reducible apply State.setDom_keep | with_reducible apply State.clearStore_keep
      | with_reducible apply State.park_keep | with_reducible apply State.dropStores_keep | simp only [Keep.upd_iff]
      | with_reducible apply Keep.foldl | with_reducible apply Keep.foldlPair | intro _
      | with_reducible apply Keep.ite | split

theorem State.startWake_keep {s0 : State} (s : State) (d : Nat) (hk : Keep s0 s) : Keep s0 (State.startWake s d) := by
  unfold State.startWake
  try dsimp only
  repeat' first
    | with_reducible assumption | with_reducible apply State.setPort_keep | with_reducible apply State.setDom_keep
      | simp only [Keep.upd_iff] | with_reducible apply Keep.ite | split

theorem State.evalOne_keep {s0 : State} (s : State) (d : Nat) (hk : Keep s0 s) : Keep s0 (State.evalOne s d) := by
  unfold State.evalOne
  try dsimp only
  repeat' first
    | with_reducible assumption | with_reducible apply State.setDom_keep | with_reducible apply State.enterLow_keep
      | with_reducible apply State.startWake_keep | simp only [Keep.upd_iff] | with_reducible apply Keep.ite | split

theorem State.warmUp_keep {s0 : State} (s : State) (d : Nat) (hk : Keep s0 s) : Keep s0 (State.warmUp s d) := by
  unfold State.warmUp
  try dsimp only
  repeat' first
    | with_reducible assumption | with_reducible apply State.setDom_keep | simp only [Keep.upd_iff]
      | with_reducible apply Keep.ite | split

theorem State.evalDom_keep {s0 : State} (s : State) (d : Nat) (hk : Keep s0 s) : Keep s0 (State.evalDom s d) := by
  unfold State.evalDom
  try dsimp only
  repeat' first
    | with_reducible assumption | with_reducible apply State.evalOne_keep | with_reducible apply State.warmUp_keep
      | simp only [Keep.upd_iff] | with_reducible apply Keep.ite | split

theorem State.vote_keep {s0 : State} (s : State) (d slot v : Nat) (hk : Keep s0 s) : Keep s0 (State.vote s d slot v)
    := by
  unfold State.vote
  try dsimp only
  repeat' first
    | with_reducible assumption | with_reducible apply State.setDom_keep | with_reducible apply State.evalDom_keep
      | simp only [Keep.upd_iff] | with_reducible apply Keep.ite | split

theorem State.revote_keep {s0 : State} (s : State) (hk : Keep s0 s) : Keep s0 (State.revote s) := by
  unfold State.revote
  try dsimp only
  repeat' first
    | with_reducible assumption | with_reducible apply State.setDom_keep | with_reducible apply State.evalDom_keep
      | simp only [Keep.upd_iff] | with_reducible apply Keep.foldl | with_reducible apply Keep.foldlPair | intro _
      | with_reducible apply Keep.ite | split

theorem State.releasePads_keep {s0 : State} (s : State) (d : Nat) (hk : Keep s0 s) : Keep s0 (State.releasePads s d)
    := by
  unfold State.releasePads
  try dsimp only
  repeat' first
    | with_reducible assumption | with_reducible apply State.setDom_keep | simp only [Keep.upd_iff]

theorem State.writeDom_keep {s0 : State} (s : State) (d : Nat) (acc : Acc) (v : Word) (hk : Keep s0 s) : Keep s0
    (State.writeDom s d acc v) := by
  unfold State.writeDom
  try dsimp only
  repeat' first
    | with_reducible assumption | with_reducible apply State.vote_keep | with_reducible apply State.releasePads_keep
      | simp only [Keep.upd_iff] | simp only [Keep.updBoot_iff] | with_reducible apply Keep.ite | split

end Sys2Proof.Machine
end

