-- ==== Sys2Proof/Laws/KeepSegments.lean ====
section
/-! SUPPORT. The operations of Machine/Segments.lean keep the queue, the variant and the canonical form of memory. -/

set_option linter.unusedSimpArgs false
set_option linter.unusedTactic false
set_option linter.unreachableTactic false

namespace Sys2Proof.Machine

theorem State.pokeSpot_keep {s0 : State} (s : State) (p : Spot) (b : Byte) (hk : Keep s0 s) : Keep s0 (State.pokeSpot
    s p b) := by
  unfold State.pokeSpot
  try dsimp only
  repeat' first
    | with_reducible assumption | with_reducible apply State.poke_keep | simp only [Keep.upd_iff]
      | with_reducible apply Keep.ite | split

theorem State.pokeSpots_keep {s0 : State} (l : List (Spot × Byte)) : ∀ (s : State), Keep s0 s → Keep s0 (s.pokeSpots l) := by
  induction l with
  | nil => intro s hk; exact hk
  | cons e l ih => intro s hk; exact ih _ (State.pokeSpot_keep _ _ _ hk)

theorem State.renewLines_keep {s0 : State} (s : State) (l : List Spot) (hk : Keep s0 s) : Keep s0 (State.renewLines s
    l) := by
  unfold State.renewLines
  try dsimp only
  repeat' first
    | with_reducible assumption | simp only [Keep.upd_iff] | intro _ | with_reducible apply Keep.ite | split

theorem State.writeSpots_keep {s0 : State} (s : State) (l : List Spot) (bs : List Byte) (hk : Keep s0 s) : Keep s0
    (State.writeSpots s l bs) := by
  unfold State.writeSpots
  try dsimp only
  repeat' first
    | with_reducible assumption | with_reducible apply State.emit_keep | with_reducible apply State.pokeSpots_keep
      | with_reducible apply State.renewLines_keep | simp only [Keep.upd_iff] | with_reducible apply Keep.foldl
      | with_reducible apply Keep.foldlPair | intro _

theorem State.askTables_keep {s0 : State} (s : State) (pt : List (Nat × Word)) (d : BitVec 256) (n : Nat) (hk : Keep
    s0 s) : Keep s0 (State.askTables s pt d n) := by
  unfold State.askTables
  try dsimp only
  repeat' first
    | with_reducible assumption | with_reducible apply State.emit_keep | simp only [Keep.upd_iff]
      | with_reducible apply Keep.foldl | with_reducible apply Keep.foldlPair | intro _

theorem State.askPages_keep {s0 : State} (s : State) (c : Nat) (pt : List (Nat × Word)) (a : Word) (len : Nat) (hk :
    Keep s0 s) : Keep s0 (State.askPages s c pt a len) := by
  unfold State.askPages
  try dsimp only
  repeat' first
    | with_reducible assumption | with_reducible apply State.askTables_keep | simp only [Keep.upd_iff]
      | with_reducible apply Keep.ite | split

end Sys2Proof.Machine
end

