-- ==== Sys2Proof/Laws/KeepAccess.lean ====
section
/-! SUPPORT. The operations of Machine/Access.lean keep the queue, the variant and the canonical form of memory. -/

set_option linter.unusedSimpArgs false
set_option linter.unusedTactic false
set_option linter.unreachableTactic false

namespace Sys2Proof.Machine

theorem State.partialWrite_keep {s0 : State} (s : State) (l : List Spot) (bs : List Byte) (hk : Keep s0 s) : Keep s0
    (State.partialWrite s l bs) := by
  unfold State.partialWrite
  try dsimp only
  repeat' first
    | with_reducible assumption | with_reducible apply State.writeSpots_keep | simp only [Keep.upd_iff]

theorem State.partialCopy_keep {s0 : State} (s : State) (rd wr : List Spot) (bs : List Byte) (bad : List Nat) (hk :
    Keep s0 s) : Keep s0 (State.partialCopy s rd wr bs bad) := by
  unfold State.partialCopy
  try dsimp only
  repeat' first
    | with_reducible assumption | with_reducible apply State.partialWrite_keep | simp only [Keep.upd_iff]

theorem State.countLine_keep {s0 : State} (s : State) (res : Res) (n : Nat) (hk : Keep s0 s) : Keep s0
    (State.countLine s res n) := by
  unfold State.countLine
  try dsimp only
  repeat' first
    | with_reducible assumption | with_reducible apply State.setTile_keep | with_reducible apply State.setPort_keep
      | simp only [Keep.upd_iff] | with_reducible apply Keep.ite | split

theorem State.countEcc_keep {s0 : State} (s : State) (l : List Spot) (res : Res) (hk : Keep s0 s) : Keep s0
    (State.countEcc s l res) := by
  unfold State.countEcc
  try dsimp only
  repeat' first
    | with_reducible assumption | with_reducible apply State.countLine_keep | simp only [Keep.upd_iff]
      | with_reducible apply Keep.foldl | with_reducible apply Keep.foldlPair | intro _

theorem State.raiseUe_keep {s0 : State} (s : State) (lines : List Nat) (ctxs : List Nat) (hk : Keep s0 s) : Keep s0
    (State.raiseUe s lines ctxs) := by
  unfold State.raiseUe
  try dsimp only
  repeat' first
    | with_reducible assumption | with_reducible apply State.raiseSafety_keep | simp only [Keep.upd_iff]
      | with_reducible apply Keep.foldl | with_reducible apply Keep.foldlPair | intro _
      | with_reducible apply Keep.ite | split

theorem State.ueRead_keep {s0 : State} (s : State) (l : List Spot) (ctxs : List Nat) (hk : Keep s0 s) : Keep s0
    (State.ueRead s l ctxs) := by
  unfold State.ueRead
  try dsimp only
  repeat' first
    | with_reducible assumption | with_reducible apply State.countEcc_keep | with_reducible apply State.raiseUe_keep
      | simp only [Keep.upd_iff]

theorem State.portMove_keep {s0 : State} (s : State) (m cls master n : Nat) (hk : Keep s0 s) : Keep s0
    (State.portMove s m cls master n) := by
  unfold State.portMove
  try dsimp only
  repeat' first
    | with_reducible assumption | with_reducible apply State.crossDown_keep | with_reducible apply State.crossUp_keep
      | with_reducible apply State.setTile_keep | with_reducible apply State.setPort_keep
      | with_reducible apply State.count_keep | simp only [Keep.upd_iff] | with_reducible apply Keep.ite | split

theorem State.moveLines_keep {s0 : State} (s : State) (cls master : Nat) (ls : List Nat) (hk : Keep s0 s) : Keep s0
    (State.moveLines s cls master ls) := by
  unfold State.moveLines
  try dsimp only
  repeat' first
    | with_reducible assumption | with_reducible apply State.portMove_keep | simp only [Keep.upd_iff]
      | with_reducible apply Keep.foldl | with_reducible apply Keep.foldlPair | intro _
      | with_reducible apply Keep.ite | split

theorem State.askHost_keep {s0 : State} (s : State) (l : List Spot) (hk : Keep s0 s) : Keep s0 (State.askHost s l) := by
  unfold State.askHost
  try dsimp only
  repeat' first
    | with_reducible assumption | with_reducible apply State.emit_keep | simp only [Keep.upd_iff]
      | with_reducible apply Keep.foldl | with_reducible apply Keep.foldlPair | intro _

theorem State.traffic_keep {s0 : State} (s : State) (l : List Spot) (cls master : Nat) (hk : Keep s0 s) : Keep s0
    (State.traffic s l cls master) := by
  unfold State.traffic
  try dsimp only
  repeat' first
    | with_reducible assumption | with_reducible apply State.moveLines_keep | with_reducible apply State.askHost_keep
      | simp only [Keep.upd_iff] | intro _ | with_reducible apply Keep.ite | split

theorem State.mirrorServed_keep {s0 : State} (s : State) (a k : Nat) (hk : Keep s0 s) : Keep s0 (State.mirrorServed s
    a k) := by
  unfold State.mirrorServed
  try dsimp only
  repeat' first
    | with_reducible assumption | with_reducible apply State.fault_keep | with_reducible apply State.count_keep
      | with_reducible apply State.countLine_keep | with_reducible apply State.portMove_keep
      | simp only [Keep.upd_iff] | with_reducible refine Keep.updMem ?_ (moveCells_wf _ _ _ _)

theorem State.serveCopies_keep {s0 : State} (s : State) (l : List Spot) (hk : Keep s0 s) : Keep s0 (State.serveCopies
    s l) := by
  unfold State.serveCopies
  try dsimp only
  repeat' first
    | with_reducible assumption | with_reducible apply State.mirrorServed_keep | simp only [Keep.upd_iff]
      | with_reducible apply Keep.foldl | with_reducible apply Keep.foldlPair | with_reducible apply KeepOpt.bind
      | intro _ | intro _ | split

theorem State.countRefused_keep {s0 : State} (s : State) (l : List Spot) (res : Res) (hk : Keep s0 s) : Keep s0
    (State.countRefused s l res) := by
  unfold State.countRefused
  try dsimp only
  repeat' first
    | with_reducible assumption | simp only [Keep.upd_iff] | with_reducible apply Keep.ite | split

theorem State.wakeFor_keep {s0 : State} (s : State) (self : Nat) (l : List Spot) (hk : Keep s0 s) : Keep s0
    (State.wakeFor s self l) := by
  unfold State.wakeFor
  try dsimp only
  repeat' first
    | with_reducible assumption | with_reducible apply State.setTile_keep | with_reducible apply State.setPort_keep
      | with_reducible apply State.evalDom_keep | simp only [Keep.upd_iff] | with_reducible apply Keep.foldl
      | with_reducible apply Keep.foldlPair | intro _ | with_reducible apply Keep.ite | split

theorem State.discarded_keep {s0 : State} (s : State) (n : Nat) (hk : Keep s0 s) : Keep s0 (State.discarded s n) := by
  unfold State.discarded
  try dsimp only
  repeat' first
    | with_reducible assumption | simp only [Keep.upd_iff]

theorem State.sendCut_keep {s0 : State} (s : State) (r : Nat) (l : List Spot) (hk : Keep s0 s) : Keep s0
    (State.sendCut s r l) := by
  unfold State.sendCut
  try dsimp only
  repeat' first
    | with_reducible assumption | with_reducible apply State.draw_keep | with_reducible apply State.discarded_keep
      | simp only [Keep.upd_iff] | with_reducible refine Keep.ofSnd (by assumption) ?_ | with_reducible apply Keep.ite
      | split

end Sys2Proof.Machine
end

