-- ==== Sys2Proof/Laws/KeepObserve.lean ====
section
/-! SUPPORT. The operations of Machine/Observe.lean keep the queue, the variant and the canonical form of memory. -/

set_option linter.unusedSimpArgs false
set_option linter.unusedTactic false
set_option linter.unreachableTactic false

namespace Sys2Proof.Machine

theorem State.smpPut_keep {s0 : State} (s : State) (line : Nat) (bs : List Byte) (hk : Keep s0 s) : Keep s0
    (State.smpPut s line bs) := by
  unfold State.smpPut
  try dsimp only
  repeat' first
    | with_reducible assumption | with_reducible apply State.emit_keep | with_reducible apply State.writeSpots_keep
      | with_reducible apply State.traffic_keep | simp only [Keep.upd_iff] | intro _ | with_reducible apply Keep.ite
      | split

theorem State.smpRecord_keep {s0 : State} (s : State) (src : BitVec 32) (lines : Nat) (body : List Byte) (hdr :
    BitVec 32 → Nat → Bool → List Byte) (hk : Keep s0 s) : Keep s0 (State.smpRecord s src lines body hdr) := by
  unfold State.smpRecord
  try dsimp only
  repeat' first
    | with_reducible assumption | with_reducible apply State.nextSeq_keep | with_reducible apply State.smpPut_keep
      | simp only [Keep.upd_iff] | with_reducible refine Keep.ofSnd (by assumption) ?_ | with_reducible apply Keep.ite
      | split

theorem State.bankRecord_keep {s0 : State} (s : State) (g kind : Nat) (bank : Table Nat) (hk : Keep s0 s) : Keep s0
    (State.bankRecord s g kind bank) := by
  unfold State.bankRecord
  try dsimp only
  repeat' first
    | with_reducible assumption | with_reducible apply State.smpRecord_keep | simp only [Keep.upd_iff] | intro _
      | with_reducible apply Keep.ite | split

theorem State.bankSwap_keep {s0 : State} (s : State) (g : Nat) (ctx : Option Nat) (layer op : BitVec 16) (seq :
    BitVec 32) (conf : Bool) (hk : Keep s0 s) : Keep s0 (State.bankSwap s g ctx layer op seq conf) := by
  unfold State.bankSwap
  try dsimp only
  repeat' first
    | with_reducible assumption | with_reducible apply State.setGroup_keep
      | with_reducible apply State.bankRecord_keep | simp only [Keep.upd_iff] | with_reducible apply Keep.ite | split

theorem State.setTrace_keep {s0 : State} (s : State) (t : Nat) (x : Trace) (hk : Keep s0 s) : Keep s0 (State.setTrace
    s t x) := by
  unfold State.setTrace
  try dsimp only
  repeat' first
    | with_reducible assumption | simp only [Keep.upd_iff]

theorem State.traceFlush_keep {s0 : State} (s : State) (t : Nat) (hk : Keep s0 s) : Keep s0 (State.traceFlush s t) := by
  unfold State.traceFlush
  try dsimp only
  repeat' first
    | with_reducible assumption | with_reducible apply State.smpRecord_keep | with_reducible apply State.setTrace_keep
      | simp only [Keep.upd_iff] | intro _ | with_reducible apply Keep.ite | split

theorem State.traceEmit_keep {s0 : State} (s : State) (t : Nat) (full : Bool) (type code : Nat) (value : Word) (hk :
    Keep s0 s) : Keep s0 (State.traceEmit s t full type code value) := by
  unfold State.traceEmit
  try dsimp only
  repeat' first
    | with_reducible assumption | with_reducible apply State.setTrace_keep
      | with_reducible apply State.traceFlush_keep | simp only [Keep.upd_iff] | with_reducible apply Keep.ite | split

theorem State.writeSmpCfg_keep {s0 : State} (s : State) (acc : Acc) (v : Word) (hk : Keep s0 s) : Keep s0
    (State.writeSmpCfg s acc v) := by
  unfold State.writeSmpCfg
  try dsimp only
  repeat' first
    | with_reducible assumption | simp only [Keep.upd_iff] | with_reducible apply Keep.ite | split

theorem State.writeSmpInterval_keep {s0 : State} (s : State) (acc : Acc) (v : Word) (hk : Keep s0 s) : Keep s0
    (State.writeSmpInterval s acc v) := by
  unfold State.writeSmpInterval
  try dsimp only
  repeat' first
    | with_reducible assumption | simp only [Keep.upd_iff] | split

theorem State.writeSmpHead_keep {s0 : State} (s : State) (acc : Acc) (v : Word) (hk : Keep s0 s) : Keep s0
    (State.writeSmpHead s acc v) := by
  unfold State.writeSmpHead
  try dsimp only
  repeat' first
    | with_reducible assumption | simp only [Keep.upd_iff]

theorem State.writeSmpStatus_keep {s0 : State} (s : State) (acc : Acc) (v : Word) (hk : Keep s0 s) : Keep s0
    (State.writeSmpStatus s acc v) := by
  unfold State.writeSmpStatus
  try dsimp only
  repeat' first
    | with_reducible assumption | simp only [Keep.upd_iff] | with_reducible apply Keep.ite | split

theorem State.writeGrpCtl_keep {s0 : State} (s : State) (g : Nat) (acc : Acc) (v : Word) (hk : Keep s0 s) : Keep s0
    (State.writeGrpCtl s g acc v) := by
  unfold State.writeGrpCtl
  try dsimp only
  repeat' first
    | with_reducible assumption | with_reducible apply State.setGroup_keep | with_reducible apply State.bankSwap_keep
      | simp only [Keep.upd_iff] | with_reducible apply Keep.ite | split

theorem State.writeTraceCtl_keep {s0 : State} (s : State) (t : Nat) (acc : Acc) (v : Word) (hk : Keep s0 s) : Keep s0
    (State.writeTraceCtl s t acc v) := by
  unfold State.writeTraceCtl
  try dsimp only
  repeat' first
    | with_reducible assumption | with_reducible apply State.setTrace_keep | simp only [Keep.upd_iff]
      | with_reducible apply Keep.ite | split

end Sys2Proof.Machine
end

