-- ==== Sys2Proof/Laws/KeepFlits.lean ====
section
/-! SUPPORT. The operations of Machine/Flits.lean keep the queue, the variant and the canonical form of memory. -/

set_option linter.unusedSimpArgs false
set_option linter.unusedTactic false
set_option linter.unreachableTactic false

namespace Sys2Proof.Machine

theorem State.queueMsg_keep {s0 : State} (s : State) (x : Nat) (m : Msg) (hk : Keep s0 s) : Keep s0 (State.queueMsg s
    x m) := by
  unfold State.queueMsg
  try dsimp only
  repeat' first
    | with_reducible assumption | with_reducible apply State.setQuad_keep | simp only [Keep.upd_iff]

theorem State.wakeRunners_keep {s0 : State} (s : State) (b : BitVec 32) (hk : Keep s0 s) : Keep s0 (State.wakeRunners
    s b) := by
  unfold State.wakeRunners
  try dsimp only
  repeat' first
    | with_reducible assumption | with_reducible apply State.setRunner_keep | with_reducible apply State.evalDom_keep
      | simp only [Keep.upd_iff] | with_reducible apply Keep.foldl | with_reducible apply Keep.foldlPair | intro _
      | with_reducible apply Keep.ite | split

theorem State.queueAway_keep {s0 : State} (s : State) (m : Msg) (hk : Keep s0 s) : Keep s0 (State.queueAway s m) := by
  unfold State.queueAway
  try dsimp only
  repeat' first
    | with_reducible assumption | with_reducible apply State.queueMsg_keep
      | with_reducible apply State.wakeRunners_keep | simp only [Keep.upd_iff] | with_reducible apply Keep.ite | split

theorem State.flushWaits_keep {s0 : State} (s : State) (hk : Keep s0 s) : Keep s0 (State.flushWaits s) := by
  unfold State.flushWaits
  try dsimp only
  repeat' first
    | with_reducible assumption | with_reducible apply State.queueAway_keep | simp only [Keep.upd_iff]
      | with_reducible apply Keep.foldl | with_reducible apply Keep.foldlPair | intro _

end Sys2Proof.Machine
end

