-- ==== Sys2Proof/Laws/KeepMessages.lean ====
section
/-! SUPPORT. The operations of Machine/Messages.lean keep the queue, the variant and the canonical form of memory. -/

set_option linter.unusedSimpArgs false
set_option linter.unusedTactic false
set_option linter.unreachableTactic false

namespace Sys2Proof.Machine

theorem State.postNear_keep {s0 : State} (s : State) (m : Msg) (hk : Keep s0 s) : Keep s0 (State.postNear s m) := by
  unfold State.postNear
  try dsimp only
  repeat' first
    | with_reducible assumption | with_reducible apply State.discarded_keep | simp only [Keep.upd_iff]
      | with_reducible apply Keep.ite | split

theorem State.post_keep {s0 : State} (s : State) (m : Msg) (hk : Keep s0 s) : Keep s0 (State.post s m) := by
  unfold State.post
  try dsimp only
  repeat' first
    | with_reducible assumption | with_reducible apply State.emit_keep | with_reducible apply State.queueAway_keep
      | with_reducible apply State.postNear_keep | simp only [Keep.upd_iff] | with_reducible apply Keep.ite | split

theorem State.postHeld_keep {s0 : State} (s : State) (hk : Keep s0 s) : Keep s0 (State.postHeld s) := by
  unfold State.postHeld
  try dsimp only
  repeat' first
    | with_reducible assumption | with_reducible apply State.post_keep | simp only [Keep.upd_iff]
      | with_reducible apply Keep.foldl | with_reducible apply Keep.foldlPair | intro _

theorem State.sendMsg_keep {s0 : State} (s : State) (b : BitVec 32) (src dst : Nat) (epoch : BitVec 16) (gen : BitVec
    32) (cls chan len : Nat) (param : BitVec 64) (payload : List Byte) (hk : Keep s0 s) : Keep s0 (State.sendMsg s b src dst epoch gen cls chan len param payload).2 := by
  unfold State.sendMsg
  try dsimp only
  repeat' first
    | with_reducible assumption | with_reducible apply State.updBunch_keep | with_reducible apply State.post_keep
      | simp only [Keep.upd_iff] | intro _ | with_reducible apply Keep.ite | split

theorem State.dropSent_keep {s0 : State} (s : State) (b : BitVec 32) (src dst seq : Nat) (hk : Keep s0 s) : Keep s0
    (State.dropSent s b src dst seq) := by
  unfold State.dropSent
  try dsimp only
  repeat' first
    | with_reducible assumption | with_reducible apply State.flushWaits_keep | simp only [Keep.upd_iff] | intro _
      | split

theorem State.answer_keep {s0 : State} (s : State) (m : Msg) (result : Nat) (hk : Keep s0 s) : Keep s0 (State.answer
    s m result) := by
  unfold State.answer
  try dsimp only
  repeat' first
    | with_reducible assumption | with_reducible apply State.updBunch_keep | with_reducible apply State.draw_keep
      | with_reducible apply State.emit_keep | with_reducible apply State.queueMsg_keep
      | with_reducible apply State.sendMsg_keep | simp only [Keep.upd_iff]
      | with_reducible refine Keep.ofSnd (by assumption) ?_ | intro _ | with_reducible apply Keep.ite | split

theorem State.sendCredit_keep {s0 : State} (s : State) (t : Nat) (m : Msg) (hk : Keep s0 s) : Keep s0
    (State.sendCredit s t m) := by
  unfold State.sendCredit
  try dsimp only
  repeat' first
    | with_reducible assumption | with_reducible apply State.sendMsg_keep | simp only [Keep.upd_iff]
      | with_reducible refine Keep.ofSnd (by assumption) ?_ | with_reducible apply Keep.ite | split

theorem State.addCredit_keep {s0 : State} (s : State) (t : Nat) (m : Msg) (hk : Keep s0 s) : Keep s0 (State.addCredit
    s t m) := by
  unfold State.addCredit
  try dsimp only
  repeat' first
    | with_reducible assumption | with_reducible apply State.setTile_keep | simp only [Keep.upd_iff]

end Sys2Proof.Machine
end

