-- ==== Sys2Proof/Laws/KeepIntake.lean ====
section
/-! SUPPORT. The operations of Machine/Intake.lean keep the queue, the variant and the canonical form of memory. -/

set_option linter.unusedSimpArgs false
set_option linter.unusedTactic false
set_option linter.unreachableTactic false

namespace Sys2Proof.Machine

theorem State.putRowAt_keep {s0 : State} (s : State) (t va tagVa n rowBytes : Nat) (row : List Byte) (tag : Nat) (hk
    : Keep s0 s) : Keep s0 (State.putRowAt s t va tagVa n rowBytes row tag) := by
  unfold State.putRowAt
  try dsimp only
  repeat' first
    | with_reducible assumption | with_reducible apply State.writeSpots_keep | simp only [Keep.upd_iff]

theorem State.placeRow_keep {s0 : State} (s : State) (t i src : Nat) (block : Bool) (row : List Byte) (tag : Nat) (hk
    : Keep s0 s) : Keep s0 (State.placeRow s t i src block row tag) := by
  unfold State.placeRow
  try dsimp only
  repeat' first
    | with_reducible assumption | with_reducible apply State.setTile_keep | with_reducible apply State.count_keep
      | with_reducible apply State.putRowAt_keep | simp only [Keep.upd_iff] | with_reducible apply Keep.ite | split

theorem State.countBreach_keep {s0 : State} (s : State) (t i : Nat) (quota : Bool) (hk : Keep s0 s) : Keep s0
    (State.countBreach s t i quota) := by
  unfold State.countBreach
  try dsimp only
  repeat' first
    | with_reducible assumption | with_reducible apply State.setTile_keep | with_reducible apply State.count_keep
      | simp only [Keep.upd_iff] | with_reducible apply Keep.ite | split

theorem State.spillRow_keep {s0 : State} (s : State) (t i tag : Nat) (row : List Byte) (hk : Keep s0 s) : Keep s0
    (State.spillRow s t i tag row).1 := by
  unfold State.spillRow
  try dsimp only
  repeat' first
    | with_reducible assumption | with_reducible apply State.setTile_keep | with_reducible apply State.traffic_keep
      | with_reducible apply State.wakeFor_keep | with_reducible apply State.putRowAt_keep | simp only [Keep.upd_iff]
      | with_reducible apply Keep.ite | split

theorem State.acceptRow_keep {s0 : State} (s : State) (t i src : Nat) (spilled block : Bool) (tag : Nat) (row : List
    Byte) (hk : Keep s0 s) : Keep s0 (State.acceptRow s t i src spilled block tag row).1 := by
  unfold State.acceptRow
  try dsimp only
  repeat' first
    | with_reducible assumption | with_reducible apply State.placeRow_keep
      | with_reducible apply State.countBreach_keep | with_reducible apply State.spillRow_keep
      | simp only [Keep.upd_iff] | with_reducible refine Keep.ofFst (by assumption) ?_ | with_reducible apply Keep.ite
      | split

theorem State.tryIntake_keep {s0 : State} (s : State) (t : Nat) (m : Msg) (hk : Keep s0 s) : Keep s0 (State.tryIntake
    s t m).1 := by
  unfold State.tryIntake
  try dsimp only
  repeat' first
    | with_reducible assumption | with_reducible apply State.setTile_keep | with_reducible apply State.acceptRow_keep
      | simp only [Keep.upd_iff] | with_reducible refine Keep.ofFst (by assumption) ?_ | with_reducible apply Keep.ite
      | split

theorem State.tryWaiting_keep {s0 : State} (s : State) (t : Nat) (hk : Keep s0 s) : Keep s0 (State.tryWaiting s t) := by
  unfold State.tryWaiting
  try dsimp only
  repeat' first
    | with_reducible assumption | with_reducible apply State.setTile_keep | with_reducible apply State.answer_keep
      | with_reducible apply State.sendCredit_keep | with_reducible apply State.tryIntake_keep
      | simp only [Keep.upd_iff] | with_reducible apply Keep.foldl | with_reducible apply Keep.foldlPair
      | with_reducible refine Keep.ofFst (by assumption) ?_ | intro _ | with_reducible apply Keep.ite | split

theorem State.arriveRow_keep {s0 : State} (s : State) (t : Nat) (m : Msg) (hk : Keep s0 s) : Keep s0 (State.arriveRow
    s t m) := by
  unfold State.arriveRow
  try dsimp only
  repeat' first
    | with_reducible assumption | with_reducible apply State.setTile_keep | with_reducible apply State.answer_keep
      | with_reducible apply State.tryIntake_keep | simp only [Keep.upd_iff]
      | with_reducible refine Keep.ofFst (by assumption) ?_ | intro _ | with_reducible apply Keep.ite | split

theorem State.wakeTake_keep {s0 : State} (s : State) (t : Nat) (resume : State → Nat → Word → State)
    (hr : ∀ s rd w, Keep s0 s → Keep s0 (resume s rd w)) (hk : Keep s0 s) : Keep s0 (s.wakeTake t resume) := by
  unfold State.wakeTake
  dsimp only
  repeat' first
    | with_reducible assumption | with_reducible apply hr | with_reducible apply State.setTile_keep | split

theorem State.settleIntakes_keep {s0 : State} (t : Nat) (resume : State → Nat → Word → State)
    (hr : ∀ s rd w, Keep s0 s → Keep s0 (resume s rd w)) : ∀ (n : Nat) (s : State), Keep s0 s →
    Keep s0 (State.settleIntakes n s t resume) := by
  intro n
  induction n with
  | zero => intro s hk; exact hk
  | succ n ih =>
    intro s hk
    exact ih _ (State.wakeTake_keep _ _ _ hr (State.tryWaiting_keep _ _ hk))

theorem State.closeIntakes_keep {s0 : State} (s : State) (t : Nat) (hk : Keep s0 s) : Keep s0 (State.closeIntakes s
    t) := by
  unfold State.closeIntakes
  try dsimp only
  repeat' first
    | with_reducible assumption | with_reducible apply State.setTile_keep | with_reducible apply State.tryWaiting_keep
      | simp only [Keep.upd_iff] | intro _ | split

end Sys2Proof.Machine
end

