-- ==== Sys2Proof/Laws/KeepKernel.lean ====
section
/-! SUPPORT. The operations of Machine/Kernel.lean keep the queue, the variant and the canonical form of memory. -/

set_option linter.unusedSimpArgs false
set_option linter.unusedTactic false
set_option linter.unreachableTactic false

namespace Sys2Proof.Machine

theorem State.closeOp_keep {s0 : State} (s : State) (t : Nat) (o : EngOp) (err : Option Nat) (hk : Keep s0 s) : Keep
    s0 (State.closeOp s t o err) := by
  unfold State.closeOp
  try dsimp only
  repeat' first
    | with_reducible assumption | with_reducible apply State.setTile_keep | simp only [Keep.upd_iff] | intro _
      | with_reducible apply Keep.ite | split

theorem State.markStarted_keep {s0 : State} (s : State) (t : Nat) (o : EngOp) (hk : Keep s0 s) : Keep s0
    (State.markStarted s t o) := by
  unfold State.markStarted
  try dsimp only
  repeat' first
    | with_reducible assumption | with_reducible apply State.setTile_keep | with_reducible apply State.wakeFor_keep
      | with_reducible apply State.sendCut_keep | simp only [Keep.upd_iff] | intro _ | with_reducible apply Keep.ite
      | split

theorem State.zeroWrite_keep {s0 : State} (s : State) (t : Nat) (o : EngOp) (hk : Keep s0 s) : Keep s0
    (State.zeroWrite s t o) := by
  unfold State.zeroWrite
  try dsimp only
  repeat' first
    | with_reducible assumption | with_reducible apply State.writeSpots_keep | simp only [Keep.upd_iff]
      | with_reducible apply Keep.ite | split

theorem State.chain_keep {s0 : State} : ∀ (n : Nat) (s : State) (t id : Nat) (ok : Bool), Keep s0 s →
    Keep s0 (State.chain n s t id ok) := by
  intro n
  induction n with
  | zero => intro s t id ok hk; exact hk
  | succ n ih =>
    intro s t id ok hk
    unfold State.chain
    repeat' first
      | with_reducible assumption | with_reducible apply ih | with_reducible apply State.closeOp_keep | with_reducible apply State.markStarted_keep | with_reducible apply State.zeroWrite_keep | with_reducible apply Keep.foldl | split | intro

theorem State.countMoved_keep {s0 : State} (s : State) (t : Nat) (l : List Spot) (hk : Keep s0 s) : Keep s0
    (State.countMoved s t l) := by
  unfold State.countMoved
  try dsimp only
  repeat' first
    | with_reducible assumption | with_reducible apply State.count_keep | simp only [Keep.upd_iff] | intro _

theorem State.moverStops_keep {s0 : State} (s : State) (t : Nat) (o : EngOp) (bs : List Byte) (bad : List Nat) (hk :
    Keep s0 s) : Keep s0 (State.moverStops s t o bs bad) := by
  unfold State.moverStops
  try dsimp only
  repeat' first
    | with_reducible assumption | with_reducible apply State.partialWrite_keep
      | with_reducible apply State.countMoved_keep | simp only [Keep.upd_iff] | with_reducible apply Keep.ite | split

theorem State.landWrites_keep {s0 : State} (s : State) (t : Nat) (o : EngOp) (hk : Keep s0 s) : Keep s0
    (State.landWrites s t o) := by
  unfold State.landWrites
  try dsimp only
  repeat' first
    | with_reducible assumption | with_reducible apply State.moverStops_keep | simp only [Keep.upd_iff]
      | with_reducible apply Keep.ite | split

theorem State.abortOps_keep {s0 : State} (s : State) (t : Nat) (code : Nat) (hk : Keep s0 s) : Keep s0
    (State.abortOps s t code) := by
  unfold State.abortOps
  try dsimp only
  repeat' first
    | with_reducible assumption | with_reducible apply State.closeOp_keep | with_reducible apply State.landWrites_keep
      | simp only [Keep.upd_iff] | with_reducible apply Keep.foldl | with_reducible apply Keep.foldlPair | intro _

theorem State.endWaiting_keep {s0 : State} (s : State) (t : Nat) (hk : Keep s0 s) : Keep s0 (State.endWaiting s t) := by
  unfold State.endWaiting
  try dsimp only
  repeat' first
    | with_reducible assumption | with_reducible apply State.closeOp_keep | simp only [Keep.upd_iff]
      | with_reducible apply Keep.foldl | with_reducible apply Keep.foldlPair | intro _
      | with_reducible apply Keep.ite | split

theorem State.stopKernel_keep {s0 : State} (s : State) (t : Nat) (st : Stop) (abort : Option Nat) (hk : Keep s0 s) :
    Keep s0 (State.stopKernel s t st abort) := by
  unfold State.stopKernel
  try dsimp only
  repeat' first
    | with_reducible assumption | with_reducible apply State.setCore_keep | with_reducible apply State.abortOps_keep
      | simp only [Keep.upd_iff] | with_reducible apply Keep.ite | split

theorem State.safetyStop_keep {s0 : State} (s : State) (t : Nat) (hk : Keep s0 s) : Keep s0 (State.safetyStop s t) := by
  unfold State.safetyStop
  try dsimp only
  repeat' first
    | with_reducible assumption | with_reducible apply State.stopKernel_keep | simp only [Keep.upd_iff]

theorem State.takeWatchdog_keep {s0 : State} (s : State) (t : Nat) (hk : Keep s0 s) : Keep s0 (State.takeWatchdog s
    t) := by
  unfold State.takeWatchdog
  try dsimp only
  repeat' first
    | with_reducible assumption | with_reducible apply State.fault_keep | with_reducible apply State.count_keep
      | with_reducible apply State.traceEmit_keep | with_reducible apply State.abortOps_keep
      | with_reducible apply State.stopKernel_keep | simp only [Keep.upd_iff] | with_reducible apply Keep.ite | split

theorem State.stopFor_keep {s0 : State} (s : State) (t : Nat) (st : Stop) (abort : Option Nat) (hk : Keep s0 s) :
    Keep s0 (State.stopFor s t st abort) := by
  unfold State.stopFor
  try dsimp only
  repeat' first
    | with_reducible assumption | with_reducible apply State.stopKernel_keep
      | with_reducible apply State.takeWatchdog_keep | simp only [Keep.upd_iff] | with_reducible apply Keep.ite
      | split

theorem State.trap_keep {s0 : State} (s : State) (t code : Nat) (pc : Word) (hi : BitVec 16) (hk : Keep s0 s) : Keep
    s0 (State.trap s t code pc hi) := by
  unfold State.trap
  try dsimp only
  repeat' first
    | with_reducible assumption | with_reducible apply State.fault_keep | with_reducible apply State.count_keep
      | with_reducible apply State.traceEmit_keep | with_reducible apply State.stopKernel_keep
      | with_reducible apply State.takeWatchdog_keep | simp only [Keep.upd_iff] | with_reducible apply Keep.ite
      | split

theorem State.retireTo_keep {s0 : State} (s : State) (t : Nat) (instr : Bool) (pc : Word) (hk : Keep s0 s) : Keep s0
    (State.retireTo s t instr pc) := by
  unfold State.retireTo
  try dsimp only
  repeat' first
    | with_reducible assumption | with_reducible apply State.setCore_keep | with_reducible apply State.count_keep
      | with_reducible apply State.traceEmit_keep | simp only [Keep.upd_iff] | with_reducible apply Keep.ite | split

theorem State.retire_keep {s0 : State} (s : State) (t n : Nat) (hk : Keep s0 s) : Keep s0 (State.retire s t n) := by
  unfold State.retire
  try dsimp only
  repeat' first
    | with_reducible assumption | with_reducible apply State.retireTo_keep | simp only [Keep.upd_iff]

theorem State.wakeWait_keep {s0 : State} (s : State) (t : Nat) (hk : Keep s0 s) : Keep s0 (State.wakeWait s t) := by
  unfold State.wakeWait
  try dsimp only
  repeat' first
    | with_reducible assumption | with_reducible apply State.trap_keep | with_reducible apply State.retire_keep
      | simp only [Keep.upd_iff] | with_reducible apply Keep.ite | split

theorem State.endOp_keep {s0 : State} (s : State) (t : Nat) (o : EngOp) (err : Option Nat) (hk : Keep s0 s) : Keep s0
    (State.endOp s t o err) := by
  unfold State.endOp
  try dsimp only
  repeat' first
    | with_reducible assumption | with_reducible apply State.closeOp_keep | with_reducible apply State.chain_keep
      | with_reducible apply State.wakeWait_keep | simp only [Keep.upd_iff]

theorem State.beginMover_keep {s0 : State} (s : State) (t : Nat) (o : EngOp) (hk : Keep s0 s) : Keep s0
    (State.beginMover s t o) := by
  unfold State.beginMover
  try dsimp only
  repeat' first
    | with_reducible assumption | with_reducible apply State.markStarted_keep
      | with_reducible apply State.zeroWrite_keep | with_reducible apply State.endOp_keep | simp only [Keep.upd_iff]
      | with_reducible apply Keep.ite | split

theorem State.wakeFence_keep {s0 : State} (s : State) (t f : Nat) (hk : Keep s0 s) : Keep s0 (State.wakeFence s t f)
    := by
  unfold State.wakeFence
  try dsimp only
  repeat' first
    | with_reducible assumption | with_reducible apply State.setCore_keep | with_reducible apply State.retire_keep
      | simp only [Keep.upd_iff] | with_reducible apply Keep.ite | split

theorem State.evalWaiters_keep {s0 : State} (s : State) (f : Nat) (hk : Keep s0 s) : Keep s0 (State.evalWaiters s f)
    := by
  unfold State.evalWaiters
  try dsimp only
  repeat' first
    | with_reducible assumption | with_reducible apply State.evalHostWaits_keep
      | with_reducible apply State.wakeFence_keep | simp only [Keep.upd_iff] | with_reducible apply Keep.foldl
      | with_reducible apply Keep.foldlPair | intro _

theorem State.launchEnd_keep {s0 : State} (s : State) (q : Nat) (seq : BitVec 32) (c : QCmd) (hk : Keep s0 s) : Keep
    s0 (State.launchEnd s q seq c) := by
  unfold State.launchEnd
  try dsimp only
  repeat' first
    | with_reducible assumption | with_reducible apply State.finishCmd_keep | with_reducible apply State.trap_keep
      | simp only [Keep.upd_iff] | with_reducible apply Keep.foldl | with_reducible apply Keep.foldlPair | intro _
      | with_reducible apply Keep.ite | split

theorem State.report_keep {s0 : State} (s : State) (t q : Nat) (seq : BitVec 32) (rank : Nat) (status : BitVec 16)
    (trap : Nat) (flags : BitVec 16) (hk : Keep s0 s) : Keep s0 (State.report s t q seq rank status trap flags) := by
  unfold State.report
  try dsimp only
  repeat' first
    | with_reducible assumption | with_reducible apply State.updCmd_keep | with_reducible apply State.trap_keep
      | with_reducible apply State.launchEnd_keep | simp only [Keep.upd_iff] | intro _ | with_reducible apply Keep.ite
      | split

theorem State.charge_keep {s0 : State} (s : State) (t q : Nat) (seq : BitVec 32) (hk : Keep s0 s) : Keep s0
    (State.charge s t q seq) := by
  unfold State.charge
  try dsimp only
  repeat' first
    | with_reducible assumption | with_reducible apply State.updCmd_keep | simp only [Keep.upd_iff] | intro _

theorem State.dropLaunch_keep {s0 : State} (s : State) (t : Nat) (l : Launch) (status : BitVec 16) (hk : Keep s0 s) :
    Keep s0 (State.dropLaunch s t l status) := by
  unfold State.dropLaunch
  try dsimp only
  repeat' first
    | with_reducible assumption | with_reducible apply State.report_keep | simp only [Keep.upd_iff] | intro _ | split

theorem State.swapTraffic_keep {s0 : State} (s : State) (t : Nat) (l : List Spot) (cls : Nat) (hk : Keep s0 s) : Keep
    s0 (State.swapTraffic s t l cls) := by
  unfold State.swapTraffic
  try dsimp only
  repeat' first
    | with_reducible assumption | with_reducible apply State.setTile_keep | with_reducible apply State.traffic_keep
      | simp only [Keep.upd_iff]

theorem State.swapRead_keep {s0 : State} (s : State) (l : List Spot) (c : Nat) (hk : Keep s0 s) : Keep s0
    (State.swapRead s l c) := by
  unfold State.swapRead
  try dsimp only
  repeat' first
    | with_reducible assumption | with_reducible apply State.ueRead_keep | simp only [Keep.upd_iff]
      | with_reducible apply Keep.ite | split

theorem State.swapOut_keep {s0 : State} (s : State) (t i : Nat) (hk : Keep s0 s) : Keep s0 (State.swapOut s t i) := by
  unfold State.swapOut
  try dsimp only
  repeat' first
    | with_reducible assumption | with_reducible apply State.setTile_keep
      | with_reducible apply State.clearGranules_keep | with_reducible apply State.writeSpots_keep
      | with_reducible apply State.swapTraffic_keep | with_reducible apply State.swapRead_keep
      | simp only [Keep.upd_iff] | intro _

theorem State.swapIn_keep {s0 : State} (s : State) (t i c : Nat) (hk : Keep s0 s) : Keep s0 (State.swapIn s t i c) := by
  unfold State.swapIn
  try dsimp only
  repeat' first
    | with_reducible assumption | with_reducible apply State.setTile_keep | with_reducible apply State.pokeN_keep
      | with_reducible apply State.clearGranules_keep | with_reducible apply State.swapTraffic_keep
      | with_reducible apply State.swapRead_keep | simp only [Keep.upd_iff] | with_reducible apply Keep.foldl
      | with_reducible apply Keep.foldlPair | intro _ | with_reducible apply Keep.ite | split

theorem State.beginSwap_keep {s0 : State} (s : State) (t need : Nat) (w : Swap) (hk : Keep s0 s) : Keep s0
    (State.beginSwap s t need w) := by
  unfold State.beginSwap
  try dsimp only
  repeat' first
    | with_reducible assumption | with_reducible apply State.setTile_keep | with_reducible apply State.wakeFor_keep
      | simp only [Keep.upd_iff] | with_reducible apply Keep.foldl | with_reducible apply Keep.foldlPair | intro _

theorem State.startSwap_keep {s0 : State} (s : State) (t : Nat) (best : Option Int) (hk : Keep s0 s) : Keep s0
    (State.startSwap s t best) := by
  unfold State.startSwap
  try dsimp only
  repeat' first
    | with_reducible assumption | with_reducible apply State.beginSwap_keep | simp only [Keep.upd_iff]
      | with_reducible apply Keep.foldl | with_reducible apply Keep.foldlPair | intro _
      | with_reducible apply Keep.ite | split

theorem State.enterKernel_keep {s0 : State} (s : State) (t slot : Nat) (l : Launch) (rest : List Launch) (hk : Keep
    s0 s) : Keep s0 (State.enterKernel s t slot l rest) := by
  unfold State.enterKernel
  try dsimp only
  repeat' first
    | with_reducible assumption | with_reducible apply State.setTile_keep | with_reducible apply State.bankSwap_keep
      | with_reducible apply State.traceEmit_keep | simp only [Keep.upd_iff] | with_reducible apply Keep.foldl
      | with_reducible apply Keep.foldlPair | intro _

theorem State.dispatchTile_keep {s0 : State} (s : State) (t : Nat) (hk : Keep s0 s) : Keep s0 (State.dispatchTile s
    t) := by
  unfold State.dispatchTile
  try dsimp only
  repeat' first
    | with_reducible assumption | with_reducible apply State.startSwap_keep
      | with_reducible apply State.enterKernel_keep | simp only [Keep.upd_iff] | with_reducible apply Keep.foldl
      | with_reducible apply Keep.foldlPair | intro _ | with_reducible apply Keep.ite | split

theorem State.enqueueLaunch_keep {s0 : State} (s : State) (t : Nat) (l : Launch) (hk : Keep s0 s) : Keep s0
    (State.enqueueLaunch s t l) := by
  unfold State.enqueueLaunch
  try dsimp only
  repeat' first
    | with_reducible assumption | with_reducible apply State.setTile_keep | with_reducible apply State.evalDom_keep
      | with_reducible apply State.dispatchTile_keep | simp only [Keep.upd_iff] | intro _ | split

theorem State.sendMarkers_keep {s0 : State} (s : State) (t : Nat) (root : BitVec 32) (hk : Keep s0 s) : Keep s0
    (State.sendMarkers s t root) := by
  unfold State.sendMarkers
  try dsimp only
  repeat' first
    | with_reducible assumption | with_reducible apply State.updBunch_keep | with_reducible apply State.sendMsg_keep
      | simp only [Keep.upd_iff] | with_reducible apply Keep.foldl | with_reducible apply Keep.foldlPair
      | with_reducible refine Keep.ofSnd (by assumption) ?_ | intro _ | split

theorem State.freezeBoundary_keep {s0 : State} (s : State) (t : Nat) (hk : Keep s0 s) : Keep s0 (State.freezeBoundary
    s t) := by
  unfold State.freezeBoundary
  try dsimp only
  repeat' first
    | with_reducible assumption | with_reducible apply State.sendMarkers_keep | simp only [Keep.upd_iff]
      | with_reducible apply Keep.foldl | with_reducible apply Keep.foldlPair | intro _
      | with_reducible apply Keep.ite | split

theorem State.endKernel_keep {s0 : State} (s : State) (t : Nat) (hk : Keep s0 s) : Keep s0 (State.endKernel s t) := by
  unfold State.endKernel
  try dsimp only
  repeat' first
    | with_reducible assumption | with_reducible apply State.setTile_keep | with_reducible apply State.count_keep
      | with_reducible apply State.traceFlush_keep | with_reducible apply State.traceEmit_keep
      | with_reducible apply State.closeIntakes_keep | with_reducible apply State.trap_keep
      | with_reducible apply State.report_keep | with_reducible apply State.charge_keep | simp only [Keep.upd_iff]
      | intro _ | with_reducible apply Keep.ite | split

theorem State.boundary_keep {s0 : State} (s : State) (t : Nat) (hk : Keep s0 s) : Keep s0 (State.boundary s t) := by
  unfold State.boundary
  try dsimp only
  repeat' first
    | with_reducible assumption | with_reducible apply State.dispatchTile_keep
      | with_reducible apply State.freezeBoundary_keep | with_reducible apply State.endKernel_keep
      | simp only [Keep.upd_iff]

end Sys2Proof.Machine
end

