-- ==== Sys2Proof/Laws/KeepFrames.lean ====
section
/-! SUPPORT. The operations of Machine/Frames.lean keep the queue, the variant and the canonical form of memory. -/

set_option linter.unusedSimpArgs false
set_option linter.unusedTactic false
set_option linter.unreachableTactic false

namespace Sys2Proof.Machine

theorem State.updSession_keep {s0 : State} (s : State) (sid : BitVec 32) (f : Session → Session) (hk : Keep s0 s) :
    Keep s0 (State.updSession s sid f) := by
  unfold State.updSession
  try dsimp only
  repeat' first
    | with_reducible assumption | simp only [Keep.upd_iff] | intro _

theorem State.closeSession_keep {s0 : State} (s : State) (sid : BitVec 32) (hk : Keep s0 s) : Keep s0
    (State.closeSession s sid) := by
  unfold State.closeSession
  try dsimp only
  repeat' first
    | with_reducible assumption | simp only [Keep.upd_iff] | intro _

theorem State.respond_keep {s0 : State} (s : State) (f : Frame) (status : BitVec 16) (body : List Byte) (hk : Keep s0
    s) : Keep s0 (State.respond s f status body) := by
  unfold State.respond
  try dsimp only
  repeat' first
    | with_reducible assumption | with_reducible apply State.emit_keep | with_reducible apply State.updSession_keep
      | simp only [Keep.upd_iff] | intro _ | split

theorem State.discardFrame_keep {s0 : State} (s : State) (f : Frame) (hk : Keep s0 s) : Keep s0 (State.discardFrame s
    f) := by
  unfold State.discardFrame
  try dsimp only
  repeat' first
    | with_reducible assumption | with_reducible apply State.updSession_keep
      | with_reducible apply State.closeSession_keep | simp only [Keep.upd_iff] | intro _
      | with_reducible apply Keep.ite | split

theorem State.takeFrame_keep {s0 : State} (s : State) (f : Frame) (hk : Keep s0 s) : Keep s0 (State.takeFrame s f) := by
  unfold State.takeFrame
  try dsimp only
  repeat' first
    | with_reducible assumption | with_reducible apply State.updSession_keep | simp only [Keep.upd_iff] | intro _

theorem onMgmt_keep {s0 : State} (s t : State) (hk : Keep s0 t) : KeepAns s0 (onMgmt s t) := by
  unfold onMgmt
  exact KeepAns.ite (KeepAns.next hk) KeepAns.refused

theorem framed_keep {s0 : State} (f : Frame) (s : State) (k : State → Reply) (h : ∀ s, Keep s0 s → Keep s0 (k s).s)
    (hk : Keep s0 s) : KeepAns s0 (framed f s k) := by
  unfold framed
  refine onMgmt_keep _ _ ?_
  split
  · exact State.respond_keep _ _ _ _ (h _ (State.takeFrame_keep _ _ hk))
  · exact State.discardFrame_keep _ _ hk

theorem Reply.fail_keep {s0 : State} (s : State) (status : BitVec 16) (hk : Keep s0 s) : Keep s0 (Reply.fail s status).s := hk

theorem Reply.ok_keep {s0 : State} (s : State) (hk : Keep s0 s) : Keep s0 (Reply.ok s).s := hk

end Sys2Proof.Machine
end

