-- ==== Sys2Proof/Laws/KeepQueues.lean ====
section
/-! SUPPORT. The operations of Machine/Queues.lean keep the queue, the variant and the canonical form of memory. -/

set_option linter.unusedSimpArgs false
set_option linter.unusedTactic false
set_option linter.unreachableTactic false

namespace Sys2Proof.Machine

theorem mmio_keep {s0 : State} (s : State) (k : State → State) (h : ∀ s, Keep s0 s → Keep s0 (k s)) (hk : Keep s0 s) :
    KeepAns s0 (mmio s k) := by
  unfold mmio
  exact KeepAns.ite (KeepAns.next (State.emit_keep _ _ hk)) (KeepAns.ite (KeepAns.next (h _ hk)) KeepAns.refused)

theorem State.dropTlp_keep {s0 : State} (s : State) (q k : Nat) (overrun : Bool) (hk : Keep s0 s) : Keep s0
    (State.dropTlp s q k overrun) := by
  unfold State.dropTlp
  try dsimp only
  repeat' first
    | with_reducible assumption | with_reducible apply State.setQueue_keep
      | with_reducible apply State.writeRecord_keep | simp only [Keep.upd_iff] | with_reducible apply Keep.ite | split

theorem State.submit_keep {s0 : State} (s : State) (off : Nat) (data : List Byte) (enabled : Bool) (hk : Keep s0 s) :
    Keep s0 (State.submit s off data enabled) := by
  unfold State.submit
  try dsimp only
  repeat' first
    | with_reducible assumption | with_reducible apply State.setQueue_keep | with_reducible apply State.dropTlp_keep
      | simp only [Keep.upd_iff] | with_reducible apply Keep.ite | split

theorem execBar2Submission_keep {s0 : State} (off : Nat) (data : List Byte) (allEnabled : Bool) (s : State) (hk :
    Keep s0 s) : KeepAns s0 (execBar2Submission off data allEnabled s) := by
  unfold execBar2Submission
  try dsimp only
  repeat' first
    | with_reducible assumption | with_reducible apply KeepAns.next | with_reducible apply KeepAns.refused
      | with_reducible apply State.crossUp_keep | with_reducible apply mmio_keep
      | with_reducible apply State.submit_keep | simp only [Keep.upd_iff] | intro _

theorem State.countLaunch_keep {s0 : State} (s : State) (raw : BitVec 512) (hk : Keep s0 s) : Keep s0
    (State.countLaunch s raw) := by
  unfold State.countLaunch
  try dsimp only
  repeat' first
    | with_reducible assumption | with_reducible apply State.updBunch_keep | simp only [Keep.upd_iff] | intro _
      | with_reducible apply Keep.ite | split

theorem State.askCmd_keep {s0 : State} (s : State) (q : Nat) (raw : BitVec 512) (pt : List (Nat × Word)) (hk : Keep
    s0 s) : Keep s0 (State.askCmd s q raw pt) := by
  unfold State.askCmd
  try dsimp only
  repeat' first
    | with_reducible assumption | with_reducible apply State.askTables_keep | with_reducible apply State.askPages_keep
      | simp only [Keep.upd_iff] | with_reducible apply Keep.foldl | with_reducible apply Keep.foldlPair | intro _
      | with_reducible apply Keep.ite | split

theorem State.checkCmd_keep {s0 : State} (s : State) (q : Nat) (seq : BitVec 32) (raw : BitVec 512) (pt : List (Nat ×
    Word)) (hk : Keep s0 s) : KeepExc s0 Prod.snd (State.checkCmd s q seq raw pt) := by
  unfold State.checkCmd
  try dsimp only
  repeat' first
    | with_reducible assumption | with_reducible apply KeepExc.ok | with_reducible apply KeepExc.error
      | with_reducible apply State.setCtx_keep | with_reducible apply Reply.ok_keep | simp only [Keep.upd_iff]
      | intro _ | with_reducible apply Keep.ite | split

theorem State.takeRefs_keep {s0 : State} (s : State) (hs : List Nat) (hk : Keep s0 s) : Keep s0 (State.takeRefs s hs)
    := by
  unfold State.takeRefs
  try dsimp only
  repeat' first
    | with_reducible assumption | with_reducible apply State.setObj_keep | simp only [Keep.upd_iff]
      | with_reducible apply Keep.foldl | with_reducible apply Keep.foldlPair | intro _

theorem State.consume_keep {s0 : State} (s : State) (q : Nat) (pt : List (Nat × Word)) (hk : Keep s0 s) : Keep s0
    (State.consume s q pt) := by
  unfold State.consume
  try dsimp only
  repeat' first
    | with_reducible assumption | with_reducible apply State.setQueue_keep
      | with_reducible apply State.writeRecord_keep | with_reducible apply State.writeCredit_keep
      | with_reducible apply Reply.ok_keep | with_reducible apply State.countLaunch_keep
      | with_reducible apply State.askCmd_keep | with_reducible apply State.checkCmd_keep
      | with_reducible apply State.takeRefs_keep | simp only [Keep.upd_iff]
      | with_reducible refine Keep.ofExcPair (by assumption) ?_ | intro _ | with_reducible apply Keep.ite | split

theorem execCommandConsume_keep {s0 : State} (q : Nat) (pt : List (Nat × Word)) (s : State) (hk : Keep s0 s) :
    KeepAns s0 (execCommandConsume q pt s) := by
  unfold execCommandConsume
  try dsimp only
  repeat' first
    | with_reducible assumption | with_reducible apply KeepAns.next | with_reducible apply KeepAns.refused
      | with_reducible apply KeepAns.ite | with_reducible apply State.consume_keep | simp only [Keep.upd_iff]
      | intro _ | with_reducible apply Keep.ite | split

theorem execCommandStart_keep {s0 : State} (q : Nat) (s : State) (hk : Keep s0 s) : KeepAns s0 (execCommandStart q s)
    := by
  unfold execCommandStart
  try dsimp only
  repeat' first
    | with_reducible assumption | with_reducible apply KeepAns.next | with_reducible apply KeepAns.refused
      | with_reducible apply KeepAns.ite | with_reducible apply State.finishCmd_keep
      | with_reducible apply State.updCmd_keep | with_reducible apply State.endWait_keep | simp only [Keep.upd_iff]
      | intro _ | with_reducible apply Keep.ite | split

theorem evalCmd_keep {s0 : State} (s : State) (q : Nat) (seq : BitVec 32) (ty : Nat) (name : String) (k : QCmd → State)
    (h : ∀ c, Keep s0 (k c)) : KeepAns s0 (evalCmd s q seq ty name k) := by
  unfold evalCmd
  split
  · exact h _
  · trivial

theorem execNop_keep {s0 : State} (q : Nat) (seq : BitVec 32) (s : State) (hk : Keep s0 s) : KeepAns s0 (execNop q
    seq s) := by
  unfold execNop
  try dsimp only
  repeat' first
    | with_reducible assumption | with_reducible apply KeepAns.next | with_reducible apply KeepAns.refused
      | with_reducible apply State.finishCmd_keep | with_reducible apply evalCmd_keep | simp only [Keep.upd_iff]
      | intro _

theorem State.startLaunch_keep {s0 : State} (s : State) (q : Nat) (c : QCmd) (hk : Keep s0 s) : Keep s0
    (State.startLaunch s q c) := by
  unfold State.startLaunch
  try dsimp only
  repeat' first
    | with_reducible assumption | with_reducible apply State.finishCmd_keep | with_reducible apply State.updCmd_keep
      | with_reducible apply State.enqueueLaunch_keep | simp only [Keep.upd_iff] | with_reducible apply Keep.foldl
      | with_reducible apply Keep.foldlPair | intro _ | with_reducible apply Keep.ite | split

theorem execLaunch_keep {s0 : State} (q : Nat) (seq : BitVec 32) (s : State) (hk : Keep s0 s) : KeepAns s0
    (execLaunch q seq s) := by
  unfold execLaunch
  try dsimp only
  repeat' first
    | with_reducible assumption | with_reducible apply KeepAns.next | with_reducible apply KeepAns.refused
      | with_reducible apply KeepAns.ite | with_reducible apply State.finishCmd_keep
      | with_reducible apply State.startLaunch_keep | simp only [Keep.upd_iff] | intro _
      | with_reducible apply Keep.ite | split

theorem State.takeMover_keep {s0 : State} (s : State) (q : Nat) (c : QCmd) (hk : Keep s0 s) : Keep s0
    (State.takeMover s q c) := by
  unfold State.takeMover
  try dsimp only
  repeat' first
    | with_reducible assumption | with_reducible apply State.finishCmd_keep | with_reducible apply State.updCmd_keep
      | with_reducible apply State.wakeFor_keep | with_reducible apply State.sendCut_keep | simp only [Keep.upd_iff]
      | intro _ | with_reducible apply Keep.ite | split

theorem execCopy_keep {s0 : State} (q : Nat) (seq : BitVec 32) (s : State) (hk : Keep s0 s) : KeepAns s0 (execCopy q
    seq s) := by
  unfold execCopy
  try dsimp only
  repeat' first
    | with_reducible assumption | with_reducible apply KeepAns.next | with_reducible apply KeepAns.refused
      | with_reducible apply evalCmd_keep | with_reducible apply State.takeMover_keep | simp only [Keep.upd_iff]
      | intro _

theorem execFill_keep {s0 : State} (q : Nat) (seq : BitVec 32) (s : State) (hk : Keep s0 s) : KeepAns s0 (execFill q
    seq s) := by
  unfold execFill
  try dsimp only
  repeat' first
    | with_reducible assumption | with_reducible apply KeepAns.next | with_reducible apply KeepAns.refused
      | with_reducible apply evalCmd_keep | with_reducible apply State.takeMover_keep | simp only [Keep.upd_iff]
      | intro _

theorem execCompare_keep {s0 : State} (q : Nat) (seq : BitVec 32) (s : State) (hk : Keep s0 s) : KeepAns s0
    (execCompare q seq s) := by
  unfold execCompare
  try dsimp only
  repeat' first
    | with_reducible assumption | with_reducible apply KeepAns.next | with_reducible apply KeepAns.refused
      | with_reducible apply evalCmd_keep | with_reducible apply State.takeMover_keep | simp only [Keep.upd_iff]
      | intro _

theorem State.signalCmd_keep {s0 : State} (s : State) (q : Nat) (c : QCmd) (hk : Keep s0 s) : Keep s0
    (State.signalCmd s q c) := by
  unfold State.signalCmd
  try dsimp only
  repeat' first
    | with_reducible assumption | with_reducible apply State.setQueue_keep | with_reducible apply State.setFence_keep
      | with_reducible apply State.finishCmd_keep | with_reducible apply State.flagFence_keep
      | with_reducible apply State.evalWaiters_keep | simp only [Keep.upd_iff] | with_reducible apply Keep.foldl
      | with_reducible apply Keep.foldlPair | intro _ | with_reducible apply Keep.ite | split

theorem execFenceSignal_keep {s0 : State} (q : Nat) (seq : BitVec 32) (s : State) (hk : Keep s0 s) : KeepAns s0
    (execFenceSignal q seq s) := by
  unfold execFenceSignal
  try dsimp only
  repeat' first
    | with_reducible assumption | with_reducible apply KeepAns.next | with_reducible apply KeepAns.refused
      | with_reducible apply evalCmd_keep | with_reducible apply State.signalCmd_keep | simp only [Keep.upd_iff]
      | intro _

theorem State.waitCmd_keep {s0 : State} (s : State) (q : Nat) (c : QCmd) (hk : Keep s0 s) : Keep s0 (State.waitCmd s
    q c) := by
  unfold State.waitCmd
  try dsimp only
  repeat' first
    | with_reducible assumption | with_reducible apply State.updCmd_keep | with_reducible apply State.endWait_keep
      | simp only [Keep.upd_iff] | intro _ | with_reducible apply Keep.ite | split

theorem execFenceWait_keep {s0 : State} (q : Nat) (seq : BitVec 32) (s : State) (hk : Keep s0 s) : KeepAns s0
    (execFenceWait q seq s) := by
  unfold execFenceWait
  try dsimp only
  repeat' first
    | with_reducible assumption | with_reducible apply KeepAns.next | with_reducible apply KeepAns.refused
      | with_reducible apply evalCmd_keep | with_reducible apply State.waitCmd_keep | simp only [Keep.upd_iff]
      | intro _

theorem execBarrier_keep {s0 : State} (q : Nat) (seq : BitVec 32) (s : State) (hk : Keep s0 s) : KeepAns s0
    (execBarrier q seq s) := by
  unfold execBarrier
  try dsimp only
  repeat' first
    | with_reducible assumption | with_reducible apply KeepAns.next | with_reducible apply KeepAns.refused
      | with_reducible apply State.finishCmd_keep | with_reducible apply evalCmd_keep | simp only [Keep.upd_iff]
      | intro _

theorem State.markerCmd_keep {s0 : State} (s : State) (q : Nat) (c : QCmd) (hk : Keep s0 s) : Keep s0
    (State.markerCmd s q c) := by
  unfold State.markerCmd
  try dsimp only
  repeat' first
    | with_reducible assumption | with_reducible apply State.finishCmd_keep | with_reducible apply State.updCmd_keep
      | simp only [Keep.upd_iff] | intro _ | with_reducible apply Keep.ite | split

theorem execMarker_keep {s0 : State} (q : Nat) (seq : BitVec 32) (s : State) (hk : Keep s0 s) : KeepAns s0
    (execMarker q seq s) := by
  unfold execMarker
  try dsimp only
  repeat' first
    | with_reducible assumption | with_reducible apply KeepAns.next | with_reducible apply KeepAns.refused
      | with_reducible apply evalCmd_keep | with_reducible apply State.markerCmd_keep | simp only [Keep.upd_iff]
      | intro _

theorem execQuiesce_keep {s0 : State} (q : Nat) (seq : BitVec 32) (s : State) (hk : Keep s0 s) : KeepAns s0
    (execQuiesce q seq s) := by
  unfold execQuiesce
  try dsimp only
  repeat' first
    | with_reducible assumption | with_reducible apply KeepAns.next | with_reducible apply KeepAns.refused
      | with_reducible apply State.setQueue_keep | with_reducible apply State.finishCmd_keep
      | with_reducible apply evalCmd_keep | simp only [Keep.upd_iff] | intro _

theorem State.hostUe_keep {s0 : State} (s : State) (q : Nat) (c : QCmd) (at' : List Spot) (new : List Byte) (hk :
    Keep s0 s) : Keep s0 (State.hostUe s q c at' new) := by
  unfold State.hostUe
  try dsimp only
  repeat' first
    | with_reducible assumption | with_reducible apply State.finishCmd_keep
      | with_reducible apply State.partialCopy_keep | with_reducible apply State.ueRead_keep
      | simp only [Keep.upd_iff] | with_reducible apply Keep.ite | split

theorem State.hostMoved_keep {s0 : State} (s : State) (q : Nat) (c : QCmd) (res : Res) (a b : HostBytes) (hk : Keep
    s0 s) : Keep s0 (State.hostMoved s q c res a b) := by
  unfold State.hostMoved
  try dsimp only
  repeat' first
    | with_reducible assumption | with_reducible apply State.finishCmd_keep
      | with_reducible apply State.writeSpots_keep | with_reducible apply State.partialWrite_keep
      | with_reducible apply State.partialCopy_keep | with_reducible apply State.countEcc_keep
      | with_reducible apply State.traffic_keep | with_reducible apply State.countRefused_keep
      | with_reducible apply Reply.ok_keep | with_reducible apply State.hostUe_keep | simp only [Keep.upd_iff]
      | with_reducible apply Keep.ite | split

theorem execHostMoverComplete_keep {s0 : State} (q : Nat) (seq : BitVec 32) (res : Res) (a b : HostBytes) (s : State)
    (hk : Keep s0 s) : KeepAns s0 (execHostMoverComplete q seq res a b s) := by
  unfold execHostMoverComplete
  try dsimp only
  repeat' first
    | with_reducible assumption | with_reducible apply KeepAns.next | with_reducible apply KeepAns.refused
      | with_reducible apply KeepAns.ite | with_reducible apply State.hostMoved_keep | simp only [Keep.upd_iff]
      | intro _ | with_reducible apply Keep.ite | split

theorem execCoalesceTimerExpire_keep {s0 : State} (q : Nat) (s : State) (hk : Keep s0 s) : KeepAns s0
    (execCoalesceTimerExpire q s) := by
  unfold execCoalesceTimerExpire
  try dsimp only
  repeat' first
    | with_reducible assumption | with_reducible apply KeepAns.next | with_reducible apply KeepAns.refused
      | with_reducible apply KeepAns.ite | with_reducible apply State.setQueue_keep
      | with_reducible apply State.msix_keep | simp only [Keep.upd_iff] | intro _ | with_reducible apply Keep.ite
      | split

theorem execCqHeadReread_keep {s0 : State} (q : Nat) (head : Option Word) (s : State) (hk : Keep s0 s) : KeepAns s0
    (execCqHeadReread q head s) := by
  unfold execCqHeadReread
  try dsimp only
  repeat' first
    | with_reducible assumption | with_reducible apply KeepAns.next | with_reducible apply KeepAns.refused
      | with_reducible apply State.setQueue_keep | with_reducible apply State.emit_keep | simp only [Keep.upd_iff]
      | intro _ | split

end Sys2Proof.Machine
end

