-- ==== Sys2Proof/Laws/KeepRegs.lean ====
section
/-! SUPPORT. The operations of Machine/Regs.lean keep the queue, the variant and the canonical form of memory. -/

set_option linter.unusedSimpArgs false
set_option linter.unusedTactic false
set_option linter.unreachableTactic false

namespace Sys2Proof.Machine

theorem State.writeBar4Ctrl_keep {s0 : State} (s : State) (acc : Acc) (v : Word) (hk : Keep s0 s) : Keep s0
    (State.writeBar4Ctrl s acc v) := by
  unfold State.writeBar4Ctrl
  try dsimp only
  repeat' first
    | with_reducible assumption | simp only [Keep.upd_iff]

theorem execBar4CtrlWrite_keep {s0 : State} (acc : Acc) (v : Word) (s : State) (hk : Keep s0 s) : KeepAns s0
    (execBar4CtrlWrite acc v s) := by
  unfold execBar4CtrlWrite
  try dsimp only
  repeat' first
    | with_reducible assumption | with_reducible apply KeepAns.next | with_reducible apply KeepAns.refused
      | with_reducible apply mmio_keep | with_reducible apply State.writeBar4Ctrl_keep | simp only [Keep.upd_iff]
      | intro _

theorem State.serveBar_keep {s0 : State} (s : State) (b : BarReq) (res : Res) (hk : Keep s0 s) : Keep s0
    (State.serveBar s b res) := by
  unfold State.serveBar
  try dsimp only
  repeat' first
    | with_reducible assumption | with_reducible apply State.emit_keep | with_reducible apply State.writeSpots_keep
      | with_reducible apply State.countEcc_keep | with_reducible apply State.ueRead_keep
      | with_reducible apply State.countRefused_keep | simp only [Keep.upd_iff] | with_reducible apply Keep.ite
      | split

theorem State.takeBar_keep {s0 : State} (s : State) (b : BarReq) (res : Res) (hk : Keep s0 s) : Keep s0
    (State.takeBar s b res) := by
  unfold State.takeBar
  try dsimp only
  repeat' first
    | with_reducible assumption | with_reducible apply State.setTile_keep | with_reducible apply State.evalDom_keep
      | with_reducible apply State.serveBar_keep | simp only [Keep.upd_iff] | with_reducible apply Keep.ite | split

theorem State.dropBars_keep {s0 : State} (s : State) (t : Nat) (hk : Keep s0 s) : Keep s0 (State.dropBars s t) := by
  unfold State.dropBars
  try dsimp only
  repeat' first
    | with_reducible assumption | simp only [Keep.upd_iff] | intro _

theorem State.emptyBars_keep {s0 : State} (s : State) (t : Nat) (hk : Keep s0 s) : Keep s0 (State.emptyBars s t) := by
  unfold State.emptyBars
  try dsimp only
  repeat' first
    | with_reducible assumption | with_reducible apply State.takeBar_keep | with_reducible apply State.dropBars_keep
      | simp only [Keep.upd_iff] | with_reducible apply Keep.foldl | with_reducible apply Keep.foldlPair | intro _

theorem State.forwardBars_keep {s0 : State} (s : State) (out : Nat) (heir : Nat → Option Nat) (hk : Keep s0 s) : Keep
    s0 (State.forwardBars s out heir) := by
  unfold State.forwardBars
  try dsimp only
  repeat' first
    | with_reducible assumption | with_reducible apply State.emit_keep | with_reducible apply State.countRefused_keep
      | with_reducible apply State.takeBar_keep | with_reducible apply State.dropBars_keep | simp only [Keep.upd_iff]
      | with_reducible apply Keep.foldl | with_reducible apply Keep.foldlPair | with_reducible apply KeepOpt.bind
      | intro _ | intro _ | with_reducible apply Keep.ite | split

theorem State.bar4_keep {s0 : State} (s : State) (write : Bool) (off len : Nat) (data : List Byte) (res : Res) (hk :
    Keep s0 s) : Keep s0 (State.bar4 s write off len data res) := by
  unfold State.bar4
  try dsimp only
  repeat' first
    | with_reducible assumption | with_reducible apply State.emit_keep | with_reducible apply State.takeBar_keep
      | simp only [Keep.upd_iff] | with_reducible apply Keep.ite | split

theorem execBar4Access_keep {s0 : State} (write : Bool) (off len : Nat) (data : List Byte) (res : Res) (s : State)
    (hk : Keep s0 s) : KeepAns s0 (execBar4Access write off len data res s) := by
  unfold execBar4Access
  try dsimp only
  repeat' first
    | with_reducible assumption | with_reducible apply KeepAns.next | with_reducible apply KeepAns.refused
      | with_reducible apply mmio_keep | with_reducible apply State.bar4_keep | simp only [Keep.upd_iff] | intro _

theorem State.writeQStatus_keep {s0 : State} (s : State) (q : Nat) (acc : Acc) (v : Word) (hk : Keep s0 s) : Keep s0
    (State.writeQStatus s q acc v) := by
  unfold State.writeQStatus
  try dsimp only
  repeat' first
    | with_reducible assumption | with_reducible apply State.setQueue_keep | simp only [Keep.upd_iff]
      | with_reducible apply Keep.ite | split

theorem execQStatusW1c_keep {s0 : State} (q : Nat) (acc : Acc) (v : Word) (s : State) (hk : Keep s0 s) : KeepAns s0
    (execQStatusW1c q acc v s) := by
  unfold execQStatusW1c
  try dsimp only
  repeat' first
    | with_reducible assumption | with_reducible apply KeepAns.next | with_reducible apply KeepAns.refused
      | with_reducible apply mmio_keep | with_reducible apply State.writeQStatus_keep | simp only [Keep.upd_iff]
      | intro _

theorem State.writeHiErr_keep {s0 : State} (s : State) (acc : Acc) (v : Word) (hk : Keep s0 s) : Keep s0
    (State.writeHiErr s acc v) := by
  unfold State.writeHiErr
  try dsimp only
  repeat' first
    | with_reducible assumption | simp only [Keep.upd_iff] | with_reducible apply Keep.ite | split

theorem execHiErrClear_keep {s0 : State} (acc : Acc) (v : Word) (s : State) (hk : Keep s0 s) : KeepAns s0
    (execHiErrClear acc v s) := by
  unfold execHiErrClear
  try dsimp only
  repeat' first
    | with_reducible assumption | with_reducible apply KeepAns.next | with_reducible apply KeepAns.refused
      | with_reducible apply mmio_keep | with_reducible apply State.writeHiErr_keep | simp only [Keep.upd_iff]
      | intro _

theorem State.writeFqCfg_keep {s0 : State} (s : State) (acc : Acc) (v : Word) (hk : Keep s0 s) : Keep s0
    (State.writeFqCfg s acc v) := by
  unfold State.writeFqCfg
  try dsimp only
  repeat' first
    | with_reducible assumption | simp only [Keep.upd_iff] | with_reducible apply Keep.ite | split

theorem execFqCfgWrite_keep {s0 : State} (acc : Acc) (v : Word) (s : State) (hk : Keep s0 s) : KeepAns s0
    (execFqCfgWrite acc v s) := by
  unfold execFqCfgWrite
  try dsimp only
  repeat' first
    | with_reducible assumption | with_reducible apply KeepAns.next | with_reducible apply KeepAns.refused
      | with_reducible apply mmio_keep | with_reducible apply State.writeFqCfg_keep | simp only [Keep.upd_iff]
      | intro _

theorem State.writeFqHead_keep {s0 : State} (s : State) (acc : Acc) (v : Word) (hk : Keep s0 s) : Keep s0
    (State.writeFqHead s acc v) := by
  unfold State.writeFqHead
  try dsimp only
  repeat' first
    | with_reducible assumption | simp only [Keep.upd_iff]

theorem execFqHeadWrite_keep {s0 : State} (acc : Acc) (v : Word) (s : State) (hk : Keep s0 s) : KeepAns s0
    (execFqHeadWrite acc v s) := by
  unfold execFqHeadWrite
  try dsimp only
  repeat' first
    | with_reducible assumption | with_reducible apply KeepAns.next | with_reducible apply KeepAns.refused
      | with_reducible apply mmio_keep | with_reducible apply State.writeFqHead_keep | simp only [Keep.upd_iff]
      | intro _

theorem State.writeFqStatus_keep {s0 : State} (s : State) (acc : Acc) (v : Word) (hk : Keep s0 s) : Keep s0
    (State.writeFqStatus s acc v) := by
  unfold State.writeFqStatus
  try dsimp only
  repeat' first
    | with_reducible assumption | simp only [Keep.upd_iff] | with_reducible apply Keep.ite | split

theorem execFqStatusClear_keep {s0 : State} (acc : Acc) (v : Word) (s : State) (hk : Keep s0 s) : KeepAns s0
    (execFqStatusClear acc v s) := by
  unfold execFqStatusClear
  try dsimp only
  repeat' first
    | with_reducible assumption | with_reducible apply KeepAns.next | with_reducible apply KeepAns.refused
      | with_reducible apply mmio_keep | with_reducible apply State.writeFqStatus_keep | simp only [Keep.upd_iff]
      | intro _

theorem State.writeSlotFlags_keep {s0 : State} (s : State) (t i : Nat) (acc : Acc) (v : Word) (hk : Keep s0 s) : Keep
    s0 (State.writeSlotFlags s t i acc v) := by
  unfold State.writeSlotFlags
  try dsimp only
  repeat' first
    | with_reducible assumption | with_reducible apply State.setTile_keep | simp only [Keep.upd_iff]
      | with_reducible apply Keep.ite | split

theorem execSlotFlagsW1c_keep {s0 : State} (t i : Nat) (acc : Acc) (v : Word) (s : State) (hk : Keep s0 s) : KeepAns
    s0 (execSlotFlagsW1c t i acc v s) := by
  unfold execSlotFlagsW1c
  try dsimp only
  repeat' first
    | with_reducible assumption | with_reducible apply KeepAns.next | with_reducible apply KeepAns.refused
      | with_reducible apply mmio_keep | with_reducible apply State.writeSlotFlags_keep | simp only [Keep.upd_iff]
      | intro _

theorem State.writeSlotDeadline_keep {s0 : State} (s : State) (t i : Nat) (acc : Acc) (v : Word) (hk : Keep s0 s) :
    Keep s0 (State.writeSlotDeadline s t i acc v) := by
  unfold State.writeSlotDeadline
  try dsimp only
  repeat' first
    | with_reducible assumption | with_reducible apply State.setTile_keep | simp only [Keep.upd_iff]
      | with_reducible apply Keep.ite | split

theorem execSlotDeadlineWrite_keep {s0 : State} (t i : Nat) (acc : Acc) (v : Word) (s : State) (hk : Keep s0 s) :
    KeepAns s0 (execSlotDeadlineWrite t i acc v s) := by
  unfold execSlotDeadlineWrite
  try dsimp only
  repeat' first
    | with_reducible assumption | with_reducible apply KeepAns.next | with_reducible apply KeepAns.refused
      | with_reducible apply mmio_keep | with_reducible apply State.writeSlotDeadline_keep | simp only [Keep.upd_iff]
      | intro _

theorem State.writeStoreErr_keep {s0 : State} (s : State) (t : Nat) (acc : Acc) (v : Word) (hk : Keep s0 s) : Keep s0
    (State.writeStoreErr s t acc v) := by
  unfold State.writeStoreErr
  try dsimp only
  repeat' first
    | with_reducible assumption | with_reducible apply State.setTile_keep | simp only [Keep.upd_iff]
      | with_reducible apply Keep.ite | split

theorem execStoreErrClear_keep {s0 : State} (i : Nat) (acc : Acc) (v : Word) (s : State) (hk : Keep s0 s) : KeepAns
    s0 (execStoreErrClear i acc v s) := by
  unfold execStoreErrClear
  try dsimp only
  repeat' first
    | with_reducible assumption | with_reducible apply KeepAns.next | with_reducible apply KeepAns.refused
      | with_reducible apply mmio_keep | with_reducible apply State.writeStoreErr_keep | simp only [Keep.upd_iff]
      | intro _

theorem State.writeSched_keep {s0 : State} (s : State) (t : Nat) (acc : Acc) (v : Word) (hk : Keep s0 s) : Keep s0
    (State.writeSched s t acc v) := by
  unfold State.writeSched
  try dsimp only
  repeat' first
    | with_reducible assumption | with_reducible apply State.setTile_keep | simp only [Keep.upd_iff]
      | with_reducible apply Keep.ite | split

theorem execSchedStatusClear_keep {s0 : State} (i : Nat) (acc : Acc) (v : Word) (s : State) (hk : Keep s0 s) :
    KeepAns s0 (execSchedStatusClear i acc v s) := by
  unfold execSchedStatusClear
  try dsimp only
  repeat' first
    | with_reducible assumption | with_reducible apply KeepAns.next | with_reducible apply KeepAns.refused
      | with_reducible apply mmio_keep | with_reducible apply State.writeSched_keep | simp only [Keep.upd_iff]
      | intro _

theorem State.writeMpErr_keep {s0 : State} (s : State) (m : Nat) (acc : Acc) (v : Word) (hk : Keep s0 s) : Keep s0
    (State.writeMpErr s m acc v) := by
  unfold State.writeMpErr
  try dsimp only
  repeat' first
    | with_reducible assumption | with_reducible apply State.setPort_keep | simp only [Keep.upd_iff]
      | with_reducible apply Keep.ite | split

theorem execMpErrClear_keep {s0 : State} (i : Nat) (acc : Acc) (v : Word) (s : State) (hk : Keep s0 s) : KeepAns s0
    (execMpErrClear i acc v s) := by
  unfold execMpErrClear
  try dsimp only
  repeat' first
    | with_reducible assumption | with_reducible apply KeepAns.next | with_reducible apply KeepAns.refused
      | with_reducible apply mmio_keep | with_reducible apply State.writeMpErr_keep | simp only [Keep.upd_iff]
      | intro _

theorem State.writeLoss_keep {s0 : State} (s : State) (acc : Acc) (v : Word) (hk : Keep s0 s) : Keep s0
    (State.writeLoss s acc v) := by
  unfold State.writeLoss
  try dsimp only
  repeat' first
    | with_reducible assumption | with_reducible apply State.discarded_keep | simp only [Keep.upd_iff]
      | with_reducible apply Keep.ite | split

theorem execLossClear_keep {s0 : State} (acc : Acc) (v : Word) (s : State) (hk : Keep s0 s) : KeepAns s0
    (execLossClear acc v s) := by
  unfold execLossClear
  try dsimp only
  repeat' first
    | with_reducible assumption | with_reducible apply KeepAns.next | with_reducible apply KeepAns.refused
      | with_reducible apply mmio_keep | with_reducible apply State.writeLoss_keep | simp only [Keep.upd_iff]
      | intro _

theorem State.writeRnErr_keep {s0 : State} (s : State) (x : Nat) (acc : Acc) (v : Word) (hk : Keep s0 s) : Keep s0
    (State.writeRnErr s x acc v) := by
  unfold State.writeRnErr
  try dsimp only
  repeat' first
    | with_reducible assumption | with_reducible apply State.setRunner_keep | simp only [Keep.upd_iff]
      | with_reducible apply Keep.ite | split

theorem execRnErrClear_keep {s0 : State} (i : Nat) (acc : Acc) (v : Word) (s : State) (hk : Keep s0 s) : KeepAns s0
    (execRnErrClear i acc v s) := by
  unfold execRnErrClear
  try dsimp only
  repeat' first
    | with_reducible assumption | with_reducible apply KeepAns.next | with_reducible apply KeepAns.refused
      | with_reducible apply mmio_keep | with_reducible apply State.writeRnErr_keep | simp only [Keep.upd_iff]
      | intro _

theorem State.writeXing_keep {s0 : State} (s : State) (i : Nat) (acc : Acc) (v : Word) (hk : Keep s0 s) : Keep s0
    (State.writeXing s i acc v) := by
  unfold State.writeXing
  try dsimp only
  repeat' first
    | with_reducible assumption | with_reducible apply State.setXing_keep | simp only [Keep.upd_iff]
      | with_reducible apply Keep.ite | split

theorem execXingStateClear_keep {s0 : State} (i : Nat) (acc : Acc) (v : Word) (s : State) (hk : Keep s0 s) : KeepAns
    s0 (execXingStateClear i acc v s) := by
  unfold execXingStateClear
  try dsimp only
  repeat' first
    | with_reducible assumption | with_reducible apply KeepAns.next | with_reducible apply KeepAns.refused
      | with_reducible apply mmio_keep | with_reducible apply State.writeXing_keep | simp only [Keep.upd_iff]
      | intro _

theorem State.writeHostCap_keep {s0 : State} (s : State) (acc : Acc) (v : Word) (hk : Keep s0 s) : Keep s0
    (State.writeHostCap s acc v) := by
  unfold State.writeHostCap
  try dsimp only
  repeat' first
    | with_reducible assumption | simp only [Keep.upd_iff] | with_reducible apply Keep.ite | split

theorem execHostCapWrite_keep {s0 : State} (acc : Acc) (v : Word) (s : State) (hk : Keep s0 s) : KeepAns s0
    (execHostCapWrite acc v s) := by
  unfold execHostCapWrite
  try dsimp only
  repeat' first
    | with_reducible assumption | with_reducible apply KeepAns.next | with_reducible apply KeepAns.refused
      | with_reducible apply mmio_keep | with_reducible apply State.writeHostCap_keep | simp only [Keep.upd_iff]
      | intro _

theorem execMgrVoteWrite_keep {s0 : State} (i : Nat) (acc : Acc) (v : Word) (s : State) (hk : Keep s0 s) : KeepAns s0
    (execMgrVoteWrite i acc v s) := by
  unfold execMgrVoteWrite
  try dsimp only
  repeat' first
    | with_reducible assumption | with_reducible apply KeepAns.next | with_reducible apply KeepAns.refused
      | with_reducible apply State.writeDom_keep | with_reducible apply mmio_keep | simp only [Keep.upd_iff] | intro _

theorem execPadRelease_keep {s0 : State} (i : Nat) (acc : Acc) (v : Word) (s : State) (hk : Keep s0 s) : KeepAns s0
    (execPadRelease i acc v s) := by
  unfold execPadRelease
  try dsimp only
  repeat' first
    | with_reducible assumption | with_reducible apply KeepAns.next | with_reducible apply KeepAns.refused
      | with_reducible apply State.writeDom_keep | with_reducible apply mmio_keep | simp only [Keep.upd_iff] | intro _

theorem execSmpCfgWrite_keep {s0 : State} (acc : Acc) (v : Word) (s : State) (hk : Keep s0 s) : KeepAns s0
    (execSmpCfgWrite acc v s) := by
  unfold execSmpCfgWrite
  try dsimp only
  repeat' first
    | with_reducible assumption | with_reducible apply KeepAns.next | with_reducible apply KeepAns.refused
      | with_reducible apply State.writeSmpCfg_keep | with_reducible apply mmio_keep | simp only [Keep.upd_iff]
      | intro _

theorem execSmpIntervalWrite_keep {s0 : State} (acc : Acc) (v : Word) (s : State) (hk : Keep s0 s) : KeepAns s0
    (execSmpIntervalWrite acc v s) := by
  unfold execSmpIntervalWrite
  try dsimp only
  repeat' first
    | with_reducible assumption | with_reducible apply KeepAns.next | with_reducible apply KeepAns.refused
      | with_reducible apply State.writeSmpInterval_keep | with_reducible apply mmio_keep | simp only [Keep.upd_iff]
      | intro _

theorem execSmpHeadWrite_keep {s0 : State} (acc : Acc) (v : Word) (s : State) (hk : Keep s0 s) : KeepAns s0
    (execSmpHeadWrite acc v s) := by
  unfold execSmpHeadWrite
  try dsimp only
  repeat' first
    | with_reducible assumption | with_reducible apply KeepAns.next | with_reducible apply KeepAns.refused
      | with_reducible apply State.writeSmpHead_keep | with_reducible apply mmio_keep | simp only [Keep.upd_iff]
      | intro _

theorem execSmpStatusClear_keep {s0 : State} (acc : Acc) (v : Word) (s : State) (hk : Keep s0 s) : KeepAns s0
    (execSmpStatusClear acc v s) := by
  unfold execSmpStatusClear
  try dsimp only
  repeat' first
    | with_reducible assumption | with_reducible apply KeepAns.next | with_reducible apply KeepAns.refused
      | with_reducible apply State.writeSmpStatus_keep | with_reducible apply mmio_keep | simp only [Keep.upd_iff]
      | intro _

theorem execGrpCtlWrite_keep {s0 : State} (i : Nat) (acc : Acc) (v : Word) (s : State) (hk : Keep s0 s) : KeepAns s0
    (execGrpCtlWrite i acc v s) := by
  unfold execGrpCtlWrite
  try dsimp only
  repeat' first
    | with_reducible assumption | with_reducible apply KeepAns.next | with_reducible apply KeepAns.refused
      | with_reducible apply State.writeGrpCtl_keep | with_reducible apply mmio_keep | simp only [Keep.upd_iff]
      | intro _

theorem execGrpCtlClear_keep {s0 : State} (i : Nat) (acc : Acc) (v : Word) (s : State) (hk : Keep s0 s) : KeepAns s0
    (execGrpCtlClear i acc v s) := by
  unfold execGrpCtlClear
  try dsimp only
  repeat' first
    | with_reducible assumption | with_reducible apply KeepAns.next | with_reducible apply KeepAns.refused
      | with_reducible apply State.writeGrpCtl_keep | with_reducible apply mmio_keep | simp only [Keep.upd_iff]
      | intro _

theorem execTraceCtlWrite_keep {s0 : State} (i : Nat) (acc : Acc) (v : Word) (s : State) (hk : Keep s0 s) : KeepAns
    s0 (execTraceCtlWrite i acc v s) := by
  unfold execTraceCtlWrite
  try dsimp only
  repeat' first
    | with_reducible assumption | with_reducible apply KeepAns.next | with_reducible apply KeepAns.refused
      | with_reducible apply State.writeTraceCtl_keep | with_reducible apply mmio_keep | simp only [Keep.upd_iff]
      | intro _

end Sys2Proof.Machine
end

