-- ==== Sys2Proof/Laws/KeepContexts.lean ====
section
/-! SUPPORT. The operations of Machine/Contexts.lean keep the queue, the variant and the canonical form of memory. -/

set_option linter.unusedSimpArgs false
set_option linter.unusedTactic false
set_option linter.unreachableTactic false

namespace Sys2Proof.Machine

theorem State.dropOn_keep {s0 : State} (s : State) (t : Nat) (p : Launch → Bool) (status : BitVec 16) (hk : Keep s0
    s) : Keep s0 (State.dropOn s t p status) := by
  unfold State.dropOn
  try dsimp only
  repeat' first
    | with_reducible assumption | with_reducible apply State.setTile_keep | with_reducible apply State.dropLaunch_keep
      | simp only [Keep.upd_iff] | with_reducible apply Keep.foldl | with_reducible apply Keep.foldlPair | intro _

theorem State.dropWaiting_keep {s0 : State} (s : State) (p : Launch → Bool) (status : BitVec 16) (hk : Keep s0 s) :
    Keep s0 (State.dropWaiting s p status) := by
  unfold State.dropWaiting
  try dsimp only
  repeat' first
    | with_reducible assumption | with_reducible apply State.dropOn_keep | simp only [Keep.upd_iff]
      | with_reducible apply Keep.foldl | with_reducible apply Keep.foldlPair | intro _

theorem State.endIfDone_keep {s0 : State} (s : State) (t : Nat) (hk : Keep s0 s) : Keep s0 (State.endIfDone s t) := by
  unfold State.endIfDone
  try dsimp only
  repeat' first
    | with_reducible assumption | with_reducible apply State.boundary_keep | simp only [Keep.upd_iff]
      | with_reducible apply Keep.ite | split

theorem State.stopOn_keep {s0 : State} (s : State) (t : Nat) (p : Launch → Bool) (safety : Bool) (hk : Keep s0 s) :
    Keep s0 (State.stopOn s t p safety) := by
  unfold State.stopOn
  try dsimp only
  repeat' first
    | with_reducible assumption | with_reducible apply State.safetyStop_keep | with_reducible apply State.stopFor_keep
      | with_reducible apply State.endIfDone_keep | simp only [Keep.upd_iff] | with_reducible apply Keep.ite | split

theorem State.stopRunning_keep {s0 : State} (s : State) (p : Launch → Bool) (safety : Bool) (hk : Keep s0 s) : Keep
    s0 (State.stopRunning s p safety) := by
  unfold State.stopRunning
  try dsimp only
  repeat' first
    | with_reducible assumption | with_reducible apply State.stopOn_keep | simp only [Keep.upd_iff]
      | with_reducible apply Keep.foldl | with_reducible apply Keep.foldlPair | intro _

theorem State.stopMover_keep {s0 : State} (s : State) (c : QCmd) (hk : Keep s0 s) : Keep s0 (State.stopMover s c) := by
  unfold State.stopMover
  try dsimp only
  repeat' first
    | with_reducible assumption | with_reducible apply State.partialWrite_keep
      | with_reducible apply State.partialCopy_keep | simp only [Keep.upd_iff] | with_reducible apply Keep.ite | split

theorem State.abortCmd_keep {s0 : State} (s : State) (q : Nat) (seq : BitVec 32) (status : BitVec 16) (detail :
    BitVec 32) (hk : Keep s0 s) : Keep s0 (State.abortCmd s q seq status detail) := by
  unfold State.abortCmd
  try dsimp only
  repeat' first
    | with_reducible assumption | with_reducible apply State.finishCmd_keep
      | with_reducible apply State.stopMover_keep | simp only [Keep.upd_iff] | split

theorem State.updQueues_keep {s0 : State} (s : State) (c : Nat) (f : Queue → Queue) (hk : Keep s0 s) : Keep s0
    (State.updQueues s c f) := by
  unfold State.updQueues
  try dsimp only
  repeat' first
    | with_reducible assumption | simp only [Keep.upd_iff] | intro _ | with_reducible apply Keep.ite | split

theorem State.stopQueues_keep {s0 : State} (s : State) (c : Nat) (hk : Keep s0 s) : Keep s0 (State.stopQueues s c) := by
  unfold State.stopQueues
  try dsimp only
  repeat' first
    | with_reducible assumption | with_reducible apply State.updQueues_keep | simp only [Keep.upd_iff] | intro _
      | with_reducible apply Keep.ite | split

theorem State.setQuiesced_keep {s0 : State} (s : State) (c : Nat) (hk : Keep s0 s) : Keep s0 (State.setQuiesced s c)
    := by
  unfold State.setQuiesced
  try dsimp only
  repeat' first
    | with_reducible assumption | with_reducible apply State.setCtx_keep | with_reducible apply State.updQueues_keep
      | simp only [Keep.upd_iff] | intro _ | with_reducible apply Keep.ite | split

theorem State.abortCtx_keep {s0 : State} (s : State) (c : Nat) (safety : Bool) (hk : Keep s0 s) : Keep s0
    (State.abortCtx s c safety) := by
  unfold State.abortCtx
  try dsimp only
  repeat' first
    | with_reducible assumption | with_reducible apply State.setCtx_keep | with_reducible apply State.dropWaiting_keep
      | with_reducible apply State.stopRunning_keep | with_reducible apply State.abortCmd_keep
      | with_reducible apply State.stopQueues_keep | with_reducible apply State.setQuiesced_keep
      | simp only [Keep.upd_iff] | with_reducible apply Keep.foldl | with_reducible apply Keep.foldlPair | intro _
      | with_reducible apply Keep.ite | split

theorem State.releaseShare_keep {s0 : State} (s : State) (t c : Nat) (hk : Keep s0 s) : Keep s0 (State.releaseShare s
    t c) := by
  unfold State.releaseShare
  try dsimp only
  repeat' first
    | with_reducible assumption | with_reducible apply State.setTile_keep | simp only [Keep.upd_iff] | intro _ | split

theorem State.dropShare_keep {s0 : State} (s : State) (t c : Nat) (hk : Keep s0 s) : Keep s0 (State.dropShare s t c)
    := by
  unfold State.dropShare
  try dsimp only
  repeat' first
    | with_reducible assumption | with_reducible apply State.setTile_keep
      | with_reducible apply State.clearGranules_keep | with_reducible apply State.releaseShare_keep
      | simp only [Keep.upd_iff] | intro _ | with_reducible apply Keep.ite | split

theorem State.assignShare_keep {s0 : State} (s : State) (t c slot : Nat) (bm : BitVec 256) (hk : Keep s0 s) : Keep s0
    (State.assignShare s t c slot bm) := by
  unfold State.assignShare
  try dsimp only
  repeat' first
    | with_reducible assumption | with_reducible apply State.setTile_keep | simp only [Keep.upd_iff]

theorem State.addStandby_keep {s0 : State} (s : State) (t c n : Nat) (hk : Keep s0 s) : Keep s0 (State.addStandby s t
    c n) := by
  unfold State.addStandby
  try dsimp only
  repeat' first
    | with_reducible assumption | with_reducible apply State.setTile_keep | simp only [Keep.upd_iff]

end Sys2Proof.Machine
end

