-- ==== Sys2Proof/Laws/KeepRilax.lean ====
section
/-! SUPPORT. The operations of Machine/Rilax.lean keep the queue, the variant and the canonical form of memory. -/

set_option linter.unusedSimpArgs false
set_option linter.unusedTactic false
set_option linter.unreachableTactic false

namespace Sys2Proof.Machine

/-- Every state that an instruction's effect holds. -/
def KeepEff (s0 : State) : Eff → Prop
  | .retire s | .marked s | .jump s _ | .hold s | .halt s => Keep s0 s
  | .trap _ _ => True

theorem KeepEff.retire {s0 s : State} (h : Keep s0 s) : KeepEff s0 (.retire s) := h
theorem KeepEff.marked {s0 s : State} (h : Keep s0 s) : KeepEff s0 (.marked s) := h
theorem KeepEff.jump {s0 s : State} {pc : Word} (h : Keep s0 s) : KeepEff s0 (.jump s pc) := h
theorem KeepEff.hold {s0 s : State} (h : Keep s0 s) : KeepEff s0 (.hold s) := h
theorem KeepEff.halt {s0 s : State} (h : Keep s0 s) : KeepEff s0 (.halt s) := h
theorem KeepEff.trap {s0 : State} {code : Nat} {hi : BitVec 16} : KeepEff s0 (.trap code hi) := trivial

theorem State.apply_keep {s0 : State} (s : State) (t n : Nat) (e : Eff) (he : KeepEff s0 e) (hk : Keep s0 s) :
    Keep s0 (s.apply t n e) := by
  cases e with
  | retire s => exact State.retire_keep _ _ _ he
  | marked s => exact State.retireTo_keep _ _ _ _ he
  | jump s pc => exact State.retireTo_keep _ _ _ _ (State.traceEmit_keep _ _ _ _ _ _ he)
  | hold s => exact he
  | trap code hi => exact State.trap_keep _ _ _ _ _ hk
  | halt s => exact he

theorem State.issueBase_keep {s0 : State} (s : State) (t : Nat) (w : Word) (dec : Bool) (k : State → Eff)
    (he : ∀ s, Keep s0 s → KeepEff s0 (k s)) (hk : Keep s0 s) : Keep s0 (s.issueBase t w dec k) := by
  unfold State.issueBase
  split
  · exact State.apply_keep _ _ _ _ trivial hk
  · split
    · exact State.apply_keep _ _ _ _ (he s hk) hk
    · exact State.apply_keep _ _ _ _ hk hk

theorem rilax_keep {s0 : State} (name : String) (cls op t : Nat) (w : Word) (dec : Bool) (k : State → Eff) (s : State)
    (h : ∀ s, Keep s0 s → KeepEff s0 (k s)) (hk : Keep s0 s) : KeepAns s0 (rilax name cls op t w dec k s) := by
  have trap : ∀ c, Keep s0 (s.apply t 8 (.trap c 0)) := fun c => State.apply_keep _ _ _ _ trivial hk
  unfold rilax
  split
  · trivial
  · split
    · refine KeepAns.next ?_
      split
      · exact trap _
      · exact State.issueBase_keep _ _ _ _ _ h hk
    · split
      · refine KeepAns.next ?_
        split <;> exact trap _
      · trivial

theorem State.setG_keep {s0 : State} (s : State) (t i : Nat) (v : Word) (hk : Keep s0 s) : Keep s0 (State.setG s t i
    v) := by
  unfold State.setG
  try dsimp only
  repeat' first
    | with_reducible assumption | with_reducible apply State.setCore_keep | simp only [Keep.upd_iff]

theorem aluRow_keep {s0 : State} (name : String) (op : Nat) (f : Word → Word → Word) (t : Nat) (w : Word) (s : State)
    (hk : Keep s0 s) : KeepAns s0 (aluRow name op f t w s) := by
  refine rilax_keep _ _ _ _ _ _ _ _ (fun s hk => ?_) hk
  exact State.setG_keep _ _ _ _ hk

theorem execAdd_keep {s0 : State} (t : Nat) (w : Word) (s : State) (hk : Keep s0 s) : KeepAns s0 (execAdd t w s) := by
  unfold execAdd
  try dsimp only
  repeat' first
    | with_reducible assumption | with_reducible apply KeepAns.next | with_reducible apply KeepAns.refused
      | with_reducible apply aluRow_keep | simp only [Keep.upd_iff] | intro _

theorem execSub_keep {s0 : State} (t : Nat) (w : Word) (s : State) (hk : Keep s0 s) : KeepAns s0 (execSub t w s) := by
  unfold execSub
  try dsimp only
  repeat' first
    | with_reducible assumption | with_reducible apply KeepAns.next | with_reducible apply KeepAns.refused
      | with_reducible apply aluRow_keep | simp only [Keep.upd_iff] | intro _

theorem execAnd_keep {s0 : State} (t : Nat) (w : Word) (s : State) (hk : Keep s0 s) : KeepAns s0 (execAnd t w s) := by
  unfold execAnd
  try dsimp only
  repeat' first
    | with_reducible assumption | with_reducible apply KeepAns.next | with_reducible apply KeepAns.refused
      | with_reducible apply aluRow_keep | simp only [Keep.upd_iff] | intro _

theorem execOr_keep {s0 : State} (t : Nat) (w : Word) (s : State) (hk : Keep s0 s) : KeepAns s0 (execOr t w s) := by
  unfold execOr
  try dsimp only
  repeat' first
    | with_reducible assumption | with_reducible apply KeepAns.next | with_reducible apply KeepAns.refused
      | with_reducible apply aluRow_keep | simp only [Keep.upd_iff] | intro _

theorem execXor_keep {s0 : State} (t : Nat) (w : Word) (s : State) (hk : Keep s0 s) : KeepAns s0 (execXor t w s) := by
  unfold execXor
  try dsimp only
  repeat' first
    | with_reducible assumption | with_reducible apply KeepAns.next | with_reducible apply KeepAns.refused
      | with_reducible apply aluRow_keep | simp only [Keep.upd_iff] | intro _

theorem execShl_keep {s0 : State} (t : Nat) (w : Word) (s : State) (hk : Keep s0 s) : KeepAns s0 (execShl t w s) := by
  unfold execShl
  try dsimp only
  repeat' first
    | with_reducible assumption | with_reducible apply KeepAns.next | with_reducible apply KeepAns.refused
      | with_reducible apply aluRow_keep | simp only [Keep.upd_iff] | intro _

theorem execShr_keep {s0 : State} (t : Nat) (w : Word) (s : State) (hk : Keep s0 s) : KeepAns s0 (execShr t w s) := by
  unfold execShr
  try dsimp only
  repeat' first
    | with_reducible assumption | with_reducible apply KeepAns.next | with_reducible apply KeepAns.refused
      | with_reducible apply aluRow_keep | simp only [Keep.upd_iff] | intro _

theorem execSra_keep {s0 : State} (t : Nat) (w : Word) (s : State) (hk : Keep s0 s) : KeepAns s0 (execSra t w s) := by
  unfold execSra
  try dsimp only
  repeat' first
    | with_reducible assumption | with_reducible apply KeepAns.next | with_reducible apply KeepAns.refused
      | with_reducible apply aluRow_keep | simp only [Keep.upd_iff] | intro _

theorem execMul_keep {s0 : State} (t : Nat) (w : Word) (s : State) (hk : Keep s0 s) : KeepAns s0 (execMul t w s) := by
  unfold execMul
  try dsimp only
  repeat' first
    | with_reducible assumption | with_reducible apply KeepAns.next | with_reducible apply KeepAns.refused
      | with_reducible apply aluRow_keep | simp only [Keep.upd_iff] | intro _

theorem execMulhu_keep {s0 : State} (t : Nat) (w : Word) (s : State) (hk : Keep s0 s) : KeepAns s0 (execMulhu t w s)
    := by
  unfold execMulhu
  try dsimp only
  repeat' first
    | with_reducible assumption | with_reducible apply KeepAns.next | with_reducible apply KeepAns.refused
      | with_reducible apply aluRow_keep | simp only [Keep.upd_iff] | intro _

theorem execDivu_keep {s0 : State} (t : Nat) (w : Word) (s : State) (hk : Keep s0 s) : KeepAns s0 (execDivu t w s) := by
  unfold execDivu
  try dsimp only
  repeat' first
    | with_reducible assumption | with_reducible apply KeepAns.next | with_reducible apply KeepAns.refused
      | with_reducible apply aluRow_keep | simp only [Keep.upd_iff] | intro _

theorem execRemu_keep {s0 : State} (t : Nat) (w : Word) (s : State) (hk : Keep s0 s) : KeepAns s0 (execRemu t w s) := by
  unfold execRemu
  try dsimp only
  repeat' first
    | with_reducible assumption | with_reducible apply KeepAns.next | with_reducible apply KeepAns.refused
      | with_reducible apply aluRow_keep | simp only [Keep.upd_iff] | intro _

theorem execCmp_keep {s0 : State} (t : Nat) (w : Word) (s : State) (hk : Keep s0 s) : KeepAns s0 (execCmp t w s) := by
  unfold execCmp
  try dsimp only
  repeat' first
    | with_reducible assumption | with_reducible apply KeepAns.next | with_reducible apply KeepAns.refused
      | with_reducible apply KeepAns.ite | with_reducible apply State.setCore_keep
      | with_reducible apply State.retire_keep | with_reducible apply rilax_keep | with_reducible apply KeepEff.retire
      | simp only [Keep.upd_iff] | intro _ | with_reducible apply Keep.ite | split

theorem execLi_keep {s0 : State} (t : Nat) (w : Word) (s : State) (hk : Keep s0 s) : KeepAns s0 (execLi t w s) := by
  unfold execLi
  try dsimp only
  repeat' first
    | with_reducible assumption | with_reducible apply KeepAns.next | with_reducible apply KeepAns.refused
      | with_reducible apply State.retire_keep | with_reducible apply rilax_keep
      | with_reducible apply State.setG_keep | with_reducible apply KeepEff.retire | simp only [Keep.upd_iff]
      | intro _

theorem execPset_keep {s0 : State} (t : Nat) (w : Word) (s : State) (hk : Keep s0 s) : KeepAns s0 (execPset t w s) := by
  unfold execPset
  try dsimp only
  repeat' first
    | with_reducible assumption | with_reducible apply KeepAns.next | with_reducible apply KeepAns.refused
      | with_reducible apply State.setCore_keep | with_reducible apply State.retire_keep
      | with_reducible apply rilax_keep | with_reducible apply KeepEff.retire | simp only [Keep.upd_iff] | intro _

theorem execLih_keep {s0 : State} (t : Nat) (w : Word) (s : State) (hk : Keep s0 s) : KeepAns s0 (execLih t w s) := by
  unfold execLih
  try dsimp only
  repeat' first
    | with_reducible assumption | with_reducible apply KeepAns.next | with_reducible apply KeepAns.refused
      | with_reducible apply State.retire_keep | with_reducible apply rilax_keep
      | with_reducible apply State.setG_keep | with_reducible apply KeepEff.retire | simp only [Keep.upd_iff]
      | intro _

theorem execBr_keep {s0 : State} (t : Nat) (w : Word) (s : State) (hk : Keep s0 s) : KeepAns s0 (execBr t w s) := by
  unfold execBr
  try dsimp only
  repeat' first
    | with_reducible assumption | with_reducible apply KeepAns.next | with_reducible apply KeepAns.refused
      | with_reducible apply rilax_keep | with_reducible apply KeepEff.jump | simp only [Keep.upd_iff] | intro _

theorem execCall_keep {s0 : State} (t : Nat) (w : Word) (s : State) (hk : Keep s0 s) : KeepAns s0 (execCall t w s) := by
  unfold execCall
  try dsimp only
  repeat' first
    | with_reducible assumption | with_reducible apply KeepAns.next | with_reducible apply KeepAns.refused
      | with_reducible apply rilax_keep | with_reducible apply State.setG_keep | with_reducible apply KeepEff.jump
      | simp only [Keep.upd_iff] | intro _

theorem execJr_keep {s0 : State} (t : Nat) (w : Word) (s : State) (hk : Keep s0 s) : KeepAns s0 (execJr t w s) := by
  unfold execJr
  try dsimp only
  repeat' first
    | with_reducible assumption | with_reducible apply KeepAns.next | with_reducible apply KeepAns.refused
      | with_reducible apply KeepAns.ite | with_reducible apply State.trap_keep | with_reducible apply rilax_keep
      | with_reducible apply KeepEff.jump | with_reducible apply KeepEff.trap | simp only [Keep.upd_iff] | intro _
      | with_reducible apply Keep.ite | split

theorem State.readUe_keep {s0 : State} (s : State) (t : Nat) (l : List Spot) (hk : Keep s0 s) : Keep s0 (State.readUe
    s t l) := by
  unfold State.readUe
  try dsimp only
  repeat' first
    | with_reducible assumption | with_reducible apply State.ueRead_keep | with_reducible apply State.safetyStop_keep
      | simp only [Keep.upd_iff]

theorem State.accessStop_keep {s0 : State} (s : State) (t : Nat) (l : List Spot) (res : Res) (hk : Keep s0 s) : Keep
    s0 (State.accessStop s t l res) := by
  unfold State.accessStop
  try dsimp only
  repeat' first
    | with_reducible assumption | with_reducible apply State.draw_keep | with_reducible apply State.askHost_keep
      | with_reducible apply State.countRefused_keep | with_reducible apply State.stopFor_keep
      | with_reducible apply State.readUe_keep | simp only [Keep.upd_iff]
      | with_reducible refine Keep.ofSnd (by assumption) ?_ | split

theorem loadEff_keep {s0 : State} (t : Nat) (td : Bool) (n : Nat) (signed : Bool) (w : Word) (s : State) (hk : Keep s0 s) :
    KeepEff s0 (loadEff t td n signed w s) := by
  unfold loadEff
  dsimp only
  split
  · trivial
  · split
    · trivial
    · split
      · exact hk
      · exact State.wakeFor_keep _ _ _ (State.sendCut_keep _ _ _ (State.setCore_keep _ _ _ hk))

theorem storeEff_keep {s0 : State} (t n : Nat) (w : Word) (bytes : State → List Byte) (s : State) (hk : Keep s0 s) :
    KeepEff s0 (storeEff t n w bytes s) := by
  unfold storeEff
  dsimp only
  split
  · trivial
  · split
    · trivial
    · have hs := fun bs => State.writeSpots_keep _ (s.vaSpots t (s.lsVa t w) n) bs
        (State.traffic_keep s (s.vaSpots t (s.lsVa t w) n) 1 t hk)
      split
      · exact hk
      · split
        · exact State.sendCut_keep _ _ _ (State.setCore_keep _ _ _ hk)
        · split
          · split
            · exact State.wakeFor_keep _ _ _ hk
            · exact hs _
          · split
            · exact State.wakeFor_keep _ _ _ hk
            · exact hs _
          · exact State.accessStop_keep _ _ _ _ hk

theorem loadRow_keep {s0 : State} (name : String) (op n : Nat) (signed : Bool) (t : Nat) (w : Word) (s : State) (hk :
    Keep s0 s) : KeepAns s0 (loadRow name op n signed t w s) := by
  unfold loadRow
  try dsimp only
  repeat' first
    | with_reducible assumption | with_reducible apply KeepAns.next | with_reducible apply KeepAns.refused
      | with_reducible apply rilax_keep | with_reducible apply loadEff_keep | simp only [Keep.upd_iff] | intro _

theorem storeRow_keep {s0 : State} (name : String) (op n : Nat) (t : Nat) (w : Word) (s : State) (hk : Keep s0 s) :
    KeepAns s0 (storeRow name op n t w s) := by
  unfold storeRow
  try dsimp only
  repeat' first
    | with_reducible assumption | with_reducible apply KeepAns.next | with_reducible apply KeepAns.refused
      | with_reducible apply rilax_keep | with_reducible apply storeEff_keep | simp only [Keep.upd_iff] | intro _

theorem execLdU8_keep {s0 : State} (t : Nat) (w : Word) (s : State) (hk : Keep s0 s) : KeepAns s0 (execLdU8 t w s) := by
  unfold execLdU8
  try dsimp only
  repeat' first
    | with_reducible assumption | with_reducible apply KeepAns.next | with_reducible apply KeepAns.refused
      | with_reducible apply loadRow_keep | simp only [Keep.upd_iff] | intro _

theorem execLdU16_keep {s0 : State} (t : Nat) (w : Word) (s : State) (hk : Keep s0 s) : KeepAns s0 (execLdU16 t w s)
    := by
  unfold execLdU16
  try dsimp only
  repeat' first
    | with_reducible assumption | with_reducible apply KeepAns.next | with_reducible apply KeepAns.refused
      | with_reducible apply loadRow_keep | simp only [Keep.upd_iff] | intro _

theorem execLdU32_keep {s0 : State} (t : Nat) (w : Word) (s : State) (hk : Keep s0 s) : KeepAns s0 (execLdU32 t w s)
    := by
  unfold execLdU32
  try dsimp only
  repeat' first
    | with_reducible assumption | with_reducible apply KeepAns.next | with_reducible apply KeepAns.refused
      | with_reducible apply loadRow_keep | simp only [Keep.upd_iff] | intro _

theorem execLd64_keep {s0 : State} (t : Nat) (w : Word) (s : State) (hk : Keep s0 s) : KeepAns s0 (execLd64 t w s) := by
  unfold execLd64
  try dsimp only
  repeat' first
    | with_reducible assumption | with_reducible apply KeepAns.next | with_reducible apply KeepAns.refused
      | with_reducible apply loadRow_keep | simp only [Keep.upd_iff] | intro _

theorem execLdS8_keep {s0 : State} (t : Nat) (w : Word) (s : State) (hk : Keep s0 s) : KeepAns s0 (execLdS8 t w s) := by
  unfold execLdS8
  try dsimp only
  repeat' first
    | with_reducible assumption | with_reducible apply KeepAns.next | with_reducible apply KeepAns.refused
      | with_reducible apply loadRow_keep | simp only [Keep.upd_iff] | intro _

theorem execLdS16_keep {s0 : State} (t : Nat) (w : Word) (s : State) (hk : Keep s0 s) : KeepAns s0 (execLdS16 t w s)
    := by
  unfold execLdS16
  try dsimp only
  repeat' first
    | with_reducible assumption | with_reducible apply KeepAns.next | with_reducible apply KeepAns.refused
      | with_reducible apply loadRow_keep | simp only [Keep.upd_iff] | intro _

theorem execLdS32_keep {s0 : State} (t : Nat) (w : Word) (s : State) (hk : Keep s0 s) : KeepAns s0 (execLdS32 t w s)
    := by
  unfold execLdS32
  try dsimp only
  repeat' first
    | with_reducible assumption | with_reducible apply KeepAns.next | with_reducible apply KeepAns.refused
      | with_reducible apply loadRow_keep | simp only [Keep.upd_iff] | intro _

theorem execSt8_keep {s0 : State} (t : Nat) (w : Word) (s : State) (hk : Keep s0 s) : KeepAns s0 (execSt8 t w s) := by
  unfold execSt8
  try dsimp only
  repeat' first
    | with_reducible assumption | with_reducible apply KeepAns.next | with_reducible apply KeepAns.refused
      | with_reducible apply storeRow_keep | simp only [Keep.upd_iff] | intro _

theorem execSt16_keep {s0 : State} (t : Nat) (w : Word) (s : State) (hk : Keep s0 s) : KeepAns s0 (execSt16 t w s) := by
  unfold execSt16
  try dsimp only
  repeat' first
    | with_reducible assumption | with_reducible apply KeepAns.next | with_reducible apply KeepAns.refused
      | with_reducible apply storeRow_keep | simp only [Keep.upd_iff] | intro _

theorem execSt32_keep {s0 : State} (t : Nat) (w : Word) (s : State) (hk : Keep s0 s) : KeepAns s0 (execSt32 t w s) := by
  unfold execSt32
  try dsimp only
  repeat' first
    | with_reducible assumption | with_reducible apply KeepAns.next | with_reducible apply KeepAns.refused
      | with_reducible apply storeRow_keep | simp only [Keep.upd_iff] | intro _

theorem execSt64_keep {s0 : State} (t : Nat) (w : Word) (s : State) (hk : Keep s0 s) : KeepAns s0 (execSt64 t w s) := by
  unfold execSt64
  try dsimp only
  repeat' first
    | with_reducible assumption | with_reducible apply KeepAns.next | with_reducible apply KeepAns.refused
      | with_reducible apply storeRow_keep | simp only [Keep.upd_iff] | intro _

theorem execLdTd_keep {s0 : State} (t : Nat) (w : Word) (s : State) (hk : Keep s0 s) : KeepAns s0 (execLdTd t w s) := by
  unfold execLdTd
  try dsimp only
  repeat' first
    | with_reducible assumption | with_reducible apply KeepAns.next | with_reducible apply KeepAns.refused
      | with_reducible apply rilax_keep | with_reducible apply loadEff_keep | simp only [Keep.upd_iff] | intro _

theorem execStTd_keep {s0 : State} (t : Nat) (w : Word) (s : State) (hk : Keep s0 s) : KeepAns s0 (execStTd t w s) := by
  unfold execStTd
  try dsimp only
  repeat' first
    | with_reducible assumption | with_reducible apply KeepAns.next | with_reducible apply KeepAns.refused
      | with_reducible apply rilax_keep | with_reducible apply storeEff_keep | simp only [Keep.upd_iff] | intro _

theorem execTdWr_keep {s0 : State} (t : Nat) (w : Word) (s : State) (hk : Keep s0 s) : KeepAns s0 (execTdWr t w s) := by
  unfold execTdWr
  try dsimp only
  repeat' first
    | with_reducible assumption | with_reducible apply KeepAns.next | with_reducible apply KeepAns.refused
      | with_reducible apply State.setCore_keep | with_reducible apply State.retire_keep
      | with_reducible apply rilax_keep | with_reducible apply KeepEff.retire | simp only [Keep.upd_iff] | intro _

theorem execTdRd_keep {s0 : State} (t : Nat) (w : Word) (s : State) (hk : Keep s0 s) : KeepAns s0 (execTdRd t w s) := by
  unfold execTdRd
  try dsimp only
  repeat' first
    | with_reducible assumption | with_reducible apply KeepAns.next | with_reducible apply KeepAns.refused
      | with_reducible apply State.retire_keep | with_reducible apply rilax_keep
      | with_reducible apply State.setG_keep | with_reducible apply KeepEff.retire | simp only [Keep.upd_iff]
      | intro _

theorem execLoadDataReturn_keep {s0 : State} (t : Nat) (res : Res) (host : HostBytes) (s : State) (hk : Keep s0 s) :
    KeepAns s0 (execLoadDataReturn t res host s) := by
  unfold execLoadDataReturn
  try dsimp only
  repeat' first
    | with_reducible assumption | with_reducible apply KeepAns.next | with_reducible apply KeepAns.refused
      | with_reducible apply KeepAns.ite | with_reducible apply State.setCore_keep
      | with_reducible apply State.countEcc_keep | with_reducible apply State.traffic_keep
      | with_reducible apply State.retire_keep | with_reducible apply Reply.ok_keep
      | with_reducible apply State.setG_keep | with_reducible apply State.accessStop_keep | simp only [Keep.upd_iff]
      | intro _ | with_reducible apply Keep.ite | split

theorem execWait_keep {s0 : State} (t : Nat) (w : Word) (s : State) (hk : Keep s0 s) : KeepAns s0 (execWait t w s) := by
  unfold execWait
  try dsimp only
  repeat' first
    | with_reducible assumption | with_reducible apply KeepAns.next | with_reducible apply KeepAns.refused
      | with_reducible apply State.setCore_keep | with_reducible apply State.trap_keep
      | with_reducible apply State.retire_keep | with_reducible apply rilax_keep | with_reducible apply KeepEff.retire
      | with_reducible apply KeepEff.hold | with_reducible apply KeepEff.trap | simp only [Keep.upd_iff] | intro _
      | split

theorem execTokPoll_keep {s0 : State} (t : Nat) (w : Word) (s : State) (hk : Keep s0 s) : KeepAns s0 (execTokPoll t w
    s) := by
  unfold execTokPoll
  try dsimp only
  repeat' first
    | with_reducible assumption | with_reducible apply KeepAns.next | with_reducible apply KeepAns.refused
      | with_reducible apply State.setCore_keep | with_reducible apply State.retire_keep
      | with_reducible apply rilax_keep | with_reducible apply State.setG_keep | with_reducible apply KeepEff.retire
      | simp only [Keep.upd_iff] | intro _

theorem execFenceSig_keep {s0 : State} (t : Nat) (w : Word) (s : State) (hk : Keep s0 s) : KeepAns s0 (execFenceSig t
    w s) := by
  unfold execFenceSig
  try dsimp only
  repeat' first
    | with_reducible assumption | with_reducible apply KeepAns.next | with_reducible apply KeepAns.refused
      | with_reducible apply KeepAns.ite | with_reducible apply State.setCore_keep
      | with_reducible apply State.trap_keep | with_reducible apply State.retire_keep
      | with_reducible apply rilax_keep | with_reducible apply KeepEff.retire | with_reducible apply KeepEff.trap
      | simp only [Keep.upd_iff] | intro _ | with_reducible apply Keep.ite | split

theorem execFenceWaitInstr_keep {s0 : State} (t : Nat) (w : Word) (s : State) (hk : Keep s0 s) : KeepAns s0
    (execFenceWaitInstr t w s) := by
  unfold execFenceWaitInstr
  try dsimp only
  repeat' first
    | with_reducible assumption | with_reducible apply KeepAns.next | with_reducible apply KeepAns.refused
      | with_reducible apply KeepAns.ite | with_reducible apply State.setCore_keep
      | with_reducible apply State.trap_keep | with_reducible apply State.retire_keep
      | with_reducible apply rilax_keep | with_reducible apply State.setG_keep | with_reducible apply KeepEff.retire
      | with_reducible apply KeepEff.hold | with_reducible apply KeepEff.trap | simp only [Keep.upd_iff] | intro _
      | with_reducible apply Keep.ite | split

theorem State.startTriggered_keep {s0 : State} (s : State) (t c : Nat) (hk : Keep s0 s) : Keep s0
    (State.startTriggered s t c) := by
  unfold State.startTriggered
  try dsimp only
  repeat' first
    | with_reducible assumption | with_reducible apply State.beginMover_keep | simp only [Keep.upd_iff]
      | with_reducible apply Keep.foldl | with_reducible apply Keep.foldlPair | intro _
      | with_reducible apply Keep.ite | split

theorem State.fireCmp_keep {s0 : State} (s : State) (t c : Nat) (hk : Keep s0 s) : Keep s0 (State.fireCmp s t c) := by
  unfold State.fireCmp
  try dsimp only
  repeat' first
    | with_reducible assumption | with_reducible apply State.setCore_keep | with_reducible apply State.retire_keep
      | with_reducible apply State.startTriggered_keep | simp only [Keep.upd_iff] | with_reducible apply Keep.ite
      | split

theorem State.armCmp_keep {s0 : State} (s : State) (t c : Nat) (v : Word) (hk : Keep s0 s) : Keep s0 (State.armCmp s
    t c v) := by
  unfold State.armCmp
  try dsimp only
  repeat' first
    | with_reducible assumption | with_reducible apply State.setCore_keep | with_reducible apply State.fireCmp_keep
      | simp only [Keep.upd_iff] | with_reducible apply Keep.ite | split

theorem execPaceArm_keep {s0 : State} (t : Nat) (w : Word) (s : State) (hk : Keep s0 s) : KeepAns s0 (execPaceArm t w
    s) := by
  unfold execPaceArm
  try dsimp only
  repeat' first
    | with_reducible assumption | with_reducible apply KeepAns.next | with_reducible apply KeepAns.refused
      | with_reducible apply State.retire_keep | with_reducible apply rilax_keep
      | with_reducible apply State.armCmp_keep | with_reducible apply KeepEff.retire | simp only [Keep.upd_iff]
      | intro _

theorem execPaceArmRel_keep {s0 : State} (t : Nat) (w : Word) (s : State) (hk : Keep s0 s) : KeepAns s0
    (execPaceArmRel t w s) := by
  unfold execPaceArmRel
  try dsimp only
  repeat' first
    | with_reducible assumption | with_reducible apply KeepAns.next | with_reducible apply KeepAns.refused
      | with_reducible apply State.retire_keep | with_reducible apply rilax_keep
      | with_reducible apply State.armCmp_keep | with_reducible apply KeepEff.retire | simp only [Keep.upd_iff]
      | intro _

theorem execPaceArmDl_keep {s0 : State} (t : Nat) (w : Word) (s : State) (hk : Keep s0 s) : KeepAns s0 (execPaceArmDl
    t w s) := by
  unfold execPaceArmDl
  try dsimp only
  repeat' first
    | with_reducible assumption | with_reducible apply KeepAns.next | with_reducible apply KeepAns.refused
      | with_reducible apply State.setTile_keep | with_reducible apply State.retire_keep
      | with_reducible apply rilax_keep | with_reducible apply KeepEff.retire | simp only [Keep.upd_iff] | intro _
      | split

theorem execPaceWait_keep {s0 : State} (t : Nat) (w : Word) (s : State) (hk : Keep s0 s) : KeepAns s0 (execPaceWait t
    w s) := by
  unfold execPaceWait
  try dsimp only
  repeat' first
    | with_reducible assumption | with_reducible apply KeepAns.next | with_reducible apply KeepAns.refused
      | with_reducible apply KeepAns.ite | with_reducible apply State.setCore_keep
      | with_reducible apply State.trap_keep | with_reducible apply State.retire_keep
      | with_reducible apply rilax_keep | with_reducible apply KeepEff.retire | with_reducible apply KeepEff.hold
      | with_reducible apply KeepEff.trap | simp only [Keep.upd_iff] | intro _ | with_reducible apply Keep.ite | split

theorem State.clearCmp_keep {s0 : State} (s : State) (t c : Nat) (hk : Keep s0 s) : Keep s0 (State.clearCmp s t c) := by
  unfold State.clearCmp
  try dsimp only
  repeat' first
    | with_reducible assumption | with_reducible apply State.setCore_keep | with_reducible apply State.endOp_keep
      | simp only [Keep.upd_iff] | with_reducible apply Keep.foldl | with_reducible apply Keep.foldlPair | intro _
      | with_reducible apply Keep.ite | split

theorem execPaceClear_keep {s0 : State} (t : Nat) (w : Word) (s : State) (hk : Keep s0 s) : KeepAns s0 (execPaceClear
    t w s) := by
  unfold execPaceClear
  try dsimp only
  repeat' first
    | with_reducible assumption | with_reducible apply KeepAns.next | with_reducible apply KeepAns.refused
      | with_reducible apply State.retire_keep | with_reducible apply rilax_keep
      | with_reducible apply State.clearCmp_keep | with_reducible apply KeepEff.retire | simp only [Keep.upd_iff]
      | intro _

theorem execPacerComparatorFire_keep {s0 : State} (t c : Nat) (s : State) (hk : Keep s0 s) : KeepAns s0
    (execPacerComparatorFire t c s) := by
  unfold execPacerComparatorFire
  try dsimp only
  repeat' first
    | with_reducible assumption | with_reducible apply KeepAns.next | with_reducible apply KeepAns.refused
      | with_reducible apply KeepAns.ite | with_reducible apply State.fireCmp_keep | simp only [Keep.upd_iff]
      | intro _ | with_reducible apply Keep.ite | split

theorem execMarkOp_keep {s0 : State} (t : Nat) (w : Word) (s : State) (hk : Keep s0 s) : KeepAns s0 (execMarkOp t w
    s) := by
  unfold execMarkOp
  try dsimp only
  repeat' first
    | with_reducible assumption | with_reducible apply KeepAns.next | with_reducible apply KeepAns.refused
      | with_reducible apply State.setCore_keep | with_reducible apply State.bankSwap_keep
      | with_reducible apply State.retire_keep | with_reducible apply rilax_keep | with_reducible apply KeepEff.retire
      | simp only [Keep.upd_iff] | intro _ | split

theorem execMarkEv_keep {s0 : State} (t : Nat) (w : Word) (s : State) (hk : Keep s0 s) : KeepAns s0 (execMarkEv t w
    s) := by
  unfold execMarkEv
  try dsimp only
  repeat' first
    | with_reducible assumption | with_reducible apply KeepAns.next | with_reducible apply KeepAns.refused
      | with_reducible apply State.traceEmit_keep | with_reducible apply rilax_keep
      | with_reducible apply KeepEff.marked | simp only [Keep.upd_iff] | intro _

theorem execObsRd_keep {s0 : State} (t : Nat) (w : Word) (s : State) (hk : Keep s0 s) : KeepAns s0 (execObsRd t w s)
    := by
  unfold execObsRd
  try dsimp only
  repeat' first
    | with_reducible assumption | with_reducible apply KeepAns.next | with_reducible apply KeepAns.refused
      | with_reducible apply KeepAns.ite | with_reducible apply State.trap_keep
      | with_reducible apply State.retire_keep | with_reducible apply rilax_keep
      | with_reducible apply State.setG_keep | with_reducible apply KeepEff.retire | with_reducible apply KeepEff.trap
      | simp only [Keep.upd_iff] | intro _ | with_reducible apply Keep.ite | split

theorem execSysRead_keep {s0 : State} (t : Nat) (w : Word) (s : State) (hk : Keep s0 s) : KeepAns s0 (execSysRead t w
    s) := by
  unfold execSysRead
  try dsimp only
  repeat' first
    | with_reducible assumption | with_reducible apply KeepAns.next | with_reducible apply KeepAns.refused
      | with_reducible apply State.retire_keep | with_reducible apply rilax_keep
      | with_reducible apply State.setG_keep | with_reducible apply KeepEff.retire | simp only [Keep.upd_iff]
      | intro _

theorem execSysExit_keep {s0 : State} (t : Nat) (w : Word) (s : State) (hk : Keep s0 s) : KeepAns s0 (execSysExit t w
    s) := by
  unfold execSysExit
  try dsimp only
  repeat' first
    | with_reducible assumption | with_reducible apply KeepAns.next | with_reducible apply KeepAns.refused
      | with_reducible apply State.setCore_keep | with_reducible apply State.closeIntakes_keep
      | with_reducible apply State.endWaiting_keep | with_reducible apply State.retire_keep
      | with_reducible apply rilax_keep | with_reducible apply KeepEff.retire | with_reducible apply KeepEff.hold
      | simp only [Keep.upd_iff] | intro _

theorem execSysDist_keep {s0 : State} (t : Nat) (w : Word) (s : State) (hk : Keep s0 s) : KeepAns s0 (execSysDist t w
    s) := by
  unfold execSysDist
  try dsimp only
  repeat' first
    | with_reducible assumption | with_reducible apply KeepAns.next | with_reducible apply KeepAns.refused
      | with_reducible apply KeepAns.ite | with_reducible apply State.trap_keep
      | with_reducible apply State.retire_keep | with_reducible apply rilax_keep
      | with_reducible apply State.setG_keep | with_reducible apply KeepEff.retire | with_reducible apply KeepEff.trap
      | simp only [Keep.upd_iff] | intro _ | with_reducible apply Keep.ite | split

theorem State.takeSlot_keep {s0 : State} (s : State) (t : Nat) (o : EngOp) (hk : Keep s0 s) : Keep s0 (State.takeSlot
    s t o) := by
  unfold State.takeSlot
  try dsimp only
  repeat' first
    | with_reducible assumption | with_reducible apply State.setTile_keep | simp only [Keep.upd_iff]
      | with_reducible apply Keep.ite | split

theorem State.issueEngine_keep {s0 : State} (s : State) (t : Nat) (w x : Word) (r : EngRow)
    (hp : ∀ s o, Keep s0 s → Keep s0 (r.post s o)) (hk : Keep s0 s) : Keep s0 (s.issueEngine t w x r) := by
  have trap : ∀ (n c : Nat), Keep s0 (s.apply t n (.trap c 0)) := fun n c => State.apply_keep _ _ _ _ trivial hk
  unfold State.issueEngine
  dsimp only
  refine Keep.ite (trap _ _) (Keep.ite (State.setCore_keep _ _ _ hk) (Keep.ite (trap _ _) (Keep.ite
    (State.apply_keep _ _ _ _ hk hk) ?_)))
  split
  · exact trap _ _
  · exact Keep.ite (trap _ _) (hp _ _ (State.retire_keep _ _ _ (State.takeSlot_keep _ _ _ hk)))

theorem rilax2_keep {s0 : State} (name : String) (cls op t : Nat) (w : Word) (k : State → State) (s : State)
    (h : ∀ s, Keep s0 s → Keep s0 (k s)) (hk : Keep s0 s) : KeepAns s0 (rilax2 name cls op t w k s) := by
  have trap : ∀ n c, Keep s0 (s.apply t n (.trap c 0)) := fun n c => State.apply_keep _ _ _ _ trivial hk
  unfold rilax2
  split
  · trivial
  · split
    · refine KeepAns.next ?_
      split
      · exact trap _ _
      · exact h _ hk
    · split
      · refine KeepAns.next ?_
        split <;> exact trap _ _
      · trivial

end Sys2Proof.Machine
end

