-- ==== Sys2Proof/Laws/KeepMovers.lean ====
section
/-! SUPPORT. The operations of Machine/Movers.lean keep the queue, the variant and the canonical form of memory. -/

set_option linter.unusedSimpArgs false
set_option linter.unusedTactic false
set_option linter.unreachableTactic false

namespace Sys2Proof.Machine

theorem State.mvPost_keep {s0 : State} (s : State) (t : Nat) (x : Word) (o : EngOp) (hk : Keep s0 s) : Keep s0
    (State.mvPost s t x o) := by
  unfold State.mvPost
  try dsimp only
  repeat' first
    | with_reducible assumption | with_reducible apply State.endOp_keep | with_reducible apply State.beginMover_keep
      | simp only [Keep.upd_iff] | with_reducible apply Keep.ite | split

theorem State.moverUe_keep {s0 : State} (s : State) (t : Nat) (o : EngOp) (at' : List Spot) (new : List Byte) (hk :
    Keep s0 s) : Keep s0 (State.moverUe s t o at' new) := by
  unfold State.moverUe
  try dsimp only
  repeat' first
    | with_reducible assumption | with_reducible apply State.ueRead_keep | with_reducible apply State.closeOp_keep
      | with_reducible apply State.moverStops_keep | with_reducible apply State.safetyStop_keep
      | simp only [Keep.upd_iff] | with_reducible apply Keep.ite | split

theorem State.moved_keep {s0 : State} (s : State) (t : Nat) (o : EngOp) (res : Res) (a b : HostBytes) (hk : Keep s0
    s) : Keep s0 (State.moved s t o res a b) := by
  unfold State.moved
  try dsimp only
  repeat' first
    | with_reducible assumption | with_reducible apply State.writeSpots_keep
      | with_reducible apply State.countEcc_keep | with_reducible apply State.traffic_keep
      | with_reducible apply State.countRefused_keep | with_reducible apply State.countMoved_keep
      | with_reducible apply State.moverStops_keep | with_reducible apply State.endOp_keep
      | with_reducible apply Reply.ok_keep | with_reducible apply State.moverUe_keep | simp only [Keep.upd_iff]
      | split

theorem State.issueMv_keep {s0 : State} (s : State) (t : Nat) (w x : Word) (hk : Keep s0 s) : Keep s0 (State.issueMv
    s t w x) := by
  unfold State.issueMv
  try dsimp only
  repeat' first
    | with_reducible assumption | with_reducible apply State.post_keep | with_reducible apply State.issueEngine_keep
      | with_reducible apply State.mvPost_keep | simp only [Keep.upd_iff] | intro _

theorem execMvCopy_keep {s0 : State} (t : Nat) (w x : Word) (s : State) (hk : Keep s0 s) : KeepAns s0 (execMvCopy t w
    x s) := by
  unfold execMvCopy
  try dsimp only
  repeat' first
    | with_reducible assumption | with_reducible apply KeepAns.next | with_reducible apply KeepAns.refused
      | with_reducible apply rilax2_keep | with_reducible apply State.issueMv_keep | simp only [Keep.upd_iff]
      | intro _

theorem execMvFill_keep {s0 : State} (t : Nat) (w x : Word) (s : State) (hk : Keep s0 s) : KeepAns s0 (execMvFill t w
    x s) := by
  unfold execMvFill
  try dsimp only
  repeat' first
    | with_reducible assumption | with_reducible apply KeepAns.next | with_reducible apply KeepAns.refused
      | with_reducible apply rilax2_keep | with_reducible apply State.issueMv_keep | simp only [Keep.upd_iff]
      | intro _

theorem execMvCmp_keep {s0 : State} (t : Nat) (w x : Word) (s : State) (hk : Keep s0 s) : KeepAns s0 (execMvCmp t w x
    s) := by
  unfold execMvCmp
  try dsimp only
  repeat' first
    | with_reducible assumption | with_reducible apply KeepAns.next | with_reducible apply KeepAns.refused
      | with_reducible apply rilax2_keep | with_reducible apply State.issueMv_keep | simp only [Keep.upd_iff]
      | intro _

theorem execMoverOpComplete_keep {s0 : State} (t mv : Nat) (res : Res) (a b : HostBytes) (s : State) (hk : Keep s0 s)
    : KeepAns s0 (execMoverOpComplete t mv res a b s) := by
  unfold execMoverOpComplete
  try dsimp only
  repeat' first
    | with_reducible assumption | with_reducible apply KeepAns.next | with_reducible apply KeepAns.refused
      | with_reducible apply KeepAns.ite | with_reducible apply State.moved_keep | simp only [Keep.upd_iff] | intro _
      | with_reducible apply Keep.ite | split

end Sys2Proof.Machine
end

