-- ==== Sys2Proof/Laws/KeepTensors.lean ====
section
/-! SUPPORT. The operations of Machine/Tensors.lean keep the queue, the variant and the canonical form of memory. -/

set_option linter.unusedSimpArgs false
set_option linter.unusedTactic false
set_option linter.unreachableTactic false

namespace Sys2Proof.Machine

theorem State.writeAt_keep {s0 : State} (s : State) (t a : Nat) (bs : List Byte) (hk : Keep s0 s) : Keep s0
    (State.writeAt s t a bs) := by
  unfold State.writeAt
  try dsimp only
  repeat' first
    | with_reducible assumption | with_reducible apply State.writeSpots_keep | simp only [Keep.upd_iff]

end Sys2Proof.Machine
end

