-- ==== Sys2Proof/Laws/KeepVector.lean ====
section
/-! SUPPORT. The operations of Machine/Vector.lean keep the queue, the variant and the canonical form of memory. -/

set_option linter.unusedSimpArgs false
set_option linter.unusedTactic false
set_option linter.unreachableTactic false

namespace Sys2Proof.Machine

theorem State.vLoad_keep {s0 : State} (s : State) (t : Nat) (o : EngOp) (hk : Keep s0 s) : Keep s0 (State.vLoad s t
    o) := by
  unfold State.vLoad
  try dsimp only
  repeat' first
    | with_reducible assumption | with_reducible apply State.setCore_keep | simp only [Keep.upd_iff] | intro _

theorem State.vStore_keep {s0 : State} (s : State) (t : Nat) (o : EngOp) (hk : Keep s0 s) : Keep s0 (State.vStore s t
    o) := by
  unfold State.vStore
  try dsimp only
  repeat' first
    | with_reducible assumption | with_reducible apply State.pokeSpots_keep | simp only [Keep.upd_iff] | intro _
      | with_reducible apply Keep.ite | split

theorem State.gateExec_keep {s0 : State} (s : State) (t : Nat) (o : EngOp) (hk : Keep s0 s) : Keep s0 (State.gateExec
    s t o).1 := by
  unfold State.gateExec
  try dsimp only
  repeat' first
    | with_reducible assumption | with_reducible apply State.writeAt_keep | simp only [Keep.upd_iff]
      | with_reducible apply Keep.foldl | with_reducible apply Keep.foldlPair | intro _
      | with_reducible apply Keep.ite | split

theorem State.issueVec_keep {s0 : State} (s : State) (t : Nat) (w x : Word) (hk : Keep s0 s) : Keep s0
    (State.issueVec s t w x) := by
  unfold State.issueVec
  try dsimp only
  repeat' first
    | with_reducible assumption | with_reducible apply State.issueEngine_keep | simp only [Keep.upd_iff] | intro _

theorem State.issueCvt_keep {s0 : State} (s : State) (t : Nat) (w x : Word) (hk : Keep s0 s) : Keep s0
    (State.issueCvt s t w x) := by
  unfold State.issueCvt
  try dsimp only
  repeat' first
    | with_reducible assumption | with_reducible apply State.issueEngine_keep | simp only [Keep.upd_iff] | intro _
      | with_reducible apply Keep.ite | split

theorem State.issueGate_keep {s0 : State} (s : State) (t : Nat) (w x : Word) (hk : Keep s0 s) : Keep s0
    (State.issueGate s t w x) := by
  unfold State.issueGate
  try dsimp only
  repeat' first
    | with_reducible assumption | with_reducible apply State.issueEngine_keep | simp only [Keep.upd_iff] | intro _

theorem execVld_keep {s0 : State} (t : Nat) (w x : Word) (s : State) (hk : Keep s0 s) : KeepAns s0 (execVld t w x s)
    := by
  unfold execVld
  try dsimp only
  repeat' first
    | with_reducible assumption | with_reducible apply KeepAns.next | with_reducible apply KeepAns.refused
      | with_reducible apply rilax2_keep | with_reducible apply State.issueVec_keep | simp only [Keep.upd_iff]
      | intro _

theorem execVst_keep {s0 : State} (t : Nat) (w x : Word) (s : State) (hk : Keep s0 s) : KeepAns s0 (execVst t w x s)
    := by
  unfold execVst
  try dsimp only
  repeat' first
    | with_reducible assumption | with_reducible apply KeepAns.next | with_reducible apply KeepAns.refused
      | with_reducible apply rilax2_keep | with_reducible apply State.issueVec_keep | simp only [Keep.upd_iff]
      | intro _

theorem execVarith_keep {s0 : State} (t : Nat) (w x : Word) (s : State) (hk : Keep s0 s) : KeepAns s0 (execVarith t w
    x s) := by
  unfold execVarith
  try dsimp only
  repeat' first
    | with_reducible assumption | with_reducible apply KeepAns.next | with_reducible apply KeepAns.refused
      | with_reducible apply rilax2_keep | with_reducible apply State.issueVec_keep | simp only [Keep.upd_iff]
      | intro _

theorem execVfma_keep {s0 : State} (t : Nat) (w x : Word) (s : State) (hk : Keep s0 s) : KeepAns s0 (execVfma t w x
    s) := by
  unfold execVfma
  try dsimp only
  repeat' first
    | with_reducible assumption | with_reducible apply KeepAns.next | with_reducible apply KeepAns.refused
      | with_reducible apply rilax2_keep | with_reducible apply State.issueVec_keep | simp only [Keep.upd_iff]
      | intro _

theorem execVsf_keep {s0 : State} (t : Nat) (w x : Word) (s : State) (hk : Keep s0 s) : KeepAns s0 (execVsf t w x s)
    := by
  unfold execVsf
  try dsimp only
  repeat' first
    | with_reducible assumption | with_reducible apply KeepAns.next | with_reducible apply KeepAns.refused
      | with_reducible apply rilax2_keep | with_reducible apply State.issueVec_keep | simp only [Keep.upd_iff]
      | intro _

theorem execVcmp_keep {s0 : State} (t : Nat) (w x : Word) (s : State) (hk : Keep s0 s) : KeepAns s0 (execVcmp t w x
    s) := by
  unfold execVcmp
  try dsimp only
  repeat' first
    | with_reducible assumption | with_reducible apply KeepAns.next | with_reducible apply KeepAns.refused
      | with_reducible apply rilax2_keep | with_reducible apply State.issueVec_keep | simp only [Keep.upd_iff]
      | intro _

theorem execVred_keep {s0 : State} (t : Nat) (w x : Word) (s : State) (hk : Keep s0 s) : KeepAns s0 (execVred t w x
    s) := by
  unfold execVred
  try dsimp only
  repeat' first
    | with_reducible assumption | with_reducible apply KeepAns.next | with_reducible apply KeepAns.refused
      | with_reducible apply rilax2_keep | with_reducible apply State.issueVec_keep | simp only [Keep.upd_iff]
      | intro _

theorem execVbcast_keep {s0 : State} (t : Nat) (w x : Word) (s : State) (hk : Keep s0 s) : KeepAns s0 (execVbcast t w
    x s) := by
  unfold execVbcast
  try dsimp only
  repeat' first
    | with_reducible assumption | with_reducible apply KeepAns.next | with_reducible apply KeepAns.refused
      | with_reducible apply rilax2_keep | with_reducible apply State.issueVec_keep | simp only [Keep.upd_iff]
      | intro _

theorem execVsel_keep {s0 : State} (t : Nat) (w x : Word) (s : State) (hk : Keep s0 s) : KeepAns s0 (execVsel t w x
    s) := by
  unfold execVsel
  try dsimp only
  repeat' first
    | with_reducible assumption | with_reducible apply KeepAns.next | with_reducible apply KeepAns.refused
      | with_reducible apply rilax2_keep | with_reducible apply State.issueVec_keep | simp only [Keep.upd_iff]
      | intro _

theorem execVmask_keep {s0 : State} (t : Nat) (w x : Word) (s : State) (hk : Keep s0 s) : KeepAns s0 (execVmask t w x
    s) := by
  unfold execVmask
  try dsimp only
  repeat' first
    | with_reducible assumption | with_reducible apply KeepAns.next | with_reducible apply KeepAns.refused
      | with_reducible apply rilax2_keep | with_reducible apply State.issueVec_keep | simp only [Keep.upd_iff]
      | intro _

theorem execCvt_keep {s0 : State} (t : Nat) (w x : Word) (s : State) (hk : Keep s0 s) : KeepAns s0 (execCvt t w x s)
    := by
  unfold execCvt
  try dsimp only
  repeat' first
    | with_reducible assumption | with_reducible apply KeepAns.next | with_reducible apply KeepAns.refused
      | with_reducible apply rilax2_keep | with_reducible apply State.issueCvt_keep | simp only [Keep.upd_iff]
      | intro _

theorem execGateTopk_keep {s0 : State} (t : Nat) (w x : Word) (s : State) (hk : Keep s0 s) : KeepAns s0 (execGateTopk
    t w x s) := by
  unfold execGateTopk
  try dsimp only
  repeat' first
    | with_reducible assumption | with_reducible apply KeepAns.next | with_reducible apply KeepAns.refused
      | with_reducible apply rilax2_keep | with_reducible apply State.issueGate_keep | simp only [Keep.upd_iff]
      | intro _

theorem State.vecEffect_keep {s0 : State} (s : State) (t : Nat) (o : EngOp) (hk : Keep s0 s) : Keep s0
    (State.vecEffect s t o).1 := by
  unfold State.vecEffect
  try dsimp only
  repeat' first
    | with_reducible assumption | with_reducible apply State.setCore_keep | with_reducible apply State.vLoad_keep
      | with_reducible apply State.vStore_keep | with_reducible apply State.gateExec_keep | simp only [Keep.upd_iff]
      | with_reducible refine Keep.ofFst (by assumption) ?_ | with_reducible apply Keep.ite | split

theorem execVectorOpComplete_keep {s0 : State} (t : Nat) (res : Res) (s : State) (hk : Keep s0 s) : KeepAns s0
    (execVectorOpComplete t res s) := by
  unfold execVectorOpComplete
  try dsimp only
  repeat' first
    | with_reducible assumption | with_reducible apply KeepAns.next | with_reducible apply KeepAns.refused
      | with_reducible apply KeepAns.ite | with_reducible apply State.count_keep
      | with_reducible apply State.countEcc_keep | with_reducible apply State.endOp_keep
      | with_reducible apply State.readUe_keep | with_reducible apply State.vecEffect_keep | simp only [Keep.upd_iff]
      | with_reducible refine Keep.ofFst (by assumption) ?_ | intro _ | with_reducible apply Keep.ite | split

end Sys2Proof.Machine
end

