-- ==== Sys2Proof/Laws/KeepTensor.lean ====
section
/-! SUPPORT. The operations of Machine/Tensor.lean keep the queue, the variant and the canonical form of memory. -/

set_option linter.unusedSimpArgs false
set_option linter.unusedTactic false
set_option linter.unreachableTactic false

namespace Sys2Proof.Machine

theorem State.tnWatch_keep {s0 : State} (s : State) (t : Nat) (o : EngOp) (hk : Keep s0 s) : Keep s0 (State.tnWatch s
    t o) := by
  unfold State.tnWatch
  try dsimp only
  repeat' first
    | with_reducible assumption | simp only [Keep.upd_iff] | intro _

theorem State.issueTensor_keep {s0 : State} (s : State) (t : Nat) (w x : Word) (hk : Keep s0 s) : Keep s0
    (State.issueTensor s t w x) := by
  unfold State.issueTensor
  try dsimp only
  repeat' first
    | with_reducible assumption | with_reducible apply State.post_keep | with_reducible apply State.issueEngine_keep
      | with_reducible apply State.tnWatch_keep | simp only [Keep.upd_iff] | intro _

theorem execMma_keep {s0 : State} (t : Nat) (w x : Word) (s : State) (hk : Keep s0 s) : KeepAns s0 (execMma t w x s)
    := by
  unfold execMma
  try dsimp only
  repeat' first
    | with_reducible assumption | with_reducible apply KeepAns.next | with_reducible apply KeepAns.refused
      | with_reducible apply rilax2_keep | with_reducible apply State.issueTensor_keep | simp only [Keep.upd_iff]
      | intro _

theorem execMmaS24_keep {s0 : State} (t : Nat) (w x : Word) (s : State) (hk : Keep s0 s) : KeepAns s0 (execMmaS24 t w
    x s) := by
  unfold execMmaS24
  try dsimp only
  repeat' first
    | with_reducible assumption | with_reducible apply KeepAns.next | with_reducible apply KeepAns.refused
      | with_reducible apply rilax2_keep | with_reducible apply State.issueTensor_keep | simp only [Keep.upd_iff]
      | intro _

theorem execMmaSeed_keep {s0 : State} (t : Nat) (w x : Word) (s : State) (hk : Keep s0 s) : KeepAns s0 (execMmaSeed t
    w x s) := by
  unfold execMmaSeed
  try dsimp only
  repeat' first
    | with_reducible assumption | with_reducible apply KeepAns.next | with_reducible apply KeepAns.refused
      | with_reducible apply rilax2_keep | with_reducible apply State.issueTensor_keep | simp only [Keep.upd_iff]
      | intro _

theorem execMmaRowmask_keep {s0 : State} (t : Nat) (w x : Word) (s : State) (hk : Keep s0 s) : KeepAns s0
    (execMmaRowmask t w x s) := by
  unfold execMmaRowmask
  try dsimp only
  repeat' first
    | with_reducible assumption | with_reducible apply KeepAns.next | with_reducible apply KeepAns.refused
      | with_reducible apply rilax2_keep | with_reducible apply State.issueTensor_keep | simp only [Keep.upd_iff]
      | intro _

theorem State.putRow_keep {s0 : State} (s : State) (t : Nat) (d : BitVec 256) (i c0 : Nat) (r : List Byte × List Byte
    × Nat) (hk : Keep s0 s) : Keep s0 (State.putRow s t d i c0 r) := by
  unfold State.putRow
  try dsimp only
  repeat' first
    | with_reducible assumption | with_reducible apply State.writeAt_keep | simp only [Keep.upd_iff]
      | with_reducible apply Keep.ite | split

theorem TRun.foldl_keep {s0 : State} {α : Type} {r : TRun} (hk : Keep s0 r.s) (l : List α) (f : TRun → α → TRun)
    (hf : ∀ r x, Keep s0 r.s → Keep s0 (f r x).s) : Keep s0 (l.foldl f r).s := by
  induction l generalizing r with
  | nil => exact hk
  | cons x l ih => exact ih (hf r x hk)

theorem TRun.super_keep {s0 : State} (r : TRun) (t : Nat) (o : EngOp) (dd : Nat) (h : Option HeldSet) (sr : Nat)
    (rows : List (Nat × Nat × KRow)) (c0 : Nat) (cols : List KRow) (hk : Keep s0 r.s) :
    Keep s0 (r.super t o dd h sr rows c0 cols).s := by
  unfold TRun.super
  apply TRun.foldl_keep hk
  intro r x hk
  dsimp only
  repeat' split
  all_goals first
    | exact hk
    | exact State.count_keep _ _ _ _ (State.putRow_keep _ _ _ _ _ _ hk)

theorem TRun.all_keep {s0 : State} (r : TRun) (t : Nat) (o : EngOp) (dd : Nat) (h : Option HeldSet)
    (rows : List (Nat × KRow)) (cols : List KRow) (stopAt : Option Nat) (cut : Option Cut) (hk : Keep s0 r.s) :
    Keep s0 (r.all t o dd h rows cols stopAt cut).s := by
  unfold TRun.all
  dsimp only
  apply TRun.foldl_keep hk
  intro r x hk
  apply TRun.foldl_keep hk
  intro r x hk
  repeat' split
  all_goals first
    | exact hk
    | exact TRun.super_keep _ _ _ _ _ _ _ _ _ hk

theorem State.markOp_keep {s0 : State} (s : State) (t id : Nat) (f : EngOp → EngOp) (hk : Keep s0 s) : Keep s0
    (State.markOp s t id f) := by
  unfold State.markOp
  try dsimp only
  repeat' first
    | with_reducible assumption | with_reducible apply State.setTile_keep | simp only [Keep.upd_iff] | intro _

theorem State.dropHeld_keep {s0 : State} (s : State) (t : Nat) (o : EngOp) (hk : Keep s0 s) : Keep s0 (State.dropHeld
    s t o) := by
  unfold State.dropHeld
  try dsimp only
  repeat' first
    | with_reducible assumption | with_reducible apply State.setTile_keep | simp only [Keep.upd_iff]
      | with_reducible apply Keep.ite | split

theorem State.checkStop_keep {s0 : State} (s : State) (t code array row : Nat) (hk : Keep s0 s) : Keep s0
    (State.checkStop s t code array row) := by
  unfold State.checkStop
  try dsimp only
  repeat' first
    | with_reducible assumption | with_reducible apply State.raiseSafety_keep
      | with_reducible apply State.safetyStop_keep | simp only [Keep.upd_iff]

theorem State.tnStart_keep {s0 : State} (s : State) (t : Nat) (o : EngOp) (cut : Option (Nat × Cut)) (hk : Keep s0 s)
    : Keep s0 (State.tnStart s t o cut) := by
  unfold State.tnStart
  try dsimp only
  repeat' first
    | with_reducible assumption | with_reducible apply State.setTile_keep | with_reducible apply State.count_keep
      | with_reducible apply State.endOp_keep | with_reducible apply TRun.all_keep
      | with_reducible apply State.markOp_keep | with_reducible apply State.dropHeld_keep
      | with_reducible apply State.checkStop_keep | simp only [Keep.upd_iff] | intro _ | with_reducible apply Keep.ite
      | split

theorem execTensorOpStart_keep {s0 : State} (t : Nat) (res : Res) (s : State) (hk : Keep s0 s) : KeepAns s0
    (execTensorOpStart t res s) := by
  unfold execTensorOpStart
  try dsimp only
  repeat' first
    | with_reducible assumption | with_reducible apply KeepAns.next | with_reducible apply KeepAns.refused
      | with_reducible apply KeepAns.ite | with_reducible apply State.countEcc_keep
      | with_reducible apply State.readUe_keep | with_reducible apply State.tnStart_keep | simp only [Keep.upd_iff]
      | intro _ | with_reducible apply Keep.ite | split

theorem State.blurRows_keep {s0 : State} (s : State) (t : Nat) (o : EngOp) (hk : Keep s0 s) : Keep s0 (State.blurRows
    s t o) := by
  unfold State.blurRows
  try dsimp only
  repeat' first
    | with_reducible assumption | with_reducible apply State.pokeSpots_keep | simp only [Keep.upd_iff] | intro _
      | split

theorem execTensorOpComplete_keep {s0 : State} (t : Nat) (s : State) (hk : Keep s0 s) : KeepAns s0
    (execTensorOpComplete t s) := by
  unfold execTensorOpComplete
  try dsimp only
  repeat' first
    | with_reducible assumption | with_reducible apply KeepAns.next | with_reducible apply KeepAns.refused
      | with_reducible apply KeepAns.ite | with_reducible apply State.draw_keep
      | with_reducible apply State.count_keep | with_reducible apply State.endOp_keep
      | with_reducible apply State.blurRows_keep | simp only [Keep.upd_iff]
      | with_reducible refine Keep.ofSnd (by assumption) ?_ | intro _ | with_reducible apply Keep.ite | split

theorem execTensorCheckFail_keep {s0 : State} (t code array row : Nat) (s : State) (hk : Keep s0 s) : KeepAns s0
    (execTensorCheckFail t code array row s) := by
  unfold execTensorCheckFail
  try dsimp only
  repeat' first
    | with_reducible assumption | with_reducible apply KeepAns.next | with_reducible apply KeepAns.refused
      | with_reducible apply State.tnStart_keep | simp only [Keep.upd_iff] | intro _ | split

end Sys2Proof.Machine
end

