-- ==== Sys2Proof/Laws/KeepExchange.lean ====
section
/-! SUPPORT. The operations of Machine/Exchange.lean keep the queue, the variant and the canonical form of memory. -/

set_option linter.unusedSimpArgs false
set_option linter.unusedTactic false
set_option linter.unreachableTactic false

namespace Sys2Proof.Machine

theorem State.useCredit_keep {s0 : State} (s : State) (t : Nat) (m : Outgoing) (hk : Keep s0 s) : Keep s0
    (State.useCredit s t m) := by
  unfold State.useCredit
  try dsimp only
  repeat' first
    | with_reducible assumption | with_reducible apply State.setTile_keep | simp only [Keep.upd_iff]
      | with_reducible apply Keep.ite | split

theorem pumpList_keep {s0 : State} (t : Nat) (r : Run) (l : List Outgoing) : ∀ (n : Nat) (un : List Sent) (kept : List Outgoing)
    (s : State), Keep s0 s → Keep s0 (pumpList t r n un kept l s).s := by
  induction l with
  | nil => intro n un kept s hk; cases n <;> exact hk
  | cons m l ih =>
    intro n un kept s hk
    cases n with
    | zero => exact hk
    | succ n =>
      unfold pumpList
      dsimp only
      split
      · exact ih _ _ _ _ hk
      · split
        · exact ih _ _ _ _ hk
        · split
          · exact ih _ _ _ _ hk
          · exact ih _ _ _ _ (State.count_keep _ _ _ _ (State.sendMsg_keep _ _ _ _ _ _ _ _ _ _ _
              (Keep.ite (State.useCredit_keep _ _ _ hk) hk)))

theorem State.unsend_keep {s0 : State} (s : State) (t : Nat) (o : EngOp) (sent : List Sent) (l : List Outgoing) (hk :
    Keep s0 s) : Keep s0 (State.unsend s t o sent l) := by
  unfold State.unsend
  try dsimp only
  repeat' first
    | with_reducible assumption | with_reducible apply State.setTile_keep | simp only [Keep.upd_iff]
      | with_reducible apply Keep.foldl | with_reducible apply Keep.foldlPair | intro _
      | with_reducible apply Keep.ite | split

theorem State.pumpOp_keep {s0 : State} (s : State) (t id : Nat) (hk : Keep s0 s) : Keep s0 (State.pumpOp s t id) := by
  unfold State.pumpOp
  try dsimp only
  repeat' first
    | with_reducible assumption | with_reducible apply Reply.fail_keep | with_reducible apply State.markOp_keep
      | with_reducible apply pumpList_keep | with_reducible apply State.unsend_keep | simp only [Keep.upd_iff]
      | intro _ | split

theorem State.pump_keep {s0 : State} (s : State) (t : Nat) (hk : Keep s0 s) : Keep s0 (State.pump s t) := by
  unfold State.pump
  try dsimp only
  repeat' first
    | with_reducible assumption | with_reducible apply State.pumpOp_keep | simp only [Keep.upd_iff]
      | with_reducible apply Keep.foldl | with_reducible apply Keep.foldlPair | intro _

theorem State.queueOut_keep {s0 : State} (s : State) (t id : Nat) (l : List Outgoing) (hk : Keep s0 s) : Keep s0
    (State.queueOut s t id l) := by
  unfold State.queueOut
  try dsimp only
  repeat' first
    | with_reducible assumption | with_reducible apply State.markOp_keep | simp only [Keep.upd_iff] | intro _

theorem State.sendBytes_keep {s0 : State} (s : State) (t : Nat) (va : Word) (n : Nat) (hk : Keep s0 s) : Keep s0
    (State.sendBytes s t va n).2 := by
  unfold State.sendBytes
  try dsimp only
  repeat' first
    | with_reducible assumption | simp only [Keep.upd_iff]

theorem State.startDisp_keep {s0 : State} (s : State) (t : Nat) (r : Run) (o : EngOp) (hk : Keep s0 s) : Keep s0
    (State.startDisp s t r o) := by
  unfold State.startDisp
  try dsimp only
  repeat' first
    | with_reducible assumption | with_reducible apply State.setTile_keep | with_reducible apply State.count_keep
      | with_reducible apply State.writeAt_keep | with_reducible apply TRun.all_keep
      | with_reducible apply State.markOp_keep | with_reducible apply State.queueOut_keep | simp only [Keep.upd_iff]
      | with_reducible apply Keep.foldl | with_reducible apply Keep.foldlPair | intro _
      | with_reducible apply Keep.ite | split

theorem State.startComb_keep {s0 : State} (s : State) (t : Nat) (r : Run) (o : EngOp) (hk : Keep s0 s) : Keep s0
    (State.startComb s t r o) := by
  unfold State.startComb
  try dsimp only
  repeat' first
    | with_reducible assumption | with_reducible apply State.markOp_keep | with_reducible apply State.queueOut_keep
      | simp only [Keep.upd_iff] | with_reducible apply Keep.foldl | with_reducible apply Keep.foldlPair | intro _
      | with_reducible apply Keep.ite | split

theorem State.combSums_keep {s0 : State} (s : State) (t : Nat) (o : EngOp) (q : Round) (hk : Keep s0 s) : Keep s0
    (State.combSums s t o q).1 := by
  unfold State.combSums
  try dsimp only
  repeat' first
    | with_reducible assumption | with_reducible apply State.writeAt_keep | simp only [Keep.upd_iff]
      | with_reducible apply Keep.foldl | with_reducible apply Keep.foldlPair | intro _
      | with_reducible apply Keep.ite | split

theorem State.copyRow_keep {s0 : State} (s : State) (t : Nat) (dst : BitVec 256) (i : Nat) (src : BitVec 256) (j :
    Nat) (hk : Keep s0 s) : Keep s0 (State.copyRow s t dst i src j) := by
  unfold State.copyRow
  try dsimp only
  repeat' first
    | with_reducible assumption | with_reducible apply State.writeAt_keep | simp only [Keep.upd_iff]
      | with_reducible apply Keep.ite | split

theorem State.gatherRows_keep {s0 : State} (s : State) (t : Nat) (o : EngOp) (hk : Keep s0 s) : Keep s0
    (State.gatherRows s t o) := by
  unfold State.gatherRows
  try dsimp only
  repeat' first
    | with_reducible assumption | with_reducible apply State.writeAt_keep | with_reducible apply State.copyRow_keep
      | simp only [Keep.upd_iff] | with_reducible apply Keep.foldl | with_reducible apply Keep.foldlPair | intro _

theorem State.scatterRows_keep {s0 : State} (s : State) (t : Nat) (o : EngOp) (hk : Keep s0 s) : Keep s0
    (State.scatterRows s t o).1 := by
  unfold State.scatterRows
  try dsimp only
  repeat' first
    | with_reducible assumption | with_reducible apply State.copyRow_keep | simp only [Keep.upd_iff]
      | with_reducible apply Keep.foldl | with_reducible apply Keep.foldlPair | intro _
      | with_reducible apply Keep.ite | split

theorem State.recvTake_keep {s0 : State} (s : State) (t : Nat) (o : EngOp) (m : Msg) (hk : Keep s0 s) : Keep s0
    (State.recvTake s t o m) := by
  unfold State.recvTake
  try dsimp only
  repeat' first
    | with_reducible assumption | with_reducible apply State.writeSpots_keep | with_reducible apply State.markOp_keep
      | simp only [Keep.upd_iff] | intro _ | with_reducible apply Keep.ite | split

theorem State.holdSend_keep {s0 : State} (s : State) (t : Nat) (m : Msg) (hk : Keep s0 s) : Keep s0 (State.holdSend s
    t m) := by
  unfold State.holdSend
  try dsimp only
  repeat' first
    | with_reducible assumption | with_reducible apply State.setTile_keep | with_reducible apply State.recvTake_keep
      | simp only [Keep.upd_iff] | intro _ | split

theorem State.startPut_keep {s0 : State} (s : State) (t : Nat) (r : Run) (o : EngOp) (hk : Keep s0 s) : Keep s0
    (State.startPut s t r o) := by
  unfold State.startPut
  try dsimp only
  repeat' first
    | with_reducible assumption | with_reducible apply State.queueOut_keep | with_reducible apply State.sendBytes_keep
      | simp only [Keep.upd_iff] | with_reducible refine Keep.ofSnd (by assumption) ?_ | intro _ | split

theorem State.startGet_keep {s0 : State} (s : State) (t : Nat) (r : Run) (o : EngOp) (hk : Keep s0 s) : Keep s0
    (State.startGet s t r o) := by
  unfold State.startGet
  try dsimp only
  repeat' first
    | with_reducible assumption | with_reducible apply State.queueOut_keep | simp only [Keep.upd_iff]

theorem State.startSend_keep {s0 : State} (s : State) (t : Nat) (r : Run) (o : EngOp) (hk : Keep s0 s) : Keep s0
    (State.startSend s t r o) := by
  unfold State.startSend
  try dsimp only
  repeat' first
    | with_reducible assumption | with_reducible apply State.queueOut_keep | with_reducible apply State.sendBytes_keep
      | simp only [Keep.upd_iff] | with_reducible refine Keep.ofSnd (by assumption) ?_ | split

theorem State.collPart_keep {s0 : State} (s : State) (t : Nat) (r : Run) (o : EngOp) (src seg flags : Nat) (bs : List
    Byte) (hk : Keep s0 s) : Keep s0 (State.collPart s t r o src seg flags bs) := by
  unfold State.collPart
  try dsimp only
  repeat' first
    | with_reducible assumption | with_reducible apply State.writeAt_keep | with_reducible apply State.markOp_keep
      | with_reducible apply State.queueOut_keep | simp only [Keep.upd_iff] | with_reducible apply Keep.foldl
      | with_reducible apply Keep.foldlPair | intro _ | with_reducible apply Keep.ite | split

theorem State.readFirst_keep {s0 : State} (s : State) (t : Nat) (o : EngOp) (go : State → State)
    (hg : ∀ s, Keep s0 s → Keep s0 (go s)) (hk : Keep s0 s) : Keep s0 (s.readFirst t o go) := by
  unfold State.readFirst
  dsimp only
  split
  · exact State.readUe_keep _ _ _ hk
  · split
    · exact State.markOp_keep _ _ _ _ (State.countRefused_keep _ _ _ hk)
    · have ht := State.traffic_keep s (s.exReads t o) 0 t hk
      exact hg _ ⟨ht.pending, ht.variant, ht.mem⟩

theorem State.collBegin_keep {s0 : State} (s : State) (t : Nat) (r : Run) (o : EngOp) (hk : Keep s0 s) : Keep s0
    (State.collBegin s t r o) := by
  unfold State.collBegin
  try dsimp only
  repeat' first
    | with_reducible assumption | with_reducible apply State.writeAt_keep | with_reducible apply State.markOp_keep
      | with_reducible apply State.queueOut_keep | with_reducible apply State.readFirst_keep
      | simp only [Keep.upd_iff] | intro _ | with_reducible apply Keep.ite | split

theorem State.takeContrib_keep {s0 : State} (s : State) (t : Nat) (r : Run) (id : Nat) (m : Msg) (hk : Keep s0 s) :
    Keep s0 (State.takeContrib s t r id m) := by
  unfold State.takeContrib
  try dsimp only
  repeat' first
    | with_reducible assumption | with_reducible apply Reply.fail_keep | with_reducible apply State.markOp_keep
      | with_reducible apply State.collPart_keep | simp only [Keep.upd_iff] | intro _ | with_reducible apply Keep.ite
      | split

theorem State.takeContribs_keep {s0 : State} (s : State) (t : Nat) (r : Run) (id : Nat) (data : Bool) (hk : Keep s0
    s) : Keep s0 (State.takeContribs s t r id data) := by
  unfold State.takeContribs
  try dsimp only
  repeat' first
    | with_reducible assumption | with_reducible apply State.setTile_keep
      | with_reducible apply State.takeContrib_keep | simp only [Keep.upd_iff] | with_reducible apply Keep.foldl
      | with_reducible apply Keep.foldlPair | intro _ | split

theorem State.collAdvance_keep {s0 : State} (s : State) (t : Nat) (r : Run) (id : Nat) (hk : Keep s0 s) : Keep s0
    (State.collAdvance s t r id) := by
  unfold State.collAdvance
  try dsimp only
  repeat' first
    | with_reducible assumption | with_reducible apply State.collBegin_keep
      | with_reducible apply State.takeContribs_keep | simp only [Keep.upd_iff] | intro _
      | with_reducible apply Keep.ite | split

theorem State.startColl_keep {s0 : State} (s : State) (t : Nat) (r : Run) (o : EngOp) (hk : Keep s0 s) : Keep s0
    (State.startColl s t r o) := by
  unfold State.startColl
  try dsimp only
  repeat' first
    | with_reducible assumption | with_reducible apply State.setCore_keep | with_reducible apply State.markOp_keep
      | with_reducible apply State.queueOut_keep | with_reducible apply State.collAdvance_keep
      | simp only [Keep.upd_iff] | intro _ | with_reducible apply Keep.ite | split

theorem State.tryHeld_keep {s0 : State} (s : State) (t : Nat) (m : Msg) (hk : Keep s0 s) : Keep s0 (State.tryHeld s t
    m).1 := by
  unfold State.tryHeld
  try dsimp only
  repeat' first
    | with_reducible assumption | with_reducible apply State.setTile_keep | with_reducible apply State.holdSend_keep
      | with_reducible apply State.collAdvance_keep | simp only [Keep.upd_iff] | intro _
      | with_reducible apply Keep.ite | split

theorem State.retryHeld_keep {s0 : State} (s : State) (t : Nat) (hk : Keep s0 s) : Keep s0 (State.retryHeld s t) := by
  unfold State.retryHeld
  try dsimp only
  repeat' first
    | with_reducible assumption | with_reducible apply State.setTile_keep | with_reducible apply State.answer_keep
      | with_reducible apply State.sendCredit_keep | with_reducible apply State.tryHeld_keep
      | simp only [Keep.upd_iff] | with_reducible apply Keep.foldl | with_reducible apply Keep.foldlPair
      | with_reducible refine Keep.ofFst (by assumption) ?_ | intro _ | with_reducible apply Keep.ite | split

theorem resumeTake_keep {s0 : State} (t : Nat) (s : State) (rd : Nat) (v : Word) (hk : Keep s0 s) : Keep s0
    (resumeTake t s rd v) := by
  unfold resumeTake
  try dsimp only
  repeat' first
    | with_reducible assumption | with_reducible apply State.retire_keep | with_reducible apply State.setG_keep
      | simp only [Keep.upd_iff]

theorem State.settle_keep {s0 : State} (s : State) (t : Nat) (hk : Keep s0 s) : Keep s0 (State.settle s t) := by
  unfold State.settle
  try dsimp only
  repeat' first
    | with_reducible assumption | with_reducible apply State.settleIntakes_keep | with_reducible apply State.pump_keep
      | with_reducible apply State.retryHeld_keep | with_reducible apply resumeTake_keep | simp only [Keep.upd_iff]

theorem State.exStart_keep {s0 : State} (s : State) (t : Nat) (r : Run) (o : EngOp) (hk : Keep s0 s) : Keep s0
    (State.exStart s t r o) := by
  unfold State.exStart
  try dsimp only
  repeat' first
    | with_reducible assumption | with_reducible apply State.setTile_keep | with_reducible apply State.markOp_keep
      | with_reducible apply State.startDisp_keep | with_reducible apply State.startComb_keep
      | with_reducible apply State.recvTake_keep | with_reducible apply State.startPut_keep
      | with_reducible apply State.startGet_keep | with_reducible apply State.startSend_keep
      | with_reducible apply State.readFirst_keep | with_reducible apply State.startColl_keep
      | simp only [Keep.upd_iff] | intro _ | split

theorem State.exBegin_keep {s0 : State} (s : State) (t : Nat) (o : EngOp) (hk : Keep s0 s) : Keep s0 (State.exBegin s
    t o) := by
  unfold State.exBegin
  try dsimp only
  repeat' first
    | with_reducible assumption | with_reducible apply State.wakeFor_keep | with_reducible apply State.sendCut_keep
      | with_reducible apply State.markOp_keep | with_reducible apply State.exStart_keep | simp only [Keep.upd_iff]
      | intro _ | split

theorem State.advance_keep {s0 : State} (t : Nat) : ∀ (n : Nat) (s : State), Keep s0 s → Keep s0 (State.advance n s t) := by
  intro n
  induction n with
  | zero => intro s hk; exact State.settle_keep _ _ hk
  | succ n ih =>
    intro s hk
    have h := State.settle_keep _ t hk
    unfold State.advance
    dsimp only
    split
    · exact h
    · exact Keep.ite h (Keep.ite (State.wakeFor_keep _ _ _ h) (ih _ (State.exBegin_keep _ _ _ h)))

theorem State.proceed_keep {s0 : State} (s : State) (t : Nat) (hk : Keep s0 s) : Keep s0 (State.proceed s t) := by
  unfold State.proceed
  try dsimp only
  repeat' first
    | with_reducible assumption | with_reducible apply State.advance_keep | simp only [Keep.upd_iff]

theorem State.collsOn_keep {s0 : State} (s : State) (t : Nat) (hk : Keep s0 s) : Keep s0 (State.collsOn s t) := by
  unfold State.collsOn
  try dsimp only
  repeat' first
    | with_reducible assumption | with_reducible apply State.collAdvance_keep | simp only [Keep.upd_iff]
      | with_reducible apply Keep.foldl | with_reducible apply Keep.foldlPair | intro _
      | with_reducible apply Keep.ite | split

theorem State.unitsGo_keep {s0 : State} (s : State) (hk : Keep s0 s) : Keep s0 (State.unitsGo s) := by
  unfold State.unitsGo
  try dsimp only
  repeat' first
    | with_reducible assumption | with_reducible apply State.proceed_keep | with_reducible apply State.collsOn_keep
      | simp only [Keep.upd_iff] | with_reducible apply Keep.foldl | with_reducible apply Keep.foldlPair | intro _
      | with_reducible apply Keep.ite | split

theorem State.issueEx_keep {s0 : State} (s : State) (t : Nat) (w x : Word) (hk : Keep s0 s) : Keep s0 (State.issueEx
    s t w x) := by
  unfold State.issueEx
  try dsimp only
  repeat' first
    | with_reducible assumption | with_reducible apply State.post_keep | with_reducible apply State.issueEngine_keep
      | with_reducible apply State.proceed_keep | simp only [Keep.upd_iff] | intro _

theorem execDisp_keep {s0 : State} (t : Nat) (w x : Word) (s : State) (hk : Keep s0 s) : KeepAns s0 (execDisp t w x
    s) := by
  unfold execDisp
  try dsimp only
  repeat' first
    | with_reducible assumption | with_reducible apply KeepAns.next | with_reducible apply KeepAns.refused
      | with_reducible apply rilax2_keep | with_reducible apply State.issueEx_keep | simp only [Keep.upd_iff]
      | intro _

theorem execComb_keep {s0 : State} (t : Nat) (w x : Word) (s : State) (hk : Keep s0 s) : KeepAns s0 (execComb t w x
    s) := by
  unfold execComb
  try dsimp only
  repeat' first
    | with_reducible assumption | with_reducible apply KeepAns.next | with_reducible apply KeepAns.refused
      | with_reducible apply rilax2_keep | with_reducible apply State.issueEx_keep | simp only [Keep.upd_iff]
      | intro _

theorem execCombSum_keep {s0 : State} (t : Nat) (w x : Word) (s : State) (hk : Keep s0 s) : KeepAns s0 (execCombSum t
    w x s) := by
  unfold execCombSum
  try dsimp only
  repeat' first
    | with_reducible assumption | with_reducible apply KeepAns.next | with_reducible apply KeepAns.refused
      | with_reducible apply rilax2_keep | with_reducible apply State.issueEx_keep | simp only [Keep.upd_iff]
      | intro _

theorem execCompactG_keep {s0 : State} (t : Nat) (w x : Word) (s : State) (hk : Keep s0 s) : KeepAns s0 (execCompactG
    t w x s) := by
  unfold execCompactG
  try dsimp only
  repeat' first
    | with_reducible assumption | with_reducible apply KeepAns.next | with_reducible apply KeepAns.refused
      | with_reducible apply rilax2_keep | with_reducible apply State.issueEx_keep | simp only [Keep.upd_iff]
      | intro _

theorem execCompactS_keep {s0 : State} (t : Nat) (w x : Word) (s : State) (hk : Keep s0 s) : KeepAns s0 (execCompactS
    t w x s) := by
  unfold execCompactS
  try dsimp only
  repeat' first
    | with_reducible assumption | with_reducible apply KeepAns.next | with_reducible apply KeepAns.refused
      | with_reducible apply rilax2_keep | with_reducible apply State.issueEx_keep | simp only [Keep.upd_iff]
      | intro _

theorem execSend_keep {s0 : State} (t : Nat) (w x : Word) (s : State) (hk : Keep s0 s) : KeepAns s0 (execSend t w x
    s) := by
  unfold execSend
  try dsimp only
  repeat' first
    | with_reducible assumption | with_reducible apply KeepAns.next | with_reducible apply KeepAns.refused
      | with_reducible apply rilax2_keep | with_reducible apply State.issueEx_keep | simp only [Keep.upd_iff]
      | intro _

theorem execRecv_keep {s0 : State} (t : Nat) (w x : Word) (s : State) (hk : Keep s0 s) : KeepAns s0 (execRecv t w x
    s) := by
  unfold execRecv
  try dsimp only
  repeat' first
    | with_reducible assumption | with_reducible apply KeepAns.next | with_reducible apply KeepAns.refused
      | with_reducible apply rilax2_keep | with_reducible apply State.issueEx_keep | simp only [Keep.upd_iff]
      | intro _

theorem execPut_keep {s0 : State} (t : Nat) (w x : Word) (s : State) (hk : Keep s0 s) : KeepAns s0 (execPut t w x s)
    := by
  unfold execPut
  try dsimp only
  repeat' first
    | with_reducible assumption | with_reducible apply KeepAns.next | with_reducible apply KeepAns.refused
      | with_reducible apply rilax2_keep | with_reducible apply State.issueEx_keep | simp only [Keep.upd_iff]
      | intro _

theorem execGet_keep {s0 : State} (t : Nat) (w x : Word) (s : State) (hk : Keep s0 s) : KeepAns s0 (execGet t w x s)
    := by
  unfold execGet
  try dsimp only
  repeat' first
    | with_reducible assumption | with_reducible apply KeepAns.next | with_reducible apply KeepAns.refused
      | with_reducible apply rilax2_keep | with_reducible apply State.issueEx_keep | simp only [Keep.upd_iff]
      | intro _

theorem execBar_keep {s0 : State} (t : Nat) (w x : Word) (s : State) (hk : Keep s0 s) : KeepAns s0 (execBar t w x s)
    := by
  unfold execBar
  try dsimp only
  repeat' first
    | with_reducible assumption | with_reducible apply KeepAns.next | with_reducible apply KeepAns.refused
      | with_reducible apply rilax2_keep | with_reducible apply State.issueEx_keep | simp only [Keep.upd_iff]
      | intro _

theorem execAllreduce_keep {s0 : State} (t : Nat) (w x : Word) (s : State) (hk : Keep s0 s) : KeepAns s0
    (execAllreduce t w x s) := by
  unfold execAllreduce
  try dsimp only
  repeat' first
    | with_reducible assumption | with_reducible apply KeepAns.next | with_reducible apply KeepAns.refused
      | with_reducible apply rilax2_keep | with_reducible apply State.issueEx_keep | simp only [Keep.upd_iff]
      | intro _

theorem execBcast_keep {s0 : State} (t : Nat) (w x : Word) (s : State) (hk : Keep s0 s) : KeepAns s0 (execBcast t w x
    s) := by
  unfold execBcast
  try dsimp only
  repeat' first
    | with_reducible assumption | with_reducible apply KeepAns.next | with_reducible apply KeepAns.refused
      | with_reducible apply rilax2_keep | with_reducible apply State.issueEx_keep | simp only [Keep.upd_iff]
      | intro _

theorem execAllgather_keep {s0 : State} (t : Nat) (w x : Word) (s : State) (hk : Keep s0 s) : KeepAns s0
    (execAllgather t w x s) := by
  unfold execAllgather
  try dsimp only
  repeat' first
    | with_reducible assumption | with_reducible apply KeepAns.next | with_reducible apply KeepAns.refused
      | with_reducible apply rilax2_keep | with_reducible apply State.issueEx_keep | simp only [Keep.upd_iff]
      | intro _

theorem State.exEffect_keep {s0 : State} (s : State) (t : Nat) (o : EngOp) (hk : Keep s0 s) : Keep s0 (State.exEffect
    s t o).1 := by
  unfold State.exEffect
  try dsimp only
  repeat' first
    | with_reducible assumption | with_reducible apply State.setTile_keep | with_reducible apply State.combSums_keep
      | with_reducible apply State.gatherRows_keep | with_reducible apply State.scatterRows_keep
      | simp only [Keep.upd_iff] | with_reducible refine Keep.ofFst (by assumption) ?_ | intro _
      | with_reducible apply Keep.ite | split

theorem State.exEnd_keep {s0 : State} (s : State) (t : Nat) (o : EngOp) (res : Res) (hk : Keep s0 s) : Keep s0
    (State.exEnd s t o res) := by
  unfold State.exEnd
  try dsimp only
  repeat' first
    | with_reducible assumption | with_reducible apply State.countEcc_keep | with_reducible apply State.traffic_keep
      | with_reducible apply State.countRefused_keep | with_reducible apply State.endOp_keep
      | with_reducible apply Reply.ok_keep | with_reducible apply State.readUe_keep
      | with_reducible apply State.exEffect_keep | simp only [Keep.upd_iff]
      | with_reducible refine Keep.ofFst (by assumption) ?_ | with_reducible apply Keep.ite | split

theorem exRow_keep {s0 : State} (name : String) (ours : EngOp → Bool) (t kd : Nat) (res : Res) (s : State) (hk : Keep
    s0 s) : KeepAns s0 (exRow name ours t kd res s) := by
  unfold exRow
  try dsimp only
  repeat' first
    | with_reducible assumption | with_reducible apply KeepAns.next | with_reducible apply KeepAns.refused
      | with_reducible apply KeepAns.ite | with_reducible apply State.readUe_keep
      | with_reducible apply State.proceed_keep | with_reducible apply State.exEnd_keep | simp only [Keep.upd_iff]
      | intro _ | with_reducible apply Keep.ite | split

theorem execDispComplete_keep {s0 : State} (t kd : Nat) (s : State) (hk : Keep s0 s) : KeepAns s0 (execDispComplete t
    kd s) := by
  unfold execDispComplete
  try dsimp only
  repeat' first
    | with_reducible assumption | with_reducible apply KeepAns.next | with_reducible apply KeepAns.refused
      | with_reducible apply Reply.ok_keep | with_reducible apply exRow_keep | simp only [Keep.upd_iff] | intro _

theorem execDispatchOpComplete_keep {s0 : State} (t kd : Nat) (res : Res) (s : State) (hk : Keep s0 s) : KeepAns s0
    (execDispatchOpComplete t kd res s) := by
  unfold execDispatchOpComplete
  try dsimp only
  repeat' first
    | with_reducible assumption | with_reducible apply KeepAns.next | with_reducible apply KeepAns.refused
      | with_reducible apply Reply.ok_keep | with_reducible apply exRow_keep | simp only [Keep.upd_iff] | intro _

theorem execIntakeOpen_keep {s0 : State} (t : Nat) (w : Word) (s : State) (hk : Keep s0 s) : KeepAns s0
    (execIntakeOpen t w s) := by
  unfold execIntakeOpen
  try dsimp only
  repeat' first
    | with_reducible assumption | with_reducible apply KeepAns.next | with_reducible apply KeepAns.refused
      | with_reducible apply KeepAns.ite | with_reducible apply State.setTile_keep
      | with_reducible apply State.traffic_keep | with_reducible apply State.wakeFor_keep
      | with_reducible apply State.trap_keep | with_reducible apply State.retire_keep
      | with_reducible apply Reply.ok_keep | with_reducible apply rilax_keep
      | with_reducible apply State.accessStop_keep | with_reducible apply State.proceed_keep
      | with_reducible apply KeepEff.retire | with_reducible apply KeepEff.hold | with_reducible apply KeepEff.halt
      | with_reducible apply KeepEff.trap | simp only [Keep.upd_iff] | intro _ | with_reducible apply Keep.ite | split

theorem execIntakeTake_keep {s0 : State} (t : Nat) (w : Word) (s : State) (hk : Keep s0 s) :
    KeepAns s0 (execIntakeTake t w s) := by
  unfold execIntakeTake
  refine rilax_keep _ _ _ _ _ _ _ _ (fun s hk => ?_) hk
  dsimp only
  split
  · trivial
  · have h2 := State.proceed_keep _ t (State.setTile_keep s t
      ((s.tile t).setIntake (fld (wImm w) 0 2) ((s.tile t).intake (fld (wImm w) 0 2)).freeTaken) hk)
    generalize State.proceed _ t = s2 at h2 ⊢
    split
    · exact State.setG_keep _ _ _ _ (State.setTile_keep _ _ _ h2)
    · exact State.setCore_keep _ _ _ h2

end Sys2Proof.Machine
end

