-- ==== Sys2Proof/Laws/KeepArrival.lean ====
section
/-! SUPPORT. The operations of Machine/Arrival.lean keep the queue, the variant and the canonical form of memory. -/

set_option linter.unusedSimpArgs false
set_option linter.unusedTactic false
set_option linter.unreachableTactic false

namespace Sys2Proof.Machine

theorem State.degrade_keep {s0 : State} (s : State) (b : BitVec 32) (hk : Keep s0 s) : Keep s0 (State.degrade s b) := by
  unfold State.degrade
  try dsimp only
  repeat' first
    | with_reducible assumption | with_reducible apply State.updBunch_keep | simp only [Keep.upd_iff]
      | with_reducible apply Keep.foldl | with_reducible apply Keep.foldlPair | intro _
      | with_reducible apply Keep.ite | split

theorem State.loseOn_keep {s0 : State} (s : State) (t : Nat) (b : BitVec 32) (hk : Keep s0 s) : Keep s0 (State.loseOn
    s t b) := by
  unfold State.loseOn
  try dsimp only
  repeat' first
    | with_reducible assumption | with_reducible apply State.setTile_keep | with_reducible apply State.unsend_keep
      | with_reducible apply State.proceed_keep | simp only [Keep.upd_iff] | with_reducible apply Keep.foldl
      | with_reducible apply Keep.foldlPair | intro _ | with_reducible apply Keep.ite | split

theorem State.loseRanks_keep {s0 : State} (s : State) (b : BitVec 32) (ranks : List Nat) (hk : Keep s0 s) : Keep s0
    (State.loseRanks s b ranks) := by
  unfold State.loseRanks
  try dsimp only
  repeat' first
    | with_reducible assumption | with_reducible apply State.updBunch_keep | with_reducible apply State.degrade_keep
      | with_reducible apply State.loseOn_keep | simp only [Keep.upd_iff] | with_reducible apply Keep.foldl
      | with_reducible apply Keep.foldlPair | intro _ | with_reducible apply Keep.ite | split

theorem State.sendToModule_keep {s0 : State} (s : State) (b : BitVec 32) (module cls len : Nat) (param : BitVec 64)
    (payload : List Byte) (hk : Keep s0 s) : Keep s0 (State.sendToModule s b module cls len param payload) := by
  unfold State.sendToModule
  try dsimp only
  repeat' first
    | with_reducible assumption | with_reducible apply State.sendMsg_keep | simp only [Keep.upd_iff]
      | with_reducible refine Keep.ofSnd (by assumption) ?_ | split

theorem State.declareLost_keep {s0 : State} (s : State) (b : BitVec 32) (ranks : List Nat) (hk : Keep s0 s) : Keep s0
    (State.declareLost s b ranks) := by
  unfold State.declareLost
  try dsimp only
  repeat' first
    | with_reducible assumption | with_reducible apply State.loseRanks_keep
      | with_reducible apply State.sendToModule_keep | simp only [Keep.upd_iff] | with_reducible apply Keep.foldl
      | with_reducible apply Keep.foldlPair | intro _

theorem State.tryRetire_keep {s0 : State} (s : State) (b : BitVec 32) (hk : Keep s0 s) : Keep s0 (State.tryRetire s
    b) := by
  unfold State.tryRetire
  try dsimp only
  repeat' first
    | with_reducible assumption | with_reducible apply State.updBunch_keep | with_reducible apply TRun.all_keep
      | simp only [Keep.upd_iff] | intro _ | with_reducible apply Keep.ite | split

theorem State.setNested_keep {s0 : State} (s : State) (b : BitVec 32) (st : Bunch → Nat) (hk : Keep s0 s) : Keep s0
    (State.setNested s b st) := by
  unfold State.setNested
  try dsimp only
  repeat' first
    | with_reducible assumption | with_reducible apply State.updBunch_keep | simp only [Keep.upd_iff]
      | with_reducible apply Keep.foldl | with_reducible apply Keep.foldlPair | intro _

theorem State.tryFrozen_keep {s0 : State} (s : State) (b : BitVec 32) (hk : Keep s0 s) : Keep s0 (State.tryFrozen s
    b) := by
  unfold State.tryFrozen
  try dsimp only
  repeat' first
    | with_reducible assumption | with_reducible apply State.updBunch_keep | with_reducible apply State.revote_keep
      | with_reducible apply State.setNested_keep | simp only [Keep.upd_iff] | intro _ | with_reducible apply Keep.ite
      | split

theorem State.reply_keep {s0 : State} (s : State) (m : Msg) (result : Nat) (hk : Keep s0 s) : Keep s0 (State.reply s
    m result) := by
  unfold State.reply
  try dsimp only
  repeat' first
    | with_reducible assumption | with_reducible apply State.answer_keep | simp only [Keep.upd_iff]
      | with_reducible apply Keep.ite | split

theorem State.capture_keep {s0 : State} (s : State) (b : BitVec 32) (t : Nat) (m : Msg) (hk : Keep s0 s) : Keep s0
    (State.capture s b t m) := by
  unfold State.capture
  try dsimp only
  repeat' first
    | with_reducible assumption | with_reducible apply State.updBunch_keep | with_reducible apply State.answer_keep
      | simp only [Keep.upd_iff] | intro _

theorem State.giveHeld_keep {s0 : State} (s : State) (t : Nat) (m : Msg) (hk : Keep s0 s) : Keep s0 (State.giveHeld s
    t m) := by
  unfold State.giveHeld
  try dsimp only
  repeat' first
    | with_reducible assumption | with_reducible apply State.setTile_keep | with_reducible apply State.answer_keep
      | with_reducible apply State.tryHeld_keep | with_reducible apply State.proceed_keep | simp only [Keep.upd_iff]
      | with_reducible refine Keep.ofFst (by assumption) ?_ | split

theorem State.gotHeld_keep {s0 : State} (s : State) (t : Nat) (l : Leaf) (m : Msg) (hk : Keep s0 s) : Keep s0
    (State.gotHeld s t l m) := by
  unfold State.gotHeld
  try dsimp only
  repeat' first
    | with_reducible assumption | with_reducible apply State.arriveRow_keep | with_reducible apply State.proceed_keep
      | with_reducible apply State.capture_keep | with_reducible apply State.giveHeld_keep | simp only [Keep.upd_iff]
      | with_reducible apply Keep.ite | split

theorem State.deliverCaptured_keep {s0 : State} (s : State) (t : Nat) (m : Msg) (hk : Keep s0 s) : Keep s0
    (State.deliverCaptured s t m) := by
  unfold State.deliverCaptured
  try dsimp only
  repeat' first
    | with_reducible assumption | with_reducible apply State.arriveRow_keep | with_reducible apply State.proceed_keep
      | with_reducible apply State.giveHeld_keep | simp only [Keep.upd_iff] | with_reducible apply Keep.ite | split

theorem State.deliverAll_keep {s0 : State} (s : State) (b : BitVec 32) (hk : Keep s0 s) : Keep s0 (State.deliverAll s
    b) := by
  unfold State.deliverAll
  try dsimp only
  repeat' first
    | with_reducible assumption | with_reducible apply State.updBunch_keep
      | with_reducible apply State.deliverCaptured_keep | simp only [Keep.upd_iff] | with_reducible apply Keep.foldl
      | with_reducible apply Keep.foldlPair | intro _

theorem State.waitAt_keep {s0 : State} (s : State) (t : Nat) (m : Msg) (hk : Keep s0 s) : Keep s0 (State.waitAt s t
    m) := by
  unfold State.waitAt
  try dsimp only
  repeat' first
    | with_reducible assumption | with_reducible apply State.setTile_keep | simp only [Keep.upd_iff]

theorem State.gotPut_keep {s0 : State} (s : State) (home t : Nat) (m : Msg) (res : Res) (hk : Keep s0 s) : Keep s0
    (State.gotPut s home t m res) := by
  unfold State.gotPut
  try dsimp only
  repeat' first
    | with_reducible assumption | with_reducible apply State.writeSpots_keep | with_reducible apply State.traffic_keep
      | with_reducible apply State.countRefused_keep | with_reducible apply State.answer_keep
      | with_reducible apply Reply.ok_keep | with_reducible apply State.waitAt_keep | simp only [Keep.upd_iff]
      | with_reducible apply Keep.ite | split

theorem State.replyGet_keep {s0 : State} (s : State) (t : Nat) (m : Msg) (sp : List Spot) (host : HostBytes) (hk :
    Keep s0 s) : Keep s0 (State.replyGet s t m sp host) := by
  unfold State.replyGet
  try dsimp only
  repeat' first
    | with_reducible assumption | with_reducible apply State.traffic_keep | with_reducible apply State.sendMsg_keep
      | simp only [Keep.upd_iff] | with_reducible refine Keep.ofSnd (by assumption) ?_

theorem State.gotGetReq_keep {s0 : State} (s : State) (home t : Nat) (l : Leaf) (m : Msg) (res : Res) (host :
    HostBytes) (hk : Keep s0 s) : Keep s0 (State.gotGetReq s home t l m res host) := by
  unfold State.gotGetReq
  try dsimp only
  repeat' first
    | with_reducible assumption | with_reducible apply State.countEcc_keep | with_reducible apply State.ueRead_keep
      | with_reducible apply State.askHost_keep | with_reducible apply State.serveCopies_keep
      | with_reducible apply State.countRefused_keep | with_reducible apply State.answer_keep
      | with_reducible apply Reply.ok_keep | with_reducible apply State.waitAt_keep
      | with_reducible apply State.replyGet_keep | simp only [Keep.upd_iff] | with_reducible apply Keep.ite | split

theorem State.gotGetReply_keep {s0 : State} (s : State) (t : Nat) (m : Msg) (hk : Keep s0 s) : Keep s0
    (State.gotGetReply s t m) := by
  unfold State.gotGetReply
  try dsimp only
  repeat' first
    | with_reducible assumption | with_reducible apply State.dropSent_keep | with_reducible apply State.writeAt_keep
      | with_reducible apply State.markOp_keep | with_reducible apply State.proceed_keep | simp only [Keep.upd_iff]
      | intro _ | split

theorem State.answeredRow_keep {s0 : State} (s : State) (t : Nat) (o : EngOp) (key r : Nat) (hk : Keep s0 s) : Keep
    s0 (State.answeredRow s t o key r) := by
  unfold State.answeredRow
  try dsimp only
  repeat' first
    | with_reducible assumption | with_reducible apply State.setTile_keep | with_reducible apply State.count_keep
      | simp only [Keep.upd_iff] | intro _ | with_reducible apply Keep.ite | split

theorem State.gotAnswer_keep {s0 : State} (s : State) (t : Nat) (m : Msg) (hk : Keep s0 s) : Keep s0 (State.gotAnswer
    s t m) := by
  unfold State.gotAnswer
  try dsimp only
  repeat' first
    | with_reducible assumption | with_reducible apply State.dropSent_keep
      | with_reducible apply State.safetyStop_keep | with_reducible apply Reply.fail_keep
      | with_reducible apply State.markOp_keep | with_reducible apply State.proceed_keep
      | with_reducible apply State.answeredRow_keep | simp only [Keep.upd_iff] | intro _
      | with_reducible apply Keep.ite | split

theorem State.gotReturn_keep {s0 : State} (s : State) (t : Nat) (m : Msg) (hk : Keep s0 s) : Keep s0 (State.gotReturn
    s t m) := by
  unfold State.gotReturn
  try dsimp only
  repeat' first
    | with_reducible assumption | with_reducible apply State.setTile_keep | with_reducible apply State.writeSpots_keep
      | with_reducible apply State.traffic_keep | with_reducible apply State.answer_keep | simp only [Keep.upd_iff]
      | intro _ | with_reducible apply Keep.ite | split

theorem State.gotMark_keep {s0 : State} (s : State) (t : Nat) (m : Msg) (hk : Keep s0 s) : Keep s0 (State.gotMark s t
    m) := by
  unfold State.gotMark
  try dsimp only
  repeat' first
    | with_reducible assumption | with_reducible apply State.updBunch_keep | with_reducible apply State.answer_keep
      | with_reducible apply State.tryFrozen_keep | simp only [Keep.upd_iff] | intro _ | with_reducible apply Keep.ite
      | split

theorem State.gotEpoch_keep {s0 : State} (s : State) (l : Leaf) (m : Msg) (hk : Keep s0 s) : Keep s0 (State.gotEpoch
    s l m) := by
  unfold State.gotEpoch
  try dsimp only
  repeat' first
    | with_reducible assumption | with_reducible apply State.updBunch_keep | with_reducible apply State.answer_keep
      | with_reducible apply State.tryRetire_keep | simp only [Keep.upd_iff] | intro _ | with_reducible apply Keep.ite
      | split

theorem State.gotLost_keep {s0 : State} (s : State) (m : Msg) (hk : Keep s0 s) : Keep s0 (State.gotLost s m) := by
  unfold State.gotLost
  try dsimp only
  repeat' first
    | with_reducible assumption | with_reducible apply State.answer_keep | with_reducible apply State.loseRanks_keep
      | simp only [Keep.upd_iff]

theorem State.deliver_keep {s0 : State} (s : State) (t : Nat) (l : Leaf) (m : Msg) (res : Res) (host : HostBytes) (hk
    : Keep s0 s) : Keep s0 (State.deliver s t l m res host) := by
  unfold State.deliver
  try dsimp only
  repeat' first
    | with_reducible assumption | with_reducible apply State.answer_keep | with_reducible apply State.addCredit_keep
      | with_reducible apply State.proceed_keep | with_reducible apply State.gotHeld_keep
      | with_reducible apply State.gotPut_keep | with_reducible apply State.gotGetReq_keep
      | with_reducible apply State.gotGetReply_keep | with_reducible apply State.gotAnswer_keep
      | with_reducible apply State.gotReturn_keep | with_reducible apply State.gotMark_keep
      | with_reducible apply State.gotEpoch_keep | with_reducible apply State.gotLost_keep | simp only [Keep.upd_iff]
      | split

theorem State.countProtocol_keep {s0 : State} (s : State) (port : Option Nat) (hk : Keep s0 s) : Keep s0
    (State.countProtocol s port) := by
  unfold State.countProtocol
  try dsimp only
  repeat' first
    | with_reducible assumption | with_reducible apply State.setRunner_keep | simp only [Keep.upd_iff] | split

theorem State.dropIntegrity_keep {s0 : State} (s : State) (m : Msg) (hk : Keep s0 s) : Keep s0 (State.dropIntegrity s
    m) := by
  unfold State.dropIntegrity
  try dsimp only
  repeat' first
    | with_reducible assumption | with_reducible apply State.setRunner_keep | with_reducible apply State.fault_keep
      | simp only [Keep.upd_iff] | split

theorem State.accept_keep {s0 : State} (s : State) (m : Msg) (res : Res) (host : HostBytes) (hk : Keep s0 s) : Keep
    s0 (State.accept s m res host) := by
  unfold State.accept
  try dsimp only
  repeat' first
    | with_reducible assumption | with_reducible apply State.setTile_keep | with_reducible apply State.evalDom_keep
      | with_reducible apply State.countRefused_keep | with_reducible apply State.reply_keep
      | with_reducible apply State.waitAt_keep | with_reducible apply State.deliver_keep
      | with_reducible apply State.countProtocol_keep | simp only [Keep.upd_iff] | with_reducible apply Keep.ite
      | split

theorem State.emptyBuf_keep {s0 : State} (s : State) (t : Nat) (hk : Keep s0 s) : Keep s0 (State.emptyBuf s t) := by
  unfold State.emptyBuf
  try dsimp only
  repeat' first
    | with_reducible assumption | with_reducible apply State.setTile_keep | with_reducible apply Reply.ok_keep
      | with_reducible apply State.emptyBars_keep | with_reducible apply State.accept_keep | simp only [Keep.upd_iff]
      | with_reducible apply Keep.foldl | with_reducible apply Keep.foldlPair | intro _

theorem State.hear_keep {s0 : State} (s : State) (m : Msg) (hk : Keep s0 s) : Keep s0 (State.hear s m) := by
  unfold State.hear
  try dsimp only
  repeat' first
    | with_reducible assumption | with_reducible apply State.updBunch_keep | simp only [Keep.upd_iff] | intro _
      | with_reducible apply Keep.ite | split

theorem State.receiveMsg_keep {s0 : State} (s : State) (m : Msg) (res : Res) (host : HostBytes) (hk : Keep s0 s) :
    Keep s0 (State.receiveMsg s m res host) := by
  unfold State.receiveMsg
  try dsimp only
  repeat' first
    | with_reducible assumption | with_reducible apply State.setBunch_keep | with_reducible apply State.setRunner_keep
      | with_reducible apply State.reply_keep | with_reducible apply State.dropIntegrity_keep
      | with_reducible apply State.accept_keep | with_reducible apply State.hear_keep | simp only [Keep.upd_iff]
      | intro _ | with_reducible apply Keep.ite | split

theorem State.landed_keep {s0 : State} (s : State) (m : Msg) (hk : Keep s0 s) : Keep s0 (State.landed s m) := by
  unfold State.landed
  try dsimp only
  repeat' first
    | with_reducible assumption | simp only [Keep.upd_iff] | intro _ | with_reducible apply Keep.ite | split

theorem msgRow_keep {s0 : State} (name : String) (cls : Nat) (m : Msg) (res : Res) (host : HostBytes) (s : State) (hk
    : Keep s0 s) : KeepAns s0 (msgRow name cls m res host s) := by
  unfold msgRow
  try dsimp only
  repeat' first
    | with_reducible assumption | with_reducible apply KeepAns.next | with_reducible apply KeepAns.refused
      | with_reducible apply KeepAns.ite | with_reducible apply State.receiveMsg_keep
      | with_reducible apply State.landed_keep | simp only [Keep.upd_iff] | intro _ | with_reducible apply Keep.ite
      | split

theorem memRow_keep {s0 : State} (name : String) (cls kind : Nat) (m : Msg) (res : Res) (host : HostBytes) (s :
    State) (hk : Keep s0 s) : KeepAns s0 (memRow name cls kind m res host s) := by
  unfold memRow
  try dsimp only
  repeat' first
    | with_reducible assumption | with_reducible apply KeepAns.next | with_reducible apply KeepAns.refused
      | with_reducible apply KeepAns.ite | with_reducible apply msgRow_keep | simp only [Keep.upd_iff] | intro _
      | with_reducible apply Keep.ite | split

theorem execRowMessage_keep {s0 : State} (m : Msg) (s : State) (hk : Keep s0 s) : KeepAns s0 (execRowMessage m s) := by
  unfold execRowMessage
  try dsimp only
  repeat' first
    | with_reducible assumption | with_reducible apply KeepAns.next | with_reducible apply KeepAns.refused
      | with_reducible apply Reply.ok_keep | with_reducible apply msgRow_keep | simp only [Keep.upd_iff] | intro _

theorem execMarkerMessage_keep {s0 : State} (m : Msg) (s : State) (hk : Keep s0 s) : KeepAns s0 (execMarkerMessage m
    s) := by
  unfold execMarkerMessage
  try dsimp only
  repeat' first
    | with_reducible assumption | with_reducible apply KeepAns.next | with_reducible apply KeepAns.refused
      | with_reducible apply Reply.ok_keep | with_reducible apply msgRow_keep | simp only [Keep.upd_iff] | intro _

theorem execReturnMessage_keep {s0 : State} (m : Msg) (s : State) (hk : Keep s0 s) : KeepAns s0 (execReturnMessage m
    s) := by
  unfold execReturnMessage
  try dsimp only
  repeat' first
    | with_reducible assumption | with_reducible apply KeepAns.next | with_reducible apply KeepAns.refused
      | with_reducible apply KeepAns.ite | with_reducible apply Reply.ok_keep | with_reducible apply msgRow_keep
      | simp only [Keep.upd_iff] | intro _ | with_reducible apply Keep.ite | split

theorem execAnswerMessage_keep {s0 : State} (m : Msg) (s : State) (hk : Keep s0 s) : KeepAns s0 (execAnswerMessage m
    s) := by
  unfold execAnswerMessage
  try dsimp only
  repeat' first
    | with_reducible assumption | with_reducible apply KeepAns.next | with_reducible apply KeepAns.refused
      | with_reducible apply Reply.ok_keep | with_reducible apply msgRow_keep | simp only [Keep.upd_iff] | intro _

theorem execSendMessage_keep {s0 : State} (m : Msg) (s : State) (hk : Keep s0 s) : KeepAns s0 (execSendMessage m s)
    := by
  unfold execSendMessage
  try dsimp only
  repeat' first
    | with_reducible assumption | with_reducible apply KeepAns.next | with_reducible apply KeepAns.refused
      | with_reducible apply Reply.ok_keep | with_reducible apply msgRow_keep | simp only [Keep.upd_iff] | intro _

theorem execPutMessage_keep {s0 : State} (m : Msg) (res : Res) (s : State) (hk : Keep s0 s) : KeepAns s0
    (execPutMessage m res s) := by
  unfold execPutMessage
  try dsimp only
  repeat' first
    | with_reducible assumption | with_reducible apply KeepAns.next | with_reducible apply KeepAns.refused
      | with_reducible apply memRow_keep | simp only [Keep.upd_iff] | intro _

theorem execGetReqMessage_keep {s0 : State} (m : Msg) (res : Res) (host : HostBytes) (s : State) (hk : Keep s0 s) :
    KeepAns s0 (execGetReqMessage m res host s) := by
  unfold execGetReqMessage
  try dsimp only
  repeat' first
    | with_reducible assumption | with_reducible apply KeepAns.next | with_reducible apply KeepAns.refused
      | with_reducible apply memRow_keep | simp only [Keep.upd_iff] | intro _

theorem execGetReplyMessage_keep {s0 : State} (m : Msg) (s : State) (hk : Keep s0 s) : KeepAns s0
    (execGetReplyMessage m s) := by
  unfold execGetReplyMessage
  try dsimp only
  repeat' first
    | with_reducible assumption | with_reducible apply KeepAns.next | with_reducible apply KeepAns.refused
      | with_reducible apply Reply.ok_keep | with_reducible apply msgRow_keep | simp only [Keep.upd_iff] | intro _

theorem execCreditMessage_keep {s0 : State} (m : Msg) (s : State) (hk : Keep s0 s) : KeepAns s0 (execCreditMessage m
    s) := by
  unfold execCreditMessage
  try dsimp only
  repeat' first
    | with_reducible assumption | with_reducible apply KeepAns.next | with_reducible apply KeepAns.refused
      | with_reducible apply Reply.ok_keep | with_reducible apply msgRow_keep | simp only [Keep.upd_iff] | intro _

theorem execBarMessage_keep {s0 : State} (m : Msg) (s : State) (hk : Keep s0 s) : KeepAns s0 (execBarMessage m s) := by
  unfold execBarMessage
  try dsimp only
  repeat' first
    | with_reducible assumption | with_reducible apply KeepAns.next | with_reducible apply KeepAns.refused
      | with_reducible apply Reply.ok_keep | with_reducible apply msgRow_keep | simp only [Keep.upd_iff] | intro _

theorem execCollSeqMessage_keep {s0 : State} (m : Msg) (s : State) (hk : Keep s0 s) : KeepAns s0 (execCollSeqMessage
    m s) := by
  unfold execCollSeqMessage
  try dsimp only
  repeat' first
    | with_reducible assumption | with_reducible apply KeepAns.next | with_reducible apply KeepAns.refused
      | with_reducible apply Reply.ok_keep | with_reducible apply msgRow_keep | simp only [Keep.upd_iff] | intro _

theorem execCollDataMessage_keep {s0 : State} (m : Msg) (s : State) (hk : Keep s0 s) : KeepAns s0
    (execCollDataMessage m s) := by
  unfold execCollDataMessage
  try dsimp only
  repeat' first
    | with_reducible assumption | with_reducible apply KeepAns.next | with_reducible apply KeepAns.refused
      | with_reducible apply Reply.ok_keep | with_reducible apply msgRow_keep | simp only [Keep.upd_iff] | intro _

theorem execFreezeMarkMessage_keep {s0 : State} (m : Msg) (s : State) (hk : Keep s0 s) : KeepAns s0
    (execFreezeMarkMessage m s) := by
  unfold execFreezeMarkMessage
  try dsimp only
  repeat' first
    | with_reducible assumption | with_reducible apply KeepAns.next | with_reducible apply KeepAns.refused
      | with_reducible apply Reply.ok_keep | with_reducible apply msgRow_keep | simp only [Keep.upd_iff] | intro _

theorem execMemberLostMessage_keep {s0 : State} (m : Msg) (s : State) (hk : Keep s0 s) : KeepAns s0
    (execMemberLostMessage m s) := by
  unfold execMemberLostMessage
  try dsimp only
  repeat' first
    | with_reducible assumption | with_reducible apply KeepAns.next | with_reducible apply KeepAns.refused
      | with_reducible apply Reply.ok_keep | with_reducible apply msgRow_keep | simp only [Keep.upd_iff] | intro _

theorem execHeartbeatMessage_keep {s0 : State} (m : Msg) (s : State) (hk : Keep s0 s) : KeepAns s0
    (execHeartbeatMessage m s) := by
  unfold execHeartbeatMessage
  try dsimp only
  repeat' first
    | with_reducible assumption | with_reducible apply KeepAns.next | with_reducible apply KeepAns.refused
      | with_reducible apply Reply.ok_keep | with_reducible apply msgRow_keep | simp only [Keep.upd_iff] | intro _

theorem State.releaseHeld_keep {s0 : State} (s : State) (b : BitVec 32) (hk : Keep s0 s) : Keep s0 (State.releaseHeld
    s b) := by
  unfold State.releaseHeld
  try dsimp only
  repeat' first
    | with_reducible assumption | with_reducible apply State.updBunch_keep | with_reducible apply Reply.ok_keep
      | with_reducible apply State.accept_keep | simp only [Keep.upd_iff] | with_reducible apply Keep.foldl
      | with_reducible apply Keep.foldlPair | intro _

theorem State.nextEpoch_keep {s0 : State} (s : State) (b : BitVec 32) (map : List Leaf) (prevLive : Bool) (hk : Keep
    s0 s) : Keep s0 (State.nextEpoch s b map prevLive) := by
  unfold State.nextEpoch
  try dsimp only
  repeat' first
    | with_reducible assumption | with_reducible apply State.updBunch_keep
      | with_reducible apply State.releaseHeld_keep | simp only [Keep.upd_iff] | with_reducible apply KeepOpt.bind
      | intro _ | intro _

theorem execEpochHoldExpire_keep {s0 : State} (b : BitVec 32) (s : State) (hk : Keep s0 s) : KeepAns s0
    (execEpochHoldExpire b s) := by
  unfold execEpochHoldExpire
  try dsimp only
  repeat' first
    | with_reducible assumption | with_reducible apply KeepAns.next | with_reducible apply KeepAns.refused
      | with_reducible apply State.updBunch_keep | with_reducible apply State.reply_keep | simp only [Keep.upd_iff]
      | intro _ | split

theorem execEarlyMessageTimeout_keep {s0 : State} (t : Nat) (s : State) (hk : Keep s0 s) : KeepAns s0
    (execEarlyMessageTimeout t s) := by
  unfold execEarlyMessageTimeout
  try dsimp only
  repeat' first
    | with_reducible assumption | with_reducible apply KeepAns.next | with_reducible apply KeepAns.refused
      | with_reducible apply State.setTile_keep | with_reducible apply Reply.fail_keep
      | with_reducible apply State.markOp_keep | with_reducible apply State.proceed_keep | simp only [Keep.upd_iff]
      | intro _ | split

theorem execMsgTimeout_keep {s0 : State} (t : Nat) (seq : Nat) (s : State) (hk : Keep s0 s) : KeepAns s0
    (execMsgTimeout t seq s) := by
  unfold execMsgTimeout
  try dsimp only
  repeat' first
    | with_reducible assumption | with_reducible apply KeepAns.next | with_reducible apply KeepAns.refused
      | with_reducible apply State.dropSent_keep | with_reducible apply Reply.fail_keep
      | with_reducible apply State.markOp_keep | with_reducible apply State.proceed_keep | simp only [Keep.upd_iff]
      | intro _ | split

theorem execHeartbeatSend_keep {s0 : State} (b : BitVec 32) (s : State) (hk : Keep s0 s) : KeepAns s0
    (execHeartbeatSend b s) := by
  unfold execHeartbeatSend
  try dsimp only
  repeat' first
    | with_reducible assumption | with_reducible apply KeepAns.next | with_reducible apply KeepAns.refused
      | with_reducible apply KeepAns.ite | with_reducible apply State.sendToModule_keep | simp only [Keep.upd_iff]
      | with_reducible apply Keep.foldl | with_reducible apply Keep.foldlPair | intro _
      | with_reducible apply Keep.ite | split

theorem execHeartbeatLoss_keep {s0 : State} (b : BitVec 32) (module : Nat) (s : State) (hk : Keep s0 s) : KeepAns s0
    (execHeartbeatLoss b module s) := by
  unfold execHeartbeatLoss
  try dsimp only
  repeat' first
    | with_reducible assumption | with_reducible apply KeepAns.next | with_reducible apply KeepAns.refused
      | with_reducible apply KeepAns.ite | with_reducible apply State.updBunch_keep
      | with_reducible apply State.declareLost_keep | simp only [Keep.upd_iff] | intro _
      | with_reducible apply Keep.ite | split

end Sys2Proof.Machine
end

