-- ==== Sys2Proof/Laws/KeepMailbox.lean ====
section
/-! SUPPORT. The operations of Machine/Mailbox.lean keep the queue, the variant and the canonical form of memory. -/

set_option linter.unusedSimpArgs false
set_option linter.unusedTactic false
set_option linter.unreachableTactic false

namespace Sys2Proof.Machine

theorem State.mboxEnd_keep {s0 : State} (s : State) (status : BitVec 16) (detail : BitVec 32) (hk : Keep s0 s) : Keep
    s0 (State.mboxEnd s status detail) := by
  unfold State.mboxEnd
  try dsimp only
  repeat' first
    | with_reducible assumption | with_reducible apply State.msix_keep | simp only [Keep.upd_iff]
      | with_reducible apply Keep.ite | split

theorem State.opCtxCreate_keep {s0 : State} (s : State) (m : Mgmt) (hk : Keep s0 s) : Keep s0 (State.opCtxCreate s m)
    := by
  unfold State.opCtxCreate
  try dsimp only
  repeat' first
    | with_reducible assumption | with_reducible apply State.setCtx_keep | with_reducible apply State.mboxEnd_keep
      | simp only [Keep.upd_iff] | with_reducible apply Keep.ite | split

theorem State.opCtxShare_keep {s0 : State} (s : State) (m : Mgmt) (hk : Keep s0 s) : Keep s0 (State.opCtxShare s m)
    := by
  unfold State.opCtxShare
  try dsimp only
  repeat' first
    | with_reducible assumption | with_reducible apply State.setTile_keep | with_reducible apply State.swapOut_keep
      | with_reducible apply State.beginSwap_keep | with_reducible apply State.releaseShare_keep
      | with_reducible apply State.assignShare_keep | with_reducible apply State.addStandby_keep
      | with_reducible apply State.mboxEnd_keep | simp only [Keep.upd_iff] | intro _ | with_reducible apply Keep.ite
      | split

theorem State.shareGoes_keep {s0 : State} (s : State) (t : Nat) (hk : Keep s0 s) : Keep s0 (State.shareGoes s t) := by
  unfold State.shareGoes
  try dsimp only
  repeat' first
    | with_reducible assumption | with_reducible apply State.opCtxShare_keep | simp only [Keep.upd_iff] | intro _
      | with_reducible apply Keep.ite | split

theorem State.opCtxSeg_keep {s0 : State} (s : State) (m : Mgmt) (hk : Keep s0 s) : Keep s0 (State.opCtxSeg s m) := by
  unfold State.opCtxSeg
  try dsimp only
  repeat' first
    | with_reducible assumption | with_reducible apply State.setCtx_keep | with_reducible apply State.mboxEnd_keep
      | simp only [Keep.upd_iff] | with_reducible apply Keep.ite | split

theorem State.opCtxQuiesce_keep {s0 : State} (s : State) (m : Mgmt) (hk : Keep s0 s) : Keep s0 (State.opCtxQuiesce s
    m) := by
  unfold State.opCtxQuiesce
  try dsimp only
  repeat' first
    | with_reducible assumption | with_reducible apply State.setCtx_keep | with_reducible apply State.stopQueues_keep
      | with_reducible apply State.abortCtx_keep | with_reducible apply State.mboxEnd_keep | simp only [Keep.upd_iff]
      | with_reducible apply Keep.ite | split

theorem State.opCtxResume_keep {s0 : State} (s : State) (m : Mgmt) (hk : Keep s0 s) : Keep s0 (State.opCtxResume s m)
    := by
  unfold State.opCtxResume
  try dsimp only
  repeat' first
    | with_reducible assumption | with_reducible apply State.setCtx_keep | with_reducible apply State.updQueues_keep
      | with_reducible apply State.deliverAll_keep | with_reducible apply State.mboxEnd_keep
      | simp only [Keep.upd_iff] | intro _ | with_reducible apply Keep.ite | split

theorem State.resetShares_keep {s0 : State} (s : State) (c : Nat) (hk : Keep s0 s) : Keep s0 (State.resetShares s c)
    := by
  unfold State.resetShares
  try dsimp only
  repeat' first
    | with_reducible assumption | with_reducible apply State.setTile_keep
      | with_reducible apply State.clearGranules_keep | simp only [Keep.upd_iff] | with_reducible apply Keep.foldl
      | with_reducible apply Keep.foldlPair | intro _ | with_reducible apply Keep.ite | split

theorem State.zeroCredit_keep {s0 : State} (s : State) (q : Nat) (hk : Keep s0 s) : Keep s0 (State.zeroCredit s q) := by
  unfold State.zeroCredit
  try dsimp only
  repeat' first
    | with_reducible assumption | with_reducible apply State.emit_keep | simp only [Keep.upd_iff]

theorem State.opCtxReset_keep {s0 : State} (s : State) (m : Mgmt) (hk : Keep s0 s) : Keep s0 (State.opCtxReset s m)
    := by
  unfold State.opCtxReset
  try dsimp only
  repeat' first
    | with_reducible assumption | with_reducible apply State.updQueues_keep | with_reducible apply State.mboxEnd_keep
      | with_reducible apply State.resetShares_keep | with_reducible apply State.zeroCredit_keep
      | simp only [Keep.upd_iff] | with_reducible apply Keep.foldl | with_reducible apply Keep.foldlPair | intro _
      | with_reducible apply Keep.ite | split

theorem State.removeCtx_keep {s0 : State} (s : State) (c : Nat) (hk : Keep s0 s) : Keep s0 (State.removeCtx s c) := by
  unfold State.removeCtx
  try dsimp only
  repeat' first
    | with_reducible assumption | with_reducible apply State.setCtx_keep | with_reducible apply State.updQueues_keep
      | with_reducible apply State.dropShare_keep | simp only [Keep.upd_iff] | with_reducible apply Keep.foldl
      | with_reducible apply Keep.foldlPair | intro _

theorem State.opCtxRemove_keep {s0 : State} (s : State) (m : Mgmt) (hk : Keep s0 s) : Keep s0 (State.opCtxRemove s m)
    := by
  unfold State.opCtxRemove
  try dsimp only
  repeat' first
    | with_reducible assumption | with_reducible apply State.mboxEnd_keep | with_reducible apply State.removeCtx_keep
      | simp only [Keep.upd_iff] | with_reducible apply Keep.ite | split

theorem State.opCtxBacking_keep {s0 : State} (s : State) (m : Mgmt) (hk : Keep s0 s) : Keep s0 (State.opCtxBacking s
    m) := by
  unfold State.opCtxBacking
  try dsimp only
  repeat' first
    | with_reducible assumption | with_reducible apply State.setCtx_keep | with_reducible apply State.mboxEnd_keep
      | simp only [Keep.upd_iff] | intro _ | with_reducible apply Keep.ite | split

theorem State.opCtxSave_keep {s0 : State} (s : State) (m : Mgmt) (hk : Keep s0 s) : Keep s0 (State.opCtxSave s m) := by
  unfold State.opCtxSave
  try dsimp only
  repeat' first
    | with_reducible assumption | with_reducible apply State.mboxEnd_keep | simp only [Keep.upd_iff] | split

theorem State.opCtxRestore_keep {s0 : State} (s : State) (m : Mgmt) (hk : Keep s0 s) : Keep s0 (State.opCtxRestore s
    m) := by
  unfold State.opCtxRestore
  try dsimp only
  repeat' first
    | with_reducible assumption | with_reducible apply State.mboxEnd_keep | simp only [Keep.upd_iff]
      | with_reducible apply Keep.ite | split

theorem State.opQEnable_keep {s0 : State} (s : State) (m : Mgmt) (hk : Keep s0 s) : Keep s0 (State.opQEnable s m) := by
  unfold State.opQEnable
  try dsimp only
  repeat' first
    | with_reducible assumption | with_reducible apply State.setQueue_keep | with_reducible apply State.mboxEnd_keep
      | with_reducible apply State.zeroCredit_keep | simp only [Keep.upd_iff] | with_reducible apply Keep.ite | split

theorem State.opQResume_keep {s0 : State} (s : State) (m : Mgmt) (hk : Keep s0 s) : Keep s0 (State.opQResume s m) := by
  unfold State.opQResume
  try dsimp only
  repeat' first
    | with_reducible assumption | with_reducible apply State.setQueue_keep | with_reducible apply State.mboxEnd_keep
      | simp only [Keep.upd_iff] | with_reducible apply Keep.ite | split

theorem State.destroyQueue_keep {s0 : State} (s : State) (q : Nat) (hk : Keep s0 s) : Keep s0 (State.destroyQueue s
    q) := by
  unfold State.destroyQueue
  try dsimp only
  repeat' first
    | with_reducible assumption | with_reducible apply State.setQueue_keep | with_reducible apply State.dropRef_keep
      | with_reducible apply State.dropWaiting_keep | with_reducible apply State.stopRunning_keep
      | with_reducible apply State.stopMover_keep | simp only [Keep.upd_iff] | with_reducible apply Keep.foldl
      | with_reducible apply Keep.foldlPair | intro _

theorem State.opQDestroy_keep {s0 : State} (s : State) (m : Mgmt) (hk : Keep s0 s) : Keep s0 (State.opQDestroy s m)
    := by
  unfold State.opQDestroy
  try dsimp only
  repeat' first
    | with_reducible assumption | with_reducible apply State.mboxEnd_keep
      | with_reducible apply State.destroyQueue_keep | simp only [Keep.upd_iff] | with_reducible apply Keep.ite
      | split

theorem State.opObjCreate_keep {s0 : State} (s : State) (m : Mgmt) (hk : Keep s0 s) : Keep s0 (State.opObjCreate s m)
    := by
  unfold State.opObjCreate
  try dsimp only
  repeat' first
    | with_reducible assumption | with_reducible apply State.setObj_keep | with_reducible apply State.mboxEnd_keep
      | simp only [Keep.upd_iff] | with_reducible apply Keep.ite | split

theorem State.opObjFree_keep {s0 : State} (s : State) (m : Mgmt) (hk : Keep s0 s) : Keep s0 (State.opObjFree s m) := by
  unfold State.opObjFree
  try dsimp only
  repeat' first
    | with_reducible assumption | with_reducible apply State.setObj_keep | with_reducible apply State.mboxEnd_keep
      | simp only [Keep.upd_iff] | with_reducible apply Keep.ite | split

theorem State.stopObject_keep {s0 : State} (s : State) (h : Nat) (hk : Keep s0 s) : Keep s0 (State.stopObject s h) := by
  unfold State.stopObject
  try dsimp only
  repeat' first
    | with_reducible assumption | with_reducible apply State.updCmd_keep | with_reducible apply State.abortCmd_keep
      | simp only [Keep.upd_iff] | with_reducible apply Keep.foldl | with_reducible apply Keep.foldlPair | intro _
      | with_reducible apply Keep.ite | split

theorem State.opObjDestroy_keep {s0 : State} (s : State) (m : Mgmt) (hk : Keep s0 s) : Keep s0 (State.opObjDestroy s
    m) := by
  unfold State.opObjDestroy
  try dsimp only
  repeat' first
    | with_reducible assumption | with_reducible apply State.setObj_keep | with_reducible apply State.mboxEnd_keep
      | with_reducible apply State.stopObject_keep | simp only [Keep.upd_iff] | with_reducible apply Keep.ite | split

theorem State.opFenceCreate_keep {s0 : State} (s : State) (m : Mgmt) (hk : Keep s0 s) : Keep s0 (State.opFenceCreate
    s m) := by
  unfold State.opFenceCreate
  try dsimp only
  repeat' first
    | with_reducible assumption | with_reducible apply State.setFence_keep | with_reducible apply State.mboxEnd_keep
      | simp only [Keep.upd_iff] | with_reducible apply KeepOpt.bind | intro _ | with_reducible apply Keep.ite | split

theorem State.opFenceBind_keep {s0 : State} (s : State) (m : Mgmt) (hk : Keep s0 s) : Keep s0 (State.opFenceBind s m)
    := by
  unfold State.opFenceBind
  try dsimp only
  repeat' first
    | with_reducible assumption | with_reducible apply State.setFence_keep | with_reducible apply State.mboxEnd_keep
      | simp only [Keep.upd_iff] | with_reducible apply KeepOpt.bind | intro _ | with_reducible apply Keep.ite | split

theorem State.opFenceReset_keep {s0 : State} (s : State) (m : Mgmt) (hk : Keep s0 s) : Keep s0 (State.opFenceReset s
    m) := by
  unfold State.opFenceReset
  try dsimp only
  repeat' first
    | with_reducible assumption | with_reducible apply State.setFence_keep
      | with_reducible apply State.evalWaiters_keep | with_reducible apply State.mboxEnd_keep
      | simp only [Keep.upd_iff] | with_reducible apply Keep.ite | split

theorem State.orphanFence_keep {s0 : State} (s : State) (f : Nat) (hk : Keep s0 s) : Keep s0 (State.orphanFence s f)
    := by
  unfold State.orphanFence
  try dsimp only
  repeat' first
    | with_reducible assumption | simp only [Keep.upd_iff] | intro _ | with_reducible apply Keep.ite | split

theorem State.opFenceDestroy_keep {s0 : State} (s : State) (m : Mgmt) (hk : Keep s0 s) : Keep s0
    (State.opFenceDestroy s m) := by
  unfold State.opFenceDestroy
  try dsimp only
  repeat' first
    | with_reducible assumption | with_reducible apply State.setFence_keep | with_reducible apply State.emit_keep
      | with_reducible apply State.evalWaiters_keep | with_reducible apply State.mboxEnd_keep
      | with_reducible apply State.orphanFence_keep | simp only [Keep.upd_iff] | with_reducible apply Keep.foldl
      | with_reducible apply Keep.foldlPair | intro _ | with_reducible apply Keep.ite | split

theorem State.opAttest_keep {s0 : State} (s : State) (m : Mgmt) (hk : Keep s0 s) : Keep s0 (State.opAttest s m) := by
  unfold State.opAttest
  try dsimp only
  repeat' first
    | with_reducible assumption | with_reducible apply State.draw_keep | with_reducible apply State.emit_keep
      | with_reducible apply State.mboxEnd_keep | simp only [Keep.upd_iff]
      | with_reducible refine Keep.ofSnd (by assumption) ?_ | with_reducible apply Keep.ite | split

theorem State.mboxRun_keep {s0 : State} (s : State) (m : Mgmt) (hk : Keep s0 s) : Keep s0 (State.mboxRun s m) := by
  unfold State.mboxRun
  try dsimp only
  repeat' first
    | with_reducible assumption | with_reducible apply State.mboxEnd_keep
      | with_reducible apply State.opCtxCreate_keep | with_reducible apply State.opCtxShare_keep
      | with_reducible apply State.opCtxSeg_keep | with_reducible apply State.opCtxQuiesce_keep
      | with_reducible apply State.opCtxResume_keep | with_reducible apply State.opCtxReset_keep
      | with_reducible apply State.opCtxRemove_keep | with_reducible apply State.opCtxBacking_keep
      | with_reducible apply State.opCtxSave_keep | with_reducible apply State.opCtxRestore_keep
      | with_reducible apply State.opQEnable_keep | with_reducible apply State.opQResume_keep
      | with_reducible apply State.opQDestroy_keep | with_reducible apply State.opObjCreate_keep
      | with_reducible apply State.opObjFree_keep | with_reducible apply State.opObjDestroy_keep
      | with_reducible apply State.opFenceCreate_keep | with_reducible apply State.opFenceBind_keep
      | with_reducible apply State.opFenceReset_keep | with_reducible apply State.opFenceDestroy_keep
      | with_reducible apply State.opAttest_keep | simp only [Keep.upd_iff] | with_reducible apply Keep.ite | split

theorem State.writeMgmtCmd_keep {s0 : State} (s : State) (acc : Acc) (v : Word) (hk : Keep s0 s) : Keep s0
    (State.writeMgmtCmd s acc v) := by
  unfold State.writeMgmtCmd
  try dsimp only
  repeat' first
    | with_reducible assumption | with_reducible apply State.mboxEnd_keep | with_reducible apply State.mboxRun_keep
      | simp only [Keep.upd_iff] | intro _ | with_reducible apply Keep.ite | split

theorem mboxRow_keep {s0 : State} (op : Nat) (name : String) (acc : Acc) (v : Word) (s : State) (hk : Keep s0 s) :
    KeepAns s0 (mboxRow op name acc v s) := by
  unfold mboxRow
  try dsimp only
  repeat' first
    | with_reducible assumption | with_reducible apply KeepAns.next | with_reducible apply KeepAns.refused
      | with_reducible apply KeepAns.ite | with_reducible apply mmio_keep
      | with_reducible apply State.writeMgmtCmd_keep | simp only [Keep.upd_iff] | intro _
      | with_reducible apply Keep.ite | split

theorem execMgmtCmdIndexWrite_keep {s0 : State} (v : BitVec 32) (s : State) (hk : Keep s0 s) : KeepAns s0
    (execMgmtCmdIndexWrite v s) := by
  unfold execMgmtCmdIndexWrite
  try dsimp only
  repeat' first
    | with_reducible assumption | with_reducible apply KeepAns.next | with_reducible apply KeepAns.refused
      | with_reducible apply mmio_keep | with_reducible apply State.writeMgmtCmd_keep | simp only [Keep.upd_iff]
      | intro _

theorem execMailboxUnknownOp_keep {s0 : State} (acc : Acc) (v : Word) (s : State) (hk : Keep s0 s) : KeepAns s0
    (execMailboxUnknownOp acc v s) := by
  unfold execMailboxUnknownOp
  try dsimp only
  repeat' first
    | with_reducible assumption | with_reducible apply KeepAns.next | with_reducible apply KeepAns.refused
      | with_reducible apply KeepAns.ite | with_reducible apply mmio_keep
      | with_reducible apply State.writeMgmtCmd_keep | simp only [Keep.upd_iff] | intro _
      | with_reducible apply Keep.ite | split

theorem execCtxCreate_keep {s0 : State} (acc : Acc) (v : Word) (s : State) (hk : Keep s0 s) : KeepAns s0
    (execCtxCreate acc v s) := by
  unfold execCtxCreate
  try dsimp only
  repeat' first
    | with_reducible assumption | with_reducible apply KeepAns.next | with_reducible apply KeepAns.refused
      | with_reducible apply mboxRow_keep | simp only [Keep.upd_iff] | intro _

theorem execCtxShare_keep {s0 : State} (acc : Acc) (v : Word) (s : State) (hk : Keep s0 s) : KeepAns s0 (execCtxShare
    acc v s) := by
  unfold execCtxShare
  try dsimp only
  repeat' first
    | with_reducible assumption | with_reducible apply KeepAns.next | with_reducible apply KeepAns.refused
      | with_reducible apply mboxRow_keep | simp only [Keep.upd_iff] | intro _

theorem execCtxSeg_keep {s0 : State} (acc : Acc) (v : Word) (s : State) (hk : Keep s0 s) : KeepAns s0 (execCtxSeg acc
    v s) := by
  unfold execCtxSeg
  try dsimp only
  repeat' first
    | with_reducible assumption | with_reducible apply KeepAns.next | with_reducible apply KeepAns.refused
      | with_reducible apply mboxRow_keep | simp only [Keep.upd_iff] | intro _

theorem execCtxQuiesce_keep {s0 : State} (acc : Acc) (v : Word) (s : State) (hk : Keep s0 s) : KeepAns s0
    (execCtxQuiesce acc v s) := by
  unfold execCtxQuiesce
  try dsimp only
  repeat' first
    | with_reducible assumption | with_reducible apply KeepAns.next | with_reducible apply KeepAns.refused
      | with_reducible apply mboxRow_keep | simp only [Keep.upd_iff] | intro _

theorem execCtxResume_keep {s0 : State} (acc : Acc) (v : Word) (s : State) (hk : Keep s0 s) : KeepAns s0
    (execCtxResume acc v s) := by
  unfold execCtxResume
  try dsimp only
  repeat' first
    | with_reducible assumption | with_reducible apply KeepAns.next | with_reducible apply KeepAns.refused
      | with_reducible apply mboxRow_keep | simp only [Keep.upd_iff] | intro _

theorem execCtxReset_keep {s0 : State} (acc : Acc) (v : Word) (s : State) (hk : Keep s0 s) : KeepAns s0 (execCtxReset
    acc v s) := by
  unfold execCtxReset
  try dsimp only
  repeat' first
    | with_reducible assumption | with_reducible apply KeepAns.next | with_reducible apply KeepAns.refused
      | with_reducible apply mboxRow_keep | simp only [Keep.upd_iff] | intro _

theorem execCtxRemove_keep {s0 : State} (acc : Acc) (v : Word) (s : State) (hk : Keep s0 s) : KeepAns s0
    (execCtxRemove acc v s) := by
  unfold execCtxRemove
  try dsimp only
  repeat' first
    | with_reducible assumption | with_reducible apply KeepAns.next | with_reducible apply KeepAns.refused
      | with_reducible apply mboxRow_keep | simp only [Keep.upd_iff] | intro _

theorem execCtxSave_keep {s0 : State} (acc : Acc) (v : Word) (s : State) (hk : Keep s0 s) : KeepAns s0 (execCtxSave
    acc v s) := by
  unfold execCtxSave
  try dsimp only
  repeat' first
    | with_reducible assumption | with_reducible apply KeepAns.next | with_reducible apply KeepAns.refused
      | with_reducible apply mboxRow_keep | simp only [Keep.upd_iff] | intro _

theorem execCtxRestore_keep {s0 : State} (acc : Acc) (v : Word) (s : State) (hk : Keep s0 s) : KeepAns s0
    (execCtxRestore acc v s) := by
  unfold execCtxRestore
  try dsimp only
  repeat' first
    | with_reducible assumption | with_reducible apply KeepAns.next | with_reducible apply KeepAns.refused
      | with_reducible apply mboxRow_keep | simp only [Keep.upd_iff] | intro _

theorem execCtxBacking_keep {s0 : State} (acc : Acc) (v : Word) (s : State) (hk : Keep s0 s) : KeepAns s0
    (execCtxBacking acc v s) := by
  unfold execCtxBacking
  try dsimp only
  repeat' first
    | with_reducible assumption | with_reducible apply KeepAns.next | with_reducible apply KeepAns.refused
      | with_reducible apply mboxRow_keep | simp only [Keep.upd_iff] | intro _

theorem execAttest_keep {s0 : State} (acc : Acc) (v : Word) (s : State) (hk : Keep s0 s) : KeepAns s0 (execAttest acc
    v s) := by
  unfold execAttest
  try dsimp only
  repeat' first
    | with_reducible assumption | with_reducible apply KeepAns.next | with_reducible apply KeepAns.refused
      | with_reducible apply mboxRow_keep | simp only [Keep.upd_iff] | intro _

theorem execQEnable_keep {s0 : State} (acc : Acc) (v : Word) (s : State) (hk : Keep s0 s) : KeepAns s0 (execQEnable
    acc v s) := by
  unfold execQEnable
  try dsimp only
  repeat' first
    | with_reducible assumption | with_reducible apply KeepAns.next | with_reducible apply KeepAns.refused
      | with_reducible apply mboxRow_keep | simp only [Keep.upd_iff] | intro _

theorem execQResume_keep {s0 : State} (acc : Acc) (v : Word) (s : State) (hk : Keep s0 s) : KeepAns s0 (execQResume
    acc v s) := by
  unfold execQResume
  try dsimp only
  repeat' first
    | with_reducible assumption | with_reducible apply KeepAns.next | with_reducible apply KeepAns.refused
      | with_reducible apply mboxRow_keep | simp only [Keep.upd_iff] | intro _

theorem execQDestroy_keep {s0 : State} (acc : Acc) (v : Word) (s : State) (hk : Keep s0 s) : KeepAns s0 (execQDestroy
    acc v s) := by
  unfold execQDestroy
  try dsimp only
  repeat' first
    | with_reducible assumption | with_reducible apply KeepAns.next | with_reducible apply KeepAns.refused
      | with_reducible apply mboxRow_keep | simp only [Keep.upd_iff] | intro _

theorem execObjCreate_keep {s0 : State} (acc : Acc) (v : Word) (s : State) (hk : Keep s0 s) : KeepAns s0
    (execObjCreate acc v s) := by
  unfold execObjCreate
  try dsimp only
  repeat' first
    | with_reducible assumption | with_reducible apply KeepAns.next | with_reducible apply KeepAns.refused
      | with_reducible apply mboxRow_keep | simp only [Keep.upd_iff] | intro _

theorem execObjFree_keep {s0 : State} (acc : Acc) (v : Word) (s : State) (hk : Keep s0 s) : KeepAns s0 (execObjFree
    acc v s) := by
  unfold execObjFree
  try dsimp only
  repeat' first
    | with_reducible assumption | with_reducible apply KeepAns.next | with_reducible apply KeepAns.refused
      | with_reducible apply mboxRow_keep | simp only [Keep.upd_iff] | intro _

theorem execObjDestroy_keep {s0 : State} (acc : Acc) (v : Word) (s : State) (hk : Keep s0 s) : KeepAns s0
    (execObjDestroy acc v s) := by
  unfold execObjDestroy
  try dsimp only
  repeat' first
    | with_reducible assumption | with_reducible apply KeepAns.next | with_reducible apply KeepAns.refused
      | with_reducible apply mboxRow_keep | simp only [Keep.upd_iff] | intro _

theorem execFenceCreate_keep {s0 : State} (acc : Acc) (v : Word) (s : State) (hk : Keep s0 s) : KeepAns s0
    (execFenceCreate acc v s) := by
  unfold execFenceCreate
  try dsimp only
  repeat' first
    | with_reducible assumption | with_reducible apply KeepAns.next | with_reducible apply KeepAns.refused
      | with_reducible apply mboxRow_keep | simp only [Keep.upd_iff] | intro _

theorem execFenceBind_keep {s0 : State} (acc : Acc) (v : Word) (s : State) (hk : Keep s0 s) : KeepAns s0
    (execFenceBind acc v s) := by
  unfold execFenceBind
  try dsimp only
  repeat' first
    | with_reducible assumption | with_reducible apply KeepAns.next | with_reducible apply KeepAns.refused
      | with_reducible apply mboxRow_keep | simp only [Keep.upd_iff] | intro _

theorem execFenceReset_keep {s0 : State} (acc : Acc) (v : Word) (s : State) (hk : Keep s0 s) : KeepAns s0
    (execFenceReset acc v s) := by
  unfold execFenceReset
  try dsimp only
  repeat' first
    | with_reducible assumption | with_reducible apply KeepAns.next | with_reducible apply KeepAns.refused
      | with_reducible apply mboxRow_keep | simp only [Keep.upd_iff] | intro _

theorem execFenceDestroy_keep {s0 : State} (acc : Acc) (v : Word) (s : State) (hk : Keep s0 s) : KeepAns s0
    (execFenceDestroy acc v s) := by
  unfold execFenceDestroy
  try dsimp only
  repeat' first
    | with_reducible assumption | with_reducible apply KeepAns.next | with_reducible apply KeepAns.refused
      | with_reducible apply mboxRow_keep | simp only [Keep.upd_iff] | intro _

theorem execCtxQuiesced_keep {s0 : State} (c : Nat) (s : State) (hk : Keep s0 s) : KeepAns s0 (execCtxQuiesced c s)
    := by
  unfold execCtxQuiesced
  try dsimp only
  repeat' first
    | with_reducible assumption | with_reducible apply KeepAns.next | with_reducible apply KeepAns.refused
      | with_reducible apply KeepAns.ite | with_reducible apply State.msix_keep
      | with_reducible apply State.setQuiesced_keep | with_reducible apply TRun.all_keep | simp only [Keep.upd_iff]
      | intro _ | with_reducible apply Keep.ite | split

theorem execFenceFlushAck_keep {s0 : State} (f t : Nat) (s : State) (hk : Keep s0 s) : KeepAns s0 (execFenceFlushAck
    f t s) := by
  unfold execFenceFlushAck
  try dsimp only
  repeat' first
    | with_reducible assumption | with_reducible apply KeepAns.next | with_reducible apply KeepAns.refused
      | with_reducible apply KeepAns.ite | with_reducible apply State.setFence_keep
      | with_reducible apply State.mboxEnd_keep | simp only [Keep.upd_iff] | intro _ | with_reducible apply Keep.ite
      | split

theorem State.sigArrives_keep {s0 : State} (s : State) (c f : Nat) (v : BitVec 32) (agree : Bool) (hk : Keep s0 s) :
    Keep s0 (State.sigArrives s c f v agree) := by
  unfold State.sigArrives
  try dsimp only
  repeat' first
    | with_reducible assumption | with_reducible apply State.setFence_keep
      | with_reducible apply State.raiseSafety_keep | with_reducible apply State.flagFence_keep
      | with_reducible apply State.evalWaiters_keep | simp only [Keep.upd_iff] | with_reducible apply Keep.ite | split

theorem execFenceSignalArrival_keep {s0 : State} (t f : Nat) (agree : Bool) (s : State) (hk : Keep s0 s) : KeepAns s0
    (execFenceSignalArrival t f agree s) := by
  unfold execFenceSignalArrival
  try dsimp only
  repeat' first
    | with_reducible assumption | with_reducible apply KeepAns.next | with_reducible apply KeepAns.refused
      | with_reducible apply State.setCore_keep | with_reducible apply State.sigArrives_keep
      | simp only [Keep.upd_iff] | intro _ | split

theorem execCtxSaveDone_keep {s0 : State} (res : Res) (s : State) (hk : Keep s0 s) : KeepAns s0 (execCtxSaveDone res
    s) := by
  unfold execCtxSaveDone
  try dsimp only
  repeat' first
    | with_reducible assumption | with_reducible apply KeepAns.next | with_reducible apply KeepAns.refused
      | with_reducible apply KeepAns.ite | with_reducible apply State.emit_keep
      | with_reducible apply State.countEcc_keep | with_reducible apply State.ueRead_keep
      | with_reducible apply Reply.ok_keep | with_reducible apply State.mboxEnd_keep | simp only [Keep.upd_iff]
      | intro _ | with_reducible apply Keep.ite | split

theorem State.restoreShare_keep {s0 : State} (s : State) (c : Nat) (x : SavedShare) (hk : Keep s0 s) : KeepOpt s0
    (State.restoreShare s c x) := by
  unfold State.restoreShare
  try dsimp only
  repeat' first
    | with_reducible assumption | with_reducible apply KeepOpt.some | with_reducible apply KeepOpt.none
      | with_reducible apply KeepOpt.map | with_reducible apply State.setTile_keep
      | with_reducible apply State.pokeN_keep | with_reducible apply State.clearGranules_keep
      | simp only [Keep.upd_iff] | with_reducible apply Keep.foldl | with_reducible apply Keep.foldlPair | intro _
      | split

theorem State.restoreShares_keep {s0 : State} (c : Nat) : ∀ (l : List SavedShare) (s : State), Keep s0 s →
    KeepOpt s0 (State.restoreShares c l s) := by
  intro l
  induction l with
  | nil => intro s hk; exact hk
  | cons x l ih =>
    intro s hk
    unfold State.restoreShares
    split
    · rename_i e
      exact ih _ (Keep.ofOpt e (State.restoreShare_keep s c x hk))
    · exact KeepOpt.none

theorem State.fillRange_keep {s0 : State} (s : State) (b : BitVec 32) (e : Nat × Nat × List (Nat × Byte)) (hk : Keep s0 s) :
    Keep s0 (s.fillRange b e) := by
  unfold State.fillRange
  dsimp only
  split
  · exact hk.updMem (fun h => memFill_wf _ _ _ _ (memErase_wf _ _ _ h))
  · exact hk

theorem State.recheckSegs_keep {s0 : State} (s : State) (hk : Keep s0 s) : Keep s0 (State.recheckSegs s) := by
  unfold State.recheckSegs
  try dsimp only
  repeat' first
    | with_reducible assumption | simp only [Keep.upd_iff] | intro _ | with_reducible apply Keep.ite | split

theorem State.rebuild_keep {s0 : State} (s : State) (m : Mgmt) (x : Saved) (hk : Keep s0 s) : KeepExc s0 (fun s => s)
    (State.rebuild s m x) := by
  unfold State.rebuild
  try dsimp only
  repeat' first
    | with_reducible assumption | with_reducible apply KeepExc.ok | with_reducible apply KeepExc.error
      | with_reducible apply State.setQueue_keep | with_reducible apply State.setCtx_keep
      | with_reducible apply State.setFence_keep | with_reducible apply State.setObj_keep
      | with_reducible apply State.updBunch_keep | with_reducible apply Reply.ok_keep
      | with_reducible apply State.restoreShares_keep | with_reducible apply State.fillRange_keep
      | with_reducible apply State.recheckSegs_keep | simp only [Keep.upd_iff] | with_reducible apply Keep.foldl
      | with_reducible apply Keep.foldlPair | with_reducible refine Keep.ofOpt (by assumption) ?_ | intro _
      | with_reducible apply Keep.ite | split

theorem State.restoreEnd_keep {s0 : State} (s : State) (m : Mgmt) (img : HostBytes) (hk : Keep s0 s) : Keep s0
    (State.restoreEnd s m img) := by
  unfold State.restoreEnd
  try dsimp only
  repeat' first
    | with_reducible assumption | with_reducible apply Reply.ok_keep | with_reducible apply State.mboxEnd_keep
      | with_reducible apply State.rebuild_keep | simp only [Keep.upd_iff]
      | with_reducible refine Keep.ofExc (by assumption) ?_ | with_reducible apply Keep.ite | split

theorem execCtxRestoreDone_keep {s0 : State} (res : Res) (image : HostBytes) (s : State) (hk : Keep s0 s) : KeepAns
    s0 (execCtxRestoreDone res image s) := by
  unfold execCtxRestoreDone
  try dsimp only
  repeat' first
    | with_reducible assumption | with_reducible apply KeepAns.next | with_reducible apply KeepAns.refused
      | with_reducible apply KeepAns.ite | with_reducible apply State.emit_keep | with_reducible apply Reply.ok_keep
      | with_reducible apply State.mboxEnd_keep | with_reducible apply State.restoreEnd_keep
      | simp only [Keep.upd_iff] | intro _ | with_reducible apply Keep.ite | split

theorem State.writeQueueReg_keep {s0 : State} (s : State) (q reg : Nat) (acc : Acc) (v : Word) (hk : Keep s0 s) :
    Keep s0 (State.writeQueueReg s q reg acc v) := by
  unfold State.writeQueueReg
  try dsimp only
  repeat' first
    | with_reducible assumption | with_reducible apply State.setQueue_keep
      | with_reducible apply State.writeQStatus_keep | simp only [Keep.upd_iff] | with_reducible apply Keep.ite
      | split

theorem State.writeMsix_keep {s0 : State} (s : State) (i : Nat) (acc : Acc) (v : Word) (hk : Keep s0 s) : Keep s0
    (State.writeMsix s i acc v) := by
  unfold State.writeMsix
  try dsimp only
  repeat' first
    | with_reducible assumption | with_reducible apply State.emit_keep | with_reducible apply State.msix_keep
      | simp only [Keep.upd_iff] | with_reducible apply Keep.ite | split

theorem State.writeMgmtArg_keep {s0 : State} (s : State) (i : Nat) (acc : Acc) (v : Word) (hk : Keep s0 s) : Keep s0
    (State.writeMgmtArg s i acc v) := by
  unfold State.writeMgmtArg
  try dsimp only
  repeat' first
    | with_reducible assumption | simp only [Keep.upd_iff]

theorem State.writeReg_keep {s0 : State} (s : State) (off : Nat) (acc : Acc) (v : Word) (hk : Keep s0 s) : Keep s0
    (State.writeReg s off acc v) := by
  unfold State.writeReg
  try dsimp only
  repeat' first
    | with_reducible assumption | with_reducible apply State.writeDom_keep
      | with_reducible apply State.writeSmpCfg_keep | with_reducible apply State.writeSmpInterval_keep
      | with_reducible apply State.writeSmpHead_keep | with_reducible apply State.writeSmpStatus_keep
      | with_reducible apply State.writeGrpCtl_keep | with_reducible apply State.writeTraceCtl_keep
      | with_reducible apply State.writeBar4Ctrl_keep | with_reducible apply State.writeHiErr_keep
      | with_reducible apply State.writeFqCfg_keep | with_reducible apply State.writeFqHead_keep
      | with_reducible apply State.writeFqStatus_keep | with_reducible apply State.writeSlotFlags_keep
      | with_reducible apply State.writeSlotDeadline_keep | with_reducible apply State.writeStoreErr_keep
      | with_reducible apply State.writeSched_keep | with_reducible apply State.writeMpErr_keep
      | with_reducible apply State.writeLoss_keep | with_reducible apply State.writeRnErr_keep
      | with_reducible apply State.writeXing_keep | with_reducible apply State.writeHostCap_keep
      | with_reducible apply State.writeMgmtCmd_keep | with_reducible apply State.writeQueueReg_keep
      | with_reducible apply State.writeMsix_keep | with_reducible apply State.writeMgmtArg_keep
      | simp only [Keep.upd_iff] | with_reducible apply Keep.ite | split

theorem State.writeBar0_keep {s0 : State} (s : State) (off len : Nat) (v : Word) (hk : Keep s0 s) : Keep s0
    (State.writeBar0 s off len v) := by
  unfold State.writeBar0
  try dsimp only
  repeat' first
    | with_reducible assumption | with_reducible apply State.writeReg_keep | simp only [Keep.upd_iff]
      | with_reducible apply Keep.ite | split

theorem execMmioWrite_keep {s0 : State} (off len : Nat) (v : Word) (s : State) (hk : Keep s0 s) : KeepAns s0
    (execMmioWrite off len v s) := by
  unfold execMmioWrite
  try dsimp only
  repeat' first
    | with_reducible assumption | with_reducible apply KeepAns.next | with_reducible apply KeepAns.refused
      | with_reducible apply mmio_keep | with_reducible apply State.writeBar0_keep | simp only [Keep.upd_iff]
      | intro _

end Sys2Proof.Machine
end

