-- ==== Sys2Proof/Laws/KeepLife.lean ====
section
/-! SUPPORT. The operations of Machine/Life.lean keep the queue, the variant and the canonical form of memory. -/

set_option linter.unusedSimpArgs false
set_option linter.unusedTactic false
set_option linter.unreachableTactic false

namespace Sys2Proof.Machine

theorem State.issueWord_keep {s0 : State} (s : State) (t : Nat) (w x : Word) (hk : Keep s0 s) : Keep s0
    (State.issueWord s t w x) := by
  unfold State.issueWord
  try dsimp only
  repeat' first
    | with_reducible assumption | with_reducible apply State.issueMv_keep | with_reducible apply State.issueVec_keep
      | with_reducible apply State.issueCvt_keep | with_reducible apply State.issueGate_keep
      | with_reducible apply State.issueTensor_keep | with_reducible apply State.issueEx_keep
      | simp only [Keep.upd_iff] | with_reducible apply Keep.ite | split

theorem execEngineSlotFree_keep {s0 : State} (t : Nat) (s : State) (hk : Keep s0 s) : KeepAns s0 (execEngineSlotFree
    t s) := by
  unfold execEngineSlotFree
  try dsimp only
  repeat' first
    | with_reducible assumption | with_reducible apply KeepAns.next | with_reducible apply KeepAns.refused
      | with_reducible apply KeepAns.ite | with_reducible apply State.setCore_keep
      | with_reducible apply State.issueWord_keep | simp only [Keep.upd_iff] | intro _ | with_reducible apply Keep.ite
      | split

theorem execKernelBoundary_keep {s0 : State} (t : Nat) (s : State) (hk : Keep s0 s) : KeepAns s0 (execKernelBoundary
    t s) := by
  unfold execKernelBoundary
  try dsimp only
  repeat' first
    | with_reducible assumption | with_reducible apply KeepAns.next | with_reducible apply KeepAns.refused
      | with_reducible apply KeepAns.ite | with_reducible apply State.boundary_keep | simp only [Keep.upd_iff]
      | intro _ | with_reducible apply Keep.ite | split

theorem execCoreLockstep_keep {s0 : State} (t : Nat) (s : State) (hk : Keep s0 s) : KeepAns s0 (execCoreLockstep t s)
    := by
  unfold execCoreLockstep
  try dsimp only
  repeat' first
    | with_reducible assumption | with_reducible apply KeepAns.next | with_reducible apply KeepAns.refused
      | with_reducible apply State.raiseSafety_keep | with_reducible apply State.safetyStop_keep
      | simp only [Keep.upd_iff] | intro _ | split

theorem execPatrolScrub_keep {s0 : State} (t line : Nat) (res : Res) (s : State) (hk : Keep s0 s) : KeepAns s0
    (execPatrolScrub t line res s) := by
  unfold execPatrolScrub
  try dsimp only
  repeat' first
    | with_reducible assumption | with_reducible apply KeepAns.next | with_reducible apply KeepAns.refused
      | with_reducible apply KeepAns.ite | with_reducible apply State.countEcc_keep
      | with_reducible apply State.ueRead_keep | simp only [Keep.upd_iff] | intro _ | with_reducible apply Keep.ite
      | split

theorem execHandshakeStall_keep {s0 : State} (t : Nat) (s : State) (hk : Keep s0 s) : KeepAns s0 (execHandshakeStall
    t s) := by
  unfold execHandshakeStall
  try dsimp only
  repeat' first
    | with_reducible assumption | with_reducible apply KeepAns.next | with_reducible apply KeepAns.refused
      | with_reducible apply KeepAns.ite | with_reducible apply State.setTile_keep
      | with_reducible apply State.raiseSafety_keep | simp only [Keep.upd_iff] | intro _
      | with_reducible apply Keep.ite | split

theorem State.clearDone_keep {s0 : State} (s : State) (t : Nat) (bm : BitVec 256) (slot : Option Nat) (rest : List
    (BitVec 256 × Option Nat)) (hk : Keep s0 s) : Keep s0 (State.clearDone s t bm slot rest) := by
  unfold State.clearDone
  try dsimp only
  repeat' first
    | with_reducible assumption | with_reducible apply State.setTile_keep
      | with_reducible apply State.clearGranules_keep | simp only [Keep.upd_iff] | split

theorem execWrittenBitClearDone_keep {s0 : State} (t : Nat) (s : State) (hk : Keep s0 s) : KeepAns s0
    (execWrittenBitClearDone t s) := by
  unfold execWrittenBitClearDone
  try dsimp only
  repeat' first
    | with_reducible assumption | with_reducible apply KeepAns.next | with_reducible apply KeepAns.refused
      | with_reducible apply KeepAns.ite | with_reducible apply State.mboxEnd_keep
      | with_reducible apply State.clearDone_keep | simp only [Keep.upd_iff] | intro _ | with_reducible apply Keep.ite
      | split

theorem State.swapEnd_keep {s0 : State} (s : State) (t : Nat) (w : Swap) (hk : Keep s0 s) : Keep s0 (State.swapEnd s
    t w) := by
  unfold State.swapEnd
  try dsimp only
  repeat' first
    | with_reducible assumption | with_reducible apply State.setTile_keep | with_reducible apply State.swapOut_keep
      | with_reducible apply State.swapIn_keep | with_reducible apply State.dispatchTile_keep
      | with_reducible apply State.shareGoes_keep | simp only [Keep.upd_iff] | with_reducible apply Keep.foldl
      | with_reducible apply Keep.foldlPair | intro _ | split

theorem execSwapDone_keep {s0 : State} (t : Nat) (s : State) (hk : Keep s0 s) : KeepAns s0 (execSwapDone t s) := by
  unfold execSwapDone
  try dsimp only
  repeat' first
    | with_reducible assumption | with_reducible apply KeepAns.next | with_reducible apply KeepAns.refused
      | with_reducible apply KeepAns.ite | with_reducible apply State.swapEnd_keep | simp only [Keep.upd_iff]
      | intro _ | with_reducible apply Keep.ite | split

theorem execWatchdogExpire_keep {s0 : State} (t : Nat) (s : State) (hk : Keep s0 s) : KeepAns s0 (execWatchdogExpire
    t s) := by
  unfold execWatchdogExpire
  try dsimp only
  repeat' first
    | with_reducible assumption | with_reducible apply KeepAns.next | with_reducible apply KeepAns.refused
      | with_reducible apply KeepAns.ite | with_reducible apply State.takeWatchdog_keep | simp only [Keep.upd_iff]
      | intro _ | with_reducible apply Keep.ite | split

theorem State.failDispatch_keep {s0 : State} (s : State) (t : Nat) (o : EngOp) (code : Nat) (hk : Keep s0 s) : Keep
    s0 (State.failDispatch s t o code) := by
  unfold State.failDispatch
  try dsimp only
  repeat' first
    | with_reducible assumption | with_reducible apply State.endOp_keep | with_reducible apply Reply.fail_keep
      | with_reducible apply State.markOp_keep | with_reducible apply State.unsend_keep
      | with_reducible apply State.proceed_keep | simp only [Keep.upd_iff] | intro _ | with_reducible apply Keep.ite
      | split

theorem State.refuse_keep {s0 : State} (s : State) (who : Requester) (l : List Spot) (res : Res) (hk : Keep s0 s) :
    Keep s0 (State.refuse s who l res) := by
  unfold State.refuse
  try dsimp only
  repeat' first
    | with_reducible assumption | with_reducible apply State.countRefused_keep
      | with_reducible apply State.hostMoved_keep | with_reducible apply State.accessStop_keep
      | with_reducible apply State.moved_keep | with_reducible apply State.failDispatch_keep
      | simp only [Keep.upd_iff] | split

theorem execHostDmaRefused_keep {s0 : State} (who : Requester) (s : State) (hk : Keep s0 s) : KeepAns s0
    (execHostDmaRefused who s) := by
  unfold execHostDmaRefused
  try dsimp only
  repeat' first
    | with_reducible assumption | with_reducible apply KeepAns.next | with_reducible apply KeepAns.refused
      | with_reducible apply KeepAns.ite | with_reducible apply State.refuse_keep | simp only [Keep.upd_iff] | intro _
      | with_reducible apply Keep.ite | split

theorem execRefusedReply_keep {s0 : State} (who : Requester) (s : State) (hk : Keep s0 s) : KeepAns s0
    (execRefusedReply who s) := by
  unfold execRefusedReply
  try dsimp only
  repeat' first
    | with_reducible assumption | with_reducible apply KeepAns.next | with_reducible apply KeepAns.refused
      | with_reducible apply KeepAns.ite | with_reducible apply State.refuse_keep | simp only [Keep.upd_iff] | intro _
      | with_reducible apply Keep.ite | split

theorem execEndpointPacketArrival_keep {s0 : State} (t : Nat) (s : State) (hk : Keep s0 s) : KeepAns s0
    (execEndpointPacketArrival t s) := by
  unfold execEndpointPacketArrival
  try dsimp only
  repeat' first
    | with_reducible assumption | with_reducible apply KeepAns.next | with_reducible apply KeepAns.refused
      | with_reducible apply KeepAns.ite | with_reducible apply State.setTile_keep
      | with_reducible apply State.evalDom_keep | with_reducible apply State.countRefused_keep
      | simp only [Keep.upd_iff] | intro _ | with_reducible apply Keep.ite | split

theorem execDemandIdleTimeout_keep {s0 : State} (t : Nat) (s : State) (hk : Keep s0 s) : KeepAns s0
    (execDemandIdleTimeout t s) := by
  unfold execDemandIdleTimeout
  try dsimp only
  repeat' first
    | with_reducible assumption | with_reducible apply KeepAns.next | with_reducible apply KeepAns.refused
      | with_reducible apply KeepAns.ite | with_reducible apply State.setDom_keep
      | with_reducible apply State.evalDom_keep | simp only [Keep.upd_iff] | intro _ | with_reducible apply Keep.ite
      | split

end Sys2Proof.Machine
end

