-- ==== Sys2Proof/Laws/KeepRunners.lean ====
section
/-! SUPPORT. The operations of Machine/Runners.lean keep the queue, the variant and the canonical form of memory. -/

set_option linter.unusedSimpArgs false
set_option linter.unusedTactic false
set_option linter.unreachableTactic false

namespace Sys2Proof.Machine

theorem State.quadFault_keep {s0 : State} (s : State) (x : Nat) (code : BitVec 16) (hk : Keep s0 s) : Keep s0
    (State.quadFault s x code) := by
  unfold State.quadFault
  try dsimp only
  repeat' first
    | with_reducible assumption | with_reducible apply State.fault_keep | simp only [Keep.upd_iff]

theorem State.countPort_keep {s0 : State} (s : State) (x i k : Nat) (hk : Keep s0 s) : Keep s0 (State.countPort s x i
    k) := by
  unfold State.countPort
  try dsimp only
  repeat' first
    | with_reducible assumption | with_reducible apply State.count_keep | simp only [Keep.upd_iff]
      | with_reducible apply Keep.ite | split

theorem State.sendFlit_keep {s0 : State} (s : State) (x : Nat) (f : BitVec 512) (hk : Keep s0 s) : Keep s0
    (State.sendFlit s x f) := by
  unfold State.sendFlit
  try dsimp only
  repeat' first
    | with_reducible assumption | with_reducible apply State.emit_keep | simp only [Keep.upd_iff]

theorem State.quadReady_keep {s0 : State} (s : State) (x : Nat) (full reversed : Bool) (kind : Nat) (partner : Word)
    (bufs : BitVec 64) (retry : Nat) (hk : Keep s0 s) : Keep s0 (State.quadReady s x full reversed kind partner bufs retry) := by
  unfold State.quadReady
  try dsimp only
  repeat' first
    | with_reducible assumption | with_reducible apply State.setQuad_keep | with_reducible apply State.setRunner_keep
      | with_reducible apply State.draw_keep | with_reducible apply State.emit_keep
      | with_reducible apply State.releasePads_keep | with_reducible apply State.flushWaits_keep
      | with_reducible apply State.sendFlit_keep | simp only [Keep.upd_iff] | simp only [Keep.updBoot_iff]
      | with_reducible apply Keep.foldl | with_reducible apply Keep.foldlPair
      | with_reducible refine Keep.ofSnd (by assumption) ?_ | intro _ | with_reducible apply Keep.ite | split

theorem execQuadTrained_keep {s0 : State} (x : Nat) (full reversed : Bool) (kind : Nat) (partner : Word) (bufs :
    BitVec 64) (retry : Nat) (s : State) (hk : Keep s0 s) : KeepAns s0 (execQuadTrained x full reversed kind partner bufs retry s) := by
  unfold execQuadTrained
  try dsimp only
  repeat' first
    | with_reducible assumption | with_reducible apply KeepAns.next | with_reducible apply KeepAns.refused
      | with_reducible apply KeepAns.ite | with_reducible apply State.quadReady_keep | simp only [Keep.upd_iff]
      | intro _ | with_reducible apply Keep.ite | split

theorem execTrainingTimeout_keep {s0 : State} (x : Nat) (s : State) (hk : Keep s0 s) : KeepAns s0
    (execTrainingTimeout x s) := by
  unfold execTrainingTimeout
  try dsimp only
  repeat' first
    | with_reducible assumption | with_reducible apply KeepAns.next | with_reducible apply KeepAns.refused
      | with_reducible apply KeepAns.ite | with_reducible apply State.setQuad_keep
      | with_reducible apply State.quadFault_keep | simp only [Keep.upd_iff] | intro _ | with_reducible apply Keep.ite
      | split

theorem execTrainingRetry_keep {s0 : State} (x : Nat) (s : State) (hk : Keep s0 s) : KeepAns s0 (execTrainingRetry x
    s) := by
  unfold execTrainingRetry
  try dsimp only
  repeat' first
    | with_reducible assumption | with_reducible apply KeepAns.next | with_reducible apply KeepAns.refused
      | with_reducible apply KeepAns.ite | with_reducible apply State.setQuad_keep | simp only [Keep.upd_iff]
      | intro _ | with_reducible apply Keep.ite | split

theorem State.redo_keep {s0 : State} (s : State) (m : Msg) (hk : Keep s0 s) : Keep s0 (State.redo s m) := by
  unfold State.redo
  try dsimp only
  repeat' first
    | with_reducible assumption | with_reducible apply State.queueAway_keep | with_reducible apply State.sendMsg_keep
      | with_reducible apply Reply.fail_keep | with_reducible apply State.markOp_keep
      | with_reducible apply State.proceed_keep | simp only [Keep.upd_iff]
      | with_reducible refine Keep.ofSnd (by assumption) ?_ | intro _ | with_reducible apply Keep.ite | split

theorem State.quadDown_keep {s0 : State} (s : State) (x : Nat) (hk : Keep s0 s) : Keep s0 (State.quadDown s x) := by
  unfold State.quadDown
  try dsimp only
  repeat' first
    | with_reducible assumption | with_reducible apply State.setQuad_keep | with_reducible apply State.queueAway_keep
      | with_reducible apply State.flushWaits_keep | with_reducible apply State.declareLost_keep
      | with_reducible apply State.redo_keep | simp only [Keep.upd_iff] | with_reducible apply Keep.foldl
      | with_reducible apply Keep.foldlPair | intro _ | with_reducible apply Keep.ite | split

theorem execQuadDown_keep {s0 : State} (x : Nat) (why : DownWhy) (s : State) (hk : Keep s0 s) : KeepAns s0
    (execQuadDown x why s) := by
  unfold execQuadDown
  try dsimp only
  repeat' first
    | with_reducible assumption | with_reducible apply KeepAns.next | with_reducible apply KeepAns.refused
      | with_reducible apply KeepAns.ite | with_reducible apply State.quadFault_keep
      | with_reducible apply State.quadDown_keep | simp only [Keep.upd_iff] | intro _ | with_reducible apply Keep.ite
      | split

theorem State.disablePort_keep {s0 : State} (s : State) (p : Nat) (hk : Keep s0 s) : Keep s0 (State.disablePort s p)
    := by
  unfold State.disablePort
  try dsimp only
  repeat' first
    | with_reducible assumption | with_reducible apply State.setRunner_keep
      | with_reducible apply State.quadFault_keep | with_reducible apply State.quadDown_keep
      | simp only [Keep.upd_iff] | with_reducible apply Keep.foldl | with_reducible apply Keep.foldlPair | intro _
      | with_reducible apply Keep.ite | split

theorem execPortDisable_keep {s0 : State} (f : Frame) (x : Nat) (s : State) (hk : Keep s0 s) : KeepAns s0
    (execPortDisable f x s) := by
  unfold execPortDisable
  try dsimp only
  repeat' first
    | with_reducible assumption | with_reducible apply KeepAns.next | with_reducible apply KeepAns.refused
      | with_reducible apply KeepAns.ite | with_reducible apply framed_keep | with_reducible apply Reply.fail_keep
      | with_reducible apply Reply.ok_keep | with_reducible apply State.disablePort_keep | simp only [Keep.upd_iff]
      | intro _ | with_reducible apply Keep.ite | split

theorem State.takeData_keep {s0 : State} (s : State) (x : Nat) (f : BitVec 512) (hk : Keep s0 s) : Keep s0
    (State.takeData s x f) := by
  unfold State.takeData
  try dsimp only
  repeat' first
    | with_reducible assumption | with_reducible apply State.setQuad_keep
      | with_reducible apply State.countProtocol_keep | with_reducible apply State.countPort_keep
      | simp only [Keep.upd_iff] | with_reducible apply Keep.ite | split

theorem State.badType_keep {s0 : State} (s : State) (x : Nat) (hk : Keep s0 s) : Keep s0 (State.badType s x) := by
  unfold State.badType
  try dsimp only
  repeat' first
    | with_reducible assumption | with_reducible apply State.quadFault_keep | with_reducible apply State.quadDown_keep
      | simp only [Keep.upd_iff]

theorem State.rxData_keep {s0 : State} (s : State) (x : Nat) (f : BitVec 512) (hk : Keep s0 s) : Keep s0
    (State.rxData s x f) := by
  unfold State.rxData
  try dsimp only
  repeat' first
    | with_reducible assumption | with_reducible apply State.setQuad_keep | with_reducible apply State.takeData_keep
      | with_reducible apply State.badType_keep | simp only [Keep.upd_iff] | with_reducible apply Keep.ite | split

theorem State.rxCtrl_keep {s0 : State} (s : State) (x : Nat) (f : BitVec 512) (hk : Keep s0 s) : Keep s0
    (State.rxCtrl s x f) := by
  unfold State.rxCtrl
  try dsimp only
  repeat' first
    | with_reducible assumption | with_reducible apply State.setQuad_keep | with_reducible apply State.setRunner_keep
      | simp only [Keep.upd_iff] | with_reducible apply Keep.ite | split

theorem State.countFec_keep {s0 : State} (s : State) (x : Nat) (f : BitVec 512) (hk : Keep s0 s) : Keep s0
    (State.countFec s x f) := by
  unfold State.countFec
  try dsimp only
  repeat' first
    | with_reducible assumption | with_reducible apply State.draw_keep | simp only [Keep.upd_iff]
      | with_reducible apply Keep.foldl | with_reducible apply Keep.foldlPair
      | with_reducible refine Keep.ofSnd (by assumption) ?_ | intro _ | with_reducible apply Keep.ite | split

theorem State.flitIn_keep {s0 : State} (s : State) (x : Nat) (f : BitVec 512) (hk : Keep s0 s) : Keep s0
    (State.flitIn s x f) := by
  unfold State.flitIn
  try dsimp only
  repeat' first
    | with_reducible assumption | with_reducible apply State.crossUp_keep | with_reducible apply State.countFec_keep
      | simp only [Keep.upd_iff]

theorem execDataFlitRx_keep {s0 : State} (x : Nat) (flit : BitVec 512) (s : State) (hk : Keep s0 s) : KeepAns s0
    (execDataFlitRx x flit s) := by
  unfold execDataFlitRx
  try dsimp only
  repeat' first
    | with_reducible assumption | with_reducible apply KeepAns.next | with_reducible apply KeepAns.refused
      | with_reducible apply KeepAns.ite | with_reducible apply State.rxData_keep
      | with_reducible apply State.flitIn_keep | simp only [Keep.upd_iff] | intro _ | with_reducible apply Keep.ite
      | split

theorem execCtrlFlitRx_keep {s0 : State} (x : Nat) (flit : BitVec 512) (s : State) (hk : Keep s0 s) : KeepAns s0
    (execCtrlFlitRx x flit s) := by
  unfold execCtrlFlitRx
  try dsimp only
  repeat' first
    | with_reducible assumption | with_reducible apply KeepAns.next | with_reducible apply KeepAns.refused
      | with_reducible apply KeepAns.ite | with_reducible apply State.rxCtrl_keep
      | with_reducible apply State.flitIn_keep | simp only [Keep.upd_iff] | intro _ | with_reducible apply Keep.ite
      | split

theorem execAckTimeout_keep {s0 : State} (x : Nat) (s : State) (hk : Keep s0 s) : KeepAns s0 (execAckTimeout x s) := by
  unfold execAckTimeout
  try dsimp only
  repeat' first
    | with_reducible assumption | with_reducible apply KeepAns.next | with_reducible apply KeepAns.refused
      | with_reducible apply KeepAns.ite | with_reducible apply State.setQuad_keep | simp only [Keep.upd_iff]
      | intro _ | with_reducible apply Keep.ite | split

theorem State.txData_keep {s0 : State} (s : State) (x c : Nat) (hk : Keep s0 s) : Keep s0 (State.txData s x c) := by
  unfold State.txData
  try dsimp only
  repeat' first
    | with_reducible assumption | with_reducible apply State.setQuad_keep | with_reducible apply State.countPort_keep
      | with_reducible apply State.sendFlit_keep | simp only [Keep.upd_iff] | with_reducible apply Keep.ite | split

theorem State.txAgain_keep {s0 : State} (s : State) (x : Nat) (hk : Keep s0 s) : Keep s0 (State.txAgain s x) := by
  unfold State.txAgain
  try dsimp only
  repeat' first
    | with_reducible assumption | with_reducible apply State.setQuad_keep | with_reducible apply State.countPort_keep
      | with_reducible apply State.sendFlit_keep | simp only [Keep.upd_iff] | split

theorem State.txCtrl_keep {s0 : State} (s : State) (x : Nat) (nak : Bool) (hk : Keep s0 s) : Keep s0 (State.txCtrl s
    x nak) := by
  unfold State.txCtrl
  try dsimp only
  repeat' first
    | with_reducible assumption | with_reducible apply State.setQuad_keep | with_reducible apply State.sendFlit_keep
      | simp only [Keep.upd_iff]

theorem State.fillSlot_keep {s0 : State} (s : State) (x : Nat) (hk : Keep s0 s) : Keep s0 (State.fillSlot s x) := by
  unfold State.fillSlot
  try dsimp only
  repeat' first
    | with_reducible assumption | with_reducible apply State.setQuad_keep | with_reducible apply State.countPort_keep
      | with_reducible apply State.sendFlit_keep | with_reducible apply State.txData_keep
      | with_reducible apply State.txAgain_keep | with_reducible apply State.txCtrl_keep | simp only [Keep.upd_iff]
      | with_reducible apply Keep.ite | split

theorem execFlitSlot_keep {s0 : State} (x : Nat) (s : State) (hk : Keep s0 s) : KeepAns s0 (execFlitSlot x s) := by
  unfold execFlitSlot
  try dsimp only
  repeat' first
    | with_reducible assumption | with_reducible apply KeepAns.next | with_reducible apply KeepAns.refused
      | with_reducible apply KeepAns.ite | with_reducible apply State.fillSlot_keep | simp only [Keep.upd_iff]
      | intro _ | with_reducible apply Keep.ite | split

end Sys2Proof.Machine
end

