-- ==== Sys2Proof/Laws/KeepCompose.lean ====
section
/-! SUPPORT. The operations of Machine/Compose.lean keep the queue, the variant and the canonical form of memory. -/

set_option linter.unusedSimpArgs false
set_option linter.unusedTactic false
set_option linter.unreachableTactic false

namespace Sys2Proof.Machine

theorem State.changed_keep {s0 : State} (s : State) (hk : Keep s0 s) : Keep s0 (State.changed s) := by
  unfold State.changed
  try dsimp only
  repeat' first
    | with_reducible assumption | with_reducible apply State.msix_keep | simp only [Keep.upd_iff]

theorem State.setRole_keep {s0 : State} (s : State) (t role : Nat) (hk : Keep s0 s) : Keep s0 (State.setRole s t
    role) := by
  unfold State.setRole
  try dsimp only
  repeat' first
    | with_reducible assumption | with_reducible apply State.setTile_keep | simp only [Keep.upd_iff] | intro _

theorem State.bumpGen_keep {s0 : State} (s : State) (t : Nat) (hk : Keep s0 s) : Keep s0 (State.bumpGen s t) := by
  unfold State.bumpGen
  try dsimp only
  repeat' first
    | with_reducible assumption | simp only [Keep.upd_iff]

theorem State.remapUp_keep {s0 : State} (s : State) (id : BitVec 32) (hk : Keep s0 s) : Keep s0 (State.remapUp s id)
    := by
  unfold State.remapUp
  try dsimp only
  repeat' first
    | with_reducible assumption | with_reducible apply State.updBunch_keep | simp only [Keep.upd_iff]
      | with_reducible apply Keep.foldl | with_reducible apply Keep.foldlPair | intro _

theorem State.epochAll_keep {s0 : State} (s : State) (ids : List (BitVec 32)) (hk : Keep s0 s) : Keep s0
    (State.epochAll s ids) := by
  unfold State.epochAll
  try dsimp only
  repeat' first
    | with_reducible assumption | with_reducible apply State.nextEpoch_keep | simp only [Keep.upd_iff]
      | with_reducible apply Keep.foldl | with_reducible apply Keep.foldlPair | intro _

theorem State.epochUp_keep {s0 : State} (s : State) (id : BitVec 32) (hk : Keep s0 s) : Keep s0 (State.epochUp s id)
    := by
  unfold State.epochUp
  try dsimp only
  repeat' first
    | with_reducible assumption | with_reducible apply State.epochAll_keep | simp only [Keep.upd_iff]

theorem State.heal_keep {s0 : State} (s : State) (b : BitVec 32) (hk : Keep s0 s) : Keep s0 (State.heal s b) := by
  unfold State.heal
  try dsimp only
  repeat' first
    | with_reducible assumption | with_reducible apply State.updBunch_keep | simp only [Keep.upd_iff]
      | with_reducible apply Keep.foldl | with_reducible apply Keep.foldlPair | intro _
      | with_reducible apply Keep.ite | split

theorem State.loseTile_keep {s0 : State} (s : State) (t : Nat) (hk : Keep s0 s) : Keep s0 (State.loseTile s t) := by
  unfold State.loseTile
  try dsimp only
  repeat' first
    | with_reducible assumption | with_reducible apply State.declareLost_keep | simp only [Keep.upd_iff]
      | with_reducible apply Keep.foldl | with_reducible apply Keep.foldlPair | intro _
      | with_reducible apply Keep.ite | split

theorem State.dropTile_keep {s0 : State} (s : State) (t : Nat) (hk : Keep s0 s) : Keep s0 (State.dropTile s t) := by
  unfold State.dropTile
  try dsimp only
  repeat' first
    | with_reducible assumption | with_reducible apply State.loseTile_keep | simp only [Keep.upd_iff] | intro _
      | with_reducible apply Keep.ite | split

theorem State.placeRange_keep {s0 : State} (s : State) (b : BitVec 32) (m base len home : Nat) (hk : Keep s0 s) :
    Keep s0 (State.placeRange s b m base len home) := by
  unfold State.placeRange
  try dsimp only
  repeat' first
    | with_reducible assumption | with_reducible apply State.setPort_keep | simp only [Keep.upd_iff] | intro _ | split

theorem State.addRange_keep {s0 : State} (s : State) (b : BitVec 32) (m base len : Nat) (hk : Keep s0 s) : Keep s0
    (State.addRange s b m base len) := by
  unfold State.addRange
  try dsimp only
  repeat' first
    | with_reducible assumption | with_reducible apply State.placeRange_keep | simp only [Keep.upd_iff]

theorem State.dropRange_keep {s0 : State} (s : State) (b : BitVec 32) (m : Nat) (hk : Keep s0 s) : Keep s0
    (State.dropRange s b m) := by
  unfold State.dropRange
  try dsimp only
  repeat' first
    | with_reducible assumption | with_reducible apply State.setPort_keep | simp only [Keep.upd_iff] | split

theorem State.grantReady_keep {s0 : State} (s : State) (hk : Keep s0 s) : Keep s0 (State.grantReady s) := by
  unfold State.grantReady
  try dsimp only
  repeat' first
    | with_reducible assumption | with_reducible apply State.revote_keep | with_reducible apply State.changed_keep
      | with_reducible apply State.addRange_keep | simp only [Keep.upd_iff] | with_reducible apply Keep.foldl
      | with_reducible apply Keep.foldlPair | intro _ | with_reducible apply Keep.ite | split

theorem State.askGrant_keep {s0 : State} (s : State) (b : BitVec 32) (r : RangeReq) (hk : Keep s0 s) : Keep s0
    (State.askGrant s b r) := by
  unfold State.askGrant
  try dsimp only
  repeat' first
    | with_reducible assumption | with_reducible apply State.grantReady_keep | simp only [Keep.upd_iff]

theorem State.compose_keep {s0 : State} (s : State) (i : Nat) (id parent : BitVec 32) (members : List Member) (ranges
    : List RangeReq) (quads : List Nat) (host encrypt : Bool) (hk : Keep s0 s) : Keep s0 (State.compose s i id parent members ranges quads host encrypt) := by
  unfold State.compose
  try dsimp only
  repeat' first
    | with_reducible assumption | with_reducible apply State.setBunch_keep | with_reducible apply State.updBunch_keep
      | with_reducible apply State.revote_keep | with_reducible apply State.changed_keep
      | with_reducible apply State.remapUp_keep | with_reducible apply State.askGrant_keep | simp only [Keep.upd_iff]
      | with_reducible apply Keep.foldl | with_reducible apply Keep.foldlPair | intro _
      | with_reducible apply Keep.ite | split

theorem State.composeNew_keep {s0 : State} (s : State) (id parent : BitVec 32) (members : List Member) (ranges : List
    RangeReq) (quads : List Nat) (host encrypt : Bool) (hk : Keep s0 s) : Keep s0 (State.composeNew s id parent members ranges quads host encrypt).s := by
  unfold State.composeNew
  try dsimp only
  repeat' first
    | with_reducible assumption | with_reducible apply Reply.fail_keep | with_reducible apply Reply.ok_keep
      | with_reducible apply TRun.all_keep | with_reducible apply State.compose_keep | simp only [Keep.upd_iff]
      | intro _ | with_reducible apply Keep.ite | split

theorem State.activate_keep {s0 : State} (s : State) (b : BitVec 32) (hk : Keep s0 s) : Keep s0 (State.activate s
    b).s := by
  unfold State.activate
  try dsimp only
  repeat' first
    | with_reducible assumption | with_reducible apply State.updBunch_keep | with_reducible apply State.revote_keep
      | with_reducible apply Reply.fail_keep | with_reducible apply Reply.ok_keep
      | with_reducible apply State.changed_keep | simp only [Keep.upd_iff] | intro _ | with_reducible apply Keep.ite
      | split

theorem State.dissolve_keep {s0 : State} (s : State) (b : BitVec 32) (hk : Keep s0 s) : Keep s0 (State.dissolve s b)
    := by
  unfold State.dissolve
  try dsimp only
  repeat' first
    | with_reducible assumption | with_reducible apply State.revote_keep | with_reducible apply State.changed_keep
      | with_reducible apply State.epochUp_keep | with_reducible apply State.dropRange_keep | simp only [Keep.upd_iff]
      | with_reducible apply Keep.foldl | with_reducible apply Keep.foldlPair | intro _
      | with_reducible apply Keep.ite | split

theorem State.tryDissolve_keep {s0 : State} (s : State) (b : BitVec 32) (hk : Keep s0 s) : Keep s0 (State.tryDissolve
    s b) := by
  unfold State.tryDissolve
  try dsimp only
  repeat' first
    | with_reducible assumption | with_reducible apply TRun.all_keep | with_reducible apply State.dissolve_keep
      | simp only [Keep.upd_iff] | intro _ | with_reducible apply Keep.ite | split

theorem State.askDissolve_keep {s0 : State} (s : State) (b : BitVec 32) (hk : Keep s0 s) : Keep s0 (State.askDissolve
    s b).s := by
  unfold State.askDissolve
  try dsimp only
  repeat' first
    | with_reducible assumption | with_reducible apply State.updBunch_keep | with_reducible apply Reply.fail_keep
      | with_reducible apply Reply.ok_keep | with_reducible apply State.tryDissolve_keep | simp only [Keep.upd_iff]
      | intro _ | with_reducible apply Keep.ite | split

theorem State.grantRange_keep {s0 : State} (s : State) (b : BitVec 32) (r : RangeReq) (hk : Keep s0 s) : Keep s0
    (State.grantRange s b r).s := by
  unfold State.grantRange
  try dsimp only
  repeat' first
    | with_reducible assumption | with_reducible apply Reply.fail_keep | with_reducible apply Reply.ok_keep
      | with_reducible apply State.askGrant_keep | simp only [Keep.upd_iff] | with_reducible apply Keep.ite | split

theorem State.releaseRange_keep {s0 : State} (s : State) (b : BitVec 32) (m : Nat) (hk : Keep s0 s) : Keep s0
    (State.releaseRange s b m).s := by
  unfold State.releaseRange
  try dsimp only
  repeat' first
    | with_reducible assumption | with_reducible apply State.revote_keep | with_reducible apply Reply.fail_keep
      | with_reducible apply Reply.ok_keep | with_reducible apply State.changed_keep
      | with_reducible apply State.dropRange_keep | simp only [Keep.upd_iff] | intro _ | with_reducible apply Keep.ite
      | split

theorem State.change_keep {s0 : State} (s : State) (c : Change) (hk : Keep s0 s) : Keep s0 (s.change c).s := by
  cases c with
  | compose => exact State.composeNew_keep _ _ _ _ _ _ _ _ hk
  | activate => exact State.activate_keep _ _ hk
  | dissolve => exact State.askDissolve_keep _ _ hk
  | grant => exact State.grantRange_keep _ _ _ hk
  | release => exact State.releaseRange_keep _ _ _ hk

theorem changing_keep {s0 : State} (f : Frame) (c : Change) (s : State) (hk : Keep s0 s) : KeepAns s0 (changing f c
    s) := by
  unfold changing
  try dsimp only
  repeat' first
    | with_reducible assumption | with_reducible apply KeepAns.next | with_reducible apply KeepAns.refused
      | with_reducible apply KeepAns.ite | with_reducible apply State.revote_keep
      | with_reducible apply State.takeFrame_keep | with_reducible apply framed_keep
      | with_reducible apply State.change_keep | simp only [Keep.upd_iff] | intro _ | with_reducible apply Keep.ite
      | split

theorem execComposeBunch_keep {s0 : State} (f : Frame) (id parent : BitVec 32) (members : List Member) (ranges : List
    RangeReq) (quads : List Nat) (host encrypt : Bool) (s : State) (hk : Keep s0 s) : KeepAns s0 (execComposeBunch f id parent members ranges quads host encrypt s) := by
  unfold execComposeBunch
  try dsimp only
  repeat' first
    | with_reducible assumption | with_reducible apply KeepAns.next | with_reducible apply KeepAns.refused
      | with_reducible apply State.compose_keep | with_reducible apply changing_keep | simp only [Keep.upd_iff]
      | intro _

theorem execBunchActivate_keep {s0 : State} (f : Frame) (b : BitVec 32) (s : State) (hk : Keep s0 s) : KeepAns s0
    (execBunchActivate f b s) := by
  unfold execBunchActivate
  try dsimp only
  repeat' first
    | with_reducible assumption | with_reducible apply KeepAns.next | with_reducible apply KeepAns.refused
      | with_reducible apply State.activate_keep | with_reducible apply changing_keep | simp only [Keep.upd_iff]
      | intro _

theorem execDissolveBunch_keep {s0 : State} (f : Frame) (b : BitVec 32) (s : State) (hk : Keep s0 s) : KeepAns s0
    (execDissolveBunch f b s) := by
  unfold execDissolveBunch
  try dsimp only
  repeat' first
    | with_reducible assumption | with_reducible apply KeepAns.next | with_reducible apply KeepAns.refused
      | with_reducible apply State.dissolve_keep | with_reducible apply changing_keep | simp only [Keep.upd_iff]
      | intro _

theorem execRangeGrant_keep {s0 : State} (f : Frame) (b : BitVec 32) (r : RangeReq) (s : State) (hk : Keep s0 s) :
    KeepAns s0 (execRangeGrant f b r s) := by
  unfold execRangeGrant
  try dsimp only
  repeat' first
    | with_reducible assumption | with_reducible apply KeepAns.next | with_reducible apply KeepAns.refused
      | with_reducible apply changing_keep | simp only [Keep.upd_iff] | intro _

theorem execRangeRelease_keep {s0 : State} (f : Frame) (b : BitVec 32) (m : Nat) (s : State) (hk : Keep s0 s) :
    KeepAns s0 (execRangeRelease f b m s) := by
  unfold execRangeRelease
  try dsimp only
  repeat' first
    | with_reducible assumption | with_reducible apply KeepAns.next | with_reducible apply KeepAns.refused
      | with_reducible apply changing_keep | simp only [Keep.upd_iff] | intro _

theorem State.wakeChange_keep {s0 : State} (s : State) (e : Frame × Change) (hk : Keep s0 s) : Keep s0
    (State.wakeChange s e) := by
  unfold State.wakeChange
  try dsimp only
  repeat' first
    | with_reducible assumption | with_reducible apply State.revote_keep | with_reducible apply State.respond_keep
      | with_reducible apply State.change_keep | simp only [Keep.upd_iff]

theorem State.wakeChanges_keep {s0 : State} (s : State) (hk : Keep s0 s) : Keep s0 (State.wakeChanges s) := by
  unfold State.wakeChanges
  try dsimp only
  repeat' first
    | with_reducible assumption | with_reducible apply State.wakeChange_keep | simp only [Keep.upd_iff]
      | with_reducible apply Keep.foldl | with_reducible apply Keep.foldlPair | intro _
      | with_reducible apply Keep.ite | split

theorem State.stampTurn_keep {s0 : State} (s : State) (b : BitVec 32) (hk : Keep s0 s) : Keep s0 (State.stampTurn s
    b) := by
  unfold State.stampTurn
  try dsimp only
  repeat' first
    | with_reducible assumption | simp only [Keep.upd_iff] | with_reducible apply Keep.foldl
      | with_reducible apply Keep.foldlPair | intro _

theorem State.startGraft_keep {s0 : State} (s : State) (g : Graft) (hk : Keep s0 s) : Keep s0 (State.startGraft s g)
    := by
  unfold State.startGraft
  try dsimp only
  repeat' first
    | with_reducible assumption | with_reducible apply State.setTile_keep | with_reducible apply State.setPort_keep
      | with_reducible apply State.stampTurn_keep | simp only [Keep.upd_iff] | intro _ | with_reducible apply Keep.ite
      | split

theorem State.beginGraft_keep {s0 : State} (s : State) (g : Graft) (hk : Keep s0 s) : Keep s0 (State.beginGraft s g)
    := by
  unfold State.beginGraft
  try dsimp only
  repeat' first
    | with_reducible assumption | with_reducible apply State.revote_keep | with_reducible apply State.startGraft_keep
      | simp only [Keep.upd_iff] | with_reducible apply Keep.ite | split

theorem execTileReplace_keep {s0 : State} (f : Frame) (b : BitVec 32) (out inc : Nat) (s : State) (hk : Keep s0 s) :
    KeepAns s0 (execTileReplace f b out inc s) := by
  unfold execTileReplace
  try dsimp only
  repeat' first
    | with_reducible assumption | with_reducible apply KeepAns.next | with_reducible apply KeepAns.refused
      | with_reducible apply KeepAns.ite | with_reducible apply framed_keep | with_reducible apply Reply.fail_keep
      | with_reducible apply Reply.ok_keep | with_reducible apply State.beginGraft_keep | simp only [Keep.upd_iff]
      | intro _ | with_reducible apply Keep.ite | split

theorem execTileMove_keep {s0 : State} (f : Frame) (t : Nat) (losing gaining : BitVec 32) (pos : Nat) (heir : Option
    Nat) (reserve : Option (Nat × Nat)) (s : State) (hk : Keep s0 s) : KeepAns s0 (execTileMove f t losing gaining pos heir reserve s) := by
  unfold execTileMove
  try dsimp only
  repeat' first
    | with_reducible assumption | with_reducible apply KeepAns.next | with_reducible apply KeepAns.refused
      | with_reducible apply KeepAns.ite | with_reducible apply framed_keep | with_reducible apply Reply.fail_keep
      | with_reducible apply Reply.ok_keep | with_reducible apply State.beginGraft_keep | simp only [Keep.upd_iff]
      | intro _ | with_reducible apply Keep.ite | split

theorem execRangeRelocate_keep {s0 : State} (f : Frame) (b : BitVec 32) (m newPort newFirst : Nat) (s : State) (hk :
    Keep s0 s) : KeepAns s0 (execRangeRelocate f b m newPort newFirst s) := by
  unfold execRangeRelocate
  try dsimp only
  repeat' first
    | with_reducible assumption | with_reducible apply KeepAns.next | with_reducible apply KeepAns.refused
      | with_reducible apply KeepAns.ite | with_reducible apply framed_keep | with_reducible apply Reply.fail_keep
      | with_reducible apply Reply.ok_keep | with_reducible apply State.beginGraft_keep | simp only [Keep.upd_iff]
      | intro _ | with_reducible apply Keep.ite | split

theorem execRangeMove_keep {s0 : State} (f : Frame) (b : BitVec 32) (m : Nat) (gaining : BitVec 32) (s : State) (hk :
    Keep s0 s) : KeepAns s0 (execRangeMove f b m gaining s) := by
  unfold execRangeMove
  try dsimp only
  repeat' first
    | with_reducible assumption | with_reducible apply KeepAns.next | with_reducible apply KeepAns.refused
      | with_reducible apply KeepAns.ite | with_reducible apply framed_keep | with_reducible apply Reply.fail_keep
      | with_reducible apply Reply.ok_keep | with_reducible apply State.beginGraft_keep | simp only [Keep.upd_iff]
      | intro _ | with_reducible apply Keep.ite | split

theorem State.beginFreeze_keep {s0 : State} (s : State) (b : BitVec 32) (hk : Keep s0 s) : Keep s0 (State.beginFreeze
    s b) := by
  unfold State.beginFreeze
  try dsimp only
  repeat' first
    | with_reducible assumption | with_reducible apply State.updBunch_keep
      | with_reducible apply State.freezeBoundary_keep | with_reducible apply State.tryFrozen_keep
      | simp only [Keep.upd_iff] | with_reducible apply Keep.foldl | with_reducible apply Keep.foldlPair | intro _
      | with_reducible apply Keep.ite | split

theorem State.graftGone_keep {s0 : State} (s : State) (g : Graft) (hk : Keep s0 s) : Keep s0 (State.graftGone s g) := by
  unfold State.graftGone
  try dsimp only
  repeat' first
    | with_reducible assumption | with_reducible apply State.beginFreeze_keep | simp only [Keep.upd_iff]
      | with_reducible apply Keep.foldl | with_reducible apply Keep.foldlPair | intro _
      | with_reducible apply Keep.ite | split

theorem State.moveQuad_keep {s0 : State} (s : State) (g : Graft) (hk : Keep s0 s) : Keep s0 (State.moveQuad s g) := by
  unfold State.moveQuad
  try dsimp only
  repeat' first
    | with_reducible assumption | with_reducible apply State.revote_keep | with_reducible apply State.flushWaits_keep
      | with_reducible apply State.changed_keep | with_reducible apply State.graftGone_keep | simp only [Keep.upd_iff]
      | with_reducible apply Keep.ite | split

theorem execQuadMove_keep {s0 : State} (f : Frame) (x : Nat) (gaining : BitVec 32) (s : State) (hk : Keep s0 s) :
    KeepAns s0 (execQuadMove f x gaining s) := by
  unfold execQuadMove
  try dsimp only
  repeat' first
    | with_reducible assumption | with_reducible apply KeepAns.next | with_reducible apply KeepAns.refused
      | with_reducible apply KeepAns.ite | with_reducible apply framed_keep | with_reducible apply Reply.fail_keep
      | with_reducible apply Reply.ok_keep | with_reducible apply State.beginGraft_keep
      | with_reducible apply State.moveQuad_keep | simp only [Keep.upd_iff] | intro _ | with_reducible apply Keep.ite
      | split

theorem execQuadRetryEmpty_keep {s0 : State} (x : Nat) (s : State) (hk : Keep s0 s) : KeepAns s0 (execQuadRetryEmpty
    x s) := by
  unfold execQuadRetryEmpty
  try dsimp only
  repeat' first
    | with_reducible assumption | with_reducible apply KeepAns.next | with_reducible apply KeepAns.refused
      | with_reducible apply KeepAns.ite | with_reducible apply State.moveQuad_keep | simp only [Keep.upd_iff]
      | intro _ | with_reducible apply Keep.ite | split

end Sys2Proof.Machine
end

