-- ==== Sys2Proof/Laws/KeepGrafts.lean ====
section
/-! SUPPORT. The operations of Machine/Grafts.lean keep the queue, the variant and the canonical form of memory. -/

set_option linter.unusedSimpArgs false
set_option linter.unusedTactic false
set_option linter.unreachableTactic false

namespace Sys2Proof.Machine

theorem State.moveShare_keep {s0 : State} (s : State) (out inc c : Nat) (bad : List Nat) (hk : Keep s0 s) : Keep s0
    (State.moveShare s out inc c bad) := by
  unfold State.moveShare
  try dsimp only
  repeat' first
    | with_reducible assumption | with_reducible apply State.setTile_keep | with_reducible apply State.pokeN_keep
      | with_reducible apply State.clearGranules_keep | simp only [Keep.upd_iff] | with_reducible apply Keep.foldl
      | with_reducible apply Keep.foldlPair | intro _ | split

theorem State.reserveShare_keep {s0 : State} (s : State) (b : BitVec 32) (out c m off : Nat) (bad : List Nat) (hk :
    Keep s0 s) : Keep s0 (State.reserveShare s b out c m off bad) := by
  unfold State.reserveShare
  try dsimp only
  repeat' first
    | with_reducible assumption | with_reducible apply State.pokeN_keep | with_reducible apply State.portMove_keep
      | simp only [Keep.upd_iff] | with_reducible refine Keep.updMem ?_ (memErase_wf _ _ _)
      | with_reducible apply Keep.foldl | with_reducible apply Keep.foldlPair | intro _ | split

theorem State.graftShare_keep {s0 : State} (s : State) (g : Graft) (c : Nat) (bad : List Nat) (hk : Keep s0 s) : Keep
    s0 (State.graftShare s g c bad).1 := by
  unfold State.graftShare
  try dsimp only
  repeat' first
    | with_reducible assumption | with_reducible apply State.moveShare_keep
      | with_reducible apply State.reserveShare_keep | simp only [Keep.upd_iff] | with_reducible apply Keep.ite
      | split

theorem State.moveStandby_keep {s0 : State} (s : State) (out : Nat) (inc : Option Nat) (hk : Keep s0 s) : Keep s0
    (State.moveStandby s out inc) := by
  unfold State.moveStandby
  try dsimp only
  repeat' first
    | with_reducible assumption | with_reducible apply State.setTile_keep | simp only [Keep.upd_iff] | intro _
      | with_reducible apply Keep.ite | split

theorem State.forwardHeld_keep {s0 : State} (s : State) (out : Nat) (heir : Nat → Option Nat) (l : List Msg) (hk :
    Keep s0 s) : Keep s0 (State.forwardHeld s out heir l) := by
  unfold State.forwardHeld
  try dsimp only
  repeat' first
    | with_reducible assumption | with_reducible apply State.answer_keep | with_reducible apply Reply.ok_keep
      | with_reducible apply State.gotPut_keep | with_reducible apply State.gotGetReq_keep | simp only [Keep.upd_iff]
      | with_reducible apply Keep.foldl | with_reducible apply Keep.foldlPair | with_reducible apply KeepOpt.bind
      | intro _ | intro _ | with_reducible apply Keep.ite | split

theorem State.clearOut_keep {s0 : State} (s : State) (t role : Nat) (hk : Keep s0 s) : Keep s0 (State.clearOut s t
    role) := by
  unfold State.clearOut
  try dsimp only
  repeat' first
    | with_reducible assumption | with_reducible apply State.setTile_keep | with_reducible apply State.clearStore_keep
      | with_reducible apply State.setRole_keep | with_reducible apply State.bumpGen_keep | simp only [Keep.upd_iff]

theorem State.resetTile_keep {s0 : State} (s : State) (t : Nat) (hk : Keep s0 s) : Keep s0 (State.resetTile s t) := by
  unfold State.resetTile
  try dsimp only
  repeat' first
    | with_reducible assumption | with_reducible apply State.setTile_keep | with_reducible apply State.clearStore_keep
      | with_reducible apply State.loadImage_keep | with_reducible apply State.trap_keep
      | with_reducible apply State.report_keep | with_reducible apply State.charge_keep
      | with_reducible apply State.emptyBars_keep | with_reducible apply State.dropOn_keep
      | with_reducible apply State.bumpGen_keep | simp only [Keep.upd_iff] | intro _ | with_reducible apply Keep.ite
      | split

theorem State.bringIn_keep {s0 : State} (s : State) (t : Nat) (hk : Keep s0 s) : Keep s0 (State.bringIn s t) := by
  unfold State.bringIn
  try dsimp only
  repeat' first
    | with_reducible assumption | with_reducible apply State.setTile_keep | with_reducible apply State.setRole_keep
      | with_reducible apply State.bumpGen_keep | simp only [Keep.upd_iff]

theorem State.leavePlace_keep {s0 : State} (s : State) (g : Graft) (hk : Keep s0 s) : Keep s0 (State.leavePlace s g)
    := by
  unfold State.leavePlace
  try dsimp only
  repeat' first
    | with_reducible assumption | with_reducible apply State.moveStandby_keep
      | with_reducible apply State.clearOut_keep | with_reducible apply State.resetTile_keep
      | simp only [Keep.upd_iff] | with_reducible apply Keep.ite | split

theorem State.finishReplace_keep {s0 : State} (s : State) (g : Graft) (hk : Keep s0 s) : Keep s0 (State.finishReplace
    s g) := by
  unfold State.finishReplace
  try dsimp only
  repeat' first
    | with_reducible assumption | with_reducible apply State.updBunch_keep
      | with_reducible apply State.forwardBars_keep | with_reducible apply State.epochAll_keep
      | with_reducible apply State.heal_keep | with_reducible apply State.forwardHeld_keep
      | with_reducible apply State.bringIn_keep | with_reducible apply State.leavePlace_keep
      | simp only [Keep.upd_iff] | intro _ | with_reducible apply Keep.ite | split

theorem State.finishMove_keep {s0 : State} (s : State) (g : Graft) (hk : Keep s0 s) : Keep s0 (State.finishMove s g)
    := by
  unfold State.finishMove
  try dsimp only
  repeat' first
    | with_reducible assumption | with_reducible apply State.updBunch_keep
      | with_reducible apply State.forwardBars_keep | with_reducible apply State.epochAll_keep
      | with_reducible apply State.moveStandby_keep | with_reducible apply State.forwardHeld_keep
      | with_reducible apply State.clearOut_keep | with_reducible apply State.bringIn_keep | simp only [Keep.upd_iff]
      | intro _ | with_reducible apply Keep.ite | split

theorem State.resumeShare_keep {s0 : State} (s : State) (t : Nat) (hk : Keep s0 s) : Keep s0 (State.resumeShare s t)
    := by
  unfold State.resumeShare
  try dsimp only
  repeat' first
    | with_reducible assumption | with_reducible apply State.shareGoes_keep | simp only [Keep.upd_iff]
      | with_reducible apply Keep.ite | split

theorem State.finishTile_keep {s0 : State} (s : State) (g : Graft) (hk : Keep s0 s) : Keep s0 (State.finishTile s g)
    := by
  unfold State.finishTile
  try dsimp only
  repeat' first
    | with_reducible assumption | with_reducible apply State.revote_keep
      | with_reducible apply State.dispatchTile_keep | with_reducible apply State.recheckSegs_keep
      | with_reducible apply State.changed_keep | with_reducible apply State.graftGone_keep
      | with_reducible apply State.finishReplace_keep | with_reducible apply State.finishMove_keep
      | with_reducible apply State.resumeShare_keep | simp only [Keep.upd_iff] | with_reducible apply Keep.foldl
      | with_reducible apply Keep.foldlPair | intro _ | with_reducible apply Keep.ite | split

theorem State.setGraft_keep {s0 : State} (s : State) (g h : Graft) (hk : Keep s0 s) : Keep s0 (State.setGraft s g h)
    := by
  unfold State.setGraft
  try dsimp only
  repeat' first
    | with_reducible assumption | simp only [Keep.upd_iff] | intro _

theorem State.sharesMoved_keep {s0 : State} (s : State) (g : Graft) (hk : Keep s0 s) : Keep s0 (State.sharesMoved s
    g) := by
  unfold State.sharesMoved
  try dsimp only
  repeat' first
    | with_reducible assumption | with_reducible apply State.finishTile_keep
      | with_reducible apply State.setGraft_keep | simp only [Keep.upd_iff] | with_reducible apply Keep.ite | split

theorem execGraftDrainDone_keep {s0 : State} (b : BitVec 32) (s : State) (hk : Keep s0 s) : KeepAns s0
    (execGraftDrainDone b s) := by
  unfold execGraftDrainDone
  try dsimp only
  repeat' first
    | with_reducible assumption | with_reducible apply KeepAns.next | with_reducible apply KeepAns.refused
      | with_reducible apply KeepAns.ite | with_reducible apply State.finishTile_keep
      | with_reducible apply State.setGraft_keep | with_reducible apply State.sharesMoved_keep
      | simp only [Keep.upd_iff] | intro _ | with_reducible apply Keep.ite | split

theorem State.copyUe_keep {s0 : State} (s : State) (t c : Nat) (lines : List Nat) (hk : Keep s0 s) : Keep s0
    (State.copyUe s t c lines) := by
  unfold State.copyUe
  try dsimp only
  repeat' first
    | with_reducible assumption | with_reducible apply State.raiseSafety_keep
      | with_reducible apply State.countLine_keep | simp only [Keep.upd_iff] | with_reducible apply Keep.foldl
      | with_reducible apply Keep.foldlPair | intro _ | with_reducible apply Keep.ite | split

theorem execShareCopyDone_keep {s0 : State} (b : BitVec 32) (bad : List Nat) (s : State) (hk : Keep s0 s) : KeepAns
    s0 (execShareCopyDone b bad s) := by
  unfold execShareCopyDone
  try dsimp only
  repeat' first
    | with_reducible assumption | with_reducible apply KeepAns.next | with_reducible apply KeepAns.refused
      | with_reducible apply KeepAns.ite | with_reducible apply State.graftShare_keep
      | with_reducible apply State.setGraft_keep | with_reducible apply State.sharesMoved_keep
      | with_reducible apply State.copyUe_keep | simp only [Keep.upd_iff]
      | with_reducible refine Keep.ofFst (by assumption) ?_ | intro _ | with_reducible apply Keep.ite | split

theorem State.finishRelocate_keep {s0 : State} (s : State) (g : Graft) (hk : Keep s0 s) : Keep s0
    (State.finishRelocate s g) := by
  unfold State.finishRelocate
  try dsimp only
  repeat' first
    | with_reducible assumption | with_reducible apply State.revote_keep | with_reducible apply State.portMove_keep
      | with_reducible apply State.changed_keep | with_reducible apply State.epochUp_keep
      | with_reducible apply State.heal_keep | with_reducible apply State.placeRange_keep
      | with_reducible apply State.dropRange_keep | with_reducible apply State.graftGone_keep
      | simp only [Keep.upd_iff] | with_reducible refine Keep.updMem ?_ (moveCells_wf _ _ _ _) | intro _
      | with_reducible apply Keep.ite | split

theorem execRangeCopyDone_keep {s0 : State} (b : BitVec 32) (s : State) (hk : Keep s0 s) : KeepAns s0
    (execRangeCopyDone b s) := by
  unfold execRangeCopyDone
  try dsimp only
  repeat' first
    | with_reducible assumption | with_reducible apply KeepAns.next | with_reducible apply KeepAns.refused
      | with_reducible apply KeepAns.ite | with_reducible apply State.finishRelocate_keep | simp only [Keep.upd_iff]
      | intro _ | with_reducible apply Keep.ite | split

theorem State.finishRangeMove_keep {s0 : State} (s : State) (g : Graft) (hk : Keep s0 s) : Keep s0
    (State.finishRangeMove s g) := by
  unfold State.finishRangeMove
  try dsimp only
  repeat' first
    | with_reducible assumption | with_reducible apply State.setPort_keep | with_reducible apply State.revote_keep
      | with_reducible apply State.changed_keep | with_reducible apply State.epochUp_keep
      | with_reducible apply State.graftGone_keep | simp only [Keep.upd_iff] | split

theorem State.goGraft_keep {s0 : State} (s : State) (g : Graft) (hk : Keep s0 s) : Keep s0 (State.goGraft s g) := by
  unfold State.goGraft
  try dsimp only
  repeat' first
    | with_reducible assumption | with_reducible apply State.startGraft_keep
      | with_reducible apply State.finishTile_keep | with_reducible apply State.finishRangeMove_keep
      | simp only [Keep.upd_iff] | with_reducible apply Keep.ite | split

theorem State.goOn_keep {s0 : State} (s : State) (hk : Keep s0 s) : Keep s0 (State.goOn s) := by
  unfold State.goOn
  try dsimp only
  repeat' first
    | with_reducible assumption | with_reducible apply State.tryDissolve_keep
      | with_reducible apply State.wakeChanges_keep | with_reducible apply State.goGraft_keep
      | simp only [Keep.upd_iff] | with_reducible apply Keep.foldl | with_reducible apply Keep.foldlPair | intro _
      | with_reducible apply Keep.ite | split

theorem execEpochMessage_keep {s0 : State} (m : Msg) (s : State) (hk : Keep s0 s) : KeepAns s0 (execEpochMessage m s)
    := by
  unfold execEpochMessage
  try dsimp only
  repeat' first
    | with_reducible assumption | with_reducible apply KeepAns.next | with_reducible apply KeepAns.refused
      | with_reducible apply KeepAns.ite | with_reducible apply Reply.ok_keep
      | with_reducible apply State.receiveMsg_keep | with_reducible apply State.landed_keep
      | with_reducible apply State.goOn_keep | simp only [Keep.upd_iff] | intro _ | with_reducible apply Keep.ite
      | split

theorem execEpochDrainZero_keep {s0 : State} (b : BitVec 32) (s : State) (hk : Keep s0 s) : KeepAns s0
    (execEpochDrainZero b s) := by
  unfold execEpochDrainZero
  try dsimp only
  repeat' first
    | with_reducible assumption | with_reducible apply KeepAns.next | with_reducible apply KeepAns.refused
      | with_reducible apply KeepAns.ite | with_reducible apply State.updBunch_keep
      | with_reducible apply State.sendToModule_keep | with_reducible apply State.tryRetire_keep
      | with_reducible apply State.goOn_keep | simp only [Keep.upd_iff] | with_reducible apply Keep.foldl
      | with_reducible apply Keep.foldlPair | intro _ | with_reducible apply Keep.ite | split

theorem execDetachRelease_keep {s0 : State} (f : Frame) (d : Nat) (s : State) (hk : Keep s0 s) : KeepAns s0
    (execDetachRelease f d s) := by
  unfold execDetachRelease
  try dsimp only
  repeat' first
    | with_reducible assumption | with_reducible apply KeepAns.next | with_reducible apply KeepAns.refused
      | with_reducible apply KeepAns.ite | with_reducible apply framed_keep | with_reducible apply Reply.fail_keep
      | with_reducible apply Reply.ok_keep | with_reducible apply State.changed_keep | simp only [Keep.upd_iff]
      | intro _ | with_reducible apply Keep.ite | split

theorem execFreeze_keep {s0 : State} (f : Frame) (b : BitVec 32) (s : State) (hk : Keep s0 s) : KeepAns s0
    (execFreeze f b s) := by
  unfold execFreeze
  try dsimp only
  repeat' first
    | with_reducible assumption | with_reducible apply KeepAns.next | with_reducible apply KeepAns.refused
      | with_reducible apply KeepAns.ite | with_reducible apply State.updBunch_keep | with_reducible apply framed_keep
      | with_reducible apply Reply.fail_keep | with_reducible apply Reply.ok_keep
      | with_reducible apply State.beginFreeze_keep | simp only [Keep.upd_iff] | intro _
      | with_reducible apply Keep.ite | split

theorem State.liveNested_keep {s0 : State} (s : State) (b : BitVec 32) (hk : Keep s0 s) : Keep s0 (State.liveNested s
    b) := by
  unfold State.liveNested
  try dsimp only
  repeat' first
    | with_reducible assumption | with_reducible apply State.updBunch_keep | with_reducible apply State.setNested_keep
      | simp only [Keep.upd_iff] | with_reducible apply Keep.foldl | with_reducible apply Keep.foldlPair | intro _
      | with_reducible apply Keep.ite | split

theorem State.dispatchBunch_keep {s0 : State} (s : State) (b : BitVec 32) (hk : Keep s0 s) : Keep s0
    (State.dispatchBunch s b) := by
  unfold State.dispatchBunch
  try dsimp only
  repeat' first
    | with_reducible assumption | with_reducible apply State.dispatchTile_keep | simp only [Keep.upd_iff]
      | with_reducible apply Keep.foldl | with_reducible apply Keep.foldlPair | intro _

theorem State.holdOverdue_keep {s0 : State} (s : State) (b : BitVec 32) (hk : Keep s0 s) : Keep s0 (State.holdOverdue
    s b) := by
  unfold State.holdOverdue
  try dsimp only
  repeat' first
    | with_reducible assumption | simp only [Keep.upd_iff] | with_reducible apply Keep.foldl
      | with_reducible apply Keep.foldlPair | intro _ | with_reducible apply Keep.ite | split

theorem execThaw_keep {s0 : State} (f : Frame) (b : BitVec 32) (s : State) (hk : Keep s0 s) : KeepAns s0 (execThaw f
    b s) := by
  unfold execThaw
  try dsimp only
  repeat' first
    | with_reducible assumption | with_reducible apply KeepAns.next | with_reducible apply KeepAns.refused
      | with_reducible apply KeepAns.ite | with_reducible apply State.revote_keep | with_reducible apply framed_keep
      | with_reducible apply Reply.fail_keep | with_reducible apply Reply.ok_keep
      | with_reducible apply State.deliverAll_keep | with_reducible apply State.liveNested_keep
      | with_reducible apply State.dispatchBunch_keep | with_reducible apply State.holdOverdue_keep
      | simp only [Keep.upd_iff] | with_reducible apply Keep.foldl | with_reducible apply Keep.foldlPair | intro _
      | with_reducible apply Keep.ite | split

theorem State.haltTile_keep {s0 : State} (s : State) (t : Nat) (hk : Keep s0 s) : Keep s0 (State.haltTile s t) := by
  unfold State.haltTile
  try dsimp only
  repeat' first
    | with_reducible assumption | with_reducible apply State.setCore_keep | simp only [Keep.upd_iff] | split

theorem State.haltUp_keep {s0 : State} (s : State) (b : BitVec 32) (hk : Keep s0 s) : Keep s0 (State.haltUp s b) := by
  unfold State.haltUp
  try dsimp only
  repeat' first
    | with_reducible assumption | with_reducible apply State.updBunch_keep | simp only [Keep.upd_iff]
      | with_reducible apply Keep.foldl | with_reducible apply Keep.foldlPair | intro _
      | with_reducible apply Keep.ite | split

theorem State.haltNested_keep {s0 : State} (s : State) (b : BitVec 32) (hk : Keep s0 s) : Keep s0 (State.haltNested s
    b) := by
  unfold State.haltNested
  try dsimp only
  repeat' first
    | with_reducible assumption | with_reducible apply State.updBunch_keep | simp only [Keep.upd_iff]
      | with_reducible apply Keep.foldl | with_reducible apply Keep.foldlPair | intro _
      | with_reducible apply Keep.ite | split

theorem execHalt_keep {s0 : State} (f : Frame) (b : BitVec 32) (s : State) (hk : Keep s0 s) : KeepAns s0 (execHalt f
    b s) := by
  unfold execHalt
  try dsimp only
  repeat' first
    | with_reducible assumption | with_reducible apply KeepAns.next | with_reducible apply KeepAns.refused
      | with_reducible apply KeepAns.ite | with_reducible apply framed_keep | with_reducible apply Reply.fail_keep
      | with_reducible apply Reply.ok_keep | with_reducible apply State.haltTile_keep
      | with_reducible apply State.haltUp_keep | with_reducible apply State.haltNested_keep | simp only [Keep.upd_iff]
      | with_reducible apply Keep.foldl | with_reducible apply Keep.foldlPair | intro _
      | with_reducible apply Keep.ite | split

theorem State.resumeTriggers_keep {s0 : State} (s : State) (t : Nat) (hk : Keep s0 s) : Keep s0 (State.resumeTriggers
    s t) := by
  unfold State.resumeTriggers
  try dsimp only
  repeat' first
    | with_reducible assumption | with_reducible apply State.endOp_keep | with_reducible apply State.beginMover_keep
      | simp only [Keep.upd_iff] | with_reducible apply Keep.foldl | with_reducible apply Keep.foldlPair | intro _
      | with_reducible apply Keep.ite | split

theorem State.resumeTile_keep {s0 : State} (s : State) (t : Nat) (hk : Keep s0 s) : Keep s0 (State.resumeTile s t) := by
  unfold State.resumeTile
  try dsimp only
  repeat' first
    | with_reducible assumption | with_reducible apply State.setCore_keep | with_reducible apply State.retire_keep
      | with_reducible apply State.wakeWait_keep | with_reducible apply State.wakeFence_keep
      | with_reducible apply State.proceed_keep | with_reducible apply State.resumeTriggers_keep
      | simp only [Keep.upd_iff] | with_reducible apply Keep.ite | split

theorem State.resumeUp_keep {s0 : State} (s : State) (b : BitVec 32) (hk : Keep s0 s) : Keep s0 (State.resumeUp s b)
    := by
  unfold State.resumeUp
  try dsimp only
  repeat' first
    | with_reducible assumption | with_reducible apply State.updBunch_keep | simp only [Keep.upd_iff]
      | with_reducible apply Keep.foldl | with_reducible apply Keep.foldlPair | intro _
      | with_reducible apply Keep.ite | split

theorem execResume_keep {s0 : State} (f : Frame) (b : BitVec 32) (s : State) (hk : Keep s0 s) : KeepAns s0
    (execResume f b s) := by
  unfold execResume
  try dsimp only
  repeat' first
    | with_reducible assumption | with_reducible apply KeepAns.next | with_reducible apply KeepAns.refused
      | with_reducible apply KeepAns.ite | with_reducible apply framed_keep | with_reducible apply Reply.fail_keep
      | with_reducible apply Reply.ok_keep | with_reducible apply State.liveNested_keep
      | with_reducible apply State.dispatchBunch_keep | with_reducible apply State.holdOverdue_keep
      | with_reducible apply State.resumeTile_keep | with_reducible apply State.resumeUp_keep
      | simp only [Keep.upd_iff] | with_reducible apply Keep.foldl | with_reducible apply Keep.foldlPair | intro _
      | with_reducible apply Keep.ite | split

theorem State.flagFences_keep {s0 : State} (s : State) (c : Nat) (hk : Keep s0 s) : Keep s0 (State.flagFences s c) := by
  unfold State.flagFences
  try dsimp only
  repeat' first
    | with_reducible assumption | with_reducible apply State.flagFence_keep
      | with_reducible apply State.evalWaiters_keep | simp only [Keep.upd_iff] | with_reducible apply Keep.foldl
      | with_reducible apply Keep.foldlPair | intro _

theorem State.quiesceSafe_keep {s0 : State} (s : State) (c : Nat) (hk : Keep s0 s) : Keep s0 (State.quiesceSafe s c)
    := by
  unfold State.quiesceSafe
  try dsimp only
  repeat' first
    | with_reducible assumption | with_reducible apply State.abortCtx_keep
      | with_reducible apply State.flagFences_keep | simp only [Keep.upd_iff] | with_reducible apply Keep.ite | split

theorem State.leaveFor_keep {s0 : State} (s : State) (t role : Nat) (hk : Keep s0 s) : Keep s0 (State.leaveFor s t
    role) := by
  unfold State.leaveFor
  try dsimp only
  repeat' first
    | with_reducible assumption | with_reducible apply State.dropOn_keep | with_reducible apply State.setRole_keep
      | with_reducible apply State.dropTile_keep | with_reducible apply State.resetTile_keep
      | simp only [Keep.upd_iff] | intro _

theorem State.undoShares_keep {s0 : State} (s : State) (g : Graft) (hk : Keep s0 s) : Keep s0 (State.undoShares s g)
    := by
  unfold State.undoShares
  try dsimp only
  repeat' first
    | with_reducible assumption | with_reducible apply State.releaseShare_keep | with_reducible apply State.moved_keep
      | simp only [Keep.upd_iff] | with_reducible apply Keep.foldl | with_reducible apply Keep.foldlPair | intro _
      | with_reducible apply Keep.ite | split

theorem State.cancelGraft_keep {s0 : State} (s : State) (t : Nat) (g : Graft) (hk : Keep s0 s) : Keep s0
    (State.cancelGraft s t g) := by
  unfold State.cancelGraft
  try dsimp only
  repeat' first
    | with_reducible assumption | with_reducible apply State.setTile_keep
      | with_reducible apply State.dispatchTile_keep | with_reducible apply State.emptyBuf_keep
      | with_reducible apply State.graftGone_keep | with_reducible apply State.quiesceSafe_keep
      | with_reducible apply State.leaveFor_keep | with_reducible apply State.undoShares_keep
      | simp only [Keep.upd_iff] | with_reducible apply Keep.foldl | with_reducible apply Keep.foldlPair | intro _
      | with_reducible apply Keep.ite | split

theorem State.cancelGrafts_keep {s0 : State} (s : State) (t : Nat) (hk : Keep s0 s) : Keep s0 (State.cancelGrafts s
    t) := by
  unfold State.cancelGrafts
  try dsimp only
  repeat' first
    | with_reducible assumption | with_reducible apply State.cancelGraft_keep | simp only [Keep.upd_iff]
      | with_reducible apply Keep.foldl | with_reducible apply Keep.foldlPair | intro _

theorem State.resetOut_keep {s0 : State} (s : State) (t : Nat) (hk : Keep s0 s) : Keep s0 (State.resetOut s t) := by
  unfold State.resetOut
  try dsimp only
  repeat' first
    | with_reducible assumption | with_reducible apply State.revote_keep | with_reducible apply State.leaveFor_keep
      | with_reducible apply State.cancelGrafts_keep | simp only [Keep.upd_iff]

theorem State.resetInPlace_keep {s0 : State} (s : State) (t : Nat) (hk : Keep s0 s) : Keep s0 (State.resetInPlace s
    t) := by
  unfold State.resetInPlace
  try dsimp only
  repeat' first
    | with_reducible assumption | with_reducible apply State.quiesceSafe_keep
      | with_reducible apply State.resetOut_keep | simp only [Keep.upd_iff] | with_reducible apply Keep.foldl
      | with_reducible apply Keep.foldlPair | intro _

theorem execTileReset_keep {s0 : State} (t : Nat) (s : State) (hk : Keep s0 s) : KeepAns s0 (execTileReset t s) := by
  unfold execTileReset
  try dsimp only
  repeat' first
    | with_reducible assumption | with_reducible apply KeepAns.next | with_reducible apply KeepAns.refused
      | with_reducible apply KeepAns.ite | with_reducible apply State.resetOut_keep | simp only [Keep.upd_iff]
      | intro _ | with_reducible apply Keep.ite | split

theorem execWatchdogEscalate_keep {s0 : State} (t : Nat) (s : State) (hk : Keep s0 s) : KeepAns s0
    (execWatchdogEscalate t s) := by
  unfold execWatchdogEscalate
  try dsimp only
  repeat' first
    | with_reducible assumption | with_reducible apply KeepAns.next | with_reducible apply KeepAns.refused
      | with_reducible apply KeepAns.ite | with_reducible apply State.trap_keep
      | with_reducible apply State.resetOut_keep | simp only [Keep.upd_iff] | intro _ | with_reducible apply Keep.ite
      | split

theorem State.refreshGen_keep {s0 : State} (s : State) (t : Nat) (hk : Keep s0 s) : Keep s0 (State.refreshGen s t) := by
  unfold State.refreshGen
  try dsimp only
  repeat' first
    | with_reducible assumption | simp only [Keep.upd_iff] | intro _ | with_reducible apply Keep.ite | split

theorem State.resetBunch_keep {s0 : State} (s : State) (b : BitVec 32) (hk : Keep s0 s) : Keep s0 (State.resetBunch s
    b) := by
  unfold State.resetBunch
  try dsimp only
  repeat' first
    | with_reducible assumption | with_reducible apply State.abortCtx_keep | with_reducible apply State.nextEpoch_keep
      | with_reducible apply State.resetTile_keep | with_reducible apply State.goOn_keep
      | with_reducible apply State.refreshGen_keep | simp only [Keep.upd_iff] | with_reducible apply Keep.foldl
      | with_reducible apply Keep.foldlPair | intro _

theorem execBunchReset_keep {s0 : State} (f : Frame) (b : BitVec 32) (s : State) (hk : Keep s0 s) : KeepAns s0
    (execBunchReset f b s) := by
  unfold execBunchReset
  try dsimp only
  repeat' first
    | with_reducible assumption | with_reducible apply KeepAns.next | with_reducible apply KeepAns.refused
      | with_reducible apply KeepAns.ite | with_reducible apply framed_keep | with_reducible apply Reply.fail_keep
      | with_reducible apply Reply.ok_keep | with_reducible apply State.changed_keep
      | with_reducible apply State.resetBunch_keep | simp only [Keep.upd_iff] | intro _
      | with_reducible apply Keep.ite | split

theorem State.clearTile_keep {s0 : State} (s : State) (t : Nat) (hk : Keep s0 s) : Keep s0 (State.clearTile s t) := by
  unfold State.clearTile
  try dsimp only
  repeat' first
    | with_reducible assumption | with_reducible apply State.setTile_keep | with_reducible apply State.clearStore_keep
      | simp only [Keep.upd_iff]

theorem State.rejoin_keep {s0 : State} (s : State) (t : Nat) (hk : Keep s0 s) : Keep s0 (State.rejoin s t) := by
  unfold State.rejoin
  try dsimp only
  repeat' first
    | with_reducible assumption | with_reducible apply State.setTile_keep | with_reducible apply State.revote_keep
      | with_reducible apply State.setRole_keep | with_reducible apply State.bumpGen_keep
      | with_reducible apply State.clearTile_keep | simp only [Keep.upd_iff] | with_reducible apply Keep.ite | split

end Sys2Proof.Machine
end

