-- ==== Sys2Proof/Laws/KeepPorts.lean ====
section
/-! SUPPORT. The operations of Machine/Ports.lean keep the queue, the variant and the canonical form of memory. -/

set_option linter.unusedSimpArgs false
set_option linter.unusedTactic false
set_option linter.unreachableTactic false

namespace Sys2Proof.Machine

theorem execMemportTrainingDone_keep {s0 : State} (m : Nat) (s : State) (hk : Keep s0 s) : KeepAns s0
    (execMemportTrainingDone m s) := by
  unfold execMemportTrainingDone
  try dsimp only
  repeat' first
    | with_reducible assumption | with_reducible apply KeepAns.next | with_reducible apply KeepAns.refused
      | with_reducible apply KeepAns.ite | with_reducible apply State.setPort_keep
      | with_reducible apply State.releasePads_keep | with_reducible apply State.unitsGo_keep
      | simp only [Keep.upd_iff] | simp only [Keep.updBoot_iff] | intro _ | with_reducible apply Keep.ite | split

theorem State.failPort_keep {s0 : State} (s : State) (m : Nat) (hk : Keep s0 s) : Keep s0 (State.failPort s m) := by
  unfold State.failPort
  try dsimp only
  repeat' first
    | with_reducible assumption | with_reducible apply State.setPort_keep | with_reducible apply State.degrade_keep
      | simp only [Keep.upd_iff] | with_reducible apply Keep.foldl | with_reducible apply Keep.foldlPair | intro _
      | split

theorem execMemportFailed_keep {s0 : State} (m : Nat) (s : State) (hk : Keep s0 s) : KeepAns s0 (execMemportFailed m
    s) := by
  unfold execMemportFailed
  try dsimp only
  repeat' first
    | with_reducible assumption | with_reducible apply KeepAns.next | with_reducible apply KeepAns.refused
      | with_reducible apply KeepAns.ite | with_reducible apply State.raiseSafety_keep
      | with_reducible apply State.failPort_keep | simp only [Keep.upd_iff] | intro _ | with_reducible apply Keep.ite
      | split

theorem State.portLevel_keep {s0 : State} (s : State) (m : Nat) (hk : Keep s0 s) : Keep s0 (State.portLevel s m) := by
  unfold State.portLevel
  try dsimp only
  repeat' first
    | with_reducible assumption | with_reducible apply State.setPort_keep | with_reducible apply State.draw_keep
      | simp only [Keep.upd_iff] | with_reducible refine Keep.ofSnd (by assumption) ?_ | split

theorem State.portUe_keep {s0 : State} (s : State) (who : Requester) (p : Spot) (hk : Keep s0 s) : KeepOpt s0
    (State.portUe s who p) := by
  unfold State.portUe
  try dsimp only
  repeat' first
    | with_reducible assumption | with_reducible apply KeepOpt.some | with_reducible apply KeepOpt.none
      | with_reducible apply KeepOpt.map | with_reducible apply State.traffic_keep
      | with_reducible apply State.hostUe_keep | with_reducible apply State.readUe_keep
      | with_reducible apply State.accessStop_keep | with_reducible apply State.moverUe_keep
      | simp only [Keep.upd_iff] | intro _ | split

theorem execMemportReadComplete_keep {s0 : State} (m off : Nat) (who : Requester) (clean mirrored mirrorClean : Bool)
    (s : State) (hk : Keep s0 s) : KeepAns s0 (execMemportReadComplete m off who clean mirrored mirrorClean s) := by
  unfold execMemportReadComplete
  try dsimp only
  repeat' first
    | with_reducible assumption | with_reducible apply KeepAns.next | with_reducible apply KeepAns.refused
      | with_reducible apply KeepAns.ite | with_reducible apply State.crossDown_keep
      | with_reducible apply State.crossUp_keep | with_reducible apply State.mirrorServed_keep
      | with_reducible apply State.portLevel_keep | with_reducible apply State.portUe_keep | simp only [Keep.upd_iff]
      | with_reducible refine Keep.ofOpt (by assumption) ?_ | intro _ | with_reducible apply Keep.ite | split

theorem State.renameRunning_keep {s0 : State} (s : State) (c seg : Nat) (old new : List Nat × List Nat) (d : BitVec
    256) (hk : Keep s0 s) : Keep s0 (State.renameRunning s c seg old new d) := by
  unfold State.renameRunning
  try dsimp only
  repeat' first
    | with_reducible assumption | simp only [Keep.upd_iff] | intro _ | with_reducible apply Keep.ite | split

theorem State.rebuilt_keep {s0 : State} (s : State) (c seg lost new : Nat) (hk : Keep s0 s) : KeepOpt s0
    (State.rebuilt s c seg lost new) := by
  unfold State.rebuilt
  try dsimp only
  repeat' first
    | with_reducible assumption | with_reducible apply KeepOpt.some | with_reducible apply KeepOpt.none
      | with_reducible apply KeepOpt.map | with_reducible apply State.setCtx_keep
      | with_reducible apply State.portMove_keep | with_reducible apply State.renameRunning_keep
      | simp only [Keep.upd_iff] | with_reducible refine Keep.updMem ?_ (moveCells_wf _ _ _ _)
      | with_reducible apply KeepOpt.bind | intro _ | intro _ | with_reducible apply Keep.ite | split

theorem execMirrorRebuildDone_keep {s0 : State} (c seg lost new : Nat) (s : State) (hk : Keep s0 s) : KeepAns s0
    (execMirrorRebuildDone c seg lost new s) := by
  unfold execMirrorRebuildDone
  try dsimp only
  repeat' first
    | with_reducible assumption | with_reducible apply KeepAns.next | with_reducible apply KeepAns.refused
      | with_reducible apply State.rebuilt_keep | simp only [Keep.upd_iff]
      | with_reducible refine Keep.ofOpt (by assumption) ?_ | intro _ | split

theorem State.windowEnd_keep {s0 : State} (s : State) (m : Nat) (hk : Keep s0 s) : Keep s0 (State.windowEnd s m) := by
  unfold State.windowEnd
  try dsimp only
  repeat' first
    | with_reducible assumption | with_reducible apply State.setPort_keep | simp only [Keep.upd_iff]
      | with_reducible apply Keep.foldl | with_reducible apply Keep.foldlPair | intro _
      | with_reducible apply Keep.ite | split

theorem State.countThrottled_keep {s0 : State} (s : State) (m : Nat) (hk : Keep s0 s) : Keep s0 (State.countThrottled
    s m) := by
  unfold State.countThrottled
  try dsimp only
  repeat' first
    | with_reducible assumption | with_reducible apply State.count_keep | simp only [Keep.upd_iff]
      | with_reducible apply Keep.ite | split

theorem execBandwidthWindowEnd_keep {s0 : State} (m : Nat) (s : State) (hk : Keep s0 s) : KeepAns s0
    (execBandwidthWindowEnd m s) := by
  unfold execBandwidthWindowEnd
  try dsimp only
  repeat' first
    | with_reducible assumption | with_reducible apply KeepAns.next | with_reducible apply KeepAns.refused
      | with_reducible apply KeepAns.ite | with_reducible apply State.unitsGo_keep
      | with_reducible apply State.portLevel_keep | with_reducible apply State.windowEnd_keep
      | with_reducible apply State.countThrottled_keep | simp only [Keep.upd_iff] | intro _
      | with_reducible apply Keep.ite | split

theorem execZqCalibration_keep {s0 : State} (m : Nat) (s : State) (hk : Keep s0 s) : KeepAns s0 (execZqCalibration m
    s) := by
  unfold execZqCalibration
  try dsimp only
  repeat' first
    | with_reducible assumption | with_reducible apply KeepAns.next | with_reducible apply KeepAns.refused
      | with_reducible apply KeepAns.ite | with_reducible apply State.count_keep | simp only [Keep.upd_iff] | intro _
      | with_reducible apply Keep.ite | split

theorem execSetFloors_keep {s0 : State} (f : Frame) (m : Nat) (floors : Option (List Nat)) (s : State) (hk : Keep s0
    s) : KeepAns s0 (execSetFloors f m floors s) := by
  unfold execSetFloors
  try dsimp only
  repeat' first
    | with_reducible assumption | with_reducible apply KeepAns.next | with_reducible apply KeepAns.refused
      | with_reducible apply KeepAns.ite | with_reducible apply State.setPort_keep | with_reducible apply framed_keep
      | with_reducible apply Reply.fail_keep | with_reducible apply Reply.ok_keep | simp only [Keep.upd_iff] | intro _
      | with_reducible apply Keep.ite | split

theorem State.peeled_keep {s0 : State} (s : State) (m g : Nat) (ok : Bool) (hk : Keep s0 s) : Keep s0 (State.peeled s
    m g ok) := by
  unfold State.peeled
  try dsimp only
  repeat' first
    | with_reducible assumption | with_reducible apply State.setPort_keep | with_reducible apply State.fault_keep
      | with_reducible apply State.portMove_keep | with_reducible apply Reply.ok_keep
      | with_reducible apply State.grantReady_keep | with_reducible apply State.goOn_keep | simp only [Keep.upd_iff]
      | simp only [Keep.updBoot_iff] | with_reducible refine Keep.updMem ?_ (memErase_wf _ _ _)
      | with_reducible apply Keep.ite | split

theorem execPeelGranuleDone_keep {s0 : State} (m g : Nat) (ok : Bool) (s : State) (hk : Keep s0 s) : KeepAns s0
    (execPeelGranuleDone m g ok s) := by
  unfold execPeelGranuleDone
  try dsimp only
  repeat' first
    | with_reducible assumption | with_reducible apply KeepAns.next | with_reducible apply KeepAns.refused
      | with_reducible apply KeepAns.ite | with_reducible apply Reply.ok_keep | with_reducible apply State.peeled_keep
      | simp only [Keep.upd_iff] | intro _ | with_reducible apply Keep.ite | split

theorem execSetVcArb_keep {s0 : State} (f : Frame) (port : Option Nat) (v : Word) (s : State) (hk : Keep s0 s) :
    KeepAns s0 (execSetVcArb f port v s) := by
  unfold execSetVcArb
  try dsimp only
  repeat' first
    | with_reducible assumption | with_reducible apply KeepAns.next | with_reducible apply KeepAns.refused
      | with_reducible apply KeepAns.ite | with_reducible apply State.setRunner_keep
      | with_reducible apply framed_keep | with_reducible apply Reply.fail_keep | with_reducible apply Reply.ok_keep
      | simp only [Keep.upd_iff] | intro _ | with_reducible apply Keep.ite | split

theorem State.retireTile_keep {s0 : State} (s : State) (t : Nat) (hk : Keep s0 s) : Keep s0 (State.retireTile s t) := by
  unfold State.retireTile
  try dsimp only
  repeat' first
    | with_reducible assumption | with_reducible apply State.revote_keep | with_reducible apply State.leaveFor_keep
      | with_reducible apply State.cancelGrafts_keep | simp only [Keep.upd_iff] | with_reducible apply Keep.ite
      | split

theorem State.portLinkLost_keep {s0 : State} (s : State) (x : Nat) (hk : Keep s0 s) : Keep s0 (State.portLinkLost s
    x) := by
  unfold State.portLinkLost
  try dsimp only
  repeat' first
    | with_reducible assumption | with_reducible apply State.setQuad_keep | with_reducible apply State.quadFault_keep
      | with_reducible apply State.quadDown_keep | simp only [Keep.upd_iff] | with_reducible apply Keep.foldl
      | with_reducible apply Keep.foldlPair | intro _ | with_reducible apply Keep.ite | split

theorem State.loseCommand_keep {s0 : State} (s : State) (hk : Keep s0 s) : Keep s0 (State.loseCommand s) := by
  unfold State.loseCommand
  try dsimp only
  repeat' first
    | with_reducible assumption | with_reducible apply State.draw_keep | with_reducible apply State.finishCmd_keep
      | simp only [Keep.upd_iff] | with_reducible refine Keep.ofSnd (by assumption) ?_ | intro _ | split

theorem State.failIsland_keep {s0 : State} (s : State) (i : Nat) (hk : Keep s0 s) : Keep s0 (State.failIsland s i) := by
  unfold State.failIsland
  try dsimp only
  repeat' first
    | with_reducible assumption | with_reducible apply State.failPort_keep
      | with_reducible apply State.portLinkLost_keep | with_reducible apply State.loseCommand_keep
      | simp only [Keep.upd_iff] | with_reducible apply Keep.ite | split

theorem State.unitCut_keep {s0 : State} (s : State) (i : Nat) (hk : Keep s0 s) : Keep s0 (State.unitCut s i) := by
  unfold State.unitCut
  try dsimp only
  repeat' first
    | with_reducible assumption | with_reducible apply State.failPort_keep
      | with_reducible apply State.retireTile_keep | with_reducible apply State.portLinkLost_keep
      | simp only [Keep.upd_iff] | split

theorem State.cutRouter_keep {s0 : State} (s : State) (i : Nat) (hk : Keep s0 s) : Keep s0 (State.cutRouter s i) := by
  unfold State.cutRouter
  try dsimp only
  repeat' first
    | with_reducible assumption | with_reducible apply State.raiseSafety_keep
      | with_reducible apply State.unitCut_keep | simp only [Keep.upd_iff]

theorem State.discard_keep {s0 : State} (s : State) (bad : List Nat) (hk : Keep s0 s) : Keep s0 (State.discard s bad)
    := by
  unfold State.discard
  try dsimp only
  repeat' first
    | with_reducible assumption | with_reducible apply State.draw_keep | with_reducible apply State.discarded_keep
      | simp only [Keep.upd_iff] | with_reducible refine Keep.ofSnd (by assumption) ?_ | with_reducible apply Keep.ite
      | split

theorem State.pauseRoutes_keep {s0 : State} (s : State) (hk : Keep s0 s) : Keep s0 (State.pauseRoutes s) := by
  unfold State.pauseRoutes
  try dsimp only
  repeat' first
    | with_reducible assumption | with_reducible apply State.emit_keep | simp only [Keep.upd_iff]

theorem State.failRouter_keep {s0 : State} (s : State) (i : Nat) (hk : Keep s0 s) : Keep s0 (State.failRouter s i) := by
  unfold State.failRouter
  try dsimp only
  repeat' first
    | with_reducible assumption | with_reducible apply State.cutRouter_keep | with_reducible apply State.discard_keep
      | with_reducible apply State.pauseRoutes_keep | simp only [Keep.upd_iff] | with_reducible apply Keep.foldl
      | with_reducible apply Keep.foldlPair | intro _ | with_reducible apply Keep.ite | split

theorem execRouterFailed_keep {s0 : State} (i : Nat) (_why : RouterWhy) (s : State) (hk : Keep s0 s) : KeepAns s0
    (execRouterFailed i _why s) := by
  unfold execRouterFailed
  try dsimp only
  repeat' first
    | with_reducible assumption | with_reducible apply KeepAns.next | with_reducible apply KeepAns.refused
      | with_reducible apply KeepAns.ite | with_reducible apply State.failRouter_keep | simp only [Keep.upd_iff]
      | intro _ | with_reducible apply Keep.ite | split

theorem State.retried_keep {s0 : State} (s : State) (n : Nat) (hk : Keep s0 s) : Keep s0 (State.retried s n) := by
  unfold State.retried
  try dsimp only
  repeat' first
    | with_reducible assumption | simp only [Keep.upd_iff]

theorem State.retriedRange_keep {s0 : State} (s : State) (n : Nat) (hk : Keep s0 s) : Keep s0 (State.retriedRange s
    n) := by
  unfold State.retriedRange
  try dsimp only
  repeat' first
    | with_reducible assumption | with_reducible apply State.draw_keep | with_reducible apply State.retried_keep
      | simp only [Keep.upd_iff] | with_reducible refine Keep.ofSnd (by assumption) ?_ | split

theorem State.resolveLoad_keep {s0 : State} (s : State) (bad : List Nat) (t : Nat) (hk : Keep s0 s) : Keep s0
    (State.resolveLoad s bad t) := by
  unfold State.resolveLoad
  try dsimp only
  repeat' first
    | with_reducible assumption | with_reducible apply State.setCore_keep | with_reducible apply State.accessStop_keep
      | with_reducible apply State.retried_keep | simp only [Keep.upd_iff] | with_reducible apply Keep.ite | split

theorem State.resolveOp_keep {s0 : State} (s : State) (bad : List Nat) (t : Nat) (o : EngOp) (hk : Keep s0 s) : Keep
    s0 (State.resolveOp s bad t o) := by
  unfold State.resolveOp
  try dsimp only
  repeat' first
    | with_reducible assumption | with_reducible apply State.markOp_keep
      | with_reducible apply State.retriedRange_keep | simp only [Keep.upd_iff] | intro _
      | with_reducible apply Keep.ite | split

theorem State.resolveCmd_keep {s0 : State} (s : State) (bad : List Nat) (q : Nat) (c : QCmd) (hk : Keep s0 s) : Keep
    s0 (State.resolveCmd s bad q c) := by
  unfold State.resolveCmd
  try dsimp only
  repeat' first
    | with_reducible assumption | with_reducible apply State.updCmd_keep
      | with_reducible apply State.retriedRange_keep | simp only [Keep.upd_iff] | intro _
      | with_reducible apply Keep.ite | split

theorem State.resolveSent_keep {s0 : State} (s : State) (t : Nat) (r : Run) (o : EngOp) (u : Sent) (hk : Keep s0 s) :
    Keep s0 (State.resolveSent s t r o u) := by
  unfold State.resolveSent
  try dsimp only
  repeat' first
    | with_reducible assumption | with_reducible apply State.sendMsg_keep | with_reducible apply State.dropSent_keep
      | with_reducible apply Reply.fail_keep | with_reducible apply State.markOp_keep
      | with_reducible apply State.retried_keep | simp only [Keep.upd_iff]
      | with_reducible refine Keep.ofSnd (by assumption) ?_ | intro _ | with_reducible apply Keep.ite | split

theorem State.tablesOn_keep {s0 : State} (s : State) (failed : List Nat) (hk : Keep s0 s) : Keep s0 (State.tablesOn s
    failed) := by
  unfold State.tablesOn
  try dsimp only
  repeat' first
    | with_reducible assumption | with_reducible apply State.emit_keep | with_reducible apply State.setTables_keep
      | simp only [Keep.upd_iff] | intro _ | split

theorem State.resolveAll_keep {s0 : State} (s : State) (failed : List Nat) (sents : List (Nat × Run × EngOp × Sent))
    (hk : Keep s0 s) : Keep s0 (State.resolveAll s failed sents) := by
  unfold State.resolveAll
  try dsimp only
  repeat' first
    | with_reducible assumption | with_reducible apply State.postHeld_keep | with_reducible apply State.proceed_keep
      | with_reducible apply State.resolveLoad_keep | with_reducible apply State.resolveOp_keep
      | with_reducible apply State.resolveCmd_keep | with_reducible apply State.resolveSent_keep
      | simp only [Keep.upd_iff] | with_reducible apply Keep.foldl | with_reducible apply Keep.foldlPair | intro _

theorem State.resumeRoutes_keep {s0 : State} (s : State) (hk : Keep s0 s) : Keep s0 (State.resumeRoutes s) := by
  unfold State.resumeRoutes
  try dsimp only
  repeat' first
    | with_reducible assumption | with_reducible apply State.tablesOn_keep
      | with_reducible apply State.resolveAll_keep | simp only [Keep.upd_iff] | intro _

theorem State.retable_keep {s0 : State} (s : State) (hk : Keep s0 s) : Keep s0 (State.retable s) := by
  unfold State.retable
  try dsimp only
  repeat' first
    | with_reducible assumption | with_reducible apply State.draw_keep | with_reducible apply State.emit_keep
      | with_reducible apply State.setTables_keep | with_reducible apply State.resolveAll_keep
      | simp only [Keep.upd_iff] | with_reducible refine Keep.ofSnd (by assumption) ?_ | split

end Sys2Proof.Machine
end

