-- ==== Sys2Proof/Laws/KeepPower.lean ====
section
/-! SUPPORT. The operations of Machine/Power.lean keep the queue, the variant and the canonical form of memory. -/

set_option linter.unusedSimpArgs false
set_option linter.unusedTactic false
set_option linter.unreachableTactic false

namespace Sys2Proof.Machine

theorem State.signal_keep {s0 : State} (s : State) (hk : Keep s0 s) : Keep s0 (State.signal s) := by
  unfold State.signal
  try dsimp only
  repeat' first
    | with_reducible assumption | with_reducible apply State.emit_keep | simp only [Keep.upd_iff]
      | simp only [Keep.updBoot_iff] | with_reducible apply Keep.ite | split

theorem execSetPerfMode_keep {s0 : State} (f : Frame) (free : Bool) (s : State) (hk : Keep s0 s) : KeepAns s0
    (execSetPerfMode f free s) := by
  unfold execSetPerfMode
  try dsimp only
  repeat' first
    | with_reducible assumption | with_reducible apply KeepAns.next | with_reducible apply KeepAns.refused
      | with_reducible apply framed_keep | with_reducible apply Reply.ok_keep | simp only [Keep.upd_iff] | intro _

theorem execSetOrchCap_keep {s0 : State} (f : Frame) (w : Nat) (s : State) (hk : Keep s0 s) : KeepAns s0
    (execSetOrchCap f w s) := by
  unfold execSetOrchCap
  try dsimp only
  repeat' first
    | with_reducible assumption | with_reducible apply KeepAns.next | with_reducible apply KeepAns.refused
      | with_reducible apply framed_keep | with_reducible apply Reply.ok_keep | simp only [Keep.upd_iff] | intro _

theorem execSetPowerPolicy_keep {s0 : State} (f : Frame) (b : BitVec 32) (keepIdle : Bool) (s : State) (hk : Keep s0
    s) : KeepAns s0 (execSetPowerPolicy f b keepIdle s) := by
  unfold execSetPowerPolicy
  try dsimp only
  repeat' first
    | with_reducible assumption | with_reducible apply KeepAns.next | with_reducible apply KeepAns.refused
      | with_reducible apply KeepAns.ite | with_reducible apply State.updBunch_keep
      | with_reducible apply State.revote_keep | with_reducible apply framed_keep
      | with_reducible apply Reply.fail_keep | with_reducible apply Reply.ok_keep | simp only [Keep.upd_iff] | intro _
      | with_reducible apply Keep.ite | split

theorem execOrchVote_keep {s0 : State} (f : Frame) (d v : Nat) (s : State) (hk : Keep s0 s) : KeepAns s0
    (execOrchVote f d v s) := by
  unfold execOrchVote
  try dsimp only
  repeat' first
    | with_reducible assumption | with_reducible apply KeepAns.next | with_reducible apply KeepAns.refused
      | with_reducible apply KeepAns.ite | with_reducible apply State.setDom_keep
      | with_reducible apply State.vote_keep | with_reducible apply framed_keep | with_reducible apply Reply.fail_keep
      | with_reducible apply Reply.ok_keep | simp only [Keep.upd_iff] | intro _ | with_reducible apply Keep.ite
      | split

theorem execSetBankKeep_keep {s0 : State} (f : Frame) (q : Nat) (keep : BitVec 17) (s : State) (hk : Keep s0 s) :
    KeepAns s0 (execSetBankKeep f q keep s) := by
  unfold execSetBankKeep
  try dsimp only
  repeat' first
    | with_reducible assumption | with_reducible apply KeepAns.next | with_reducible apply KeepAns.refused
      | with_reducible apply KeepAns.ite | with_reducible apply framed_keep | with_reducible apply Reply.fail_keep
      | with_reducible apply Reply.ok_keep | simp only [Keep.upd_iff] | simp only [Keep.updBoot_iff] | intro _
      | with_reducible apply Keep.ite | split

theorem execI3cTrayCapWrite_keep {s0 : State} (w : BitVec 16) (s : State) (hk : Keep s0 s) : KeepAns s0
    (execI3cTrayCapWrite w s) := by
  unfold execI3cTrayCapWrite
  try dsimp only
  repeat' first
    | with_reducible assumption | with_reducible apply KeepAns.next | with_reducible apply KeepAns.refused
      | simp only [Keep.upd_iff] | intro _

theorem execI3cAddressAssign_keep {s0 : State} (a : BitVec 7) (s : State) (hk : Keep s0 s) : KeepAns s0
    (execI3cAddressAssign a s) := by
  unfold execI3cAddressAssign
  try dsimp only
  repeat' first
    | with_reducible assumption | with_reducible apply KeepAns.next | with_reducible apply KeepAns.refused
      | with_reducible apply State.signal_keep | simp only [Keep.upd_iff] | simp only [Keep.updBoot_iff] | intro _

theorem State.steer_keep {s0 : State} (s : State) (t : Nat) (forced : Bool) (hk : Keep s0 s) : Keep s0 (State.steer s
    t forced) := by
  unfold State.steer
  try dsimp only
  repeat' first
    | with_reducible assumption | with_reducible apply State.draw_keep | simp only [Keep.upd_iff]
      | with_reducible refine Keep.ofSnd (by assumption) ?_ | with_reducible apply Keep.ite | split

theorem State.estimateTick_keep {s0 : State} (s : State) (a : Activity) (hk : Keep s0 s) : Keep s0
    (State.estimateTick s a) := by
  unfold State.estimateTick
  try dsimp only
  repeat' first
    | with_reducible assumption | with_reducible apply TRun.all_keep | with_reducible apply State.signal_keep
      | with_reducible apply State.steer_keep | simp only [Keep.upd_iff] | with_reducible apply Keep.foldl
      | with_reducible apply Keep.foldlPair | intro _

theorem execPowerEstimateTick_keep {s0 : State} (act : Activity) (s : State) (hk : Keep s0 s) : KeepAns s0
    (execPowerEstimateTick act s) := by
  unfold execPowerEstimateTick
  try dsimp only
  repeat' first
    | with_reducible assumption | with_reducible apply KeepAns.next | with_reducible apply KeepAns.refused
      | with_reducible apply State.estimateTick_keep | simp only [Keep.upd_iff] | intro _

theorem execCapUnmetClear_keep {s0 : State} (s : State) (hk : Keep s0 s) : KeepAns s0 (execCapUnmetClear s) := by
  unfold execCapUnmetClear
  try dsimp only
  repeat' first
    | with_reducible assumption | with_reducible apply KeepAns.next | with_reducible apply KeepAns.refused
      | with_reducible apply KeepAns.ite | with_reducible apply State.signal_keep | simp only [Keep.upd_iff] | intro _
      | with_reducible apply Keep.ite | split

theorem State.calibrate_keep {s0 : State} (s : State) (measured rail : Nat) (vin iin : BitVec 16) (hk : Keep s0 s) :
    Keep s0 (State.calibrate s measured rail vin iin) := by
  unfold State.calibrate
  try dsimp only
  repeat' first
    | with_reducible assumption | with_reducible apply State.draw_keep | with_reducible apply State.fault_keep
      | with_reducible apply Reply.ok_keep | with_reducible apply State.signal_keep | simp only [Keep.upd_iff]
      | with_reducible refine Keep.ofSnd (by assumption) ?_ | with_reducible apply Keep.ite | split

theorem execCalibrationWindow_keep {s0 : State} (_estimated measured rail : Nat) (vin iin : BitVec 16) (s : State)
    (hk : Keep s0 s) : KeepAns s0 (execCalibrationWindow _estimated measured rail vin iin s) := by
  unfold execCalibrationWindow
  try dsimp only
  repeat' first
    | with_reducible assumption | with_reducible apply KeepAns.next | with_reducible apply KeepAns.refused
      | with_reducible apply State.calibrate_keep | simp only [Keep.upd_iff] | intro _

theorem execVinRange_keep {s0 : State} (vin : BitVec 16) (s : State) (hk : Keep s0 s) : KeepAns s0 (execVinRange vin
    s) := by
  unfold execVinRange
  try dsimp only
  repeat' first
    | with_reducible assumption | with_reducible apply KeepAns.next | with_reducible apply KeepAns.refused
      | with_reducible apply KeepAns.ite | with_reducible apply State.fault_keep
      | with_reducible apply State.signal_keep | simp only [Keep.upd_iff] | intro _ | with_reducible apply Keep.ite
      | split

theorem State.heat_keep {s0 : State} (s : State) (d : Nat) (r : Int) (bad fresh : Bool) (hk : Keep s0 s) : Keep s0
    (State.heat s d r bad fresh) := by
  unfold State.heat
  try dsimp only
  repeat' first
    | with_reducible assumption | with_reducible apply State.fault_keep | with_reducible apply State.raiseSafety_keep
      | simp only [Keep.upd_iff] | with_reducible apply Keep.ite | split

theorem State.sample_keep {s0 : State} (s : State) (new : List (Nat × Int)) (hk : Keep s0 s) : Keep s0 (State.sample
    s new) := by
  unfold State.sample
  try dsimp only
  repeat' first
    | with_reducible assumption | with_reducible apply State.signal_keep | with_reducible apply State.heat_keep
      | simp only [Keep.upd_iff] | with_reducible apply Keep.foldl | with_reducible apply Keep.foldlPair | intro _
      | with_reducible apply Keep.ite | split

theorem execThermalSample_keep {s0 : State} (readings : List (Nat × Int)) (s : State) (hk : Keep s0 s) : KeepAns s0
    (execThermalSample readings s) := by
  unfold execThermalSample
  try dsimp only
  repeat' first
    | with_reducible assumption | with_reducible apply KeepAns.next | with_reducible apply KeepAns.refused
      | with_reducible apply KeepAns.ite | with_reducible apply State.sample_keep | simp only [Keep.upd_iff] | intro _
      | with_reducible apply Keep.ite | split

theorem execVddLow_keep {s0 : State} (t : Nat) (s : State) (hk : Keep s0 s) : KeepAns s0 (execVddLow t s) := by
  unfold execVddLow
  try dsimp only
  repeat' first
    | with_reducible assumption | with_reducible apply KeepAns.next | with_reducible apply KeepAns.refused
      | with_reducible apply KeepAns.ite | with_reducible apply State.raiseSafety_keep | simp only [Keep.upd_iff]
      | intro _ | with_reducible apply Keep.ite | split

theorem execRegulator_keep {s0 : State} (d : Nat) (s : State) (hk : Keep s0 s) : KeepAns s0 (execRegulator d s) := by
  unfold execRegulator
  try dsimp only
  repeat' first
    | with_reducible assumption | with_reducible apply KeepAns.next | with_reducible apply KeepAns.refused
      | with_reducible apply KeepAns.ite | with_reducible apply State.raiseSafety_keep | simp only [Keep.upd_iff]
      | intro _ | with_reducible apply Keep.ite | split

theorem State.tileAwake_keep {s0 : State} (s : State) (t : Nat) (hk : Keep s0 s) : Keep s0 (State.tileAwake s t) := by
  unfold State.tileAwake
  try dsimp only
  repeat' first
    | with_reducible assumption | with_reducible apply State.setTile_keep
      | with_reducible apply State.dispatchTile_keep | with_reducible apply State.emptyBuf_keep
      | simp only [Keep.upd_iff]

theorem State.quarterAwake_keep {s0 : State} (s : State) (q : Nat) (hk : Keep s0 s) : Keep s0 (State.quarterAwake s
    q) := by
  unfold State.quarterAwake
  try dsimp only
  repeat' first
    | with_reducible assumption | with_reducible apply State.setTile_keep | with_reducible apply State.evalDom_keep
      | with_reducible apply State.retable_keep | simp only [Keep.upd_iff] | with_reducible apply Keep.foldl
      | with_reducible apply Keep.foldlPair | intro _

theorem State.unpark_keep {s0 : State} (s : State) (d : Nat) (hk : Keep s0 s) : Keep s0 (State.unpark s d) := by
  unfold State.unpark
  try dsimp only
  repeat' first
    | with_reducible assumption | with_reducible apply State.setXing_keep | simp only [Keep.upd_iff]
      | with_reducible apply Keep.ite | split

theorem State.awake_keep {s0 : State} (s : State) (d : Nat) (hk : Keep s0 s) : Keep s0 (State.awake s d) := by
  unfold State.awake
  try dsimp only
  repeat' first
    | with_reducible assumption | with_reducible apply State.setPort_keep | with_reducible apply State.setQuad_keep
      | with_reducible apply State.setRunner_keep | with_reducible apply State.setDom_keep
      | with_reducible apply State.evalDom_keep | with_reducible apply State.flushWaits_keep
      | with_reducible apply State.unitsGo_keep | with_reducible apply State.goOn_keep
      | with_reducible apply State.tileAwake_keep | with_reducible apply State.quarterAwake_keep
      | with_reducible apply State.unpark_keep | simp only [Keep.upd_iff] | with_reducible apply Keep.foldl
      | with_reducible apply Keep.foldlPair | intro _ | with_reducible apply Keep.ite | split

theorem execDomainWakeDone_keep {s0 : State} (d : Nat) (s : State) (hk : Keep s0 s) : KeepAns s0 (execDomainWakeDone
    d s) := by
  unfold execDomainWakeDone
  try dsimp only
  repeat' first
    | with_reducible assumption | with_reducible apply KeepAns.next | with_reducible apply KeepAns.refused
      | with_reducible apply KeepAns.ite | with_reducible apply State.awake_keep | simp only [Keep.upd_iff] | intro _
      | with_reducible apply Keep.ite | split

theorem State.bank_keep {s0 : State} (s : State) (q : Nat) (hk : Keep s0 s) : Keep s0 (State.bank s q) := by
  unfold State.bank
  try dsimp only
  repeat' first
    | with_reducible assumption | with_reducible apply State.setDom_keep | with_reducible apply State.enterLow_keep
      | with_reducible apply State.retable_keep | simp only [Keep.upd_iff] | with_reducible apply Keep.foldl
      | with_reducible apply Keep.foldlPair | intro _ | with_reducible apply Keep.ite | split

theorem execQuarterBanked_keep {s0 : State} (q : Nat) (s : State) (hk : Keep s0 s) : KeepAns s0 (execQuarterBanked q
    s) := by
  unfold execQuarterBanked
  try dsimp only
  repeat' first
    | with_reducible assumption | with_reducible apply KeepAns.next | with_reducible apply KeepAns.refused
      | with_reducible apply KeepAns.ite | with_reducible apply State.bank_keep | simp only [Keep.upd_iff] | intro _
      | with_reducible apply Keep.ite | split

end Sys2Proof.Machine
end

