-- ==== Sys2Proof/Laws/KeepSafety.lean ====
section
/-! SUPPORT. The operations of Machine/Safety.lean keep the queue, the variant and the canonical form of memory. -/

set_option linter.unusedSimpArgs false
set_option linter.unusedTactic false
set_option linter.unreachableTactic false

namespace Sys2Proof.Machine

theorem State.latchRow_keep {s0 : State} (s : State) (row : Nat) (src : BitVec 32) (hk : Keep s0 s) : Keep s0
    (State.latchRow s row src) := by
  unfold State.latchRow
  try dsimp only
  repeat' first
    | with_reducible assumption | with_reducible apply State.count_keep | simp only [Keep.upd_iff]
      | with_reducible apply Keep.ite | split

theorem State.settleSafe_keep {s0 : State} (s : State) (hk : Keep s0 s) : Keep s0 (State.settleSafe s) := by
  unfold State.settleSafe
  try dsimp only
  repeat' first
    | with_reducible assumption | with_reducible apply TRun.all_keep | with_reducible apply State.signal_keep
      | simp only [Keep.upd_iff] | intro _ | with_reducible apply Keep.ite | split

theorem execRouterDrained_keep {s0 : State} (i : Nat) (s : State) (hk : Keep s0 s) : KeepAns s0 (execRouterDrained i
    s) := by
  unfold execRouterDrained
  try dsimp only
  repeat' first
    | with_reducible assumption | with_reducible apply KeepAns.next | with_reducible apply KeepAns.refused
      | with_reducible apply KeepAns.ite | with_reducible apply TRun.all_keep
      | with_reducible apply State.resumeRoutes_keep | with_reducible apply State.settleSafe_keep
      | simp only [Keep.upd_iff] | intro _ | with_reducible apply Keep.ite | split

theorem State.tileStep_keep {s0 : State} (s : State) (row t : Nat) (hk : Keep s0 s) : Keep s0 (State.tileStep s row
    t) := by
  unfold State.tileStep
  try dsimp only
  repeat' first
    | with_reducible assumption | with_reducible apply State.beginGraft_keep
      | with_reducible apply State.resetInPlace_keep | simp only [Keep.upd_iff] | intro _
      | with_reducible apply Keep.ite | split

theorem State.fenceTile_keep {s0 : State} (s : State) (t : Nat) (hk : Keep s0 s) : Keep s0 (State.fenceTile s t) := by
  unfold State.fenceTile
  try dsimp only
  repeat' first
    | with_reducible assumption | with_reducible apply State.setTile_keep | simp only [Keep.upd_iff]

theorem State.huskPut_keep {s0 : State} (m off : Nat) (bs : List Byte) :
    ∀ (i : Nat) (s : State), Keep s0 s → Keep s0 (s.huskPut m off i bs) := by
  induction bs with
  | nil => intro i s hk; exact hk
  | cons b bs ih => intro i s hk; exact ih _ _ (State.poke_keep _ _ _ hk)

theorem State.writeHusk_keep {s0 : State} (s : State) (r : React) (units : List (BitVec 32)) (part : Bool) (hk : Keep
    s0 s) : Keep s0 (State.writeHusk s r units part) := by
  unfold State.writeHusk
  try dsimp only
  repeat' first
    | with_reducible assumption | with_reducible apply State.fault_keep | with_reducible apply State.portMove_keep
      | with_reducible apply State.huskPut_keep | simp only [Keep.upd_iff] | simp only [Keep.updBoot_iff]
      | with_reducible apply Keep.foldl | with_reducible apply Keep.foldlPair | intro _
      | with_reducible apply Keep.ite | split

theorem State.replaceLesser_keep {s0 : State} (s : State) (r : React) (hk : Keep s0 s) : Keep s0 (State.replaceLesser
    s r) := by
  unfold State.replaceLesser
  try dsimp only
  repeat' first
    | with_reducible assumption | with_reducible apply State.writeHusk_keep | simp only [Keep.upd_iff]
      | with_reducible apply Keep.foldl | with_reducible apply Keep.foldlPair | intro _
      | with_reducible apply Keep.ite | split

theorem State.shutDown_keep {s0 : State} (s : State) (hk : Keep s0 s) : Keep s0 (State.shutDown s) := by
  unfold State.shutDown
  try dsimp only
  repeat' first
    | with_reducible assumption | with_reducible apply State.setDom_keep | with_reducible apply State.enterLow_keep
      | simp only [Keep.upd_iff] | simp only [Keep.updBoot_iff] | with_reducible apply Keep.foldl
      | with_reducible apply Keep.foldlPair | intro _ | with_reducible apply Keep.ite | split

theorem State.beginReact_keep {s0 : State} (s : State) (r : React) (hk : Keep s0 s) : Keep s0 (State.beginReact s r)
    := by
  unfold State.beginReact
  try dsimp only
  repeat' first
    | with_reducible assumption | with_reducible apply State.quiesceSafe_keep
      | with_reducible apply State.failIsland_keep | with_reducible apply State.fenceTile_keep
      | with_reducible apply State.replaceLesser_keep | with_reducible apply State.shutDown_keep
      | simp only [Keep.upd_iff] | with_reducible apply Keep.foldl | with_reducible apply Keep.foldlPair | intro _
      | with_reducible apply Keep.ite | split

theorem State.reactTo_keep {s0 : State} (s : State) (f : SafetyFault) (hk : Keep s0 s) : Keep s0 (State.reactTo s f)
    := by
  unfold State.reactTo
  try dsimp only
  repeat' first
    | with_reducible assumption | with_reducible apply State.faultAt_keep
      | with_reducible apply State.quiesceSafe_keep | with_reducible apply State.latchRow_keep
      | with_reducible apply State.settleSafe_keep | with_reducible apply State.beginReact_keep
      | simp only [Keep.upd_iff] | with_reducible apply Keep.foldl | with_reducible apply Keep.foldlPair | intro _
      | with_reducible apply Keep.ite | split

theorem State.parityUe_keep {s0 : State} (s : State) (t : Nat) (hk : Keep s0 s) : Keep s0 (State.parityUe s t) := by
  unfold State.parityUe
  try dsimp only
  repeat' first
    | with_reducible assumption | with_reducible apply State.draw_keep | with_reducible apply State.countLine_keep
      | simp only [Keep.upd_iff] | with_reducible apply Keep.foldl | with_reducible apply Keep.foldlPair
      | with_reducible refine Keep.ofSnd (by assumption) ?_ | intro _ | split

theorem State.detected_keep {s0 : State} (s : State) (f : SafetyFault) (hk : Keep s0 s) : Keep s0 (State.detected s
    f) := by
  unfold State.detected
  try dsimp only
  repeat' first
    | with_reducible assumption | with_reducible apply State.flagFence_keep
      | with_reducible apply State.evalWaiters_keep | with_reducible apply State.parityUe_keep
      | simp only [Keep.upd_iff] | with_reducible apply Keep.ite | split

theorem execSafetyFaultReaction_keep {s0 : State} (flt : SafetyFault) (s : State) (hk : Keep s0 s) : KeepAns s0
    (execSafetyFaultReaction flt s) := by
  unfold execSafetyFaultReaction
  try dsimp only
  repeat' first
    | with_reducible assumption | with_reducible apply KeepAns.next | with_reducible apply KeepAns.refused
      | with_reducible apply KeepAns.ite | with_reducible apply State.reactTo_keep
      | with_reducible apply State.detected_keep | simp only [Keep.upd_iff] | intro _ | with_reducible apply Keep.ite
      | split

theorem State.runStep_keep {s0 : State} (s : State) (r : React) (hk : Keep s0 s) : Keep s0 (State.runStep s r) := by
  unfold State.runStep
  try dsimp only
  repeat' first
    | with_reducible assumption | with_reducible apply State.changed_keep | with_reducible apply State.resetBunch_keep
      | with_reducible apply State.tileStep_keep | simp only [Keep.upd_iff] | with_reducible apply Keep.ite | split

theorem State.setReact_keep {s0 : State} (s : State) (r r' : React) (hk : Keep s0 s) : Keep s0 (State.setReact s r
    r') := by
  unfold State.setReact
  try dsimp only
  repeat' first
    | with_reducible assumption | simp only [Keep.upd_iff] | intro _

theorem execHuskRecordComplete_keep {s0 : State} (units : List (BitVec 32)) (s : State) (hk : Keep s0 s) : KeepAns s0
    (execHuskRecordComplete units s) := by
  unfold execHuskRecordComplete
  try dsimp only
  repeat' first
    | with_reducible assumption | with_reducible apply KeepAns.next | with_reducible apply KeepAns.refused
      | with_reducible apply State.settleSafe_keep | with_reducible apply State.writeHusk_keep
      | with_reducible apply State.runStep_keep | with_reducible apply State.setReact_keep | simp only [Keep.upd_iff]
      | intro _ | split

theorem execHuskUnitTimeout_keep {s0 : State} (src : BitVec 32) (s : State) (hk : Keep s0 s) : KeepAns s0
    (execHuskUnitTimeout src s) := by
  unfold execHuskUnitTimeout
  try dsimp only
  repeat' first
    | with_reducible assumption | with_reducible apply KeepAns.next | with_reducible apply KeepAns.refused
      | with_reducible apply KeepAns.ite | with_reducible apply State.setReact_keep | simp only [Keep.upd_iff]
      | intro _ | with_reducible apply Keep.ite | split

theorem State.escalate_keep {s0 : State} (s : State) (r : React) (hk : Keep s0 s) : Keep s0 (State.escalate s r) := by
  unfold State.escalate
  try dsimp only
  repeat' first
    | with_reducible assumption | with_reducible apply State.settleSafe_keep
      | with_reducible apply State.writeHusk_keep | with_reducible apply State.beginReact_keep
      | simp only [Keep.upd_iff] | with_reducible apply Keep.ite | split

theorem execEscalation_keep {s0 : State} (row : Nat) (s : State) (hk : Keep s0 s) : KeepAns s0 (execEscalation row s)
    := by
  unfold execEscalation
  try dsimp only
  repeat' first
    | with_reducible assumption | with_reducible apply KeepAns.next | with_reducible apply KeepAns.refused
      | with_reducible apply State.escalate_keep | simp only [Keep.upd_iff] | intro _ | split

theorem execRowAcknowledge_keep {s0 : State} (f : Frame) (rows : List Nat) (s : State) (hk : Keep s0 s) : KeepAns s0
    (execRowAcknowledge f rows s) := by
  unfold execRowAcknowledge
  try dsimp only
  repeat' first
    | with_reducible assumption | with_reducible apply KeepAns.next | with_reducible apply KeepAns.refused
      | with_reducible apply KeepAns.ite | with_reducible apply State.count_keep | with_reducible apply framed_keep
      | with_reducible apply Reply.fail_keep | with_reducible apply Reply.ok_keep
      | with_reducible apply State.settleSafe_keep | simp only [Keep.upd_iff] | with_reducible apply Keep.foldl
      | with_reducible apply Keep.foldlPair | intro _ | with_reducible apply Keep.ite | split

theorem execPacerFreqWindow_keep {s0 : State} (p sys l : Nat) (s : State) (hk : Keep s0 s) : KeepAns s0
    (execPacerFreqWindow p sys l s) := by
  unfold execPacerFreqWindow
  try dsimp only
  repeat' first
    | with_reducible assumption | with_reducible apply KeepAns.next | with_reducible apply KeepAns.refused
      | with_reducible apply KeepAns.ite | with_reducible apply State.raiseSafety_keep | simp only [Keep.upd_iff]
      | intro _ | with_reducible apply Keep.ite | split

theorem execMgcKick_keep {s0 : State} (s : State) (hk : Keep s0 s) : KeepAns s0 (execMgcKick s) := by
  unfold execMgcKick
  try dsimp only
  repeat' first
    | with_reducible assumption | with_reducible apply KeepAns.next | with_reducible apply KeepAns.refused
      | simp only [Keep.upd_iff] | intro _

theorem execHostifHeartbeat_keep {s0 : State} (s : State) (hk : Keep s0 s) : KeepAns s0 (execHostifHeartbeat s) := by
  unfold execHostifHeartbeat
  try dsimp only
  repeat' first
    | with_reducible assumption | with_reducible apply KeepAns.next | with_reducible apply KeepAns.refused
      | simp only [Keep.upd_iff] | intro _

theorem execMgcWatchdog_keep {s0 : State} (s : State) (hk : Keep s0 s) : KeepAns s0 (execMgcWatchdog s) := by
  unfold execMgcWatchdog
  try dsimp only
  repeat' first
    | with_reducible assumption | with_reducible apply KeepAns.next | with_reducible apply KeepAns.refused
      | with_reducible apply KeepAns.ite | with_reducible apply State.raiseSafety_keep | simp only [Keep.upd_iff]
      | intro _ | with_reducible apply Keep.ite | split

theorem execHostifWatchdog_keep {s0 : State} (s : State) (hk : Keep s0 s) : KeepAns s0 (execHostifWatchdog s) := by
  unfold execHostifWatchdog
  try dsimp only
  repeat' first
    | with_reducible assumption | with_reducible apply KeepAns.next | with_reducible apply KeepAns.refused
      | with_reducible apply KeepAns.ite | with_reducible apply State.raiseSafety_keep | simp only [Keep.upd_iff]
      | intro _ | with_reducible apply Keep.ite | split

theorem execStoneLockstep_keep {s0 : State} (s : State) (hk : Keep s0 s) : KeepAns s0 (execStoneLockstep s) := by
  unfold execStoneLockstep
  try dsimp only
  repeat' first
    | with_reducible assumption | with_reducible apply KeepAns.next | with_reducible apply KeepAns.refused
      | with_reducible apply State.fault_keep | with_reducible apply State.signal_keep | simp only [Keep.upd_iff]
      | intro _

theorem State.inTurn_keep {s0 : State} (s : State) (t : Nat) (hk : Keep s0 s) : Keep s0 (State.inTurn s t) := by
  unfold State.inTurn
  try dsimp only
  repeat' first
    | with_reducible assumption | simp only [Keep.upd_iff]

theorem State.borrow_keep {s0 : State} (s : State) (t : Nat) (hk : Keep s0 s) : Keep s0 (State.borrow s t) := by
  unfold State.borrow
  try dsimp only
  repeat' first
    | with_reducible assumption | with_reducible apply State.setTile_keep | with_reducible apply State.inTurn_keep
      | simp only [Keep.upd_iff]

theorem State.swapFree_keep {s0 : State} (s : State) (t k : Nat) (hk : Keep s0 s) : Keep s0 (State.swapFree s t k) := by
  unfold State.swapFree
  try dsimp only
  repeat' first
    | with_reducible assumption | with_reducible apply State.revote_keep | with_reducible apply State.clearOut_keep
      | with_reducible apply State.bringIn_keep | simp only [Keep.upd_iff]

theorem State.startTurn_keep {s0 : State} (s : State) (t : Nat) (hk : Keep s0 s) : KeepOpt s0 (State.startTurn s t)
    := by
  unfold State.startTurn
  try dsimp only
  repeat' first
    | with_reducible assumption | with_reducible apply KeepOpt.some | with_reducible apply KeepOpt.none
      | with_reducible apply KeepOpt.map | with_reducible apply State.setTile_keep
      | with_reducible apply State.revote_keep | with_reducible apply State.setRole_keep
      | with_reducible apply State.beginGraft_keep | with_reducible apply State.inTurn_keep
      | with_reducible apply State.borrow_keep | with_reducible apply State.swapFree_keep | simp only [Keep.upd_iff]
      | with_reducible apply Keep.ite | split

theorem execRotationTurnStart_keep {s0 : State} (s : State) (hk : Keep s0 s) : KeepAns s0 (execRotationTurnStart s)
    := by
  unfold execRotationTurnStart
  try dsimp only
  repeat' first
    | with_reducible assumption | with_reducible apply KeepAns.next | with_reducible apply KeepAns.refused
      | with_reducible apply KeepAns.ite | with_reducible apply State.startTurn_keep | simp only [Keep.upd_iff]
      | with_reducible refine Keep.ofOpt (by assumption) ?_ | with_reducible apply KeepOpt.bind | intro _ | intro _
      | with_reducible apply Keep.ite | split

theorem State.passTile_keep {s0 : State} (s : State) (t : Nat) (hk : Keep s0 s) : Keep s0 (State.passTile s t) := by
  unfold State.passTile
  try dsimp only
  repeat' first
    | with_reducible assumption | with_reducible apply TRun.all_keep | simp only [Keep.upd_iff] | intro _
      | with_reducible apply Keep.ite | split

theorem State.leaveTurn_keep {s0 : State} (s : State) (t : Nat) (hk : Keep s0 s) : Keep s0 (State.leaveTurn s t) := by
  unfold State.leaveTurn
  try dsimp only
  repeat' first
    | with_reducible assumption | with_reducible apply State.inTurn_keep | simp only [Keep.upd_iff]

theorem State.failTest_keep {s0 : State} (s : State) (t : Nat) (hk : Keep s0 s) : Keep s0 (State.failTest s t) := by
  unfold State.failTest
  try dsimp only
  repeat' first
    | with_reducible assumption | with_reducible apply State.raiseSafety_keep
      | with_reducible apply State.retireTile_keep | simp only [Keep.upd_iff]

theorem State.endTest_keep {s0 : State} (s : State) (t : Nat) (pass : Bool) (hk : Keep s0 s) : Keep s0 (State.endTest
    s t pass) := by
  unfold State.endTest
  try dsimp only
  repeat' first
    | with_reducible assumption | with_reducible apply State.setTile_keep | with_reducible apply State.revote_keep
      | with_reducible apply State.setRole_keep | with_reducible apply State.bumpGen_keep
      | with_reducible apply State.clearTile_keep | with_reducible apply State.passTile_keep
      | with_reducible apply State.leaveTurn_keep | with_reducible apply State.failTest_keep
      | simp only [Keep.upd_iff] | with_reducible apply Keep.ite | split

theorem State.endBorrow_keep {s0 : State} (s : State) (t : Nat) (pass : Bool) (hk : Keep s0 s) : Keep s0
    (State.endBorrow s t pass) := by
  unfold State.endBorrow
  try dsimp only
  repeat' first
    | with_reducible assumption | with_reducible apply State.setTile_keep
      | with_reducible apply State.dispatchTile_keep | with_reducible apply State.emptyBuf_keep
      | with_reducible apply State.passTile_keep | with_reducible apply State.leaveTurn_keep
      | with_reducible apply State.failTest_keep | simp only [Keep.upd_iff] | with_reducible apply Keep.ite | split

theorem execRotationSelftestDone_keep {s0 : State} (t : Nat) (pass : Bool) (s : State) (hk : Keep s0 s) : KeepAns s0
    (execRotationSelftestDone t pass s) := by
  unfold execRotationSelftestDone
  try dsimp only
  repeat' first
    | with_reducible assumption | with_reducible apply KeepAns.next | with_reducible apply KeepAns.refused
      | with_reducible apply KeepAns.ite | with_reducible apply State.settleSafe_keep
      | with_reducible apply State.endTest_keep | with_reducible apply State.endBorrow_keep | simp only [Keep.upd_iff]
      | intro _ | with_reducible apply Keep.ite | split

theorem execTileRejoin_keep {s0 : State} (t : Nat) (s : State) (hk : Keep s0 s) : KeepAns s0 (execTileRejoin t s) := by
  unfold execTileRejoin
  try dsimp only
  repeat' first
    | with_reducible assumption | with_reducible apply KeepAns.next | with_reducible apply KeepAns.refused
      | with_reducible apply KeepAns.ite | with_reducible apply TRun.all_keep | with_reducible apply State.rejoin_keep
      | with_reducible apply State.inTurn_keep | simp only [Keep.upd_iff] | intro _ | with_reducible apply Keep.ite
      | split

theorem execSelftestRequest_keep {s0 : State} (f : Frame) (t : Nat) (s : State) (hk : Keep s0 s) : KeepAns s0
    (execSelftestRequest f t s) := by
  unfold execSelftestRequest
  try dsimp only
  repeat' first
    | with_reducible assumption | with_reducible apply KeepAns.next | with_reducible apply KeepAns.refused
      | with_reducible apply KeepAns.ite | with_reducible apply framed_keep | with_reducible apply Reply.fail_keep
      | with_reducible apply Reply.ok_keep | simp only [Keep.upd_iff] | intro _ | with_reducible apply Keep.ite
      | split

end Sys2Proof.Machine
end

