-- ==== Sys2Proof/Laws/KeepResets.lean ====
section
/-! SUPPORT. The operations of Machine/Resets.lean keep the queue, the variant and the canonical form of memory. -/

set_option linter.unusedSimpArgs false
set_option linter.unusedTactic false
set_option linter.unreachableTactic false

namespace Sys2Proof.Machine

theorem execResyncReq_keep {s0 : State} (i : Nat) (island : Bool) (dropped : Nat) (s : State) (hk : Keep s0 s) :
    KeepAns s0 (execResyncReq i island dropped s) := by
  unfold execResyncReq
  try dsimp only
  repeat' first
    | with_reducible assumption | with_reducible apply KeepAns.next | with_reducible apply KeepAns.refused
      | with_reducible apply KeepAns.ite | with_reducible apply State.setXing_keep
      | with_reducible apply State.raiseSafety_keep | simp only [Keep.upd_iff] | simp only [Keep.updBoot_iff]
      | intro _ | with_reducible apply Keep.ite | split

theorem execResyncDone_keep {s0 : State} (i : Nat) (island : Bool) (s : State) (hk : Keep s0 s) : KeepAns s0
    (execResyncDone i island s) := by
  unfold execResyncDone
  try dsimp only
  repeat' first
    | with_reducible assumption | with_reducible apply KeepAns.next | with_reducible apply KeepAns.refused
      | with_reducible apply KeepAns.ite | with_reducible apply State.setXing_keep
      | with_reducible apply State.flushWaits_keep | with_reducible apply State.unitsGo_keep
      | simp only [Keep.upd_iff] | intro _ | with_reducible apply Keep.ite | split

theorem execCrossingPark_keep {s0 : State} (i : Nat) (s : State) (hk : Keep s0 s) : KeepAns s0 (execCrossingPark i s)
    := by
  unfold execCrossingPark
  try dsimp only
  repeat' first
    | with_reducible assumption | with_reducible apply KeepAns.next | with_reducible apply KeepAns.refused
      | with_reducible apply KeepAns.ite | with_reducible apply State.setXing_keep
      | with_reducible apply State.evalDom_keep | simp only [Keep.upd_iff] | intro _ | with_reducible apply Keep.ite
      | split

theorem execClockStopped_keep {s0 : State} (i : Nat) (s : State) (hk : Keep s0 s) : KeepAns s0 (execClockStopped i s)
    := by
  unfold execClockStopped
  try dsimp only
  repeat' first
    | with_reducible assumption | with_reducible apply KeepAns.next | with_reducible apply KeepAns.refused
      | with_reducible apply KeepAns.ite | with_reducible apply State.setXing_keep | simp only [Keep.upd_iff]
      | intro _ | with_reducible apply Keep.ite | split

theorem execClockReturn_keep {s0 : State} (i : Nat) (s : State) (hk : Keep s0 s) : KeepAns s0 (execClockReturn i s)
    := by
  unfold execClockReturn
  try dsimp only
  repeat' first
    | with_reducible assumption | with_reducible apply KeepAns.next | with_reducible apply KeepAns.refused
      | with_reducible apply KeepAns.ite | with_reducible apply State.setXing_keep
      | with_reducible apply State.flushWaits_keep | with_reducible apply State.unitsGo_keep
      | simp only [Keep.upd_iff] | intro _ | with_reducible apply Keep.ite | split

theorem execXingClockLost_keep {s0 : State} (i : Nat) (s : State) (hk : Keep s0 s) : KeepAns s0 (execXingClockLost i
    s) := by
  unfold execXingClockLost
  try dsimp only
  repeat' first
    | with_reducible assumption | with_reducible apply KeepAns.next | with_reducible apply KeepAns.refused
      | with_reducible apply KeepAns.ite | with_reducible apply State.setXing_keep
      | with_reducible apply State.raiseSafety_keep | with_reducible apply State.failIsland_keep
      | simp only [Keep.upd_iff] | intro _ | with_reducible apply Keep.ite | split

theorem State.resetIsland_keep {s0 : State} (s : State) (i : Nat) (hk : Keep s0 s) : Keep s0 (State.resetIsland s i)
    := by
  unfold State.resetIsland
  try dsimp only
  repeat' first
    | with_reducible assumption | with_reducible apply State.setXing_keep | with_reducible apply State.setPort_keep
      | with_reducible apply State.setQuad_keep | with_reducible apply State.loadImage_keep
      | with_reducible apply State.quadDown_keep | simp only [Keep.upd_iff] | with_reducible apply Keep.foldl
      | with_reducible apply Keep.foldlPair | intro _ | with_reducible apply Keep.ite | split

theorem execIslandReset_keep {s0 : State} (i : Nat) (s : State) (hk : Keep s0 s) : KeepAns s0 (execIslandReset i s)
    := by
  unfold execIslandReset
  try dsimp only
  repeat' first
    | with_reducible assumption | with_reducible apply KeepAns.next | with_reducible apply KeepAns.refused
      | with_reducible apply KeepAns.ite | with_reducible apply State.resetIsland_keep | simp only [Keep.upd_iff]
      | intro _ | with_reducible apply Keep.ite | split

theorem State.pcieReset_keep {s0 : State} (s : State) (hk : Keep s0 s) : Keep s0 (State.pcieReset s) := by
  unfold State.pcieReset
  try dsimp only
  repeat' first
    | with_reducible assumption | with_reducible apply State.abortCtx_keep | simp only [Keep.upd_iff]
      | with_reducible apply Keep.foldl | with_reducible apply Keep.foldlPair | intro _

theorem execPcieHotReset_keep {s0 : State} (_why : PcieReset) (s : State) (hk : Keep s0 s) : KeepAns s0
    (execPcieHotReset _why s) := by
  unfold execPcieHotReset
  try dsimp only
  repeat' first
    | with_reducible assumption | with_reducible apply KeepAns.next | with_reducible apply KeepAns.refused
      | with_reducible apply State.pcieReset_keep | simp only [Keep.upd_iff] | intro _

theorem execPcieLinkTrained_keep {s0 : State} (speed width : Nat) (flit : Bool) (s : State) (hk : Keep s0 s) :
    KeepAns s0 (execPcieLinkTrained speed width flit s) := by
  unfold execPcieLinkTrained
  try dsimp only
  repeat' first
    | with_reducible assumption | with_reducible apply KeepAns.next | with_reducible apply KeepAns.refused
      | with_reducible apply KeepAns.ite | simp only [Keep.upd_iff] | simp only [Keep.updBoot_iff] | intro _
      | with_reducible apply Keep.ite | split

theorem execPcieConfigRequest_keep {s0 : State} (s : State) (hk : Keep s0 s) : KeepAns s0 (execPcieConfigRequest s)
    := by
  unfold execPcieConfigRequest
  try dsimp only
  repeat' first
    | with_reducible assumption | with_reducible apply KeepAns.next | with_reducible apply KeepAns.refused
      | with_reducible apply KeepAns.ite | with_reducible apply State.emit_keep | simp only [Keep.upd_iff]
      | simp only [Keep.updBoot_iff] | intro _ | with_reducible apply Keep.ite | split

theorem State.stoneVotes_keep {s0 : State} (s : State) (hk : Keep s0 s) : Keep s0 (State.stoneVotes s) := by
  unfold State.stoneVotes
  try dsimp only
  repeat' first
    | with_reducible assumption | with_reducible apply State.setDom_keep | simp only [Keep.upd_iff]

theorem State.freshKeys_keep {s0 : State} (s : State) (hk : Keep s0 s) : Keep s0 (State.freshKeys s) := by
  unfold State.freshKeys
  try dsimp only
  repeat' first
    | with_reducible assumption | with_reducible apply State.draw_keep | simp only [Keep.upd_iff]
      | with_reducible refine Keep.ofSnd (by assumption) ?_ | split

theorem State.moduleReset_keep {s0 : State} (s : State) (cause : Nat) (maint : Bool) (hk : Keep s0 s) :
    Keep s0 (State.moduleReset s cause maint) := by
  unfold State.moduleReset
  dsimp only
  refine State.signal_keep _ (State.stoneVotes_keep _ (State.freshKeys_keep _ ?_))
  exact ⟨hk.pending, hk.variant, fun w => memFilter_wf _ _ (hk.mem w)⟩

theorem State.closeHusks_keep {s0 : State} (s : State) (hk : Keep s0 s) : Keep s0 (State.closeHusks s) := by
  unfold State.closeHusks
  try dsimp only
  repeat' first
    | with_reducible assumption | with_reducible apply State.writeHusk_keep | simp only [Keep.upd_iff]
      | with_reducible apply Keep.foldl | with_reducible apply Keep.foldlPair | intro _
      | with_reducible apply Keep.ite | split

theorem execModuleReset_keep {s0 : State} (by_ : ResetBy) (s : State) (hk : Keep s0 s) : KeepAns s0 (execModuleReset
    by_ s) := by
  unfold execModuleReset
  try dsimp only
  repeat' first
    | with_reducible assumption | with_reducible apply KeepAns.next | with_reducible apply KeepAns.refused
      | with_reducible apply KeepAns.ite | with_reducible apply State.respond_keep
      | with_reducible apply State.discardFrame_keep | with_reducible apply State.takeFrame_keep
      | with_reducible apply onMgmt_keep | with_reducible apply State.moduleReset_keep
      | with_reducible apply State.closeHusks_keep | simp only [Keep.upd_iff] | simp only [Keep.updBoot_iff] | intro _
      | with_reducible apply Keep.ite | split

theorem State.powerLoss_keep {s0 : State} (s : State) (hk : Keep s0 s) : Keep s0 (State.powerLoss s) :=
  ⟨hk.pending, hk.variant, fun _ => memWf_nil⟩

theorem execPowerCycle_keep {s0 : State} (s : State) (hk : Keep s0 s) : KeepAns s0 (execPowerCycle s) := by
  unfold execPowerCycle
  try dsimp only
  repeat' first
    | with_reducible assumption | with_reducible apply KeepAns.next | with_reducible apply KeepAns.refused
      | with_reducible apply KeepAns.ite | with_reducible apply State.powerLoss_keep | simp only [Keep.upd_iff]
      | intro _ | with_reducible apply Keep.ite | split

theorem execUndervoltageLockout_keep {s0 : State} (s : State) (hk : Keep s0 s) : KeepAns s0 (execUndervoltageLockout
    s) := by
  unfold execUndervoltageLockout
  try dsimp only
  repeat' first
    | with_reducible assumption | with_reducible apply KeepAns.next | with_reducible apply KeepAns.refused
      | with_reducible apply State.powerLoss_keep | simp only [Keep.upd_iff] | intro _

theorem execPwrEnDeassert_keep {s0 : State} (s : State) (hk : Keep s0 s) : KeepAns s0 (execPwrEnDeassert s) := by
  have h := State.moduleReset_keep s 0 false hk
  unfold execPwrEnDeassert
  dsimp only
  refine KeepAns.next (State.signal_keep _ ?_)
  exact ⟨h.pending, h.variant, fun _ => memWf_nil⟩

theorem execPwrEnAssert_keep {s0 : State} (s : State) (hk : Keep s0 s) : KeepAns s0 (execPwrEnAssert s) := by
  unfold execPwrEnAssert
  try dsimp only
  repeat' first
    | with_reducible assumption | with_reducible apply KeepAns.next | with_reducible apply KeepAns.refused
      | with_reducible apply KeepAns.ite | simp only [Keep.upd_iff] | simp only [Keep.updBoot_iff] | intro _
      | with_reducible apply Keep.ite | split

theorem execResetNAssert_keep {s0 : State} (s : State) (hk : Keep s0 s) : KeepAns s0 (execResetNAssert s) := by
  unfold execResetNAssert
  try dsimp only
  repeat' first
    | with_reducible assumption | with_reducible apply KeepAns.next | with_reducible apply KeepAns.refused
      | with_reducible apply KeepAns.ite | simp only [Keep.upd_iff] | simp only [Keep.updBoot_iff] | intro _
      | with_reducible apply Keep.ite | split

theorem execResetNRelease_keep {s0 : State} (s : State) (hk : Keep s0 s) : KeepAns s0 (execResetNRelease s) := by
  unfold execResetNRelease
  try dsimp only
  repeat' first
    | with_reducible assumption | with_reducible apply KeepAns.next | with_reducible apply KeepAns.refused
      | simp only [Keep.upd_iff] | simp only [Keep.updBoot_iff] | intro _

theorem State.aonUp_keep {s0 : State} (s : State) (vin : BitVec 16) (hk : Keep s0 s) : Keep s0 (State.aonUp s vin) := by
  unfold State.aonUp
  try dsimp only
  repeat' first
    | with_reducible assumption | with_reducible apply State.count_keep | with_reducible apply State.signal_keep
      | with_reducible apply State.stoneVotes_keep | with_reducible apply State.freshKeys_keep
      | simp only [Keep.upd_iff] | simp only [Keep.updBoot_iff] | intro _ | with_reducible apply Keep.ite | split

theorem execInputInRange_keep {s0 : State} (vin : BitVec 16) (s : State) (hk : Keep s0 s) : KeepAns s0
    (execInputInRange vin s) := by
  unfold execInputInRange
  try dsimp only
  repeat' first
    | with_reducible assumption | with_reducible apply KeepAns.next | with_reducible apply KeepAns.refused
      | with_reducible apply KeepAns.ite | with_reducible apply State.signal_keep
      | with_reducible apply State.aonUp_keep | simp only [Keep.upd_iff] | simp only [Keep.updBoot_iff] | intro _
      | with_reducible apply Keep.ite | split

theorem State.bootVerify_keep {s0 : State} (s : State) (okA okB : Bool) (hk : Keep s0 s) : Keep s0 (State.bootVerify
    s okA okB) := by
  unfold State.bootVerify
  try dsimp only
  repeat' first
    | with_reducible assumption | with_reducible apply Reply.ok_keep | with_reducible apply TRun.all_keep
      | with_reducible apply State.signal_keep | with_reducible apply State.bank_keep | simp only [Keep.upd_iff]
      | simp only [Keep.updBoot_iff] | intro _ | with_reducible apply Keep.ite | split

theorem execBootVerifyDone_keep {s0 : State} (okA okB : Bool) (s : State) (hk : Keep s0 s) : KeepAns s0
    (execBootVerifyDone okA okB s) := by
  unfold execBootVerifyDone
  try dsimp only
  repeat' first
    | with_reducible assumption | with_reducible apply KeepAns.next | with_reducible apply KeepAns.refused
      | with_reducible apply KeepAns.ite | with_reducible apply State.bootVerify_keep | simp only [Keep.upd_iff]
      | simp only [Keep.updBoot_iff] | intro _ | with_reducible apply Keep.ite | split

theorem State.railsUp_keep {s0 : State} (s : State) (hk : Keep s0 s) : Keep s0 (State.railsUp s) := by
  unfold State.railsUp
  try dsimp only
  repeat' first
    | with_reducible assumption | with_reducible apply State.setTile_keep | with_reducible apply State.setPort_keep
      | with_reducible apply State.setQuad_keep | with_reducible apply State.setDom_keep | simp only [Keep.upd_iff]
      | simp only [Keep.updBoot_iff] | with_reducible apply Keep.foldl | with_reducible apply Keep.foldlPair | intro _
      | with_reducible apply Keep.ite | split

theorem execRailsUp_keep {s0 : State} (s : State) (hk : Keep s0 s) : KeepAns s0 (execRailsUp s) := by
  unfold execRailsUp
  try dsimp only
  repeat' first
    | with_reducible assumption | with_reducible apply KeepAns.next | with_reducible apply KeepAns.refused
      | with_reducible apply KeepAns.ite | with_reducible apply State.railsUp_keep | simp only [Keep.upd_iff]
      | simp only [Keep.updBoot_iff] | intro _ | with_reducible apply Keep.ite | split

theorem State.assignRoles_keep {s0 : State} (s : State) (failed : List Nat) (hk : Keep s0 s) : Keep s0
    (State.assignRoles s failed) := by
  unfold State.assignRoles
  try dsimp only
  repeat' first
    | with_reducible assumption | with_reducible apply State.setTile_keep | with_reducible apply State.setPort_keep
      | with_reducible apply State.raiseSafety_keep | with_reducible apply State.revote_keep
      | simp only [Keep.upd_iff] | simp only [Keep.updBoot_iff] | with_reducible apply Keep.foldl
      | with_reducible apply Keep.foldlPair | intro _ | with_reducible apply Keep.ite | split

theorem execPowerUpSelftestDone_keep {s0 : State} (failed : List Nat) (s : State) (hk : Keep s0 s) : KeepAns s0
    (execPowerUpSelftestDone failed s) := by
  unfold execPowerUpSelftestDone
  try dsimp only
  repeat' first
    | with_reducible assumption | with_reducible apply KeepAns.next | with_reducible apply KeepAns.refused
      | with_reducible apply KeepAns.ite | with_reducible apply TRun.all_keep
      | with_reducible apply State.assignRoles_keep | simp only [Keep.upd_iff] | simp only [Keep.updBoot_iff]
      | intro _ | with_reducible apply Keep.ite | split

theorem State.hostReady_keep {s0 : State} (s : State) (hk : Keep s0 s) : Keep s0 (State.hostReady s) := by
  unfold State.hostReady
  try dsimp only
  repeat' first
    | with_reducible assumption | with_reducible apply State.settleSafe_keep | simp only [Keep.upd_iff]
      | simp only [Keep.updBoot_iff]

theorem execHostReady_keep {s0 : State} (s : State) (hk : Keep s0 s) : KeepAns s0 (execHostReady s) := by
  unfold execHostReady
  try dsimp only
  repeat' first
    | with_reducible assumption | with_reducible apply KeepAns.next | with_reducible apply KeepAns.refused
      | with_reducible apply KeepAns.ite | with_reducible apply TRun.all_keep
      | with_reducible apply State.hostReady_keep | simp only [Keep.upd_iff] | simp only [Keep.updBoot_iff] | intro _
      | with_reducible apply Keep.ite | split

theorem State.sampleGroup_keep {s0 : State} (s : State) (g : Nat) (hk : Keep s0 s) : Keep s0 (State.sampleGroup s g)
    := by
  unfold State.sampleGroup
  try dsimp only
  repeat' first
    | with_reducible assumption | with_reducible apply State.bankRecord_keep
      | with_reducible apply State.traceFlush_keep | simp only [Keep.upd_iff] | with_reducible apply Keep.ite | split

theorem execSamplerTick_keep {s0 : State} (g : Nat) (s : State) (hk : Keep s0 s) : KeepAns s0 (execSamplerTick g s)
    := by
  unfold execSamplerTick
  try dsimp only
  repeat' first
    | with_reducible assumption | with_reducible apply KeepAns.next | with_reducible apply KeepAns.refused
      | with_reducible apply KeepAns.ite | with_reducible apply State.sampleGroup_keep | simp only [Keep.upd_iff]
      | intro _ | with_reducible apply Keep.ite | split

end Sys2Proof.Machine
end

