-- ==== Sys2Proof/Laws/KeepSecurity.lean ====
section
/-! SUPPORT. The operations of Machine/Security.lean keep the queue, the variant and the canonical form of memory. -/

set_option linter.unusedSimpArgs false
set_option linter.unusedTactic false
set_option linter.unreachableTactic false

namespace Sys2Proof.Machine

theorem State.setCred_keep {s0 : State} (s : State) (i : Nat) (x : CredSlot) (hk : Keep s0 s) : Keep s0
    (State.setCred s i x) := by
  unfold State.setCred
  try dsimp only
  repeat' first
    | with_reducible assumption | simp only [Keep.upd_iff]

theorem State.answerOpen_keep {s0 : State} (s : State) (status : BitVec 16) (body : List Byte) (hk : Keep s0 s) :
    Keep s0 (State.answerOpen s status body) := by
  unfold State.answerOpen
  try dsimp only
  repeat' first
    | with_reducible assumption | with_reducible apply State.draw_keep | with_reducible apply State.emit_keep
      | simp only [Keep.upd_iff] | with_reducible refine Keep.ofSnd (by assumption) ?_ | split

theorem State.helloOk_keep {s0 : State} (s : State) (slot : Nat) (cred : Cred) (nc : BitVec 256) (hk : Keep s0 s) :
    Keep s0 (State.helloOk s slot cred nc) := by
  unfold State.helloOk
  try dsimp only
  repeat' first
    | with_reducible assumption | with_reducible apply State.draw_keep | with_reducible apply State.answerOpen_keep
      | simp only [Keep.upd_iff] | with_reducible refine Keep.ofSnd (by assumption) ?_ | split

theorem execHello_keep {s0 : State} (slot : Nat) (nc : BitVec 256) (s : State) (hk : Keep s0 s) : KeepAns s0
    (execHello slot nc s) := by
  unfold execHello
  try dsimp only
  repeat' first
    | with_reducible assumption | with_reducible apply KeepAns.next | with_reducible apply KeepAns.refused
      | with_reducible apply KeepAns.ite | with_reducible apply onMgmt_keep
      | with_reducible apply State.answerOpen_keep | with_reducible apply State.helloOk_keep
      | simp only [Keep.upd_iff] | intro _ | with_reducible apply Keep.ite | split

theorem State.proofFails_keep {s0 : State} (s : State) (x : Session) (hk : Keep s0 s) : Keep s0 (State.proofFails s
    x) := by
  unfold State.proofFails
  try dsimp only
  repeat' first
    | with_reducible assumption | with_reducible apply State.closeSession_keep
      | with_reducible apply State.setCred_keep | simp only [Keep.upd_iff] | intro _

theorem State.proofPasses_keep {s0 : State} (s : State) (x : Session) (k : BitVec 256) (hk : Keep s0 s) : Keep s0
    (State.proofPasses s x k) := by
  unfold State.proofPasses
  try dsimp only
  repeat' first
    | with_reducible assumption | with_reducible apply State.updSession_keep
      | with_reducible apply State.answerOpen_keep | simp only [Keep.upd_iff] | intro _

theorem execProof_keep {s0 : State} (sid : BitVec 32) (proof : BitVec 256) (s : State) (hk : Keep s0 s) : KeepAns s0
    (execProof sid proof s) := by
  unfold execProof
  try dsimp only
  repeat' first
    | with_reducible assumption | with_reducible apply KeepAns.next | with_reducible apply KeepAns.refused
      | with_reducible apply KeepAns.ite | with_reducible apply State.closeSession_keep
      | with_reducible apply onMgmt_keep | with_reducible apply State.proofFails_keep
      | with_reducible apply State.proofPasses_keep | simp only [Keep.upd_iff] | intro _
      | with_reducible apply Keep.ite | split

theorem execSessionIdleTimeout_keep {s0 : State} (sid : BitVec 32) (s : State) (hk : Keep s0 s) : KeepAns s0
    (execSessionIdleTimeout sid s) := by
  unfold execSessionIdleTimeout
  try dsimp only
  repeat' first
    | with_reducible assumption | with_reducible apply KeepAns.next | with_reducible apply KeepAns.refused
      | with_reducible apply KeepAns.ite | with_reducible apply State.closeSession_keep | simp only [Keep.upd_iff]
      | intro _ | with_reducible apply Keep.ite | split

theorem execSlotLockExpire_keep {s0 : State} (slot : Nat) (s : State) (hk : Keep s0 s) : KeepAns s0
    (execSlotLockExpire slot s) := by
  unfold execSlotLockExpire
  try dsimp only
  repeat' first
    | with_reducible assumption | with_reducible apply KeepAns.next | with_reducible apply KeepAns.refused
      | with_reducible apply KeepAns.ite | with_reducible apply State.setCred_keep | simp only [Keep.upd_iff]
      | intro _ | with_reducible apply Keep.ite | split

theorem closing_keep {s0 : State} (f : Frame) (s : State) (k : State → Option (BitVec 16)) (act : State → State)
    (h : ∀ s, Keep s0 s → Keep s0 (act s)) (hk : Keep s0 s) : KeepAns s0 (closing f s k act) := by
  have ht := State.takeFrame_keep s f hk
  unfold closing
  refine onMgmt_keep _ _ ?_
  dsimp only
  split
  · split
    · exact State.respond_keep _ _ _ _ ht
    · exact h _ (State.respond_keep _ _ _ _ ht)
  · exact State.discardFrame_keep _ _ hk

theorem execClose_keep {s0 : State} (f : Frame) (s : State) (hk : Keep s0 s) : KeepAns s0 (execClose f s) := by
  unfold execClose
  try dsimp only
  repeat' first
    | with_reducible assumption | with_reducible apply KeepAns.next | with_reducible apply KeepAns.refused
      | with_reducible apply State.closeSession_keep | with_reducible apply closing_keep | simp only [Keep.upd_iff]
      | intro _

theorem execCredSet_keep {s0 : State} (f : Frame) (slot : Nat) (cred : Cred) (s : State) (hk : Keep s0 s) : KeepAns
    s0 (execCredSet f slot cred s) := by
  unfold execCredSet
  try dsimp only
  repeat' first
    | with_reducible assumption | with_reducible apply KeepAns.next | with_reducible apply KeepAns.refused
      | with_reducible apply KeepAns.ite | with_reducible apply framed_keep | with_reducible apply Reply.fail_keep
      | with_reducible apply Reply.ok_keep | with_reducible apply State.setCred_keep | simp only [Keep.upd_iff]
      | intro _ | with_reducible apply Keep.ite | split

theorem State.closeSlot_keep {s0 : State} (s : State) (slot : Nat) (hk : Keep s0 s) : Keep s0 (State.closeSlot s
    slot) := by
  unfold State.closeSlot
  try dsimp only
  repeat' first
    | with_reducible assumption | simp only [Keep.upd_iff] | intro _

theorem execCredClear_keep {s0 : State} (f : Frame) (slot : Nat) (s : State) (hk : Keep s0 s) : KeepAns s0
    (execCredClear f slot s) := by
  unfold execCredClear
  try dsimp only
  repeat' first
    | with_reducible assumption | with_reducible apply KeepAns.next | with_reducible apply KeepAns.refused
      | with_reducible apply KeepAns.ite | with_reducible apply State.setCred_keep | with_reducible apply closing_keep
      | with_reducible apply State.closeSlot_keep | simp only [Keep.upd_iff] | intro _ | with_reducible apply Keep.ite
      | split

theorem State.forgetAll_keep {s0 : State} (s : State) (hk : Keep s0 s) : Keep s0 (State.forgetAll s) := by
  unfold State.forgetAll
  try dsimp only
  repeat' first
    | with_reducible assumption | simp only [Keep.upd_iff]

theorem execUnclaim_keep {s0 : State} (f : Frame) (s : State) (hk : Keep s0 s) : KeepAns s0 (execUnclaim f s) := by
  unfold execUnclaim
  try dsimp only
  repeat' first
    | with_reducible assumption | with_reducible apply KeepAns.next | with_reducible apply KeepAns.refused
      | with_reducible apply KeepAns.ite | with_reducible apply closing_keep
      | with_reducible apply State.forgetAll_keep | simp only [Keep.upd_iff] | intro _ | with_reducible apply Keep.ite
      | split

theorem execClaim_keep {s0 : State} (ct : List Byte) (s : State) (hk : Keep s0 s) : KeepAns s0 (execClaim ct s) := by
  unfold execClaim
  try dsimp only
  repeat' first
    | with_reducible assumption | with_reducible apply KeepAns.next | with_reducible apply KeepAns.refused
      | with_reducible apply KeepAns.ite | with_reducible apply onMgmt_keep | with_reducible apply State.setCred_keep
      | with_reducible apply State.answerOpen_keep | simp only [Keep.upd_iff] | intro _
      | with_reducible apply Keep.ite | split

theorem State.askQuote_keep {s0 : State} (s : State) (sid : BitVec 32) (seq : BitVec 64) (nonce : BitVec 256) (hk :
    Keep s0 s) : Keep s0 (State.askQuote s sid seq nonce) := by
  unfold State.askQuote
  try dsimp only
  repeat' first
    | with_reducible assumption | simp only [Keep.upd_iff]

theorem execQuote_keep {s0 : State} (f : Option Frame) (nonce : BitVec 256) (s : State) (hk : Keep s0 s) : KeepAns s0
    (execQuote f nonce s) := by
  unfold execQuote
  try dsimp only
  repeat' first
    | with_reducible assumption | with_reducible apply KeepAns.next | with_reducible apply KeepAns.refused
      | with_reducible apply KeepAns.ite | with_reducible apply State.respond_keep
      | with_reducible apply State.discardFrame_keep | with_reducible apply State.takeFrame_keep
      | with_reducible apply onMgmt_keep | with_reducible apply State.answerOpen_keep
      | with_reducible apply State.askQuote_keep | simp only [Keep.upd_iff] | intro _ | with_reducible apply Keep.ite
      | split

theorem State.deliverQuote_keep {s0 : State} (s : State) (r : QuoteReq) (bs : List Byte) (hk : Keep s0 s) : Keep s0
    (State.deliverQuote s r bs) := by
  unfold State.deliverQuote
  try dsimp only
  repeat' first
    | with_reducible assumption | with_reducible apply State.emit_keep | with_reducible apply State.respond_keep
      | with_reducible apply State.mboxEnd_keep | with_reducible apply State.answerOpen_keep
      | simp only [Keep.upd_iff] | with_reducible apply Keep.ite | split

theorem execQuoteReady_keep {s0 : State} (s : State) (hk : Keep s0 s) : KeepAns s0 (execQuoteReady s) := by
  unfold execQuoteReady
  try dsimp only
  repeat' first
    | with_reducible assumption | with_reducible apply KeepAns.next | with_reducible apply KeepAns.refused
      | with_reducible apply KeepAns.ite | with_reducible apply State.deliverQuote_keep | simp only [Keep.upd_iff]
      | intro _ | with_reducible apply Keep.ite | split

theorem State.addKey_keep {s0 : State} (s : State) (b : BitVec 32) (id : Nat) (key : BitVec 256) (hk : Keep s0 s) :
    Keep s0 (State.addKey s b id key) := by
  unfold State.addKey
  try dsimp only
  repeat' first
    | with_reducible assumption | simp only [Keep.upd_iff]

theorem execKeyInstall_keep {s0 : State} (f : Frame) (b : BitVec 32) (id : Nat) (wrapped : List Byte) (s : State) (hk
    : Keep s0 s) : KeepAns s0 (execKeyInstall f b id wrapped s) := by
  unfold execKeyInstall
  try dsimp only
  repeat' first
    | with_reducible assumption | with_reducible apply KeepAns.next | with_reducible apply KeepAns.refused
      | with_reducible apply framed_keep | with_reducible apply Reply.fail_keep | with_reducible apply Reply.ok_keep
      | with_reducible apply State.addKey_keep | simp only [Keep.upd_iff] | intro _ | split

theorem execKeyAgreeBegin_keep {s0 : State} (f : Frame) (s : State) (hk : Keep s0 s) : KeepAns s0 (execKeyAgreeBegin
    f s) := by
  unfold execKeyAgreeBegin
  try dsimp only
  repeat' first
    | with_reducible assumption | with_reducible apply KeepAns.next | with_reducible apply KeepAns.refused
      | with_reducible apply State.draw_keep | with_reducible apply framed_keep | simp only [Keep.upd_iff]
      | with_reducible refine Keep.ofSnd (by assumption) ?_ | intro _ | split

theorem execKeyAgree_keep {s0 : State} (f : Frame) (b : BitVec 32) (id : Nat) (quotes : List PeerQuote) (s : State)
    (hk : Keep s0 s) : KeepAns s0 (execKeyAgree f b id quotes s) := by
  unfold execKeyAgree
  try dsimp only
  repeat' first
    | with_reducible assumption | with_reducible apply KeepAns.next | with_reducible apply KeepAns.refused
      | with_reducible apply KeepAns.ite | with_reducible apply State.draw_keep | with_reducible apply framed_keep
      | with_reducible apply Reply.fail_keep | with_reducible apply TRun.all_keep
      | with_reducible apply State.addKey_keep | simp only [Keep.upd_iff]
      | with_reducible refine Keep.ofSnd (by assumption) ?_ | intro _ | with_reducible apply Keep.ite | split

theorem execKeyAccept_keep {s0 : State} (f : Frame) (b : BitVec 32) (id : Nat) (blob : List Byte) (s : State) (hk :
    Keep s0 s) : KeepAns s0 (execKeyAccept f b id blob s) := by
  unfold execKeyAccept
  try dsimp only
  repeat' first
    | with_reducible assumption | with_reducible apply KeepAns.next | with_reducible apply KeepAns.refused
      | with_reducible apply framed_keep | with_reducible apply Reply.fail_keep | with_reducible apply Reply.ok_keep
      | with_reducible apply State.addKey_keep | simp only [Keep.upd_iff] | intro _ | split

theorem execKeyActivate_keep {s0 : State} (f : Frame) (b : BitVec 32) (id : Nat) (s : State) (hk : Keep s0 s) :
    KeepAns s0 (execKeyActivate f b id s) := by
  unfold execKeyActivate
  try dsimp only
  repeat' first
    | with_reducible assumption | with_reducible apply KeepAns.next | with_reducible apply KeepAns.refused
      | with_reducible apply KeepAns.ite | with_reducible apply framed_keep | with_reducible apply Reply.fail_keep
      | with_reducible apply Reply.ok_keep | simp only [Keep.upd_iff] | intro _ | with_reducible apply Keep.ite
      | split

theorem execKeyDestroy_keep {s0 : State} (f : Frame) (b : BitVec 32) (id : Nat) (s : State) (hk : Keep s0 s) :
    KeepAns s0 (execKeyDestroy f b id s) := by
  unfold execKeyDestroy
  try dsimp only
  repeat' first
    | with_reducible assumption | with_reducible apply KeepAns.next | with_reducible apply KeepAns.refused
      | with_reducible apply KeepAns.ite | with_reducible apply framed_keep | with_reducible apply Reply.fail_keep
      | with_reducible apply Reply.ok_keep | simp only [Keep.upd_iff] | intro _ | with_reducible apply Keep.ite
      | split

theorem execImageKeyInstall_keep {s0 : State} (f : Frame) (b : BitVec 32) (id : Nat) (wrapped : List Byte) (s :
    State) (hk : Keep s0 s) : KeepAns s0 (execImageKeyInstall f b id wrapped s) := by
  unfold execImageKeyInstall
  try dsimp only
  repeat' first
    | with_reducible assumption | with_reducible apply KeepAns.next | with_reducible apply KeepAns.refused
      | with_reducible apply framed_keep | with_reducible apply Reply.fail_keep | with_reducible apply Reply.ok_keep
      | simp only [Keep.upd_iff] | intro _ | split

theorem State.markConf_keep {s0 : State} (s : State) (b : BitVec 32) (hk : Keep s0 s) : Keep s0 (State.markConf s b)
    := by
  unfold State.markConf
  try dsimp only
  repeat' first
    | with_reducible assumption | with_reducible apply State.setCtx_keep | with_reducible apply State.updBunch_keep
      | simp only [Keep.upd_iff] | with_reducible apply Keep.foldl | with_reducible apply Keep.foldlPair | intro _

theorem execConfSet_keep {s0 : State} (f : Frame) (b : BitVec 32) (s : State) (hk : Keep s0 s) : KeepAns s0
    (execConfSet f b s) := by
  unfold execConfSet
  try dsimp only
  repeat' first
    | with_reducible assumption | with_reducible apply KeepAns.next | with_reducible apply KeepAns.refused
      | with_reducible apply KeepAns.ite | with_reducible apply framed_keep | with_reducible apply Reply.fail_keep
      | with_reducible apply Reply.ok_keep | with_reducible apply State.changed_keep
      | with_reducible apply State.markConf_keep | simp only [Keep.upd_iff] | simp only [Keep.updBoot_iff] | intro _
      | with_reducible apply Keep.ite | split

theorem execMaintEnter_keep {s0 : State} (f : Frame) (s : State) (hk : Keep s0 s) : KeepAns s0 (execMaintEnter f s)
    := by
  unfold execMaintEnter
  try dsimp only
  repeat' first
    | with_reducible assumption | with_reducible apply KeepAns.next | with_reducible apply KeepAns.refused
      | with_reducible apply KeepAns.ite | with_reducible apply framed_keep | with_reducible apply Reply.fail_keep
      | with_reducible apply Reply.ok_keep | simp only [Keep.upd_iff] | simp only [Keep.updBoot_iff] | intro _
      | with_reducible apply Keep.ite | split

theorem execMaintLeave_keep {s0 : State} (f : Frame) (s : State) (hk : Keep s0 s) : KeepAns s0 (execMaintLeave f s)
    := by
  unfold execMaintLeave
  try dsimp only
  repeat' first
    | with_reducible assumption | with_reducible apply KeepAns.next | with_reducible apply KeepAns.refused
      | with_reducible apply KeepAns.ite | with_reducible apply framed_keep | with_reducible apply Reply.fail_keep
      | with_reducible apply Reply.ok_keep | simp only [Keep.upd_iff] | simp only [Keep.updBoot_iff] | intro _
      | with_reducible apply Keep.ite | split

theorem execFactoryUnlock_keep {s0 : State} (f : Frame) (tokenOk : Bool) (s : State) (hk : Keep s0 s) : KeepAns s0
    (execFactoryUnlock f tokenOk s) := by
  unfold execFactoryUnlock
  try dsimp only
  repeat' first
    | with_reducible assumption | with_reducible apply KeepAns.next | with_reducible apply KeepAns.refused
      | with_reducible apply KeepAns.ite | with_reducible apply framed_keep | with_reducible apply Reply.fail_keep
      | with_reducible apply Reply.ok_keep | with_reducible apply State.forgetAll_keep | simp only [Keep.upd_iff]
      | simp only [Keep.updBoot_iff] | intro _ | with_reducible apply Keep.ite | split

theorem State.writeImage_keep {s0 : State} (s : State) (x : Image) (hk : Keep s0 s) : Keep s0 (State.writeImage s x)
    := by
  unfold State.writeImage
  try dsimp only
  repeat' first
    | with_reducible assumption | simp only [Keep.upd_iff] | with_reducible apply Keep.ite | split

theorem execFwWrite_keep {s0 : State} (f : Frame) (imgs : List Image) (s : State) (hk : Keep s0 s) : KeepAns s0
    (execFwWrite f imgs s) := by
  unfold execFwWrite
  try dsimp only
  repeat' first
    | with_reducible assumption | with_reducible apply KeepAns.next | with_reducible apply KeepAns.refused
      | with_reducible apply KeepAns.ite | with_reducible apply framed_keep | with_reducible apply Reply.fail_keep
      | with_reducible apply Reply.ok_keep | with_reducible apply TRun.all_keep
      | with_reducible apply State.writeImage_keep | simp only [Keep.upd_iff] | with_reducible apply Keep.foldl
      | with_reducible apply Keep.foldlPair | intro _ | with_reducible apply Keep.ite | split

theorem execFwTrial_keep {s0 : State} (f : Frame) (s : State) (hk : Keep s0 s) : KeepAns s0 (execFwTrial f s) := by
  unfold execFwTrial
  try dsimp only
  repeat' first
    | with_reducible assumption | with_reducible apply KeepAns.next | with_reducible apply KeepAns.refused
      | with_reducible apply framed_keep | with_reducible apply Reply.ok_keep | simp only [Keep.upd_iff] | intro _

theorem execFwCommit_keep {s0 : State} (f : Frame) (advance : Bool) (s : State) (hk : Keep s0 s) : KeepAns s0
    (execFwCommit f advance s) := by
  unfold execFwCommit
  try dsimp only
  repeat' first
    | with_reducible assumption | with_reducible apply KeepAns.next | with_reducible apply KeepAns.refused
      | with_reducible apply KeepAns.ite | with_reducible apply framed_keep | with_reducible apply Reply.fail_keep
      | with_reducible apply Reply.ok_keep | with_reducible apply State.advance_keep | simp only [Keep.upd_iff]
      | intro _ | with_reducible apply Keep.ite | split

theorem State.drainNow_keep {s0 : State} (s : State) (hk : Keep s0 s) : Keep s0 (State.drainNow s) := by
  unfold State.drainNow
  try dsimp only
  repeat' first
    | with_reducible assumption | with_reducible apply State.setXing_keep | with_reducible apply State.setPort_keep
      | with_reducible apply State.setQuad_keep | simp only [Keep.upd_iff] | with_reducible apply Keep.foldl
      | with_reducible apply Keep.foldlPair | intro _ | with_reducible apply Keep.ite | split

theorem State.drainUnit_keep {s0 : State} (s : State) (hk : Keep s0 s) : Keep s0 (State.drainUnit s) := by
  unfold State.drainUnit
  try dsimp only
  repeat' first
    | with_reducible assumption | with_reducible apply State.drainNow_keep | simp only [Keep.upd_iff]
      | with_reducible apply Keep.ite | split

theorem execFwUpdate_keep {s0 : State} (f : Frame) (kind : Nat) (s : State) (hk : Keep s0 s) : KeepAns s0
    (execFwUpdate f kind s) := by
  unfold execFwUpdate
  try dsimp only
  repeat' first
    | with_reducible assumption | with_reducible apply KeepAns.next | with_reducible apply KeepAns.refused
      | with_reducible apply KeepAns.ite | with_reducible apply framed_keep | with_reducible apply Reply.fail_keep
      | with_reducible apply Reply.ok_keep | with_reducible apply State.drainUnit_keep | simp only [Keep.upd_iff]
      | intro _ | with_reducible apply Keep.ite | split

theorem State.unitBack_keep {s0 : State} (s : State) (kind i : Nat) (ok : Bool) (hk : Keep s0 s) : Keep s0
    (State.unitBack s kind i ok) := by
  unfold State.unitBack
  try dsimp only
  repeat' first
    | with_reducible assumption | with_reducible apply Reply.ok_keep | with_reducible apply State.resetIsland_keep
      | simp only [Keep.upd_iff] | with_reducible apply Keep.ite | split

theorem State.startRoutes_keep {s0 : State} (s : State) (hk : Keep s0 s) : Keep s0 (State.startRoutes s) := by
  unfold State.startRoutes
  try dsimp only
  repeat' first
    | with_reducible assumption | with_reducible apply State.pauseRoutes_keep | simp only [Keep.upd_iff] | intro _
      | with_reducible apply Keep.ite | split

theorem State.endUpdate_keep {s0 : State} (s : State) (status : BitVec 16) (hk : Keep s0 s) : Keep s0
    (State.endUpdate s status) := by
  unfold State.endUpdate
  try dsimp only
  repeat' first
    | with_reducible assumption | with_reducible apply State.respond_keep | with_reducible apply State.mboxRun_keep
      | with_reducible apply State.startRoutes_keep | simp only [Keep.upd_iff] | with_reducible apply Keep.ite | split

theorem State.unitDone_keep {s0 : State} (s : State) (i : Nat) (ok : Bool) (hk : Keep s0 s) : Keep s0 (State.unitDone
    s i ok) := by
  unfold State.unitDone
  try dsimp only
  repeat' first
    | with_reducible assumption | with_reducible apply Reply.ok_keep | with_reducible apply State.goOn_keep
      | with_reducible apply State.drainUnit_keep | with_reducible apply State.unitBack_keep
      | with_reducible apply State.endUpdate_keep | simp only [Keep.upd_iff] | with_reducible apply Keep.ite | split

theorem execUnitUpdateDone_keep {s0 : State} (ok : Bool) (s : State) (hk : Keep s0 s) : KeepAns s0
    (execUnitUpdateDone ok s) := by
  unfold execUnitUpdateDone
  try dsimp only
  repeat' first
    | with_reducible assumption | with_reducible apply KeepAns.next | with_reducible apply KeepAns.refused
      | with_reducible apply KeepAns.ite | with_reducible apply Reply.ok_keep | with_reducible apply State.goOn_keep
      | with_reducible apply State.drainNow_keep | with_reducible apply State.endUpdate_keep
      | with_reducible apply State.unitDone_keep | simp only [Keep.upd_iff] | intro _ | with_reducible apply Keep.ite
      | split

end Sys2Proof.Machine
end

