-- ==== Sys2Proof/Laws/KeepTick.lean ====
section
/-! SUPPORT. The operations of Machine/Tick.lean keep the queue, the variant and the canonical form of memory. -/

set_option linter.unusedSimpArgs false
set_option linter.unusedTactic false
set_option linter.unreachableTactic false

namespace Sys2Proof.Machine

theorem State.tickTile_keep {s0 : State} (s : State) (t : Nat) (x : Tile) (hk : Keep s0 s) : Keep s0 (State.tickTile
    s t x) := by
  unfold State.tickTile
  try dsimp only
  repeat' first
    | with_reducible assumption | with_reducible apply State.count_keep | simp only [Keep.upd_iff] | split

theorem State.tick_keep {s0 : State} (s : State) (hk : Keep s0 s) : Keep s0 (State.tick s) := by
  unfold State.tick
  try dsimp only
  repeat' first
    | with_reducible assumption | with_reducible apply State.tickTile_keep | simp only [Keep.upd_iff]
      | with_reducible apply Keep.foldl | with_reducible apply Keep.foldlPair | intro _

end Sys2Proof.Machine
end

