-- ==== Sys2Proof/WellFormed.lean ====
section
/-! DEFINITION. Commands whose operands lie in the ranges that the manual gives their units. A command outside them names
no unit, register or frame of any variant. -/

namespace Sys2Proof

/-- A tile number of the largest variant (R1). -/
def tileOk (t : Nat) : Bool := t < 68

/-- A message header's fields fit their bytes (R365). -/
def Msg.wf (m : Msg) : Bool :=
  m.src < 2 ^ 24 && m.dst < 2 ^ 24 && m.cls < 256 && m.chan < 4 && m.len ≤ 4096 && m.seq < 2 ^ 48 && m.keyId < 2 ^ 16
    && m.payload.length ≤ 4112

/-- Every operand lies in the range of its field. -/
def Instr.wf : Instr → Bool
  | .memportTrainingDone m | .memportFailed m | .bandwidthWindowEnd m | .zqCalibration m => m < 16
  | .memportReadComplete m _ _ _ _ _ => m < 16
  | .peelGranuleDone m g _ => m < 16 && g < 1430
  | .bar2Submission off data _ => off < 2 ^ 24 && data.length ≤ 512
  | .mmioWrite off len _ => off < 2 ^ 28 && len ≤ 64
  | .bar4Access _ off len data _ => off < 2 ^ 29 && 1 ≤ len && data.length ≤ len
  | .commandConsume q _ | .commandStart q | .coalesceTimerExpire q | .cqHeadReread q _ | .qStatusW1c q _ _ => q < 4096
  | .nop q _ | .launch q _ | .copy q _ | .fill q _ | .compare q _ | .fenceSignal q _ | .fenceWait q _ | .barrier q _
  | .marker q _ | .quiesce q _ | .hostMoverComplete q _ _ _ _ => q < 4096
  | .slotFlagsW1c t i _ _ | .slotDeadlineWrite t i _ _ => tileOk t && i < 16
  | .storeErrClear i _ _ | .schedStatusClear i _ _ | .traceCtlWrite i _ _ => tileOk i
  | .mpErrClear i _ _ => i < 16
  | .rnErrClear i _ _ => i < 4
  | .xingStateClear i _ _ | .resyncReq i _ _ | .resyncDone i _ | .crossingPark i | .clockStopped i | .clockReturn i
  | .xingClockLost i => i < 132
  | .mgrVoteWrite i _ _ | .padRelease i _ _ | .domainWakeDone i => i < 162
  | .grpCtlWrite i _ _ | .grpCtlClear i _ _ | .samplerTick i => i < 216
  | .fenceFlushAck f t | .fenceSignalArrival t f _ => f < 65536 && tileOk t
  | .ctxQuiesced c => c < 1024
  | .add t _ | .sub t _ | .and t _ | .or t _ | .xor t _ | .shl t _ | .shr t _ | .sra t _ | .mul t _ | .mulhu t _
  | .divu t _ | .remu t _ | .cmp t _ | .li t _ | .pset t _ | .lih t _ | .br t _ | .call t _ | .jr t _ | .ldU8 t _
  | .ldU16 t _ | .ldU32 t _ | .ld64 t _ | .ldS8 t _ | .ldS16 t _ | .ldS32 t _ | .st8 t _ | .st16 t _ | .st32 t _
  | .st64 t _ | .ldTd t _ | .stTd t _ | .tdWr t _ | .tdRd t _ | .wait t _ | .tokPoll t _ | .fenceSig t _
  | .fenceWaitInstr t _ | .intakeOpen t _ | .intakeTake t _ | .paceArm t _ | .paceArmRel t _ | .paceArmDl t _
  | .paceWait t _ | .paceClear t _ | .markOp t _ | .markEv t _ | .obsRd t _ | .sysRead t _ | .sysExit t _
  | .sysDist t _ => tileOk t
  | .mvCopy t _ _ | .mvFill t _ _ | .mvCmp t _ _ | .vld t _ _ | .vst t _ _ | .varith t _ _ | .vfma t _ _ | .vsf t _ _
  | .vcmp t _ _ | .vred t _ _ | .vbcast t _ _ | .vsel t _ _ | .vmask t _ _ | .cvt t _ _ | .mma t _ _ | .mmaS24 t _ _
  | .mmaSeed t _ _ | .mmaRowmask t _ _ | .gateTopk t _ _ | .disp t _ _ | .comb t _ _ | .combSum t _ _ | .compactG t _ _
  | .compactS t _ _ | .send t _ _ | .recv t _ _ | .put t _ _ | .get t _ _ | .bar t _ _ | .allreduce t _ _ | .bcast t _ _
  | .allgather t _ _ => tileOk t
  | .loadDataReturn t _ _ | .vectorOpComplete t _ | .tensorOpStart t _ | .tensorOpComplete t | .engineSlotFree t
  | .kernelBoundary t | .coreLockstep t | .writtenBitClearDone t | .watchdogExpire t | .watchdogEscalate t | .swapDone t
  | .earlyMessageTimeout t | .msgTimeout t _ | .endpointPacketArrival t | .tileRejoin t | .vddLow t | .handshakeStall t
  | .demandIdleTimeout t | .tileReset t | .rotationSelftestDone t _ | .selftestRequest _ t => tileOk t
  | .moverOpComplete t mv _ _ _ => tileOk t && mv < 8
  | .tensorCheckFail t code _ _ => tileOk t && code < 4
  | .dispComplete t kd | .dispatchOpComplete t kd _ => tileOk t && kd < 16
  | .pacerComparatorFire t c => tileOk t && c < 8
  | .patrolScrub t line _ => tileOk t && line < 2 ^ 23
  | .rowMessage m | .markerMessage m | .returnMessage m | .answerMessage m | .sendMessage m | .putMessage m _
  | .getReqMessage m _ _ | .getReplyMessage m | .creditMessage m | .barMessage m | .collSeqMessage m | .collDataMessage m
  | .freezeMarkMessage m | .epochMessage m | .memberLostMessage m | .heartbeatMessage m => m.wf
  | .quadTrained x _ _ _ _ _ _ | .trainingTimeout x | .trainingRetry x | .dataFlitRx x _ | .ctrlFlitRx x _ | .ackTimeout x
  | .quadDown x _ | .quadRetryEmpty x | .flitSlot x => x < 16
  | .routerFailed i _ | .routerDrained i => i < 128
  | .portDisable _ x => x < 4
  | .regulator d => d < 162
  | .quarterBanked q | .setBankKeep _ q _ => q < 4
  | .islandReset i => i < 132
  | .escalation row => row < 24
  | .proof _ _ | .hello _ _ | .slotLockExpire _ | .inputInRange _ | .pwrEnAssert | .pwrEnDeassert | .resetNAssert
  | .resetNRelease | .undervoltageLockout | .vinRange _ | .powerUpSelftestDone _ | .hostReady | .pcieConfigRequest
  | .pcieHotReset _ | .hostDmaRefused _ | .mgmtCmdIndexWrite _ | .mailboxUnknownOp _ _ | .ctxCreate _ _ | .ctxShare _ _
  | .ctxSeg _ _ | .ctxQuiesce _ _ | .ctxResume _ _ | .ctxReset _ _ | .ctxRemove _ _ | .ctxSave _ _ | .ctxRestore _ _
  | .ctxBacking _ _ | .qEnable _ _ | .qResume _ _ | .qDestroy _ _ | .objCreate _ _ | .objFree _ _ | .objDestroy _ _
  | .fenceCreate _ _ | .fenceBind _ _ | .fenceReset _ _ | .fenceDestroy _ _ | .attest _ _ | .quoteReady
  | .bar4CtrlWrite _ _ | .hiErrClear _ _ | .lossClear _ _ | .fqCfgWrite _ _ | .fqHeadWrite _ _ | .fqStatusClear _ _
  | .hostCapWrite _ _ | .smpCfgWrite _ _ | .smpIntervalWrite _ _ | .smpHeadWrite _ _ | .smpStatusClear _ _
  | .epochHoldExpire _ | .heartbeatSend _ | .heartbeatLoss _ _ | .refusedReply _ | .mirrorRebuildDone _ _ _ _
  | .composeBunch .. | .dissolveBunch _ _ | .rangeGrant _ _ _ | .rangeRelease _ _ _ | .tileReplace _ _ _ _
  | .tileMove .. | .rangeRelocate _ _ _ _ _ | .rangeMove _ _ _ _ | .quadMove _ _ _ | .graftDrainDone _ | .shareCopyDone _ _
  | .epochDrainZero _ | .rangeCopyDone _ | .detachRelease _ _ | .freeze _ _ | .thaw _ _ | .halt _ _ | .resume _ _
  | .bunchReset _ _ | .setPerfMode _ _ | .setOrchCap _ _ | .setFloors _ _ _ | .setVcArb _ _ _ | .setPowerPolicy _ _ _
  | .orchVote _ _ _ | .i3cTrayCapWrite _ | .i3cAddressAssign _ | .powerEstimateTick _ | .capUnmetClear
  | .calibrationWindow _ _ _ _ _ | .thermalSample _ | .moduleReset _ | .powerCycle | .safetyFaultReaction _
  | .huskRecordComplete _ | .huskUnitTimeout _ | .rowAcknowledge _ _ | .pacerFreqWindow _ _ _ | .mgcKick
  | .hostifHeartbeat | .mgcWatchdog | .hostifWatchdog | .stoneLockstep | .rotationTurnStart | .sessionIdleTimeout _
  | .close _ | .quote _ _ | .claim _ | .credSet _ _ _ | .credClear _ _ | .unclaim _ | .keyInstall _ _ _ _
  | .keyAgreeBegin _ | .keyAgree _ _ _ _ | .keyAccept _ _ _ _ | .keyActivate _ _ _ | .keyDestroy _ _ _
  | .imageKeyInstall _ _ _ _ | .confSet _ _ | .fwWrite _ _ | .fwTrial _ | .fwCommit _ _ | .fwUpdate _ _ | .unitUpdateDone _
  | .maintEnter _ | .maintLeave _ | .factoryUnlock _ _ | .bootVerifyDone _ _ | .railsUp | .pcieLinkTrained _ _ _
  | .ctxSaveDone _ | .ctxRestoreDone _ _ | .bunchActivate _ _ => true

end Sys2Proof
end

