-- ==== Sys2Proof/Tests/Slice0.lean ====
section
/-! SUPPORT. The model's own tests: ill-formed commands that are refused, states that meet the hypotheses of the statements, and
single steps whose results the manual gives. -/

namespace Sys2Proof.Tests

open Sys2Proof Sys2Proof.Machine Sys2Proof.Claims

/-! ### Small states -/

/-- A segment of the running kernel's own share: VALID, readable, writable, executable, 2 MiB from 0 (R231, R234). -/
def seg0 : BitVec 256 := 0xF000000000200000

/-- A launch of context 1 on queue 1 (R190, R293). -/
def launch0 : Launch := { q := 1, seq := 0, ctx := 1, scope := 7, one := none, code := 0x40, budget := 100
                          args := [11, 12, 13, 14], layer := 5, op := 6, ordinal := 1 }

/-- The kernel of `launch0` on tile 0. -/
def run0 : Run := { slot := 0, launch := launch0, rank := 0, size := 1, depth := 1, epoch := 0, bunch := 7, gen := 0, mrank := 0
                    start := 0, left := none, conf := false }

/-- Tile 0 with a running kernel in slot 0, whose share is granule 0. -/
def tile0 : Tile := { core := { run := some run0, segs := [(0, seg0)] }, slots := [(0, { valid := true, ctx := 1, share := 1 })] }

/-- An open session of credential slot 0, and a frame of it. -/
def session0 : Session := { sid := 1, slot := 0, isOpen := true, nc := 0, nd := 0, c2d := 0, d2c := 0, wrap := 0, seqIn := 0, seqOut := 1
                            discards := 0 }
def frame0 : Frame := { sid := 1, seq := 1, tagOk := true }

/-- A module in service: bunch 7 of tile 0, context 1, a running kernel, an open session. -/
def live : State := { State.reset with
  boot := { State.reset.boot with step := 6, tested := true, pwrEn := true, usable := 1 }
  hif := { ready := true, link := true, ctxs := [(1, { valid := true, bunch := 7, segs := [(0, seg0)] })]
           queues := [(1, { st := 1, ctx := 1, cq := 8 })] }
  comp := { bunches := [(0, { st := 2, id := 7, members := [.tile 0], map := [{ module := 0, tile := 0, gen := 0 }], host := true })] }
  tiles := [(0, tile0)]
  pwr := { State.reset.pwr with doms := [(0, { st := 2 }), (68, { st := 2 }), (136, { st := 2 })] }
  sec := { sessions := [session0], slots := [(0, { cred := some (.key 5) })] } }

/-- `live` with another tile 0, another control core on it, another queue 1, another bunch record 0, another context 1. -/
def onTile (f : Tile → Tile) : State := live.setTile 0 (f tile0)
def onCore (f : Core → Core) : State := live.setCore 0 (f tile0.core)
def onQueue (f : Queue → Queue) : State := live.setQueue 1 (f (live.queue 1))
def onBunch (f : Bunch → Bunch) : State := live.setBunch 0 (f (live.bunch 0))
def onCtx (f : Ctx → Ctx) : State := live.setCtx 1 (f (live.ctx 1))

/-- A Rilax word without a guard: class, operation, RA, RB, RC, IMM (R198), and an extension word of token KD. -/
def word (cls op ra rb rc imm : Nat) : Word :=
  BitVec.ofNat 64 (cls * 2 ^ 60 + op * 2 ^ 56 + ra * 2 ^ 47 + rb * 2 ^ 42 + rc * 2 ^ 37 + imm)
def ext (kd rest : Nat) : Word := BitVec.ofNat 64 (0xE * 2 ^ 60 + kd * 2 ^ 56 + rest)

/-- The next state of an outcome, `live` where it gives none; and whether it gives one. -/
def nextOf : Host.Outcome State Fault Refusal → State
  | .next u => u
  | _ => live
def goesOn : Host.Outcome State Fault Refusal → Bool
  | .next _ => true
  | _ => false

/-! ### Ill-formed commands are refused -/

/-- An intact message of bunch 7 from rank 0 to rank 0, within the module. -/
def msg0 : Msg := { bunch := 7, src := 0, dst := 0, epoch := 0, cls := 1, chan := 0, enc := false, len := 0, seq := 0, keyId := 0
                    param := 0, payload := [], intact := true, port := none, srcGen := 0 }

theorem test_wf_port : (Instr.memportTrainingDone 16).wf = false ∧ (Instr.memportTrainingDone 15).wf = true := by decide
theorem test_wf_port_read : (Instr.memportReadComplete 16 0 (.core 0) true false false).wf = false := by decide
theorem test_wf_granule : (Instr.peelGranuleDone 0 1430 true).wf = false ∧ (Instr.peelGranuleDone 15 1429 true).wf = true := by decide
theorem test_wf_submission : (Instr.bar2Submission (2 ^ 24) [] true).wf = false := by decide
set_option maxRecDepth 4000 in
theorem test_wf_submission_length : (Instr.bar2Submission 0 (List.replicate 513 0) true).wf = false := by
  decide
theorem test_wf_mmio : (Instr.mmioWrite (2 ^ 28) 8 0).wf = false ∧ (Instr.mmioWrite 0 65 0).wf = false := by decide
theorem test_wf_bar4 : (Instr.bar4Access true (2 ^ 29) 1 [0] .ok).wf = false ∧ (Instr.bar4Access true 0 0 [] .ok).wf = false
    ∧ (Instr.bar4Access true 0 1 [0, 0] .ok).wf = false := by decide
theorem test_wf_queue : (Instr.nop 4096 0).wf = false ∧ (Instr.commandStart 4096).wf = false ∧ (Instr.nop 4095 0).wf = true := by decide
theorem test_wf_slot : (Instr.slotFlagsW1c 68 0 .full 0).wf = false ∧ (Instr.slotFlagsW1c 0 16 .full 0).wf = false := by decide
theorem test_wf_tile_registers : (Instr.storeErrClear 68 .full 0).wf = false ∧ (Instr.storeErrClear 67 .full 0).wf = true := by decide
theorem test_wf_unit_registers : (Instr.mpErrClear 16 .full 0).wf = false ∧ (Instr.rnErrClear 4 .full 0).wf = false := by decide
theorem test_wf_crossing : (Instr.crossingPark 132).wf = false ∧ (Instr.islandReset 132).wf = false ∧ (Instr.crossingPark 131).wf = true := by
  decide
theorem test_wf_domain : (Instr.mgrVoteWrite 162 .full 0).wf = false ∧ (Instr.regulator 162).wf = false ∧ (Instr.regulator 161).wf = true := by
  decide
theorem test_wf_group : (Instr.grpCtlWrite 216 .full 0).wf = false ∧ (Instr.samplerTick 215).wf = true := by decide
theorem test_wf_fence : (Instr.fenceFlushAck 65536 0).wf = false ∧ (Instr.fenceSignalArrival 68 0 true).wf = false := by decide
theorem test_wf_context : (Instr.ctxQuiesced 1024).wf = false ∧ (Instr.ctxQuiesced 1023).wf = true := by decide
theorem test_wf_one_word : (Instr.add 68 0).wf = false ∧ (Instr.add 67 0).wf = true := by decide
theorem test_wf_two_word : (Instr.mma 68 0 0).wf = false ∧ (Instr.disp 67 0 0).wf = true := by decide
theorem test_wf_tile_events : (Instr.kernelBoundary 68).wf = false ∧ (Instr.tileReset 67).wf = true := by decide
theorem test_wf_mover : (Instr.moverOpComplete 0 8 .ok [] []).wf = false ∧ (Instr.moverOpComplete 68 0 .ok [] []).wf = false := by decide
theorem test_wf_check : (Instr.tensorCheckFail 0 4 0 0).wf = false ∧ (Instr.dispComplete 0 16).wf = false := by decide
theorem test_wf_comparator : (Instr.pacerComparatorFire 0 8).wf = false ∧ (Instr.patrolScrub 0 (2 ^ 23) .ok).wf = false := by decide
theorem test_wf_message : (Instr.sendMessage { msg0 with src := 2 ^ 24 }).wf = false ∧ (Instr.sendMessage { msg0 with dst := 2 ^ 24 }).wf = false
    ∧ (Instr.sendMessage { msg0 with cls := 256 }).wf = false ∧ (Instr.sendMessage { msg0 with chan := 4 }).wf = false
    ∧ (Instr.sendMessage { msg0 with len := 4097 }).wf = false ∧ (Instr.sendMessage { msg0 with seq := 2 ^ 48 }).wf = false
    ∧ (Instr.sendMessage { msg0 with keyId := 2 ^ 16 }).wf = false ∧ (Instr.sendMessage msg0).wf = true := by decide
theorem test_wf_quad : (Instr.flitSlot 16).wf = false ∧ (Instr.flitSlot 15).wf = true := by decide
theorem test_wf_router : (Instr.routerFailed 128 .stall).wf = false ∧ (Instr.routerDrained 127).wf = true := by decide
theorem test_wf_runner : (Instr.portDisable frame0 4).wf = false ∧ (Instr.portDisable frame0 3).wf = true := by decide
theorem test_wf_quarter : (Instr.quarterBanked 4).wf = false ∧ (Instr.quarterBanked 3).wf = true := by decide
theorem test_wf_row : (Instr.escalation 24).wf = false ∧ (Instr.escalation 23).wf = true := by decide

/-! ### States that meet the hypotheses of the statements, and that the statement's commands go on in

The interface, memory and registers. -/

theorem test_wit_StepRunsFrontCommand : ({ live with pending := [.mgcKick, .flitSlot 0] } : State).pending = .mgcKick :: [.flitSlot 0] := rfl
theorem test_wit_IdleStepCountsTime : live.pending = [] := rfl
theorem test_wit_StepKeepsCanonicalMemory : memWf ((live.poke 5 7).poke 3 1).mem
    ∧ goesOn (step { (live.poke 5 7).poke 3 1 with pending := [.bar4Access true 0 1 [9] .ok] }) = true := by decide
theorem test_wit_ExecKeepsQueueAndVariant : goesOn (exec .mgcKick { live with pending := [.hostReady] }) = true := by decide
theorem test_wit_ByteReadAfterWrite : isStore (tsAddr 0 64) = true ∧ live.lineWritten (tsAddr 0 64) = false ∧ isStore 5 = false := by decide
theorem test_wit_BytesWrittenAndCleared : 67 < 68 ∧ 0x1FFFFFC0 % 64 = 0 ∧ 64 % 64 = 0 ∧ 0x1FFFFFC0 + 64 ≤ 0x20000000 := by decide
theorem test_wit_HostAccessBeforeReady : State.reset.hif.ready = false := rfl
theorem test_wit_HostInterfaceRegisterWrites : live.hif.ready = true ∧ live.hif.fqCfg.getLsbD 11 = false := by decide
theorem test_wit_TileAndUnitRegisterWrites : live.hif.ready = true ∧ live.hasTile 0 = true ∧ ((live.tile 0).slot 0).valid = true
    ∧ ((live.tile 0).slot 1).valid = false ∧ live.hasTile 68 = false ∧ live.hasPort 15 = true ∧ live.hasPort 16 = false
    ∧ live.hasRunner 3 = true ∧ live.hasXing 0 = true ∧ live.pwr.hostCap = 0 := by decide
theorem test_wit_ObserveRegisterWrites : live.hif.ready = true ∧ live.obs.cfg.getLsbD 11 = false
    ∧ (let v : Word := 0xC08; v.getLsbD 11 = true ∧ 8 ≤ v.toNat % 32 ∧ v.toNat % 32 ≤ 24
        ∧ ({ live with ports := [(0, { st := 2, ranges := [(0, { valid := true, base := 0, len := 1, owner := 7 })] })] } : State).ringOk
            (v.toNat / 4096 * 4096) (v.toNat % 32) (v.getLsbD 10) = true)
    ∧ (let v : Word := 0x818; v.toNat % 32 = 24 ∧ live.ringOk (v.toNat / 4096 * 4096) (v.toNat % 32) (v.getLsbD 10) = true)
    ∧ (let v : Word := 0x807; v.getLsbD 11 = true ∧ v.toNat % 32 = 7) ∧ (let v : Word := 0x819; v.getLsbD 11 = true ∧ v.toNat % 32 = 25) := by
  decide
theorem test_wit_ObserveRegisterWrites_groups : live.groupPresent 0 = true ∧ live.groupPresent 208 = true ∧ (live.group 208).ctl.getLsbD 2 = false
    ∧ (let v : Word := 0x808000; v.getLsbD 63 = false ∧ v.toNat / 2 ^ 16 % 256 ≤ 128 ∧ v.toNat / 2 ^ 8 % 256 + v.toNat / 2 ^ 16 % 256 ≤ 256)
    ∧ (let v : Word := 0x8000000000000000; v.getLsbD 63 = true ∧ v.getLsbD 2 = false) := by decide
theorem test_wit_DomainVotesAndBar4 : live.hasDom 161 = true ∧ live.hasDom 162 = false ∧ (live.dom 137).st = 0
    ∧ (let v : Word := 0x2000000000000; v.getLsbD 63 = false ∧ v.toNat / 2 ^ 48 % 4 = 2) := by decide
theorem test_wit_DomainVotesAndBar4_release : (let s : State := { live with
      boot := { live.boot with maint := true }, ports := [(0, { st := 2 })], pwr := { live.pwr with doms := [(140, { st := 2, held := true })] } }
    s.hasDom 140 = true ∧ padDom 140 = true ∧ s.boot.maint = true ∧ s.padTrained 140 = true)
    ∧ (let v : Word := 0x8003000000000000; v.getLsbD 63 = true ∧ v.toNat / 2 ^ 48 % 4 = 3) := by decide
theorem test_wit_DomainVotesAndBar4_window : (let s : State := { live with hif := { live.hif with bar4Open := true } }
    s.windowOpen = true ∧ s.lineWritten (tsAddr s.hif.bar4Tile 0) = false ∧ (s.poke (tsAddr 0 3) 1).lineWritten (tsAddr 0 0) = true)
    ∧ live.windowOpen = false ∧ 63 % 64 + 1 ≤ 64 := by decide

/-! The control core. A word of zero fields (the source of `obs.rd` and `sys.dist`: tile 0) decodes in every one-word row. -/

/-- `Takes` for row `i` of the one-word rows on that word. -/
def takesRow (s : State) (i : Nat) : Bool :=
  match (oneWordRows 0 0)[i]? with
  | none => false
  | some r =>
    let w := word r.2.1 r.2.2.1 0 0 0 (if i = 47 ∨ i = 50 then 0x10000000 else 0)
    match (oneWordRows 0 w)[i]? with
    | none => false
    | some p => s.coreReady 0 && s.fetchTrap 0 8 == none && wClass w == p.2.1 && wOp w == p.2.2.1 && p.2.2.2
        && (s.tile 0).core.guard w

theorem test_wit_ScalarAluResults : ∀ i, i < 12 → takesRow live i = true := by decide
theorem test_wit_ScalarAluResults_add : Takes live 0 (word 0 0 31 30 29 0) 0 0 (aluDec (word 0 0 31 30 29 0)) := by unfold Takes; decide
theorem test_wit_RegisterZero : (1 : Nat) ≠ 0 ∧ (7 : Nat) ≠ 0 ∧ 7 < 8 ∧ (0 : Nat) ≠ 7 := by decide
theorem test_wit_ImmediatesPredicatesBranches : ∀ i ∈ [12, 13, 14, 15, 16, 17, 18], takesRow live i = true := by decide
theorem test_wit_ImmediatesPredicatesBranches_jr : (live.g 0 0).toNat % 8 = 0 ∧ ((onCore fun c => { c with g := [(1, 4)] }).g 0 1).toNat % 8 ≠ 0
    ∧ (onCore fun c => { c with g := [(1, 4)] }).coreReady 0 = true := by decide
theorem test_wit_OneWordChecks : ∀ i, i < 51 → takesRow live i = true := by decide
theorem test_wit_OneWordChecks_stops : (onCore fun c => { c with pc := 4 }).fetchTrap 0 8 = some 3
    ∧ (onCore fun c => { c with pc := 0x200000 }).fetchTrap 0 8 = some 4 ∧ aluDec (word 0 0 1 2 3 1) = false
    ∧ reservedOp (word 4 3 0 0 0 0) = true ∧ (live.tile 0).core.guard (word 0 0 1 2 3 0 ||| 0x10000000000000) = false
    ∧ (live.tile 0).core.guard (word 0 0 1 2 3 0 ||| 0x80000000000000) = false := by decide
theorem test_wit_DescriptorAndSpecialMoves : (∀ i ∈ [32, 33], takesRow live i = true) ∧ takesRow live 35 = true
    ∧ takesRow live 48 = true ∧ takesRow live 50 = true ∧ takesRow live 47 = true ∧ live.unitAbsent 1 0 = false
    ∧ (live.tile 0).core.run = some run0 := by decide
theorem test_wit_Loads : (∀ i ∈ [19, 20, 21, 22, 23, 24, 25], takesRow live i = true) ∧ takesRow live 31 = true ∧ live.vaOk 0 0 32 0 coreTargets = true
    ∧ live.vaOk 0 0x200000 8 0 coreTargets = false ∧ (0x1FFFF9 : Nat) % 8 ≠ 0 ∧ live.injectHeld (tileRouter 0) (live.vaSpots 0 0 32) = false
    ∧ live.asleep 0 (live.vaSpots 0 0 32) = [] ∧ live.portsAway (live.vaSpots 0 0 32) = []
    ∧ ({ live with bram := { live.bram with paused := true } } : State).injectHeld (tileRouter 0) [.dev (tsAddr 1 0) none] = true := by decide
theorem test_wit_Loads_return : (let s := (onCore fun c => { c with stall := .load false 5 8 false 0x1FFFF8 }).poke (tsAddr 0 0x1FFFF8) 1
    (s.tile 0).core.stall = .load false 5 8 false 0x1FFFF8 ∧ (s.tile 0).core.loadLost ≠ 2 ∧ s.accessOpen 0 0 (s.vaSpots 0 0x1FFFF8 8) = true
      ∧ ∀ r ∈ [.ok, .corrected], s.moveRes (s.vaSpots 0 0x1FFFF8 8) [] r = r) := by decide
theorem test_wit_Stores : (∀ i ∈ [26, 27, 28, 29, 30], takesRow live i = true) ∧ live.vaOk 0 0x1FFFE0 32 1 coreTargets = true
    ∧ live.vaOk 0 0x1FFFFF 2 1 coreTargets = false ∧ live.rangeRes (live.vaSpots 0 0x1FFFE0 32) .ok = .ok
    ∧ live.meetsFailed (tileRouter 0) (live.vaSpots 0 0x1FFFE0 32) = false ∧ live.coreWaits 0 (live.vaSpots 0 0x1FFFE0 32) = false
    ∧ live.coreWaits 0 [.dev (tsAddr 1 0) none] = true := by decide
theorem test_wit_Stores_spots : live.addrFailed (tsAddr 0 7) = false ∧ live.addrFailed (tsAddr 0 8) = false ∧ tsAddr 0 7 ≠ tsAddr 0 8 := by
  decide

/-! Queues, commands, rings. -/

set_option exponentiation.threshold 1024

/-- A consumed, started command of type `ty` with the other bytes `rest`, and queue 1 with it. -/
def cmd0 (ty rest : Nat) : QCmd := { seq := 3, raw := BitVec.ofNat 512 (ty + rest), started := true }
def withCmd (c : QCmd) : State := onQueue fun q => { q with cmds := [c] }

theorem test_wit_Submission : live.hif.ready = true ∧ 0x1FC0 / 4096 = 1 ∧ (live.queue 1).st = 1 ∧ 0x1FC0 % 64 = 0
    ∧ (List.replicate 64 (0 : Byte)).length % 64 = 0 ∧ (live.queue 1).buf.length + 64 / 64 ≤ 16 * 2 ^ (live.queue 1).depthLog
    ∧ (live.queue 2).st ≠ 1 ∧ [(0 : Byte)].length % 64 ≠ 0 := by decide
theorem test_wit_CompletionRecords : ((withCmd (cmd0 0 0)).queue 1).cmd 3 = some (cmd0 0 0) ∧ (cmd0 0 0).refs = []
    ∧ (∀ m ∈ ((withCmd (cmd0 0 0)).queue 1).cmds, m.type = 8 → m.inWait = false)
    ∧ fld ((onQueue fun q => { q with irq := 1 }).queue 1).irq.toNat 0 2 = 1
    ∧ (({ live with hif := { live.hif with msixTable := [(1, 0)] } } : State).msixWord 1).getLsbD 32 = false := by decide
theorem test_wit_CommandsConsumed : (∀ ty ∈ [0, 5, 6, 7, 8, 9], let s := onQueue fun q => { q with buf := [(0, BitVec.ofNat 512 ty)] }
      s.mayConsume 1 = true ∧ (s.queue 1).buf = [(0, BitVec.ofNat 512 ty)] ∧ formatOk (BitVec.ofNat 512 ty) = true)
    ∧ formatOk 0xFF = false ∧ (live.fence 0).valid = false
    ∧ (let s := live.setFence 0 { valid := true, bind := 0 }
       (s.fence 0).valid = true ∧ ((s.fence 0).boundTo (s.queue 1).ctx = false ∨ (s.fence 0).boundTo (s.queue 1).ctx = true)) := by decide
theorem test_wit_CommandsStarted : ∀ c ∈ [{ cmd0 0 0 with started := false }, { cmd0 6 0 with started := false, gone := none },
      { cmd0 2 0 with started := false, gone := some 4 }, { cmd0 1 0 with started := false }],
    let s := withCmd c
    (s.queue 1).nextStart = some c ∧ (s.queue 1).mayStart c = true ∧ (s.queue 1).st ≠ 0 ∧ (s.queue 1).stopped c = none
      ∧ (∀ h ∈ c.refs, (s.obj h).st = 1) ∧ (c.gone = none → s.startHeld c (s.queue 1).ctx = false) := by decide
theorem test_wit_CommandsStarted_stop : (let c : QCmd := { cmd0 0 0 with started := false, prevSig := none }
    let s := onQueue fun q => { q with cmds := [c], stops := [(2, 5)] }
    (s.queue 1).nextStart = some c ∧ (s.queue 1).mayStart c = true ∧ (s.queue 1).stopped c = some 5)
    ∧ (let c : QCmd := { cmd0 2 0 with started := false, refs := [4] }
       let s := withCmd c
       (s.queue 1).nextStart = some c ∧ (s.queue 1).stopped c = none ∧ (s.obj 4).st ≠ 1)
    ∧ (let c : QCmd := { cmd0 1 (7 * 2 ^ 64) with started := false }
       let s := onBunch fun b => { b with lost := [0] }
       s.scopeLost c.raw = true ∧ live.scopeLost c.raw = false) := by decide
theorem test_wit_HostCommands : ∀ ty ∈ [0, 1, 2, 3, 4, 5, 6, 7, 8, 9], (withCmd (cmd0 ty 0)).startedCmd 1 3 ty = some (cmd0 ty 0) := by decide
theorem test_wit_HostCommands_signal : (let s := (withCmd (cmd0 5 0)).setFence 0 { valid := true }
    s.startedCmd 1 3 5 = some (cmd0 5 0) ∧ (cmd0 5 0).gone = none ∧ (s.queue 1).stopped (cmd0 5 0) = none ∧ (s.fence 0).valid = true
      ∧ (s.fence 0).err = false ∧ (s.queue 1).fails.filter (fun p => (cmd0 5 0).sinceSig p.1) = [])
    ∧ (let s := onQueue fun q => { q with cmds := [cmd0 5 0], fails := [(2, 5)], stops := [(1, 4)] }
       s.startedCmd 1 3 5 = some (cmd0 5 0) ∧ (s.queue 1).fails.filter (fun p => (cmd0 5 0).sinceSig p.1) = [(2, 5)]
         ∧ (s.queue 1).stopped (cmd0 5 0) = some 4) := by decide
theorem test_wit_HostCommands_moves : (withCmd (cmd0 1 0)).startHeld (cmd0 1 0) 1 = false ∧ cmdFld (cmd0 2 (64 * 2 ^ 192)).raw 24 8 ≠ 0
    ∧ cmdFld (cmd0 2 0).raw 24 8 = 0 := by decide

/-- A COPY, FILL or COMPARE of 64 bytes that a host mover holds, in tile 0's share. -/
def move0 (ty : Nat) : QCmd :=
  { cmd0 ty (64 * 2 ^ 192) with taken := true, bunch := 7, loc1 := some (.own 0 1 0), loc2 := if ty = 3 then none else some (.own 0 1 4096) }
theorem test_wit_HostMoverAndRings : ∀ ty ∈ [2, 3, 4], let c := move0 ty
    let s := withCmd c
    s.moverCmd 1 3 = some c ∧ c.held = false ∧ c.lost ≠ 2 ∧ s.accessOpen hostSelf hostMaster (s.cmdReads c ++ s.cmdWrites c) = true
      ∧ s.cmdStale c = false ∧ s.moveRes (s.cmdReads c) (s.cmdWrites c) .ok = .ok ∧ c.loc1.isSome = true ∧ c.type = ty
      ∧ (ty ≠ 3 → c.loc2.isSome = true) := by decide
theorem test_wit_HostMoverAndRings_stale : (let c := { move0 2 with epoch := 9 }
    let s := withCmd c
    s.moverCmd 1 3 = some c ∧ s.cmdStale c = true)
    ∧ (let s := (withCmd (move0 4)).poke (tsAddr 0 5) 1
       let a := s.readSpots (s.spots (.own 0 1 0) 64) []
       let b := s.readSpots (s.spots (.own 0 1 4096) 64) []
       a.take 5 = b.take 5 ∧ a[5]? ≠ b[5]?)
    ∧ (let s := withCmd (move0 4)
       s.readSpots (s.spots (.own 0 1 0) 64) [] = s.readSpots (s.spots (.own 0 1 4096) 64) []) := by decide
theorem test_wit_HostMoverAndRings_refused : (let c := { move0 4 with loc1 := some (.host 0 0), loc2 := some (.host 0 64) }
    let s := withCmd c
    s.moverCmd 1 3 = some c ∧ s.cmdStale c = false ∧ s.moveRes (s.cmdReads c) [] .hostRefused = .hostRefused
      ∧ Spot.host 0 0 ∈ s.cmdReads c ∧ s.moveRes (s.cmdReads c) [] .refused = .refused)
    ∧ ((onCore fun c => { c with stall := .load false 5 8 false 0 }).tile 0).core.stall = .load false 5 8 false 0 := by decide
theorem test_wit_HostMoverAndRings_rings : (let s := onQueue fun q => { q with irq := 2, coalesced := 3 }
       fld (s.queue 1).irq.toNat 0 2 = 2 ∧ (s.queue 1).coalesced ≠ 0 ∧ (s.queue 1).st ≠ 0) := by decide
theorem test_wit_MmioWrites : live.hif.ready = true ∧ (live.queue 4095).st = 0 ∧ (live.queue 1).st ≠ 0 ∧ 0xFFFF8 < 0x100000 := by decide

/-! The mailbox. `arm` sets its arguments. -/

def arm (s : State) (args : List Nat) : State := { s with hif := { s.hif with args := (List.range args.length).zip (args.map (BitVec.ofNat 64)) } }
/-- The write of MGMT_CMD that issues operation `op` on index `i` with SUB `sub`. -/
def mgmtWord (op i sub : Nat) : Word := BitVec.ofNat 64 (op + sub * 2 ^ 8 + i * 2 ^ 32)

theorem test_wit_MailboxProtocol : (∀ op ∈ [1, 2, 3, 4, 5, 6, 7, 8, 9, 10, 11, 0x10, 0x11, 0x12, 0x20, 0x21, 0x22, 0x30, 0x31, 0x32, 0x33],
      Issues live .full (mgmtWord op 1 0) op)
    ∧ reservedSet live .full 0x1000 ∧ ((0xFF : Word).toNat % 256 ∉ (mailboxRows .full 0xFF).map Prod.fst) := by
  unfold Issues reservedSet; decide
theorem test_wit_MailboxProtocol_busy : (let s : State := { live with hif := { live.hif with busy := some ⟨1, 1, 0, true, []⟩ } }
    s.hif.ready = true ∧ s.hif.busy ≠ none) := by decide
theorem test_wit_ContextOperations : (live.ctx 1).valid = true ∧ (live.ctx 1023).valid = false
    ∧ live.hostBunch 7 = true ∧ live.pasidUsed 9 = false
    ∧ ((argOf (arm live [1]) 0).testBit 0 = true) ∧ ((argOf live 0).testBit 0 = false) ∧ (live.ctx 1).st = 0
    ∧ ((onCtx fun c => { c with st := 2 }).ctx 1).st = 2 ∧ (live.queue 1).st ≠ 0 ∧ (live.queue 1).ctx = 1
    ∧ live.descOk 1 0 0 = true ∧ live.descOk 1 0 (BitVec.ofNat 256 (15 * 2 ^ 56 + 2 ^ 63)) = false := by decide
theorem test_wit_QueueAndObjectOperations : (let x : Queue := { ctx := 1, cq := 8, credit := 0, irq := 0 }
    let s := live.setQueue 2 x
    (s.queue 2).st = 0 ∧ x.cfgOk = true ∧ (s.ctx x.ctx).valid = true ∧ s.queueRoom x = true) ∧ (live.queue 1).st ≠ 0
    ∧ (live.obj 5).st = 0 ∧ ((live.setObj 5 { st := 1, ctx := 1, refs := 1 }).obj 5).st = 1
    ∧ (let s := arm live [1 + 0xFFFFFF * 2 ^ 24, 64, 128]
       argOf s 0 % 2 ^ 10 = 1 ∧ argOf s 0 / 2 ^ 16 % 16 = 0 ∧ argOf s 0 / 2 ^ 24 % 2 ^ 24 = 0xFFFFFF ∧ argOf s 1 % 64 = 0 ∧ argOf s 2 = 128
         ∧ segValid (tget 0 (s.ctx 1).segs 0) = true ∧ argOf s 1 + argOf s 2 ≤ segSize (tget 0 (s.ctx 1).segs 0)) := by decide
theorem test_wit_FenceOperations : (live.fence 65535).valid = false ∧ ((live.setFence 0 { valid := true }).fence 0).valid = true
    ∧ live.bindOk (argOf live 1) = true ∧ (live.setFence 0 { valid := true }).flushTiles 0 = []
    ∧ (let s := onCore fun c => { c with sigs := [(0, 9, 1)] }
       (s.tile 0).core.sigs.find? (fun e => e.1 == 0) = some (0, 9, 1))
    ∧ (let s := live.setFence 0 { flush := some [0, 1] }
       (s.fence 0).flush = some [0, 1] ∧ 0 ∈ [0, 1] ∧ (∀ e ∈ (s.tile 0).core.sigs, e.1 ≠ 0)) := by decide
theorem test_wit_ContextImages_share : (let s := arm live [2 ^ 32]
    s.rankTile 1 (argOf s 0 % 2 ^ 24) = some 0 ∧ s.inGraft 0 = false ∧ argOf s 0 / 2 ^ 32 % 2 ^ 9 = s.granulesOn 0 1)
    ∧ (let s := arm ((onTile fun t => { t with slots := [] }).setCtx 1 (live.ctx 1)) [2 ^ 32]
       s.rankTile 1 (argOf s 0 % 2 ^ 24) = some 0 ∧ 0 < argOf s 0 / 2 ^ 32 % 2 ^ 9 ∧ (s.tile 0).slotOf 1 = none ∧ (s.tile 0).swap = none
         ∧ (s.tile 0).standby = [] ∧ (s.tile 0).freeSlot = some 0 ∧ ((s.tile 0).lowestFree 0 1).isSome = true)
    ∧ (let s : State := { live with comp := { live.comp with grafts := [replaceGraft 7 0 2 0] } }
       (arm s [2 ^ 32]).inGraft 0 = true) := by decide
theorem test_wit_ContextImages_backing : live.anyStandby 1 = false
    ∧ (let s := onTile fun t => { t with standby := [{ ctx := 1, rank := 0, granules := 1, deadline := 0, empty := true, fifo := [], flags := 0
                                                       lines := [] }] }
       s.anyStandby 1 = true)
    ∧ (let d : BitVec 256 := BitVec.ofNat 256 (0xF2 * 2 ^ 56 + 0x400000)
       let s := arm (onCtx fun c => { c with segs := [(3, d)] }) [3, 0, 0x200000]
       segValid d = true ∧ segTarget d = 2 ∧ segAllows d 0 = true ∧ segAllows d 1 = true ∧ argOf s 1 % 0x200000 = 0 ∧ argOf s 2 % 0x200000 = 0
         ∧ (∀ p ∈ s.sharedRanks 1, p.2 * 0x200000 ≤ argOf s 2 ∧ argOf s 1 + p.1 * argOf s 2 + p.2 * 0x200000 ≤ segSize d)) := by decide
theorem test_wit_ContextImages_ends : live.frozenCtx 1 = false ∧ live.sec.quote = none
    ∧ (let s := onCtx fun c => { c with st := 1 }
       (s.ctx 1).valid = true ∧ (s.ctx 1).st = 1 ∧ (∀ q ∈ s.queuesOf 1, (s.queue q).cmds = []))
    ∧ (∀ op ∈ [8, 9], ({ live with hif := { live.hif with busy := some ⟨op, 1, 0, true, []⟩ } } : State).hif.busy = some ⟨op, 1, 0, true, []⟩)
    ∧ ofBytes (([1, 0] : List Byte).take 2) = 1 ∧ live.imageKey 7 = none ∧ (live.ctx 1).conf = false ∧ (onCtx fun c => { c with conf := true }).imageKey 7 = none
    ∧ live.openKey 7 [1, 0, 0, 0, 0] = some 0 ∧ live.openKey 7 [1, 0, 0, 0, 1] = none := by decide

/-! Synchronisation, pacing, engines. -/

theorem test_wit_SyncInstructions : (∀ i ∈ [34, 36, 37, 38, 39], takesRow live i = true) ∧ (∀ st ∈ [0, 1, 2, 3],
      ((onCore fun c => { c with tok := [(0, { st := st })] }).tile 0).core.getTok 0 = { st := st }) := by decide
theorem test_wit_SyncInstructions_fence : live.fenceUsable 0 0 0 = false
    ∧ (let s := live.setFence 0 { valid := true, bind := 0x100000000001 }
       let f := s.fence 0
       s.fenceUsable 0 0 0 = true ∧ f.valid = true ∧ f.err = false ∧ (1 - f.val : BitVec 32) ≠ 0 ∧ (0x7FFFFFFF - f.val : BitVec 32).toNat < 2 ^ 31
         ∧ (0x80000000 : BitVec 32) - f.val = 0x80000000) := by decide
/-- An intake descriptor: one row of 64 bytes at 0x1000, its tag at 0x2000, one origin with one credit (R154). -/
def intake0 : List Byte := toBytes 64 (0x1000 + 0x2000 * 2 ^ 64 + 2 ^ 224 + 2 ^ 240 + 64 * 2 ^ 256 + 2 ^ 304 + 2 ^ 320)
set_option maxRecDepth 4000 in
theorem test_wit_SyncInstructions_open : (let s := live.pokeN (tsAddr 0 0) intake0
    let y : Intake := { desc := BitVec.ofNat 512 (ofBytes (s.vaRead 0 0 64)), isOpen := true, ever := true }
    ((s.tile 0).intake 0).isOpen = false ∧ y.descOk = true ∧ s.intakeRanges 0 y = true ∧ s.vaOk 0 0 64 0 coreTargets = true)
    ∧ QuietTile live 0 ∧ (63 : Word).toNat % 64 ≠ 0 := by unfold QuietTile; decide
theorem test_wit_SyncInstructions_take : (let s := onTile fun t => { t with intakes := [(0, { isOpen := true, released := [⟨0, 1, true, false, false⟩] })] }
    ((s.tile 0).intake 0).isOpen = true ∧ ((s.tile 0).intake 0).lastTaken = false ∧ QuietTile s 0
      ∧ ((s.tile 0).intake 0).freeTaken.released = [⟨0, 1, true, false, false⟩])
    ∧ ((onTile fun t => { t with intakes := [(0, { isOpen := true })] }).tile 0 |>.intake 0).freeTaken.released = [] := by
  unfold QuietTile; decide
theorem test_wit_PaceMarksAndExit : (∀ i ∈ [40, 41, 42, 43, 44, 45, 46, 49], takesRow live i = true)
    ∧ (live.time - (live.tile 0).base).toNat = 0 ∧ (live.tile 0).core.run = some run0 ∧ (live.tile 0).core.getCmp 0 = {}
    ∧ (∀ o ∈ (live.tile 0).ops, o.trig = none ∨ o.started = true) ∧ (live.tile 0).early = []
    ∧ (∀ f ∈ [true, false], let s := onCore fun c => { c with comps := [(7, { armed := true, fired := f })] }
       ((s.tile 0).core.getCmp 7).armed = true ∧ ((s.tile 0).core.getCmp 7).fired = f
         ∧ ((s.tile 0).core.getCmp 7).val.toNat ≤ (s.time - (s.tile 0).base).toNat) := by decide
theorem test_wit_PaceMarksAndExit_trace : (let s := live.setTrace 0 { mode := 1 }
    takesRow s 46 = true ∧ (s.trace 0).mode ≠ 0 ∧ (s.ctx 1).conf = false ∧ (s.trace 0).gap = 0 ∧ (s.trace 0).stage.length < 100) := by decide

/-- A tensor descriptor (R173). -/
def tdOf (base rows cols fmt sparsity stride : Nat) : BitVec 256 :=
  BitVec.ofNat 256 (base + (rows + cols * 2 ^ 24 + fmt * 2 ^ 48 + sparsity * 2 ^ 53) * 2 ^ 64 + stride * 2 ^ 128)

/-- `live` with what the two-word rows need: g1 = 64, g2 = 4096, and descriptors of tensors in the share. -/
def issuing : State := onCore fun c => { c with
  g := [(1, 64), (2, 4096)]
  td := [(0, tdOf 0x8000 1 1 0 0 64), (1, tdOf 0x1000 1 1 1 0 64), (2, tdOf 0x2000 1 1 1 0 64),
         (3, tdOf 0x1000 1 64 1 0 128), (4, tdOf 0x2000 1 64 1 1 128),
         (5, tdOf 0x10000 1 128 0 0 512), (6, tdOf 0x1000 1 128 1 0 256), (7, tdOf 0x20000 128 128 1 3 256),
         (8, tdOf 0x1000 1 16 0 0 64), (9, tdOf 0x2000 1 16 0 0 64)] }

/-- RA, RB, RC and the fields below KD of the extension word for row `i` of the two-word rows. -/
def operands (i : Nat) : Nat × Nat × Nat × Nat :=
  if i < 3 then (2, 0, 1, 0)
  else if i < 14 then (0, 0, 0, 0)
  else if i = 14 then (0, 8, 0, 0)
  else if i = 16 then (0, 3, 4, 0x21060000000)
  else if i = 17 then (5, 6, 7, 0x21060000000)
  else if i < 19 then (0, 1, 2, 0x21060000000)
  else if i = 19 ∨ i = 28 then (0, 0, 0, 0)
  else if i < 22 then (8, 0, 0, 0)
  else if i < 24 then (8, 9, 0, 0)
  else if i < 31 then (0, 0, 1, 0)
  else (2, 0, 1, 0)

/-- The two words of row `i` with token 1 and `more` extension fields. -/
def words (i more : Nat) : Word × Word :=
  match (twoWordRows 0 0 0)[i]? with
  | none => (0, 0)
  | some r => let (a, b, c, x) := operands i; (word r.2.1 r.2.2.1 a b c 0, ext 1 (x + more))

/-- `MayIssue` for row `i`. -/
def mayRow (s : State) (i more : Nat) : Bool :=
  let (w, x) := words i more
  match (twoWordRows 0 w x)[i]? with
  | none => false
  | some r => s.coreReady 0 && wClass w == r.2.1 && wOp w == r.2.2.1 && s.fetchTrap 0 16 == none && fld x.toNat 60 4 == 0xE
      && !(s.tile 0).engineFull (engineOf w x) && r.2.2.2.1 && (s.tile 0).core.guard w && r.2.2.2.2 s == none
      && ((s.tile 0).core.getTok (xKD x)).st != 1

theorem test_wit_EngineIssue : ∀ i ∈ List.range 32, mayRow issuing i 0 = true := by decide
theorem test_wit_EngineIssue_triggers : (let s := issuing.setCore 0 { (issuing.tile 0).core with comps := [(7, { armed := true })] }
      mayRow s 0 0x000F000000000000 = true ∧ mvTrig (words 0 0x000F000000000000).2 = 1)
    ∧ (let s := issuing.setTile 0 { issuing.tile 0 with movers := [(7, { last := 1 })], nextId := 2 }
       mayRow s 0 0x0017000000000000 = true ∧ mvTrig (words 0 0x0017000000000000).2 = 2
         ∧ (tget {} (s.tile 0).movers (mvSrc (words 0 0x0017000000000000).2) : MoverSt).res ≠ 2) := by decide
theorem test_wit_EngineIssue_checks : (onCore fun c => { c with pc := 0x1FFFF8 }).fetchTrap 0 16 = some 4
    ∧ fld ((0xD000000000000000 : Word)).toNat 60 4 ≠ 0xE ∧ vDec (word 5 2 0 0 0 1) (ext 0 0) = false
    ∧ (issuing.mvChk 0 (word 4 0 0 0 1 0) (ext 0 0) = some 1) ∧ (issuing.vChk 0 (word 5 0 0 2 0 0) = none)
    ∧ ((onCore fun c => { c with tok := [(1, { st := 1 })] }).tile 0 |>.core.getTok (xKD (ext 1 0))).st = 1 := by decide

/-! Engine operations in progress. -/

/-- An operation of engine `eng` on tile 0 with token 1, and `issuing` with it. -/
def opOf (eng : Nat) (w : Word) : EngOp := { id := 1, eng := eng, kd := 1, w := w, x := ext 1 0, started := true }
def withOp (o : EngOp) : State := issuing.setTile 0 { issuing.tile 0 with ops := [o], nextId := 2 }

theorem test_wit_MoverCompletion : ∀ op ∈ [0, 1, 2],
    let o := { opOf 3 (word 4 op 2 0 1 0) with ga := 4096, gb := 0, gc := 64, ge := 8192 }
    let s := withOp o
    (s.tile 0).moverOp 0 = some o ∧ (s.tile 0).core.stall = .none ∧ (∀ p ∈ (s.tile 0).ops, p.trig = none) ∧ (s.trace 0).mode = 0
      ∧ wOp o.w = op ∧ o.held = false ∧ o.lost ≠ 2 ∧ s.accessOpen 0 0 (s.mvReads 0 o ++ s.mvWrites 0 o) = true
      ∧ s.moveRes (s.mvReads 0 o) (s.mvWrites 0 o) .ok = .ok := by decide
theorem test_wit_MoverCompletion_mismatch : (let s := (withOp (opOf 3 (word 4 2 2 0 1 0))).poke (tsAddr 0 5) 1
    let a := s.readSpots (s.vaSpots 0 4096 64) []
    let b := s.readSpots (s.vaSpots 0 0 64) []
    a.take 5 = b.take 5 ∧ a[5]? ≠ b[5]?) := by decide
set_option maxRecDepth 100000 in
theorem test_wit_VectorCompletion : ∀ op ∈ [0, 7, 8, 9], let o := opOf 1 (word 5 op 3 1 2 0)
    ((withOp o).tile 0).oldestOp 1 = some o ∧ wClass o.w = 5 ∧ wOp o.w = op ∧ ((withOp o).tile 0).core.stall = .none
      ∧ (∀ p ∈ ((withOp o).tile 0).ops, p.trig = none) ∧ (withOp o).moveRes ((withOp o).vecReads 0 o) [] .ok ≠ .uncorrectable := by
  decide
set_option maxRecDepth 100000 in
theorem test_wit_TensorCompletion : (let o := { opOf 0 (words 15 0).1 with x := (words 15 0).2, started := false }
      ((withOp o).tile 0).nextTensor = some o ∧ (∀ p ∈ ((withOp o).tile 0).ops, p.trig = none)
        ∧ (withOp o).engineUe ((withOp o).tnReads 0 o) .ok = false
        ∧ (let s : State := { withOp o with badLines := [tsAddr 0 0 / 64], written := [(tsAddr 0 0 / 64, true)] }
           s.engineUe [.dev (tsAddr 0 0) none] .ok = true))
    ∧ (let o := opOf 0 (words 15 0).1
       ((withOp o).tile 0).ops.find? (fun p => p.eng == 0 && p.started) = some o ∧ ((withOp o).tile 0).core.run = some run0
         ∧ ((withOp o).tile 0).core.stop = none) := by decide
theorem test_wit_DispatchCompletion : (∀ e ∈ [none, some 0x2E], let o := { opOf 2 (words 19 0).1 with err := e, begun := true }
      let s := withOp o
      (s.tile 0).exOp 1 = some o ∧ exKind o.w = 5 ∧ o.todo = [] ∧ o.unans = [] ∧ o.lost ≠ 2 ∧ s.exOpen 0 o = true ∧ s.exReady 0 o = true
        ∧ s.rangeRes (s.exWrites 0 o) .ok = .ok ∧ (s.tile 0).early = [] ∧ ∀ p ∈ (s.tile 0).ops, p.id = o.id)
    ∧ (let o := { opOf 2 (words 28 0).1 with heard := [0], begun := true }
       let s := withOp o
       (s.tile 0).exOp 1 = some o ∧ exKind o.w = 20 ∧ s.runSize 0 ≤ o.heard.length ∧ s.exOpen 0 o = true)
    ∧ (let s := issuing.setCore 0 { (issuing.tile 0).core with stall := .queue (words 0 0).1 (words 0 0).2 }
       let u := s.setCore 0 { (s.tile 0).core with stall := .none }
       (s.tile 0).core.stall = .queue (words 0 0).1 (words 0 0).2 ∧ (s.tile 0).core.halted = false ∧ (s.tile 0).engineFull 3 = false
         ∧ u.coreReady 0 = true ∧ wClass (words 0 0).1 = 4 ∧ wOp (words 0 0).1 = 0 ∧ u.fetchTrap 0 16 = none) := by decide

/-! Messages. -/

/-- `live` with an idle tile 0. -/
def idle : State := onCore fun _ => {}

/-- An idle tile 0 with port 0 in service: what any message reaches. -/
def msgOf (cls : Nat) : Msg := { msg0 with cls := cls }

theorem test_wit_MessageChecks : (∀ r ∈ messageRows msg0 .ok [], Arrives live (msgOf r.2.1) .ok)
    ∧ live.intactOk msg0 = true ∧ live.findBunch msg0.bunch = some 0 ∧ tget 0 (live.bunch 0).lastSeq (seqPlace msg0) ≤ msg0.seq
    ∧ msg0.epoch = (live.bunch 0).epoch ∧ (live.bunch 0).map[msg0.dst]? = some ⟨0, 0, 0⟩
    ∧ live.intactOk { msg0 with intact := false } = false ∧ live.findBunch 9 = none ∧ live.intactOk { msg0 with bunch := 9 } = true
    ∧ (live.bunch 0).map.length ≤ 1 ∧ (0 : BitVec 32) ≠ { msg0 with srcGen := 1 }.srcGen ∧ live.bram.paused = false
    ∧ live.pairOpen 7 0 0 = true := by unfold Arrives; decide
theorem test_wit_MessageChecks_epochs : (let s := onBunch fun b => { b with epoch := 5, lastSeq := [(0, 3)], lastRes := [(2, 6)] }
    msg0.seq + 1 ≤ tget 0 (s.bunch 0).lastSeq (seqPlace msg0) ∧ seqPlace msg0 = 0
      ∧ (s.bunch 0).lastRes.find? (fun e => e.1 == seqPlace msg0 * 2 ^ 48 + 2) = some (2, 6)
      ∧ (s.bunch 0).lastRes.find? (fun e => e.1 == seqPlace msg0 * 2 ^ 48 + 1) = none
      ∧ (6 : BitVec 16) = (s.bunch 0).epoch + 1 ∧ (3 : BitVec 16) ≠ (s.bunch 0).epoch ∧ (s.bunch 0).prevLive = false)
    ∧ ((onTile fun t => { t with refusing := true }).tile 0).refusing = true ∧ (onTile fun t => { t with refusing := true }).movesShares 0 = false
    ∧ (live.bunch 0).leafLost ⟨0, 0, 0⟩ = false := by decide
theorem test_wit_MessageDelivery : ∀ cls ∈ [1, 2, 3, 4, 5, 6, 7, 8, 9, 10, 11, 12, 13, 14, 15, 16],
    Reaches idle (msgOf cls) 0 ⟨0, 0, 0⟩ ⟨0, 0, 0⟩ ∧ idle.servedNow (msgOf cls) 0 = true ∧ idle.servedNow (msgOf cls) 1 = true
      ∧ (heard idle (msgOf cls) 0 ⟨0, 0, 0⟩).capturing 0 ⟨0, 0, 0⟩ (msgOf cls) = none := by unfold Reaches; decide
theorem test_wit_MessageDelivery_captured : (let s := (onCore fun _ => {}).setBunch 0 { live.bunch 0 with freezing := some [0] }
    (s.bunch 0).freezing = some [0] ∧ ∃ b, (heard s (msgOf 2) 0 ⟨0, 0, 0⟩).capturing 0 ⟨0, 0, 0⟩ (msgOf 2) = some b)
    := ⟨by decide, 7, by decide⟩
theorem test_wit_MessageDelivery_rows : (let x : Tile := { tile0 with intakes := [(0, { isOpen := true, ever := true })] }
    x.early.any (sameRoute (msgOf 6)) = false ∧ (x.intake 0).timing ((x.intake 0).msgRound (msgOf 6)) = 0)
    ∧ (msgOf 6).param.toNat / 2 ^ 24 % 256 ≤ (msgOf 6).param.toNat / 2 ^ 16 % 256 + 1
    ∧ ¬ ({ msgOf 6 with param := 0x02000000 }.param.toNat / 2 ^ 24 % 256 ≤ { msgOf 6 with param := 0x02000000 }.param.toNat / 2 ^ 16 % 256 + 1)
    ∧ rowSpilled (msgOf 6) = false ∧ rowBlock (msgOf 6) = false
    ∧ (tile0.intake 0).timing ((tile0.intake 0).msgRound (msgOf 6)) = 2
    ∧ (({ tile0 with intakes := [(0, { ever := true, round := 3 })] } : Tile).intake 0).timing
        ((({ tile0 with intakes := [(0, { ever := true, round := 3 })] } : Tile).intake 0).msgRound (msgOf 7)) = 1 := by decide
theorem test_wit_MessageDelivery_answers : (let o := { opOf 2 (words 26 0).1 with unans := [{ dst := 0, seq := 9, cls := 3 }] }
    let m := { msg0 with param := 0x0003000000000009 }
    let s := withOp o
    (heard s m 0 ⟨0, 0, 0⟩).tile 0 |>.ops.find? (fun o => o.unans.any (fun u => u.dst == m.src && u.seq == m.param.toNat % 2 ^ 48
        && u.cls == m.param.toNat / 2 ^ 48 % 256)) |>.isSome) = true
    ∧ (let o := { opOf 2 (words 27 0).1 with unans := [{ dst := 0, seq := 9, cls := 4 }] }
       let m := { msg0 with cls := 5, param := memParam 0 0 }
       let s := withOp o
       o.unans.find? (fun u => u.cls == 0x04 && u.dst == m.src && memParam o.ge.toNat (o.gf.toNat + 4096 * u.info) == m.param)
         = some { dst := 0, seq := 9, cls := 4 } ∧ (s.tile 0).ops = [o]) := by decide
theorem test_wit_MessageTimers : (let s := onBunch fun b => { b with heldMsgs := [msg0] }
      (s.bunchOf 7).heldMsgs = [msg0])
    ∧ (let m := { msg0 with src := 5 }
       let s := onTile fun t => { t with early := [m] }
       (s.tile 0).early = [m] ∧ leafAt (((s.bunchOf m.bunch).mapFor m.epoch).getD (s.bunchOf m.bunch).map) m.src = none
         ∧ leafAt (((s.bunchOf 7).mapFor 0).getD (s.bunchOf 7).map) 0 = some 0)
    ∧ (let o := { opOf 2 (words 26 0).1 with unans := [{ dst := 0, seq := 9, cls := 3 }] }
       let s := idle.setTile 0 { idle.tile 0 with ops := [o] }
       (s.tile 0).ops.find? (fun o => o.unans.any (fun u => u.seq == 9)) = some o
         ∧ o.unans.find? (fun u => u.seq == 9) = some { dst := 0, seq := 9, cls := 3 } ∧ (s.tile 0).core.run = none)
    ∧ (let s := onBunch fun b => { b with map := [⟨0, 0, 0⟩, ⟨1, 0, 0⟩], alive := [1] }
       (s.bunchOf 7).st ≠ 0 ∧ (s.bunchOf 7).otherModules = [1] ∧ (s.bunchOf 7).lowestOn 0 = some 0 ∧ (s.bunchOf 7).lowestOn 1 = some 1
         ∧ s.pairOpen 7 0 1 = true)
    ∧ (let s := onBunch fun b => { b with prevLive := true }
       (s.bunchOf 7).prevLive = true ∧ (s.bunchOf 7).sentDrained = false ∧ s.oldTraffic 7 = false ∧ (s.bunchOf 7).otherModules = [])
    ∧ live.comp.grafts = [] ∧ ∀ e ∈ live.comp.bunches, e.2.st ≠ 6 := by decide

/-! Kernels, tiles. -/

theorem test_wit_KernelBoundary : (let s := onCore fun c => { c with stall := .exit }
      s.kernelDone 0 = true ∧ (s.tile 0).core.halted = false)
    ∧ (let c : Core := { stop := some { status := 7, trap := 7 } }
       c.stop = some { status := 7, trap := 7 })
    ∧ (let c : Core := { tok := [(15, { st := 3 })] }
       15 < 16 ∧ (c.getTok 15).st = 3 ∧ (c.getTok 15).acked = false ∧ c.stop = none)
    ∧ (let c : Core := { tok := [(15, { st := 3, acked := true })] }
       c.unacked = false ∧ ∀ k, k < 16 → (c.getTok k).st = 3 → (c.getTok k).acked = true) := by decide
theorem test_wit_TileFaults : (live.tile 0).core.run = some run0 ∧ (live.tile 0).core.stop = none ∧ live.hasTile 67 = true
    ∧ (live.poke (tsAddr 0 64) 1).lineWritten (tsAddr 0 (1 * 64)) = true ∧ (live.tile 0).core.halted = false
    ∧ (live.tile 0).core.atBoundary = true ∧ live.spotRes (.dev (tsAddr 0 64) none) = .ok
    ∧ (∀ res ∈ [.corrected, .uncorrectable, .ok], (live.poke (tsAddr 0 64) 1).moveRes [.dev (tsAddr 0 64) none] [] res = res)
    ∧ (let s := { live with time := 200 }
       2 * run0.launch.budget.toNat ≤ (s.pacer 0 - run0.start).toNat)
    ∧ (let s := onCore fun c => { c with stop := some { status := 7, trap := 7 } }
       (s.tile 0).core.stop = some { status := 7, trap := 7 })
    ∧ (let s := (withOp (opOf 1 (word 5 2 3 1 2 0))).setCore 0 { (withOp (opOf 1 0)).tile 0 |>.core with
         stop := some { status := 7, trap := 7 }, tok := [(1, { st := 1 })] }
       s.kernelDone 0 = false ∧ (s.tile 0).core.run = some run0) := by decide
theorem test_wit_TileStores : (let s := onTile fun t => { t with clearing := [(1, some 0)] }
      (s.tile 0).clearing = [(1, some 0)] ∧ s.hif.busy = none ∧ (1 : BitVec 256).getLsbD 0 = true)
    ∧ (live.tile 0).role ≠ 3 ∧ (live.dom 1).st ≠ 2 ∧ live.demand 5 = false
    ∧ (let s := (onTile fun t => { t with refusing := true }).setDom 0 { st := 2 }
       s.hasTile 0 = true ∧ (s.tile 0).refusing = true ∧ (s.tile 0).role ≠ 3 ∧ (s.dom 0).st = 2 ∧ 0 ∉ s.stone.inTurn
         ∧ s.stone.reacts = [] ∧ s.comp.grafts = []) := by decide
theorem test_wit_TileStores_swap : (let w : Swap := { ctx := some 1, slot := 1, victims := [] }
      let s := onTile fun t => { t with swap := some w }
      (s.tile 0).swap = some w ∧ s.accessOpen 0 0 (s.swapSpots 0 w) = true)
    ∧ (let e : Standby := { ctx := 3, rank := 0, granules := 1, deadline := 0, empty := true, fifo := [], flags := 0, lines := [] }
       let s := onTile fun t => { t with standby := [e] }
       (s.tile 0).standby.find? (fun e => e.ctx == 3) = some e ∧ lowestBits (s.tile 0).freeGranule 256 1 = some 2) := by decide

/-! Links, memory ports, routers. -/

set_option maxRecDepth 100000

/-- `live` with quad 0 in a state; with port 0 in a state and a range of bunch 7 of one granule on it. -/
def onQuad (f : Quad → Quad) : State := live.setQuad 0 (f (live.quad 0))
def range7 (home : Nat) : Range := { valid := true, base := 0, len := 1, owner := 7, home := home }
def onPort (st : Nat) : State := live.setPort 0 { live.port 0 with st := st, ranges := [(0, range7 0)] }

theorem test_wit_QuadStates : (let s := onQuad fun q => { q with st := 2 }
      s.training 0 = true ∧ (s.runner (0 / 4)).stored ≠ some 9 ∧ ∀ j, j < 4 → (s.quad (0 / 4 * 4 + j)).st ≠ 3)
    ∧ (let s := (onQuad fun q => { q with st := 2 }).setRunner 0 { stored := some 9 }
       s.training 0 = true ∧ (s.runner (0 / 4)).stored = some 9 ∧ (s.quad 0).retries = false ∧ (s.runner (0 / 4)).laneMap = [])
    ∧ (let s := onQuad fun q => { q with st := 4 }
       s.hasRunner (0 / 4) = true ∧ (s.runner (0 / 4)).disabled = false ∧ (s.quad 0).st = 4)
    ∧ (let s := onQuad fun q => { q with st := 3, retry := [0] }
       (s.quad 0).st = 3 ∧ (s.quad 0).retry ≠ [] ∧ s.downDue 0 .ackStall = true)
    ∧ (let s := onQuad fun q => { q with st := 3 }
       s.hasRunner (0 / 4) = true ∧ s.downDue 0 .lockLost = true ∧ tget 0 s.comp.quadOwner 0 = 0 ∧ (s.quad 0).txq = [] ∧ (s.quad 0).unans = [] ∧ s.comp.waits = [])
    ∧ (let s := live.setDom 156 { held := true }
       (s.dom (156 + 0 / 4)).held = true) := by decide

theorem test_crc_check_value : crc32c [0x31, 0x32, 0x33, 0x34, 0x35, 0x36, 0x37, 0x38, 0x39] = 0xE3069283 := by decide
theorem test_wit_Flits_received : (let s := onQuad fun q => { q with st := 3 }
      s.hasRunner (0 / 4) = true ∧ (s.setXing 32 { st := 1 }).quadUp 0 = true)
    ∧ crcGood 0 = false := by decide
theorem test_wit_Flits_types : ∀ ty ∈ [0, 1, 2, 3, 4], let f := mkFlit (ty * 2 ^ 28 + 2 ^ 24) 1
    crcGood f = true ∧ fTYPE f = ty ∧ fSEQ f = (live.quad 0).rxSeq ∧ fEOM f = true ∧ f.getLsbD 33 = false ∧ f.getLsbD 32 = true := by decide
theorem test_wit_Flits_sequence : (let f := mkFlit (2 ^ 28 + 5 * 2 ^ 12) 0
      crcGood f = true ∧ fTYPE f = 1 ∧ fSEQ f ≠ (live.quad 0).rxSeq ∧ fEOM f = false)
    ∧ (let q : Quad := { retry := [mkFlit (2 ^ 28) 0, mkFlit (2 ^ 28 + 2 ^ 12) 0] }
       findIdx (fun k => fSEQ k == fACK (mkFlit 1 0)) q.retry 0 = some 1 ∧ findIdx (fun k => fSEQ k == fACK (mkFlit 7 0)) q.retry 0 = none) := by
  decide
theorem test_wit_Flits_sent : (let s := onQuad fun q => { q with st := 3, nakDue := true }
      s.hasRunner (0 / 4) = true ∧ (s.setXing 32 { st := 1 }).quadUp 0 = true ∧ (s.quad 0).tick.nakDue = true)
    ∧ (let q := (({ st := 3, bufs := 0xFFFF, txq := [(0, [msg0])] } : Quad)).tick
       q.nakDue = false ∧ q.againVc = none ∧ q.ready 0 = true)
    ∧ (let q := (({ st := 3, skip := 4095 } : Quad)).tick
       q.nakDue = false ∧ q.againVc ≠ some 0 ∧ q.ready 0 = false ∧ 4095 ≤ q.skip)
    ∧ (let q := (({ st := 3, ctrlDue := true, ctrlAge := 255 } : Quad)).tick
       q.nakDue = false ∧ q.againVc ≠ some 0 ∧ q.ready 0 = false ∧ q.skip < 4095 ∧ 256 ≤ q.ctrlAge)
    ∧ (∀ due ∈ [true, false], let q := (({ st := 3, ctrlDue := due } : Quad)).tick
       q.againVc = none ∧ q.skip < 4095 ∧ q.ctrlAge < 256 ∧ q.pick 0x0008080800000112 = none ∧ q.ctrlDue = due)
    ∧ (let q := (({ st := 3, bufs := 0xFFFF0000, txq := [(1, [msg0])] } : Quad)).tick
       q.pick 0x0008080800000112 = some 1 ∧ tget [] q.txq 1 ≠ [] ∧ q.ready 0 = false)
    ∧ (let q := (({ st := 3, retry := [mkFlit (2 ^ 28) 0], resend := 1 } : Quad)).tick
       q.againVc = some 0 ∧ q.retry.drop (q.retry.length - q.resend) = [mkFlit (2 ^ 28) 0]) := by decide

theorem test_wit_MemoryPorts : live.hasPort 0 = true ∧ (∀ st ∈ [1, 2], ((onPort st).port 0).st = st) ∧ ((onPort 2).port 0).rangeAt 0 = some (range7 0)
    ∧ ((live.setDom 140 { held := true }).dom 140).held = true ∧ (onPort 2).peelable 0 1 = true ∧ live.comp.grants = []
    ∧ (let s := onCore fun c => { c with stall := .load false 1 8 false 0 }
       (s.portUe (.core 0) (.dev (lpAddr 0 0) none)).isSome = true) := by decide
theorem test_wit_MemoryPorts_reads : (let d : BitVec 256 := BitVec.ofNat 256 (0xF2 * 2 ^ 56 + 0x200000 + 2 ^ 128)
    let s := (((onCtx fun c => { c with segs := [(3, d)], names := [(3, ([0], []))] }).setPort 0
      { st := 2, ranges := [(0, range7 0)] }).setXing 16 { st := 1 }).setCore 0 { tile0.core with
        stall := .load false 1 8 false 0x300000000000, segs := [(0, seg0), (3, d)], names := [(3, ([0], []))] }
    (s.port 0).st = 2 ∧ s.portServes 0 = true ∧ s.lineRead (.core 0) 0 0 = some (.dev (lpAddr 0 0) none)
      ∧ s.otherCopy (.dev (lpAddr 0 0) none) = none) ∧ live.comp.grafts = [] ∧ ∀ e ∈ live.comp.bunches, e.2.st ≠ 6 := by decide
theorem test_wit_MemoryPorts_rebuild : (let d : BitVec 256 := BitVec.ofNat 256 (0xF2 * 2 ^ 56 + 2 ^ 52 + 0x200000 + 0x20001 * 2 ^ 128)
    let s := (((onCtx fun c => { c with segs := [(3, d)], names := [(3, ([0], [1]))] }).setPort 0 { st := 4, ranges := [(0, range7 0)] }).setPort 1
      { st := 2, ranges := [(0, range7 1)] }).setPort 2 { st := 2, ranges := [(0, range7 2)] }
    (s.rebuilt 1 3 0 2).isSome = true) := by decide
theorem test_wit_RouteAround : live.hasRouter 0 = true ∧ live.routerFailed 0 = false ∧ (0 : Nat) ≠ hostRouter
    ∧ (let s := { live with bram := { live.bram with paused := true } }
       s.bram.paused = true ∧ s.mgcAway = false ∧ 0 ∉ s.bram.empty ∧ (1 < 128 ∧ 1 ≠ 0 ∧ s.hasRouter 1 = true ∧ s.routerFailed 1 = false ∧ 1 ∉ s.bram.empty))
    ∧ (let s := { live with bram := { live.bram with paused := true, empty := (List.range 128).filter (fun k => k != 0) } }
       0 ∉ s.bram.empty ∧ ∀ k, k < 128 → s.hasRouter k = true → s.routerFailed k = false → k = 0 ∨ k ∈ s.bram.empty) := by decide
/-- 600 bytes from 4000 on: one flit for what precedes the 4 KiB boundary and does not fill 128 bytes (R259). -/
theorem test_packets : packetsOf 4000 600 = [(4000, 64), (4064, 32), (4096, 256), (4352, 128), (4480, 64), (4544, 56)] := by decide

/-! Management frames, composition. -/

theorem test_wit_ManagementFrames : frameOf (.close frame0) = some frame0 ∧ live.frameOk { frame0 with tagOk := false } = false
    ∧ live.openSession 9 = none ∧ live.openSession frame0.sid = some session0
    ∧ live.sec.sessions.find? (fun y => y.sid == frame0.sid) = some session0 ∧ session0.discards < 15
    ∧ (let s : State := { live with sec := { live.sec with sessions := [{ session0 with discards := 15 }] } }
       s.openSession frame0.sid = some { session0 with discards := 15 }) := by decide

/-- `live` after taking `frame0`, a second root bunch 8 of tile 1 in record 1, FORMING or in another state, and a graft in progress. -/
def two (st : Nat) : State := live.setBunch 1 { st := st, id := 8, members := [.tile 1], map := [⟨0, 1, 0⟩] }
def withGraft (g : Graft) : State := { two 2 with comp := { (two 2).comp with grafts := [g] } }
/-- `live` with every granule 0 to 3 of port 0 CLEAN and port 1 READY. -/
def clean : State := live.setPort 0 { st := 2, granules := [(0, 2), (1, 2), (2, 2), (3, 2)] }

theorem test_wit_BunchCommands_compose : live.frameOk frame0 = true ∧ (live.takeFrame frame0).frameOk frame0 = false
    ∧ live.memberOk 9 0 (.tile 1) = true ∧ live.memberOk 9 0 (.bunch 7) = true ∧ live.memberOk 9 0 (.remote 1 0 0) = true
    ∧ leavesApart [⟨0, 1, 0⟩] = true ∧ leavesApart [⟨0, 1, 0⟩, ⟨0, 1, 0⟩] = false
    ∧ (live.setRunner 3 { kind := 1 }).quadFree 15 = true ∧ clean.grantOk 9 ⟨0, 0, 2⟩ = true ∧ (two 1).findBunch 8 = some 1
    ∧ ((two 1).bunchOf 8).st = 1 ∧ live.findBunch 9 = none ∧ live.freeRecord = some 1 := by decide
/-- Bunch 9 of tile 1 composed in record 1; `after9` has the COMPOSE block that it gives. -/
def compose9 : State := live.compose 1 9 0 [.tile 1] [] [] true false
def after9 : State := { live with comp := { (live.setBunch 1 { st := 1, id := 9, members := [.tile 1], map := [⟨0, 1, 0⟩]
                                                               host := true }).comp with changeSeq := 1 } }
theorem compose9_comp : compose9.comp = after9.comp := by
  unfold compose9 State.compose
  rw [State.revote_comp]
  rfl
theorem test_wit_BunchCommands_compose_fits : ∀ b ∈ compose9.ancestors 257 9, (compose9.bunchOf b).map.length ≤ 16777215 := by
  have k : after9.ancestors 257 9 = [9] := by decide
  rw [State.ancestors_congr compose9_comp, k]
  simp only [List.mem_singleton, forall_eq, State.bunchOf_congr compose9_comp]
  decide
theorem test_wit_BunchCommands_life : (two 1).keyReady 8 = true ∧ ((two 2).bunchOf 8).st ≠ 1 ∧ (∀ c ∈ (two 2).ctxsOf 8, (two 2).queuesOf c = [])
    ∧ (two 2).grafting 8 = false ∧ (∀ k ∈ (two 2).sec.jobKeys, k.bunch ≠ 8) ∧ (1 ∈ live.ctxsOf 7 ∧ live.queuesOf 1 ≠ [])
    ∧ (withGraft (replaceGraft 8 1 2 0)).grafting 8 = true := by decide
theorem test_wit_BunchCommands_ranges : (live.findBunch 7).isSome = true ∧ clean.grantOk 7 ⟨0, 0, 2⟩ = true ∧ clean.runClean 0 0 2 = true
    ∧ clean.runClean 0 3 2 = false ∧ clean.grantOk 7 ⟨0, 3, 2⟩ = true ∧ clean.grantOk 7 ⟨16, 0, 2⟩ = false ∧ (live.port 0).rangeOf 7 = none
    ∧ (((onPort 2).port 0).rangeOf 7).isSome = true
    ∧ (let s : State := { live with comp := { live.comp with detach := [(5, { valid := true })] } }
       (tget {} s.comp.detach 5 : Detach).valid = true ∧ (tget {} live.comp.detach 5 : Detach).valid = false) := by decide
theorem test_wit_Grafts_tiles : live.frameOk frame0 = true ∧ live.graftBad 9 = some 0x14 ∧ (withGraft (replaceGraft 8 1 2 0)).graftBad 8 = some 0x12
    ∧ live.graftBad 7 = none ∧ live.lists 7 0 = true ∧ live.lists 7 1 = false
    ∧ (let s := live.setTile 2 { role := 1 }
       s.incomingOk 7 2 = true ∧ s.replaceFits 0 2 = true ∧ s.replaceServes 7 0 2 = true ∧ (s.setTile 2 { role := 1, clearing := [(BitVec.allOnes 256, none)] }).hasTile 2 = true)
    ∧ ((two 4).bunchOf 8).st = 4 := by decide
theorem test_wit_Grafts_move : live.graftBadOpt 7 = none ∧ (two 2).graftBadOpt 8 = none ∧ (7 : BitVec 32) ≠ 8 ∧ (live.tile 0).role ≠ 2
    ∧ (live.tile 0).role ≠ 3 ∧ live.tileBunch 0 = 7 ∧ (two 2).moveFits 0 7 none none = false
    ∧ (onTile fun t => { t with slots := [] }).moveFits 0 7 none none = true ∧ (two 2).gainFits 7 8 = true ∧ live.inGraft 0 = false
    ∧ (live.tile 0).refusing = false ∧ live.mayServe = false
    ∧ ({ live with boot := { live.boot with usable := 69 } } : State).mayServe = true := by decide
theorem test_wit_Grafts_ranges : (let s := onPort 2
      s.graftBad 7 = none ∧ ((s.port 0).rangeFor 7).valid = true ∧ s.rangeFree 1 0 ((s.port 0).rangeFor 7).len = true
        ∧ s.rangeTaken 7 1 = false ∧ s.rangeTaken 8 0 = false ∧ s.runClean 1 0 1 = false ∧ s.rangeUsed 7 0 = false)
    ∧ ((onPort 2).setPort 1 { st := 2, granules := [(0, 2)] }).runClean 1 0 1 = true
    ∧ (let d : BitVec 256 := BitVec.ofNat 256 (0xF2 * 2 ^ 56 + 0x200000 + 2 ^ 128)
       (onCtx fun c => { c with segs := [(3, d)] }).rangeUsed 7 0 = true) := by decide
theorem test_wit_Grafts_quads : (let s := { (two 2).setRunner 0 { kind := 1 } with comp := { (two 2).comp with quadOwner := [(0, 7)] } }
      tget 0 s.comp.quadOwner 0 = 7 ∧ s.hasRunner (0 / 4) = true ∧ s.quadEmpty 0 = true ∧ s.comp.grafts = []
        ∧ (let g : Graft := { kind := 4, bunch := 7, gaining := 8, out := 0, inc := 0, pos := 0, heir := none, reserve := none, step := 0, why := 0
                              todo := [], port := 0, first := 0 }
           s.prevLives g = false ∧ s.waitsUpdate g = false
             ∧ ({ s with comp := { s.comp with grafts := [g] } } : State).comp.grafts.find? (fun g => g.kind == 4 && g.out == 0) = some g))
    ∧ (onQuad fun q => { q with retry := [0] }).quadEmpty 0 = false ∧ (live.setRunner 0 { kind := 1 }).quadFree 0 = true := by decide
theorem test_wit_Grafts_steps : (let g : Graft := replaceGraft 8 1 2 0
      let s := ((withGraft { g with step := 1 }).setDom 1 { st := 2 }).setDom 2 { st := 2 }
      s.tileGraft 8 1 = some { g with step := 1 } ∧ s.drained { g with step := 1 } = true ∧ s.copyOrder 1 = [])
    ∧ (let g : Graft := { replaceGraft 8 0 2 0 with step := 2, todo := [1] }
       let s := withGraft g
       s.tileGraft 8 2 = some g ∧ s.mgcAway = false ∧ s.copyOrder 0 = [1] ∧ s.shareRoom g 1 = true ∧ s.granulesOn 1 1 = 0)
    ∧ (live.tile 0).slotOf 1 = some 0 ∧ (live.tile 2).freeSlot = some 0
    ∧ ((live.tile 2).lowestFree 0 (popCount ((live.tile 0).slot 0).share.toNat 256)).isSome = true
    ∧ (let g : Graft := { replaceGraft 7 0 0 0 with kind := 2, step := 3, port := 1 }
       let s := ((withGraft g).setPort 0 { st := 2, ranges := [(0, range7 0)] }).setPort 1 { st := 2 }
       s.comp.grafts.find? (fun g => g.kind == 2 && g.bunch == 7 && g.step == 3) = some g ∧ s.prevLives g = false ∧ s.waitsUpdate g = false
         ∧ s.rebuildOpen g = true ∧ s.framesHeld (frameIn g.out ((s.port g.out).rangeFor 7).base ((s.port g.out).rangeFor 7).len) = false) := by
  decide
theorem test_wit_FreezeAndHalt : live.frameOk frame0 = true ∧ live.findBunch 9 = none ∧ (live.findBunch 7).isSome = true ∧ (live.bunchOf 7).parent = 0
    ∧ (∀ st ∈ [1, 2, 3, 4, 5, 6], let s := onBunch fun b => { b with st := st }
       (s.bunchOf 7).st = st ∧ (s.bunchOf 7).freezing = none ∧ (s.bunchOf 7).conf = false)
    ∧ ((live.setBunch 1 { st := 2, id := 8, parent := 7 }).bunchOf 8).parent ≠ 0
    ∧ (withGraft (replaceGraft 7 0 2 0)).comp.grafts = [replaceGraft 7 0 2 0] ∧ (withGraft (replaceGraft 7 0 2 0)).nestedIn 7 7 = true
    ∧ live.comp.grafts = [] ∧ (live.bunchOf 7).localLeaves = [(0, 0)] := by decide
theorem test_wit_FreezeAndHalt_ancestors : live.ancestors 257 7 = [7] ∧ (live.bunchOf 7).freezing = none ∧ (live.bunchOf 7).wantFreeze = false := by
  decide
theorem test_wit_OrchestratorSettings : live.frameOk frame0 = true ∧ live.hasDom 0 = true ∧ live.hasDom 162 = false ∧ 3 < quartersOf live.boot.variant
    ∧ quartersOf live.boot.variant ≤ 4 ∧ live.hasPort 0 = true ∧ live.hasPort 16 = false ∧ live.floorsOk [1] = false
    ∧ (let l : List Nat := [64, 0, 128]
       l.length ≤ 73 ∧ (∀ n ∈ l, n % 64 = 0) ∧ l.foldl (· + ·) 0 ≤ 393216 ∧ (∀ p ∈ (List.range l.length).zip l, p.2 = 0 ∨ live.hasMaster p.1 = true))
    ∧ arbOk 0 = false ∧ arbOk 0x0008080800000112 = true ∧ live.hasRunner 0 = true ∧ live.hasRunner 4 = false := by decide

/-! Power, crossings, power-up. -/

theorem test_wit_PowerEvents : live.overCap = false ∧ ({ live with pwr := { live.pwr with capUnmet := true } } : State).pwr.capUnmet = true
    ∧ (let s := live.setDom 0 { st := 2 }
       0 ∈ s.steered ∧ 1 ∉ s.steered) ∧ (80 * 100 ≤ 100 * 80) ∧ (100 * 125 ≤ 125 * 100) ∧ (100 * 79 < 80 * 100)
    ∧ vinOk 3799 = false ∧ vinOk 3800 = true ∧ vinOk 5200 = true ∧ vinOk 5201 = false
    ∧ (∀ r ∈ [(399 : Int), 400, 420, 440, 480], live.sampleOk [(0, r)] = true ∧ ∀ p ∈ [(0, r)], sensorBad [(0, r)] p.1 p.2 = false)
    ∧ ((live.setDom 0 { st := 2 }).dom 0).st ≠ 0 ∧ live.hasTile 0 = true ∧ live.hasDom 135 = true ∧ live.hasDom 136 = true := by decide
theorem test_wit_DomainChanges : (let s := live.setDom 0 { st := 3 }
      s.hasDom 0 = true ∧ (s.dom 0).st = 3 ∧ s.wakeReady 0 = true)
    ∧ (let s := live.setDom 68 { st := 3 }
       s.hasDom 68 = true ∧ (s.dom 68).st = 3 ∧ s.wakeReady 68 = true)
    ∧ (let s := ((((live.setDom 137 { st := 2 }).setPort 4 { st := 5 }).setPort 5 { st := 5 }).setPort 6 { st := 3 }).setPort 7 { st := 3 }
       s.canBank 1 = true) := by decide
theorem test_wit_Crossings : live.hasXing 0 = true ∧ live.hasXing 16 = true ∧ live.hasXing 32 = true ∧ live.hasXing 64 = true
    ∧ (live.xing 16).needReset = false ∧ (live.xing 16).st = 1 ∧ (live.dom 140).st ≤ 1
    ∧ (live.xing 16).down.fifo = [] ∧ (live.xing 16).down.wr = (live.xing 16).down.rd ∧ (live.xing 16).down.wrHold.req = (live.xing 16).down.wrHold.ack
    ∧ (∀ a ∈ [true, false], let s := live.setXing 16 { st := 2, doneCore := a, doneIsland := !a }
       (s.xing 16).st = 2 ∧ (s.xing 16).doneCore = a ∧ (s.xing 16).doneIsland = !a)
    ∧ ((live.setXing 0 { st := 4 }).xing 0).st = 4 ∧ (live.runner 0).disabled = false := by decide
theorem test_wit_PinsAndPower : State.reset.stone.cycleReq = false ∧ live.boot.pwrEn = true ∧ State.reset.boot.pwrEn = false
    ∧ ({ live with stone := { live.stone with cycleReq := true } } : State).stone.cycleReq = true
    ∧ (let s : State := { live with boot := { live.boot with resetN := true } }
       s.boot.resetN = true ∧ s.boot.pwrEn = true)
    ∧ (let s : State := { live with stone := { live.stone with reacts := [{ row := 13, src := 0, seq := 0, reaction := 5, phase := 1, detail := 0, unreadable := [] }] } }
       s.moduleDue = true)
    ∧ live.frameOk frame0 = true ∧ live.confBunch = false ∧ (onBunch fun b => { b with conf := true }).confBunch = true := by decide
theorem test_wit_ColdStart : State.reset.boot.step = 0 ∧ live.boot.step ≠ 0 ∧ vinOk 4800 = true ∧ State.reset.stone.nvRow17 = false
    ∧ (∀ n ∈ [1, 2, 4], let s : State := { State.reset with boot := { State.reset.boot with step := n, pwrEn := true } }
       s.boot.step = n ∧ s.boot.pwrEn = true ∧ s.boot.resetN = false ∧ s.stone.cycleReq = false ∧ s.boot.tested = false ∧ s.sec.committed = 0
         ∧ [67].all s.hasTile = true ∧ [67].eraseDups.length = [67].length ∧ s.hif.link = false)
    ∧ live.groupPresent 68 = true ∧ ({ live with obs := { live.obs with cfg := 0x800 } } : State).smpEnabled = true
    ∧ (live.group 68).ctl.getLsbD 1 = false := by decide
theorem test_wit_ColdStart_ready : (let s : State := { live with boot := { live.boot with step := 4 } }
    s.boot.step = 4 ∧ s.boot.tested = true ∧ ∀ m, s.hasPort m = true → (s.port m).st ≠ 1) :=
  ⟨rfl, rfl, fun _ _ => by show (0 : Nat) ≠ 1; decide⟩

/-! Safety, rotation. -/

def fault4 : SafetyFault := { row := 12, src := srcId 3 0, ctxs := [], detail := 0 }
def react0 (phase : Nat) : React := { row := 2, src := srcId 1 0, seq := 0, reaction := 3, phase := phase, detail := 0, unreadable := [] }
theorem test_wit_SafetyReaction : (let s : State := { live with stone := { live.stone with faults := [fault4] } }
      fault4 ∈ s.stone.faults) ∧ live.ownReport { row := 2, src := srcId 1 0, ctxs := [1], detail := 0, running := live.runningOn (some 0) } = true
    ∧ (let s : State := { live with stone := { live.stone with reacts := [react0 0] } }
       s.huskFor = some (react0 0) ∧ srcId 1 0 ∈ s.huskScope (react0 0) ∧ s.huskAll (react0 0) (s.huskScope (react0 0)) = true ∧ srcId 1 0 ∉ (react0 0).unreadable
         ∧ s.stone.reacts.find? (fun r => r.row == 2 && r.reaction < 6) = some (react0 0))
    ∧ live.frameOk frame0 = true ∧ (∃ r ∈ [23, 24], 24 ≤ r) ∧ (∀ r ∈ [0, 23], r < 24) ∧ live.rootOf 0 ≠ 0 ∧ live.rootOf 1 = 0 := by decide
theorem test_wit_Watchdogs : live.stone.mgcAlive = false ∧ live.stone.mgcSuspended = false ∧ live.stone.hostAlive = false
    ∧ ({ live with stone := { live.stone with mgcAlive := true, hostAlive := true } } : State).stone.mgcAlive = true
    ∧ (let k := 6400 * 64 / 100
       4096 ≤ 4000 + 100 ∧ 4000 ≤ 4096 + 100 ∧ 4000 + 96 ≤ k ∧ k ≤ 4096 + 100 ∧ 3900 + 100 < 4001 ∧ 3900 + 100 < k) := by decide
theorem test_wit_Rotation : (let s : State := { live.setTile 5 { role := 1 } with stone := { live.stone with asked := [5] } }
      s.mgcAway = false ∧ s.nextTurn = some 5 ∧ (s.tile 5).role = 1 ∧ s.stone.inTurn.length < s.spares.length)
    ∧ ((live.setTile 5 { role := 2 }).tile 5).role = 2 ∧ live.hasTile 5 = true
    ∧ (let s : State := { onTile fun t => { t with noLaunch := true } with stone := { live.stone with inTurn := [0] } }
       (s.setCore 0 {}).inBist 0 = true)
    ∧ live.frameOk frame0 = true ∧ live.hasTile 68 = false ∧ (live.bunchOf (live.tileBunch 0)).st < 4 ∧ 0 ∉ live.stone.asked
    ∧ (let s := onBunch fun b => { b with st := 5 }
       4 ≤ (s.bunchOf (s.tileBunch 0)).st) := by decide

/-! Sessions, keys, firmware. A PROOF, an unwrapped key and an opened blob hang on open functions of Config: either clause of a
pair that excludes each other holds of them. -/

theorem test_wit_Sessions : (live.credSlot 1).cred = none ∧ (live.credSlot 0).cred = some (.key 5) ∧ live.sec.sessions.length < 4
    ∧ (live.credSlot 0).locked = false
    ∧ (let s : State := { live with sec := { live.sec with slots := [(0, { cred := some (.key 5), locked := true })] } }
       (s.credSlot 0).locked = true)
    ∧ live.sec.sessions.find? (fun x => !x.isOpen && x.sid == 9) = none
    ∧ (let x : Session := { session0 with sid := 2, isOpen := false }
       let s : State := { live with sec := { live.sec with sessions := [session0, x] } }
       s.sec.sessions.find? (fun x => !x.isOpen && x.sid == 2) = some x ∧ s.sec.sessions.find? (fun y => y.sid == 2) = some x
         ∧ (s.credSlot x.slot).cred = some (.key 5)) := by decide
theorem test_wit_Sessions_proof : (∃ p, p = openProof 5 session0) ∧ ∃ p, p ≠ openProof 5 session0 :=
  ⟨⟨_, rfl⟩, openProof 5 session0 + 1, by simp⟩
theorem test_wit_Credentials : live.frameOk frame0 = true ∧ (live.takeFrame frame0).slotOfFrame frame0 = some 0
    ∧ (∃ x ∈ live.sec.sessions, x.sid = 1)
    ∧ (∀ c ∈ [(10, true), (24, true), (9, false), (25, false)], credOk (.password 0 0 c.1) = c.2)
    ∧ (let s : State := { live with sec := { live.sec with sessions := [{ session0 with slot := 1 }] } }
       (s.takeFrame frame0).slotOfFrame frame0 ≠ some 0 ∧ s.frameOk frame0 = true)
    ∧ (∃ e ∈ live.comp.bunches, e.2.st ≠ 0) ∧ State.reset.sec.quoteSeq = 0 ∧ (∃ i, i < 8 ∧ (live.credSlot i).cred ≠ none)
    ∧ (let s : State := { State.reset with sec := { State.reset.sec with quoteSeq := 1 } }
       (∀ i, i < 8 → (s.credSlot i).cred = none) ∧ s.sec.quoteSeq ≠ 0) := by decide
theorem test_wit_Keys : live.frameOk frame0 = true ∧ keyBad live.sec.jobKeys 7 1 (live.findBunch 7).isSome = none
    ∧ keyBad live.sec.imgKeys 7 65535 (live.findBunch 7).isSome = none ∧ keyBad [] 7 65536 true = some 0x14 ∧ keyBad [] 7 0 true = some 0x14
    ∧ keyBad [⟨1, 9, false, 0⟩] 7 1 true = some 0x12 ∧ keyBad [⟨1, 7, false, 0⟩, ⟨2, 7, false, 0⟩] 7 3 true = some 0x0E
    ∧ hasKey [⟨1, 7, false, 0⟩] 7 1 = true ∧ hasKey live.sec.jobKeys 7 1 = false ∧ live.sec.agree = none
    ∧ live.peerOk { device := 0, ek := [], meas := [], ok := false } = false := by decide
theorem test_wit_Keys_unwrap (k : BitVec 256) (l : List Byte) : Config.unwrap k l = none ∨ ∃ x, Config.unwrap k l = some x := by
  cases Config.unwrap k l <;> simp
theorem test_wit_Keys_peer : ∃ q, live.peerOk q = true :=
  ⟨{ device := 0, ek := [], meas := (List.range 7).map live.measure, ok := true }, by simp [State.peerOk]⟩
theorem test_wit_Modes : (live.bunchOf 7).st ≠ 1 ∧ ((two 1).bunchOf 8).st = 1 ∧ ((two 1).bunchOf 8).parent = 0 ∧ live.boot.maint = false
    ∧ live.confBunch = false ∧ (onBunch fun b => { b with conf := true }).confBunch = true ∧ live.pagedElsewhere = false
    ∧ (onCtx fun c => { c with segs := [(0, BitVec.ofNat 256 (0xF4 * 2 ^ 56))] }).pagedElsewhere = true ∧ live.anyBunch = true := by decide

theorem tget_const {α : Type} (d v : α) (k : Nat) : ∀ l : List Nat, k ∈ l → tget d (l.map (fun g => (g, v))) k = v
  | [], h => by cases h
  | a :: l, h => by
    rw [List.map_cons, tget]
    split
    · rfl
    · rename_i hne
      exact tget_const d v k l ((List.mem_cons.mp h).resolve_left (fun e => hne e.symm))
/-- A claimed module in MAINTENANCE without bunches, every granule CLEAN. -/
def emptyModule : State := { live with
  boot := { live.boot with maint := true }
  comp := {}
  ports := (List.range 16).map (fun m => (m, { st := 2, granules := (List.range 1430).map (fun g => (g, 2)) })) }
theorem test_wit_Modes_unlock : emptyModule.frameOk frame0 = true ∧ emptyModule.slotOfFrame frame0 = some 0 ∧ emptyModule.boot.maint = true
    ∧ emptyModule.anyBunch = false ∧ emptyModule.allClean = true := by
  refine ⟨by decide, by decide, by decide, by decide, ?_⟩
  unfold State.allClean
  rw [List.all_eq_true]
  intro m hm
  have hm : m ∈ List.range 16 := by simpa [emptyModule, live, State.reset, portsOf] using hm
  unfold State.runClean
  rw [List.all_eq_true]
  intro i hi
  have hi : i ∈ List.range 1430 := by
    simp only [List.mem_range] at hi ⊢
    unfold State.lastGranule at hi
    split at hi <;> omega
  have hp : emptyModule.port m = { st := 2, granules := (List.range 1430).map (fun g => (g, 2)) } := tget_const _ _ _ _ hm
  rw [hp, Nat.zero_add]
  simp only [tget_const 0 2 i _ hi, beq_self_eq_true]
theorem test_wit_QuotesAndFirmware : live.sec.quote = none ∧ live.frameOk frame0 = true ∧ live.comp.grafts = [] ∧ live.mgcAway = false
    ∧ live.sec.trial = false ∧ (∀ e ∈ live.sec.minSvn, e.2.2 ≤ 64)
    ∧ (∀ k ∈ [2, 3, 4, 5], live.instances k ≠ 0)
    ∧ live.imageOk { kind := 6, svn := 0, version := 1, digest := 0, sigOk := false } = false
    ∧ (let s : State := { live with sec := { live.sec with trial := true, quote := some { mailbox := false, sid := 0, nonce := 0 } } }
       s.sec.quote = some { mailbox := false, sid := 0, nonce := 0 } ∧ s.sec.trial = true ∧ s.sec.updActive = false
         ∧ (∀ e ∈ advanceSvn s.sec.minSvn s.sec.flash s.otherBank, e.2.2 ≤ 64))
    ∧ (let s : State := { live with sec := { live.sec with minSvn := [(0, (0, 65))], trial := true } }
       ∃ e ∈ advanceSvn s.sec.minSvn s.sec.flash s.otherBank, 64 < e.2.2) := by decide
theorem test_wit_Firmware_update : (∀ j, j < 4 → live.lastQuads j = false)
    ∧ (∀ d ∈ [true, false], let s : State := { live.setTile 3 { role := 2 } with
         stone := { live.stone with inTurn := [3] }, sec := { live.sec with updActive := true, updKind := 5, updTotal := 68, updDrained := d } }
       s.sec.updActive = true ∧ s.sec.updDrained = d ∧ s.sec.updKind = 5 ∧ s.updUnit = some 3 ∧ 0 ∈ s.updatable ∧ 0 ∉ s.sec.updTiles ++ [3])
    ∧ (let s : State := { live with sec := { live.sec with updActive := true, updKind := 3, updTotal := 16, updDone := 16, updDrained := true } }
       s.updAll = true)
    ∧ (let s : State := { live with sec := { live.sec with updActive := true, updKind := 5, updTiles := live.updatable } }
       s.updUnit = none ∧ s.updAll = true) := by decide

/-! ### Results the manual works out -/

/-- Worked conversions: FP32 0.3 to E4M3 by RNE and by SR with r = 0x9A0000, and 500.0 saturating. -/
theorem test_convert_e4m3 : encFp e4m3 .rne false (decFp fp32 0x3E99999A) = (0x2A, flInexact)
    ∧ encFp e4m3 (.sr 0x9A0000) false (decFp fp32 0x3E99999A) = (0x29, flInexact)
    ∧ encFp e4m3 .rne false (decFp fp32 0x43FA0000) = (0x7E, flOverflow + flInexact) := by decide
/-- Worked PIP4 block: 3.0, −0.9, 0.25 and zeros. -/
theorem test_convert_pip4 : (let vs := [0x40400000, 0xBF666666, 0x3E800000].map (fun b => some (decFp fp32 b)) ++ List.replicate 29 (some (decFp fp32 0))
    let r := encBlock 0x0A (fun _ => .rne) vs
    r.1 = 0x80 ∧ r.2.1.take 3 = [some 5, some 0xA, some 0] ∧ r.2.2 = flInexact + flUnderflow) := by decide
/-- Worked accumulation: the ED-48 dot product, drained to BF16. -/
theorem test_accumulate_pip4 : (let e4 := fun b => decElem 3 b
      let pip := fun b => decElem 0x0A b
      let x := ({} : Accum).addBlock [some (e4 0x3C, pip 5), some (e4 0xC0, pip 6), some (e4 0x34, pip 3), some (e4 0x44, pip 4)]
    x.1.a = 0 ∧ x.1.p = -(2 ^ 64) ∧ x.1.q = 15 * 2 ^ 61 ∧ x.2 = 0 ∧ (encFp bf16 .rne false x.1.value.1).1 = 0x3FD3) := by decide
/-- Worked accumulation: a fold in both orders gives the same P. -/
theorem test_accumulate_fold : (let big : Ex := { p := 12 }
      let small : Ex := { p := 3, e := -70 }
      let ab := (({} : Accum).addTerm big).1.addTerm small
      let ba := (({} : Accum).addTerm small).1.addTerm big
    ab.1.a = 3 ∧ ba.1.a = 3 ∧ ab.1.p = 12 * 2 ^ 61 ∧ ba.1.p = 12 * 2 ^ 61 ∧ ab.2 = flFold + flInexact ∧ ba.2 = flFold + flInexact) := by decide
/-- R56, worked address: physical offset 0x0523_4440 lies in bank 37, row 0x5234, and share offset 0x0123_4440 leads there. -/
theorem test_store_address : bankOf 0x5234440 = 37 ∧ rowOf 0x5234440 = 0x5234
    ∧ (granulesOf (BitVec.ofNat 256 (0xFF * 2 ^ 8 + 0xFF * 2 ^ 40)))[9]? = some 41 := by decide
/-- Worked route: T05 to M13 takes 7 hops and 2 bridges, the reply 10 and 2. -/
theorem test_route : defaultRoute (tileRouter 5) (portRouter 13) = (7, 2) ∧ defaultRoute (portRouter 13) (tileRouter 5) = (10, 2) := by decide
/-- Worked encoding of `mma k1, td2, td0, td1, g9, clr, drn` with E4M3 throughout. -/
theorem test_decode_mma : (let w : Word := 0x6001002000000000
    let x : Word := 0xE1480631E0000000
    wClass w = 6 ∧ wOp w = 0 ∧ wRA w = 2 ∧ wRB w = 0 ∧ wRC w = 1 ∧ tnDec w x = true ∧ xKD x = 1 ∧ tnGD x = 9 ∧ tnFA x = 3 ∧ tnFB x = 3
      ∧ tnFD x = 3 ∧ tnClear x = true ∧ tnDrain x = true) := by decide
/-- Worked loop close: `cmp p2, g5, 45, LT` and `(p2) br −6` at 0x0130; the branch is taken below 45 and not at 45. -/
theorem test_loop_close : (let at5 := fun v p pc => onCore fun c => { c with g := [(5, v)], p := p, pc := pc }
    let cmpTo := fun v => ((nextOf (exec (.cmp 0 0x0C0114140000002D) (at5 v 0 0x128))).tile 0).core
    (cmpTo 44).getP 2 = true ∧ (cmpTo 45).getP 2 = false ∧ (cmpTo 44).pc = 0x130
      ∧ ((nextOf (exec (.br 0 0x1040001FFFFFFFFA) (at5 0 4 0x130))).tile 0).core.pc = 0x100
      ∧ ((nextOf (exec (.br 0 0x1040001FFFFFFFFA) (at5 0 0 0x130))).tile 0).core.pc = 0x138) := by decide

/-! ### Single steps -/

/-- g1 of tile 0 after a one-word row on `live` with g2 and g3. -/
def g1After (i : Instr) (a b : Word) : Word := ((nextOf (exec i (onCore fun c => { c with g := [(2, a), (3, b)] }))).tile 0).core.getG 1

/-- R205: sums wrap, shifts take six bits, a zero divisor gives all ones and the dividend, mulhu the high half. -/
theorem test_alu : g1After (.add 0 (word 0 0 1 2 3 0)) 0xFFFFFFFFFFFFFFFF 2 = 1 ∧ g1After (.sub 0 (word 0 1 1 2 3 0)) 0 1 = 0xFFFFFFFFFFFFFFFF
    ∧ g1After (.shl 0 (word 0 5 1 2 3 0)) 1 65 = 2 ∧ g1After (.sra 0 (word 0 7 1 2 3 0)) 0x8000000000000000 63 = 0xFFFFFFFFFFFFFFFF
    ∧ g1After (.mulhu 0 (word 0 9 1 2 3 0)) 0xFFFFFFFFFFFFFFFF 2 = 1 ∧ g1After (.divu 0 (word 0 0xA 1 2 3 0)) 7 0 = 0xFFFFFFFFFFFFFFFF
    ∧ g1After (.remu 0 (word 0 0xB 1 2 3 0)) 7 0 = 7 ∧ g1After (.divu 0 (word 0 0xA 1 2 3 0)) 7 2 = 3 := by decide
/-- The row's second source is the 36-bit immediate when bit 36 is set; li takes 37 bits, sign-extended. -/
theorem test_immediates : g1After (.add 0 (word 0 0 1 2 0 0x1FFFFFFFFF)) 5 0 = 4 ∧ g1After (.li 0 (word 0 0xD 1 0 0 0x1FFFFFFFFF)) 0 0 = 0xFFFFFFFFFFFFFFFF := by
  decide
/-- R170: a write of g0 is discarded and g0 reads zero. -/
theorem test_g0 : ((nextOf (exec (.li 0 (word 0 0xD 0 0 0 7)) live)).tile 0).core.getG 0 = 0 := by decide
/-- A store is little-endian and a load reads it back with its sign. -/
theorem test_store_load : (let s := nextOf (exec (.st16 0 (word 2 8 2 0 0 0x100)) (onCore fun c => { c with g := [(2, 0x12F0)] }))
    s.peek (tsAddr 0 0x100) = 0xF0 ∧ s.peek (tsAddr 0 0x101) = 0x12
      ∧ ((nextOf (exec (.loadDataReturn 0 .ok []) (nextOf (exec (.ldS8 0 (word 2 4 1 0 0 0x100)) s)))).tile 0).core.getG 1 = 0xFFFFFFFFFFFFFFF0) := by
  decide
/-- R12, R11: the high half of a counter's CLEAR zeroes it, and a row on an absent slot changes nothing. -/
theorem test_register_clear : ((nextOf (exec (.storeErrClear 0 .hi 0x80000000) (onTile fun t => { t with ce := 3, ue := 2 }))).tile 0).ce = 0
    ∧ ((nextOf (exec (.storeErrClear 0 .lo 0x80000000) (onTile fun t => { t with ce := 3 }))).tile 0).ce = 3 := by decide
/-- A NOP consumed from the buffer joins the commands, starts and ends with its record counted. -/
theorem test_nop : (let s := onQueue fun q => { q with buf := [(0, 0)] }
    let a := nextOf (exec (.commandConsume 1 []) s)
    let b := nextOf (exec (.commandStart 1) a)
    (a.queue 1).consumed = 1 ∧ (a.queue 1).written = 0 ∧ ((nextOf (exec (.nop 1 0) b)).queue 1).written = 1
      ∧ ((nextOf (exec (.nop 1 0) b)).queue 1).cmds = []) := by decide
/-- A misaligned load takes the ALIGN trap, which stops the kernel with status TRAP. -/
theorem test_align_trap : ((nextOf (exec (.ldU16 0 (word 2 1 1 0 0 1)) live)).tile 0).core.stop.map (·.trap) = some 3 := by decide
/-- A second write of the mailbox while BUSY is discarded and counted. -/
theorem test_mailbox_busy : (nextOf (exec (.ctxQuiesce .full 0x100000004) { live with hif := { live.hif with busy := some ⟨8, 1, 0, false, []⟩ } })).hif.mgmtDisc = 1 := by
  decide
/-- No row of the table gives bits, so no word spells a command and the queue stays. -/
theorem test_no_word : decodeTableWord 8 0 = none ∧ (live.withFetchWord 8 0).pending = [] := by decide

/-! ### Witnesses of the conditions on gates, and of the statements of completion -/

theorem test_wit_gates : live.xingRuns 0 = true ∧ live.mgmtOpen = true
    ∧ ({ live with xings := [(0, { st := 4 }), (1, { st := 4 })] } : State).xingRuns 0 = false
    ∧ ({ live with xings := [(0, { st := 4 }), (1, { st := 4 })] } : State).mgmtOpen = false := by decide
theorem test_wit_DomainVotesAndBar4_waits : (let s : State := { live with hif := { live.hif with bar4Open := true, bar4Tile := 1 } }
      s.windowOpen = true ∧ s.spotRes (.dev (tsAddr 1 0) none) = .ok ∧ (s.dom 1).st ≠ 2 ∧ s.pwr.shut = false)
    ∧ (let s : State := { (live.setTile 0 { tile0 with refusing := true }) with hif := { live.hif with bar4Open := true } }
       s.windowOpen = true ∧ s.spotRes (.dev (tsAddr 0 0) none) ≠ .ok)
    ∧ (let s : State := { live with hif := { live.hif with bar4Open := true } }
       (s.dom 0).st = 2 ∧ s.movesShares 0 = false ∧ s.inBist 0 = false ∧ s.badLines.contains (tsAddr 0 0 / 64) = false)
    ∧ (let s : State := { onTile fun t => { t with noLaunch := true } with stone := { live.stone with inTurn := [0] } }
       (s.setCore 0 {}).inBist 0 = true) ∧ ({ live with pwr := { live.pwr with shut := true } } : State).pwr.shut = true := by decide
theorem test_wit_Loads_held : (let l := live.vaSpots 0 0 8
      live.coreQueued 0 l = false ∧ live.meetsFailed (tileRouter 0) l = false ∧ live.asleep 0 l = [] ∧ live.portsAway l = [])
    ∧ ({ live with bram := { live.bram with paused := true } } : State).coreQueued 0 [.dev (tsAddr 1 0) none] = true
    ∧ (live.tile 0).core.loadCut = false
    ∧ ({ live with bram := { live.bram with routers := [(tileRouter 1, 3)] } } : State).meetsFailed (tileRouter 0) [.dev (tsAddr 1 0) none] = true := by
  decide
theorem test_wit_SyncInstructions_reads : live.coreWaits 0 (live.vaSpots 0 0 64) = false ∧ live.readRes (live.vaSpots 0 0 64) = .ok
    ∧ live.coreWaits 0 [.dev (tsAddr 1 0) none] = true ∧ (live.runCtx 0).getD 0 = 1 := by decide
theorem test_wit_Queues_held : live.freezeHolds 1 = false ∧ live.freezes 1 = false
    ∧ (onBunch fun b => { b with freezing := some [0] }).freezeHolds 1 = true
    ∧ (let c := { cmd0 1 (7 * 2 ^ 64) with started := true }
       let s := (withCmd c).setBunch 0 { live.bunch 0 with lost := [0] }
       s.startedCmd 1 3 1 = some c ∧ s.scopeLost c.raw = true)
    ∧ (withCmd (move0 2)).unresolved false .ok = false := by decide
theorem test_wit_ContextImages_save : (let s : State := { (live.setTile 0 { tile0 with slots := [] }).setCtx 1 { live.ctx 1 with st := 2 } with
        hif := { live.hif with busy := some ⟨8, 1, 0, true, []⟩ } }
      s.hif.busy = some ⟨8, 1, 0, true, []⟩ ∧ s.moveRes (s.saveReads 1) [] .ok = .ok) ∧ tile0.swaps' 1 = false := by decide
theorem test_wit_Completion_tile : (let s := onTile fun t => { t with clearing := [(1, none)] }
      goesOn (exec (.writtenBitClearDone 0) s) = true)
    ∧ goesOn (exec (.kernelBoundary 0) (onCore fun c => { c with stall := .exit })) = true
    ∧ goesOn (exec (.coreLockstep 0) live) = true ∧ goesOn (exec (.patrolScrub 0 1 .ok) (live.poke (tsAddr 0 64) 1)) = true
    ∧ goesOn (exec (.watchdogExpire 0) { live with time := 200 }) = true
    ∧ goesOn (exec (.watchdogEscalate 0) (onCore fun c => { c with stop := some { status := 7, trap := 7 } })) = true
    ∧ goesOn (exec (.handshakeStall 0) live) = true ∧ goesOn (exec (.endpointPacketArrival 1) live) = true
    ∧ goesOn (exec (.demandIdleTimeout 5) live) = true ∧ goesOn (exec (.tileReset 0) live) = true := by decide
theorem test_wit_Completion_engines : (let s := issuing.setCore 0 { (issuing.tile 0).core with stall := .queue (words 14 0).1 (words 14 0).2 }
      let u := s.setCore 0 { (s.tile 0).core with stall := .none }
      (s.tile 0).engineFull (engineOf (words 14 0).1 (words 14 0).2) = false ∧ mayRow u 14 0 = true ∧ goesOn (exec (.engineSlotFree 0) s) = true)
    ∧ (let o := { opOf 3 (word 4 0 2 0 1 0) with ga := 4096, gb := 0, gc := 64, ge := 8192 }
       goesOn (exec (.moverOpComplete 0 0 .ok [] []) (withOp o)) = true)
    ∧ (let s := onCore fun c => { c with comps := [(7, { armed := true })] }
       goesOn (exec (.pacerComparatorFire 0 7) s) = true)
    ∧ (let s := ((live.setTile 1 { refusing := true }).setDom 1 { st := 2 }).setCore 0 { tile0.core with stall := .load false 5 8 false 0 }
       s.spotRes (.dev (tsAddr 1 0) none) = .refused) := by decide
theorem test_wit_Completion_messages : ∀ cls ∈ [1, 2, 3, 4, 5, 6, 7, 8, 9, 10, 11, 12, 13, 14, 15, 16],
    Reaches idle (msgOf cls) 0 ⟨0, 0, 0⟩ ⟨0, 0, 0⟩ ∧ Arrives idle (msgOf cls) .ok := by unfold Reaches Arrives; decide
theorem test_wit_Completion_links : goesOn (exec (.trainingTimeout 0) (onQuad fun q => { q with st := 2 })) = true
    ∧ goesOn (exec (.ackTimeout 0) (onQuad fun q => { q with st := 3, retry := [0] })) = true
    ∧ (let s := (onQuad fun q => { q with st := 3 }).setXing 32 { st := 1 }
       s.quadUp 0 = true ∧ crcGood (mkFlit (2 ^ 28) 0) = true ∧ fTYPE (mkFlit (2 ^ 28) 0) = 1 ∧ fSEQ (mkFlit (2 ^ 28) 0) = (s.quad 0).rxSeq)
    ∧ goesOn (exec (.heartbeatSend 7) (onBunch fun b => { b with map := [⟨0, 0, 0⟩, ⟨1, 0, 0⟩], alive := [1] })) = true
    ∧ goesOn (exec (.heartbeatLoss 7 1) (onBunch fun b => { b with map := [⟨0, 0, 0⟩, ⟨1, 0, 0⟩], alive := [1] })) = true
    ∧ goesOn (exec (.epochHoldExpire 7) (onBunch fun b => { b with heldMsgs := [msg0] })) = true
    ∧ goesOn (exec (.earlyMessageTimeout 0) (onTile fun t => { t with early := [{ msg0 with src := 5 }] })) = true
    ∧ (let o := { opOf 2 (words 26 0).1 with unans := [{ dst := 0, seq := 9, cls := 3 }] }
       ((withOp o).tile 0).sentWith 9 = some (o, { dst := 0, seq := 9, cls := 3 })) := by decide
theorem test_wit_Completion_power : goesOn (exec (.vinRange 0) live) = true ∧ vinOk 0 = false
    ∧ goesOn (exec (.vddLow 0) live) = true ∧ goesOn (exec (.regulator 0) live) = true
    ∧ goesOn (exec (.i3cAddressAssign 5) live) = true ∧ goesOn (exec (.calibrationWindow 0 1000 1 0 0) live) = true
    ∧ ({ live with pwr := { live.pwr with capUnmet := true } } : State).overCap = false
    ∧ live.sampleOk [(0, 400)] = true ∧ (∀ p ∈ [(0, (400 : Int))], sensorBad [(0, 400)] p.1 p.2 = false) := by decide
theorem test_wit_Completion_units : ((onPort 2).port 0).st = 2 ∧ (onPort 2).hasPort 0 = true
    ∧ goesOn (exec (.zqCalibration 0) (onPort 2)) = true ∧ goesOn (exec (.memportFailed 0) (onPort 2)) = true
    ∧ goesOn (exec (.pcieLinkTrained 5 16 true) { live with hif := { live.hif with link := false } }) = true
    ∧ goesOn (exec .railsUp { live with boot := { live.boot with step := 2 } }) = true
    ∧ goesOn (exec .powerCycle { live with stone := { live.stone with cycleReq := true } }) = true
    ∧ live.groupPresent 0 = true ∧ ({ live with boot := { live.boot with step := 1 } } : State).sec.noBank = false := by decide
theorem test_wit_Completion_crossings : (let s := live.setXing 16 { st := 2, reqCore := true }
      s.hasXing 16 = true ∧ (s.xing 16).reqCore = true ∧ goesOn (exec (.resyncReq 16 false 0) s) = true)
    ∧ goesOn (exec (.resyncDone 16 false) (live.setXing 16 { st := 2, doneIsland := true })) = true
    ∧ goesOn (exec (.clockStopped 16) (live.setXing 16 { st := 1 })) = true
    ∧ goesOn (exec (.clockReturn 16) (live.setXing 16 { st := 4 })) = true
    ∧ goesOn (exec (.xingClockLost 16) (live.setXing 16 { st := 4 })) = true
    ∧ live.wanted 140 ≤ 1 ∧ goesOn (exec (.islandReset 16) live) = true := by decide
/-- Each management command that needs no more than an accepted frame completes on `live`. -/
theorem test_wit_Completion_commands : ∀ c ∈ [Instr.setPerfMode frame0 true, .setOrchCap frame0 900, .setVcArb frame0 none 0x0008080800000112,
      .setPowerPolicy frame0 7 true, .setBankKeep frame0 0 3, .rowAcknowledge frame0 [0], .selftestRequest frame0 0,
      .close frame0, .credClear frame0 1, .fwTrial frame0, .fwCommit frame0 false, .maintEnter frame0, .maintLeave frame0,
      .freeze frame0 7, .bunchReset frame0 7, .keyAgreeBegin frame0, .portDisable frame0 0, .unclaim frame0, .halt frame0 7],
    goesOn (exec c live) = true := by decide
theorem test_wit_Completion_changes : (let w := (two 1).takeFrame frame0
      w.unitsOn (w.changeUnits (.activate 8)) = false) ∧ (let w := ((two 1).setDom 1 { st := 2 }).setDom 69 { st := 2 }
      w.unitsOn (w.changeUnits (.activate 8)) = true ∧ w.keyReady 8 = true ∧ goesOn (exec (.bunchActivate frame0 8) w) = true)
    ∧ changeOf (.bunchActivate frame0 8) = some (frame0, .activate 8)
    ∧ live.turnBusy 0 = false ∧ live.spares = [] := by decide
theorem test_wit_Completion_control : (∀ c ∈ [Instr.mgcKick, .hostifHeartbeat, .mgcWatchdog, .hostifWatchdog, .stoneLockstep,
      .pacerFreqWindow 4096 4000 0, .sessionIdleTimeout 1, .hello 0 0], goesOn (exec c live) = true)
    ∧ (let s : State := { live with stone := { live.stone with reacts := [react0 0] } }
       goesOn (exec (.escalation 2) s) = true)
    ∧ (let s : State := { live.setTile 5 { role := 2 } with stone := { live.stone with inTurn := [5] } }
       goesOn (exec (.rotationSelftestDone 5 true) s) = true)
    ∧ (let s : State := { live with sec := { live.sec with slots := [(0, { cred := some (.key 5), locked := true })] } }
       goesOn (exec (.slotLockExpire 0) s) = true) := by decide
/-- An image that the module takes: its digest is that of its payload. -/
theorem test_wit_Firmware_image : ∃ x, live.imageOk x = true :=
  ⟨{ kind := 6, svn := 0, version := 1, digest := Config.shake256 [], sigOk := true },
    by simp [State.imageOk, headerOk, live, State.reset]⟩

end Sys2Proof.Tests
end

section
/-! PROOFS. What a host write of a register does to the bits it carries (R10, R11), and the rows of a tile's and a
unit's registers (R71 to R73, R252, R278, R382, R397, R402, R434). -/

namespace Sys2Proof.Machine

open Sys2Proof.Claims

/-! ### Halves of a register (R11) -/

theorem getLsbD_lowMask (i : Nat) : (0xFFFFFFFF#64).getLsbD i = decide (i < 32) := by
  rw [show 0xFFFFFFFF#64 = (BitVec.allOnes 32).setWidth 64 from rfl, BitVec.getLsbD_setWidth, BitVec.getLsbD_allOnes]
  grind

theorem getLsbD_highMask (i : Nat) : (0xFFFFFFFF00000000#64).getLsbD i = (decide (i < 64) && !decide (i < 32)) := by
  rw [show 0xFFFFFFFF00000000#64 = ~~~0xFFFFFFFF#64 from rfl, BitVec.getLsbD_not, getLsbD_lowMask]

theorem merged_getLsbD_lo (old v : Word) (i : Nat) :
    (merged .lo old v).getLsbD i = if i < 32 then v.getLsbD i else old.getLsbD i := by
  simp only [merged, BitVec.getLsbD_append, BitVec.getLsbD_extractLsb']
  grind

theorem merged_getLsbD_hi (old v : Word) (i : Nat) (hi : i < 64) :
    (merged .hi old v).getLsbD i = if i < 32 then old.getLsbD i else v.getLsbD (i - 32) := by
  have hs : i - 32 < 32 := by omega
  simp only [merged, BitVec.getLsbD_append, BitVec.getLsbD_extractLsb', hs]
  grind

theorem mergeHalf_eq_merged (acc : Acc) (old v : Word) : mergeHalf acc old v = merged acc old v := by
  refine BitVec.eq_of_getLsbD_eq fun i hi => ?_
  cases acc with
  | full => rfl
  | lo =>
    simp only [mergeHalf, merged_getLsbD_lo, BitVec.ofNat_eq_ofNat, BitVec.getLsbD_or, BitVec.getLsbD_and,
      getLsbD_lowMask, getLsbD_highMask]
    grind
  | hi =>
    rw [show mergeHalf .hi old v = (old &&& 0xFFFFFFFF#64) ||| (v <<< 32) from rfl, merged_getLsbD_hi old v i hi]
    simp only [BitVec.getLsbD_or, BitVec.getLsbD_and, getLsbD_lowMask, BitVec.getLsbD_shiftLeft]
    grind

theorem halfBits_getLsbD (acc : Acc) (v : Word) (i : Nat) (hi : i < 64) : (halfBits acc v).getLsbD i = wrote acc v i := by
  rw [halfBits, mergeHalf_eq_merged]
  cases acc with
  | full => rfl
  | lo => rw [merged_getLsbD_lo, wrote, BitVec.ofNat_eq_ofNat, BitVec.getLsbD_zero]; grind
  | hi => rw [merged_getLsbD_hi 0 v i hi, wrote, BitVec.ofNat_eq_ofNat, BitVec.getLsbD_zero]; grind

theorem clearBit_eq_wrote (acc : Acc) (v : Word) : clearBit acc v = wrote acc v 63 :=
  halfBits_getLsbD acc v 63 (by decide)

theorem fld_zero (x n : Nat) : fld x 0 n = x % 2 ^ n := rfl

theorem fld_eq (x lo n : Nat) : fld x lo n = x / 2 ^ lo % 2 ^ n := by rw [fld, Nat.shiftRight_eq_div_pow]

theorem merged_lo_toNat_mod (old v : Word) : (merged .lo old v).toNat % 2 ^ 32 = v.toNat % 2 ^ 32 := by
  have h : (merged .lo old v).setWidth 32 = v.setWidth 32 := by
    refine BitVec.eq_of_getLsbD_eq fun i hi => ?_
    simp only [BitVec.getLsbD_setWidth, merged_getLsbD_lo, hi, if_true]
  simpa using congrArg BitVec.toNat h

theorem merged_hi_toNat_mod (old v : Word) : (merged .hi old v).toNat % 2 ^ 32 = old.toNat % 2 ^ 32 := by
  have h : (merged .hi old v).setWidth 32 = old.setWidth 32 := by
    refine BitVec.eq_of_getLsbD_eq fun i hi => ?_
    rw [BitVec.getLsbD_setWidth, merged_getLsbD_hi old v i (by omega), if_pos hi, BitVec.getLsbD_setWidth]
  simpa using congrArg BitVec.toNat h

/-! ### A host access while the host interface is ready and crossing 0 runs (R427, R505) -/

theorem mmio_taken {s : State} (hr : s.hif.ready = true) (hx : s.xingRuns 0 = true) (k : State → State) :
    mmio s k = .next (k s) := by
  simp [mmio, hr, hx]

/-- A row that the host's access alone makes happen takes its effect. -/
theorem exec_of_mmio {s : State} (hr : s.hif.ready = true) (hx : s.xingRuns 0 = true) {c : Sys2Proof.Instr}
    (k : State → State) (h : exec c s = mmio s k) : exec c s = .next (k s) := h.trans (mmio_taken hr hx k)

/-! ### A tile's registers -/

/-- The W1C bits of SLOT_FLAGS that stay set: those not written one (R11, R72). -/
theorem getLsbD_clearFlags (flags : BitVec 16) (acc : Acc) (v : Word) (k : Nat) (hk : k < 16) :
    (flags &&& ~~~((halfBits acc v).setWidth 16)).getLsbD k = (flags.getLsbD k && !wrote acc v k) := by
  simp [hk, halfBits_getLsbD acc v k (by omega)]

theorem State.writeSlotFlags_valid {s : State} {t i : Nat} (h : s.hasTile t ∧ i < 16 ∧ ((s.tile t).slot i).valid = true)
    (acc : Acc) (v : Word) : s.writeSlotFlags t i acc v = s.setTile t ((s.tile t).setSlot i
      { (s.tile t).slot i with flags := ((s.tile t).slot i).flags &&& ~~~((halfBits acc v).setWidth 16) }) := by
  obtain ⟨ht, hi, hv⟩ := h
  simp [State.writeSlotFlags, ht, hi, hv]

theorem State.writeSlotDeadline_valid {s : State} {t i : Nat}
    (h : s.hasTile t ∧ i < 16 ∧ ((s.tile t).slot i).valid = true) (acc : Acc) (v : Word) :
    s.writeSlotDeadline t i acc v = s.setTile t ((s.tile t).setSlot i
      { (s.tile t).slot i with deadline := merged acc ((s.tile t).slot i).deadline v }) := by
  obtain ⟨ht, hi, hv⟩ := h
  simp [State.writeSlotDeadline, ht, hi, hv, mergeHalf_eq_merged]

theorem State.writeSlotFlags_absent {s : State} {t i : Nat}
    (h : ¬(s.hasTile t ∧ i < 16 ∧ ((s.tile t).slot i).valid = true)) (acc : Acc) (v : Word) :
    s.writeSlotFlags t i acc v = s := by
  unfold State.writeSlotFlags
  exact if_neg (by simpa [and_assoc] using h)

theorem State.writeSlotDeadline_absent {s : State} {t i : Nat}
    (h : ¬(s.hasTile t ∧ i < 16 ∧ ((s.tile t).slot i).valid = true)) (acc : Acc) (v : Word) :
    s.writeSlotDeadline t i acc v = s := by
  unfold State.writeSlotDeadline
  exact if_neg (by simpa [and_assoc] using h)

/-! ### HOST_CAP (R402, R421) -/

theorem fld_mergeHalf_low16 (acc : Acc) (old v : Word) (h : acc ≠ .hi) :
    fld (mergeHalf acc old v).toNat 0 16 = v.toNat % 65536 := by
  rw [fld_zero, mergeHalf_eq_merged]
  cases acc with
  | full => rfl
  | lo => have := merged_lo_toNat_mod old v; omega
  | hi => exact absurd rfl h

theorem State.writeHostCap_low (s : State) (acc : Acc) (v : Word) (h : acc ≠ .hi) :
    s.writeHostCap acc v = { s with pwr := { s.pwr with
      hostCap := if v.toNat % 65536 = 0 then 0 else s.clampCap (v.toNat % 65536) } } := by
  rw [State.writeHostCap, fld_mergeHalf_low16 _ _ _ h]

/-- The high half of PWR_CAP holds no bit of HOST_CAP: a cap that is 0 or within the limits is written back as it was. -/
theorem State.writeHostCap_high (s : State) (v : Word)
    (h : s.pwr.hostCap = 0 ∨ (s.pwr.hostCap < 65536 ∧ s.clampCap s.pwr.hostCap = s.pwr.hostCap)) :
    s.writeHostCap .hi v = s := by
  have hw : fld (mergeHalf .hi (BitVec.ofNat 64 s.pwr.hostCap) v).toNat 0 16 = s.pwr.hostCap := by
    have hm := merged_hi_toNat_mod (BitVec.ofNat 64 s.pwr.hostCap) v
    rw [BitVec.toNat_ofNat] at hm
    rw [fld_zero, mergeHalf_eq_merged]
    omega
  have hc : (if s.pwr.hostCap = 0 then 0 else s.clampCap s.pwr.hostCap) = s.pwr.hostCap := by
    split
    · next h0 => exact h0.symm
    · next h0 => exact (h.resolve_left h0).2
  rw [State.writeHostCap, hw, hc]

/-! ### The rows of the registers, one by one -/

section
variable {s : State} (hr : s.hif.ready = true) (hx : s.xingRuns 0 = true)
include hr hx

theorem exec_storeErrClear (t : Nat) (acc : Acc) (v : Word) : exec (.storeErrClear t acc v) s = .next
    (if s.hasTile t && wrote acc v 63 then s.setTile t { s.tile t with ce := 0, ue := 0 } else s) :=
  (exec_of_mmio hr hx (·.writeStoreErr t acc v) rfl).trans (by simp only [State.writeStoreErr, clearBit_eq_wrote])

theorem exec_schedStatusClear (t : Nat) (acc : Acc) (v : Word) : exec (.schedStatusClear t acc v) s = .next
    (if s.hasTile t && wrote acc v 63 then s.setTile t { s.tile t with swaps := 0, overBudget := 0, watchdogs := 0 }
     else s) :=
  (exec_of_mmio hr hx (·.writeSched t acc v) rfl).trans (by simp only [State.writeSched, clearBit_eq_wrote])

theorem exec_mpErrClear (i : Nat) (acc : Acc) (v : Word) : exec (.mpErrClear i acc v) s = .next
    (if s.hasPort i && wrote acc v 63 then s.setPort i { s.port i with ce := 0, ue := 0 } else s) :=
  (exec_of_mmio hr hx (·.writeMpErr i acc v) rfl).trans (by simp only [State.writeMpErr, clearBit_eq_wrote])

theorem exec_lossClear (acc : Acc) (v : Word) : exec (.lossClear acc v) s = .next
    (if wrote acc v 63 then { s with bram := { s.bram with refused := 0, retried := 0, discarded := 0 } } else s) :=
  (exec_of_mmio hr hx (·.writeLoss acc v) rfl).trans (by simp only [State.writeLoss, clearBit_eq_wrote])

theorem exec_rnErrClear (i : Nat) (acc : Acc) (v : Word) : exec (.rnErrClear i acc v) s = .next
    (if s.hasRunner i && wrote acc v 63 then
       s.setRunner i { s.runner i with integrity := 0, duplicates := 0, protocol := 0 } else s) :=
  (exec_of_mmio hr hx (·.writeRnErr i acc v) rfl).trans (by simp only [State.writeRnErr, clearBit_eq_wrote])

theorem exec_xingStateClear (i : Nat) (acc : Acc) (v : Word) : exec (.xingStateClear i acc v) s = .next
    (if s.hasXing i && wrote acc v 63 then s.setXing i { s.xing i with resyncs := 0, dropped := 0 } else s) :=
  (exec_of_mmio hr hx (·.writeXing i acc v) rfl).trans (by simp only [State.writeXing, clearBit_eq_wrote])

/-- SLOT_FLAGS and SLOT_DEADLINE of a slot: both writes take effect on a VALID slot of a present tile only (R72, R73). -/
theorem exec_slotRows (t i : Nat) (acc : Acc) (v : Word) :
    if s.hasTile t ∧ i < 16 ∧ ((s.tile t).slot i).valid = true then
      (∃ f, exec (.slotFlagsW1c t i acc v) s
          = .next (s.setTile t ((s.tile t).setSlot i { (s.tile t).slot i with flags := f }))
        ∧ ∀ k, k < 16 → f.getLsbD k = (((s.tile t).slot i).flags.getLsbD k && !wrote acc v k))
      ∧ exec (.slotDeadlineWrite t i acc v) s = .next (s.setTile t ((s.tile t).setSlot i
          { (s.tile t).slot i with deadline := merged acc ((s.tile t).slot i).deadline v }))
    else exec (.slotFlagsW1c t i acc v) s = .next s ∧ exec (.slotDeadlineWrite t i acc v) s = .next s := by
  have hf : exec (.slotFlagsW1c t i acc v) s = .next (s.writeSlotFlags t i acc v) :=
    exec_of_mmio hr hx (·.writeSlotFlags t i acc v) rfl
  have hd : exec (.slotDeadlineWrite t i acc v) s = .next (s.writeSlotDeadline t i acc v) :=
    exec_of_mmio hr hx (·.writeSlotDeadline t i acc v) rfl
  split
  · next h =>
    refine ⟨⟨_, hf.trans (by rw [State.writeSlotFlags_valid h]), getLsbD_clearFlags _ acc v⟩, ?_⟩
    rw [hd, State.writeSlotDeadline_valid h]
  · next h => rw [hf, hd, State.writeSlotFlags_absent h, State.writeSlotDeadline_absent h]; exact ⟨rfl, rfl⟩

end

/-- Settles O8: every row is the write of its own register, which the lemmas above give row by row. -/
theorem tileAndUnitRegisterWrites : Obligations.TileAndUnitRegisterWrites := by
  unfold Obligations.TileAndUnitRegisterWrites
  refine ⟨fun s t i acc v hr hx => ⟨exec_slotRows hr hx t i acc v, exec_storeErrClear hr hx t acc v,
    exec_schedStatusClear hr hx t acc v⟩, fun s i acc v hr hx => ⟨exec_mpErrClear hr hx i acc v,
    exec_lossClear hr hx acc v, exec_rnErrClear hr hx i acc v, exec_xingStateClear hr hx i acc v, ?_, ?_⟩⟩
  · exact fun h => (exec_of_mmio hr hx (·.writeHostCap acc v) rfl).trans (by rw [State.writeHostCap_low s acc v h])
  · rintro rfl h
    exact (exec_of_mmio hr hx (·.writeHostCap .hi v) rfl).trans (by rw [State.writeHostCap_high s v h])

end Sys2Proof.Machine
end

section
/-! PROOFS. The writes of BAR0 by offset (R11, R281, R319) and the mailbox's protocol (R305, R306). -/

namespace Sys2Proof.Machine

open Sys2Proof.Claims

/-! ### The mailbox: what a write of MGMT_CMD does (R305) -/

theorem State.writeMgmtCmd_hi (s : State) (v : Word) :
    s.writeMgmtCmd .hi v = { s with hif := { s.hif with index := BitVec.ofNat 32 v.toNat } } := by
  have hv : BitVec.ofNat 32 (fld v.toNat 0 32) = BitVec.ofNat 32 v.toNat := BitVec.eq_of_toNat_eq (by simp [fld_zero])
  rw [State.writeMgmtCmd, if_pos rfl, hv]

theorem State.writeMgmtCmd_busy (s : State) {acc : Acc} (v : Word) (ha : acc ≠ .hi) (hb : s.hif.busy ≠ none) :
    s.writeMgmtCmd acc v = { s with hif := { s.hif with mgmtDisc := min 0xFFFF (s.hif.mgmtDisc + 1) } } := by
  rw [State.writeMgmtCmd, if_neg ha, if_pos (Option.isSome_iff_ne_none.2 hb), satAdd]

/-- INDEX of an operation issued now, as the 32-bit register holds it. -/
def issuedIndex (s : State) (acc : Acc) (v : Word) : BitVec 32 :=
  if acc = .full then BitVec.ofNat 32 (fld v.toNat 32 32) else s.hif.index

theorem issuedIndex_toNat (s : State) (acc : Acc) (v : Word) : (issuedIndex s acc v).toNat = indexOf s acc v := by
  have := v.isLt
  unfold issuedIndex indexOf
  split
  · rw [BitVec.toNat_ofNat, fld_eq]; omega
  · rfl

theorem issuedIndex_eq (s : State) (acc : Acc) (v : Word) : issuedIndex s acc v = BitVec.ofNat 32 (indexOf s acc v) := by
  rw [← issuedIndex_toNat, BitVec.ofNat_toNat, BitVec.setWidth_eq]

theorem indexOf_lt (s : State) (acc : Acc) (v : Word) : indexOf s acc v < 2 ^ 32 := by
  rw [← issuedIndex_toNat]; exact (issuedIndex s acc v).isLt

/-- The operation that the model reads from the written half and INDEX is the one that the statements name. -/
theorem mgmtOf_eq (s : State) (acc : Acc) (v : Word) :
    ({ op := fld (fld v.toNat 0 32) 0 8, idx := fld (issuedIndex s acc v).toNat 0 18, sub := fld (fld v.toNat 0 32) 8 4
       irq := (fld v.toNat 0 32).testBit 31, args := (List.range 4).map (fun i => tget 0 s.hif.args i) } : Mgmt)
      = mgmtOf s acc v := by
  have hi : (v.toNat % 2 ^ 32).testBit 31 = v.getLsbD 31 := by
    rw [Nat.testBit_mod_two_pow]; simp [BitVec.getLsbD]
  simp only [mgmtOf, issuedIndex_toNat, fld_eq, Mgmt.mk.injEq, pow_zero, Nat.div_one, hi, and_true, true_and]
  omega

theorem reservedSet_iff (s : State) (acc : Acc) (v : Word) :
    reservedSet s acc v ↔ (fld (fld v.toNat 0 32) 12 19 != 0 || fld (issuedIndex s acc v).toNat 18 14 != 0) = true := by
  have := indexOf_lt s acc v
  simp only [reservedSet, issuedIndex_toNat, fld_eq, pow_zero, Nat.div_one, Bool.or_eq_true, bne_iff_ne]
  omega

/-- What a write that issues an operation does: BUSY is set, and the operation fails at once or is performed. -/
theorem State.writeMgmtCmd_issue (s : State) {acc : Acc} (v : Word) (ha : acc ≠ .hi) (hb : s.hif.busy = none) :
    s.writeMgmtCmd acc v =
      if fld (fld v.toNat 0 32) 12 19 != 0 || fld (issuedIndex s acc v).toNat 18 14 != 0 then
        (issued s acc v).mboxEnd stBadArg 0
      else if s.mgcAway then issued s acc v else (issued s acc v).mboxRun (mgmtOf s acc v) := by
  have hs : ¬s.hif.busy.isSome = true := by simp [hb]
  rw [State.writeMgmtCmd, if_neg ha, if_neg hs, issued, ← issuedIndex_eq, ← mgmtOf_eq]
  rfl

theorem mboxEnd_eq_done (m : Mgmt) (u : State) (st : BitVec 16) (d : BitVec 32) (h : u.hif.busy = some m) :
    u.mboxEnd st d = done m u st d := by
  simp only [State.mboxEnd, done, h]

theorem State.writeMgmtCmd_reserved (s : State) {acc : Acc} (v : Word) (ha : acc ≠ .hi) (hb : s.hif.busy = none)
    (hres : reservedSet s acc v) : s.writeMgmtCmd acc v = done (mgmtOf s acc v) (issued s acc v) 0x14 0 := by
  rw [s.writeMgmtCmd_issue v ha hb, if_pos ((reservedSet_iff s acc v).1 hres)]
  exact mboxEnd_eq_done _ _ _ _ rfl

theorem State.writeMgmtCmd_performs (s : State) {acc : Acc} (v : Word) (ha : acc ≠ .hi) (hb : s.hif.busy = none)
    (hres : ¬reservedSet s acc v) (hm : s.mgcAway = false) :
    s.writeMgmtCmd acc v = (issued s acc v).mboxRun (mgmtOf s acc v) := by
  rw [s.writeMgmtCmd_issue v ha hb, if_neg (mt (reservedSet_iff s acc v).2 hres), hm]
  rfl

/-! ### Operation numbers (R306) -/

theorem State.mboxRun_unlisted (s : State) (m : Mgmt) (h : m.op ∉ knownOps) : s.mboxRun m = s.mboxEnd stBadArg 0 := by
  have hc : ctxOps.contains m.op = false := by
    simp only [knownOps, ctxOps, List.mem_cons, List.contains_eq_mem] at h ⊢
    grind
  unfold State.mboxRun
  rw [hc, Bool.false_and, if_neg Bool.false_ne_true]
  split <;> simp_all [knownOps]

/-- Each mailbox row is a write of MGMT_CMD that spells its operation's number. -/
theorem exec_mailboxRow (acc : Acc) (v : Word) (s : State) :
    ∀ r ∈ mailboxRows acc v, ∃ name, exec r.2 s = mboxRow r.1 name acc v s := by
  intro r hr
  fin_cases hr <;> exact ⟨_, rfl⟩

theorem mailboxRows_ops (acc : Acc) (v : Word) : (mailboxRows acc v).map Prod.fst = knownOps := rfl

/-- A row that the written word spells, or a write of the high half, acts as the write of MGMT_CMD. -/
theorem exec_mailboxRow_next {s : State} (hr : s.hif.ready = true) (hx : s.xingRuns 0 = true) {acc : Acc} {v : Word}
    {r : Nat × Sys2Proof.Instr} (hm : r ∈ mailboxRows acc v) (h : acc = .hi ∨ v.toNat % 256 = r.1) :
    exec r.2 s = .next (s.writeMgmtCmd acc v) := by
  obtain ⟨name, he⟩ := exec_mailboxRow acc v s r hm
  refine exec_of_mmio hr hx (·.writeMgmtCmd acc v) (he.trans ?_)
  rw [mboxRow, if_neg]
  rw [fld_zero]
  rcases h with rfl | h <;> simp [*]

theorem exec_mailboxUnknownOp {s : State} (hr : s.hif.ready = true) (hx : s.xingRuns 0 = true) (acc : Acc) (v : Word)
    (h : v.toNat % 256 ∉ knownOps) : exec (.mailboxUnknownOp acc v) s = .next (s.writeMgmtCmd acc v) := by
  refine exec_of_mmio hr hx (·.writeMgmtCmd acc v) ?_
  have hk : knownOps.contains (fld v.toNat 0 8) = false := by simpa [fld_zero] using h
  change execMailboxUnknownOp acc v s = _
  simp only [execMailboxUnknownOp, hk, Bool.and_false, Bool.false_and, Bool.false_eq_true, if_false]

/-- An operation that no table lists completes with BAD_ARGUMENT, whatever its reserved fields hold. -/
theorem State.writeMgmtCmd_unlisted (s : State) {acc : Acc} (v : Word) (ha : acc ≠ .hi) (hb : s.hif.busy = none)
    (hm : s.mgcAway = false) (h : v.toNat % 256 ∉ knownOps) :
    s.writeMgmtCmd acc v = done (mgmtOf s acc v) (issued s acc v) 0x14 0 := by
  by_cases hres : reservedSet s acc v
  · exact s.writeMgmtCmd_reserved v ha hb hres
  · rw [s.writeMgmtCmd_performs v ha hb hres hm, State.mboxRun_unlisted _ _ h]
    exact mboxEnd_eq_done _ _ _ _ rfl

/-! ### A write to BAR0 by its width and offset (R11, R281) -/

theorem State.writeBar0_misaligned (s : State) (off len : Nat) (v : Word)
    (h : (len ≠ 4 ∧ len ≠ 8) ∨ (len = 4 ∧ off % 4 ≠ 0) ∨ (len = 8 ∧ off % 8 ≠ 0)) : s.writeBar0 off len v = s := by
  unfold State.writeBar0
  rw [if_neg (by simp; omega), if_neg (by simp; omega)]

theorem State.writeReg_identity (s : State) (off : Nat) (acc : Acc) (v : Word) (h : off < 0x100000) :
    s.writeReg off acc v = s := if_pos h

theorem State.writeBar0_identity (s : State) (off len : Nat) (v : Word) (h : off < 0x100000) : s.writeBar0 off len v = s := by
  unfold State.writeBar0
  rw [State.writeReg_identity _ _ _ _ h, State.writeReg_identity _ _ _ _ (by omega), ite_self, ite_self]

theorem State.writeBar0_word (s : State) (off : Nat) (v : Word) (h : off % 8 = 0) :
    s.writeBar0 off 8 v = s.writeReg off .full v := by
  simp [State.writeBar0, h]

theorem State.writeBar0_half (s : State) (off : Nat) (v : Word) (h : off % 4 = 0) : s.writeBar0 off 4 v
    = s.writeReg (off / 8 * 8) (if off % 8 = 0 then .lo else .hi) (v &&& 0xFFFFFFFF) := by
  simp [State.writeBar0, h]

theorem State.writeReg_storeErr (s : State) (t : Nat) (acc : Acc) (v : Word) (ht : t < 68) :
    s.writeReg (0x1000020 + 0x100000 * t) acc v = s.writeStoreErr t acc v := by
  have hm : (0x1000020 + 0x100000 * t - 0x1000000) % 0x100000 = 0x20 := by omega
  have hd : (0x1000020 + 0x100000 * t - 0x1000000) / 0x100000 = t := by omega
  simp only [State.writeReg, hm, hd, if_true]
  rw [if_neg (by omega), if_neg (by omega), if_neg (by omega), if_neg (by omega), if_pos (by omega)]

theorem State.writeReg_mgmtArg (s : State) (i : Nat) (acc : Acc) (v : Word) (hi : i < 4) :
    s.writeReg (0x100100 + 8 * i) acc v = s.writeMgmtArg i acc v := by
  have hd : (0x100100 + 8 * i - 0x100000 - 0x100) / 8 = i := by omega
  simp only [State.writeReg, hd]
  rw [if_neg (by omega), if_pos (by omega), if_neg (by omega), if_neg (by omega), if_pos (by simp; omega)]

theorem State.writeReg_queue (s : State) (q r : Nat) (acc : Acc) (v : Word) (hq : q < 4096) (hr : r < 8) :
    s.writeReg (0x200000 + 0x40 * q + 8 * r) acc v = s.writeQueueReg q r acc v := by
  have hd : (0x200000 + 0x40 * q + 8 * r - 0x200000) / 0x40 = q := by omega
  have hm : (0x200000 + 0x40 * q + 8 * r - 0x200000) % 0x40 / 8 = r := by omega
  simp only [State.writeReg, hd, hm]
  rw [if_neg (by omega), if_neg (by omega), if_pos (by omega)]

/-- STORE_ERR looks at CLEAR alone, and a half's value carries it in its low 32 bits. -/
theorem State.writeStoreErr_half (s : State) (t : Nat) {acc : Acc} (v : Word) (h : acc ≠ .full) :
    s.writeStoreErr t acc (v &&& 0xFFFFFFFF) = s.writeStoreErr t acc v := by
  have hw : wrote acc (v &&& 0xFFFFFFFF) 63 = wrote acc v 63 := by
    cases acc with
    | full => exact absurd rfl h
    | lo => rfl
    | hi =>
      have hm : (0xFFFFFFFF : Word).getLsbD 31 = true := by decide
      simp only [wrote, BitVec.getLsbD_and, hm, Bool.and_true]
  simp only [State.writeStoreErr, clearBit_eq_wrote, hw]

/-- The five configuration registers of a queue are written only while it is DISABLED (R319). -/
theorem State.writeQueueReg_enabled (s : State) (q r : Nat) (acc : Acc) (v : Word) (hr : r ≠ 5) (hs : (s.queue q).st ≠ 0) :
    s.writeQueueReg q r acc v = s := by
  unfold State.writeQueueReg
  rw [if_neg hr, if_pos (by simpa using hs)]

theorem State.writeQueueReg_credit (s : State) (q : Nat) (v : Word) (hs : (s.queue q).st = 0) :
    s.writeQueueReg q 1 .full v = s.setQueue q { s.queue q with credit := v &&& 0xFFFFFFFFFFFFFFF8 } := by
  simp [State.writeQueueReg, hs, mergeHalf]

theorem getLsbD_creditMask (v : Word) (k : Nat) (hk : k < 64) :
    (v &&& 0xFFFFFFFFFFFFFFF8).getLsbD k = (decide (3 ≤ k) && v.getLsbD k) := by
  have hm : (0xFFFFFFFFFFFFFFF8 : Word).getLsbD k = decide (3 ≤ k) := by
    rw [show (0xFFFFFFFFFFFFFFF8 : Word) = BitVec.allOnes 64 <<< 3 from rfl, BitVec.getLsbD_shiftLeft, BitVec.getLsbD_allOnes]
    grind
  rw [BitVec.getLsbD_and, hm, Bool.and_comm]

section
variable {s : State} (hr : s.hif.ready = true) (hx : s.xingRuns 0 = true)
include hr hx

theorem exec_mmioWrite (off len : Nat) (v : Word) : exec (.mmioWrite off len v) s = .next (s.writeBar0 off len v) :=
  exec_of_mmio hr hx (·.writeBar0 off len v) rfl

theorem exec_storeErrClear_write (t : Nat) (acc : Acc) (v : Word) :
    exec (.storeErrClear t acc v) s = .next (s.writeStoreErr t acc v) :=
  exec_of_mmio hr hx (·.writeStoreErr t acc v) rfl

/-- The word at a tile's STORE_ERR and its two halves are the register's own writes. -/
theorem exec_mmioWrite_storeErr (t : Nat) (v : Word) (ht : t < 68) :
    exec (.mmioWrite (0x1000020 + 0x100000 * t) 8 v) s = exec (.storeErrClear t .full v) s
    ∧ exec (.mmioWrite (0x1000020 + 0x100000 * t) 4 v) s = exec (.storeErrClear t .lo v) s
    ∧ exec (.mmioWrite (0x1000024 + 0x100000 * t) 4 v) s = exec (.storeErrClear t .hi v) s := by
  have h8 : (0x1000020 + 0x100000 * t) % 8 = 0 := by omega
  have hlo : (0x1000020 + 0x100000 * t) / 8 * 8 = 0x1000020 + 0x100000 * t := by omega
  have hhi : (0x1000024 + 0x100000 * t) / 8 * 8 = 0x1000020 + 0x100000 * t := by omega
  simp only [exec_mmioWrite hr hx, exec_storeErrClear_write hr hx]
  refine ⟨?_, ?_, ?_⟩
  · rw [State.writeBar0_word _ _ _ h8, s.writeReg_storeErr t _ _ ht]
  · rw [State.writeBar0_half _ _ _ (by omega), hlo, if_pos h8, s.writeReg_storeErr t _ _ ht,
      s.writeStoreErr_half t v (by decide)]
  · rw [State.writeBar0_half _ _ _ (by omega), hhi, if_neg (by omega), s.writeReg_storeErr t _ _ ht,
      s.writeStoreErr_half t v (by decide)]

theorem exec_mmioWrite_mgmtArg (i : Nat) (v : Word) (hi : i < 4) : exec (.mmioWrite (0x100100 + 8 * i) 8 v) s
    = .next { s with hif := { s.hif with args := tput s.hif.args i v } } := by
  rw [exec_mmioWrite hr hx, State.writeBar0_word _ _ _ (by omega), s.writeReg_mgmtArg i _ _ hi]
  rfl

theorem exec_mmioWrite_queue (q r : Nat) (v : Word) (hq : q < 4096) (h8 : r < 8) :
    exec (.mmioWrite (0x200000 + 0x40 * q + 8 * r) 8 v) s = .next (s.writeQueueReg q r .full v) := by
  rw [exec_mmioWrite hr hx, State.writeBar0_word _ _ _ (by omega), s.writeReg_queue q r _ _ hq h8]

theorem exec_mmioWrite_credit (q : Nat) (v : Word) (hq : q < 4096) (hs : (s.queue q).st = 0) :
    exec (.mmioWrite (0x200008 + 0x40 * q) 8 v) s
      = .next (s.setQueue q { s.queue q with credit := v &&& 0xFFFFFFFFFFFFFFF8 }) := by
  have ho : 0x200008 + 0x40 * q = 0x200000 + 0x40 * q + 8 * 1 := by omega
  rw [ho, exec_mmioWrite_queue hr hx q 1 v hq (by omega), s.writeQueueReg_credit q v hs]

theorem exec_mgmtCmdIndexWrite (x : BitVec 32) :
    exec (.mgmtCmdIndexWrite x) s = .next { s with hif := { s.hif with index := x } } := by
  refine (exec_of_mmio hr hx (·.writeMgmtCmd .hi (x.setWidth 64)) rfl).trans ?_
  rw [s.writeMgmtCmd_hi, show BitVec.ofNat 32 (x.setWidth 64).toNat = x from BitVec.eq_of_toNat_eq (by simp; omega)]

end

/-- Settles O21: the offset decides which register a write of BAR0 reaches, and a mailbox row is a write of MGMT_CMD,
whose four answers (index, discard, BAD_ARGUMENT, performed) are the lemmas above. -/
theorem mailboxAndMmioWrites : Obligations.MailboxAndMmioWrites := by
  unfold Obligations.MailboxAndMmioWrites
  refine ⟨fun s v hr hx => ⟨?_, ?_, ?_, ?_, ?_, ?_, ?_⟩, fun s acc v hr hx => ⟨?_, ?_⟩,
    fun s m st d hb => mboxEnd_eq_done m s st d hb⟩
  · intro off len h
    rw [exec_mmioWrite hr hx, s.writeBar0_misaligned off len v h]
  · intro off len h
    rw [exec_mmioWrite hr hx, s.writeBar0_identity off len v h]
  · exact fun t ht => exec_mmioWrite_storeErr hr hx t v ht
  · exact fun i hi => exec_mmioWrite_mgmtArg hr hx i v hi
  · exact fun q hq hs => ⟨_, exec_mmioWrite_credit hr hx q v hq hs, getLsbD_creditMask v⟩
  · intro q r hq h5 hs
    rw [exec_mmioWrite_queue hr hx q r v hq (by omega), s.writeQueueReg_enabled q r _ v (by omega) hs]
  · exact exec_mgmtCmdIndexWrite hr hx
  · intro r hm
    refine ⟨fun ha ho hb => ?_, fun ha ho hb hres => ?_, ?_⟩
    · rw [exec_mailboxRow_next hr hx hm (.inr ho), s.writeMgmtCmd_busy v ha hb]
    · rw [exec_mailboxRow_next hr hx hm (.inr ho), s.writeMgmtCmd_reserved v ha hb hres]
    · rintro rfl
      rw [exec_mailboxRow_next hr hx hm (.inl rfl), s.writeMgmtCmd_hi]
  · intro ha hb haway hno
    have hu : v.toNat % 256 ∉ knownOps := by
      rw [← mailboxRows_ops acc v, List.mem_map]
      exact fun ⟨r, hm, he⟩ => hno r hm he
    rw [exec_mailboxUnknownOp hr hx acc v hu, s.writeMgmtCmd_unlisted v ha hb haway hu]

end Sys2Proof.Machine
end

section
/-! PROOFS. A write of BAR4_CTRL, and what it does when TILE holds more than its seven bits (R11, R319). -/

namespace Sys2Proof.Machine

open Sys2Proof.Claims

/-- BAR4_CTRL as the model composes it from OPEN and TILE. -/
def bar4Word (s : State) : Word := BitVec.ofNat 64 (bit s.hif.bar4Open * 2 ^ 63 + s.hif.bar4Tile)

theorem bar4Word_getLsbD_63 (s : State) : (bar4Word s).getLsbD 63 = (s.hif.bar4Open ^^ s.hif.bar4Tile.testBit 63) := by
  have hadd := Nat.testBit_two_pow_add_eq s.hif.bar4Tile 63
  rw [bar4Word, BitVec.getLsbD_ofNat]
  cases s.hif.bar4Open with
  | false => simp [bit]
  | true => simpa [bit] using hadd

theorem bar4Word_toNat_mod (s : State) : (bar4Word s).toNat % 2 ^ 32 % 128 = s.hif.bar4Tile % 128 := by
  rw [bar4Word, BitVec.toNat_ofNat]
  omega

theorem merged_bar4Word_open (s : State) (acc : Acc) (v : Word) : (merged acc (bar4Word s) v).getLsbD 63
    = if acc = .lo then s.hif.bar4Open ^^ s.hif.bar4Tile.testBit 63 else wrote acc v 63 := by
  cases acc with
  | full => rfl
  | lo => rw [merged_getLsbD_lo, if_neg (by decide), bar4Word_getLsbD_63, if_pos rfl]
  | hi => rw [merged_getLsbD_hi _ _ _ (by decide), if_neg (by decide), if_neg (by decide)]; rfl

theorem merged_bar4Word_tile (s : State) (acc : Acc) (v : Word) : fld (merged acc (bar4Word s) v).toNat 0 7
    = if acc = .hi then s.hif.bar4Tile % 128 else v.toNat % 128 := by
  have ht := bar4Word_toNat_mod s
  have hl := merged_lo_toNat_mod (bar4Word s) v
  have hh := merged_hi_toNat_mod (bar4Word s) v
  rw [fld_zero]
  cases acc with
  | full => rfl
  | lo => rw [if_neg (by decide)]; omega
  | hi => rw [if_pos rfl]; omega

/-- A write of BAR4_CTRL, exactly: it takes OPEN and TILE, but a write of the low half reads OPEN back from the composed
word, to which bit 63 of TILE adds itself. OPEN so stays as it was just while TILE has that bit clear, as every TILE of
seven bits has. -/
theorem State.writeBar4Ctrl_eq (s : State) (acc : Acc) (v : Word) :
    s.writeBar4Ctrl acc v = { s with hif := { s.hif with
      bar4Open := if acc = .lo then s.hif.bar4Open ^^ s.hif.bar4Tile.testBit 63 else wrote acc v 63
      bar4Tile := if acc = .hi then s.hif.bar4Tile % 128 else v.toNat % 128 } } := by
  rw [← merged_bar4Word_open, ← merged_bar4Word_tile, ← mergeHalf_eq_merged, State.writeBar4Ctrl, bar4Word, BitVec.getLsbD]

/-- A host interface in service, its window closed, whose TILE is 2 to the 63: outside the register's seven bits. -/
def wideTile : State := { hif := { ready := true, bar4Tile := 2 ^ 63 } }

/-- Refutes O9: on `wideTile`, a write of BAR4_CTRL's low half sets OPEN, where the statement keeps it clear. The
statement ranges over every state and TILE is a `Nat`; every write of the model leaves a TILE below 128. -/
theorem not_hostAndObserveRegisterWrites : ¬ Obligations.HostAndObserveRegisterWrites := by
  unfold Obligations.HostAndObserveRegisterWrites
  rintro ⟨hostRows, -⟩
  obtain ⟨hbar4, -⟩ := (hostRows wideTile .lo 0 rfl).2 (by decide)
  rw [exec_of_mmio (s := wideTile) rfl (by decide) (·.writeBar4Ctrl .lo 0) rfl, State.writeBar4Ctrl_eq] at hbar4
  have hopen : (false ^^ wideTile.hif.bar4Tile.testBit 63) = false :=
    congrArg (fun u : State => u.hif.bar4Open) (Host.Outcome.next.inj hbar4)
  exact absurd hopen (by decide)

end Sys2Proof.Machine
end

section
/-! PROOFS. What reports leave alone, the record of a bunch after a write of it, and what an arriving message meets
(R366, R367, R373, R380). -/

namespace Sys2Proof.Machine

open Sys2Proof.Claims

/-! ### Reports: outputs, MSI-X and fault records -/

/-- The state without what a report writes: the outputs and crossings, the sources' counters, the fault ring and MSI-X. -/
def State.unreported (s : State) : State :=
  { s with out := [], xings := [], seqs := [], faultLost := []
           hif := { s.hif with fqWritten := 0, fqOver := 0, msixPend := [] } }

theorem State.emit_unreported (s : State) (o : Out) : (s.emit o).unreported = s.unreported := by
  unfold State.emit State.crossOut
  split <;> rfl

theorem State.msix_unreported (s : State) (v : Nat) : (s.msix v).unreported = s.unreported := by
  unfold State.msix
  split
  · rfl
  · exact State.emit_unreported _ _

/-- A fault record that is no safety record changes only what reports write. -/
theorem State.faultAt_unreported (s : State) (pac : Word) (src : BitVec 32) (code : BitVec 16) (ctx : Option Nat)
    (d : BitVec 64) : (s.faultAt pac src code ctx false d).unreported = s.unreported := by
  unfold State.faultAt
  simp only [Bool.false_eq_true, if_false, State.nextSeq]
  split
  · rw [State.msix_unreported]
    exact State.emit_unreported { s with seqs := _ } _
  · rfl

section
variable (s : State) (src : BitVec 32) (code : BitVec 16) (ctx : Option Nat) (d : BitVec 64)

theorem State.fault_unreported : (s.fault src code ctx false d).unreported = s.unreported :=
  State.faultAt_unreported _ _ _ _ _ _

@[simp] theorem State.fault_tiles : (s.fault src code ctx false d).tiles = s.tiles :=
  (congrArg State.tiles (s.fault_unreported src code ctx d) :)
@[simp] theorem State.fault_mem : (s.fault src code ctx false d).mem = s.mem :=
  (congrArg State.mem (s.fault_unreported src code ctx d) :)
@[simp] theorem State.fault_comp : (s.fault src code ctx false d).comp = s.comp :=
  (congrArg State.comp (s.fault_unreported src code ctx d) :)
@[simp] theorem State.fault_runners : (s.fault src code ctx false d).runners = s.runners :=
  (congrArg State.runners (s.fault_unreported src code ctx d) :)
@[simp] theorem State.fault_runner (x : Nat) : (s.fault src code ctx false d).runner x = s.runner x := by
  simp [State.runner]

end

/-! ### Bunch records by identifier (R322) -/

/-- A second write of an entry replaces the first. -/
theorem tput_tput {α : Type} (t : Table α) (k : Nat) (a b : α) : tput (tput t k a) k b = tput t k b := by
  induction t with
  | nil => simp [tput]
  | cons e r ih =>
    obtain ⟨k', w⟩ := e
    simp only [tput]
    split
    · simp [tput]
    · split
      · simp [tput]
      · next h1 h2 => simp [tput, h1, h2, ih]

theorem State.setBunch_setBunch (s : State) (i : Nat) (x y : Bunch) : (s.setBunch i x).setBunch i y = s.setBunch i y := by
  simp [State.setBunch, tput_tput]

theorem State.findBunch_some {s : State} {id : BitVec 32} {i : Nat} (h : s.findBunch id = some i) :
    (s.bunch i).st ≠ 0 ∧ (s.bunch i).id = id := by
  have := List.find?_some h
  simpa using this

theorem State.bunchOf_of_find {s : State} {id : BitVec 32} {i : Nat} (h : s.findBunch id = some i) :
    s.bunchOf id = s.bunch i := by simp [State.bunchOf, h]

theorem State.updBunch_of_find {s : State} {id : BitVec 32} {i : Nat} (h : s.findBunch id = some i) (f : Bunch → Bunch) :
    s.updBunch id f = s.setBunch i (f (s.bunch i)) := by simp [State.updBunch, h]

theorem State.findBunch_congr {s u : State} (h : s.comp = u.comp) (id : BitVec 32) : s.findBunch id = u.findBunch id := by
  unfold State.findBunch State.bunch
  rw [h]

/-- A record is found where it was while its state and identifier stay. -/
theorem State.findBunch_setBunch (s : State) (i : Nat) (x : Bunch) (id : BitVec 32) (hst : x.st = (s.bunch i).st)
    (hid : x.id = (s.bunch i).id) : (s.setBunch i x).findBunch id = s.findBunch id := by
  unfold State.findBunch
  congr 1
  funext j
  by_cases hj : j = i
  · subst hj; simp [hst, hid]
  · simp [State.setBunch_bunch_ne s i j x hj]

/-! ### The rows of the messages (R366) -/

theorem Msg.unanswered_eq {m : Msg} (h : m.answered = false) : { m with answered := false } = m := by
  cases m; simp_all

/-- A message row whose message can arrive hands it to the checks of R373, a GET_REQ with what the host names. -/
theorem exec_messageRow {s : State} {m : Msg} {res : Res} {host : HostBytes} (ha : Arrives s m res) :
    ∀ r ∈ messageRows m res host, m.cls = r.2.1 → ∃ res' host', (m.cls = 0x03 → res' = res)
      ∧ (m.cls = 0x04 → res' = res ∧ host' = host) ∧ exec r.1 s = .next (r.2.2 ((s.landed m).receiveMsg m res' host')) := by
  obtain ⟨ho, -, hput, hget, hret⟩ := ha
  have row : ∀ name cls res' host', m.cls = cls →
      msgRow name cls m res' host' s = .next ((s.landed m).receiveMsg m res' host') := by
    intro name cls res' host' h; simp [msgRow, ho, h]
  have plain : ∀ {c : Instr} {name} cls, cls ≠ 0x03 ∧ cls ≠ 0x04 → exec c s = msgRow name cls m .ok [] s → m.cls = cls →
      ∃ res' host', (m.cls = 0x03 → res' = res) ∧ (m.cls = 0x04 → res' = res ∧ host' = host)
        ∧ exec c s = .next ((s.landed m).receiveMsg m res' host') := fun cls hn he h =>
    ⟨.ok, [], fun h3 => absurd (h.symm.trans h3) hn.1, fun h4 => absurd (h.symm.trans h4) hn.2, he.trans (row _ _ _ _ h)⟩
  have mem : ∀ name cls kind host, m.cls = cls → res ≠ .lost ∧ s.servedNow m kind = true →
      memRow name cls kind m res host s = .next ((s.landed m).receiveMsg m res host) := by
    intro name cls kind host hc h; simp [memRow, h.1, h.2, row _ _ _ _ hc]
  have epoch (hc : m.cls = 0x0E) : exec (.epochMessage m) s = .next ((s.landed m).receiveMsg m .ok []).goOn := by
    simp [exec, execEpochMessage, clsEpoch, hc, ho]
  simp only [messageRows, List.forall_mem_cons, List.not_mem_nil, false_implies, implies_true, and_true, id]
  exact ⟨plain 0x01 (by decide) rfl, plain 0x02 (by decide) rfl,
    fun hc => ⟨res, [], fun _ => rfl, fun h4 => absurd (hc.symm.trans h4) (by decide), mem _ _ _ _ hc (hput hc)⟩,
    fun hc => ⟨res, host, fun _ => rfl, fun _ => ⟨rfl, rfl⟩, mem _ _ _ _ hc (hget hc)⟩,
    plain 0x05 (by decide) rfl, plain 0x06 (by decide) rfl, plain 0x07 (by decide) rfl,
    fun hc => plain 0x08 (by decide) (if_pos (hret hc)) hc,
    plain 0x09 (by decide) rfl, plain 0x0A (by decide) rfl, plain 0x0B (by decide) rfl, plain 0x0C (by decide) rfl,
    plain 0x0D (by decide) rfl, fun hc => ⟨.ok, [], fun h3 => absurd (hc.symm.trans h3) (by decide),
      fun h4 => absurd (hc.symm.trans h4) (by decide), epoch hc⟩,
    plain 0x0F (by decide) rfl, plain 0x10 (by decide) rfl⟩

/-! ### What an arriving message finds: its bunch, its sequence number, the sender's sign of life (R373, R380) -/

section
variable {s : State} {m : Msg} {i : Nat} (hf : s.findBunch m.bunch = some i)
include hf

theorem State.hear_unknown (h : (((s.bunch i).mapFor m.epoch).getD (s.bunch i).map)[m.src]? = none) : s.hear m = s := by
  simp [State.hear, State.bunchOf_of_find hf, h]

/-- A module that a message comes from is heard of (R380). -/
theorem State.hear_from {l : Leaf} (h : (((s.bunch i).mapFor m.epoch).getD (s.bunch i).map)[m.src]? = some l) :
    s.hear m = if l.module = 0 ∨ l.module ∈ (s.bunch i).alive then s
      else s.setBunch i { s.bunch i with alive := l.module :: (s.bunch i).alive } := by
  simp [State.hear, State.bunchOf_of_find hf, State.updBunch_of_find hf, h]

theorem State.hear_cases : s.hear m = s ∨ ∃ a, s.hear m = s.setBunch i { s.bunch i with alive := a } := by
  cases h : (((s.bunch i).mapFor m.epoch).getD (s.bunch i).map)[m.src]? with
  | none => exact .inl (State.hear_unknown hf h)
  | some l =>
    rw [State.hear_from hf h]
    split
    · exact .inl rfl
    · exact .inr ⟨_, rfl⟩

/-- Hearing of a module writes nothing but the list of those heard. -/
theorem State.hear_bunch :
    ∃ a, (s.hear m).bunch i = { s.bunch i with alive := a } := by
  rcases State.hear_cases hf with h | ⟨a, h⟩
  · exact ⟨_, by rw [h]⟩
  · exact ⟨a, by rw [h, State.setBunch_bunch]⟩

theorem State.hear_findBunch (id : BitVec 32) :
    (s.hear m).findBunch id = s.findBunch id := by
  rcases State.hear_cases hf with h | ⟨a, h⟩ <;> rw [h]
  exact State.findBunch_setBunch _ _ _ _ rfl rfl

/-- Hearing of a module changes nothing but bunch records. -/
theorem State.hear_bram : (s.hear m).bram = s.bram := by
  rcases State.hear_cases hf with h | ⟨a, h⟩ <;> rw [h]
  rfl

theorem State.hear_tile (t : Nat) : (s.hear m).tile t = s.tile t := by
  rcases State.hear_cases hf with h | ⟨a, h⟩ <;> rw [h]
  rfl

theorem State.hear_movesShares (t : Nat) : (s.hear m).movesShares t = s.movesShares t := by
  rcases State.hear_cases hf with h | ⟨a, h⟩ <;> rw [h]
  rfl

end

theorem State.landed_comp (s : State) (m : Msg) : (s.landed m).comp = s.comp := by
  unfold State.landed; split <;> rfl

theorem State.landed_tiles (s : State) (m : Msg) : (s.landed m).tiles = s.tiles := by
  unfold State.landed; split <;> rfl

theorem State.landed_mem (s : State) (m : Msg) : (s.landed m).mem = s.mem := by
  unfold State.landed; split <;> rfl

theorem State.landed_runner (s : State) (m : Msg) (x : Nat) : (s.landed m).runner x = s.runner x := by
  unfold State.landed; split <;> rfl

theorem State.landed_refused (s : State) (m : Msg) : (s.landed m).bram.refused = s.bram.refused := by
  unfold State.landed; split <;> rfl

theorem State.landed_intactOk (s : State) (m : Msg) : (s.landed m).intactOk m = s.intactOk m := by
  unfold State.landed; split <;> rfl

/-! ### The checks of R373, branch by branch -/

section
variable {s : State} {m : Msg} (res : Res) (host : HostBytes) (hm : m.answered = false)
include hm

theorem State.receiveMsg_broken (h : s.intactOk m = false) : s.receiveMsg m res host = s.dropIntegrity m := by
  simp [State.receiveMsg, Msg.unanswered_eq hm, h]

theorem State.receiveMsg_unknown (h : s.intactOk m = true) (hf : s.findBunch m.bunch = none) :
    s.receiveMsg m res host = s.reply m 2 := by
  simp [State.receiveMsg, Msg.unanswered_eq hm, h, hf, resBunch]

/-- A sequence number already seen (R367). -/
theorem State.receiveMsg_duplicate {i : Nat} (h : s.intactOk m = true) (hf : s.findBunch m.bunch = some i)
    (hd : m.seq + 1 ≤ tget 0 (s.bunch i).lastSeq (seqPlace m)) :
    s.receiveMsg m res host
      = match (s.bunch i).lastRes.find? (fun e => e.1 == seqPlace m * 2 ^ 48 + m.seq % 2 ^ 48) with
        | some e => (duplicated (s.hear m) m).reply m e.2
        | none => if m.cls = 0x04 then (duplicated (s.hear m) m).accept m res host else duplicated (s.hear m) m := by
  obtain ⟨a, ha⟩ := State.hear_bunch hf
  unfold seqPlace at hd
  simp only [State.receiveMsg, Msg.unanswered_eq hm, h, hf, ha, hd, if_true, Bool.not_true, Bool.false_eq_true, if_false]
  rfl

/-- A new sequence number is the last one seen from then on, whatever the next checks find (log 74). -/
theorem State.receiveMsg_new {i : Nat} (h : s.intactOk m = true) (hf : s.findBunch m.bunch = some i)
    (hn : tget 0 (s.bunch i).lastSeq (seqPlace m) ≤ m.seq) :
    s.receiveMsg m res host
      = if m.epoch = (s.bunch i).epoch + 1 then
          (seen (s.hear m) m i).setBunch i { (seen (s.hear m) m i).bunch i with heldMsgs := (s.bunch i).heldMsgs ++ [m] }
        else (seen (s.hear m) m i).accept m res host := by
  obtain ⟨a, ha⟩ := State.hear_bunch hf
  have hd : ¬ m.seq + 1 ≤ tget 0 (s.bunch i).lastSeq (seqPlace m) := by omega
  unfold seqPlace at hd
  simp only [State.receiveMsg, Msg.unanswered_eq hm, h, hf, ha, hd, if_false, Bool.not_true, Bool.false_eq_true, seen]
  rfl

end

theorem State.reply_eq_rejected (s : State) (m : Msg) (result : Nat) : s.reply m result = rejected s m result := by
  unfold State.reply rejected isAnswered clsAnswer clsGetReply
  by_cases h1 : m.cls = 1 <;> by_cases h5 : m.cls = 5 <;> simp [h1, h5]

/-! ### The checks of an epoch's message: epoch, ranks, generation (R42, R334, R337) -/

section
variable {s : State} {m : Msg} {i : Nat} (res : Res) (host : HostBytes) (hf : s.findBunch m.bunch = some i)
include hf

theorem State.accept_stale (he : m.epoch ≠ (s.bunch i).epoch)
    (hp : m.epoch + 1 = (s.bunch i).epoch → (s.bunch i).prevLive = false) : s.accept m res host = s.reply m 1 := by
  have : (s.bunch i).mapFor m.epoch = none := by
    unfold Bunch.mapFor
    rw [if_neg he, if_neg]
    simpa using hp
  simp [State.accept, State.bunchOf_of_find hf, this, resStale]

variable (he : m.epoch = (s.bunch i).epoch)
include he

theorem State.accept_noDst (hd : (s.bunch i).map.length ≤ m.dst) :
    s.accept m res host = (s.countProtocol m.port).reply m 3 := by
  have : (s.bunch i).map[m.dst]? = none := List.getElem?_eq_none hd
  simp [State.accept, State.bunchOf_of_find hf, Bunch.mapFor, he, this, resRank]

theorem State.accept_noSrc (hd : m.dst < (s.bunch i).map.length) (hs : (s.bunch i).map.length ≤ m.src) :
    s.accept m res host = s.reply m 3 := by
  have h1 : (s.bunch i).map[m.src]? = none := List.getElem?_eq_none hs
  have h2 : (s.bunch i).map[m.dst]? = some (s.bunch i).map[m.dst] := List.getElem?_eq_getElem hd
  simp [State.accept, State.bunchOf_of_find hf, Bunch.mapFor, he, h1, h2, resRank]

variable {d l : Leaf} (hd : (s.bunch i).map[m.dst]? = some d) (hl : (s.bunch i).map[m.src]? = some l)
include hd hl

theorem State.accept_misrouted (h : d.module ≠ 0) : s.accept m res host = (s.countProtocol m.port).reply m 3 := by
  simp [State.accept, State.bunchOf_of_find hf, Bunch.mapFor, he, hd, hl, h, resRank]

theorem State.accept_refused (h : d.module = 0) (hr : l.gen ≠ m.srcGen
      ∨ ((s.tile d.tile).refusing = true ∧ s.movesShares d.tile = false) ∨ (s.bunch i).leafLost d = true) :
    s.accept m res host = (s.countRefused [] .refused).reply m 6 := by
  have hc : (l.gen != m.srcGen || ((s.tile d.tile).refusing && !s.movesShares d.tile) || (s.bunch i).leafLost d) = true := by
    simpa [or_assoc] using hr
  simp [State.accept, State.bunchOf_of_find hf, Bunch.mapFor, he, hd, hl, h, hc, resRefused]

end

theorem seen_eq (s : State) (m : Msg) (i : Nat) : seen s m i
    = s.setBunch i { s.bunch i with lastSeq := tput (s.bunch i).lastSeq (seqPlace m) (m.seq + 1) } := rfl

theorem seen_findBunch (s : State) (m : Msg) (i : Nat) (id : BitVec 32) :
    (seen s m i).findBunch id = s.findBunch id := State.findBunch_setBunch s i _ id (by rfl) (by rfl)

/-- A message that the target refuses counts one refusal (R270). -/
theorem State.countRefused_nil (s : State) :
    s.countRefused [] .refused = { s with bram := { s.bram with refused := min 0xFFFF (s.bram.refused + 1) } } := by
  simp [State.countRefused, State.refusals, satAdd, runsOf]

/-! ### An answer (R366) -/

/-- The state without what a change of power can touch: stores, tiles, ports, quads, the domains and their crossings. -/
def State.unpowered (s : State) : State :=
  { s with mem := [], written := [], badLines := [], tiles := [], ports := [], runners := [], quads := [], pwr := {}, xings := [] }

theorem State.dropStores_unpowered (s : State) (q : Nat) : (s.dropStores q).unpowered = s.unpowered := by
  unfold State.dropStores
  apply foldl_part State.unpowered; intros; rfl

theorem State.park_unpowered (s : State) (d : Nat) : (s.park d).unpowered = s.unpowered := by
  unfold State.park
  split <;> rfl

theorem State.setDom_unpowered (s : State) (d : Nat) (x : Dom) : (s.setDom d x).unpowered = s.unpowered := rfl
theorem State.setPort_unpowered (s : State) (m : Nat) (x : Port) : (s.setPort m x).unpowered = s.unpowered := rfl
theorem State.setTile_unpowered (s : State) (t : Nat) (x : Tile) : (s.setTile t x).unpowered = s.unpowered := rfl
theorem State.setRunner_unpowered (s : State) (r : Nat) (x : Runner) : (s.setRunner r x).unpowered = s.unpowered := rfl
theorem State.clearStore_unpowered (s : State) (a n : Nat) : (s.clearStore a n).unpowered = s.unpowered := rfl

theorem State.enterLow_unpowered (s : State) (d low : Nat) : (s.enterLow d low).unpowered = s.unpowered := by
  have quads : ∀ (l : List Nat) (f : State → Nat → Quad) (g : Nat → Nat) (t : State),
      (l.foldl (fun s j => s.setQuad (g j) (f s j)) t).unpowered = t.unpowered := fun l f g t => by
    apply foldl_part State.unpowered; intros; rfl
  unfold State.enterLow
  simp only [apply_ite State.unpowered, State.setTile_unpowered, State.setPort_unpowered, State.setDom_unpowered,
    State.setRunner_unpowered, State.park_unpowered, State.clearStore_unpowered, State.dropStores_unpowered, quads, ite_self]

theorem State.startWake_unpowered (s : State) (d : Nat) : (s.startWake d).unpowered = s.unpowered := by
  unfold State.startWake
  simp only [apply_ite State.unpowered, State.setDom_unpowered, State.setPort_unpowered, ite_self]

theorem State.evalOne_unpowered (s : State) (d : Nat) : (s.evalOne d).unpowered = s.unpowered := by
  unfold State.evalOne
  simp only [apply_ite State.unpowered, State.startWake_unpowered, State.enterLow_unpowered, State.setDom_unpowered, ite_self]

theorem State.warmUp_unpowered (s : State) (d : Nat) : (s.warmUp d).unpowered = s.unpowered := by
  unfold State.warmUp
  simp only [apply_ite State.unpowered, State.setDom_unpowered, ite_self]

/-- A domain that changes its state changes nothing beyond stores, tiles, ports, quads, domains and crossings (R413). -/
theorem State.evalDom_unpowered (s : State) (d : Nat) : (s.evalDom d).unpowered = s.unpowered := by
  unfold State.evalDom
  simp only [apply_ite State.unpowered, State.evalOne_unpowered, State.warmUp_unpowered, ite_self]

theorem State.revote_unpowered (s : State) : s.revote.unpowered = s.unpowered := by
  unfold State.revote
  split
  · rfl
  · exact foldl_part State.unpowered _ (fun s d => by rw [State.evalDom_unpowered]; rfl) _ _

theorem State.wakeRunners_unpowered (s : State) (b : BitVec 32) : (s.wakeRunners b).unpowered = s.unpowered := by
  unfold State.wakeRunners
  refine foldl_part State.unpowered _ (fun s x => ?_) _ _
  split
  · rw [State.evalDom_unpowered]; rfl
  · rfl

/-! ### An answer (R366) -/

theorem State.queueAway_out (s : State) (m : Msg) : (s.queueAway m).out = s.out := by
  unfold State.queueAway
  split
  · rfl
  · exact (congrArg State.out (State.wakeRunners_unpowered _ _) :)

theorem State.postNear_out (s : State) (m : Msg) : (s.postNear m).out = s.out := by
  unfold State.postNear
  split <;> rfl

/-- A message that is posted while injection is open goes out at once. -/
theorem State.post_out (s : State) (m : Msg) (h : s.bram.paused = false) : (s.post m).out = .msg m :: s.out := by
  simp only [State.post, h, Bool.false_and, Bool.false_eq_true, if_false]
  split
  · rw [State.queueAway_out, State.emit_out]
  · rw [State.postNear_out, State.emit_out]

theorem State.updBunch_out (s : State) (b : BitVec 32) (f : Bunch → Bunch) : (s.updBunch b f).out = s.out := by
  unfold State.updBunch
  split <;> rfl

theorem State.updBunch_bram (s : State) (b : BitVec 32) (f : Bunch → Bunch) : (s.updBunch b f).bram = s.bram := by
  unfold State.updBunch
  split <;> rfl

/-- A pair with sequence numbers left sends one message, with its next number (R367). -/
theorem State.sendMsg_out {s : State} {b : BitVec 32} {src dst : Nat} (epoch : BitVec 16) (gen : BitVec 32)
    (cls chan len : Nat) (param : BitVec 64) (payload : List Byte) (hp : s.bram.paused = false)
    (ho : s.pairOpen b src dst = true) :
    ∃ enc keyId, (s.sendMsg b src dst epoch gen cls chan len param payload).2.out = .msg
      { bunch := b, src, dst, epoch, cls, chan, enc, len, seq := tget 0 (s.bunchOf b).pairSeq (pairKey src dst), keyId
        param, payload, intact := true, port := none, srcGen := gen } :: s.out := by
  simp only [State.sendMsg, ho, Bool.not_true, Bool.false_eq_true, if_false]
  exact ⟨_, _, (State.post_out _ _ (by rwa [State.updBunch_bram])).trans (by rw [State.updBunch_out])⟩

/-- What an answer to a message of a known bunch sends is one message of the pair, the other way. -/
theorem State.answer_out {s : State} {m : Msg} {i : Nat} (result : Nat) (hm : m.answered = false)
    (hf : s.findBunch m.bunch = some i) : ∃ gen, (s.answer m result).out
      = (s.sendMsg m.bunch m.dst m.src m.epoch gen clsAnswer 1 0 (answerParam m result) []).2.out := by
  simp only [State.answer, hm, hf, Bool.false_eq_true, if_false]
  exact ⟨_, State.updBunch_out _ _ _⟩

/-- Settles O32: the rows hand the message to the checks of R373, whose branches the lemmas above give one by one. -/
theorem messageChecks : Obligations.MessageChecks := by
  unfold Obligations.MessageChecks
  refine ⟨?_, ?_, ?_, ?_⟩
  · intro s m res host r hr hc ha w v
    have hm : m.answered = false := ha.2.1
    obtain ⟨res', host', -, h4, hx⟩ := exec_messageRow ha r hr hc
    have hcomp : w.comp = s.comp := State.landed_comp s m
    have hfind : ∀ {i}, s.findBunch m.bunch = i → w.findBunch m.bunch = i := fun h =>
      (State.findBunch_congr hcomp _).trans h
    have hbunch : ∀ i, w.bunch i = s.bunch i := fun i => by rw [State.bunch, State.bunch, hcomp]
    have hok : ∀ {b}, s.intactOk m = b → w.intactOk m = b := (State.landed_intactOk s m).trans
    rw [hx]
    refine ⟨?_, ?_, ?_, ?_, ?_⟩
    · intro h hp
      rw [State.receiveMsg_broken _ _ hm (hok h), State.dropIntegrity, hp]
    · intro p h hp
      rw [State.receiveMsg_broken _ _ hm (hok h), State.dropIntegrity, hp]
      refine ⟨_, rfl, ?_, ?_, ?_, ?_⟩
      · simp [State.landed_tiles, w]
      · simp [State.landed_mem, w]
      · simp [State.landed_comp, w]
      · simp [State.landed_runner, w, satAdd]
    · intro h hf
      rw [State.receiveMsg_unknown _ _ hm (hok h) (hfind hf), State.reply_eq_rejected]
    · intro i h hf hd
      rw [State.receiveMsg_duplicate res' host' hm (hok h) (hfind hf) (by rwa [hbunch]), hbunch]
      refine ⟨fun hn => ?_, fun e he => ?_⟩
      · rw [hn]
        by_cases hg : m.cls = 0x04
        · obtain ⟨rfl, rfl⟩ := h4 hg; rfl
        · simp only [if_neg hg]; rfl
      · rw [he, ← State.reply_eq_rejected]
    · intro i h hf hn
      have hf' := hfind hf
      obtain ⟨a, hv⟩ := State.hear_bunch hf'
      rw [hbunch] at hv
      rw [State.receiveMsg_new res' host' hm (hok h) hf' (by rwa [hbunch]), hbunch]
      have hs := congrArg (State.bunch · i) (seen_eq v m i)
      simp only [State.setBunch_bunch, v, hv] at hs
      have hfs : (seen v m i).findBunch m.bunch = some i :=
        (seen_findBunch v m i _).trans ((State.hear_findBunch hf' _).trans hf')
      have hsm : ((seen v m i).bunch i).map = (s.bunch i).map := (congrArg Bunch.map hs :)
      have hse : ((seen v m i).bunch i).epoch = (s.bunch i).epoch := (congrArg Bunch.epoch hs :)
      have now (he : m.epoch = (s.bunch i).epoch) : ¬ m.epoch = (s.bunch i).epoch + 1 := by rw [he]; bv_omega
      simp only [← State.reply_eq_rejected]
      refine ⟨fun he => ?_, fun h1 he hp => ?_, fun he hd => ?_, fun he hd hl => ?_, fun d l he hd hl => ⟨?_, ?_⟩⟩
      · rw [if_pos he, hs, seen, State.setBunch_setBunch, hv]
      · rw [if_neg h1, State.accept_stale _ _ hfs (by rwa [hse])]
        exact fun h => (congrArg Bunch.prevLive hs :).trans (hp (h.trans hse))
      · rw [if_neg (now he), State.accept_noDst _ _ hfs (he.trans hse.symm) (by rwa [hsm])]
      · rw [if_neg (now he), State.accept_noSrc _ _ hfs (he.trans hse.symm) (by rwa [hsm]) (by rwa [hsm])]
      · intro hdm
        rw [if_neg (now he), State.accept_misrouted _ _ hfs (he.trans hse.symm) (by rwa [hsm]) (by rwa [hsm]) hdm]
      · intro hdm hrf
        have ht : (seen v m i).tile d.tile = s.tile d.tile :=
          (State.hear_tile hf' _).trans (by rw [State.tile, State.landed_tiles]; rfl)
        have hmv : (seen v m i).movesShares d.tile = s.movesShares d.tile :=
          (State.hear_movesShares hf' _).trans (by rw [State.movesShares, hcomp]; rfl)
        have hlost : ((seen v m i).bunch i).leafLost d = (s.bunch i).leafLost d := (congrArg (Bunch.leafLost · d) hs :)
        rw [if_neg (now he), State.accept_refused _ _ hfs (he.trans hse.symm) (by rwa [hsm]) (by rwa [hsm]) hdm
            (by rwa [ht, hmv, hlost]), State.countRefused_nil, show (seen v m i).bram = w.bram from State.hear_bram hf',
          State.landed_refused]
  · intro s m i hf x from'
    exact ⟨State.hear_unknown hf, fun l => State.hear_from hf⟩
  · intro s m res host
    simp only [messageRows, List.zip_cons_cons, List.zip_nil_left, List.forall_mem_cons]
    refine ⟨rfl, rfl, rfl, rfl, rfl, rfl, rfl, rfl, rfl, rfl, rfl, rfl, rfl, rfl, rfl, rfl, by simp⟩
  · intro s m result i hm hf hp ho
    obtain ⟨gen, ha⟩ := State.answer_out result hm hf
    obtain ⟨enc, keyId, h⟩ := State.sendMsg_out m.epoch gen clsAnswer 1 0 (answerParam m result) [] hp ho
    rw [State.bunchOf_of_find hf] at h
    exact ⟨_, ha.trans h, rfl, rfl, rfl, rfl, rfl, rfl, rfl, rfl, rfl, by rw [answerParam]⟩

end Sys2Proof.Machine
end

section
/-! PROOFS. Lane quads: training, its timeout and retry, the fall of a quad, and the flits of a slot (R358 to R363, R377 to R382). -/

namespace Sys2Proof.Machine

open Sys2Proof.Claims

/-! ### Reports of a quad -/

section
variable (s : State) (src : BitVec 32) (code : BitVec 16) (ctx : Option Nat) (d : BitVec 64)

@[simp] theorem State.fault_quads : (s.fault src code ctx false d).quads = s.quads :=
  (congrArg State.quads (s.fault_unreported src code ctx d) :)
@[simp] theorem State.fault_lanes : (s.fault src code ctx false d).lanes = s.lanes :=
  (congrArg State.lanes (s.fault_unreported src code ctx d) :)
@[simp] theorem State.fault_quad (x : Nat) : (s.fault src code ctx false d).quad x = s.quad x := by
  simp [State.quad]

end

/-! ### The lanes of a quad -/

/-- The four lanes of quad `x`, each rewritten. -/
def State.setLanes (s : State) (x : Nat) (g : Nat → Lane → Lane) : State :=
  (List.range 4).foldl (fun (s : State) i =>
    { s with lanes := tput s.lanes (4 * x + i) (g i (tget {} s.lanes (4 * x + i))) }) s

theorem tget_tput {α : Type} (d v : α) (t : Table α) (k j : Nat) :
    tget d (tput t k v) j = if j = k then v else tget d t j := by
  split
  · next h => rw [h, tget_tput_same]
  · next h => rw [tget_tput_ne _ _ _ _ _ h]

theorem State.setLanes_lane (s : State) (x : Nat) (g : Nat → Lane → Lane) (i : Nat) (hi : i < 4) :
    (tget {} (s.setLanes x g).lanes (4 * x + i) : Lane) = g i (tget {} s.lanes (4 * x + i)) := by
  have : i = 0 ∨ i = 1 ∨ i = 2 ∨ i = 3 := by omega
  simp only [State.setLanes, show List.range 4 = [0, 1, 2, 3] from rfl, List.foldl_cons, List.foldl_nil]
  rcases this with rfl | rfl | rfl | rfl <;> simp [tget_tput]

/-! ### Training (R358, R359) -/

theorem State.needsFull_iff (s : State) (x : Nat) (rev : Bool) (partner : Word) : s.needsFull x rev partner = true
    ↔ ((s.quad x).retries = true ∨ (s.runner (x / 4)).stored ≠ some partner
      ∨ ∀ e ∈ (s.runner (x / 4)).laneMap, e ≠ (x % 4, rev)) := by
  simp only [State.needsFull, Runner.savedFor, Bool.or_eq_true, Bool.not_eq_true', Bool.and_eq_false_iff, beq_eq_false_iff_ne,
    List.any_eq_false, Bool.and_eq_true, beq_iff_eq, Prod.ext_iff, ne_eq]

theorem State.onePartner_iff (s : State) (x kind : Nat) (partner : Word) : s.onePartner x kind partner = true
    ↔ ∀ j, j < 4 → (s.quad (x / 4 * 4 + j)).st = 3 →
      (s.runner (x / 4)).kind = kind ∧ (s.runner (x / 4)).partner = partner := by
  simp only [State.onePartner, List.all_eq_true, List.mem_range, Bool.or_eq_true, bne_iff_ne, Bool.and_eq_true, beq_iff_eq,
    ne_eq, ← imp_iff_not_or]

/-- A quad that completes its training, before held pads are freed: the frames it sent, its port, its link and its lanes. -/
def State.linkUp (s : State) (x : Nat) (full rev : Bool) (kind : Nat) (partner : Word) (bufs : BitVec 64)
    (retry : Nat) : State :=
  let u := (s.emit (.training x Config.deviceId full)).emit (.flit x ({ s.quad x with rxSeq := 0, freed := 0 }.ctrl false true))
  let (v, u) := u.draw 100
  let r := s.runner (x / 4)
  let r := if full then r.save (x % 4) rev partner (fun i => fld v.toNat (36 + 16 * i) 16) else r
  ((u.setRunner (x / 4) { r with kind, partner }).setQuad x ((s.quad x).linked full rev bufs retry)).setLanes x
    (fun i l => { l with locked := true, snr := fld v.toNat (9 * i) 8, inv := v.getLsbD (9 * i + 8) })

/-- The same quad with the pads freed that MAINTENANCE does not hold (R419). -/
def State.padsUp (s : State) (x : Nat) : State :=
  if (s.dom (156 + x / 4)).held && !s.boot.maint then s.releasePads (156 + x / 4) else s

theorem State.padsUp_eq (s : State) (x : Nat) : s.padsUp x = { s with pwr := (s.padsUp x).pwr } := by
  unfold State.padsUp
  split <;> rfl

theorem State.padsUp_held (s : State) (x : Nat) (h : (s.dom (156 + x / 4)).held = true) :
    ((s.padsUp x).dom (156 + x / 4)).held = s.boot.maint := by
  unfold State.padsUp
  cases s.boot.maint <;> simp [h, State.releasePads]

theorem State.quadReady_eq (s : State) (x : Nat) (full rev : Bool) (kind : Nat) (partner : Word) (bufs : BitVec 64)
    (retry : Nat) : s.quadReady x full rev kind partner bufs retry
      = ((s.linkUp x full rev kind partner bufs retry).padsUp x).flushWaits := rfl

section
variable (s : State) (x : Nat) (full rev : Bool) (kind : Nat) (partner : Word) (bufs : BitVec 64) (retry : Nat)

theorem State.linkUp_quad : (s.linkUp x full rev kind partner bufs retry).quad x = (s.quad x).linked full rev bufs retry :=
  State.setQuad_quad _ _ _

theorem State.linkUp_quad_ne (y : Nat) (hy : y ≠ x) : (s.linkUp x full rev kind partner bufs retry).quad y = s.quad y :=
  (State.setQuad_quad_ne _ _ _ _ hy).trans (by simp [State.quad])

theorem State.linkUp_runner : ∃ coef, (s.linkUp x full rev kind partner bufs retry).runner (x / 4)
    = { (if full then (s.runner (x / 4)).save (x % 4) rev partner coef else s.runner (x / 4)) with kind, partner } :=
  ⟨_, State.setRunner_runner _ _ _⟩

theorem State.linkUp_lane (i : Nat) (hi : i < 4) :
    (tget {} (s.linkUp x full rev kind partner bufs retry).lanes (4 * x + i) : Lane).locked = true := by
  rw [State.linkUp, State.setLanes_lane _ _ _ _ hi]

end

theorem exec_quadTrained {s : State} {x : Nat} {full rev : Bool} {kind : Nat} {partner : Word} (bufs : BitVec 64) (retry : Nat)
    (ht : s.training x = true)
    (hf : full = true ↔ ((s.quad x).retries = true ∨ (s.runner (x / 4)).stored ≠ some partner
      ∨ ∀ e ∈ (s.runner (x / 4)).laneMap, e ≠ (x % 4, rev)))
    (hp : ∀ j, j < 4 → (s.quad (x / 4 * 4 + j)).st = 3 → (s.runner (x / 4)).kind = kind ∧ (s.runner (x / 4)).partner = partner) :
    exec (.quadTrained x full rev kind partner bufs retry) s
      = .next ((s.linkUp x full rev kind partner bufs retry).padsUp x).flushWaits := by
  have hn : full = s.needsFull x rev partner := Bool.eq_iff_iff.2 (hf.trans (s.needsFull_iff x rev partner).symm)
  have ho := (s.onePartner_iff x kind partner).2 hp
  rw [← State.quadReady_eq]
  exact if_pos (by simp [ht, ho, ← hn])

/-! ### Timeouts and the fall of a quad (R359, R361, R377, R378) -/

theorem exec_trainingTimeout {s : State} {x : Nat} (h : s.training x = true) : exec (.trainingTimeout x) s
    = .next ((s.setQuad x { s.quad x with st := 4 }).fault (srcId 4 (x / 4)) 0x0402 none false (BitVec.ofNat 64 (x % 4))) :=
  if_pos h

theorem exec_trainingRetry {s : State} {x : Nat} (hr : s.hasRunner (x / 4) = true) (hp : Config.hasPartner (x / 4) = true)
    (hd : (s.runner (x / 4)).disabled = false) (hq : (s.quad x).st = 4) :
    exec (.trainingRetry x) s = .next (s.setQuad x { s.quad x with st := 2, retries := true }) :=
  if_pos (by simp [hr, hp, hd, hq])

theorem exec_ackTimeout {s : State} {x : Nat} (hq : (s.quad x).st = 3) (hr : (s.quad x).retry ≠ []) :
    exec (.ackTimeout x) s = .next (s.setQuad x { s.quad x with
      resend := (s.quad x).retry.length, replays := min 0xFFFF ((s.quad x).replays + 1) }) :=
  if_pos (by simp [hq, hr])

theorem exec_quadDown {s : State} {x : Nat} {why : DownWhy} (hr : s.hasRunner (x / 4) = true) (hq : (s.quad x).st = 3)
    (hd : s.downDue x why = true) : exec (.quadDown x why) s = .next ((s.quadDown x).quadFault x 0x0400) :=
  if_pos (by simp [hr, hq, hd])

theorem State.flushWaits_of_nil {s : State} (h : s.comp.waits = []) : s.flushWaits = s := by
  have : { s.comp with waits := [] } = s.comp := by rw [← h]
  rw [State.flushWaits, h, List.foldl_nil, this]

theorem Quad.waiting_of_nil {q : Quad} (h : q.txq = []) : q.waiting = [] := by
  simp [Quad.waiting, h]

/-- A quad that no bunch owns and that carries no message takes nothing with it when it falls. -/
theorem State.quadDown_idle {s : State} {x : Nat} (ho : tget 0 s.comp.quadOwner x = 0) (ht : (s.quad x).txq = [])
    (hu : (s.quad x).unans = []) (hw : s.comp.waits = []) :
    s.quadDown x = (s.setQuad x { st := if (s.runner (x / 4)).disabled then 4 else 2, full := (s.quad x).full,
                                  reversed := (s.quad x).reversed, replays := (s.quad x).replays,
                                  downs := min 0xFFFF ((s.quad x).downs + 1) }).setLanes x
        (fun _ l => { l with locked := false }) := by
  simp only [State.quadDown, ho, hu, Quad.waiting_of_nil ht, if_true, List.isEmpty_nil, List.foldl_nil]
  exact State.flushWaits_of_nil hw

/-- Settles O38: every clause is the row's own equation above, read field by field. -/
theorem quadStates : Obligations.QuadStates := by
  unfold Obligations.QuadStates
  intro s x
  refine ⟨?_, fun h => ?_, exec_trainingRetry, exec_ackTimeout, fun why hr hq hd => ⟨exec_quadDown hr hq hd, ?_⟩⟩
  · intro full rev kind partner bufs retry ht hf hp
    refine ⟨_, exec_quadTrained bufs retry ht hf hp, ?_⟩
    obtain ⟨coef, hr⟩ := s.linkUp_runner x full rev kind partner bufs retry
    have hlane := s.linkUp_lane x full rev kind partner bufs retry
    have hheld := (s.linkUp x full rev kind partner bufs retry).padsUp_held x
    rw [State.padsUp_eq]
    refine ⟨?_, rfl, ?_, ?_, ?_, ?_, ?_, rfl, rfl, rfl, hlane, ?_⟩
    · exact s.linkUp_quad x full rev kind partner bufs retry
    · exact congrArg Runner.kind hr
    · exact congrArg Runner.partner hr
    · rintro rfl
      exact ⟨congrArg Runner.stored hr, (congrArg (fun r : Runner => tget false r.laneMap (x % 4)) hr).trans
        (tget_tput_same _ _ _ _)⟩
    · rintro rfl
      exact hr
    · exact s.linkUp_quad_ne x full rev kind partner bufs retry
    · exact hheld
  · refine ⟨_, exec_trainingTimeout h, ?_, rfl⟩
    rw [State.fault_quad, State.setQuad_quad]
  · intro ho ht hu hw
    refine ⟨_, exec_quadDown hr hq hd, ?_⟩
    rw [State.quadDown_idle ho ht hu hw, State.quadFault]
    simp only [State.fault_quad, State.fault_tiles, State.fault_mem, State.fault_comp, State.fault_runners, State.fault_lanes]
    refine ⟨State.setQuad_quad _ _ _, fun y hy => State.setQuad_quad_ne _ _ _ _ hy, rfl, rfl, rfl, rfl, fun i hi => ?_⟩
    rw [State.setLanes_lane _ _ _ _ hi]

end Sys2Proof.Machine
end

section
/-! PROOFS. What a change of power leaves of a tile and of a port (R413), what the sideband signal and the release of SAFE_N leave
(R445, R523), and the cold start (R504, R507, R16). -/

namespace Sys2Proof.Machine

open Sys2Proof.Claims

/-! ### Folds that write one entry each -/

/-- A fold leaves the entries alone that none of its steps writes. -/
theorem foldl_read_ne {β γ : Type} {f : β → Nat → β} {read : β → Nat → γ}
    (hne : ∀ b k j, j ≠ k → read (f b k) j = read b j) (j : Nat) : ∀ (l : List Nat) (b : β), j ∉ l → read (l.foldl f b) j = read b j
  | [], _, _ => rfl
  | a :: l, b, h => by
    have ha : j ≠ a := fun e => h (e ▸ List.mem_cons_self)
    have hl : j ∉ l := fun hl => h (List.mem_cons_of_mem _ hl)
    rw [List.foldl_cons, foldl_read_ne hne j l _ hl, hne b a j ha]

/-- What each step makes true of the entry that it writes holds of every entry written, whatever the other steps do. -/
theorem foldl_read {β γ : Type} {f : β → Nat → β} {read : β → Nat → γ} {P : Nat → γ → Prop}
    (hsame : ∀ b k, P k (read (f b k) k)) (hne : ∀ b k j, j ≠ k → read (f b k) j = read b j) (k : Nat) :
    ∀ (l : List Nat) (b : β), k ∈ l → P k (read (l.foldl f b) k)
  | a :: l, b, h => by
    rw [List.foldl_cons]
    by_cases hl : k ∈ l
    · exact foldl_read hsame hne k l _ hl
    · obtain rfl : k = a := (List.mem_cons.1 h).resolve_right hl
      rw [foldl_read_ne hne k l _ hl]
      exact hsame b k

/-! ### A tile and a port through a change of power (R413, R414) -/

/-- A tile after its domain went OFF: what it held is gone and its endpoint refuses (R338, R413). -/
def Tile.off (x : Tile) : Tile :=
  { x with refusing := true, core := {}, ops := [], held := none, movers := [], slots := [] }

/-- A tile is as it was, or OFF. -/
def Tile.Fell (x y : Tile) : Prop := y = x ∨ y = x.off

theorem Tile.Fell.refl {x : Tile} : x.Fell x := .inl (Eq.refl x)

theorem Tile.Fell.trans {x y z : Tile} (h : x.Fell y) (k : y.Fell z) : x.Fell z := by
  rcases h with rfl | rfl
  · exact k
  · exact .inr (k.elim id id)

theorem Tile.Fell.role {x y : Tile} (h : x.Fell y) : y.role = x.role := by
  rcases h with rfl | rfl <;> rfl

/-- A tile and a port through an operation that changes power: the tile stays or goes OFF, the port changes its state alone. -/
def State.Dims (s u : State) : Prop :=
  (∀ t, (s.tile t).Fell (u.tile t)) ∧ ∀ m, ∃ st, u.port m = { s.port m with st }

theorem State.Dims.refl {s : State} : s.Dims s := ⟨fun _ => .refl, fun _ => ⟨_, Eq.refl _⟩⟩

theorem State.Dims.trans {s u v : State} (h : s.Dims u) (k : u.Dims v) : s.Dims v := by
  refine ⟨fun t => (h.1 t).trans (k.1 t), fun m => ?_⟩
  obtain ⟨a, ha⟩ := h.2 m
  obtain ⟨b, hb⟩ := k.2 m
  exact ⟨b, by rw [hb, ha]⟩

/-- Tiles and ports alone count. -/
theorem State.Dims.of_eq {s u v : State} (h : s.Dims u) (ht : v.tiles = u.tiles) (hp : v.ports = u.ports) : s.Dims v :=
  ⟨fun t => by rw [show v.tile t = u.tile t by rw [State.tile, ht]; rfl]; exact h.1 t,
    fun m => by rw [show v.port m = u.port m by rw [State.port, hp]; rfl]; exact h.2 m⟩

theorem State.Dims.ite {s u v : State} {p : Prop} [Decidable p] (h : s.Dims u) (k : s.Dims v) :
    s.Dims (if p then u else v) := by split <;> assumption

theorem State.Dims.foldl {α : Type} {f : State → α → State} (h : ∀ (s : State) a, s.Dims (f s a)) :
    ∀ (l : List α) (s : State), s.Dims (l.foldl f s)
  | [], _ => .refl
  | a :: l, s => (h s a).trans (State.Dims.foldl h l _)

theorem State.setTile_off_dims (s : State) (t : Nat) : s.Dims (s.setTile t (s.tile t).off) := by
  refine ⟨fun k => ?_, fun m => ⟨_, Eq.refl _⟩⟩
  by_cases h : k = t
  · subst h; exact .inr (State.setTile_tile _ _ _)
  · exact .inl (State.setTile_tile_ne _ _ _ _ h)

theorem State.setPort_st_dims (s : State) (m st : Nat) : s.Dims (s.setPort m { s.port m with st }) := by
  refine ⟨fun k => .refl, fun k => ?_⟩
  by_cases h : k = m
  · subst h; exact ⟨st, State.setPort_port _ _ _⟩
  · exact ⟨_, State.setPort_port_ne _ _ _ _ h⟩

theorem State.park_dims (s : State) (d : Nat) : s.Dims (s.park d) := .ite (.of_eq .refl rfl rfl) .refl

theorem State.clearStore_dims (s : State) (a n : Nat) : s.Dims (s.clearStore a n) := State.Dims.refl.of_eq rfl rfl

theorem State.setRunner_dims (s : State) (x : Nat) (r : Runner) : s.Dims (s.setRunner x r) := State.Dims.refl.of_eq rfl rfl

theorem State.setQuad_dims (s : State) (x : Nat) (q : Quad) : s.Dims (s.setQuad x q) := State.Dims.refl.of_eq rfl rfl

theorem State.setDom_dims (s : State) (d : Nat) (x : Dom) : s.Dims (s.setDom d x) := .of_eq .refl rfl rfl

theorem State.dropStores_dims (s : State) (q : Nat) : s.Dims (s.dropStores q) := by
  refine State.Dims.foldl (fun u t => ?_) _ _
  exact .of_eq .refl rfl rfl

theorem State.enterLow_dims (s : State) (d low : Nat) : s.Dims (s.enterLow d low) := by
  have held : ∀ u : State, s.Dims u → s.Dims (if low = 0 then u.setDom d { u.dom d with held := true } else u) :=
    fun u h => .ite (h.trans (u.setDom_dims d _)) h
  unfold State.enterLow
  refine State.Dims.ite (State.Dims.ite (s.setTile_off_dims d) State.Dims.refl) ?_
  refine State.Dims.ite (State.Dims.ite (s.clearStore_dims _ _) State.Dims.refl) ?_
  refine State.Dims.ite (State.Dims.ite (s.dropStores_dims _) State.Dims.refl) ?_
  refine State.Dims.ite (held _ ?_) (State.Dims.ite (held _ ?_) State.Dims.refl)
  · exact State.Dims.ite (s.park_dims d) ((s.park_dims d).trans ((s.park d).setPort_st_dims _ _))
  · refine ((s.park_dims d).trans (State.setRunner_dims _ _ _)).trans (State.Dims.foldl (fun u j => ?_) _ _)
    exact u.setQuad_dims _ _

theorem State.startWake_dims (s : State) (d : Nat) : s.Dims (s.startWake d) := by
  unfold State.startWake
  exact .ite ((s.setDom_dims d _).trans (State.setPort_st_dims _ _ _)) (s.setDom_dims d _)

theorem State.evalOne_dims (s : State) (d : Nat) : s.Dims (s.evalOne d) := by
  unfold State.evalOne
  refine .ite .refl (.ite (.ite .refl (s.startWake_dims d)) (.ite .refl ?_))
  exact (s.setDom_dims d _).trans (State.enterLow_dims _ _ _)

theorem State.warmUp_dims (s : State) (d : Nat) : s.Dims (s.warmUp d) := by
  unfold State.warmUp
  exact .ite (s.setDom_dims d _) .refl

/-- What a change of power leaves of tiles and ports. -/
theorem State.evalDom_dims (s : State) (d : Nat) : s.Dims (s.evalDom d) := by
  unfold State.evalDom
  exact .ite (((s.warmUp_dims d).trans (State.evalOne_dims _ _)).trans (State.evalOne_dims _ _)) (s.evalOne_dims d)

theorem State.revote_dims (s : State) : s.Dims s.revote := by
  unfold State.revote
  exact .ite .refl (.foldl (fun s d => (s.setDom_dims d _).trans (State.evalDom_dims _ _)) _ _)

/-! ### The sideband signal and the release of SAFE_N (R445, R523) -/

/-- The state without what an In-Band Interrupt writes. -/
def State.unsignalled (s : State) : State := { s with out := [], xings := [], boot := { s.boot with i3cLast := 0 } }

theorem State.signal_unsignalled (s : State) : s.signal.unsignalled = s.unsignalled := by
  unfold State.signal
  dsimp only
  split
  · unfold State.emit State.crossOut
    split <;> rfl
  · rfl

/-- The state without what the end of reactions writes. -/
def State.unsettled (s : State) : State :=
  { s.unsignalled with stone := { s.stone with reacts := [], recent := [], safe := false } }

theorem State.settleSafe_unsettled (s : State) : s.settleSafe.unsettled = s.unsettled := by
  unfold State.settleSafe
  refine (congrArg State.unsettled (State.signal_unsignalled _) :).trans ?_
  split <;> rfl

/-! ### The steps of the cold start (R504) -/

/-- Step 1 before its In-Band Interrupt: the always-on domain is up (R449). -/
theorem State.aonUp_spec (s : State) (vin : BitVec 16) : ∃ u : State, s.aonUp vin = u.signal
    ∧ u.boot = { s.boot with step := 1 } ∧ u.mem = s.mem ∧ (u.dom 161).st = 2
    ∧ u.stone = { s.stone with
        safe := true
        rows := if s.stone.nvRow17 then tput s.stone.rows 17 { s.latch 17 with set := true, count := 1, first := srcId 7 0 }
          else s.stone.rows }
    ∧ u.pwr.vin = vin ∧ u.pwr.orchCap = maxPowerOf s.boot.variant ∧ u.pwr.trayCap = maxPowerOf s.boot.variant := by
  refine ⟨_, rfl, rfl, rfl, ?_, rfl, rfl, rfl, rfl⟩
  unfold State.stoneVotes
  rw [State.setDom_dom_ne _ _ _ _ (by decide), State.setDom_dom_ne _ _ _ _ (by decide), State.setDom_dom]

theorem exec_inputInRange_cold {s : State} {vin : BitVec 16} (hv : vinOk vin = true) (h : s.boot.step = 0) :
    exec (.inputInRange vin) s = .next (s.aonUp vin) := by
  change execInputInRange vin s = _
  simp [execInputInRange, hv, h]

theorem exec_inputInRange_warm {s : State} {vin : BitVec 16} (hv : vinOk vin = true) (h : s.boot.step ≠ 0) :
    exec (.inputInRange vin) s = .next ({ s with pwr := { s.pwr with vin := vin, vinRange := false } } : State).signal := by
  change execInputInRange vin s = _
  simp [execInputInRange, hv, h]

/-- A bank verifies: its images were found good and none was erased or lies below the fused minimum (R470). -/
def State.bankOk (s : State) (okA okB : Bool) (b : Nat) : Bool :=
  (if b = 0 then okA else okB) && (List.range 7).all (fun k => s.flashOk b k)

/-- A bank boots (R471). -/
def State.bootFrom (s : State) (bank : Nat) (trial : Bool) : State :=
  State.signal { s with
    boot := { s.boot with step := 2 }
    sec := { s.sec with noBank := false, booted := bank, trial, trialRun := trial, loaded := []
                        bootImg := (List.range 7).map (fun k => (k, s.flashDigest bank k)) }
    stone := { s.stone with raised := s.matrixOf bank } }

theorem State.bootFrom_spec (s : State) (bank : Nat) (trial : Bool) :
    (s.bootFrom bank trial).boot.step = 2 ∧ (s.bootFrom bank trial).sec.booted = bank
      ∧ (s.bootFrom bank trial).sec.trialRun = trial ∧ (s.bootFrom bank trial).sec.noBank = false := by
  have h := State.signal_unsignalled { s with
    boot := { s.boot with step := 2 }
    sec := { s.sec with noBank := false, booted := bank, trial, trialRun := trial, loaded := []
                        bootImg := (List.range 7).map (fun k => (k, s.flashDigest bank k)) }
    stone := { s.stone with raised := s.matrixOf bank } }
  exact ⟨congrArg (fun u => u.boot.step) h, congrArg (fun u => u.sec.booted) h, congrArg (fun u => u.sec.trialRun) h,
    congrArg (fun u => u.sec.noBank) h⟩

section
variable {s : State} {okA okB : Bool}

theorem State.bootVerify_trial (ht : s.sec.trial = true) (ho : s.bankOk okA okB (1 - s.sec.committed) = true) :
    s.bootVerify okA okB = s.bootFrom (1 - s.sec.committed) true := by
  unfold State.bankOk at ho
  simp only [State.bootVerify, ht, ho, Bool.true_and, Bool.not_true, Bool.false_and, Bool.false_eq_true, if_false, if_true]
  rfl

theorem State.bootVerify_committed (ht : s.sec.trial = false ∨ s.bankOk okA okB (1 - s.sec.committed) = false)
    (ho : s.bankOk okA okB s.sec.committed = true) : s.bootVerify okA okB = s.bootFrom s.sec.committed false := by
  have ht : (s.sec.trial && s.bankOk okA okB (1 - s.sec.committed)) = false := by
    rcases ht with h | h <;> simp [h]
  unfold State.bankOk at ho ht
  simp only [State.bootVerify, ht, ho, Bool.not_true, Bool.not_false, Bool.true_and, Bool.false_eq_true, if_false]
  rfl

theorem State.bootVerify_none (ht : s.sec.trial = false ∨ s.bankOk okA okB (1 - s.sec.committed) = false)
    (ho : s.bankOk okA okB s.sec.committed = false) :
    s.bootVerify okA okB = ({ s with sec := { s.sec with noBank := true, trial := false } } : State).signal := by
  have ht : (s.sec.trial && s.bankOk okA okB (1 - s.sec.committed)) = false := by
    rcases ht with h | h <;> simp [h]
  unfold State.bankOk at ho ht
  simp only [State.bootVerify, ht, ho, Bool.not_false, Bool.true_and, if_true]

end

/-! ### Step 4: the rails and the power-up self-test (R16, R504) -/

/-- A domain that the variant has is turned ON. -/
def State.domOn (s : State) (d : Nat) : State := if s.hasDom d then s.setDom d { s.dom d with st := 2 } else s

theorem State.domOn_hasDom (s : State) (d k : Nat) : (s.domOn d).hasDom k = s.hasDom k := by
  unfold State.domOn
  split <;> rfl

theorem State.domOn_st {s : State} {d k : Nat} (hd : s.hasDom d = true) (h : d = k ∨ (s.dom d).st = 2) :
    ((s.domOn k).dom d).st = 2 := by
  unfold State.domOn
  by_cases hk : d = k
  · subst hk; rw [if_pos hd, State.setDom_dom]
  · split
    · rw [State.setDom_dom_ne _ _ _ _ hk]; exact h.resolve_left hk
    · exact h.resolve_left hk

theorem State.domsOn_st {d : Nat} : ∀ (l : List Nat) (s : State), s.hasDom d = true → d ∈ l ∨ (s.dom d).st = 2 →
    ((l.foldl State.domOn s).dom d).st = 2
  | [], s, _, h => h.resolve_left List.not_mem_nil
  | k :: l, s, hd, h => by
    refine State.domsOn_st l _ ((s.domOn_hasDom k d).trans hd) ?_
    rcases h with h | h
    · exact (List.mem_cons.1 h).elim (fun hk => .inr (State.domOn_st hd (.inl hk))) .inl
    · exact .inr (State.domOn_st hd (.inr h))

theorem State.hasDom_lt {s : State} {d : Nat} (h : s.hasDom d = true) : d < 162 := by
  by_contra hd
  have : ¬ d < 68 ∧ ¬ d < 136 ∧ ¬ d < 140 ∧ ¬ d < 156 ∧ ¬ d < 160 := by omega
  simp [State.hasDom, this, hd] at h

theorem State.hasPort_lt {s : State} {m : Nat} (h : s.hasPort m = true) : m < 16 := by
  have : portsOf s.boot.variant ≤ 16 := by cases s.boot.variant <;> decide
  have := of_decide_eq_true h
  omega

theorem State.hasRunner_lt {s : State} {x : Nat} (h : s.hasRunner x = true) : x < 4 := by
  have : runnersOf s.boot.variant ≤ 4 := by cases s.boot.variant <;> decide
  have := of_decide_eq_true h
  omega

/-- The four parts of the rails' rise: domains ON, pacers of cold quarters, ports and quads in training (R62, R504). -/
def State.domsOn (s : State) : State :=
  (List.range 162).foldl (fun s d => if s.hasDom d then s.setDom d { s.dom d with st := 2 } else s) s
def State.startPacers (s : State) (cold : List Nat) : State :=
  s.tileNos.foldl (fun s t => if cold.contains (quarterOf t) then s.setTile t { s.tile t with base := s.time } else s) s
def State.trainPorts (s : State) : State :=
  ((List.range 16).filter s.hasPort).foldl (fun s m => s.setPort m { s.port m with st := 1 }) s
def State.trainQuads (s : State) : State :=
  ((List.range 16).filter (fun x => s.hasRunner (x / 4))).foldl (fun s x => s.setQuad x { s.quad x with st := quadStart x }) s

theorem State.domsOn_eq (s : State) : s.domsOn = (List.range 162).foldl State.domOn s := by
  unfold State.domsOn
  congr 1

theorem State.railsUp_eq (s : State) : ∃ cold u, (s.domsOn.startPacers cold).trainPorts.trainQuads = u
    ∧ s.railsUp = { u with boot := { u.boot with step := 4, phase := 1 } } := by
  unfold State.railsUp State.trainQuads State.trainPorts State.startPacers State.domsOn
  generalize List.range 162 = doms
  exact ⟨_, _, rfl, rfl⟩

/-- The state without the tables that the rails' rise writes. -/
def State.unrailed (s : State) : State := { s with pwr := {}, tiles := [], ports := [], quads := [] }

theorem State.boot_of_unrailed {s u : State} (h : s.unrailed = u.unrailed) : s.boot = u.boot := (congrArg State.boot h :)
theorem State.mem_of_unrailed {s u : State} (h : s.unrailed = u.unrailed) : s.mem = u.mem := (congrArg State.mem h :)

theorem State.domsOn_unrailed (s : State) : s.domsOn.unrailed = s.unrailed := by
  rw [State.domsOn_eq]
  apply foldl_part State.unrailed
  intro s d
  unfold State.domOn
  split <;> rfl

theorem State.startPacers_unrailed (s : State) (cold : List Nat) : (s.startPacers cold).unrailed = s.unrailed := by
  unfold State.startPacers
  apply foldl_part State.unrailed
  intro s t
  split <;> rfl

theorem State.startPacers_pwr (s : State) (cold : List Nat) : (s.startPacers cold).pwr = s.pwr := by
  unfold State.startPacers
  apply foldl_part State.pwr
  intro s t
  split <;> rfl

theorem State.trainPorts_unrailed (s : State) : s.trainPorts.unrailed = s.unrailed := by
  unfold State.trainPorts
  apply foldl_part State.unrailed; intros; rfl

theorem State.trainPorts_pwr (s : State) : s.trainPorts.pwr = s.pwr := by
  unfold State.trainPorts
  apply foldl_part State.pwr; intros; rfl

theorem State.trainQuads_unrailed (s : State) : s.trainQuads.unrailed = s.unrailed := by
  unfold State.trainQuads
  apply foldl_part State.unrailed; intros; rfl

theorem State.trainQuads_pwr (s : State) : s.trainQuads.pwr = s.pwr := by
  unfold State.trainQuads
  apply foldl_part State.pwr; intros; rfl

theorem State.trainQuads_port (s : State) (m : Nat) : s.trainQuads.port m = s.port m := by
  unfold State.trainQuads
  apply foldl_part (State.port · m); intros; rfl

theorem State.trainPorts_st {s : State} {m : Nat} (h : s.hasPort m = true) : (s.trainPorts.port m).st = 1 :=
  foldl_read (read := State.port) (P := fun _ p => p.st = 1) (fun b k => by rw [State.setPort_port])
    (fun b k j hj => State.setPort_port_ne _ _ _ _ hj) m _ s
    (List.mem_filter.2 ⟨List.mem_range.2 (State.hasPort_lt h), h⟩)

theorem State.trainQuads_st {s : State} {x : Nat} (h : s.hasRunner (x / 4) = true) : (s.trainQuads.quad x).st = quadStart x :=
  foldl_read (read := State.quad) (P := fun k q => q.st = quadStart k) (fun b k => by rw [State.setQuad_quad])
    (fun b k j hj => State.setQuad_quad_ne _ _ _ _ hj) x _ s
    (List.mem_filter.2 ⟨List.mem_range.2 (by have := State.hasRunner_lt h; omega), h⟩)

theorem State.railsUp_spec (s : State) : s.railsUp.boot.step = 4 ∧ (∀ d, s.hasDom d = true → (s.railsUp.dom d).st = 2)
    ∧ (∀ m, s.hasPort m = true → (s.railsUp.port m).st = 1)
    ∧ (∀ x, s.hasRunner (x / 4) = true → (s.railsUp.quad x).st = quadStart x) ∧ s.railsUp.mem = s.mem := by
  obtain ⟨cold, u, hu, h⟩ := s.railsUp_eq
  have h2 := (s.domsOn.startPacers_unrailed cold).trans s.domsOn_unrailed
  have h3 := (s.domsOn.startPacers cold).trainPorts_unrailed.trans h2
  have h4 := (s.domsOn.startPacers cold).trainPorts.trainQuads_unrailed.trans h3
  have b2 := State.boot_of_unrailed h2
  have b3 := State.boot_of_unrailed h3
  have hdom : ∀ d, s.hasDom d = true → (u.dom d).st = 2 := fun d hd => by
    have key := State.domsOn_st (List.range 162) s hd (Or.inl (List.mem_range.2 (State.hasDom_lt hd)))
    rw [← State.domsOn_eq] at key
    rw [← hu, State.dom, State.trainQuads_pwr, State.trainPorts_pwr, State.startPacers_pwr]
    exact key
  have hport : ∀ m, s.hasPort m = true → (u.port m).st = 1 := fun m hm => by
    rw [← hu, State.trainQuads_port, State.trainPorts_st (by rw [State.hasPort, b2]; exact hm)]
  have hquad : ∀ x, s.hasRunner (x / 4) = true → (u.quad x).st = quadStart x := fun x hx => by
    rw [← hu]
    exact State.trainQuads_st (by rw [State.hasRunner, b3]; exact hx)
  rw [hu] at h4
  rw [h]
  exact ⟨rfl, hdom, hport, hquad, (State.mem_of_unrailed h4 :)⟩

/-! ### The roles after the self-test (R16) -/

theorem State.raiseSafety_faults (s : State) (row : Nat) (src : BitVec 32) (ctxs : List Nat) (detail : BitVec 64) :
    (s.raiseSafety row src ctxs detail).stone.faults = s.stone.faults ++
      [{ row, src, ctxs, detail, pacer := s.srcPacer src, running := s.runningOn (unitTile row src detail) }] := rfl

/-- Every tile that failed is reported, in order, with the pacer and the kernel of now. -/
theorem State.raise_all_faults : ∀ (failed : List Nat) (s : State),
    (failed.foldl (fun s t => s.raiseSafety 4 (srcId 1 t) [] 0) s).stone.faults = s.stone.faults ++ failed.map (fun t => {
      row := 4, src := srcId 1 t, ctxs := [], detail := 0, pacer := s.srcPacer (srcId 1 t)
      running := s.runningOn (unitTile 4 (srcId 1 t) 0) })
  | [], s => by simp
  | t :: l, s => by
    rw [List.foldl_cons, State.raise_all_faults l, State.raiseSafety_faults, List.append_assoc]
    rfl

theorem State.raise_all_boot (failed : List Nat) (s : State) :
    (failed.foldl (fun s t => s.raiseSafety 4 (srcId 1 t) [] 0) s).boot = s.boot := by
  apply foldl_part State.boot; intros; rfl

/-- The tiles take their roles: a retired one 3, a spare 1, any other 0. -/
def State.setRoles (s : State) (retired spares : List Nat) : State :=
  s.tileNos.foldl (fun s t => s.setTile t { s.tile t with
    role := if retired.contains t then 3 else if spares.contains t then 1 else 0
    refusing := retired.contains t }) s

theorem State.setRoles_role {s : State} {retired spares : List Nat} {t : Nat} (h : s.hasTile t = true) :
    ((s.setRoles retired spares).tile t).role = if retired.contains t then 3 else if spares.contains t then 1 else 0 :=
  foldl_read (read := State.tile) (P := fun t x => x.role = if retired.contains t then 3 else if spares.contains t then 1 else 0)
    (fun b k => by rw [State.setTile_tile]) (fun b k j hj => State.setTile_tile_ne _ _ _ _ hj) t _ s
    (List.mem_range.2 (of_decide_eq_true h))

theorem State.setRoles_stone (s : State) (retired spares : List Nat) : (s.setRoles retired spares).stone = s.stone := by
  unfold State.setRoles
  apply foldl_part State.stone; intros; rfl

def State.setFloors (s : State) : State :=
  ((List.range 16).filter s.hasPort).foldl (fun s m => s.setPort m { s.port m with floors := s.defaultFloors m }) s

theorem State.setFloors_tiles (s : State) : s.setFloors.tiles = s.tiles := by
  unfold State.setFloors
  apply foldl_part State.tiles; intros; rfl

theorem State.setFloors_stone (s : State) : s.setFloors.stone = s.stone := by
  unfold State.setFloors
  apply foldl_part State.stone; intros; rfl

/-- The tiles out of service after a self-test. -/
def State.retiredWith (s : State) (failed : List Nat) : List Nat :=
  s.stone.retired ++ failed.filter (fun t => !s.stone.retired.contains t)

theorem State.mem_retiredWith (s : State) (failed : List Nat) (t : Nat) :
    t ∈ s.retiredWith failed ↔ t ∈ failed ∨ t ∈ s.stone.retired := by
  simp only [State.retiredWith, List.mem_append, List.mem_filter, Bool.not_eq_true', List.contains_eq_mem,
    decide_eq_false_iff_not]
  tauto

/-- The roles and the reports are made before the votes follow. -/
theorem State.assignRoles_eq (s : State) (failed : List Nat) : ∃ v : State, s.assignRoles failed = v.revote
    ∧ v.boot.tested = true
    ∧ (∀ t, s.hasTile t = true → (v.tile t).role = if (s.retiredWith failed).contains t then 3
        else if (pickSpares s.boot.variant (s.retiredWith failed)).contains t then 1 else 0)
    ∧ v.stone.faults = s.stone.faults ++ failed.map (fun t => {
        row := 4, src := srcId 1 t, ctxs := [], detail := 0, pacer := s.srcPacer (srcId 1 t)
        running := s.runningOn (unitTile 4 (srcId 1 t) 0) }) := by
  let k := failed.foldl (fun s t => s.raiseSafety 4 (srcId 1 t) [] 0) s
  let u := (k.setRoles (s.retiredWith failed) (pickSpares s.boot.variant (s.retiredWith failed))).setFloors
  have hk : k.boot = s.boot := State.raise_all_boot failed s
  have hstone : u.stone = k.stone := (State.setFloors_stone _).trans (State.setRoles_stone _ _ _)
  refine ⟨{ u with
    stone := { u.stone with retired := s.retiredWith failed }
    boot := { u.boot with tested := true, usable := _ } }, rfl, rfl, fun t ht => ?_, ?_⟩
  · rw [← State.setRoles_role (s := k) (by rw [State.hasTile, hk]; exact ht)]
    exact congrArg (fun l => (tget ({} : Tile) l t).role) (State.setFloors_tiles _)
  · exact (congrArg Stone.faults hstone).trans (State.raise_all_faults failed s)

theorem State.assignRoles_spec (s : State) (failed : List Nat) : (s.assignRoles failed).boot.tested = true
    ∧ (∀ t, s.hasTile t = true → (t ∈ failed ∨ t ∈ s.stone.retired → ((s.assignRoles failed).tile t).role = 3)
        ∧ (t ∉ failed → t ∉ s.stone.retired → ((s.assignRoles failed).tile t).role
          = if t ∈ pickSpares s.boot.variant (s.retiredWith failed) then 1 else 0))
    ∧ (s.assignRoles failed).stone.faults = s.stone.faults ++ failed.map (fun t => {
        row := 4, src := srcId 1 t, ctxs := [], detail := 0, pacer := s.srcPacer (srcId 1 t)
        running := s.runningOn (unitTile 4 (srcId 1 t) 0) }) := by
  obtain ⟨v, h, htested, hrole, hfaults⟩ := s.assignRoles_eq failed
  have hq := v.revote_unpowered
  have role : ∀ t, s.hasTile t = true → ((s.assignRoles failed).tile t).role
      = if (s.retiredWith failed).contains t then 3
        else if (pickSpares s.boot.variant (s.retiredWith failed)).contains t then 1 else 0 := fun t ht => by
    rw [h, (v.revote_dims.1 t).role, hrole t ht]
  refine ⟨?_, fun t ht => ⟨fun hr => ?_, fun h1 h2 => ?_⟩, ?_⟩
  · rw [h]; exact (congrArg (fun u => u.boot.tested) hq :).trans htested
  · rw [role t ht, if_pos (by simpa using (s.mem_retiredWith failed t).2 hr)]
  · rw [role t ht, if_neg (by simpa [s.mem_retiredWith failed t] using ⟨h1, h2⟩)]
    simp only [List.contains_iff_mem]
  · rw [h]; exact (congrArg (fun u => u.stone.faults) hq :).trans hfaults

/-- Settles O51: the cold start step by step, each by the lemma about its step. -/
theorem coldStart : Obligations.ColdStart := by
  unfold Obligations.ColdStart
  intro s
  refine ⟨fun vin hv => ⟨fun h0 => ?_, exec_inputInRange_warm hv⟩, ?_, ?_, ?_, ?_, ?_, ?_, ?_, ?_⟩
  · obtain ⟨u, hu, hboot, hmem, hdom, hstone, hvin, horch, htray⟩ := s.aonUp_spec vin
    have h := u.signal_unsignalled
    rw [← hu] at h
    have hst : (s.aonUp vin).stone = u.stone := (congrArg State.stone h :)
    have hpwr : (s.aonUp vin).pwr = u.pwr := (congrArg State.pwr h :)
    refine ⟨_, exec_inputInRange_cold hv h0, ?_, ?_, ?_, ?_, ?_, ?_, ?_, ?_, ?_, ?_⟩
    · exact (congrArg (fun u => u.boot.step) h :).trans (congrArg Boot.step hboot)
    · rw [hst, hstone]
    · rw [hpwr, hvin]
    · rw [State.dom, hpwr]; exact hdom
    · rw [hst, hstone]
    · rw [hpwr, horch]
    · rw [hpwr, htray]
    · intro hr
      rw [State.latch, hst, hstone, if_pos hr, tget_tput_same]
    · intro hr
      rw [hst, hstone]
      simp [hr]
    · exact (congrArg State.mem h :).trans hmem
  · intro hstep hreset hc hb okA okB ok c
    refine ⟨_, if_pos (by simp [hstep, hreset, hb]), fun ht ho => ?_, fun ht ho => ?_, fun ht ho => ?_⟩
    · rw [State.bootVerify_none ht ho]
      have h := State.signal_unsignalled { s with sec := { s.sec with noBank := true, trial := false } }
      exact ⟨(congrArg (fun u => u.sec.noBank) h :), (congrArg (fun u => u.boot.step) h :).trans hstep,
        (congrArg (fun u => u.sec.trial) h :)⟩
    · rw [State.bootVerify_trial ht ho]
      exact s.bootFrom_spec _ _
    · rw [State.bootVerify_committed ht ho]
      exact s.bootFrom_spec _ _
  · intro h2 hp hr hc
    exact ⟨_, if_pos (by simp [h2, hp, hr, hc]), s.railsUp_spec⟩
  · intro failed h4 ht hf hd
    refine ⟨_, if_pos (by simp only [h4, ht, hf, hd, BEq.rfl, Bool.not_false, Bool.and_self, decide_true]), ?_⟩
    exact s.assignRoles_spec failed
  · intro h4 ht hp
    have hall : ((List.range 16).filter s.hasPort).all (fun m => (s.port m).st != 1) = true :=
      List.all_eq_true.2 fun m hm => bne_iff_ne.2 (hp m (List.mem_filter.1 hm).2)
    refine ⟨_, if_pos (by simp only [h4, ht, hall, Bool.and_self, decide_true]), ?_⟩
    have h := State.settleSafe_unsettled { s with
      hif := { s.hif with ready := true }
      boot := { s.boot with
        step := 6, phase := 2, maint := (s.boot.wantMaint || s.recoveryBoot) && !s.confBunch, wantMaint := false }
      stone := { s.stone with locked := true } }
    refine ⟨(congrArg (fun u => u.hif.ready) h :), (congrArg (fun u => u.boot.step) h :),
      (congrArg (fun u => u.stone.locked) h :), ?_, (congrArg (fun u => u.boot.wantMaint) h :),
      (congrArg State.tiles h :), (congrArg State.mem h :)⟩
    have hm : s.hostReady.boot.maint = ((s.boot.wantMaint || s.recoveryBoot) && !s.confBunch) :=
      (congrArg (fun u => u.boot.maint) h :)
    rw [hm]
    simp
  · intro sp wd fl h4 hl hs hw
    refine (if_pos (by simp [h4, hl])).trans ?_
    rw [Nat.mod_eq_of_lt hs, Nat.mod_eq_of_lt hw]
  · refine ⟨?_, rfl, rfl, rfl⟩
    change Host.Outcome.next (s.emit _) = _
    by_cases h : s.hif.ready = true ∧ s.hif.link = true
    · simp [h, State.emit, State.crossOut, Out.crosses]
    · simp [h, State.emit, State.crossOut, Out.crosses]
  · exact fun why => ⟨_, rfl, rfl, rfl, rfl, rfl, rfl, rfl, rfl⟩
  · intro g hg hs
    have hx : exec (.samplerTick g) s = .next (s.sampleGroup g) := if_pos (by simp [hg, hs])
    refine ⟨hx, fun hc h68 => ?_⟩
    rw [hx]
    simp only [State.sampleGroup, hc, Bool.and_false, Bool.false_eq_true, if_false, if_neg (Nat.not_lt.2 h68)]

end Sys2Proof.Machine
end

section
/-! PROOFS. What the end of a tile's operations and a stop of its kernel leave (R70, R195), and a tile's safety events (R52,
R57, R58, R392, R393). -/

namespace Sys2Proof.Machine

open Sys2Proof.Claims

/-! ### Writes, counters and traces leave tiles, the host interface and the Stone island -/

/-- The state without what a write of spots or a counter can touch: memory and its line tables, outputs and crossings, the
counters and the open values. -/
def State.unlanded (s : State) : State :=
  { s with mem := [], written := [], badLines := [], watch := [], out := [], xings := [], obs := {}, fresh := 0 }

theorem State.emit_unlanded (s : State) (o : Out) : (s.emit o).unlanded = s.unlanded := by
  unfold State.emit State.crossOut
  split <;> rfl

theorem State.count_unlanded (s : State) (g i k : Nat) : (s.count g i k).unlanded = s.unlanded := by
  unfold State.count
  dsimp only
  split <;> rfl

theorem State.poke_unlanded (s : State) (a : Nat) (b : Byte) : (s.poke a b).unlanded = s.unlanded := by
  unfold State.poke
  split <;> rfl

theorem State.pokeSpot_unlanded (s : State) (p : Spot) (b : Byte) : (s.pokeSpot p b).unlanded = s.unlanded := by
  cases p with
  | dev a m =>
    have h : ∀ (u : State) (c : Prop) [Decidable c] (k : Nat), (if c then u else u.poke k b).unlanded = u.unlanded := by
      intro u c _ k
      split
      · rfl
      · exact u.poke_unlanded k b
    cases m with
    | none => exact h s _ a
    | some k => exact (h _ _ k).trans (h s _ a)
  | _ => rfl

theorem State.pokeSpots_unlanded : ∀ (l : List (Spot × Byte)) (s : State), (s.pokeSpots l).unlanded = s.unlanded
  | [], _ => rfl
  | (p, b) :: r, s => (State.pokeSpots_unlanded r _).trans (s.pokeSpot_unlanded p b)

theorem State.renewLines_unlanded (s : State) (l : List Spot) : (s.renewLines l).unlanded = s.unlanded := by
  unfold State.renewLines
  split <;> rfl

theorem State.writeSpots_unlanded (s : State) (l : List Spot) (bs : List Byte) :
    (s.writeSpots l bs).unlanded = s.unlanded := by
  unfold State.writeSpots
  refine (foldl_part State.unlanded _ (fun s e => s.emit_unlanded _) _ _).trans ?_
  rw [State.renewLines_unlanded, State.pokeSpots_unlanded]

/-- Writes already issued that complete change no tile (R70, R274). -/
theorem State.landWrites_unlanded (s : State) (t : Nat) (o : EngOp) : (s.landWrites t o).unlanded = s.unlanded := by
  unfold State.landWrites
  split
  · change (State.moverStops s t o _ _).unlanded = _
    unfold State.moverStops State.countMoved State.partialWrite
    rw [State.count_unlanded, State.count_unlanded, State.writeSpots_unlanded]
    rfl
  · rfl

/-! ### The end of operations (R46, R70) -/

/-- What is left of a tile's kernel when operations end: all but their tokens and flags. -/
theorem State.closeOp_tile (s : State) (t : Nat) (o : EngOp) (err : Option Nat) : ∃ flags movers,
    (s.closeOp t o err).tile t = { s.tile t with
      core := { (s.tile t).core.setTok o.kd (match err with
        | none => { st := 2 }
        | some e => { st := 3, det := tokDetail o.eng e }) with flags }
      movers, ops := (s.tile t).ops.filter (fun p => p.id != o.id) } :=
  ⟨_, _, State.setTile_tile _ _ _⟩

/-- One aborted operation: its writes land and its token ends in ERROR. -/
def State.abortOp (s : State) (t code : Nat) (o : EngOp) : State := (s.landWrites t o).closeOp t o (some code)

theorem State.landWrites_tile (s : State) (t k : Nat) (o : EngOp) : (s.landWrites t o).tile k = s.tile k :=
  (congrArg (State.tile · k) (s.landWrites_unlanded t o) :)

theorem State.abortOp_tile (s : State) (t code : Nat) (o : EngOp) : ∃ flags movers,
    (s.abortOp t code o).tile t = { s.tile t with
      core := { (s.tile t).core.setTok o.kd { st := 3, det := tokDetail o.eng code } with flags }
      movers, ops := (s.tile t).ops.filter (fun p => p.id != o.id) } := by
  obtain ⟨flags, movers, h⟩ := (s.landWrites t o).closeOp_tile t o (some code)
  rw [State.landWrites_tile] at h
  exact ⟨flags, movers, h⟩

theorem State.abortOp_tile_ne (s : State) (t code k : Nat) (o : EngOp) (h : k ≠ t) : (s.abortOp t code o).tile k = s.tile k :=
  (State.setTile_tile_ne _ _ _ _ h).trans (s.landWrites_tile t k o)

/-- The state without its tiles and what landing writes touch. -/
def State.unended (s : State) : State := { s.unlanded with tiles := [] }

theorem State.abortOps_unended (s : State) (t code : Nat) : (s.abortOps t code).unended = s.unended := by
  unfold State.abortOps
  refine foldl_part State.unended _ (fun s o => ?_) _ _
  exact (congrArg (fun u : State => { u with tiles := [] }) (s.landWrites_unlanded t o) :)

theorem State.abortOps_eq (s : State) (t code : Nat) : s.abortOps t code = (s.tile t).ops.foldl (fun s o => s.abortOp t code o) s := rfl

section
variable (t code : Nat)

/-- A tile after operations of a list were aborted: those of the list are gone, and its kernel has only other tokens and flags. -/
theorem State.abort_list : ∀ (l : List EngOp) (s : State), ∃ tok flags movers,
    (l.foldl (fun s o => s.abortOp t code o) s).tile t = { s.tile t with
      core := { (s.tile t).core with tok, flags }, movers
      ops := (s.tile t).ops.filter (fun p => l.all (fun o => p.id != o.id)) }
  | [], s => ⟨(s.tile t).core.tok, (s.tile t).core.flags, (s.tile t).movers, by simp⟩
  | o :: l, s => by
    obtain ⟨f, m, h⟩ := s.abortOp_tile t code o
    obtain ⟨tok, flags, movers, h'⟩ := State.abort_list l (s.abortOp t code o)
    rw [h] at h'
    refine ⟨tok, flags, movers, h'.trans ?_⟩
    simp only [List.filter_filter, List.all_cons, Core.setTok]
    simp only [Bool.and_comm]

/-- The tokens of the aborted operations are in ERROR. -/
theorem State.abort_list_tok (kd : Nat) : ∀ (l : List EngOp) (s : State),
    (∃ o ∈ l, o.kd = kd) ∨ ((s.tile t).core.getTok kd).st = 3 →
    (((l.foldl (fun s o => s.abortOp t code o) s).tile t).core.getTok kd).st = 3
  | [], s, h => by simpa using h
  | o :: l, s, h => by
    refine State.abort_list_tok kd l _ ?_
    obtain ⟨f, m, ht⟩ := s.abortOp_tile t code o
    by_cases hk : o.kd = kd
    · right
      rw [ht, ← hk]
      exact congrArg Tok.st (Core.getTok_setTok _ _ _)
    · rcases h with ⟨p, hp, he⟩ | h
      · rcases List.mem_cons.1 hp with rfl | hp
        · exact absurd he hk
        · exact .inl ⟨p, hp, he⟩
      · right
        rw [ht]
        exact (congrArg Tok.st (Core.getTok_setTok_ne _ _ _ _ (Ne.symm hk))).trans h

end

/-- Aborting leaves a tile without operations and its kernel with other tokens and flags alone. -/
theorem State.abortOps_tile (s : State) (t code : Nat) : ∃ tok flags movers, (s.abortOps t code).tile t
    = { s.tile t with core := { (s.tile t).core with tok, flags }, movers, ops := [] } := by
  obtain ⟨tok, flags, movers, h⟩ := State.abort_list t code (s.tile t).ops s
  refine ⟨tok, flags, movers, h.trans ?_⟩
  have : (s.tile t).ops.filter (fun p => (s.tile t).ops.all (fun o => p.id != o.id)) = [] :=
    List.filter_eq_nil_iff.2 fun p hp h => by simpa using List.all_eq_true.1 h p hp
  rw [this]

theorem State.abortOps_tok {s : State} {t : Nat} {o : EngOp} (code : Nat) (h : o ∈ (s.tile t).ops) :
    (((s.abortOps t code).tile t).core.getTok o.kd).st = 3 := State.abort_list_tok t code o.kd _ s (.inl ⟨o, h, rfl⟩)

theorem State.abortOps_tile_ne (s : State) (t code k : Nat) (h : k ≠ t) : (s.abortOps t code).tile k = s.tile k := by
  rw [State.abortOps_eq]
  exact foldl_part (State.tile · k) _ (fun s o => s.abortOp_tile_ne t code k o h) _ _

/-- Without a started mover operation nothing has still to be written. -/
theorem State.abortOps_mem {s : State} {t : Nat} (code : Nat) (h : ∀ o ∈ (s.tile t).ops, o.eng < 3 ∨ o.started = false) :
    (s.abortOps t code).mem = s.mem := by
  have land : ∀ (u : State) (o : EngOp), o.eng < 3 ∨ o.started = false → (u.abortOp t code o).mem = u.mem := fun u o ho => by
    have hc : (decide (3 ≤ o.eng) && o.started) = false := by
      rcases ho with ho | ho
      · simp [Nat.not_le.2 ho]
      · simp [ho]
    rw [State.abortOp, State.landWrites, hc]
    rfl
  have all : ∀ (l : List EngOp) (u : State), (∀ o ∈ l, o.eng < 3 ∨ o.started = false) →
      (l.foldl (fun s o => s.abortOp t code o) u).mem = u.mem := fun l => by
    induction l with
    | nil => exact fun _ _ => rfl
    | cons o l ih =>
      intro u hl
      rw [List.foldl_cons, ih _ (fun p hp => hl p (List.mem_cons_of_mem _ hp)), land u o (hl o List.mem_cons_self)]
  exact all _ s h

/-! ### Stops (R194, R196) -/

/-- The stop that stands after another reason (R196): the first, but for a safety stop, which replaces it. -/
def Core.stopBy (c : Core) (st : Stop) : Stop :=
  match c.stop with
  | none => st
  | some old => if st.safety && !old.safety then { old with status := 8, safety := true } else old

theorem State.stopKernel_abort {s : State} {t : Nat} {r : Run} (h : (s.tile t).core.run = some r) (st : Stop) (code : Nat) :
    s.stopKernel t st (some code)
      = (s.setCore t { (s.tile t).core with stop := some ((s.tile t).core.stopBy st), stall := .exit }).abortOps t code := by
  simp only [State.stopKernel, h]
  rfl

/-- A stop that aborts: the tile keeps its kernel, which is stopped with nothing in progress. -/
theorem State.stopKernel_tile {s : State} {t : Nat} {r : Run} (h : (s.tile t).core.run = some r) (st : Stop) (code : Nat) :
    ∃ tok flags movers, (s.stopKernel t st (some code)).tile t = { s.tile t with
      core := { (s.tile t).core with stop := some ((s.tile t).core.stopBy st), stall := .exit, tok, flags }
      movers, ops := [] } := by
  obtain ⟨tok, flags, movers, ht⟩ := State.abortOps_tile (s.setCore t { (s.tile t).core with
    stop := some ((s.tile t).core.stopBy st), stall := .exit }) t code
  rw [← State.stopKernel_abort h st code] at ht
  exact ⟨tok, flags, movers, ht.trans (by rw [State.setCore, State.setTile_tile])⟩

theorem State.stopKernel_tile_ne {s : State} {t k : Nat} {r : Run} (h : (s.tile t).core.run = some r) (st : Stop) (code : Nat)
    (hk : k ≠ t) : (s.stopKernel t st (some code)).tile k = s.tile k := by
  rw [State.stopKernel_abort h, State.abortOps_tile_ne _ _ _ _ hk]
  exact State.setTile_tile_ne _ _ _ _ hk

theorem State.stopKernel_unended {s : State} {t : Nat} {r : Run} (h : (s.tile t).core.run = some r) (st : Stop) (code : Nat) :
    (s.stopKernel t st (some code)).unended = s.unended := by
  rw [State.stopKernel_abort h, State.abortOps_unended]
  rfl

/-! ### Reports to the Stone island (R443) -/

/-- What a report holds depends on the pacers and running kernels alone. -/
theorem reported_raiseSafety {s v : State} {row : Nat} {src : BitVec 32} {ctxs : List Nat} {detail : BitVec 64}
    (hf : v.stone.faults = s.stone.faults) (ht : v.time = s.time)
    (hk : ∀ k, (v.tile k).base = (s.tile k).base ∧ (v.tile k).core.run = (s.tile k).core.run) :
    Reported s (v.raiseSafety row src ctxs detail) row src ctxs detail := by
  have hp : v.srcPacer src = s.srcPacer src := by
    unfold State.srcPacer
    split
    · rw [State.pacer, State.pacer, ht, (hk _).1]
    · rfl
  have hr : v.runningOn (unitTile row src detail) = s.runningOn (unitTile row src detail) := by
    unfold State.runningOn
    cases unitTile row src detail with
    | none => rfl
    | some k => simp only [Option.bind_some, Core.ctx, (hk k).2]
  rw [Reported, State.raiseSafety_faults, hf, hp, hr]

theorem State.setTile_keeps (s : State) (t k : Nat) (x : Tile) (hb : x.base = (s.tile t).base)
    (hr : x.core.run = (s.tile t).core.run) :
    ((s.setTile t x).tile k).base = (s.tile k).base ∧ ((s.setTile t x).tile k).core.run = (s.tile k).core.run := by
  by_cases hk : k = t
  · subst hk; rw [State.setTile_tile]; exact ⟨hb, hr⟩
  · rw [State.setTile_tile_ne _ _ _ _ hk]; exact ⟨rfl, rfl⟩

theorem State.runCtx_of_run {s : State} {t : Nat} {r : Run} (h : (s.tile t).core.run = some r) :
    s.runCtx t = some r.launch.ctx := by simp [State.runCtx, Core.ctx, h]

/-- CORE_LOCKSTEP (R52). -/
theorem exec_coreLockstep {s : State} {t : Nat} {r : Run} (h : (s.tile t).core.run = some r) :
    exec (.coreLockstep t) s
      = .next ((s.stopKernel t { status := 8, safety := true } (some 0xE1)).raiseSafety 0 (srcId 1 t) [r.launch.ctx] 0) := by
  change execCoreLockstep t s = _
  rw [execCoreLockstep, State.runCtx_of_run h]
  rfl

/-! ### The patrol scrubber (R57, R58) -/

theorem tsAddr_line (t line : Nat) : tsAddr t (line * 64) / 64 * 64 = tsAddr t (line * 64) := by
  unfold tsAddr; omega

theorem isStore_tsAddr {t line : Nat} (ht : t < 128) (hl : line < 8388608) : isStore (tsAddr t (line * 64)) = true := by
  rw [isStore, fld_eq, beq_iff_eq]; unfold tsAddr; omega

theorem fld_tsAddr_tile {t line : Nat} (ht : t < 128) (hl : line < 8388608) : fld (tsAddr t (line * 64)) 32 7 = t := by
  rw [fld_eq]; unfold tsAddr; omega

theorem fld_tsAddr_off {t line : Nat} (hl : line < 8388608) : fld (tsAddr t (line * 64)) 0 29 = line * 64 := by
  rw [fld_zero]; unfold tsAddr; omega

theorem State.hasTile_lt {s : State} {t : Nat} (h : s.hasTile t = true) : t < 68 := by
  have : tilesOf s.boot.variant ≤ 68 := by cases s.boot.variant <;> decide
  have := of_decide_eq_true h
  omega

section
variable {s : State} {a : Nat} (hw : s.lineWritten a = true) (ha : a / 64 * 64 = a)
include hw ha

theorem State.eccLines_line : s.eccLines [.dev a none] = [a / 64] := by
  simp [State.eccLines, State.served, State.readAddr, ha, hw, List.eraseDups_cons]

theorem State.errLines_line : s.errLines [.dev a none] = [a / 64] := by
  unfold State.errLines
  rw [State.eccLines_line hw ha]
  by_cases h : s.badLines.contains (a / 64) = true <;> simp [List.filter_cons]

theorem State.countEcc_line (res : Res) : s.countEcc [.dev a none] res = s.countLine res (a / 64) := by
  rw [State.countEcc, State.errLines_line hw ha]
  rfl

theorem State.moveRes_line (h : s.spotRes (.dev a none) = .ok) (res : Res) :
    s.moveRes [.dev a none] [] res = if a / 64 ∈ s.badLines then .uncorrectable else res := by
  simp [State.moveRes, State.rangeRes, h, State.badSpot, State.served, State.readAddr, State.seenRes, State.eccLines_line hw ha]

end

section
variable (s : State) {t line : Nat} (ht : t < 128) (hl : line < 8388608)
include ht hl

/-- A line of a present tile's store counts its errors in that tile (R57). -/
theorem State.countLine_corrected : s.countLine .corrected (tsAddr t (line * 64) / 64)
    = s.setTile t { s.tile t with ce := min 0xFFFFFF ((s.tile t).ce + 1) } := by
  simp only [State.countLine, tsAddr_line, isStore_tsAddr ht hl, fld_tsAddr_tile ht hl, if_true, satAdd]

theorem State.countLine_uncorrectable : s.countLine .uncorrectable (tsAddr t (line * 64) / 64)
    = { (s.setTile t { s.tile t with ue := min 0xFFFF ((s.tile t).ue + 1), ueBank := bankOf (line * 64) }) with
        badLines := if tsAddr t (line * 64) / 64 ∈ s.badLines then s.badLines
          else s.badLines ++ [tsAddr t (line * 64) / 64] } := by
  simp only [State.countLine, tsAddr_line, isStore_tsAddr ht hl, fld_tsAddr_tile ht hl, fld_tsAddr_off hl, if_true, satAdd,
    List.contains_iff_mem, State.setTile_badLines]

theorem State.countLine_clean {res : Res} (h1 : res ≠ .corrected) (h2 : res ≠ .uncorrectable) :
    s.countLine res (tsAddr t (line * 64) / 64) = s := by
  simp only [State.countLine, tsAddr_line, isStore_tsAddr ht hl, if_true]

end

/-- An uncorrectable line of a tile's store: counted, and row 1 with the contexts that it served (R57). -/
theorem State.ueRead_store {s : State} {t line : Nat} (ht : t < 128) (hl : line < 8388608)
    (hw : s.lineWritten (tsAddr t (line * 64)) = true) (ctxs : List Nat) :
    ∃ n, s.ueRead [.dev (tsAddr t (line * 64)) none] ctxs
      = { ((s.countLine .uncorrectable (tsAddr t (line * 64) / 64)).raiseSafety 1 (srcId 1 t) ctxs 0) with fresh := n } := by
  unfold State.ueRead
  rw [State.countEcc_line hw (tsAddr_line t line), State.errLines_line hw (tsAddr_line t line)]
  have hr : ∀ u : State, u.raiseUe [tsAddr t (line * 64) / 64] ctxs = u.raiseSafety 1 (srcId 1 t) ctxs 0 := fun u => by
    simp only [State.raiseUe, List.map_cons, List.map_nil, tsAddr_line, isStore_tsAddr ht hl, fld_tsAddr_tile ht hl, if_true]
    rfl
  rw [hr]
  exact ⟨_, rfl⟩

/-- The scrubber reads a written line of a present tile (R58). -/
theorem exec_patrolScrub_ue {s : State} {t line : Nat} {res : Res} (ht : s.hasTile t = true)
    (hw : s.lineWritten (tsAddr t (line * 64)) = true)
    (h : s.moveRes [.dev (tsAddr t (line * 64)) none] [] res = .uncorrectable) : exec (.patrolScrub t line res) s
      = .next (s.ueRead [.dev (tsAddr t (line * 64)) none] (s.granuleOwner t (line / 0x8000)).toList) := by
  change execPatrolScrub t line res s = _
  simp only [execPatrolScrub, ht, hw, h, Bool.and_self, if_true]

theorem exec_patrolScrub {s : State} {t line : Nat} {res r : Res} (ht : s.hasTile t = true)
    (hw : s.lineWritten (tsAddr t (line * 64)) = true) (h : s.moveRes [.dev (tsAddr t (line * 64)) none] [] res = r)
    (hr : r ≠ .uncorrectable) : exec (.patrolScrub t line res) s = .next (s.countLine r (tsAddr t (line * 64) / 64)) := by
  change execPatrolScrub t line res s = _
  rw [← State.countEcc_line hw (tsAddr_line t line)]
  simp only [execPatrolScrub, ht, hw, h, Bool.and_self, if_true]

/-! ### Traces (R501) -/

theorem State.count_tiles (s : State) (g i k : Nat) : (s.count g i k).tiles = s.tiles :=
  (congrArg State.tiles (s.count_unlanded g i k) :)

/-- Traffic of no tile changes no tile. -/
theorem State.portMove_tiles (s : State) (m cls n : Nat) : (s.portMove m cls 73 n).tiles = s.tiles := by
  have hc : ∀ (u : State) (b : Bool), (if b then u else u.count (68 + m) (16 + 73) n).tiles = u.tiles := by
    intro u b
    split
    · rfl
    · exact u.count_tiles _ _ _
  simp only [State.portMove, show ¬ (73 : Nat) < 68 by decide, if_false]
  rw [hc, State.count_tiles]
  split <;> rfl

theorem State.moveLines_tiles (s : State) (cls : Nat) (ls : List Nat) : (s.moveLines cls 73 ls).tiles = s.tiles := by
  unfold State.moveLines
  refine foldl_part State.tiles _ (fun s m => ?_) _ _
  dsimp only
  split
  · rfl
  · exact s.portMove_tiles _ _ _

theorem State.smpPut_tiles (s : State) (line : Nat) (bs : List Byte) : (s.smpPut line bs).tiles = s.tiles := by
  unfold State.smpPut
  dsimp only
  split
  · refine (congrArg State.tiles (State.writeSpots_unlanded _ _ _) :).trans ?_
    exact (State.moveLines_tiles _ _ _).trans (State.moveLines_tiles _ _ _)
  · exact State.emit_tiles _ _

theorem State.smpRecord_tiles (s : State) (src : BitVec 32) (lines : Nat) (body : List Byte)
    (hdr : BitVec 32 → Nat → Bool → List Byte) : (s.smpRecord src lines body hdr).tiles = s.tiles := by
  simp only [State.smpRecord, apply_ite State.tiles, State.smpPut_tiles, ite_self]
  rfl

theorem State.traceFlush_tiles (s : State) (t : Nat) : (s.traceFlush t).tiles = s.tiles := by
  unfold State.traceFlush
  dsimp only
  split
  · rfl
  · exact State.smpRecord_tiles _ _ _ _ _

theorem State.traceEmit_tiles (s : State) (t : Nat) (full : Bool) (type code : Nat) (value : Word) :
    (s.traceEmit t full type code value).tiles = s.tiles := by
  unfold State.traceEmit
  simp only [apply_ite State.tiles, State.traceFlush_tiles, State.setTrace_tiles, ite_self]

/-- WATCHDOG_EXPIRE of a kernel that nothing has stopped yet (R195, R392). -/
theorem State.takeWatchdog_tile {s : State} {t : Nat} {r : Run} (h : (s.tile t).core.run = some r)
    (hs : (s.tile t).core.stop = none) : ∃ tok flags movers, (s.takeWatchdog t).tile t = { s.tile t with
      core := { (s.tile t).core with stop := some { status := 7, trap := 7 }, stall := .exit, tok, flags }, movers, ops := [] } := by
  let v := (s.count t 22 1).traceEmit t false 4 7 (s.tile t).core.pc
  have hv : v.tile t = s.tile t := by
    have : v.tiles = s.tiles := (State.traceEmit_tiles _ _ _ _ _ _).trans (congrArg State.tiles (s.count_unlanded t 22 1) :)
    rw [State.tile, this, State.tile]
  obtain ⟨tok, flags, movers, ht⟩ := State.stopKernel_tile (s := v) (t := t) (by rw [hv]; exact h)
    { status := trapStatus 7, trap := 7 } 0xE0
  refine ⟨tok, flags, movers, ?_⟩
  have hstop : (v.tile t).core.stopBy { status := trapStatus 7, trap := 7 } = { status := 7, trap := 7 } := by
    rw [Core.stopBy, hv, hs]; rfl
  rw [hstop, hv] at ht
  rw [← ht]
  simp only [State.takeWatchdog, hs]
  rw [State.tile, State.fault_tiles]
  rfl

/-- Settles O36: each event by the lemma about it. -/
theorem tileFaults : Obligations.TileFaults := by
  unfold Obligations.TileFaults
  intro s t
  refine ⟨fun r hr => ?_, fun ht => ?_, fun line hl ht hw => ?_, fun r hr hh hb hd => ?_, fun r st hr hst htrap => ?_⟩
  · obtain ⟨tok, flags, movers, htile⟩ := State.stopKernel_tile hr { status := 8, safety := true } 0xE1
    have hrest := State.stopKernel_unended hr { status := 8, safety := true } 0xE1
    refine ⟨_, exec_coreLockstep hr, ?_, congrArg Tile.ops htile, congrArg (fun x => x.core.stall) htile,
      (congrArg State.hif hrest :), fun ho => ?_, fun hs => ?_, fun st hs hsafe => ?_, fun o ho => ?_⟩
    · refine reported_raiseSafety (congrArg (fun u => u.stone.faults) hrest :) (congrArg State.time hrest :) (fun k => ?_)
      by_cases hk : k = t
      · subst hk; rw [htile]; exact ⟨rfl, rfl⟩
      · rw [State.stopKernel_tile_ne hr _ _ hk]; exact ⟨rfl, rfl⟩
    · refine (congrArg State.mem (State.stopKernel_abort hr _ _)).trans ?_
      exact State.abortOps_mem 0xE1 (by rw [State.setCore, State.setTile_tile]; exact ho)
    · exact (congrArg (fun x => x.core.stop) htile).trans (by rw [Core.stopBy, hs])
    · have hb : (s.tile t).core.stopBy { status := 8, safety := true } = { st with status := 8, safety := true } := by
        simp [Core.stopBy, hs, hsafe]
      exact (congrArg (fun x => x.core.stop) htile).trans (congrArg some hb)
    · have htok := State.abortOps_tok (s := s.setCore t { (s.tile t).core with
        stop := some ((s.tile t).core.stopBy { status := 8, safety := true }), stall := .exit }) (t := t) (o := o) 0xE1
        (by rw [State.setCore, State.setTile_tile]; exact ho)
      rw [← State.stopKernel_abort hr] at htok
      exact htok
  · refine ⟨_, if_pos ht, State.setTile_tile _ _ _, ?_, fun k hk => State.setTile_tile_ne _ _ _ _ hk, rfl, rfl⟩
    exact reported_raiseSafety rfl rfl (fun k => s.setTile_keeps t k _ rfl rfl)
  · have ht' : t < 128 := by have := State.hasTile_lt ht; omega
    intro n found
    refine ⟨fun res h1 h2 => ?_, fun res h => ?_, fun res h => ?_, fun h res => State.moveRes_line hw (tsAddr_line t line) h res⟩
    · rw [exec_patrolScrub ht hw rfl h2, State.countLine_clean s ht' hl h1 h2]
    · rw [exec_patrolScrub ht hw h (by decide), State.countLine_corrected s ht' hl]
    · obtain ⟨k, hu⟩ := State.ueRead_store ht' hl hw (s.granuleOwner t (line / 0x8000)).toList
      refine ⟨_, exec_patrolScrub_ue ht hw h, ?_⟩
      rw [hu, State.countLine_uncorrectable s ht' hl]
      refine ⟨State.setTile_tile _ _ _, rfl, rfl, rfl, ?_, fun k hk => State.setTile_tile_ne _ _ _ _ hk⟩
      exact reported_raiseSafety rfl rfl (fun k => s.setTile_keeps t k _ rfl rfl)
  · have hdue : s.watchdogDue t = true := by
      simp only [State.watchdogDue, hr, hh, hd, Bool.not_false, decide_true, Bool.and_self]
    have hx : exec (.watchdogExpire t) s = .next (s.takeWatchdog t) := if_pos (by rw [hdue, hb]; rfl)
    refine ⟨fun hs => ?_, fun st hs => ?_⟩
    · obtain ⟨tok, flags, movers, h⟩ := State.takeWatchdog_tile hr hs
      exact ⟨_, hx, by rw [h], by rw [h], by rw [h], by rw [h]; exact hr⟩
    · have he : s.takeWatchdog t = s.abortOps t 0xE0 := by simp only [State.takeWatchdog, hs]
      obtain ⟨tok, flags, movers, h⟩ := s.abortOps_tile t 0xE0
      have hrest := s.abortOps_unended t 0xE0
      rw [hx, he]
      exact ⟨_, rfl, by rw [h], by rw [h]; exact hs, (congrArg State.hif hrest :), (congrArg State.stone hrest :),
        State.abortOps_mem 0xE0⟩
  · change execWatchdogEscalate t s = _
    simp [execWatchdogEscalate, hr, hst, htrap]

end Sys2Proof.Machine
end

section
/-! PROOFS. Packets (R259), what a router's failure does to its unit (R269), and the route-around (R266 to R268). -/

namespace Sys2Proof.Machine

open Sys2Proof.Claims

/-! ### Packets (R259) -/

/-- A packet holds a byte at least and 512 at most, of its range and of its 4 KiB. -/
theorem packetSize_bounds (a n : Nat) (hn : 0 < n) :
    0 < packetSize a n ∧ packetSize a n ≤ 512 ∧ packetSize a n ≤ n ∧ a % 4096 + packetSize a n ≤ 4096 := by
  have := Nat.mod_lt a (show 0 < 4096 by decide)
  unfold packetSize
  dsimp only
  split
  · omega
  split
  · omega
  split <;> omega

/-- The packets of a range carry all its bytes. -/
theorem cutPackets_sum : ∀ (k a n c : Nat), n ≤ k → ((cutPackets k a n).map Prod.snd).foldl (· + ·) c = c + n
  | 0, a, n, c, h => by
    obtain rfl : n = 0 := by omega
    rfl
  | k + 1, a, n, c, h => by
    unfold cutPackets
    split
    · next h0 => subst h0; rfl
    · next h0 =>
      obtain ⟨hpos, -, hle, -⟩ := packetSize_bounds a n (by omega)
      rw [List.map_cons, List.foldl_cons, cutPackets_sum k _ _ _ (by omega)]
      dsimp only
      omega

/-- Each packet lies within its range and its 4 KiB. -/
theorem cutPackets_bounds : ∀ (k a n : Nat), ∀ p ∈ cutPackets k a n,
    0 < p.2 ∧ p.2 ≤ 512 ∧ a ≤ p.1 ∧ p.1 + p.2 ≤ a + n ∧ p.1 / 4096 = (p.1 + p.2 - 1) / 4096
  | 0, a, n, p, h => by simp [cutPackets] at h
  | k + 1, a, n, p, h => by
    unfold cutPackets at h
    split at h
    · simp at h
    · next h0 =>
      obtain ⟨hpos, h512, hle, hpage⟩ := packetSize_bounds a n (by omega)
      rcases List.mem_cons.1 h with rfl | h
      · dsimp only
        omega
      · obtain ⟨h1, h2, h3, h4, h5⟩ := cutPackets_bounds k _ _ p h
        exact ⟨h1, h2, by omega, by omega, h5⟩

/-! ### The units behind a failed router (R269) -/

theorem State.updBunch_uncomp (s : State) (b : BitVec 32) (f : Bunch → Bunch) :
    { s.updBunch b f with comp := {} } = { s with comp := {} } := by
  unfold State.updBunch
  split <;> rfl

/-- The state without its bunches. -/
def State.uncomp (s : State) : State := { s with comp := {} }

theorem State.degrade_uncomp (s : State) (b : BitVec 32) : (s.degrade b).uncomp = s.uncomp := by
  unfold State.degrade
  refine (foldl_part State.uncomp _ (fun s a => s.updBunch_uncomp a _) _ _).trans ?_
  exact s.updBunch_uncomp b _

theorem State.failPort_uncomp (s : State) (m : Nat) :
    (s.failPort m).uncomp = (s.setPort m { s.port m with st := 4 }).uncomp := by
  unfold State.failPort
  exact foldl_part State.uncomp _ (fun s b => s.degrade_uncomp b) _ _

theorem State.failPort_port (s : State) (m : Nat) : (s.failPort m).port m = { s.port m with st := 4 } :=
  (congrArg (State.port · m) (s.failPort_uncomp m) :).trans (State.setPort_port _ _ _)

/-- One quad of a port that has lost its link. -/
def State.quadLost (s : State) (x j : Nat) : State :=
  let q := 4 * x + j
  let s := if (s.quad q).st = 3 then (s.quadDown q).quadFault q 0x0400 else s
  if s.hasRunner x && (s.quad q).st != 1 then s.setQuad q { s.quad q with st := 4 } else s

theorem State.portLinkLost_eq (s : State) (x : Nat) : s.portLinkLost x = (List.range 4).foldl (fun s j => s.quadLost x j) s := rfl

/-- A quad that is not READY carries nothing: it is DOWN unless it was never trained, and nothing else changes. -/
theorem State.quadLost_unready {s : State} {x j : Nat} (hx : s.hasRunner x = true) (hj : (s.quad (4 * x + j)).st ≠ 3) :
    ((s.quadLost x j).quad (4 * x + j)).st = (if (s.quad (4 * x + j)).st = 1 then 1 else 4)
      ∧ (∀ y, y ≠ 4 * x + j → (s.quadLost x j).quad y = s.quad y)
      ∧ { s.quadLost x j with quads := [] } = { s with quads := [] } := by
  simp only [State.quadLost, if_neg hj, hx, Bool.true_and, bne_iff_ne, ne_eq]
  by_cases h1 : (s.quad (4 * x + j)).st = 1
  · simp [h1]
  · simp only [h1, not_false_eq_true, if_true, if_false, State.setQuad_quad, true_and]
    exact ⟨fun y hy => State.setQuad_quad_ne _ _ _ _ hy, rfl⟩

/-- Quads of a port, none of them READY, go DOWN one by one. -/
theorem State.quadsLost {x : Nat} : ∀ (l : List Nat) (s : State), l.Nodup → s.hasRunner x = true →
    (∀ j ∈ l, (s.quad (4 * x + j)).st ≠ 3) →
    (∀ j ∈ l, ((l.foldl (fun s j => s.quadLost x j) s).quad (4 * x + j)).st = if (s.quad (4 * x + j)).st = 1 then 1 else 4)
      ∧ (∀ y, (∀ j ∈ l, y ≠ 4 * x + j) → (l.foldl (fun s j => s.quadLost x j) s).quad y = s.quad y)
      ∧ { l.foldl (fun s j => s.quadLost x j) s with quads := [] } = { s with quads := [] }
  | [], s, _, _, _ => ⟨by simp, fun _ _ => rfl, rfl⟩
  | j :: l, s, hn, hx, hq => by
    obtain ⟨hj, hn⟩ := List.nodup_cons.1 hn
    obtain ⟨h1, h2, h3⟩ := State.quadLost_unready hx (hq j List.mem_cons_self)
    have hne : ∀ k ∈ l, 4 * x + k ≠ 4 * x + j := fun k hk e => hj (by rwa [show j = k by omega])
    have hx' : (s.quadLost x j).hasRunner x = true := (congrArg (State.hasRunner · x) h3 :).trans hx
    obtain ⟨i1, i2, i3⟩ := State.quadsLost l (s.quadLost x j) hn hx' fun k hk => by
      rw [h2 _ (hne k hk)]; exact hq k (List.mem_cons_of_mem _ hk)
    refine ⟨fun k hk => ?_, fun y hy => ?_, i3.trans h3⟩
    · rcases List.mem_cons.1 hk with rfl | hk
      · rw [List.foldl_cons, i2 _ (fun k hk => (hne k hk).symm), h1]
      · rw [List.foldl_cons, i1 k hk, h2 _ (hne k hk)]
    · rw [List.foldl_cons, i2 y (fun k hk => hy k (List.mem_cons_of_mem _ hk)), h2 y (hy j List.mem_cons_self)]

/-- A runner's quads, none of them READY, go DOWN as its port loses its link; tiles and memory stay. -/
theorem State.portLinkLost_unready (s : State) {x : Nat} (hx : s.hasRunner x = true)
    (hq : ∀ j, j < 4 → (s.quad (4 * x + j)).st ≠ 3) :
    (∀ j, j < 4 → ((s.portLinkLost x).quad (4 * x + j)).st = if (s.quad (4 * x + j)).st = 1 then 1 else 4)
      ∧ (s.portLinkLost x).tiles = s.tiles ∧ (s.portLinkLost x).mem = s.mem := by
  have h := State.quadsLost (List.range 4) s List.nodup_range hx fun j hj => hq j (List.mem_range.1 hj)
  rw [← State.portLinkLost_eq] at h
  generalize s.portLinkLost x = u at h ⊢
  obtain ⟨h1, -, h3⟩ := h
  exact ⟨fun j hj => h1 j (List.mem_range.2 hj), (congrArg State.tiles h3 :), (congrArg State.mem h3 :)⟩

/-! ### A tile out of service (R269, R452) -/

/-- A tile that holds no kernel and no slots, and refuses. -/
def Tile.Bare (x : Tile) : Prop := x.refusing = true ∧ x.core.run = none ∧ x.slots = []

theorem Tile.Fell.bare {x y : Tile} (h : x.Fell y) (hx : x.Bare) : y.Bare := by
  rcases h with rfl | rfl
  · exact hx
  · exact ⟨Eq.refl _, Eq.refl _, Eq.refl _⟩

/-- An invariant of every step of a fold holds at its end. -/
theorem foldl_inv {α β : Type} {P : β → Prop} {f : β → α → β} (h : ∀ b a, P b → P (f b a)) :
    ∀ (l : List α) (b : β), P b → P (l.foldl f b)
  | [], _, hb => hb
  | a :: l, b, hb => foldl_inv h l _ (h b a hb)

theorem State.setTile_bare {s : State} {t k : Nat} {x : Tile} (h : (s.tile t).Bare) (hx : (s.tile k).Bare → x.Bare) :
    ((s.setTile k x).tile t).Bare := by
  by_cases hk : t = k
  · subst hk; rw [State.setTile_tile]; exact hx h
  · rw [State.setTile_tile_ne _ _ _ _ hk]; exact h

theorem State.countLine_bare {s : State} {t : Nat} (h : (s.tile t).Bare) (res : Res) (n : Nat) :
    ((s.countLine res n).tile t).Bare := by
  unfold State.countLine
  dsimp only
  split
  · cases res with
    | corrected => exact State.setTile_bare h id
    | uncorrectable => exact State.setTile_bare h id
    | _ => exact h
  · cases res <;> exact h

theorem State.countEcc_bare {s : State} {t : Nat} (h : (s.tile t).Bare) (l : List Spot) (res : Res) :
    ((s.countEcc l res).tile t).Bare :=
  foldl_inv (P := fun u => (State.tile u t).Bare) (fun _ n hu => State.countLine_bare hu res n) _ s h

theorem State.ueRead_bare {s : State} {t : Nat} (h : (s.tile t).Bare) (l : List Spot) (ctxs : List Nat) :
    ((s.ueRead l ctxs).tile t).Bare := by
  refine foldl_inv (P := fun u => (State.tile u t).Bare) (fun _ _ hu => ?_) _ _ (State.countEcc_bare h l .uncorrectable)
  exact hu

theorem State.emit_bare {s : State} {t : Nat} (h : (s.tile t).Bare) (o : Out) : ((s.emit o).tile t).Bare := by
  rw [State.emit_tile]; exact h

theorem State.serveBar_bare {s : State} {t : Nat} (h : (s.tile t).Bare) (b : BarReq) (res : Res) :
    ((s.serveBar b res).tile t).Bare := by
  unfold State.serveBar
  dsimp only
  split
  · split
    · exact h
    · exact State.emit_bare h _
  split
  · have hc : ((s.countRefused b.spots .refused).tile t).Bare := h
    split
    · exact hc
    · exact State.emit_bare hc _
  split
  · rw [show ((s.writeSpots b.spots (b.data.take b.len)).tile t) = s.tile t from
      (congrArg (State.tile · t) (s.writeSpots_unlanded _ _) :)]
    exact h
  split
  · exact State.ueRead_bare (State.emit_bare h _) _ _
  split
  · exact State.emit_bare h _
  · exact State.emit_bare (State.countEcc_bare h _ _) _

theorem State.takeBar_bare {s : State} {t : Nat} (h : (s.tile t).Bare) (b : BarReq) (res : Res) :
    ((s.takeBar b res).tile t).Bare := by
  unfold State.takeBar
  dsimp only
  split
  · exact State.serveBar_bare h b res
  split
  · refine ((State.evalDom_dims _ _).1 t).bare ?_
    exact State.setTile_bare h id
  split
  · exact h
  · exact State.serveBar_bare h b res

theorem State.emptyBars_bare {s : State} {t : Nat} (h : (s.tile t).Bare) (k : Nat) : ((s.emptyBars k).tile t).Bare :=
  foldl_inv (P := fun u => (State.tile u t).Bare) (fun _ b hu => State.takeBar_bare hu b _) _ _ h

/-- A tile reset holds nothing and refuses, whatever it held (R393, R452). -/
theorem State.resetTile_bare (s : State) (t : Nat) : ((s.resetTile t).tile t).Bare := by
  refine State.emptyBars_bare ?_ t
  exact (congrArg Tile.Bare (State.setTile_tile _ _ _)).mpr ⟨rfl, rfl, rfl⟩

theorem State.setRole_tile (s : State) (t role : Nat) : (s.setRole t role).tile t = { s.tile t with role } :=
  State.setTile_tile _ _ _

theorem State.setRole_bare {u : State} {t : Nat} (role : Nat) (h : (u.tile t).Bare) :
    ((u.setRole t role).tile t).role = role ∧ ((u.setRole t role).tile t).Bare := by
  rw [State.setRole_tile]
  exact ⟨rfl, h⟩

theorem State.leaveFor_tile (s : State) (t role : Nat) :
    ((s.leaveFor t role).tile t).role = role ∧ ((s.leaveFor t role).tile t).Bare := by
  unfold State.leaveFor
  exact State.setRole_bare role (State.resetTile_bare _ t)

theorem State.unitCut_tile (s : State) {i t : Nat} (h : routerUnit i = some (0, t)) : s.unitCut i = s.retireTile t := by
  unfold State.unitCut; split <;> simp_all

theorem State.unitCut_port (s : State) {i m : Nat} (h : routerUnit i = some (1, m)) : s.unitCut i = s.failPort m := by
  unfold State.unitCut; split <;> simp_all

theorem State.unitCut_runner (s : State) {i x : Nat} (h : routerUnit i = some (2, x)) : s.unitCut i = s.portLinkLost x := by
  unfold State.unitCut; split <;> simp_all

/-- The Stone island's lists with a tile RETIRED (R15). -/
def State.markRetired (s : State) (t : Nat) : State :=
  { s with stone := { s.stone with
    retired := if s.stone.retired.contains t then s.stone.retired else s.stone.retired ++ [t]
    inTurn := s.stone.inTurn.erase t, asked := s.stone.asked.erase t, overdue := s.stone.overdue.erase t } }

theorem State.mem_markRetired (s : State) (t : Nat) : t ∈ (s.markRetired t).stone.retired := by
  unfold State.markRetired
  dsimp only
  split
  · next h => exact List.contains_iff_mem.1 h
  · exact List.mem_append_right _ List.mem_cons_self

theorem State.markRetired_tile (s : State) (t k : Nat) : (s.markRetired t).tile k = s.tile k := rfl

theorem State.retireTile_eq (s : State) (t : Nat) :
    s.retireTile t = (((s.cancelGrafts t).leaveFor t 3).markRetired t).revote := rfl

/-! ### ROUTER_FAILED (R266, R267) -/

theorem State.hasRouter_lt {s : State} {i : Nat} (h : s.hasRouter i = true) : i < 128 := by
  have hq : quartersOf s.boot.variant ≤ 4 := by cases s.boot.variant <;> decide
  simp only [State.hasRouter, Bool.and_eq_true, decide_eq_true_eq] at h
  omega

/-- A router's report carries no pacer and no kernel: its source is no tile. -/
theorem srcTile_router {i : Nat} (h : i < 128) : srcTile (srcId 6 i) = none := by
  have h6 : fld (srcId 6 i).toNat 28 4 = 6 := by
    rw [fld_eq, srcId, BitVec.toNat_ofNat]; omega
  simp [srcTile, h6]

theorem State.raiseSafety_router (s : State) {i : Nat} (h : i < 128) : (s.raiseSafety 15 (srcId 6 i) [] 0).stone.faults
    = s.stone.faults ++ [{ row := 15, src := srcId 6 i, ctxs := [], detail := 0 }] := by
  rw [State.raiseSafety_faults]
  simp only [State.srcPacer, srcTile_router h, unitTile, State.runningOn]
  rfl

theorem State.cutRouter_faults (s : State) {i : Nat} (h : i < 128) : ∃ l, (s.cutRouter i).stone.faults
    = l ++ [{ row := 15, src := srcId 6 i, ctxs := [], detail := 0 }] := ⟨_, State.raiseSafety_router _ h⟩

theorem exec_routerFailed {s : State} {i : Nat} {why : RouterWhy} (hr : s.hasRouter i = true) (hf : s.routerFailed i = false) :
    exec (.routerFailed i why) s = .next (s.failRouter i) := if_pos (by rw [hr, hf]; rfl)

/-- The pause of injection is the announcement and the routers' own state (R267 step 2). -/
theorem State.pauseRoutes_spec (s : State) : s.pauseRoutes.out = .routePause :: s.out
    ∧ s.pauseRoutes.bram = { s.bram with paused := true, around := true, empty := [] } ∧ s.pauseRoutes.tiles = s.tiles
    ∧ s.pauseRoutes.mem = s.mem ∧ s.pauseRoutes.comp = s.comp ∧ s.pauseRoutes.stone = s.stone :=
  ⟨rfl, rfl, rfl, rfl, rfl, rfl⟩

/-! ### ROUTER_DRAINED (R267, R268) -/

/-- A router notes that its buffers are empty. -/
def State.routerNotes (s : State) (i : Nat) : State := { s with bram := { s.bram with empty := s.bram.empty ++ [i] } }

theorem exec_routerDrained {s : State} {i : Nat} (hp : s.bram.paused = true) (ha : s.mgcAway = false)
    (hr : s.hasRouter i = true) (hf : s.routerFailed i = false) (he : i ∉ s.bram.empty) :
    exec (.routerDrained i) s = .next (if (List.range 128).all (fun k =>
        !s.hasRouter k || s.routerFailed k || (s.bram.empty ++ [i]).contains k) then (s.routerNotes i).resumeRoutes.settleSafe
      else s.routerNotes i) := by
  refine (if_pos (by rw [hp, ha, hr, hf]; simpa using he)).trans ?_
  rw [apply_ite Host.Outcome.next]
  rfl

theorem State.routerNotes_last_iff (s : State) (i : Nat) :
    (List.range 128).all (fun k => !s.hasRouter k || s.routerFailed k || (s.bram.empty ++ [i]).contains k) = true
    ↔ ∀ k, k < 128 → s.hasRouter k = true → s.routerFailed k = false → k = i ∨ k ∈ s.bram.empty := by
  simp only [List.all_eq_true, List.mem_range, Bool.or_eq_true, Bool.not_eq_true', List.contains_iff_mem, List.mem_append,
    List.mem_singleton]
  refine forall₂_congr fun k _ => ⟨fun h hr hf => ?_, fun h => ?_⟩
  · simpa [hr, hf, or_comm] using h
  · cases hr : s.hasRouter k <;> cases hf : s.routerFailed k <;> simp_all [or_comm]

/-- New tables avoid the routers out of service, and nothing of the tiles or memory changes (R267 step 4). -/
theorem State.tablesOn_spec (s : State) (failed : List Nat) : ∃ o, let w := s.tablesOn failed
    w.bram.cut = [] ∧ w.out = .routeResume o :: s.out ∧ w.bram.gen = s.bram.gen + 1
      ∧ w.bram.paused = false ∧ w.bram.around = false ∧ w.bram.empty = [] ∧ w.bram.routers = s.bram.routers
      ∧ w.bram.avoid = s.outOfService ∧ w.tiles = s.tiles ∧ w.mem = s.mem ∧ w.comp = s.comp :=
  ⟨_, rfl, rfl, rfl, rfl, rfl, rfl, rfl, rfl, rfl, rfl, rfl⟩

theorem State.mem_outOfService (s : State) (k : Nat) :
    k ∈ s.outOfService ↔ k ∈ s.routers ∧ (s.routerFailed k = true ∨ (s.dom (136 + k / 32)).st ≠ 2) := by
  simp [State.outOfService]

/-- Settles O41: the failure, its units and the end of the route-around by the lemmas above, and the packets by their cutting. -/
theorem routeAround : Obligations.RouteAround := by
  unfold Obligations.RouteAround
  intro s i
  refine ⟨fun why hr hf => ?_, fun t ht => ?_, fun m hm => ?_, fun x hx hrun hq => ?_, fun hp ha hr hf he => ?_, fun a n => ?_⟩
  · intro w
    obtain ⟨l, hl⟩ := (s.discard [i]).cutRouter_faults (State.hasRouter_lt hr)
    have hx : exec (.routerFailed i why) s = .next (s.failRouter i) := exec_routerFailed hr hf
    refine ⟨?_, fun hi => hx.trans (congrArg _ (if_pos hi)), fun hi => ?_⟩
    · simp only [w, hl, List.dropLast_concat]
    · intro v
      have hv : s.failRouter i = if v.mgcAway then v else v.pauseRoutes := if_neg hi
      refine ⟨fun hm => ?_, fun hm => ⟨_, hx, ?_⟩⟩
      · rw [hx, hv, if_pos hm]
      · rw [hv, hm]
        exact v.pauseRoutes_spec
  · obtain ⟨hrole, href, hrun, hslots⟩ := (s.cancelGrafts t).leaveFor_tile t 3
    refine ⟨((s.cancelGrafts t).leaveFor t 3).markRetired t, ?_, ?_⟩
    · exact (s.unitCut_tile ht).trans (s.retireTile_eq t)
    · rw [State.markRetired_tile]
      exact ⟨hrole, href, hrun, hslots, State.mem_markRetired _ t⟩
  · have hu := s.unitCut_port hm
    have h := s.failPort_uncomp m
    rw [hu]
    exact ⟨congrArg Port.st (s.failPort_port m), (congrArg State.tiles h :), (congrArg State.mem h :)⟩
  · rw [s.unitCut_runner hx]
    exact s.portLinkLost_unready hrun hq
  · intro noted
    rw [exec_routerDrained hp ha hr hf he]
    refine ⟨fun ⟨k, hk, hne, hkr, hkf, hke⟩ => ?_, fun hall => ?_⟩
    · rw [if_neg]
      · rfl
      · intro h
        exact ((s.routerNotes_last_iff i).1 h k hk hkr hkf).elim hne hke
    · obtain ⟨o, h1, h2, h3, h4, h5, h6, h7, h8, h9, h10, h11⟩ := (s.routerNotes i).tablesOn_spec (s.routerNotes i).failedRouters
      rw [if_pos ((s.routerNotes_last_iff i).2 hall)]
      refine ⟨_, o, rfl, h1, h2, h3, h4, h5, h6, h7, fun k hk hkf => ?_, fun k hk => ?_, h9, h10, h11⟩
      · rw [h8]; exact ((s.routerNotes i).mem_outOfService k).2 ⟨hk, .inl hkf⟩
      · rw [h8] at hk; exact ((s.routerNotes i).mem_outOfService k).1 hk
  · exact ⟨(cutPackets_sum n a n 0 (Nat.le_refl n)).trans (Nat.zero_add n), cutPackets_bounds n a n⟩

end Sys2Proof.Machine
end

section
/-! PROOFS. Composition commands (R321 to R323, R417), ranges and their grants (R228, R229, R482), and how they are answered. -/

namespace Sys2Proof.Machine

open Sys2Proof.Claims

/-! ### Bunch records -/

/-- The record that an update of a bunch writes, and the ones it leaves. -/
theorem State.updBunch_bunch (s : State) (b : BitVec 32) (f : Bunch → Bunch) (i : Nat) :
    (s.updBunch b f).bunch i = if s.findBunch b = some i then f (s.bunch i) else s.bunch i := by
  unfold State.updBunch
  cases h : s.findBunch b with
  | none => rfl
  | some j =>
    by_cases hj : i = j
    · subst hj; simp
    · simp [State.setBunch_bunch_ne _ _ _ _ hj, Ne.symm hj]

/-- A record stays found where it was while it stays in use under its identifier. -/
theorem State.findBunch_setBunch_used {s : State} {i : Nat} {x : Bunch} (h : (s.bunch i).st ≠ 0) (hst : x.st ≠ 0)
    (hid : x.id = (s.bunch i).id) (id : BitVec 32) : (s.setBunch i x).findBunch id = s.findBunch id := by
  unfold State.findBunch
  congr 1
  funext j
  by_cases hj : j = i
  · subst hj; rw [State.setBunch_bunch, hid, bne_iff_ne.2 h, bne_iff_ne.2 hst]
  · rw [State.setBunch_bunch_ne s i j x hj]

/-- A bunch moved to a state in use keeps its record, which holds that state. -/
theorem State.bunchOf_updBunch {s : State} {b : BitVec 32} {f : Bunch → Bunch} (h : (s.findBunch b).isSome = true)
    (hst : (f (s.bunchOf b)).st ≠ 0) (hid : (f (s.bunchOf b)).id = (s.bunchOf b).id) :
    (s.updBunch b f).bunchOf b = f (s.bunchOf b) := by
  obtain ⟨i, hi⟩ := Option.isSome_iff_exists.1 h
  rw [State.bunchOf_of_find hi] at hst hid ⊢
  rw [State.updBunch_of_find hi]
  have hf := (State.findBunch_setBunch_used (State.findBunch_some hi).1 hst hid b).trans hi
  rw [State.bunchOf_of_find hf, State.setBunch_bunch]

/-- An entry read from a table is the default or one of its entries. -/
theorem tget_mem {α : Type} (d : α) (k : Nat) : ∀ t : Table α, tget d t k = d ∨ (k, tget d t k) ∈ t
  | [] => .inl rfl
  | (k', v) :: r => by
    rw [tget]
    split
    · next h => exact .inr (by simp [h])
    · exact (tget_mem d k r).imp id (List.mem_cons_of_mem _)

/-- No record holds an identifier that no entry of the table has. -/
theorem State.findBunch_none {s : State} {b : BitVec 32} (h : ∀ e ∈ s.comp.bunches, e.2.id ≠ b) : s.findBunch b = none := by
  simp only [State.findBunch, List.find?_eq_none, List.mem_range, Bool.and_eq_true, bne_iff_ne, beq_iff_eq, not_and]
  intro i _ hst
  rcases tget_mem {} i s.comp.bunches with hd | hm
  · exact absurd (by rw [State.bunch, hd]) hst
  · exact h _ hm

/-! ### How a composition command is answered (R417) -/

theorem exec_change {c : Instr} {ch : Change} {f : Frame} (h : changeOf c = some (f, ch)) (s : State) :
    exec c s = changing f ch s := by
  unfold changeOf at h
  split at h <;> cases h <;> rfl

/-- The response to a composition change has no body but the command's SEQ (R475). -/
theorem State.change_body (s : State) (ch : Change) : (s.change ch).body = [] := by
  cases ch with
  | compose id parent members ranges quads host encrypt =>
    show (s.composeNew ..).body = []
    unfold State.composeNew
    split
    · rfl
    split
    · rfl
    split
    · rfl
    · simp only [apply_ite Reply.body, Reply.fail, Reply.ok, ite_self]
  | activate b => simp only [State.change, State.activate, apply_ite Reply.body, Reply.fail, Reply.ok, ite_self]
  | dissolve b => simp only [State.change, State.askDissolve, apply_ite Reply.body, Reply.fail, Reply.ok, ite_self]
  | grant b r => simp only [State.change, State.grantRange, apply_ite Reply.body, Reply.fail, Reply.ok, ite_self]
  | release b m => simp only [State.change, State.releaseRange, apply_ite Reply.body, Reply.fail, Reply.ok, ite_self]

theorem exec_framed {s : State} {f : Frame} (hm : s.mgmtOpen = true) (hf : s.frameOk f = true) (k : State → Reply) :
    framed f s k = .next ((k (s.takeFrame f)).s.respond f (k (s.takeFrame f)).status (k (s.takeFrame f)).body) := by
  simp only [framed, onMgmt, hm, hf, if_true]

section
variable {s : State} {f : Frame} {c : Instr} {ch : Change}

/-- A change that need not wait is made and answered. -/
theorem answers_change (hm : s.mgmtOpen = true) (hf : s.frameOk f = true) (hc : changeOf c = some (f, ch))
    (hw : (s.takeFrame f).changeWaits ch = false) :
    Answers c s f ((s.takeFrame f).change ch).s ((s.takeFrame f).change ch).status := by
  rw [Answers, exec_change hc, changing, hw, Bool.and_false, if_neg Bool.false_ne_true, exec_framed hm hf, State.change_body]

/-- A change that is refused names its status at once. -/
theorem answers_refused (hm : s.mgmtOpen = true) (hf : s.frameOk f = true) (hc : changeOf c = some (f, ch)) {st : BitVec 16}
    (hst : st ≠ 0) (h : (s.takeFrame f).change ch = .fail (s.takeFrame f) st) : Answers c s f (s.takeFrame f) st := by
  have := answers_change hm hf hc (by rw [State.changeWaits, h]; simpa [Reply.fail] using fun e => absurd e hst)
  rwa [h] at this

/-- A change whose units are ON is made at once. -/
theorem answers_made (hm : s.mgmtOpen = true) (hf : s.frameOk f = true) (hc : changeOf c = some (f, ch))
    (hon : (s.takeFrame f).unitsOn ((s.takeFrame f).changeUnits ch) = true) {t : State}
    (h : (s.takeFrame f).change ch = .ok t) : Answers c s f t 0 := by
  have := answers_change hm hf hc (by rw [State.changeWaits, hon]; simp)
  rwa [h] at this

end

/-- A change that waited for its units, when they are ON (R417). -/
theorem State.wakeChanges_one {v : State} {e : Frame × Change} (h : v.comp.waking = [e]) (ha : v.mgcAway = false) :
    v.wakeChanges = if v.changeWaits e.2 then v else v.wakeChange e := by
  rw [State.wakeChanges, h, ha]
  rfl

/-! ### Ranges (R228, R229, R482) -/

/-- A composition change leaves all of the composition but its count. -/
theorem State.changed_comp (s : State) : s.changed.comp = { s.comp with changeSeq := s.comp.changeSeq + 1 } := by
  unfold State.changed State.msix
  split <;> rfl

theorem State.changed_ports (s : State) : s.changed.ports = s.ports := by
  unfold State.changed State.msix
  split <;> rfl

theorem State.placeRange_comp (s : State) (b : BitVec 32) (m base len home : Nat) :
    (s.placeRange b m base len home).comp = s.comp := by
  unfold State.placeRange
  dsimp only
  split <;> rfl

theorem State.dropRange_unported (s : State) (b : BitVec 32) (m : Nat) : { s.dropRange b m with ports := [] } = { s with ports := [] } := by
  unfold State.dropRange
  dsimp only
  split <;> rfl

/-- The state without its memory ports. -/
def State.unported (s : State) : State := { s with ports := [] }

theorem State.dropRanges_unported (s : State) (b : BitVec 32) (l : List Nat) :
    (l.foldl (fun s m => s.dropRange b m) s).unported = s.unported :=
  foldl_part State.unported _ (fun s m => s.dropRange_unported b m) _ _

/-- The range of a bunch that holds none on the port, after it got a free entry there. -/
theorem Port.rangeFor_put {p : Port} {b : BitVec 32} {i : Nat} {r : Range} (hi : i < 8) (hn : p.rangeOf b = none)
    (hv : r.valid = true) (ho : r.owner = b) (st : Nat) :
    Port.rangeFor { p with ranges := tput p.ranges i r, st } b = r := by
  have hf : Port.rangeOf { p with ranges := tput p.ranges i r, st } b = some i := by
    unfold Port.rangeOf at hn ⊢
    dsimp only
    rw [List.find?_eq_none] at hn
    have hput : ∀ k, tget {} (tput p.ranges i r) k = if k = i then r else tget {} p.ranges k := fun k => tget_tput ..
    have huniq : ∀ k ∈ List.range 8, ((tget {} (tput p.ranges i r) k : Range).valid
        && (tget {} (tput p.ranges i r) k : Range).owner == b) = true → k = i := by
      intro k hk h
      by_contra hne
      rw [hput, if_neg hne] at h
      exact hn k hk h
    generalize hx : List.find? _ _ = x
    cases x with
    | none =>
      have := List.find?_eq_none.1 hx i (List.mem_range.2 hi)
      simp [tget_tput_same, hv, ho] at this
    | some k =>
      have hk := List.find?_some hx
      rw [huniq k (List.mem_of_find?_eq_some hx) hk]
  rw [Port.rangeFor, hf]
  exact tget_tput_same ..

/-- A port on which a run fits has a free entry. -/
theorem State.rangeFits_free {s : State} {m base len : Nat} (h : s.rangeFits m base len = true) :
    ∃ i, (List.range 8).find? (fun i => !(tget {} (s.port m).ranges i : Range).valid) = some i := by
  cases hf : (List.range 8).find? (fun i => !(tget {} (s.port m).ranges i : Range).valid) with
  | some i => exact ⟨i, rfl⟩
  | none =>
    have hall : ∀ r ∈ (List.range 8).map (fun i => (tget {} (s.port m).ranges i : Range)), r.valid = true := by
      intro r hr
      obtain ⟨i, hi, rfl⟩ := List.mem_map.1 hr
      simpa using List.find?_eq_none.1 hf i hi
    simp only [State.rangeFits, List.filter_eq_self.2 hall, List.length_map, List.length_range, Bool.and_eq_true,
      decide_eq_true_eq] at h
    omega

/-- A new range takes a free entry of its port, under the number of its grant (R229). -/
theorem State.addRange_port {s : State} {m base len : Nat} (b : BitVec 32) (h : s.rangeFits m base len = true) :
    ∃ i, i < 8 ∧ (s.addRange b m base len).port m = { s.port m with
      ranges := tput (s.port m).ranges i { valid := true, base, len, owner := b, home := s.comp.grantNo + 1 } } := by
  obtain ⟨i, hi⟩ := State.rangeFits_free h
  refine ⟨i, List.mem_range.1 (List.mem_of_find?_eq_some hi), ?_⟩
  unfold State.addRange State.placeRange
  have hp : ∀ c, State.port { s with comp := c } m = s.port m := fun _ => rfl
  simp only [hp, hi, State.setPort_port]

theorem State.addRange_comp (s : State) (b : BitVec 32) (m base len : Nat) :
    (s.addRange b m base len).comp = { s.comp with grantNo := s.comp.grantNo + 1 } := State.placeRange_comp ..

/-- A grant alone whose granules are CLEAN is made, and one whose are not waits (R506). -/
theorem State.askGrant_alone {s : State} {b : BitVec 32} {r : RangeReq} (hg : s.comp.grants = [])
    (hf : s.rangeFits r.port r.base r.len = true) :
    let u : State := { s with comp := { s.comp with grants := [(b, r)] } }
    let v := u.addRange b r.port r.base r.len
    s.askGrant b r = if s.runClean r.port r.base r.len then
      State.revote (State.changed { v with comp := { v.comp with grants := v.comp.grants.erase (b, r) } }) else u := by
  intro u v
  have hu : ({ s with comp := { s.comp with grants := s.comp.grants ++ [(b, r)] } } : State) = u := by rw [hg]; rfl
  have hfit : u.rangeFits r.port r.base r.len = true := hf
  rw [State.askGrant, hu, State.grantReady, show u.comp.grants = [(b, r)] from rfl, List.foldl_cons, List.foldl_nil, hfit,
    Bool.true_and]
  rfl

/-- A grant alone of CLEAN granules gives the range under a new identity. -/
theorem State.askGrant_clean {s : State} {b : BitVec 32} {r : RangeReq} (hg : s.comp.grants = [])
    (hf : s.rangeFits r.port r.base r.len = true) (hn : (s.port r.port).rangeOf b = none)
    (hc : s.runClean r.port r.base r.len = true) :
    ((s.askGrant b r).port r.port).rangeFor b
        = { valid := true, base := r.base, len := r.len, owner := b, home := s.comp.grantNo + 1 }
      ∧ (s.askGrant b r).comp.grants = [] := by
  rw [State.askGrant_alone hg hf, if_pos hc]
  generalize hu : ({ s with comp := { s.comp with grants := [(b, r)] } } : State) = u
  have hfit : u.rangeFits r.port r.base r.len = true := hu ▸ hf
  have hfor : (u.port r.port).rangeOf b = none := hu ▸ hn
  obtain ⟨i, hi, hp⟩ := State.addRange_port b hfit
  have hcomp := u.addRange_comp b r.port r.base r.len
  generalize u.addRange b r.port r.base r.len = v at hp hcomp
  constructor
  · generalize hx : ({ v with comp := { v.comp with grants := v.comp.grants.erase (b, r) } } : State) = x
    have hq : x.changed.port r.port = v.port r.port := by
      rw [State.port, State.changed_ports, ← hx]
      rfl
    obtain ⟨st, hst⟩ := (State.revote_dims x.changed).2 r.port
    rw [hst, hq, hp]
    subst hu
    exact Port.rangeFor_put hi hfor rfl rfl st
  · rw [State.revote_comp, State.changed_comp]
    subst hu
    dsimp only
    rw [hcomp]
    exact List.erase_cons_head ..

/-! ### COMPOSE_BUNCH (R322, R323) -/

/-- A record is FORMING with an identifier, a parent and members. -/
def State.Forming (s : State) (i : Nat) (id parent : BitVec 32) (members : List Member) : Prop :=
  (s.bunch i).st = 1 ∧ (s.bunch i).id = id ∧ (s.bunch i).parent = parent ∧ (s.bunch i).members = members

section
variable {s : State} {i : Nat} {id parent : BitVec 32} {members : List Member}

theorem State.Forming.of_bunches {u : State} (h : s.Forming i id parent members) (hb : u.comp.bunches = s.comp.bunches) :
    u.Forming i id parent members := by
  unfold State.Forming State.bunch at h ⊢
  rwa [hb]

/-- Another bunch's record is another one. -/
theorem State.Forming.updBunch_ne (h : s.Forming i id parent members) {b : BitVec 32} (hb : b ≠ id) (f : Bunch → Bunch) :
    (s.updBunch b f).Forming i id parent members := by
  have hne : s.findBunch b ≠ some i := fun hf => hb ((State.findBunch_some hf).2.symm.trans h.2.1)
  unfold State.Forming
  rw [State.updBunch_bunch, if_neg hne]
  exact h

theorem State.Forming.remap (h : s.Forming i id parent members) (b : BitVec 32) (map : List Leaf) :
    (s.updBunch b (fun x => { x with map })).Forming i id parent members := by
  unfold State.Forming
  rw [State.updBunch_bunch]
  split <;> exact h

end

/-- The bunch records and the owners of the lane quads. -/
def State.records (s : State) : Table Bunch × Table (BitVec 32) := (s.comp.bunches, s.comp.quadOwner)

theorem State.askGrant_records (s : State) (b : BitVec 32) (r : RangeReq) : (s.askGrant b r).records = s.records := by
  unfold State.askGrant State.grantReady
  refine foldl_part State.records _ (fun u g => ?_) _ _
  dsimp only
  split
  · unfold State.records
    rw [State.revote_comp, State.changed_comp]
    dsimp only
    rw [State.addRange_comp]
  · rfl

theorem State.updBunch_quadOwner (s : State) (b : BitVec 32) (f : Bunch → Bunch) :
    (s.updBunch b f).comp.quadOwner = s.comp.quadOwner := by
  unfold State.updBunch
  split <;> rfl

/-- Each quad of a list gets its owner. -/
theorem tget_owners (id : BitVec 32) {q : Nat} {quads : List Nat} (t : Table (BitVec 32)) (h : q ∈ quads) :
    tget 0 (quads.foldl (fun t x => tput t x id) t) q = id :=
  foldl_read (read := fun t k => tget 0 t k) (P := fun _ v => v = id) (fun _ _ => tget_tput_same ..)
    (fun _ _ _ hj => tget_tput_ne _ _ _ _ _ hj) q quads t h

/-- A new record, nested in its parent and holding the bunches among its members (R323). -/
def State.joined (s : State) (i : Nat) (id parent : BitVec 32) (members : List Member) (host encrypt : Bool) : State :=
  let conf := (s.bunchOf parent).conf && parent != 0
  (members.foldl (fun s m => match m with
    | .bunch b => s.updBunch b (fun x => { x with parent := id })
    | _ => s) (s.setBunch i { st := 1, id, parent, members, host, encrypt, conf })).updBunch parent (fun x =>
      { x with members := if x.members.contains (.bunch id) then x.members else x.members ++ [.bunch id] })

/-- Lane quads get an owner (R321). -/
def State.owning (s : State) (quads : List Nat) (id : BitVec 32) : State :=
  { s with comp := { s.comp with quadOwner := quads.foldl (fun q x => tput q x id) s.comp.quadOwner } }

theorem State.compose_eq (s : State) (i : Nat) (id parent : BitVec 32) (members : List Member) (ranges : List RangeReq)
    (quads : List Nat) (host encrypt : Bool) : s.compose i id parent members ranges quads host encrypt
    = ((ranges.foldl (fun s r => s.askGrant id r)
        (((s.joined i id parent members host encrypt).owning quads id).remapUp id)).changed).revote := rfl

theorem State.joined_forming {s : State} {i : Nat} {id parent : BitVec 32} {members : List Member} {host encrypt : Bool}
    (hp : id ≠ parent) (hm : ∀ m ∈ members, s.memberOk id parent m = true) :
    (s.joined i id parent members host encrypt).Forming i id parent members := by
  have hne : ∀ m ∈ members, m ≠ .bunch id := by
    rintro m hmem rfl
    simpa [State.memberOk] using hm _ hmem
  have hfold : ∀ (l : List Member) (u : State), (∀ m ∈ l, m ≠ .bunch id) → u.Forming i id parent members →
      (l.foldl (fun (s : State) m => match m with
        | .bunch b => s.updBunch b (fun x => { x with parent := id })
        | _ => s) u).Forming i id parent members := by
    intro l
    induction l with
    | nil => exact fun _ _ h => h
    | cons m l ih =>
      intro u hl hu
      refine ih _ (fun k hk => hl k (List.mem_cons_of_mem _ hk)) ?_
      cases m with
      | bunch b => exact hu.updBunch_ne (fun e => hl _ List.mem_cons_self (by rw [e])) _
      | _ => exact hu
  exact (hfold members _ hne (by simp [State.Forming])).updBunch_ne hp.symm _

/-- What a composition leaves: the FORMING record, and its quads. -/
theorem State.compose_spec {s : State} {i : Nat} {id parent : BitVec 32} {members : List Member} {ranges : List RangeReq}
    {quads : List Nat} {host encrypt : Bool} (hp : id ≠ parent) (hm : ∀ m ∈ members, s.memberOk id parent m = true) :
    (s.compose i id parent members ranges quads host encrypt).Forming i id parent members
      ∧ ∀ q ∈ quads, tget 0 (s.compose i id parent members ranges quads host encrypt).comp.quadOwner q = id := by
  have hj : (s.joined i id parent members host encrypt).Forming i id parent members := State.joined_forming hp hm
  rw [State.compose_eq]
  generalize s.joined i id parent members host encrypt = u at hj
  have hr : ((u.owning quads id).remapUp id).Forming i id parent members :=
    foldl_inv (P := fun v : State => v.Forming i id parent members) (fun v b hv => hv.remap b _) _ _
      (hj.of_bunches (u := u.owning quads id) rfl)
  have hq : ((u.owning quads id).remapUp id).comp.quadOwner = quads.foldl (fun q x => tput q x id) u.comp.quadOwner :=
    foldl_part (fun v : State => v.comp.quadOwner) _ (fun v b => v.updBunch_quadOwner b _) _ (u.owning quads id)
  generalize (u.owning quads id).remapUp id = v at hr hq
  have hrec : (ranges.foldl (fun s r => s.askGrant id r) v).records = v.records :=
    foldl_part State.records _ (fun s r => s.askGrant_records id r) _ _
  generalize ranges.foldl (fun s r => s.askGrant id r) v = w at hrec
  have hw : w.changed.revote.records = v.records := by
    rw [← hrec, State.records, State.revote_comp, State.changed_comp]
    rfl
  refine ⟨hr.of_bunches (congrArg Prod.fst hw :), fun q hmem => ?_⟩
  rw [show w.changed.revote.comp.quadOwner = v.comp.quadOwner from (congrArg Prod.snd hw :), hq]
  exact tget_owners id _ hmem

/-! ### DISSOLVE_BUNCH (R323) -/

/-- A bunch's ranges, quads, grants and record are gone; bunches that it held are roots. -/
def State.removed (s : State) (b : BitVec 32) : State :=
  let u := (List.range 16).foldl (fun s m => s.dropRange b m) s
  { u with comp := { u.comp with
    quadOwner := u.comp.quadOwner.filter (fun e => e.2 != b)
    grants := u.comp.grants.filter (fun g => g.1 != b)
    bunches := (u.comp.bunches.filter (fun e => e.2.id != b)).map (fun e => (e.1, { e.2 with
      parent := if e.2.parent = b then 0 else e.2.parent
      members := e.2.members.filter (fun m => m != .bunch b) })) } }

theorem State.dissolve_eq (s : State) (b : BitVec 32) :
    s.dissolve b = (((s.removed b).epochUp (s.bunchOf b).parent).changed).revote := rfl

theorem State.removed_spec (s : State) (b : BitVec 32) : (s.removed b).findBunch b = none
    ∧ (∀ k ∈ (s.removed b).comp.quadOwner, k.2 ≠ b) ∧ (∀ g ∈ (s.removed b).comp.grants, g.1 ≠ b)
    ∧ (s.removed b).tiles = s.tiles ∧ (s.removed b).mem = s.mem := by
  have h := s.dropRanges_unported b (List.range 16)
  unfold State.removed
  dsimp only
  generalize (List.range 16).foldl (fun s m => s.dropRange b m) s = u at h
  refine ⟨State.findBunch_none fun e he => ?_, fun k hk => ?_, fun g hg => ?_, (congrArg State.tiles h :), (congrArg State.mem h :)⟩
  · obtain ⟨x, hx, rfl⟩ := List.mem_map.1 he
    simpa using (List.mem_filter.1 hx).2
  · simpa using (List.mem_filter.1 hk).2
  · simpa using (List.mem_filter.1 hg).2

theorem State.composeNew_eq {s : State} {id parent : BitVec 32} {members : List Member} {ranges : List RangeReq}
    {quads : List Nat} (host encrypt : Bool) (h0 : id ≠ 0) (hp : id ≠ parent) (hm : ∀ m ∈ members, s.memberOk id parent m = true)
    (hmd : members.eraseDups.length = members.length) (hq : ∀ q ∈ quads, s.quadFree q = true)
    (hqd : quads.eraseDups.length = quads.length) (hr : ∀ r ∈ ranges, s.grantOk id r = true)
    (hrd : (ranges.map (·.port)).eraseDups.length = ranges.length) (hst : parent = 0 ∨ (s.bunchOf parent).st = 1) :
    s.composeNew id parent members ranges quads host encrypt =
      if (s.findBunch id).isSome then .fail s 0x12
      else match s.freeRecord with
        | none => .fail s 0x0E
        | some i =>
          let t := s.compose i id parent members ranges quads host encrypt
          if !leavesApart (t.bunchOf id).map then .fail s 0x14
          else if (t.ancestors 257 id).all (fun b => leavesFit ((t.bunchOf b).map.length + t.comingInto b)) then .ok t
          else .fail s 0x0E := by
  unfold State.composeNew
  refine (if_neg ?_).trans ?_
  · simp only [List.all_eq_true.2 hm, List.all_eq_true.2 hq, List.all_eq_true.2 hr, hmd, hqd, hrd, decide_eq_false h0,
      decide_eq_false hp, bne_self_eq_false, Bool.not_true, Bool.or_false, Bool.false_or, Bool.and_eq_true, bne_iff_ne, not_and]
    exact fun hne => not_not.2 (hst.resolve_left hne)
  · rfl

/-- A bunch that goes into DISSOLVING stays recorded, under its parent. -/
theorem State.dissolving_bunch {s : State} {b : BitVec 32} (h : (s.findBunch b).isSome = true) :
    (s.updBunch b (fun x => { x with st := 6 })).bunchOf b = { s.bunchOf b with st := 6 } :=
  State.bunchOf_updBunch (f := fun x => { x with st := 6 }) h (show 6 ≠ 0 by decide) rfl

theorem State.askDissolve_ok {s : State} {b : BitVec 32} (hb : (s.findBunch b).isSome = true)
    (hq : ∀ c ∈ s.ctxsOf b, s.queuesOf c = []) (hg : s.grafting b = false) (h6 : (s.bunchOf b).st ≠ 6)
    (hk : (∀ m, m < 16 → (s.port m).rangeOf b = none) ∨ ∀ k ∈ s.sec.jobKeys, k.bunch ≠ b) :
    s.askDissolve b = .ok ((s.updBunch b (fun x => { x with st := 6 })).tryDissolve b) := by
  unfold State.askDissolve
  rw [if_neg (by simp [Option.isSome_iff_ne_none.1 hb]), if_neg]
  have hq' : (s.ctxsOf b).any (fun c => !(s.queuesOf c).isEmpty) = false :=
    List.any_eq_false.2 fun c hc => by simp [hq c hc]
  have hk' : ((List.range 16).any (fun m => ((s.port m).rangeOf b).isSome) && s.sec.jobKeys.any (fun k => k.bunch == b)) = false := by
    rw [Bool.and_eq_false_iff, List.any_eq_false, List.any_eq_false]
    exact hk.imp (fun h m hm => by simp [h m (List.mem_range.1 hm)]) (fun h k hk => by simpa using h k hk)
  rw [hq', hg, hk']
  simpa using h6

theorem State.askDissolve_busy {s : State} {b : BitVec 32} (hb : (s.findBunch b).isSome = true)
    (h : (∃ c ∈ s.ctxsOf b, s.queuesOf c ≠ []) ∨ s.grafting b = true ∨ (s.bunchOf b).st = 6
      ∨ ∃ m k, m < 16 ∧ (s.port m).rangeOf b ≠ none ∧ k ∈ s.sec.jobKeys ∧ k.bunch = b) :
    s.askDissolve b = .fail s 0x12 := by
  unfold State.askDissolve
  rw [if_neg (by simp [Option.isSome_iff_ne_none.1 hb]), if_pos]
  simp only [Bool.or_eq_true, Bool.and_eq_true, List.any_eq_true, beq_iff_eq, Bool.not_eq_true', List.isEmpty_eq_false_iff,
    List.mem_range, Option.isSome_iff_ne_none]
  rcases h with h | h | h | ⟨m, k, hm, hr, hk, hkb⟩
  · exact .inl (.inl (.inl h))
  · exact .inl (.inl (.inr h))
  · exact .inl (.inr h)
  · exact .inr ⟨⟨m, hm, hr⟩, k, hk, hkb⟩

/-- What an accepted DISSOLVE_BUNCH does: the bunch waits in DISSOLVING, or it is gone (R322, R335). -/
theorem State.tryDissolve_spec {s : State} {b : BitVec 32} (hb : (s.findBunch b).isSome = true) :
    let v := s.updBunch b (fun x => { x with st := 6 })
    ((∃ a ∈ (v.ancestors 257 b).drop 1, (v.bunchOf a).prevLive = true) → v.tryDissolve b = v)
    ∧ ((∀ a ∈ (v.ancestors 257 b).drop 1, (v.bunchOf a).prevLive = false) → v.tryDissolve b = v.dissolve b) := by
  intro v
  have h6 : (v.bunchOf b).st = 6 := congrArg Bunch.st (State.dissolving_bunch hb)
  unfold State.tryDissolve
  refine ⟨fun ⟨a, ha, hl⟩ => if_neg fun h => ?_, fun hall => if_pos ?_⟩
  · have := List.all_eq_true.1 ((Bool.and_eq_true _ _).mp h).2 a ha
    simp [hl] at this
  · simp only [h6, decide_true, Bool.true_and, List.all_eq_true, Bool.not_eq_true']
    exact hall

/-- What an accepted DISSOLVE_BUNCH takes away (R323). -/
theorem State.dissolve_spec {s : State} {b : BitVec 32} (hb : (s.findBunch b).isSome = true) :
    let v := s.updBunch b (fun x => { x with st := 6 })
    ∃ y : State, v.dissolve b = ((y.epochUp (s.bunchOf b).parent).changed).revote ∧ y.findBunch b = none
      ∧ (∀ k ∈ y.comp.quadOwner, k.2 ≠ b) ∧ (∀ g ∈ y.comp.grants, g.1 ≠ b) ∧ y.tiles = s.tiles ∧ y.mem = s.mem := by
  intro v
  obtain ⟨h1, h2, h3, h4, h5⟩ := v.removed_spec b
  have hp : (v.bunchOf b).parent = (s.bunchOf b).parent := (congrArg Bunch.parent (State.dissolving_bunch hb) :)
  have hu : { v with comp := {} } = { s with comp := {} } := s.updBunch_uncomp b _
  refine ⟨v.removed b, ?_, h1, h2, h3, h4.trans (congrArg State.tiles hu :), h5.trans (congrArg State.mem hu :)⟩
  rw [State.dissolve_eq, hp]

/-! ### The other changes -/

theorem State.activate_unknown {s : State} {b : BitVec 32} (h : s.findBunch b = none) : s.activate b = .fail s 0x14 :=
  if_pos (by rw [h]; rfl)

theorem State.askDissolve_unknown {s : State} {b : BitVec 32} (h : s.findBunch b = none) : s.askDissolve b = .fail s 0x14 :=
  if_pos (by rw [h]; rfl)

theorem State.activate_found {s : State} {b : BitVec 32} (h : (s.findBunch b).isSome = true) :
    s.activate b = if (s.bunchOf b).st != 1 || !s.keyReady b then .fail s 0x12
      else .ok ((s.updBunch b (fun x => { x with st := s.liveState b })).changed.revote) :=
  if_neg (by simp [Option.isSome_iff_ne_none.1 h])

theorem State.grantRange_bad {s : State} {b : BitVec 32} {r : RangeReq} (h : s.findBunch b = none ∨ s.grantOk b r = false) :
    s.grantRange b r = .fail s 0x14 := if_pos (by simpa using h)

theorem State.grantRange_ok {s : State} {b : BitVec 32} {r : RangeReq} (hb : (s.findBunch b).isSome = true)
    (h : s.grantOk b r = true) : s.grantRange b r = .ok (s.askGrant b r) :=
  if_neg (by simp [Option.isSome_iff_ne_none.1 hb, h])

/-- A range that may be granted fits, and the bunch holds none on that port. -/
theorem State.grantOk_fits {s : State} {b : BitVec 32} {r : RangeReq} (h : s.grantOk b r = true) :
    s.rangeFits r.port r.base r.len = true ∧ (s.port r.port).rangeOf b = none := by
  simp only [State.grantOk, State.rangeFree, State.rangeTaken, Bool.and_eq_true, Bool.not_eq_true', Bool.or_eq_false_iff,
    Option.isSome_eq_false_iff, Option.isNone_iff_eq_none] at h
  obtain ⟨⟨⟨hfit, -⟩, ⟨hn, -⟩, -⟩, -⟩ := h
  exact ⟨hfit, hn⟩

theorem State.releaseRange_found {s : State} {b : BitVec 32} {m : Nat} (h : ((s.port m).rangeOf b).isSome = true) :
    s.releaseRange b m = if s.sec.jobKeys.any (fun k => k.bunch == b) || s.grafting b then .fail s 0x12
      else .ok ((s.dropRange b m).changed.revote) :=
  if_neg (by simp [Option.isSome_iff_ne_none.1 h])

/-- Settles O43: how a change is answered, and per command what the change is. -/
theorem bunchCommands : Obligations.BunchCommands := by
  unfold Obligations.BunchCommands
  intro s f hm hf w on
  have refused : ∀ {c ch} {st : BitVec 16}, changeOf c = some (f, ch) → st ≠ 0 → w.change ch = .fail w st → Answers c s f w st :=
    fun hc hst h => answers_refused hm hf hc hst h
  have made : ∀ {c ch t}, changeOf c = some (f, ch) → on ch → w.change ch = .ok t → Answers c s f t 0 :=
    fun hc hon h => answers_made hm hf hc hon h
  refine ⟨fun c ch hc => ⟨fun ⟨hst, hon⟩ => ?_, fun hst => ?_⟩,
    fun v e he => ⟨fun ha => ?_, fun ha hst hon => ?_, fun ha hon => ?_⟩, ?_,
    fun b => ⟨fun hn => ⟨?_, ?_⟩, fun hb => ?_⟩, fun b r hb hg hon => ?_, fun b r h => ?_,
    fun b m => ⟨fun hn => ?_, fun hs => ?_⟩, fun d => ?_⟩
  · have hw : w.changeWaits ch = true := by simp [State.changeWaits, hst, Bool.eq_false_iff.2 hon]
    rw [exec_change hc, changing, hm, hf, hw]
    rfl
  · refine answers_change hm hf hc ?_
    rw [State.changeWaits, beq_false_of_ne hst, Bool.false_and]
  · exact if_pos ha
  · rw [State.wakeChanges_one he ha, if_pos (by simp [State.changeWaits, hst, hon])]
  · intro r
    rw [State.wakeChanges_one he ha, if_neg (by simp [State.changeWaits, hon]), State.wakeChange, State.change_body]
    exact ⟨_, rfl⟩
  · intro id parent members ranges quads host encrypt h0 hp hmem hmd hq hqd hr hrd hst c
    have hnew := State.composeNew_eq host encrypt h0 hp hmem hmd hq hqd hr hrd hst
    refine ⟨fun hsome => ?_, fun hnone hfree => ?_, fun i hnone hfree => ?_⟩
    · exact refused rfl (by decide) (hnew.trans (if_pos hsome))
    · rw [hnone, hfree] at hnew
      exact refused rfl (by decide) hnew
    · intro t
      replace hnew : w.change (.compose id parent members ranges quads host encrypt)
          = if !leavesApart (t.bunchOf id).map then .fail w 0x14
            else if (t.ancestors 257 id).all (fun b => leavesFit ((t.bunchOf b).map.length + t.comingInto b)) then .ok t
            else .fail w 0x0E := by rw [hnone, hfree] at hnew; exact hnew
      refine ⟨fun hl => ?_, fun hl ⟨b, hb, hbig⟩ => ?_, fun hl hfit hon => ?_⟩
      · exact refused rfl (by decide) (hnew.trans (if_pos (by simp [hl])))
      · refine refused rfl (by decide) ((hnew.trans (if_neg (by simp [hl]))).trans (if_neg fun hall => ?_))
        exact Nat.not_le.2 hbig (of_decide_eq_true (List.all_eq_true.1 hall b hb))
      · obtain ⟨⟨h1, h2, h3, h4⟩, h5⟩ := State.compose_spec (i := i) (ranges := ranges) (quads := quads) (host := host)
          (encrypt := encrypt) hp hmem
        refine ⟨made rfl hon ((hnew.trans (if_neg (by simp [hl]))).trans (if_pos ?_)), h1, h2, h3, h4, h5⟩
        exact List.all_eq_true.2 fun b hb => decide_eq_true (hfit b hb)
  · exact refused rfl (by decide) (State.activate_unknown hn)
  · exact refused rfl (by decide) (State.askDissolve_unknown hn)
  · refine ⟨fun h1 hk hon => ?_, fun h => ?_, fun hq hg h6 hk hon => ?_, fun c hcm hcq => ?_, fun h => ?_,
      fun m k hm16 hr hk hkb => ?_⟩
    · exact made rfl hon ((State.activate_found hb).trans (if_neg (by simp [h1, hk])))
    · exact refused rfl (by decide) ((State.activate_found hb).trans (if_pos (by simpa using h)))
    · intro v
      have hok : w.change (.dissolve b) = .ok (v.tryDissolve b) := State.askDissolve_ok hb hq hg h6 hk
      obtain ⟨hwait, hgone⟩ := State.tryDissolve_spec hb
      refine ⟨fun h => ?_, fun h => ⟨?_, State.dissolve_spec hb⟩⟩
      · exact made rfl hon (hok.trans (congrArg _ (hwait h)))
      · exact made rfl hon (hok.trans (congrArg _ (hgone h)))
    · exact refused rfl (by decide) (State.askDissolve_busy hb (.inl ⟨c, hcm, hcq⟩))
    · exact refused rfl (by decide) (State.askDissolve_busy hb (.inr (h.imp id .inl)))
    · exact refused rfl (by decide) (State.askDissolve_busy hb (.inr (.inr (.inr ⟨m, k, hm16, hr, hk, hkb⟩))))
  · obtain ⟨hfit, hn⟩ := State.grantOk_fits hg
    refine ⟨_, made rfl hon (State.grantRange_ok hb hg), fun h0 hc => State.askGrant_clean h0 hfit hn hc, fun h0 hc => ?_⟩
    exact (State.askGrant_alone h0 hfit).trans (if_neg (by rw [hc]; exact Bool.false_ne_true))
  · exact refused rfl (by decide) (State.grantRange_bad h)
  · exact refused rfl (by decide) (if_pos (by rw [hn]; rfl) : w.releaseRange b m = .fail w 0x14)
  · refine ⟨fun hk hg hon => ?_, fun h => ?_⟩
    · have hk' : w.sec.jobKeys.any (fun k => k.bunch == b) = false := List.any_eq_false.2 fun k hm => by simpa using hk k hm
      exact made rfl hon ((State.releaseRange_found hs).trans (if_neg (by simp [hk', hg])))
    · refine refused rfl (by decide) ((State.releaseRange_found hs).trans (if_pos ?_))
      simpa [or_comm] using h
  · have hx : exec (.detachRelease f d) s = framed f s fun s => if (tget {} s.comp.detach d : Detach).valid then
        .ok (State.changed { s with comp := { s.comp with detach := tdel s.comp.detach d } }) else .fail s 0x14 := rfl
    refine ⟨fun h => ?_, fun h => ?_⟩
    · rw [Answers, hx, exec_framed hm hf, if_pos h]
      rfl
    · rw [Answers, hx, exec_framed hm hf, if_neg (by rw [h]; exact Bool.false_ne_true)]
      rfl

end Sys2Proof.Machine
end

section
/-! PROOFS. What enters a graft and how its commands are answered (R325, R333), and the steps of grafts (R326, R327, R331, R332). -/

namespace Sys2Proof.Machine

open Sys2Proof.Claims

/-! ### What depends on the bunch records alone -/

section
variable {s u : State} (h : s.comp.bunches = u.comp.bunches)
include h

theorem State.bunch_of_bunches (i : Nat) : s.bunch i = u.bunch i := by rw [State.bunch, h]; rfl

theorem State.bunchOf_of_bunches (b : BitVec 32) : s.bunchOf b = u.bunchOf b := by
  simp only [State.bunchOf, State.findBunch, State.bunch_of_bunches h]

theorem State.ancestors_of_bunches : ∀ (n : Nat) (b : BitVec 32), s.ancestors n b = u.ancestors n b
  | 0, _ => rfl
  | n + 1, b => by rw [State.ancestors, State.ancestors, State.bunchOf_of_bunches h, State.ancestors_of_bunches n]

theorem State.tileBunch_of_bunches (t : Nat) : s.tileBunch t = u.tileBunch t := by
  simp only [State.tileBunch, State.bunch_of_bunches h]

theorem State.prevLives_of_bunches (g : Graft) : s.prevLives g = u.prevLives g := by
  simp only [State.prevLives, State.graftBunches, State.tileBunch_of_bunches h, State.ancestors_of_bunches h, State.bunchOf_of_bunches h]

end

/-! ### Lists of grafts -/

theorem updFirst_append_fresh {α : Type} [DecidableEq α] {l : List α} {g : α} (h : g ∉ l) (f : α → α) :
    updFirst (fun k => k == g) f (l ++ [g]) = l ++ [f g] := by
  induction l with
  | nil => simp [updFirst]
  | cons x l ih =>
    have hx : g ≠ x := fun e => h (e ▸ List.mem_cons_self)
    have hl : g ∉ l := fun hm => h (List.mem_cons_of_mem _ hm)
    rw [List.cons_append, updFirst, if_neg (by simpa using hx.symm), ih hl]
    rfl

theorem mem_updFirst {α : Type} {p : α → Bool} {x y : α} : ∀ {l : List α}, x ∈ l → p x = true →
    y ∈ updFirst p (fun _ => y) l
  | a :: l, hm, hp => by
    rw [updFirst]
    split
    · exact List.mem_cons_self
    · next ha =>
      rcases List.mem_cons.1 hm with rfl | hm
      · exact absurd hp ha
      · exact List.mem_cons_of_mem _ (mem_updFirst hm hp)

theorem State.setGraft_mem {s : State} {g : Graft} (hg : g ∈ s.comp.grafts) (h : Graft) : h ∈ (s.setGraft g h).comp.grafts :=
  mem_updFirst hg (beq_self_eq_true g)

/-! ### A graft begins (R333, R326, R331) -/

/-- A graft among those in progress that begins: what its record becomes, and what its kind does besides. -/
theorem State.startGraft_spec {s : State} {g : Graft} {l : List Graft} (hl : s.comp.grafts = l ++ [g]) (hg : g ∉ l) :
    (s.startGraft g).mem = s.mem ∧ (s.startGraft g).hif = s.hif ∧ (s.startGraft g).comp.bunches = s.comp.bunches
      ∧ (g.kind ≤ 1 → (s.startGraft g).comp.grafts = l ++ [{ g with step := 1 }]
          ∧ (s.startGraft g).tile g.out = { s.tile g.out with noLaunch := true }
          ∧ (∀ k, k ≠ g.out → (s.startGraft g).tile k = s.tile k) ∧ (s.startGraft g).ports = s.ports)
      ∧ (2 ≤ g.kind → (s.startGraft g).comp.grafts = l ++ [{ g with step := 3 }] ∧ (s.startGraft g).tiles = s.tiles)
      ∧ (g.kind = 3 → (s.startGraft g).port g.port = (s.port g.port).dirty ((s.port g.port).rangeFor g.bunch).base
          ((s.port g.port).rangeFor g.bunch).len)
      ∧ (g.kind = 2 → (s.startGraft g).ports = s.ports) := by
  obtain ⟨w, hw, hx⟩ : ∃ w : State, { w with stone := {} }
      = { s with stone := {}, comp := { s.comp with grafts := l ++ [{ g with step := if g.kind ≤ 1 then 1 else 3 }] } }
      ∧ s.startGraft g = if g.kind ≤ 1 then w.setTile g.out { w.tile g.out with noLaunch := true }
        else if g.kind = 3 then w.setPort g.port ((w.port g.port).dirty ((w.port g.port).rangeFor g.bunch).base
          ((w.port g.port).rangeFor g.bunch).len)
        else w := by
    refine ⟨_, ?_, rfl⟩
    rw [hl, updFirst_append_fresh hg]
    split <;> rfl
  have hcomp : w.comp = { s.comp with grafts := l ++ [{ g with step := if g.kind ≤ 1 then 1 else 3 }] } := (congrArg State.comp hw :)
  have htiles : w.tiles = s.tiles := (congrArg State.tiles hw :)
  have hports : w.ports = s.ports := (congrArg State.ports hw :)
  have htile : ∀ k, w.tile k = s.tile k := fun k => by rw [State.tile, htiles]; rfl
  have hport : w.port g.port = s.port g.port := by rw [State.port, hports]; rfl
  have hmem : w.mem = s.mem := (congrArg State.mem hw :)
  have hhif : w.hif = s.hif := (congrArg State.hif hw :)
  rw [hx]
  by_cases h1 : g.kind ≤ 1
  · rw [if_pos h1] at hcomp ⊢
    refine ⟨hmem, hhif, (congrArg Compose.bunches hcomp :), fun _ => ⟨(congrArg Compose.grafts hcomp :), ?_, fun k hk => ?_, hports⟩,
      fun h => absurd h (by omega), fun h => absurd h (by omega), fun h => absurd h (by omega)⟩
    · rw [State.setTile_tile, htile]
    · rw [State.setTile_tile_ne _ _ _ _ hk, htile]
  · rw [if_neg h1] at hcomp ⊢
    by_cases h3 : g.kind = 3
    · rw [if_pos h3]
      refine ⟨hmem, hhif, (congrArg Compose.bunches hcomp :), fun h => absurd h h1,
        fun _ => ⟨(congrArg Compose.grafts hcomp :), htiles⟩, fun _ => ?_, fun h => absurd h (by omega)⟩
      rw [State.setPort_port, hport]
    · rw [if_neg h3]
      exact ⟨hmem, hhif, (congrArg Compose.bunches hcomp :), fun h => absurd h h1,
        fun _ => ⟨(congrArg Compose.grafts hcomp :), htiles⟩, fun h => absurd h h3, fun _ => hports⟩

/-! ### What a bunch answers (R325, R333) -/

theorem State.graftBad_unknown {s : State} {b : BitVec 32} (h : s.findBunch b = none) : s.graftBad b = some 0x14 :=
  if_pos (by rw [h]; rfl)

theorem State.graftBad_busy {s : State} {b : BitVec 32} (hb : (s.findBunch b).isSome = true)
    (h : s.grafting b = true ∨ 4 ≤ (s.bunchOf b).st) : s.graftBad b = some 0x12 := by
  refine (if_neg (by simp [Option.isSome_iff_ne_none.1 hb])).trans (if_pos ?_)
  rw [Bool.or_eq_true, Bool.or_eq_true]
  exact .inl (h.imp id (decide_eq_true ·))

/-- What a command in an accepted frame replies without a body is its answer. -/
theorem framed_answers {s : State} {f : Frame} {k : State → Reply} {t : State} {st : BitVec 16}
    (hm : s.mgmtOpen = true) (hf : s.frameOk f = true) {w : State} (hw : s.takeFrame f = w) (hk : k w = { s := t, status := st }) :
    framed f s k = .next (t.respond f st []) := by
  rw [exec_framed hm hf, hw, hk]

section
variable {s : State} {f : Frame} (hm : s.mgmtOpen = true) (hf : s.frameOk f = true)
include hm hf

/-- TILE_REPLACE (R325, R327). -/
theorem answers_tileReplace (b : BitVec 32) (out inc : Nat) :
    let w := s.takeFrame f
    (∀ e, w.graftBad b = some e → Answers (.tileReplace f b out inc) s f w e)
      ∧ (∀ e, w.graftBad b = none → w.graftBadOpt (w.tileBunch inc) = some e → Answers (.tileReplace f b out inc) s f w e)
      ∧ (w.graftBad b = none → w.graftBadOpt (w.tileBunch inc) = none →
        (w.lists b out = false ∨ w.incomingOk b inc = false → Answers (.tileReplace f b out inc) s f w 0x14)
        ∧ (w.lists b out = true → w.incomingOk b inc = true →
          (((Member.tile out ∈ (w.bunchOf b).members → w.replaceFits out inc = true) ∧ w.replaceServes b out inc = true) →
            Answers (.tileReplace f b out inc) s f (w.beginGraft (replaceGraft b out inc 0)) 0)
          ∧ ((Member.tile out ∈ (w.bunchOf b).members ∧ w.replaceFits out inc = false) ∨ w.replaceServes b out inc = false →
            Answers (.tileReplace f b out inc) s f w 0x0E))) := by
  intro w
  refine ⟨fun e he => ?_, fun e hb he => ?_, fun hb hi => ⟨fun h => ?_, fun hl hin => ⟨fun ⟨h1, h2⟩ => ?_, fun h => ?_⟩⟩⟩
  all_goals
    change execTileReplace f b out inc s = _
    unfold execTileReplace
    refine framed_answers hm hf (w := w) rfl ?_
  · rw [he]; rfl
  · rw [hb, he]; rfl
  · rw [hb, hi]
    exact if_pos (by simpa using h)
  · rw [hb, hi]
    exact (if_neg (by rw [hl, hin]; decide)).trans (if_neg (by simpa [h2] using h1))
  · rw [hb, hi]
    exact (if_neg (by rw [hl, hin]; decide)).trans (if_pos (by simpa using h))

/-- TILE_MOVE (R325, R327, R17, R37). -/
theorem answers_tileMove {t : Nat} {losing gaining : BitVec 32} (pos : Nat) {heir : Option Nat} (reserve : Option (Nat × Nat)) :
    let w := s.takeFrame f
    w.graftBadOpt losing = none → w.graftBadOpt gaining = none → w.hasTile t = true →
    losing ≠ gaining → (w.tile t).role ≠ 2 → (w.tile t).role ≠ 3 → w.tileBunch t = losing → w.inGraft t = false →
    (w.tile t).refusing = false → (∀ h, heir = some h → h ≠ t ∧ w.tileBunch h = losing) →
    (w.moveFits t losing heir reserve = true → (losing = 0 → (w.tile t).role ≠ 0 → w.mayServe = true) →
      w.gainFits losing gaining = true →
      Answers (.tileMove f t losing gaining pos heir reserve) s f (w.beginGraft
        { kind := 1, bunch := losing, gaining, out := t, inc := t, pos, heir, reserve, step := 0, why := 0, todo := [],
          port := 0, first := 0 }) 0)
    ∧ (w.moveFits t losing heir reserve = false ∨ (losing = 0 ∧ (w.tile t).role ≠ 0 ∧ w.mayServe = false)
        ∨ w.gainFits losing gaining = false →
      Answers (.tileMove f t losing gaining pos heir reserve) s f w 0x0E) := by
  intro w hl hg ht hne h2 h3 hb hin href
  have hok : (∀ h, heir = some h → h ≠ t ∧ w.tileBunch h = losing) → ¬(!w.hasTile t || losing = gaining || (w.tile t).role = 2
      || (w.tile t).role = 3 || w.tileBunch t != losing || w.inGraft t || (w.tile t).refusing
      || (match heir with | some h => h == t || w.tileBunch h != losing | none => false)) = true := by
    cases heir with
    | none => simp [ht, hne, h2, h3, hb, hin, href]
    | some h => simp [ht, hne, h2, h3, hb, hin, href]
  intro hheir
  replace hok := hok hheir
  refine ⟨fun hfit hserve hgain => ?_, fun h => ?_⟩
  all_goals
    change execTileMove f t losing gaining pos heir reserve s = _
    unfold execTileMove
    refine framed_answers hm hf (w := w) rfl ?_
    dsimp only
    rw [hl, hg]
    refine (if_neg hok).trans ?_
  · have hw : w.moveFits t losing heir reserve = true ∧ (losing = 0 → (w.tile t).role ≠ 0 → w.mayServe = true)
        ∧ w.gainFits losing gaining = true := ⟨hfit, hserve, hgain⟩
    exact if_neg (by simpa [and_assoc] using hw)
  · exact if_pos (by simpa [and_assoc, or_assoc] using h)

/-- RANGE_RELOCATE (R331). -/
theorem answers_rangeRelocate {b : BitVec 32} {m newPort newFirst : Nat} :
    let w := s.takeFrame f
    w.graftBad b = none → ((w.port m).rangeFor b).valid = true →
    w.rangeFree newPort newFirst ((w.port m).rangeFor b).len = true → (newPort = m ∨ w.rangeTaken b newPort = false) →
    (w.runClean newPort newFirst ((w.port m).rangeFor b).len = true →
      ∃ g : Graft, Answers (.rangeRelocate f b m newPort newFirst) s f (w.beginGraft g) 0
        ∧ g.kind = 2 ∧ g.bunch = b ∧ g.gaining = b ∧ g.out = m ∧ g.port = newPort ∧ g.first = newFirst)
    ∧ (w.runClean newPort newFirst ((w.port m).rangeFor b).len = false →
      Answers (.rangeRelocate f b m newPort newFirst) s f w 0x12) := by
  intro w hb hv hfree htaken
  have hok : ¬(!((w.port m).rangeFor b).valid || !w.rangeFree newPort newFirst ((w.port m).rangeFor b).len
      || (newPort != m && w.rangeTaken b newPort)) = true := by
    simpa [hv, hfree, or_iff_not_imp_left] using htaken
  refine ⟨fun hc => ⟨
      { kind := 2, bunch := b, gaining := b, out := m, inc := 0, pos := 0, heir := none, reserve := none,
        step := 0, why := 0, todo := [], port := newPort, first := newFirst }, ?_, rfl, rfl, rfl, rfl, rfl, rfl⟩, fun hc => ?_⟩
  all_goals
    change execRangeRelocate f b m newPort newFirst s = _
    unfold execRangeRelocate
    refine framed_answers hm hf (w := w) rfl ?_
    dsimp only
    rw [hb]
    refine (if_neg hok).trans ?_
  · exact if_neg (by simp [hc])
  · exact if_pos (by simp [hc])

/-- RANGE_MOVE (R331). -/
theorem answers_rangeMove {b : BitVec 32} {m : Nat} {gaining : BitVec 32} :
    let w := s.takeFrame f
    w.graftBad b = none → w.graftBad gaining = none → ((w.port m).rangeFor b).valid = true → b ≠ gaining →
    w.rangeTaken gaining m = false →
    (w.rangeUsed b m = false → ∃ g : Graft, Answers (.rangeMove f b m gaining) s f (w.beginGraft g) 0
      ∧ g.kind = 3 ∧ g.bunch = b ∧ g.gaining = gaining ∧ g.port = m ∧ g.first = ((w.port m).rangeFor b).base)
    ∧ (w.rangeUsed b m = true → Answers (.rangeMove f b m gaining) s f w 0x12) := by
  intro w hb hg hv hne htaken
  have hok : ¬(!((w.port m).rangeFor b).valid || b = gaining || w.rangeTaken gaining m) = true := by
    simp [hv, hne, htaken]
  refine ⟨fun hu => ⟨
      { kind := 3, bunch := b, gaining, out := m, inc := 0, pos := 0, heir := none, reserve := none, step := 0,
        why := 0, todo := [], port := m, first := ((w.port m).rangeFor b).base }, ?_, rfl, rfl, rfl, rfl, rfl⟩, fun hu => ?_⟩
  all_goals
    change execRangeMove f b m gaining s = _
    unfold execRangeMove
    refine framed_answers hm hf (w := w) rfl ?_
    dsimp only
    rw [hb, hg]
    refine (if_neg hok).trans ?_
  · exact if_neg (by simp [hu])
  · exact if_pos hu

/-- QUAD_MOVE of a quad that may move (R332). -/
theorem answers_quadMove {x : Nat} {gaining : BitVec 32} :
    let w := s.takeFrame f
    let losing := tget 0 w.comp.quadOwner x
    w.graftBadOpt losing = none → w.graftBadOpt gaining = none → x < 16 → w.hasRunner (x / 4) = true → losing ≠ gaining →
    (losing = 0 → w.quadFree x = true) → (∀ g ∈ w.comp.grafts, g.kind ≠ 4 ∨ g.out ≠ x) → ∃ g : Graft,
      g.kind = 4 ∧ g.bunch = losing ∧ g.gaining = gaining ∧ g.out = x
      ∧ (w.quadDone g = true → Answers (.quadMove f x gaining) s f (w.moveQuad g) 0)
      ∧ (w.quadDone g = false → Answers (.quadMove f x gaining) s f (w.beginGraft g) 0) := by
  intro w losing hl hg hx hr hne hfree hgr
  have hgr' : w.comp.grafts.any (fun g => g.kind == 4 && g.out == x) = false :=
    List.any_eq_false.2 fun g hgm => by simpa [imp_iff_not_or] using hgr g hgm
  have hok : ¬(16 ≤ x || !w.hasRunner (x / 4) || losing = gaining || (losing = 0 && !w.quadFree x)
      || w.comp.grafts.any (fun g => g.kind == 4 && g.out == x)) = true := by
    rw [hgr']
    simpa [hr, hne, Nat.not_le.2 hx] using hfree
  refine ⟨
    { kind := 4, bunch := losing, gaining, out := x, inc := 0, pos := 0, heir := none, reserve := none, step := 0,
      why := 0, todo := [], port := 0, first := 0 }, rfl, rfl, rfl, rfl, fun hd => ?_, fun hd => ?_⟩
  all_goals
    change execQuadMove f x gaining s = _
    unfold execQuadMove
    refine framed_answers hm hf (w := w) rfl ?_
    dsimp only
    rw [hl, hg]
    refine (if_neg hok).trans ?_
  · exact if_pos hd
  · exact if_neg (by rw [hd]; exact Bool.false_ne_true)

end

/-- A quad with a graft of its own can move when nothing of its losing bunch is left on it (R332, R333, R417). -/
theorem State.quadDone_iff (s : State) (g : Graft) : s.quadDone g = true
    ↔ (g.bunch = 0 ∨ s.quadEmpty g.out = true) ∧ s.graftWaits g = false ∧ s.waitsUpdate g = false := by
  simp [State.quadDone, and_assoc]

/-- The state in which a quad has its new owner. -/
def State.reowned (s : State) (g : Graft) : State :=
  { s with comp := { s.comp with
    quadOwner := if g.gaining = 0 then tdel s.comp.quadOwner g.out else tput s.comp.quadOwner g.out g.gaining } }

theorem State.moveQuad_eq (s : State) (g : Graft) :
    s.moveQuad g = ((((s.reowned g).graftGone g).flushWaits).changed).revote := rfl

theorem State.reowned_owner (s : State) (g : Graft) : tget 0 (s.reowned g).comp.quadOwner g.out = g.gaining
    ∧ ∀ y, y ≠ g.out → tget 0 (s.reowned g).comp.quadOwner y = tget 0 s.comp.quadOwner y := by
  unfold State.reowned
  dsimp only
  split
  · next h0 =>
    refine ⟨(tget_filter_gone _ _ _ _ (by simp)).trans h0.symm, fun y hy => tget_filter _ _ _ _ (by simpa using hy)⟩
  · exact ⟨tget_tput_same .., fun y hy => tget_tput_ne _ _ _ _ _ hy⟩

/-! ### Shares (R327, R65) -/

/-- Copying lines changes no tile. -/
theorem State.pokeN_unlanded : ∀ (bs : List Byte) (s : State) (a : Nat), (s.pokeN a bs).unlanded = s.unlanded
  | [], _, _ => rfl
  | b :: bs, s, a => (State.pokeN_unlanded bs (s.poke a b) (a + 1)).trans (s.poke_unlanded a b)

theorem State.clearGranules_unlanded (s : State) (t : Nat) (bm : BitVec 256) : (s.clearGranules t bm).unlanded = s.unlanded := by
  unfold State.clearGranules
  exact foldl_part State.unlanded (fun u g => u.clearStore (tsAddr t (g * 0x200000)) 0x200000) (fun _ _ => rfl) _ _

/-- A share that moves: its slot on the new tile, and the tiles otherwise as they were. -/
theorem State.moveShare_spec {s : State} {out inc c i j : Nat} {bm : BitVec 256} {bad : List Nat} (ho : out ≠ inc)
    (hi : (s.tile out).slotOf c = some i) (hj : (s.tile inc).freeSlot = some j)
    (hb : (s.tile inc).lowestFree 0 (popCount ((s.tile out).slot i).share.toNat 256) = some bm) :
    (s.moveShare out inc c bad).tile out = s.tile out
      ∧ (s.moveShare out inc c bad).tile inc = (s.tile inc).setSlot j { (s.tile out).slot i with
          share := bm, deadline := s.movedDeadline out inc ((s.tile out).slot i).deadline } := by
  obtain ⟨v, hv, hx⟩ : ∃ v : State, v.unlanded = s.unlanded ∧ s.moveShare out inc c bad
      = v.setTile inc ((v.tile inc).setSlot j { (s.tile out).slot i with
          share := bm, deadline := v.movedDeadline out inc ((s.tile out).slot i).deadline }) := by
    unfold State.moveShare
    simp only [hi, hj, hb]
    refine ⟨_, ?_, rfl⟩
    refine (foldl_part State.unlanded _ (fun u k => ?_) _ _).trans (s.clearGranules_unlanded inc bm)
    split
    · exact State.pokeN_unlanded _ _ _
    · rfl
  have ht : ∀ k, v.tile k = s.tile k := fun k => (congrArg (State.tile · k) hv :)
  have hd : v.movedDeadline out inc = s.movedDeadline out inc := by
    unfold State.movedDeadline State.pacer
    rw [ht, ht, show v.time = s.time from (congrArg State.time hv :)]
  rw [hx, State.setTile_tile_ne _ _ _ _ ho, State.setTile_tile, ht, ht, hd]
  exact ⟨rfl, rfl⟩

/-- Counting lines leaves pacers and kernels. -/
theorem State.countLine_keeps (s : State) (res : Res) (n k : Nat) :
    (((s.countLine res n).tile k).base = (s.tile k).base ∧ ((s.countLine res n).tile k).core.run = (s.tile k).core.run)
      ∧ (s.countLine res n).stone = s.stone ∧ (s.countLine res n).time = s.time := by
  unfold State.countLine
  dsimp only
  split
  · cases res with
    | corrected => exact ⟨s.setTile_keeps _ k _ rfl rfl, rfl, rfl⟩
    | uncorrectable => exact ⟨s.setTile_keeps _ k _ rfl rfl, rfl, rfl⟩
    | _ => exact ⟨⟨rfl, rfl⟩, rfl, rfl⟩
  · cases res <;> exact ⟨⟨rfl, rfl⟩, rfl, rfl⟩

/-- Lines of a share that could not be read are one STORE_UE of their context (R57, R452). -/
theorem State.copyUe_reported (s : State) (t c n : Nat) (l : List Nat) :
    Reported s (s.copyUe t c (n :: l)) 1 (srcId 1 t) [c] 0 := by
  have hkeep : ∀ (l : List Nat) (u : State),
      (∀ k, ((l.foldl (fun s n => s.countLine .uncorrectable n) u).tile k).base = (u.tile k).base
        ∧ ((l.foldl (fun s n => s.countLine .uncorrectable n) u).tile k).core.run = (u.tile k).core.run)
      ∧ (l.foldl (fun s n => s.countLine .uncorrectable n) u).stone = u.stone
      ∧ (l.foldl (fun s n => s.countLine .uncorrectable n) u).time = u.time := by
    intro l
    induction l with
    | nil => exact fun u => ⟨fun _ => ⟨rfl, rfl⟩, rfl, rfl⟩
    | cons n l ih =>
      intro u
      obtain ⟨h1, h2, h3⟩ := ih (u.countLine .uncorrectable n)
      have h := fun k => u.countLine_keeps .uncorrectable n k
      exact ⟨fun k => ⟨(h1 k).1.trans (h k).1.1, (h1 k).2.trans (h k).1.2⟩, h2.trans (h 0).2.1, h3.trans (h 0).2.2⟩
  obtain ⟨h1, h2, h3⟩ := hkeep (n :: l) s
  refine reported_raiseSafety (congrArg Stone.faults h2 :) h3 h1

/-! ### Steps (R326, R331, R332) -/

/-- A tile graft whose shares have moved makes its epoch change when nothing holds it (R244, R335, R509). -/
theorem State.tileHeld_iff (s : State) (g : Graft) : s.tileHeld g = false ↔ s.prevLives g = false ∧ s.mgcAway = false
    ∧ (Member.tile g.out ∈ (s.bunchOf g.bunch).members → s.framesHeld (frameOn g.out) = false) := by
  simp [State.tileHeld, State.hasPlace, and_assoc, imp_iff_not_or]

/-- Settles O44: the commands' answers, then the steps, by the lemmas above. -/
theorem grafts : Obligations.Grafts := by
  unfold Obligations.Grafts
  refine ⟨fun s f hm hf => ?_, fun s => ?_⟩
  · intro w
    refine ⟨fun b out inc => answers_tileReplace hm hf b out inc, fun g hg => ?_,
      fun b => ⟨State.graftBad_unknown, State.graftBad_busy⟩,
      fun t losing gaining pos heir reserve => answers_tileMove hm hf pos reserve,
      fun b m newPort newFirst => answers_rangeRelocate hm hf, fun b m gaining => answers_rangeMove hm hf, fun x gaining => ?_⟩
    · intro v
      have hv : v.comp = { w.comp with grafts := w.comp.grafts ++ [g] } := State.revote_comp _
      have hwaits : v.graftWaits g = (w.prevLives g || !v.unitsOn (graftUnits g)) := by
        rw [State.graftWaits, State.prevLives_of_bunches (u := w) (congrArg Compose.bunches hv :)]
      obtain ⟨h1, h2, h3, h4⟩ := State.startGraft_spec (congrArg Compose.grafts hv :) hg
      refine ⟨by simp [hwaits], fun h => if_pos h, fun h => ⟨v.startGraft g, if_neg (by rw [h]; exact Bool.false_ne_true), h1, h2,
        h3.trans (congrArg Compose.bunches hv :), h4⟩⟩
    · intro losing hl hg hx hr hne hfree hgr
      obtain ⟨g, hk, hb, hgain, hout, h1, h2⟩ := answers_quadMove hm hf hl hg hx hr hne hfree hgr
      obtain ⟨ho, hother⟩ := w.reowned_owner g
      rw [hout, hgain] at ho
      refine ⟨g, hk, hb, hgain, hout, h1, h2, ?_, w.reowned g, w.moveQuad_eq g, ho, fun y hy => hother y (hout ▸ hy), rfl, rfl, rfl⟩
      rw [State.quadDone_iff, hb, hout]
  · refine ⟨fun b g hg hd => ?_, fun b g h1 h3 => ⟨fun hh => ?_, s.tileHeld_iff g⟩, fun h => ⟨fun hh => if_pos hh, fun hh => ?_⟩,
      fun b g c rest bad hg ha ht hroom hfr => ?_, fun t c => rfl, fun t c n l => s.copyUe_reported t c n l,
      fun out inc c i j bm bad ho hi hj hb => ?_, fun b g hg hp hu hro hfr => ?_, fun x g hg he hw hu => ?_⟩
    · intro todo h
      have hx : exec (.graftDrainDone b) s = .next (if todo.isEmpty then (s.setGraft g h).sharesMoved h else s.setGraft g h) := by
        change execGraftDrainDone b s = _
        unfold execGraftDrainDone
        rw [hg]
        dsimp only
        rw [if_neg (by simp [hd])]
        rfl
      refine ⟨fun he => hx.trans (by rw [if_pos (by rw [he]; rfl)]),
        fun hne => ⟨_, hx.trans (by rw [if_neg (by simpa using hne)]), ?_⟩⟩
      exact ⟨State.setGraft_mem (List.mem_of_find?_eq_some hg) h, rfl, rfl, rfl⟩
    · change execGraftDrainDone b s = _
      unfold execGraftDrainDone
      rw [h1, h3]
      dsimp only
      rw [if_neg (by rw [hh]; exact Bool.false_ne_true)]
    · exact if_neg (by rw [hh]; exact Bool.false_ne_true)
    · intro lines p h v
      change execShareCopyDone b bad s = _
      unfold execShareCopyDone
      rw [hg]
      dsimp only
      rw [ha, if_neg Bool.false_ne_true, ht]
      dsimp only
      rw [if_neg (by simpa [hfr, or_iff_not_imp_left] using hroom)]
    · intro u d
      obtain ⟨h1, h2⟩ := State.moveShare_spec (bad := bad) ho hi hj hb
      refine ⟨h1, ?_, fun h => if_pos h, fun h => if_neg h, fun k hk => ?_⟩
      · exact (congrArg (Tile.slot · j) h2).trans (tget_tput_same ..)
      · exact (congrArg (Tile.slot · k) h2).trans (tget_tput_ne _ _ _ _ _ hk)
    · change execRangeCopyDone b s = _
      unfold execRangeCopyDone
      rw [hg]
      dsimp only
      rw [if_neg (by simp [hp, hu, hro, hfr])]
    · change execQuadRetryEmpty x s = _
      unfold execQuadRetryEmpty
      rw [hg]
      dsimp only
      obtain ⟨-, hout⟩ : g.kind = 4 ∧ g.out = x := by simpa using List.find?_some hg
      rw [if_pos ((s.quadDone_iff g).2 ⟨hout ▸ he, hw, hu⟩)]

end Sys2Proof.Machine
end

section
/-! PROOFS. A router's state is its failure's alone (R266): every other operation that a failure sets off keeps it. The lemmas stand in
the order of the operations' definitions. -/

namespace Sys2Proof.Machine

@[simp] theorem foldl_routers {α : Type} {f : State → α → State} (h : ∀ s a, (f s a).bram.routers = s.bram.routers) (l : List α)
    (s : State) : (l.foldl f s).bram.routers = s.bram.routers := foldl_part (fun s : State => s.bram.routers) f h l s

@[simp] theorem ite_routers (c : Prop) [Decidable c] (s u : State) : (if c then s else u).bram.routers
    = if c then s.bram.routers else u.bram.routers := apply_ite (fun s : State => s.bram.routers) c s u

/-- The state in a pair that an operation answers. -/
theorem routers_of_fst {β : Type} {p : State × β} {u : State} {b : β} {r : Table Nat} (h : p = (u, b)) (hp : p.1.bram.routers = r) :
    u.bram.routers = r := by
  subst h; exact hp

/-! ### Machine/Ops -/

@[simp] theorem State.setTile_routers (s : State) (t : Nat) (x : Tile) : (s.setTile t x).bram.routers = s.bram.routers := by
  simp [State.setTile]

@[simp] theorem State.setCore_routers (s : State) (t : Nat) (c : Core) : (s.setCore t c).bram.routers = s.bram.routers := by
  simp [State.setCore]

@[simp] theorem State.updBunch_routers (s : State) (id : BitVec 32) (f : Bunch → Bunch) :
    (s.updBunch id f).bram.routers = s.bram.routers := by
  unfold State.updBunch
  split <;> simp

@[simp] theorem State.draw_routers (s : State) (w : Nat) : (s.draw w).2.bram.routers = s.bram.routers := by simp [State.draw]

@[simp] theorem State.clearStore_routers (s : State) (a n : Nat) : (s.clearStore a n).bram.routers = s.bram.routers := by
  simp [State.clearStore]

@[simp] theorem State.nextSeq_routers (s : State) (src : BitVec 32) : (s.nextSeq src).2.bram.routers = s.bram.routers := by
  simp [State.nextSeq]

@[simp] theorem State.msix_routers (s : State) (v : Nat) : (s.msix v).bram.routers = s.bram.routers := by simp [State.msix]

@[simp] theorem State.sendEvents_routers (s : State) (body : List Byte) : (s.sendEvents body).bram.routers = s.bram.routers := by
  simp [State.sendEvents]

@[simp] theorem State.faultAt_routers (s : State) (pac : Word) (src : BitVec 32) (code : BitVec 16) (ctx : Option Nat)
    (safety : Bool) (detail : BitVec 64) : (s.faultAt pac src code ctx safety detail).bram.routers = s.bram.routers := by
  simp [State.faultAt]

@[simp] theorem State.fault_routers (s : State) (src : BitVec 32) (code : BitVec 16) (ctx : Option Nat) (safety : Bool)
    (detail : BitVec 64) : (s.fault src code ctx safety detail).bram.routers = s.bram.routers := by
  simp [State.fault]

@[simp] theorem State.raiseSafety_routers (s : State) (row : Nat) (src : BitVec 32) (ctxs : List Nat) (detail : BitVec 64) :
    (s.raiseSafety row src ctxs detail).bram.routers = s.bram.routers := by
  simp [State.raiseSafety]

@[simp] theorem State.count_routers (s : State) (g i k : Nat) : (s.count g i k).bram.routers = s.bram.routers := by
  simp [State.count]

@[simp] theorem State.recordIrq_routers (s : State) (q : Nat) (noIrq : Bool) :
    (s.recordIrq q noIrq).bram.routers = s.bram.routers := by
  simp [State.recordIrq]

@[simp] theorem State.writeRecord_routers (s : State) (q : Nat) (seq : BitVec 32) (status layer op : BitVec 16)
    (detail : BitVec 32) (flags : BitVec 16) (energy : BitVec 32) (noIrq : Bool) :
    (s.writeRecord q seq status layer op detail flags energy noIrq).bram.routers = s.bram.routers := by
  simp [State.writeRecord]

@[simp] theorem State.dropRef_routers (s : State) (h : Nat) : (s.dropRef h).bram.routers = s.bram.routers := by
  simp [State.dropRef]

@[simp] theorem State.endCmd_routers (s : State) (q : Nat) (seq : BitVec 32) (status : BitVec 16) (detail : BitVec 32)
    (flags : BitVec 16) : (s.endCmd q seq status detail flags).bram.routers = s.bram.routers := by
  unfold State.endCmd
  split <;> simp

@[simp] theorem State.endMarkers_routers (q : Nat) : ∀ (n : Nat) (s : State), (State.endMarkers q n s).bram.routers = s.bram.routers
  | 0, _ => rfl
  | n + 1, s => by
    unfold State.endMarkers
    split
    · split
      · rw [State.endMarkers_routers q n, State.endCmd_routers]
      · rfl
    · rfl

@[simp] theorem State.writeCredit_routers (s : State) (q : Nat) : (s.writeCredit q).bram.routers = s.bram.routers := by
  simp [State.writeCredit]

@[simp] theorem State.finishCmd_routers (s : State) (q : Nat) (seq : BitVec 32) (status : BitVec 16) (detail : BitVec 32)
    (flags : BitVec 16) : (s.finishCmd q seq status detail flags).bram.routers = s.bram.routers := by
  simp [State.finishCmd]

@[simp] theorem State.updCmd_routers (s : State) (q : Nat) (seq : BitVec 32) (f : QCmd → QCmd) :
    (s.updCmd q seq f).bram.routers = s.bram.routers := by
  simp [State.updCmd]

@[simp] theorem State.endWait_routers (s : State) (q : Nat) (c : QCmd) (f r : Nat) :
    (s.endWait q c f r).bram.routers = s.bram.routers := by
  simp [State.endWait]

@[simp] theorem State.evalHostWaits_routers (s : State) (f : Nat) : (s.evalHostWaits f).bram.routers = s.bram.routers := by
  unfold State.evalHostWaits
  refine foldl_routers (fun u e => foldl_routers (fun v c => ?_) _ _) _ _
  split
  · split <;> simp
  · rfl

@[simp] theorem State.flagFence_routers (s : State) (f : Nat) (status : BitVec 16) :
    (s.flagFence f status).bram.routers = s.bram.routers := by
  simp [State.flagFence]

@[simp] theorem State.loadImage_routers (s : State) (kind i : Nat) : (s.loadImage kind i).bram.routers = s.bram.routers := by
  simp [State.loadImage]

/-! ### Machine/Domains -/

@[simp] theorem State.evalDom_routers (s : State) (d : Nat) : (s.evalDom d).bram.routers = s.bram.routers :=
  (congrArg (fun u => u.bram.routers) (s.evalDom_unpowered d) :)

@[simp] theorem State.revote_routers (s : State) : s.revote.bram.routers = s.bram.routers :=
  (congrArg (fun u => u.bram.routers) s.revote_unpowered :)

/-! ### Machine/Segments -/

@[simp] theorem State.pokeSpots_routers (s : State) (l : List (Spot × Byte)) : (s.pokeSpots l).bram.routers = s.bram.routers :=
  (congrArg (fun u => u.bram.routers) (s.pokeSpots_unlanded l) :)

@[simp] theorem State.renewLines_routers (s : State) (l : List Spot) : (s.renewLines l).bram.routers = s.bram.routers := by
  simp [State.renewLines]

@[simp] theorem State.writeSpots_routers (s : State) (l : List Spot) (bs : List Byte) :
    (s.writeSpots l bs).bram.routers = s.bram.routers := by
  simp [State.writeSpots]

/-! ### Machine/Access -/

@[simp] theorem State.partialWrite_routers (s : State) (l : List Spot) (bs : List Byte) :
    (s.partialWrite l bs).bram.routers = s.bram.routers := by
  simp [State.partialWrite]

@[simp] theorem State.partialCopy_routers (s : State) (rd wr : List Spot) (bs : List Byte) (bad : List Nat) :
    (s.partialCopy rd wr bs bad).bram.routers = s.bram.routers := by
  simp [State.partialCopy]

@[simp] theorem State.countLine_routers (s : State) (res : Res) (n : Nat) : (s.countLine res n).bram.routers = s.bram.routers := by
  unfold State.countLine
  split <;> simp

@[simp] theorem State.countEcc_routers (s : State) (l : List Spot) (res : Res) :
    (s.countEcc l res).bram.routers = s.bram.routers := by
  simp [State.countEcc]

@[simp] theorem State.raiseUe_routers (s : State) (lines ctxs : List Nat) :
    (s.raiseUe lines ctxs).bram.routers = s.bram.routers := by
  simp [State.raiseUe]

@[simp] theorem State.ueRead_routers (s : State) (l : List Spot) (ctxs : List Nat) :
    (s.ueRead l ctxs).bram.routers = s.bram.routers := by
  simp [State.ueRead]

@[simp] theorem State.portMove_routers (s : State) (m cls master n : Nat) :
    (s.portMove m cls master n).bram.routers = s.bram.routers := by
  simp [State.portMove]

@[simp] theorem State.moveLines_routers (s : State) (cls master : Nat) (ls : List Nat) :
    (s.moveLines cls master ls).bram.routers = s.bram.routers := by
  simp [State.moveLines]

@[simp] theorem State.askHost_routers (s : State) (l : List Spot) : (s.askHost l).bram.routers = s.bram.routers := by
  simp [State.askHost]

@[simp] theorem State.traffic_routers (s : State) (l : List Spot) (cls master : Nat) :
    (s.traffic l cls master).bram.routers = s.bram.routers := by
  simp [State.traffic]

@[simp] theorem State.mirrorServed_routers (s : State) (a k : Nat) : (s.mirrorServed a k).bram.routers = s.bram.routers := by
  simp [State.mirrorServed]

@[simp] theorem State.serveCopies_routers (s : State) (l : List Spot) : (s.serveCopies l).bram.routers = s.bram.routers := by
  unfold State.serveCopies
  refine foldl_routers (fun u n => ?_) _ _
  split <;> simp

@[simp] theorem State.countRefused_routers (s : State) (l : List Spot) (res : Res) :
    (s.countRefused l res).bram.routers = s.bram.routers := by
  simp [State.countRefused]

@[simp] theorem State.wakeFor_routers (s : State) (self : Nat) (l : List Spot) :
    (s.wakeFor self l).bram.routers = s.bram.routers := by
  simp [State.wakeFor]

@[simp] theorem State.discarded_routers (s : State) (n : Nat) : (s.discarded n).bram.routers = s.bram.routers := by
  simp [State.discarded]

@[simp] theorem State.sendCut_routers (s : State) (r : Nat) (l : List Spot) : (s.sendCut r l).bram.routers = s.bram.routers := by
  simp [State.sendCut]

/-! ### Machine/Observe -/

@[simp] theorem State.smpPut_routers (s : State) (line : Nat) (bs : List Byte) :
    (s.smpPut line bs).bram.routers = s.bram.routers := by
  simp [State.smpPut]

@[simp] theorem State.smpRecord_routers (s : State) (src : BitVec 32) (lines : Nat) (body : List Byte)
    (hdr : BitVec 32 → Nat → Bool → List Byte) : (s.smpRecord src lines body hdr).bram.routers = s.bram.routers := by
  simp [State.smpRecord]

@[simp] theorem State.bankRecord_routers (s : State) (g kind : Nat) (bank : Table Nat) :
    (s.bankRecord g kind bank).bram.routers = s.bram.routers := by
  simp [State.bankRecord]

@[simp] theorem State.bankSwap_routers (s : State) (g : Nat) (ctx : Option Nat) (layer op : BitVec 16) (seq : BitVec 32)
    (conf : Bool) : (s.bankSwap g ctx layer op seq conf).bram.routers = s.bram.routers := by
  simp [State.bankSwap]

@[simp] theorem State.traceFlush_routers (s : State) (t : Nat) : (s.traceFlush t).bram.routers = s.bram.routers := by
  simp [State.traceFlush]

@[simp] theorem State.traceEmit_routers (s : State) (t : Nat) (full : Bool) (type code : Nat) (value : Word) :
    (s.traceEmit t full type code value).bram.routers = s.bram.routers := by
  simp [State.traceEmit]

/-! ### Machine/Flits -/

@[simp] theorem State.queueMsg_routers (s : State) (x : Nat) (m : Msg) : (s.queueMsg x m).bram.routers = s.bram.routers := by
  simp [State.queueMsg]

@[simp] theorem State.wakeRunners_routers (s : State) (b : BitVec 32) : (s.wakeRunners b).bram.routers = s.bram.routers := by
  simp [State.wakeRunners]

@[simp] theorem State.queueAway_routers (s : State) (m : Msg) : (s.queueAway m).bram.routers = s.bram.routers := by
  unfold State.queueAway
  split <;> simp

@[simp] theorem State.flushWaits_routers (s : State) : (s.flushWaits).bram.routers = s.bram.routers := by simp [State.flushWaits]

/-! ### Machine/Messages -/

@[simp] theorem State.postNear_routers (s : State) (m : Msg) : (s.postNear m).bram.routers = s.bram.routers := by
  simp [State.postNear]

@[simp] theorem State.post_routers (s : State) (m : Msg) : (s.post m).bram.routers = s.bram.routers := by simp [State.post]

@[simp] theorem State.sendMsg_routers (s : State) (b : BitVec 32) (src dst : Nat) (epoch : BitVec 16) (gen : BitVec 32)
    (cls chan len : Nat) (param : BitVec 64) (payload : List Byte) :
    (s.sendMsg b src dst epoch gen cls chan len param payload).2.bram.routers = s.bram.routers := by
  unfold State.sendMsg
  split <;> simp

@[simp] theorem State.dropSent_routers (s : State) (b : BitVec 32) (src dst seq : Nat) :
    (s.dropSent b src dst seq).bram.routers = s.bram.routers := by
  simp [State.dropSent]

@[simp] theorem State.answer_routers (s : State) (m : Msg) (result : Nat) : (s.answer m result).bram.routers = s.bram.routers := by
  unfold State.answer
  dsimp only
  repeat' split
  all_goals simp

@[simp] theorem State.sendCredit_routers (s : State) (t : Nat) (m : Msg) : (s.sendCredit t m).bram.routers = s.bram.routers := by
  simp [State.sendCredit]

@[simp] theorem State.addCredit_routers (s : State) (t : Nat) (m : Msg) : (s.addCredit t m).bram.routers = s.bram.routers := by
  simp [State.addCredit]

/-! ### Machine/Intake -/

@[simp] theorem State.putRowAt_routers (s : State) (t va tagVa n rowBytes : Nat) (row : List Byte) (tag : Nat) :
    (s.putRowAt t va tagVa n rowBytes row tag).bram.routers = s.bram.routers := by
  simp [State.putRowAt]

@[simp] theorem State.placeRow_routers (s : State) (t i src : Nat) (block : Bool) (row : List Byte) (tag : Nat) :
    (s.placeRow t i src block row tag).bram.routers = s.bram.routers := by
  simp [State.placeRow]

@[simp] theorem State.countBreach_routers (s : State) (t i : Nat) (quota : Bool) :
    (s.countBreach t i quota).bram.routers = s.bram.routers := by
  simp [State.countBreach]

@[simp] theorem State.spillRow_routers (s : State) (t i tag : Nat) (row : List Byte) :
    (s.spillRow t i tag row).1.bram.routers = s.bram.routers := by
  unfold State.spillRow
  dsimp only
  repeat' split
  all_goals simp

@[simp] theorem State.acceptRow_routers (s : State) (t i src : Nat) (spilled block : Bool) (tag : Nat) (row : List Byte) :
    (s.acceptRow t i src spilled block tag row).1.bram.routers = s.bram.routers := by
  unfold State.acceptRow
  dsimp only
  repeat' split
  all_goals simp

@[simp] theorem State.tryIntake_routers (s : State) (t : Nat) (m : Msg) : (s.tryIntake t m).1.bram.routers = s.bram.routers := by
  have hrow := fun i sp bl tag row => s.acceptRow_routers t i m.src sp bl tag row
  unfold State.tryIntake
  dsimp only
  split
  · simp
  · split
    · rfl
    · simp
    · split
      · simp
      · split
        · next h => exact routers_of_fst h (hrow ..)
        · next h => exact (State.setTile_routers ..).trans (routers_of_fst h (hrow ..))

@[simp] theorem State.tryWaiting_routers (s : State) (t : Nat) : (s.tryWaiting t).bram.routers = s.bram.routers := by
  unfold State.tryWaiting
  refine foldl_part (fun a : State × List Msg => a.1.bram.routers) _ (fun a m => ?_) _ _
  dsimp only
  split
  · rfl
  · split
    · next h => exact routers_of_fst h (State.tryIntake_routers ..)
    · next h =>
      rw [State.answer_routers, State.sendCredit_routers]
      exact routers_of_fst h (State.tryIntake_routers ..)

@[simp] theorem State.arriveRow_routers (s : State) (t : Nat) (m : Msg) : (s.arriveRow t m).bram.routers = s.bram.routers := by
  unfold State.arriveRow
  dsimp only
  split
  · rfl
  · split
    · next h => exact (State.setTile_routers ..).trans (routers_of_fst h (State.tryIntake_routers ..))
    · next h =>
      rw [State.answer_routers]
      exact routers_of_fst h (State.tryIntake_routers ..)

theorem State.wakeTake_routers (s : State) (t : Nat) {resume : State → Nat → Word → State}
    (h : ∀ s rd v, (resume s rd v).bram.routers = s.bram.routers) : (s.wakeTake t resume).bram.routers = s.bram.routers := by
  unfold State.wakeTake
  dsimp only
  split
  · split
    · rfl
    · split
      · rfl
      · exact h _ _ _
  · rfl

theorem State.settleIntakes_routers {t : Nat} {resume : State → Nat → Word → State}
    (h : ∀ s rd v, (resume s rd v).bram.routers = s.bram.routers) :
    ∀ (n : Nat) (s : State), (s.settleIntakes n t resume).bram.routers = s.bram.routers
  | 0, _ => rfl
  | n + 1, s => by
    rw [State.settleIntakes, State.settleIntakes_routers h n, State.wakeTake_routers _ _ h, State.tryWaiting_routers]

@[simp] theorem State.closeIntakes_routers (s : State) (t : Nat) : (s.closeIntakes t).bram.routers = s.bram.routers := by
  simp [State.closeIntakes]

/-! ### Machine/Kernel -/

@[simp] theorem State.closeOp_routers (s : State) (t : Nat) (o : EngOp) (err : Option Nat) :
    (s.closeOp t o err).bram.routers = s.bram.routers := by
  simp [State.closeOp]

@[simp] theorem State.countMoved_routers (s : State) (t : Nat) (l : List Spot) :
    (s.countMoved t l).bram.routers = s.bram.routers := by
  simp [State.countMoved]

@[simp] theorem State.moverStops_routers (s : State) (t : Nat) (o : EngOp) (bs : List Byte) (bad : List Nat) :
    (s.moverStops t o bs bad).bram.routers = s.bram.routers := by
  simp [State.moverStops]

@[simp] theorem State.landWrites_routers (s : State) (t : Nat) (o : EngOp) : (s.landWrites t o).bram.routers = s.bram.routers := by
  simp [State.landWrites]

@[simp] theorem State.abortOps_routers (s : State) (t code : Nat) : (s.abortOps t code).bram.routers = s.bram.routers := by
  simp [State.abortOps]

@[simp] theorem State.stopKernel_routers (s : State) (t : Nat) (st : Stop) (abort : Option Nat) :
    (s.stopKernel t st abort).bram.routers = s.bram.routers := by
  unfold State.stopKernel
  dsimp only
  repeat' split
  all_goals simp

@[simp] theorem State.safetyStop_routers (s : State) (t : Nat) : (s.safetyStop t).bram.routers = s.bram.routers := by
  simp [State.safetyStop]

@[simp] theorem State.takeWatchdog_routers (s : State) (t : Nat) : (s.takeWatchdog t).bram.routers = s.bram.routers := by
  unfold State.takeWatchdog
  dsimp only
  split <;> simp

@[simp] theorem State.stopFor_routers (s : State) (t : Nat) (st : Stop) (abort : Option Nat) :
    (s.stopFor t st abort).bram.routers = s.bram.routers := by
  simp [State.stopFor]

@[simp] theorem State.retireTo_routers (s : State) (t : Nat) (instr : Bool) (pc : Word) :
    (s.retireTo t instr pc).bram.routers = s.bram.routers := by
  simp [State.retireTo]

@[simp] theorem State.retire_routers (s : State) (t n : Nat) : (s.retire t n).bram.routers = s.bram.routers := by
  simp [State.retire]

@[simp] theorem State.wakeFence_routers (s : State) (t f : Nat) : (s.wakeFence t f).bram.routers = s.bram.routers := by
  unfold State.wakeFence
  dsimp only
  repeat' split
  all_goals simp

@[simp] theorem State.evalWaiters_routers (s : State) (f : Nat) : (s.evalWaiters f).bram.routers = s.bram.routers := by
  simp [State.evalWaiters]

@[simp] theorem State.launchEnd_routers (s : State) (q : Nat) (seq : BitVec 32) (c : QCmd) :
    (s.launchEnd q seq c).bram.routers = s.bram.routers := by
  unfold State.launchEnd
  dsimp only
  split <;> simp

@[simp] theorem State.report_routers (s : State) (t q : Nat) (seq : BitVec 32) (rank : Nat) (status : BitVec 16) (trap : Nat)
    (flags : BitVec 16) : (s.report t q seq rank status trap flags).bram.routers = s.bram.routers := by
  unfold State.report
  split <;> simp

@[simp] theorem State.charge_routers (s : State) (t q : Nat) (seq : BitVec 32) :
    (s.charge t q seq).bram.routers = s.bram.routers := by
  simp [State.charge]

@[simp] theorem State.dropLaunch_routers (s : State) (t : Nat) (l : Launch) (status : BitVec 16) :
    (s.dropLaunch t l status).bram.routers = s.bram.routers := by
  simp [State.dropLaunch]

@[simp] theorem State.beginSwap_routers (s : State) (t need : Nat) (w : Swap) :
    (s.beginSwap t need w).bram.routers = s.bram.routers := by
  simp [State.beginSwap]

@[simp] theorem State.startSwap_routers (s : State) (t : Nat) (best : Option ℤ) :
    (s.startSwap t best).bram.routers = s.bram.routers := by
  unfold State.startSwap
  dsimp only
  repeat' split
  all_goals simp

@[simp] theorem State.enterKernel_routers (s : State) (t slot : Nat) (l : Launch) (rest : List Launch) :
    (s.enterKernel t slot l rest).bram.routers = s.bram.routers := by
  simp [State.enterKernel]

@[simp] theorem State.dispatchTile_routers (s : State) (t : Nat) : (s.dispatchTile t).bram.routers = s.bram.routers := by
  unfold State.dispatchTile
  dsimp only
  repeat' split
  all_goals simp

@[simp] theorem State.sendMarkers_routers (s : State) (t : Nat) (root : BitVec 32) :
    (s.sendMarkers t root).bram.routers = s.bram.routers := by
  unfold State.sendMarkers
  dsimp only
  split <;> simp

@[simp] theorem State.freezeBoundary_routers (s : State) (t : Nat) : (s.freezeBoundary t).bram.routers = s.bram.routers := by
  unfold State.freezeBoundary
  refine foldl_routers (fun u b => ?_) _ _
  split <;> simp

@[simp] theorem State.endKernel_routers (s : State) (t : Nat) : (s.endKernel t).bram.routers = s.bram.routers := by
  unfold State.endKernel
  dsimp only
  split <;> simp

@[simp] theorem State.boundary_routers (s : State) (t : Nat) : (s.boundary t).bram.routers = s.bram.routers := by
  simp [State.boundary]

/-! ### Machine/Regs -/

@[simp] theorem State.serveBar_routers (s : State) (b : BarReq) (res : Res) : (s.serveBar b res).bram.routers = s.bram.routers := by
  simp [State.serveBar]

@[simp] theorem State.takeBar_routers (s : State) (b : BarReq) (res : Res) : (s.takeBar b res).bram.routers = s.bram.routers := by
  simp [State.takeBar]

@[simp] theorem State.dropBars_routers (s : State) (t : Nat) : (s.dropBars t).bram.routers = s.bram.routers := by
  simp [State.dropBars]

/-- The routers' states under a name of their own: the kernel compares two of them by the states that they are of, and does not
evaluate an address of a store. -/
def State.routerStates (s : State) : Table Nat := s.bram.routers

theorem State.routerStates_eq (s : State) : s.routerStates = s.bram.routers := rfl

theorem State.takeBar_routerStates (s : State) (b : BarReq) : (s.takeBar b (s.barRes b)).routerStates = s.routerStates := by
  rw [State.routerStates_eq, State.routerStates_eq, State.takeBar_routers]

@[simp] theorem State.emptyBars_routers (s : State) (t : Nat) : (s.emptyBars t).bram.routers = s.bram.routers := by
  rw [State.emptyBars, ← State.routerStates_eq, foldl_part State.routerStates _ State.takeBar_routerStates, State.routerStates_eq,
    State.dropBars_routers]

/-! ### Machine/Contexts -/

@[simp] theorem State.dropOn_routers (s : State) (t : Nat) (p : Launch → Bool) (status : BitVec 16) :
    (s.dropOn t p status).bram.routers = s.bram.routers := by
  simp [State.dropOn]

@[simp] theorem State.dropWaiting_routers (s : State) (p : Launch → Bool) (status : BitVec 16) :
    (s.dropWaiting p status).bram.routers = s.bram.routers := by
  simp [State.dropWaiting]

@[simp] theorem State.endIfDone_routers (s : State) (t : Nat) : (s.endIfDone t).bram.routers = s.bram.routers := by
  simp [State.endIfDone]

@[simp] theorem State.stopOn_routers (s : State) (t : Nat) (p : Launch → Bool) (safety : Bool) :
    (s.stopOn t p safety).bram.routers = s.bram.routers := by
  unfold State.stopOn
  split <;> simp

@[simp] theorem State.stopRunning_routers (s : State) (p : Launch → Bool) (safety : Bool) :
    (s.stopRunning p safety).bram.routers = s.bram.routers := by
  simp [State.stopRunning]

@[simp] theorem State.stopMover_routers (s : State) (c : QCmd) : (s.stopMover c).bram.routers = s.bram.routers := by
  simp [State.stopMover]

@[simp] theorem State.abortCmd_routers (s : State) (q : Nat) (seq : BitVec 32) (status : BitVec 16) (detail : BitVec 32) :
    (s.abortCmd q seq status detail).bram.routers = s.bram.routers := by
  unfold State.abortCmd
  split <;> simp

@[simp] theorem State.updQueues_routers (s : State) (c : Nat) (f : Queue → Queue) :
    (s.updQueues c f).bram.routers = s.bram.routers := by
  simp [State.updQueues]

@[simp] theorem State.stopQueues_routers (s : State) (c : Nat) : (s.stopQueues c).bram.routers = s.bram.routers := by
  simp [State.stopQueues]

@[simp] theorem State.setQuiesced_routers (s : State) (c : Nat) : (s.setQuiesced c).bram.routers = s.bram.routers := by
  simp [State.setQuiesced]

@[simp] theorem State.abortCtx_routers (s : State) (c : Nat) (safety : Bool) :
    (s.abortCtx c safety).bram.routers = s.bram.routers := by
  simp [State.abortCtx]

@[simp] theorem State.releaseShare_routers (s : State) (t c : Nat) : (s.releaseShare t c).bram.routers = s.bram.routers := by
  unfold State.releaseShare
  dsimp only
  split <;> simp

/-! ### Machine/Rilax -/

@[simp] theorem State.setG_routers (s : State) (t i : Nat) (v : Word) : (s.setG t i v).bram.routers = s.bram.routers := by
  simp [State.setG]

@[simp] theorem State.readUe_routers (s : State) (t : Nat) (l : List Spot) : (s.readUe t l).bram.routers = s.bram.routers := by
  simp [State.readUe]

/-! ### Machine/Tensors -/

@[simp] theorem State.writeAt_routers (s : State) (t a : Nat) (bs : List Byte) :
    (s.writeAt t a bs).bram.routers = s.bram.routers := by
  simp [State.writeAt]

/-! ### Machine/Tensor -/

@[simp] theorem State.markOp_routers (s : State) (t id : Nat) (f : EngOp → EngOp) :
    (s.markOp t id f).bram.routers = s.bram.routers := by
  simp [State.markOp]

/-! ### Machine/Exchange -/

@[simp] theorem State.useCredit_routers (s : State) (t : Nat) (m : Outgoing) : (s.useCredit t m).bram.routers = s.bram.routers := by
  simp [State.useCredit]

@[simp] theorem State.unsend_routers (s : State) (t : Nat) (o : EngOp) (sent : List Sent) (l : List Outgoing) :
    (s.unsend t o sent l).bram.routers = s.bram.routers := by
  simp [State.unsend]

@[simp] theorem pumpList_routers (t : Nat) (r : Run) (l : List Outgoing) :
    ∀ (n : Nat) (un : List Sent) (kept : List Outgoing) (s : State), (pumpList t r n un kept l s).s.bram.routers = s.bram.routers := by
  induction l with
  | nil => intro n un kept s; cases n <;> rfl
  | cons m l ih =>
    intro n un kept s
    cases n with
    | zero => rfl
    | succ n =>
      unfold pumpList
      dsimp only
      split
      · exact ih ..
      · split
        · exact ih ..
        · split
          · exact ih ..
          · rw [ih]; simp

@[simp] theorem State.pumpOp_routers (s : State) (t id : Nat) : (s.pumpOp t id).bram.routers = s.bram.routers := by
  unfold State.pumpOp
  dsimp only
  split
  · simp
  · rfl

@[simp] theorem State.pump_routers (s : State) (t : Nat) : (s.pump t).bram.routers = s.bram.routers := by simp [State.pump]

@[simp] theorem State.queueOut_routers (s : State) (t id : Nat) (l : List Outgoing) :
    (s.queueOut t id l).bram.routers = s.bram.routers := by
  simp [State.queueOut]

@[simp] theorem State.sendBytes_routers (s : State) (t : Nat) (va : Word) (n : Nat) :
    (s.sendBytes t va n).2.bram.routers = s.bram.routers := by
  simp [State.sendBytes]

@[simp] theorem State.startDisp_routers (s : State) (t : Nat) (r : Run) (o : EngOp) :
    (s.startDisp t r o).bram.routers = s.bram.routers := by
  unfold State.startDisp
  dsimp only
  split <;> simp

@[simp] theorem State.startComb_routers (s : State) (t : Nat) (r : Run) (o : EngOp) :
    (s.startComb t r o).bram.routers = s.bram.routers := by
  simp [State.startComb]

@[simp] theorem State.recvTake_routers (s : State) (t : Nat) (o : EngOp) (m : Msg) :
    (s.recvTake t o m).bram.routers = s.bram.routers := by
  simp [State.recvTake]

@[simp] theorem State.holdSend_routers (s : State) (t : Nat) (m : Msg) : (s.holdSend t m).bram.routers = s.bram.routers := by
  unfold State.holdSend
  dsimp only
  split <;> simp

@[simp] theorem State.startPut_routers (s : State) (t : Nat) (r : Run) (o : EngOp) :
    (s.startPut t r o).bram.routers = s.bram.routers := by
  simp [State.startPut]

@[simp] theorem State.startGet_routers (s : State) (t : Nat) (r : Run) (o : EngOp) :
    (s.startGet t r o).bram.routers = s.bram.routers := by
  simp [State.startGet]

@[simp] theorem State.startSend_routers (s : State) (t : Nat) (r : Run) (o : EngOp) :
    (s.startSend t r o).bram.routers = s.bram.routers := by
  simp [State.startSend]

@[simp] theorem State.collPart_routers (s : State) (t : Nat) (r : Run) (o : EngOp) (src seg flags : Nat) (bs : List Byte) :
    (s.collPart t r o src seg flags bs).bram.routers = s.bram.routers := by
  unfold State.collPart
  split <;> simp

@[simp] theorem State.readFirst_routers (s : State) (t : Nat) (o : EngOp) {go : State → State}
    (h : ∀ s, (go s).bram.routers = s.bram.routers) : (s.readFirst t o go).bram.routers = s.bram.routers := by
  unfold State.readFirst
  dsimp only
  split
  · simp
  · split
    · simp
    · rw [h]; simp

@[simp] theorem State.collBegin_routers (s : State) (t : Nat) (r : Run) (o : EngOp) :
    (s.collBegin t r o).bram.routers = s.bram.routers := by
  unfold State.collBegin
  split <;> simp

@[simp] theorem State.takeContrib_routers (s : State) (t : Nat) (r : Run) (id : Nat) (m : Msg) :
    (s.takeContrib t r id m).bram.routers = s.bram.routers := by
  unfold State.takeContrib
  split <;> simp

@[simp] theorem State.takeContribs_routers (s : State) (t : Nat) (r : Run) (id : Nat) (data : Bool) :
    (s.takeContribs t r id data).bram.routers = s.bram.routers := by
  unfold State.takeContribs
  split <;> simp

@[simp] theorem State.collAdvance_routers (s : State) (t : Nat) (r : Run) (id : Nat) :
    (s.collAdvance t r id).bram.routers = s.bram.routers := by
  unfold State.collAdvance
  dsimp only
  repeat' split
  all_goals simp

@[simp] theorem State.startColl_routers (s : State) (t : Nat) (r : Run) (o : EngOp) :
    (s.startColl t r o).bram.routers = s.bram.routers := by
  simp [State.startColl]

@[simp] theorem State.tryHeld_routers (s : State) (t : Nat) (m : Msg) : (s.tryHeld t m).1.bram.routers = s.bram.routers := by
  unfold State.tryHeld
  dsimp only
  repeat' split
  all_goals simp

@[simp] theorem State.retryHeld_routers (s : State) (t : Nat) : (s.retryHeld t).bram.routers = s.bram.routers := by
  unfold State.retryHeld
  refine foldl_part (fun a : State × List Msg => a.1.bram.routers) _ (fun a m => ?_) _ _
  split
  · rfl
  · split
    · next h =>
      rw [State.answer_routers, State.sendCredit_routers]
      exact routers_of_fst h (State.tryHeld_routers ..)
    · next h => exact routers_of_fst h (State.tryHeld_routers ..)

theorem resumeTake_routers (t : Nat) (s : State) (rd : Nat) (v : Word) : (resumeTake t s rd v).bram.routers = s.bram.routers := by
  simp [resumeTake]

@[simp] theorem State.settle_routers (s : State) (t : Nat) : (s.settle t).bram.routers = s.bram.routers := by
  unfold State.settle
  rw [State.pump_routers, State.retryHeld_routers, State.settleIntakes_routers (resumeTake_routers t)]

@[simp] theorem State.exStart_routers (s : State) (t : Nat) (r : Run) (o : EngOp) :
    (s.exStart t r o).bram.routers = s.bram.routers := by
  unfold State.exStart
  dsimp only
  repeat' split
  all_goals simp

@[simp] theorem State.exBegin_routers (s : State) (t : Nat) (o : EngOp) : (s.exBegin t o).bram.routers = s.bram.routers := by
  unfold State.exBegin
  split <;> simp

@[simp] theorem State.advance_routers (t : Nat) : ∀ (n : Nat) (s : State), (s.advance n t).bram.routers = s.bram.routers
  | 0, s => s.settle_routers t
  | n + 1, s => by
    unfold State.advance
    dsimp only
    split
    · simp
    · split
      · simp
      · split
        · simp
        · rw [State.advance_routers t n]; simp

@[simp] theorem State.proceed_routers (s : State) (t : Nat) : (s.proceed t).bram.routers = s.bram.routers := by
  simp [State.proceed]

/-! ### Machine/Arrival -/

@[simp] theorem State.degrade_routers (s : State) (b : BitVec 32) : (s.degrade b).bram.routers = s.bram.routers := by
  simp [State.degrade]

@[simp] theorem State.loseOn_routers (s : State) (t : Nat) (b : BitVec 32) : (s.loseOn t b).bram.routers = s.bram.routers := by
  unfold State.loseOn
  dsimp only
  split <;> simp

@[simp] theorem State.loseRanks_routers (s : State) (b : BitVec 32) (ranks : List Nat) :
    (s.loseRanks b ranks).bram.routers = s.bram.routers := by
  simp [State.loseRanks]

@[simp] theorem State.sendToModule_routers (s : State) (b : BitVec 32) (module cls len : Nat) (param : BitVec 64)
    (payload : List Byte) : (s.sendToModule b module cls len param payload).bram.routers = s.bram.routers := by
  unfold State.sendToModule
  dsimp only
  split <;> simp

@[simp] theorem State.declareLost_routers (s : State) (b : BitVec 32) (ranks : List Nat) :
    (s.declareLost b ranks).bram.routers = s.bram.routers := by
  simp [State.declareLost]

@[simp] theorem State.tryRetire_routers (s : State) (b : BitVec 32) : (s.tryRetire b).bram.routers = s.bram.routers := by
  simp [State.tryRetire]

@[simp] theorem State.setNested_routers (s : State) (b : BitVec 32) (st : Bunch → Nat) :
    (s.setNested b st).bram.routers = s.bram.routers := by
  simp [State.setNested]

@[simp] theorem State.tryFrozen_routers (s : State) (b : BitVec 32) : (s.tryFrozen b).bram.routers = s.bram.routers := by
  simp [State.tryFrozen]

@[simp] theorem State.reply_routers (s : State) (m : Msg) (result : Nat) : (s.reply m result).bram.routers = s.bram.routers := by
  simp [State.reply]

@[simp] theorem State.capture_routers (s : State) (b : BitVec 32) (t : Nat) (m : Msg) :
    (s.capture b t m).bram.routers = s.bram.routers := by
  simp [State.capture]

@[simp] theorem State.giveHeld_routers (s : State) (t : Nat) (m : Msg) : (s.giveHeld t m).bram.routers = s.bram.routers := by
  unfold State.giveHeld
  split
  · next h =>
    rw [State.proceed_routers, State.answer_routers]
    exact routers_of_fst h (State.tryHeld_routers ..)
  · next h => exact (State.setTile_routers ..).trans (routers_of_fst h (State.tryHeld_routers ..))

@[simp] theorem State.gotHeld_routers (s : State) (t : Nat) (l : Leaf) (m : Msg) :
    (s.gotHeld t l m).bram.routers = s.bram.routers := by
  unfold State.gotHeld
  split <;> simp

@[simp] theorem State.waitAt_routers (s : State) (t : Nat) (m : Msg) : (s.waitAt t m).bram.routers = s.bram.routers := by
  simp [State.waitAt]

@[simp] theorem State.gotPut_routers (s : State) (home t : Nat) (m : Msg) (res : Res) :
    (s.gotPut home t m res).bram.routers = s.bram.routers := by
  unfold State.gotPut
  dsimp only
  repeat' split
  all_goals simp

@[simp] theorem State.replyGet_routers (s : State) (t : Nat) (m : Msg) (sp : List Spot) (host : HostBytes) :
    (s.replyGet t m sp host).bram.routers = s.bram.routers := by
  simp [State.replyGet]

@[simp] theorem State.gotGetReq_routers (s : State) (home t : Nat) (l : Leaf) (m : Msg) (res : Res) (host : HostBytes) :
    (s.gotGetReq home t l m res host).bram.routers = s.bram.routers := by
  unfold State.gotGetReq
  dsimp only
  repeat' split
  all_goals simp

@[simp] theorem State.gotGetReply_routers (s : State) (t : Nat) (m : Msg) : (s.gotGetReply t m).bram.routers = s.bram.routers := by
  unfold State.gotGetReply
  dsimp only
  repeat' split
  all_goals simp

@[simp] theorem State.answeredRow_routers (s : State) (t : Nat) (o : EngOp) (key r : Nat) :
    (s.answeredRow t o key r).bram.routers = s.bram.routers := by
  simp [State.answeredRow]

@[simp] theorem State.gotAnswer_routers (s : State) (t : Nat) (m : Msg) : (s.gotAnswer t m).bram.routers = s.bram.routers := by
  unfold State.gotAnswer
  dsimp only
  split <;> simp

@[simp] theorem State.gotReturn_routers (s : State) (t : Nat) (m : Msg) : (s.gotReturn t m).bram.routers = s.bram.routers := by
  unfold State.gotReturn
  dsimp only
  repeat' split
  all_goals simp

@[simp] theorem State.gotMark_routers (s : State) (t : Nat) (m : Msg) : (s.gotMark t m).bram.routers = s.bram.routers := by
  simp [State.gotMark]

@[simp] theorem State.gotEpoch_routers (s : State) (l : Leaf) (m : Msg) : (s.gotEpoch l m).bram.routers = s.bram.routers := by
  simp [State.gotEpoch]

@[simp] theorem State.gotLost_routers (s : State) (m : Msg) : (s.gotLost m).bram.routers = s.bram.routers := by
  simp [State.gotLost]

@[simp] theorem State.deliver_routers (s : State) (t : Nat) (l : Leaf) (m : Msg) (res : Res) (host : HostBytes) :
    (s.deliver t l m res host).bram.routers = s.bram.routers := by
  unfold State.deliver
  split <;> simp

@[simp] theorem State.countProtocol_routers (s : State) (port : Option Nat) :
    (s.countProtocol port).bram.routers = s.bram.routers := by
  unfold State.countProtocol
  split <;> simp

@[simp] theorem State.accept_routers (s : State) (m : Msg) (res : Res) (host : HostBytes) :
    (s.accept m res host).bram.routers = s.bram.routers := by
  unfold State.accept
  dsimp only
  repeat' split
  all_goals simp

@[simp] theorem State.emptyBuf_routers (s : State) (t : Nat) : (s.emptyBuf t).bram.routers = s.bram.routers := by
  simp [State.emptyBuf]

/-! ### Machine/Runners -/

@[simp] theorem State.quadFault_routers (s : State) (x : Nat) (code : BitVec 16) :
    (s.quadFault x code).bram.routers = s.bram.routers := by
  simp [State.quadFault]

@[simp] theorem State.redo_routers (s : State) (m : Msg) : (s.redo m).bram.routers = s.bram.routers := by
  unfold State.redo
  dsimp only
  repeat' split
  all_goals simp

@[simp] theorem State.quadDown_routers (s : State) (x : Nat) : (s.quadDown x).bram.routers = s.bram.routers := by
  simp [State.quadDown]

/-! ### Machine/Compose -/

@[simp] theorem State.setRole_routers (s : State) (t role : Nat) : (s.setRole t role).bram.routers = s.bram.routers := by
  simp [State.setRole]

@[simp] theorem State.bumpGen_routers (s : State) (t : Nat) : (s.bumpGen t).bram.routers = s.bram.routers := by
  simp [State.bumpGen]

@[simp] theorem State.loseTile_routers (s : State) (t : Nat) : (s.loseTile t).bram.routers = s.bram.routers := by
  simp [State.loseTile]

@[simp] theorem State.dropTile_routers (s : State) (t : Nat) : (s.dropTile t).bram.routers = s.bram.routers := by
  simp [State.dropTile]

@[simp] theorem State.beginFreeze_routers (s : State) (b : BitVec 32) : (s.beginFreeze b).bram.routers = s.bram.routers := by
  simp [State.beginFreeze]

@[simp] theorem State.graftGone_routers (s : State) (g : Graft) : (s.graftGone g).bram.routers = s.bram.routers := by
  simp [State.graftGone]

/-! ### Machine/Grafts -/

@[simp] theorem State.resetTile_routers (s : State) (t : Nat) : (s.resetTile t).bram.routers = s.bram.routers := by
  unfold State.resetTile
  dsimp only
  split <;> simp

@[simp] theorem State.flagFences_routers (s : State) (c : Nat) : (s.flagFences c).bram.routers = s.bram.routers := by
  simp [State.flagFences]

@[simp] theorem State.quiesceSafe_routers (s : State) (c : Nat) : (s.quiesceSafe c).bram.routers = s.bram.routers := by
  simp [State.quiesceSafe]

@[simp] theorem State.leaveFor_routers (s : State) (t role : Nat) : (s.leaveFor t role).bram.routers = s.bram.routers := by
  simp [State.leaveFor]

@[simp] theorem State.undoShares_routers (s : State) (g : Graft) : (s.undoShares g).bram.routers = s.bram.routers := by
  simp [State.undoShares]

@[simp] theorem State.cancelGraft_routers (s : State) (t : Nat) (g : Graft) : (s.cancelGraft t g).bram.routers = s.bram.routers := by
  simp [State.cancelGraft]

@[simp] theorem State.cancelGrafts_routers (s : State) (t : Nat) : (s.cancelGrafts t).bram.routers = s.bram.routers := by
  simp [State.cancelGrafts]

/-! ### Machine/Ports -/

@[simp] theorem State.failPort_routers (s : State) (m : Nat) : (s.failPort m).bram.routers = s.bram.routers := by
  simp [State.failPort]

@[simp] theorem State.retireTile_routers (s : State) (t : Nat) : (s.retireTile t).bram.routers = s.bram.routers := by
  simp [State.retireTile]

@[simp] theorem State.portLinkLost_routers (s : State) (x : Nat) : (s.portLinkLost x).bram.routers = s.bram.routers := by
  simp [State.portLinkLost]

@[simp] theorem State.unitCut_routers (s : State) (i : Nat) : (s.unitCut i).bram.routers = s.bram.routers := by
  unfold State.unitCut
  split <;> simp

@[simp] theorem State.discard_routers (s : State) (bad : List Nat) : (s.discard bad).bram.routers = s.bram.routers := by
  simp [State.discard]

@[simp] theorem State.pauseRoutes_routers (s : State) : (s.pauseRoutes).bram.routers = s.bram.routers := by
  simp [State.pauseRoutes]

/-- A router that failed stays FAILED through all that its failure sets off. -/
theorem State.cutRouter_failed {s : State} {i : Nat} (k : Nat) (h : k = i ∨ s.routerFailed i = true) :
    (s.cutRouter k).routerFailed i = true := by
  unfold State.routerFailed at h ⊢
  rw [State.cutRouter, State.raiseSafety_routers, State.unitCut_routers]
  dsimp only
  rw [tget_tput]
  split
  · rfl
  · next hk => exact h.resolve_left (Ne.symm hk)

/-- The router that failed is FAILED after its failure (R266, R269). -/
theorem State.failRouter_failed (s : State) (i : Nat) : (s.failRouter i).routerFailed i = true := by
  have h1 : ((s.discard [i]).cutRouter i).routerFailed i = true := State.cutRouter_failed i (.inl (Eq.refl i))
  unfold State.failRouter
  dsimp only
  generalize (s.discard [i]).cutRouter i = u at h1 ⊢
  have h2 : (u.cutOff.foldl (fun s k => s.cutRouter k) (u.discard u.cutOff)).routerFailed i = true := by
    refine foldl_inv (P := fun v : State => v.routerFailed i = true) (fun v k hv => State.cutRouter_failed k (.inr hv)) _ _ ?_
    rwa [State.routerFailed, State.discard_routers]
  split
  · exact h1
  · split
    · exact h2
    · rwa [State.routerFailed, State.pauseRoutes_routers]

end Sys2Proof.Machine
end

section
/-! PROOFS. Messages that pass every check, their timers, and the flits of a lane quad: every row completes (R334, R361 to R363,
R366, R370, R373, R380). -/

namespace Sys2Proof.Machine

open Sys2Proof.Claims

/-! ### A message that passes every check (R373) -/

/-- What a delivery does depends on the end of its memory access and on host bytes for the classes that access memory alone. -/
theorem State.deliver_congr {m : Msg} {res res' : Res} {host host' : HostBytes} (h3 : m.cls = 0x03 → res' = res)
    (h4 : m.cls = 0x04 → res' = res ∧ host' = host) (s : State) (t : Nat) (l : Leaf) :
    s.deliver t l m res' host' = s.deliver t l m res host := by
  unfold State.deliver
  split <;> simp_all

/-- A message from a known leaf to a leaf of this module that takes it is delivered. -/
theorem State.accept_delivered {s : State} {m : Msg} {i : Nat} {d l : Leaf} (res : Res) (host : HostBytes)
    (hf : s.findBunch m.bunch = some i) (he : m.epoch = (s.bunch i).epoch) (hd : (s.bunch i).map[m.dst]? = some d)
    (hl : (s.bunch i).map[m.src]? = some l) (hm : d.module = 0) (hg : l.gen = m.srcGen)
    (hr : (s.tile d.tile).refusing = false) (hn : (s.bunch i).leafLost d = false) (ho : (s.dom d.tile).st = 2)
    (hb : s.inBist d.tile = false) : s.accept m res host = s.deliver d.tile l m res host := by
  simp [State.accept, State.bunchOf_of_find hf, Bunch.mapFor, he, hd, hl, hm, hg, hr, hn, ho, hb]

/-- A message of the bunch's present epoch is noted as heard and seen. -/
theorem State.heard_eq {s : State} {m : Msg} {i : Nat} {l : Leaf} (hf : s.findBunch m.bunch = some i)
    (he : m.epoch = (s.bunch i).epoch) (hl : (s.bunch i).map[m.src]? = some l) : seen (s.hear m) m i = heard s m i l := by
  have hmap : (((s.bunch i).mapFor m.epoch).getD (s.bunch i).map)[m.src]? = some l := by simp [Bunch.mapFor, he, hl]
  rw [State.hear_from hf hmap, seen, heard]
  split
  · rfl
  · rw [State.setBunch_bunch, State.setBunch_setBunch]

/-- What a bunch record's message state holds does not decide whether a tile is in its self-test. -/
theorem State.inBist_setBunch {s : State} {i : Nat} {x : Bunch} (hst : x.st = (s.bunch i).st) (hid : x.id = (s.bunch i).id)
    (hx : x.localLeaves = (s.bunch i).localLeaves) (t : Nat) : (s.setBunch i x).inBist t = s.inBist t := by
  have hl : ∀ b, ((s.setBunch i x).bunchOf b).localLeaves = (s.bunchOf b).localLeaves := by
    intro b
    unfold State.bunchOf
    rw [State.findBunch_setBunch s i x b hst hid]
    generalize s.findBunch b = o
    cases o with
    | none => rfl
    | some j =>
      by_cases hj : j = i
      · subst hj; exact (congrArg Bunch.localLeaves (State.setBunch_bunch s j x)).trans hx
      · exact congrArg Bunch.localLeaves (State.setBunch_bunch_ne s i j x hj)
  simp only [State.inBist, hl]
  rfl

/-- Coming off its way within the module changes nothing that a message meets. -/
theorem State.landed_unrouted (s : State) (m : Msg) : { s.landed m with bram := {} } = { s with bram := {} } := by
  unfold State.landed
  split <;> rfl

/-- A message that passes every check is delivered at its tile. -/
theorem State.receiveMsg_reaches {s : State} {m : Msg} {i : Nat} {d l : Leaf} (h : Reaches s m i d l) (res : Res)
    (host : HostBytes) :
    (s.landed m).receiveMsg m res host = (heard (s.landed m) m i l).deliver d.tile l m res host := by
  have hw := s.landed_unrouted m
  have hok' := s.landed_intactOk m
  generalize s.landed m = w at hw hok' ⊢
  obtain ⟨-, hm, hok, hf, hseq, he, hd, hl, hmod, hg, hr, hn, ho, hb⟩ := h
  have hcomp : w.comp = s.comp := (congrArg State.comp hw :)
  have hrec : w.bunch i = s.bunch i := by rw [State.bunch, State.bunch, hcomp]
  replace hf : w.findBunch m.bunch = some i := (State.findBunch_congr hcomp _).trans hf
  replace hr : (w.tile d.tile).refusing = false := (congrArg (fun u => (State.tile u d.tile).refusing) hw :).trans hr
  replace ho : (w.dom d.tile).st = 2 := (congrArg (fun u => (State.dom u d.tile).st) hw :).trans ho
  replace hb : w.inBist d.tile = false := (congrArg (State.inBist · d.tile) hw :).trans hb
  rw [← hrec] at hseq he hd hl hn
  have hne : ¬ m.epoch = (w.bunch i).epoch + 1 := by rw [he]; bv_omega
  rw [State.receiveMsg_new res host hm (hok'.trans hok) hf hseq, if_neg hne, State.heard_eq hf he hl]
  have hfound : (heard w m i l).findBunch m.bunch = some i := by
    rw [heard, State.findBunch_setBunch]
    · exact hf
    all_goals rfl
  have hbist : (heard w m i l).inBist d.tile = false := by
    rw [heard, State.inBist_setBunch]
    · exact hb
    all_goals rfl
  have hafter : (heard w m i l).bunch i = _ := State.setBunch_bunch ..
  refine State.accept_delivered res host hfound ?_ ?_ ?_ hmod hg hr ?_ ho hbist
  all_goals rw [hafter]
  · exact he
  · exact hd
  · exact hl
  · exact hn

/-! ### Heartbeats and epochs (R380, R335) -/

/-- The tiles and the memory. -/
def State.tilesMem (s : State) : Table Tile × List Host.Cell := (s.tiles, s.mem)

theorem State.setDom_tilesMem (s : State) (d : Nat) (x : Dom) : (s.setDom d x).tilesMem = s.tilesMem := rfl
theorem State.setPort_tilesMem (s : State) (m : Nat) (x : Port) : (s.setPort m x).tilesMem = s.tilesMem := rfl
theorem State.setRunner_tilesMem (s : State) (r : Nat) (x : Runner) : (s.setRunner r x).tilesMem = s.tilesMem := rfl

theorem State.park_tilesMem (s : State) (d : Nat) : (s.park d).tilesMem = s.tilesMem := by
  unfold State.park
  split <;> rfl

section
variable (s : State) {d : Nat} (hd : 156 ≤ d)
include hd

theorem State.enterLow_tilesMem (low : Nat) : (s.enterLow d low).tilesMem = s.tilesMem := by
  have quads : ∀ (l : List Nat) (f : State → Nat → Quad) (g : Nat → Nat) (t : State),
      (l.foldl (fun s j => s.setQuad (g j) (f s j)) t).tilesMem = t.tilesMem := fun l f g t => by
    apply foldl_part State.tilesMem; intros; rfl
  unfold State.enterLow
  rw [if_neg (by omega), if_neg (by omega), if_neg (by omega), if_neg (by omega)]
  simp only [apply_ite State.tilesMem, State.setDom_tilesMem, State.setRunner_tilesMem, State.park_tilesMem, quads, ite_self]

theorem State.evalOne_tilesMem : (s.evalOne d).tilesMem = s.tilesMem := by
  have hwake : ∀ u : State, (u.startWake d).tilesMem = u.tilesMem := by
    intro u
    unfold State.startWake
    simp only [apply_ite State.tilesMem, State.setDom_tilesMem, State.setPort_tilesMem, ite_self]
  unfold State.evalOne
  simp only [apply_ite State.tilesMem, hwake, State.enterLow_tilesMem _ hd, State.setDom_tilesMem, ite_self]

/-- A runner port's change of power touches no tile and no memory (R413). -/
theorem State.evalDom_tilesMem : (s.evalDom d).tilesMem = s.tilesMem := by
  unfold State.evalDom
  rw [if_neg (by omega)]
  exact State.evalOne_tilesMem s hd

end

theorem State.queueAway_tilesMem (s : State) (m : Msg) : (s.queueAway m).tilesMem = s.tilesMem := by
  unfold State.queueAway
  split
  · rfl
  · unfold State.wakeRunners
    refine foldl_part State.tilesMem _ (fun u x => ?_) _ _
    split
    · exact State.evalDom_tilesMem _ (by omega)
    · rfl

theorem State.updBunch_tilesMem (s : State) (b : BitVec 32) (f : Bunch → Bunch) : (s.updBunch b f).tilesMem = s.tilesMem := by
  unfold State.updBunch
  split <;> rfl

theorem State.post_tilesMem (s : State) (m : Msg) : (s.post m).tilesMem = s.tilesMem := by
  have he : (s.emit (.msg m)).tilesMem = s.tilesMem := by rw [State.tilesMem, State.emit_tiles, State.emit_mem]; rfl
  unfold State.post
  split
  · rfl
  dsimp only
  split
  · rw [State.queueAway_tilesMem, he]
  · rw [← he]
    unfold State.postNear
    split <;> rfl

theorem State.sendMsg_tilesMem (s : State) (b : BitVec 32) (src dst : Nat) (epoch : BitVec 16) (gen : BitVec 32)
    (cls chan len : Nat) (param : BitVec 64) (payload : List Byte) :
    (s.sendMsg b src dst epoch gen cls chan len param payload).2.tilesMem = s.tilesMem := by
  unfold State.sendMsg
  dsimp only
  split
  · rfl
  · rw [State.post_tilesMem, State.updBunch_tilesMem]

/-- What goes to another module leaves tiles and memory. -/
theorem State.sendToModule_tilesMem (s : State) (b : BitVec 32) (module cls len : Nat) (param : BitVec 64) (payload : List Byte) :
    (s.sendToModule b module cls len param payload).tilesMem = s.tilesMem := by
  unfold State.sendToModule
  dsimp only
  split
  · exact State.sendMsg_tilesMem ..
  · rfl

/-- A bunch without another module in it that has no traffic of its previous epoch left retires that epoch. -/
theorem State.tryRetire_alone {s : State} {b : BitVec 32} (hp : (s.bunchOf b).prevLive = true)
    (ho : (s.bunchOf b).otherModules = []) :
    (((s.updBunch b (fun x => { x with sentDrained := true })).tryRetire b).bunchOf b).prevLive = false := by
  obtain ⟨i, hi⟩ : ∃ i, s.findBunch b = some i := by
    cases h : s.findBunch b with
    | some i => exact ⟨i, rfl⟩
    | none => simp [State.bunchOf, h] at hp
  have hst := (State.findBunch_some hi).1
  rw [State.bunchOf_of_find hi] at hp ho
  have hf : (s.setBunch i { s.bunch i with sentDrained := true }).findBunch b = some i :=
    (State.findBunch_setBunch s i _ b (by rfl) (by rfl)).trans hi
  rw [State.updBunch_of_find hi, State.tryRetire, State.updBunch_of_find hf, State.setBunch_setBunch, State.setBunch_bunch]
  have ho' : Bunch.otherModules { s.bunch i with sentDrained := true } = [] := ho
  rw [hp, ho']
  have hf' := (State.findBunch_setBunch s i { s.bunch i with prevLive := false, prevMap := [], drained := [], sentDrained := false }
    b (by rfl) (by rfl)).trans hi
  exact congrArg Bunch.prevLive ((State.bunchOf_of_find hf').trans (State.setBunch_bunch ..))

/-! ### The timers of messages (R158, R370) -/

theorem exec_earlyMessageTimeout {s : State} {t : Nat} {m : Msg} {r : List Msg} (he : (s.tile t).early = m :: r)
    (hl : leafAt (((s.bunchOf m.bunch).mapFor m.epoch).getD (s.bunchOf m.bunch).map) m.src = none) :
    exec (.earlyMessageTimeout t) s = .next (s.setTile t { s.tile t with early := r }) := by
  change execEarlyMessageTimeout t s = _
  unfold execEarlyMessageTimeout
  rw [he]
  dsimp only
  have hb : ∀ u, (s.setTile t u).bunchOf m.bunch = s.bunchOf m.bunch := fun _ => rfl
  rw [hb, hl]

theorem exec_msgTimeout {s : State} {t seq : Nat} {o : EngOp} {u : Sent} {r : Run} (hs : (s.tile t).sentWith seq = some (o, u))
    (hr : (s.tile t).core.run = some r) : exec (.msgTimeout t seq) s
      = .next (((s.dropSent r.bunch r.mrank u.dst seq).markOp t o.id (fun p =>
        { p with unans := p.unans.erase u }.fail seq 0x2E)).proceed t) := by
  change execMsgTimeout t seq s = _
  unfold execMsgTimeout
  rw [hs]
  dsimp only
  rw [hr]

/-! ### Flits that arrive (R360 to R362) -/

/-- An ACK frees the retry buffer and leaves what the quad has received. -/
theorem Quad.acked_spec (q : Quad) (ack : BitVec 12) : (q.acked ack).rxSeq = q.rxSeq ∧ (q.acked ack).credits = q.credits := by
  unfold Quad.acked
  split <;> exact ⟨rfl, rfl⟩

/-- A NAK turns the retry buffer back and leaves the credits. -/
theorem Quad.nak_credits (q : Quad) (n : BitVec 12) : (q.nak n).credits = q.credits := by
  unfold Quad.nak
  dsimp only
  split <;> rfl

theorem State.countPort_quads (s : State) (x i k : Nat) : (s.countPort x i k).quads = s.quads := by
  unfold State.countPort
  split
  · rfl
  · exact (congrArg State.quads (s.count_unlanded _ i k) :)

theorem State.countFec_quads (s : State) (x : Nat) (f : BitVec 512) : (s.countFec x f).quads = s.quads := rfl

theorem State.flitIn_quad (s : State) (x y : Nat) (f : BitVec 512) : (s.flitIn x f).quad y = s.quad y := by
  rw [State.quad, State.flitIn, State.countFec_quads]
  rfl

theorem State.countPort_quad (s : State) (x i k y : Nat) : (s.countPort x i k).quad y = s.quad y := by
  rw [State.quad, State.countPort_quads]
  rfl

theorem State.countProtocol_quad (s : State) (p : Option Nat) (y : Nat) : (s.countProtocol p).quad y = s.quad y := by
  cases p <;> rfl

/-- A DATA flit that is the next of its quad is taken. -/
theorem State.takeData_quad (s : State) (x : Nat) (f : BitVec 512) :
    ((s.takeData x f).quad x).rxSeq = (s.quad x).rxSeq + 1 ∧ ((s.takeData x f).quad x).nakking = false := by
  unfold State.takeData
  simp only [apply_ite (fun u : State => u.quad x), State.countProtocol_quad, State.countPort_quad, State.setQuad_quad, ite_self]
  split <;> exact ⟨rfl, rfl⟩

section
variable {s : State} {x : Nat} {f : BitVec 512} (hr : s.hasRunner (x / 4) = true) (hu : s.quadUp x = true)
include hr hu

theorem exec_dataFlitRx (hg : crcGood f = true) (ht : fTYPE f = 1) (hs : fSEQ f = (s.quad x).rxSeq) : exec (.dataFlitRx x f) s
    = .next (((s.flitIn x f).setQuad x (((s.flitIn x f).quad x).acked (fACK f))).takeData x f) := by
  have hseq : (((s.flitIn x f).setQuad x (((s.flitIn x f).quad x).acked (fACK f))).quad x).rxSeq = (s.quad x).rxSeq := by
    rw [State.setQuad_quad, ((s.flitIn x f).quad x).acked_spec (fACK f) |>.1, State.flitIn_quad]
  change execDataFlitRx x f s = _
  unfold execDataFlitRx State.rxData
  rw [if_neg (by simp [hr, hu]), if_neg (by simp [ht]), if_neg (by simp [hg]), if_neg (by simp [ht]), if_pos ht,
    if_pos (hs.trans hseq.symm)]

theorem exec_ctrlFlitRx (ht : fTYPE f = 2) : exec (.ctrlFlitRx x f) s = .next ((s.flitIn x f).rxCtrl x f) := by
  change execCtrlFlitRx x f s = _
  unfold execCtrlFlitRx
  rw [if_neg (by simp [hr, hu]), if_neg (by simp [ht])]

end

/-- A CTRL flit brings the credits that it names. -/
theorem State.rxCtrl_credits (s : State) {x : Nat} {f : BitVec 512} (hg : crcGood f = true) :
    ((s.rxCtrl x f).quad x).credits = BitVec.ofNat 64 (fld f.toNat 64 64) := by
  obtain ⟨q, hq, hc⟩ : ∃ q, (s.rxCtrl x f).quads = (s.setQuad x q).quads ∧ q.credits = BitVec.ofNat 64 (ctrlFld f 8 8) := by
    unfold State.rxCtrl
    rw [if_neg (by simp [hg])]
    refine ⟨_, (apply_ite State.quads ..).trans (ite_self _), ?_⟩
    simp only [apply_ite Quad.credits, Quad.nak_credits, ite_self]
  have hx : (s.rxCtrl x f).quad x = q := by rw [State.quad, hq]; exact State.setQuad_quad _ _ _
  rw [hx, hc]
  rfl

/-! ### A flit slot (R361 to R363) -/

theorem State.countPort_out (s : State) (x i k : Nat) : (s.countPort x i k).out = s.out := by
  unfold State.countPort State.count
  split
  · rfl
  · dsimp only
    split <;> rfl

/-- One flit of a quad goes out. -/
def State.SendsFlit (s u : State) (x : Nat) : Prop := ∃ f, u.out = .flit x f :: s.out

theorem State.txCtrl_sends (s : State) (x : Nat) (nak : Bool) : s.SendsFlit (s.txCtrl x nak) x := ⟨_, rfl⟩

theorem State.txAgain_sends {s : State} {x : Nat} (h : (s.quad x).againVc.isSome = true) : s.SendsFlit (s.txAgain x) x := by
  unfold State.txAgain
  unfold Quad.againVc at h
  dsimp only
  generalize (s.quad x).retry.drop ((s.quad x).retry.length - (s.quad x).resend) = l at h ⊢
  cases l with
  | nil => simp at h
  | cons f l => exact ⟨_, (State.countPort_out ..).trans rfl⟩

theorem State.txData_sends {s : State} {x c : Nat} (h : tget [] (s.quad x).txq c ≠ []) : s.SendsFlit (s.txData x c) x := by
  unfold State.txData
  dsimp only
  split
  · next h0 => exact absurd h0 h
  · split
    · exact ⟨_, by rw [State.countPort_out, State.countPort_out, State.countPort_out]; rfl⟩
    · exact ⟨_, by rw [State.countPort_out]; rfl⟩

theorem Quad.ready_txq {q : Quad} {c : Nat} (h : q.ready c = true) : tget [] q.txq c ≠ [] := by
  unfold Quad.ready at h
  intro h0
  simp [h0] at h

/-- The channel that takes an arbitrated slot is ready. -/
theorem Quad.pick_ready {q : Quad} {arb : Word} {c : Nat} (h : q.pick arb = some c) : q.ready c = true := by
  unfold Quad.pick at h
  split at h
  · next hf =>
    cases h
    have := List.find?_some hf
    simp only [Bool.and_eq_true] at this
    exact this.1
  · split at h
    · next ht =>
      cases h
      exact ((Bool.and_eq_true _ _).mp ht).1
    · obtain ⟨i, -, hi⟩ := List.exists_of_findSome?_eq_some h
      dsimp only at hi
      split at hi
      · next hc => cases hi; exact hc
      · cases hi

theorem Quad.turned_txq (q : Quad) (arb : Word) (c : Nat) : (q.turned arb c).txq = q.txq := by
  unfold Quad.turned
  dsimp only
  split <;> rfl

/-- Every slot of a quad carries one flit (R363). -/
theorem State.fillSlot_sends (s : State) (x : Nat) : s.SendsFlit (s.fillSlot x) x := by
  have hq : ((s.setQuad x (s.quad x).tick).quad x) = (s.quad x).tick := State.setQuad_quad _ _ _
  suffices h : (s.setQuad x (s.quad x).tick).SendsFlit (s.fillSlot x) x from h
  unfold State.fillSlot
  dsimp only
  rw [hq]
  generalize (s.quad x).tick = q at hq ⊢
  generalize s.setQuad x q = u at hq ⊢
  split
  · exact ⟨_, (State.countPort_out ..).trans rfl⟩
  split
  · next h => exact State.txAgain_sends (by rw [hq, h]; rfl)
  split
  · next h => exact State.txData_sends (by rw [hq]; exact Quad.ready_txq h)
  split
  · exact ⟨_, rfl⟩
  split
  · exact State.txCtrl_sends ..
  split
  · next h => exact State.txAgain_sends (by rw [hq]; exact h)
  split
  · next c hc =>
    have hne : tget [] ((u.setQuad x (q.turned (u.runner (x / 4)).arb c)).quad x).txq c ≠ [] := by
      rw [State.setQuad_quad, Quad.turned_txq]
      exact Quad.ready_txq (Quad.pick_ready hc)
    obtain ⟨f, hf⟩ := State.txData_sends hne
    exact ⟨f, hf⟩
  · split
    · exact State.txCtrl_sends ..
    · exact ⟨_, rfl⟩

/-- Settles O57: the messages by the checks of R373, the quads by their rows, the slots by what each branch sends, and the routers by
what no operation but a failure writes. -/
theorem linkEventsComplete : Obligations.LinkEventsComplete := by
  unfold Obligations.LinkEventsComplete
  refine ⟨fun s m res host i d l h r hr hc ha => ?_, fun s b => ⟨fun m r hm => ?_, fun hst ho hl => ?_, fun k hst ho hk => ?_,
    fun hp hd hold ho => ?_⟩,
    fun s t => ⟨fun m r he hl => exec_earlyMessageTimeout he hl, fun seq o u r hs hr => exec_msgTimeout hs hr⟩,
    fun s x => ⟨fun full rev kind partner bufs retry ht hf hp => ?_, fun ht => ?_, exec_trainingRetry,
      fun f hr hu hg => ⟨fun ht hs => ?_, fun ht => ?_⟩, exec_ackTimeout, fun why hr hq hd => exec_quadDown hr hq hd, fun hr hu => ?_⟩,
    fun s i => ⟨fun why hr hf => ⟨exec_routerFailed hr hf, s.failRouter_failed i⟩, fun k hp ha hr hf he hk hne hkr hkf hke => ?_⟩⟩
  · obtain ⟨res', host', h3, h4, hx⟩ := exec_messageRow ha r hr hc
    rw [hx, State.receiveMsg_reaches h, State.deliver_congr h3 h4]
  · change execEpochHoldExpire b s = _
    unfold execEpochHoldExpire
    rw [hm]
    dsimp only
    rw [State.reply_eq_rejected]
    rfl
  · have hx : exec (.heartbeatSend b) s = .next ((s.bunchOf b).otherModules.foldl (fun s m => s.sendToModule b m clsBeat 0 0 []) s) :=
      if_pos (by simp [hst, ho, hl])
    have hkeep : ((s.bunchOf b).otherModules.foldl (fun s m => s.sendToModule b m clsBeat 0 0 []) s).tilesMem = s.tilesMem :=
      foldl_part State.tilesMem _ (fun s m => s.sendToModule_tilesMem ..) _ _
    exact ⟨_, hx, (congrArg Prod.fst hkeep :), (congrArg Prod.snd hkeep :)⟩
  · exact (if_pos (by simp [hst, ho])).trans (if_pos (by simp [hk]))
  · refine ⟨(s.updBunch b (fun x => { x with sentDrained := true })).tryRetire b, (if_pos (by simp [hp, hd, hold])).trans ?_,
      State.tryRetire_alone hp ho⟩
    rw [ho]
    rfl
  · refine ⟨_, exec_quadTrained bufs retry ht hf hp, ?_⟩
    have hq := s.linkUp_quad x full rev kind partner bufs retry
    rw [State.padsUp_eq]
    exact ⟨(congrArg Quad.st hq :), (congrArg Quad.full hq :), (congrArg Quad.bufs hq :)⟩
  · exact ⟨_, exec_trainingTimeout ht, by rw [State.fault_quad, State.setQuad_quad]⟩
  · refine ⟨_, exec_dataFlitRx hr hu hg ht hs, ?_⟩
    obtain ⟨h1, h2⟩ := State.takeData_quad ((s.flitIn x f).setQuad x (((s.flitIn x f).quad x).acked (fACK f))) x f
    rw [State.setQuad_quad, (Quad.acked_spec _ _).1, State.flitIn_quad] at h1
    exact ⟨h1, h2⟩
  · exact ⟨_, exec_ctrlFlitRx hr hu ht, State.rxCtrl_credits _ hg⟩
  · obtain ⟨f, hf⟩ := s.fillSlot_sends x
    exact ⟨_, f, if_pos (by simp [hr, hu]), hf⟩
  · rw [exec_routerDrained hp ha hr hf he, if_neg]
    · rfl
    · intro h
      exact ((s.routerNotes_last_iff i).1 h k hk hkr hkf).elim hne hke

end Sys2Proof.Machine
end

section
/-! PROOFS. What every step keeps: the queue of waiting commands, the variant and memory's canonical form (R1, R54, R59), and what a
count of the pacer oscillator changes (R62). -/

namespace Sys2Proof.Machine

/-! ### Every command, and the step (R54, R59) -/

/-- Every command's meaning keeps the queue, the variant and the canonical form: one arm per command, each by the lemma of its meaning. -/
theorem exec_keep {s0 : State} (c : Instr) (s : State) (hk : Keep s0 s) : KeepAns s0 (exec c s) := by
  cases c with
  | inputInRange vin => exact execInputInRange_keep _ _ hk
  | pwrEnAssert => exact execPwrEnAssert_keep _ hk
  | pwrEnDeassert => exact execPwrEnDeassert_keep _ hk
  | resetNAssert => exact execResetNAssert_keep _ hk
  | resetNRelease => exact execResetNRelease_keep _ hk
  | undervoltageLockout => exact execUndervoltageLockout_keep _ hk
  | vinRange vin => exact execVinRange_keep _ _ hk
  | memportTrainingDone m => exact execMemportTrainingDone_keep _ _ hk
  | powerUpSelftestDone failed => exact execPowerUpSelftestDone_keep _ _ hk
  | hostReady => exact execHostReady_keep _ hk
  | pcieConfigRequest => exact execPcieConfigRequest_keep _ hk
  | pcieHotReset why => exact execPcieHotReset_keep why _ hk
  | mmioWrite off len v => exact execMmioWrite_keep _ _ _ _ hk
  | bar2Submission off data allEnabled => exact execBar2Submission_keep _ _ _ _ hk
  | commandConsume q pt => exact execCommandConsume_keep _ _ _ hk
  | commandStart q => exact execCommandStart_keep _ _ hk
  | nop q seq => exact execNop_keep _ _ _ hk
  | launch q seq => exact execLaunch_keep _ _ _ hk
  | copy q seq => exact execCopy_keep _ _ _ hk
  | fill q seq => exact execFill_keep _ _ _ hk
  | compare q seq => exact execCompare_keep _ _ _ hk
  | fenceSignal q seq => exact execFenceSignal_keep _ _ _ hk
  | fenceWait q seq => exact execFenceWait_keep _ _ _ hk
  | barrier q seq => exact execBarrier_keep _ _ _ hk
  | marker q seq => exact execMarker_keep _ _ _ hk
  | quiesce q seq => exact execQuiesce_keep _ _ _ hk
  | hostMoverComplete q seq res a b => exact execHostMoverComplete_keep _ _ _ _ _ _ hk
  | coalesceTimerExpire q => exact execCoalesceTimerExpire_keep _ _ hk
  | cqHeadReread q head => exact execCqHeadReread_keep _ _ _ hk
  | hostDmaRefused who => exact execHostDmaRefused_keep _ _ hk
  | mgmtCmdIndexWrite v => exact execMgmtCmdIndexWrite_keep _ _ hk
  | mailboxUnknownOp acc v => exact execMailboxUnknownOp_keep _ _ _ hk
  | ctxCreate acc v => exact execCtxCreate_keep _ _ _ hk
  | ctxShare acc v => exact execCtxShare_keep _ _ _ hk
  | ctxSeg acc v => exact execCtxSeg_keep _ _ _ hk
  | ctxQuiesce acc v => exact execCtxQuiesce_keep _ _ _ hk
  | ctxQuiesced c => exact execCtxQuiesced_keep _ _ hk
  | ctxResume acc v => exact execCtxResume_keep _ _ _ hk
  | ctxReset acc v => exact execCtxReset_keep _ _ _ hk
  | ctxRemove acc v => exact execCtxRemove_keep _ _ _ hk
  | ctxSave acc v => exact execCtxSave_keep _ _ _ hk
  | ctxRestore acc v => exact execCtxRestore_keep _ _ _ hk
  | ctxBacking acc v => exact execCtxBacking_keep _ _ _ hk
  | qEnable acc v => exact execQEnable_keep _ _ _ hk
  | qResume acc v => exact execQResume_keep _ _ _ hk
  | qDestroy acc v => exact execQDestroy_keep _ _ _ hk
  | objCreate acc v => exact execObjCreate_keep _ _ _ hk
  | objFree acc v => exact execObjFree_keep _ _ _ hk
  | objDestroy acc v => exact execObjDestroy_keep _ _ _ hk
  | fenceCreate acc v => exact execFenceCreate_keep _ _ _ hk
  | fenceBind acc v => exact execFenceBind_keep _ _ _ hk
  | fenceReset acc v => exact execFenceReset_keep _ _ _ hk
  | fenceDestroy acc v => exact execFenceDestroy_keep _ _ _ hk
  | fenceFlushAck f t => exact execFenceFlushAck_keep _ _ _ hk
  | fenceSignalArrival t f agree => exact execFenceSignalArrival_keep _ _ _ _ hk
  | attest acc v => exact execAttest_keep _ _ _ hk
  | quoteReady => exact execQuoteReady_keep _ hk
  | bar4CtrlWrite acc v => exact execBar4CtrlWrite_keep _ _ _ hk
  | bar4Access write off len data res => exact execBar4Access_keep _ _ _ _ _ _ hk
  | qStatusW1c q acc v => exact execQStatusW1c_keep _ _ _ _ hk
  | hiErrClear acc v => exact execHiErrClear_keep _ _ _ hk
  | slotFlagsW1c t j acc v => exact execSlotFlagsW1c_keep _ _ _ _ _ hk
  | slotDeadlineWrite t j acc v => exact execSlotDeadlineWrite_keep _ _ _ _ _ hk
  | storeErrClear j acc v => exact execStoreErrClear_keep _ _ _ _ hk
  | mpErrClear j acc v => exact execMpErrClear_keep _ _ _ _ hk
  | lossClear acc v => exact execLossClear_keep _ _ _ hk
  | rnErrClear j acc v => exact execRnErrClear_keep _ _ _ _ hk
  | schedStatusClear j acc v => exact execSchedStatusClear_keep _ _ _ _ hk
  | xingStateClear j acc v => exact execXingStateClear_keep _ _ _ _ hk
  | fqCfgWrite acc v => exact execFqCfgWrite_keep _ _ _ hk
  | fqHeadWrite acc v => exact execFqHeadWrite_keep _ _ _ hk
  | fqStatusClear acc v => exact execFqStatusClear_keep _ _ _ hk
  | hostCapWrite acc v => exact execHostCapWrite_keep _ _ _ hk
  | mgrVoteWrite j acc v => exact execMgrVoteWrite_keep _ _ _ _ hk
  | padRelease j acc v => exact execPadRelease_keep _ _ _ _ hk
  | smpCfgWrite acc v => exact execSmpCfgWrite_keep _ _ _ hk
  | smpIntervalWrite acc v => exact execSmpIntervalWrite_keep _ _ _ hk
  | smpHeadWrite acc v => exact execSmpHeadWrite_keep _ _ _ hk
  | smpStatusClear acc v => exact execSmpStatusClear_keep _ _ _ hk
  | grpCtlWrite j acc v => exact execGrpCtlWrite_keep _ _ _ _ hk
  | grpCtlClear j acc v => exact execGrpCtlClear_keep _ _ _ _ hk
  | traceCtlWrite j acc v => exact execTraceCtlWrite_keep _ _ _ _ hk
  | add t w => exact execAdd_keep _ _ _ hk
  | sub t w => exact execSub_keep _ _ _ hk
  | and t w => exact execAnd_keep _ _ _ hk
  | or t w => exact execOr_keep _ _ _ hk
  | xor t w => exact execXor_keep _ _ _ hk
  | shl t w => exact execShl_keep _ _ _ hk
  | shr t w => exact execShr_keep _ _ _ hk
  | sra t w => exact execSra_keep _ _ _ hk
  | mul t w => exact execMul_keep _ _ _ hk
  | mulhu t w => exact execMulhu_keep _ _ _ hk
  | divu t w => exact execDivu_keep _ _ _ hk
  | remu t w => exact execRemu_keep _ _ _ hk
  | cmp t w => exact execCmp_keep _ _ _ hk
  | li t w => exact execLi_keep _ _ _ hk
  | pset t w => exact execPset_keep _ _ _ hk
  | lih t w => exact execLih_keep _ _ _ hk
  | br t w => exact execBr_keep _ _ _ hk
  | call t w => exact execCall_keep _ _ _ hk
  | jr t w => exact execJr_keep _ _ _ hk
  | ldU8 t w => exact execLdU8_keep _ _ _ hk
  | ldU16 t w => exact execLdU16_keep _ _ _ hk
  | ldU32 t w => exact execLdU32_keep _ _ _ hk
  | ld64 t w => exact execLd64_keep _ _ _ hk
  | ldS8 t w => exact execLdS8_keep _ _ _ hk
  | ldS16 t w => exact execLdS16_keep _ _ _ hk
  | ldS32 t w => exact execLdS32_keep _ _ _ hk
  | st8 t w => exact execSt8_keep _ _ _ hk
  | st16 t w => exact execSt16_keep _ _ _ hk
  | st32 t w => exact execSt32_keep _ _ _ hk
  | st64 t w => exact execSt64_keep _ _ _ hk
  | ldTd t w => exact execLdTd_keep _ _ _ hk
  | stTd t w => exact execStTd_keep _ _ _ hk
  | tdWr t w => exact execTdWr_keep _ _ _ hk
  | tdRd t w => exact execTdRd_keep _ _ _ hk
  | loadDataReturn t res host => exact execLoadDataReturn_keep _ _ _ _ hk
  | wait t w => exact execWait_keep _ _ _ hk
  | tokPoll t w => exact execTokPoll_keep _ _ _ hk
  | fenceSig t w => exact execFenceSig_keep _ _ _ hk
  | fenceWaitInstr t w => exact execFenceWaitInstr_keep _ _ _ hk
  | intakeOpen t w => exact execIntakeOpen_keep _ _ _ hk
  | intakeTake t w => exact execIntakeTake_keep _ _ _ hk
  | mvCopy t w x => exact execMvCopy_keep _ _ _ _ hk
  | mvFill t w x => exact execMvFill_keep _ _ _ _ hk
  | mvCmp t w x => exact execMvCmp_keep _ _ _ _ hk
  | moverOpComplete t mv res a b => exact execMoverOpComplete_keep _ _ _ _ _ _ hk
  | vld t w x => exact execVld_keep _ _ _ _ hk
  | vst t w x => exact execVst_keep _ _ _ _ hk
  | varith t w x => exact execVarith_keep _ _ _ _ hk
  | vfma t w x => exact execVfma_keep _ _ _ _ hk
  | vsf t w x => exact execVsf_keep _ _ _ _ hk
  | vcmp t w x => exact execVcmp_keep _ _ _ _ hk
  | vred t w x => exact execVred_keep _ _ _ _ hk
  | vbcast t w x => exact execVbcast_keep _ _ _ _ hk
  | vsel t w x => exact execVsel_keep _ _ _ _ hk
  | vmask t w x => exact execVmask_keep _ _ _ _ hk
  | cvt t w x => exact execCvt_keep _ _ _ _ hk
  | vectorOpComplete t res => exact execVectorOpComplete_keep _ _ _ hk
  | mma t w x => exact execMma_keep _ _ _ _ hk
  | mmaS24 t w x => exact execMmaS24_keep _ _ _ _ hk
  | mmaSeed t w x => exact execMmaSeed_keep _ _ _ _ hk
  | mmaRowmask t w x => exact execMmaRowmask_keep _ _ _ _ hk
  | tensorOpStart t res => exact execTensorOpStart_keep _ _ _ hk
  | tensorOpComplete t => exact execTensorOpComplete_keep _ _ hk
  | tensorCheckFail t code array row => exact execTensorCheckFail_keep _ _ _ _ _ hk
  | gateTopk t w x => exact execGateTopk_keep _ _ _ _ hk
  | disp t w x => exact execDisp_keep _ _ _ _ hk
  | dispComplete t kd => exact execDispComplete_keep _ _ _ hk
  | comb t w x => exact execComb_keep _ _ _ _ hk
  | combSum t w x => exact execCombSum_keep _ _ _ _ hk
  | compactG t w x => exact execCompactG_keep _ _ _ _ hk
  | compactS t w x => exact execCompactS_keep _ _ _ _ hk
  | dispatchOpComplete t kd res => exact execDispatchOpComplete_keep _ _ _ _ hk
  | send t w x => exact execSend_keep _ _ _ _ hk
  | recv t w x => exact execRecv_keep _ _ _ _ hk
  | put t w x => exact execPut_keep _ _ _ _ hk
  | get t w x => exact execGet_keep _ _ _ _ hk
  | bar t w x => exact execBar_keep _ _ _ _ hk
  | allreduce t w x => exact execAllreduce_keep _ _ _ _ hk
  | bcast t w x => exact execBcast_keep _ _ _ _ hk
  | allgather t w x => exact execAllgather_keep _ _ _ _ hk
  | paceArm t w => exact execPaceArm_keep _ _ _ hk
  | paceArmRel t w => exact execPaceArmRel_keep _ _ _ hk
  | paceArmDl t w => exact execPaceArmDl_keep _ _ _ hk
  | paceWait t w => exact execPaceWait_keep _ _ _ hk
  | paceClear t w => exact execPaceClear_keep _ _ _ hk
  | pacerComparatorFire t c => exact execPacerComparatorFire_keep _ _ _ hk
  | markOp t w => exact execMarkOp_keep _ _ _ hk
  | markEv t w => exact execMarkEv_keep _ _ _ hk
  | obsRd t w => exact execObsRd_keep _ _ _ hk
  | sysRead t w => exact execSysRead_keep _ _ _ hk
  | sysExit t w => exact execSysExit_keep _ _ _ hk
  | sysDist t w => exact execSysDist_keep _ _ _ hk
  | engineSlotFree t => exact execEngineSlotFree_keep _ _ hk
  | kernelBoundary t => exact execKernelBoundary_keep _ _ hk
  | coreLockstep t => exact execCoreLockstep_keep _ _ hk
  | patrolScrub t line res => exact execPatrolScrub_keep _ _ _ _ hk
  | writtenBitClearDone t => exact execWrittenBitClearDone_keep _ _ hk
  | watchdogExpire t => exact execWatchdogExpire_keep _ _ hk
  | watchdogEscalate t => exact execWatchdogEscalate_keep _ _ hk
  | swapDone t => exact execSwapDone_keep _ _ hk
  | rowMessage m => exact execRowMessage_keep _ _ hk
  | markerMessage m => exact execMarkerMessage_keep _ _ hk
  | returnMessage m => exact execReturnMessage_keep _ _ hk
  | answerMessage m => exact execAnswerMessage_keep _ _ hk
  | sendMessage m => exact execSendMessage_keep _ _ hk
  | putMessage m res => exact execPutMessage_keep _ _ _ hk
  | getReqMessage m res host => exact execGetReqMessage_keep _ _ _ _ hk
  | getReplyMessage m => exact execGetReplyMessage_keep _ _ hk
  | creditMessage m => exact execCreditMessage_keep _ _ hk
  | barMessage m => exact execBarMessage_keep _ _ hk
  | collSeqMessage m => exact execCollSeqMessage_keep _ _ hk
  | collDataMessage m => exact execCollDataMessage_keep _ _ hk
  | freezeMarkMessage m => exact execFreezeMarkMessage_keep _ _ hk
  | epochMessage m => exact execEpochMessage_keep _ _ hk
  | memberLostMessage m => exact execMemberLostMessage_keep _ _ hk
  | heartbeatMessage m => exact execHeartbeatMessage_keep _ _ hk
  | epochHoldExpire b => exact execEpochHoldExpire_keep _ _ hk
  | earlyMessageTimeout t => exact execEarlyMessageTimeout_keep _ _ hk
  | msgTimeout t seq => exact execMsgTimeout_keep _ _ _ hk
  | heartbeatSend b => exact execHeartbeatSend_keep _ _ hk
  | heartbeatLoss b module => exact execHeartbeatLoss_keep _ _ _ hk
  | quadTrained x full reversed kind partner bufs retry => exact execQuadTrained_keep _ _ _ _ _ _ _ _ hk
  | trainingTimeout x => exact execTrainingTimeout_keep _ _ hk
  | trainingRetry x => exact execTrainingRetry_keep _ _ hk
  | dataFlitRx x flit => exact execDataFlitRx_keep _ _ _ hk
  | ctrlFlitRx x flit => exact execCtrlFlitRx_keep _ _ _ hk
  | ackTimeout x => exact execAckTimeout_keep _ _ hk
  | quadDown x why => exact execQuadDown_keep _ _ _ hk
  | routerFailed j why => exact execRouterFailed_keep _ why _ hk
  | routerDrained j => exact execRouterDrained_keep _ _ hk
  | refusedReply who => exact execRefusedReply_keep _ _ hk
  | endpointPacketArrival t => exact execEndpointPacketArrival_keep _ _ hk
  | memportFailed m => exact execMemportFailed_keep _ _ hk
  | memportReadComplete m off who clean mirrored mirrorClean => exact execMemportReadComplete_keep _ _ _ _ _ _ _ hk
  | mirrorRebuildDone c seg lost new => exact execMirrorRebuildDone_keep _ _ _ _ _ hk
  | bandwidthWindowEnd m => exact execBandwidthWindowEnd_keep _ _ hk
  | zqCalibration m => exact execZqCalibration_keep _ _ hk
  | peelGranuleDone m g ok => exact execPeelGranuleDone_keep _ _ _ _ hk
  | composeBunch f id parent members ranges quads host encrypt => exact execComposeBunch_keep _ _ _ _ _ _ _ _ _ hk
  | dissolveBunch f b => exact execDissolveBunch_keep _ _ _ hk
  | rangeGrant f b r => exact execRangeGrant_keep _ _ _ _ hk
  | rangeRelease f b m => exact execRangeRelease_keep _ _ _ _ hk
  | tileReplace f b out inc => exact execTileReplace_keep _ _ _ _ _ hk
  | tileMove f t losing gaining pos heir reserve => exact execTileMove_keep _ _ _ _ _ _ _ _ hk
  | rangeRelocate f b m newPort newFirst => exact execRangeRelocate_keep _ _ _ _ _ _ hk
  | rangeMove f b m gaining => exact execRangeMove_keep _ _ _ _ _ hk
  | quadMove f x gaining => exact execQuadMove_keep _ _ _ _ hk
  | graftDrainDone b => exact execGraftDrainDone_keep _ _ hk
  | shareCopyDone b bad => exact execShareCopyDone_keep _ _ _ hk
  | epochDrainZero b => exact execEpochDrainZero_keep _ _ hk
  | rangeCopyDone b => exact execRangeCopyDone_keep _ _ hk
  | quadRetryEmpty x => exact execQuadRetryEmpty_keep _ _ hk
  | detachRelease f d => exact execDetachRelease_keep _ _ _ hk
  | freeze f b => exact execFreeze_keep _ _ _ hk
  | thaw f b => exact execThaw_keep _ _ _ hk
  | halt f b => exact execHalt_keep _ _ _ hk
  | resume f b => exact execResume_keep _ _ _ hk
  | bunchReset f b => exact execBunchReset_keep _ _ _ hk
  | tileRejoin t => exact execTileRejoin_keep _ _ hk
  | setPerfMode f free => exact execSetPerfMode_keep _ _ _ hk
  | setOrchCap f w => exact execSetOrchCap_keep _ _ _ hk
  | setFloors f m floors => exact execSetFloors_keep _ _ _ _ hk
  | setVcArb f port v => exact execSetVcArb_keep _ _ _ _ hk
  | setPowerPolicy f b keepIdle => exact execSetPowerPolicy_keep _ _ _ _ hk
  | orchVote f d v => exact execOrchVote_keep _ _ _ _ hk
  | portDisable f x => exact execPortDisable_keep _ _ _ hk
  | i3cTrayCapWrite w => exact execI3cTrayCapWrite_keep _ _ hk
  | i3cAddressAssign a => exact execI3cAddressAssign_keep _ _ hk
  | powerEstimateTick act => exact execPowerEstimateTick_keep _ _ hk
  | capUnmetClear => exact execCapUnmetClear_keep _ hk
  | calibrationWindow estimated measured rail vin iin => exact execCalibrationWindow_keep estimated measured rail vin iin _ hk
  | thermalSample readings => exact execThermalSample_keep _ _ hk
  | vddLow t => exact execVddLow_keep _ _ hk
  | regulator d => exact execRegulator_keep _ _ hk
  | demandIdleTimeout t => exact execDemandIdleTimeout_keep _ _ hk
  | domainWakeDone d => exact execDomainWakeDone_keep _ _ hk
  | quarterBanked q => exact execQuarterBanked_keep _ _ hk
  | resyncReq j island dropped => exact execResyncReq_keep _ _ _ _ hk
  | resyncDone j island => exact execResyncDone_keep _ _ _ hk
  | crossingPark j => exact execCrossingPark_keep _ _ hk
  | clockStopped j => exact execClockStopped_keep _ _ hk
  | clockReturn j => exact execClockReturn_keep _ _ hk
  | xingClockLost j => exact execXingClockLost_keep _ _ hk
  | handshakeStall t => exact execHandshakeStall_keep _ _ hk
  | islandReset j => exact execIslandReset_keep _ _ hk
  | tileReset t => exact execTileReset_keep _ _ hk
  | moduleReset by_ => exact execModuleReset_keep _ _ hk
  | powerCycle => exact execPowerCycle_keep _ hk
  | safetyFaultReaction flt => exact execSafetyFaultReaction_keep _ _ hk
  | escalation row => exact execEscalation_keep _ _ hk
  | huskRecordComplete units => exact execHuskRecordComplete_keep _ _ hk
  | huskUnitTimeout src => exact execHuskUnitTimeout_keep _ _ hk
  | rowAcknowledge f rows => exact execRowAcknowledge_keep _ _ _ hk
  | pacerFreqWindow p sys l => exact execPacerFreqWindow_keep _ _ _ _ hk
  | mgcKick => exact execMgcKick_keep _ hk
  | hostifHeartbeat => exact execHostifHeartbeat_keep _ hk
  | mgcWatchdog => exact execMgcWatchdog_keep _ hk
  | hostifWatchdog => exact execHostifWatchdog_keep _ hk
  | stoneLockstep => exact execStoneLockstep_keep _ hk
  | rotationTurnStart => exact execRotationTurnStart_keep _ hk
  | rotationSelftestDone t pass => exact execRotationSelftestDone_keep _ _ _ hk
  | selftestRequest f t => exact execSelftestRequest_keep _ _ _ hk
  | hello slot nc => exact execHello_keep _ _ _ hk
  | proof sid proof => exact execProof_keep _ _ _ hk
  | sessionIdleTimeout sid => exact execSessionIdleTimeout_keep _ _ hk
  | slotLockExpire slot => exact execSlotLockExpire_keep _ _ hk
  | close f => exact execClose_keep _ _ hk
  | quote f nonce => exact execQuote_keep _ _ _ hk
  | claim ct => exact execClaim_keep _ _ hk
  | credSet f slot cred => exact execCredSet_keep _ _ _ _ hk
  | credClear f slot => exact execCredClear_keep _ _ _ hk
  | unclaim f => exact execUnclaim_keep _ _ hk
  | keyInstall f b id wrapped => exact execKeyInstall_keep _ _ _ _ _ hk
  | keyAgreeBegin f => exact execKeyAgreeBegin_keep _ _ hk
  | keyAgree f b id quotes => exact execKeyAgree_keep _ _ _ _ _ hk
  | keyAccept f b id blob => exact execKeyAccept_keep _ _ _ _ _ hk
  | keyActivate f b id => exact execKeyActivate_keep _ _ _ _ hk
  | keyDestroy f b id => exact execKeyDestroy_keep _ _ _ _ hk
  | imageKeyInstall f b id wrapped => exact execImageKeyInstall_keep _ _ _ _ _ hk
  | confSet f b => exact execConfSet_keep _ _ _ hk
  | fwWrite f imgs => exact execFwWrite_keep _ _ _ hk
  | fwTrial f => exact execFwTrial_keep _ _ hk
  | fwCommit f advance => exact execFwCommit_keep _ _ _ hk
  | fwUpdate f kind => exact execFwUpdate_keep _ _ _ hk
  | unitUpdateDone ok => exact execUnitUpdateDone_keep _ _ hk
  | maintEnter f => exact execMaintEnter_keep _ _ hk
  | maintLeave f => exact execMaintLeave_keep _ _ hk
  | factoryUnlock f tokenOk => exact execFactoryUnlock_keep _ _ _ hk
  | samplerTick g => exact execSamplerTick_keep _ _ hk
  | bootVerifyDone okA okB => exact execBootVerifyDone_keep _ _ _ hk
  | railsUp => exact execRailsUp_keep _ hk
  | pcieLinkTrained speed width flit => exact execPcieLinkTrained_keep _ _ _ _ hk
  | ctxSaveDone res => exact execCtxSaveDone_keep _ _ hk
  | ctxRestoreDone res image => exact execCtxRestoreDone_keep _ _ _ hk
  | bunchActivate f b => exact execBunchActivate_keep _ _ _ hk
  | setBankKeep f q keep => exact execSetBankKeep_keep _ _ _ _ hk
  | flitSlot x => exact execFlitSlot_keep _ _ hk

/-- What a command answers is kept from the state it ran in. -/
theorem exec_next_keep {c : Instr} {s u : State} (h : exec c s = .next u) : Keep s u := by
  have hk := exec_keep c s (Keep.refl s)
  rw [h] at hk
  exact hk

/-- Settles O2: a step is a command on the state with the queue's rest, whose memory is the same, or a count of the oscillator. -/
theorem stepKeepsCanonicalMemory : Obligations.StepKeepsCanonicalMemory := by
  unfold Obligations.StepKeepsCanonicalMemory
  intro s u hm hs
  unfold step at hs
  split at hs
  · obtain rfl : s.tick = u := by simpa using hs
    exact (State.tick_keep s (Keep.refl s)).mem hm
  · exact (exec_next_keep hs).mem hm

/-! ### One count of the oscillator (R62) -/

/-- `u` differs from `s` in the counters of the observation groups alone: their settings stay. -/
structure State.Counted (s u : State) : Prop where
  rest : { u with obs := s.obs } = s
  settings : { u.obs with groups := s.obs.groups } = s.obs
  groups : ∀ g, { u.group g with counters := (s.group g).counters } = s.group g

theorem State.Counted.refl (s : State) : s.Counted s := ⟨rfl, rfl, fun _ => rfl⟩

theorem State.Counted.trans {s u v : State} (h : s.Counted u) (k : u.Counted v) : s.Counted v where
  rest := by
    have e := congrArg (fun w : State => { w with obs := s.obs }) k.rest
    exact e.trans h.rest
  settings := by
    have e := congrArg (fun o : Obs => { o with groups := s.obs.groups }) k.settings
    exact e.trans h.settings
  groups g := by
    have e := congrArg (fun x : Group => { x with counters := (s.group g).counters }) (k.groups g)
    exact e.trans (h.groups g)

theorem State.count_counted (s : State) (g i k : Nat) : s.Counted (s.count g i k) := by
  unfold State.count
  dsimp only
  split
  · refine ⟨rfl, rfl, fun j => ?_⟩
    by_cases hj : j = g
    · subst hj; rw [State.setGroup_group]
    · rw [State.setGroup_group_ne _ _ _ _ hj]
  · exact .refl s

theorem State.tickTile_counted (s : State) (t : Nat) (x : Tile) : s.Counted (s.tickTile t x) := by
  unfold State.tickTile
  split
  · exact .refl s
  · have h := s.count_counted t 0 1
    dsimp only
    split
    · exact h.trans (State.count_counted ..)
    · exact h.trans (State.count_counted ..)
    · exact h.trans (State.count_counted ..)
    · exact h.trans (State.count_counted ..)
    · exact h.trans (State.count_counted ..)
    · exact h

theorem State.tickTiles_counted (l : List (Nat × Tile)) (s : State) :
    s.Counted (l.foldl (fun s p => s.tickTile p.1 p.2) s) := by
  induction l generalizing s with
  | nil => exact .refl s
  | cons p l ih => exact (s.tickTile_counted p.1 p.2).trans (ih _)

/-- Settles O3: the idle step counts on the tiles' groups and moves the time, and a command keeps the queue and the variant. -/
theorem idleStepAndQueue : Obligations.IdleStepAndQueue := by
  unfold Obligations.IdleStepAndQueue
  refine ⟨fun s hp => ?_, fun c s u h => ⟨(exec_next_keep h).pending, (exec_next_keep h).variant⟩⟩
  obtain ⟨hrest, hset, hgrp⟩ := State.tickTiles_counted s.tiles s
  have htime := congrArg State.time hrest
  refine ⟨s.tick, by simp only [step, hp], ?_, ?_, hset, hgrp⟩
  · exact congrArg (· + 1) htime
  · exact (congrArg (fun w : State => { w with time := s.time }) hrest)

/-! ### Bytes written and cleared (R54, R59, R60) -/

theorem State.poke_lineWritten {s : State} {a : Nat} (b : Byte) (ha : isStore a = true) : (s.poke a b).lineWritten a = true := by
  unfold State.poke
  split
  · exact tget_tput_same ..
  · rename_i h
    simpa [ha, State.lineWritten] using h

theorem State.peek_unwritten {s : State} {a c : Nat} (ha : isStore a = true) (hw : s.lineWritten a = false) (hc : c / 64 = a / 64) :
    s.peek c = 0 := by
  have hl : s.lineWritten c = s.lineWritten a := by unfold State.lineWritten; rw [hc]
  simp [State.peek, isStore_line a c hc, ha, hl, hw]

/-- Settles O5: the reads after a write, and the written-bits of the lines. -/
theorem byteReadAfterWrite : Obligations.ByteReadAfterWrite := by
  unfold Obligations.ByteReadAfterWrite
  exact fun s a b => ⟨peek_poke_same s a b, fun c hc => peek_poke_ne s a c b hc, State.poke_lineWritten b,
    fun ha hw c hc => State.peek_unwritten ha hw hc⟩

theorem State.peekN_succ (s : State) (a n : Nat) : s.peekN a (n + 1) = s.peek a :: s.peekN (a + 1) n := by
  unfold State.peekN
  rw [List.range_succ_eq_map, List.map_cons, List.map_map]
  congr 1
  refine List.map_congr_left fun i _ => ?_
  simp only [Function.comp_apply]
  congr 1
  omega

theorem State.peekN_pokeN (bs : List Byte) : ∀ (s : State) (a : Nat), (s.pokeN a bs).peekN a bs.length = bs := by
  induction bs with
  | nil => exact fun _ _ => rfl
  | cons b bs ih =>
    intro s a
    rw [List.length_cons, State.peekN_succ, State.pokeN, ih, peek_pokeN_ne _ _ _ _ (by omega), peek_poke_same]

theorem State.peek_clearStore_in (s : State) {a n c : Nat} (h : a ≤ c ∧ c < a + n) : (s.clearStore a n).peek c = 0 := by
  unfold State.peek
  split
  · rfl
  · exact tget_put_filter_gone s.mem a n c h

/-- Whole lines are cleared, so every other line keeps its written-bit. -/
theorem State.peek_clearStore_out (s : State) {a n c : Nat} (ha : a % 64 = 0) (hn : n % 64 = 0) (h : c < a ∨ a + n ≤ c) :
    (s.clearStore a n).peek c = s.peek c := by
  have hl : (s.clearStore a n).lineWritten c = s.lineWritten c :=
    tget_filter _ _ _ _ fun _ => by
      simp only [Bool.or_eq_true, decide_eq_true_eq]
      omega
  have hm : memGet (s.clearStore a n).mem c = memGet s.mem c := memGet_memErase _ _ _ _ h
  simp only [State.peek, hl, hm]

/-- Settles O6: a write of bytes by induction on them, and a clear by the lines it removes. -/
theorem bytesWrittenAndCleared : Obligations.BytesWrittenAndCleared := by
  unfold Obligations.BytesWrittenAndCleared
  refine ⟨fun s a bs => ⟨State.peekN_pokeN bs s a, fun c hc => peek_pokeN_ne bs s a c hc⟩, fun s t off n _ hoff hn _ => ?_⟩
  have ha : tsAddr t off % 64 = 0 := by unfold tsAddr; omega
  exact ⟨fun i hi => s.peek_clearStore_in (by omega), fun c hc => s.peek_clearStore_out ha hn hc⟩

/-! ### Reset -/

/-- Settles O4: the reset state is written out by its fields' first values; a table that lists nothing reads its default. -/
theorem resetState : Obligations.ResetState := by
  unfold Obligations.ResetState
  refine ⟨⟨memWf_nil, rfl, rfl, fun a => ?_⟩, rfl, fun _ => rfl, rfl, rfl, rfl, fun _ => rfl, fun _ => rfl, fun _ => rfl, rfl, rfl,
    fun _ => rfl, rfl, rfl⟩
  unfold State.peek
  split
  · rfl
  · rfl

end Sys2Proof.Machine
end

section
/-! PROOFS. An instruction that retires under FULL trace can move bytes at a memory port: its INSTR packet may be the one that sends
the gathered packets to a sample ring in LPDDR5X, whose writes count at the ring's port (R250, R497, R501). Statements that hold the
memory ports fixed for every retiring instruction, whatever its tile's trace, so fail. -/

namespace Sys2Proof.Machine

open Sys2Proof.Claims

/-! ### Rows that the core takes (R199, R202) -/

/-- A one-word row that passes every check does what the row says. -/
theorem rilax_takes {name : String} {cls op t : Nat} {w : Word} {dec : Bool} {k : State → Eff} {s : State}
    (h : Takes s t w cls op dec) : rilax name cls op t w dec k s = .next (s.apply t 8 (k s)) := by
  obtain ⟨hr, hf, hc, ho, hd, hg⟩ := h
  simp [rilax, State.issueBase, hr, hf, hc, ho, hd, hg]

/-- A two-word row whose words are fetched does what the row says. -/
theorem rilax2_fetches {name : String} {t : Nat} {w : Word} {k : State → State} {s : State}
    {r : Instr × Nat × Nat × Bool × (State → Option Nat)} (h : Fetches2 s t w r) :
    rilax2 name r.2.1 r.2.2.1 t w k s = .next (k s) := by
  obtain ⟨hr, hc, ho, hf⟩ := h
  simp [rilax2, hr, hc, ho, hf]

/-- An engine operation whose guard reads zero only retires (R172, R202). -/
theorem State.issueEngine_guarded {s : State} {t : Nat} {w x : Word} {r : EngRow} (hx : fld x.toNat 60 4 = 0xE)
    (hq : (s.tile t).engineFull (engineOf w x) = false) (hd : r.dec = true) (hg : (s.tile t).core.guard w = false) :
    s.issueEngine t w x r = s.retire t 16 := by
  simp [State.issueEngine, State.apply, hx, hq, hd, hg]

/-! ### A module that traces into LPDDR5X -/

/-- The kernel of tile 0 in FULL trace, one packet before its gathered packets go out, to a ring of 256 lines at the start of
memory port 0; its token 0 is DONE and its comparator 0 has fired. -/
def tracing : State := {
  tiles := [(0, {
    core := {
      run := some { slot := 0, launch := { q := 1, seq := 0, ctx := 1, scope := 7, one := none, code := 0, budget := 100, args := []
                                           layer := 0, op := 0, ordinal := 1 }
                    rank := 0, size := 1, depth := 1, epoch := 0, bunch := 7, gen := 0, mrank := 0, start := 0, left := none, conf := false }
      segs := [(0, 0xF000000000200000)], tok := [(0, { st := 2 })], comps := [(0, { armed := true, fired := true })] }
    slots := [(0, { valid := true, ctx := 1, share := 1 })] })]
  ports := [(0, { st := 2, ranges := [(0, { valid := true, base := 0, len := 1, owner := 7 })] })]
  obs := { cfg := 0xC08, traces := [(0, { mode := 2, stage := List.replicate 127 0 })] } }

set_option maxRecDepth 100000 in
/-- The record's 33 lines count at memory port 0 (R250). -/
theorem tracing_retire_moves : (tracing.retire 0 8).ports ≠ tracing.ports := by decide +kernel

/-- The pc that a retiring instruction goes on at is no part of the ports. -/
theorem State.retire_ports (s : State) (t n m : Nat) : (s.retire t n).ports = (s.retire t m).ports := rfl

/-- So no frame of a retired instruction holds there. -/
theorem tracing_retire_frame {n : Nat} {c : Core} : ¬ ∃ u, (.next (tracing.retire 0 n) : Ans) = .next u ∧ Retired tracing u 0 n c := by
  rintro ⟨u, hu, -, -, -, -, -, -, -, -, -, hports, -⟩
  obtain rfl := Host.Outcome.next.inj hu
  exact tracing_retire_moves ((tracing.retire_ports 0 8 n).trans hports)

/-! ### The statements -/

/-- Refutes O27: on `tracing`, a `wait` on the DONE token 0 retires, and its trace packet moves bytes at memory port 0. -/
theorem not_syncInstructions : ¬ Obligations.SyncInstructions := by
  unfold Obligations.SyncInstructions
  intro h
  have htakes : Takes tracing 0 0x3000000000000000 3 0 (wRA (0x3000000000000000 : Word) ≤ 15 && wRB (0x3000000000000000 : Word) == 0
      && wRC (0x3000000000000000 : Word) == 0 && wImm (0x3000000000000000 : Word) == 0) := by
    unfold Takes; decide
  obtain ⟨-, -, hdone, -⟩ := (h tracing 0 0x3000000000000000).1 htakes
  have hx : exec (.wait 0 0x3000000000000000) tracing = .next (tracing.retire 0 8) := rilax_takes (name := "WAIT") htakes
  exact tracing_retire_frame (hx ▸ hdone rfl)

/-- Refutes O28: on `tracing`, a `pace.wait` on the fired comparator 0 retires, and its trace packet moves bytes at memory port 0. -/
theorem not_paceMarksAndExit : ¬ Obligations.PaceMarksAndExit := by
  unfold Obligations.PaceMarksAndExit
  rintro ⟨h, -⟩
  have htakes : Takes tracing 0 0x9300000000000000 9 3 (wRA (0x9300000000000000 : Word) == 0 && wRB (0x9300000000000000 : Word) == 0
      && wRC (0x9300000000000000 : Word) == 0 && fld (wImm (0x9300000000000000 : Word)) 3 34 == 0) := by
    unfold Takes; decide
  obtain ⟨-, -, hwait, -⟩ := h tracing 0 0x9300000000000000
  obtain ⟨-, hfired, -⟩ := hwait htakes
  have hx : exec (.paceWait 0 0x9300000000000000) tracing = .next (tracing.retire 0 8) := rilax_takes (name := "PACE_WAIT") htakes
  exact tracing_retire_frame (hx ▸ hfired rfl rfl)

/-- Refutes O29: on `tracing`, a `mv.copy` whose guard reads zero retires, and its trace packet moves bytes at memory port 0. -/
theorem not_engineIssue : ¬ Obligations.EngineIssue := by
  unfold Obligations.EngineIssue
  rintro ⟨h, -⟩
  let w : Word := 0x4010000000000000
  let x : Word := 0xE000000000000000
  have hmem : (Instr.mvCopy 0 w x, 4, 0, mvDec w x, fun s : State => s.mvChk 0 w x) ∈ twoWordRows 0 w x := List.mem_cons_self
  have hf : Fetches2 tracing 0 w (Instr.mvCopy 0 w x, 4, 0, mvDec w x, fun s : State => s.mvChk 0 w x) := by
    unfold Fetches2; decide
  have hx : fld x.toNat 60 4 = 0xE := by decide
  have hq : (tracing.tile 0).engineFull (engineOf w x) = false := by decide
  have hd : mvDec w x = true := by decide
  have hg : (tracing.tile 0).core.guard w = false := by decide
  obtain ⟨-, hguard, -⟩ := (((h tracing 0 w x _ hmem).2 hf).2 hx).2 hq
  have he : exec (.mvCopy 0 w x) tracing = .next (tracing.retire 0 16) :=
    (rilax2_fetches (name := "MV_COPY") (k := fun s => s.issueMv 0 w x) hf).trans
      (congrArg Host.Outcome.next (State.issueEngine_guarded hx hq hd hg))
  exact tracing_retire_frame (he ▸ hguard hd hg)

end Sys2Proof.Machine
end

section
/-! PROOFS. What counters, sample records and traces leave as it is (R488, R497, R501), and the boundary of a kernel: what it reports
and what the next one starts with (R50, R69, R190, R196). -/

namespace Sys2Proof.Machine

open Sys2Proof.Claims

/-! ### Counters, sample records and traces -/

/-- A choice has a part that both its branches have. -/
theorem ite_part {α β : Type} (p : α → β) {c : Prop} [Decidable c] {a b : α} {v : β} (ha : p a = v) (hb : p b = v) :
    p (if c then a else b) = v := by
  split
  · exact ha
  · exact hb

/-- The state without what a counter, a sample record or a trace can touch: besides that of `State.unlanded`, the memory ports and the
sources' sequence counters. -/
def State.unsampled (s : State) : State := { s.unlanded with ports := [], seqs := [] }

theorem State.unsampled_of_unlanded {s u : State} (h : u.unlanded = s.unlanded) : u.unsampled = s.unsampled :=
  congrArg (fun w : State => { w with ports := [], seqs := [] }) h

theorem State.emit_unsampled (s : State) (o : Out) : (s.emit o).unsampled = s.unsampled :=
  State.unsampled_of_unlanded (s.emit_unlanded o)

theorem State.count_unsampled (s : State) (g i k : Nat) : (s.count g i k).unsampled = s.unsampled :=
  State.unsampled_of_unlanded (s.count_unlanded g i k)

theorem State.writeSpots_unsampled (s : State) (l : List Spot) (bs : List Byte) : (s.writeSpots l bs).unsampled = s.unsampled :=
  State.unsampled_of_unlanded (s.writeSpots_unlanded l bs)

theorem State.setPort_unsampled (s : State) (m : Nat) (x : Port) : (s.setPort m x).unsampled = s.unsampled := rfl

theorem State.setGroup_unsampled (s : State) (g : Nat) (x : Group) : (s.setGroup g x).unsampled = s.unsampled := rfl

/-- Traffic that is of no tile counts at its ports alone. -/
theorem State.portMove_unsampled (s : State) (m cls n : Nat) : (s.portMove m cls 73 n).unsampled = s.unsampled := by
  simp only [State.portMove, show ¬ (73 : Nat) < 68 by decide, if_false]
  have hport : ∀ x, (((if cls = 0 then s.crossUp (16 + m) (toBytes 8 n) else s.crossDown (16 + m) (toBytes 8 n)).setPort m x).count
      (68 + m) cls n).unsampled = s.unsampled := fun x => by
    rw [State.count_unsampled, State.setPort_unsampled]
    exact ite_part _ rfl rfl
  exact ite_part _ (hport _) ((State.count_unsampled _ _ _ _).trans (hport _))

theorem State.moveLines_unsampled (s : State) (cls : Nat) (ls : List Nat) : (s.moveLines cls 73 ls).unsampled = s.unsampled :=
  foldl_part State.unsampled _ (fun s _ => ite_part _ rfl (s.portMove_unsampled _ _ _)) _ _

theorem State.smpPut_unsampled (s : State) (line : Nat) (bs : List Byte) : (s.smpPut line bs).unsampled = s.unsampled :=
  ite_part _ ((State.writeSpots_unsampled _ _ _).trans ((State.moveLines_unsampled _ _ _).trans (State.moveLines_unsampled _ _ _)))
    (s.emit_unsampled _)

theorem State.smpRecord_unsampled (s : State) (src : BitVec 32) (lines : Nat) (body : List Byte)
    (hdr : BitVec 32 → Nat → Bool → List Byte) : (s.smpRecord src lines body hdr).unsampled = s.unsampled := by
  have hobs : ∀ (u : State) (o : Obs), ({ u with obs := o } : State).unsampled = u.unsampled := fun _ _ => rfl
  simp only [State.smpRecord, apply_ite State.unsampled, hobs, State.smpPut_unsampled, ite_self]
  rfl

theorem State.traceFlush_unsampled (s : State) (t : Nat) : (s.traceFlush t).unsampled = s.unsampled :=
  ite_part _ rfl (State.smpRecord_unsampled _ _ _ _ _)

theorem State.traceEmit_unsampled (s : State) (t : Nat) (full : Bool) (type code : Nat) (value : Word) :
    (s.traceEmit t full type code value).unsampled = s.unsampled := by
  unfold State.traceEmit
  exact ite_part _ rfl (ite_part _ rfl (ite_part _ (State.traceFlush_unsampled _ _) rfl))

theorem State.bankRecord_unsampled (s : State) (g kind : Nat) (bank : Table Nat) : (s.bankRecord g kind bank).unsampled = s.unsampled := by
  unfold State.bankRecord
  exact State.smpRecord_unsampled _ _ _ _ _

theorem State.bankSwap_unsampled (s : State) (g : Nat) (ctx : Option Nat) (layer op : BitVec 16) (seq : BitVec 32) (conf : Bool) :
    (s.bankSwap g ctx layer op seq conf).unsampled = s.unsampled := by
  unfold State.bankSwap
  dsimp only
  rw [State.setGroup_unsampled]
  exact ite_part _ (s.bankRecord_unsampled _ _ _) rfl

section
variable {s u : State} (h : u.unsampled = s.unsampled)
include h

/-- What only such things changed has its tiles and blocks as they were. -/
theorem State.tile_of_unsampled (k : Nat) : u.tile k = s.tile k := (congrArg (State.tile · k) h :)

theorem State.hif_of_unsampled : u.hif = s.hif := (congrArg State.hif h :)

theorem State.comp_of_unsampled : u.comp = s.comp := (congrArg State.comp h :)

end

/-! ### A kernel's outcome (R50, R196) -/

theorem Core.endStatus_stopped {c : Core} {st : Stop} (h : c.stop = some st) :
    c.endStatus = (st.status, if st.safety = true then 0 else st.trap) := by
  rw [Core.endStatus, h]

theorem Core.endStatus_ran {c : Core} (h : c.stop = none) : c.endStatus
    = if c.unacked = true ∨ ∃ k ∈ List.range 16, (c.getTok k).st = 3 ∧ (c.getTok k).acked = false then (1, 0) else (0, 0) := by
  rw [Core.endStatus, h]
  simp

/-! ### A kernel is entered (R69 steps 4 and 5, R190) -/

/-- The registers g1 to g4 hold the arguments, and no other is set. -/
def argRegs (args : List Word) : Table Word := (List.range 4).foldl (fun g i => tput g (i + 1) (args.getD i 0)) []

theorem tget_argRegs (args : List Word) (i : Nat) : tget 0 (argRegs args) (i + 1) = if i < 4 then args.getD i 0 else 0 := by
  have h : argRegs args = [(1, args.getD 0 0), (2, args.getD 1 0), (3, args.getD 2 0), (4, args.getD 3 0)] := rfl
  rw [h]
  match i with
  | 0 | 1 | 2 | 3 => rfl
  | i + 4 => simp [tget]

/-- The tile of a kernel that has been entered: its core starts from the launch, nothing is in progress, and its launch has left its
FIFO. -/
theorem State.enterKernel_tile (s : State) (t slot : Nat) (l : Launch) (rest : List Launch) :
    (s.enterKernel t slot l rest).tile t = { (s.tile t).setSlot slot { (s.tile t).slot slot with fifo := rest } with
      core := {
        run := some (s.runOf t slot l), pc := l.code, sigs := (s.tile t).core.sigs, segs := (s.ctx l.ctx).segs
        names := (s.ctx l.ctx).names, layer := l.layer, op := l.op, g := argRegs l.args }
      held := none, movers := [], ops := [], memBytes := 0 } := by
  unfold State.enterKernel
  rw [State.tile_of_unsampled ((State.traceEmit_unsampled _ _ _ _ _ _).trans (State.bankSwap_unsampled _ _ _ _ _ _ _)),
    State.setTile_tile]
  rfl

theorem State.enterKernel_unsampled (s : State) (t slot : Nat) (l : Launch) (rest : List Launch) :
    ∃ x, (s.enterKernel t slot l rest).unsampled = (s.setTile t x).unsampled :=
  ⟨_, (State.traceEmit_unsampled _ _ _ _ _ _).trans (State.bankSwap_unsampled _ _ _ _ _ _ _)⟩

theorem Tile.setSlot_slot_same (x : Tile) (i : Nat) (v : Slot) : (x.setSlot i v).slot i = v := tget_tput_same _ _ _ _

theorem Tile.setSlot_slot_ne (x : Tile) {i j : Nat} (v : Slot) (h : j ≠ i) : (x.setSlot i v).slot j = x.slot j :=
  tget_tput_ne _ _ _ _ _ h

/-- KERNEL_BOUNDARY (R50, R69). -/
theorem exec_kernelBoundary {s : State} {t : Nat} (hd : s.kernelDone t = true) (hh : (s.tile t).core.halted = false) :
    exec (.kernelBoundary t) s = .next (((s.endKernel t).freezeBoundary t).dispatchTile t) :=
  if_pos (by rw [hd, hh]; rfl)

/-- Settles O35: the boundary by its condition, the outcome by the stop or the tokens, and the next kernel by its tile. -/
theorem kernelBoundary : Obligations.KernelBoundary := by
  unfold Obligations.KernelBoundary
  refine ⟨fun s t hd hh => exec_kernelBoundary hd hh, fun c => ⟨fun st h => Core.endStatus_stopped h, fun h hu => ?_, fun k hk h h3 ha => ?_,
    fun h hu ha => ?_⟩, fun s t slot l rest => ?_⟩
  · rw [Core.endStatus_ran h, if_pos (.inl hu)]
  · rw [Core.endStatus_ran h, if_pos (.inr ⟨k, List.mem_range.2 hk, h3, ha⟩)]
  · rw [Core.endStatus_ran h, if_neg]
    rintro (hc | ⟨k, hk, h3, hn⟩)
    · rw [hu] at hc; exact Bool.noConfusion hc
    · rw [ha k (List.mem_range.1 hk) h3] at hn; exact Bool.noConfusion hn
  · obtain ⟨x, hrest⟩ := s.enterKernel_unsampled t slot l rest
    intro u c
    have ht : u.tile t = _ := s.enterKernel_tile t slot l rest
    have hg : ∀ i, c.getG (i + 1) = if i < 4 then l.args.getD i 0 else 0 := fun i => by
      change (u.tile t).core.getG (i + 1) = _
      rw [ht]
      exact tget_argRegs l.args i
    refine ⟨by rw [show c = _ from congrArg Tile.core ht], by rw [show c = _ from congrArg Tile.core ht], rfl,
      fun i hi => (hg i).trans (if_pos hi), fun i hi => ?_, ?_⟩
    · obtain ⟨j, rfl⟩ : ∃ j, i = j + 1 := ⟨i - 1, by omega⟩
      exact (hg j).trans (if_neg (by omega))
    · have hc : c = _ := congrArg Tile.core ht
      rw [hc, ht]
      exact ⟨rfl, rfl, rfl, rfl, rfl, rfl, rfl, rfl, rfl, rfl, rfl, rfl, rfl, rfl, rfl, rfl, rfl, rfl, rfl,
        congrArg Slot.fifo (Tile.setSlot_slot_same _ _ _), fun i hi => Tile.setSlot_slot_ne _ _ hi, rfl, rfl, rfl,
        fun k hk => (State.tile_of_unsampled hrest k).trans (State.setTile_tile_ne _ _ _ _ hk), (State.hif_of_unsampled hrest).trans rfl,
        (State.comp_of_unsampled hrest).trans rfl⟩

end Sys2Proof.Machine
end

section
/-! PROOFS. A domain that has woken, and a quarter that banks (R413, R418): what one tile of the quarter holds after each step of the
fold over its tiles. -/

namespace Sys2Proof.Machine

open Sys2Proof.Claims

/-- A fold over entries listed once, whose steps write one entry each, does to an entry what its own step does. -/
theorem foldl_view {β γ : Type} {f : β → Nat → β} {view : β → Nat → γ} {g : Nat → γ → γ} {p : Nat → Prop}
    (hsame : ∀ b k, p k → view (f b k) k = g k (view b k))
    (hne : ∀ b k j, p k → p j → j ≠ k → view (f b k) j = view b j) :
    ∀ (l : List Nat) (b : β) (k : Nat), l.Nodup → (∀ a ∈ l, p a) →
      p k → view (l.foldl f b) k = if k ∈ l then g k (view b k) else view b k
  | [], _, _, _, _, _ => (if_neg List.not_mem_nil).symm
  | a :: l, b, k, hn, hp, hk => by
    obtain ⟨hal, hn⟩ := List.nodup_cons.1 hn
    have ha : p a := hp a List.mem_cons_self
    rw [List.foldl_cons, foldl_view hsame hne l _ k hn (fun x hx => hp x (List.mem_cons_of_mem _ hx)) hk]
    by_cases hka : k = a
    · subst hka
      rw [if_neg hal, if_pos List.mem_cons_self, hsame b k hk]
    · have hmem : k ∈ a :: l ↔ k ∈ l := by simp [hka]
      rw [hne b a k ha hk hka]
      simp only [hmem]

/-- What a tile of a quarter that banks has to show: the domains of its logic and its store, itself, and its store's bytes. -/
structure BankView where
  logic : Dom
  store : Dom
  tile : Tile
  bytes : Fin 0x20000000 → Byte

/-- The view of one tile. -/
def State.bankView (s : State) (t : Nat) : BankView :=
  { logic := s.dom t, store := s.dom (68 + t), tile := s.tile t, bytes := fun off => s.peek (tsAddr t off.val) }

/-- What banking makes of a view: `kept` where the store is named to stay. -/
def BankView.banked (kept : Bool) (v : BankView) : BankView :=
  if kept && v.store.st != 0 then
    { v with logic := { v.logic with st := 0, warm := false }, tile := v.tile.off, store := { v.store with st := 1 } }
  else
    { logic := { v.logic with st := 0, warm := false }, tile := v.tile.off, store := { v.store with st := 0 }, bytes := fun _ => 0 }

/-- A tile of a quarter that banks goes OFF (R413). -/
def State.bankOff (s : State) (t : Nat) : State := (s.setDom t { s.dom t with st := 0, warm := false }).enterLow t 0

/-- One step of a quarter's banking (R418). -/
def State.bankTile (keep : BitVec 17) (s : State) (t : Nat) : State :=
  let s := s.bankOff t
  if keep.getLsbD (t % 17) && (s.dom (68 + t)).st != 0 then s.setDom (68 + t) { s.dom (68 + t) with st := 1 }
  else (s.setDom (68 + t) { s.dom (68 + t) with st := 0 }).enterLow (68 + t) 0

/-- A store's clear reaches its own bytes alone. -/
theorem State.peek_clearStore_own (s : State) {t j off : Nat} (ho : off < 0x20000000) :
    (s.clearStore (tsAddr t 0) 0x20000000).peek (tsAddr j off) = if j = t then 0 else s.peek (tsAddr j off) := by
  by_cases h : j = t
  · subst h
    rw [if_pos rfl, State.peek_clearStore_in]
    unfold tsAddr; omega
  · rw [if_neg h, State.peek_clearStore_out _ (by unfold tsAddr; omega) (by decide) (by unfold tsAddr; omega)]

theorem State.enterLow_tile {s : State} {t : Nat} (ht : t < 68) : s.enterLow t 0 = s.setTile t (s.tile t).off := by
  rw [State.enterLow, if_pos ht]; rfl

theorem State.enterLow_store {s : State} {t : Nat} (ht : t < 68) : s.enterLow (68 + t) 0 = s.clearStore (tsAddr t 0) 0x20000000 := by
  rw [State.enterLow, if_neg (by omega), if_pos (by omega), if_pos rfl, Nat.add_sub_cancel_left]

theorem State.bankOff_view (s : State) {t j : Nat} (ht : t < 68) (hj : j < 68) : (s.bankOff t).bankView j =
    if j = t then { s.bankView t with logic := { s.dom t with st := 0, warm := false }, tile := (s.tile t).off }
    else s.bankView j := by
  have hs : (s.bankOff t).dom (68 + j) = s.dom (68 + j) := by
    rw [State.bankOff, State.enterLow_tile ht]
    exact State.setDom_dom_ne _ _ _ _ (by omega)
  unfold State.bankView
  rw [hs, State.bankOff, State.enterLow_tile ht]
  split
  case isTrue h =>
    subst h
    exact congrArg₂ (fun d x => BankView.mk d _ x _) (State.setDom_dom _ _ _) (State.setTile_tile _ _ _)
  case isFalse h =>
    exact congrArg₂ (fun d x => BankView.mk d _ x _) (State.setDom_dom_ne _ _ _ _ h) (State.setTile_tile_ne _ _ _ _ h)

theorem State.setStore_view (s : State) {t j : Nat} (ht : t < 68) (hj : j < 68) (x : Dom) : (s.setDom (68 + t) x).bankView j =
    if j = t then { s.bankView t with store := x } else s.bankView j := by
  unfold State.bankView
  rw [State.setDom_dom_ne _ _ _ _ (by omega : j ≠ 68 + t)]
  split
  case isTrue h => subst h; rw [State.setDom_dom]; rfl
  case isFalse h => rw [State.setDom_dom_ne _ _ _ _ (by omega : 68 + j ≠ 68 + t)]; rfl

theorem State.clearStore_view (s : State) (t j : Nat) : (s.clearStore (tsAddr t 0) 0x20000000).bankView j =
    if j = t then { s.bankView t with bytes := fun _ => 0 } else s.bankView j := by
  unfold State.bankView
  have hb : (fun off : Fin 0x20000000 => (s.clearStore (tsAddr t 0) 0x20000000).peek (tsAddr j off.val))
      = fun off => if j = t then 0 else s.peek (tsAddr j off.val) := funext fun off => s.peek_clearStore_own off.isLt
  rw [hb]
  split
  case isTrue h => subst h; rfl
  case isFalse h => rfl

theorem State.bankTile_view (keep : BitVec 17) (s : State) {t j : Nat} (ht : t < 68) (hj : j < 68) :
    (s.bankTile keep t).bankView j =
      if j = t then (s.bankView t).banked (keep.getLsbD (t % 17)) else s.bankView j := by
  have hoff := (s.bankOff_view ht ht).trans (if_pos rfl)
  have hst : (s.bankOff t).dom (68 + t) = s.dom (68 + t) := congrArg BankView.store hoff
  have hv : ((s.bankView t).store) = s.dom (68 + t) := rfl
  unfold State.bankTile BankView.banked
  simp only [hst, hv, State.enterLow_store ht]
  split
  · rw [State.setStore_view _ ht hj, hoff, s.bankOff_view ht hj]
    split <;> rfl
  · rw [State.clearStore_view, (State.setStore_view _ ht ht _).trans (if_pos rfl), State.setStore_view _ ht hj, hoff, s.bankOff_view ht hj]
    split <;> rfl

/-- Tiles of a quarter, as its banking goes through them. -/
theorem State.mem_quarterTiles (s : State) {q t : Nat} :
    t ∈ s.tileNos.filter (fun t => quarterOf t == q) ↔ s.hasTile t = true ∧ quarterOf t = q := by
  simp [State.tileNos, State.hasTile]

/-- A quarter's banking before the new tables (R413, R418). -/
def State.bankLow (s : State) (q : Nat) : State :=
  let keep := if s.wanted (136 + q) = 0 then 0 else tget 0 s.pwr.keep q
  let u := (s.tileNos.filter (fun t => quarterOf t == q)).foldl (fun s t => s.bankTile keep t) s
  u.setDom (136 + q) { u.dom (136 + q) with st := s.wanted (136 + q) }

theorem State.bank_eq (s : State) (q : Nat) : s.bank q = (s.bankLow q).retable := rfl

theorem State.bankLow_view (s : State) {q t : Nat} (ht : s.hasTile t = true) (hq : quarterOf t = q) : (s.bankLow q).bankView t
    = (s.bankView t).banked ((if s.wanted (136 + q) = 0 then 0 else tget 0 s.pwr.keep q : BitVec 17).getLsbD (t % 17)) := by
  have ht68 := State.hasTile_lt ht
  unfold State.bankLow
  generalize (if s.wanted (136 + q) = 0 then 0 else tget 0 s.pwr.keep q : BitVec 17) = keep
  have hfold := foldl_view (f := fun s t => State.bankTile keep s t) (view := State.bankView) (p := (· < 68))
    (g := fun t v => v.banked (keep.getLsbD (t % 17)))
    (fun b k hk => (b.bankTile_view keep hk hk).trans (if_pos rfl))
    (fun b k j hk hj hne => (b.bankTile_view keep hk hj).trans (if_neg hne))
    (s.tileNos.filter (fun t => quarterOf t == q)) s t (List.nodup_range.filter _)
    (fun a ha => State.hasTile_lt (s.mem_quarterTiles.1 ha).1) ht68
  rw [if_pos (s.mem_quarterTiles.2 ⟨ht, hq⟩)] at hfold
  rw [← hfold]
  unfold State.bankView
  rw [State.setDom_dom_ne _ _ _ _ (by omega), State.setDom_dom_ne _ _ _ _ (by omega)]
  rfl

/-- A quarter that may bank has no vote to be ON. -/
theorem State.canBank_wanted {s : State} {q : Nat} (h : s.canBank q = true) : s.wanted (136 + q) ≤ 1 := by
  simp only [State.canBank, Bool.and_eq_true, decide_eq_true_eq] at h
  tauto

theorem BankView.banked_logic (kept : Bool) (v : BankView) : (v.banked kept).logic.st = 0 := by
  unfold BankView.banked; split <;> rfl

theorem BankView.banked_tile (kept : Bool) (v : BankView) : (v.banked kept).tile = v.tile.off := by
  unfold BankView.banked; split <;> rfl

/-- New tables of the next route generation, and what is out takes them (R267, R418). -/
theorem State.retable_eq (s : State) : ∃ v : State, s.retable = v.resolveAll [] [] ∧ v.bram.gen = s.bram.gen + 1
    ∧ v.tiles = s.tiles ∧ v.mem = s.mem ∧ v.bram.avoid = s.outOfService :=
  ⟨_, rfl, rfl, rfl, rfl, rfl⟩

/-- Settles O48: the wake by its guard, the quarter by the view of one of its tiles, and the new tables by what they avoid. -/
theorem domainChanges : Obligations.DomainChanges := by
  unfold Obligations.DomainChanges
  intro s
  refine ⟨fun d hd hst hr => ?_, fun q hq => ?_, ?_⟩
  · have hx : exec (.domainWakeDone d) s = .next (s.awake d) := if_pos (by rw [hd, hst, hr]; rfl)
    refine ⟨hx, fun h68 h136 => hx.trans (congrArg _ ?_)⟩
    have hp : ∀ u : State, u.unpark d = u := fun u => if_neg (by simp; omega)
    simp only [State.awake, hp, if_neg (show ¬ d < 68 by omega), if_pos h136]
  · refine ⟨s.bankLow q, (if_pos hq).trans (congrArg _ (s.bank_eq q)), congrArg Dom.st (State.setDom_dom _ _ _), State.canBank_wanted hq,
      fun t ht hqt => ?_⟩
    have hv := s.bankLow_view ht hqt
    generalize hk : (if s.wanted (136 + q) = 0 then 0 else tget 0 s.pwr.keep q : BitVec 17).getLsbD (t % 17) = kept at hv
    have hlow := State.canBank_wanted hq
    have hkeep : (kept && (s.dom (68 + t)).st != 0) = true
        ↔ s.wanted (136 + q) = 1 ∧ (tget 0 s.pwr.keep q).getLsbD (t % 17) = true ∧ (s.dom (68 + t)).st ≠ 0 := by
      subst hk
      by_cases h0 : s.wanted (136 + q) = 0
      · simp [h0]
      · simp [show s.wanted (136 + q) = 1 by omega]
    refine ⟨?_, ?_, fun h => ?_, fun h => ?_⟩
    · exact (congrArg (fun v => v.logic.st) hv).trans (BankView.banked_logic _ _)
    · exact congrArg Tile.refusing ((congrArg BankView.tile hv).trans (BankView.banked_tile _ _))
    · have hb := hv.trans (if_pos (hkeep.2 h))
      exact ⟨congrArg (fun v => v.store.st) hb, fun off ho => congrFun (congrArg BankView.bytes hb) ⟨off, ho⟩⟩
    · have hb := hv.trans (if_neg fun hc => h (hkeep.1 hc))
      exact ⟨congrArg (fun v => v.store.st) hb, fun off ho => congrFun (congrArg BankView.bytes hb) ⟨off, ho⟩⟩
  · obtain ⟨v, hv, hgen, htiles, hmem, havoid⟩ := s.retable_eq
    exact ⟨v, hv, hgen, htiles, hmem, fun k hk hd => havoid ▸ (s.mem_outOfService k).2 ⟨hk, .inr hd⟩⟩

end Sys2Proof.Machine
end

section
/-! PROOFS. The shares and images of contexts (R306, R348, R384, R385, R469): what the mailbox performs once it issues, and what ends it. -/

namespace Sys2Proof.Machine

open Sys2Proof.Claims

/-! ### An operation that the mailbox performs -/

/-- A row whose operation the write issues performs it while BUSY is set. -/
theorem exec_issues {s : State} {acc : Acc} {v : Word} {op : Nat} {i : Sys2Proof.Instr} (hm : (op, i) ∈ mailboxRows acc v)
    (h : Issues s acc v op) : exec i s = .next ((issued s acc v).mboxRun (mgmtOf s acc v)) := by
  obtain ⟨hready, hx, hbusy, hmgc, hacc, hop, hres⟩ := h
  rw [← s.writeMgmtCmd_performs v hacc hbusy hres hmgc]
  exact exec_mailboxRow_next hready hx hm (.inr hop)

theorem mgmtOf_op {s : State} {acc : Acc} {v : Word} {op : Nat} (h : Issues s acc v op) : (mgmtOf s acc v).op = op := by
  obtain ⟨_, _, _, _, _, hop, _⟩ := h
  exact hop

/-- The operations of a context are performed on one that is VALID. -/
theorem State.mboxRun_valid {s : State} {m : Mgmt} (hv : (s.ctx m.idx).valid = true) :
    (m.op = 2 → s.mboxRun m = s.opCtxShare m) ∧ (m.op = 8 → s.mboxRun m = s.opCtxSave m)
      ∧ (m.op = 10 → s.mboxRun m = s.opCtxBacking m) := by
  have hguard : ¬(ctxOps.contains m.op && !(s.ctx m.idx).valid) = true := by simp [hv]
  unfold State.mboxRun
  rw [if_neg hguard]
  exact ⟨fun h => by rw [h]; rfl, fun h => by rw [h]; rfl, fun h => by rw [h]; rfl⟩

theorem State.mboxRun_restore {s : State} {m : Mgmt} (h : m.op = 9) : s.mboxRun m = s.opCtxRestore m := by
  unfold State.mboxRun; rw [h]; rfl

theorem State.mboxRun_attest {s : State} {m : Mgmt} (h : m.op = 11) : s.mboxRun m = s.opAttest m := by
  unfold State.mboxRun; rw [h]; rfl

/-- An operation that completes at once answers as `done` says. -/
theorem issued_mboxEnd (s : State) (acc : Acc) (v : Word) (st : BitVec 16) (d : BitVec 32) :
    (issued s acc v).mboxEnd st d = done (mgmtOf s acc v) (issued s acc v) st d := mboxEnd_eq_done _ _ _ _ rfl

/-- Issuing an operation changes the mailbox alone: bunches and those that hold them stay. -/
theorem issued_frozenCtx (s : State) (acc : Acc) (v : Word) (c : Nat) : (issued s acc v).frozenCtx c = s.frozenCtx c := by
  unfold State.frozenCtx
  rw [State.ancestors_congr (s := issued s acc v) (u := s) rfl]
  rfl

theorem issued_hostBunch (s : State) (acc : Acc) (v : Word) (b : BitVec 32) : (issued s acc v).hostBunch b = s.hostBunch b := by
  unfold State.hostBunch State.assigned
  rw [State.ancestors_congr (s := issued s acc v) (u := s) rfl]
  rfl

theorem mgmtOf_arg (s : State) (acc : Acc) (v : Word) {i : Nat} (h : i < 4) : (mgmtOf s acc v).arg i = argOf s i := by
  unfold Mgmt.arg mgmtOf argOf
  have : i ∈ List.range 4 := List.mem_range.2 h
  fin_cases this <;> rfl

/-! ### CTX_SHARE (R306, R385) -/

/-- Releasing what a context does not hold on a tile leaves the tile as it is. -/
theorem State.releaseShare_none {s : State} {t c : Nat} (hs : (s.tile t).slotOf c = none) (hb : ∀ e ∈ (s.tile t).standby, e.ctx ≠ c) :
    s.releaseShare t c = s.setTile t (s.tile t) := by
  have hf : (s.tile t).standby.filter (fun e => e.ctx != c) = (s.tile t).standby :=
    List.filter_eq_self.2 fun e he => bne_iff_ne.2 (hb e he)
  simp only [State.releaseShare, hs, hf]

/-- A context with neither a slot nor a standby entry on a tile has no granule there. -/
theorem State.granulesOn_none {s : State} {t c : Nat} (hs : (s.tile t).slotOf c = none) (hb : ∀ e ∈ (s.tile t).standby, e.ctx ≠ c) :
    s.granulesOn t c = 0 := by
  have hf : (s.tile t).standby.find? (fun e => e.ctx == c) = none := List.find?_eq_none.2 fun e he => by simpa using hb e he
  unfold State.granulesOn
  rw [hs, hf]

theorem State.shareOn_none {s : State} {t c : Nat} (hs : (s.tile t).slotOf c = none) : s.shareOn t c = 0 := by
  unfold State.shareOn; rw [hs]

/-- A first share takes the lowest free granules, whose clear runs first (R60, R385 step 1). -/
theorem State.opCtxShare_first {s : State} {m : Mgmt} {t i : Nat} {bm : BitVec 256}
    (hr : s.rankTile m.idx (fld (m.arg 0) 0 24) = some t) (hg : s.inGraft t = false) (hn : 0 < fld (m.arg 0) 32 9)
    (hn' : fld (m.arg 0) 32 9 ≤ 256) (hs : (s.tile t).slotOf m.idx = none) (hb : ∀ e ∈ (s.tile t).standby, e.ctx ≠ m.idx)
    (hw : (s.tile t).swap = none) (hi : (s.tile t).freeSlot = some i)
    (hl : (s.tile t).lowestFree 0 (fld (m.arg 0) 32 9) = some bm) :
    s.opCtxShare m = ((s.setTile t (s.tile t)).setTile t (s.tile t)).assignShare t m.idx i bm := by
  have hswaps : (s.tile t).swaps' m.idx = false := by unfold Tile.swaps'; rw [hw]
  have hplace : ((s.setTile t (s.tile t)).setTile t (s.tile t)).placing t m.idx (fld (m.arg 0) 32 9) 0 = .resident i bm := by
    unfold State.placing
    simp only [State.setTile_tile, hw, hi, hl, Option.isSome_none, Bool.false_eq_true, if_false]
  unfold State.opCtxShare
  simp only [hr, State.granulesOn_none hs hb, State.shareOn_none hs, State.releaseShare_none hs hb, State.setTile_tile, hplace, hg, hswaps,
    Bool.or_false, Bool.false_eq_true, if_false, if_neg (Nat.not_lt.2 hn'), if_neg (Nat.pos_iff_ne_zero.1 hn), bne_self_eq_false,
    Bool.false_and]
  exact if_pos BitVec.zero_and

/-- CTX_SHARE on a tile of a bunch of the context: a graft holds it, and granules that it has complete it. -/
theorem State.opCtxShare_has {s : State} {m : Mgmt} {t : Nat} (hr : s.rankTile m.idx (fld (m.arg 0) 0 24) = some t)
    (hn : fld (m.arg 0) 32 9 ≤ 256) :
    (s.inGraft t = true → s.opCtxShare m = s)
    ∧ (s.inGraft t = false → (s.tile t).swaps' m.idx = false → fld (m.arg 0) 32 9 = s.granulesOn t m.idx →
        s.opCtxShare m = s.mboxEnd 0 0) := by
  unfold State.opCtxShare
  simp only [hr, if_neg (Nat.not_lt.2 hn)]
  exact ⟨fun hg => if_pos (by rw [hg]; rfl), fun hg hw he => (if_neg (by rw [hg, hw]; decide)).trans (if_pos he)⟩

/-! ### CTX_BACKING and CTX_SAVE (R348, R384) -/

theorem State.opCtxBacking_sets {s : State} {m : Mgmt} (hb : s.anyStandby m.idx = false)
    (hd : segValid (tget 0 (s.ctx m.idx).segs (fld (m.arg 0) 0 4)) = true)
    (ht : segTarget (tget 0 (s.ctx m.idx).segs (fld (m.arg 0) 0 4)) = 2)
    (hr : segAllows (tget 0 (s.ctx m.idx).segs (fld (m.arg 0) 0 4)) 0 = true)
    (hw : segAllows (tget 0 (s.ctx m.idx).segs (fld (m.arg 0) 0 4)) 1 = true)
    (ho : m.arg 1 % 0x200000 = 0) (hs : m.arg 2 % 0x200000 = 0)
    (hfit : ∀ p ∈ s.sharedRanks m.idx, p.2 * 0x200000 ≤ m.arg 2
      ∧ m.arg 1 + p.1 * m.arg 2 + p.2 * 0x200000 ≤ segSize (tget 0 (s.ctx m.idx).segs (fld (m.arg 0) 0 4))) :
    s.opCtxBacking m
      = (s.setCtx m.idx { s.ctx m.idx with backing := some (fld (m.arg 0) 0 4, m.arg 1, m.arg 2) }).mboxEnd stOk 0 := by
  unfold State.opCtxBacking
  dsimp only
  rw [if_neg (by simp [hb]), if_neg (by simp only [hd, ht, hr, hw, ho, hs]; decide), if_neg]
  simpa only [List.any_eq_true, Bool.or_eq_true, decide_eq_true_eq, not_exists, not_and, not_or, Nat.not_lt] using hfit

/-- Why a save of a QUIESCED context cannot be made, in the order of the checks. -/
theorem State.saveFails_quiesced {s : State} {m : Mgmt} (hq : (s.ctx m.idx).st = 2) :
    let sealed := (s.ctx m.idx).conf = true ∧ s.imageKey (s.ctx m.idx).bunch = none
    let need := (s.imageBytes m.idx).length / 4096
    (m.arg 0 % 4096 ≠ 0 → s.saveFails m = some (0x14, 0))
    ∧ (m.arg 0 % 4096 = 0 → sealed → s.saveFails m = some (0x0C, 0))
    ∧ (m.arg 0 % 4096 = 0 → ¬sealed → s.saveFails m
        = if m.arg 1 < need * 4096 then some (0x0E, BitVec.ofNat 32 need) else none) := by
  intro sealed need
  have hseal : ((s.ctx m.idx).conf && (s.imageKey (s.ctx m.idx).bunch).isNone) = true ↔ sealed := by
    simp only [sealed, Bool.and_eq_true, Option.isNone_iff_eq_none]
  unfold State.saveFails
  dsimp only
  rw [if_neg (by simp [hq])]
  refine ⟨fun h => if_pos (bne_iff_ne.2 h), fun h hs => ?_, fun h hs => ?_⟩
  · rw [if_neg (by simp [h]), if_pos (hseal.2 hs)]; rfl
  · rw [if_neg (by simp [h]), if_neg (mt hseal.1 hs)]; rfl

theorem State.saveFails_running {s : State} {m : Mgmt} (hq : (s.ctx m.idx).st ≠ 2) (hf : s.frozenCtx m.idx = false) :
    s.saveFails m = some (9, 0) := if_pos (by simp [hq, hf])

/-! ### Ends of a save, a restore and a drain (R305, R307, R348, R350) -/

/-- An access that succeeds where it can is one whose lines are sound, so that what the target answers stands. -/
theorem State.moveRes_ok {s : State} {l w : List Spot} (h : s.moveRes l w .ok = .ok) (r : Res) : s.moveRes l w r = s.seenRes l r := by
  unfold State.moveRes at h ⊢
  split at h
  case h_1 =>
    split at h
    case isTrue => exact absurd h (by decide)
    case isFalse hbad => exact if_neg hbad
  case h_2 hne => exact absurd h hne

theorem State.countEcc_ok (s : State) (l : List Spot) : s.countEcc l .ok = s := by
  have hline : ∀ (s : State) n, s.countLine .ok n = s := fun s n => by
    unfold State.countLine
    exact ite_self _
  unfold State.countEcc
  induction s.errLines l with
  | nil => rfl
  | cons n ns ih => rw [List.foldl_cons, hline, ih]

/-- An entry that an update of a table's entries picks. -/
theorem tget_map_if {α : Type} {d : α} {p : α → Bool} (f : α → α) (q : Nat) (hd : p d = false) :
    ∀ t : Table α, p (tget d t q) = true → tget d (t.map (fun e => if p e.2 then (e.1, f e.2) else e)) q = f (tget d t q)
  | [], h => absurd h (by rw [tget_nil, hd]; decide)
  | (k, x) :: r, h => by
    have hkey : ∀ e : Nat × α, (if p e.2 then (e.1, f e.2) else e).1 = e.1 := fun e => by split <;> rfl
    rw [List.map_cons]
    rw [tget] at h ⊢
    by_cases hk : k = q
    · rw [if_pos hk] at h
      rw [if_pos ((hkey _).trans hk), if_pos h, tget, if_pos hk]
    · rw [if_neg hk] at h
      rw [if_neg (fun he => hk ((hkey (k, x)).symm.trans he)), tget, if_neg hk, tget_map_if f q hd r h]

/-- A queue of a context takes the update of its context's queues. -/
theorem State.updQueues_queue {s : State} {c q : Nat} (f : Queue → Queue) (hst : (s.queue q).st ≠ 0) (hc : (s.queue q).ctx = c) :
    (s.updQueues c f).queue q = f (s.queue q) :=
  tget_map_if (p := fun x : Queue => x.st != 0 && x.ctx == c) f q (by simp) s.hif.queues (by simpa [State.queue] using ⟨hst, hc⟩)

theorem State.setQuiesced_ctx (s : State) (c : Nat) : (s.setQuiesced c).ctx c = { s.ctx c with st := 2 } :=
  State.setCtx_ctx _ _ _

theorem State.setQuiesced_queue {s : State} {c q : Nat} (hst : (s.queue q).st = 2) (hc : (s.queue q).ctx = c) :
    ((s.setQuiesced c).queue q).st = 3 := by
  have h : (s.setQuiesced c).queue q = { s.queue q with st := if (s.queue q).st = 2 then 3 else (s.queue q).st } :=
    State.updQueues_queue (fun x => { x with st := if x.st = 2 then 3 else x.st }) (by omega) hc
  rw [h]
  exact if_pos hst

theorem exec_ctxQuiesced {s : State} {c : Nat} (hv : (s.ctx c).valid = true) (hst : (s.ctx c).st = 1)
    (hq : ∀ q ∈ s.queuesOf c, (s.queue q).cmds = []) : exec (.ctxQuiesced c) s
      = .next (if (s.ctx c).drainIrq then (s.setQuiesced c).msix 0 else s.setQuiesced c) := by
  have hall : (s.queuesOf c).all (fun q => (s.queue q).cmds.isEmpty) = true := by simpa using hq
  exact if_pos (by rw [hv, hst, hall]; rfl)

/-- What CTX_SAVE_DONE does while the mailbox performs a save. -/
theorem exec_ctxSaveDone_fails {s : State} {m : Mgmt} (hb : s.hif.busy = some m) (hop : m.op = 8) {st : BitVec 16} {d : BitVec 32}
    (hf : s.saveFails m = some (st, d)) (res : Res) : exec (.ctxSaveDone res) s = .next (done m s st d) := by
  change execCtxSaveDone res s = _
  unfold execCtxSaveDone
  simp only [hb, hop, hf, bne_self_eq_false, Bool.false_eq_true, if_false, mboxEnd_eq_done m s st d hb]

theorem exec_ctxSaveDone_ok {s : State} {m : Mgmt} (hb : s.hif.busy = some m) (hop : m.op = 8) (hf : s.saveFails m = none)
    (hr : s.moveRes (s.saveReads m.idx) [] .ok = .ok) : exec (.ctxSaveDone .ok) s
      = .next (done m (({ s with fresh := s.fresh + 1 } : State).emit (.dma s.mgrPasid (m.arg 0) (s.imageBytes m.idx))) 0
          (BitVec.ofNat 32 ((s.imageBytes m.idx).length / 4096))) := by
  change execCtxSaveDone .ok s = _
  unfold execCtxSaveDone
  simp only [hb, hop, hf, hr, State.countEcc_ok, bne_self_eq_false, Bool.false_eq_true, if_false]
  exact congrArg _ (mboxEnd_eq_done m _ _ _ (by rw [State.emit_hif]; exact hb))

theorem exec_ctxSaveDone_hostRefused {s : State} {m : Mgmt} (hb : s.hif.busy = some m) (hop : m.op = 8) (hf : s.saveFails m = none)
    (hr : s.moveRes (s.saveReads m.idx) [] .ok = .ok) :
    exec (.ctxSaveDone .hostRefused) s = .next (done m { s with fresh := s.fresh + 1 } 5 4) := by
  change execCtxSaveDone .hostRefused s = _
  have hres : s.moveRes (s.saveReads m.idx) [] .hostRefused = .hostRefused := State.moveRes_ok hr _
  unfold execCtxSaveDone
  simp only [hb, hop, hf, hres, bne_self_eq_false, Bool.false_eq_true, if_false]
  exact congrArg _ (mboxEnd_eq_done m _ _ _ hb)

/-- What CTX_RESTORE_DONE does while the mailbox performs a restore. -/
theorem exec_ctxRestoreDone {s : State} {m : Mgmt} (hb : s.hif.busy = some m) (hop : m.op = 9) (img : HostBytes) :
    let w := s.emit (.dmaRead s.mgrPasid (m.arg 0) (m.arg 1))
    w.hif.busy = some m ∧ exec (.ctxRestoreDone .ok img) s = .next (w.restoreEnd m img)
      ∧ exec (.ctxRestoreDone .hostRefused img) s = .next (done m w 5 4) := by
  intro w
  have hw : w.hif.busy = some m := by simp only [w, State.emit_hif, hb]
  have hx : ∀ res, exec (.ctxRestoreDone res img) s = execCtxRestoreDone res img s := fun _ => rfl
  simp only [hx, execCtxRestoreDone, hb, hop, bne_self_eq_false, Bool.false_eq_true, if_false]
  exact ⟨hw, rfl, congrArg _ (mboxEnd_eq_done m w _ _ hw)⟩

/-- The answers of a restore whose buffer was read, in the order of R351 and R479. -/
theorem State.restoreEnd_eq {w : State} {m : Mgmt} (hb : w.hif.busy = some m) (img : HostBytes) :
    let key := w.openKey (BitVec.ofNat 32 (m.arg 2)) img
    (ofBytes (img.take 2) ≠ 1 → w.restoreEnd m img = done m w 0x14 0)
    ∧ (ofBytes (img.take 2) = 1 → key = none → w.restoreEnd m img = done m w 0x0C 0)
    ∧ (∀ k, ofBytes (img.take 2) = 1 → key = some k → Config.imageIn img k = none → w.restoreEnd m img = done m w 0x0C 0)
    ∧ (∀ k x, ofBytes (img.take 2) = 1 → key = some k → Config.imageIn img k = some x →
        (∀ u, w.rebuild m x = .ok u → w.restoreEnd m img = u.mboxEnd 0 0)
        ∧ ∀ e, w.rebuild m x = .error e → w.restoreEnd m img = done m w e 0) := by
  intro key
  have hkey : w.openKey (BitVec.ofNat 32 (fld (m.arg 2) 0 32)) img = key := by
    have hid : BitVec.ofNat 32 (fld (m.arg 2) 0 32) = BitVec.ofNat 32 (m.arg 2) := BitVec.eq_of_toNat_eq (by simp [fld_zero])
    rw [hid]
  unfold State.restoreEnd
  rw [hkey]
  refine ⟨fun h => ?_, fun h hk => ?_, fun k h hk hi => ?_, fun k x h hk hi => ⟨fun u hu => ?_, fun e he => ?_⟩⟩
  · rw [if_pos (bne_iff_ne.2 h)]; exact mboxEnd_eq_done m w _ _ hb
  · simp only [h, hk, bne_self_eq_false, Bool.false_eq_true, if_false]; exact mboxEnd_eq_done m w _ _ hb
  · simp only [h, hk, hi, bne_self_eq_false, Bool.false_eq_true, if_false]; exact mboxEnd_eq_done m w _ _ hb
  · simp only [h, hk, hi, hu, bne_self_eq_false, Bool.false_eq_true, if_false]; rfl
  · simp only [h, hk, hi, he, bne_self_eq_false, Bool.false_eq_true, if_false]; exact mboxEnd_eq_done m w _ _ hb

/-- What CTX_SAVE answers is what keeps the save from being made. -/
theorem State.opCtxSave_eq (s : State) (m : Mgmt) :
    (∀ st d, s.saveFails m = some (st, d) → s.opCtxSave m = s.mboxEnd st d) ∧ (s.saveFails m = none → s.opCtxSave m = s) := by
  unfold State.opCtxSave
  exact ⟨fun st d h => by rw [h], fun h => by rw [h]⟩

theorem State.opCtxRestore_begins {s : State} {m : Mgmt} (hc : m.idx < 1024) (hv : (s.ctx m.idx).valid = false)
    (hb : s.hostBunch (BitVec.ofNat 32 (m.arg 2)) = true) (hp : s.pasidUsed (BitVec.ofNat 20 (m.arg 2 / 2 ^ 32)) = false) :
    s.opCtxRestore m = s := by
  have hid : BitVec.ofNat 32 (fld (m.arg 2) 0 32) = BitVec.ofNat 32 (m.arg 2) := BitVec.eq_of_toNat_eq (by simp [fld_zero])
  have hpa : BitVec.ofNat 20 (fld (m.arg 2) 32 20) = BitVec.ofNat 20 (m.arg 2 / 2 ^ 32) := BitVec.eq_of_toNat_eq (by simp [fld_eq])
  unfold State.opCtxRestore
  rw [hid, hpa, if_neg (Nat.not_le.2 hc), if_neg (by simp [hv]), if_neg (by rw [hb, hp]; decide)]

theorem State.opAttest_begins {s : State} {m : Mgmt} (hc : m.idx = 0) (ha : m.arg 0 % 4096 = 0) (hl : 131072 ≤ m.arg 1)
    (hq : s.sec.quote = none) : ∃ nonce, s.opAttest m = { s.emit (.dmaRead s.mgrPasid (m.arg 0) 32) with
      fresh := s.fresh + 1, sec := { s.sec with quote := some { mailbox := true, sid := 0, nonce := nonce } } } := by
  refine ⟨Config.freeBits 256 s.fresh, ?_⟩
  unfold State.opAttest
  rw [if_neg (by simp [hc, ha, hl]), if_neg (by simp [hq])]
  simp only [State.draw, State.emit_fresh, State.emit_sec]

/-- Settles O25: each row performs its operation, whose answer is the lemma above, and each end is that of its event. -/
theorem contextImagesAndEnds : Obligations.ContextImagesAndEnds := by
  unfold Obligations.ContextImagesAndEnds
  refine ⟨fun s acc v => ?_, fun s c hv hst hq => ?_, fun s m hb hop => ?_, fun s m img hb hop => ?_⟩
  · intro m h c n
    have h0 : m.arg 0 = argOf s 0 := mgmtOf_arg s acc v (by decide)
    have h1 : m.arg 1 = argOf s 1 := mgmtOf_arg s acc v (by decide)
    have h2 : m.arg 2 = argOf s 2 := mgmtOf_arg s acc v (by decide)
    have hn : fld (m.arg 0) 32 9 = n := by rw [h0, fld_eq]
    have hrank : fld (m.arg 0) 0 24 = argOf s 0 % 2 ^ 24 := by rw [h0, fld_zero]
    have hseg : fld (m.arg 0) 0 4 = argOf s 0 % 16 := by rw [h0, fld_zero]; rfl
    refine ⟨fun hv => ?_, fun hi hc hnv hb hp => ?_, fun hi hc ha hl hq => ?_⟩
    · obtain ⟨hshare, hsave, hbacking⟩ := State.mboxRun_valid (s := h) (m := m) hv
      have share : Issues s acc v 2 → exec (.ctxShare acc v) s = .next (h.opCtxShare m) := fun hi =>
        (exec_issues (by simp [mailboxRows]) hi).trans (congrArg _ (hshare (mgmtOf_op hi)))
      have save : Issues s acc v 8 → exec (.ctxSave acc v) s = .next (h.opCtxSave m) := fun hi =>
        (exec_issues (by simp [mailboxRows]) hi).trans (congrArg _ (hsave (mgmtOf_op hi)))
      have backing : Issues s acc v 10 → exec (.ctxBacking acc v) s = .next (h.opCtxBacking m) := fun hi =>
        (exec_issues (by simp [mailboxRows]) hi).trans (congrArg _ (hbacking (mgmtOf_op hi)))
      obtain ⟨hfails, hgoes⟩ := h.opCtxSave_eq m
      refine ⟨fun t hi hr hg hw he hle => ?_, fun t hi hr hg hle => ?_, fun t i bm hi hr hg hpos hle hs hb hw hfree hlow => ?_,
        fun hi => ⟨fun hb => ?_, fun hb hd ht hrd hwr ho hst hfit => ?_⟩, fun hi hst hf => ?_, fun hi hst ha => ?_, fun hi hst ha => ?_⟩
      · rw [share hi, (State.opCtxShare_has (s := h) (m := m) (hrank ▸ hr) (hn.trans_le hle)).2 hg hw (hn.trans he)]
        exact congrArg _ (issued_mboxEnd s acc v 0 0)
      · rw [share hi, (State.opCtxShare_has (s := h) (m := m) (hrank ▸ hr) (hn.trans_le hle)).1 hg]
      · refine ⟨_, (share hi).trans (congrArg _ (State.opCtxShare_first (s := h) (m := m) (hrank ▸ hr) hg (hn ▸ hpos) (hn.trans_le hle)
          hs hb hw hfree (hn ▸ hlow))), rfl, ?_, ?_, rfl⟩
        · rw [State.assignShare, State.setTile_tile]
          exact Tile.setSlot_slot_same _ _ _
        · rw [State.assignShare, State.setTile_tile, State.setTile_tile]
          rfl
      · rw [backing hi, show h.opCtxBacking m = h.mboxEnd 0x12 0 from if_pos hb]
        exact congrArg _ (issued_mboxEnd s acc v _ _)
      · rw [← hseg] at hd ht hrd hwr hfit ⊢
        rw [← h1] at ho hfit ⊢
        rw [← h2] at hst hfit ⊢
        rw [backing hi, State.opCtxBacking_sets (s := h) hb hd ht hrd hwr ho hst hfit]
        exact congrArg _ (mboxEnd_eq_done m _ _ _ rfl)
      · rw [save hi, hfails _ _ (State.saveFails_running (s := h) (m := m) hst ((issued_frozenCtx s acc v c).trans hf))]
        exact congrArg _ (issued_mboxEnd s acc v _ _)
      · rw [save hi, hfails _ _ ((State.saveFails_quiesced (s := h) hst).1 (h0 ▸ ha))]
        exact congrArg _ (issued_mboxEnd s acc v _ _)
      · obtain ⟨-, hsealed, hopen⟩ := State.saveFails_quiesced (s := h) (m := m) hst
        rw [save hi]
        refine ⟨fun hs => ?_, fun hs => ?_⟩
        · rw [hfails _ _ (hsealed (h0 ▸ ha) hs)]
          exact congrArg _ (issued_mboxEnd s acc v _ _)
        · have hf := hopen (h0 ▸ ha) hs
          rw [h1] at hf
          split at hf
          case isTrue hlt =>
            rw [hfails _ _ hf, if_pos hlt]
            exact congrArg _ (issued_mboxEnd s acc v _ _)
          case isFalse hlt => rw [hgoes hf, if_neg hlt]
    · rw [exec_issues (by simp [mailboxRows]) hi, State.mboxRun_restore (mgmtOf_op hi)]
      exact congrArg _ (State.opCtxRestore_begins (s := h) (m := m) hc hnv (h2 ▸ (issued_hostBunch s acc v _).trans hb) (h2 ▸ hp))
    · obtain ⟨nonce, hx⟩ := State.opAttest_begins (s := h) (m := m) hc (h0 ▸ ha) (h1 ▸ hl) hq
      rw [exec_issues (by simp [mailboxRows]) hi, State.mboxRun_attest (mgmtOf_op hi)]
      exact ⟨nonce, congrArg _ (h0 ▸ hx)⟩
  · exact ⟨exec_ctxQuiesced hv hst hq, congrArg Ctx.st (s.setQuiesced_ctx c), fun q h2 hc => State.setQuiesced_queue h2 hc⟩
  · exact ⟨fun res st d hf => exec_ctxSaveDone_fails hb hop hf res,
      fun hf hr => ⟨exec_ctxSaveDone_ok hb hop hf hr, exec_ctxSaveDone_hostRefused hb hop hf hr⟩⟩
  · intro key w
    obtain ⟨hw, hok, href⟩ := exec_ctxRestoreDone hb hop img
    obtain ⟨hmajor, hkey, htag, hbuilt⟩ := State.restoreEnd_eq hw img
    have hopen : key = w.openKey (BitVec.ofNat 32 (m.arg 2)) img := by
      simp only [key, w, State.openKey, State.emit_sec]; rfl
    refine ⟨href, fun h => hok.trans (congrArg _ (hmajor h)), fun h hk => hok.trans (congrArg _ (hkey h (hopen ▸ hk))),
      fun k h hk hi => hok.trans (congrArg _ (htag k h (hopen ▸ hk) hi)), fun k x h hk hi => ?_⟩
    obtain ⟨hu, he⟩ := hbuilt k x h (hopen ▸ hk) hi
    exact ⟨fun u h => hok.trans (congrArg _ (hu u h)), fun e h => hok.trans (congrArg _ (he e h))⟩

end Sys2Proof.Machine
end

section
/-! PROOFS. The end of an engine operation where nothing waits for it (R46, R47, R211): what an operation's own effect leaves of the
tile's queue, and what the end leaves when no operation is chained to it and no core waits for another token. -/

namespace Sys2Proof.Machine

open Sys2Proof.Claims

/-- A fold whose steps leave the state as it is. -/
theorem foldl_stays {α β : Type} {f : α → β → α} {a : α} : ∀ l : List β, (∀ b ∈ l, f a b = a) → l.foldl f a = a
  | [], _ => rfl
  | b :: l, h => by
    rw [List.foldl_cons, h b List.mem_cons_self]
    exact foldl_stays l fun c hc => h c (List.mem_cons_of_mem _ hc)

/-! ### The queue of a tile through an operation's effect -/

/-- What decides the end of an operation of a tile: the messages that wait there, its kernel's flags, what its core waits for, and its
operations. -/
def State.work (s : State) (t : Nat) : List Msg × BitVec 16 × Stall × List EngOp :=
  ((s.tile t).early, (s.tile t).core.flags, (s.tile t).core.stall, (s.tile t).ops)

theorem State.work_of_unlanded {s u : State} (h : u.unlanded = s.unlanded) (t : Nat) : u.work t = s.work t :=
  (congrArg (State.work · t) h :)

theorem State.count_work (s : State) (g i k t : Nat) : (s.count g i k).work t = s.work t :=
  State.work_of_unlanded (s.count_unlanded g i k) t

theorem State.emit_work (s : State) (o : Out) (t : Nat) : (s.emit o).work t = s.work t := State.work_of_unlanded (s.emit_unlanded o) t

theorem State.writeSpots_work (s : State) (l : List Spot) (bs : List Byte) (t : Nat) : (s.writeSpots l bs).work t = s.work t :=
  State.work_of_unlanded (s.writeSpots_unlanded l bs) t

theorem State.pokeSpots_work (s : State) (l : List (Spot × Byte)) (t : Nat) : (s.pokeSpots l).work t = s.work t :=
  State.work_of_unlanded (State.pokeSpots_unlanded l s) t

/-- A tile that is written keeps its own queue, and the others keep theirs. -/
theorem State.setTile_work (s : State) {k : Nat} {x : Tile}
    (h : (x.early, x.core.flags, x.core.stall, x.ops) = s.work k) (t : Nat) : (s.setTile k x).work t = s.work t := by
  unfold State.work at *
  by_cases hk : t = k
  · subst hk; rw [State.setTile_tile]; exact h
  · rw [State.setTile_tile_ne _ _ _ _ hk]

theorem State.countBytes_work (s : State) (k n t : Nat) : (s.setTile k { s.tile k with memBytes := n }).work t = s.work t :=
  State.setTile_work (x := { s.tile k with memBytes := n }) s rfl t

theorem State.portMove_work (s : State) (m cls k n t : Nat) : (s.portMove m cls k n).work t = s.work t := by
  have hcross : (if cls = 0 then s.crossUp (16 + m) (toBytes 8 n) else s.crossDown (16 + m) (toBytes 8 n)).work t = s.work t :=
    ite_part (State.work · t) rfl rfl
  have hport : ∀ (u : State) x, ((u.setPort m x).count (68 + m) cls n).work t = u.work t := fun u x => State.count_work _ _ _ _ _
  unfold State.portMove
  dsimp only
  generalize (if cls = 0 then s.crossUp (16 + m) (toBytes 8 n) else s.crossDown (16 + m) (toBytes 8 n)) = u at hcross ⊢
  have hmem : (if k < 68 then (u.setTile k { u.tile k with memBytes := (u.tile k).memBytes + n }).count k 21 n else u).work t = u.work t :=
    ite_part (State.work · t) ((State.count_work _ _ _ _ _).trans (u.countBytes_work k _ t)) rfl
  refine ite_part (State.work · t) ?_ ((State.count_work _ _ _ _ _).trans ?_) <;> exact (hport _ _).trans (hmem.trans hcross)

theorem State.moveLines_work (s : State) (cls k : Nat) (ls : List Nat) (t : Nat) : (s.moveLines cls k ls).work t = s.work t :=
  foldl_part (State.work · t) _ (fun s _ => ite_part (State.work · t) rfl (s.portMove_work _ _ _ _ t)) _ _

theorem State.askHost_work (s : State) (l : List Spot) (t : Nat) : (s.askHost l).work t = s.work t :=
  foldl_part (State.work · t) _ (fun s _ => s.emit_work _ t) _ _

theorem State.traffic_work (s : State) (l : List Spot) (cls k t : Nat) : (s.traffic l cls k).work t = s.work t := by
  unfold State.traffic
  refine (State.moveLines_work _ _ _ _ t).trans ((State.moveLines_work _ _ _ _ t).trans ?_)
  exact ite_part (State.work · t) (s.askHost_work l t) rfl

/-- A core's vector and mask registers are no part of its queue. -/
theorem State.setCore_work (s : State) {t : Nat} {c : Core} (hf : c.flags = (s.tile t).core.flags) (hs : c.stall = (s.tile t).core.stall) :
    (s.setCore t c).work t = s.work t :=
  s.setTile_work (by rw [hf, hs]; rfl) t

theorem Core.vWrite_flags (c : Core) (x : Word) (d : Nat) (f : Nat → Nat × Nat) :
    (c.vWrite x d f).1.flags = c.flags ∧ (c.vWrite x d f).1.stall = c.stall := ⟨rfl, rfl⟩

theorem Core.cvtExec_flags (c : Core) (o : EngOp) : (c.cvtExec o).1.flags = c.flags ∧ (c.cvtExec o).1.stall = c.stall := by
  unfold Core.cvtExec
  dsimp only
  split <;> exact ⟨rfl, rfl⟩

theorem Core.vExec_flags (c : Core) (o : EngOp) : (c.vExec o).1.flags = c.flags ∧ (c.vExec o).1.stall = c.stall := by
  unfold Core.vExec
  dsimp only
  split <;> exact ⟨rfl, rfl⟩

theorem State.gateExec_work (s : State) (t : Nat) (o : EngOp) (k : Nat) : (s.gateExec t o).1.work k = s.work k := by
  unfold State.gateExec
  exact foldl_part (fun p : State × Nat => p.1.work k) _ (fun p r => State.writeSpots_work _ _ _ k) _ _

theorem State.vLoad_work (s : State) (t : Nat) (o : EngOp) : (s.vLoad t o).work t = s.work t :=
  by
  unfold State.vLoad
  dsimp only
  exact s.setCore_work (Core.vWrite_flags _ _ _ _).1 (Core.vWrite_flags _ _ _ _).2

theorem State.vStore_work (s : State) (t : Nat) (o : EngOp) : (s.vStore t o).work t = s.work t := by
  unfold State.vStore
  exact s.pokeSpots_work _ t

/-- The effect of a vector operation leaves the queue as it is (R212 to R216). -/
theorem State.vecEffect_work (s : State) (t : Nat) (o : EngOp) : (s.vecEffect t o).1.work t = s.work t := by
  obtain ⟨hcf, hcs⟩ := (s.tile t).core.cvtExec_flags o
  obtain ⟨hvf, hvs⟩ := (s.tile t).core.vExec_flags o
  unfold State.vecEffect
  dsimp only
  split
  · exact s.gateExec_work t o t
  split
  · exact s.setCore_work hcf hcs
  split
  · exact s.vLoad_work t o
  · rw [s.vStore_work t o]
  · exact s.setCore_work hvf hvs

/-! ### The end of an operation (R46, R47, R211) -/

/-- What of a tile its dispatch unit and an operation's end look at: the messages that wait, the tokens, the flags and the operations. -/
def State.unitOf (s : State) (t : Nat) : List Msg × Table Tok × BitVec 16 × List EngOp :=
  ((s.tile t).early, (s.tile t).core.tok, (s.tile t).core.flags, (s.tile t).ops)

theorem State.unitOf_of_unsampled {s u : State} (h : u.unsampled = s.unsampled) (t : Nat) : u.unitOf t = s.unitOf t :=
  (congrArg (State.unitOf · t) h :)

theorem State.setTile_unitOf (s : State) {t : Nat} {x : Tile} (h : (x.early, x.core.tok, x.core.flags, x.ops) = s.unitOf t) :
    (s.setTile t x).unitOf t = s.unitOf t := by
  unfold State.unitOf at *
  rw [State.setTile_tile]
  exact h

theorem State.setCore_unitOf (s : State) {t : Nat} {c : Core} (ht : c.tok = (s.tile t).core.tok) (hf : c.flags = (s.tile t).core.flags) :
    (s.setCore t c).unitOf t = s.unitOf t :=
  s.setTile_unitOf (by rw [ht, hf]; rfl)

theorem State.retire_unitOf (s : State) (t n : Nat) : (s.retire t n).unitOf t = s.unitOf t := by
  unfold State.retire State.retireTo
  dsimp only
  rw [if_pos rfl]
  refine (State.setCore_unitOf _ ?_ ?_).trans ?_
  · rfl
  · rfl
  exact State.unitOf_of_unsampled ((State.traceEmit_unsampled _ _ _ _ _ _).trans (State.count_unsampled _ _ _ _)) t

/-- Nothing is chained to an operation whose followers have all started. -/
theorem State.chain_unfollowed {n : Nat} {s : State} {t id : Nat} {ok : Bool}
    (h : ∀ p ∈ (s.tile t).ops, p.trig = some (false, id) → p.started = true) : State.chain n s t id ok = s := by
  cases n with
  | zero => rfl
  | succ n =>
    unfold State.chain
    refine foldl_stays _ fun p hp => if_neg ?_
    simp only [Bool.and_eq_true, decide_eq_true_eq, Bool.not_eq_true', not_and]
    intro ht
    rw [h p hp ht]
    decide

theorem State.closeOp_core (s : State) (t : Nat) (o : EngOp) : ((s.closeOp t o none).tile t).core
    = { (s.tile t).core.setTok o.kd { st := 2 } with flags := (s.tile t).core.flags ||| o.flags } := by
  rw [State.closeOp, State.setTile_tile]

theorem State.closeOp_ops (s : State) (t : Nat) (o : EngOp) (err : Option Nat) :
    ((s.closeOp t o err).tile t).ops = (s.tile t).ops.filter (fun p => p.id != o.id) := by
  unfold State.closeOp
  rw [State.setTile_tile]

/-- A core that waits for nothing, or for a token that is DONE, changes no token, flag or operation as it goes on. -/
theorem State.wakeWait_unitOf {s : State} {t : Nat} (h : ∀ k, (s.tile t).core.stall = .wait k → ((s.tile t).core.getTok k).st = 2) :
    (s.wakeWait t).unitOf t = s.unitOf t := by
  unfold State.wakeWait
  dsimp only
  split
  case h_1 k hk =>
    rw [if_pos (h k hk)]
    exact ite_part (State.unitOf · t) rfl (s.retire_unitOf t 8)
  case h_2 => rfl

/-- The end of an operation that nothing is chained to and whose token alone a core may wait for. -/
theorem State.endOp_unitOf {s : State} {t : Nat} {o : EngOp} (h : EndsAlone s t o) : (s.endOp t o none).unitOf t
    = ((s.tile t).early, tput (s.tile t).core.tok o.kd { st := 2 }, (s.tile t).core.flags ||| o.flags,
        (s.tile t).ops.filter (fun p => p.id != o.id)) := by
  obtain ⟨hwait, hchain⟩ := h
  have hcore := s.closeOp_core t o
  unfold State.endOp
  rw [State.chain_unfollowed fun p hp => hchain p (List.mem_filter.1 (s.closeOp_ops t o none ▸ hp)).1, State.wakeWait_unitOf]
  · unfold State.unitOf
    rw [hcore, s.closeOp_ops t o none]
    unfold State.closeOp
    rw [State.setTile_tile]
    rfl
  · intro k hk
    rw [hcore] at hk ⊢
    rw [hwait k hk]
    exact congrArg Tok.st (tget_tput_same _ _ _ _)

/-- So its token is DONE, it has left its engine, and its flags joined the kernel's. -/
theorem State.endOp_done {s : State} {t : Nat} {o : EngOp} (h : EndsAlone s t o) : Done s (s.endOp t o none) t o o.flags := by
  have hu := State.endOp_unitOf h
  simp only [State.unitOf, Prod.mk.injEq] at hu
  obtain ⟨-, htok, hflags, hops⟩ := hu
  refine ⟨?_, fun p hp => ?_, hflags⟩
  · rw [Core.getTok, htok]
    exact tget_tput_same _ _ _ _
  · rw [hops] at hp
    simpa using (List.mem_filter.1 hp).2

theorem EndsAlone.of_work {s u : State} {t : Nat} {o : EngOp} (h : EndsAlone s t o) (hw : u.work t = s.work t) : EndsAlone u t o := by
  simp only [State.work, Prod.mk.injEq] at hw
  obtain ⟨-, -, hs, ho⟩ := hw
  unfold EndsAlone
  rw [hs, ho]
  exact h

/-- The end of an operation after its own effect. -/
theorem State.endOp_done_of_work {s u : State} {t : Nat} {o : EngOp} (h : EndsAlone s t o) (hw : u.work t = s.work t) :
    Done s (u.endOp t o none) t o o.flags := by
  obtain ⟨htok, hops, hflags⟩ := State.endOp_done (EndsAlone.of_work h hw)
  exact ⟨htok, hops, hflags.trans (congrArg (fun x => x.2.1 ||| o.flags) hw)⟩

end Sys2Proof.Machine
end

section
/-! PROOFS. Operations of the tensor engine and of the dispatch unit: what starts, ends and fails them (R48, R112, R131, R160, R177), and the
instruction that a full queue held (R45). -/

namespace Sys2Proof.Machine

open Sys2Proof.Claims

/-! ### The dispatch unit when nothing waits (R48) -/

theorem State.resumeTake_unitOf (s : State) (t rd : Nat) (v : Word) : (resumeTake t s rd v).unitOf t = s.unitOf t := by
  unfold resumeTake
  refine (State.retire_unitOf _ t 8).trans ?_
  unfold State.setG
  refine s.setCore_unitOf ?_ ?_ <;> exact ite_part _ rfl rfl

theorem State.noEarly_unitOf {s : State} {t : Nat} (h : (s.tile t).early = []) :
    (s.setTile t { s.tile t with early := [] }).unitOf t = s.unitOf t :=
  s.setTile_unitOf (by unfold State.unitOf; rw [h])

/-- The receive path of a tile at which no message waits stays as it is. -/
theorem State.tryWaiting_none {s : State} {t : Nat} (h : (s.tile t).early = []) : (s.tryWaiting t).unitOf t = s.unitOf t := by
  unfold State.tryWaiting
  rw [h]
  exact State.noEarly_unitOf h

theorem State.retryHeld_none {s : State} {t : Nat} (h : (s.tile t).early = []) : (s.retryHeld t).unitOf t = s.unitOf t := by
  unfold State.retryHeld
  rw [h]
  exact State.noEarly_unitOf h

theorem State.wakeTake_unitOf (s : State) (t : Nat) : (s.wakeTake t (resumeTake t)).unitOf t = s.unitOf t := by
  unfold State.wakeTake
  dsimp only
  split
  · refine ite_part (State.unitOf · t) rfl ?_
    split
    · rfl
    · exact (State.resumeTake_unitOf _ t _ _).trans (s.setTile_unitOf rfl)
  · rfl

theorem State.early_of_unitOf {s u : State} {t : Nat} (h : u.unitOf t = s.unitOf t) : (u.tile t).early = (s.tile t).early :=
  congrArg Prod.fst h

theorem State.ops_of_unitOf {s u : State} {t : Nat} (h : u.unitOf t = s.unitOf t) : (u.tile t).ops = (s.tile t).ops :=
  congrArg (fun x => x.2.2.2) h

theorem State.settleIntakes_none : ∀ (n : Nat) {s : State} {t : Nat}, (s.tile t).early = [] →
    (s.settleIntakes n t (resumeTake t)).unitOf t = s.unitOf t
  | 0, _, _, _ => rfl
  | n + 1, s, t, h => by
    have hstep : ((s.tryWaiting t).wakeTake t (resumeTake t)).unitOf t = s.unitOf t :=
      (State.wakeTake_unitOf _ t).trans (State.tryWaiting_none h)
    exact (State.settleIntakes_none n ((State.early_of_unitOf hstep).trans h)).trans hstep

/-- A unit without an operation of its own has nothing to send. -/
theorem State.pump_none {s : State} {t : Nat} (h : ∀ p ∈ (s.tile t).ops, p.eng ≠ 2) : s.pump t = s := by
  unfold State.pump
  rw [List.filter_eq_nil_iff.2 fun p hp hc => h p hp (by simp at hc; exact hc.1)]
  rfl

theorem State.settle_none {s : State} {t : Nat} (he : (s.tile t).early = []) (ho : ∀ p ∈ (s.tile t).ops, p.eng ≠ 2) :
    (s.settle t).unitOf t = s.unitOf t := by
  have hi := State.settleIntakes_none ((s.tile t).early.length + 2) he
  have hr := (State.retryHeld_none ((State.early_of_unitOf hi).trans he)).trans hi
  unfold State.settle
  dsimp only
  rw [State.pump_none (by rw [State.ops_of_unitOf hr]; exact ho)]
  exact hr

/-- A tile at which no message waits and whose dispatch unit is empty stays as it is when the unit goes on. -/
theorem State.proceed_none {s : State} {t : Nat} (he : (s.tile t).early = []) (ho : ∀ p ∈ (s.tile t).ops, p.eng ≠ 2) :
    (s.proceed t).unitOf t = s.unitOf t := by
  have hs := State.settle_none he ho
  unfold State.proceed
  cases (s.tile t).ops.length with
  | zero => exact hs
  | succ n =>
    have hnext : ((s.settle t).tile t).nextBegin = none := by
      unfold Tile.nextBegin
      rw [State.ops_of_unitOf hs, List.filter_eq_nil_iff.2 fun p hp hc => ho p hp (by simpa using hc)]
      rfl
    unfold State.advance
    dsimp only
    rw [hnext]
    exact hs

/-- The end of the unit's only operation: nothing goes on behind it. -/
theorem State.endOp_proceed_done {s u : State} {t : Nat} {o : EngOp} (h : EndsAlone s t o) (hl : LastOfUnit s t o)
    (hw : u.work t = s.work t) : Done s ((u.endOp t o none).proceed t) t o o.flags := by
  obtain ⟨hearly, hlast⟩ := hl
  obtain ⟨htok, hops, hflags⟩ := State.endOp_done_of_work h hw
  have hunit := State.endOp_unitOf (EndsAlone.of_work h hw)
  have hp := State.proceed_none (s := u.endOp t o none) (t := t) ((congrArg Prod.fst hunit).trans ((congrArg Prod.fst hw).trans hearly)) fun p hp h2 => by
    have hleft : ((u.endOp t o none).tile t).ops = (u.tile t).ops.filter (fun p => p.id != o.id) := congrArg (fun x => x.2.2.2) hunit
    have hmem := hp
    rw [hleft, show (u.tile t).ops = (s.tile t).ops from congrArg (fun x => x.2.2.2) hw] at hmem
    exact hops p hp (hlast p (List.mem_filter.1 hmem).1 h2)
  simp only [State.unitOf, Prod.mk.injEq] at hp
  obtain ⟨-, hpt, hpf, hpo⟩ := hp
  exact ⟨by rw [Core.getTok, hpt]; exact htok, by rw [hpo]; exact hops, hpf.trans hflags⟩

/-! ### Completion rows of the dispatch unit (R160, R177) -/

/-- An access that no route-around has taken is not lost (R268). -/
theorem State.moveRes_ne_lost {s : State} {rd wr : List Spot} {res : Res} (hr : res ≠ .lost) (h : s.rangeRes (rd ++ wr) .ok ≠ .lost) :
    s.moveRes rd wr res ≠ .lost := by
  have hs : s.seenRes rd res ≠ .lost := by
    unfold State.seenRes
    split
    · decide
    · exact hr
  unfold State.moveRes
  split
  · split
    · decide
    · exact hs
  · exact h

/-- The completion row of the unit's oldest operation ends it when what it waits for has come and what it asks serves. -/
theorem exRow_ends {name : String} {ours : EngOp → Bool} {t kd : Nat} {res : Res} {s : State} {o : EngOp}
    (hop : (s.tile t).exOp kd = some o) (hlost : o.lost ≠ 2) (hcut : o.cut = false) (hours : ours o = true) (hres : res ≠ .lost)
    (hrange : s.rangeRes (s.exReads t o ++ s.exWrites t o) .ok ≠ .lost)
    (hue : [5, 6, 16, 18].contains (exKind o.w) = true → res ≠ .uncorrectable) (hready : s.exReady t o = true)
    (hopen : s.exOpen t o = true) : exRow name ours t kd res s = .next ((s.exEnd t o res).proceed t) := by
  have hl : lostRes o.lost res = some res := by rw [lostRes, if_neg hlost, if_neg hres]
  have hun : s.unresolved o.cut (s.moveRes (s.exReads t o) (s.exWrites t o) res) = false := by
    rw [State.unresolved, hcut, beq_eq_false_iff_ne.2 (State.moveRes_ne_lost hres hrange)]
    rfl
  have hsent : ¬((res = .uncorrectable && o.todo.isEmpty && [5, 6, 16, 18].contains (exKind o.w)) = true) := by
    simp only [Bool.and_eq_true, decide_eq_true_eq]
    rintro ⟨⟨hr, -⟩, he⟩
    exact hue he hr
  unfold exRow
  simp only [hop, hl, hours, hun, hready, hopen, Bool.not_true, Bool.false_or, Bool.and_self, if_true]
  exact if_neg hsent

/-- A unit's operation that failed, with every message answered, only ends (R177). -/
theorem State.exEnd_failed {s : State} {t : Nat} {o : EngOp} {e : Nat} (h : o.err = some e) (res : Res) :
    s.exEnd t o res = s.endOp t o (some e) := by
  unfold State.exEnd; rw [h]

theorem State.exReady_failed {s : State} {t : Nat} {o : EngOp} {e : Nat} (h : o.err = some e) (ht : o.todo = []) (hu : o.unans = []) :
    s.exReady t o = true := by
  simp [State.exReady, EngOp.quiet, h, ht, hu]

/-- A `disp` and a `bar` wait for their answers, and a `bar` for every member (R160, R185). -/
theorem State.exReady_disp {s : State} {t : Nat} {o : EngOp} (hk : exKind o.w = 5) (ht : o.todo = []) (hu : o.unans = []) :
    s.exReady t o = true := by
  simp [State.exReady, EngOp.quiet, hk, ht, hu]

theorem State.exReady_bar {s : State} {t : Nat} {o : EngOp} (hk : exKind o.w = 20) (ht : o.todo = []) (hu : o.unans = [])
    (hh : s.runSize t ≤ o.heard.length) : s.exReady t o = true := by
  simp [State.exReady, EngOp.quiet, hk, ht, hu, hh]

/-- A `disp` has read before it sent: its end writes its report at most, and it takes no other effect. -/
theorem State.exEnd_disp {s : State} {t : Nat} {o : EngOp} (hk : exKind o.w = 5) (he : o.err = none)
    (hw : s.rangeRes (s.exWrites t o) .ok = .ok) :
    s.exEnd t o .ok = (s.traffic (s.exWrites t o) 1 t).endOp t o none := by
  have hearly : [5, 6, 16, 18].contains (exKind o.w) = true := by rw [hk]; rfl
  have hno : [7, 8, 9].contains (exKind o.w) = false := by rw [hk]; rfl
  have hmove : s.moveRes [] (s.exWrites t o) .ok = .ok := by
    simp [State.moveRes, hw, State.seenRes]
  have heff : ∀ u : State, u.exEffect t o = (u, 0, none) := fun u => by unfold State.exEffect; rw [hk]; rfl
  have hflags : o.flags ||| BitVec.ofNat 16 0 = o.flags := BitVec.or_zero
  unfold State.exEnd
  split
  case h_1 e h => exact absurd (he.symm.trans h) (by simp)
  case h_2 =>
    simp only [hearly, hno, hmove, ite_self, if_true, exErr, State.countEcc_ok, heff, hflags, Bool.false_eq_true, if_false]

/-- A `bar` reads and writes nothing. -/
theorem State.exEnd_bar {s : State} {t : Nat} {o : EngOp} (hk : exKind o.w = 20) (he : o.err = none) :
    s.exEnd t o .ok = (s.traffic [] 1 t).endOp t o none := by
  have hno : [7, 8, 9].contains (exKind o.w) = false := by rw [hk]; rfl
  have hrd : s.exReads t o = [] := by unfold State.exReads; rw [hk]; rfl
  have hwr : s.exWrites t o = [] := by unfold State.exWrites; rw [hk]; rfl
  have heff : ∀ u : State, u.exEffect t o = (u, 0, none) := fun u => by unfold State.exEffect; rw [hk]; rfl
  have hflags : o.flags ||| BitVec.ofNat 16 0 = o.flags := BitVec.or_zero
  unfold State.exEnd
  split
  case h_1 e h => exact absurd (he.symm.trans h) (by simp)
  case h_2 =>
    simp only [hno, hrd, hwr, List.append_nil, List.isEmpty_nil, if_true, exErr, State.countEcc_ok, heff, hflags,
      Bool.false_eq_true, if_false]

/-! ### The instruction that a full queue held (R45) -/

/-- What issues a two-word word of a class and an operation. -/
def State.issueAs (cls op t : Nat) (w x : Word) (s : State) : State :=
  match cls with
  | 4 => s.issueMv t w x
  | 5 => s.issueVec t w x
  | 6 => s.issueTensor t w x
  | 0xB => s.issueCvt t w x
  | 7 => if op ≤ 2 then s.issueTensor t w x else if op = 4 then s.issueGate t w x else s.issueEx t w x
  | _ => s.issueEx t w x

theorem State.issueWord_eq (s : State) (t : Nat) (w x : Word) : s.issueWord t w x = s.issueAs (wClass w) (wOp w) t w x := rfl

/-- Each two-word row issues by its own class and operation. -/
theorem exec_twoWordRow (t : Nat) (w x : Word) (s : State) : ∀ r ∈ twoWordRows t w x,
    ∃ name, exec r.1 s = rilax2 name r.2.1 r.2.2.1 t w (State.issueAs r.2.1 r.2.2.1 t w x) s := by
  intro r hr
  fin_cases hr <;> exact ⟨_, rfl⟩

/-- A row whose words are fetched issues the word by its class. -/
theorem exec_twoWordRow_fetched {t : Nat} {w x : Word} {s : State} {r : Instr × Nat × Nat × Bool × (State → Option Nat)}
    (hr : r ∈ twoWordRows t w x) (h : Fetches2 s t w r) : exec r.1 s = .next (s.issueWord t w x) := by
  obtain ⟨name, hx⟩ := exec_twoWordRow t w x s r hr
  have hf := h
  obtain ⟨-, hc, ho, -⟩ := hf
  rw [hx, rilax2_fetches h, State.issueWord_eq, hc, ho]

theorem exec_engineSlotFree {s : State} {t : Nat} {w x : Word} (hs : (s.tile t).core.stall = .queue w x)
    (hh : (s.tile t).core.halted = false) (hf : (s.tile t).engineFull (engineOf w x) = false) : exec (.engineSlotFree t) s
      = .next ((s.setCore t { (s.tile t).core with stall := .none }).issueWord t w x) := by
  change execEngineSlotFree t s = _
  unfold execEngineSlotFree
  simp only [hs, hf, hh, Bool.or_self, Bool.false_eq_true, if_false]

/-! ### The tensor engine (R112, R125, R131) -/

theorem exec_tensorOpStart {s : State} {t : Nat} {o : EngOp} (h : (s.tile t).nextTensor = some o) : exec (.tensorOpStart t .ok) s
    = .next (if s.engineUe (s.tnReads t o) .ok = true then s.readUe t (s.tnReads t o) else s.tnStart t o none) := by
  change execTensorOpStart t .ok s = _
  unfold execTensorOpStart
  simp only [h, State.countEcc_ok, apply_ite Host.Outcome.next]

theorem exec_tensorCheckFail {s : State} {t code array row : Nat} {o : EngOp} {k : Cut} (h : (s.tile t).nextTensor = some o)
    (hk : s.cutOf t o code array row = some k) :
    exec (.tensorCheckFail t code array row) s = .next (({ s with fresh := s.fresh + 1 } : State).tnStart t o (some (code, k))) := by
  change execTensorCheckFail t code array row s = _
  unfold execTensorCheckFail
  simp only [h, hk]

theorem State.tnStart_badDesc {s : State} {t e : Nat} {o : EngOp} (h : s.ddError t (s.tnDesc t o) (tdCols o.ta) = some e)
    (cut : Option (Nat × Cut)) : s.tnStart t o cut = (s.dropHeld t o).endOp t o (some e) := by
  unfold State.tnStart
  simp only [h]

/-- What a failed check reports and stops (R131, R442). -/
theorem State.checkStop_spec {s : State} {t : Nat} {r : Run} (hr : (s.tile t).core.run = some r) (code array row : Nat) :
    let u := s.checkStop t code array row
    (∃ p run, u.stone.faults = s.stone.faults ++ [{
        row := 6 + code % 4, src := srcId 1 t, ctxs := [r.launch.ctx]
        detail := BitVec.ofNat 64 (array % 4 + row % 2 ^ 24 * 2 ^ 8), pacer := p, running := run }])
    ∧ (u.tile t).ops = [] ∧ (u.tile t).core.stall = .exit
    ∧ ((s.tile t).core.stop = none → (u.tile t).core.stop = some { status := 8, safety := true }) := by
  obtain ⟨tok, flags, movers, htile⟩ := State.stopKernel_tile hr { status := 8, safety := true } 0xE1
  have hrest := State.stopKernel_unended hr { status := 8, safety := true } 0xE1
  have hfaults : (s.safetyStop t).stone.faults = s.stone.faults := (congrArg (fun u => u.stone.faults) hrest :)
  refine ⟨⟨(s.safetyStop t).srcPacer (srcId 1 t), (s.safetyStop t).runningOn (unitTile (6 + code % 4) (srcId 1 t)
    (BitVec.ofNat 64 (array % 4 + row % 2 ^ 24 * 2 ^ 8))), ?_⟩, congrArg Tile.ops htile, congrArg (fun x => x.core.stall) htile, fun hs => ?_⟩
  · rw [State.checkStop, State.raiseSafety_faults, hfaults, State.runCtx_of_run hr]
    rfl
  · exact (congrArg (fun x => x.core.stop) htile).trans (by rw [Core.stopBy, hs])

theorem State.blurRows_work (s : State) (t : Nat) (o : EngOp) : (s.blurRows t o).work t = s.work t := by
  unfold State.blurRows
  exact s.pokeSpots_work _ t

/-- A tensor operation that completes: its flags are its own, or open where what it drains was written meanwhile (R112, R114). -/
theorem exec_tensorOpComplete {s : State} {t : Nat} {o : EngOp} (h : (s.tile t).ops.find? (fun p => p.eng == 0 && p.started) = some o)
    (hends : EndsAlone s t o) : ∃ u f, exec (.tensorOpComplete t) s = .next u ∧ Done s u t o f
      ∧ (tnDrain o.x = false ∨ s.tnStale t o = false → f = o.flags) := by
  have hx : exec (.tensorOpComplete t) s = execTensorOpComplete t s := rfl
  unfold execTensorOpComplete at hx
  simp only [h] at hx
  split at hx
  case isTrue hstale =>
    have hw : (((s.blurRows t o).draw 8).2.count t 3 1).work t = s.work t :=
      (State.count_work _ t 3 1 t).trans (s.blurRows_work t o)
    generalize (s.blurRows t o).draw 8 = d at hx hw
    refine ⟨_, _, hx, State.endOp_done_of_work (o := { o with flags := d.1.setWidth 16 }) hends hw, fun hf => ?_⟩
    · simp only [Bool.and_eq_true] at hstale
      rcases hf with hf | hf
      · exact absurd (hf.symm.trans hstale.1) (by decide)
      · exact absurd (hf.symm.trans hstale.2) (by decide)
  case isFalse => exact ⟨_, _, hx, State.endOp_done_of_work hends (s.count_work t 3 1 t), fun _ => rfl⟩

/-- Settles O31: each row by the lemma about it, and a `disp` or a `bar` DONE by the end of the unit's only operation. -/
theorem tensorAndDispatchCompletion : Obligations.TensorAndDispatchCompletion := by
  unfold Obligations.TensorAndDispatchCompletion
  intro s t o hends
  refine ⟨fun hnext => ⟨fun hue => ?_, fun hue => ?_, fun e he => State.tnStart_badDesc he none, fun code array row k hk =>
    exec_tensorCheckFail hnext hk⟩, fun code array row r hr => State.checkStop_spec hr code array row,
    fun hstarted => exec_tensorOpComplete hstarted hends, fun kd i hop hlost hcut htodo hun hopen hrange hi => ?_,
    fun w x hs hh hf r hr hfetch => ?_⟩
  · rw [exec_tensorOpStart hnext, if_pos hue]
  · rw [exec_tensorOpStart hnext, if_neg (by rw [hue]; decide)]
  · have row : s.exReady t o = true → exec i s = .next ((s.exEnd t o .ok).proceed t) := fun hready => by
      by_cases hk : exKind o.w = 5
      · rw [hi, if_pos hk]
        exact exRow_ends hop hlost hcut (by rw [hk]; rfl) (by decide) hrange (fun _ => by decide) hready hopen
      · rw [hi, if_neg hk]
        exact exRow_ends hop hlost hcut (by simp [hk]) (by decide) hrange (fun _ => by decide) hready hopen
    refine ⟨fun e he => ?_, row, fun res hready hres h5 hearly => ?_, fun hk he hw hlast => ?_, fun hk he hh hlast => ?_⟩
    · rw [row (State.exReady_failed he htodo hun), State.exEnd_failed he]
    · refine exRow_ends hop hlost hcut ?_ hres hrange hearly hready hopen
      by_cases hk : exKind o.w = 5
      · simp [h5 hk]
      · simp [hk]
    · refine ⟨_, row (State.exReady_disp hk htodo hun), ?_⟩
      rw [State.exEnd_disp hk he hw]
      exact State.endOp_proceed_done hends hlast (s.traffic_work _ _ _ t)
    · refine ⟨_, row (State.exReady_bar hk htodo hun hh), ?_⟩
      rw [State.exEnd_bar hk he]
      exact State.endOp_proceed_done hends hlast (s.traffic_work _ _ _ t)
  · rw [exec_engineSlotFree hs hh hf, exec_twoWordRow_fetched hr hfetch]

end Sys2Proof.Machine
end

section
/-! PROOFS. The events of a tile complete (R45, R51, R57 to R63, R270, R338, R393): a held instruction that issues, a comparator that fires,
and the ends of a tile's clears, resets and rejoins. -/

namespace Sys2Proof.Machine

open Sys2Proof.Claims

/-! ### An engine operation that only waits for its turn (R45, R46, R203) -/

/-- What an issue does that passes every check. -/
theorem State.issueEngine_takes {s : State} {t : Nat} {w x : Word} {r : EngRow} (hx : fld x.toNat 60 4 = 0xE)
    (hq : (s.tile t).engineFull (engineOf w x) = false) (hd : r.dec = true) (hg : (s.tile t).core.guard w = true)
    (hc : r.chk s = none) (hk : ((s.tile t).core.getTok (xKD x)).st ≠ 1) :
    s.issueEngine t w x r = r.post ((s.takeSlot t (r.prep s (s.newOp t w x r.e r.f))).retire t 16) (r.prep s (s.newOp t w x r.e r.f)) := by
  simp [State.issueEngine, hx, hq, hd, hg, hc, hk]

/-- The checks and the issue of a two-word word of a class and an operation. -/
def engRow (cls op t : Nat) (w x : Word) : EngRow :=
  let tensor : EngRow := { dec := tnDec w x, chk := fun s => s.tnChk t w x, e := tnGD x, f := tnGM x
                           prep := fun s o => { o with cont := !tnClear x && (s.tile t).heldView.isSome }
                           post := fun s o => s.tnWatch t o }
  let gate : EngRow := { dec := gateDec w x, chk := fun s => s.gateChk t w x }
  let ex : EngRow := { dec := exDec w x, chk := fun s => s.exChk t w x, e := exE w x, f := exF w x, post := fun s _ => s.proceed t }
  match cls with
  | 4 => { dec := mvDec w x, chk := fun s => s.mvChk t w x, e := mvGR x, prep := fun s o => s.mvPrep t x o, post := fun s o => s.mvPost t x o }
  | 5 => { dec := vDec w x, chk := fun s => s.vChk t w }
  | 6 => tensor
  | 0xB => { dec := cvtDec w x, chk := fun _ => if partOk (cFS x) (cSP x) && partOk (cFD x) (cDP x) then none else some 1 }
  | 7 => if op ≤ 2 then tensor else if op = 4 then gate else ex
  | _ => ex

/-- Each two-word row issues by the checks that the statements name. -/
theorem twoWordRow_engRow (t : Nat) (w x : Word) : ∀ row ∈ twoWordRows t w x,
    (∀ s, State.issueAs row.2.1 row.2.2.1 t w x s = s.issueEngine t w x (engRow row.2.1 row.2.2.1 t w x))
      ∧ (engRow row.2.1 row.2.2.1 t w x).dec = row.2.2.2.1 ∧ ∀ s, (engRow row.2.1 row.2.2.1 t w x).chk s = row.2.2.2.2 s := by
  intro row hrow
  fin_cases hrow <;> exact ⟨fun _ => rfl, rfl, fun _ => rfl⟩

/-- An operation of the vector or tensor engine takes its slot, and besides it changes no more than what watches its operands. -/
theorem engRow_waits (op t : Nat) (w x : Word) {cls : Nat} (hc : cls = 5 ∨ cls = 6 ∨ cls = 0xB ∨ (cls = 7 ∧ op ≤ 4 ∧ op ≠ 3)) :
    (∀ s o, ∃ cont, (engRow cls op t w x).prep s o = { o with cont })
      ∧ ∀ s o, ∃ watch, (engRow cls op t w x).post s o = { s with watch } := by
  have htn : (∀ s o, ∃ cont, (engRow 6 op t w x).prep s o = { o with cont })
      ∧ ∀ s o, ∃ watch, (engRow 6 op t w x).post s o = { s with watch } := ⟨fun _ _ => ⟨_, rfl⟩, fun _ _ => ⟨_, rfl⟩⟩
  rcases hc with rfl | rfl | rfl | ⟨rfl, hop, hne⟩
  · exact ⟨fun _ o => ⟨o.cont, rfl⟩, fun s _ => ⟨s.watch, rfl⟩⟩
  · exact htn
  · exact ⟨fun _ o => ⟨o.cont, rfl⟩, fun s _ => ⟨s.watch, rfl⟩⟩
  · by_cases h2 : op ≤ 2
    · rw [show engRow 7 op t w x = engRow 6 op t w x from if_pos h2]; exact htn
    · obtain rfl : op = 4 := by omega
      exact ⟨fun _ o => ⟨o.cont, rfl⟩, fun s _ => ⟨s.watch, rfl⟩⟩

/-- No row has class 7 and operation 3. -/
theorem twoWordRow_op (t : Nat) (w x : Word) : ∀ row ∈ twoWordRows t w x, row.2.1 = 7 → row.2.2.1 ≠ 3 := by
  intro row hrow
  fin_cases hrow <;> simp

/-- A retired instruction leaves of its tile only a core that goes on (R50, R200). -/
theorem State.retire_eq (s : State) (t n : Nat) : ∃ v : State, v.unsampled = s.unsampled
    ∧ ((s.trace t).mode = 0 → v.out = s.out ∧ v.mem = s.mem ∧ v.written = s.written)
    ∧ s.retire t n = v.setCore t { (s.tile t).core with pc := (s.tile t).core.pc + BitVec.ofNat 64 n, stall := .none } := by
  let c := s.count t 1 1
  let v := c.traceEmit t true 6 0 (c.tile t).core.pc
  have hv : v.unsampled = s.unsampled := (State.traceEmit_unsampled _ _ _ _ _ _).trans (State.count_unsampled _ _ _ _)
  refine ⟨v, hv, fun hm => ?_, ?_⟩
  · have hc : c.trace t = s.trace t ∧ c.out = s.out ∧ c.mem = s.mem ∧ c.written = s.written := by
      unfold c State.count
      dsimp only
      split <;> exact ⟨rfl, rfl, rfl, rfl⟩
    have he : v = c := if_pos (by rw [hc.1, hm]; rfl)
    rw [he]
    exact hc.2
  · have ht := State.tile_of_unsampled hv t
    change v.setCore t { (v.tile t).core with pc := (s.tile t).core.pc + BitVec.ofNat 64 n, stall := .none } = _
    rw [ht]

theorem State.peek_of_mem {s u : State} (hm : u.mem = s.mem) (hw : u.written = s.written) (a : Nat) : u.peek a = s.peek a := by
  unfold State.peek State.lineWritten
  rw [hm, hw]

/-- An operation that takes its slot and retires, with what watches its operands (R45, R46, R203). -/
theorem State.takeSlot_issued {s : State} {t : Nat} {w x : Word} {o : EngOp} {e f : Nat} {cont : Bool}
    (ho : o = { s.newOp t w x e f with cont }) (watch : List Watch) :
    Issued s { ((s.takeSlot t o).retire t 16) with watch } t w x o := by
  obtain ⟨v, hv, hmode, hr⟩ := (s.takeSlot t o).retire_eq t 16
  have hslot : ∀ k, k ≠ t → (s.takeSlot t o).tile k = s.tile k := fun k hk => State.setTile_tile_ne _ _ _ _ hk
  have htile : (s.takeSlot t o).tile t = _ := State.setTile_tile _ _ _
  rw [hr]
  refine ⟨by rw [ho]; rfl, by rw [ho]; rfl, by rw [ho]; rfl, by rw [ho]; rfl, by rw [ho]; rfl, by rw [ho]; rfl, by rw [ho]; rfl,
    by rw [ho]; rfl, by rw [ho]; rfl, by rw [ho]; rfl, by rw [ho]; rfl, ?_, fun k hk => ?_, ?_⟩
  · refine (State.setTile_tile _ _ _).trans ?_
    rw [State.tile_of_unsampled hv, htile]
    subst ho
    rfl
  · exact (State.setTile_tile_ne _ _ _ _ hk).trans ((State.tile_of_unsampled hv k).trans (hslot k hk))
  · refine ⟨(congrArg State.pending hv :), (congrArg State.time hv :), (congrArg State.boot hv :), (congrArg State.hif hv :),
      (congrArg State.comp hv :), (congrArg State.quads hv :), (congrArg State.lanes hv :), (congrArg State.pwr hv :),
      (congrArg State.stone hv :), (congrArg State.sec hv :), fun hm => ?_⟩
    obtain ⟨hout, hmem, hwr⟩ := hmode hm
    exact ⟨hout, fun a => State.peek_of_mem (s := s) hmem hwr a⟩

/-- An operation of the vector or tensor engine that may issue takes its slot. -/
theorem exec_twoWordRow_issued {s : State} {t : Nat} {w x : Word} {row : Instr × Nat × Nat × Bool × (State → Option Nat)}
    (hrow : row ∈ twoWordRows t w x) (h : MayIssue s t w x row)
    (hc : row.2.1 = 5 ∨ row.2.1 = 6 ∨ row.2.1 = 0xB ∨ (row.2.1 = 7 ∧ row.2.2.1 ≤ 4)) :
    ∃ v o, s.issueWord t w x = v ∧ Issued s v t w x o := by
  obtain ⟨⟨-, hcls, hop, -⟩, hx, hq, hd, hg, hchk, hk⟩ := h
  obtain ⟨hissue, hdec, hrchk⟩ := twoWordRow_engRow t w x row hrow
  have hc' : row.2.1 = 5 ∨ row.2.1 = 6 ∨ row.2.1 = 0xB ∨ (row.2.1 = 7 ∧ row.2.2.1 ≤ 4 ∧ row.2.2.1 ≠ 3) :=
    hc.imp id (.imp id (.imp id fun h => ⟨h.1, h.2, twoWordRow_op t w x row hrow h.1⟩))
  obtain ⟨hprep, hpost⟩ := engRow_waits row.2.2.1 t w x hc'
  rw [State.issueWord_eq, hcls, hop, hissue,
    State.issueEngine_takes hx hq (hdec.trans hd) hg ((hrchk s).trans hchk) hk]
  obtain ⟨cont, hcont⟩ := hprep s (s.newOp t w x (engRow row.2.1 row.2.2.1 t w x).e (engRow row.2.1 row.2.2.1 t w x).f)
  obtain ⟨watch, hwatch⟩ := hpost ((s.takeSlot t _).retire t 16) _
  exact ⟨_, _, hwatch, State.takeSlot_issued hcont watch⟩

end Sys2Proof.Machine
end

section
/-! PROOFS. A comparator that fires (R63, R210, R211) and the other events of a tile, each with its condition and what it leaves. -/

namespace Sys2Proof.Machine

open Sys2Proof.Claims

/-! ### The comparators of a tile through the start and the end of operations (R63, R211) -/

/-- The comparators of a tile's core. -/
def State.comps (s : State) (t : Nat) : Table Cmp := (s.tile t).core.comps

theorem State.comps_of_unsampled {s u : State} (h : u.unsampled = s.unsampled) (t : Nat) : u.comps t = s.comps t :=
  (congrArg (State.comps · t) h :)

theorem State.comps_of_tile {s u : State} {t : Nat} (h : u.tile t = s.tile t) : u.comps t = s.comps t := by
  unfold State.comps; rw [h]

theorem State.setTile_comps (s : State) {t : Nat} {x : Tile} (h : x.core.comps = s.comps t) : (s.setTile t x).comps t = s.comps t := by
  unfold State.comps at *
  rw [State.setTile_tile]
  exact h

theorem State.closeOp_comps (s : State) (t : Nat) (o : EngOp) (err : Option Nat) : (s.closeOp t o err).comps t = s.comps t :=
  s.setTile_comps rfl

theorem State.zeroWrite_comps (s : State) (t : Nat) (o : EngOp) : (s.zeroWrite t o).comps t = s.comps t :=
  ite_part (State.comps · t) (State.comps_of_unsampled (s.writeSpots_unsampled _ _) t) rfl

/-- A change of power of another unit than tile `t` leaves that tile. -/
theorem State.evalOne_tile_ne (s : State) {t d : Nat} (h : t ≠ d ∨ 68 ≤ d) : (s.evalOne d).tile t = s.tile t := by
  have hwake : (s.startWake d).tile t = s.tile t := ite_part (State.tile · t) rfl rfl
  have hlow : ∀ u : State, ∀ low, (u.enterLow d low).tile t = u.tile t := fun u low => by
    have hpark : ∀ u : State, (u.park d).tile t = u.tile t := fun u => ite_part (State.tile · t) rfl rfl
    have hheld : ∀ v : State, (if low = 0 then v.setDom d { v.dom d with held := true } else v).tile t = v.tile t :=
      fun v => ite_part (State.tile · t) rfl rfl
    have hstores : ∀ q, (u.dropStores q).tile t = u.tile t := fun q => by
      unfold State.dropStores
      refine foldl_part (State.tile · t) _ (fun v k => ?_) _ _
      rfl
    unfold State.enterLow
    split
    case isTrue hd => exact ite_part (State.tile · t) (State.setTile_tile_ne _ _ _ _ (by omega)) rfl
    refine ite_part (State.tile · t) (ite_part (State.tile · t) rfl rfl) (ite_part (State.tile · t) (ite_part (State.tile · t) (hstores _) rfl) ?_)
    refine ite_part (State.tile · t) ((hheld _).trans ?_) (ite_part (State.tile · t) ((hheld _).trans ?_) rfl)
    · refine Eq.trans ?_ (hpark u)
      exact ite_part (State.tile · t) rfl rfl
    · refine (foldl_part (State.tile · t) _ (fun v j => ?_) _ _).trans (hpark u)
      rfl
  unfold State.evalOne
  refine ite_part (State.tile · t) rfl (ite_part (State.tile · t) (ite_part (State.tile · t) rfl hwake) (ite_part (State.tile · t) rfl ?_))
  exact hlow _ _

theorem State.evalDom_tile_ne (s : State) {t d : Nat} (h : t ≠ d ∨ 68 ≤ d) : (s.evalDom d).tile t = s.tile t := by
  have hwarm : (s.warmUp d).tile t = s.tile t := ite_part (State.tile · t) rfl rfl
  refine ite_part (State.tile · t) ?_ (s.evalOne_tile_ne h)
  rw [State.evalOne_tile_ne _ (.inr (by omega)), State.evalOne_tile_ne _ h, hwarm]

/-- What a tile's requests wake is not that tile (R258). -/
theorem State.wakeFor_tile (s : State) (t : Nat) (l : List Spot) : (s.wakeFor t l).tile t = s.tile t := by
  have hasleep : ∀ k ∈ s.asleep t l, t ≠ k := fun k hk => by
    simp only [State.asleep, List.mem_eraseDups, List.mem_filterMap] at hk
    obtain ⟨a, -, ha⟩ := hk
    split at ha
    · rename_i hc
      simp only [Bool.and_eq_true, bne_iff_ne] at hc
      cases ha
      exact fun e => hc.1.1.2 e.symm
    · cases ha
  have htiles : ∀ (ks : List Nat) (u : State), (∀ k ∈ ks, t ≠ k) →
      (ks.foldl (fun s k => (s.setTile k { s.tile k with buffered := (s.tile k).buffered + 1 }).evalDom k) u).tile t = u.tile t := by
    intro ks
    induction ks with
    | nil => exact fun _ _ => rfl
    | cons k ks ih =>
      intro u h
      rw [List.foldl_cons, ih _ fun j hj => h j (List.mem_cons_of_mem _ hj),
        State.evalDom_tile_ne _ (.inl (h k List.mem_cons_self)), State.setTile_tile_ne _ _ _ _ (h k List.mem_cons_self)]
  unfold State.wakeFor
  refine (foldl_part (State.tile · t) _ (fun u m => ?_) _ _).trans (htiles _ s hasleep)
  exact ite_part (State.tile · t) rfl ((State.evalDom_tile_ne _ (.inr (by omega))).trans rfl)

theorem State.markStarted_comps (s : State) (t : Nat) (o : EngOp) : (s.markStarted t o).comps t = s.comps t := by
  have hcut : ∀ (u : State) r l, (u.sendCut r l).comps t = u.comps t := fun u r l => ite_part (State.comps · t) rfl rfl
  unfold State.markStarted
  dsimp only
  rw [State.comps_of_tile (State.wakeFor_tile _ t _)]
  exact ite_part (State.comps · t) (s.setTile_comps rfl) ((hcut _ _ _).trans (s.setTile_comps rfl))

theorem State.chain_comps (t : Nat) : ∀ (n : Nat) (s : State) (id : Nat) (ok : Bool), (State.chain n s t id ok).comps t = s.comps t
  | 0, _, _, _ => rfl
  | n + 1, s, id, ok => by
    unfold State.chain
    refine foldl_part (State.comps · t) _ (fun s o => ?_) _ _
    refine ite_part (State.comps · t) (ite_part (State.comps · t) ?_ (ite_part (State.comps · t) rfl (ite_part (State.comps · t) ?_ ?_))) rfl
    · rw [State.chain_comps t n, State.closeOp_comps]
    · rw [State.chain_comps t n, State.closeOp_comps, State.zeroWrite_comps]
    · exact s.markStarted_comps t o

theorem State.abortOps_comps (s : State) (t code : Nat) : (s.abortOps t code).comps t = s.comps t := by
  obtain ⟨tok, flags, movers, h⟩ := s.abortOps_tile t code
  unfold State.comps
  rw [h]

theorem State.stopKernel_comps (s : State) (t : Nat) (st : Stop) (abort : Option Nat) : (s.stopKernel t st abort).comps t = s.comps t := by
  unfold State.stopKernel
  dsimp only
  split
  · rfl
  · split
    · exact (State.abortOps_comps _ t _).trans (s.setTile_comps rfl)
    · exact s.setTile_comps rfl

theorem State.fault_comps (s : State) (t : Nat) (src : BitVec 32) (code : BitVec 16) (ctx : Option Nat) (d : BitVec 64) :
    (s.fault src code ctx false d).comps t = s.comps t :=
  State.comps_of_tile (by rw [State.tile, State.fault_tiles]; rfl)

theorem State.takeWatchdog_comps (s : State) (t : Nat) : (s.takeWatchdog t).comps t = s.comps t := by
  unfold State.takeWatchdog
  dsimp only
  split
  · exact s.abortOps_comps t _
  · refine (State.fault_comps _ t _ _ _ _).trans ((State.stopKernel_comps _ t _ _).trans (State.comps_of_unsampled ?_ t))
    exact (State.traceEmit_unsampled _ _ _ _ _ _).trans (State.count_unsampled _ _ _ _)

theorem State.trap_comps (s : State) (t code : Nat) (pc : Word) (hi : BitVec 16) : (s.trap t code pc hi).comps t = s.comps t := by
  refine ite_part (State.comps · t) (s.takeWatchdog_comps t) ?_
  refine (State.fault_comps _ t _ _ _ _).trans ((State.stopKernel_comps _ t _ _).trans (State.comps_of_unsampled ?_ t))
  exact (State.traceEmit_unsampled _ _ _ _ _ _).trans (State.count_unsampled _ _ _ _)

theorem State.retire_comps (s : State) (t n : Nat) : (s.retire t n).comps t = s.comps t := by
  obtain ⟨v, -, -, h⟩ := s.retire_eq t n
  rw [h]
  unfold State.comps
  exact congrArg (fun x => x.core.comps) (State.setTile_tile _ _ _)

theorem State.wakeWait_comps (s : State) (t : Nat) : (s.wakeWait t).comps t = s.comps t := by
  unfold State.wakeWait
  dsimp only
  split
  · exact ite_part (State.comps · t) rfl (ite_part (State.comps · t) (s.retire_comps t 8) (s.trap_comps t _ _ _))
  · rfl

theorem State.endOp_comps (s : State) (t : Nat) (o : EngOp) (err : Option Nat) : (s.endOp t o err).comps t = s.comps t := by
  unfold State.endOp
  rw [State.wakeWait_comps, State.chain_comps, State.closeOp_comps]

theorem State.beginMover_comps (s : State) (t : Nat) (o : EngOp) : (s.beginMover t o).comps t = s.comps t :=
  ite_part (State.comps · t) ((State.endOp_comps _ t o none).trans (s.zeroWrite_comps t o)) (s.markStarted_comps t o)

/-- The comparator that fires is marked, whatever its operations do as they start. -/
theorem State.fireCmp_comps (s : State) (t c : Nat) : ((s.fireCmp t c).tile t).core.getCmp c
    = { (s.tile t).core.getCmp c with fired := true } := by
  let core := (s.tile t).core
  let v := s.setCore t { core with comps := tput core.comps c { core.getCmp c with fired := true } }
  have hv : v.comps t = tput core.comps c { core.getCmp c with fired := true } :=
    congrArg (fun x => x.core.comps) (State.setTile_tile _ _ _)
  have hstart : (v.startTriggered t c).comps t = v.comps t := by
    unfold State.startTriggered
    exact foldl_part (State.comps · t) _ (fun u o => ite_part (State.comps · t) (u.beginMover_comps t o) rfl) _ _
  have hfire : (s.fireCmp t c).comps t = v.comps t := by
    refine ite_part (State.comps · t) rfl (ite_part (State.comps · t) ?_ hstart)
    rw [State.retire_comps, hstart]
  rw [Core.getCmp, show ((s.fireCmp t c).tile t).core.comps = _ from hfire.trans hv]
  exact tget_tput_same _ _ _ _

end Sys2Proof.Machine
end

section
/-! PROOFS. Clears and rejoins of a tile's store (R59 to R61, R338), the patrol scrubber (R58), and the events of a tile as a whole. -/

namespace Sys2Proof.Machine

open Sys2Proof.Claims

/-! ### Movers and vectors that end (R210, R103) -/

theorem exec_moverOpComplete {s : State} {t mv : Nat} {o : EngOp} {a b : HostBytes} (hop : (s.tile t).moverOp mv = some o) (hmv : mv < 8)
    (hheld : o.held = false) (hlost : o.lost ≠ 2) (hcut : o.cut = false) (hbehind : o.behind.any s.bram.flight.contains = false)
    (hopen : s.accessOpen t t (s.mvReads t o ++ s.mvWrites t o) = true) (hok : s.moveRes (s.mvReads t o) (s.mvWrites t o) .ok = .ok) :
    exec (.moverOpComplete t mv .ok a b) s = .next (s.moved t o .ok a b) := by
  have hl : lostRes o.lost .ok = some .ok := by rw [lostRes, if_neg hlost]; rfl
  have hun : s.unresolved o.cut (s.moveRes (s.mvReads t o) (s.mvWrites t o) .ok) = false := by
    rw [State.unresolved, hcut, hok]; rfl
  change execMoverOpComplete t mv .ok a b s = _
  unfold execMoverOpComplete
  simp only [hop, hl, hmv, hheld, hun, hbehind, hopen, decide_true, Bool.not_false, Bool.and_self, if_true]

theorem State.moved_done {s : State} {t : Nat} {o : EngOp} (h : EndsAlone s t o)
    (hok : s.moveRes (s.mvReads t o) (s.mvWrites t o) .ok = .ok) (a b : HostBytes) : Done s (s.moved t o .ok a b) t o o.flags := by
  unfold State.moved
  simp only [hok, State.countEcc_ok]
  refine State.endOp_done_of_work h ?_
  unfold State.countMoved
  dsimp only
  rw [State.count_work, State.count_work, State.writeSpots_work, State.traffic_work, State.traffic_work]

theorem exec_vectorOpComplete_done {s : State} {t : Nat} {o : EngOp} (hop : (s.tile t).oldestOp 1 = some o) (h : EndsAlone s t o)
    (hue : s.moveRes (s.vecReads t o) [] .ok ≠ .uncorrectable) :
    ∃ u, exec (.vectorOpComplete t .ok) s = .next u ∧ Done s u t o (BitVec.ofNat 16 (s.vecEffect t o).2) := by
  have hno : s.engineUe (s.vecReads t o) .ok = false := by
    rw [State.engineUe, beq_eq_false_iff_ne.2 hue, Bool.and_false]
  have hx : exec (.vectorOpComplete t .ok) s = execVectorOpComplete t .ok s := rfl
  unfold execVectorOpComplete at hx
  simp only [hop, hno, Bool.false_eq_true, if_false, State.countEcc_ok] at hx
  have hw := s.vecEffect_work t o
  generalize s.vecEffect t o = r at hx hw ⊢
  refine ⟨_, hx, State.endOp_done_of_work (o := { o with flags := BitVec.ofNat 16 r.2 }) h ?_⟩
  exact ite_part (State.work · t) hw ((State.count_work _ t 9 1 t).trans hw)

/-! ### Clears (R60, R61) -/

/-- A clear keeps what reads zero at zero. -/
theorem State.peek_clearStore_zero {s : State} {a n c : Nat} (ha : a % 64 = 0) (hn : n % 64 = 0) (h : s.peek c = 0) :
    (s.clearStore a n).peek c = 0 := by
  by_cases hc : a ≤ c ∧ c < a + n
  · exact s.peek_clearStore_in hc
  · rw [s.peek_clearStore_out ha hn (by omega), h]

theorem State.peek_clearGranule_zero {s : State} {t g c : Nat} (h : s.peek c = 0) :
    (s.clearStore (tsAddr t (g * 0x200000)) 0x200000).peek c = 0 :=
  State.peek_clearStore_zero (by unfold tsAddr; omega) (by decide) h

/-- Granules of a clear read zero. -/
theorem State.peek_clearGranules {t g k : Nat} (hk : k < 0x200000) (l : List Nat) : ∀ s : State, g ∈ l →
    (l.foldl (fun s g => s.clearStore (tsAddr t (g * 0x200000)) 0x200000) s).peek (tsAddr t (g * 0x200000 + k)) = 0 := by
  induction l with
  | nil => exact fun _ h => absurd h List.not_mem_nil
  | cons j l ih =>
    intro s h
    rw [List.foldl_cons]
    by_cases hl : g ∈ l
    · exact ih _ hl
    · obtain rfl : g = j := (List.mem_cons.1 h).resolve_right hl
      have hg : (s.clearStore (tsAddr t (g * 0x200000)) 0x200000).peek (tsAddr t (g * 0x200000 + k)) = 0 :=
        s.peek_clearStore_in (by unfold tsAddr; omega)
      exact foldl_inv (P := fun u => State.peek u (tsAddr t (g * 0x200000 + k)) = 0)
        (fun u i hu => State.peek_clearGranule_zero hu) l _ hg

theorem mem_granulesOf {bm : BitVec 256} {g : Nat} : g ∈ granulesOf bm ↔ g < 256 ∧ bm.getLsbD g = true := by
  simp [granulesOf]

/-- The oldest clear ends with its granules, none of which a share could name before (R61). -/
theorem State.clearDone_spec (s : State) (t : Nat) (bm : BitVec 256) (slot : Option Nat) (rest : List (BitVec 256 × Option Nat)) :
    let u := s.clearDone t bm slot rest
    (u.tile t).clearing = rest ∧ u.hif = s.hif
      ∧ (∀ g k, g < 256 → bm.getLsbD g = true → k < 0x200000 → u.peek (tsAddr t (g * 0x200000 + k)) = 0)
      ∧ (slot = none → u.tile t = { s.tile t with clearing := rest })
      ∧ (∀ i, slot = some i → (u.tile t).slot i = { (s.tile t).slot i with share := ((s.tile t).slot i).share ||| bm }) := by
  let v := (s.clearGranules t bm).setTile t { s.tile t with clearing := rest }
  have hv : v.tile t = { s.tile t with clearing := rest } := State.setTile_tile _ _ _
  have hhif : v.hif = s.hif := (congrArg State.hif (s.clearGranules_unlanded t bm) :)
  have hzero : ∀ g k, g < 256 → bm.getLsbD g = true → k < 0x200000 → v.peek (tsAddr t (g * 0x200000 + k)) = 0 :=
    fun g k hg hb hk => State.peek_clearGranules hk (granulesOf bm) s (mem_granulesOf.2 ⟨hg, hb⟩)
  cases slot with
  | none => exact ⟨congrArg Tile.clearing hv, hhif, hzero, fun _ => hv, fun i hi => nomatch hi⟩
  | some i =>
    have ht : (s.clearDone t bm (some i) rest).tile t
        = ((v.tile t).setSlot i { (v.tile t).slot i with share := ((v.tile t).slot i).share ||| bm }) := State.setTile_tile _ _ _
    rw [hv] at ht
    refine ⟨congrArg Tile.clearing ht, hhif, ?_, ?_, ?_⟩
    · exact hzero
    · intro h; cases h
    · intro j hj
      cases hj
      rw [ht]
      exact Tile.setSlot_slot_same _ _ _

theorem exec_writtenBitClearDone {s : State} {t : Nat} {bm : BitVec 256} {slot : Option Nat} {rest : List (BitVec 256 × Option Nat)}
    (hc : (s.tile t).clearing = (bm, slot) :: rest) (hb : s.hif.busy = none) :
    exec (.writtenBitClearDone t) s = .next (s.clearDone t bm slot rest) := by
  obtain ⟨-, hhif, -⟩ := s.clearDone_spec t bm slot rest
  have hno : (s.clearDone t bm slot rest).sharingOn t = none := by
    unfold State.sharingOn
    rw [hhif, hb]
  change execWrittenBitClearDone t s = _
  unfold execWrittenBitClearDone
  rw [hc]
  simp only [hno]

/-! ### Resets and rejoins (R338, R393) -/

/-- A tile that was reset out of its place refuses, holds no kernel and is TESTING (R393, R431). -/
theorem State.resetOut_tile (s : State) (t : Nat) : ((s.resetOut t).tile t).refusing = true
    ∧ ((s.resetOut t).tile t).core.run = none ∧ ((s.resetOut t).tile t).role = 2 := by
  obtain ⟨hrole, hbare⟩ := (s.cancelGrafts t).leaveFor_tile t 2
  unfold State.resetOut
  have hfell := (((s.cancelGrafts t).leaveFor t 2).revote_dims).1 t
  obtain ⟨href, hrun, -⟩ := hfell.bare hbare
  exact ⟨href, hrun, hfell.role.trans hrole⟩

theorem exec_tileReset {s : State} {t : Nat} (ht : s.hasTile t = true) (hr : (s.tile t).role ≠ 3) :
    exec (.tileReset t) s = .next (s.resetOut t) := if_pos (by simp [ht, hr])

/-- The state of a tile that rejoins, before votes are taken anew (R338). -/
def State.rejoined (s : State) (t : Nat) : State :=
  let v := if (s.clearTile t).tileBunch t = 0 then ((s.clearTile t).bumpGen t).setRole t 1 else s.clearTile t
  v.setTile t { v.tile t with refusing := false, noLaunch := false }

theorem State.rejoin_eq (s : State) (t : Nat) : s.rejoin t = (s.rejoined t).revote := rfl

theorem State.clearTile_tile (s : State) (t : Nat) :
    (s.clearTile t).tile t = { s.tile t with slots := [], core := { sigs := (s.tile t).core.sigs }, clearing := [] } := State.setTile_tile _ _ _

theorem State.tileBunch_of_comp {s u : State} (h : u.comp = s.comp) (t : Nat) : u.tileBunch t = s.tileBunch t := by
  unfold State.tileBunch State.bunch
  rw [h]

/-- A tile that rejoins: cleared, and SPARE with a new generation outside a bunch (R338). -/
theorem State.rejoined_spec (s : State) (t : Nat) :
    (s.rejoined t).tile t = { s.tile t with
        slots := [], core := { sigs := (s.tile t).core.sigs }, clearing := [], refusing := false, noLaunch := false
        role := if s.tileBunch t = 0 then 1 else (s.tile t).role }
    ∧ tget 0 (s.rejoined t).stone.gens t = tget 0 s.stone.gens t + (if s.tileBunch t = 0 then 1 else 0)
    ∧ ∀ off, off < 0x20000000 → (s.rejoined t).peek (tsAddr t off) = 0 := by
  have hb : (s.clearTile t).tileBunch t = s.tileBunch t := State.tileBunch_of_comp rfl t
  have hpeek : ∀ off, off < 0x20000000 → (s.clearTile t).peek (tsAddr t off) = 0 := fun off ho =>
    s.peek_clearStore_in (by unfold tsAddr; omega)
  unfold State.rejoined
  rw [hb]
  by_cases h0 : s.tileBunch t = 0
  · simp only [if_pos h0]
    refine ⟨(State.setTile_tile _ _ _).trans ?_, tget_tput_same _ _ _ _, hpeek⟩
    rw [State.setRole_tile, show ((s.clearTile t).bumpGen t).tile t = (s.clearTile t).tile t from rfl, s.clearTile_tile t]
  · simp only [if_neg h0]
    refine ⟨(State.setTile_tile _ _ _).trans ?_, (BitVec.add_zero _).symm, hpeek⟩
    rw [s.clearTile_tile t]

theorem exec_tileRejoin {s : State} {t : Nat} (ht : s.hasTile t = true) (hf : (s.tile t).refusing = true) (hr : (s.tile t).role ≠ 3)
    (hd : (s.dom t).st = 2) (hturn : t ∉ s.stone.inTurn)
    (hreact : ∀ r ∈ s.stone.reacts, r.reaction ≠ 3 ∨ unitTile r.row r.src r.detail ≠ some t)
    (hgraft : ∀ g ∈ s.comp.grafts, 2 ≤ g.kind ∨ g.out ≠ t) : exec (.tileRejoin t) s = .next (s.rejoined t).revote := by
  have h1 : s.stone.inTurn.contains t = false := by simpa using hturn
  have h2 : s.stone.reacts.all (fun r => r.reaction != 3 || unitTile r.row r.src r.detail != some t) = true := by
    simpa only [List.all_eq_true, Bool.or_eq_true, bne_iff_ne] using hreact
  have h3 : s.comp.grafts.all (fun g => 2 ≤ g.kind || g.out != t) = true := by
    simpa only [List.all_eq_true, Bool.or_eq_true, bne_iff_ne, decide_eq_true_eq] using hgraft
  rw [← s.rejoin_eq t]
  exact if_pos (by rw [ht, hf, hd, h1, h2, h3, bne_iff_ne.2 hr]; rfl)

/-! ### The patrol scrubber (R58) -/

/-- Whatever the scrubber finds, memory and the host interface stay. -/
theorem exec_patrolScrub_keeps {s : State} {t line : Nat} (res : Res) (hl : line < 8388608) (ht : s.hasTile t = true)
    (hw : s.lineWritten (tsAddr t (line * 64)) = true) :
    ∃ u, exec (.patrolScrub t line res) s = .next u ∧ u.mem = s.mem ∧ u.hif = s.hif := by
  have ht' : t < 128 := by have := State.hasTile_lt ht; omega
  by_cases hue : s.moveRes [.dev (tsAddr t (line * 64)) none] [] res = .uncorrectable
  · obtain ⟨n, hu⟩ := State.ueRead_store ht' hl hw (s.granuleOwner t (line / 0x8000)).toList
    refine ⟨_, exec_patrolScrub_ue ht hw hue, ?_⟩
    rw [hu, State.countLine_uncorrectable s ht' hl]
    exact ⟨rfl, rfl⟩
  · refine ⟨_, exec_patrolScrub ht hw rfl hue, ?_⟩
    by_cases hco : s.moveRes [.dev (tsAddr t (line * 64)) none] [] res = .corrected
    · rw [hco, State.countLine_corrected s ht' hl]
      exact ⟨rfl, rfl⟩
    · rw [State.countLine_clean s ht' hl hco hue]
      exact ⟨rfl, rfl⟩

/-! ### Packets and refusals (R258, R270, R418) -/

theorem exec_endpointPacketArrival {s : State} {t : Nat} (ht : s.hasTile t = true) (hb : s.banked (quarterOf t) = false)
    (hd : (s.dom t).st ≠ 2) : exec (.endpointPacketArrival t) s
      = .next ((s.setTile t { s.tile t with buffered := (s.tile t).buffered + 1 }).evalDom t) :=
  (if_neg (by rw [ht, hb]; decide)).trans (if_pos (by rw [ht, bne_iff_ne.2 hd]; rfl))

theorem exec_demandIdleTimeout {s : State} {t : Nat} (ht : s.hasTile t = true) (hd : s.demand t = false) :
    exec (.demandIdleTimeout t) s = .next ((s.setDom t { s.dom t with warm := false }).evalDom t) := if_pos (by rw [ht, hd]; rfl)

theorem exec_swapDone {s : State} {t : Nat} {w : Swap} (hw : (s.tile t).swap = some w)
    (ho : s.accessOpen t t (s.swapSpots t w) = true) : exec (.swapDone t) s = .next (s.swapEnd t w) := by
  change execSwapDone t s = _
  unfold execSwapDone
  simp only [hw, ho, if_true]

theorem exec_refusedReply_core {s : State} {t rd n : Nat} {td sg : Bool} {va : Word} (hc : (s.tile t).core.stall = .load td rd n sg va)
    (hr : ∃ p ∈ s.vaSpots t va n, s.spotRes p = .refused) : exec (.refusedReply (.core t)) s
      = .next ((s.countRefused (s.vaSpots t va n) .refused).stopFor t { status := 3 } none) := by
  have hasks : s.asks (.core t) = some (s.vaSpots t va n) := by simp only [State.asks, hc]
  change execRefusedReply (.core t) s = _
  unfold execRefusedReply
  rw [hasks]
  exact if_pos (by simpa using hr)

/-- Settles O56: each event by the lemma about it. -/
theorem tileEventsComplete : Obligations.TileEventsComplete := by
  unfold Obligations.TileEventsComplete
  intro s t
  have hfaults := tileFaults
  unfold Obligations.TileFaults at hfaults
  obtain ⟨hlock, hstall, -, hdog, hescalate⟩ := hfaults s t
  refine ⟨fun w x hs hh hf => ?_, fun mv o a b hop hmv _ hends hheld hlost hcut hbehind hopen hok => ?_,
    fun o hop hends hue => exec_vectorOpComplete_done hop hends hue, fun hd hh => exec_kernelBoundary hd hh, fun r hr => ?_,
    fun line res hl ht hw => exec_patrolScrub_keeps res hl ht hw, fun bm slot rest hc hb => ?_, fun r hr hh hb hd hs => ?_, hescalate,
    fun w hw ho => exec_swapDone hw ho, fun ht => ?_, fun ht hb hd => exec_endpointPacketArrival ht hb hd,
    fun ht hd => exec_demandIdleTimeout ht hd, fun ht hr => ⟨_, exec_tileReset ht hr, s.resetOut_tile t⟩,
    fun ht hf hr hd hturn hreact hgraft => ?_, fun j hr hj ha hf hv => ?_, fun td rd n sg va hc hr => exec_refusedReply_core hc hr⟩
  · have hx := exec_engineSlotFree hs hh hf
    refine ⟨hx, fun row hrow hmay hc => ?_⟩
    obtain ⟨v, o, hv, ho⟩ := exec_twoWordRow_issued hrow hmay hc
    exact ⟨v, o, hx.trans (congrArg _ hv), ho⟩
  · exact ⟨_, exec_moverOpComplete hop hmv hheld hlost hcut hbehind hopen hok, State.moved_done hends hok a b⟩
  · obtain ⟨u, hx, hrep, hops, -⟩ := hlock r hr
    exact ⟨u, hx, hrep, hops⟩
  · obtain ⟨hclear, -⟩ := s.clearDone_spec t bm slot rest
    exact ⟨_, exec_writtenBitClearDone hc hb, hclear⟩
  · obtain ⟨u, hx, hops, hstop, -⟩ := (hdog r hr hh hb hd).1 hs
    exact ⟨u, hx, hops, hstop⟩
  · obtain ⟨u, hx, htile, hrep, -⟩ := hstall ht
    exact ⟨u, hx, htile, hrep⟩
  · obtain ⟨htile, -⟩ := s.rejoined_spec t
    exact ⟨_, exec_tileRejoin ht hf hr hd hturn hreact hgraft, congrArg Tile.refusing htile, congrArg Tile.slots htile⟩
  · refine ⟨_, if_pos ?_, s.fireCmp_comps t j⟩
    rw [hr, ha, hf, decide_eq_true hj, Bool.and_true]
    exact decide_eq_true hv

end Sys2Proof.Machine
end

section
/-! PROOFS. What a message that passes its checks does at its tile, class by class (R157, R163, R219, R220, R343, R366, R374). -/

namespace Sys2Proof.Machine

open Sys2Proof.Claims

/-! ### The rows of a message that passes every check -/

section
variable {s : State} {m : Msg} {i : Nat} {d l : Leaf} (h : Reaches s m i d l)
include h

/-- A message whose class reaches no memory that must be served first is delivered. -/
theorem exec_plainMessage (hc : m.cls ≠ 0x03 ∧ m.cls ≠ 0x04 ∧ m.cls ≠ 0x08) {c : Instr} {f : State → State}
    (hr : (c, m.cls, f) ∈ messageRows m .ok []) :
    exec c s = .next (f ((heard (s.landed m) m i l).deliver d.tile l m .ok [])) := by
  obtain ⟨h3, h4, h8⟩ := hc
  have ha : Arrives s m .ok :=
    ⟨h.1, h.2.1, fun he => absurd he h3, fun he => absurd he h4, fun he => absurd he h8⟩
  obtain ⟨res', host', hp, hg, hx⟩ := exec_messageRow ha _ hr rfl
  exact hx.trans (by rw [State.receiveMsg_reaches h, State.deliver_congr hp hg])

theorem exec_putMessage_delivered (hc : m.cls = 0x03) {res : Res} (hl : res ≠ .lost) (hs : s.servedNow m 1 = true) :
    exec (.putMessage m res) s = .next ((heard (s.landed m) m i l).gotPut d.tile d.tile m res) := by
  have ha : Arrives s m res := ⟨h.1, h.2.1, fun _ => ⟨hl, hs⟩, fun he => by simp [hc] at he, fun he => by simp [hc] at he⟩
  obtain ⟨res', host', hp, hg, hx⟩ := exec_messageRow (host := []) ha (.putMessage m res, 0x03, id) (by simp [messageRows]) hc
  refine hx.trans ?_
  rw [State.receiveMsg_reaches h, State.deliver_congr hp hg, State.deliver, hc]
  rfl

theorem exec_getReqMessage_delivered (hc : m.cls = 0x04) {res : Res} (host : HostBytes) (hl : res ≠ .lost)
    (hs : s.servedNow m 0 = true) :
    exec (.getReqMessage m res host) s = .next ((heard (s.landed m) m i l).gotGetReq d.tile d.tile l m res host) := by
  have ha : Arrives s m res := ⟨h.1, h.2.1, fun he => by simp [hc] at he, fun _ => ⟨hl, hs⟩, fun he => by simp [hc] at he⟩
  obtain ⟨res', host', hp, hg, hx⟩ :=
    exec_messageRow (host := host) ha (.getReqMessage m res host, 0x04, id) (by simp [messageRows]) hc
  refine hx.trans ?_
  rw [State.receiveMsg_reaches h, State.deliver_congr hp hg, State.deliver, hc]
  rfl

theorem exec_returnMessage_delivered (hc : m.cls = 0x08) (hs : s.returnOpen m = true) :
    exec (.returnMessage m) s = .next ((heard (s.landed m) m i l).gotReturn d.tile m) := by
  have ha : Arrives s m .ok := ⟨h.1, h.2.1, fun he => by simp [hc] at he, fun he => by simp [hc] at he, fun _ => hs⟩
  obtain ⟨res', host', hp, hg, hx⟩ := exec_messageRow (host := []) ha (.returnMessage m, 0x08, id) (by simp [messageRows]) hc
  refine hx.trans ?_
  rw [State.receiveMsg_reaches h, State.deliver_congr hp hg, State.deliver, hc]
  rfl

end

/-- The rows of the messages for a kernel's dispatch unit, each with its class (R366). -/
def heldRows (m : Msg) : List (Instr × Nat) :=
  [(.sendMessage m, 0x02), (.rowMessage m, 0x06), (.markerMessage m, 0x07), (.barMessage m, 0x0A), (.collSeqMessage m, 0x0B),
    (.collDataMessage m, 0x0C)]

theorem exec_heldMessage {s : State} {m : Msg} {i : Nat} {d l : Leaf} (h : Reaches s m i d l) :
    ∀ r ∈ heldRows m, m.cls = r.2 → exec r.1 s = .next ((heard (s.landed m) m i l).gotHeld d.tile l m) := by
  have row : ∀ (c : Instr) (k : Nat), (k ≠ 0x03 ∧ k ≠ 0x04 ∧ k ≠ 0x08) → (c, k, id) ∈ messageRows m .ok [] → m.cls = k →
      (∀ v : State, v.deliver d.tile l m .ok [] = v.gotHeld d.tile l m) →
      exec c s = .next ((heard (s.landed m) m i l).gotHeld d.tile l m) := by
    rintro c k hk hr rfl hv
    exact (exec_plainMessage h hk hr).trans (by rw [hv]; rfl)
  simp only [heldRows, List.forall_mem_cons, List.not_mem_nil, false_implies, implies_true, and_true]
  refine ⟨fun hc => ?_, fun hc => ?_, fun hc => ?_, fun hc => ?_, fun hc => ?_, fun hc => ?_⟩ <;>
    exact row _ _ (by decide) (by simp [messageRows]) hc (fun v => by rw [State.deliver, hc]; rfl)

/-! ### SEND and the contributions (R191, R219) -/

theorem State.gotHeld_captured {s : State} {t : Nat} {l : Leaf} {m : Msg} {b : BitVec 32} (h : s.capturing t l m = some b) :
    s.gotHeld t l m = (s.answer m 0).updBunch b (fun y => { y with
      captured := y.captured ++ [(t, { m with answered := true })] }) := by
  rw [State.gotHeld, h]
  rfl

section
variable {s : State} {t : Nat} {l : Leaf} {m : Msg} (h : s.capturing t l m = none)
include h

theorem State.gotHeld_row (hc : m.cls = 0x06 ∨ m.cls = 0x07) : s.gotHeld t l m = (s.arriveRow t m).proceed t := by
  have hi : isIntakeMsg m = true := by simpa [isIntakeMsg, clsRow, clsMarker] using hc
  rw [State.gotHeld, h]
  exact if_pos hi

theorem State.gotHeld_held (hc : m.cls ≠ 0x06 ∧ m.cls ≠ 0x07) : s.gotHeld t l m = s.giveHeld t m := by
  have hi : ¬ isIntakeMsg m = true := by simpa [isIntakeMsg, clsRow, clsMarker] using hc
  rw [State.gotHeld, h]
  exact if_neg hi

end

theorem State.giveHeld_taken {s u : State} {t : Nat} {m : Msg} (h : s.tryHeld t m = (u, true)) :
    s.giveHeld t m = (u.answer m 0).proceed t := by
  rw [State.giveHeld, h]
  rfl

theorem State.giveHeld_waits {s : State} {t : Nat} {m : Msg} (h : s.tryHeld t m = (s, false)) :
    s.giveHeld t m = waitsAt s t m := by
  rw [State.giveHeld, h]
  rfl

theorem State.giveHeld_send (s : State) (t : Nat) {m : Msg} (hc : m.cls = 0x02) :
    s.giveHeld t m = if (s.tile t).unmatched.length < 64 then ((s.holdSend t m).answer m 0).proceed t else waitsAt s t m := by
  have hx : s.tryHeld t m = if (s.tile t).sendRoom = true then (s.holdSend t m, true) else (s, false) := if_pos hc
  split
  · next hl => exact State.giveHeld_taken (hx.trans (if_pos (decide_eq_true hl)))
  · next hl => exact State.giveHeld_waits (hx.trans (if_neg (by simpa [Tile.sendRoom] using hl)))

theorem State.holdSend_idle {s : State} {t : Nat} (m : Msg) (h : (s.tile t).core.run = none) :
    s.holdSend t m = s.setTile t { s.tile t with unmatched := (s.tile t).unmatched ++ [m] } := by
  rw [State.holdSend, h]

section
variable {s : State} {t : Nat} {m : Msg} (hc : m.cls = 0x0A ∨ m.cls = 0x0B ∨ m.cls = 0x0C)
include hc

/-- A contribution that finds room joins the operation of the running kernel that it is for, or is kept. -/
theorem State.tryHeld_contrib (s : State) (t : Nat) : s.tryHeld t m = if (s.tile t).contribRoom m = true then
    match (s.tile t).core.run with
    | none => (s.setTile t { s.tile t with contribs := (s.tile t).contribs ++ [m] }, true)
    | some r => match (s.tile t).ops.find? (fun o => contribFor r o m) with
      | some o => ((s.setTile t { s.tile t with contribs := (s.tile t).contribs ++ [m] }).collAdvance t r o.id, true)
      | none => (s.setTile t { s.tile t with contribs := (s.tile t).contribs ++ [m] }, true)
    else (s, false) := by
  have h2 : ¬ m.cls = clsSend := by unfold clsSend; omega
  have hb : (m.cls = clsBar || m.cls = clsCollSeq || m.cls = clsCollData) = true := by
    simp only [Bool.or_eq_true, decide_eq_true_eq]
    unfold clsBar clsCollSeq clsCollData
    omega
  exact (if_neg h2).trans (if_pos hb)

theorem State.giveHeld_contrib_waits (hr : (s.tile t).contribRoom m = false) : s.giveHeld t m = waitsAt s t m := by
  refine State.giveHeld_waits ?_
  rw [State.tryHeld_contrib hc s t]
  exact if_neg (by simp [hr])

/-- A contribution to no operation that the tile's kernel has begun is kept for the one it is for (R191). -/
theorem State.giveHeld_contrib_joins (hr : (s.tile t).contribRoom m = true)
    (hn : ∀ k o, (s.tile t).core.run = some k → o ∈ (s.tile t).ops → contribFor k o m = false) : s.giveHeld t m
      = ((s.setTile t { s.tile t with contribs := (s.tile t).contribs ++ [m] }).answer m 0).proceed t := by
  refine State.giveHeld_taken ?_
  rw [State.tryHeld_contrib hc s t, if_pos hr]
  cases hk : (s.tile t).core.run with
  | none => rfl
  | some k =>
    dsimp only
    rw [List.find?_eq_none.mpr (fun o ho => by simp [hn k o hk ho])]

end

theorem Tile.contribRoom_idle {x : Tile} (m : Msg) (h : x.core.run = none) :
    x.contribRoom m = decide (m.param.toNat / 2 ^ 32 % 2 ^ 16 ≤ 4) := by
  rw [Tile.contribRoom, h, fld_eq]

end Sys2Proof.Machine
end

section
/-! PROOFS. Rows and markers at their intake, and what requests, replies and answers do at their tile (R57, R157, R158, R220, R374). -/

namespace Sys2Proof.Machine

open Sys2Proof.Claims

/-! ### Rows and markers (R157, R158, R160, R165) -/

theorem rowIntake_eq (m : Msg) : rowIntake m = m.param.toNat % 4 := fld_zero _ 2

theorem rowPart_eq (m : Msg) : rowPart m = m.param.toNat / 2 ^ 16 % 256 := fld_eq _ 16 8

theorem rowParts_eq (m : Msg) : rowParts m = m.param.toNat / 2 ^ 24 % 256 := fld_eq _ 24 8

theorem State.arriveRow_behind {s : State} {t : Nat} {m : Msg} (h : (s.tile t).early.any (sameRoute m) = true) :
    s.arriveRow t m = waitsAt s t m := if_pos h

section
variable {s : State} {t : Nat} {m : Msg} (hn : (s.tile t).early.any (sameRoute m) = false)
include hn

theorem State.arriveRow_taken {u : State} {r : Nat} (h : s.tryIntake t m = (u, some r)) : s.arriveRow t m = u.answer m r := by
  refine (if_neg (by simp [hn])).trans ?_
  rw [h]

theorem State.arriveRow_waits (h : s.tryIntake t m = (s, none)) : s.arriveRow t m = waitsAt s t m := by
  refine (if_neg (by simp [hn])).trans ?_
  rw [h]
  rfl

end

section
variable (s : State) (t : Nat) {m : Msg}

/-- A row's part before its last is kept (log 24). -/
theorem State.tryIntake_part (hc : m.cls = 0x06) (hp : rowPart m + 1 < rowParts m) :
    s.tryIntake t m = (s.setTile t ((s.tile t).setIntake (rowIntake m) { (s.tile t).intake (rowIntake m) with
      parts := tput ((s.tile t).intake (rowIntake m)).parts (partsKey m) (((s.tile t).intake (rowIntake m)).rowBytesOf m) }),
      some 0) := by
  unfold State.tryIntake
  exact if_pos (by simp [clsRow, hc, hp])

section
variable (hw : m.cls = 0x07 ∨ rowParts m ≤ rowPart m + 1)
include hw

theorem whole_not_part : ¬ (m.cls = clsRow && rowPart m + 1 < rowParts m) = true := by
  intro hp
  obtain ⟨hc, hlt⟩ := (Bool.and_eq_true _ _).mp hp
  have h6 : m.cls = 6 := of_decide_eq_true hc
  have h1 : rowPart m + 1 < rowParts m := of_decide_eq_true hlt
  omega

theorem State.tryIntake_early {s : State} {t : Nat}
    (hr : ((s.tile t).intake (rowIntake m)).timing (((s.tile t).intake (rowIntake m)).msgRound m) = 2) :
    s.tryIntake t m = (s, none) := by
  unfold State.tryIntake
  refine (if_neg (whole_not_part hw)).trans ?_
  rw [hr]
  rfl

theorem State.tryIntake_past {s : State} {t : Nat}
    (hr : ((s.tile t).intake (rowIntake m)).timing (((s.tile t).intake (rowIntake m)).msgRound m) = 1) :
    s.tryIntake t m = (s.setTile t ((s.tile t).setIntake (rowIntake m) { (s.tile t).intake (rowIntake m) with
      parts := tdel ((s.tile t).intake (rowIntake m)).parts (partsKey m) }), some 8) := by
  unfold State.tryIntake
  refine (if_neg (whole_not_part hw)).trans ?_
  rw [hr]
  rfl

end

/-- A marker of the intake's round is noted, and the last one closes the round (R157). -/
theorem State.tryIntake_marker {s : State} {t : Nat} (hc : m.cls = 0x07)
    (hr : ((s.tile t).intake (rowIntake m)).timing (((s.tile t).intake (rowIntake m)).msgRound m) = 0) :
    let x := (s.tile t).intake (rowIntake m)
    let y := { x with markers := if m.src ∈ x.markers then x.markers else x.markers ++ [m.src] }
    s.tryIntake t m = (s.setTile t ((s.tile t).setIntake (rowIntake m)
      (if y.origins ≤ y.markers.length then y.close false else y)), some 0) := by
  intro x y
  unfold State.tryIntake
  refine (if_neg (whole_not_part (.inl hc))).trans ?_
  rw [hr]
  refine (if_pos hc).trans ?_
  simp only [List.contains_iff_mem]
  rfl

/-- A whole row of the intake's round is what the intake takes it for (R160). -/
theorem State.tryIntake_row {s : State} {t : Nat} (hc : m.cls = 0x06) (hw : rowParts m ≤ rowPart m + 1)
    (hr : ((s.tile t).intake (rowIntake m)).timing (((s.tile t).intake (rowIntake m)).msgRound m) = 0) {u : State} {r : Nat}
    (ha : s.acceptRow t (rowIntake m) m.src (rowSpilled m) (rowBlock m)
      (ofBytes ((((s.tile t).intake (rowIntake m)).rowBytesOf m).take 16)) ((((s.tile t).intake (rowIntake m)).rowBytesOf m).drop 16)
      = (u, some r)) :
    s.tryIntake t m = (u.setTile t ((u.tile t).setIntake (rowIntake m) { (u.tile t).intake (rowIntake m) with
      parts := tdel ((u.tile t).intake (rowIntake m)).parts (partsKey m) }), some r) := by
  unfold State.tryIntake
  refine (if_neg (whole_not_part (.inr hw))).trans ?_
  rw [hr]
  refine (if_neg (by simp [clsMarker, hc])).trans ?_
  dsimp only
  rw [ha]

end

theorem State.acceptRow_length {s : State} {t i : Nat} (src : Nat) (spilled block : Bool) (tag : Nat) {row : List Byte}
    (h : row.length ≠ ((s.tile t).intake i).rowBytes) : s.acceptRow t i src spilled block tag row = (s, some 9) := if_pos h

theorem State.acceptRow_placed {s : State} {t i src : Nat} (tag : Nat) {row : List Byte}
    (h : row.length = ((s.tile t).intake i).rowBytes)
    (hq : tget 0 ((s.tile t).intake i).counts src < ((s.tile t).intake i).quota) :
    s.acceptRow t i src false false tag row = (s.placeRow t i src false row tag, some 0) := by
  refine (if_neg (not_not_intro h)).trans ?_
  rw [if_neg (by simp), if_neg (by simp), if_pos hq]
  rfl

/-! ### PUT and GET_REQ (R42, R220, R230, R270, R283, R329) -/

/-- Only a refusal counts in LOSS.REFUSED. -/
theorem State.countRefused_other (s : State) (l : List Spot) {r : Res} (h : r ≠ .refused) : s.countRefused l r = s := if_neg h

section
variable {s : State} {home t : Nat} {m : Msg}

theorem State.gotPut_rejected {e : Nat} (res : Res) (h : s.remoteLoc home t m 1 = .error e) :
    s.gotPut home t m res = s.answer m e := by
  rw [State.gotPut, h]

theorem State.gotGetReq_rejected {e : Nat} (l : Leaf) (res : Res) (host : HostBytes) (h : s.remoteLoc home t m 0 = .error e) :
    s.gotGetReq home t l m res host = s.answer m e := by
  rw [State.gotGetReq, h]

section
variable {loc : Loc}

section
variable (h : s.remoteLoc home t m 1 = .ok loc)
include h

theorem State.gotPut_held (res : Res) (hh : s.holdsRequest t (s.spots loc m.payload.length) = true) :
    s.gotPut home t m res = s.waitAt t m := by
  rw [State.gotPut, h]
  exact if_pos hh

variable {res : Res} (hh : s.holdsRequest t (s.spots loc m.payload.length) = false)
include hh

/-- A PUT whose access fails is answered with the failure. -/
theorem State.gotPut_failed {r : Res} {a : Nat} (hr : s.targetRes t [] (s.spots loc m.payload.length) res = r)
    (ha : resOfAccess r = some a) :
    s.gotPut home t m res = (s.countRefused (s.spots loc m.payload.length) r).answer m a := by
  rw [State.gotPut, h]
  refine (if_neg (by simp [hh])).trans ?_
  dsimp only
  rw [hr, ha]

theorem State.gotPut_lost (hr : s.targetRes t [] (s.spots loc m.payload.length) res = .lost) : s.gotPut home t m res = s := by
  rw [State.gotPut, h]
  refine (if_neg (by simp [hh])).trans ?_
  dsimp only
  rw [hr]
  rfl

theorem State.gotPut_ok (hr : s.targetRes t [] (s.spots loc m.payload.length) res = .ok) : s.gotPut home t m res
    = ((s.traffic (s.spots loc m.payload.length) 1 t).writeSpots (s.spots loc m.payload.length) m.payload).answer m 0 := by
  rw [State.gotPut, h]
  refine (if_neg (by simp [hh])).trans ?_
  dsimp only
  rw [hr]
  rfl

end

section
variable (h : s.remoteLoc home t m 0 = .ok loc) (l : Leaf) (host : HostBytes)
include h

theorem State.gotGetReq_held (res : Res) (hh : s.holdsRequest t (s.spots loc m.len) = true) :
    s.gotGetReq home t l m res host = s.waitAt t m := by
  rw [State.gotGetReq, h]
  exact if_pos hh

variable {res : Res} (hh : s.holdsRequest t (s.spots loc m.len) = false)
include hh

/-- A GET_REQ whose access fails is answered with the failure; what asked the host has asked it (R283). -/
theorem State.gotGetReq_failed {r : Res} {a : Nat} (hr : s.targetRes t (s.spots loc m.len) [] res = r)
    (ha : resOfAccess r = some a) : s.gotGetReq home t l m res host
      = ((if r = .hostRefused then s.askHost (s.spots loc m.len) else s).countRefused (s.spots loc m.len) r).answer m a := by
  rw [State.gotGetReq, h]
  refine (if_neg (by simp [hh])).trans ?_
  dsimp only
  rw [hr, ha]

theorem State.gotGetReq_ok (hr : s.targetRes t (s.spots loc m.len) [] res = .ok) :
    s.gotGetReq home t l m res host = s.replyGet t m (s.spots loc m.len) host := by
  rw [State.gotGetReq, h]
  refine (if_neg (by simp [hh])).trans ?_
  dsimp only
  rw [hr]
  exact congrArg (State.replyGet · t m _ host) (State.countEcc_ok _ _)

end
end
end

/-! ### What the traffic of a read leaves (R246, R283) -/

/-- Bytes have moved, and the host may have been asked for some: memory, the composition and the routers' state stay, and a tile
keeps all but its count of bytes. -/
structure State.Moves (s u : State) : Prop where
  mem : u.mem = s.mem
  comp : u.comp = s.comp
  bram : u.bram = s.bram
  out : ∃ ds, u.out = ds ++ s.out
  tile : ∀ k, { u.tile k with memBytes := (s.tile k).memBytes } = s.tile k

theorem State.Moves.refl (s : State) : s.Moves s := ⟨rfl, rfl, rfl, ⟨[], rfl⟩, fun _ => rfl⟩

theorem State.Moves.trans {s u v : State} (h : s.Moves u) (g : u.Moves v) : s.Moves v where
  mem := g.mem.trans h.mem
  comp := g.comp.trans h.comp
  bram := g.bram.trans h.bram
  out := by
    obtain ⟨ds, hd⟩ := h.out
    obtain ⟨es, he⟩ := g.out
    exact ⟨es ++ ds, by rw [he, hd, List.append_assoc]⟩
  tile k := by
    rw [← h.tile k, ← g.tile k]

theorem State.count_moves (s : State) (g i k : Nat) : s.Moves (s.count g i k) := by
  have h := s.count_unlanded g i k
  have hm : (s.count g i k).mem = s.mem ∧ (s.count g i k).out = s.out := by
    unfold State.count
    dsimp only
    split <;> exact ⟨rfl, rfl⟩
  exact ⟨hm.1, (congrArg State.comp h :), (congrArg State.bram h :), ⟨[], hm.2⟩, fun k =>
    congrArg (fun x : Tile => { x with memBytes := (s.tile k).memBytes }) (congrArg (State.tile · k) h :)⟩

theorem State.setTile_moves (s : State) (t n : Nat) : s.Moves (s.setTile t { s.tile t with memBytes := n }) where
  mem := rfl
  comp := rfl
  bram := rfl
  out := ⟨[], rfl⟩
  tile k := by
    by_cases hk : k = t
    · subst hk; rw [State.setTile_tile]
    · rw [State.setTile_tile_ne _ _ _ _ hk]

theorem State.countBytes_moves (s : State) (t n : Nat) : s.Moves (if t < 68 then
    (s.setTile t { s.tile t with memBytes := (s.tile t).memBytes + n }).count t 21 n else s) := by
  split
  · exact (s.setTile_moves ..).trans (State.count_moves ..)
  · exact .refl s

theorem State.portMove_moves (s : State) (m cls master n : Nat) : s.Moves (s.portMove m cls master n) := by
  have hcross : s.Moves (if cls = 0 then s.crossUp (16 + m) (toBytes 8 n) else s.crossDown (16 + m) (toBytes 8 n)) := by
    split <;> exact ⟨rfl, rfl, rfl, ⟨[], rfl⟩, fun _ => rfl⟩
  have hport : ∀ (u : State) (x : Port), u.Moves ((u.setPort m x).count (68 + m) cls n) := fun u x =>
    State.Moves.trans (u := u.setPort m x) ⟨rfl, rfl, rfl, ⟨[], rfl⟩, fun _ => rfl⟩ (State.count_moves ..)
  unfold State.portMove
  dsimp only
  generalize (if cls = 0 then s.crossUp (16 + m) (toBytes 8 n) else s.crossDown (16 + m) (toBytes 8 n)) = u at hcross ⊢
  have hw := (hcross.trans (u.countBytes_moves master n)).trans (hport _ (((if master < 68 then
    (u.setTile master { u.tile master with memBytes := (u.tile master).memBytes + n }).count master 21 n else u).port m).carry cls
      master n))
  exact iteInduction (fun _ => hw) (fun _ => hw.trans (State.count_moves ..))

theorem State.moveLines_moves (s : State) (cls master : Nat) (ls : List Nat) : s.Moves (s.moveLines cls master ls) := by
  unfold State.moveLines
  refine foldl_inv (P := s.Moves) (fun u m hu => ?_) _ _ (.refl s)
  dsimp only
  split
  · exact hu
  · exact hu.trans (State.portMove_moves ..)

theorem State.askHost_moves (s : State) (l : List Spot) : s.Moves (s.askHost l) := by
  unfold State.askHost
  refine foldl_inv (P := s.Moves) (fun u e hu => hu.trans ?_) _ _ (.refl s)
  exact ⟨State.emit_mem .., State.emit_comp .., State.emit_bram .., ⟨[_], rfl⟩, fun k => by rw [State.emit_tile]⟩

theorem State.traffic_moves (s : State) (l : List Spot) (cls master : Nat) : s.Moves (s.traffic l cls master) := by
  unfold State.traffic
  dsimp only
  split
  · exact ((s.askHost_moves l).trans (State.moveLines_moves ..)).trans (State.moveLines_moves ..)
  · exact (State.moveLines_moves ..).trans (State.moveLines_moves ..)

/-- The GET_REPLY to a GET_REQ carries the bytes read; it leaves memory and, but for their counts of bytes, the tiles (R220). -/
theorem State.replyGet_sends {s : State} {t : Nat} {m : Msg} (sp : List Spot) (host : HostBytes) (hp : s.bram.paused = false)
    (ho : s.pairOpen m.bunch m.dst m.src = true) :
    ∃ a ds, (s.replyGet t m sp host).out = .msg a :: ds ++ s.out
      ∧ a.cls = 0x05 ∧ a.dst = m.src ∧ a.src = m.dst ∧ a.param = m.param ∧ a.payload = s.readSpots sp host
      ∧ (s.replyGet t m sp host).mem = s.mem
      ∧ ∀ k, { (s.replyGet t m sp host).tile k with memBytes := (s.tile k).memBytes } = s.tile k := by
  have hm := s.traffic_moves sp 0 t
  unfold State.replyGet
  dsimp only
  generalize s.traffic sp 0 t = v at hm ⊢
  have ho' : v.pairOpen m.bunch m.dst m.src = true := by
    have hb : ∀ b, v.bunchOf b = s.bunchOf b := fun b => by
      rw [State.bunchOf, State.bunchOf, State.findBunch_congr hm.comp]
      simp only [State.bunch, hm.comp]
    rwa [State.pairOpen, hb]
  obtain ⟨enc, keyId, hout⟩ := State.sendMsg_out m.epoch (tget 0 v.stone.gens t) clsGetReply 3 (s.readSpots sp host).length m.param
    (s.readSpots sp host) (hm.bram ▸ hp) ho'
  have hkeep := v.sendMsg_tilesMem m.bunch m.dst m.src m.epoch (tget 0 v.stone.gens t) clsGetReply 3 (s.readSpots sp host).length
    m.param (s.readSpots sp host)
  obtain ⟨ds, hd⟩ := hm.out
  rw [hd] at hout
  refine ⟨_, ds, hout, rfl, rfl, rfl, rfl, rfl, (congrArg Prod.snd hkeep).trans hm.mem, fun k => ?_⟩
  have ht : State.tile (v.sendMsg m.bunch m.dst m.src m.epoch (tget 0 v.stone.gens t) clsGetReply 3 (s.readSpots sp host).length
      m.param (s.readSpots sp host)).2 k = v.tile k := congrArg (tget ({} : Tile) · k) (congrArg Prod.fst hkeep :)
  rw [ht, hm.tile k]

end Sys2Proof.Machine
end

section
/-! PROOFS. The delivery of every class of message (R366). -/

namespace Sys2Proof.Machine

open Sys2Proof.Claims

/-! ### GET_REPLY and ANSWER (R366, R374) -/

/-- A GET_REQ that an operation has sent is the one that a GET_REPLY answers. -/
def repliesTo (m : Msg) (o : EngOp) (u : Sent) : Bool :=
  u.cls == 0x04 && u.dst == m.src && memParam o.ge.toNat (o.gf.toNat + 4096 * u.info) == m.param

theorem State.gotGetReply_settles {s : State} {t : Nat} {m : Msg} {o : EngOp} {y : Sent}
    (ho : (s.tile t).ops.find? (fun o => o.unans.any (repliesTo m o)) = some o) (hy : o.unans.find? (repliesTo m o) = some y) :
    s.gotGetReply t m = (((s.dropSent m.bunch m.dst m.src y.seq).writeAt t (o.gb.toNat + 4096 * y.info) m.payload).markOp t o.id
      (fun o => { o with unans := o.unans.erase y })).proceed t := by
  unfold State.gotGetReply
  dsimp only
  have ho' : (s.tile t).ops.find? (fun o => o.unans.any (fun u =>
      u.cls == clsGetReq && u.dst == m.src && memParam o.ge.toNat (o.gf.toNat + 4096 * u.info) == m.param)) = some o := ho
  have hy' : o.unans.find? (fun u =>
      u.cls == clsGetReq && u.dst == m.src && memParam o.ge.toNat (o.gf.toNat + 4096 * u.info) == m.param) = some y := hy
  rw [ho']
  dsimp only
  rw [hy']

/-- What waits for a message that is settled goes on without touching tiles or memory (R369). -/
theorem State.dropSent_tilesMem (s : State) (b : BitVec 32) (src dst seq : Nat) :
    (s.dropSent b src dst seq).tilesMem = s.tilesMem := by
  unfold State.dropSent State.flushWaits
  exact foldl_part State.tilesMem _ (fun u m => u.queueAway_tilesMem m) _ _

theorem State.dropSent_tile (s : State) (b : BitVec 32) (src dst seq t : Nat) :
    (s.dropSent b src dst seq).tile t = s.tile t :=
  congrArg (fun p : Table Tile × List Host.Cell => tget ({} : Tile) p.1 t) (s.dropSent_tilesMem b src dst seq)

/-- A message that an operation has sent is the one that an ANSWER settles. -/
def answers (m : Msg) (u : Sent) : Bool :=
  u.dst == m.src && u.seq == m.param.toNat % 2 ^ 48 && u.cls == m.param.toNat / 2 ^ 48 % 256

theorem State.gotAnswer_eq {s : State} {t : Nat} {m : Msg} {o : EngOp} {r : Nat}
    (ho : (s.tile t).ops.find? (fun o => o.unans.any (answers m)) = some o) (hr : m.param.toNat / 2 ^ 56 = r) :
    let cls := m.param.toNat / 2 ^ 48 % 256
    let v := (s.dropSent m.bunch m.dst m.src (m.param.toNat % 2 ^ 48)).markOp t o.id (fun o =>
      let o := { o with unans := o.unans.filter (fun u => !answers m u) }
      if r = 0 || r = 7 || r = 12 then o else o.fail (m.param.toNat % 2 ^ 48) (resDetail r))
    let w := if cls = 6 then v.answeredRow t o (match o.unans.find? (answers m) with | some u => u.info | none => 0) r else v
    s.gotAnswer t m = (if r = 12 then w.safetyStop t else w).proceed t := by
  have hr' : fld m.param.toNat 56 8 = r := by
    rw [fld_eq, hr, Nat.mod_eq_of_lt]
    have := m.param.isLt
    omega
  have hcls : fld m.param.toNat 48 8 = m.param.toNat / 2 ^ 48 % 256 := fld_eq ..
  have hseq : fld m.param.toNat 0 48 = m.param.toNat % 2 ^ 48 := fld_zero ..
  intro cls v w
  unfold State.gotAnswer
  dsimp only
  rw [State.dropSent_tile, hr', hcls, hseq]
  have ho' : (s.tile t).ops.find? (fun o => o.unans.any (fun u =>
      u.dst == m.src && u.seq == m.param.toNat % 2 ^ 48 && u.cls == m.param.toNat / 2 ^ 48 % 256)) = some o := ho
  rw [ho']
  rfl

/-- An answer of OK settles its message. -/
theorem State.gotAnswer_ok {s : State} {t : Nat} {m : Msg} {o : EngOp}
    (ho : (s.tile t).ops.find? (fun o => o.unans.any (answers m)) = some o) (hr : m.param.toNat / 2 ^ 56 = 0) :
    s.gotAnswer t m = ((s.dropSent m.bunch m.dst m.src (m.param.toNat % 2 ^ 48)).markOp t o.id (fun o =>
      { o with unans := o.unans.filter (fun u => !answers m u) })).proceed t := by
  refine (State.gotAnswer_eq ho hr).trans ?_
  rw [if_neg (by decide)]
  exact congrArg (State.proceed · t) ((ite_congr rfl (fun _ => if_pos rfl) (fun _ => rfl)).trans (ite_self _))

/-- A failing answer to another message than a row fails its operation (R374). -/
theorem State.gotAnswer_fails {s : State} {t : Nat} {m : Msg} {o : EngOp}
    (ho : (s.tile t).ops.find? (fun o => o.unans.any (answers m)) = some o) {r : Nat} (hr : m.param.toNat / 2 ^ 56 = r)
    (h0 : r ≠ 0) (h7 : r ≠ 7) (h12 : r ≠ 12) (hc : m.param.toNat / 2 ^ 48 % 256 ≠ 6) :
    s.gotAnswer t m = ((s.dropSent m.bunch m.dst m.src (m.param.toNat % 2 ^ 48)).markOp t o.id (fun o =>
      { o with unans := o.unans.filter (fun u => !answers m u) }.fail (m.param.toNat % 2 ^ 48) (resDetail r))).proceed t := by
  refine (State.gotAnswer_eq ho hr).trans ?_
  rw [if_neg h12, if_neg hc]
  simp only [h0, h7, h12, decide_false, Bool.or_self, Bool.false_eq_true, if_false]

/-! ### RETURN (R163) -/

/-- A RETURN's bytes so far: part 0 starts afresh, a later part follows those before it. The tag comes first. -/
def Tile.returnBytes (x : Tile) (m : Msg) : List Byte :=
  (if m.param.toNat / 2 ^ 40 % 256 = 0 then [] else tget [] x.retParts (partsKey m)) ++ m.payload

/-- Key of the combine slot that a RETURN fills: its row and slot. -/
def slotKey (m : Msg) : Nat := m.param.toNat % 2 ^ 32 * 8 + m.param.toNat / 2 ^ 32 % 8

/-- The state in which a RETURN's parts are taken together. -/
def State.gathered (s : State) (t : Nat) (m : Msg) : State :=
  s.setTile t { s.tile t with retParts := tdel (s.tile t).retParts (partsKey m) }

theorem State.gathered_rounds (s : State) (t : Nat) (m : Msg) : ((s.gathered t m).tile t).rounds = (s.tile t).rounds := by
  rw [State.gathered, State.setTile_tile]

/-- The state after a combine slot of a tile has been marked. -/
def State.markSlot (s : State) (t : Nat) (q : Round) (key n : Nat) : State :=
  s.setTile t { s.tile t with rounds := (s.tile t).rounds.map (fun p => p.mark q.round.toNat key n) }

theorem State.gotReturn_part {s : State} {t : Nat} {m : Msg}
    (h : m.param.toNat / 2 ^ 40 % 256 + 1 < m.param.toNat / 2 ^ 48 % 256) : s.gotReturn t m = (s.setTile t { s.tile t with
      retParts := tput (s.tile t).retParts (partsKey m) ((s.tile t).returnBytes m) }).answer m 0 := by
  have hp : fld m.param.toNat 40 8 = m.param.toNat / 2 ^ 40 % 256 := fld_eq ..
  have hq : fld m.param.toNat 48 8 = m.param.toNat / 2 ^ 48 % 256 := fld_eq ..
  unfold State.gotReturn
  dsimp only
  rw [hp, hq]
  exact if_pos h

section
variable {s : State} {t : Nat} {m : Msg} (h : m.param.toNat / 2 ^ 48 % 256 ≤ m.param.toNat / 2 ^ 40 % 256 + 1)
include h

/-- A whole RETURN: the round it is of, its slot in it, and its length decide what becomes of it. -/
theorem State.gotReturn_whole : s.gotReturn t m
    = match ((s.gathered t m).tile t).rounds.find? (fun q => q.round.toNat == tagRound (ofBytes (((s.tile t).returnBytes m).take 16))) with
      | none => (s.gathered t m).answer m 8
      | some q =>
        if tget 2 q.slots (slotKey m) != 0 then (s.gathered t m).answer m 8
        else if (((s.tile t).returnBytes m).drop 16).length != q.retBytes then
          ((s.gathered t m).markSlot t q (slotKey m) 3).answer m 9
        else
          let sp := (s.gathered t m).vaSpots t (BitVec.ofNat 64 (q.cb.toNat
            + (m.param.toNat % 2 ^ 32 * q.k + m.param.toNat / 2 ^ 32 % 8) * q.retBytes)) (((s.tile t).returnBytes m).drop 16).length
          (((((s.gathered t m).traffic sp 1 t).writeSpots sp (((s.tile t).returnBytes m).drop 16)).markSlot t q (slotKey m)
            1).answer m 0) := by
  have hp : fld m.param.toNat 40 8 = m.param.toNat / 2 ^ 40 % 256 := fld_eq ..
  have hq : fld m.param.toNat 48 8 = m.param.toNat / 2 ^ 48 % 256 := fld_eq ..
  have h0 : fld m.param.toNat 0 32 = m.param.toNat % 2 ^ 32 := fld_zero ..
  have h3 : fld m.param.toNat 32 3 = m.param.toNat / 2 ^ 32 % 8 := fld_eq ..
  unfold State.gotReturn
  dsimp only
  rw [hp, hq, h0, h3]
  exact if_neg (by omega)

theorem State.gotReturn_noRound (hr : (s.tile t).rounds.find?
      (fun q => q.round.toNat == tagRound (ofBytes (((s.tile t).returnBytes m).take 16))) = none) :
    s.gotReturn t m = (s.gathered t m).answer m 8 := by
  rw [State.gotReturn_whole h, State.gathered_rounds, hr]

section
variable {q : Round} (hr : (s.tile t).rounds.find?
      (fun q => q.round.toNat == tagRound (ofBytes (((s.tile t).returnBytes m).take 16))) = some q)
include hr

theorem State.gotReturn_closed (hq : tget 2 q.slots (slotKey m) ≠ 0) : s.gotReturn t m = (s.gathered t m).answer m 8 := by
  rw [State.gotReturn_whole h, State.gathered_rounds, hr]
  exact if_pos (by simp [hq])

variable (hq : tget 2 q.slots (slotKey m) = 0)
include hq

theorem State.gotReturn_length (hl : (((s.tile t).returnBytes m).drop 16).length ≠ q.retBytes) :
    s.gotReturn t m = ((s.gathered t m).markSlot t q (slotKey m) 3).answer m 9 := by
  rw [State.gotReturn_whole h, State.gathered_rounds, hr]
  exact (if_neg (by simp [hq])).trans (if_pos (bne_iff_ne.mpr hl))

theorem State.gotReturn_written (hl : (((s.tile t).returnBytes m).drop 16).length = q.retBytes) :
    let sp := (s.gathered t m).vaSpots t (BitVec.ofNat 64 (q.cb.toNat
      + (m.param.toNat % 2 ^ 32 * q.k + m.param.toNat / 2 ^ 32 % 8) * q.retBytes)) q.retBytes
    s.gotReturn t m = ((((s.gathered t m).traffic sp 1 t).writeSpots sp (((s.tile t).returnBytes m).drop 16)).markSlot t q
      (slotKey m) 1).answer m 0 := by
  rw [State.gotReturn_whole h, State.gathered_rounds, hr]
  refine (if_neg (by simp [hq])).trans ((if_neg (by simp only [hl, bne_self_eq_false, Bool.false_eq_true, not_false_eq_true])).trans ?_)
  dsimp only
  rw [hl]

end
end

/-! ### The other classes (R343, R335, R366, R379) -/

theorem State.gotMark_eq (s : State) (t : Nat) (m : Msg) : s.gotMark t m = ((s.updBunch m.bunch (fun y =>
    if y.freezeNo + (if y.freezing.isSome then 0 else 1) = BitVec.ofNat 32 m.param.toNat then
      { y with marks := markKey t m.src m.chan :: y.marks } else y)).answer m 0).tryFrozen m.bunch := by
  have h : BitVec.ofNat 32 (fld m.param.toNat 0 32) = BitVec.ofNat 32 m.param.toNat := by
    rw [fld_zero]
    apply BitVec.eq_of_toNat_eq
    simp
  unfold State.gotMark
  rw [h]
  simp only [beq_iff_eq]
  rfl

theorem State.gotEpoch_eq (s : State) (l : Leaf) (m : Msg) : s.gotEpoch l m = ((s.updBunch m.bunch (fun x =>
    if m.param.toNat / 2 ^ 16 % 2 ^ 8 = 1 ∧ BitVec.ofNat 16 m.param.toNat + 1 = x.epoch ∧ l.module ∉ x.drained then
      { x with drained := l.module :: x.drained } else x)).answer m 0).tryRetire m.bunch := by
  have h : BitVec.ofNat 16 (fld m.param.toNat 0 16) = BitVec.ofNat 16 m.param.toNat := by
    rw [fld_zero]
    apply BitVec.eq_of_toNat_eq
    simp
  unfold State.gotEpoch
  rw [h, fld_eq]
  simp only [Bool.and_eq_true, decide_eq_true_eq, beq_iff_eq, Bool.not_eq_true', List.contains_eq_mem, decide_eq_false_iff_not,
    and_assoc]
  rfl

theorem State.gotLost_eq (s : State) (m : Msg) : s.gotLost m = (s.answer m 0).loseRanks m.bunch
    ((List.range (min (ofBytes m.payload) (s.bunchOf m.bunch).map.length)).map (m.param.toNat % 2 ^ 24 + ·)) := rfl

/-- Credits of a kind join those that its rank gave before (R366). -/
theorem State.addCredit_eq (s : State) (t : Nat) (m : Msg) : s.addCredit t m = s.setTile t { s.tile t with
    credits := tput (s.tile t).credits (creditKey (m.param.toNat % 256) m.src)
      (tget 0 (s.tile t).credits (creditKey (m.param.toNat % 256) m.src) + ofBytes m.payload) } := by
  have h : fld m.param.toNat 0 8 = m.param.toNat % 256 := fld_zero ..
  rw [State.addCredit, h]

/-! ### What being heard leaves -/

section
variable {s : State} {m : Msg} {i : Nat} (hf : s.findBunch m.bunch = some i) (l : Leaf)
include hf

/-- A message that is heard finds its bunch's record as it was, but for what its pair has seen and whom it has heard. -/
theorem heard_bunchOf : ∃ seqs alive, (heard (s.landed m) m i l).bunchOf m.bunch
    = { s.bunch i with lastSeq := seqs, alive := alive } := by
  have hfound : (heard (s.landed m) m i l).findBunch m.bunch = some i :=
    (State.findBunch_setBunch (s.landed m) i _ m.bunch (by rfl) (by rfl)).trans
      ((State.findBunch_congr (s.landed_comp m) _).trans hf)
  have hb : (s.landed m).bunch i = s.bunch i := by rw [State.bunch, State.bunch, State.landed_comp]
  rw [State.bunchOf_of_find hfound, heard, State.setBunch_bunch, hb]
  exact ⟨_, _, rfl⟩

theorem heard_map : ((heard (s.landed m) m i l).bunchOf m.bunch).map = (s.bunch i).map := by
  obtain ⟨_, _, h⟩ := heard_bunchOf hf l
  rw [h]

theorem heard_pairOpen (src dst : Nat) : (heard (s.landed m) m i l).pairOpen m.bunch src dst = s.pairOpen m.bunch src dst := by
  obtain ⟨_, _, h⟩ := heard_bunchOf hf l
  rw [State.pairOpen, State.pairOpen, h, State.bunchOf_of_find hf]

end

/-- Being heard touches the bunch's record, and the message's way within the module. -/
theorem heard_landed (s : State) (m : Msg) (i : Nat) (l : Leaf) :
    (heard (s.landed m) m i l).out = s.out ∧ (heard (s.landed m) m i l).mem = s.mem
      ∧ (heard (s.landed m) m i l).bram.paused = s.bram.paused ∧ (heard (s.landed m) m i l).tiles = s.tiles := by
  unfold State.landed
  split <;> exact ⟨rfl, rfl, rfl, rfl⟩

end Sys2Proof.Machine
end

section
/-! PROOFS. A message that passes its checks, class by class (R157, R163, R191, R219, R220, R335, R343, R366, R373, R374, R379). -/

namespace Sys2Proof.Machine

open Sys2Proof.Claims

/-! ### A row or marker at its intake -/

theorem arriveRow_spec (w : State) (t : Nat) (m : Msg) (hcls : m.cls = 0x06 ∨ m.cls = 0x07) :
    ((w.tile t).early.any (sameRoute m) = true → w.arriveRow t m = waitsAt w t m)
    ∧ ((w.tile t).early.any (sameRoute m) = false →
        let n := m.param.toNat % 4
        let k := (w.tile t).intake n
        let put := fun (y : Intake) => w.setTile t ((w.tile t).setIntake n y)
        let whole := m.cls = 0x07 ∨ m.param.toNat / 2 ^ 24 % 256 ≤ m.param.toNat / 2 ^ 16 % 256 + 1
        (¬ whole → w.arriveRow t m
          = (put { k with parts := tput k.parts (partsKey m) (k.rowBytesOf m) }).answer m 0)
        ∧ (whole → k.timing (k.msgRound m) = 2 → w.arriveRow t m = waitsAt w t m)
        ∧ (whole → k.timing (k.msgRound m) = 1 → w.arriveRow t m
            = (put { k with parts := tdel k.parts (partsKey m) }).answer m 8)
        ∧ (m.cls = 0x07 → k.timing (k.msgRound m) = 0 →
            let y := { k with markers := if m.src ∈ k.markers then k.markers else k.markers ++ [m.src] }
            w.arriveRow t m = (put (if y.origins ≤ y.markers.length then y.close false else y)).answer m 0)
        ∧ (m.cls = 0x06 → whole → k.timing (k.msgRound m) = 0 →
            let row := (k.rowBytesOf m).drop 16
            (row.length ≠ k.rowBytes →
              w.arriveRow t m = (put { k with parts := tdel k.parts (partsKey m) }).answer m 9)
            ∧ (row.length = k.rowBytes → rowSpilled m = false → rowBlock m = false → tget 0 k.counts m.src < k.quota →
              let v := w.placeRow t n m.src false row (ofBytes ((k.rowBytesOf m).take 16))
              let z := (v.tile t).intake n
              w.arriveRow t m = (v.setTile t ((v.tile t).setIntake n
                { z with parts := tdel z.parts (partsKey m) })).answer m 0))) := by
  refine ⟨State.arriveRow_behind, fun hn => ?_⟩
  rw [← rowIntake_eq, ← rowPart_eq, ← rowParts_eq]
  intro n k put whole
  refine ⟨fun hw => ?_, fun hw hr => ?_, fun hw hr => ?_, fun hc hr => ?_, fun hc hw hr => ⟨fun hl => ?_, fun hl hs hb hq => ?_⟩⟩
  · have h6 : m.cls = 0x06 := hcls.resolve_right fun h7 => hw (.inl h7)
    exact State.arriveRow_taken hn (w.tryIntake_part t h6 (by omega))
  · exact State.arriveRow_waits hn (State.tryIntake_early hw hr)
  · exact State.arriveRow_taken hn (State.tryIntake_past hw hr)
  · exact State.arriveRow_taken hn (State.tryIntake_marker hc hr)
  · have hw' : rowParts m ≤ rowPart m + 1 := hw.resolve_left (by omega)
    exact State.arriveRow_taken hn (State.tryIntake_row hc hw' hr (State.acceptRow_length _ _ _ _ hl))
  · have hw' : rowParts m ≤ rowPart m + 1 := hw.resolve_left (by omega)
    refine State.arriveRow_taken hn (State.tryIntake_row hc hw' hr ?_)
    rw [hs, hb]
    exact State.acceptRow_placed _ hl hq

/-- A message of a class that reaches no memory leads to what its class does with it. -/
theorem exec_plainMessage_delivers {s : State} {m : Msg} {i : Nat} {d l : Leaf} (h : Reaches s m i d l) {k : Nat}
    (hk : k ≠ 0x03 ∧ k ≠ 0x04 ∧ k ≠ 0x08) {c : Instr} {f : State → State} (hr : (c, k, f) ∈ messageRows m .ok []) (hc : m.cls = k)
    {u : State} (hu : (heard (s.landed m) m i l).deliver d.tile l m .ok [] = u) : exec c s = .next (f u) := by
  subst hc
  rw [exec_plainMessage h hk hr, hu]

/-- Settles O33: a message that passes its checks is delivered, and the lemmas above say what its class does. -/
theorem messageDelivery : Obligations.MessageDelivery := by
  unfold Obligations.MessageDelivery
  intro s m i d l h w t x
  obtain ⟨hout, hmem, hpaused, htiles⟩ := heard_landed s m i l
  have hf : s.findBunch m.bunch = some i := h.2.2.2.1
  refine ⟨fun b hb r hr hc => ?_, fun hn => ⟨fun hc => ?_, State.holdSend_idle m, fun r hr hc => ?_, fun r hr hc => ?_⟩,
    fun hc res hl hs => ?_, fun hc res host hl hs => ?_, fun hc o y ho hy => ?_, fun hc o ho => ⟨fun hr => ?_, ?_⟩,
    fun hc hs => ⟨fun hp => ?_, fun hp => ⟨fun hr => ?_, fun q hr => ⟨fun hq => ?_, fun hq hlen => ?_,
      fun hq hlen => ?_⟩⟩⟩, fun hc => ?_, fun hc => ?_, fun hc => ?_, fun hc => ?_, fun hc => ?_⟩
  · exact (exec_heldMessage h r hr hc).trans (congrArg _ (State.gotHeld_captured hb))
  · refine (exec_heldMessage h (.sendMessage m, 0x02) (by simp [heldRows]) hc).trans (congrArg _ ?_)
    rw [State.gotHeld_held hn (by omega)]
    exact State.giveHeld_send _ _ hc
  · have hcls : m.cls = 0x0A ∨ m.cls = 0x0B ∨ m.cls = 0x0C := by
      simp only [List.mem_cons, List.not_mem_nil, or_false] at hr
      rcases hr with rfl | rfl | rfl <;> simp [hc]
    have hx := exec_heldMessage h r (List.mem_cons_of_mem _ (List.mem_cons_of_mem _ (List.mem_cons_of_mem _ hr))) hc
    rw [State.gotHeld_held hn (by omega)] at hx
    exact ⟨fun hroom => hx.trans (congrArg _ (State.giveHeld_contrib_waits hcls hroom)),
      fun hroom hno => hx.trans (congrArg _ (State.giveHeld_contrib_joins hcls hroom hno)), Tile.contribRoom_idle m⟩
  · have hcls : m.cls = 0x06 ∨ m.cls = 0x07 := by
      simp only [List.mem_cons, List.not_mem_nil, or_false] at hr
      rcases hr with rfl | rfl <;> simp [hc]
    have hmem : r ∈ heldRows m := by
      simp only [List.mem_cons, List.not_mem_nil, or_false] at hr
      rcases hr with rfl | rfl <;> simp [heldRows]
    exact ⟨(exec_heldMessage h r hmem hc).trans (congrArg _ (State.gotHeld_row hn hcls)), arriveRow_spec w t m hcls⟩
  · rw [exec_putMessage_delivered h hc hl hs]
    refine ⟨fun e he => congrArg _ (State.gotPut_rejected res he), fun loc hloc => ⟨fun hh =>
      congrArg _ (State.gotPut_held hloc res hh), fun hh => ⟨fun hr => ?_, fun hr => ?_, fun hr => ?_, fun hr => ?_, fun hr => ?_⟩⟩⟩
    · exact congrArg _ ((State.gotPut_failed hloc hh hr (a := 10) rfl).trans (by rw [State.countRefused_other _ _ (by decide)]))
    · exact congrArg _ (State.gotPut_failed hloc hh rfl (congrArg resOfAccess hr))
    · exact congrArg _ ((State.gotPut_failed hloc hh hr (a := 11) rfl).trans (by rw [State.countRefused_other _ _ (by decide)]))
    · exact congrArg _ (State.gotPut_lost hloc hh hr)
    · exact congrArg _ (State.gotPut_ok hloc hh hr)
  · rw [exec_getReqMessage_delivered h hc host hl hs]
    refine ⟨fun e he => congrArg _ (State.gotGetReq_rejected l res host he), fun loc hloc => ⟨fun hh =>
      congrArg _ (State.gotGetReq_held hloc l host res hh), fun hh => ⟨fun hr => ?_, fun hr => ?_, fun hr => ?_, fun hr hp ho => ?_⟩⟩⟩
    · refine congrArg _ ((State.gotGetReq_failed hloc l host hh hr (a := 10) rfl).trans ?_)
      rw [if_neg (by decide), State.countRefused_other _ _ (by decide)]
    · refine congrArg _ ((State.gotGetReq_failed hloc l host hh rfl (congrArg resOfAccess hr)).trans ?_)
      rw [if_neg (by rw [hr]; decide)]
      rfl
    · refine congrArg _ ((State.gotGetReq_failed hloc l host hh hr (a := 11) rfl).trans ?_)
      rw [if_pos rfl, State.countRefused_other _ _ (by decide)]
    · obtain ⟨a, ds, hu, h1, h2, h3, h4, h5, h6, h7⟩ := State.replyGet_sends (s := w) (t := t) (m := m) (w.spots loc m.len) host
        (hpaused.trans hp) ((heard_pairOpen hf l _ _).trans ho)
      refine ⟨_, a, ds, congrArg _ (State.gotGetReq_ok hloc l host hh hr), hu.trans (by rw [hout]), h1, h2, h3, h4, h5,
        h6.trans hmem, fun k => ?_⟩
      have hk : w.tile k = s.tile k := congrArg (tget ({} : Tile) · k) htiles
      rw [← hk]
      exact h7 k
  · refine exec_plainMessage_delivers h (c := .getReplyMessage m) (f := id) (by decide) (by simp [messageRows]) hc ?_
    rw [State.deliver, hc]
    exact State.gotGetReply_settles ho hy
  · refine exec_plainMessage_delivers h (c := .answerMessage m) (f := id) (by decide) (by simp [messageRows]) hc ?_
    rw [State.deliver, hc]
    exact State.gotAnswer_ok ho hr
  · intro h0 h7 h12 h6
    refine exec_plainMessage_delivers h (c := .answerMessage m) (f := id) (by decide) (by simp [messageRows]) hc ?_
    rw [State.deliver, hc]
    exact State.gotAnswer_fails ho rfl h0 h7 h12 h6
  · exact (exec_returnMessage_delivered h hc hs).trans (congrArg _ (State.gotReturn_part hp))
  · exact (exec_returnMessage_delivered h hc hs).trans (congrArg _ (State.gotReturn_noRound hp hr))
  · exact (exec_returnMessage_delivered h hc hs).trans (congrArg _ (State.gotReturn_closed hp hr hq))
  · exact (exec_returnMessage_delivered h hc hs).trans (congrArg _ (State.gotReturn_length hp hr hq hlen))
  · exact (exec_returnMessage_delivered h hc hs).trans (congrArg _ (State.gotReturn_written hp hr hq hlen))
  · refine exec_plainMessage_delivers h (c := .creditMessage m) (f := id) (by decide) (by simp [messageRows]) hc ?_
    rw [State.deliver, hc]
    exact congrArg (fun u => (State.answer u m 0).proceed t) (State.addCredit_eq w t m)
  · refine exec_plainMessage_delivers h (c := .heartbeatMessage m) (f := id) (by decide) (by simp [messageRows]) hc ?_
    rw [State.deliver, hc]
    rfl
  · refine exec_plainMessage_delivers h (c := .freezeMarkMessage m) (f := id) (by decide) (by simp [messageRows]) hc ?_
    rw [State.deliver, hc]
    exact State.gotMark_eq w t m
  · refine exec_plainMessage_delivers h (c := .epochMessage m) (f := State.goOn) (by decide) (by simp [messageRows]) hc ?_
    rw [State.deliver, hc]
    exact State.gotEpoch_eq w l m
  · refine exec_plainMessage_delivers h (c := .memberLostMessage m) (f := id) (by decide) (by simp [messageRows]) hc ?_
    rw [State.deliver, hc]
    have hmap : (w.bunchOf m.bunch).map = (s.bunch i).map := heard_map hf l
    rw [← hmap]
    exact State.gotLost_eq w m

end Sys2Proof.Machine
end

section
/-! PROOFS. A tile's generation is counted by its reset alone, and the grafts in progress change by graft steps alone (R325, R337):
every other operation that a reset sets off keeps both. The lemmas stand in the order of the operations' definitions. -/

namespace Sys2Proof.Machine

/-- Two states have the same generations of tiles and the same grafts in progress. -/
@[simp, reducible] def State.SamePlaces (s u : State) : Prop := u.stone.gens = s.stone.gens ∧ u.comp.grafts = s.comp.grafts

theorem State.SamePlaces.refl (s : State) : s.SamePlaces s := ⟨rfl, rfl⟩

theorem State.SamePlaces.trans {s u v : State} (h : s.SamePlaces u) (g : u.SamePlaces v) : s.SamePlaces v :=
  ⟨g.1.trans h.1, g.2.trans h.2⟩

@[simp] theorem foldl_gens {α : Type} {f : State → α → State} (h : ∀ s a, (f s a).stone.gens = s.stone.gens) (l : List α)
    (s : State) : (l.foldl f s).stone.gens = s.stone.gens := foldl_part (fun s : State => s.stone.gens) f h l s

@[simp] theorem foldl_grafts {α : Type} {f : State → α → State} (h : ∀ s a, (f s a).comp.grafts = s.comp.grafts) (l : List α)
    (s : State) : (l.foldl f s).comp.grafts = s.comp.grafts := foldl_part (fun s : State => s.comp.grafts) f h l s

theorem foldl_places {α : Type} {f : State → α → State} (h : ∀ (s : State) (a : α), s.SamePlaces (f s a)) (l : List α)
    (s : State) : s.SamePlaces (l.foldl f s) := ⟨foldl_gens (fun s a => (h s a).1) l s, foldl_grafts (fun s a => (h s a).2) l s⟩

@[simp] theorem ite_gens (c : Prop) [Decidable c] (s u : State) : (if c then s else u).stone.gens
    = if c then s.stone.gens else u.stone.gens := apply_ite (fun s : State => s.stone.gens) c s u

@[simp] theorem ite_grafts (c : Prop) [Decidable c] (s u : State) : (if c then s else u).comp.grafts
    = if c then s.comp.grafts else u.comp.grafts := apply_ite (fun s : State => s.comp.grafts) c s u

/-- The state in a pair that an operation answers. -/
theorem places_of_fst {β : Type} {p : State × β} {s u : State} {b : β} (h : p = (u, b)) (hp : s.SamePlaces p.1) :
    s.SamePlaces u := by
  subst h; exact hp

/-! ### Machine/Ops -/

@[simp] theorem State.setTile_places (s : State) (t : Nat) (x : Tile) : s.SamePlaces (s.setTile t x) := by simp [State.setTile]

@[simp] theorem State.setCore_places (s : State) (t : Nat) (c : Core) : s.SamePlaces (s.setCore t c) := by simp [State.setCore]

@[simp] theorem State.updBunch_places (s : State) (id : BitVec 32) (f : Bunch → Bunch) : s.SamePlaces (s.updBunch id f) := by
  unfold State.updBunch
  split <;> simp

@[simp] theorem State.draw_places (s : State) (w : Nat) : s.SamePlaces (s.draw w).2 := by simp [State.draw]

@[simp] theorem State.nextSeq_places (s : State) (src : BitVec 32) : s.SamePlaces (s.nextSeq src).2 := by simp [State.nextSeq]

@[simp] theorem State.msix_places (s : State) (v : Nat) : s.SamePlaces (s.msix v) := by simp [State.msix]

@[simp] theorem State.sendEvents_places (s : State) (body : List Byte) : s.SamePlaces (s.sendEvents body) := by
  simp [State.sendEvents]

@[simp] theorem State.faultAt_places (s : State) (pac : Word) (src : BitVec 32) (code : BitVec 16) (ctx : Option Nat)
    (safety : Bool) (detail : BitVec 64) :
    s.SamePlaces (s.faultAt pac src code ctx safety detail) := by
  simp [State.faultAt]

@[simp] theorem State.fault_places (s : State) (src : BitVec 32) (code : BitVec 16) (ctx : Option Nat) (safety : Bool)
    (detail : BitVec 64) :
    s.SamePlaces (s.fault src code ctx safety detail) := by
  simp [State.fault]

@[simp] theorem State.raiseSafety_places (s : State) (row : Nat) (src : BitVec 32) (ctxs : List Nat) (detail : BitVec 64) :
    s.SamePlaces (s.raiseSafety row src ctxs detail) := by
  simp [State.raiseSafety]

@[simp] theorem State.count_places (s : State) (g i k : Nat) : s.SamePlaces (s.count g i k) := by simp [State.count]

@[simp] theorem State.recordIrq_places (s : State) (q : Nat) (noIrq : Bool) : s.SamePlaces (s.recordIrq q noIrq) := by
  simp [State.recordIrq]

@[simp] theorem State.writeRecord_places (s : State) (q : Nat) (seq : BitVec 32) (status layer op : BitVec 16)
    (detail : BitVec 32) (flags : BitVec 16) (energy : BitVec 32) (noIrq : Bool) :
    s.SamePlaces (s.writeRecord q seq status layer op detail flags energy noIrq) := by
  simp [State.writeRecord]

@[simp] theorem State.dropRef_places (s : State) (h : Nat) : s.SamePlaces (s.dropRef h) := by simp [State.dropRef]

@[simp] theorem State.endCmd_places (s : State) (q : Nat) (seq : BitVec 32) (status : BitVec 16) (detail : BitVec 32)
    (flags : BitVec 16) :
    s.SamePlaces (s.endCmd q seq status detail flags) := by
  unfold State.endCmd
  split <;> simp

@[simp] theorem State.endMarkers_places (q : Nat) : ∀ (n : Nat) (s : State), s.SamePlaces (State.endMarkers q n s)
  | 0, _ => ⟨rfl, rfl⟩
  | n + 1, s => by
    unfold State.endMarkers
    split
    · split
      · exact (State.endCmd_places ..).trans (State.endMarkers_places q n _)
      · exact .refl s
    · exact .refl s

@[simp] theorem State.writeCredit_places (s : State) (q : Nat) : s.SamePlaces (s.writeCredit q) := by simp [State.writeCredit]

@[simp] theorem State.finishCmd_places (s : State) (q : Nat) (seq : BitVec 32) (status : BitVec 16) (detail : BitVec 32)
    (flags : BitVec 16) :
    s.SamePlaces (s.finishCmd q seq status detail flags) := by
  simp [State.finishCmd]

@[simp] theorem State.updCmd_places (s : State) (q : Nat) (seq : BitVec 32) (f : QCmd → QCmd) :
    s.SamePlaces (s.updCmd q seq f) := by
  simp [State.updCmd]

@[simp] theorem State.endWait_places (s : State) (q : Nat) (c : QCmd) (f r : Nat) : s.SamePlaces (s.endWait q c f r) := by
  simp [State.endWait]

@[simp] theorem State.evalHostWaits_places (s : State) (f : Nat) : s.SamePlaces (s.evalHostWaits f) := by
  unfold State.evalHostWaits
  refine foldl_places (fun u e => foldl_places (fun v c => ?_) _ _) _ _
  split
  · split <;> simp
  · exact .refl v

@[simp] theorem State.flagFence_places (s : State) (f : Nat) (status : BitVec 16) : s.SamePlaces (s.flagFence f status) := by
  simp [State.flagFence]

@[simp] theorem State.loadImage_places (s : State) (kind i : Nat) : s.SamePlaces (s.loadImage kind i) := by simp [State.loadImage]

/-! ### Machine/Domains -/

@[simp] theorem State.evalDom_places (s : State) (d : Nat) : s.SamePlaces (s.evalDom d) :=
  ⟨(congrArg (fun u => u.stone.gens) (s.evalDom_unpowered d) :), (congrArg (fun u => u.comp.grafts) (s.evalDom_unpowered d) :)⟩

@[simp] theorem State.revote_places (s : State) : s.SamePlaces s.revote :=
  ⟨(congrArg (fun u => u.stone.gens) s.revote_unpowered :), (congrArg (fun u => u.comp.grafts) s.revote_unpowered :)⟩

/-! ### Machine/Segments -/

@[simp] theorem State.pokeSpots_places (s : State) (l : List (Spot × Byte)) : s.SamePlaces (s.pokeSpots l) :=
  ⟨(congrArg (fun u => u.stone.gens) (s.pokeSpots_unlanded l) :), (congrArg (fun u => u.comp.grafts) (s.pokeSpots_unlanded l) :)⟩

@[simp] theorem State.renewLines_places (s : State) (l : List Spot) : s.SamePlaces (s.renewLines l) := by simp [State.renewLines]

@[simp] theorem State.writeSpots_places (s : State) (l : List Spot) (bs : List Byte) : s.SamePlaces (s.writeSpots l bs) := by
  simp [State.writeSpots]

/-! ### Machine/Access -/

@[simp] theorem State.partialWrite_places (s : State) (l : List Spot) (bs : List Byte) : s.SamePlaces (s.partialWrite l bs) := by
  simp [State.partialWrite]

@[simp] theorem State.partialCopy_places (s : State) (rd wr : List Spot) (bs : List Byte) (bad : List Nat) :
    s.SamePlaces (s.partialCopy rd wr bs bad) := by
  simp [State.partialCopy]

@[simp] theorem State.countLine_places (s : State) (res : Res) (n : Nat) : s.SamePlaces (s.countLine res n) := by
  unfold State.countLine
  split <;> simp

@[simp] theorem State.countEcc_places (s : State) (l : List Spot) (res : Res) : s.SamePlaces (s.countEcc l res) := by
  simp [State.countEcc]

@[simp] theorem State.raiseUe_places (s : State) (lines ctxs : List Nat) : s.SamePlaces (s.raiseUe lines ctxs) := by
  simp [State.raiseUe]

@[simp] theorem State.ueRead_places (s : State) (l : List Spot) (ctxs : List Nat) : s.SamePlaces (s.ueRead l ctxs) := by
  simp [State.ueRead]

@[simp] theorem State.portMove_places (s : State) (m cls master n : Nat) : s.SamePlaces (s.portMove m cls master n) := by
  simp [State.portMove]

@[simp] theorem State.moveLines_places (s : State) (cls master : Nat) (ls : List Nat) :
    s.SamePlaces (s.moveLines cls master ls) := by
  simp [State.moveLines]

@[simp] theorem State.askHost_places (s : State) (l : List Spot) : s.SamePlaces (s.askHost l) := by simp [State.askHost]

@[simp] theorem State.traffic_places (s : State) (l : List Spot) (cls master : Nat) : s.SamePlaces (s.traffic l cls master) := by
  simp [State.traffic]

@[simp] theorem State.mirrorServed_places (s : State) (a k : Nat) : s.SamePlaces (s.mirrorServed a k) := by
  simp [State.mirrorServed]

@[simp] theorem State.serveCopies_places (s : State) (l : List Spot) : s.SamePlaces (s.serveCopies l) := by
  unfold State.serveCopies
  refine foldl_places (fun u n => ?_) _ _
  split <;> simp

@[simp] theorem State.countRefused_places (s : State) (l : List Spot) (res : Res) : s.SamePlaces (s.countRefused l res) := by
  simp [State.countRefused]

@[simp] theorem State.wakeFor_places (s : State) (self : Nat) (l : List Spot) : s.SamePlaces (s.wakeFor self l) := by
  simp [State.wakeFor]

@[simp] theorem State.discarded_places (s : State) (n : Nat) : s.SamePlaces (s.discarded n) := by simp [State.discarded]

@[simp] theorem State.sendCut_places (s : State) (r : Nat) (l : List Spot) : s.SamePlaces (s.sendCut r l) := by simp [State.sendCut]

/-! ### Machine/Observe -/

@[simp] theorem State.smpPut_places (s : State) (line : Nat) (bs : List Byte) : s.SamePlaces (s.smpPut line bs) := by
  simp [State.smpPut]

@[simp] theorem State.smpRecord_places (s : State) (src : BitVec 32) (lines : Nat) (body : List Byte)
    (hdr : BitVec 32 → Nat → Bool → List Byte) :
    s.SamePlaces (s.smpRecord src lines body hdr) := by
  simp [State.smpRecord]

@[simp] theorem State.bankRecord_places (s : State) (g kind : Nat) (bank : Table Nat) :
    s.SamePlaces (s.bankRecord g kind bank) := by
  simp [State.bankRecord]

@[simp] theorem State.bankSwap_places (s : State) (g : Nat) (ctx : Option Nat) (layer op : BitVec 16) (seq : BitVec 32)
    (conf : Bool) :
    s.SamePlaces (s.bankSwap g ctx layer op seq conf) := by
  simp [State.bankSwap]

@[simp] theorem State.traceFlush_places (s : State) (t : Nat) : s.SamePlaces (s.traceFlush t) := by simp [State.traceFlush]

@[simp] theorem State.traceEmit_places (s : State) (t : Nat) (full : Bool) (type code : Nat) (value : Word) :
    s.SamePlaces (s.traceEmit t full type code value) := by
  simp [State.traceEmit]

/-! ### Machine/Flits -/

@[simp] theorem State.queueMsg_places (s : State) (x : Nat) (m : Msg) : s.SamePlaces (s.queueMsg x m) := by simp [State.queueMsg]

@[simp] theorem State.wakeRunners_places (s : State) (b : BitVec 32) : s.SamePlaces (s.wakeRunners b) := by simp [State.wakeRunners]

@[simp] theorem State.queueAway_places (s : State) (m : Msg) : s.SamePlaces (s.queueAway m) := by
  unfold State.queueAway
  split <;> simp

@[simp] theorem State.flushWaits_places (s : State) : s.SamePlaces (s.flushWaits) := by simp [State.flushWaits]

/-! ### Machine/Messages -/

@[simp] theorem State.postNear_places (s : State) (m : Msg) : s.SamePlaces (s.postNear m) := by simp [State.postNear]

@[simp] theorem State.post_places (s : State) (m : Msg) : s.SamePlaces (s.post m) := by simp [State.post]

@[simp] theorem State.sendMsg_places (s : State) (b : BitVec 32) (src dst : Nat) (epoch : BitVec 16) (gen : BitVec 32)
    (cls chan len : Nat) (param : BitVec 64) (payload : List Byte) :
    s.SamePlaces (s.sendMsg b src dst epoch gen cls chan len param payload).2 := by
  unfold State.sendMsg
  split <;> simp

@[simp] theorem State.dropSent_places (s : State) (b : BitVec 32) (src dst seq : Nat) :
    s.SamePlaces (s.dropSent b src dst seq) := by
  simp [State.dropSent]

@[simp] theorem State.answer_places (s : State) (m : Msg) (result : Nat) : s.SamePlaces (s.answer m result) := by
  unfold State.answer
  dsimp only
  repeat' split
  all_goals simp

@[simp] theorem State.sendCredit_places (s : State) (t : Nat) (m : Msg) : s.SamePlaces (s.sendCredit t m) := by
  simp [State.sendCredit]

@[simp] theorem State.addCredit_places (s : State) (t : Nat) (m : Msg) : s.SamePlaces (s.addCredit t m) := by simp [State.addCredit]

/-! ### Machine/Intake -/

@[simp] theorem State.putRowAt_places (s : State) (t va tagVa n rowBytes : Nat) (row : List Byte) (tag : Nat) :
    s.SamePlaces (s.putRowAt t va tagVa n rowBytes row tag) := by
  simp [State.putRowAt]

@[simp] theorem State.placeRow_places (s : State) (t i src : Nat) (block : Bool) (row : List Byte) (tag : Nat) :
    s.SamePlaces (s.placeRow t i src block row tag) := by
  simp [State.placeRow]

@[simp] theorem State.countBreach_places (s : State) (t i : Nat) (quota : Bool) : s.SamePlaces (s.countBreach t i quota) := by
  simp [State.countBreach]

@[simp] theorem State.spillRow_places (s : State) (t i tag : Nat) (row : List Byte) : s.SamePlaces (s.spillRow t i tag row).1 := by
  unfold State.spillRow
  dsimp only
  repeat' split
  all_goals simp

@[simp] theorem State.acceptRow_places (s : State) (t i src : Nat) (spilled block : Bool) (tag : Nat) (row : List Byte) :
    s.SamePlaces (s.acceptRow t i src spilled block tag row).1 := by
  unfold State.acceptRow
  dsimp only
  repeat' split
  all_goals simp

@[simp] theorem State.tryIntake_places (s : State) (t : Nat) (m : Msg) : s.SamePlaces (s.tryIntake t m).1 := by
  have hrow := fun i sp bl tag row => s.acceptRow_places t i m.src sp bl tag row
  unfold State.tryIntake
  dsimp only
  split
  · simp
  · split
    · exact .refl s
    · simp
    · split
      · simp
      · split
        · next h => exact places_of_fst h (hrow ..)
        · next h => exact (places_of_fst h (hrow ..)).trans (State.setTile_places ..)

@[simp] theorem State.tryWaiting_places (s : State) (t : Nat) : s.SamePlaces (s.tryWaiting t) := by
  unfold State.tryWaiting
  refine foldl_inv (P := fun a : State × List Msg => s.SamePlaces a.1) (fun a m ha => ?_) _ _ (.refl s)
  dsimp only
  split
  · exact ha
  · split
    · next h => exact ha.trans (places_of_fst h (State.tryIntake_places ..))
    · next h =>
      exact ((ha.trans (places_of_fst h (State.tryIntake_places ..))).trans (State.sendCredit_places ..)).trans
        (State.answer_places ..)

@[simp] theorem State.arriveRow_places (s : State) (t : Nat) (m : Msg) : s.SamePlaces (s.arriveRow t m) := by
  unfold State.arriveRow
  dsimp only
  split
  · exact .refl s
  · split
    · next h => exact (places_of_fst h (State.tryIntake_places ..)).trans (State.setTile_places ..)
    · next h => exact (places_of_fst h (State.tryIntake_places ..)).trans (State.answer_places ..)

theorem State.wakeTake_places (s : State) (t : Nat) {resume : State → Nat → Word → State}
    (h : ∀ (s : State) rd v, s.SamePlaces (resume s rd v)) : s.SamePlaces (s.wakeTake t resume) := by
  unfold State.wakeTake
  dsimp only
  split
  · split
    · exact .refl s
    · split
      · exact .refl s
      · exact h _ _ _
  · exact .refl s

theorem State.settleIntakes_places {t : Nat} {resume : State → Nat → Word → State}
    (h : ∀ (s : State) rd v, s.SamePlaces (resume s rd v)) : ∀ (n : Nat) (s : State), s.SamePlaces (s.settleIntakes n t resume)
  | 0, s => .refl s
  | n + 1, s => ((s.tryWaiting_places t).trans (State.wakeTake_places _ _ h)).trans (State.settleIntakes_places h n _)

@[simp] theorem State.closeIntakes_places (s : State) (t : Nat) : s.SamePlaces (s.closeIntakes t) := by simp [State.closeIntakes]

/-! ### Machine/Kernel -/

@[simp] theorem State.closeOp_places (s : State) (t : Nat) (o : EngOp) (err : Option Nat) : s.SamePlaces (s.closeOp t o err) := by
  simp [State.closeOp]

@[simp] theorem State.countMoved_places (s : State) (t : Nat) (l : List Spot) : s.SamePlaces (s.countMoved t l) := by
  simp [State.countMoved]

@[simp] theorem State.moverStops_places (s : State) (t : Nat) (o : EngOp) (bs : List Byte) (bad : List Nat) :
    s.SamePlaces (s.moverStops t o bs bad) := by
  simp [State.moverStops]

@[simp] theorem State.landWrites_places (s : State) (t : Nat) (o : EngOp) : s.SamePlaces (s.landWrites t o) := by
  simp [State.landWrites]

@[simp] theorem State.abortOps_places (s : State) (t code : Nat) : s.SamePlaces (s.abortOps t code) := by simp [State.abortOps]

@[simp] theorem State.stopKernel_places (s : State) (t : Nat) (st : Stop) (abort : Option Nat) :
    s.SamePlaces (s.stopKernel t st abort) := by
  unfold State.stopKernel
  dsimp only
  repeat' split
  all_goals simp

@[simp] theorem State.safetyStop_places (s : State) (t : Nat) : s.SamePlaces (s.safetyStop t) := by simp [State.safetyStop]

@[simp] theorem State.takeWatchdog_places (s : State) (t : Nat) : s.SamePlaces (s.takeWatchdog t) := by
  unfold State.takeWatchdog
  dsimp only
  split <;> simp

@[simp] theorem State.stopFor_places (s : State) (t : Nat) (st : Stop) (abort : Option Nat) :
    s.SamePlaces (s.stopFor t st abort) := by
  simp [State.stopFor]

@[simp] theorem State.retireTo_places (s : State) (t : Nat) (instr : Bool) (pc : Word) : s.SamePlaces (s.retireTo t instr pc) := by
  simp [State.retireTo]

@[simp] theorem State.retire_places (s : State) (t n : Nat) : s.SamePlaces (s.retire t n) := by simp [State.retire]

@[simp] theorem State.wakeFence_places (s : State) (t f : Nat) : s.SamePlaces (s.wakeFence t f) := by
  unfold State.wakeFence
  dsimp only
  repeat' split
  all_goals simp

@[simp] theorem State.evalWaiters_places (s : State) (f : Nat) : s.SamePlaces (s.evalWaiters f) := by simp [State.evalWaiters]

@[simp] theorem State.launchEnd_places (s : State) (q : Nat) (seq : BitVec 32) (c : QCmd) : s.SamePlaces (s.launchEnd q seq c) := by
  unfold State.launchEnd
  dsimp only
  split <;> simp

@[simp] theorem State.report_places (s : State) (t q : Nat) (seq : BitVec 32) (rank : Nat) (status : BitVec 16) (trap : Nat)
    (flags : BitVec 16) :
    s.SamePlaces (s.report t q seq rank status trap flags) := by
  unfold State.report
  split <;> simp

@[simp] theorem State.charge_places (s : State) (t q : Nat) (seq : BitVec 32) : s.SamePlaces (s.charge t q seq) := by
  simp [State.charge]

@[simp] theorem State.dropLaunch_places (s : State) (t : Nat) (l : Launch) (status : BitVec 16) :
    s.SamePlaces (s.dropLaunch t l status) := by
  simp [State.dropLaunch]

@[simp] theorem State.beginSwap_places (s : State) (t need : Nat) (w : Swap) : s.SamePlaces (s.beginSwap t need w) := by
  simp [State.beginSwap]

@[simp] theorem State.startSwap_places (s : State) (t : Nat) (best : Option ℤ) : s.SamePlaces (s.startSwap t best) := by
  unfold State.startSwap
  dsimp only
  repeat' split
  all_goals simp

@[simp] theorem State.enterKernel_places (s : State) (t slot : Nat) (l : Launch) (rest : List Launch) :
    s.SamePlaces (s.enterKernel t slot l rest) := by
  simp [State.enterKernel]

@[simp] theorem State.dispatchTile_places (s : State) (t : Nat) : s.SamePlaces (s.dispatchTile t) := by
  unfold State.dispatchTile
  dsimp only
  repeat' split
  all_goals simp

@[simp] theorem State.sendMarkers_places (s : State) (t : Nat) (root : BitVec 32) : s.SamePlaces (s.sendMarkers t root) := by
  unfold State.sendMarkers
  dsimp only
  split <;> simp

@[simp] theorem State.freezeBoundary_places (s : State) (t : Nat) : s.SamePlaces (s.freezeBoundary t) := by
  unfold State.freezeBoundary
  refine foldl_places (fun u b => ?_) _ _
  split <;> simp

@[simp] theorem State.endKernel_places (s : State) (t : Nat) : s.SamePlaces (s.endKernel t) := by
  unfold State.endKernel
  dsimp only
  split <;> simp

@[simp] theorem State.boundary_places (s : State) (t : Nat) : s.SamePlaces (s.boundary t) := by simp [State.boundary]

/-! ### Machine/Regs -/

@[simp] theorem State.serveBar_places (s : State) (b : BarReq) (res : Res) : s.SamePlaces (s.serveBar b res) := by
  simp [State.serveBar]

@[simp] theorem State.takeBar_places (s : State) (b : BarReq) (res : Res) : s.SamePlaces (s.takeBar b res) := by
  simp [State.takeBar]

@[simp] theorem State.dropBars_places (s : State) (t : Nat) : s.SamePlaces (s.dropBars t) := by simp [State.dropBars]

@[simp] theorem State.emptyBars_places (s : State) (t : Nat) : s.SamePlaces (s.emptyBars t) :=
  (s.dropBars_places t).trans (foldl_places (fun u b => u.takeBar_places b _) _ _)

/-! ### Machine/Contexts -/

@[simp] theorem State.dropOn_places (s : State) (t : Nat) (p : Launch → Bool) (status : BitVec 16) :
    s.SamePlaces (s.dropOn t p status) := by
  simp [State.dropOn]

@[simp] theorem State.dropWaiting_places (s : State) (p : Launch → Bool) (status : BitVec 16) :
    s.SamePlaces (s.dropWaiting p status) := by
  simp [State.dropWaiting]

@[simp] theorem State.endIfDone_places (s : State) (t : Nat) : s.SamePlaces (s.endIfDone t) := by simp [State.endIfDone]

@[simp] theorem State.stopOn_places (s : State) (t : Nat) (p : Launch → Bool) (safety : Bool) :
    s.SamePlaces (s.stopOn t p safety) := by
  unfold State.stopOn
  split <;> simp

@[simp] theorem State.stopRunning_places (s : State) (p : Launch → Bool) (safety : Bool) :
    s.SamePlaces (s.stopRunning p safety) := by
  simp [State.stopRunning]

@[simp] theorem State.stopMover_places (s : State) (c : QCmd) : s.SamePlaces (s.stopMover c) := by simp [State.stopMover]

@[simp] theorem State.abortCmd_places (s : State) (q : Nat) (seq : BitVec 32) (status : BitVec 16) (detail : BitVec 32) :
    s.SamePlaces (s.abortCmd q seq status detail) := by
  unfold State.abortCmd
  split <;> simp

@[simp] theorem State.updQueues_places (s : State) (c : Nat) (f : Queue → Queue) : s.SamePlaces (s.updQueues c f) := by
  simp [State.updQueues]

@[simp] theorem State.stopQueues_places (s : State) (c : Nat) : s.SamePlaces (s.stopQueues c) := by simp [State.stopQueues]

@[simp] theorem State.setQuiesced_places (s : State) (c : Nat) : s.SamePlaces (s.setQuiesced c) := by simp [State.setQuiesced]

@[simp] theorem State.abortCtx_places (s : State) (c : Nat) (safety : Bool) : s.SamePlaces (s.abortCtx c safety) := by
  simp [State.abortCtx]

@[simp] theorem State.releaseShare_places (s : State) (t c : Nat) : s.SamePlaces (s.releaseShare t c) := by
  unfold State.releaseShare
  dsimp only
  split <;> simp

/-! ### Machine/Rilax -/

@[simp] theorem State.setG_places (s : State) (t i : Nat) (v : Word) : s.SamePlaces (s.setG t i v) := by simp [State.setG]

@[simp] theorem State.readUe_places (s : State) (t : Nat) (l : List Spot) : s.SamePlaces (s.readUe t l) := by simp [State.readUe]

/-! ### Machine/Tensors -/

@[simp] theorem State.writeAt_places (s : State) (t a : Nat) (bs : List Byte) : s.SamePlaces (s.writeAt t a bs) := by
  simp [State.writeAt]

/-! ### Machine/Tensor -/

@[simp] theorem State.markOp_places (s : State) (t id : Nat) (f : EngOp → EngOp) : s.SamePlaces (s.markOp t id f) := by
  simp [State.markOp]

/-! ### Machine/Exchange -/

@[simp] theorem State.useCredit_places (s : State) (t : Nat) (m : Outgoing) : s.SamePlaces (s.useCredit t m) := by
  simp [State.useCredit]

@[simp] theorem State.unsend_places (s : State) (t : Nat) (o : EngOp) (sent : List Sent) (l : List Outgoing) :
    s.SamePlaces (s.unsend t o sent l) := by
  simp [State.unsend]

@[simp] theorem pumpList_places (t : Nat) (r : Run) (l : List Outgoing) :
    ∀ (n : Nat) (un : List Sent) (kept : List Outgoing) (s : State), s.SamePlaces (pumpList t r n un kept l s).s := by
  induction l with
  | nil => intro n un kept s; cases n <;> exact ⟨rfl, rfl⟩
  | cons m l ih =>
    intro n un kept s
    cases n with
    | zero => exact ⟨rfl, rfl⟩
    | succ n =>
      unfold pumpList
      dsimp only
      split
      · exact ih ..
      · split
        · exact ih ..
        · split
          · exact ih ..
          · exact State.SamePlaces.trans (by simp) (ih ..)

@[simp] theorem State.pumpOp_places (s : State) (t id : Nat) : s.SamePlaces (s.pumpOp t id) := by
  unfold State.pumpOp
  dsimp only
  split
  · simp
  · exact .refl s

@[simp] theorem State.pump_places (s : State) (t : Nat) : s.SamePlaces (s.pump t) := by simp [State.pump]

@[simp] theorem State.queueOut_places (s : State) (t id : Nat) (l : List Outgoing) : s.SamePlaces (s.queueOut t id l) := by
  simp [State.queueOut]

@[simp] theorem State.sendBytes_places (s : State) (t : Nat) (va : Word) (n : Nat) : s.SamePlaces (s.sendBytes t va n).2 := by
  simp [State.sendBytes]

@[simp] theorem State.startDisp_places (s : State) (t : Nat) (r : Run) (o : EngOp) : s.SamePlaces (s.startDisp t r o) := by
  unfold State.startDisp
  dsimp only
  split <;> simp

@[simp] theorem State.startComb_places (s : State) (t : Nat) (r : Run) (o : EngOp) : s.SamePlaces (s.startComb t r o) := by
  simp [State.startComb]

@[simp] theorem State.recvTake_places (s : State) (t : Nat) (o : EngOp) (m : Msg) : s.SamePlaces (s.recvTake t o m) := by
  simp [State.recvTake]

@[simp] theorem State.holdSend_places (s : State) (t : Nat) (m : Msg) : s.SamePlaces (s.holdSend t m) := by
  unfold State.holdSend
  dsimp only
  split <;> simp

@[simp] theorem State.startPut_places (s : State) (t : Nat) (r : Run) (o : EngOp) : s.SamePlaces (s.startPut t r o) := by
  simp [State.startPut]

@[simp] theorem State.startGet_places (s : State) (t : Nat) (r : Run) (o : EngOp) : s.SamePlaces (s.startGet t r o) := by
  simp [State.startGet]

@[simp] theorem State.startSend_places (s : State) (t : Nat) (r : Run) (o : EngOp) : s.SamePlaces (s.startSend t r o) := by
  simp [State.startSend]

@[simp] theorem State.collPart_places (s : State) (t : Nat) (r : Run) (o : EngOp) (src seg flags : Nat) (bs : List Byte) :
    s.SamePlaces (s.collPart t r o src seg flags bs) := by
  unfold State.collPart
  split <;> simp

@[simp] theorem State.readFirst_places (s : State) (t : Nat) (o : EngOp) {go : State → State}
    (h : ∀ s : State, s.SamePlaces (go s)) : s.SamePlaces (s.readFirst t o go) := by
  unfold State.readFirst
  dsimp only
  split
  · simp
  · split
    · simp
    · exact State.SamePlaces.trans (by simp) (h _)

@[simp] theorem State.collBegin_places (s : State) (t : Nat) (r : Run) (o : EngOp) : s.SamePlaces (s.collBegin t r o) := by
  unfold State.collBegin
  split <;> simp

@[simp] theorem State.takeContrib_places (s : State) (t : Nat) (r : Run) (id : Nat) (m : Msg) :
    s.SamePlaces (s.takeContrib t r id m) := by
  unfold State.takeContrib
  split <;> simp

@[simp] theorem State.takeContribs_places (s : State) (t : Nat) (r : Run) (id : Nat) (data : Bool) :
    s.SamePlaces (s.takeContribs t r id data) := by
  unfold State.takeContribs
  split <;> simp

@[simp] theorem State.collAdvance_places (s : State) (t : Nat) (r : Run) (id : Nat) : s.SamePlaces (s.collAdvance t r id) := by
  unfold State.collAdvance
  dsimp only
  repeat' split
  all_goals simp

@[simp] theorem State.startColl_places (s : State) (t : Nat) (r : Run) (o : EngOp) : s.SamePlaces (s.startColl t r o) := by
  simp [State.startColl]

@[simp] theorem State.tryHeld_places (s : State) (t : Nat) (m : Msg) : s.SamePlaces (s.tryHeld t m).1 := by
  unfold State.tryHeld
  dsimp only
  repeat' split
  all_goals simp

@[simp] theorem State.retryHeld_places (s : State) (t : Nat) : s.SamePlaces (s.retryHeld t) := by
  unfold State.retryHeld
  refine foldl_inv (P := fun a : State × List Msg => s.SamePlaces a.1) (fun a m ha => ?_) _ _ (.refl s)
  split
  · exact ha
  · split
    · next h =>
      exact ((ha.trans (places_of_fst h (State.tryHeld_places ..))).trans (State.sendCredit_places ..)).trans
        (State.answer_places ..)
    · next h => exact ha.trans (places_of_fst h (State.tryHeld_places ..))

theorem resumeTake_places (t : Nat) (s : State) (rd : Nat) (v : Word) : s.SamePlaces (resumeTake t s rd v) := by simp [resumeTake]

@[simp] theorem State.settle_places (s : State) (t : Nat) : s.SamePlaces (s.settle t) :=
  ((State.settleIntakes_places (resumeTake_places t) _ s).trans (State.retryHeld_places ..)).trans (State.pump_places ..)

@[simp] theorem State.exStart_places (s : State) (t : Nat) (r : Run) (o : EngOp) : s.SamePlaces (s.exStart t r o) := by
  unfold State.exStart
  dsimp only
  repeat' split
  all_goals simp

@[simp] theorem State.exBegin_places (s : State) (t : Nat) (o : EngOp) : s.SamePlaces (s.exBegin t o) := by
  unfold State.exBegin
  split <;> simp

@[simp] theorem State.advance_places (t : Nat) : ∀ (n : Nat) (s : State), s.SamePlaces (s.advance n t)
  | 0, s => s.settle_places t
  | n + 1, s => by
    unfold State.advance
    dsimp only
    split
    · simp
    · split
      · simp
      · split
        · simp
        · exact State.SamePlaces.trans (by simp) (State.advance_places t n _)

@[simp] theorem State.proceed_places (s : State) (t : Nat) : s.SamePlaces (s.proceed t) := by simp [State.proceed]

/-! ### Machine/Arrival -/

@[simp] theorem State.degrade_places (s : State) (b : BitVec 32) : s.SamePlaces (s.degrade b) := by simp [State.degrade]

@[simp] theorem State.loseOn_places (s : State) (t : Nat) (b : BitVec 32) : s.SamePlaces (s.loseOn t b) := by
  unfold State.loseOn
  dsimp only
  split <;> simp

@[simp] theorem State.loseRanks_places (s : State) (b : BitVec 32) (ranks : List Nat) : s.SamePlaces (s.loseRanks b ranks) := by
  simp [State.loseRanks]

@[simp] theorem State.sendToModule_places (s : State) (b : BitVec 32) (module cls len : Nat) (param : BitVec 64)
    (payload : List Byte) :
    s.SamePlaces (s.sendToModule b module cls len param payload) := by
  unfold State.sendToModule
  dsimp only
  split <;> simp

@[simp] theorem State.declareLost_places (s : State) (b : BitVec 32) (ranks : List Nat) : s.SamePlaces (s.declareLost b ranks) := by
  simp [State.declareLost]

@[simp] theorem State.tryRetire_places (s : State) (b : BitVec 32) : s.SamePlaces (s.tryRetire b) := by simp [State.tryRetire]

@[simp] theorem State.setNested_places (s : State) (b : BitVec 32) (st : Bunch → Nat) : s.SamePlaces (s.setNested b st) := by
  simp [State.setNested]

@[simp] theorem State.tryFrozen_places (s : State) (b : BitVec 32) : s.SamePlaces (s.tryFrozen b) := by simp [State.tryFrozen]

@[simp] theorem State.reply_places (s : State) (m : Msg) (result : Nat) : s.SamePlaces (s.reply m result) := by simp [State.reply]

@[simp] theorem State.capture_places (s : State) (b : BitVec 32) (t : Nat) (m : Msg) : s.SamePlaces (s.capture b t m) := by
  simp [State.capture]

@[simp] theorem State.giveHeld_places (s : State) (t : Nat) (m : Msg) : s.SamePlaces (s.giveHeld t m) := by
  unfold State.giveHeld
  split
  · next h =>
    exact ((places_of_fst h (State.tryHeld_places ..)).trans (State.answer_places ..)).trans (State.proceed_places ..)
  · next h => exact (places_of_fst h (State.tryHeld_places ..)).trans (State.setTile_places ..)

@[simp] theorem State.gotHeld_places (s : State) (t : Nat) (l : Leaf) (m : Msg) : s.SamePlaces (s.gotHeld t l m) := by
  unfold State.gotHeld
  split <;> simp

@[simp] theorem State.waitAt_places (s : State) (t : Nat) (m : Msg) : s.SamePlaces (s.waitAt t m) := by simp [State.waitAt]

@[simp] theorem State.gotPut_places (s : State) (home t : Nat) (m : Msg) (res : Res) : s.SamePlaces (s.gotPut home t m res) := by
  unfold State.gotPut
  dsimp only
  repeat' split
  all_goals simp

@[simp] theorem State.replyGet_places (s : State) (t : Nat) (m : Msg) (sp : List Spot) (host : HostBytes) :
    s.SamePlaces (s.replyGet t m sp host) := by
  simp [State.replyGet]

@[simp] theorem State.gotGetReq_places (s : State) (home t : Nat) (l : Leaf) (m : Msg) (res : Res) (host : HostBytes) :
    s.SamePlaces (s.gotGetReq home t l m res host) := by
  unfold State.gotGetReq
  dsimp only
  repeat' split
  all_goals simp

@[simp] theorem State.gotGetReply_places (s : State) (t : Nat) (m : Msg) : s.SamePlaces (s.gotGetReply t m) := by
  unfold State.gotGetReply
  dsimp only
  repeat' split
  all_goals simp

@[simp] theorem State.answeredRow_places (s : State) (t : Nat) (o : EngOp) (key r : Nat) :
    s.SamePlaces (s.answeredRow t o key r) := by
  simp [State.answeredRow]

@[simp] theorem State.gotAnswer_places (s : State) (t : Nat) (m : Msg) : s.SamePlaces (s.gotAnswer t m) := by
  unfold State.gotAnswer
  dsimp only
  split <;> simp

@[simp] theorem State.gotReturn_places (s : State) (t : Nat) (m : Msg) : s.SamePlaces (s.gotReturn t m) := by
  unfold State.gotReturn
  dsimp only
  repeat' split
  all_goals simp

@[simp] theorem State.gotMark_places (s : State) (t : Nat) (m : Msg) : s.SamePlaces (s.gotMark t m) := by simp [State.gotMark]

@[simp] theorem State.gotEpoch_places (s : State) (l : Leaf) (m : Msg) : s.SamePlaces (s.gotEpoch l m) := by simp [State.gotEpoch]

@[simp] theorem State.gotLost_places (s : State) (m : Msg) : s.SamePlaces (s.gotLost m) := by simp [State.gotLost]

@[simp] theorem State.deliver_places (s : State) (t : Nat) (l : Leaf) (m : Msg) (res : Res) (host : HostBytes) :
    s.SamePlaces (s.deliver t l m res host) := by
  unfold State.deliver
  split <;> simp

@[simp] theorem State.countProtocol_places (s : State) (port : Option Nat) : s.SamePlaces (s.countProtocol port) := by
  unfold State.countProtocol
  split <;> simp

@[simp] theorem State.accept_places (s : State) (m : Msg) (res : Res) (host : HostBytes) : s.SamePlaces (s.accept m res host) := by
  unfold State.accept
  dsimp only
  repeat' split
  all_goals simp

@[simp] theorem State.emptyBuf_places (s : State) (t : Nat) : s.SamePlaces (s.emptyBuf t) := by simp [State.emptyBuf]

/-! ### Machine/Compose -/

@[simp] theorem State.setRole_places (s : State) (t role : Nat) : s.SamePlaces (s.setRole t role) := by simp [State.setRole]

@[simp] theorem State.loseTile_places (s : State) (t : Nat) : s.SamePlaces (s.loseTile t) := by simp [State.loseTile]

@[simp] theorem State.dropTile_places (s : State) (t : Nat) : s.SamePlaces (s.dropTile t) := by simp [State.dropTile]

@[simp] theorem State.beginFreeze_places (s : State) (b : BitVec 32) : s.SamePlaces (s.beginFreeze b) := by simp [State.beginFreeze]

/-- A graft that has ended is one fewer in progress; the FREEZE that waited for it changes no place. -/
theorem State.graftGone_places (s : State) (g : Graft) : (s.graftGone g).stone.gens = s.stone.gens
    ∧ (s.graftGone g).comp.grafts = s.comp.grafts.erase g := by
  unfold State.graftGone
  refine foldl_places (fun u b => ?_) _ _
  split <;> simp

/-! ### Machine/Grafts -/

@[simp] theorem State.flagFences_places (s : State) (c : Nat) : s.SamePlaces (s.flagFences c) := by simp [State.flagFences]

@[simp] theorem State.quiesceSafe_places (s : State) (c : Nat) : s.SamePlaces (s.quiesceSafe c) := by simp [State.quiesceSafe]

@[simp] theorem State.undoShares_places (s : State) (g : Graft) : s.SamePlaces (s.undoShares g) := by simp [State.undoShares]

end Sys2Proof.Machine
end

section
/-! PROOFS. A tile's reset: its generation, and the grafts that name it (R325, R337, R393). -/

namespace Sys2Proof.Machine

/-! ### A tile that is reset -/

/-- A tile that is reset has reported what waited on it and what ran on it (R393, R452). -/
def State.endedFor (s : State) (t : Nat) : State :=
  let s := s.dropOn t (fun _ => true) 3
  let c := (s.tile t).core
  match c.run with
  | none => s
  | some r =>
    let (status, trap) := match c.stop with
      | some st => (st.status, if st.safety then 0 else st.trap)
      | none => ((8 : BitVec 16), 0)
    (s.charge t r.launch.q r.launch.seq).report t r.launch.q r.launch.seq r.rank status trap c.flags

/-- A tile is cleared by its reset, under a new generation, before the requests that its endpoint held are answered (R393). -/
def State.wiped (s : State) (t : Nat) : State :=
  let x := (s.endedFor t).tile t
  ((((s.endedFor t).loadImage 5 t).clearStore (tsAddr t 0) 0x20000000).setTile t
    { role := x.role, refusing := true, core := { sigs := x.core.sigs }, nextId := x.nextId, ce := x.ce, ue := x.ue
      ueBank := x.ueBank, swaps := x.swaps, overBudget := (s.endedFor t).overCount t, watchdogs := (s.endedFor t).dogCount t
      base := x.base, noLaunch := x.noLaunch }).bumpGen t

theorem State.resetTile_eq (s : State) (t : Nat) : s.resetTile t = (s.wiped t).emptyBars t := rfl

theorem State.endedFor_places (s : State) (t : Nat) : s.SamePlaces (s.endedFor t) := by
  unfold State.endedFor
  dsimp only
  split <;> simp

/-- A reset counts its tile's generation alone, and no graft changes. -/
theorem State.wiped_places (s : State) (t : Nat) : (s.wiped t).stone.gens = tput s.stone.gens t (tget 0 s.stone.gens t + 1)
    ∧ (s.wiped t).comp.grafts = s.comp.grafts := by
  obtain ⟨hgens, hgrafts⟩ := (s.endedFor_places t).trans (State.loadImage_places _ 5 t)
  have hg : (s.wiped t).stone.gens = tput ((s.endedFor t).loadImage 5 t).stone.gens t
    (tget 0 ((s.endedFor t).loadImage 5 t).stone.gens t + 1) := rfl
  exact ⟨by rw [hg, hgens], hgrafts⟩

theorem State.resetTile_places (s : State) (t : Nat) :
    (s.resetTile t).stone.gens = tput s.stone.gens t (tget 0 s.stone.gens t + 1)
      ∧ (s.resetTile t).comp.grafts = s.comp.grafts := by
  obtain ⟨hgens, hgrafts⟩ := (s.wiped t).emptyBars_places t
  rw [State.resetTile_eq, hgens, hgrafts]
  exact s.wiped_places t

theorem State.leaveFor_places (s : State) (t role : Nat) :
    (s.leaveFor t role).stone.gens = tput s.stone.gens t (tget 0 s.stone.gens t + 1)
      ∧ (s.leaveFor t role).comp.grafts = s.comp.grafts := by
  obtain ⟨hg, hc⟩ := (s.dropOn_places t (fun _ => true) 3).trans (State.dropTile_places _ t)
  obtain ⟨hrole, hrole'⟩ := ((((s.dropOn t (fun _ => true) 3).dropTile t).resetTile t).setRole_places t role)
  obtain ⟨hreset, hreset'⟩ := ((s.dropOn t (fun _ => true) 3).dropTile t).resetTile_places t
  rw [hg] at hreset
  exact ⟨hrole.trans hreset, hrole'.trans (hreset'.trans hc)⟩

/-! ### The grafts that a reset cancels (log 195) -/

/-- A cancelled graft is gone, and the tile that loses its place keeps its generation until its own reset. -/
theorem State.cancelGraft_places (s : State) (t : Nat) (g : Graft) :
    tget 0 (s.cancelGraft t g).stone.gens t = tget 0 s.stone.gens t
      ∧ (s.cancelGraft t g).comp.grafts = s.comp.grafts.erase g := by
  obtain ⟨hu, hu'⟩ := s.undoShares_places g
  obtain ⟨hv, hv'⟩ := (s.undoShares g).graftGone_places g
  rw [hu] at hv
  rw [hu'] at hv'
  unfold State.cancelGraft
  dsimp only
  generalize (s.undoShares g).graftGone g = v at hv hv' ⊢
  split
  case isTrue => exact ⟨by rw [hv], hv'⟩
  case isFalse ho =>
    split
    case isTrue =>
      obtain ⟨hl, hl'⟩ := v.leaveFor_places g.out 2
      obtain ⟨hq, hq'⟩ := foldl_places (fun u c => u.quiesceSafe_places c) (v.ctxsOn g.out) (v.leaveFor g.out 2)
      refine ⟨?_, hq'.trans (hl'.trans hv')⟩
      rw [hq, hl, tget_tput_ne _ _ _ _ _ (Ne.symm ho), hv]
    case isFalse =>
      have hlast : ∀ w : State, v.SamePlaces w → tget 0 ((w.emptyBuf g.out).dispatchTile g.out).stone.gens t = tget 0 s.stone.gens t
          ∧ ((w.emptyBuf g.out).dispatchTile g.out).comp.grafts = s.comp.grafts.erase g := by
        intro w hw
        obtain ⟨h, h'⟩ := (hw.trans (w.emptyBuf_places g.out)).trans (State.dispatchTile_places _ g.out)
        exact ⟨by rw [h, hv], h'.trans hv'⟩
      refine hlast _ ?_
      split <;> exact ⟨rfl, rfl⟩

/-- Tile grafts that name a tile: what leaves, what comes in, the heir of a move. -/
def Graft.names (t : Nat) (g : Graft) : Bool := g.kind ≤ 1 && (g.out == t || g.inc == t || g.heir == some t)

/-- After its grafts are cancelled, a tile has its generation still, and no tile graft names it. -/
theorem State.cancelGrafts_places (s : State) (t : Nat) :
    tget 0 (s.cancelGrafts t).stone.gens t = tget 0 s.stone.gens t ∧ ∀ g ∈ (s.cancelGrafts t).comp.grafts, g.names t = false := by
  have hfold : ∀ (l : List Graft) (u : State), tget 0 (l.foldl (fun s g => s.cancelGraft t g) u).stone.gens t = tget 0 u.stone.gens t
      ∧ (l.foldl (fun s g => s.cancelGraft t g) u).comp.grafts = l.foldl List.erase u.comp.grafts := by
    intro l
    induction l with
    | nil => exact fun u => ⟨rfl, rfl⟩
    | cons g l ih =>
      intro u
      obtain ⟨h1, h2⟩ := u.cancelGraft_places t g
      obtain ⟨i1, i2⟩ := ih (u.cancelGraft t g)
      exact ⟨i1.trans h1, i2.trans (by rw [h2]; rfl)⟩
  obtain ⟨hgens, hgrafts⟩ := hfold (s.comp.grafts.filter (Graft.names t)) s
  refine ⟨hgens, fun g hg => ?_⟩
  have hmem : g ∈ s.comp.grafts.diff (s.comp.grafts.filter (Graft.names t)) := by
    rw [List.diff_eq_foldl, ← hgrafts]
    exact hg
  by_contra hn
  have hcount := List.count_diff g s.comp.grafts (s.comp.grafts.filter (Graft.names t))
  rw [List.count_filter (by simpa using hn), Nat.sub_self] at hcount
  exact List.count_eq_zero.1 hcount hmem

theorem State.movesShares_of_names {s : State} {t : Nat} (h : ∀ g ∈ s.comp.grafts, g.names t = false) :
    s.movesShares t = false := by
  unfold State.movesShares
  rw [List.any_eq_false]
  intro g hg hc
  have hn := h g hg
  unfold Graft.names at hn
  simp only [Bool.and_eq_true, decide_eq_true_eq] at hc
  obtain ⟨⟨hk, -⟩, ho⟩ := hc
  simp [hk, ho] at hn

end Sys2Proof.Machine
end

section
/-! PROOFS. What counted errors and changes of power leave of tiles and stores, and what a swap leaves of a tile (R57, R387, R413). -/

namespace Sys2Proof.Machine

/-! ### What a read's errors count -/

/-- Errors of a read have been counted: memory and composition stay, and a tile keeps all but its counts of errors. -/
structure State.Counts (s u : State) : Prop where
  mem : u.mem = s.mem
  written : u.written = s.written
  comp : u.comp = s.comp
  tile : ∀ k, { u.tile k with ce := (s.tile k).ce, ue := (s.tile k).ue, ueBank := (s.tile k).ueBank } = s.tile k

theorem State.Counts.refl (s : State) : s.Counts s := ⟨rfl, rfl, rfl, fun _ => rfl⟩

theorem State.Counts.trans {s u v : State} (h : s.Counts u) (g : u.Counts v) : s.Counts v where
  mem := g.mem.trans h.mem
  written := g.written.trans h.written
  comp := g.comp.trans h.comp
  tile k := by rw [← h.tile k, ← g.tile k]

theorem State.emit_counts (s : State) (o : Out) : s.Counts (s.emit o) :=
  ⟨State.emit_mem .., State.emit_written .., State.emit_comp .., fun k => by rw [State.emit_tile]⟩

theorem State.setTile_counts (s : State) (t ce ue bank : Nat) :
    s.Counts (s.setTile t { s.tile t with ce := ce, ue := ue, ueBank := bank }) where
  mem := rfl
  written := rfl
  comp := rfl
  tile k := by
    by_cases hk : k = t
    · subst hk; rw [State.setTile_tile]
    · rw [State.setTile_tile_ne _ _ _ _ hk]

theorem State.countLine_counts (s : State) (res : Res) (n : Nat) : s.Counts (s.countLine res n) := by
  unfold State.countLine
  dsimp only
  split
  · cases res with
    | corrected => exact s.setTile_counts ..
    | uncorrectable => exact (s.setTile_counts ..).trans ⟨rfl, rfl, rfl, fun _ => rfl⟩
    | _ => exact .refl s
  · cases res <;> exact ⟨rfl, rfl, rfl, fun _ => rfl⟩

theorem State.countEcc_counts (s : State) (l : List Spot) (res : Res) : s.Counts (s.countEcc l res) :=
  foldl_inv (P := s.Counts) (fun _ n hu => hu.trans (State.countLine_counts _ res n)) _ s (.refl s)

theorem State.ueRead_counts (s : State) (l : List Spot) (ctxs : List Nat) : s.Counts (s.ueRead l ctxs) := by
  have hraise : s.Counts ((s.countEcc l .uncorrectable).raiseUe (s.errLines l) ctxs) := by
    unfold State.raiseUe
    refine foldl_inv (P := s.Counts) (fun u p hu => ?_) _ _ (s.countEcc_counts l .uncorrectable)
    exact hu.trans ⟨rfl, rfl, rfl, fun _ => rfl⟩
  exact hraise.trans ⟨rfl, rfl, rfl, fun _ => rfl⟩

/-! ### A swap's tile (R387) -/

/-- What a swap changes of a tile: its slots, its standby entries, and its count of swaps. -/
def State.shares (s : State) (t : Nat) : Table Slot × List Standby × Nat :=
  ((s.tile t).slots, (s.tile t).standby, (s.tile t).swaps)

theorem State.Counts.shares {s u : State} (h : s.Counts u) (t : Nat) : u.shares t = s.shares t :=
  (congrArg (fun x : Tile => (x.slots, x.standby, x.swaps)) (h.tile t) :)

theorem State.Moves.shares {s u : State} (h : s.Moves u) (t : Nat) : u.shares t = s.shares t :=
  (congrArg (fun x : Tile => (x.slots, x.standby, x.swaps)) (h.tile t) :)

theorem State.shares_of_unlanded {s u : State} (h : u.unlanded = s.unlanded) (t : Nat) : u.shares t = s.shares t :=
  (congrArg (State.shares · t) h :)

theorem State.swapRead_shares (s : State) (l : List Spot) (c t : Nat) : (s.swapRead l c).shares t = s.shares t := by
  unfold State.swapRead
  split
  · exact (s.ueRead_counts l [c]).shares t
  · rfl

theorem State.swapTraffic_shares (s : State) (t : Nat) (l : List Spot) (cls : Nat) : (s.swapTraffic t l cls).shares t = s.shares t :=
  ((s.traffic_moves l cls t).trans (State.setTile_moves _ t _)).shares t

theorem State.pokeN_shares (s : State) (a : Nat) (bs : List Byte) (t : Nat) : (s.pokeN a bs).shares t = s.shares t :=
  State.shares_of_unlanded (State.pokeN_unlanded bs s a) t

/-- A victim leaves its slot to a standby entry (R387 step 2). -/
theorem State.swapOut_spec (s : State) (t i : Nat) : ((s.swapOut t i).tile t).slot i = {}
    ∧ ∃ e, ((s.swapOut t i).tile t).standby = (s.tile t).standby ++ [e] ∧ e.ctx = ((s.tile t).slot i).ctx
      ∧ e.deadline = ((s.tile t).slot i).deadline ∧ e.fifo = ((s.tile t).slot i).fifo ∧ e.flags = ((s.tile t).slot i).flags
      ∧ e.rank = s.ctxRank ((s.tile t).slot i).ctx t := by
  obtain ⟨v, e, hv, hctx, hdl, hfifo, hflags, hrank, hx⟩ : ∃ (v : State) (e : Standby), v.shares t = s.shares t
      ∧ e.ctx = ((s.tile t).slot i).ctx ∧ e.deadline = ((s.tile t).slot i).deadline ∧ e.fifo = ((s.tile t).slot i).fifo
      ∧ e.flags = ((s.tile t).slot i).flags ∧ e.rank = s.ctxRank ((s.tile t).slot i).ctx t
      ∧ s.swapOut t i = v.setTile t { (v.tile t).setSlot i {} with standby := (v.tile t).standby ++ [e] } := by
    refine ⟨_, _, ?_, rfl, rfl, rfl, rfl, rfl, rfl⟩
    exact (State.shares_of_unlanded (State.clearGranules_unlanded ..) t).trans
      ((State.shares_of_unlanded (State.writeSpots_unlanded ..) t).trans
        ((State.swapTraffic_shares ..).trans (State.swapRead_shares ..)))
  have ht : (s.swapOut t i).tile t = _ := (congrArg (State.tile · t) hx).trans (State.setTile_tile _ _ _)
  rw [ht]
  refine ⟨Tile.setSlot_slot_same _ _ _, e, ?_, hctx, hdl, hfifo, hflags, hrank⟩
  exact congrArg (fun p : Table Slot × List Standby × Nat => p.2.1 ++ [e]) hv

/-- The context that comes in takes its slot, with a share of granules that were free (R387 steps 3 and 4). -/
theorem State.swapIn_spec {s : State} {t c : Nat} {e : Standby} {bm : Nat}
    (he : (s.tile t).standby.find? (fun e => e.ctx == c) = some e) (hb : lowestBits (s.tile t).unowned 256 e.granules = some bm)
    (i : Nat) :
    let u := s.swapIn t i c
    (u.tile t).slot i = { valid := true, ctx := c, share := BitVec.ofNat 256 bm, deadline := e.deadline, flags := e.flags,
                          fifo := e.fifo }
      ∧ (u.tile t).standby = (s.tile t).standby.filter (fun d => d.ctx != c)
      ∧ (u.tile t).swaps = min 0xFFFF ((s.tile t).swaps + 1) ∧ ∀ k, k ≠ i → (u.tile t).slot k = (s.tile t).slot k := by
  obtain ⟨v, hv, hx⟩ : ∃ v : State, v.shares t = s.shares t ∧ s.swapIn t i c = v.setTile t { ((v.tile t).setSlot i
      { valid := true, ctx := c, share := BitVec.ofNat 256 bm, deadline := e.deadline, flags := e.flags, fifo := e.fifo }) with
        standby := (v.tile t).standby.filter (fun d => d.ctx != c), swaps := satAdd 0xFFFF (v.tile t).swaps 1 } := by
    unfold State.swapIn
    dsimp only
    rw [he]
    dsimp only
    rw [hb]
    refine ⟨_, ?_, rfl⟩
    refine (foldl_part (State.shares · t) _ (fun u k => ?_) _ _).trans ?_
    · split
      · rfl
      · exact u.pokeN_shares _ _ t
    · exact (State.swapTraffic_shares ..).trans ((State.swapRead_shares ..).trans
        (State.shares_of_unlanded (State.clearGranules_unlanded ..) t))
  obtain ⟨hslots, hstandby, hswaps⟩ : (v.tile t).slots = (s.tile t).slots ∧ (v.tile t).standby = (s.tile t).standby
      ∧ (v.tile t).swaps = (s.tile t).swaps := by simpa [State.shares] using hv
  intro u
  have ht : u.tile t = _ := (congrArg (State.tile · t) hx).trans (State.setTile_tile _ _ _)
  rw [ht]
  refine ⟨Tile.setSlot_slot_same _ _ _, by rw [hstandby], by rw [hswaps]; rfl, fun k hk => ?_⟩
  refine (Tile.setSlot_slot_ne _ _ hk).trans ?_
  exact congrArg (tget ({} : Slot) · k) hslots

/-! ### Stores through a change of power (R413) -/

/-- What reads zero goes on doing so. -/
def State.Fades (s u : State) : Prop := ∀ c, s.peek c = 0 → u.peek c = 0

theorem State.Fades.refl {s : State} : s.Fades s := fun _ h => h

theorem State.Fades.trans {s u v : State} (h : s.Fades u) (g : u.Fades v) : s.Fades v := fun c hc => g c (h c hc)

theorem State.Fades.ite {s u v : State} {p : Prop} [Decidable p] (h : s.Fades u) (k : s.Fades v) :
    s.Fades (if p then u else v) := by split <;> assumption

theorem State.Fades.foldl {α : Type} {f : State → α → State} (h : ∀ (s : State) a, s.Fades (f s a)) (l : List α) (s : State) :
    s.Fades (l.foldl f s) := foldl_inv (P := s.Fades) (fun u a hu => hu.trans (h u a)) l s .refl

theorem State.Fades.of_mem {s u : State} (hm : u.mem = s.mem) (hw : u.written = s.written) : s.Fades u :=
  fun c hc => (State.peek_of_mem hm hw c).trans hc

theorem State.clearStore_fades (s : State) (t : Nat) : s.Fades (s.clearStore (tsAddr t 0) 0x20000000) :=
  fun _ hc => State.peek_clearStore_zero (by unfold tsAddr; omega) (by decide) hc

theorem State.setDom_fades (s : State) (d : Nat) (x : Dom) : s.Fades (s.setDom d x) := .of_mem rfl rfl

theorem State.park_fades (s : State) (d : Nat) : s.Fades (s.park d) := .ite (.of_mem rfl rfl) .refl

theorem State.dropStores_fades (s : State) (q : Nat) : s.Fades (s.dropStores q) := by
  refine State.Fades.foldl (fun u t => ?_) _ _
  exact (u.clearStore_fades t).trans (.of_mem rfl rfl)

theorem State.enterLow_fades (s : State) (d low : Nat) : s.Fades (s.enterLow d low) := by
  have held : ∀ u : State, s.Fades u → s.Fades (if low = 0 then u.setDom d { u.dom d with held := true } else u) :=
    fun u h => .ite (h.trans (u.setDom_fades d _)) h
  unfold State.enterLow
  refine .ite (.ite (.of_mem rfl rfl) .refl) (.ite (.ite (s.clearStore_fades _) .refl) (.ite (.ite (s.dropStores_fades _) .refl) ?_))
  refine .ite (held _ ?_) (.ite (held _ ?_) .refl)
  · exact .ite (s.park_fades d) ((s.park_fades d).trans (.of_mem rfl rfl))
  · refine (s.park_fades d).trans (State.Fades.trans (u := (s.park d).setRunner _ _) (.of_mem rfl rfl) (.foldl (fun u j => ?_) _ _))
    exact .of_mem rfl rfl

theorem State.startWake_fades (s : State) (d : Nat) : s.Fades (s.startWake d) := by
  unfold State.startWake
  exact .ite (.of_mem rfl rfl) (s.setDom_fades d _)

theorem State.evalOne_fades (s : State) (d : Nat) : s.Fades (s.evalOne d) := by
  unfold State.evalOne
  refine .ite .refl (.ite (.ite .refl (s.startWake_fades d)) (.ite .refl ?_))
  exact (s.setDom_fades d _).trans (State.enterLow_fades _ _ _)

/-- A domain that changes its state writes no byte of a store but to clear it. -/
theorem State.evalDom_fades (s : State) (d : Nat) : s.Fades (s.evalDom d) := by
  have hwarm : s.Fades (s.warmUp d) := .ite (s.setDom_fades d _) .refl
  unfold State.evalDom
  exact .ite ((hwarm.trans (State.evalOne_fades _ _)).trans (State.evalOne_fades _ _)) (s.evalOne_fades d)

theorem State.revote_fades (s : State) : s.Fades s.revote := by
  unfold State.revote
  exact .ite .refl (.foldl (fun u d => (u.setDom_fades d _).trans (State.evalDom_fades _ _)) _ _)

end Sys2Proof.Machine
end

section
/-! PROOFS. A tile that was reset stays empty, and its store reads zero (R393, R431); clears, swaps, rejoins and packets of a tile. -/

namespace Sys2Proof.Machine

open Sys2Proof.Claims

/-! ### A tile that holds nothing -/

/-- A tile that refuses and holds no kernel, operation, slot, held set, standby entry or swap. -/
def Tile.Vacant (x : Tile) : Prop :=
  x.refusing = true ∧ x.core.run = none ∧ x.core.stop = none ∧ x.ops = [] ∧ x.slots = [] ∧ x.held = none ∧ x.standby = []
    ∧ x.swap = none

theorem Tile.Fell.vacant {x y : Tile} (h : x.Fell y) (hx : x.Vacant) : y.Vacant := by
  rcases h with rfl | rfl
  · exact hx
  · obtain ⟨-, -, -, -, -, -, hstandby, hswap⟩ := hx
    exact ⟨rfl, rfl, rfl, rfl, rfl, rfl, hstandby, hswap⟩

theorem State.Counts.vacant {s u : State} (h : s.Counts u) {t : Nat} (hx : (s.tile t).Vacant) : (u.tile t).Vacant := by
  rw [← h.tile t] at hx
  exact hx

/-- A tile is empty, its store reads zero, and no graft migrates its shares. -/
structure State.Cleared (s : State) (t : Nat) : Prop where
  vacant : (s.tile t).Vacant
  still : s.movesShares t = false
  zero : ∀ off, off < 0x20000000 → s.peek (tsAddr t off) = 0

theorem State.movesShares_of_comp {s u : State} (h : u.comp.grafts = s.comp.grafts) (t : Nat) :
    u.movesShares t = s.movesShares t := by
  unfold State.movesShares
  rw [h]

/-- What leaves a tile empty, memory's zeros and the grafts leaves the tile cleared. -/
theorem State.Cleared.of_fades {s u : State} {t : Nat} (h : s.Cleared t) (ht : (s.tile t).Vacant → (u.tile t).Vacant)
    (hg : u.comp.grafts = s.comp.grafts) (hf : s.Fades u) : u.Cleared t :=
  ⟨ht h.vacant, (State.movesShares_of_comp hg t).trans h.still, fun off ho => hf _ (h.zero off ho)⟩

theorem State.Cleared.of_counts {s u : State} {t : Nat} (h : s.Cleared t) (hc : s.Counts u) : u.Cleared t :=
  h.of_fades hc.vacant (congrArg Compose.grafts hc.comp :) (.of_mem hc.mem hc.written)

theorem State.Cleared.evalDom {s : State} {t : Nat} (h : s.Cleared t) (d : Nat) : (s.evalDom d).Cleared t :=
  h.of_fades ((s.evalDom_dims d).1 t).vacant (s.evalDom_places d).2 (s.evalDom_fades d)

theorem State.Cleared.revote {s : State} {t : Nat} (h : s.Cleared t) : s.revote.Cleared t :=
  h.of_fades (s.revote_dims.1 t).vacant s.revote_places.2 s.revote_fades

theorem State.Cleared.setRole {s : State} {t : Nat} (h : s.Cleared t) (role : Nat) : (s.setRole t role).Cleared t := by
  refine h.of_fades (fun hv => ?_) rfl (.of_mem rfl rfl)
  rw [State.setRole_tile]
  exact hv

/-! ### Requests through BAR4 that its endpoint held (R284, R393) -/

/-- An address of a tile's store beyond its bytes, or one that the tile refuses. -/
def State.Shut (s : State) (t a : Nat) : Prop := tsAddr t 0x20000000 ≤ a ∨ s.addrRefused a = true

/-- A tile that is cleared shuts its store to every request. -/
theorem State.Cleared.shut {s : State} {t : Nat} (h : s.Cleared t) (ht : t < 68) (off : Nat) : s.Shut t (tsAddr t off) := by
  by_cases ho : off < 0x20000000
  · have hstore : isStore (tsAddr t off) = true := by
      unfold isStore tsAddr
      rw [fld_eq, beq_iff_eq]
      omega
    have htile : fld (tsAddr t off) 32 7 = t := by
      unfold tsAddr
      rw [fld_eq]
      omega
    refine .inr ?_
    rw [State.addrRefused, hstore, htile, h.vacant.1, h.still]
    rfl
  · exact .inl (by unfold tsAddr; omega)

theorem State.pokeSpots_peek {c : Nat} : ∀ (l : List (Spot × Byte)) (s : State),
    (∀ p ∈ l, ∃ a, p.1 = .dev a none ∧ a ≠ c) → (s.pokeSpots l).peek c = s.peek c
  | [], _, _ => rfl
  | (p, b) :: l, s, h => by
    obtain ⟨a, rfl, ha⟩ := h _ List.mem_cons_self
    refine (State.pokeSpots_peek l _ fun q hq => h q (List.mem_cons_of_mem _ hq)).trans ?_
    unfold State.pokeSpot
    dsimp only
    split
    · rfl
    · exact peek_poke_ne _ _ _ _ (Ne.symm ha)

/-- A write of device bytes leaves every other byte as it reads. -/
theorem State.writeSpots_peek {s : State} {l : List Spot} {c : Nat} (h : ∀ p ∈ l, ∃ a, p = .dev a none ∧ a ≠ c) (bs : List Byte) :
    (s.writeSpots l bs).peek c = s.peek c := by
  have hrenew : ∀ u : State, (u.renewLines l).peek c = u.peek c := fun u => by
    unfold State.renewLines
    split <;> rfl
  unfold State.writeSpots
  refine (foldl_part (State.peek · c) _ (fun u e => u.emit_peek _ c) _ _).trans ((hrenew _).trans ?_)
  exact State.pokeSpots_peek _ _ fun p hp => h p.1 (List.of_mem_zip hp).1

theorem State.Cleared.writeBar {s : State} {t : Nat} (h : s.Cleared t) {b : BarReq}
    (ha : tsAddr t 0x20000000 ≤ tsAddr b.tile b.off) (bs : List Byte) : (s.writeSpots b.spots bs).Cleared t := by
  have hrest := s.writeSpots_unlanded b.spots bs
  have htile : (s.writeSpots b.spots bs).tile t = s.tile t := (congrArg (State.tile · t) hrest :)
  have hcomp : (s.writeSpots b.spots bs).comp = s.comp := (congrArg State.comp hrest :)
  refine ⟨by rw [htile]; exact h.vacant, (State.movesShares_of_comp (congrArg Compose.grafts hcomp :) t).trans h.still,
    fun off ho => ?_⟩
  refine (State.writeSpots_peek (fun p hp => ?_) bs).trans (h.zero off ho)
  obtain ⟨i, -, rfl⟩ := List.mem_map.1 hp
  exact ⟨_, rfl, by unfold tsAddr at *; omega⟩

theorem State.countRefused_counts (s : State) (l : List Spot) (res : Res) : s.Counts (s.countRefused l res) := by
  unfold State.countRefused
  split <;> exact ⟨rfl, rfl, rfl, fun _ => rfl⟩

/-- A request that a cleared tile has shut its store to leaves it cleared. -/
theorem State.Cleared.serveBar {s : State} {t : Nat} (h : s.Cleared t) {b : BarReq} (hb : s.Shut t (tsAddr b.tile b.off)) (res : Res) :
    (s.serveBar b res).Cleared t := by
  have hrefused : (s.countRefused b.spots .refused).Cleared t := h.of_counts (s.countRefused_counts ..)
  have hemit : ∀ {u : State} (o : Out), u.Cleared t → (u.emit o).Cleared t := fun o hu => hu.of_counts (State.emit_counts _ o)
  unfold State.serveBar
  dsimp only
  split
  · split
    · exact h
    · exact hemit _ h
  split
  · split
    · exact hrefused
    · exact hemit _ hrefused
  case isFalse hr =>
    split
    · exact h.writeBar (hb.resolve_right hr) _
    split
    · exact (hemit _ h).of_counts (State.ueRead_counts ..)
    split
    · exact hemit _ h
    · exact hemit _ (h.of_counts (State.countEcc_counts ..))

theorem State.Cleared.takeBar {s : State} {t : Nat} (h : s.Cleared t) (ht : t < 68) {b : BarReq} (hb : b.tile = t) (res : Res) :
    (s.takeBar b res).Cleared t := by
  subst hb
  have hshut := h.shut ht b.off
  unfold State.takeBar
  dsimp only
  split
  · exact h.serveBar hshut res
  split
  · apply State.Cleared.evalDom
    refine h.of_fades (fun hv => ?_) rfl (.of_mem rfl rfl)
    rw [State.setTile_tile]
    exact hv
  split
  · exact h.of_counts ⟨rfl, rfl, rfl, fun _ => rfl⟩
  · exact h.serveBar hshut res

theorem State.Cleared.emptyBars {s : State} {t : Nat} (h : s.Cleared t) (ht : t < 68) : (s.emptyBars t).Cleared t := by
  have hfold : ∀ (l : List BarReq) (u : State), (∀ b ∈ l, b.tile = t) → u.Cleared t →
      (l.foldl (fun s b => s.takeBar b (s.barRes b)) u).Cleared t := by
    intro l
    induction l with
    | nil => exact fun u _ hu => hu
    | cons b l ih =>
      exact fun u hb hu => ih _ (fun k hk => hb k (List.mem_cons_of_mem _ hk)) (hu.takeBar ht (hb b List.mem_cons_self) _)
  refine hfold _ _ (fun b hb => ?_) (h.of_counts ⟨rfl, rfl, rfl, fun _ => rfl⟩)
  simpa using (List.mem_filter.1 hb).2

/-! ### TILE_RESET (R393, R431) -/

theorem State.wiped_cleared {s : State} {t : Nat} (h : s.movesShares t = false) : (s.wiped t).Cleared t := by
  refine ⟨?_, (State.movesShares_of_comp (s.wiped_places t).2 t).trans h, fun off ho => ?_⟩
  · rw [show (s.wiped t).tile t = _ from State.setTile_tile _ _ _]
    exact ⟨rfl, rfl, rfl, rfl, rfl, rfl, rfl, rfl⟩
  · have hzero : (((s.endedFor t).loadImage 5 t).clearStore (tsAddr t 0) 0x20000000).peek (tsAddr t off) = 0 :=
      State.peek_clearStore_in _ (by unfold tsAddr; omega)
    exact (State.peek_of_mem (u := s.wiped t) (by rfl) (by rfl) _).trans hzero

/-- A tile that was reset out of its place is empty, TESTING, under a new generation, and its store reads zero (R393, R431). -/
theorem State.resetOut_spec {s : State} {t : Nat} (ht : t < 68) : (s.resetOut t).Cleared t ∧ ((s.resetOut t).tile t).role = 2
    ∧ tget 0 (s.resetOut t).stone.gens t = tget 0 s.stone.gens t + 1 := by
  obtain ⟨hgen, hnames⟩ := s.cancelGrafts_places t
  have hstill : (((s.cancelGrafts t).dropOn t (fun _ => true) 3).dropTile t).movesShares t = false := by
    refine (State.movesShares_of_comp ?_ t).trans (State.movesShares_of_names hnames)
    exact ((State.dropOn_places _ t (fun _ => true) 3).trans (State.dropTile_places _ t)).2
  have hleft : ((s.cancelGrafts t).leaveFor t 2).Cleared t := by
    unfold State.leaveFor
    rw [State.resetTile_eq]
    exact ((State.wiped_cleared hstill).emptyBars ht).setRole 2
  refine ⟨hleft.revote, (s.resetOut_tile t).2.2, ?_⟩
  unfold State.resetOut
  rw [(State.revote_places _).1, ((s.cancelGrafts t).leaveFor_places t 2).1, tget_tput_same, hgen]

/-- Settles O37: each event by the lemma about it. -/
theorem tileStores : Obligations.TileStores := by
  unfold Obligations.TileStores
  intro s t
  refine ⟨fun bm slot rest hc hb => ?_, fun w hw ho => exec_swapDone hw ho, fun i c e bm he hb => State.swapIn_spec he hb i,
    fun i => s.swapOut_spec t i, fun ht hr => ?_, fun ht hf hr hd hturn hreact hgraft => ?_, fun ht hb => if_pos (by rw [ht, hb]; rfl),
    fun ht hb hd => exec_endpointPacketArrival ht hb hd, fun ht hd => exec_demandIdleTimeout ht hd⟩
  · obtain ⟨hclear, hhif, hzero, hnone, hsome⟩ := s.clearDone_spec t bm slot rest
    exact ⟨_, exec_writtenBitClearDone hc hb, hclear, hhif, fun g k hg hbit hk _ => hzero g k hg hbit hk, hnone, hsome⟩
  · obtain ⟨hcleared, hrole, hgen⟩ := State.resetOut_spec (s := s) (State.hasTile_lt ht)
    obtain ⟨hrefusing, hrun, hstop, hops, hslots, hheld, hstandby, hswap⟩ := hcleared.vacant
    exact ⟨_, exec_tileReset ht hr, hrefusing, hrun, hstop, hops, hslots, hheld, hstandby, hswap, hrole, hgen, hcleared.zero⟩
  · obtain ⟨htile, hgen, hzero⟩ := s.rejoined_spec t
    exact ⟨_, exec_tileRejoin ht hf hr hd hturn hreact hgraft, congrArg Tile.refusing htile, congrArg Tile.slots htile,
      congrArg Tile.core htile, congrArg Tile.noLaunch htile, hgen, congrArg Tile.role htile, hzero⟩

end Sys2Proof.Machine
end

section
/-! PROOFS. What one module tells the others of a bunch, the end of a previous epoch, and the timers of messages (R158, R334, R335,
R370, R380). -/

namespace Sys2Proof.Machine

open Sys2Proof.Claims

/-! ### Modules of a bunch and their lowest ranks (R380) -/

theorem nodup_eraseDups {α : Type} [BEq α] [LawfulBEq α] : ∀ l : List α, l.eraseDups.Nodup
  | [] => List.nodup_nil
  | a :: l => by
    rw [List.eraseDups_cons, List.nodup_cons]
    exact ⟨by simp, nodup_eraseDups _⟩
termination_by l => l.length
decreasing_by exact Nat.lt_succ_of_le (List.length_filter_le _ _)

/-- A numbered element stands at its number. -/
theorem getElem?_of_mem_numbered {α : Type} {l : List α} {i : Nat} {a : α} (h : (i, a) ∈ numbered l) : l[i]? = some a := by
  obtain ⟨j, hj, he⟩ := List.getElem_of_mem h
  simp only [numbered, List.getElem_zip, List.getElem_range, Prod.mk.injEq] at he
  obtain ⟨rfl, rfl⟩ := he
  exact List.getElem?_eq_getElem _

/-- A module's lowest rank is a leaf of that module. -/
theorem Bunch.module_of_lowestOn {x : Bunch} {k r : Nat} (h : x.lowestOn k = some r) : (x.map[r]?).map Leaf.module = some k := by
  obtain ⟨⟨i, l⟩, hf, rfl⟩ := Option.map_eq_some_iff.1 h
  have hk : l.module = k := by simpa using List.find?_some hf
  rw [getElem?_of_mem_numbered (List.mem_of_find?_eq_some hf), ← hk]
  rfl

/-- Two modules with one lowest rank are one module. -/
theorem Bunch.lowestOn_inj {x : Bunch} {k j r : Nat} (hk : x.lowestOn k = some r) (hj : x.lowestOn j = some r) : k = j :=
  Option.some.inj ((Bunch.module_of_lowestOn hk).symm.trans (Bunch.module_of_lowestOn hj))

theorem Bunch.lowestOn_isSome {x : Bunch} {k : Nat} (h : k ∈ x.otherModules) : (x.lowestOn k).isSome = true := by
  simp only [Bunch.otherModules, List.mem_eraseDups, List.mem_filter, List.mem_map] at h
  obtain ⟨⟨l, hl, hk⟩, -⟩ := h
  obtain ⟨i, hi, rfl⟩ := List.getElem_of_mem hl
  rw [Bunch.lowestOn, Option.isSome_map, List.find?_isSome]
  refine ⟨(i, x.map[i]), List.mem_iff_getElem.2 ⟨i, by simpa [numbered] using hi, ?_⟩, by simpa using hk⟩
  simp [numbered]

/-! ### One message to each of several modules (R366, R367) -/

/-- A message on TC goes out at once, also while injection is paused (R267). -/
theorem State.post_out_tc (s : State) {m : Msg} (h : m.chan = 0) : (s.post m).out = .msg m :: s.out := by
  have hopen : ¬ (s.bram.paused && m.chan != 0) = true := by simp [h]
  unfold State.post
  rw [if_neg hopen]
  dsimp only
  split
  · rw [State.queueAway_out, State.emit_out]
  · rw [State.postNear_out, State.emit_out]

/-- A post leaves every bunch record. -/
theorem State.post_bunches (s : State) (m : Msg) : (s.post m).comp.bunches = s.comp.bunches := by
  unfold State.post
  split
  · rfl
  dsimp only
  split
  · refine Eq.trans ?_ (congrArg Compose.bunches (s.emit_comp (.msg m)))
    unfold State.queueAway
    split
    · rfl
    · exact (congrArg (fun u : State => u.comp.bunches) (State.wakeRunners_unpowered _ _) :)
  · refine Eq.trans ?_ (congrArg Compose.bunches (s.emit_comp (.msg m)))
    unfold State.postNear
    split <;> rfl

theorem State.findBunch_isSome {s : State} {b : BitVec 32} (h : s.bunchOf b ≠ {}) : (s.findBunch b).isSome = true := by
  cases hf : s.findBunch b with
  | some i => rfl
  | none => exact absurd (by rw [State.bunchOf, hf]) h

theorem State.bunchOf_st {s : State} {b : BitVec 32} (h : (s.findBunch b).isSome = true) : (s.bunchOf b).st ≠ 0 := by
  obtain ⟨i, hi⟩ := Option.isSome_iff_exists.1 h
  rw [State.bunchOf_of_find hi]
  exact (State.findBunch_some hi).1

/-- An update that leaves a bunch's state and identifier is what its record becomes. -/
theorem State.bunchOf_updBunch_kept {s : State} {b : BitVec 32} {f : Bunch → Bunch} (h : (s.findBunch b).isSome = true)
    (hst : ∀ x, (f x).st = x.st) (hid : ∀ x, (f x).id = x.id) : (s.updBunch b f).bunchOf b = f (s.bunchOf b) :=
  State.bunchOf_updBunch h (by rw [hst]; exact State.bunchOf_st h) (hid _)

section
variable {s : State} {b : BitVec 32} {k src dst : Nat} (cls len : Nat) (param : BitVec 64) (payload : List Byte)
  (hst : (s.findBunch b).isSome = true) (hs : (s.bunchOf b).lowestOn 0 = some src) (hd : (s.bunchOf b).lowestOn k = some dst)
  (ho : s.pairOpen b src dst = true)
include hs hd ho

/-- What a module sends to another is one message on TC. -/
theorem State.sendToModule_out : ∃ m : Msg, (s.sendToModule b k cls len param payload).out = .msg m :: s.out
    ∧ m.bunch = b ∧ m.cls = cls ∧ m.payload = payload := by
  simp only [State.sendToModule, hs, hd, State.sendMsg, ho, Bool.not_true, Bool.false_eq_true, if_false]
  exact ⟨_, (State.post_out_tc _ rfl).trans (by rw [State.updBunch_out]), rfl, rfl, rfl⟩

include hst

/-- It takes a sequence number of its pair, and the bunch's record stays otherwise. -/
theorem State.sendToModule_bunchOf : (s.sendToModule b k cls len param payload).bunchOf b
    = { s.bunchOf b with
        pairSeq := tput (s.bunchOf b).pairSeq (pairKey src dst) (tget 0 (s.bunchOf b).pairSeq (pairKey src dst) + 1) } := by
  simp only [State.sendToModule, hs, hd, State.sendMsg, ho, Bool.not_true, Bool.false_eq_true, if_false]
  refine (State.bunchOf_of_bunches (State.post_bunches _ _) b).trans ?_
  exact State.bunchOf_updBunch_kept hst (fun _ => rfl) (fun _ => rfl)

end

/-- This module has a lowest rank in a bunch, and its pair with the lowest rank on each module of a list has sequence numbers. -/
structure State.Tells (s : State) (b : BitVec 32) (l : List Nat) : Prop where
  known : (s.findBunch b).isSome = true
  pairs : ∀ k ∈ l, ∃ src dst, (s.bunchOf b).lowestOn 0 = some src ∧ (s.bunchOf b).lowestOn k = some dst
    ∧ s.pairOpen b src dst = true

/-- A message to one module takes no sequence number of the pairs with the others. -/
theorem State.Tells.after_first {s : State} {b : BitVec 32} {k : Nat} {l : List Nat} (h : s.Tells b (k :: l)) (hk : k ∉ l)
    (cls len : Nat) (param : BitVec 64) (payload : List Byte) : (s.sendToModule b k cls len param payload).Tells b l := by
  obtain ⟨src, dst, hs, hd, ho⟩ := h.pairs k List.mem_cons_self
  have hrec := State.sendToModule_bunchOf cls len param payload h.known hs hd ho
  have hlow : ∀ j, ((s.sendToModule b k cls len param payload).bunchOf b).lowestOn j = (s.bunchOf b).lowestOn j :=
    fun j => (congrArg (Bunch.lowestOn · j) hrec :)
  refine ⟨State.findBunch_isSome fun hnone => ?_, fun j hj => ?_⟩
  · exact State.bunchOf_st h.known ((congrArg Bunch.st hrec).symm.trans (congrArg Bunch.st hnone) :)
  · obtain ⟨src', dst', hs', hd', ho'⟩ := h.pairs j (List.mem_cons_of_mem _ hj)
    obtain rfl : src' = src := Option.some.inj (hs'.symm.trans hs)
    refine ⟨src', dst', by rw [hlow, hs'], by rw [hlow, hd'], ?_⟩
    have hne : dst' ≠ dst := by
      rintro rfl
      exact hk (Bunch.lowestOn_inj hd hd' ▸ hj)
    have hkey : pairKey src' dst' ≠ pairKey src' dst := by
      unfold pairKey
      omega
    rw [State.pairOpen, hrec, tget_tput_ne _ _ _ _ _ hkey]
    exact ho'

/-- Telling several modules sends each of them one message. -/
theorem State.Tells.out {b : BitVec 32} (cls len : Nat) (param : BitVec 64) (payload : List Byte) :
    ∀ {l : List Nat} {s : State}, l.Nodup → s.Tells b l →
      ∃ ms, (l.foldl (fun u k => u.sendToModule b k cls len param payload) s).out = ms ++ s.out ∧ ms.length = l.length
        ∧ ∀ o ∈ ms, ∃ a : Msg, o = .msg a ∧ a.bunch = b ∧ a.cls = cls ∧ a.payload = payload
  | [], s, _, _ => ⟨[], rfl, rfl, by simp⟩
  | k :: l, s, hl, h => by
    obtain ⟨hk, hl⟩ := List.nodup_cons.1 hl
    obtain ⟨src, dst, hs, hd, ho⟩ := h.pairs k List.mem_cons_self
    obtain ⟨m, hm, hmsg⟩ := State.sendToModule_out cls len param payload hs hd ho
    obtain ⟨ms, hout, hlen, hms⟩ := State.Tells.out cls len param payload hl (h.after_first hk cls len param payload)
    refine ⟨ms ++ [.msg m], by rw [List.foldl_cons, hout, hm, List.append_assoc]; rfl, by simp [hlen], fun o ho => ?_⟩
    rcases List.mem_append.1 ho with ho | ho
    · exact hms o ho
    · exact ⟨m, List.mem_singleton.1 ho, hmsg⟩

/-! ### Heartbeats (R380) -/

section
variable {s : State} {b : BitVec 32} (hst : (s.bunchOf b).st ≠ 0)
include hst

theorem exec_heartbeatSend (ho : (s.bunchOf b).otherModules ≠ []) (hl : ((s.bunchOf b).lowestOn 0).isSome = true) :
    exec (.heartbeatSend b) s = .next ((s.bunchOf b).otherModules.foldl (fun s m => s.sendToModule b m 0x10 0 0 []) s) :=
  if_pos (by simp [hst, ho, hl])

theorem exec_heartbeatLoss {k : Nat} (hk : k ∈ (s.bunchOf b).otherModules) : exec (.heartbeatLoss b k) s
    = .next (if k ∈ (s.bunchOf b).alive then s.updBunch b (fun x => { x with alive := x.alive.filter (· != k) })
        else s.declareLost b ((s.bunchOf b).ranksOn k)) := by
  refine (if_pos (by simp [hst, hk])).trans ?_
  by_cases ha : k ∈ (s.bunchOf b).alive <;> simp [ha]

/-- A bunch in use tells every other module of it whose pair is open. -/
theorem State.tells_otherModules (hl : ((s.bunchOf b).lowestOn 0).isSome = true)
    (hp : ∀ k ∈ (s.bunchOf b).otherModules, ∀ src dst, (s.bunchOf b).lowestOn 0 = some src →
      (s.bunchOf b).lowestOn k = some dst → s.pairOpen b src dst = true) : s.Tells b (s.bunchOf b).otherModules := by
  refine ⟨State.findBunch_isSome fun h => hst (by rw [h]), fun k hk => ?_⟩
  obtain ⟨src, hs⟩ := Option.isSome_iff_exists.1 hl
  obtain ⟨dst, hd⟩ := Option.isSome_iff_exists.1 (Bunch.lowestOn_isSome hk)
  exact ⟨src, dst, hs, hd, hp k hk src dst hs hd⟩

end

/-! ### The end of a previous epoch (R335) -/

theorem exec_epochDrainZero {s : State} {b : BitVec 32} (hp : (s.bunchOf b).prevLive = true)
    (hd : (s.bunchOf b).sentDrained = false) (ho : s.oldTraffic b = false) : exec (.epochDrainZero b) s
    = .next (((((s.bunchOf b).otherModules.foldl (fun w k => w.sendToModule b k 0x0E 0
        (BitVec.ofNat 64 (((s.bunchOf b).epoch - 1).toNat + 2 ^ 16)) []) s).updBunch b
          (fun x => { x with sentDrained := true })).tryRetire b).goOn) :=
  if_pos (by simp [hp, hd, ho])

/-- A bunch of this module alone retires its previous epoch once it has drained it. -/
theorem State.tryRetire_alone_bunchOf {s : State} {b : BitVec 32} (hp : (s.bunchOf b).prevLive = true)
    (ho : (s.bunchOf b).otherModules = []) :
    ((s.updBunch b (fun x => { x with sentDrained := true })).tryRetire b).bunchOf b
      = { s.bunchOf b with prevLive := false, prevMap := [], drained := [], sentDrained := false } := by
  have hf : (s.findBunch b).isSome = true := State.findBunch_isSome fun h => by simp [h] at hp
  have hset := State.bunchOf_updBunch_kept (f := fun x => { x with sentDrained := true }) hf (fun _ => rfl) (fun _ => rfl)
  generalize s.updBunch b (fun x => { x with sentDrained := true }) = u at hset ⊢
  have hfu : (u.findBunch b).isSome = true := State.findBunch_isSome fun h => by simp [h] at hset
  have hall : (u.bunchOf b).otherModules = [] := (congrArg Bunch.otherModules hset).trans ho
  unfold State.tryRetire
  rw [State.bunchOf_updBunch_kept hfu (fun x => by split <;> rfl) (fun x => by split <;> rfl), hall, if_pos (by simp [hset, hp]), hset]

theorem State.tryRetire_uncomp (s : State) (b : BitVec 32) : (s.tryRetire b).uncomp = s.uncomp := s.updBunch_uncomp b _

/-- Where no graft, no change of composition and no dissolution waits, nothing goes on (R333). -/
theorem State.goOn_idle {s : State} (hg : s.comp.grafts = []) (hw : s.comp.waking = [])
    (hd : ∀ e ∈ s.comp.bunches, e.2.st ≠ 6) : s.goOn = s := by
  have hwake : s.wakeChanges = s := by
    unfold State.wakeChanges
    rw [hw]
    exact ite_self _
  have hnone : s.comp.bunches.filter (fun e => e.2.st == 6) = [] := by simpa using hd
  unfold State.goOn
  simp only [hwake, hg, hnone, List.foldl_nil, List.map_nil]

/-! ### Timeouts of messages (R158, R334, R370) -/

theorem exec_epochHoldExpire {s : State} {b : BitVec 32} {m : Msg} {r : List Msg} (h : (s.bunchOf b).heldMsgs = m :: r) :
    exec (.epochHoldExpire b) s = .next (rejected (s.updBunch b (fun x => { x with heldMsgs := r })) m 1) := by
  change execEpochHoldExpire b s = _
  unfold execEpochHoldExpire
  rw [h, ← State.reply_eq_rejected]
  rfl

theorem State.setTile_bunchOf (s : State) (t : Nat) (x : Tile) (b : BitVec 32) : (s.setTile t x).bunchOf b = s.bunchOf b := rfl

section
variable {s : State} {t u : Nat} {m : Msg} {r : List Msg} (he : (s.tile t).early = m :: r)
  (hl : leafAt (((s.bunchOf m.bunch).mapFor m.epoch).getD (s.bunchOf m.bunch).map) m.src = some u)
include he hl

/-- A sender on this module that has no operation with the message left is not touched. -/
theorem exec_earlyMessageTimeout_unsent
    (ho : ((s.setTile t { s.tile t with early := r }).tile u).ops.find?
      (fun o => o.unans.any (fun q => q.dst == m.dst && q.seq == m.seq)) = none) :
    exec (.earlyMessageTimeout t) s = .next (s.setTile t { s.tile t with early := r }) := by
  change execEarlyMessageTimeout t s = _
  simp only [execEarlyMessageTimeout, he, State.setTile_bunchOf, hl, ho]

/-- The sender's operation that has the message unanswered fails with MSG_TIMEOUT. -/
theorem exec_earlyMessageTimeout_sent {o : EngOp}
    (ho : ((s.setTile t { s.tile t with early := r }).tile u).ops.find?
      (fun o => o.unans.any (fun q => q.dst == m.dst && q.seq == m.seq)) = some o) :
    exec (.earlyMessageTimeout t) s = .next (((s.setTile t { s.tile t with early := r }).markOp u o.id (fun o =>
      { o with unans := o.unans.filter (fun q => !(q.dst == m.dst && q.seq == m.seq)) }.fail m.seq 0x2E)).proceed u) := by
  change execEarlyMessageTimeout t s = _
  simp only [execEarlyMessageTimeout, he, State.setTile_bunchOf, hl, ho]

end

/-- A kernel that is no longer there has no pair whose messages are dropped. -/
theorem exec_msgTimeout_stopped {s : State} {t seq : Nat} {o : EngOp} {u : Sent} (hs : (s.tile t).sentWith seq = some (o, u))
    (hr : (s.tile t).core.run = none) : exec (.msgTimeout t seq) s
      = .next ((s.markOp t o.id (fun p => { p with unans := p.unans.erase u }.fail seq 0x2E)).proceed t) := by
  change execMsgTimeout t seq s = _
  unfold execMsgTimeout
  rw [hs]
  dsimp only
  rw [hr]

/-- Settles O34: the timers by their rows, the heartbeats by what is told to the other modules, the epoch by its retirement. -/
theorem messageTimers : Obligations.MessageTimers := by
  unfold Obligations.MessageTimers
  refine ⟨fun s b m r hm => exec_epochHoldExpire hm, fun s t m r he => ⟨exec_earlyMessageTimeout he,
      fun _ hl => exec_earlyMessageTimeout_unsent he hl, fun _ _ hl => exec_earlyMessageTimeout_sent he hl⟩,
    fun s t seq o u hs => ⟨exec_msgTimeout_stopped hs, fun r => exec_msgTimeout hs⟩, fun s b hst ho hl hp => ?_,
    fun s b k hst hk => exec_heartbeatLoss hst hk,
    fun s b hp hd hold => ⟨fun ho => ?_, fun _ => exec_epochDrainZero hp hd hold⟩, fun s => State.goOn_idle⟩
  · obtain ⟨ms, hout, hlen, hms⟩ := (State.tells_otherModules hst hl hp).out 0x10 0 0 [] (nodup_eraseDups _)
    have hkeep : ((s.bunchOf b).otherModules.foldl (fun s m => s.sendToModule b m 0x10 0 0 []) s).tilesMem = s.tilesMem :=
      foldl_part State.tilesMem _ (fun s m => s.sendToModule_tilesMem ..) _ _
    exact ⟨_, ms, exec_heartbeatSend hst ho hl, hout, hlen, hms, (congrArg Prod.fst hkeep :), (congrArg Prod.snd hkeep :)⟩
  · have hrec := State.tryRetire_alone_bunchOf hp ho
    have hrest := (State.tryRetire_uncomp (s.updBunch b (fun x => { x with sentDrained := true })) b).trans (s.updBunch_uncomp b _)
    have hplaces := (s.updBunch_places b (fun x => { x with sentDrained := true })).trans (State.tryRetire_places _ b)
    refine ⟨(s.updBunch b (fun x => { x with sentDrained := true })).tryRetire b, ?_, by rw [hrec], by rw [hrec], by rw [hrec],
      (congrArg State.tiles hrest :), (congrArg State.mem hrest :), hplaces.2, (congrArg State.out hrest :)⟩
    rw [exec_epochDrainZero hp hd hold, ho]
    rfl

end Sys2Proof.Machine
end

section
/-! PROOFS. General registers and predicates: g0 and p0 discard what is written, and a write reads back in its own register alone
(R169, R170). -/

namespace Sys2Proof.Machine

/-! ### A bit field put into a number -/

/-- `putFld` in three parts: the bits above the field, the field, and the bits below it. -/
theorem putFld_eq (x lo n v : Nat) : putFld x lo n v = 2 ^ lo * (2 ^ n * (x / 2 ^ (lo + n)) + v % 2 ^ n) + x % 2 ^ lo := by
  have hlow : 2 ^ lo * (x / 2 ^ lo) + x % 2 ^ lo = x := Nat.div_add_mod x (2 ^ lo)
  have hfield : 2 ^ lo * (2 ^ n * (x / 2 ^ (lo + n))) + 2 ^ lo * fld x lo n = 2 ^ lo * (x / 2 ^ lo) := by
    rw [← Nat.mul_add, fld_eq, pow_add, ← Nat.div_div_eq_div_mul, Nat.div_add_mod]
  rw [putFld, Nat.mul_add, Nat.mul_comm (fld x lo n), Nat.mul_comm (v % 2 ^ n)]
  omega

/-- A bit of the field is the value's, and every other bit is as before. -/
theorem putFld_testBit (x lo n v j : Nat) :
    (putFld x lo n v).testBit j = if lo ≤ j ∧ j < lo + n then v.testBit (j - lo) else x.testBit j := by
  have hlow : x % 2 ^ lo < 2 ^ lo := Nat.mod_lt _ (Nat.two_pow_pos lo)
  have hval : v % 2 ^ n < 2 ^ n := Nat.mod_lt _ (Nat.two_pow_pos n)
  rw [putFld_eq, Nat.testBit_two_pow_mul_add _ hlow, Nat.testBit_two_pow_mul_add _ hval, Nat.testBit_mod_two_pow,
    Nat.testBit_mod_two_pow, Nat.testBit_div_two_pow]
  by_cases hj : j < lo
  · simp [hj]
  by_cases hn : j < lo + n
  · simp [hj, hn, show j - lo < n by omega, show lo ≤ j by omega]
  · simp [hj, hn, show ¬ j - lo < n by omega, show j - lo - n + (lo + n) = j by omega]

theorem bit_testBit_zero (b : Bool) : (bit b).testBit 0 = b := by cases b <;> rfl

/-! ### Predicates (R169, R170) -/

theorem Core.setP_getLsbD (c : Core) {i j : Nat} (b : Bool) (hi : i ≠ 0) (hj : j < 8) :
    (c.setP i b).p.getLsbD j = if j = i then b else c.p.getLsbD j := by
  rw [Core.setP, if_neg hi, BitVec.getLsbD_ofNat, putFld_testBit]
  by_cases h : j = i
  · subst h
    simp only [hj, le_refl, Nat.lt_add_one, and_self, if_true, Nat.sub_self, bit_testBit_zero, decide_true, Bool.true_and]
  · rw [if_neg (by omega), if_neg h]
    simp [hj, BitVec.getLsbD]

theorem Core.getP_setP_same (c : Core) {i : Nat} (b : Bool) (hi : i ≠ 0) (h8 : i < 8) : (c.setP i b).getP i = b := by
  simp [Core.getP, hi, Core.setP_getLsbD c b hi h8]

theorem Core.getP_setP_ne (c : Core) {i j : Nat} (b : Bool) (h : j ≠ i) (h8 : j < 8) : (c.setP i b).getP j = c.getP j := by
  by_cases hi : i = 0
  · simp [Core.setP, hi]
  · simp [Core.getP, Core.setP_getLsbD c b hi h8, h]

/-- Settles O11: register by register, by the laws of a write of a general register and of a predicate. -/
theorem registerZero : Obligations.RegisterZero := by
  unfold Obligations.RegisterZero
  intro c i v b
  refine ⟨c.getG_zero, rfl, rfl, rfl, fun hi => ?_, fun j hj => c.getG_setG_ne i j v hj, fun hi h8 => c.getP_setP_same b hi h8,
    fun j hj _ h8 => c.getP_setP_ne b hj h8⟩
  rw [Core.getG_setG, if_neg hi]

end Sys2Proof.Machine
end

section
/-! PROOFS. One-word instructions in FULL trace: the packet of one that retires, whether its guard reads zero or it moves a value
into g0, can move bytes at a memory port (R250, R497, R501), where the frame of CoreFrame holds the ports fixed. -/

namespace Sys2Proof.Machine

open Sys2Proof.Claims

/-! ### A guard that reads zero (R172, R202) -/

/-- A one-word row whose guard reads zero only retires. -/
theorem rilax_guarded {name : String} {cls op t : Nat} {w : Word} {dec : Bool} {k : State → Eff} {s : State}
    (hr : s.coreReady t = true) (hc : wClass w = cls) (ho : wOp w = op) (hf : s.fetchTrap t 8 = none) (hd : dec = true)
    (hg : (s.tile t).core.guard w = false) : rilax name cls op t w dec k s = .next (s.retire t 8) := by
  simp [rilax, State.issueBase, State.apply, hr, hc, ho, hf, hd, hg]

/-! ### The statements -/

/-- Refutes O12: on `tracing`, a `sys.read` of the rank into g0 retires, and its trace packet moves bytes at memory port 0. -/
theorem not_descriptorAndSpecialMoves : ¬ Obligations.DescriptorAndSpecialMoves := by
  unfold Obligations.DescriptorAndSpecialMoves
  rintro ⟨h, -⟩
  have htakes : Takes tracing 0 0xF000000000000000 0xF 0 (wRB (0xF000000000000000 : Word) == 0
      && wRC (0xF000000000000000 : Word) == 0 && fld (wImm (0xF000000000000000 : Word)) 8 29 == 0
      && selectorOk (wImm (0xF000000000000000 : Word))) := by
    unfold Takes; decide
  obtain ⟨-, -, -, hread, -⟩ := h tracing 0 0xF000000000000000
  have hx : exec (.sysRead 0 0xF000000000000000) tracing = .next (tracing.retire 0 8) :=
    rilax_takes (name := "SYS_READ") htakes
  exact tracing_retire_frame (hx ▸ hread htakes)

/-- Refutes O26: on `tracing`, an `add` whose guard reads zero retires, and its trace packet moves bytes at memory port 0. -/
theorem not_oneWordChecks : ¬ Obligations.OneWordChecks := by
  unfold Obligations.OneWordChecks
  intro h
  let w : Word := 0x0010000000000000
  have hmem : (Instr.add 0 w, 0, 0, aluDec w) ∈ oneWordRows 0 w := List.mem_cons_self
  have hr : tracing.coreReady 0 = true := by decide
  have hc : wClass w = 0 := by decide
  have ho : wOp w = 0 := by decide
  have hf : tracing.fetchTrap 0 8 = none := by decide
  have hd : aluDec w = true := by decide
  have hg : (tracing.tile 0).core.guard w = false := by decide
  obtain ⟨-, -, hguard, -⟩ := h tracing 0 w hr _ hmem
  have hx : exec (.add 0 w) tracing = .next (tracing.retire 0 8) := rilax_guarded (name := "ADD") hr hc ho hf hd hg
  exact tracing_retire_frame (hx ▸ hguard hc ho hf hd hg)

end Sys2Proof.Machine
end

section
/-! PROOFS. A scalar instruction in FULL trace: the packet of one that retires can move bytes at a memory port (R250, R497, R501), where
the frame of CoreFrame holds the ports fixed. -/

namespace Sys2Proof.Machine

open Sys2Proof.Claims

/-- Refutes O13: on `tracing`, an `add` into g0 retires, and its trace packet moves bytes at memory port 0. -/
theorem not_scalarResults : ¬ Obligations.ScalarResults := by
  unfold Obligations.ScalarResults
  rintro ⟨h, -⟩
  have htakes : Takes tracing 0 0 0 0x0 (aluDec 0) := by
    unfold Takes; decide
  obtain ⟨hadd, -⟩ := h tracing 0 0
  have hx : exec (.add 0 0) tracing = .next (tracing.retire 0 8) := rilax_takes (name := "ADD") htakes
  exact tracing_retire_frame (hx ▸ hadd htakes)

end Sys2Proof.Machine
end

section
/-! PROOFS. What the accesses of cores and engines look at: the registers of every core, the bytes of the device, the ports that have
failed and the traces. Traffic and counted errors leave them, writes of spots change the bytes they name alone (R54, R57, R230, R237). -/

namespace Sys2Proof.Machine

/-! ### What an access looks at -/

/-- The cores, the bytes of the device, the addresses on failed ports, and the traces. -/
def State.face (s : State) : (Nat → Core) × (Nat → Byte) × (Nat → Bool) × (Nat → Trace) :=
  (fun k => (s.tile k).core, s.peek, s.addrFailed, s.trace)

section
variable {s u : State} (h : u.face = s.face)
include h

theorem State.core_of_face (k : Nat) : (u.tile k).core = (s.tile k).core := congrFun (congrArg Prod.fst h) k

theorem State.peek_of_face (a : Nat) : u.peek a = s.peek a := congrFun (congrArg (fun f => f.2.1) h) a

theorem State.addrFailed_of_face (a : Nat) : u.addrFailed a = s.addrFailed a := congrFun (congrArg (fun f => f.2.2.1) h) a

theorem State.trace_of_face (t : Nat) : u.trace t = s.trace t := congrFun (congrArg (fun f => f.2.2.2) h) t

end

theorem State.count_face (s : State) (g i k : Nat) : (s.count g i k).face = s.face := by
  unfold State.count
  dsimp only
  exact ite_part State.face rfl rfl

theorem State.emit_face (s : State) (o : Out) : (s.emit o).face = s.face := by
  have hfailed : (s.emit o).addrFailed = s.addrFailed := (congrArg State.addrFailed (s.emit_unlanded o) :)
  refine Prod.ext (funext fun k => ?_) (Prod.ext (funext (s.emit_peek o)) (Prod.ext hfailed (funext (s.emit_trace o))))
  exact congrArg Tile.core (s.emit_tile o k)

/-- A tile that keeps its core. -/
theorem State.setTile_face (s : State) {t : Nat} {x : Tile} (h : x.core = (s.tile t).core) : (s.setTile t x).face = s.face := by
  refine Prod.ext (funext fun k => ?_) rfl
  change ((s.setTile t x).tile k).core = (s.tile k).core
  by_cases hk : k = t
  · rw [hk, State.setTile_tile, h]
  · rw [State.setTile_tile_ne _ _ _ _ hk]

/-- A port that stays failed, or not. -/
theorem State.setPort_face (s : State) {m : Nat} {x : Port} (h : x.st = (s.port m).st) : (s.setPort m x).face = s.face := by
  refine Prod.ext rfl (Prod.ext rfl (Prod.ext (funext fun a => ?_) rfl))
  change (s.setPort m x).addrFailed a = s.addrFailed a
  unfold State.addrFailed
  by_cases ha : fld a 40 4 = m
  · rw [ha, State.setPort_port, h]
  · rw [State.setPort_port_ne _ _ _ _ ha]

/-! ### Traffic and errors -/

theorem State.portMove_face (s : State) (m cls k n : Nat) : (s.portMove m cls k n).face = s.face := by
  have hcross : (if cls = 0 then s.crossUp (16 + m) (toBytes 8 n) else s.crossDown (16 + m) (toBytes 8 n)).face = s.face :=
    ite_part State.face rfl rfl
  have hport : ∀ u : State, ((u.setPort m ((u.port m).carry cls k n)).count (68 + m) cls n).face = u.face := fun u =>
    (State.count_face _ _ _ _).trans (u.setPort_face rfl)
  unfold State.portMove
  dsimp only
  generalize (if cls = 0 then s.crossUp (16 + m) (toBytes 8 n) else s.crossDown (16 + m) (toBytes 8 n)) = u at hcross ⊢
  have hmem : (if k < 68 then (u.setTile k { u.tile k with memBytes := (u.tile k).memBytes + n }).count k 21 n else u).face = u.face :=
    ite_part State.face ((State.count_face _ _ _ _).trans (u.setTile_face rfl)) rfl
  refine ite_part State.face ?_ ((State.count_face _ _ _ _).trans ?_) <;> exact (hport _).trans (hmem.trans hcross)

theorem State.moveLines_face (s : State) (cls k : Nat) (ls : List Nat) : (s.moveLines cls k ls).face = s.face :=
  foldl_part State.face _ (fun s _ => ite_part State.face rfl (s.portMove_face _ _ _ _)) _ _

theorem State.askHost_face (s : State) (l : List Spot) : (s.askHost l).face = s.face :=
  foldl_part State.face _ (fun s _ => s.emit_face _) _ _

theorem State.traffic_face (s : State) (l : List Spot) (cls k : Nat) : (s.traffic l cls k).face = s.face := by
  unfold State.traffic
  refine (State.moveLines_face _ _ _ _).trans ((State.moveLines_face _ _ _ _).trans ?_)
  exact ite_part State.face (s.askHost_face l) rfl

theorem State.countLine_face (s : State) (res : Res) (n : Nat) : (s.countLine res n).face = s.face := by
  unfold State.countLine
  dsimp only
  split
  · cases res with
    | corrected => exact s.setTile_face rfl
    | uncorrectable => exact s.setTile_face rfl
    | _ => rfl
  · cases res with
    | corrected => exact s.setPort_face rfl
    | uncorrectable => exact s.setPort_face rfl
    | _ => rfl

theorem State.countEcc_face (s : State) (l : List Spot) (res : Res) : (s.countEcc l res).face = s.face :=
  foldl_part State.face _ (fun s n => s.countLine_face res n) _ _

/-! ### Writes of spots (R54, R237) -/

theorem State.poke_addrFailed (s : State) (a : Nat) (b : Byte) : (s.poke a b).addrFailed = s.addrFailed :=
  (congrArg State.addrFailed (s.poke_unlanded a b) :)

theorem State.pokeSpot_addrFailed (s : State) (p : Spot) (b : Byte) : (s.pokeSpot p b).addrFailed = s.addrFailed :=
  (congrArg State.addrFailed (s.pokeSpot_unlanded p b) :)

/-- A byte on a port that has not failed takes what is written, and every other byte stays. -/
theorem State.peek_pokeDev (s : State) (a c : Nat) (m : Option Nat) (b : Byte) : (s.pokeSpot (.dev a m) b).peek c
    = if (m = some c ∨ c = a) ∧ s.addrFailed c = false then b else s.peek c := by
  have hput : ∀ (u : State) (k : Nat), u.addrFailed = s.addrFailed → (if u.addrFailed k = true then u else u.poke k b).peek c
      = if c = k ∧ s.addrFailed c = false then b else u.peek c := by
    intro u k hu
    rw [hu]
    by_cases hk : c = k
    · subst hk
      cases hf : s.addrFailed c <;> simp [peek_poke_same]
    · simp only [hk, false_and, if_false]
      split
      · rfl
      · exact peek_poke_ne _ _ _ _ hk
  have hfirst : (if s.addrFailed a = true then s else s.poke a b).addrFailed = s.addrFailed :=
    ite_part State.addrFailed rfl (s.poke_addrFailed a b)
  cases m with
  | none =>
    refine (hput s a rfl).trans ?_
    simp
  | some k =>
    refine (hput _ k hfirst).trans ?_
    rw [hput s a rfl]
    by_cases hk : c = k
    · subst hk
      cases s.addrFailed c <;> simp
    · simp [hk, Ne.symm hk]

theorem State.peek_pokeSpot_ne {s : State} {p : Spot} {c : Nat} (h : c ∉ p.addrs) (b : Byte) : (s.pokeSpot p b).peek c = s.peek c := by
  cases p with
  | dev a m =>
    rw [State.peek_pokeDev, if_neg]
    rintro ⟨hc, -⟩
    cases m <;> simp_all [Spot.addrs]
  | _ => rfl

theorem State.peek_pokeSpots_ne {c : Nat} : ∀ (l : List (Spot × Byte)) (s : State), (∀ e ∈ l, c ∉ e.1.addrs) →
    (s.pokeSpots l).peek c = s.peek c
  | [], _, _ => rfl
  | _ :: l, _, h => (State.peek_pokeSpots_ne l _ fun e he => h e (List.mem_cons_of_mem _ he)).trans
      (State.peek_pokeSpot_ne (h _ List.mem_cons_self) _)

/-- What the bytes of the device are after a write follows from what they were and which ports have failed. -/
theorem State.pokeSpots_congr : ∀ (l : List (Spot × Byte)) {s u : State}, (∀ a, u.peek a = s.peek a) →
    u.addrFailed = s.addrFailed → ∀ a, (u.pokeSpots l).peek a = (s.pokeSpots l).peek a
  | [], _, _, hp, _ => hp
  | (p, b) :: l, s, u, hp, hf => State.pokeSpots_congr l (s := s.pokeSpot p b) (u := u.pokeSpot p b)
      (fun a => by
        cases p with
        | dev a m => rw [State.peek_pokeDev, State.peek_pokeDev, hp, hf]
        | _ => exact hp a)
      (by rw [State.pokeSpot_addrFailed, State.pokeSpot_addrFailed, hf])

/-- Memory takes the bytes of a write; that lines are whole again, and what goes to the host, does not touch it. -/
theorem State.peek_writeSpots (s : State) (l : List Spot) (bs : List Byte) (c : Nat) :
    (s.writeSpots l bs).peek c = (s.pokeSpots (l.zip bs)).peek c := by
  have hrenew : ∀ u : State, (u.renewLines l).peek c = u.peek c := fun u => by
    unfold State.renewLines
    exact ite_part (State.peek · c) rfl rfl
  unfold State.writeSpots
  exact (foldl_part (State.peek · c) _ (fun u e => u.emit_peek _ c) _ _).trans (hrenew _)

theorem State.peek_writeSpots_ne {s : State} {l : List Spot} {c : Nat} (h : ∀ p ∈ l, c ∉ p.addrs) (bs : List Byte) :
    (s.writeSpots l bs).peek c = s.peek c :=
  (s.peek_writeSpots l bs c).trans (State.peek_pokeSpots_ne _ _ fun e he => h e.1 (List.of_mem_zip he).1)

theorem State.peek_writeSpots_of_face {s u : State} (h : u.face = s.face) (l : List Spot) (bs : List Byte) (c : Nat) :
    (u.writeSpots l bs).peek c = (s.writeSpots l bs).peek c := by
  rw [State.peek_writeSpots, State.peek_writeSpots]
  exact State.pokeSpots_congr _ (State.peek_of_face h) (funext (State.addrFailed_of_face h)) c

/-- A range of one place takes its byte at each copy whose port has not failed. -/
theorem State.peek_writeSpots_dev (s : State) (a c : Nat) (m : Option Nat) (b : Byte) :
    (s.writeSpots [.dev a m] [b]).peek c = if (m = some c ∨ c = a) ∧ s.addrFailed c = false then b else s.peek c :=
  (s.peek_writeSpots _ _ c).trans (s.peek_pokeDev a c m b)

theorem State.writeSpots_tile (s : State) (l : List Spot) (bs : List Byte) (k : Nat) : (s.writeSpots l bs).tile k = s.tile k :=
  (congrArg (State.tile · k) (s.writeSpots_unlanded l bs) :)

theorem State.poke_obs (s : State) (a : Nat) (b : Byte) : (s.poke a b).obs = s.obs := by
  unfold State.poke
  split <;> rfl

theorem State.pokeSpots_obs : ∀ (l : List (Spot × Byte)) (s : State), (s.pokeSpots l).obs = s.obs
  | [], _ => rfl
  | (p, b) :: l, s => by
    refine (State.pokeSpots_obs l _).trans ?_
    have hput : ∀ (u : State) (c : Prop) [Decidable c] (k : Nat), (if c then u else u.poke k b).obs = u.obs := fun u _ _ k =>
      ite_part State.obs rfl (u.poke_obs k b)
    cases p with
    | dev a m =>
      cases m with
      | none => exact hput s _ a
      | some k => exact (hput _ _ k).trans (hput s _ a)
    | _ => rfl

theorem State.writeSpots_obs (s : State) (l : List Spot) (bs : List Byte) : (s.writeSpots l bs).obs = s.obs := by
  unfold State.writeSpots
  refine (foldl_part State.obs _ (fun u e => u.emit_obs _) _ _).trans (Eq.trans ?_ (State.pokeSpots_obs (l.zip bs) s))
  unfold State.renewLines
  exact ite_part State.obs rfl rfl

/-! ### An instruction that retires (R200, R501) -/

theorem State.retire_core (s : State) (t n : Nat) : ((s.retire t n).tile t).core
    = { (s.tile t).core with pc := (s.tile t).core.pc + BitVec.ofNat 64 n, stall := .none } := by
  obtain ⟨v, -, -, hr⟩ := s.retire_eq t n
  rw [hr, State.setCore, State.setTile_tile]

theorem State.retire_tile_ne (s : State) {t k : Nat} (n : Nat) (h : k ≠ t) : (s.retire t n).tile k = s.tile k := by
  obtain ⟨v, hv, -, hr⟩ := s.retire_eq t n
  rw [hr, State.setCore, State.setTile_tile_ne _ _ _ _ h, State.tile_of_unsampled hv]

/-- With its trace OFF the instruction writes no packet. -/
theorem State.retire_peek {s : State} {t : Nat} (h : (s.trace t).mode = 0) (n a : Nat) : (s.retire t n).peek a = s.peek a := by
  obtain ⟨v, -, hmode, hr⟩ := s.retire_eq t n
  obtain ⟨-, hmem, hwritten⟩ := hmode h
  rw [hr, State.setCore, State.setTile_peek]
  exact State.peek_of_mem hmem hwritten a

end Sys2Proof.Machine
end

section
/-! PROOFS. Loads and stores of the control core: what each row does when its checks pass, and what the data that returns leaves (R207,
R233, R258, R261, R267, R268). -/

namespace Sys2Proof.Machine

open Sys2Proof.Claims

/-! ### The address (R204, R207) -/

theorem sextNat_eq_toInt (x n : Nat) : sextNat x n = (BitVec.ofNat n x).toInt := by
  rw [BitVec.toInt_eq_msb_cond, BitVec.msb_eq_getLsbD_last, BitVec.getLsbD_ofNat, BitVec.toNat_ofNat, sextNat, Nat.testBit_mod_two_pow]
  push_cast
  rfl

/-- sext(IMM) is the low 37 bits of the word, sign-extended. -/
theorem wSext_eq (w : Word) : wSext w = (BitVec.ofNat 37 w.toNat).signExtend 64 := by
  have himm : BitVec.ofNat 37 (wImm w) = BitVec.ofNat 37 w.toNat := by
    apply BitVec.eq_of_toNat_eq
    simp [wImm, fld_zero]
  rw [wSext, sextNat_eq_toInt, himm]
  rfl

theorem State.lsVa_eq (s : State) (t : Nat) (w : Word) : s.lsVa t w = s.g t (wRB w) + (BitVec.ofNat 37 w.toNat).signExtend 64 := by
  rw [State.lsVa, wSext_eq]

/-! ### The rows (R199, R202) -/

/-- The loads: each with its operation, its size, whether it loads a descriptor, and whether it extends the sign. -/
def loadRows (t : Nat) (w : Word) : List (Instr × Nat × Nat × Bool × Bool) :=
  [(.ldU8 t w, 0, 1, false, false), (.ldU16 t w, 1, 2, false, false), (.ldU32 t w, 2, 4, false, false),
   (.ld64 t w, 3, 8, false, false), (.ldS8 t w, 4, 1, false, true), (.ldS16 t w, 5, 2, false, true),
   (.ldS32 t w, 6, 4, false, true), (.ldTd t w, 11, 32, true, false)]

/-- The stores: each with its operation, its size and its bytes. -/
def storeRows (s : State) (t : Nat) (w : Word) : List (Instr × Nat × Nat × List Byte) :=
  [(.st8 t w, 7, 1, toBytes 1 (s.g t (wRA w)).toNat), (.st16 t w, 8, 2, toBytes 2 (s.g t (wRA w)).toNat),
   (.st32 t w, 9, 4, toBytes 4 (s.g t (wRA w)).toNat), (.st64 t w, 10, 8, toBytes 8 (s.g t (wRA w)).toNat),
   (.stTd t w, 12, 32, toBytes 32 ((s.tile t).core.getTd (wRA w)).toNat)]

theorem takes_of_dec {s : State} {t cls op : Nat} {w : Word} {d e : Bool} (h : Takes s t w cls op d) (he : d = e) :
    Takes s t w cls op e := he ▸ h

/-- A load that the core takes. -/
theorem exec_load {s : State} {t op n : Nat} {w : Word} {td sg : Bool} {i : Instr} (hi : (i, op, n, td, sg) ∈ loadRows t w)
    (h : Takes s t w 2 op (wRC w == 0 && (!td || wRA w ≤ 15))) : exec i s = .next (s.apply t 8 (loadEff t td n sg w s)) := by
  have hplain : ∀ {op}, Takes s t w 2 op (wRC w == 0 && (!false || wRA w ≤ 15)) → Takes s t w 2 op (wRC w == 0) :=
    fun h => takes_of_dec h (Bool.and_true _)
  simp only [loadRows, List.mem_cons, List.not_mem_nil, or_false, Prod.mk.injEq] at hi
  obtain ⟨rfl, rfl, rfl, rfl, rfl⟩ | ⟨rfl, rfl, rfl, rfl, rfl⟩ | ⟨rfl, rfl, rfl, rfl, rfl⟩ | ⟨rfl, rfl, rfl, rfl, rfl⟩
    | ⟨rfl, rfl, rfl, rfl, rfl⟩ | ⟨rfl, rfl, rfl, rfl, rfl⟩ | ⟨rfl, rfl, rfl, rfl, rfl⟩ | ⟨rfl, rfl, rfl, rfl, rfl⟩ := hi
  · exact rilax_takes (name := "LD_U8") (hplain h)
  · exact rilax_takes (name := "LD_U16") (hplain h)
  · exact rilax_takes (name := "LD_U32") (hplain h)
  · exact rilax_takes (name := "LD_64") (hplain h)
  · exact rilax_takes (name := "LD_S8") (hplain h)
  · exact rilax_takes (name := "LD_S16") (hplain h)
  · exact rilax_takes (name := "LD_S32") (hplain h)
  · exact rilax_takes (name := "LD_TD") h

/-- A store that the core takes. -/
theorem exec_store {s : State} {t op n : Nat} {w : Word} {i : Instr} {bs : List Byte} (hi : (i, op, n, bs) ∈ storeRows s t w)
    (h : Takes s t w 2 op (wRC w == 0 && (op != 12 || wRA w ≤ 15))) :
    ∃ f, f s = bs ∧ exec i s = .next (s.apply t 8 (storeEff t n w f s)) := by
  have hplain : ∀ {op}, Takes s t w 2 op (wRC w == 0 && (true || wRA w ≤ 15)) → Takes s t w 2 op (wRC w == 0) :=
    fun h => takes_of_dec h (Bool.and_true _)
  simp only [storeRows, List.mem_cons, List.not_mem_nil, or_false, Prod.mk.injEq] at hi
  obtain ⟨rfl, rfl, rfl, rfl⟩ | ⟨rfl, rfl, rfl, rfl⟩ | ⟨rfl, rfl, rfl, rfl⟩ | ⟨rfl, rfl, rfl, rfl⟩ | ⟨rfl, rfl, rfl, rfl⟩ := hi
  · exact ⟨_, rfl, rilax_takes (name := "ST_8") (hplain h)⟩
  · exact ⟨_, rfl, rilax_takes (name := "ST_16") (hplain h)⟩
  · exact ⟨_, rfl, rilax_takes (name := "ST_32") (hplain h)⟩
  · exact ⟨_, rfl, rilax_takes (name := "ST_64") (hplain h)⟩
  · exact ⟨_, rfl, rilax_takes (name := "ST_TD") h⟩

/-! ### Loads (R207) -/

/-- The core that a load of the bytes of `l` holds. -/
def State.loading (s : State) (t rd n : Nat) (td sg : Bool) (va : Word) (l : List Spot) : State :=
  s.setCore t { (s.tile t).core with
    stall := .load td rd n sg va
    loadRoutes := s.routesTo (tileRouter t) l, loadLost := 0, loadCut := s.meetsFailed (tileRouter t) l }

section
variable (s : State) (t : Nat) (td sg : Bool) {n : Nat} {w : Word} {va : Word} (hva : s.lsVa t w = va)
include hva

theorem loadEff_misaligned (h : va.toNat % n ≠ 0) : loadEff t td n sg w s = .trap 3 0 := by
  subst hva
  exact if_pos (bne_iff_ne.2 h)

theorem loadEff_uncovered (h : va.toNat % n = 0) (hok : s.vaOk t va n 0 coreTargets = false) : loadEff t td n sg w s = .trap 4 0 := by
  subst hva
  simp [loadEff, h, hok]

theorem loadEff_sent (h : va.toNat % n = 0) (hok : s.vaOk t va n 0 coreTargets = true) : loadEff t td n sg w s
    = .hold (if s.coreQueued t (s.vaSpots t va n) then s
        else ((s.loading t (wRA w) n td sg va (s.vaSpots t va n)).sendCut (tileRouter t) (s.vaSpots t va n)).wakeFor t
          (s.vaSpots t va n)) := by
  subst hva
  simp only [loadEff, h, hok, bne_self_eq_false, Bool.not_true, Bool.false_eq_true, if_false]
  split <;> rfl

end

/-- An access that meets no failed router, no sleeping tile and no parked port changes nothing on its way (R258, R267, R429). -/
theorem State.wakeFor_sendCut {s : State} {r t : Nat} {l : List Spot} (hmeets : s.meetsFailed r l = false) (hasleep : s.asleep t l = [])
    (haway : s.portsAway l = []) : (s.sendCut r l).wakeFor t l = s := by
  rw [State.sendCut, if_neg (by rw [hmeets]; decide), State.wakeFor, hasleep, haway]
  rfl

/-- The registers after the bytes `bs` of a load have returned. -/
def Core.loaded (c : Core) (td : Bool) (rd n : Nat) (sg : Bool) (bs : List Byte) : Core :=
  if td then { c with td := tput c.td rd (BitVec.ofNat 256 (ofBytes bs)) } else c.setG rd (loadValue n sg bs)

theorem Core.loaded_pc (c : Core) (td : Bool) (rd n : Nat) (sg : Bool) (bs : List Byte) : (c.loaded td rd n sg bs).pc = c.pc :=
  ite_part Core.pc rfl (ite_part Core.pc rfl rfl)

/-- LOAD_DATA_RETURN of bytes that can be read writes them and retires the load (R207). -/
theorem exec_loadDataReturn {s : State} {t rd n : Nat} {td sg : Bool} {va : Word} {res : Res} (host : HostBytes)
    (hstall : (s.tile t).core.stall = .load td rd n sg va) (hres : res = .ok ∨ res = .corrected) (hlost : (s.tile t).core.loadLost ≠ 2)
    (hcut : (s.tile t).core.loadCut = false) (hopen : s.accessOpen t t (s.vaSpots t va n) = true)
    (hmove : s.moveRes (s.vaSpots t va n) [] res = res) :
    ∃ v : State, v.face = s.face ∧ exec (.loadDataReturn t res host) s = .next
      ((v.setCore t ((s.tile t).core.loaded td rd n sg (s.readSpots (s.vaSpots t va n) host))).retire t 8) := by
  have hface : ((s.countEcc (s.vaSpots t va n) res).traffic (s.vaSpots t va n) 0 t).face = s.face :=
    (State.traffic_face _ _ _ _).trans (s.countEcc_face _ _)
  have hcore := State.core_of_face hface t
  have hl : lostRes (s.tile t).core.loadLost res = some res := by
    rw [lostRes, if_neg hlost, if_neg (by rcases hres with rfl | rfl <;> decide)]
  have hun : s.unresolved (s.tile t).core.loadCut res = false := by
    rw [State.unresolved, hcut]
    rcases hres with rfl | rfl <;> rfl
  refine ⟨_, hface, ?_⟩
  change execLoadDataReturn t res host s = _
  unfold execLoadDataReturn
  simp only [hstall, hl, hmove, hun, hopen, Bool.not_true, Bool.or_self, Bool.false_eq_true, if_false]
  rw [hcore]
  rcases hres with rfl | rfl <;> rfl

/-- Settles O14: the rows by their checks, the returning data by the laws of traffic and of an instruction that retires. -/
theorem loads : Obligations.Loads := by
  unfold Obligations.Loads
  refine ⟨fun s t w op n td sg i hi htakes => ?_, fun s t rd n td sg va host res hstall hres hlost hcut hopen hmove _ => ?_⟩
  · have hx := exec_load hi htakes
    have hva := s.lsVa_eq t w
    dsimp only
    refine ⟨fun h => ?_, fun h hok => ?_, fun h hok => ?_⟩
    · rw [hx, loadEff_misaligned s t td sg hva h]; rfl
    · rw [hx, loadEff_uncovered s t td sg hva h hok]; rfl
    · rw [hx, loadEff_sent s t td sg hva h hok]
      refine ⟨fun hq => ?_, fun hq => ?_, fun hq hmeets hasleep haway => ?_⟩
      · rw [if_pos hq]; rfl
      · rw [if_neg (by rw [hq]; decide)]; rfl
      · rw [if_neg (by rw [hq]; decide)]
        exact congrArg Host.Outcome.next (State.wakeFor_sendCut (s := s.loading t (wRA w) n td sg _ _) hmeets hasleep haway)
  · obtain ⟨v, hface, hx⟩ := exec_loadDataReturn host hstall hres hlost hcut hopen hmove
    refine ⟨_, hx, ?_, fun k hk => ?_, fun hmode a => ?_⟩
    · rw [State.retire_core, State.setCore, State.setTile_tile]
      dsimp only
      rw [Core.loaded_pc]
      cases td <;> cases sg <;> rfl
    · rw [State.retire_tile_ne _ _ hk, State.setCore, State.setTile_tile_ne _ _ _ _ hk, State.core_of_face hface]
    · rw [State.retire_peek (by rw [State.setCore, State.setTile_trace, State.trace_of_face hface, hmode]), State.setCore,
        State.setTile_peek, State.peek_of_face hface]

/-! ### Stores (R207) -/

section
variable {s : State} {t n : Nat} {w : Word} {va : Word} (f : State → List Byte) (hva : s.lsVa t w = va)
include hva

theorem storeEff_misaligned (h : va.toNat % n ≠ 0) : storeEff t n w f s = .trap 3 0 := by
  subst hva
  exact if_pos (bne_iff_ne.2 h)

theorem storeEff_uncovered (h : va.toNat % n = 0) (hok : s.vaOk t va n 1 coreTargets = false) : storeEff t n w f s = .trap 4 0 := by
  subst hva
  simp [storeEff, h, hok]

variable (h : va.toNat % n = 0) (hok : s.vaOk t va n 1 coreTargets = true)
include h hok

theorem storeEff_queued (hq : s.coreQueued t (s.vaSpots t va n) = true) : storeEff t n w f s = .hold s := by
  subst hva
  simp [storeEff, h, hok, hq]

variable (hq : s.coreQueued t (s.vaSpots t va n) = false)
include hq

theorem storeEff_cut (hm : s.meetsFailed (tileRouter t) (s.vaSpots t va n) = true) : storeEff t n w f s
    = .hold ((s.setCore t { (s.tile t).core with stall := .lost }).sendCut (tileRouter t) (s.vaSpots t va n)) := by
  subst hva
  simp [storeEff, h, hok, hq, hm]

variable (hr : s.rangeRes (s.vaSpots t va n) .ok = .ok) (hm : s.meetsFailed (tileRouter t) (s.vaSpots t va n) = false)
include hr hm

theorem storeEff_served : storeEff t n w f s
    = if s.coreWaits t (s.vaSpots t va n) then .hold (s.wakeFor t (s.vaSpots t va n))
      else .retire ((s.traffic (s.vaSpots t va n) 1 t).writeSpots (s.vaSpots t va n) (f s)) := by
  have hmove : s.moveRes [] (s.vaSpots t va n) .ok = .ok := by
    rw [State.moveRes, List.nil_append, hr]
    rfl
  subst hva
  simp [storeEff, h, hok, hq, hm, hmove]

end

/-- A write of spots is no part of what a core looks at, but for the bytes. -/
theorem State.writeSpots_rest (s : State) (l : List Spot) (bs : List Byte) : (s.writeSpots l bs).tiles = s.tiles
    ∧ (s.writeSpots l bs).ports = s.ports ∧ (s.writeSpots l bs).hif = s.hif ∧ (s.writeSpots l bs).comp = s.comp :=
  have h := s.writeSpots_unlanded l bs
  ⟨(congrArg State.tiles h :), (congrArg State.ports h :), (congrArg State.hif h :), (congrArg State.comp h :)⟩

/-- A write of spots keeps the traces. -/
theorem State.writeSpots_trace (s : State) (l : List Spot) (bs : List Byte) (t : Nat) : (s.writeSpots l bs).trace t = s.trace t :=
  congrArg (fun o : Obs => tget ({} : Trace) o.traces t) (s.writeSpots_obs l bs)

/-- A store that has written its bytes retires. -/
theorem State.retire_writeSpots {s v : State} (h : v.face = s.face) (t n : Nat) (l : List Spot) (bs : List Byte) :
    (((v.writeSpots l bs).retire t n).tile t).core
        = { (s.tile t).core with pc := (s.tile t).core.pc + BitVec.ofNat 64 n, stall := .none }
      ∧ (∀ k, k ≠ t → (((v.writeSpots l bs).retire t n).tile k).core = (s.tile k).core)
      ∧ ((s.trace t).mode = 0 → ∀ a, ((v.writeSpots l bs).retire t n).peek a = (s.writeSpots l bs).peek a) := by
  refine ⟨?_, fun k hk => ?_, fun hmode a => ?_⟩
  · rw [State.retire_core, State.writeSpots_tile, State.core_of_face h]
  · rw [State.retire_tile_ne _ _ hk, State.writeSpots_tile, State.core_of_face h]
  · rw [State.retire_peek (by rw [State.writeSpots_trace, State.trace_of_face h, hmode]), State.peek_writeSpots_of_face h]

theorem State.readSpots_dev (s : State) (a : Nat) : s.readSpots [.dev a none] [] = [s.peek a] := rfl

/-- Settles O15: the rows by their checks, what they write by the laws of writes of spots. -/
theorem stores : Obligations.Stores := by
  unfold Obligations.Stores
  refine ⟨fun s t w op n i bs hi htakes => ?_, fun s l bs => ⟨fun a ha => State.peek_writeSpots_ne ha bs, s.writeSpots_rest l bs⟩,
    fun s a b ha => ?_, fun s a m b ha hm _ => ?_⟩
  · obtain ⟨f, rfl, hx⟩ := exec_store hi htakes
    have hva := s.lsVa_eq t w
    dsimp only
    refine ⟨fun h => ?_, fun h hok => ?_, fun h hok hq => ?_, fun h hok hq hm => ?_, fun h hok hq hr hm hw => ?_,
      fun h hok hq hr hm hw => ⟨_, hx, ?_⟩⟩
    · rw [hx, storeEff_misaligned f hva h]; rfl
    · rw [hx, storeEff_uncovered f hva h hok]; rfl
    · rw [hx, storeEff_queued f hva h hok hq]; rfl
    · rw [hx, storeEff_cut f hva h hok hq hm]; rfl
    · rw [hx, storeEff_served f hva h hok hq hr hm, if_pos hw]; rfl
    · rw [storeEff_served f hva h hok hq hr hm, if_neg (by rw [hw]; decide)]
      exact State.retire_writeSpots (s.traffic_face _ 1 t) t 8 _ _
  · rw [State.readSpots_dev, State.peek_writeSpots_dev, if_pos ⟨.inr rfl, ha⟩]
  · exact ⟨(s.peek_writeSpots_dev a a _ b).trans (if_pos ⟨.inr rfl, ha⟩), (s.peek_writeSpots_dev a m _ b).trans (if_pos ⟨.inl rfl, hm⟩)⟩

end Sys2Proof.Machine
end

section
/-! PROOFS. Mover operations that end: the bytes that each has written (R210, R271, R272), where nothing goes on with their end. -/

namespace Sys2Proof.Machine

open Sys2Proof.Claims

/-! ### The end of an operation leaves the registers and the bytes (R46, R47) -/

/-- The v and m registers of a core stay as it goes on, and with its trace OFF the bytes do. -/
theorem State.wakeWait_kept {s : State} {t : Nat} (h : ∀ k, (s.tile t).core.stall = .wait k → ((s.tile t).core.getTok k).st = 2) :
    (((s.wakeWait t).tile t).core.v = (s.tile t).core.v ∧ ((s.wakeWait t).tile t).core.m = (s.tile t).core.m)
      ∧ ((s.trace t).mode = 0 → ∀ a, (s.wakeWait t).peek a = s.peek a) := by
  have hretire : (((s.retire t 8).tile t).core.v = (s.tile t).core.v ∧ ((s.retire t 8).tile t).core.m = (s.tile t).core.m)
      ∧ ((s.trace t).mode = 0 → ∀ a, (s.retire t 8).peek a = s.peek a) := by
    rw [State.retire_core]
    exact ⟨⟨rfl, rfl⟩, fun hm a => State.retire_peek hm 8 a⟩
  have hstay : ((s.tile t).core.v = (s.tile t).core.v ∧ (s.tile t).core.m = (s.tile t).core.m)
      ∧ ((s.trace t).mode = 0 → ∀ a, s.peek a = s.peek a) := ⟨⟨rfl, rfl⟩, fun _ _ => rfl⟩
  unfold State.wakeWait
  dsimp only
  split
  case h_1 k hk =>
    rw [if_pos (h k hk)]
    split
    · exact hstay
    · exact hretire
  case h_2 => exact hstay

/-- So they do at the end of an operation that nothing is chained to and whose token alone a core may wait for. -/
theorem State.endOp_kept {s : State} {t : Nat} {o : EngOp} (h : EndsAlone s t o) :
    (((s.endOp t o none).tile t).core.v = (s.tile t).core.v ∧ ((s.endOp t o none).tile t).core.m = (s.tile t).core.m)
      ∧ ((s.trace t).mode = 0 → ∀ a, (s.endOp t o none).peek a = s.peek a) := by
  obtain ⟨hwait, hchain⟩ := h
  have hcore := s.closeOp_core t o
  have hkept := State.wakeWait_kept (s := s.closeOp t o none) (t := t) fun k hk => by
    rw [hcore] at hk ⊢
    rw [hwait k hk]
    exact congrArg Tok.st (tget_tput_same _ _ _ _)
  unfold State.endOp
  rw [State.chain_unfollowed fun p hp => hchain p (List.mem_filter.1 (s.closeOp_ops t o none ▸ hp)).1]
  rw [hcore] at hkept
  exact hkept

/-! ### What a mover operation writes (R210, R272) -/

theorem State.readSpots_length (s : State) : ∀ (l : List Spot) (h : HostBytes), (s.readSpots l h).length = l.length
  | [], _ => rfl
  | .dev _ _ :: r, h => congrArg Nat.succ (s.readSpots_length r h)
  | .host _ _ :: r, [] => congrArg Nat.succ (s.readSpots_length r [])
  | .host _ _ :: r, _ :: h => congrArg Nat.succ (s.readSpots_length r h)
  | .gone :: r, h => congrArg Nat.succ (s.readSpots_length r h)

theorem State.vaSpots_length (s : State) (t : Nat) (va : Word) (n : Nat) : (s.vaSpots t va n).length = n := by
  unfold State.vaSpots
  split
  · simp [State.spots]
  · simp

theorem findIdx_zip_self (k : Nat) (a : List Byte) : findIdx (fun p : Byte × Byte => p.1 != p.2) (a.zip a) k = none := by
  induction a generalizing k with
  | nil => rfl
  | cons x a ih => simp [findIdx, ih]

/-- The first place in which two strings differ. -/
theorem findIdx_zip_diff : ∀ (a b : List Byte) (i k : Nat), i < a.length → i < b.length → a.take i = b.take i → a[i]? ≠ b[i]? →
    findIdx (fun p : Byte × Byte => p.1 != p.2) (a.zip b) k = some (k + i)
  | x :: a, y :: b, 0, k, _, _, _, hne => if_pos (bne_iff_ne.2 fun h => hne (congrArg some h))
  | x :: a, y :: b, i + 1, k, ha, hb, heq, hne => by
    simp only [List.take_succ_cons, List.cons.injEq] at heq
    obtain ⟨rfl, heq⟩ := heq
    have hrest := findIdx_zip_diff a b i (k + 1) (Nat.lt_of_succ_lt_succ ha) (Nat.lt_of_succ_lt_succ hb) heq (by simpa using hne)
    rw [List.zip_cons_cons, findIdx, if_neg (by simp), hrest, Nat.add_right_comm, Nat.add_assoc]

theorem firstDiff_self (a : List Byte) : firstDiff a a = none := by
  rw [firstDiff, findIdx_zip_self]
  rfl

theorem firstDiff_diff {a b : List Byte} {i : Nat} (ha : i < a.length) (hb : i < b.length) (heq : a.take i = b.take i)
    (hne : a[i]? ≠ b[i]?) : firstDiff a b = some (i / 64 * 64) := by
  rw [firstDiff, findIdx_zip_diff a b i 0 ha hb heq hne, Nat.zero_add]
  rfl

theorem fillBytes_eq (p n : Nat) : fillBytes p n = (List.range n).map fun i => BitVec.ofNat 8 (p / 256 ^ (i % 8)) := by
  have hshift : ∀ k, p >>> (8 * k) = p / 256 ^ k := fun k => by rw [Nat.shiftRight_eq_div_pow, pow_mul]; rfl
  simp only [fillBytes, hshift]

section
variable {s : State} {t : Nat} {o : EngOp} (a b : HostBytes)

theorem State.mvWrites_copy_fill (h : wOp o.w ≠ 2) : s.mvWrites t o = s.vaSpots t o.ga o.gc.toNat := if_neg h

theorem State.mvWrites_cmp (h : wOp o.w = 2) : s.mvWrites t o = s.vaSpots t o.ge 8 := if_pos h

theorem State.mvBytes_copy (h : wOp o.w = 0) : s.mvBytes t o a b = s.readSpots (s.vaSpots t o.gb o.gc.toNat) a := by
  have ho : o.op = 0 := h
  simp only [State.mvBytes, State.mvFirst, ho]

theorem State.mvBytes_fill (h : wOp o.w = 1) : s.mvBytes t o a b
    = (List.range o.gc.toNat).map fun i => BitVec.ofNat 8 (o.gb.toNat / 256 ^ (i % 8)) := by
  have ho : o.op = 1 := h
  simp only [State.mvBytes, ho, fillBytes_eq]

theorem State.mvBytes_cmp (h : wOp o.w = 2) : s.mvBytes t o a b
    = toBytes 8 ((firstDiff (s.readSpots (s.vaSpots t o.ga o.gc.toNat) a) (s.readSpots (s.vaSpots t o.gb o.gc.toNat) b)).getD
        (2 ^ 64 - 1)) := by
  have ho : o.op = 2 := h
  simp only [State.mvBytes, State.mvFirst, State.mvSecond, ho, if_true]
  generalize firstDiff _ _ = d
  cases d <;> rfl

/-- A mover operation that ends where nothing goes on has written its bytes, and no other (R210). -/
theorem State.moved_peek (h : EndsAlone s t o) (hmode : (s.trace t).mode = 0)
    (hok : s.moveRes (s.mvReads t o) (s.mvWrites t o) .ok = .ok) (k : Nat) :
    (s.moved t o .ok a b).peek k = (s.writeSpots (s.mvWrites t o) (s.mvBytes t o a b)).peek k := by
  have hface : ((s.traffic (s.mvReads t o) 0 t).traffic (s.mvWrites t o) 1 t).face = s.face :=
    (State.traffic_face _ _ _ _).trans (State.traffic_face _ _ _ _)
  have hwork : ((s.traffic (s.mvReads t o) 0 t).traffic (s.mvWrites t o) 1 t).work t = s.work t :=
    (State.traffic_work _ _ _ _ _).trans (State.traffic_work _ _ _ _ _)
  have hmoved : s.moved t o .ok a b = ((((s.traffic (s.mvReads t o) 0 t).traffic (s.mvWrites t o) 1 t).writeSpots (s.mvWrites t o)
      (s.mvBytes t o a b)).countMoved t (s.mvWrites t o)).endOp t o none := by
    simp only [State.moved, hok, State.countEcc_ok]
  rw [hmoved]
  generalize (s.traffic (s.mvReads t o) 0 t).traffic (s.mvWrites t o) 1 t = v at hface hwork ⊢
  have hcount : ∀ u : State, (u.countMoved t (s.mvWrites t o)).face = u.face := fun u =>
    (State.count_face _ _ _ _).trans (State.count_face _ _ _ _)
  have hends : EndsAlone ((v.writeSpots (s.mvWrites t o) (s.mvBytes t o a b)).countMoved t (s.mvWrites t o)) t o := by
    refine EndsAlone.of_work h ?_
    unfold State.countMoved
    dsimp only
    rw [State.count_work, State.count_work, State.writeSpots_work, hwork]
  obtain ⟨-, hpeek⟩ := State.endOp_kept hends
  rw [hpeek (by rw [State.trace_of_face (hcount _), State.writeSpots_trace, State.trace_of_face hface, hmode]),
    State.peek_of_face (hcount _), State.peek_writeSpots_of_face hface]

end

end Sys2Proof.Machine
end

section
/-! PROOFS. Registers of elements: what a vector operation writes, element by element (R171, R212), and the end of the oldest operation of
the vector unit (R48, R103). -/

namespace Sys2Proof.Machine

open Sys2Proof.Claims

/-! ### Packed elements -/

/-- Bit `j` of the element `i` of packed codes. -/
theorem packCodes_testBit {w j : Nat} (hj : j < w) : ∀ (l : List Nat) (i : Nat), (∀ x ∈ l, x < 2 ^ w) →
    (packCodes w l).testBit (w * i + j) = (l.getD i 0).testBit j
  | [], i, _ => by simp [packCodes]
  | x :: l, i, h => by
    have hx : x < 2 ^ w := h x List.mem_cons_self
    rw [packCodes, Nat.add_comm, Nat.mul_comm, Nat.testBit_two_pow_mul_add _ hx]
    cases i with
    | zero => simp [hj]
    | succ i =>
      have hrest : w * (i + 1) + j - w = w * i + j := by rw [Nat.mul_succ]; omega
      rw [if_neg (by rw [Nat.mul_succ]; omega), hrest]
      exact packCodes_testBit hj l i fun y hy => h y (List.mem_cons_of_mem _ hy)

theorem fld_lt (x lo n : Nat) : fld x lo n < 2 ^ n := Nat.mod_lt _ (Nat.two_pow_pos n)

theorem getD_map_range {n i : Nat} (f : Nat → Nat) (hi : i < n) : ((List.range n).map f).getD i 0 = f i := by
  simp [List.getD, hi]

theorem vElems_getD (v : BitVec 32768) {i : Nat} (hi : i < 1024) : (vElems v).getD i 0 = fld v.toNat (32 * i) 32 :=
  getD_map_range _ hi

/-- Element `i` of a v register. -/
def elem (v : BitVec 32768) (i : Nat) : BitVec 32 := v.extractLsb' (32 * i) 32

theorem elem_eq (v : BitVec 32768) (i : Nat) : elem v i = BitVec.ofNat 32 (fld v.toNat (32 * i) 32) := by
  apply BitVec.eq_of_toNat_eq
  simp [elem, fld]

theorem elem_vPack {f : Nat → Nat} (hf : ∀ i, i < 1024 → f i < 2 ^ 32) {i : Nat} (hi : i < 1024) :
    elem (vPack ((List.range 1024).map f)) i = BitVec.ofNat 32 (f i) := by
  apply BitVec.eq_of_getLsbD_eq
  intro j hj
  have hpos : 32 * i + j < 32768 := by omega
  have hall : ∀ x ∈ (List.range 1024).map f, x < 2 ^ 32 := by
    simpa using hf
  rw [elem, BitVec.getLsbD_extractLsb', vPack, BitVec.getLsbD_ofNat, packCodes_testBit hj _ _ hall, getD_map_range f hi,
    BitVec.getLsbD_ofNat]
  simp [hpos]

theorem mask_packBits {f : Nat → Bool} {i : Nat} (hi : i < 1024) :
    (BitVec.ofNat 1024 (packCodes 1 ((List.range 1024).map fun i => bit (f i)))).getLsbD i = f i := by
  have hall : ∀ x ∈ (List.range 1024).map fun i => bit (f i), x < 2 ^ 1 := by
    intro x hx
    obtain ⟨k, -, rfl⟩ := List.mem_map.1 hx
    cases f k <;> decide
  have hbit := packCodes_testBit (w := 1) Nat.one_pos _ i hall
  rw [Nat.one_mul, Nat.add_zero, getD_map_range _ hi, bit_testBit_zero] at hbit
  rw [BitVec.getLsbD_ofNat, hbit, decide_eq_true hi, Bool.true_and]

/-! ### A write of a v register (R171) -/

theorem Core.vWrite_getV_same (c : Core) (x : Word) (d : Nat) (f : Nat → FRes) : (c.vWrite x d f).1.getV d
    = vPack ((List.range 1024).map fun i => if c.enabled x i then (f i).1 else fld (c.getV d).toNat (32 * i) 32) := by
  have hzip : (List.range 1024).zip (vElems (c.getV d)) = (List.range 1024).map fun i => (i, fld (c.getV d).toNat (32 * i) 32) :=
    List.map_prod_left_eq_zip.symm
  have hput : (c.vWrite x d f).1.getV d = vPack ((((List.range 1024).zip (vElems (c.getV d))).map fun (i, o) =>
      if c.enabled x i then f i else (o, 0)).map Prod.fst) := tget_tput_same _ _ _ _
  rw [hput, hzip, List.map_map, List.map_map]
  exact congrArg vPack (List.map_congr_left fun i _ => apply_ite Prod.fst _ _ _)

theorem Core.vWrite_getV_ne (c : Core) (x : Word) {d k : Nat} (f : Nat → FRes) (h : k ≠ d) : (c.vWrite x d f).1.getV k = c.getV k :=
  tget_tput_ne _ _ _ _ _ h

theorem Core.vMap_getV_ne (c : Core) (x : Word) {d k : Nat} (a b e : Nat) (f : Num → Num → Num → FRes) (h : k ≠ d) :
    (c.vMap x d a b e f).1.getV k = c.getV k := by
  unfold Core.vMap
  exact c.vWrite_getV_ne _ _ h

/-- An enabled element takes its value, and every other one keeps its own. -/
theorem Core.vWrite_elem (c : Core) (x : Word) (d : Nat) {f : Nat → FRes} (hf : ∀ i, i < 1024 → (f i).1 < 2 ^ 32) {i : Nat}
    (hi : i < 1024) : elem ((c.vWrite x d f).1.getV d) i = if c.enabled x i then BitVec.ofNat 32 (f i).1 else elem (c.getV d) i := by
  rw [Core.vWrite_getV_same, elem_vPack (fun k hk => ?_) hi, apply_ite (BitVec.ofNat 32), elem_eq]
  split
  · exact hf k hk
  · exact fld_lt _ _ _

/-! ### The vector operations (R212) -/

section
variable (c : Core) (o : EngOp)

theorem Core.vExec_bcast (h : wOp o.w = 7) {i : Nat} (hi : i < 1024) : elem ((c.vExec o).1.getV (wRA o.w)) i
    = if c.enabled o.x i then (if vTY o.x then o.gb.extractLsb' 0 16 ++ o.gb.extractLsb' 0 16 else o.gb.extractLsb' 0 32)
      else elem (c.getV (wRA o.w)) i := by
  have hlow : BitVec.ofNat 32 (o.gb.toNat % 2 ^ 16 + o.gb.toNat % 2 ^ 16 * 2 ^ 16) = o.gb.extractLsb' 0 16 ++ o.gb.extractLsb' 0 16 := by
    apply BitVec.eq_of_toNat_eq
    have hlt : o.gb.toNat % 2 ^ 16 < 2 ^ 16 := Nat.mod_lt _ (by decide)
    rw [BitVec.toNat_append, BitVec.extractLsb'_toNat, Nat.shiftRight_zero, ← Nat.shiftLeft_add_eq_or_of_lt hlt, Nat.shiftLeft_eq,
      BitVec.toNat_ofNat, Nat.mod_eq_of_lt (by omega), Nat.add_comm]
  have hword : BitVec.ofNat 32 (o.gb.toNat % 2 ^ 32) = o.gb.extractLsb' 0 32 := by
    apply BitVec.eq_of_toNat_eq
    simp
  have hexec : c.vExec o = c.vWrite o.x (wRA o.w) (fun _ =>
      (if vTY o.x then o.gb.toNat % 2 ^ 16 + o.gb.toNat % 2 ^ 16 * 2 ^ 16 else o.gb.toNat % 2 ^ 32, 0)) := by
    simp only [Core.vExec, h]
  rw [hexec, Core.vWrite_elem c o.x _ (fun _ _ => ?_) hi]
  · rw [apply_ite (BitVec.ofNat 32), hlow, hword]
  · dsimp only
    split <;> omega

theorem Core.vExec_sel (h : wOp o.w = 8) {i : Nat} (hi : i < 1024) : elem ((c.vExec o).1.getV (wRA o.w)) i
    = if c.enabled o.x i then elem (c.getV (if (c.getM (vMR o.x)).getLsbD i then wRB o.w else wRC o.w)) i
      else elem (c.getV (wRA o.w)) i := by
  have hexec : c.vExec o = c.vWrite o.x (wRA o.w) (fun i => (if (c.getM (vMR o.x)).getLsbD i
      then (vElems (c.getV (wRB o.w))).getD i 0 else (vElems (c.getV (wRC o.w))).getD i 0, 0)) := by
    simp only [Core.vExec, h]
  rw [hexec, Core.vWrite_elem c o.x _ (fun k hk => ?_) hi]
  · dsimp only
    rw [vElems_getD _ hi, vElems_getD _ hi, apply_ite (BitVec.ofNat 32), ← elem_eq, ← elem_eq]
    cases (c.getM (vMR o.x)).getLsbD i <;> rfl
  · dsimp only
    rw [vElems_getD _ hk, vElems_getD _ hk]
    split <;> exact fld_lt _ _ _

theorem Core.vExec_mask (h : wOp o.w = 9) {i : Nat} (hi : i < 1024) : ((c.vExec o).1.getM (wRA o.w)).getLsbD i
    = (vFN o.x).testBit (2 * bit ((c.getM (wRB o.w)).getLsbD i) + bit ((c.getM (wRC o.w)).getLsbD i)) := by
  have hexec : (c.vExec o).1.getM (wRA o.w) = BitVec.ofNat 1024 (packCodes 1 ((List.range 1024).map fun i =>
      bit ((vFN o.x).testBit (2 * bit ((c.getM (wRB o.w)).getLsbD i) + bit ((c.getM (wRC o.w)).getLsbD i))))) := by
    simp only [Core.vExec, h]
    exact tget_tput_same _ _ _ _
  rw [hexec, mask_packBits hi]

/-- An operation from registers to a register writes no other v register than the one that RA names. -/
theorem Core.vExec_getV_ne {d : Nat} (h : d ≠ wRA o.w) : (c.vExec o).1.getV d = c.getV d := by
  unfold Core.vExec
  dsimp only
  split
  case h_1 | h_2 | h_3 => exact c.vMap_getV_ne _ _ _ _ _ h
  case h_6 | h_7 => exact c.vWrite_getV_ne _ _ h
  case h_5 => exact tget_tput_ne _ _ _ _ _ h
  case h_4 | h_8 => rfl

end

/-- A field of whole bytes is those bytes. -/
theorem fld_ofBytes : ∀ (i n : Nat) (bs : List Byte), fld (ofBytes bs) (8 * i) (8 * n) = ofBytes ((bs.drop i).take n) := by
  have hlow : ∀ (n : Nat) (bs : List Byte), ofBytes bs % 256 ^ n = ofBytes (bs.take n) := by
    intro n
    induction n with
    | zero => intro bs; simp [ofBytes, Nat.mod_one]
    | succ n ih =>
      intro bs
      cases bs with
      | nil => simp [ofBytes]
      | cons b bs =>
        have hb : b.toNat < 256 := b.isLt
        rw [ofBytes, List.take_succ_cons, ofBytes, ← ih bs, pow_succ', Nat.mod_mul, Nat.add_mul_mod_self_left, Nat.mod_eq_of_lt hb,
          Nat.add_mul_div_left _ _ (by decide), Nat.div_eq_of_lt hb, Nat.zero_add]
  intro i n
  induction i with
  | zero =>
    intro bs
    rw [Nat.mul_zero, fld_zero, pow_mul, List.drop_zero]
    exact hlow n bs
  | succ i ih =>
    intro bs
    cases bs with
    | nil => simp [ofBytes, fld]
    | cons b bs =>
      have hb : b.toNat < 256 := b.isLt
      rw [List.drop_succ_cons, ← ih bs, fld_eq, fld_eq, ofBytes, Nat.mul_succ, Nat.add_comm (8 * i) 8, pow_add,
        ← Nat.div_div_eq_div_mul, show 2 ^ 8 = 256 from rfl, Nat.add_mul_div_left _ _ (by decide), Nat.div_eq_of_lt hb, Nat.zero_add]

/-! ### The effect of an operation of class 5 (R212) -/

section
variable {s : State} {t : Nat} {o : EngOp}

theorem State.setCore_core (s : State) (t : Nat) (c : Core) : ((s.setCore t c).tile t).core = c := by
  rw [State.setCore, State.setTile_tile]

theorem State.vecEffect_vld (hc : wClass o.w = 5) (h : wOp o.w = 0) : s.vecEffect t o = (s.vLoad t o, 0) := by
  simp [State.vecEffect, hc, h]

/-- A register-to-register operation. -/
theorem State.vecEffect_core (hc : wClass o.w = 5) (h0 : wOp o.w ≠ 0) (h1 : wOp o.w ≠ 1) :
    ((s.vecEffect t o).1.tile t).core = ((s.tile t).core.vExec o).1 := by
  unfold State.vecEffect
  rw [if_neg (by rw [hc]; decide), if_neg (by rw [hc]; decide)]
  split
  case h_1 h => exact absurd h h0
  case h_2 h => exact absurd h h1
  case h_3 => exact State.setCore_core _ _ _

/-- An operation of the class writes no other v register than the one that RA names; `vst` writes memory. -/
theorem State.vecEffect_getV_ne (hc : wClass o.w = 5) (h1 : wOp o.w ≠ 1) {d : Nat} (hd : d ≠ wRA o.w) :
    ((s.vecEffect t o).1.tile t).core.getV d = (s.tile t).core.getV d := by
  by_cases h0 : wOp o.w = 0
  · rw [State.vecEffect_vld hc h0, State.vLoad, State.setCore_core]
    exact Core.vWrite_getV_ne _ _ _ hd
  · rw [State.vecEffect_core hc h0 h1]
    exact Core.vExec_getV_ne _ _ hd

/-- `vld` takes element i from bytes 4i to 4i + 3. -/
theorem State.vecEffect_vld_elem (hc : wClass o.w = 5) (h : wOp o.w = 0) {i : Nat} (hi : i < 1024)
    (he : (s.tile t).core.enabled o.x i = true) : elem (((s.vecEffect t o).1.tile t).core.getV (wRA o.w)) i
      = BitVec.ofNat 32 (ofBytes (((s.vaRead t o.gb 4096).drop (4 * i)).take 4)) := by
  rw [State.vecEffect_vld hc h, State.vLoad, State.setCore_core, Core.vWrite_elem _ _ _ (fun _ _ => fld_lt _ _ _) hi, if_pos he,
    ← fld_ofBytes, ← Nat.mul_assoc]

/-- The traces are no part of what an operation changes. -/
theorem State.vecEffect_obs (s : State) (t : Nat) (o : EngOp) : (s.vecEffect t o).1.obs = s.obs := by
  have hgate : (s.gateExec t o).1.obs = s.obs := by
    unfold State.gateExec
    exact foldl_part (fun p : State × Nat => p.1.obs) _ (fun p r => State.writeSpots_obs _ _ _) _ _
  have hstore : (s.vStore t o).obs = s.obs := by
    unfold State.vStore
    exact State.pokeSpots_obs _ s
  unfold State.vecEffect
  dsimp only
  split
  · exact hgate
  split
  · rfl
  split
  · rfl
  · exact hstore
  · rfl

theorem exec_vectorOpComplete (hop : (s.tile t).oldestOp 1 = some o) (hue : s.moveRes (s.vecReads t o) [] .ok ≠ .uncorrectable) :
    exec (.vectorOpComplete t .ok) s = .next ((if wClass o.w = 7 then (s.vecEffect t o).1 else (s.vecEffect t o).1.count t 9 1).endOp t
      { o with flags := BitVec.ofNat 16 (s.vecEffect t o).2 } none) := by
  have hno : s.engineUe (s.vecReads t o) .ok = false := by
    rw [State.engineUe, beq_eq_false_iff_ne.2 hue, Bool.and_false]
  have hx : exec (.vectorOpComplete t .ok) s = execVectorOpComplete t .ok s := rfl
  unfold execVectorOpComplete at hx
  simpa only [hop, hno, Bool.false_eq_true, if_false, State.countEcc_ok] using hx

/-- VECTOR_OP_COMPLETE takes the effect of the oldest operation, and ends it (R48, R103). -/
theorem exec_vectorOpComplete_effect (hop : (s.tile t).oldestOp 1 = some o) (h : EndsAlone s t o)
    (hue : s.moveRes (s.vecReads t o) [] .ok ≠ .uncorrectable) :
    ∃ u, exec (.vectorOpComplete t .ok) s = .next u ∧ Done s u t o (BitVec.ofNat 16 (s.vecEffect t o).2)
      ∧ (u.tile t).core.v = ((s.vecEffect t o).1.tile t).core.v ∧ (u.tile t).core.m = ((s.vecEffect t o).1.tile t).core.m
      ∧ ((s.trace t).mode = 0 → ∀ k, u.peek k = (s.vecEffect t o).1.peek k) := by
  obtain ⟨u, hx, hdone⟩ := exec_vectorOpComplete_done hop h hue
  obtain rfl := Host.Outcome.next.inj (hx.symm.trans (exec_vectorOpComplete hop hue))
  refine ⟨_, hx, hdone, ?_⟩
  have hobs := s.vecEffect_obs t o
  have hwork := s.vecEffect_work t o
  generalize s.vecEffect t o = r at hobs hwork ⊢
  have hface : (if wClass o.w = 7 then r.1 else r.1.count t 9 1).face = r.1.face := ite_part State.face rfl (State.count_face _ _ _ _)
  have hends : EndsAlone (if wClass o.w = 7 then r.1 else r.1.count t 9 1) t { o with flags := BitVec.ofNat 16 r.2 } :=
    EndsAlone.of_work (o := { o with flags := BitVec.ofNat 16 r.2 }) h
      (ite_part (State.work · t) hwork ((State.count_work _ t 9 1 t).trans hwork))
  obtain ⟨⟨hv, hm⟩, hpeek⟩ := State.endOp_kept hends
  rw [State.core_of_face hface] at hv hm
  refine ⟨hv, hm, fun hmode k => ?_⟩
  have htrace : r.1.trace t = s.trace t := congrArg (fun ob : Obs => tget ({} : Trace) ob.traces t) hobs
  rw [hpeek (by rw [State.trace_of_face hface, htrace, hmode]), State.peek_of_face hface]

end

/-- Settles O30: the movers by what they write and by the end of an operation, the vector operations by the elements they write. -/
theorem moverAndVectorCompletion : Obligations.MoverAndVectorCompletion := by
  unfold Obligations.MoverAndVectorCompletion
  refine ⟨fun s t mv o a b hop hmv h hmode hheld hlost hcut hbehind hopen hok => ?_, fun s t o hop h hue => ?_⟩
  · have hx := exec_moverOpComplete (a := a) (b := b) hop hmv hheld hlost hcut hbehind hopen hok
    have hdone := State.moved_done h hok a b
    have hpeek := State.moved_peek a b h hmode hok
    dsimp only
    refine ⟨fun hw => ⟨_, hx, hdone, fun k => ?_⟩, fun hw => ⟨_, hx, hdone, fun k => ?_⟩,
      fun hw => ⟨fun heq => ⟨_, hx, hdone, fun k => ?_⟩, fun i hi heq hne => ⟨_, hx, hdone, fun k => ?_⟩⟩⟩
    · rw [hpeek, State.mvBytes_copy a b hw, State.mvWrites_copy_fill (by rw [hw]; decide)]
    · rw [hpeek, State.mvBytes_fill a b hw, State.mvWrites_copy_fill (by rw [hw]; decide)]
    · rw [hpeek, State.mvBytes_cmp a b hw, State.mvWrites_cmp hw, heq, firstDiff_self]
      rfl
    · have hlen : ∀ va host, i < (s.readSpots (s.vaSpots t va o.gc.toNat) host).length := fun va host => by
        rw [State.readSpots_length, State.vaSpots_length]
        exact hi
      rw [hpeek, State.mvBytes_cmp a b hw, State.mvWrites_cmp hw, firstDiff_diff (hlen _ _) (hlen _ _) heq hne]
      rfl
  · dsimp only
    refine ⟨exec_vectorOpComplete_effect hop h hue, fun hc h1 _ _ d hd => State.vecEffect_getV_ne hc h1 hd, fun hc hw i hi => ?_,
      fun hc hw i hi => ?_, fun hc hw i hi => ?_, fun hc hw i hi he => State.vecEffect_vld_elem hc hw hi he⟩
    · rw [State.vecEffect_core hc (by rw [hw]; decide) (by rw [hw]; decide)]
      exact Core.vExec_bcast _ o hw hi
    · rw [State.vecEffect_core hc (by rw [hw]; decide) (by rw [hw]; decide)]
      exact Core.vExec_sel _ o hw hi
    · rw [State.vecEffect_core hc (by rw [hw]; decide) (by rw [hw]; decide)]
      exact Core.vExec_mask _ o hw hi

end Sys2Proof.Machine
end

section
/-! PROOFS. What a management command answers, and the commands of keys, confidential bunches, MAINTENANCE and the factory
(R241, R476 to R480, R485, R507). -/

namespace Sys2Proof.Machine

open Sys2Proof.Claims

/-! ### How a command of a session is answered (R475) -/

/-- An accepted command answers what its meaning replies in the state that took its frame. -/
theorem answers_framed {c : Instr} {s u : State} {f : Frame} {k : State → Reply} {st : BitVec 16} (hm : s.mgmtOpen = true)
    (hf : s.frameOk f = true) (hc : exec c s = framed f s k) (hk : k (s.takeFrame f) = { s := u, status := st }) :
    Answers c s f u st := by
  rw [Answers, hc, exec_framed hm hf, hk]

/-! ### Lists of keys (R476, R478) -/

theorem hasKey_iff {l : List Key} {b : BitVec 32} {id : Nat} : hasKey l b id = true ↔ ∃ k ∈ l, k.bunch = b ∧ k.id = id := by
  simp [hasKey]

theorem mem_dropKey {l : List Key} {b : BitVec 32} {id : Nat} {k : Key} :
    k ∈ dropKey l b id ↔ k ∈ l ∧ (k.bunch ≠ b ∨ k.id ≠ id) := by
  simp [dropKey, ← imp_iff_not_or]

/-- A destroyed key is gone. -/
theorem hasKey_dropKey (l : List Key) (b : BitVec 32) (id : Nat) : hasKey (dropKey l b id) b id = false := by
  rw [Bool.eq_false_iff]
  intro h
  obtain ⟨k, hk, hb, hid⟩ := hasKey_iff.1 h
  exact (mem_dropKey.1 hk).2.elim (· hb) (· hid)

/-- Activation leaves every key its name and its value. -/
theorem activateKey_names (l : List Key) (b : BitVec 32) (id : Nat) :
    (activateKey l b id).map (fun k => (k.id, k.bunch, k.key)) = l.map (fun k => (k.id, k.bunch, k.key)) := by
  rw [activateKey, List.map_map]
  refine List.map_congr_left fun k _ => ?_
  rw [Function.comp_apply]
  split <;> rfl

/-- Of the keys of a bunch the named one is ACTIVE and the other is not. -/
theorem activateKey_active {l : List Key} {b : BitVec 32} {id : Nat} {k : Key} (hk : k ∈ activateKey l b id) (hb : k.bunch = b) :
    k.active = (k.id == id) := by
  obtain ⟨j, -, rfl⟩ := List.mem_map.1 hk
  by_cases hj : j.bunch = b
  · simp only [hj, if_true]
  · exact absurd (by rwa [if_neg hj] at hb) hj

theorem jobBlob_length (ss key : BitVec 256) (b : BitVec 32) (id : Nat) (q : PeerQuote) : (jobBlob ss key b id q).length = 1608 := by
  simp [jobBlob]

/-! ### Keys that are added (R476, R477, R479) -/

section
variable {s : State} {f : Frame} (hm : s.mgmtOpen = true) (hf : s.frameOk f = true) {b : BitVec 32} {id : Nat}
include hm hf

/-- A name that no key may have, or a full store, answers its status whatever the bytes are. -/
theorem answers_badKey {e : BitVec 16}
    (h : keyBad (s.takeFrame f).sec.jobKeys b id ((s.takeFrame f).findBunch b).isSome = some e) (bytes : List Byte) :
    Answers (.keyInstall f b id bytes) s f (s.takeFrame f) e ∧ Answers (.keyAccept f b id bytes) s f (s.takeFrame f) e
      ∧ ∀ qs, Answers (.keyAgree f b id qs) s f (s.takeFrame f) e := by
  refine ⟨answers_framed hm hf (show execKeyInstall f b id bytes s = _ from rfl) ?_,
    answers_framed hm hf (show execKeyAccept f b id bytes s = _ from rfl) ?_,
    fun qs => answers_framed hm hf (show execKeyAgree f b id qs s = _ from rfl) ?_⟩ <;> simp only [h] <;> rfl

theorem answers_badImageKey {e : BitVec 16}
    (h : keyBad (s.takeFrame f).sec.imgKeys b id ((s.takeFrame f).findBunch b).isSome = some e) (bytes : List Byte) :
    Answers (.imageKeyInstall f b id bytes) s f (s.takeFrame f) e := by
  refine answers_framed hm hf (show execImageKeyInstall f b id bytes s = _ from rfl) ?_
  simp only [h]
  rfl

/-- An agreement begins with a nonce of 256 bits. -/
theorem exec_keyAgreeBegin : let n := Config.freeBits 256 (s.takeFrame f).fresh
    exec (.keyAgreeBegin f) s = .next (({ s.takeFrame f with
      fresh := (s.takeFrame f).fresh + 1, sec := { (s.takeFrame f).sec with agree := some n } } : State).respond f 0
        (toBytes 32 n.toNat)) :=
  (show execKeyAgreeBegin f s = _ from rfl).trans (exec_framed hm hf _)

section
variable (h : keyBad (s.takeFrame f).sec.jobKeys b id ((s.takeFrame f).findBunch b).isSome = none) {bytes : List Byte}
include h

/-- A wrapped job key that does not open, and one that does. -/
theorem answers_keyInstall_sealed (hu : Config.unwrap ((s.takeFrame f).wrapKey f) bytes = none) :
    Answers (.keyInstall f b id bytes) s f (s.takeFrame f) 0x0C := by
  refine answers_framed hm hf (show execKeyInstall f b id bytes s = _ from rfl) ?_
  simp only [h, hu]
  rfl

theorem answers_keyInstall {k : BitVec 256} (hu : Config.unwrap ((s.takeFrame f).wrapKey f) bytes = some k) :
    Answers (.keyInstall f b id bytes) s f ((s.takeFrame f).addKey b id k) 0 := by
  refine answers_framed hm hf (show execKeyInstall f b id bytes s = _ from rfl) ?_
  simp only [h, hu]
  rfl

/-- A peer's blob that does not open, and one that does. -/
theorem answers_keyAccept_sealed (hu : (s.takeFrame f).openBlob b id bytes = none) :
    Answers (.keyAccept f b id bytes) s f (s.takeFrame f) 0x0C := by
  refine answers_framed hm hf (show execKeyAccept f b id bytes s = _ from rfl) ?_
  simp only [h, hu]
  rfl

theorem answers_keyAccept {k : BitVec 256} (hu : (s.takeFrame f).openBlob b id bytes = some k) :
    Answers (.keyAccept f b id bytes) s f ((s.takeFrame f).addKey b id k) 0 := by
  refine answers_framed hm hf (show execKeyAccept f b id bytes s = _ from rfl) ?_
  simp only [h, hu]
  rfl

/-- An agreement without a nonce, or with a peer whose quote fails, makes no key. -/
theorem answers_keyAgree_failed {qs : List PeerQuote}
    (hq : (s.takeFrame f).sec.agree = none ∨ ∃ q ∈ qs, (s.takeFrame f).peerOk q = false) :
    Answers (.keyAgree f b id qs) s f (s.takeFrame f) 0x0C := by
  have hfail : ((s.takeFrame f).sec.agree.isNone || !qs.all (s.takeFrame f).peerOk) = true := by
    simpa using hq
  refine answers_framed hm hf (show execKeyAgree f b id qs s = _ from rfl) ?_
  simp only [h, hfail, if_true]
  rfl

/-- Peers that all pass are each sent the new key, under secrets of their own. -/
theorem exec_keyAgree {qs : List PeerQuote} (ha : (s.takeFrame f).sec.agree ≠ none)
    (hq : ∀ q ∈ qs, (s.takeFrame f).peerOk q = true) :
    ∃ (k : BitVec 256) (ss : List (BitVec 256)), ss.length = qs.length ∧ exec (.keyAgree f b id qs) s
      = .next (({ s.takeFrame f with
          fresh := (s.takeFrame f).fresh + 1 + qs.length
          sec := { (s.takeFrame f).sec with agree := none, jobKeys := (s.takeFrame f).sec.jobKeys
                    ++ [{ id := id, bunch := b, active := false, key := k }] } } : State).respond f 0
        ((ss.zip qs).flatMap (fun p => jobBlob p.1 k b id p.2))) := by
  have hpass : ((s.takeFrame f).sec.agree.isNone || !qs.all (s.takeFrame f).peerOk) = false := by
    rw [Bool.or_eq_false_iff, Option.isNone_eq_false_iff, Option.isSome_iff_ne_none, Bool.not_eq_false', List.all_eq_true]
    exact ⟨ha, hq⟩
  refine ⟨Config.freeBits 256 (s.takeFrame f).fresh,
    (List.range qs.length).map (fun i => Config.freeBits 256 ((s.takeFrame f).fresh + 1 + i)), by simp, ?_⟩
  rw [show exec (.keyAgree f b id qs) s = framed f s _ from (show execKeyAgree f b id qs s = _ from rfl), exec_framed hm hf]
  simp only [h, hpass, List.zip_map_left, List.flatMap_map]
  rfl

end

theorem answers_imageKeyInstall_sealed
    (h : keyBad (s.takeFrame f).sec.imgKeys b id ((s.takeFrame f).findBunch b).isSome = none) {bytes : List Byte}
    (hu : Config.unwrap ((s.takeFrame f).wrapKey f) bytes = none) :
    Answers (.imageKeyInstall f b id bytes) s f (s.takeFrame f) 0x0C := by
  refine answers_framed hm hf (show execImageKeyInstall f b id bytes s = _ from rfl) ?_
  simp only [h, hu]
  rfl

theorem answers_imageKeyInstall
    (h : keyBad (s.takeFrame f).sec.imgKeys b id ((s.takeFrame f).findBunch b).isSome = none) {bytes : List Byte}
    {k : BitVec 256} (hu : Config.unwrap ((s.takeFrame f).wrapKey f) bytes = some k) :
    Answers (.imageKeyInstall f b id bytes) s f { s.takeFrame f with sec := { (s.takeFrame f).sec with
      imgKeys := (s.takeFrame f).sec.imgKeys ++ [{ id := id, bunch := b, active := false, key := k }] } } 0 := by
  refine answers_framed hm hf (show execImageKeyInstall f b id bytes s = _ from rfl) ?_
  simp only [h, hu]
  rfl

end

/-! ### Confidential bunches (R480) -/

/-- A bunch is nested in itself (R322). -/
theorem State.nestedIn_self (s : State) {b : BitVec 32} (hb : b ≠ 0) : s.nestedIn b b = true := by
  rw [State.nestedIn, State.ancestors, if_neg hb, List.contains_cons, beq_self_eq_true, Bool.true_or]

/-- The record that an identifier finds is an entry of the table. -/
theorem State.findBunch_mem {s : State} {b : BitVec 32} {i : Nat} (h : s.findBunch b = some i) :
    (i, s.bunch i) ∈ s.comp.bunches := by
  rcases tget_mem {} i s.comp.bunches with hd | hm
  · exact absurd (congrArg Bunch.st hd) (State.findBunch_some h).1
  · exact hm

/-- The record of a bunch is marked confidential (R480). -/
def State.mark (s : State) (b : BitVec 32) : State := s.updBunch b (fun x => { x with conf := true })

theorem State.mark_findBunch (s : State) (i b : BitVec 32) : (s.mark i).findBunch b = s.findBunch b := by
  unfold State.mark State.updBunch
  split
  · exact State.findBunch_setBunch _ _ _ _ rfl rfl
  · rfl

theorem State.mark_conf {s : State} {b : BitVec 32} (h : (s.findBunch b).isSome = true) : ((s.mark b).bunchOf b).conf = true := by
  obtain ⟨i, hi⟩ := Option.isSome_iff_exists.1 h
  rw [State.bunchOf_of_find ((s.mark_findBunch b b).trans hi), State.mark, State.updBunch_of_find hi, State.setBunch_bunch]

/-- A mark takes none away. -/
theorem State.mark_keeps {s : State} {b : BitVec 32} (i : BitVec 32) (h : (s.bunchOf b).conf = true) :
    ((s.mark i).bunchOf b).conf = true := by
  cases hb : s.findBunch b with
  | none => rw [State.bunchOf, hb] at h; exact absurd h Bool.false_ne_true
  | some j =>
    rw [State.bunchOf_of_find hb] at h
    rw [State.bunchOf_of_find ((s.mark_findBunch i b).trans hb), State.mark, State.updBunch_bunch, apply_ite Bunch.conf, h, ite_self]

theorem State.marks_conf {b : BitVec 32} : ∀ (l : List (BitVec 32)) (s : State), (s.findBunch b).isSome = true →
    b ∈ l ∨ (s.bunchOf b).conf = true → ((l.foldl State.mark s).bunchOf b).conf = true
  | [], _, _, h => h.resolve_left (List.not_mem_nil)
  | i :: l, s, hf, h => by
    refine State.marks_conf l (s.mark i) ((s.mark_findBunch i b).symm ▸ hf) ?_
    rcases h with h | h
    · rcases List.mem_cons.1 h with rfl | h
      · exact .inr (State.mark_conf hf)
      · exact .inl h
    · exact .inr (State.mark_keeps i h)

/-- The context is marked confidential (R480). -/
def State.markCtx (s : State) (c : Nat) : State := s.setCtx c { s.ctx c with conf := true }

theorem State.markCtxs_bunches (l : List Nat) (s : State) : (l.foldl State.markCtx s).comp = s.comp :=
  foldl_part State.comp State.markCtx (fun _ _ => rfl) _ _

theorem State.markCtxs_conf {c : Nat} : ∀ (l : List Nat) (s : State), c ∈ l ∨ (s.ctx c).conf = true →
    ((l.foldl State.markCtx s).ctx c).conf = true
  | [], _, h => h.resolve_left (List.not_mem_nil)
  | k :: l, s, h => by
    refine State.markCtxs_conf l (s.markCtx k) ?_
    by_cases hk : c = k
    · exact .inr (by rw [hk, State.markCtx, State.setCtx_ctx])
    · rw [State.markCtx, State.setCtx_ctx_ne _ _ _ _ hk]
      exact h.imp_left (fun h => (List.mem_cons.1 h).resolve_left hk)

theorem State.markConf_eq (s : State) (b : BitVec 32) : s.markConf b = (s.ctxsOf b).foldl State.markCtx
    (((s.comp.bunches.filter (fun e => e.2.st != 0 && s.nestedIn e.2.id b)).map (fun e => e.2.id)).foldl State.mark s) := rfl

/-- CONF_SET marks its bunch. -/
theorem State.markConf_bunchOf {s : State} {b : BitVec 32} (hb : b ≠ 0) (h : (s.findBunch b).isSome = true) :
    ((s.markConf b).bunchOf b).conf = true := by
  obtain ⟨i, hi⟩ := Option.isSome_iff_exists.1 h
  obtain ⟨hst, hid⟩ := State.findBunch_some hi
  have hmem : b ∈ (s.comp.bunches.filter (fun e => e.2.st != 0 && s.nestedIn e.2.id b)).map (fun e => e.2.id) :=
    List.mem_map.2 ⟨_, List.mem_filter.2 ⟨State.findBunch_mem hi, by rw [hid, s.nestedIn_self hb, bne_iff_ne.2 hst]; rfl⟩, hid⟩
  have hm := State.marks_conf _ s h (.inl hmem)
  rw [State.markConf_eq, State.bunchOf_congr (State.markCtxs_bunches _ _)]
  exact hm

/-- CONF_SET marks every context of its bunch. -/
theorem State.markConf_ctx {s : State} {b : BitVec 32} {c : Nat} (h : c ∈ s.ctxsOf b) : ((s.markConf b).ctx c).conf = true := by
  rw [State.markConf_eq]
  exact State.markCtxs_conf _ _ (.inl h)

/-- A composition change counts and signals, and leaves bunch records and contexts. -/
theorem State.changed_ctx (s : State) (c : Nat) : s.changed.ctx c = s.ctx c := by
  have h := congrArg (fun u : State => (tget {} u.hif.ctxs c : Ctx)) (State.msix_unreported
    { s with comp := { s.comp with changeSeq := s.comp.changeSeq + 1 } } 1)
  exact h

theorem State.changed_bunchOf (s : State) (b : BitVec 32) : s.changed.bunchOf b = s.bunchOf b :=
  State.bunchOf_of_bunches (by rw [s.changed_comp]) b

section
variable {s : State} {f : Frame} (hm : s.mgmtOpen = true) (hf : s.frameOk f = true)
include hm hf

/-- CONF_SET of an unknown bunch, of one that is no FORMING root or in MAINTENANCE, and of one that may be marked (R480). -/
theorem answers_confSet (b : BitVec 32) : let w := s.takeFrame f
    (w.findBunch b = none → Answers (.confSet f b) s f w 0x14)
    ∧ ((w.findBunch b).isSome = true →
      ((w.bunchOf b).parent ≠ 0 ∨ (w.bunchOf b).st ≠ 1 ∨ w.boot.maint = true → Answers (.confSet f b) s f w 0x12)
      ∧ ((w.bunchOf b).parent = 0 → (w.bunchOf b).st = 1 → w.boot.maint = false →
          Answers (.confSet f b) s f (w.markConf b).changed 0)) := by
  intro w
  have known : (w.findBunch b).isSome = true → (w.findBunch b).isNone = false := fun h => by
    rw [Option.isNone_eq_false_iff, h]
  refine ⟨fun h => ?_, fun h => ⟨fun hbad => ?_, fun hp hst hmt => ?_⟩⟩ <;>
    refine answers_framed hm hf (show execConfSet f b s = _ from rfl) ?_
  · exact if_pos (by rw [show (s.takeFrame f).findBunch b = none from h]; rfl)
  · have : ((w.bunchOf b).parent != 0 || (w.bunchOf b).st != 1 || w.boot.maint) = true := by
      simpa [or_assoc] using hbad
    exact (if_neg (by rw [known h]; exact Bool.false_ne_true)).trans (if_pos this)
  · have : ((w.bunchOf b).parent != 0 || (w.bunchOf b).st != 1 || w.boot.maint) = false := by
      simp [hp, hst, hmt]
    exact (if_neg (by rw [known h]; exact Bool.false_ne_true)).trans (if_neg (by rw [this]; exact Bool.false_ne_true))

/-- FACTORY_UNLOCK needs the token and slot 0, then MAINTENANCE, no bunch and CLEAN memory (R485). -/
theorem answers_factoryUnlock (tok : Bool) : let w := s.takeFrame f
    (tok = false ∨ w.slotOfFrame f ≠ some 0 → Answers (.factoryUnlock f tok) s f w 0x14)
    ∧ (tok = true → w.slotOfFrame f = some 0 →
      (w.boot.maint = false ∨ w.anyBunch = true ∨ w.allClean = false → Answers (.factoryUnlock f tok) s f w 0x12)
      ∧ (w.boot.maint = true → w.anyBunch = false → w.allClean = true → Answers (.factoryUnlock f tok) s f
          { w with sec := { w.sec with slots := [], jobKeys := [], imgKeys := [], unlocked := true } } 0)) := by
  intro w
  refine ⟨fun h => ?_, fun ht h0 => ⟨fun hbad => ?_, fun hmt hb hc => ?_⟩⟩ <;>
    refine answers_framed hm hf (show execFactoryUnlock f tok s = _ from rfl) ?_
  · exact if_pos (by simpa using h)
  · exact (if_neg (by simp [ht, show (s.takeFrame f).slotOfFrame f = some 0 from h0])).trans
      (if_pos (by simpa [or_assoc] using hbad))
  · exact (if_neg (by simp [ht, show (s.takeFrame f).slotOfFrame f = some 0 from h0])).trans
      (if_neg (by simpa using ⟨⟨hmt, hb⟩, hc⟩))

end

/-- Settles O54: each command's own equation, and what its key list or its marks hold afterwards. -/
theorem keysAndModes : Obligations.KeysAndModes := by
  unfold Obligations.KeysAndModes
  intro s f hm hf
  refine ⟨fun b id bytes => ⟨fun e he => answers_badKey hm hf he bytes, fun e he => answers_badImageKey hm hf he bytes,
      fun hu => ⟨fun h => answers_keyInstall_sealed hm hf h hu, fun h => answers_imageKeyInstall_sealed hm hf h hu⟩,
      fun k hu => ⟨fun h => answers_keyInstall hm hf h hu, fun h => answers_imageKeyInstall hm hf h hu⟩,
      fun h => ⟨answers_keyAccept_sealed hm hf h, fun k => answers_keyAccept hm hf h⟩⟩,
    ?_, fun b id qs h => ⟨answers_keyAgree_failed hm hf h, fun ha hq => ?_⟩, fun b id => ?_, fun b => ?_,
    fun h => answers_framed hm hf (show execMaintEnter f s = _ from rfl) (if_pos h),
    fun h => answers_framed hm hf (show execMaintEnter f s = _ from rfl) (if_neg (by rw [h]; exact Bool.false_ne_true)),
    fun h => answers_framed hm hf (show execMaintLeave f s = _ from rfl) (if_pos h),
    fun h => answers_framed hm hf (show execMaintLeave f s = _ from rfl) (if_neg (by rw [h]; exact Bool.false_ne_true)),
    answers_factoryUnlock hm hf⟩
  · exact ⟨_, _, exec_keyAgreeBegin hm hf, BitVec.isLt _, by rw [BitVec.ofNat_toNat, BitVec.setWidth_eq]⟩
  · obtain ⟨k, ss, hl, hx⟩ := exec_keyAgree hm hf h ha hq
    exact ⟨k, ss, _, hx, hl, fun p _ => jobBlob_length .., rfl⟩
  · refine ⟨fun h => ?_, fun h => ⟨_, ?_, activateKey_names .., fun k hk hb => activateKey_active hk hb, rfl⟩,
      fun hj hi => ?_, fun h => ⟨_, answers_framed hm hf (show execKeyDestroy f b id s = _ from rfl) (if_pos (by simpa using h)),
        hasKey_dropKey .., hasKey_dropKey .., fun k hk hne => mem_dropKey.2 ⟨hk, hne⟩⟩⟩
    · exact answers_framed hm hf (show execKeyActivate f b id s = _ from rfl) (if_neg (by rw [h]; exact Bool.false_ne_true))
    · exact answers_framed hm hf (show execKeyActivate f b id s = _ from rfl) (if_pos h)
    · exact answers_framed hm hf (show execKeyDestroy f b id s = _ from rfl)
        (if_neg (by rw [hj, hi]; exact Bool.false_ne_true))
  · obtain ⟨hnone, hsome⟩ := answers_confSet hm hf b
    refine ⟨hnone, fun h => ⟨(hsome h).1, fun hp hst hmt => ⟨(hsome h).2 hp hst hmt, fun hb => ?_, fun c hc => ?_⟩⟩⟩
    · rw [State.changed_bunchOf]
      exact State.markConf_bunchOf hb h
    · rw [State.changed_ctx]
      exact State.markConf_ctx hc

end Sys2Proof.Machine
end

section
/-! PROOFS. The settings of the orchestrator and the tray controller (R248, R262, R278, R377, R382, R402, R405, R414, R416, R418, R523): what
a vote leaves of the domains, and what a disabled port does to its lane quads. -/

namespace Sys2Proof.Machine

open Sys2Proof.Claims

/-! ### Votes (R414) -/

/-- A field that was put is read back. -/
theorem fld_ofNat_putFld {x lo n v w : Nat} (hw : lo + n ≤ w) (hv : v < 2 ^ n) : fld (BitVec.ofNat w (putFld x lo n v)).toNat lo n = v := by
  refine Nat.eq_of_testBit_eq fun j => ?_
  rw [fld, Nat.testBit_mod_two_pow, Nat.testBit_shiftRight, BitVec.testBit_toNat, BitVec.getLsbD_ofNat, putFld_testBit]
  by_cases hj : j < n
  · simp [hj, show lo + j < w by omega]
  · simp [hj, Nat.testBit_lt_two_pow (lt_of_lt_of_le hv (Nat.pow_le_pow_right two_pos (not_lt.1 hj)))]

/-- The votes that every domain holds. -/
def State.ballots (s : State) : Nat → BitVec 32 × Nat := fun d => ((s.dom d).votes, (s.dom d).orch)

theorem State.setDom_ballots (s : State) (d : Nat) (x : Dom) (hv : x.votes = (s.dom d).votes) (ho : x.orch = (s.dom d).orch) :
    (s.setDom d x).ballots = s.ballots := by
  funext k
  by_cases hk : k = d
  · rw [State.ballots, hk, State.setDom_dom, hv, ho]
    rfl
  · rw [State.ballots, State.setDom_dom_ne _ _ _ _ hk]
    rfl

theorem State.setPort_ballots (s : State) (m : Nat) (x : Port) : (s.setPort m x).ballots = s.ballots := rfl
theorem State.setTile_ballots (s : State) (t : Nat) (x : Tile) : (s.setTile t x).ballots = s.ballots := rfl
theorem State.setRunner_ballots (s : State) (r : Nat) (x : Runner) : (s.setRunner r x).ballots = s.ballots := rfl
theorem State.clearStore_ballots (s : State) (a n : Nat) : (s.clearStore a n).ballots = s.ballots := rfl

theorem State.dropStores_ballots (s : State) (q : Nat) : (s.dropStores q).ballots = s.ballots :=
  foldl_part State.ballots _ (fun s t => by rw [State.clearStore_ballots]; exact State.setDom_ballots _ _ _ rfl rfl) _ _

/-- The domains but one. -/
def State.domsBut (d : Nat) (s : State) : Nat → Dom := fun k => if k = d then {} else s.dom k

theorem State.setDom_domsBut (s : State) (d : Nat) (x : Dom) : (s.setDom d x).domsBut d = s.domsBut d := by
  funext k
  unfold State.domsBut
  split
  · rfl
  · next hk => exact State.setDom_dom_ne _ _ _ _ hk

theorem State.setPort_domsBut (s : State) (d m : Nat) (x : Port) : (s.setPort m x).domsBut d = s.domsBut d := rfl
theorem State.setTile_domsBut (s : State) (d t : Nat) (x : Tile) : (s.setTile t x).domsBut d = s.domsBut d := rfl
theorem State.setRunner_domsBut (s : State) (d r : Nat) (x : Runner) : (s.setRunner r x).domsBut d = s.domsBut d := rfl
theorem State.clearStore_domsBut (s : State) (d a n : Nat) : (s.clearStore a n).domsBut d = s.domsBut d := rfl

theorem State.dom_of_domsBut {s u : State} {d k : Nat} (h : u.domsBut d = s.domsBut d) (hk : k ≠ d) : u.dom k = s.dom k := by
  simpa [State.domsBut, hk] using congrFun h k

theorem State.park_pwr (s : State) (d : Nat) : (s.park d).pwr = s.pwr := by
  unfold State.park
  split <;> rfl

theorem State.lowQuads_pwr (l : List Nat) (t : State) (x low : Nat) : (l.foldl (fun s j =>
    let q := s.quad (4 * x + j)
    s.setQuad (4 * x + j) { q with st := if low = 1 then (if q.st = 3 then 5 else q.st) else 1 }) t).pwr = t.pwr := by
  apply foldl_part State.pwr; intros; rfl

theorem State.ballots_of_pwr {s u : State} (h : u.pwr = s.pwr) : u.ballots = s.ballots := by
  unfold State.ballots State.dom
  rw [h]

theorem State.domsBut_of_pwr {s u : State} (h : u.pwr = s.pwr) (d : Nat) : u.domsBut d = s.domsBut d := by
  unfold State.domsBut State.dom
  rw [h]

theorem State.enterLow_ballots (s : State) (d low : Nat) : (s.enterLow d low).ballots = s.ballots := by
  unfold State.enterLow
  simp only [apply_ite State.ballots, State.setTile_ballots, State.clearStore_ballots, State.dropStores_ballots, State.setDom_ballots,
    State.setPort_ballots, State.ballots_of_pwr (State.park_pwr _ _), State.ballots_of_pwr (State.lowQuads_pwr _ _ _ _),
    State.setRunner_ballots, ite_self]

theorem State.startWake_ballots (s : State) (d : Nat) : (s.startWake d).ballots = s.ballots := by
  unfold State.startWake
  simp only [apply_ite State.ballots, State.setDom_ballots, State.setPort_ballots, ite_self]

theorem State.evalOne_ballots (s : State) (d : Nat) : (s.evalOne d).ballots = s.ballots := by
  unfold State.evalOne
  simp only [apply_ite State.ballots, State.startWake_ballots, State.enterLow_ballots, State.setDom_ballots, ite_self]

/-- Bringing a domain toward its state changes no vote. -/
theorem State.evalDom_ballots (s : State) (d : Nat) : (s.evalDom d).ballots = s.ballots := by
  unfold State.evalDom State.warmUp
  simp only [apply_ite State.ballots, State.evalOne_ballots, State.setDom_ballots, ite_self]

/-- A domain other than a quarter's uncore falls alone. -/
theorem State.enterLow_domsBut (s : State) {d : Nat} (low : Nat) (hd : d < 136 ∨ 140 ≤ d) :
    (s.enterLow d low).domsBut d = s.domsBut d := by
  unfold State.enterLow
  rcases hd with h | h
  · simp only [h, if_true, apply_ite (State.domsBut d), State.setTile_domsBut, State.clearStore_domsBut, ite_self]
  · simp only [show ¬ d < 68 by omega, show ¬ d < 136 by omega, show ¬ d < 140 by omega, if_false, apply_ite (State.domsBut d),
      State.setDom_domsBut, State.setPort_domsBut, State.setRunner_domsBut, State.domsBut_of_pwr (State.park_pwr _ _),
      State.domsBut_of_pwr (State.lowQuads_pwr _ _ _ _), ite_self]

/-- It changes its state alone. -/
theorem State.evalOne_dom_ne (s : State) {d k : Nat} (hd : d < 136 ∨ 140 ≤ d) (hk : k ≠ d) : (s.evalOne d).dom k = s.dom k := by
  refine State.dom_of_domsBut ?_ hk
  unfold State.evalOne State.startWake
  simp only [apply_ite (State.domsBut d), State.setDom_domsBut, State.setPort_domsBut, State.enterLow_domsBut _ _ hd, ite_self]

/-- A tile's domain takes its store's along, and no other domain. -/
theorem State.evalDom_dom_ne (s : State) {d k : Nat} (hd : d < 136 ∨ 140 ≤ d) (hk : k ≠ d) (hs : k ≠ 68 + d) :
    (s.evalDom d).dom k = s.dom k := by
  unfold State.evalDom
  split
  · next h =>
    rw [State.evalOne_dom_ne _ (by omega) hs, State.evalOne_dom_ne _ hd hk]
    unfold State.warmUp
    split
    · exact State.setDom_dom_ne _ _ _ _ hk
    · rfl
  · exact State.evalOne_dom_ne _ hd hk

/-- What a vote that counts writes: its field of the domain's votes. -/
theorem State.vote_of_open {s : State} (d slot v : Nat) (h : s.pwr.shut = false) : s.vote d slot v
    = (s.setDom d { s.dom d with votes := BitVec.ofNat 32 (putFld (s.dom d).votes.toNat (2 * slot) 2 v) }).evalDom d :=
  if_neg (by rw [h]; exact Bool.false_ne_true)

theorem State.vote_of_shut {s : State} (d slot v : Nat) (h : s.pwr.shut = true) : s.vote d slot v = s := if_pos h

/-- A vote writes its own field, and keeps the orchestrator's vote as held. -/
theorem State.vote_field {s : State} {d slot v : Nat} (h : s.pwr.shut = false) (hs : slot < 16) (hv : v < 4) :
    fld ((s.vote d slot v).dom d).votes.toNat (2 * slot) 2 = v := by
  rw [State.vote_of_open d slot v h]
  have hb := congrArg Prod.fst (congrFun (State.evalDom_ballots (s.setDom d { s.dom d with
    votes := BitVec.ofNat 32 (putFld (s.dom d).votes.toNat (2 * slot) 2 v) }) d) d)
  simp only [State.ballots, State.setDom_dom] at hb
  rw [hb]
  exact fld_ofNat_putFld (by omega) hv

theorem State.vote_orch (s : State) (d slot v : Nat) : ((s.vote d slot v).dom d).orch = (s.dom d).orch := by
  cases h : s.pwr.shut with
  | true => rw [State.vote_of_shut d slot v h]
  | false =>
    rw [State.vote_of_open d slot v h]
    have hb := congrArg Prod.snd (congrFun (State.evalDom_ballots (s.setDom d { s.dom d with
      votes := BitVec.ofNat 32 (putFld (s.dom d).votes.toNat (2 * slot) 2 v) }) d) d)
    simp only [State.ballots, State.setDom_dom] at hb
    exact hb

theorem State.vote_dom_ne {s : State} {d slot v k : Nat} (hd : d < 136 ∨ 140 ≤ d) (hk : k ≠ d) (hs : k ≠ 68 + d) :
    (s.vote d slot v).dom k = s.dom k := by
  cases h : s.pwr.shut with
  | true => rw [State.vote_of_shut d slot v h]
  | false => rw [State.vote_of_open d slot v h, State.evalDom_dom_ne _ hd hk hs, State.setDom_dom_ne _ _ _ _ hk]

theorem State.composeVote_lt (s : State) (d : Nat) : s.composeVote d < 3 := by
  unfold State.composeVote
  split <;> decide

/-! ### A disabled port (R377, R381, R382) -/

/-- A quad that falls with nothing to carry, unless it is UNTRAINED or DOWN already (R377, R378). -/
def Quad.disabled (q : Quad) : Quad :=
  if q.st = 1 ∨ q.st = 4 then q
  else { st := 4, full := q.full, reversed := q.reversed, replays := q.replays, downs := min 0xFFFF (q.downs + 1) }

/-- A quad takes no message with it when it falls: it is down, or no bunch owns it and it carries none. -/
def State.IdleQuad (s : State) (x : Nat) : Prop :=
  (s.quad x).st = 1 ∨ (s.quad x).st = 4 ∨ ((s.quad x).txq = [] ∧ (s.quad x).unans = [] ∧ tget 0 s.comp.quadOwner x = 0)

/-- A quad of a disabled port goes DOWN (R377). -/
def State.disableQuad (s : State) (x : Nat) : State :=
  if (s.quad x).st = 1 || (s.quad x).st = 4 then s else (s.quadDown x).quadFault x 0x0400

/-- The state without what the fall of idle quads writes. -/
def State.unquadded (s : State) : State := { s.unreported with quads := [], lanes := [] }

theorem State.setLanes_unquadded (s : State) (x : Nat) (g : Nat → Lane → Lane) : (s.setLanes x g).unquadded = s.unquadded := by
  unfold State.setLanes
  apply foldl_part State.unquadded; intros; rfl

theorem State.quadFault_unquadded (s : State) (x : Nat) (code : BitVec 16) : (s.quadFault x code).unquadded = s.unquadded := by
  have h := State.fault_unreported s (portSrc x) code none (BitVec.ofNat 64 (x % 4))
  unfold State.quadFault State.unquadded
  rw [h]

theorem State.setLanes_quads (s : State) (x : Nat) (g : Nat → Lane → Lane) : (s.setLanes x g).quads = s.quads := by
  unfold State.setLanes
  apply foldl_part State.quads; intros; rfl

/-- An idle quad of a disabled port falls alone. -/
theorem State.disableQuad_spec {s : State} {x : Nat} (hi : s.IdleQuad x) (hw : s.comp.waits = [])
    (hd : (s.runner (x / 4)).disabled = true) : (s.disableQuad x).unquadded = s.unquadded
      ∧ ∀ y, (s.disableQuad x).quad y = if y = x then (s.quad x).disabled else s.quad y := by
  unfold State.disableQuad Quad.disabled
  by_cases hst : (s.quad x).st = 1 ∨ (s.quad x).st = 4
  · rw [if_pos (by simpa using hst), if_pos hst]
    refine ⟨rfl, fun y => ?_⟩
    split
    · next h => rw [h]
    · rfl
  · obtain ⟨ht, hu, ho⟩ := (hi.resolve_left fun h => hst (.inl h)).resolve_left fun h => hst (.inr h)
    rw [if_neg (by simpa using hst), if_neg hst, State.quadDown_idle ho ht hu hw, hd, if_pos rfl]
    refine ⟨?_, fun y => ?_⟩
    · rw [State.quadFault_unquadded, State.setLanes_unquadded]
      rfl
    · rw [State.quadFault, State.fault_quad, State.quad, State.setLanes_quads]
      exact tget_tput _ _ _ _ _

theorem State.comp_of_unquadded {s u : State} (h : u.unquadded = s.unquadded) : u.comp = s.comp :=
  (congrArg State.comp h :)

theorem State.tiles_of_unquadded {s u : State} (h : u.unquadded = s.unquadded) : u.tiles = s.tiles :=
  (congrArg State.tiles h :)

theorem State.mem_of_unquadded {s u : State} (h : u.unquadded = s.unquadded) : u.mem = s.mem :=
  (congrArg State.mem h :)

theorem State.runner_of_unquadded {s u : State} (h : u.unquadded = s.unquadded) (x : Nat) : u.runner x = s.runner x :=
  (congrArg (fun v : State => v.runner x) h :)

/-- The quads of a disabled port fall one by one, each alone. -/
theorem State.disableQuads_spec : ∀ (l : List Nat) (s : State), l.Nodup → (∀ x ∈ l, s.IdleQuad x) → s.comp.waits = [] →
    (∀ x ∈ l, (s.runner (x / 4)).disabled = true) → (l.foldl State.disableQuad s).unquadded = s.unquadded
      ∧ ∀ y, (l.foldl State.disableQuad s).quad y = if y ∈ l then (s.quad y).disabled else s.quad y
  | [], s, _, _, _, _ => ⟨rfl, fun y => (if_neg List.not_mem_nil).symm⟩
  | x :: l, s, hn, hi, hw, hd => by
    obtain ⟨hx, hn⟩ := List.nodup_cons.1 hn
    obtain ⟨hun, hq⟩ := State.disableQuad_spec (hi x List.mem_cons_self) hw (hd x List.mem_cons_self)
    have hother : ∀ y, y ≠ x → (s.disableQuad x).quad y = s.quad y := fun y hy => (hq y).trans (if_neg hy)
    have hidle : ∀ y ∈ l, (s.disableQuad x).IdleQuad y := fun y hy => by
      unfold State.IdleQuad
      rw [hother y (fun e => hx (e ▸ hy)), State.comp_of_unquadded hun]
      exact hi y (List.mem_cons_of_mem _ hy)
    obtain ⟨hrest, hquads⟩ := State.disableQuads_spec l (s.disableQuad x) hn hidle
      ((congrArg Compose.waits (State.comp_of_unquadded hun)).trans hw)
      (fun y hy => by rw [State.runner_of_unquadded hun]; exact hd y (List.mem_cons_of_mem _ hy))
    refine ⟨hrest.trans hun, fun y => (hquads y).trans ?_⟩
    by_cases hy : y = x
    · rw [hy, if_neg hx, if_pos List.mem_cons_self, hq x, if_pos rfl]
    · simp only [hother y hy, List.mem_cons, hy, false_or]

/-- The quads of a port. -/
def portQuads (p : Nat) : List Nat := (List.range 4).map (fun j => 4 * p + j)

theorem mem_portQuads {p y : Nat} : y ∈ portQuads p ↔ y / 4 = p := by
  simp only [portQuads, List.mem_map, List.mem_range]
  exact ⟨fun ⟨j, hj, h⟩ => by omega, fun h => ⟨y % 4, Nat.mod_lt _ (by decide), by omega⟩⟩

theorem State.disablePort_eq (s : State) (p : Nat) : s.disablePort p
    = (portQuads p).foldl State.disableQuad (s.setRunner p { s.runner p with disabled := true }) := by
  rw [portQuads, List.foldl_map]
  rfl

/-- A port whose quads are idle takes nothing but its quads along when it is disabled (R381, R382). -/
theorem State.disablePort_idle {s : State} {p : Nat} (hi : ∀ j, j < 4 → s.IdleQuad (4 * p + j)) (hw : s.comp.waits = []) :
    (s.disablePort p).unquadded = (s.setRunner p { s.runner p with disabled := true }).unquadded
      ∧ ∀ y, (s.disablePort p).quad y = if y / 4 = p then (s.quad y).disabled else s.quad y := by
  have hidle : ∀ x ∈ portQuads p, (s.setRunner p { s.runner p with disabled := true }).IdleQuad x := fun x hx => by
    have h := hi (x % 4) (Nat.mod_lt _ (by decide))
    rwa [show 4 * p + x % 4 = x by rw [← mem_portQuads.1 hx]; omega] at h
  have hdis : ∀ x ∈ portQuads p, ((s.setRunner p { s.runner p with disabled := true }).runner (x / 4)).disabled = true :=
    fun x hx => by rw [mem_portQuads.1 hx, State.setRunner_runner]
  have hnodup : (portQuads p).Nodup := List.nodup_range.map fun a b h => by simpa using h
  obtain ⟨hun, hq⟩ := State.disableQuads_spec _ _ hnodup hidle hw hdis
  rw [State.disablePort_eq]
  exact ⟨hun, fun y => by rw [hq y, if_congr mem_portQuads rfl rfl]; rfl⟩

/-! ### The commands (R248, R262, R382, R402, R416) -/

theorem State.floorsOk_iff (s : State) (l : List Nat) : s.floorsOk l = true ↔ l.length ≤ 73 ∧ (∀ n ∈ l, n % 64 = 0)
    ∧ l.foldl (· + ·) 0 ≤ 393216 ∧ ∀ p ∈ (List.range l.length).zip l, p.2 = 0 ∨ s.hasMaster p.1 = true := by
  simp [State.floorsOk, and_assoc]

section
variable {s : State} {f : Frame} (hm : s.mgmtOpen = true) (hf : s.frameOk f = true)
include hm hf

theorem answers_setPowerPolicy (b : BitVec 32) (k : Bool) : let w := s.takeFrame f
    (w.findBunch b = none → Answers (.setPowerPolicy f b k) s f w 0x14)
      ∧ ((w.findBunch b).isSome = true →
        Answers (.setPowerPolicy f b k) s f (w.updBunch b (fun x => { x with keepIdle := k })).revote 0) := by
  intro w
  refine ⟨fun h => ?_, fun h => ?_⟩ <;> refine answers_framed hm hf (show execSetPowerPolicy f b k s = _ from rfl) ?_
  · exact if_pos (by rw [show (s.takeFrame f).findBunch b = none from h]; rfl)
  · exact if_neg (by rw [Option.isNone_eq_false_iff.2 h]; exact Bool.false_ne_true)

theorem answers_orchVote (d v : Nat) : let w := s.takeFrame f
    (w.hasDom d = false ∨ 3 ≤ v → Answers (.orchVote f d v) s f w 0x14)
      ∧ (w.hasDom d = true → v < 3 →
        Answers (.orchVote f d v) s f ((w.setDom d { w.dom d with orch := v }).vote d 2 (max v (w.composeVote d))) 0) := by
  intro w
  refine ⟨fun h => ?_, fun hd hv => ?_⟩ <;> refine answers_framed hm hf (show execOrchVote f d v s = _ from rfl) ?_
  · exact if_pos (by simpa using h)
  · exact if_neg (by simpa using ⟨hd, hv⟩)

theorem answers_setBankKeep (q : Nat) (keep : BitVec 17) : let w := s.takeFrame f
    (quartersOf w.boot.variant ≤ q → Answers (.setBankKeep f q keep) s f w 0x14)
      ∧ (q < quartersOf w.boot.variant → Answers (.setBankKeep f q keep) s f
          { w with pwr := { w.pwr with keep := tput w.pwr.keep q keep } } 0) := by
  intro w
  exact ⟨fun h => answers_framed hm hf (show execSetBankKeep f q keep s = _ from rfl) (if_pos h),
    fun h => answers_framed hm hf (show execSetBankKeep f q keep s = _ from rfl) (if_neg (not_le.2 h))⟩

theorem answers_setFloors (m : Nat) (fl : Option (List Nat)) : let w := s.takeFrame f
    (w.hasPort m = false → Answers (.setFloors f m fl) s f w 0x14)
      ∧ (w.hasPort m = true →
        Answers (.setFloors f m none) s f (w.setPort m { w.port m with
          explicit := false, stale := false, floors := w.defaultFloors m }) 0
        ∧ ∀ l, (w.floorsOk l = false → Answers (.setFloors f m (some l)) s f w 0x14)
          ∧ (w.floorsOk l = true → Answers (.setFloors f m (some l)) s f (w.setPort m { w.port m with
              explicit := true, floors := ((List.range l.length).zip l).filter (fun p => p.2 != 0) }) 0)) := by
  intro w
  refine ⟨fun h => ?_, fun h => ?_⟩
  · exact answers_framed hm hf (show execSetFloors f m fl s = _ from rfl) (if_pos (by simpa using h))
  · have hport : ¬ (!(s.takeFrame f).hasPort m) = true := by simpa using h
    exact ⟨answers_framed hm hf (show execSetFloors f m none s = _ from rfl) (if_neg hport), fun l =>
      ⟨fun hl => answers_framed hm hf (show execSetFloors f m (some l) s = _ from rfl)
          ((if_neg hport).trans (if_neg (by simpa using hl))),
        fun hl => answers_framed hm hf (show execSetFloors f m (some l) s = _ from rfl) ((if_neg hport).trans (if_pos hl))⟩⟩

theorem answers_setVcArb (p : Option Nat) (v : Word) : let w := s.takeFrame f
    (arbOk v = false → Answers (.setVcArb f p v) s f w 0x14)
      ∧ (arbOk v = true → Answers (.setVcArb f none v) s f { w with bram := { w.bram with arb := v } } 0
        ∧ ∀ x, (w.hasRunner x = true → Answers (.setVcArb f (some x) v) s f (w.setRunner x { w.runner x with arb := v }) 0)
          ∧ (w.hasRunner x = false → Answers (.setVcArb f (some x) v) s f w 0x14)) := by
  intro w
  refine ⟨fun h => ?_, fun h => ?_⟩
  · exact answers_framed hm hf (show execSetVcArb f p v s = _ from rfl) (if_pos (by simpa using h))
  · have hok : ¬ (!arbOk v) = true := by simpa using h
    exact ⟨answers_framed hm hf (show execSetVcArb f none v s = _ from rfl) (if_neg hok), fun x =>
      ⟨fun hx => answers_framed hm hf (show execSetVcArb f (some x) v s = _ from rfl) ((if_neg hok).trans (if_pos hx)),
        fun hx => answers_framed hm hf (show execSetVcArb f (some x) v s = _ from rfl)
          ((if_neg hok).trans (if_neg (by simpa using hx)))⟩⟩

theorem answers_portDisable (x : Nat) : let w := s.takeFrame f
    (w.hasRunner x = false → Answers (.portDisable f x) s f w 0x14)
      ∧ (w.hasRunner x = true → Answers (.portDisable f x) s f (w.disablePort x) 0) := by
  intro w
  exact ⟨fun h => answers_framed hm hf (show execPortDisable f x s = _ from rfl) (if_neg (by simpa using h)),
    fun h => answers_framed hm hf (show execPortDisable f x s = _ from rfl) (if_pos h)⟩

end

/-- Settles O46: each command's own equation, the vote by its field, and a disabled port by the fall of its idle quads. -/
theorem orchestratorSettings : Obligations.OrchestratorSettings := by
  unfold Obligations.OrchestratorSettings
  refine ⟨fun s f hm hf => ⟨fun free => ?_, fun n => ?_, answers_setPowerPolicy hm hf, fun d v => ?_, answers_setBankKeep hm hf,
    fun m fl => ?_, answers_setVcArb hm hf, fun x => ?_⟩, fun _ _ => rfl, fun _ _ => rfl⟩
  · exact answers_framed hm hf (show execSetPerfMode f free s = _ from rfl) rfl
  · exact answers_framed hm hf (show execSetOrchCap f n s = _ from rfl) rfl
  · obtain ⟨hbad, hok⟩ := answers_orchVote hm hf d v
    refine ⟨hbad, fun hd hv => ⟨hok hd hv, fun hs => ?_, ?_, fun hs => ?_, fun hq k hk hk' => ?_⟩⟩
    · exact State.vote_field (slot := 2) hs (by decide)
        (max_lt (hv.trans (by decide)) ((State.composeVote_lt _ _).trans (by decide)))
    · rw [State.vote_orch, State.setDom_dom]
    · exact State.vote_of_shut _ _ _ hs
    · rw [State.vote_dom_ne hq hk hk', State.setDom_dom_ne _ _ _ _ hk]
  · obtain ⟨hbad, hok⟩ := answers_setFloors hm hf m fl
    refine ⟨hbad, fun h => ⟨(hok h).1, fun l => ((hok h).2 l).1, fun l hlen h64 hsum hall => ((hok h).2 l).2 ?_⟩⟩
    exact ((s.takeFrame f).floorsOk_iff l).2 ⟨hlen, h64, hsum, hall⟩
  · obtain ⟨hbad, hok⟩ := answers_portDisable hm hf x
    refine ⟨hbad, fun h => ⟨hok h, fun hidle hw => ?_⟩⟩
    obtain ⟨hun, hq⟩ := State.disablePort_idle hidle hw
    refine ⟨?_, fun j hj => ?_, fun y hy => (hq y).trans (if_neg hy), ?_, ?_, ?_⟩
    · rw [State.runner_of_unquadded hun, State.setRunner_runner]
    · rw [hq, if_pos (by omega)]
      rfl
    · rw [State.tiles_of_unquadded hun]
      rfl
    · rw [State.mem_of_unquadded hun]
      rfl
    · rw [State.comp_of_unquadded hun]
      rfl

end Sys2Proof.Machine
end

section
/-! PROOFS. Memory ports (R226 to R237, R246 to R250, R419, R483): what their training, failure, reads, windows, rebuilt copies and Peel leave
of the port, the memory and the rest. -/

namespace Sys2Proof.Machine

open Sys2Proof.Claims

/-! ### Addresses of a port (R242) -/

section
variable {m off : Nat} (hm : m < 16) (ho : off < 2 ^ 40)
include ho

theorem fld_lpAddr_off : fld (lpAddr m off) 0 40 = off := by
  rw [fld_zero, lpAddr]
  omega

include hm

theorem fld_lpAddr_port : fld (lpAddr m off) 40 4 = m := by
  rw [fld_eq, lpAddr]
  omega

/-- A line of a port lies in no tile store. -/
theorem isStore_lpAddr_line : isStore (lpAddr m off / 64 * 64) = false := by
  rw [isStore, fld_eq, lpAddr, beq_eq_false_iff_ne]
  omega

theorem fld_lpAddr_line : fld (lpAddr m off / 64 * 64) 40 4 = m := by
  rw [fld_eq, lpAddr]
  omega

end

theorem srcTile_port {m : Nat} (hm : m < 16) : srcTile (srcId 3 m) = none := by
  have h : (srcId 3 m).toNat = 3 * 2 ^ 28 + m := by
    rw [srcId, BitVec.toNat_ofNat]
    omega
  rw [srcTile, h, fld_eq, if_neg (by omega), if_neg (by omega)]

/-! ### Bytes that move at a port (R250) -/

theorem State.count_ports (s : State) (g i k : Nat) : (s.count g i k).ports = s.ports :=
  (congrArg State.ports (s.count_unlanded g i k) :)

theorem State.count_mem (s : State) (g i k : Nat) : (s.count g i k).mem = s.mem := by
  unfold State.count
  dsimp only
  split <;> rfl

/-- A port's window takes the bytes, and no other port changes. -/
theorem State.portMove_ports (s : State) (m cls master n : Nat) : (s.portMove m cls master n).ports
    = tput s.ports m ((s.port m).carry cls master n) := by
  have hcross : (if cls = 0 then s.crossUp (16 + m) (toBytes 8 n) else s.crossDown (16 + m) (toBytes 8 n)).ports = s.ports :=
    ite_part State.ports rfl rfl
  unfold State.portMove
  dsimp only
  generalize (if cls = 0 then s.crossUp (16 + m) (toBytes 8 n) else s.crossDown (16 + m) (toBytes 8 n)) = u at hcross ⊢
  have hmem : (if master < 68 then (u.setTile master { u.tile master with memBytes := (u.tile master).memBytes + n }).count master 21 n
      else u).ports = s.ports := by
    rw [← hcross]
    split
    · exact State.count_ports _ _ _ _
    · rfl
  generalize (if master < 68 then (u.setTile master { u.tile master with memBytes := (u.tile master).memBytes + n }).count master 21 n
      else u) = v at hmem ⊢
  have hset : ((v.setPort m ((v.port m).carry cls master n)).count (68 + m) cls n).ports
      = tput s.ports m ((s.port m).carry cls master n) := by
    rw [State.count_ports, ← hmem]
    simp only [State.setPort, State.port, hmem]
  exact ite_part State.ports hset ((State.count_ports _ _ _ _).trans hset)

/-- All of a port but its window. -/
def Port.still (x : Port) : Port := { x with bytes := [], masters := [], backlog := [] }

theorem State.portMove_still (s : State) (j cls master n m : Nat) : ((s.portMove j cls master n).port m).still = (s.port m).still := by
  rw [State.port, State.portMove_ports, tget_tput]
  split
  · next h => subst h; rfl
  · rfl

/-! ### Training and failure (R226, R230, R419) -/

/-- Held pads of a port are freed outside MAINTENANCE (R419). -/
def State.freePads (s : State) (m : Nat) : State :=
  if (s.dom (140 + m)).held && !s.boot.maint then s.releasePads (140 + m) else s

/-- Pads are freed in the power state alone. -/
theorem State.freePads_eq (s : State) (m : Nat) : s.freePads m = { s with pwr := (s.freePads m).pwr } := by
  unfold State.freePads
  split <;> rfl

theorem State.freePads_held {s : State} {m : Nat} (h : (s.dom (140 + m)).held = true) :
    ((s.freePads m).dom (140 + m)).held = s.boot.maint := by
  unfold State.freePads
  cases s.boot.maint <;> simp [h, State.releasePads]

/-- A port that has trained is READY, or parked where its domain is retained. -/
def State.portTrained (s : State) (m : Nat) : State := s.setPort m { s.port m with st := if (s.dom (140 + m)).st = 1 then 3 else 2 }

theorem exec_memportTrainingDone {s : State} {m : Nat} (hp : s.hasPort m = true) (h : (s.port m).st = 1) :
    exec (.memportTrainingDone m) s = .next ((s.portTrained m).freePads m).unitsGo := if_pos (by rw [hp, h]; rfl)

theorem State.freePads_port (s : State) (m k : Nat) : (s.freePads m).port k = s.port k := by
  rw [State.freePads_eq]
  rfl

theorem State.freePads_mem (s : State) (m : Nat) : (s.freePads m).mem = s.mem := by
  rw [State.freePads_eq]

theorem State.freePads_tiles (s : State) (m : Nat) : (s.freePads m).tiles = s.tiles := by
  rw [State.freePads_eq]

theorem exec_memportFailed {s : State} {m : Nat} (hp : s.hasPort m = true) (h : (s.port m).st ≠ 4) :
    exec (.memportFailed m) s = .next ((s.failPort m).raiseSafety 12 (srcId 3 m) [] 0) := if_pos (by rw [hp, bne_iff_ne.2 h]; rfl)

/-- A failed port's report carries no pacer and no kernel: its source is no tile. -/
theorem State.failPort_report (s : State) {m : Nat} (hm : m < 16) : ((s.failPort m).raiseSafety 12 (srcId 3 m) [] 0).stone.faults
    = s.stone.faults ++ [{ row := 12, src := srcId 3 m, ctxs := [], detail := 0 }] := by
  have hstone : (s.failPort m).stone = s.stone := (congrArg State.stone (s.failPort_uncomp m) :)
  rw [State.raiseSafety_faults, hstone]
  simp only [State.srcPacer, srcTile_port hm, unitTile, State.runningOn]
  rfl

theorem State.failPort_mem (s : State) (m : Nat) : (s.failPort m).mem = s.mem := (congrArg State.mem (s.failPort_uncomp m) :)

/-! ### The level of a port's queue, and reads (R227, R247) -/

/-- The queue of a port has some level; its credits are withheld above 192 and given below 128. -/
theorem State.portLevel_spec (s : State) (m : Nat) : ∃ occ th, occ ≤ 256 ∧ (192 < occ → th = true) ∧ (occ < 128 → th = false)
    ∧ s.portLevel m = { s.setPort m { s.port m with occ := occ, throttling := th } with fresh := s.fresh + 1 } := by
  refine ⟨_, _, Nat.min_le_left _ _, fun h => ?_, fun h => ?_, rfl⟩
  · rw [decide_eq_true h]
    rfl
  · rw [decide_eq_false (by omega), decide_eq_false (by omega), Bool.and_false, Bool.or_false]

/-- A read has passed the crossing of its port (R425). -/
def State.lineFetched (s : State) (m off : Nat) : State :=
  ((s.portLevel m).crossDown (16 + m) (toBytes 8 off)).crossUp (16 + m) (s.peekN (lpAddr m (off / 64 * 64)) 64)

theorem State.lineFetched_face (s : State) (m off : Nat) : (s.lineFetched m off).face = s.face := by
  obtain ⟨occ, th, -, -, -, h⟩ := s.portLevel_spec m
  rw [State.lineFetched, h]
  exact (s.setPort_face (x := { s.port m with occ := occ, throttling := th }) rfl :)

theorem State.otherCopy_of_face {s u : State} (h : u.face = s.face) (p : Spot) : u.otherCopy p = s.otherCopy p := by
  unfold State.otherCopy
  simp only [State.addrFailed_of_face h]

section
variable {s : State} {m off : Nat} {who : Requester} {p : Spot} (hp : s.hasPort m = true) (hst : (s.port m).st = 2)
  (hl : s.lineRead who m off = some p) (hs : s.portServes m = true)
include hp hst hl hs

/-- A read that its requester has made comes to its end as its line and the other copy of it allow. -/
theorem exec_memportReadComplete (clean mc : Bool) :
    exec (.memportReadComplete m off who clean (s.otherCopy p).isSome mc) s
      = (if clean then .next (s.lineFetched m off)
        else match (if mc then (s.lineFetched m off).otherCopy p else none) with
          | some k =>
            if ((s.lineFetched m off).port m).credits 73 && ((s.lineFetched m off).port (fld k 40 4)).credits 73 then
              .next ((s.lineFetched m off).mirrorServed (lpAddr m off) k)
            else .refused (.notEnabled "MEMPORT_READ_COMPLETE")
          | none => match (s.lineFetched m off).portUe who p with
            | some s => .next s
            | none => .refused (.notEnabled "MEMPORT_READ_COMPLETE")) := by
  change execMemportReadComplete m off who clean (s.otherCopy p).isSome mc s = _
  rw [execMemportReadComplete, hl]
  dsimp only
  rw [if_neg (by simp [hp, hst, hs])]
  rfl

/-- A clean read. -/
theorem exec_readClean (mc : Bool) :
    exec (.memportReadComplete m off who true (s.otherCopy p).isSome mc) s = .next (s.lineFetched m off) :=
  exec_memportReadComplete hp hst hl hs true mc

/-- A read that its mirror copy serves, once both ports give credits for the rewrite. -/
theorem exec_readMirrored {k : Nat} (hk : s.otherCopy p = some k) (h1 : ((s.lineFetched m off).port m).credits 73 = true)
    (h2 : ((s.lineFetched m off).port (fld k 40 4)).credits 73 = true) :
    exec (.memportReadComplete m off who false (s.otherCopy p).isSome true) s
      = .next ((s.lineFetched m off).mirrorServed (lpAddr m off) k) := by
  rw [exec_memportReadComplete hp hst hl hs, if_neg Bool.false_ne_true, if_pos rfl,
    State.otherCopy_of_face (s.lineFetched_face m off), hk]
  exact if_pos (by rw [h1, h2]; rfl)

/-- A read that no copy serves ends its requester. -/
theorem exec_readLost {mc : Bool} {u : State} (hmc : mc = true → s.otherCopy p = none)
    (hu : (s.lineFetched m off).portUe who p = some u) :
    exec (.memportReadComplete m off who false (s.otherCopy p).isSome mc) s = .next u := by
  have hnone : (if mc then (s.lineFetched m off).otherCopy p else none) = none := by
    rw [State.otherCopy_of_face (s.lineFetched_face m off)]
    cases mc with
    | false => rfl
    | true => exact hmc rfl
  rw [exec_memportReadComplete hp hst hl hs, if_neg Bool.false_ne_true, hnone, hu]

end

/-- A load that meets an uncorrectable line stops its kernel. -/
theorem State.portUe_load {w : State} {t rd n : Nat} {td sx : Bool} {va : Word} {p : Spot}
    (h : (w.tile t).core.stall = .load td rd n sx va) :
    w.portUe (.core t) p = some (w.accessStop t [p] .uncorrectable) := by
  rw [State.portUe, h]

/-- A read that the mirror copy serves counts a corrected error and names the rewritten block by fault 0x0303. -/
theorem State.mirrorServed_spec (w : State) {m off : Nat} (hm : m < 16) (ho : off < 2 ^ 40) (k : Nat) : ∃ v : State,
    (v.port m).ce = min 0xFFFFFF ((w.port m).ce + 1) ∧ w.mirrorServed (lpAddr m off) k
      = v.fault (srcId 3 m) 0x0303 none false (BitVec.ofNat 64 ((v.port m).blockAt off)) := by
  unfold State.mirrorServed
  rw [fld_lpAddr_port hm ho, fld_lpAddr_off ho]
  refine ⟨_, ?_, rfl⟩
  have hline : w.countLine .corrected (lpAddr m off / 64) = w.setPort m { w.port m with ce := min 0xFFFFFF ((w.port m).ce + 1) } := by
    simp only [State.countLine, isStore_lpAddr_line hm ho, fld_lpAddr_line hm ho, Bool.false_eq_true, if_false, satAdd]
  have hstill : ∀ (u : State) (j : Nat), ((u.portMove j 3 73 4096).port m).ce = (u.port m).ce := fun u j =>
    (congrArg Port.ce (u.portMove_still j 3 73 4096 m) :)
  rw [hstill, hstill, hline]
  have hport : ∀ (u : State) (l : List Host.Cell), ({ u with mem := l } : State).port m = u.port m := fun _ _ => rfl
  rw [hport, State.port, State.count_ports]
  exact congrArg Port.ce (State.setPort_port _ _ _)

/-! ### Windows (R246 to R250) -/

/-- Bytes that wait join the new window, which changes no more of the port. -/
theorem Port.carries_still : ∀ (l : List (Nat × Nat × Nat)) (x : Port),
    (l.foldl (fun x (cls, master, n) => x.carry cls master n) x).still = x.still
  | [], _ => rfl
  | _ :: l, _ => (Port.carries_still l _).trans rfl

/-- The port when its window ends, before what waits joins the next one. -/
def Port.nextWindow (p : Port) (floors : Table Nat) : Port :=
  { p with latched := p.bytes, latchedWin := p.window, window := p.window + 1, bytes := [], masters := [], backlog := [],
           floors := if !p.explicit && (p.stale || p.floors.isEmpty) then floors else p.floors
           stale := p.stale && p.explicit }

theorem State.windowEnd_eq (s : State) (m : Nat) : s.windowEnd m = s.setPort m ((s.port m).backlog.foldl
    (fun x (cls, master, n) => x.carry cls master n) ((s.port m).nextWindow (s.defaultFloors m))) := rfl

theorem State.countThrottled_unlanded (s : State) (m : Nat) : (s.countThrottled m).unlanded = s.unlanded :=
  ite_part State.unlanded (s.count_unlanded _ _ _) rfl

theorem State.countThrottled_mem (s : State) (m : Nat) : (s.countThrottled m).mem = s.mem :=
  ite_part State.mem (s.count_mem _ _ _) rfl

/-- A window ends: the count of throttled windows, the level of the queue, and the new window. -/
def State.windowOver (s : State) (m : Nat) : State := ((s.countThrottled m).portLevel m).windowEnd m

theorem exec_bandwidthWindowEnd {s : State} {m : Nat} (hp : s.hasPort m = true) (hst : (s.port m).st = 2) :
    exec (.bandwidthWindowEnd m) s = .next (s.windowOver m).unitsGo := if_pos (by rw [hp, hst]; rfl)

/-- The port of a new window: its level and floors, and the bytes of what waited. -/
theorem State.windowOver_spec (s : State) (m : Nat) : ∃ (occ : Nat) (th : Bool) (floors : Table Nat),
    (s.windowOver m).ports = tput (tput s.ports m { s.port m with occ := occ, throttling := th }) m
      ((s.port m).backlog.foldl (fun x (cls, master, n) => x.carry cls master n)
        (Port.nextWindow { s.port m with occ := occ, throttling := th } floors)) := by
  obtain ⟨occ, th, -, -, -, hl⟩ := (s.countThrottled m).portLevel_spec m
  have hports : (s.countThrottled m).ports = s.ports := (congrArg State.ports (s.countThrottled_unlanded m) :)
  have hport : (s.countThrottled m).port m = s.port m := by rw [State.port, hports]; rfl
  rw [hport] at hl
  have hset : ((s.countThrottled m).portLevel m).ports = tput s.ports m { s.port m with occ := occ, throttling := th } := by
    rw [hl, ← hports]
    rfl
  have hmid : ((s.countThrottled m).portLevel m).port m = { s.port m with occ := occ, throttling := th } := by
    rw [State.port, hset, tget_tput_same]
  refine ⟨occ, th, ((s.countThrottled m).portLevel m).defaultFloors m, ?_⟩
  rw [State.windowOver, State.windowEnd_eq, hmid, ← hset]
  rfl

theorem State.windowOver_tiles (s : State) (m : Nat) : (s.windowOver m).tiles = s.tiles :=
  (congrArg State.tiles (s.countThrottled_unlanded m) :)

theorem State.windowOver_mem (s : State) (m : Nat) : (s.windowOver m).mem = s.mem := s.countThrottled_mem m

theorem State.windowOver_port_ne (s : State) {m k : Nat} (hk : k ≠ m) : (s.windowOver m).port k = s.port k := by
  obtain ⟨occ, th, floors, h⟩ := s.windowOver_spec m
  rw [State.port, h, tget_tput_ne _ _ _ _ _ hk, tget_tput_ne _ _ _ _ _ hk]
  rfl

/-- What the new window holds of the port. -/
theorem State.windowOver_port (s : State) (m : Nat) : ((s.windowOver m).port m).latched = (s.port m).bytes
    ∧ ((s.windowOver m).port m).latchedWin = (s.port m).window ∧ ((s.windowOver m).port m).window = (s.port m).window + 1
    ∧ ((s.port m).explicit = true → ((s.windowOver m).port m).floors = (s.port m).floors)
    ∧ ((s.port m).backlog = [] → ((s.windowOver m).port m).bytes = [] ∧ ((s.windowOver m).port m).masters = []) := by
  obtain ⟨occ, th, floors, h⟩ := s.windowOver_spec m
  rw [State.port, h, tget_tput_same]
  have hstill := Port.carries_still (s.port m).backlog (Port.nextWindow { s.port m with occ := occ, throttling := th } floors)
  refine ⟨(congrArg Port.latched hstill :), (congrArg Port.latchedWin hstill :), (congrArg Port.window hstill :),
    fun he => (congrArg Port.floors hstill :).trans ?_, fun hb => ?_⟩
  · exact if_neg (by rw [he]; exact Bool.false_ne_true)
  · rw [hb]
    exact ⟨rfl, rfl⟩

/-! ### Peel (R483) -/

theorem State.fault_ports (s : State) (src : BitVec 32) (code : BitVec 16) (ctx : Option Nat) (d : BitVec 64) :
    (s.fault src code ctx false d).ports = s.ports := (congrArg State.ports (s.fault_unreported src code ctx d) :)

/-- A granule that Peel overwrote, before the records and what its being CLEAN sets off. -/
def State.peelWrite (s : State) (m g : Nat) (ok : Bool) : State :=
  (({ s with mem := memErase s.mem (lpAddr m (g * 0x4000000)) 0x4000000 } : State).setPort m
    { s.port m with granules := tput (s.port m).granules g (peelNext (tget 0 (s.port m).granules g) ok) }).portMove m 4 73
      (0x4000000 + 0x4000000 / 4096 * 64)

theorem State.grantReady_of_nil {s : State} (h : s.comp.grants = []) : s.grantReady = s := by
  rw [State.grantReady, h]
  rfl

/-- What Peel may change of the state besides reports: the ports, the memory, the tiles and the composition. -/
def State.peelView (s : State) : Table Port × List Host.Cell × Table Tile × Compose := (s.ports, s.mem, s.tiles, s.comp)

theorem State.fault_peelView (s : State) (src : BitVec 32) (code : BitVec 16) (ctx : Option Nat) (d : BitVec 64) :
    (s.fault src code ctx false d).peelView = s.peelView := by
  simp only [State.peelView, State.fault_ports, State.fault_mem, State.fault_tiles, State.fault_comp]

theorem State.peelWrite_comp (s : State) (m g : Nat) (ok : Bool) : (s.peelWrite m g ok).comp = s.comp :=
  (congrArg State.comp (State.portMove_unsampled _ m 4 _) :)

theorem State.peelWrite_tiles (s : State) (m g : Nat) (ok : Bool) : (s.peelWrite m g ok).tiles = s.tiles :=
  State.portMove_tiles _ m 4 _

theorem State.peelWrite_mem (s : State) (m g : Nat) (ok : Bool) :
    (s.peelWrite m g ok).mem = memErase s.mem (lpAddr m (g * 0x4000000)) 0x4000000 := (State.portMove_moves _ m 4 73 _).mem

theorem State.peelWrite_granule (s : State) (m g : Nat) (ok : Bool) :
    tget 0 ((s.peelWrite m g ok).port m).granules g = peelNext (tget 0 (s.port m).granules g) ok := by
  have h := State.portMove_still (({ s with mem := memErase s.mem (lpAddr m (g * 0x4000000)) 0x4000000 } : State).setPort m
    { s.port m with granules := tput (s.port m).granules g (peelNext (tget 0 (s.port m).granules g) ok) }) m 4 73
      (0x4000000 + 0x4000000 / 4096 * 64) m
  rw [State.setPort_port] at h
  rw [State.peelWrite, show (State.port _ m).granules = _ from (congrArg Port.granules h :)]
  exact tget_tput_same _ _ _ _

/-- Where no grant, graft or change waits and no bunch dissolves, Peel changes nothing but what it writes and reports. -/
theorem State.peeled_idle {s : State} (m g : Nat) (ok : Bool) (hg : s.comp.grants = []) (hk : s.comp.grafts = [])
    (hw : s.comp.waking = []) (hd : ∀ e ∈ s.comp.bunches, e.2.st ≠ 6) : (s.peeled m g ok).peelView = (s.peelWrite m g ok).peelView := by
  have hgo : ∀ u : State, u.peelView = (s.peelWrite m g ok).peelView → u.grantReady.goOn = u := fun u hu => by
    have hc : u.comp = s.comp := (congrArg (fun v => v.2.2.2) hu).trans (s.peelWrite_comp m g ok)
    rw [State.grantReady_of_nil (by rw [hc, hg]), State.goOn_idle (by rw [hc, hk]) (by rw [hc, hw]) (by rw [hc]; exact hd)]
  have hreport : ∀ c : Prop, [Decidable c] → (if c then (s.peelWrite m g ok).fault (mpSrc m) 0x0302 none false (BitVec.ofNat 64 g)
      else s.peelWrite m g ok).peelView = (s.peelWrite m g ok).peelView := fun c _ =>
    ite_part State.peelView (State.fault_peelView _ _ _ _ _) rfl
  have hnext : ∀ u : State, ∀ c : Prop, [Decidable c] → u.peelView = (s.peelWrite m g ok).peelView →
      (if c then u.grantReady.goOn else u).peelView = (s.peelWrite m g ok).peelView := fun u c _ hu =>
    ite_part State.peelView (by rw [hgo u hu, hu]) hu
  exact ite_part State.peelView (hnext _ _ (hreport _)) (hnext _ _ (hreport _))

theorem exec_peelGranuleDone {s : State} {m g : Nat} (ok : Bool) (h : s.peelable m g = true) :
    exec (.peelGranuleDone m g ok) s = .next (s.peeled m g ok) := if_pos h

/-! ### Rebuilt mirror copies (R237) -/

theorem exec_mirrorRebuildDone {s u : State} {c seg lost m : Nat} (h : s.rebuilt c seg lost m = some u) :
    exec (.mirrorRebuildDone c seg lost m) s = .next u := by
  change execMirrorRebuildDone c seg lost m s = _
  rw [execMirrorRebuildDone, h]

/-- A copy that was rebuilt makes the segment name the new port in the place of the lost one. -/
theorem State.rebuilt_seg {s u : State} {c seg lost m : Nat} (h : s.rebuilt c seg lost m = some u) :
    tget 0 (u.ctx c).segs seg = withPorts (tget 0 (s.ctx c).segs seg)
      (swapBit (segPorts (tget 0 (s.ctx c).segs seg)) lost m) (swapBit (segMports (tget 0 (s.ctx c).segs seg)) lost m) := by
  unfold State.rebuilt at h
  dsimp only at h
  split at h
  · split at h
    · injection h with h
      rw [← h]
      exact (congrArg (fun x : Ctx => tget 0 x.segs seg) (State.setCtx_ctx _ _ _)).trans (tget_tput_same _ _ _ _)
    · cases h
  · cases h

/-- Settles O40: each event's own equation, read field by field. -/
theorem memoryPorts : Obligations.MemoryPorts := by
  unfold Obligations.MemoryPorts
  intro s m hp
  have hm := State.hasPort_lt hp
  refine ⟨fun h => ?_, fun h => ?_, fun h => ⟨fun off who p hl hs => ?_, s.portLevel_spec m, ?_, ?_, fun g ok hg => ?_⟩,
    fun c seg lost u h => ⟨exec_mirrorRebuildDone h, State.rebuilt_seg h⟩⟩
  · refine ⟨_, exec_memportTrainingDone hp h, ?_, State.freePads_mem _ _, State.freePads_tiles _ _, fun hh => State.freePads_held hh⟩
    rw [State.freePads_port]
    exact State.setPort_port _ _ _
  · exact ⟨_, exec_memportFailed hp h, congrArg Port.st (s.failPort_port m), s.failPort_mem m, (congrArg Port.ranges (s.failPort_port m) :),
      s.failPort_report hm⟩
  · refine ⟨exec_readClean hp h hl hs, fun k hk h1 h2 => exec_readMirrored hp h hl hs hk h1 h2,
      fun mc u hmc hu => exec_readLost hp h hl hs hmc hu, fun t td rd n sx va hwho hstall => ?_,
      fun k ho => State.mirrorServed_spec (s.lineFetched m off) hm ho k⟩
    have hload : ((s.lineFetched m off).tile t).core.stall = .load td rd n sx va := hstall
    subst hwho
    exact (State.portUe_load hload :)
  · obtain ⟨hlat, hwin, hnext, hfl, hb⟩ := s.windowOver_port m
    exact ⟨_, exec_bandwidthWindowEnd hp h, hlat, hb, hwin, hnext, hfl, s.windowOver_tiles m, s.windowOver_mem m,
      fun k hk => s.windowOver_port_ne hk⟩
  · exact if_pos (by rw [hp, h]; rfl)
  · refine ⟨exec_peelGranuleDone ok hg, fun h1 h2 h3 h4 => ?_⟩
    have hv := State.peeled_idle m g ok h1 h2 h3 h4
    refine ⟨?_, fun k hk => ?_, (congrArg (fun v => v.2.2.1) hv).trans (s.peelWrite_tiles m g ok),
      (congrArg (fun v => v.2.2.2) hv).trans (s.peelWrite_comp m g ok)⟩
    · have hports : (s.peeled m g ok).ports = (s.peelWrite m g ok).ports := congrArg Prod.fst hv
      rw [State.port, hports]
      exact s.peelWrite_granule m g ok
    · rw [(congrArg (fun v => v.2.1) hv : (s.peeled m g ok).mem = _).trans (s.peelWrite_mem m g ok)]
      refine tget_put_filter_gone _ _ _ _ ?_
      unfold lpAddr
      omega

end Sys2Proof.Machine
end

section
/-! PROOFS. The events of ports, the power controller, crossings, resets, the cold start and the PCIe link complete (R226, R401, R407, R408,
R411, R427 to R431, R504). -/

namespace Sys2Proof.Machine

open Sys2Proof.Claims

/-! ### The power controller (R398 to R411) -/

theorem State.fault_pwr (s : State) (src : BitVec 32) (code : BitVec 16) (ctx : Option Nat) (d : BitVec 64) :
    (s.fault src code ctx false d).pwr = s.pwr := (congrArg State.pwr (s.fault_unreported src code ctx d) :)

theorem State.signal_pwr (s : State) : s.signal.pwr = s.pwr := (congrArg State.pwr s.signal_unsignalled :)

theorem State.signal_mem (s : State) : s.signal.mem = s.mem := (congrArg State.mem s.signal_unsignalled :)

theorem State.signal_tiles (s : State) : s.signal.tiles = s.tiles := (congrArg State.tiles s.signal_unsignalled :)

/-- An input out of range sets its flag, with a fault record (R398). -/
theorem exec_vinRange {s : State} {vin : BitVec 16} (h : vinOk vin = false) : ∃ u, exec (.vinRange vin) s = .next u
    ∧ u.pwr = { s.pwr with vin := vin, vinRange := true } ∧ u.mem = s.mem ∧ u.tiles = s.tiles := by
  refine ⟨_, if_neg (by rw [h]; exact Bool.false_ne_true), ?_, ?_, ?_⟩
  · rw [State.signal_pwr, State.fault_pwr]
  · rw [State.signal_mem, State.fault_mem]
  · rw [State.signal_tiles, State.fault_tiles]

/-- Steering a tile's voltage leaves the estimate (R407). -/
theorem State.steer_estimate (s : State) (t : Nat) (forced : Bool) : (s.steer t forced).pwr.estimate = s.pwr.estimate := rfl

theorem State.estimateTick_estimate (s : State) (a : Activity) : (s.estimateTick a).pwr.estimate = s.estimateOf a := by
  unfold State.estimateTick
  dsimp only
  rw [State.signal_pwr]
  exact foldl_part (fun u : State => u.pwr.estimate) _ (fun u t => u.steer_estimate t _) _ _

/-- A calibration window holds what was measured (R408). -/
theorem State.calibrate_measured (s : State) (measured rail : Nat) (vin iin : BitVec 16) :
    (s.calibrate measured rail vin iin).pwr.measured = min 0xFFFF (measured / 100)
      ∧ (s.calibrate measured rail vin iin).pwr.vin = vin ∧ (s.calibrate measured rail vin iin).pwr.iin = iin := by
  unfold State.calibrate
  dsimp only
  rw [State.signal_pwr]
  split
  · exact ⟨rfl, rfl, rfl⟩
  · rw [State.fault_pwr]
    exact ⟨rfl, rfl, rfl⟩

/-- What a reading raises is reports (R411, R441). -/
theorem State.heat_pwr (s : State) (d : Nat) (r : Int) (bad fresh : Bool) : (s.heat d r bad fresh).pwr = s.pwr := by
  have hraise : ∀ u : State, (u.raiseSafety 20 pwrSrc [] (BitVec.ofNat 64 d)).pwr = u.pwr := fun _ => rfl
  unfold State.heat
  simp only [apply_ite State.pwr, hraise, State.fault_pwr, ite_self]

/-- A sample joins the latest readings (R411). -/
theorem State.sample_temps (s : State) (l : List (Nat × Int)) :
    (s.sample l).pwr.temps = l.foldl (fun t p => tput t p.1 p.2) s.pwr.temps := by
  unfold State.sample
  dsimp only
  rw [State.signal_pwr]
  exact foldl_part (fun u : State => u.pwr.temps) _ (fun u (p : Nat × Int) => congrArg Power.temps (u.heat_pwr p.1 p.2 _ _)) _ _

/-! ### Crossings (R427 to R430) -/

section
variable {s : State} {i : Nat} (hx : s.hasXing i = true)
include hx

/-- A request whose side drops nothing goes on (R427). -/
theorem exec_resyncReq_empty {island : Bool} (hst : (s.xing i).st = 2)
    (hreq : (if island = true then (s.xing i).reqIsland else (s.xing i).reqCore) = true) : ∃ u,
      exec (.resyncReq i island 0) s = .next u ∧ (u.xing i).st = 2 ∧ (u.xing i).dropped = min 0xFFFF (s.xing i).dropped := by
  refine ⟨_, if_pos (by rw [hx, hst, hreq]; rfl), ?_⟩
  rw [if_neg (by simp), State.setXing_xing]
  exact ⟨hst, rfl⟩

/-- The core side completes the resynchronisation that its island has done (R427). -/
theorem exec_resyncDone_last (hst : (s.xing i).st = 2) (hc : (s.xing i).reqCore = false) (hi : (s.xing i).reqIsland = false)
    (hd : (s.xing i).doneIsland = true) : ∃ y : Xing, exec (.resyncDone i false) s = .next (s.setXing i y).flushWaits.unitsGo
      ∧ y.st = 1 ∧ y.resyncs = min 0xFFFF ((s.xing i).resyncs + 1) := by
  refine ⟨_, if_pos (by rw [hx, hst, hc, hi]; rfl), ?_⟩
  rw [if_pos (by simpa [Xing.clearSide] using hd)]
  exact ⟨rfl, rfl⟩

theorem exec_crossingPark (hst : (s.xing i).st = 1) (h16 : 16 ≤ i) (h64 : i < 64) (hw : s.wanted (i + 124) ≤ 1) :
    exec (.crossingPark i) s = .next ((s.setXing i { s.xing i with st := 3 }).evalDom (i + 124)) :=
  if_pos (by simp [hx, hst, h16, h64, hw])

theorem exec_clockStopped (hst : (s.xing i).st = 1) : exec (.clockStopped i) s = .next (s.setXing i { s.xing i with st := 4 }) :=
  if_pos (by rw [hx, hst]; rfl)

theorem exec_clockReturn (hst : (s.xing i).st = 4) :
    exec (.clockReturn i) s = .next (s.setXing i { s.xing i with st := 1 }).flushWaits.unitsGo := if_pos (by rw [hx, hst]; rfl)

theorem exec_xingClockLost (hst : (s.xing i).st = 4) : exec (.xingClockLost i) s
    = .next (((s.setXing i { s.xing i with st := 5, needReset := true }).failIsland i).raiseSafety 22 (xingSrc i) []
        (BitVec.ofNat 64 i)) := if_pos (by rw [hx, hst]; rfl)

end

/-- Settles O58: the ports and the domains by what O40 and O48 say of them, every other event by its own guard. -/
theorem unitEventsComplete : Obligations.UnitEventsComplete := by
  unfold Obligations.UnitEventsComplete
  refine ⟨fun s m hp => ?_, fun s => ⟨fun vin => exec_vinRange, fun n => rfl, fun a => rfl, fun act => ⟨_, rfl, s.estimateTick_estimate act⟩,
    fun hc ho => ?_, fun est mea rail vin iin => ⟨_, rfl, s.calibrate_measured mea rail vin iin⟩, fun l hl => ⟨if_pos hl, s.sample_temps l⟩,
    fun t ht hst => ⟨_, if_pos (by rw [ht, bne_iff_ne.2 hst]; rfl), rfl⟩, fun d hd => ⟨_, if_pos hd, rfl⟩,
    fun d hd hst hr => ?_, fun q hq => ?_, fun hr hp hc => ?_, fun hc => ⟨_, if_pos hc, rfl, rfl, rfl⟩, fun h2 hp hr hc => ?_,
    fun h1 hr hb okA okB => ?_, fun sp wd fl h4 hl hs hw => ?_, fun g hg hs => ?_⟩, fun s i hx => ?_⟩
  · obtain ⟨htrain, hfail, hready, hbuilt⟩ := memoryPorts s m hp
    refine ⟨fun h => ?_, fun h => ?_, fun h => ?_, fun c seg lost u hu => (hbuilt c seg lost u hu).1⟩
    · obtain ⟨u, hu, hport, hmem, -⟩ := htrain h
      exact ⟨u, hu, congrArg Port.st hport, hmem⟩
    · obtain ⟨u, hu, hst, hmem, -⟩ := hfail h
      exact ⟨u, hu, hst, hmem⟩
    · obtain ⟨hread, -, ⟨u, hu, hlat, -, -, hwin, -⟩, hzq, hpeel⟩ := hready h
      exact ⟨fun off who p mc hl hs => ⟨_, (hread off who p hl hs).1 mc, rfl, rfl⟩, ⟨u, hu, hlat, hwin⟩, hzq,
        fun g ok hg => (hpeel g ok hg).1⟩
  · exact if_pos (by rw [hc, ho]; rfl)
  · exact ((domainChanges s).1 d hd hst hr).1
  · obtain ⟨w, hw, hst, -⟩ := (domainChanges s).2.1 q hq
    exact ⟨w, hw, hst⟩
  · exact if_pos (by rw [hr, hp, hc]; rfl)
  · obtain ⟨hstep, hdom, -⟩ := s.railsUp_spec
    exact ⟨_, if_pos (by simp [h2, hp, hr, hc]), hstep, hdom⟩
  · exact if_pos (by simp [h1, hr, hb])
  · refine (if_pos (by simp [h4, hl])).trans ?_
    rw [Nat.mod_eq_of_lt hs, Nat.mod_eq_of_lt hw]
  · exact if_pos (by rw [hg, hs]; rfl)
  · exact ⟨fun island hst hreq => exec_resyncReq_empty hx hst hreq, exec_resyncDone_last hx, exec_crossingPark hx, exec_clockStopped hx,
      exec_clockReturn hx, exec_xingClockLost hx, if_pos hx⟩

end Sys2Proof.Machine
end

section
/-! PROOFS. The operations of contexts (R229, R304 to R308, R343, R350): what CTX_CREATE, CTX_SEG, CTX_QUIESCE, CTX_RESUME, CTX_RESET and
CTX_REMOVE do once the mailbox issues them. -/

namespace Sys2Proof.Machine

open Sys2Proof.Claims

/-! ### An operation of a context that the mailbox performs (R305, R306) -/

theorem State.mboxRun_create {s : State} {m : Mgmt} (h : m.op = 1) : s.mboxRun m = s.opCtxCreate m := by
  have hfree : ¬(ctxOps.contains m.op && !(s.ctx m.idx).valid) = true := by
    rw [h, show ctxOps.contains 1 = false from rfl, Bool.false_and]
    exact Bool.false_ne_true
  unfold State.mboxRun
  rw [if_neg hfree]
  simp only [h]

theorem State.mboxRun_onValid {s : State} {m : Mgmt} (hv : (s.ctx m.idx).valid = true) :
    (m.op = 3 → s.mboxRun m = s.opCtxSeg m) ∧ (m.op = 4 → s.mboxRun m = s.opCtxQuiesce m)
      ∧ (m.op = 5 → s.mboxRun m = s.opCtxResume m) ∧ (m.op = 6 → s.mboxRun m = s.opCtxReset m)
      ∧ (m.op = 7 → s.mboxRun m = s.opCtxRemove m) := by
  have hguard : ¬(ctxOps.contains m.op && !(s.ctx m.idx).valid) = true := by simp [hv]
  unfold State.mboxRun
  rw [if_neg hguard]
  exact ⟨fun h => by simp only [h], fun h => by simp only [h], fun h => by simp only [h], fun h => by simp only [h],
    fun h => by simp only [h]⟩

/-- What a completed operation leaves but for reports: the mailbox's answer, and all else (R305). -/
theorem done_unreported (m : Mgmt) (u : State) (st : BitVec 16) (d : BitVec 32) : (done m u st d).unreported
    = ({ u with hif := { u.hif with busy := none, status := st, detail := d } } : State).unreported :=
  ite_part State.unreported (State.msix_unreported _ 0) rfl

section
variable (m : Mgmt) (u : State) (st : BitVec 16) (d : BitVec 32)

theorem done_ctx (c : Nat) : (done m u st d).ctx c = u.ctx c :=
  (congrArg (State.ctx · c) (done_unreported m u st d) :)

theorem done_queue (q : Nat) : (done m u st d).queue q = u.queue q :=
  (congrArg (State.queue · q) (done_unreported m u st d) :)

theorem done_objs : (done m u st d).hif.objs = u.hif.objs := (congrArg (fun w => w.hif.objs) (done_unreported m u st d) :)

theorem done_busy : (done m u st d).hif.busy = none := (congrArg (fun w => w.hif.busy) (done_unreported m u st d) :)

theorem done_status : (done m u st d).hif.status = st := (congrArg (fun w => w.hif.status) (done_unreported m u st d) :)

end

theorem issued_freezes (s : State) (acc : Acc) (v : Word) (c : Nat) : (issued s acc v).freezes c = s.freezes c := by
  unfold State.freezes
  rw [issued_frozenCtx, State.ancestors_congr (s := issued s acc v) (u := s) rfl]
  rfl

/-! ### The queues of a context (R307, R308) -/

/-- An entry that an update of a table's entries does not pick. -/
theorem tget_map_if_not {α : Type} {d : α} {p : α → Bool} (f : α → α) (q : Nat) : ∀ t : Table α, p (tget d t q) = false →
    tget d (t.map (fun e => if p e.2 then (e.1, f e.2) else e)) q = tget d t q
  | [], _ => rfl
  | (k, x) :: r, h => by
    have hkey : ∀ e : Nat × α, (if p e.2 then (e.1, f e.2) else e).1 = e.1 := fun e => by split <;> rfl
    rw [List.map_cons, tget, tget]
    rw [tget] at h
    by_cases hk : k = q
    · rw [if_pos hk] at h
      rw [if_pos ((hkey _).trans hk), if_neg (by rw [h]; exact Bool.false_ne_true), if_pos hk]
    · rw [if_neg hk] at h
      rw [if_neg (fun he => hk ((hkey (k, x)).symm.trans he)), tget_map_if_not f q r h, if_neg hk]

/-- A queue of another context stays as it is. -/
theorem State.updQueues_queue_other {s : State} {c q : Nat} (f : Queue → Queue) (hc : (s.queue q).ctx ≠ c) :
    (s.updQueues c f).queue q = s.queue q :=
  tget_map_if_not (p := fun x : Queue => x.st != 0 && x.ctx == c) f q s.hif.queues
    (by rw [show ((tget {} s.hif.queues q : Queue).ctx == c) = false from beq_eq_false_iff_ne.2 hc, Bool.and_false])

/-! ### What the clear of shares leaves (R60, R308) -/

theorem State.clearGranules_hif (s : State) (t : Nat) (bm : BitVec 256) : (s.clearGranules t bm).hif = s.hif :=
  (congrArg State.hif (s.clearGranules_unlanded t bm) :)

theorem State.resetShares_hif (s : State) (c : Nat) : (s.resetShares c).hif = s.hif := by
  unfold State.resetShares
  refine foldl_part State.hif _ (fun u e => ?_) _ _
  rw [State.setTile_hif, State.clearGranules_hif]

theorem State.releaseShare_hif (s : State) (t c : Nat) : (s.releaseShare t c).hif = s.hif := by
  unfold State.releaseShare
  dsimp only
  split <;> rfl

theorem State.dropShare_hif (s : State) (t c : Nat) : (s.dropShare t c).hif = s.hif := by
  have hset : ∀ (u : State) (x : Tile), (u.setTile t x).hif = u.hif := fun _ _ => rfl
  unfold State.dropShare
  dsimp only
  rw [hset, State.releaseShare_hif]
  split
  · exact s.clearGranules_hif t _
  · exact s.clearGranules_hif t _

theorem State.dropShares_hif (s : State) (c : Nat) : (s.tiles.foldl (fun s e => s.dropShare e.1 c) s).hif = s.hif := by
  refine foldl_part State.hif _ (fun u e => ?_) _ _
  exact u.dropShare_hif e.1 c

/-! ### CTX_CREATE and CTX_SEG (R229, R232, R304) -/

theorem ofNat_fld (w x lo : Nat) : BitVec.ofNat w (fld x lo w) = BitVec.ofNat w (x / 2 ^ lo) :=
  BitVec.eq_of_toNat_eq (by simp [fld_eq])

section
variable {s : State} {acc : Acc} {v : Word}

/-- CTX_CREATE of a VALID index. -/
theorem opCtxCreate_busy (hc : (mgmtOf s acc v).idx < 1024) (hv : (s.ctx (mgmtOf s acc v).idx).valid = true) :
    (issued s acc v).opCtxCreate (mgmtOf s acc v) = done (mgmtOf s acc v) (issued s acc v) 0x12 0 := by
  unfold State.opCtxCreate
  exact (if_neg (Nat.not_le.2 hc)).trans ((if_pos hv).trans (issued_mboxEnd s acc v _ _))

/-- CTX_CREATE of an INVALID index for a bunch of this host and an unused PASID. -/
theorem opCtxCreate_new (hc : (mgmtOf s acc v).idx < 1024) (hv : (s.ctx (mgmtOf s acc v).idx).valid = false)
    (hb : s.hostBunch (BitVec.ofNat 32 (argOf s 0)) = true) (hp : s.pasidUsed (BitVec.ofNat 20 (argOf s 0 / 2 ^ 32)) = false) :
    (issued s acc v).opCtxCreate (mgmtOf s acc v) = done (mgmtOf s acc v) ((issued s acc v).setCtx (mgmtOf s acc v).idx
      { valid := true, conf := (s.bunchOf (BitVec.ofNat 32 (argOf s 0))).conf, pinned := (argOf s 0).testBit 52
        pasid := BitVec.ofNat 20 (argOf s 0 / 2 ^ 32), bunch := BitVec.ofNat 32 (argOf s 0) }) 0 0 := by
  have hpasid : (issued s acc v).pasidUsed (BitVec.ofNat 20 (argOf s 0 / 2 ^ 32)) = false := hp
  have hvalid : ((issued s acc v).ctx (mgmtOf s acc v).idx).valid = false := hv
  unfold State.opCtxCreate
  simp only [mgmtOf_arg s acc v (show 0 < 4 by decide), ofNat_fld, pow_zero, Nat.div_one, issued_hostBunch, hb, hpasid, hvalid,
    if_neg (Nat.not_le.2 hc), Bool.false_eq_true, if_false, Bool.not_true, Bool.or_self]
  exact mboxEnd_eq_done _ _ _ _ rfl

/-- CTX_SEG: a legal descriptor is set, with the identities of the ranges that its ports hold; another answers its fault. -/
theorem opCtxSeg_eq (d : BitVec 256) (hd : d = BitVec.ofNat 256 (argOf s 0 + argOf s 1 * 2 ^ 64 + argOf s 2 * 2 ^ 128 + argOf s 3 * 2 ^ 192)) :
    let m := mgmtOf s acc v
    (issued s acc v).opCtxSeg m = if s.descOk m.idx m.sub d
      then done m ((issued s acc v).setCtx m.idx { s.ctx m.idx with
        segs := tput (s.ctx m.idx).segs m.sub d
        names := tput (s.ctx m.idx).names m.sub (if segTarget d = 2
          then (s.rangeNames (s.ctx m.idx).bunch (segPorts d), s.rangeNames (s.ctx m.idx).bunch (segMports d)) else ([], [])) }) 0 0
      else done m (issued s acc v) 5 (BitVec.ofNat 32 (5 + 256 * m.sub)) := by
  intro m
  have hok : (issued s acc v).descOk m.idx m.sub d = s.descOk m.idx m.sub d := rfl
  have hctx : (issued s acc v).ctx m.idx = s.ctx m.idx := rfl
  have hnames : ∀ b k, (issued s acc v).rangeNames b k = s.rangeNames b k := fun _ _ => rfl
  unfold State.opCtxSeg
  simp only [m, mgmtOf_arg s acc v (show 0 < 4 by decide), mgmtOf_arg s acc v (show 1 < 4 by decide),
    mgmtOf_arg s acc v (show 2 < 4 by decide), mgmtOf_arg s acc v (show 3 < 4 by decide), ← hd]
  simp only [m] at hok hctx
  rw [hok, hctx, issued_mboxEnd]
  simp only [hnames]
  split
  · exact mboxEnd_eq_done _ _ _ _ rfl
  · rfl

/-! ### CTX_QUIESCE and CTX_RESUME (R307, R343, R350) -/

/-- As ABORT it ends the context's work. -/
theorem opCtxQuiesce_abort (h : (argOf s 0).testBit 0 = true) : (issued s acc v).opCtxQuiesce (mgmtOf s acc v)
    = ((issued s acc v).abortCtx (mgmtOf s acc v).idx false).mboxEnd 0 0 :=
  if_pos (by rw [mgmtOf_arg s acc v (show 0 < 4 by decide), h])

/-- As DRAIN it has nothing to do for a QUIESCED context, and an ACTIVE one's queues stop consuming. -/
theorem opCtxQuiesce_drained (h : (argOf s 0).testBit 0 = false) (hst : (s.ctx (mgmtOf s acc v).idx).st = 2) :
    (issued s acc v).opCtxQuiesce (mgmtOf s acc v) = done (mgmtOf s acc v) (issued s acc v) 0 0 :=
  (if_neg (by rw [mgmtOf_arg s acc v (show 0 < 4 by decide), h]; exact Bool.false_ne_true)).trans
    ((if_pos hst).trans (issued_mboxEnd s acc v _ _))

theorem opCtxQuiesce_drain (h : (argOf s 0).testBit 0 = false) (hst : (s.ctx (mgmtOf s acc v).idx).st = 0) :
    (issued s acc v).opCtxQuiesce (mgmtOf s acc v) = done (mgmtOf s acc v)
      (((issued s acc v).updQueues (mgmtOf s acc v).idx (fun x => { x with prior := x.st, st := if x.st = 1 then 2 else x.st })).setCtx
        (mgmtOf s acc v).idx { s.ctx (mgmtOf s acc v).idx with st := 1, drainIrq := (mgmtOf s acc v).irq }) 0 0 := by
  have hctx : (issued s acc v).ctx (mgmtOf s acc v).idx = s.ctx (mgmtOf s acc v).idx := rfl
  have hkept : ∀ f, ((issued s acc v).updQueues (mgmtOf s acc v).idx f).ctx (mgmtOf s acc v).idx = s.ctx (mgmtOf s acc v).idx := fun _ => rfl
  unfold State.opCtxQuiesce State.stopQueues
  rw [mgmtOf_arg s acc v (show 0 < 4 by decide), h, if_neg Bool.false_ne_true, hctx, if_neg (by rw [hst]; decide), if_pos hst]
  dsimp only
  rw [hkept]
  exact mboxEnd_eq_done _ _ _ _ rfl

theorem opCtxResume_busy (hst : (s.ctx (mgmtOf s acc v).idx).st ≠ 2) :
    (issued s acc v).opCtxResume (mgmtOf s acc v) = done (mgmtOf s acc v) (issued s acc v) 0x12 0 :=
  (if_pos (bne_iff_ne.2 hst)).trans (issued_mboxEnd s acc v _ _)

/-- The context that CTX_RESUME makes ACTIVE again, its queues as they were. -/
def State.resumed (s : State) (c : Nat) : State :=
  (s.updQueues c (fun x => { x with st := x.prior })).setCtx c { s.ctx c with st := 0, drainIrq := false, fenced := false }

theorem State.resumed_ctx (s : State) (c : Nat) :
    (s.resumed c).ctx c = { s.ctx c with st := 0, drainIrq := false, fenced := false } := State.setCtx_ctx _ _ _

/-- Resuming a context changes the host interface alone, and not the context's bunch. -/
theorem State.resumed_freezes (s : State) (c : Nat) : (s.resumed c).freezes c = s.freezes c := by
  have hctx : ((s.resumed c).ctx c).bunch = (s.ctx c).bunch := by rw [State.resumed_ctx]
  unfold State.freezes State.frozenCtx
  rw [hctx, State.ancestors_congr (s := s.resumed c) (u := s) rfl]
  rfl

/-- CTX_RESUME of a QUIESCED context delivers captured channel state unless a FREEZE is involved. -/
theorem opCtxResume_eq (hst : (s.ctx (mgmtOf s acc v).idx).st = 2) : (issued s acc v).opCtxResume (mgmtOf s acc v)
    = (if s.freezes (mgmtOf s acc v).idx then (issued s acc v).resumed (mgmtOf s acc v).idx
        else ((issued s acc v).resumed (mgmtOf s acc v).idx).deliverAll (s.ctx (mgmtOf s acc v).idx).bunch).mboxEnd 0 0 := by
  have hfr : ((issued s acc v).resumed (mgmtOf s acc v).idx).freezes (mgmtOf s acc v).idx = s.freezes (mgmtOf s acc v).idx :=
    (State.resumed_freezes _ _).trans (issued_freezes s acc v _)
  have hb : (((issued s acc v).resumed (mgmtOf s acc v).idx).ctx (mgmtOf s acc v).idx).bunch = (s.ctx (mgmtOf s acc v).idx).bunch := by
    rw [State.resumed_ctx]
    rfl
  unfold State.opCtxResume
  rw [if_neg (by rw [show ((issued s acc v).ctx (mgmtOf s acc v).idx).st = 2 from hst]; decide), ← hfr, ← hb]
  rfl

/-! ### CTX_RESET and CTX_REMOVE (R308) -/

theorem opCtxReset_refused (hst : (s.ctx (mgmtOf s acc v).idx).st ≠ 2) :
    (issued s acc v).opCtxReset (mgmtOf s acc v) = done (mgmtOf s acc v) (issued s acc v) 9 0 :=
  (if_pos (bne_iff_ne.2 hst)).trans (issued_mboxEnd s acc v _ _)

/-- A queue that CTX_RESET has emptied. -/
def Queue.emptied (x : Queue) : Queue := { x with buf := [], seq := 0, consumed := 0, fails := [], stops := [], lastSig := none }

/-- Writing credit words and clearing shares changes nothing of the host interface. -/
theorem State.zeroCredits_hif (s : State) (l : List Nat) : (l.foldl (fun s q => s.zeroCredit q) s).hif = s.hif := by
  refine foldl_part State.hif _ (fun u q => ?_) _ _
  exact State.emit_hif _ _

/-- CTX_RESET of a QUIESCED context leaves the host interface but for its emptied queues. -/
theorem opCtxReset_eq (hst : (s.ctx (mgmtOf s acc v).idx).st = 2) : ∃ u : State,
    (issued s acc v).opCtxReset (mgmtOf s acc v) = done (mgmtOf s acc v) u 0 0
      ∧ u.hif = ((issued s acc v).updQueues (mgmtOf s acc v).idx Queue.emptied).hif := by
  refine ⟨_, (if_neg (by rw [show ((issued s acc v).ctx (mgmtOf s acc v).idx).st = 2 from hst]; decide)).trans
    (mboxEnd_eq_done _ _ _ _ ?_), ?_⟩
  · rw [State.resetShares_hif, State.zeroCredits_hif]
    rfl
  · rw [State.resetShares_hif, State.zeroCredits_hif]
    rfl

theorem opCtxRemove_refused (hst : (s.ctx (mgmtOf s acc v).idx).st ≠ 2) :
    (issued s acc v).opCtxRemove (mgmtOf s acc v) = done (mgmtOf s acc v) (issued s acc v) 9 0 :=
  (if_pos (bne_iff_ne.2 hst)).trans (issued_mboxEnd s acc v _ _)

end

/-- What CTX_REMOVE leaves of the host interface. -/
theorem State.removeCtx_hif (s : State) (c : Nat) : (s.removeCtx c).hif = { (s.updQueues c Queue.disabled).hif with
    objs := s.hif.objs.filter (fun e => e.2.ctx != c)
    fences := s.hif.fences.map (fun e => (e.1, e.2.unbind c))
    ctxs := tput s.hif.ctxs c {} } := by
  have hset : ∀ (u : State), (u.setCtx c {}).hif = { u.hif with ctxs := tput u.hif.ctxs c {} } := fun _ => rfl
  unfold State.removeCtx
  dsimp only
  rw [hset, State.dropShares_hif]
  rfl

theorem Queue.disabled_st (x : Queue) : x.disabled.st = 0 := rfl

/-- A context and a queue are parts of the host interface. -/
theorem State.ctx_of_hif {u w : State} (h : u.hif = w.hif) (k : Nat) : u.ctx k = w.ctx k :=
  (congrArg (fun x => tget {} x.ctxs k) h :)

theorem State.queue_of_hif {u w : State} (h : u.hif = w.hif) (q : Nat) : u.queue q = w.queue q :=
  (congrArg (fun x => tget {} x.queues q) h :)

section
variable {s : State} {acc : Acc} {v : Word}

/-- CTX_RESET of a QUIESCED context empties its queues and no other's. -/
theorem opCtxReset_effect (hst : (s.ctx (mgmtOf s acc v).idx).st = 2) :
    let c := (mgmtOf s acc v).idx
    let u := (issued s acc v).opCtxReset (mgmtOf s acc v)
    u.ctx c = s.ctx c ∧ u.hif.busy = none ∧ u.hif.status = 0
      ∧ (∀ q, (s.queue q).st ≠ 0 → (s.queue q).ctx = c → u.queue q = (s.queue q).emptied)
      ∧ ∀ q, (s.queue q).ctx ≠ c → u.queue q = s.queue q := by
  obtain ⟨w, hw, hhif⟩ := opCtxReset_eq hst
  intro c u
  have hu : u = done (mgmtOf s acc v) w 0 0 := hw
  have hqueue : ∀ q, u.queue q = ((issued s acc v).updQueues c Queue.emptied).queue q := fun q => by
    rw [hu, done_queue]
    exact State.queue_of_hif hhif q
  refine ⟨?_, ?_, ?_, fun q hq hc => ?_, fun q hc => ?_⟩
  · rw [hu, done_ctx]
    exact State.ctx_of_hif hhif c
  · rw [hu, done_busy]
  · rw [hu, done_status]
  · exact (hqueue q).trans (State.updQueues_queue (s := issued s acc v) _ hq hc)
  · exact (hqueue q).trans (State.updQueues_queue_other (s := issued s acc v) _ hc)

/-- CTX_REMOVE of a QUIESCED context completes once the context is gone. -/
theorem opCtxRemove_eq (hst : (s.ctx (mgmtOf s acc v).idx).st = 2) : (issued s acc v).opCtxRemove (mgmtOf s acc v)
    = done (mgmtOf s acc v) ((issued s acc v).removeCtx (mgmtOf s acc v).idx) 0 0 := by
  unfold State.opCtxRemove
  rw [if_neg (by rw [show ((issued s acc v).ctx (mgmtOf s acc v).idx).st = 2 from hst]; decide)]
  exact mboxEnd_eq_done _ _ _ _ (by rw [State.removeCtx_hif]; rfl)

/-- CTX_REMOVE leaves the context INVALID, its queues DISABLED and no object of it, and the rest as it was. -/
theorem opCtxRemove_effect (hst : (s.ctx (mgmtOf s acc v).idx).st = 2) :
    let c := (mgmtOf s acc v).idx
    let u := (issued s acc v).opCtxRemove (mgmtOf s acc v)
    u.ctx c = {} ∧ u.hif.busy = none ∧ u.hif.status = 0 ∧ (∀ e ∈ u.hif.objs, e.2.ctx ≠ c)
      ∧ (∀ q, (s.queue q).st ≠ 0 → (s.queue q).ctx = c → (u.queue q).st = 0)
      ∧ (∀ q, (s.queue q).ctx ≠ c → u.queue q = s.queue q) ∧ ∀ k, k ≠ c → u.ctx k = s.ctx k := by
  intro c u
  have hu : u = done (mgmtOf s acc v) ((issued s acc v).removeCtx c) 0 0 := opCtxRemove_eq hst
  have hhif := (issued s acc v).removeCtx_hif c
  have hqueue : ∀ q, u.queue q = ((issued s acc v).updQueues c Queue.disabled).queue q := fun q => by
    rw [hu, done_queue]
    exact (congrArg (fun x => tget {} x.queues q) hhif :)
  have hctx : ∀ k, u.ctx k = tget {} (tput s.hif.ctxs c {}) k := fun k => by
    rw [hu, done_ctx]
    exact (congrArg (fun x => tget {} x.ctxs k) hhif :)
  have hobjs : u.hif.objs = s.hif.objs.filter (fun e => e.2.ctx != c) := by
    rw [hu, done_objs, hhif]
    rfl
  refine ⟨?_, ?_, ?_, fun e he => ?_, fun q hq hc => ?_, fun q hc => ?_, fun k hk => ?_⟩
  · exact (hctx c).trans (tget_tput_same _ _ _ _)
  · rw [hu, done_busy]
  · rw [hu, done_status]
  · rw [hobjs] at he
    exact bne_iff_ne.1 (List.mem_filter.1 he).2
  · rw [hqueue, State.updQueues_queue (s := issued s acc v) _ hq hc, Queue.disabled_st]
  · exact (hqueue q).trans (State.updQueues_queue_other (s := issued s acc v) _ hc)
  · exact (hctx k).trans (tget_tput_ne _ _ _ _ _ hk)

/-! ### The instructions that issue them -/

/-- A mailbox write that issues an operation of a VALID context performs it. -/
theorem exec_issues_onValid (hv : (s.ctx (mgmtOf s acc v).idx).valid = true) :
    let m := mgmtOf s acc v
    let h := issued s acc v
    (Issues s acc v 3 → exec (.ctxSeg acc v) s = .next (h.opCtxSeg m))
      ∧ (Issues s acc v 4 → exec (.ctxQuiesce acc v) s = .next (h.opCtxQuiesce m))
      ∧ (Issues s acc v 5 → exec (.ctxResume acc v) s = .next (h.opCtxResume m))
      ∧ (Issues s acc v 6 → exec (.ctxReset acc v) s = .next (h.opCtxReset m))
      ∧ (Issues s acc v 7 → exec (.ctxRemove acc v) s = .next (h.opCtxRemove m)) := by
  obtain ⟨hseg, hquiesce, hresume, hreset, hremove⟩ := State.mboxRun_onValid (s := issued s acc v) (m := mgmtOf s acc v) hv
  exact ⟨fun h => by rw [exec_issues (by simp [mailboxRows]) h, hseg (mgmtOf_op h)],
    fun h => by rw [exec_issues (by simp [mailboxRows]) h, hquiesce (mgmtOf_op h)],
    fun h => by rw [exec_issues (by simp [mailboxRows]) h, hresume (mgmtOf_op h)],
    fun h => by rw [exec_issues (by simp [mailboxRows]) h, hreset (mgmtOf_op h)],
    fun h => by rw [exec_issues (by simp [mailboxRows]) h, hremove (mgmtOf_op h)]⟩

theorem exec_ctxCreate (h : Issues s acc v 1) :
    exec (.ctxCreate acc v) s = .next ((issued s acc v).opCtxCreate (mgmtOf s acc v)) := by
  rw [exec_issues (by simp [mailboxRows]) h, State.mboxRun_create (mgmtOf_op h)]

/-- CTX_RESUME of a QUIESCED context in a frozen bunch leaves captured channel state where it is. -/
theorem opCtxResume_frozen (hst : (s.ctx (mgmtOf s acc v).idx).st = 2) (hf : s.freezes (mgmtOf s acc v).idx = true) :
    (issued s acc v).opCtxResume (mgmtOf s acc v)
      = done (mgmtOf s acc v) ((issued s acc v).resumed (mgmtOf s acc v).idx) 0 0 := by
  rw [opCtxResume_eq hst, if_pos hf]
  exact mboxEnd_eq_done _ _ _ _ rfl

theorem opCtxResume_delivers (hst : (s.ctx (mgmtOf s acc v).idx).st = 2) (hf : s.freezes (mgmtOf s acc v).idx = false) :
    (issued s acc v).opCtxResume (mgmtOf s acc v)
      = (((issued s acc v).resumed (mgmtOf s acc v).idx).deliverAll (s.ctx (mgmtOf s acc v).idx).bunch).mboxEnd 0 0 := by
  rw [opCtxResume_eq hst, hf, if_neg Bool.false_ne_true]

end

/-- Settles O22: each mailbox write performs its operation, and each operation ends with its effect or its refusal. -/
theorem contextOperations : Obligations.ContextOperations := by
  unfold Obligations.ContextOperations
  intro s acc v m h c b p d
  refine ⟨fun hi hc => ⟨fun hv => ?_, fun hv hb hp => ?_⟩, fun hv => ?_⟩
  · rw [exec_ctxCreate hi, opCtxCreate_busy hc hv]
  · rw [exec_ctxCreate hi, opCtxCreate_new hc hv hb hp]
  · obtain ⟨hseg, hquiesce, hresume, hreset, hremove⟩ := exec_issues_onValid hv
    refine ⟨fun hi => ?_, fun hi ha => ?_, fun hi ha hst => ?_, fun hi ha hst => ?_, fun hi hst => ?_,
      fun hi hst => ⟨fun hf => ?_, fun hf => ?_⟩, fun hi hst => ?_, fun hi hst => ?_, fun hi hst => ?_, fun hi hst => ?_⟩
    · exact (hseg hi).trans (congrArg _ (opCtxSeg_eq d rfl))
    · exact (hquiesce hi).trans (congrArg _ (opCtxQuiesce_abort ha))
    · exact (hquiesce hi).trans (congrArg _ (opCtxQuiesce_drained ha hst))
    · exact (hquiesce hi).trans (congrArg _ (opCtxQuiesce_drain ha hst))
    · exact (hresume hi).trans (congrArg _ (opCtxResume_busy hst))
    · exact (hresume hi).trans (congrArg _ (opCtxResume_frozen hst hf))
    · exact (hresume hi).trans (congrArg _ (opCtxResume_delivers hst hf))
    · exact (hreset hi).trans (congrArg _ (opCtxReset_refused hst))
    · obtain ⟨hctx, hbusy, hstatus, hown, hother⟩ := opCtxReset_effect hst
      refine ⟨_, hreset hi, hctx, hbusy, hstatus, fun q hq hqc => ?_, hother⟩
      rw [hown q hq hqc]
      exact ⟨rfl, rfl, rfl, rfl⟩
    · exact (hremove hi).trans (congrArg _ (opCtxRemove_refused hst))
    · exact ⟨_, hremove hi, opCtxRemove_effect hst⟩

end Sys2Proof.Machine
end

section
/-! PROOFS. Host movers and rings (R272, R273, R277, R283, R295, R300 to R303, R336): what COPY, FILL and COMPARE leave when they end, and what
a refused access leaves of its requester. -/

namespace Sys2Proof.Machine

open Sys2Proof.Claims

/-! ### A command that completes (R299 to R302) -/

/-- The state without the host interface, what goes out and its counters: all that completing a command may change. -/
def State.unhosted (s : State) : State := { s with hif := {}, seqs := [], out := [], xings := [], faultLost := [], fresh := 0 }

theorem State.unhosted_of_unreported {s u : State} (h : u.unreported = s.unreported) : u.unhosted = s.unhosted :=
  congrArg (fun w : State => { w with hif := {}, fresh := 0 }) h

theorem State.peek_of_unhosted {s u : State} (h : u.unhosted = s.unhosted) (a : Nat) : u.peek a = s.peek a :=
  (congrArg (State.peek · a) h :)

theorem State.setQueue_unhosted (s : State) (q : Nat) (x : Queue) : (s.setQueue q x).unhosted = s.unhosted := rfl

theorem State.msix_queue (s : State) (v q : Nat) : (s.msix v).queue q = s.queue q :=
  (congrArg (State.queue · q) (s.msix_unreported v) :)

/-- The message of a record changes the host interface alone, and no command of the queue (R302). -/
theorem State.recordIrq_spec (s : State) (q : Nat) (noIrq : Bool) : (s.recordIrq q noIrq).unhosted = s.unhosted
    ∧ ((s.recordIrq q noIrq).queue q).cmds = (s.queue q).cmds := by
  have hmsix : ∀ (u : State) (v : Nat), (u.msix v).unhosted = u.unhosted := fun u v => State.unhosted_of_unreported (u.msix_unreported v)
  have hset : ∀ (x : Queue), ((s.setQueue q x).queue q).cmds = x.cmds := fun x => congrArg Queue.cmds (s.setQueue_queue q x)
  unfold State.recordIrq
  dsimp only
  constructor
  · exact ite_part _ rfl (ite_part _ (hmsix _ _) (ite_part _ (ite_part _ (hmsix _ _) rfl) rfl))
  · refine ite_part (fun u : State => (u.queue q).cmds) rfl (ite_part (fun u : State => (u.queue q).cmds) ?_
      (ite_part (fun u : State => (u.queue q).cmds) (ite_part (fun u : State => (u.queue q).cmds) ?_ (hset _)) rfl))
    · exact congrArg Queue.cmds (s.msix_queue _ q)
    · exact (congrArg Queue.cmds (State.msix_queue _ _ q)).trans (hset _)

/-- The record too changes the host interface alone, and no command of the queue (R300, R301). -/
theorem State.writeRecord_spec (s : State) (q : Nat) (seq : BitVec 32) (status layer op : BitVec 16) (detail : BitVec 32)
    (flags : BitVec 16) (energy : BitVec 32) (noIrq : Bool) :
    (s.writeRecord q seq status layer op detail flags energy noIrq).unhosted = s.unhosted
      ∧ ((s.writeRecord q seq status layer op detail flags energy noIrq).queue q).cmds = (s.queue q).cmds := by
  unfold State.writeRecord
  obtain ⟨hrest, hcmds⟩ := State.recordIrq_spec _ q noIrq
  refine ⟨hrest.trans ?_, hcmds.trans ?_⟩
  · rw [State.setQueue_unhosted, State.unhosted_of_unreported (State.emit_unreported _ _)]
    rfl
  · rw [State.setQueue_queue, State.emit_queue]
    rfl

theorem State.dropRef_spec (s : State) (h q : Nat) : (s.dropRef h).unhosted = s.unhosted ∧ (s.dropRef h).queue q = s.queue q := by
  unfold State.dropRef
  dsimp only
  split <;> exact ⟨rfl, rfl⟩

/-- A command that ends leaves its queue. -/
theorem State.endCmd_spec (s : State) (q : Nat) (seq : BitVec 32) (status : BitVec 16) (detail : BitVec 32) (flags : BitVec 16) :
    (s.endCmd q seq status detail flags).unhosted = s.unhosted
      ∧ ((s.endCmd q seq status detail flags).queue q).cmds = (s.queue q).cmds.filter (fun d => d.seq != seq) := by
  unfold State.endCmd
  split
  case h_1 hnone =>
    refine ⟨rfl, (List.filter_eq_self.2 fun d hd => ?_).symm⟩
    simpa using List.find?_eq_none.1 hnone d hd
  case h_2 c hsome =>
    have hdrop : ∀ u : State, (c.refs.foldl (fun s h => s.dropRef h) u).unhosted = u.unhosted
        ∧ (c.refs.foldl (fun s h => s.dropRef h) u).queue q = u.queue q := fun u =>
      ⟨foldl_part State.unhosted _ (fun v h => (v.dropRef_spec h q).1) _ _,
        foldl_part (State.queue · q) _ (fun v h => (v.dropRef_spec h q).2) _ _⟩
    obtain ⟨hrest, hqueue⟩ := hdrop _
    obtain ⟨hrecord, hcmds⟩ := State.writeRecord_spec _ q seq status c.layer c.op detail flags _ _
    refine ⟨hrest.trans (hrecord.trans rfl), (congrArg Queue.cmds hqueue).trans (hcmds.trans ?_)⟩
    exact congrArg Queue.cmds (State.setQueue_queue s q _)

/-- MARKERs that complete leave the queue too (R299). -/
theorem State.endMarkers_spec (q : Nat) : ∀ (n : Nat) (s : State), (State.endMarkers q n s).unhosted = s.unhosted
    ∧ ∀ m ∈ ((State.endMarkers q n s).queue q).cmds, m ∈ (s.queue q).cmds
  | 0, _ => ⟨rfl, fun _ h => h⟩
  | n + 1, s => by
    unfold State.endMarkers
    split
    case h_1 c _ _ =>
      split
      case isTrue =>
        obtain ⟨hend, hcmds⟩ := s.endCmd_spec q c.seq 0 (BitVec.ofNat 32 (cmdFld c.raw 8 4)) 0
        obtain ⟨hrest, hsub⟩ := State.endMarkers_spec q n (s.endCmd q c.seq 0 (BitVec.ofNat 32 (cmdFld c.raw 8 4)) 0)
        exact ⟨hrest.trans hend, fun m hm => List.mem_of_mem_filter (hcmds ▸ hsub m hm)⟩
      case isFalse => exact ⟨rfl, fun _ h => h⟩
    case h_2 => exact ⟨rfl, fun _ h => h⟩

section
variable (s : State) (q : Nat) (seq : BitVec 32) (status : BitVec 16) (detail : BitVec 32) (flags : BitVec 16)

/-- Completing a command changes the host interface alone, and the command is gone from its queue. -/
theorem State.finishCmd_spec : (s.finishCmd q seq status detail flags).unhosted = s.unhosted
    ∧ ∀ m ∈ ((s.finishCmd q seq status detail flags).queue q).cmds, m.seq ≠ seq := by
  have hcredit : (if ((s.queue q).cmd seq).any QCmd.wroteData then s.writeCredit q else s).unhosted = s.unhosted :=
    ite_part State.unhosted (State.unhosted_of_unreported (s.emit_unreported _)) rfl
  unfold State.finishCmd
  dsimp only
  generalize (if ((s.queue q).cmd seq).any QCmd.wroteData then s.writeCredit q else s) = u at hcredit ⊢
  obtain ⟨hend, hcmds⟩ := u.endCmd_spec q seq status detail flags
  obtain ⟨hmark, hsub⟩ := State.endMarkers_spec q ((u.endCmd q seq status detail flags).queue q).cmds.length
    (u.endCmd q seq status detail flags)
  refine ⟨hmark.trans (hend.trans hcredit), fun m hm => ?_⟩
  have hkept := hsub m hm
  rw [hcmds] at hkept
  simpa using (List.mem_filter.1 hkept).2

theorem State.finishCmd_peek (a : Nat) : (s.finishCmd q seq status detail flags).peek a = s.peek a :=
  State.peek_of_unhosted (s.finishCmd_spec q seq status detail flags).1 a

end

/-! ### Traffic of the host interface (R250) -/

/-- Traffic that is of no tile counts at the ports and crossings alone. -/
theorem State.portMove_unsampled_of_block (s : State) (m cls : Nat) {k : Nat} (hk : ¬k < 68) (n : Nat) :
    (s.portMove m cls k n).unsampled = s.unsampled := by
  have hport : ∀ x, (((if cls = 0 then s.crossUp (16 + m) (toBytes 8 n) else s.crossDown (16 + m) (toBytes 8 n)).setPort m x).count
      (68 + m) cls n).unsampled = s.unsampled := fun x => by
    rw [State.count_unsampled, State.setPort_unsampled]
    exact ite_part _ rfl rfl
  simp only [State.portMove, hk, if_false]
  exact ite_part _ (hport _) ((State.count_unsampled _ _ _ _).trans (hport _))

theorem State.traffic_unsampled (s : State) (l : List Spot) (cls : Nat) {k : Nat} (hk : ¬k < 68) :
    (s.traffic l cls k).unsampled = s.unsampled := by
  have hlines : ∀ (u : State) (c : Nat) (ls : List Nat), (u.moveLines c k ls).unsampled = u.unsampled := fun _ c _ =>
    foldl_part State.unsampled _ (fun u m => ite_part _ rfl (u.portMove_unsampled_of_block m c hk _)) _ _
  unfold State.traffic
  refine (hlines _ _ _).trans ((hlines _ _ _).trans ?_)
  exact ite_part _ (foldl_part State.unsampled _ (fun u e => u.emit_unsampled _) _ _) rfl

theorem State.tiles_of_unsampled {s u : State} (h : u.unsampled = s.unsampled) : u.tiles = s.tiles := (congrArg State.tiles h :)

/-- The bytes that a host mover's command moves, counted where they pass. -/
def State.cmdTraffic (s : State) (c : QCmd) : State := (s.traffic (s.cmdReads c) 0 hostMaster).traffic (s.cmdWrites c) 1 hostMaster

theorem State.cmdTraffic_unsampled (s : State) (c : QCmd) : (s.cmdTraffic c).unsampled = s.unsampled :=
  (State.traffic_unsampled _ _ _ (by decide)).trans (State.traffic_unsampled _ _ _ (by decide))

theorem State.cmdTraffic_face (s : State) (c : QCmd) : (s.cmdTraffic c).face = s.face :=
  (State.traffic_face _ _ _ _).trans (State.traffic_face _ _ _ _)

/-- What a refusal counts follows from the state without counts (R270). -/
theorem State.countRefused_unsampled {s u : State} (h : u.unsampled = s.unsampled) (l : List Spot) (r : Res) :
    (u.countRefused l r).unsampled = (s.countRefused l r).unsampled := by
  unfold State.countRefused
  split
  · exact congrArg (fun w : State => { w with bram := { w.bram with refused := satAdd 0xFFFF w.bram.refused (w.refusals l) } }) h
  · exact h

theorem State.partialWrite_unsampled (s : State) (l : List Spot) (bs : List Byte) : (s.partialWrite l bs).unsampled = s.unsampled :=
  State.writeSpots_unsampled _ _ _

/-! ### A command that a host mover holds (R272, R277, R295) -/

theorem Queue.cmd_seq {x : Queue} {seq : BitVec 32} {c : QCmd} (h : x.cmd seq = some c) : c.seq = seq := by
  simpa using List.find?_some h

theorem State.moverCmd_seq {s : State} {q : Nat} {seq : BitVec 32} {c : QCmd} (h : s.moverCmd q seq = some c) : c.seq = seq := by
  unfold State.moverCmd at h
  split at h
  case h_1 d hd =>
    split at h
    case isTrue => exact Option.some.inj h ▸ Queue.cmd_seq hd
    case isFalse => exact nomatch h
  case h_2 => exact nomatch h

/-- HOST_MOVER_COMPLETE of a command that nothing holds ends its moves. -/
theorem exec_hostMoverComplete {s : State} {q : Nat} {seq : BitVec 32} {c : QCmd} (a b : HostBytes) (hc : s.moverCmd q seq = some c)
    (hheld : c.held = false) (hlost : c.lost ≠ 2)
    (hun : s.unresolved c.cut (s.moveRes (s.cmdReads c) (s.cmdWrites c) .ok) = false)
    (hopen : s.accessOpen hostSelf hostMaster (s.cmdReads c ++ s.cmdWrites c) = true) :
    exec (.hostMoverComplete q seq .ok a b) s = .next (s.hostMoved q c .ok a b) := by
  have hl : lostRes c.lost .ok = some .ok := by rw [lostRes, if_neg hlost]; rfl
  change execHostMoverComplete q seq .ok a b s = _
  unfold execHostMoverComplete
  simp only [hc, hl, hheld, hun, hopen, Bool.not_true, Bool.or_self, Bool.false_eq_true, if_false]

section
variable {s : State} {c : QCmd}

theorem State.hostMoved_stale (h : s.cmdStale c = true) (q : Nat) (res : Res) (a b : HostBytes) :
    s.hostMoved q c res a b = s.finishCmd q c.seq 0x000B 0 0 := if_pos h

theorem State.cmdSpots_some {o : Option Loc} {l : Loc} (h : o = some l) : s.cmdSpots c o = s.spots l (cmdFld c.raw 24 8) := h ▸ rfl

/-- The bytes of a FILL: its pattern, repeated (R295). -/
theorem fillBytes_cmd (raw : BitVec 512) (n : Nat) : fillBytes (cmdFld raw 16 8) n
    = (List.range n).map (fun i => BitVec.ofNat 8 (cmdFld raw (16 + i % 8) 1)) := by
  refine List.map_congr_left fun i _ => BitVec.eq_of_getLsbD_eq fun k hk => ?_
  have hi : i % 8 < 8 := Nat.mod_lt _ (by decide)
  have hbit : 8 * (i % 8) + k < 64 := by omega
  simp only [cmdFld, fld, BitVec.getLsbD_ofNat, Nat.testBit_mod_two_pow, Nat.testBit_shiftRight, hk, hbit, Nat.mul_add, Nat.add_assoc,
    Nat.mul_one, decide_true, Bool.true_and]

variable (hs : s.cmdStale c = false)
include hs

/-- A COPY or FILL whose range can be accessed writes its bytes and ends with OK. -/
theorem State.hostMoved_writes (hok : s.moveRes (s.cmdReads c) (s.cmdWrites c) .ok = .ok) (h4 : c.type ≠ 4) (q : Nat) (a b : HostBytes) :
    s.hostMoved q c .ok a b = ((s.cmdTraffic c).writeSpots (s.cmdWrites c) (s.cmdBytes c a)).finishCmd q c.seq 0 0 0 := by
  unfold State.hostMoved
  rw [hs, if_neg Bool.false_ne_true]
  simp only [hok, State.countEcc_ok, if_neg h4]
  rfl

/-- So memory reads as that write leaves it, and the command is gone from its queue. -/
theorem State.hostMoved_writes_spec {q : Nat} {seq : BitVec 32} (hc : s.moverCmd q seq = some c)
    (hok : s.moveRes (s.cmdReads c) (s.cmdWrites c) .ok = .ok) (h4 : c.type ≠ 4) (a b : HostBytes) :
    (∀ k, (s.hostMoved q c .ok a b).peek k = (s.writeSpots (s.cmdWrites c) (s.cmdBytes c a)).peek k)
      ∧ ∀ m ∈ ((s.hostMoved q c .ok a b).queue q).cmds, m.seq ≠ seq := by
  obtain rfl := State.moverCmd_seq hc
  rw [State.hostMoved_writes hs hok h4]
  refine ⟨fun k => ?_, (State.finishCmd_spec _ _ _ _ _ _).2⟩
  rw [State.finishCmd_peek, State.peek_writeSpots_of_face (s.cmdTraffic_face c)]

/-- COPY writes what it has read of SRC (R272, R295). -/
theorem State.hostMoved_copy {q : Nat} {seq : BitVec 32} {l1 l2 : Loc} (hc : s.moverCmd q seq = some c)
    (hok : s.moveRes (s.cmdReads c) (s.cmdWrites c) .ok = .ok) (h2 : c.type = 2) (h1 : c.loc1 = some l1) (hl2 : c.loc2 = some l2)
    (a b : HostBytes) :
    (∀ m ∈ ((s.hostMoved q c .ok a b).queue q).cmds, m.seq ≠ seq)
      ∧ ∀ k, (s.hostMoved q c .ok a b).peek k = (s.writeSpots (s.spots l1 (cmdFld c.raw 24 8))
          (s.readSpots (s.spots l2 (cmdFld c.raw 24 8)) a)).peek k := by
  have h4 : c.type ≠ 4 := by rw [h2]; decide
  have hreads : s.cmdReads c = s.spots l2 (cmdFld c.raw 24 8) := (if_pos h2).trans (State.cmdSpots_some hl2)
  have hwrites : s.cmdWrites c = s.spots l1 (cmdFld c.raw 24 8) := (if_neg h4).trans (State.cmdSpots_some h1)
  have hbytes : s.cmdBytes c a = s.readSpots (s.cmdReads c) a := by simp only [State.cmdBytes, h2]
  obtain ⟨hpeek, hgone⟩ := State.hostMoved_writes_spec hs hc hok h4 a b
  rw [← hwrites, ← hreads, ← hbytes]
  exact ⟨hgone, hpeek⟩

/-- FILL writes its pattern (R295). -/
theorem State.hostMoved_fill {q : Nat} {seq : BitVec 32} {l1 : Loc} (hc : s.moverCmd q seq = some c)
    (hok : s.moveRes (s.cmdReads c) (s.cmdWrites c) .ok = .ok) (h3 : c.type = 3) (h1 : c.loc1 = some l1) (a b : HostBytes) :
    (∀ m ∈ ((s.hostMoved q c .ok a b).queue q).cmds, m.seq ≠ seq)
      ∧ ∀ k, (s.hostMoved q c .ok a b).peek k = (s.writeSpots (s.spots l1 (cmdFld c.raw 24 8))
          ((List.range (cmdFld c.raw 24 8)).map (fun i => BitVec.ofNat 8 (cmdFld c.raw (16 + i % 8) 1)))).peek k := by
  have h4 : c.type ≠ 4 := by rw [h3]; decide
  have hwrites : s.cmdWrites c = s.spots l1 (cmdFld c.raw 24 8) := (if_neg h4).trans (State.cmdSpots_some h1)
  have hbytes : s.cmdBytes c a = fillBytes (cmdFld c.raw 16 8) (cmdFld c.raw 24 8) := by simp only [State.cmdBytes, h3]
  obtain ⟨hpeek, hgone⟩ := State.hostMoved_writes_spec hs hc hok h4 a b
  rw [← fillBytes_cmd, ← hwrites, ← hbytes]
  exact ⟨hgone, hpeek⟩

/-- COMPARE moves bytes and reports whether its ranges agree, or the line of the first difference (R272, R295). -/
theorem State.hostMoved_compare {l1 l2 : Loc} (hok : s.moveRes (s.cmdReads c) (s.cmdWrites c) .ok = .ok) (h4 : c.type = 4)
    (h1 : c.loc1 = some l1) (hl2 : c.loc2 = some l2) (q : Nat) (a b : HostBytes) :
    let x := s.readSpots (s.spots l1 (cmdFld c.raw 24 8)) a
    let y := s.readSpots (s.spots l2 (cmdFld c.raw 24 8)) b
    (x = y → s.hostMoved q c .ok a b = (s.cmdTraffic c).finishCmd q c.seq 0 0 0)
      ∧ ∀ i, i < cmdFld c.raw 24 8 → x.take i = y.take i → x[i]? ≠ y[i]? →
        s.hostMoved q c .ok a b = (s.cmdTraffic c).finishCmd q c.seq 6 (BitVec.ofNat 32 (i / 64 * 64)) 0 := by
  intro x y
  have hx : x.length = cmdFld c.raw 24 8 := by simp [x, State.readSpots_length, State.spots]
  have hy : y.length = cmdFld c.raw 24 8 := by simp [y, State.readSpots_length, State.spots]
  have hends : ∀ d, firstDiff x y = d → s.hostMoved q c .ok a b
      = (s.cmdTraffic c).finishCmd q c.seq (if d.isSome then 6 else 0) (BitVec.ofNat 32 (d.getD 0)) 0 := fun d hd => by
    unfold State.hostMoved
    rw [hs, if_neg Bool.false_ne_true, State.cmdSpots_some h1, State.cmdSpots_some hl2, hd]
    simp only [hok, State.countEcc_ok, if_pos h4]
    cases d <;> rfl
  refine ⟨fun heq => hends none ?_, fun i hi heq hne => hends (some (i / 64 * 64)) ?_⟩
  · rw [heq, firstDiff_self]
  · exact firstDiff_diff (hi.trans_eq hx.symm) (hi.trans_eq hy.symm) heq hne

/-- A COMPARE whose access is refused ends with the refusal's status, its refused packets counted (R270, R283). -/
theorem State.hostMoved_refused (h4 : c.type = 4) {r : Res} (hr : r = .hostRefused ∨ r = .refused)
    (hmove : s.moveRes (s.cmdReads c) [] r = r) (q : Nat) (a b : HostBytes) :
    ∃ w : State, w.unsampled = (s.countRefused (s.cmdReads c) r).unsampled
      ∧ s.hostMoved q c r a b = w.finishCmd q c.seq (s.cmdStatus c r).1 (s.cmdStatus c r).2 0 := by
  have hwrites : s.cmdWrites c = [] := if_pos h4
  have h2 : ¬c.type = 2 := by rw [h4]; decide
  refine ⟨((s.cmdTraffic c).countRefused (s.cmdReads c) r).partialWrite [] (s.cmdBytes c a), ?_, ?_⟩
  · exact (State.partialWrite_unsampled _ _ _).trans (State.countRefused_unsampled (s.cmdTraffic_unsampled c) _ r)
  · unfold State.hostMoved State.cmdTraffic
    rw [hs, if_neg Bool.false_ne_true]
    rcases hr with rfl | rfl <;> simp only [hwrites, hmove, List.append_nil, if_neg h2]

end

/-! ### Requesters whose access is refused (R270, R283) -/

theorem exec_hostDmaRefused {s : State} {who : Requester} {l : List Spot} (ha : s.asks who = some l) (hl : ∃ p i, Spot.host p i ∈ l) :
    exec (.hostDmaRefused who) s = .next (s.refuse who l .hostRefused) := by
  obtain ⟨p, i, hmem⟩ := hl
  change execHostDmaRefused who s = _
  unfold execHostDmaRefused
  rw [ha]
  exact if_pos (List.any_eq_true.2 ⟨_, hmem, rfl⟩)

theorem exec_refusedReply {s : State} {who : Requester} {l : List Spot} (ha : s.asks who = some l) (hl : ∃ p ∈ l, s.spotRes p = .refused) :
    exec (.refusedReply who) s = .next (s.refuse who l .refused) := by
  change execRefusedReply who s = _
  unfold execRefusedReply
  rw [ha]
  exact if_pos (by simpa using hl)

section
variable {s : State} {q : Nat} (hq : (s.queue q).st ≠ 0)
include hq

/-- A head word is one access to host memory (R301). -/
theorem State.asks_headWord : s.asks (.headWord q)
    = some [.host (s.ctx (s.queue q).ctx).pasid (fld (s.queue q).headAddr.toNat 3 61 * 8)] := if_neg hq

/-- The host's refusal of a head word leaves all as it is. -/
theorem exec_hostDmaRefused_headWord : exec (.hostDmaRefused (.headWord q)) s = .next s :=
  (exec_hostDmaRefused (State.asks_headWord hq) ⟨_, _, List.mem_singleton_self _⟩).trans
    (congrArg _ (s.countRefused_other _ (by decide)))

/-- No endpoint of the module refuses a head word. -/
theorem exec_refusedReply_headWord : exec (.refusedReply (.headWord q)) s = .refused (.notEnabled "REFUSED_REPLY") := by
  change execRefusedReply (.headWord q) s = _
  unfold execRefusedReply
  rw [State.asks_headWord hq]
  rfl

end

section
variable {s : State} {q : Nat} {seq : BitVec 32} {c : QCmd} (hc : s.moverCmd q seq = some c) (h4 : c.type = 4)
include hc

theorem State.refuse_command (l : List Spot) (r : Res) : s.refuse (.command q seq) l r = s.hostMoved q c r [] [] := by
  simp only [State.refuse, hc]

include h4

/-- A COMPARE asks for what it reads. -/
theorem State.asks_compare : s.asks (.command q seq) = some (s.cmdReads c) := by
  have hwrites : s.cmdWrites c = [] := if_pos h4
  simp only [State.asks, hc, Option.map_some, hwrites, List.append_nil]

variable (hs : s.cmdStale c = false)
include hs

/-- A COMPARE that the host refuses ends with SEGMENT_FAULT (R283). -/
theorem exec_hostDmaRefused_compare (hmove : s.moveRes (s.cmdReads c) [] .hostRefused = .hostRefused)
    (hl : ∃ p i, Spot.host p i ∈ s.cmdReads c) : ∃ w : State, w.hif = s.hif ∧ w.tiles = s.tiles ∧ w.bram = s.bram
      ∧ exec (.hostDmaRefused (.command q seq)) s = .next (w.finishCmd q c.seq 5 (segDetail 4 (s.hostSeg c)) 0) := by
  obtain ⟨w, hw, hmoved⟩ := State.hostMoved_refused hs h4 (.inl rfl) hmove q [] []
  rw [State.countRefused_other _ _ (by decide)] at hw
  refine ⟨w, State.hif_of_unsampled hw, State.tiles_of_unsampled hw, (congrArg State.bram hw :), ?_⟩
  rw [exec_hostDmaRefused (State.asks_compare hc h4) hl, State.refuse_command hc, hmoved]
  rfl

/-- One that an endpoint of the module refuses ends with MEMBER_LOST, its refused packets counted (R270). -/
theorem exec_refusedReply_compare (hmove : s.moveRes (s.cmdReads c) [] .refused = .refused)
    (hl : ∃ p ∈ s.cmdReads c, s.spotRes p = .refused) : ∃ w : State, w.hif = s.hif ∧ w.tiles = s.tiles
      ∧ w.bram = { s.bram with refused := min 0xFFFF (s.bram.refused + s.refusals (s.cmdReads c)) }
      ∧ exec (.refusedReply (.command q seq)) s = .next (w.finishCmd q c.seq 3 0 0) := by
  obtain ⟨w, hw, hmoved⟩ := State.hostMoved_refused hs h4 (.inr rfl) hmove q [] []
  rw [State.countRefused, if_pos rfl] at hw
  refine ⟨w, (congrArg State.hif hw :), (congrArg State.tiles hw :), (congrArg State.bram hw :), ?_⟩
  rw [exec_refusedReply (State.asks_compare hc h4) hl, State.refuse_command hc, hmoved]
  rfl

end

/-! ### Rings (R301, R302) -/

theorem exec_coalesceTimerExpire {s : State} {q : Nat} (hirq : fld (s.queue q).irq.toNat 0 2 = 2) (hc : (s.queue q).coalesced ≠ 0) :
    exec (.coalesceTimerExpire q) s
      = .next ((s.setQueue q { s.queue q with coalesced := 0 }).msix (fld (s.queue q).irq.toNat 32 11)) :=
  if_pos (by rw [hirq, bne_iff_ne.2 hc]; rfl)

/-- Settles O20: each host mover's command by what its moves write or compare, each refusal by what the access leaves. -/
theorem hostMoverAndRings : Obligations.HostMoverAndRings := by
  unfold Obligations.HostMoverAndRings
  refine ⟨fun s q seq c a b hc hheld hlost hun hopen => ?_, fun s q => ⟨exec_coalesceTimerExpire, ⟨rfl, fun _ => rfl⟩,
    fun hq => ⟨exec_hostDmaRefused_headWord hq, exec_refusedReply_headWord hq⟩, fun t td rd n sg va hst hr => exec_refusedReply_core hst hr,
    fun seq c hc h4 hs => ⟨exec_hostDmaRefused_compare hc h4 hs, exec_refusedReply_compare hc h4 hs⟩⟩⟩
  have hx := exec_hostMoverComplete a b hc hheld hlost hun hopen
  refine ⟨fun hs => hx.trans (congrArg _ (State.hostMoved_stale hs q .ok a b)), fun hs hok l1 h1 => ?_⟩
  refine ⟨fun h2 l2 hl2 => ⟨_, hx, State.hostMoved_copy hs hc hok h2 h1 hl2 a b⟩,
    fun h3 => ⟨_, hx, State.hostMoved_fill hs hc hok h3 h1 a b⟩, fun h4 l2 hl2 => ?_⟩
  obtain ⟨hagree, hdiffer⟩ := State.hostMoved_compare hs hok h4 h1 hl2 q a b
  have htraffic := s.cmdTraffic_unsampled c
  exact ⟨s.cmdTraffic c, State.peek_of_face (s.cmdTraffic_face c), State.tiles_of_unsampled htraffic,
    State.hif_of_unsampled htraffic, fun heq => hx.trans (congrArg _ (hagree heq)),
    fun i hi heq hne => hx.trans (congrArg _ (hdiffer i hi heq hne))⟩

end Sys2Proof.Machine
end

section
/-! PROOFS. The records of completed commands (R300 to R302): what a record puts out and leaves, and what a command of a queue without a
waiting MARKER ends with. -/

namespace Sys2Proof.Machine

open Sys2Proof.Claims

/-! ### The message after a record (R302) -/

theorem toBytes_length (n v : Nat) : (toBytes n v).length = n := by
  induction n generalizing v with
  | zero => rfl
  | succ n ih => rw [toBytes, List.length_cons, ih]

/-- A masked vector becomes pending, any other goes out (R280). -/
theorem State.msix_out (s : State) (v : Nat) :
    (s.msix v).out = (if (s.msixWord (2 * v + 1)).getLsbD 32 then [] else [Out.msix v]) ++ s.out := by
  unfold State.msix
  split <;> rfl

/-- The messages that go out after a record: one when the mode asks for it now and the vector is unmasked. -/
def State.recordMsgs (s : State) (q : Nat) (noIrq : Bool) : List Out :=
  let x := s.queue q
  let v := fld x.irq.toNat 32 11
  let mode := fld x.irq.toNat 0 2
  if noIrq = false ∧ (mode = 1 ∨ mode = 2 ∧ fld x.irq.toNat 24 8 ≤ x.coalesced + 1) then
    (if (s.msixWord (2 * v + 1)).getLsbD 32 then [] else [Out.msix v])
  else []

section
variable (s : State) (q : Nat) (noIrq : Bool)

theorem State.recordMsgs_cases :
    s.recordMsgs q noIrq = [] ∨ s.recordMsgs q noIrq = [Out.msix (fld (s.queue q).irq.toNat 32 11)] := by
  unfold State.recordMsgs
  dsimp only
  split
  · split
    · exact .inl rfl
    · exact .inr rfl
  · exact .inl rfl

theorem State.recordMsgs_silent {s : State} {q : Nat} {noIrq : Bool} (h : noIrq = true ∨ fld (s.queue q).irq.toNat 0 2 = 0) :
    s.recordMsgs q noIrq = [] := if_neg (by
  rintro ⟨hirq, hmode⟩
  rcases h with h | h
  · exact Bool.noConfusion (hirq.symm.trans h)
  · omega)

theorem State.recordMsgs_each {s : State} {q : Nat} (hmode : fld (s.queue q).irq.toNat 0 2 = 1)
    (hmask : (s.msixWord (2 * fld (s.queue q).irq.toNat 32 11 + 1)).getLsbD 32 = false) :
    s.recordMsgs q false = [Out.msix (fld (s.queue q).irq.toNat 32 11)] :=
  (if_pos ⟨rfl, .inl hmode⟩).trans (if_neg (by rw [hmask]; exact Bool.false_ne_true))

theorem State.recordIrq_out : (s.recordIrq q noIrq).out = s.recordMsgs q noIrq ++ s.out := by
  have hsent : ∀ x, ((s.setQueue q x).msix (fld (s.queue q).irq.toNat 32 11)).out
      = (if (s.msixWord (2 * fld (s.queue q).irq.toNat 32 11 + 1)).getLsbD 32 then [] else
          [Out.msix (fld (s.queue q).irq.toNat 32 11)]) ++ s.out := fun x => State.msix_out _ _
  unfold State.recordIrq State.recordMsgs
  dsimp only
  cases noIrq with
  | true => rfl
  | false =>
    by_cases h1 : fld (s.queue q).irq.toNat 0 2 = 1
    · simp [h1, State.msix_out]
    · by_cases h2 : fld (s.queue q).irq.toNat 0 2 = 2
      · by_cases hc : fld (s.queue q).irq.toNat 24 8 ≤ (s.queue q).coalesced + 1
        · simp [h2, hc, hsent]
        · simp [h2, hc]
      · simp [h1, h2]

/-- The message counts at most as one of those that wait for their coalesced message. -/
theorem State.recordIrq_queue : ∃ n, (s.recordIrq q noIrq).queue q = { s.queue q with coalesced := n } := by
  have hset : ∀ n, (s.setQueue q { s.queue q with coalesced := n }).queue q = { s.queue q with coalesced := n } := fun n =>
    State.setQueue_queue s q _
  unfold State.recordIrq
  dsimp only
  split
  · exact ⟨_, rfl⟩
  · split
    · exact ⟨_, State.msix_queue s _ q⟩
    · split
      · split
        · exact ⟨0, (State.msix_queue _ _ q).trans (hset 0)⟩
        · exact ⟨_, hset _⟩
      · exact ⟨_, rfl⟩

theorem State.recordIrq_queue_ne {k : Nat} (h : k ≠ q) : (s.recordIrq q noIrq).queue k = s.queue k := by
  have hset : ∀ x, (s.setQueue q x).queue k = s.queue k := fun x => State.setQueue_queue_ne s q k x h
  unfold State.recordIrq
  exact ite_part (State.queue · k) rfl (ite_part (State.queue · k) (s.msix_queue _ k) (ite_part (State.queue · k)
    (ite_part (State.queue · k) ((State.msix_queue _ _ k).trans (hset _)) (hset _)) rfl))

end

/-! ### A record (R300, R301) -/

theorem recordBytes_length (src seq : BitVec 32) (q : Nat) (phase : Bool) (status layer op : BitVec 16) (detail : BitVec 32)
    (flags : BitVec 16) (energy : BitVec 32) : (recordBytes src seq q phase status layer op detail flags energy).length = 32 := by
  simp only [recordBytes, List.length_append, toBytes_length]

section
variable (s : State) (q : Nat) (seq : BitVec 32) (st layer op : BitVec 16) (d : BitVec 32) (flags : BitVec 16) (e : BitVec 32)
  (noIrq : Bool)

/-- The record is the first thing that goes out, then its message. -/
theorem State.writeRecord_out : (s.writeRecord q seq st layer op d flags e noIrq).out = s.recordMsgs q noIrq
    ++ Out.dma (s.ctx (s.queue q).ctx).pasid
      (fld (s.queue q).cq.toNat 12 52 * 4096 + (s.queue q).written % 2 ^ fld (s.queue q).cq.toNat 0 5 * 32)
      (recordBytes (tget 0 s.seqs (srcId 5 q).toNat) seq q
        (((s.queue q).written / 2 ^ fld (s.queue q).cq.toNat 0 5 + 1) % 2 == 1) st layer op d flags e) :: s.out := by
  unfold State.writeRecord
  rw [State.recordIrq_out]
  congr 1
  unfold State.recordMsgs State.msixWord
  simp only [State.setQueue_queue, State.emit_queue, State.setQueue_hif_msixTable, State.emit_hif]
  rfl

/-- It counts in the queue, whose commands and registers stay. -/
theorem State.writeRecord_queue : ∃ n, (s.writeRecord q seq st layer op d flags e noIrq).queue q
    = { s.queue q with written := (s.queue q).written + 1, coalesced := n } := by
  unfold State.writeRecord
  obtain ⟨n, hn⟩ := State.recordIrq_queue _ q noIrq
  refine ⟨n, hn.trans ?_⟩
  rw [State.setQueue_queue, State.emit_queue]
  rfl

theorem State.writeRecord_queue_ne {k : Nat} (h : k ≠ q) :
    (s.writeRecord q seq st layer op d flags e noIrq).queue k = s.queue k := by
  unfold State.writeRecord
  rw [State.recordIrq_queue_ne _ _ _ h, State.setQueue_queue_ne _ _ _ _ h, State.emit_queue]
  rfl

end

theorem State.mem_of_unhosted {s u : State} (h : u.unhosted = s.unhosted) : u.mem = s.mem := (congrArg State.mem h :)

theorem State.tiles_of_unhosted {s u : State} (h : u.unhosted = s.unhosted) : u.tiles = s.tiles := (congrArg State.tiles h :)

theorem State.comp_of_unhosted {s u : State} (h : u.unhosted = s.unhosted) : u.comp = s.comp := (congrArg State.comp h :)

/-! ### A command that ends (R299, R302) -/

/-- Where no MARKER waits, none completes. -/
theorem State.endMarkers_none {s : State} {q : Nat} (h : ∀ m ∈ (s.queue q).cmds, m.type = 8 → m.inWait = false) (n : Nat) :
    State.endMarkers q n s = s := by
  cases n with
  | zero => rfl
  | succ n =>
    unfold State.endMarkers
    split
    case h_1 c _ hc =>
      have hhead : c.type = 8 → c.inWait = false := h c (hc ▸ List.mem_cons_self)
      exact if_neg (by simpa using hhead)
    case h_2 => rfl

/-- A queue that a command has left, with the failure that it keeps (R297, R298). -/
def Queue.ended (x : Queue) (c : QCmd) (seq : BitVec 32) (st : BitVec 16) : Queue :=
  { x with
    cmds := x.cmds.filter (fun m => m.seq != seq)
    fails := if st ≠ 0 ∧ st ≠ 6 then x.fails ++ [(seq, st)] else x.fails
    stops := if c.type = 6 ∧ (cmdFld c.raw 1 1).testBit 2 ∧ st ≠ 0 then x.stops ++ [(seq, st)] else x.stops }

section
variable {s : State} {q : Nat} {seq : BitVec 32} {c : QCmd} (hc : (s.queue q).cmd seq = some c) (hrefs : c.refs = [])
include hc hrefs

/-- A command that names no object ends with its record alone. -/
theorem State.endCmd_eq (st : BitVec 16) (d : BitVec 32) (flags : BitVec 16) : s.endCmd q seq st d flags
    = ({ s.setQueue q ((s.queue q).ended c seq st) with fresh := s.fresh + 1 } : State).writeRecord q seq st c.layer c.op d flags
        (s.cmdEnergy c st) (c.flags.testBit 3) := by
  have hended : (s.queue q).ended c seq st = { s.queue q with
      cmds := (s.queue q).cmds.filter (fun m => m.seq != seq)
      fails := if failing st then (s.queue q).fails ++ [(seq, st)] else (s.queue q).fails
      stops := if c.type = 6 && c.flags.testBit 2 && st != 0 then (s.queue q).stops ++ [(seq, st)] else (s.queue q).stops } := by
    simp only [Queue.ended, failing, QCmd.flags, Bool.and_eq_true, bne_iff_ne, decide_eq_true_eq, and_assoc]
  unfold State.endCmd
  rw [hc, hended]
  dsimp only
  rw [hrefs]
  rfl

/-- Before the record of a command that may have written data, the credit word goes out again (R302; log 156). -/
theorem State.finishCmd_eq (hm : ∀ m ∈ (s.queue q).cmds, m.type = 8 → m.inWait = false) (st : BitVec 16) (d : BitVec 32)
    (flags : BitVec 16) : s.finishCmd q seq st d flags
    = ({ (if c.wroteData then s.writeCredit q else s).setQueue q ((s.queue q).ended c seq st) with fresh := s.fresh + 1 } : State).writeRecord
        q seq st c.layer c.op d flags (s.cmdEnergy c st) (c.flags.testBit 3) := by
  have hq : (if c.wroteData then s.writeCredit q else s).queue q = s.queue q := ite_part (State.queue · q) (s.emit_queue _ q) rfl
  have hfresh : (if c.wroteData then s.writeCredit q else s).fresh = s.fresh := ite_part State.fresh (s.emit_fresh _) rfl
  have henergy : (if c.wroteData then s.writeCredit q else s).cmdEnergy c st = s.cmdEnergy c st := by
    refine ite_part (State.cmdEnergy · c st) ?_ rfl
    simp only [State.writeCredit, State.cmdEnergy, State.energyOf, State.emit_fresh, State.emit_pwr]
  unfold State.finishCmd
  simp only [hc, Option.any_some]
  rw [State.endMarkers_none fun m hmem => ?_, State.endCmd_eq (by rw [hq]; exact hc) hrefs, hq, hfresh, henergy]
  rw [(State.endCmd_spec _ _ _ _ _ _).2, hq] at hmem
  exact hm m (List.mem_of_mem_filter hmem)

end

/-- Settles O17: a record by what it puts out and counts, a command's end by its record and what its queue keeps. -/
theorem completionRecords : Obligations.CompletionRecords := by
  unfold Obligations.CompletionRecords
  refine ⟨fun s q seq st layer op flags d e noIrq => ?_, fun s q seq c st flags d hc hrefs hm => ?_⟩
  · obtain ⟨n, hqueue⟩ := s.writeRecord_queue q seq st layer op d flags e noIrq
    obtain ⟨hrest, -⟩ := s.writeRecord_spec q seq st layer op d flags e noIrq
    refine ⟨_, s.writeRecord_out q seq st layer op d flags e noIrq, recordBytes_length _ _ _ _ _ _ _ _ _ _, s.recordMsgs_cases q noIrq,
      State.recordMsgs_silent, ?_, ?_, ?_, ?_, fun k hk => s.writeRecord_queue_ne q seq st layer op d flags e noIrq hk,
      State.mem_of_unhosted hrest, State.tiles_of_unhosted hrest, State.comp_of_unhosted hrest⟩
    · rintro rfl
      exact State.recordMsgs_each
    all_goals rw [hqueue]
  · intro credit b y
    have hwrote : c.wroteData = true ↔ c.taken = true ∧ (c.type = 1 ∨ c.type = 2 ∨ c.type = 3) := by
      simp [QCmd.wroteData, or_assoc]
    rw [State.finishCmd_eq hc hrefs hm]
    simp only [hwrote]
    rfl

end Sys2Proof.Machine
end

section
/-! PROOFS. Submission (R285 to R287): what a write to BAR2 appends to its queue, and what a dropped one counts. -/

namespace Sys2Proof.Machine

open Sys2Proof.Claims

/-! ### The commands of a write (R285, R286) -/

/-- The commands of a payload, as the buffer holds them: with consecutive sequence numbers. -/
def sequenced (seq : BitVec 32) (l : List (List Byte)) : List (BitVec 32 × BitVec 512) :=
  l.mapIdx (fun i b => (seq + BitVec.ofNat 32 i, BitVec.ofNat 512 (ofBytes b)))

theorem sequenced_cons (seq : BitVec 32) (b : List Byte) (l : List (List Byte)) :
    sequenced seq (b :: l) = (seq, BitVec.ofNat 512 (ofBytes b)) :: sequenced (seq + 1) l := by
  have hnext : ∀ i, seq + BitVec.ofNat 32 (i + 1) = seq + 1 + BitVec.ofNat 32 i := fun i => by
    rw [Nat.add_comm, BitVec.ofNat_add, BitVec.add_assoc]
    rfl
  simp only [sequenced, List.mapIdx_cons, hnext]
  simp

theorem commandsOf_length (data : List Byte) : (commandsOf data).length = data.length / 64 := by simp [commandsOf]

theorem commandsOf_getElem? {data : List Byte} {i : Nat} (h : i < data.length / 64) :
    (commandsOf data)[i]? = some ((data.drop (64 * i)).take 64) := by simp [commandsOf, h]

/-- A buffer with room for every command takes them all. -/
theorem Queue.accept_fits : ∀ (l : List (List Byte)) (x : Queue), x.buf.length + l.length ≤ x.depth →
    x.accept l = ({ x with buf := x.buf ++ sequenced x.seq l, seq := x.seq + BitVec.ofNat 32 l.length }, 0)
  | [], x, _ => by simp [Queue.accept, sequenced]
  | b :: l, x, h => by
    rw [List.length_cons] at h
    have hroom : x.buf.length < x.depth := by omega
    have hrest : ({ x with buf := x.buf ++ [(x.seq, BitVec.ofNat 512 (ofBytes b))], seq := x.seq + 1 } : Queue).buf.length + l.length
        ≤ x.depth := by
      rw [List.length_append, List.length_singleton]
      omega
    rw [Queue.accept, if_pos hroom, Queue.accept_fits l _ hrest, sequenced_cons]
    have hseq : x.seq + 1 + BitVec.ofNat 32 l.length = x.seq + BitVec.ofNat 32 (b :: l).length := by
      rw [List.length_cons, Nat.add_comm, BitVec.ofNat_add, BitVec.add_assoc]
      rfl
    simp only [hseq, List.append_assoc, List.singleton_append]

/-- A full one takes none. -/
theorem Queue.accept_full {x : Queue} (h : x.depth ≤ x.buf.length) : ∀ l : List (List Byte), x.accept l = (x, l.length)
  | [] => rfl
  | b :: l => by rw [Queue.accept, if_neg (Nat.not_lt.2 h), Queue.accept_full h l, List.length_cons]

/-! ### What a dropped write leaves (R287) -/

section
variable (s : State) (q k : Nat) (overrun : Bool)

/-- The queue after it counts the drop. -/
def Queue.dropping (x : Queue) (k : Nat) (overrun : Bool) : Queue :=
  { x with dropped := min 0xFFFF (x.dropped + k), overrun := x.overrun || overrun, format := x.format || !overrun }

/-- The drop is counted, and at most a record tells of it. -/
theorem State.dropTlp_queue : ∃ n m, (s.dropTlp q k overrun).queue q
    = { (s.queue q).dropping k overrun with written := n, coalesced := m } := by
  unfold State.dropTlp
  dsimp only
  split
  · obtain ⟨n, hn⟩ := State.writeRecord_queue (s.setQueue q ((s.queue q).dropping k overrun)) q (s.queue q).seq
      (if overrun then 0x0D else 0x13) 0 0 (BitVec.ofNat 32 (k % 2 ^ 16)) 0 0 false
    rw [State.setQueue_queue] at hn
    exact ⟨_, n, hn⟩
  · exact ⟨_, _, State.setQueue_queue s q _⟩

theorem State.dropTlp_queue_ne {j : Nat} (h : j ≠ q) : (s.dropTlp q k overrun).queue j = s.queue j := by
  have hset : ∀ x, (s.setQueue q x).queue j = s.queue j := fun x => State.setQueue_queue_ne s q j x h
  unfold State.dropTlp
  exact ite_part (State.queue · j) ((State.writeRecord_queue_ne _ _ _ _ _ _ _ _ _ _ h).trans (hset _)) (hset _)

theorem State.dropTlp_unhosted : (s.dropTlp q k overrun).unhosted = s.unhosted := by
  unfold State.dropTlp
  exact ite_part State.unhosted ((State.writeRecord_spec _ _ _ _ _ _ _ _ _ _).1.trans rfl) rfl

/-- What a dropped write leaves: the buffer, the sequence and the consumed commands, and all but its queue. -/
theorem State.dropTlp_spec {s : State} {q : Nat} {x : Queue} (hx : s.queue q = x) (k : Nat) (overrun : Bool) :
    let u := s.dropTlp q k overrun
    (u.queue q).buf = x.buf ∧ (u.queue q).seq = x.seq ∧ (u.queue q).cmds = x.cmds
      ∧ (u.queue q).dropped = min 0xFFFF (x.dropped + k) ∧ (u.queue q).overrun = (x.overrun || overrun)
      ∧ (u.queue q).format = (x.format || !overrun) ∧ u.mem = s.mem ∧ u.tiles = s.tiles ∧ ∀ j, j ≠ q → u.queue j = s.queue j := by
  intro u
  obtain ⟨n, m, hqueue⟩ := s.dropTlp_queue q k overrun
  have hrest := s.dropTlp_unhosted q k overrun
  rw [show u.queue q = _ from hqueue, hx]
  exact ⟨rfl, rfl, rfl, rfl, rfl, rfl, State.mem_of_unhosted hrest, State.tiles_of_unhosted hrest,
    fun j hj => s.dropTlp_queue_ne q k overrun hj⟩

end

/-! ### A write to BAR2 (R285 to R287, R427) -/

theorem exec_bar2Submission {s : State} (hr : s.hif.ready = true) (hx : s.xingRuns 0 = true) (off : Nat) (data : List Byte) (en : Bool) :
    exec (.bar2Submission off data en) s = .next ((s.crossUp 0 data).submit off data en) :=
  exec_of_mmio hr hx (fun s => (s.crossUp 0 data).submit off data en) rfl

section
variable {s : State} {off : Nat} {data : List Byte} {en : Bool}

theorem State.submit_disabled (h : (s.queue (off / 4096)).st ≠ 1) : s.submit off data en
    = { s with hif := { s.hif with apDrops := min 0xFFFF (s.hif.apDrops + max 1 ((data.length + 63) / 64)) } } :=
  if_pos (bne_iff_ne.2 h)

section
variable (h1 : (s.queue (off / 4096)).st = 1)
include h1

theorem State.submit_malformed (h : off % 64 ≠ 0 ∨ data.length % 64 ≠ 0 ∨ en = false) :
    s.submit off data en = s.dropTlp (off / 4096) (max 1 ((data.length + 63) / 64)) false := by
  have hbad : (off % 64 != 0 || data.length % 64 != 0 || !en) = true := by
    simpa only [Bool.or_eq_true, bne_iff_ne, Bool.not_eq_true', or_assoc] using h
  exact (if_neg (by rw [h1]; decide)).trans (if_pos hbad)

variable (ho : off % 64 = 0) (hd : data.length % 64 = 0) (he : en = true)
include ho hd he

/-- A well-formed write offers its commands to the buffer. -/
theorem State.submit_whole {y : Queue} {n : Nat} (ha : (s.queue (off / 4096)).accept (commandsOf data) = (y, n)) :
    s.submit off data en = if n = 0 then s.setQueue (off / 4096) y else (s.setQueue (off / 4096) y).dropTlp (off / 4096) n true := by
  have hgood : ¬(off % 64 != 0 || data.length % 64 != 0 || !en) = true := by simp [ho, hd, he]
  refine (if_neg (by rw [h1]; decide)).trans ((if_neg hgood).trans ?_)
  rw [ha]

theorem State.submit_fits (hroom : (s.queue (off / 4096)).buf.length + data.length / 64 ≤ 16 * 2 ^ (s.queue (off / 4096)).depthLog) :
    s.submit off data en = s.setQueue (off / 4096) { s.queue (off / 4096) with
      buf := (s.queue (off / 4096)).buf ++ sequenced (s.queue (off / 4096)).seq (commandsOf data)
      seq := (s.queue (off / 4096)).seq + BitVec.ofNat 32 (data.length / 64) } := by
  have hacc := Queue.accept_fits (commandsOf data) (s.queue (off / 4096)) (by rw [commandsOf_length]; exact hroom)
  rw [State.submit_whole h1 ho hd he hacc, if_pos rfl, commandsOf_length]

theorem State.submit_full (hne : data ≠ []) (hfull : (s.queue (off / 4096)).buf.length = 16 * 2 ^ (s.queue (off / 4096)).depthLog) :
    s.submit off data en = (s.setQueue (off / 4096) (s.queue (off / 4096))).dropTlp (off / 4096) (data.length / 64) true := by
  have hlen : 0 < data.length := List.length_pos_iff.2 hne
  have hacc := Queue.accept_full (x := s.queue (off / 4096)) hfull.ge (commandsOf data)
  rw [State.submit_whole h1 ho hd he hacc, commandsOf_length, if_neg (by omega)]

end

end

/-- Settles O16: a write that its queue takes by the commands it appends, any other by its drop. -/
theorem submission : Obligations.Submission := by
  unfold Obligations.Submission
  intro s off data en hr hx q x
  rw [exec_bar2Submission hr hx]
  let c := s.crossUp 0 data
  refine ⟨fun h1 ho hd he hroom => ?_, fun h1 hbad => ?_, fun h1 ho hd hne he hfull => ?_, fun h1 => ?_⟩
  · refine ⟨sequenced x.seq (commandsOf data), congrArg _ (State.submit_fits (s := c) h1 ho hd he hroom), ?_, fun i hi => ?_⟩
    · rw [sequenced, List.length_mapIdx, commandsOf_length]
    · rw [sequenced, List.getElem?_mapIdx, commandsOf_getElem? hi, Option.map_some]
  · obtain ⟨hbuf, hseq, hcmds, hdropped, hoverrun, hformat, hmem, htiles, hother⟩ :=
      State.dropTlp_spec (s := c) (q := q) (x := x) rfl (max 1 ((data.length + 63) / 64)) false
    exact ⟨_, congrArg _ (State.submit_malformed (s := c) h1 hbad), hbuf, hseq, hcmds, hdropped, hformat.trans (Bool.or_true _),
      hoverrun.trans (Bool.or_false _), hmem, htiles, hother⟩
  · obtain ⟨hbuf, hseq, hcmds, hdropped, hoverrun, hformat, hmem, htiles, hother⟩ :=
      State.dropTlp_spec (State.setQueue_queue c q x) (data.length / 64) true
    exact ⟨_, congrArg _ (State.submit_full (s := c) h1 ho hd he hne hfull), hbuf, hseq, hcmds, hdropped, hoverrun.trans (Bool.or_true _),
      hformat.trans (Bool.or_false _), hmem, htiles, fun k hk => (hother k hk).trans (State.setQueue_queue_ne c q k x hk)⟩
  · exact congrArg _ (State.submit_disabled (s := c) h1)

end Sys2Proof.Machine
end

section
/-! PROOFS. Consumption and start of commands (R289 to R298, R311, R312, R324, R340, R343): what a packet's checks answer, what consuming it
leaves, and what becomes of the next command of a queue. -/

namespace Sys2Proof.Machine

open Sys2Proof.Claims

/-! ### The checks of a packet (R290, R291, R313) -/

section
variable {s : State} {c f : Nat}

theorem State.fenceName_gone (h : (s.fence f).valid = false) : s.fenceName c f = some (2, BitVec.ofNat 32 f) :=
  if_pos (by rw [h]; rfl)

theorem State.fenceName_unbound (h : (s.fence f).valid = true) (hb : (s.fence f).boundTo c = false) :
    s.fenceName c f = some (0x14, 0) := (if_neg (by rw [h]; decide)).trans (if_pos (by rw [hb]; rfl))

theorem State.fenceName_bound (h : (s.fence f).valid = true) (hb : (s.fence f).boundTo c = true) : s.fenceName c f = none :=
  (if_neg (by rw [h]; decide)).trans (if_neg (by rw [hb]; decide))

end

/-- A consumed command before its translations. -/
def State.newCmd (s : State) (q : Nat) (seq : BitVec 32) (raw : BitVec 512) : QCmd :=
  { seq, raw, epoch := (s.bunchOf (s.ctx (s.queue q).ctx).bunch).epoch, bunch := (s.ctx (s.queue q).ctx).bunch }

section
variable {s : State} {q : Nat} {seq : BitVec 32} {raw : BitVec 512} {pt : List (Nat × Word)}

theorem State.checkCmd_malformed (h : formatOk raw = false) : s.checkCmd q seq raw pt = .error (0x13, 0x80000000) :=
  if_pos (by rw [h]; rfl)

variable (hok : formatOk raw = true)
include hok

/-- A fence command fails by the fence it names. -/
theorem State.checkCmd_fence {f : Fail} (hty : cmdFld raw 0 1 = 5 ∨ cmdFld raw 0 1 = 6)
    (hf : s.fenceName (s.queue q).ctx (cmdFld raw 8 2) = some f) : s.checkCmd q seq raw pt = .error f := by
  refine (if_neg (by rw [hok]; decide)).trans ?_
  rcases hty with hty | hty <;> simp only [hty, hf]

theorem State.checkCmd_signal (hty : cmdFld raw 0 1 = 5) (hf : s.fenceName (s.queue q).ctx (cmdFld raw 8 2) = none) :
    s.checkCmd q seq raw pt = .ok (s.newCmd q seq raw, s) := by
  refine (if_neg (by rw [hok]; decide)).trans ?_
  simp only [hty, hf]
  rfl

/-- NOP, BARRIER, MARKER and QUIESCE name nothing. -/
theorem State.checkCmd_plain (hty : cmdFld raw 0 1 = 0 ∨ cmdFld raw 0 1 = 7 ∨ cmdFld raw 0 1 = 8 ∨ cmdFld raw 0 1 = 9) :
    s.checkCmd q seq raw pt = .ok (s.newCmd q seq raw, s) := by
  refine (if_neg (by rw [hok]; decide)).trans ?_
  rcases hty with hty | hty | hty | hty <;> (simp only [hty]; rfl)

end

/-- A packet that names no address asks the host for no table entry. -/
theorem State.askCmd_none {raw : BitVec 512} (hty : cmdFld raw 0 1 = 0 ∨ 5 ≤ cmdFld raw 0 1) (s : State) (q : Nat)
    (pt : List (Nat × Word)) : s.askCmd q raw pt = s := by
  unfold State.askCmd
  dsimp only
  split
  case h_5 => rfl
  all_goals omega

/-! ### What consuming the oldest packet leaves (R289, R290, R297) -/

/-- A queue whose oldest packet has been taken out. -/
def Queue.popped (x : Queue) (seq : BitVec 32) (raw : BitVec 512) (rest : List (BitVec 32 × BitVec 512)) : Queue :=
  { x with buf := rest, consumed := x.consumed + 1, lastSig := if cmdFld raw 0 1 = 5 then some seq else x.lastSig }

/-- The state in which the packet is checked: its queue's credit word has gone out. -/
def State.popped (s : State) (q : Nat) (seq : BitVec 32) (raw : BitVec 512) (rest : List (BitVec 32 × BitVec 512)) : State :=
  (s.setQueue q ((s.queue q).popped seq raw rest)).emit (.dma (s.ctx (s.queue q).ctx).pasid
    (fld (s.queue q).credit.toNat 3 61 * 8) (toBytes 8 ((s.queue q).consumed + 1)))

section
variable (s : State) (q : Nat) (seq : BitVec 32) (raw : BitVec 512) (rest : List (BitVec 32 × BitVec 512))

theorem State.popped_queue : (s.popped q seq raw rest).queue q = (s.queue q).popped seq raw rest :=
  (State.emit_queue _ _ q).trans (State.setQueue_queue s q _)

theorem State.popped_fence (f : Nat) : (s.popped q seq raw rest).fence f = s.fence f := State.emit_fence _ _ f

theorem State.popped_eq : (s.setQueue q ((s.queue q).popped seq raw rest)).writeCredit q = s.popped q seq raw rest := by
  unfold State.writeCredit
  rw [State.setQueue_queue]
  rfl

theorem State.countLaunch_queue (k : Nat) : (s.countLaunch raw).queue k = s.queue k :=
  ite_part (State.queue · k) (congrArg (State.queue · k) (s.updBunch_uncomp _ _) :) rfl

end

section
variable {s : State} {q : Nat} {pt : List (Nat × Word)} {seq : BitVec 32} {raw : BitVec 512} {rest : List (BitVec 32 × BitVec 512)}
  (hbuf : (s.queue q).buf = (seq, raw) :: rest)
include hbuf

/-- A packet that asks for nothing and fails its checks ends with their status. -/
theorem State.consume_fails {st : BitVec 16} {d : BitVec 32} (hcheck : (s.popped q seq raw rest).checkCmd q seq raw pt = .error (st, d))
    (hask : formatOk raw = true → (s.popped q seq raw rest).askCmd q raw pt = s.popped q seq raw rest) (hfail : failing st = true) :
    let y := (s.queue q).popped seq raw rest
    s.consume q pt = (((s.popped q seq raw rest).countLaunch raw).setQueue q { y with
        fails := y.fails ++ [(seq, st)]
        stops := if cmdFld raw 0 1 = 6 ∧ (cmdFld raw 1 1).testBit 2 then y.stops ++ [(seq, st)] else y.stops }).writeRecord q seq st
      (BitVec.ofNat 16 (cmdFld raw 2 2)) (BitVec.ofNat 16 (cmdFld raw 4 2)) d 0 0 ((cmdFld raw 1 1).testBit 3) := by
  intro y
  have hasked : (if formatOk raw = true then (s.popped q seq raw rest).askCmd q raw pt else s.popped q seq raw rest)
      = s.popped q seq raw rest := by
    split
    case isTrue h => exact hask h
    case isFalse => rfl
  have hpop := s.popped_eq q seq raw rest
  have hy : ((s.popped q seq raw rest).countLaunch raw).queue q = y :=
    (State.countLaunch_queue _ raw q).trans (s.popped_queue q seq raw rest)
  unfold State.consume
  rw [Queue.popped] at hpop
  simp only [hbuf, hpop, hcheck, hasked, hfail, hy, if_true, Bool.and_eq_true, decide_eq_true_eq]

/-- One that passes them without a reference joins the consumed commands. -/
theorem State.consume_joins {c : QCmd} (hcheck : (s.popped q seq raw rest).checkCmd q seq raw pt = .ok (c, s.popped q seq raw rest))
    (hask : (s.popped q seq raw rest).askCmd q raw pt = s.popped q seq raw rest) (h1 : cmdFld raw 0 1 ≠ 1) (hrefs : c.refs = []) :
    s.consume q pt = (s.popped q seq raw rest).setQueue q { (s.queue q).popped seq raw rest with
      cmds := (s.queue q).cmds ++ [{ c with prevSig := (s.queue q).lastSig }] } := by
  have hasked : (if formatOk raw = true then (s.popped q seq raw rest).askCmd q raw pt else s.popped q seq raw rest)
      = s.popped q seq raw rest := by rw [hask, ite_self]
  have hcount : (s.popped q seq raw rest).countLaunch raw = s.popped q seq raw rest := if_neg h1
  have hpop := s.popped_eq q seq raw rest
  unfold State.consume
  rw [Queue.popped] at hpop
  simp only [hbuf, hpop, hcheck, hasked, hcount, hrefs, State.takeRefs, List.foldl_nil, State.popped_queue]
  rfl

end

/-! ### Start (R296, R298, R311, R312, R340, R343) -/

/-- What has not been stopped, or signals a fence, goes on to what it names. -/
theorem stopGuard_false {o : Option (BitVec 16)} {ty : Nat} (h : o = none ∨ ty = 5) : (o.isSome && ty != 5) = false := by
  rcases h with h | h <;> simp [h]

/-- What has not lost what it names, or signals a fence, keeps it. -/
theorem goneGuard_none {o : Option Nat} {ty : Nat} (h : o = none ∨ ty = 5) : (if ty = 5 then none else o) = none := by
  rcases h with h | h <;> simp [h]

section
variable {s : State} {q : Nat} {c : QCmd} (hn : (s.queue q).nextStart = some c) (hm : (s.queue q).mayStart c = true)
  (hq : (s.queue q).st ≠ 0) (hf : s.freezeHolds (s.queue q).ctx = false)
include hn hm hq hf

/-- A failed FENCE_WAIT with STOP_ON_ERROR ends it. -/
theorem exec_commandStart_stopped (hs : (s.queue q).stopped c ≠ none) (h5 : c.type ≠ 5) :
    exec (.commandStart q) s = .next (s.finishCmd q c.seq 1 3 0) := by
  change execCommandStart q s = _
  unfold execCommandStart
  simp [hn, hm, hq, hf, Option.isSome_iff_ne_none, hs, h5]

variable (hfree : (s.queue q).stopped c = none ∨ c.type = 5)
include hfree

theorem exec_commandStart_gone {h : Nat} (hg : c.gone = some h) (h5 : c.type ≠ 5) :
    exec (.commandStart q) s = .next (s.finishCmd q c.seq 2 (BitVec.ofNat 32 h) 0) := by
  have hs := hfree.resolve_right h5
  change execCommandStart q s = _
  unfold execCommandStart
  by_cases h6 : c.type = 6 <;> simp [hn, hm, hq, hf, hs, hg, h5, h6, State.endWait]

variable (hgone : c.gone = none ∨ c.type = 5)
include hgone

/-- A command whose object is DOOMED or destroyed ends. -/
theorem exec_commandStart_objectGone {h : Nat} (hr : c.refs = [h]) (ho : (s.obj h).st ≠ 1) :
    exec (.commandStart q) s = .next (s.finishCmd q c.seq 2 (BitVec.ofNat 32 h) 0) := by
  have hs := stopGuard_false hfree
  have hg := goneGuard_none hgone
  have hobj : c.refs.find? (fun h => (s.obj h).st != 1) = some h := by simp [hr, ho]
  change execCommandStart q s = _
  unfold execCommandStart
  simp only [hn, hm, beq_eq_false_iff_ne.2 hq, hf, hs, hg, hobj, Bool.not_true, Bool.or_self, Bool.false_eq_true, if_false]

variable (hobjs : ∀ h ∈ c.refs, (s.obj h).st = 1)
include hobjs

/-- One whose objects are VALID meets its scope, then what holds it. -/
theorem exec_commandStart_named : exec (.commandStart q) s =
    if c.type == 1 && s.scopeLost c.raw then .next (s.finishCmd q c.seq 3 0 0)
    else if s.startHeld c (s.queue q).ctx then .refused (.notEnabled "COMMAND_START")
    else .next (s.updCmd q c.seq (fun c => { c with started := true })) := by
  have hs := stopGuard_false hfree
  have hg := goneGuard_none hgone
  have hobj : c.refs.find? (fun h => (s.obj h).st != 1) = none := List.find?_eq_none.2 fun h hh => by simp [hobjs h hh]
  change execCommandStart q s = _
  unfold execCommandStart
  simp only [hn, hm, beq_eq_false_iff_ne.2 hq, hf, hs, hg, hobj, Bool.not_true, Bool.or_self, Bool.false_eq_true, if_false]

theorem exec_commandStart_lost (h1 : c.type = 1) (hl : s.scopeLost c.raw = true) :
    exec (.commandStart q) s = .next (s.finishCmd q c.seq 3 0 0) := by
  rw [exec_commandStart_named hn hm hq hf hfree hgone hobjs]
  exact if_pos (by rw [h1, hl]; rfl)

theorem exec_commandStart_starts (hl : c.type = 1 → s.scopeLost c.raw = false) (hh : s.startHeld c (s.queue q).ctx = false) :
    exec (.commandStart q) s = .next (s.updCmd q c.seq (fun c => { c with started := true })) := by
  rw [exec_commandStart_named hn hm hq hf hfree hgone hobjs]
  refine (if_neg ?_).trans (if_neg (by rw [hh]; exact Bool.false_ne_true))
  simpa using hl

end

/-- Settles O18: a consumed packet by its checks, the next command by what it meets in order. -/
theorem commandsConsumedAndStarted : Obligations.CommandsConsumedAndStarted := by
  unfold Obligations.CommandsConsumedAndStarted
  refine ⟨fun s q pt seq raw rest hmay hbuf => ?_, fun s q c hn hm hq hf => ?_⟩
  · intro x ty f y credit ends
    have hexec : exec (.commandConsume q pt) s = .next (s.consume q pt) := if_pos hmay
    let w := s.popped q seq raw rest
    have hctx : (w.queue q).ctx = x.ctx := (congrArg Queue.ctx (s.popped_queue q seq raw rest) :)
    have hfence : w.fence f = s.fence f := s.popped_fence q seq raw rest f
    have hsilent : ty = 0 ∨ 5 ≤ ty → w.askCmd q raw pt = w := fun h => State.askCmd_none h w q pt
    refine ⟨fun hfmt => ?_, fun hfmt hty hv => ?_, fun hfmt hty hv hb => ?_, fun hfmt hty => ?_⟩
    · exact hexec.trans (congrArg _ (State.consume_fails hbuf (State.checkCmd_malformed hfmt)
        (fun h => Bool.noConfusion (hfmt.symm.trans h)) rfl))
    · have hname : w.fenceName (w.queue q).ctx f = some (2, BitVec.ofNat 32 f) := State.fenceName_gone (by rw [hfence]; exact hv)
      exact hexec.trans (congrArg _ (State.consume_fails hbuf (State.checkCmd_fence hfmt hty hname)
        (fun _ => hsilent (by omega)) rfl))
    · have hname : w.fenceName (w.queue q).ctx f = some (0x14, 0) :=
        State.fenceName_unbound (by rw [hfence]; exact hv) (by rw [hfence, hctx]; exact hb)
      exact hexec.trans (congrArg _ (State.consume_fails hbuf (State.checkCmd_fence hfmt hty hname)
        (fun _ => hsilent (by omega)) rfl))
    · have hcheck : w.checkCmd q seq raw pt = .ok (w.newCmd q seq raw, w) := by
        rcases hty with h | h | h | h | ⟨h, hv, hb⟩
        · exact State.checkCmd_plain hfmt (.inl h)
        · exact State.checkCmd_plain hfmt (.inr (.inl h))
        · exact State.checkCmd_plain hfmt (.inr (.inr (.inl h)))
        · exact State.checkCmd_plain hfmt (.inr (.inr (.inr h)))
        · exact State.checkCmd_signal hfmt h (State.fenceName_bound (by rw [hfence]; exact hv) (by rw [hfence, hctx]; exact hb))
      have hjoins := State.consume_joins hbuf hcheck (hsilent (by omega)) (show ty ≠ 1 by omega) rfl
      exact ⟨_, hexec.trans (congrArg _ hjoins), rfl, rfl, rfl, rfl, rfl, rfl, rfl⟩
  · intro free named
    exact ⟨exec_commandStart_stopped hn hm hq hf, fun hfree h hg h5 => exec_commandStart_gone hn hm hq hf hfree hg h5,
      fun hfree hg h hr ho => exec_commandStart_objectGone hn hm hq hf hfree hg hr ho,
      fun hfree ⟨hgone, hobjs⟩ h1 hl => exec_commandStart_lost hn hm hq hf hfree hgone hobjs h1 hl,
      fun hfree ⟨hgone, hobjs⟩ hl hh => exec_commandStart_starts hn hm hq hf hfree hgone hobjs hl hh⟩

end Sys2Proof.Machine
end

section
/-! PROOFS. What the started host commands do (R267, R295 to R299, R314 to R317, R340): the commands that end or wait, those that host movers and
tiles take, and a FENCE_SIGNAL. -/

namespace Sys2Proof.Machine

open Sys2Proof.Claims

/-- A started command whose turn has come is evaluated (R296). -/
theorem evalCmd_started {s : State} {q : Nat} {seq : BitVec 32} {ty : Nat} {c : QCmd} (h : s.startedCmd q seq ty = some c) (name : String)
    (k : QCmd → State) : evalCmd s q seq ty name k = .next (k c) := by
  unfold evalCmd
  rw [h]

/-! ### Waiting on a fence (R298, R315) -/

/-- A waiter is reached when the value is its threshold or later (R31). -/
theorem fenceReached_iff (t v : BitVec 32) : fenceReached t v = true ↔ (t - v).toNat = 0 ∨ 2 ^ 31 < (t - v).toNat := by
  have hzero : t - v = 0 ↔ (t - v).toNat = 0 := BitVec.toNat_eq
  simp only [fenceReached, Bool.or_eq_true, beq_iff_eq, decide_eq_true_eq, gt_iff_lt, hzero]

section
variable {x : Fence} {t : BitVec 32}

theorem Fence.look_gone (h : x.valid = false) : x.look t = some 2 := if_pos (by rw [h]; rfl)

variable (h : x.valid = true)
include h

theorem Fence.look_error (he : x.err = true) : x.look t = some 1 := (if_neg (by rw [h]; decide)).trans (if_pos he)

/-- Without the error flag the value alone decides. -/
theorem Fence.look_value (he : x.err = false) :
    x.look t = if (t - x.val).toNat = 0 ∨ 2 ^ 31 < (t - x.val).toNat then some 0 else none := by
  refine (if_neg (by rw [h]; decide)).trans ((if_neg (by rw [he]; exact Bool.false_ne_true)).trans ?_)
  simp only [fenceReached_iff]

end

section
variable {s : State} (q : Nat) {c : QCmd}

/-- What a waiting command sees of its fence. -/
def State.waitSees (s : State) (c : QCmd) : Option Nat :=
  if c.gone.isSome then some 2 else (s.fence (cmdFld c.raw 8 2)).look (BitVec.ofNat 32 (cmdFld c.raw 12 4))

theorem State.waitCmd_ends {r : Nat} (h : s.waitSees c = some r) : s.waitCmd q c = s.endWait q c (cmdFld c.raw 8 2) r := by
  rw [State.waitSees] at h
  unfold State.waitCmd
  simp only [h]

theorem State.waitCmd_waits (h : s.waitSees c = none) : s.waitCmd q c = s.updCmd q c.seq (fun c => { c with inWait := true }) := by
  rw [State.waitSees] at h
  unfold State.waitCmd
  simp only [h]

/-- What a waiter saw gives the status and the detail of its record (R298). -/
theorem State.endWait_gone (s : State) (c : QCmd) (f : Nat) : s.endWait q c f 2 = s.finishCmd q c.seq 2 (BitVec.ofNat 32 f) 0 := rfl

theorem State.endWait_error (s : State) (c : QCmd) (f : Nat) :
    s.endWait q c f 1 = s.finishCmd q c.seq (s.fence f).errStatus (BitVec.ofNat 32 f) 0 := rfl

theorem State.endWait_reached (s : State) (c : QCmd) (f : Nat) : s.endWait q c f 0 = s.finishCmd q c.seq 0 0 0 := rfl

theorem State.waitCmd_eq :
    let f := cmdFld c.raw 8 2
    let d := (BitVec.ofNat 32 (cmdFld c.raw 12 4) - (s.fence f).val).toNat
    s.waitCmd q c = if c.gone ≠ none ∨ (s.fence f).valid = false then s.finishCmd q c.seq 2 (BitVec.ofNat 32 f) 0
      else if (s.fence f).err then s.finishCmd q c.seq (s.fence f).errStatus (BitVec.ofNat 32 f) 0
      else if d = 0 ∨ 2 ^ 31 < d then s.finishCmd q c.seq 0 0 0
      else s.updCmd q c.seq (fun c => { c with inWait := true }) := by
  intro f d
  by_cases hgone : c.gone ≠ none ∨ (s.fence f).valid = false
  · rw [if_pos hgone, ← State.endWait_gone]
    refine State.waitCmd_ends q ?_
    rcases hgone with hg | hv
    · exact if_pos (Option.isSome_iff_ne_none.2 hg)
    · rw [State.waitSees, Fence.look_gone hv, ite_self]
  · rw [if_neg hgone]
    obtain ⟨hg, hv⟩ := not_or.1 hgone
    have hsees : s.waitSees c = (s.fence f).look (BitVec.ofNat 32 (cmdFld c.raw 12 4)) := by
      rw [State.waitSees, not_not.1 hg]
      rfl
    have hvalid : (s.fence f).valid = true := by simpa using hv
    cases he : (s.fence f).err with
    | true =>
      rw [if_pos rfl, ← State.endWait_error]
      exact State.waitCmd_ends q (hsees.trans (Fence.look_error hvalid he))
    | false =>
      have hvalue := hsees.trans (Fence.look_value hvalid he)
      rw [if_neg Bool.false_ne_true]
      by_cases hd : d = 0 ∨ 2 ^ 31 < d
      · rw [if_pos hd, ← State.endWait_reached q s c f]
        exact State.waitCmd_ends q (hvalue.trans (if_pos hd))
      · rw [if_neg hd]
        exact State.waitCmd_waits q (hvalue.trans (if_neg hd))

end

/-! ### Host movers and tiles (R267, R295, R296, R340) -/

section
variable {s : State} {q : Nat} {c : QCmd}

/-- A LENGTH of zero moves nothing. -/
theorem State.takeMover_zero (h : cmdFld c.raw 24 8 = 0) : s.takeMover q c = s.finishCmd q c.seq 0 0 0 := if_pos h

theorem exec_launch_lost {seq : BitVec 32} (h : s.startedCmd q seq 1 = some c) (hf : s.freezeHolds (s.queue q).ctx = false)
    (hl : s.scopeLost c.raw = true) : exec (.launch q seq) s = .next (s.finishCmd q c.seq 3 0 0) := by
  change execLaunch q seq s = _
  unfold execLaunch
  simp only [h, hf, hl, Bool.false_eq_true, if_false, if_true]

theorem exec_launch_starts {seq : BitVec 32} (h : s.startedCmd q seq 1 = some c) (hl : s.scopeLost c.raw = false)
    (hh : s.startHeld c (s.queue q).ctx = false) : exec (.launch q seq) s = .next (s.startLaunch q c) := by
  have hf : s.freezeHolds (s.queue q).ctx = false := (Bool.or_eq_false_iff.1 hh).1
  change execLaunch q seq s = _
  unfold execLaunch
  simp only [h, hf, hl, hh, Bool.false_eq_true, if_false]

end

/-! ### A signal's value, and the error flag (R314, R316) -/

theorem Fence.signal_eq (x : Fence) (v : BitVec 32) :
    let d := (v - x.val).toNat
    x.signal v = (if d = 0 then x else if d < 2 ^ 31 then { x with val := v } else { x with stale := min 0xFFFF (x.stale + 1) },
      decide (2 ^ 31 ≤ d)) := by
  intro d
  have hzero : v - x.val = 0 ↔ d = 0 := BitVec.toNat_eq
  have hd : (v - x.val).toNat = d := rfl
  unfold Fence.signal
  simp only [hzero, hd]
  by_cases h0 : d = 0
  · rw [if_pos h0, if_pos h0, h0]
    rfl
  · rw [if_neg h0, if_neg h0]
    by_cases hlater : d < 2 ^ 31
    · rw [if_pos hlater, if_pos hlater, decide_eq_false (Nat.not_le.2 hlater)]
    · rw [if_neg hlater, if_neg hlater, decide_eq_true (Nat.not_lt.1 hlater), satAdd]

/-- A signal leaves the error flag. -/
theorem Fence.signal_err (x : Fence) (v : BitVec 32) : (x.signal v).1.err = x.err := by
  unfold Fence.signal
  split
  · rfl
  · split <;> rfl

theorem State.flagFence_flagged {s : State} {f : Nat} (h : (s.fence f).err = true) (st : BitVec 16) : s.flagFence f st = s := if_pos h

theorem State.flagFence_unflagged {s : State} {f : Nat} (h : (s.fence f).err = false) (st : BitVec 16) :
    s.flagFence f st = s.setFence f { s.fence f with err := true, errStatus := st } :=
  if_neg (by rw [h]; exact Bool.false_ne_true)

/-! ### FENCE_SIGNAL (R297, R298, R317) -/

/-- The failures of a queue's commands that a FENCE_SIGNAL covers. -/
def Queue.covered (x : Queue) (c : QCmd) : List (BitVec 32 × BitVec 16) := x.fails.filter (fun p => c.sinceSig p.1)

/-- The status that they bring to its fence: of the first of them. -/
def Queue.signalError (x : Queue) (c : QCmd) : Option (BitVec 16) :=
  (x.covered c).head?.map (fun p => ((x.covered c).tail.foldl (fun a b => if seqLater a.1 b.1 then b else a) p).2)

section
variable {x : Queue} {c : QCmd}

theorem Queue.signalError_none (hc : x.covered c = []) : x.signalError c = none := by
  rw [Queue.signalError, hc]
  rfl

theorem Queue.signalError_first {p : BitVec 32 × BitVec 16} {l : List (BitVec 32 × BitVec 16)} (hc : x.covered c = p :: l) :
    x.signalError c = some (l.foldl (fun a b => if seqLater a.1 b.1 then b else a) p).2 := by
  rw [Queue.signalError, hc]
  rfl

end

/-- The queue once the signal has covered the failures before it. -/
def Queue.forget (x : Queue) (c : QCmd) : Queue :=
  { x with fails := x.fails.filter (fun p => !seqLater c.seq p.1), stops := x.stops.filter (fun p => !seqLater c.seq p.1) }

/-- The fence's flag after a signal that brings an error, or none. -/
def State.bringError (s : State) (f : Nat) (o : Option (BitVec 16)) : State := o.elim s (s.flagFence f)

section
variable {s : State} {q : Nat} {c : QCmd}

theorem State.signalCmd_gone (h : c.gone ≠ none ∨ (s.fence (cmdFld c.raw 8 2)).valid = false) :
    s.signalCmd q c = (s.setQueue q ((s.queue q).forget c)).finishCmd q c.seq 2 (BitVec.ofNat 32 (cmdFld c.raw 8 2)) 0 := by
  have hgone : (c.gone.isSome || !((s.setQueue q ((s.queue q).forget c)).fence (cmdFld c.raw 8 2)).valid) = true := by
    simpa [Option.isSome_iff_ne_none] using h
  exact if_pos hgone

variable {f : Nat} {y : Fence} {stale : Bool} (hg : c.gone = none) (hf : cmdFld c.raw 8 2 = f) (hv : (s.fence f).valid = true)
  (hy : (s.fence f).signal (BitVec.ofNat 32 (cmdFld c.raw 12 4)) = (y, stale))
include hg hf hv hy

/-- A signal on a fence that stands gives it its value and the error that it brings, then the waiters are evaluated. -/
theorem State.signalCmd_runs (hs : (s.queue q).stopped c = none) : s.signalCmd q c
    = ((((s.setQueue q ((s.queue q).forget c)).setFence f y).bringError f ((s.queue q).signalError c)).evalWaiters f).finishCmd
        q c.seq 0 (if stale then 1 else 0) 0 := by
  subst hf
  unfold State.signalCmd
  simp only [State.setQueue_fence, hg, hv, hy, hs, Option.isSome_none, Bool.not_true, Bool.or_self, Bool.false_eq_true, if_false]
  cases hc : (s.queue q).covered c with
  | nil =>
    rw [Queue.signalError_none hc]
    rw [Queue.covered] at hc
    simp only [hc]
    rfl
  | cons p l =>
    rw [Queue.signalError_first hc]
    rw [Queue.covered] at hc
    simp only [hc]
    rfl

/-- One that a failed wait stops brings the wait's status, and ends ABORTED. -/
theorem State.signalCmd_stopped {st : BitVec 16} (hs : (s.queue q).stopped c = some st) : s.signalCmd q c
    = ((((s.setQueue q ((s.queue q).forget c)).setFence f y).bringError f (some st)).evalWaiters f).finishCmd q c.seq 1 3 0 := by
  subst hf
  unfold State.signalCmd
  simp only [State.setQueue_fence, hg, hv, hy, hs, Option.isSome_none, Option.isSome_some, Bool.not_true, Bool.or_self, Bool.false_eq_true,
    if_false, if_true]
  rfl

end

theorem exec_fenceSignal {s : State} {q : Nat} {seq : BitVec 32} {c : QCmd} (h : s.startedCmd q seq 5 = some c) :
    exec (.fenceSignal q seq) s = .next (s.signalCmd q c) := evalCmd_started h _ _

/-- The flag that a signal brings to an unflagged fence, and the signal that brings none. -/
theorem State.bringError_unflagged {s : State} {f : Nat} {y : Fence} (h : y.err = false) (st : BitVec 16) :
    (s.setFence f y).bringError f (some st) = (s.setFence f y).setFence f { y with err := true, errStatus := st } := by
  refine (State.flagFence_unflagged (by rw [State.setFence_fence, h]) st).trans ?_
  rw [State.setFence_fence]

theorem State.bringError_flagged {s : State} {f : Nat} {y : Fence} (h : y.err = true) (o : Option (BitVec 16)) :
    (s.setFence f y).bringError f o = s.setFence f y := by
  cases o with
  | none => rfl
  | some st => exact State.flagFence_flagged (by rw [State.setFence_fence, h]) st

/-- Settles O19: each command by its evaluation, a signal by its fence's value and the error it brings. -/
theorem hostCommands : Obligations.HostCommands := by
  unfold Obligations.HostCommands
  refine ⟨fun s q seq c => ?_, fun s q seq c hc => ?_⟩
  · intro run
    refine ⟨fun h => evalCmd_started h _ _, fun h => evalCmd_started h _ _, fun h => evalCmd_started h _ _,
      fun h => ⟨_, evalCmd_started h _ _, rfl⟩, fun h => (evalCmd_started h _ _).trans (congrArg _ (State.waitCmd_eq q)),
      fun ty i hi h => ?_, exec_launch_lost, fun h hl hh => ?_⟩
    · have htake : exec i s = .next (s.takeMover q c) := by
        simp only [List.mem_cons, Prod.mk.injEq, List.not_mem_nil, or_false] at hi
        rcases hi with ⟨rfl, rfl⟩ | ⟨rfl, rfl⟩ | ⟨rfl, rfl⟩ <;> exact evalCmd_started h _ _
      exact ⟨fun h0 => htake.trans (congrArg _ (State.takeMover_zero h0)), fun h0 => htake.trans (congrArg _ (if_neg h0))⟩
    · intro ts r
      have hempty : ts.isEmpty = true ↔ ts = [] := List.isEmpty_iff
      refine (exec_launch_starts h hl hh).trans (congrArg _ ?_)
      simp only [← hempty]
      rfl
  · intro x f v d y z flagged covered stale
    have hsignal : (s.fence f).signal v = (y, decide (2 ^ 31 ≤ d)) := Fence.signal_eq _ v
    have herr : y.err = (s.fence f).err := by
      rw [← Fence.signal_err (s.fence f) v, hsignal]
    refine ⟨fun h => (exec_fenceSignal hc).trans (congrArg _ (State.signalCmd_gone h)), fun hg hv => ?_⟩
    have hrecord : (if decide (2 ^ 31 ≤ d) = true then 1 else 0 : BitVec 32) = stale := by simp only [stale, decide_eq_true_eq]
    have hflag : ∀ st, (s.fence f).err = false → (z.setFence f y).bringError f (some st)
        = (z.setFence f y).setFence f { y with err := true, errStatus := st } := fun st he => State.bringError_unflagged (herr.trans he) st
    have hruns : x.stopped c = none → exec (.fenceSignal q seq) s
        = .next ((((z.setFence f y).bringError f (x.signalError c)).evalWaiters f).finishCmd q c.seq 0 stale 0) := fun hs => by
      rw [exec_fenceSignal hc, State.signalCmd_runs hg rfl hv hsignal hs, hrecord]
      rfl
    refine ⟨fun hs hcov => ?_, fun hs p hcov he => ?_, fun st hs he => ?_⟩
    · have hkept : (z.setFence f y).bringError f (x.signalError c) = z.setFence f y := by
        rcases hcov with hcov | he
        · rw [Queue.signalError_none hcov]
          rfl
        · exact State.bringError_flagged (herr.trans he) _
      rw [hruns hs, hkept]
    · rw [hruns hs, Queue.signalError_first hcov, hflag _ he]
      rfl
    · rw [exec_fenceSignal hc, State.signalCmd_stopped hg rfl hv hsignal hs]
      exact congrArg (fun u : State => Host.Outcome.next ((u.evalWaiters f).finishCmd q c.seq 1 3 0)) (hflag st he)

end Sys2Proof.Machine
end

section
/-! PROOFS. The operations of queues and objects (R304, R306, R309 to R312, R319): what Q_ENABLE, Q_RESUME, Q_DESTROY, OBJ_CREATE, OBJ_FREE and
OBJ_DESTROY do once the mailbox issues them. -/

namespace Sys2Proof.Machine

open Sys2Proof.Claims

/-! ### Which operation the mailbox performs (R306) -/

/-- The operations of queues and objects name no context by INDEX. -/
theorem State.mboxRun_queueOps (s : State) (m : Mgmt) :
    (m.op = 0x10 → s.mboxRun m = s.opQEnable m) ∧ (m.op = 0x11 → s.mboxRun m = s.opQResume m)
      ∧ (m.op = 0x12 → s.mboxRun m = s.opQDestroy m) ∧ (m.op = 0x20 → s.mboxRun m = s.opObjCreate m)
      ∧ (m.op = 0x21 → s.mboxRun m = s.opObjFree m) ∧ (m.op = 0x22 → s.mboxRun m = s.opObjDestroy m) := by
  unfold State.mboxRun
  exact ⟨fun h => by rw [h]; rfl, fun h => by rw [h]; rfl, fun h => by rw [h]; rfl, fun h => by rw [h]; rfl,
    fun h => by rw [h]; rfl, fun h => by rw [h]; rfl⟩

section
variable (s : State) (acc : Acc) (v : Word)

theorem exec_queueOps : let m := mgmtOf s acc v
    let h := issued s acc v
    (Issues s acc v 0x10 → exec (.qEnable acc v) s = .next (h.opQEnable m))
      ∧ (Issues s acc v 0x11 → exec (.qResume acc v) s = .next (h.opQResume m))
      ∧ (Issues s acc v 0x12 → exec (.qDestroy acc v) s = .next (h.opQDestroy m))
      ∧ (Issues s acc v 0x20 → exec (.objCreate acc v) s = .next (h.opObjCreate m))
      ∧ (Issues s acc v 0x21 → exec (.objFree acc v) s = .next (h.opObjFree m))
      ∧ (Issues s acc v 0x22 → exec (.objDestroy acc v) s = .next (h.opObjDestroy m)) := by
  obtain ⟨henable, hresume, hdestroy, hcreate, hfree, hstop⟩ := (issued s acc v).mboxRun_queueOps (mgmtOf s acc v)
  exact ⟨fun h => by rw [exec_issues (by simp [mailboxRows]) h, henable (mgmtOf_op h)],
    fun h => by rw [exec_issues (by simp [mailboxRows]) h, hresume (mgmtOf_op h)],
    fun h => by rw [exec_issues (by simp [mailboxRows]) h, hdestroy (mgmtOf_op h)],
    fun h => by rw [exec_issues (by simp [mailboxRows]) h, hcreate (mgmtOf_op h)],
    fun h => by rw [exec_issues (by simp [mailboxRows]) h, hfree (mgmtOf_op h)],
    fun h => by rw [exec_issues (by simp [mailboxRows]) h, hstop (mgmtOf_op h)]⟩

/-- INDEX of an operation has 18 bits. -/
theorem mgmtOf_idx_lt : (mgmtOf s acc v).idx < 262144 := Nat.mod_lt _ (by decide)

end

section
variable {s : State} {acc : Acc} {v : Word}

/-! ### Queues (R304, R309, R319) -/

theorem opQEnable_busy (hi : (mgmtOf s acc v).idx < 4096) (h : (s.queue (mgmtOf s acc v).idx).st ≠ 0) :
    (issued s acc v).opQEnable (mgmtOf s acc v) = done (mgmtOf s acc v) (issued s acc v) 0x12 0 :=
  (if_neg (Nat.not_le.2 hi)).trans ((if_pos (bne_iff_ne.2 h)).trans (issued_mboxEnd s acc v _ _))

/-- Q_ENABLE clears a DISABLED queue and writes its credit word. -/
theorem opQEnable_new (hi : (mgmtOf s acc v).idx < 4096) (h : (s.queue (mgmtOf s acc v).idx).st = 0)
    (hcfg : (s.queue (mgmtOf s acc v).idx).cfgOk = true) (hv : (s.ctx (s.queue (mgmtOf s acc v).idx).ctx).valid = true)
    (hroom : s.queueRoom (s.queue (mgmtOf s acc v).idx) = true) :
    let x := s.queue (mgmtOf s acc v).idx
    (issued s acc v).opQEnable (mgmtOf s acc v) = done (mgmtOf s acc v) (((issued s acc v).setQueue (mgmtOf s acc v).idx
      { x.disabled with st := if (s.ctx x.ctx).st = 0 then 1 else 3, prior := 1 }).emit
        (.dma (s.ctx x.ctx).pasid (fld x.credit.toNat 3 61 * 8) (toBytes 8 0))) 0 0 := by
  intro x
  have hqueue : (issued s acc v).queue (mgmtOf s acc v).idx = x := rfl
  have hctx : (issued s acc v).ctx x.ctx = s.ctx x.ctx := rfl
  have hlimits : (issued s acc v).queueRoom x = true := hroom
  unfold State.opQEnable State.zeroCredit
  simp only [hqueue, hctx, hlimits, if_neg (Nat.not_le.2 hi), show x.st = 0 from h, show x.cfgOk = true from hcfg,
    show (s.ctx x.ctx).valid = true from hv, bne_self_eq_false, Bool.not_true, Bool.or_self, Bool.false_eq_true, if_false]
  rw [State.setQueue_queue]
  exact mboxEnd_eq_done _ _ _ _ (by rw [State.emit_hif]; rfl)

theorem opQResume_eq : (issued s acc v).opQResume (mgmtOf s acc v)
    = if (s.queue (mgmtOf s acc v).idx).st = 3 ∧ (s.queue (mgmtOf s acc v).idx).byCmd = true
          ∧ (s.ctx (s.queue (mgmtOf s acc v).idx).ctx).st = 0
      then done (mgmtOf s acc v) ((issued s acc v).setQueue (mgmtOf s acc v).idx
        { s.queue (mgmtOf s acc v).idx with st := 1, byCmd := false }) 0 0
      else done (mgmtOf s acc v) (issued s acc v) 0x12 0 := by
  have hqueue : (issued s acc v).queue (mgmtOf s acc v).idx = s.queue (mgmtOf s acc v).idx := rfl
  have hctx : ∀ c, (issued s acc v).ctx c = s.ctx c := fun _ => rfl
  unfold State.opQResume
  simp only [hqueue, hctx, Bool.and_eq_true, decide_eq_true_eq, and_assoc, issued_mboxEnd]
  split
  · exact mboxEnd_eq_done _ _ _ _ rfl
  · rfl

theorem opQDestroy_eq : (issued s acc v).opQDestroy (mgmtOf s acc v)
    = if (s.queue (mgmtOf s acc v).idx).st = 0 then done (mgmtOf s acc v) (issued s acc v) 0x12 0
      else ((issued s acc v).destroyQueue (mgmtOf s acc v).idx).mboxEnd 0 0 := by
  rw [← issued_mboxEnd]
  rfl

/-! ### Objects (R310 to R312) -/

theorem opObjCreate_busy (h : (s.obj (mgmtOf s acc v).idx).st ≠ 0) :
    (issued s acc v).opObjCreate (mgmtOf s acc v) = done (mgmtOf s acc v) (issued s acc v) 0x12 0 :=
  (if_neg (Nat.not_le.2 (mgmtOf_idx_lt s acc v))).trans ((if_pos (bne_iff_ne.2 h)).trans (issued_mboxEnd s acc v _ _))

/-- OBJ_CREATE of a FREE handle whose arguments are legal makes it VALID. -/
theorem opObjCreate_new {c seg r off len : Nat} (hc : argOf s 0 % 2 ^ 10 = c) (hseg : argOf s 0 / 2 ^ 16 % 16 = seg)
    (hr : argOf s 0 / 2 ^ 24 % 2 ^ 24 = r) (hoff : argOf s 1 = off) (hlen : argOf s 2 = len)
    (h : (s.obj (mgmtOf s acc v).idx).st = 0) (hv : (s.ctx c).valid = true) (hoff64 : off % 64 = 0) (hlen64 : len % 64 = 0)
    (hmin : 64 ≤ len) (hmax : len ≤ 2 ^ 40 - 64) (htop : off < 2 ^ 44)
    (hrank : r = 0xFFFFFF ∨ r < (s.bunchOf (s.ctx c).bunch).map.length) (hok : segValid (tget 0 (s.ctx c).segs seg) = true)
    (hin : off + len ≤ segSize (tget 0 (s.ctx c).segs seg)) :
    (issued s acc v).opObjCreate (mgmtOf s acc v) = done (mgmtOf s acc v) ((issued s acc v).setObj (mgmtOf s acc v).idx
      { st := 1, ctx := c, seg := seg, off := off, rank := r, len := len }) 0 0 := by
  have hobj : ((issued s acc v).obj (mgmtOf s acc v).idx).st = 0 := h
  have hctx : (issued s acc v).ctx c = s.ctx c := rfl
  have hbunch : (issued s acc v).bunchOf (s.ctx c).bunch = s.bunchOf (s.ctx c).bunch := rfl
  have hfc : fld (argOf s 0) 0 10 = c := by rw [fld_zero]; exact hc
  have hfs : fld (argOf s 0) 16 4 = seg := by rw [fld_eq]; exact hseg
  have hfr : fld (argOf s 0) 24 24 = r := by rw [fld_eq]; exact hr
  have hlegal : (!(s.ctx c).valid || off % 64 != 0 || len % 64 != 0 || decide (len < 64) || decide (2 ^ 40 - 64 < len)
      || decide (2 ^ 44 ≤ off) || !(r == 0xFFFFFF || decide (r < (s.bunchOf (s.ctx c).bunch).map.length))) = false := by
    simp only [hv, hoff64, hlen64, Nat.not_lt.2 hmin, Nat.not_lt.2 hmax, Nat.not_le.2 htop, decide_false, bne_self_eq_false,
      Bool.not_true, Bool.or_self, Bool.false_or, Bool.not_eq_false', Bool.or_eq_true, beq_iff_eq, decide_eq_true_eq, hrank]
  unfold State.opObjCreate
  simp only [mgmtOf_arg s acc v (show 0 < 4 by decide), mgmtOf_arg s acc v (show 1 < 4 by decide),
    mgmtOf_arg s acc v (show 2 < 4 by decide), hfc, hfs, hfr, hoff, hlen, hctx, hbunch, hobj, hlegal, hok,
    if_neg (Nat.not_le.2 (mgmtOf_idx_lt s acc v)), if_neg (Nat.not_lt.2 hin), bne_self_eq_false, Bool.not_true,
    Bool.false_eq_true, if_false]
  exact mboxEnd_eq_done _ _ _ _ rfl

theorem opObjFree_eq : (issued s acc v).opObjFree (mgmtOf s acc v)
    = if (s.obj (mgmtOf s acc v).idx).st = 1
      then done (mgmtOf s acc v) ((issued s acc v).setObj (mgmtOf s acc v).idx
        (if (s.obj (mgmtOf s acc v).idx).refs = 0 then {} else { s.obj (mgmtOf s acc v).idx with st := 2 })) 0
        (BitVec.ofNat 32 (s.obj (mgmtOf s acc v).idx).refs)
      else done (mgmtOf s acc v) (issued s acc v) 0x12 0 := by
  have hobj : (issued s acc v).obj (mgmtOf s acc v).idx = s.obj (mgmtOf s acc v).idx := rfl
  unfold State.opObjFree
  simp only [hobj, bne_iff_ne, ite_not, issued_mboxEnd]
  split
  · exact mboxEnd_eq_done _ _ _ _ rfl
  · rfl

theorem opObjDestroy_eq : (issued s acc v).opObjDestroy (mgmtOf s acc v)
    = if (s.obj (mgmtOf s acc v).idx).st = 0 then done (mgmtOf s acc v) (issued s acc v) 0x12 0
      else (((issued s acc v).stopObject (mgmtOf s acc v).idx).setObj (mgmtOf s acc v).idx {}).mboxEnd 0
        (BitVec.ofNat 32 (s.obj (mgmtOf s acc v).idx).refs) := by
  rw [← issued_mboxEnd]
  rfl

end

/-- Settles O23: each mailbox write performs its operation, which its handle's state and arguments decide. -/
theorem queueAndObjectOperations : Obligations.QueueAndObjectOperations := by
  unfold Obligations.QueueAndObjectOperations
  intro s acc v m h i x o
  obtain ⟨henable, hresume, hdestroy, hcreate, hfree, hstop⟩ := exec_queueOps s acc v
  exact ⟨fun hi hlt hst => (henable hi).trans (congrArg _ (opQEnable_busy hlt hst)),
    fun hi hlt hst hcfg hv hroom => (henable hi).trans (congrArg _ (opQEnable_new hlt hst hcfg hv hroom)),
    fun hi => (hresume hi).trans (congrArg _ opQResume_eq), fun hi => (hdestroy hi).trans (congrArg _ opQDestroy_eq),
    fun hi => ⟨fun hst => (hcreate hi).trans (congrArg _ (opObjCreate_busy hst)),
      fun hst hv ho hl hmin hmax htop hr hok hin => (hcreate hi).trans
        (congrArg _ (opObjCreate_new rfl rfl rfl rfl rfl hst hv ho hl hmin hmax htop hr hok hin))⟩,
    fun hi => (hfree hi).trans (congrArg _ opObjFree_eq), fun hi => (hstop hi).trans (congrArg _ opObjDestroy_eq)⟩

end Sys2Proof.Machine
end

section
/-! PROOFS. Fences (R306, R313 to R317, R441): what the evaluation of waiters leaves, the operations of fences, the arrival of a `fence.sig` and
the acknowledgement of a flush. -/

namespace Sys2Proof.Machine

open Sys2Proof.Claims

/-! ### Evaluating waiters leaves every fence (R315) -/

theorem State.msix_fences (s : State) (v : Nat) : (s.msix v).hif.fences = s.hif.fences :=
  (congrArg (fun u => u.hif.fences) (s.msix_unreported v) :)

theorem State.recordIrq_fences (s : State) (q : Nat) (noIrq : Bool) : (s.recordIrq q noIrq).hif.fences = s.hif.fences := by
  let fences := fun u : State => u.hif.fences
  unfold State.recordIrq
  exact ite_part fences rfl (ite_part fences (s.msix_fences _) (ite_part fences
    (ite_part fences (State.msix_fences _ _) rfl) rfl))

section
variable (s : State) (q : Nat) (seq : BitVec 32) (st : BitVec 16) (d : BitVec 32) (flags : BitVec 16)

theorem State.writeRecord_fences (layer op : BitVec 16) (e : BitVec 32) (noIrq : Bool) :
    (s.writeRecord q seq st layer op d flags e noIrq).hif.fences = s.hif.fences := by
  unfold State.writeRecord
  rw [State.recordIrq_fences, State.setQueue_hif_fences, State.emit_hif]
  rfl

theorem State.dropRef_fences (h : Nat) : (s.dropRef h).hif.fences = s.hif.fences := by
  unfold State.dropRef
  exact ite_part (fun u : State => u.hif.fences) rfl rfl

theorem State.endCmd_fences : (s.endCmd q seq st d flags).hif.fences = s.hif.fences := by
  unfold State.endCmd
  split
  · rfl
  · refine (foldl_part (fun u : State => u.hif.fences) _ (fun u h => u.dropRef_fences h) _ _).trans ?_
    exact State.writeRecord_fences _ _ _ _ _ _ _ _ _ _

end

theorem State.endMarkers_fences (q : Nat) : ∀ (n : Nat) (s : State), (State.endMarkers q n s).hif.fences = s.hif.fences
  | 0, _ => rfl
  | n + 1, s => by
    unfold State.endMarkers
    split
    · exact ite_part (fun u : State => u.hif.fences) ((State.endMarkers_fences q n _).trans (s.endCmd_fences _ _ _ _ _)) rfl
    · rfl

theorem State.finishCmd_fences (s : State) (q : Nat) (seq : BitVec 32) (st : BitVec 16) (d : BitVec 32) (flags : BitVec 16) :
    (s.finishCmd q seq st d flags).hif.fences = s.hif.fences := by
  refine (State.endMarkers_fences q _ _).trans ((State.endCmd_fences _ _ _ _ _ _).trans ?_)
  exact ite_part (fun u : State => u.hif.fences) (congrArg HostIf.fences (s.emit_hif _)) rfl

theorem State.evalHostWaits_fences (s : State) (f : Nat) : (s.evalHostWaits f).hif.fences = s.hif.fences := by
  unfold State.evalHostWaits
  refine foldl_part (fun u : State => u.hif.fences) _ (fun u e => ?_) _ _
  refine foldl_part (fun u : State => u.hif.fences) _ (fun w c => ?_) _ _
  refine ite_part (fun u : State => u.hif.fences) ?_ rfl
  split
  · exact w.finishCmd_fences _ _ _ _ _
  · rfl

/-- A core that resumes leaves the host interface (R208). -/
theorem State.retire_hif (s : State) (t n : Nat) : (s.retire t n).hif = s.hif := by
  obtain ⟨v, hv, -, hretire⟩ := s.retire_eq t n
  have hcore : ∀ c, (v.setCore t c).hif = v.hif := fun _ => rfl
  rw [hretire, hcore, State.hif_of_unsampled hv]

theorem State.wakeFence_hif (s : State) (t f : Nat) : (s.wakeFence t f).hif = s.hif := by
  unfold State.wakeFence
  dsimp only
  split
  · refine ite_part State.hif ?_ rfl
    split
    · exact State.retire_hif _ _ _
    · rfl
  · rfl

theorem State.evalWaiters_fence (s : State) (f k : Nat) : (s.evalWaiters f).fence k = s.fence k := by
  have hfences : (s.evalWaiters f).hif.fences = s.hif.fences := by
    unfold State.evalWaiters
    refine (congrArg HostIf.fences (foldl_part State.hif _ (fun u (e : Nat × Tile) => u.wakeFence_hif e.1 f) _ _)).trans ?_
    exact s.evalHostWaits_fences f
  exact (congrArg (tget {} · k) hfences :)

/-! ### The operations of the mailbox (R306, R313, R317) -/

theorem State.mboxRun_fenceOps (s : State) (m : Mgmt) :
    (m.op = 0x30 → s.mboxRun m = s.opFenceCreate m) ∧ (m.op = 0x31 → s.mboxRun m = s.opFenceBind m)
      ∧ (m.op = 0x32 → s.mboxRun m = s.opFenceReset m) ∧ (m.op = 0x33 → s.mboxRun m = s.opFenceDestroy m) := by
  unfold State.mboxRun
  exact ⟨fun h => by rw [h]; rfl, fun h => by rw [h]; rfl, fun h => by rw [h]; rfl, fun h => by rw [h]; rfl⟩

section
variable {s : State} {acc : Acc} {v : Word}

theorem exec_fenceOps : let m := mgmtOf s acc v
    let h := issued s acc v
    (Issues s acc v 0x30 → exec (.fenceCreate acc v) s = .next (h.opFenceCreate m))
      ∧ (Issues s acc v 0x31 → exec (.fenceBind acc v) s = .next (h.opFenceBind m))
      ∧ (Issues s acc v 0x32 → exec (.fenceReset acc v) s = .next (h.opFenceReset m))
      ∧ (Issues s acc v 0x33 → exec (.fenceDestroy acc v) s = .next (h.opFenceDestroy m)) := by
  obtain ⟨hcreate, hbind, hreset, hdestroy⟩ := (issued s acc v).mboxRun_fenceOps (mgmtOf s acc v)
  exact ⟨fun h => by rw [exec_issues (by simp [mailboxRows]) h, hcreate (mgmtOf_op h)],
    fun h => by rw [exec_issues (by simp [mailboxRows]) h, hbind (mgmtOf_op h)],
    fun h => by rw [exec_issues (by simp [mailboxRows]) h, hreset (mgmtOf_op h)],
    fun h => by rw [exec_issues (by simp [mailboxRows]) h, hdestroy (mgmtOf_op h)]⟩

/-- Issuing an operation leaves its fence created. -/
theorem issued_fence_created (hv : (s.fence (mgmtOf s acc v).idx).valid = true) :
    ¬(!((issued s acc v).fence (mgmtOf s acc v).idx).valid) = true := by
  rw [show ((issued s acc v).fence (mgmtOf s acc v).idx).valid = true from hv]
  decide

variable (hf : (mgmtOf s acc v).idx ≤ 65535)
include hf

theorem opFenceCreate_busy (hv : (s.fence (mgmtOf s acc v).idx).valid = true) :
    (issued s acc v).opFenceCreate (mgmtOf s acc v) = done (mgmtOf s acc v) (issued s acc v) 0x12 0 :=
  (if_neg (Nat.not_lt.2 hf)).trans ((if_pos hv).trans (issued_mboxEnd s acc v _ _))

theorem opFenceCreate_new (hv : (s.fence (mgmtOf s acc v).idx).valid = false) (hb : s.bindOk (argOf s 1) = true) :
    (issued s acc v).opFenceCreate (mgmtOf s acc v) = done (mgmtOf s acc v) ((issued s acc v).setFence (mgmtOf s acc v).idx
      { valid := true, val := BitVec.ofNat 32 (argOf s 0), bind := BitVec.ofNat 48 (argOf s 1) }) 0 0 := by
  have hgone : ((issued s acc v).fence (mgmtOf s acc v).idx).valid = false := hv
  have hbind : (issued s acc v).bindOk (argOf s 1) = true := hb
  unfold State.opFenceCreate
  simp only [mgmtOf_arg s acc v (show 0 < 4 by decide), mgmtOf_arg s acc v (show 1 < 4 by decide), hgone, hbind,
    if_neg (Nat.not_lt.2 hf), Bool.not_true, Bool.false_eq_true, if_false]
  exact mboxEnd_eq_done _ _ _ _ rfl

/-- An operation on a fence that is not created answers BUSY. -/
theorem opFence_absent (hv : (s.fence (mgmtOf s acc v).idx).valid = false) :
    (issued s acc v).opFenceBind (mgmtOf s acc v) = done (mgmtOf s acc v) (issued s acc v) 0x12 0
      ∧ (issued s acc v).opFenceReset (mgmtOf s acc v) = done (mgmtOf s acc v) (issued s acc v) 0x12 0
      ∧ (issued s acc v).opFenceDestroy (mgmtOf s acc v) = done (mgmtOf s acc v) (issued s acc v) 0x12 0 := by
  have hgone : (!((issued s acc v).fence (mgmtOf s acc v).idx).valid) = true := by rw [Bool.not_eq_true']; exact hv
  have hend := issued_mboxEnd s acc v stBusy 0
  exact ⟨(if_neg (Nat.not_lt.2 hf)).trans ((if_pos hgone).trans hend), (if_neg (Nat.not_lt.2 hf)).trans ((if_pos hgone).trans hend),
    (if_neg (Nat.not_lt.2 hf)).trans ((if_pos hgone).trans hend)⟩

variable (hv : (s.fence (mgmtOf s acc v).idx).valid = true)
include hv

theorem opFenceBind_eq (hb : s.bindOk (argOf s 1) = true) : (issued s acc v).opFenceBind (mgmtOf s acc v)
    = done (mgmtOf s acc v) ((issued s acc v).setFence (mgmtOf s acc v).idx
        { s.fence (mgmtOf s acc v).idx with bind := BitVec.ofNat 48 (argOf s 1) }) 0 0 := by
  have hvalid := issued_fence_created hv
  have hbind : ¬(!(issued s acc v).bindOk ((mgmtOf s acc v).arg 1)) = true := by
    rw [mgmtOf_arg s acc v (show 1 < 4 by decide), show (issued s acc v).bindOk (argOf s 1) = true from hb]; decide
  refine (if_neg (Nat.not_lt.2 hf)).trans ((if_neg hvalid).trans ((if_neg hbind).trans ?_))
  rw [mgmtOf_arg s acc v (show 1 < 4 by decide)]
  exact mboxEnd_eq_done _ _ _ _ rfl

theorem opFenceReset_eq : (issued s acc v).opFenceReset (mgmtOf s acc v)
    = (((issued s acc v).setFence (mgmtOf s acc v).idx { s.fence (mgmtOf s acc v).idx with
        val := BitVec.ofNat 32 (argOf s 0), err := false, errStatus := 0, stale := 0 }).evalWaiters (mgmtOf s acc v).idx).mboxEnd 0 0 := by
  refine (if_neg (Nat.not_lt.2 hf)).trans ((if_neg (issued_fence_created hv)).trans ?_)
  rw [mgmtOf_arg s acc v (show 0 < 4 by decide)]
  rfl

/-- Without a resident context there is no tile to flush. -/
theorem opFenceDestroy_unflushed (ht : s.flushTiles (mgmtOf s acc v).idx = []) :
    let f := (mgmtOf s acc v).idx
    (issued s acc v).opFenceDestroy (mgmtOf s acc v) = ((((((issued s acc v).setFence f { s.fence f with valid := false }).orphanFence
      f).evalWaiters f).setFence f {}).mboxEnd 0 0) := by
  intro f
  have hnone : ((issued s acc v).flushTiles f).isEmpty = true := List.isEmpty_iff.2 ht
  exact (if_neg (Nat.not_lt.2 hf)).trans ((if_neg (issued_fence_created hv)).trans (if_pos hnone))

end

/-! ### The arrival of a signal, and a flush (R314, R317, R441) -/

section
variable {s : State} {t f : Nat} {x : Nat × BitVec 32 × Nat}

theorem exec_fenceSignalArrival (h : (s.tile t).core.sigs.find? (fun e => e.1 == f) = some x) (agree : Bool) :
    exec (.fenceSignalArrival t f agree) s
      = .next ((s.setCore t { (s.tile t).core with sigs := (s.tile t).core.sigs.erase x }).sigArrives x.2.2 f x.2.1 agree) := by
  change execFenceSignalArrival t f agree s = _
  unfold execFenceSignalArrival
  simp only [h]

variable {c : Nat} {v : BitVec 32}

theorem State.sigArrives_gone (h : (s.fence f).valid = false) (agree : Bool) : s.sigArrives c f v agree
    = { s with hif := { s.hif with fenceDisc := min 0xFFFF (s.hif.fenceDisc + 1) } } := if_pos (by rw [h]; rfl)

theorem State.sigArrives_agreed (h : (s.fence f).valid = true) :
    s.sigArrives c f v true = (s.setFence f ((s.fence f).signal v).1).evalWaiters f :=
  (if_neg (by rw [h]; decide)).trans (if_pos rfl)

/-- A flag raised, or standing already, leaves the value. -/
theorem State.flagFence_fence (s : State) (f : Nat) (st : BitVec 16) :
    ((s.flagFence f st).fence f).err = true ∧ ((s.flagFence f st).fence f).val = (s.fence f).val := by
  cases he : (s.fence f).err with
  | true => rw [State.flagFence_flagged he]; exact ⟨he, rfl⟩
  | false => rw [State.flagFence_unflagged he, State.setFence_fence]; exact ⟨rfl, rfl⟩

/-- A safety fault that is raised stands among those that the Stone island has (R443). -/
theorem State.raiseSafety_mem (s : State) (row : Nat) (src : BitVec 32) (ctxs : List Nat) (d : BitVec 64) :
    ∃ e ∈ (s.raiseSafety row src ctxs d).stone.faults, e.row = row ∧ e.src = src ∧ e.detail = d ∧ e.ctxs = ctxs :=
  ⟨_, List.mem_append_right _ (List.mem_singleton_self _), rfl, rfl, rfl, rfl⟩

/-- Two copies that disagree raise the flag and FENCE_CHECK. -/
theorem State.sigArrives_disagreed (h : (s.fence f).valid = true) :
    let u := s.sigArrives c f v false
    (u.fence f).err = true ∧ (u.fence f).val = (s.fence f).val
      ∧ ∃ e ∈ u.stone.faults, e.row = 14 ∧ e.src = srcId 5 0x1000 ∧ e.detail = BitVec.ofNat 64 f ∧ c ∈ e.ctxs := by
  intro u
  have hu : u = ((s.flagFence f 8).evalWaiters f).raiseSafety 14 (srcId 5 0x1000) ((s.fence f).bound ++ [c]) (BitVec.ofNat 64 f) :=
    (if_neg (by rw [h]; decide)).trans (if_neg Bool.false_ne_true)
  have hfence : u.fence f = (s.flagFence f 8).fence f := by
    rw [hu]
    exact State.evalWaiters_fence _ f f
  obtain ⟨herr, hval⟩ := s.flagFence_fence f 8
  obtain ⟨e, hmem, hrow, hsrc, hdetail, hctxs⟩ := ((s.flagFence f 8).evalWaiters f).raiseSafety_mem 14 (srcId 5 0x1000)
    ((s.fence f).bound ++ [c]) (BitVec.ofNat 64 f)
  rw [hfence]
  refine ⟨herr, hval, e, hu ▸ hmem, hrow, hsrc, hdetail, ?_⟩
  rw [hctxs]
  exact List.mem_append_right _ (List.mem_singleton_self _)

end

theorem exec_fenceFlushAck {s : State} {f t : Nat} {ts : List Nat} (hfl : (s.fence f).flush = some ts) (ht : t ∈ ts)
    (hsigs : ∀ e ∈ (s.tile t).core.sigs, e.1 ≠ f) : exec (.fenceFlushAck f t) s
      = .next (if ts.filter (· != t) = [] then (s.setFence f {}).mboxEnd 0 0
          else s.setFence f { s.fence f with flush := some (ts.filter (· != t)) }) := by
  have hgo : (ts.contains t && !(s.tile t).core.sigs.any (fun e => e.1 == f)) = true := by simpa [ht] using hsigs
  change execFenceFlushAck f t s = _
  unfold execFenceFlushAck
  simp only [hfl, hgo, if_true, List.isEmpty_iff]
  exact (apply_ite Host.Outcome.next _ _ _).symm

/-- Settles O24: the operations by their fence's state, an arrival by whether its fence stands and its copies agree. -/
theorem fenceOperations : Obligations.FenceOperations := by
  unfold Obligations.FenceOperations
  refine fun s => ⟨fun acc v => ?_, fun t f x agree hx => ?_, fun f t ts hfl ht hsigs => exec_fenceFlushAck hfl ht hsigs⟩
  · intro m h f hf
    obtain ⟨hcreate, hbind, hreset, hdestroy⟩ := exec_fenceOps (s := s) (acc := acc) (v := v)
    refine ⟨fun hi hv => (hcreate hi).trans (congrArg _ (opFenceCreate_busy hf hv)),
      fun hi hv hb => (hcreate hi).trans (congrArg _ (opFenceCreate_new hf hv hb)),
      fun hi hv hb => (hbind hi).trans (congrArg _ (opFenceBind_eq hf hv hb)),
      fun hi hv => (hreset hi).trans (congrArg _ (opFenceReset_eq hf hv)), fun i op hop hi hv => ?_,
      fun hi hv ht => (hdestroy hi).trans (congrArg _ (opFenceDestroy_unflushed hf hv ht))⟩
    obtain ⟨hnobind, hnoreset, hnodestroy⟩ := opFence_absent hf hv
    simp only [List.mem_cons, Prod.mk.injEq, List.not_mem_nil, or_false] at hop
    rcases hop with ⟨rfl, rfl⟩ | ⟨rfl, rfl⟩ | ⟨rfl, rfl⟩
    · exact (hbind hi).trans (congrArg _ hnobind)
    · exact (hreset hi).trans (congrArg _ hnoreset)
    · exact (hdestroy hi).trans (congrArg _ hnodestroy)
  · intro w d
    have hexec := exec_fenceSignalArrival hx agree
    refine ⟨fun hv => hexec.trans (congrArg _ (State.sigArrives_gone (s := w) hv agree)), fun hv ha => ?_, fun hv ha => ?_⟩
    · subst ha
      refine hexec.trans (congrArg _ ((State.sigArrives_agreed (s := w) hv).trans ?_))
      exact congrArg (fun y : Fence => (w.setFence f y).evalWaiters f) (congrArg Prod.fst (Fence.signal_eq (s.fence f) x.2.1))
    · subst ha
      exact ⟨_, hexec, State.sigArrives_disagreed (s := w) hv⟩

end Sys2Proof.Machine
end

section
/-! PROOFS. FREEZE, THAW, HALT and RESUME (R323, R343 to R347): how each is answered, and what HALT leaves of the control cores and of
the bunch records. -/

namespace Sys2Proof.Machine

open Sys2Proof.Claims

/-! ### Control cores that halt (R346, R347) -/

/-- What the watchdog of a kernel has left at a pacer count: what it kept when it stopped, else its budget from its start on. -/
def Run.remaining (r : Run) (now : Word) : Word := r.left.getD (r.start + BitVec.ofNat 64 (2 * r.launch.budget.toNat) - now)

/-- A control core with a kernel, halted where it is. -/
def Core.haltedAt (c : Core) (now : Word) : Core :=
  match c.run with
  | none => c
  | some r => { c with halted := true, run := some { r with left := some (r.remaining now) } }

theorem Core.haltedAt_idle {c : Core} (h : c.run = none) (now : Word) : c.haltedAt now = c := by rw [Core.haltedAt, h]

theorem Core.haltedAt_running {c : Core} {r : Run} (h : c.run = some r) (now : Word) :
    c.haltedAt now = { c with halted := true, run := some { r with left := some (r.remaining now) } } := by rw [Core.haltedAt, h]

/-- A core that has stopped keeps what it had left. -/
theorem Core.haltedAt_haltedAt (c : Core) (now : Word) : (c.haltedAt now).haltedAt now = c.haltedAt now := by
  cases h : c.run with
  | none => rw [Core.haltedAt_idle h, Core.haltedAt_idle h]
  | some r =>
    rw [Core.haltedAt_running h, Core.haltedAt_running rfl]
    rfl

theorem State.haltTile_cases (s : State) (t : Nat) :
    s.haltTile t = s ∧ (s.tile t).core.haltedAt (s.pacer t) = (s.tile t).core
      ∨ s.haltTile t = s.setCore t ((s.tile t).core.haltedAt (s.pacer t)) := by
  unfold State.haltTile
  dsimp only
  cases h : (s.tile t).core.run with
  | none => exact .inl ⟨rfl, Core.haltedAt_idle h _⟩
  | some r =>
    refine .inr ?_
    rw [Core.haltedAt_running h, Run.remaining]
    dsimp only
    cases r.left <;> rfl

theorem State.haltTile_untiled (s : State) (t : Nat) : { s.haltTile t with tiles := [] } = { s with tiles := [] } := by
  rcases s.haltTile_cases t with ⟨h, -⟩ | h <;> rw [h]
  rfl

/-- A tile as its bunch's HALT leaves it. -/
def State.haltedTile (s : State) (k : Nat) : Tile := { s.tile k with core := (s.tile k).core.haltedAt (s.pacer k) }

theorem State.haltTile_tile (s : State) (t k : Nat) : (s.haltTile t).tile k = if k = t then s.haltedTile k else s.tile k := by
  by_cases hk : k = t
  · subst hk
    rw [if_pos rfl, State.haltedTile]
    rcases s.haltTile_cases k with ⟨h, hc⟩ | h
    · rw [h, hc]
    · rw [h, State.setCore, State.setTile_tile]
  · rw [if_neg hk]
    rcases s.haltTile_cases t with ⟨h, -⟩ | h
    · rw [h]
    · rw [h, State.setCore, State.setTile_tile_ne _ _ _ _ hk]

/-- Halting changes no pacer, and halting a tile again changes nothing. -/
theorem State.haltTile_haltedTile (s : State) (t k : Nat) : (s.haltTile t).haltedTile k = s.haltedTile k := by
  have htime : (s.haltTile t).time = s.time := (congrArg State.time (s.haltTile_untiled t) :)
  rw [State.haltedTile, State.pacer, htime, State.haltTile_tile]
  by_cases hk : k = t
  · rw [if_pos hk]
    unfold State.haltedTile State.pacer
    dsimp only
    rw [Core.haltedAt_haltedAt]
  · rw [if_neg hk]
    rfl

/-- The tiles of a list of leaves halt, and no other tile. -/
theorem State.haltTiles_tile (k : Nat) : ∀ (l : List (Nat × Nat)) (s : State),
    (l.foldl (fun s p => s.haltTile p.2) s).tile k = if k ∈ l.map Prod.snd then s.haltedTile k else s.tile k
  | [], s => (if_neg (List.not_mem_nil)).symm
  | p :: l, s => by
    rw [List.foldl_cons, State.haltTiles_tile k l, State.haltTile_haltedTile, State.haltTile_tile]
    by_cases hk : k = p.2
    · simp [hk]
    · simp only [List.map_cons, List.mem_cons, hk, false_or, if_false]

theorem State.haltTiles_untiled (l : List (Nat × Nat)) (s : State) :
    { l.foldl (fun s p => s.haltTile p.2) s with tiles := [] } = { s with tiles := [] } :=
  foldl_part (fun u : State => { u with tiles := [] }) _ (fun s p => s.haltTile_untiled p.2) l s

/-! ### Bunch records that stay in use (R322) -/

/-- An update keeps a record in use, under its identifier. -/
def KeepsUse (f : Bunch → Bunch) : Prop := ∀ x, x.st ≠ 0 → (f x).st ≠ 0 ∧ (f x).id = x.id

section
variable {f : Bunch → Bunch} (hf : KeepsUse f)
include hf

theorem State.updBunch_findBunch (s : State) (a b : BitVec 32) : (s.updBunch a f).findBunch b = s.findBunch b := by
  cases h : s.findBunch a with
  | none => rw [State.updBunch, h]
  | some i =>
    obtain ⟨hst, hid⟩ := hf _ (State.findBunch_some h).1
    rw [State.updBunch_of_find h, State.findBunch_setBunch_used (State.findBunch_some h).1 hst hid]

theorem State.updBunch_bunchOf {s : State} (a : BitVec 32) {b : BitVec 32} (h : (s.findBunch b).isSome = true) :
    (s.updBunch a f).bunchOf b = if b = a then f (s.bunchOf b) else s.bunchOf b := by
  obtain ⟨i, hi⟩ := Option.isSome_iff_exists.1 h
  rw [State.bunchOf_of_find ((s.updBunch_findBunch hf a b).trans hi), State.updBunch_bunch, State.bunchOf_of_find hi]
  refine if_congr ⟨fun ha => ?_, fun e => e ▸ hi⟩ rfl rfl
  exact (State.findBunch_some hi).2.symm.trans (State.findBunch_some ha).2

/-- Updates that are the same when made again, of a list of bunches: each bunch of the list has its own. -/
theorem State.updBunches_bunchOf (hff : ∀ x, f (f x) = f x) {b : BitVec 32} : ∀ (l : List (BitVec 32)) (s : State),
    (s.findBunch b).isSome = true → ((l.foldl (fun s i => s.updBunch i f) s).findBunch b).isSome = true
      ∧ (l.foldl (fun s i => s.updBunch i f) s).bunchOf b = if b ∈ l then f (s.bunchOf b) else s.bunchOf b
  | [], s, h => ⟨h, (if_neg (List.not_mem_nil)).symm⟩
  | a :: l, s, h => by
    obtain ⟨h1, h2⟩ := State.updBunches_bunchOf hff l (s.updBunch a f) (by rwa [State.updBunch_findBunch hf])
    refine ⟨h1, h2.trans ?_⟩
    rw [State.updBunch_bunchOf hf a h]
    by_cases hb : b = a
    · simp [hb, hff]
    · simp [hb]

end

/-! ### The records of a HALTED bunch (R323, R346) -/

/-- A known bunch is among those nested in it. -/
theorem State.mem_nestedDeep {s : State} {b : BitVec 32} (hb : b ≠ 0) (h : (s.findBunch b).isSome = true) : b ∈ s.nestedDeep b := by
  obtain ⟨i, hi⟩ := Option.isSome_iff_exists.1 h
  obtain ⟨hst, hid⟩ := State.findBunch_some hi
  unfold State.nestedDeep
  rw [List.mem_mergeSort]
  exact List.mem_map.2 ⟨_, List.mem_filter.2 ⟨State.findBunch_mem hi, by rw [hid, s.nestedIn_self hb, bne_iff_ne.2 hst]; rfl⟩, hid⟩

/-- A bunch that is neither FORMING nor DISSOLVING is HALTED with the bunch that holds it, and an ancestor's halt leaves it so. -/
theorem State.halted_bunchOf {s : State} {b : BitVec 32} (hb : b ≠ 0) (h : (s.findBunch b).isSome = true)
    (h1 : (s.bunchOf b).st ≠ 1) (h6 : (s.bunchOf b).st ≠ 6) : (((s.haltNested b).haltUp b).bunchOf b).st = 5 := by
  obtain ⟨hn, hnb⟩ := State.updBunches_bunchOf (f := fun x => { x with halts := true, st := if x.st = 1 || x.st = 6 then x.st else 5 })
    (fun x hx => ⟨by dsimp only; split <;> simp [hx], rfl⟩) (fun x => by dsimp only; split <;> simp_all) (s.nestedDeep b) s h
  rw [if_pos (State.mem_nestedDeep hb h)] at hnb
  have h5 : ((s.haltNested b).bunchOf b).st = 5 := (congrArg Bunch.st hnb).trans (if_neg (by simp [h1, h6]))
  obtain ⟨-, hub⟩ := State.updBunches_bunchOf (f := fun x => { x with st := if x.st = 2 || x.st = 3 then 5 else x.st })
    (fun x hx => ⟨by dsimp only; split <;> simp [hx], rfl⟩) (fun x => by dsimp only; split <;> simp_all)
    (((s.haltNested b).ancestors 257 b).drop 1) (s.haltNested b) hn
  refine (congrArg Bunch.st hub).trans ?_
  rw [apply_ite Bunch.st]
  simp only [h5]
  simp

theorem State.haltUp_haltNested_uncomp (s : State) (b : BitVec 32) : ((s.haltNested b).haltUp b).uncomp = s.uncomp := by
  refine (foldl_part State.uncomp _ (fun s a => s.updBunch_uncomp a _) _ _).trans ?_
  exact foldl_part State.uncomp _ (fun s a => s.updBunch_uncomp a _) _ _

/-- The state after a HALT of a bunch. -/
def State.haltBunch (s : State) (b : BitVec 32) : State :=
  let u := (s.bunchOf b).localLeaves.foldl (fun s p => s.haltTile p.2) s
  (u.haltNested b).haltUp b

/-- HALT changes tiles and bunch records alone. -/
theorem State.haltBunch_rest (s : State) (b : BitVec 32) :
    { s.haltBunch b with tiles := [], comp := {} } = { s with tiles := [], comp := {} } := by
  refine (congrArg (fun u : State => { u with tiles := [] }) (State.haltUp_haltNested_uncomp _ b) :).trans ?_
  exact (congrArg (fun u : State => { u with comp := {} }) (State.haltTiles_untiled _ s) :)

theorem State.haltBunch_bunchOf {s : State} {b : BitVec 32} (hb : b ≠ 0) (h : (s.findBunch b).isSome = true)
    (h1 : (s.bunchOf b).st ≠ 1) (h6 : (s.bunchOf b).st ≠ 6) : ((s.haltBunch b).bunchOf b).st = 5 := by
  have hcomp : ((s.bunchOf b).localLeaves.foldl (fun s p => s.haltTile p.2) s).comp = s.comp :=
    (congrArg State.comp (State.haltTiles_untiled _ s) :)
  have hof := State.bunchOf_of_bunches (congrArg Compose.bunches hcomp) b
  exact State.halted_bunchOf hb (by rwa [State.findBunch_congr hcomp]) (by rwa [hof]) (by rwa [hof])

/-- A leaf of a HALTED bunch that runs a kernel stops where it is (R346, R347). -/
theorem State.haltBunch_leaf {s : State} {b : BitVec 32} {p : Nat × Nat} (hp : p ∈ (s.bunchOf b).localLeaves) :
    (s.haltBunch b).tile p.2 = s.haltedTile p.2 := by
  have hun := State.haltUp_haltNested_uncomp ((s.bunchOf b).localLeaves.foldl (fun s p => s.haltTile p.2) s) b
  refine (congrArg (State.tile · p.2) hun :).trans ?_
  exact (State.haltTiles_tile p.2 _ s).trans (if_pos (List.mem_map_of_mem hp))

/-- The kernel of such a leaf, as it was but stopped, with what its watchdog has left. -/
theorem State.haltedTile_running {s : State} {k : Nat} {r : Run} (h : (s.tile k).core.run = some r) :
    (s.haltedTile k).core = { (s.tile k).core with halted := true, run := some { r with left := some (r.remaining (s.pacer k)) } } :=
  Core.haltedAt_running h _

/-! ### How the commands are answered (R343 to R347, R431) -/

section
variable {s : State} {f : Frame} (hm : s.mgmtOpen = true) (hf : s.frameOk f = true) {b : BitVec 32}
include hm hf

/-- An unknown bunch has no state to change. -/
theorem answers_stops_unknown (h : (s.takeFrame f).findBunch b = none) : let w := s.takeFrame f
    Answers (.freeze f b) s f w 0x14 ∧ Answers (.thaw f b) s f w 0x14 ∧ Answers (.halt f b) s f w 0x14
      ∧ Answers (.resume f b) s f w 0x14 ∧ Answers (.bunchReset f b) s f w 0x14 := by
  intro w
  have hnone : (w.findBunch b).isNone = true := by rw [show w.findBunch b = none from h]; rfl
  exact ⟨answers_framed hm hf (show execFreeze f b s = _ from rfl) (if_pos (by rw [hnone, Bool.true_or])),
    answers_framed hm hf (show execThaw f b s = _ from rfl) (if_pos (by rw [hnone, Bool.true_or])),
    answers_framed hm hf (show execHalt f b s = _ from rfl) (if_pos hnone),
    answers_framed hm hf (show execResume f b s = _ from rfl) (if_pos hnone),
    answers_framed hm hf (show execBunchReset f b s = _ from rfl) (if_pos hnone)⟩

/-- FREEZE and THAW are of a root (R343, R345). -/
theorem answers_freeze_nested (hp : ((s.takeFrame f).bunchOf b).parent ≠ 0) :
    Answers (.freeze f b) s f (s.takeFrame f) 0x14 ∧ Answers (.thaw f b) s f (s.takeFrame f) 0x14 := by
  have hbad : (((s.takeFrame f).findBunch b).isNone || ((s.takeFrame f).bunchOf b).parent != 0) = true := by
    rw [bne_iff_ne.2 hp, Bool.or_true]
  exact ⟨answers_framed hm hf (show execFreeze f b s = _ from rfl) (if_pos hbad),
    answers_framed hm hf (show execThaw f b s = _ from rfl) (if_pos hbad)⟩

section
variable (h : ((s.takeFrame f).findBunch b).isSome = true)
include h

section
variable (hp : ((s.takeFrame f).bunchOf b).parent = 0)
include hp

/-- FREEZE of a root: one that is FROZEN or on its way stays, one out of service is BUSY, one in a graft waits for it (R343, R344). -/
theorem answers_freeze : let w := s.takeFrame f
    let x := w.bunchOf b
    (x.st = 4 ∨ x.freezing.isSome = true → Answers (.freeze f b) s f w 0)
    ∧ (x.freezing = none → x.st = 1 ∨ 5 ≤ x.st → Answers (.freeze f b) s f w 0x12)
    ∧ (x.freezing = none → x.st = 2 ∨ x.st = 3 →
      ((∃ g ∈ w.comp.grafts, ∃ k ∈ w.graftBunches g, w.nestedIn k b = true) →
        Answers (.freeze f b) s f (w.updBunch b (fun x => { x with wantFreeze := true })) 0)
      ∧ ((∀ g ∈ w.comp.grafts, ∀ k ∈ w.graftBunches g, w.nestedIn k b = false) →
        Answers (.freeze f b) s f (w.beginFreeze b) 0)) := by
  intro w x
  have hroot : ¬ ((w.findBunch b).isNone || x.parent != 0) = true := by
    rw [Option.isNone_eq_false_iff.2 h, show x.parent = 0 from hp]
    decide
  have stays : ∀ {t : State} {st : BitVec 16}, (if x.st = 4 || x.freezing.isSome then Reply.ok w
      else if x.st = 1 || 5 ≤ x.st then .fail w 0x12
      else if w.comp.grafts.any (fun g => (w.graftBunches g).any (fun k => w.nestedIn k b)) then
        .ok (w.updBunch b (fun x => { x with wantFreeze := true }))
      else .ok (w.beginFreeze b)) = { s := t, status := st } → Answers (.freeze f b) s f t st :=
    fun hk => answers_framed hm hf (show execFreeze f b s = _ from rfl) ((if_neg hroot).trans hk)
  refine ⟨fun hst => stays (if_pos (by simpa using hst)), fun hfr hst => stays ?_, fun hfr hst => ?_⟩
  · exact (if_neg (by rw [hfr]; simpa using by omega)).trans (if_pos (by simpa using hst))
  · have hgo : ¬ (x.st = 4 || x.freezing.isSome) = true := by rw [hfr]; simpa using by omega
    have hsvc : ¬ (x.st = 1 || 5 ≤ x.st) = true := by simpa using by omega
    exact ⟨fun hg => stays ((if_neg hgo).trans ((if_neg hsvc).trans (if_pos (by simpa using hg)))),
      fun hg => stays ((if_neg hgo).trans ((if_neg hsvc).trans (if_neg (by simpa using hg))))⟩

/-- THAW of a root that is FROZEN, and of one that is not (R345). -/
theorem answers_thaw : let w := s.takeFrame f
    ((w.bunchOf b).st ≠ 4 → Answers (.thaw f b) s f w 0x12)
    ∧ ((w.bunchOf b).st = 4 → Answers (.thaw f b) s f
        ((((w.nestedDeep b).foldl (fun u i => u.deliverAll i) (w.liveNested b).revote).holdOverdue b).dispatchBunch b) 0) := by
  intro w
  have hroot : ¬ ((w.findBunch b).isNone || (w.bunchOf b).parent != 0) = true := by
    rw [Option.isNone_eq_false_iff.2 h, show (w.bunchOf b).parent = 0 from hp]
    decide
  exact ⟨fun hst => answers_framed hm hf (show execThaw f b s = _ from rfl) ((if_neg hroot).trans (if_pos (by simpa using hst))),
    fun hst => answers_framed hm hf (show execThaw f b s = _ from rfl) ((if_neg hroot).trans (if_neg (by simpa using hst)))⟩

end

/-- HALT of a bunch that is confidential, FORMING, FROZEN or DISSOLVING, and of one that may halt (R346, R480). -/
theorem answers_halt : let w := s.takeFrame f
    let x := w.bunchOf b
    (x.conf = true ∨ x.st = 1 ∨ x.st = 4 ∨ x.st = 6 → Answers (.halt f b) s f w 0x12)
    ∧ (x.conf = false → x.st ≠ 1 → x.st ≠ 4 → x.st ≠ 6 →
        (∀ a ∈ w.ancestors 257 b, (w.bunchOf a).freezing = none ∧ (w.bunchOf a).wantFreeze = false) →
        Answers (.halt f b) s f (w.haltBunch b) 0) := by
  intro w x
  have hknown : ¬ (w.findBunch b).isNone = true := by
    rw [Option.isNone_eq_false_iff.2 h]
    exact Bool.false_ne_true
  refine ⟨fun hbad => ?_, fun hc h1 h4 h6 hanc => ?_⟩ <;> refine answers_framed hm hf (show execHalt f b s = _ from rfl) ?_
  · have hb : (x.conf || x.st = 1 || x.st = 4 || x.st = 6) = true := by simpa [or_assoc] using hbad
    exact (if_neg hknown).trans (if_pos (Bool.or_eq_true_iff.2 (.inl hb)))
  · refine (if_neg hknown).trans (if_neg ?_)
    have hb : (x.conf || x.st = 1 || x.st = 4 || x.st = 6) = false := by simp [hc, h1, h4, h6]
    rw [Bool.not_eq_true, Bool.or_eq_false_iff]
    exact ⟨hb, List.any_eq_false.2 fun a ha => by simpa using hanc a ha⟩

/-- RESUME of a bunch that is HALTED, and of one that is not (R347). -/
theorem answers_resume : let w := s.takeFrame f
    ((w.bunchOf b).st ≠ 5 → Answers (.resume f b) s f w 0x12)
    ∧ ((w.bunchOf b).st = 5 → let v := (w.liveNested b).resumeUp b
      Answers (.resume f b) s f (((((v.bunchOf b).localLeaves.foldl (fun s p => s.resumeTile p.2) v)).holdOverdue b).dispatchBunch b) 0) := by
  intro w
  have hknown : ¬ (w.findBunch b).isNone = true := by
    rw [Option.isNone_eq_false_iff.2 h]
    exact Bool.false_ne_true
  exact ⟨fun hst => answers_framed hm hf (show execResume f b s = _ from rfl) ((if_neg hknown).trans (if_pos (by simpa using hst))),
    fun hst => answers_framed hm hf (show execResume f b s = _ from rfl) ((if_neg hknown).trans (if_neg (by simpa using hst)))⟩

/-- A reset of a known bunch (R431). -/
theorem answers_bunchReset : Answers (.bunchReset f b) s f ((s.takeFrame f).resetBunch b).changed 0 :=
  answers_framed hm hf (show execBunchReset f b s = _ from rfl)
    (if_neg (by rw [Option.isNone_eq_false_iff.2 h]; exact Bool.false_ne_true))

end

end

/-- Settles O45: each command's own equation, and HALT by its leaves and its records. -/
theorem freezeAndHalt : Obligations.FreezeAndHalt := by
  unfold Obligations.FreezeAndHalt
  intro s f b hm hf w x
  refine ⟨answers_stops_unknown hm hf, fun h => ⟨answers_freeze_nested hm hf, fun hp => ?_, (answers_halt hm hf h).1,
    fun hc h1 h4 h6 hanc => ?_, (answers_resume hm hf h).1, (answers_resume hm hf h).2, answers_bunchReset hm hf h⟩⟩
  · obtain ⟨hstays, hbusy, hbegins⟩ := answers_freeze hm hf h hp
    obtain ⟨hwarm, hthaw⟩ := answers_thaw hm hf h hp
    exact ⟨hstays, hbusy, hbegins, hwarm, fun h4 => ⟨hthaw h4, fun _ _ => rfl⟩⟩
  · have hrest := w.haltBunch_rest b
    refine ⟨w.haltBunch b, (answers_halt hm hf h).2 hc h1 h4 h6 hanc, fun hb => State.haltBunch_bunchOf hb h h1 h6,
      (congrArg State.mem hrest :), (congrArg State.hif hrest :), fun p hp r hr => ?_⟩
    rw [State.haltBunch_leaf hp, State.haltedTile_running hr]
    exact ⟨rfl, rfl, rfl, rfl, _, rfl, rfl⟩

end Sys2Proof.Machine
end

section
/-! PROOFS. The Stone island's state is that of its own commands (R442 to R462): every other operation that a reaction sets off, the stop of
contexts and the loss of an island among them, can add reported faults to it and changes nothing else. The lemmas stand in the order of the
operations' definitions. -/

namespace Sys2Proof.Machine

/-- The Stone island's state without the faults that have been reported to it. -/
def Stone.unfaulted (x : Stone) : Stone := { x with faults := [] }

/-- Two states have the same Stone island, but for reported faults. -/
@[simp, reducible] def State.SameStone (s u : State) : Prop := u.stone.unfaulted = s.stone.unfaulted

theorem State.SameStone.refl (s : State) : s.SameStone s := rfl

theorem State.SameStone.trans {s u v : State} (h : s.SameStone u) (g : u.SameStone v) : s.SameStone v := Eq.trans g h

@[simp] theorem foldl_unfaulted {α : Type} {f : State → α → State} (h : ∀ s a, (f s a).stone.unfaulted = s.stone.unfaulted) (l : List α)
    (s : State) : (l.foldl f s).stone.unfaulted = s.stone.unfaulted := foldl_part (fun s : State => s.stone.unfaulted) f h l s

@[simp] theorem ite_unfaulted (c : Prop) [Decidable c] (s u : State) : (if c then s else u).stone.unfaulted
    = if c then s.stone.unfaulted else u.stone.unfaulted := apply_ite (fun s : State => s.stone.unfaulted) c s u

/-- The state in a pair that an operation answers. -/
theorem unfaulted_of_fst {β : Type} {p : State × β} {s u : State} {b : β} (h : p = (u, b)) (hp : s.SameStone p.1) :
    s.SameStone u := by
  subst h; exact hp

/-! ### Machine/Ops -/

@[simp] theorem State.setTile_unfaulted (s : State) (t : Nat) (x : Tile) : s.SameStone (s.setTile t x) := by simp [State.setTile]

@[simp] theorem State.setCore_unfaulted (s : State) (t : Nat) (c : Core) : s.SameStone (s.setCore t c) := by simp [State.setCore]

@[simp] theorem State.updBunch_unfaulted (s : State) (id : BitVec 32) (f : Bunch → Bunch) : s.SameStone (s.updBunch id f) := by
  unfold State.updBunch
  split <;> simp

@[simp] theorem State.draw_unfaulted (s : State) (w : Nat) : s.SameStone (s.draw w).2 := by simp [State.draw]

@[simp] theorem State.nextSeq_unfaulted (s : State) (src : BitVec 32) : s.SameStone (s.nextSeq src).2 := by simp [State.nextSeq]

@[simp] theorem State.msix_unfaulted (s : State) (v : Nat) : s.SameStone (s.msix v) := by simp [State.msix]

@[simp] theorem State.sendEvents_unfaulted (s : State) (body : List Byte) : s.SameStone (s.sendEvents body) := by
  simp [State.sendEvents]

@[simp] theorem State.faultAt_unfaulted (s : State) (pac : Word) (src : BitVec 32) (code : BitVec 16) (ctx : Option Nat)
    (safety : Bool) (detail : BitVec 64) :
    s.SameStone (s.faultAt pac src code ctx safety detail) := by
  simp [State.faultAt]

@[simp] theorem State.fault_unfaulted (s : State) (src : BitVec 32) (code : BitVec 16) (ctx : Option Nat) (safety : Bool)
    (detail : BitVec 64) :
    s.SameStone (s.fault src code ctx safety detail) := by
  simp [State.fault]

@[simp] theorem State.raiseSafety_unfaulted (s : State) (row : Nat) (src : BitVec 32) (ctxs : List Nat) (detail : BitVec 64) :
    s.SameStone (s.raiseSafety row src ctxs detail) := rfl

@[simp] theorem State.count_unfaulted (s : State) (g i k : Nat) : s.SameStone (s.count g i k) := by simp [State.count]

@[simp] theorem State.recordIrq_unfaulted (s : State) (q : Nat) (noIrq : Bool) : s.SameStone (s.recordIrq q noIrq) := by
  simp [State.recordIrq]

@[simp] theorem State.writeRecord_unfaulted (s : State) (q : Nat) (seq : BitVec 32) (status layer op : BitVec 16)
    (detail : BitVec 32) (flags : BitVec 16) (energy : BitVec 32) (noIrq : Bool) :
    s.SameStone (s.writeRecord q seq status layer op detail flags energy noIrq) := by
  simp [State.writeRecord]

@[simp] theorem State.dropRef_unfaulted (s : State) (h : Nat) : s.SameStone (s.dropRef h) := by simp [State.dropRef]

@[simp] theorem State.endCmd_unfaulted (s : State) (q : Nat) (seq : BitVec 32) (status : BitVec 16) (detail : BitVec 32)
    (flags : BitVec 16) :
    s.SameStone (s.endCmd q seq status detail flags) := by
  unfold State.endCmd
  split <;> simp

@[simp] theorem State.endMarkers_unfaulted (q : Nat) : ∀ (n : Nat) (s : State), s.SameStone (State.endMarkers q n s)
  | 0, _ => rfl
  | n + 1, s => by
    unfold State.endMarkers
    split
    · split
      · exact (State.endCmd_unfaulted ..).trans (State.endMarkers_unfaulted q n _)
      · exact .refl s
    · exact .refl s

@[simp] theorem State.writeCredit_unfaulted (s : State) (q : Nat) : s.SameStone (s.writeCredit q) := by simp [State.writeCredit]

@[simp] theorem State.finishCmd_unfaulted (s : State) (q : Nat) (seq : BitVec 32) (status : BitVec 16) (detail : BitVec 32)
    (flags : BitVec 16) :
    s.SameStone (s.finishCmd q seq status detail flags) := by
  simp [State.finishCmd]

@[simp] theorem State.updCmd_unfaulted (s : State) (q : Nat) (seq : BitVec 32) (f : QCmd → QCmd) :
    s.SameStone (s.updCmd q seq f) := by
  simp [State.updCmd]

@[simp] theorem State.endWait_unfaulted (s : State) (q : Nat) (c : QCmd) (f r : Nat) : s.SameStone (s.endWait q c f r) := by
  simp [State.endWait]

@[simp] theorem State.evalHostWaits_unfaulted (s : State) (f : Nat) : s.SameStone (s.evalHostWaits f) := by
  unfold State.evalHostWaits
  refine foldl_unfaulted (fun u e => foldl_unfaulted (fun v c => ?_) _ _) _ _
  split
  · split <;> simp
  · rfl

@[simp] theorem State.flagFence_unfaulted (s : State) (f : Nat) (status : BitVec 16) : s.SameStone (s.flagFence f status) := by
  simp [State.flagFence]

/-! ### Machine/Domains -/

@[simp] theorem State.evalDom_unfaulted (s : State) (d : Nat) : s.SameStone (s.evalDom d) :=
  (congrArg (fun u => u.stone.unfaulted) (s.evalDom_unpowered d) :)

/-! ### Machine/Segments -/

@[simp] theorem State.pokeSpots_unfaulted (s : State) (l : List (Spot × Byte)) : s.SameStone (s.pokeSpots l) :=
  (congrArg (fun u => u.stone.unfaulted) (s.pokeSpots_unlanded l) :)

@[simp] theorem State.renewLines_unfaulted (s : State) (l : List Spot) : s.SameStone (s.renewLines l) := by simp [State.renewLines]

@[simp] theorem State.writeSpots_unfaulted (s : State) (l : List Spot) (bs : List Byte) : s.SameStone (s.writeSpots l bs) := by
  simp [State.writeSpots]

/-! ### Machine/Access -/

@[simp] theorem State.partialWrite_unfaulted (s : State) (l : List Spot) (bs : List Byte) : s.SameStone (s.partialWrite l bs) := by
  simp [State.partialWrite]

@[simp] theorem State.partialCopy_unfaulted (s : State) (rd wr : List Spot) (bs : List Byte) (bad : List Nat) :
    s.SameStone (s.partialCopy rd wr bs bad) := by
  simp [State.partialCopy]

@[simp] theorem State.countLine_unfaulted (s : State) (res : Res) (n : Nat) : s.SameStone (s.countLine res n) := by
  unfold State.countLine
  split <;> simp

@[simp] theorem State.countEcc_unfaulted (s : State) (l : List Spot) (res : Res) : s.SameStone (s.countEcc l res) := by
  simp [State.countEcc]

@[simp] theorem State.raiseUe_unfaulted (s : State) (lines ctxs : List Nat) : s.SameStone (s.raiseUe lines ctxs) := by
  simp [State.raiseUe]

@[simp] theorem State.ueRead_unfaulted (s : State) (l : List Spot) (ctxs : List Nat) : s.SameStone (s.ueRead l ctxs) := by
  simp [State.ueRead]

@[simp] theorem State.portMove_unfaulted (s : State) (m cls master n : Nat) : s.SameStone (s.portMove m cls master n) := by
  simp [State.portMove]

@[simp] theorem State.moveLines_unfaulted (s : State) (cls master : Nat) (ls : List Nat) :
    s.SameStone (s.moveLines cls master ls) := by
  simp [State.moveLines]

@[simp] theorem State.askHost_unfaulted (s : State) (l : List Spot) : s.SameStone (s.askHost l) := by simp [State.askHost]

@[simp] theorem State.traffic_unfaulted (s : State) (l : List Spot) (cls master : Nat) : s.SameStone (s.traffic l cls master) := by
  simp [State.traffic]

@[simp] theorem State.countRefused_unfaulted (s : State) (l : List Spot) (res : Res) : s.SameStone (s.countRefused l res) := by
  simp [State.countRefused]

@[simp] theorem State.wakeFor_unfaulted (s : State) (self : Nat) (l : List Spot) : s.SameStone (s.wakeFor self l) := by
  simp [State.wakeFor]

@[simp] theorem State.discarded_unfaulted (s : State) (n : Nat) : s.SameStone (s.discarded n) := by simp [State.discarded]

@[simp] theorem State.sendCut_unfaulted (s : State) (r : Nat) (l : List Spot) : s.SameStone (s.sendCut r l) := by simp [State.sendCut]

/-! ### Machine/Observe -/

@[simp] theorem State.smpPut_unfaulted (s : State) (line : Nat) (bs : List Byte) : s.SameStone (s.smpPut line bs) := by
  simp [State.smpPut]

@[simp] theorem State.smpRecord_unfaulted (s : State) (src : BitVec 32) (lines : Nat) (body : List Byte)
    (hdr : BitVec 32 → Nat → Bool → List Byte) :
    s.SameStone (s.smpRecord src lines body hdr) := by
  simp [State.smpRecord]

@[simp] theorem State.bankRecord_unfaulted (s : State) (g kind : Nat) (bank : Table Nat) :
    s.SameStone (s.bankRecord g kind bank) := by
  simp [State.bankRecord]

@[simp] theorem State.bankSwap_unfaulted (s : State) (g : Nat) (ctx : Option Nat) (layer op : BitVec 16) (seq : BitVec 32)
    (conf : Bool) :
    s.SameStone (s.bankSwap g ctx layer op seq conf) := by
  simp [State.bankSwap]

@[simp] theorem State.traceFlush_unfaulted (s : State) (t : Nat) : s.SameStone (s.traceFlush t) := by simp [State.traceFlush]

@[simp] theorem State.traceEmit_unfaulted (s : State) (t : Nat) (full : Bool) (type code : Nat) (value : Word) :
    s.SameStone (s.traceEmit t full type code value) := by
  simp [State.traceEmit]

/-! ### Machine/Flits -/

@[simp] theorem State.queueMsg_unfaulted (s : State) (x : Nat) (m : Msg) : s.SameStone (s.queueMsg x m) := by simp [State.queueMsg]

@[simp] theorem State.wakeRunners_unfaulted (s : State) (b : BitVec 32) : s.SameStone (s.wakeRunners b) := by simp [State.wakeRunners]

@[simp] theorem State.queueAway_unfaulted (s : State) (m : Msg) : s.SameStone (s.queueAway m) := by
  unfold State.queueAway
  split <;> simp

@[simp] theorem State.flushWaits_unfaulted (s : State) : s.SameStone (s.flushWaits) := by simp [State.flushWaits]

/-! ### Machine/Messages -/

@[simp] theorem State.postNear_unfaulted (s : State) (m : Msg) : s.SameStone (s.postNear m) := by simp [State.postNear]

@[simp] theorem State.post_unfaulted (s : State) (m : Msg) : s.SameStone (s.post m) := by simp [State.post]

@[simp] theorem State.sendMsg_unfaulted (s : State) (b : BitVec 32) (src dst : Nat) (epoch : BitVec 16) (gen : BitVec 32)
    (cls chan len : Nat) (param : BitVec 64) (payload : List Byte) :
    s.SameStone (s.sendMsg b src dst epoch gen cls chan len param payload).2 := by
  unfold State.sendMsg
  split <;> simp

@[simp] theorem State.answer_unfaulted (s : State) (m : Msg) (result : Nat) : s.SameStone (s.answer m result) := by
  unfold State.answer
  dsimp only
  repeat' split
  all_goals simp

@[simp] theorem State.sendCredit_unfaulted (s : State) (t : Nat) (m : Msg) : s.SameStone (s.sendCredit t m) := by
  simp [State.sendCredit]

/-! ### Machine/Intake -/

@[simp] theorem State.putRowAt_unfaulted (s : State) (t va tagVa n rowBytes : Nat) (row : List Byte) (tag : Nat) :
    s.SameStone (s.putRowAt t va tagVa n rowBytes row tag) := by
  simp [State.putRowAt]

@[simp] theorem State.placeRow_unfaulted (s : State) (t i src : Nat) (block : Bool) (row : List Byte) (tag : Nat) :
    s.SameStone (s.placeRow t i src block row tag) := by
  simp [State.placeRow]

@[simp] theorem State.countBreach_unfaulted (s : State) (t i : Nat) (quota : Bool) : s.SameStone (s.countBreach t i quota) := by
  simp [State.countBreach]

@[simp] theorem State.spillRow_unfaulted (s : State) (t i tag : Nat) (row : List Byte) : s.SameStone (s.spillRow t i tag row).1 := by
  unfold State.spillRow
  dsimp only
  repeat' split
  all_goals simp

@[simp] theorem State.acceptRow_unfaulted (s : State) (t i src : Nat) (spilled block : Bool) (tag : Nat) (row : List Byte) :
    s.SameStone (s.acceptRow t i src spilled block tag row).1 := by
  unfold State.acceptRow
  dsimp only
  repeat' split
  all_goals simp

@[simp] theorem State.tryIntake_unfaulted (s : State) (t : Nat) (m : Msg) : s.SameStone (s.tryIntake t m).1 := by
  have hrow := fun i sp bl tag row => s.acceptRow_unfaulted t i m.src sp bl tag row
  unfold State.tryIntake
  dsimp only
  split
  · simp
  · split
    · exact .refl s
    · simp
    · split
      · simp
      · split
        · next h => exact unfaulted_of_fst h (hrow ..)
        · next h => exact (unfaulted_of_fst h (hrow ..)).trans (State.setTile_unfaulted ..)

@[simp] theorem State.tryWaiting_unfaulted (s : State) (t : Nat) : s.SameStone (s.tryWaiting t) := by
  unfold State.tryWaiting
  refine foldl_inv (P := fun a : State × List Msg => s.SameStone a.1) (fun a m ha => ?_) _ _ (.refl s)
  dsimp only
  split
  · exact ha
  · split
    · next h => exact ha.trans (unfaulted_of_fst h (State.tryIntake_unfaulted ..))
    · next h =>
      exact ((ha.trans (unfaulted_of_fst h (State.tryIntake_unfaulted ..))).trans (State.sendCredit_unfaulted ..)).trans
        (State.answer_unfaulted ..)

theorem State.wakeTake_unfaulted (s : State) (t : Nat) {resume : State → Nat → Word → State}
    (h : ∀ (s : State) rd v, s.SameStone (resume s rd v)) : s.SameStone (s.wakeTake t resume) := by
  unfold State.wakeTake
  dsimp only
  split
  · split
    · exact .refl s
    · split
      · exact .refl s
      · exact h _ _ _
  · exact .refl s

theorem State.settleIntakes_unfaulted {t : Nat} {resume : State → Nat → Word → State}
    (h : ∀ (s : State) rd v, s.SameStone (resume s rd v)) : ∀ (n : Nat) (s : State), s.SameStone (s.settleIntakes n t resume)
  | 0, s => .refl s
  | n + 1, s => ((s.tryWaiting_unfaulted t).trans (State.wakeTake_unfaulted _ _ h)).trans (State.settleIntakes_unfaulted h n _)

@[simp] theorem State.closeIntakes_unfaulted (s : State) (t : Nat) : s.SameStone (s.closeIntakes t) := by simp [State.closeIntakes]

/-! ### Machine/Kernel -/

@[simp] theorem State.closeOp_unfaulted (s : State) (t : Nat) (o : EngOp) (err : Option Nat) : s.SameStone (s.closeOp t o err) := by
  simp [State.closeOp]

@[simp] theorem State.countMoved_unfaulted (s : State) (t : Nat) (l : List Spot) : s.SameStone (s.countMoved t l) := by
  simp [State.countMoved]

@[simp] theorem State.moverStops_unfaulted (s : State) (t : Nat) (o : EngOp) (bs : List Byte) (bad : List Nat) :
    s.SameStone (s.moverStops t o bs bad) := by
  simp [State.moverStops]

@[simp] theorem State.landWrites_unfaulted (s : State) (t : Nat) (o : EngOp) : s.SameStone (s.landWrites t o) := by
  simp [State.landWrites]

@[simp] theorem State.abortOps_unfaulted (s : State) (t code : Nat) : s.SameStone (s.abortOps t code) := by simp [State.abortOps]

@[simp] theorem State.stopKernel_unfaulted (s : State) (t : Nat) (st : Stop) (abort : Option Nat) :
    s.SameStone (s.stopKernel t st abort) := by
  unfold State.stopKernel
  dsimp only
  repeat' split
  all_goals simp

@[simp] theorem State.safetyStop_unfaulted (s : State) (t : Nat) : s.SameStone (s.safetyStop t) := by simp [State.safetyStop]

@[simp] theorem State.takeWatchdog_unfaulted (s : State) (t : Nat) : s.SameStone (s.takeWatchdog t) := by
  unfold State.takeWatchdog
  dsimp only
  split <;> simp

@[simp] theorem State.stopFor_unfaulted (s : State) (t : Nat) (st : Stop) (abort : Option Nat) :
    s.SameStone (s.stopFor t st abort) := by
  simp [State.stopFor]

@[simp] theorem State.retireTo_unfaulted (s : State) (t : Nat) (instr : Bool) (pc : Word) : s.SameStone (s.retireTo t instr pc) := by
  simp [State.retireTo]

@[simp] theorem State.retire_unfaulted (s : State) (t n : Nat) : s.SameStone (s.retire t n) := by simp [State.retire]

@[simp] theorem State.wakeFence_unfaulted (s : State) (t f : Nat) : s.SameStone (s.wakeFence t f) := by
  unfold State.wakeFence
  dsimp only
  repeat' split
  all_goals simp

@[simp] theorem State.evalWaiters_unfaulted (s : State) (f : Nat) : s.SameStone (s.evalWaiters f) := by simp [State.evalWaiters]

@[simp] theorem State.launchEnd_unfaulted (s : State) (q : Nat) (seq : BitVec 32) (c : QCmd) : s.SameStone (s.launchEnd q seq c) := by
  unfold State.launchEnd
  dsimp only
  split <;> simp

@[simp] theorem State.report_unfaulted (s : State) (t q : Nat) (seq : BitVec 32) (rank : Nat) (status : BitVec 16) (trap : Nat)
    (flags : BitVec 16) :
    s.SameStone (s.report t q seq rank status trap flags) := by
  unfold State.report
  split <;> simp

@[simp] theorem State.charge_unfaulted (s : State) (t q : Nat) (seq : BitVec 32) : s.SameStone (s.charge t q seq) := by
  simp [State.charge]

@[simp] theorem State.dropLaunch_unfaulted (s : State) (t : Nat) (l : Launch) (status : BitVec 16) :
    s.SameStone (s.dropLaunch t l status) := by
  simp [State.dropLaunch]

@[simp] theorem State.beginSwap_unfaulted (s : State) (t need : Nat) (w : Swap) : s.SameStone (s.beginSwap t need w) := by
  simp [State.beginSwap]

@[simp] theorem State.startSwap_unfaulted (s : State) (t : Nat) (best : Option ℤ) : s.SameStone (s.startSwap t best) := by
  unfold State.startSwap
  dsimp only
  repeat' split
  all_goals simp

@[simp] theorem State.enterKernel_unfaulted (s : State) (t slot : Nat) (l : Launch) (rest : List Launch) :
    s.SameStone (s.enterKernel t slot l rest) := by
  simp [State.enterKernel]

@[simp] theorem State.dispatchTile_unfaulted (s : State) (t : Nat) : s.SameStone (s.dispatchTile t) := by
  unfold State.dispatchTile
  dsimp only
  repeat' split
  all_goals simp

@[simp] theorem State.sendMarkers_unfaulted (s : State) (t : Nat) (root : BitVec 32) : s.SameStone (s.sendMarkers t root) := by
  unfold State.sendMarkers
  dsimp only
  split <;> simp

@[simp] theorem State.freezeBoundary_unfaulted (s : State) (t : Nat) : s.SameStone (s.freezeBoundary t) := by
  unfold State.freezeBoundary
  refine foldl_unfaulted (fun u b => ?_) _ _
  split <;> simp

@[simp] theorem State.endKernel_unfaulted (s : State) (t : Nat) : s.SameStone (s.endKernel t) := by
  unfold State.endKernel
  dsimp only
  split <;> simp

@[simp] theorem State.boundary_unfaulted (s : State) (t : Nat) : s.SameStone (s.boundary t) := by simp [State.boundary]

/-! ### Machine/Regs -/

/-! ### Machine/Contexts -/

@[simp] theorem State.dropOn_unfaulted (s : State) (t : Nat) (p : Launch → Bool) (status : BitVec 16) :
    s.SameStone (s.dropOn t p status) := by
  simp [State.dropOn]

@[simp] theorem State.dropWaiting_unfaulted (s : State) (p : Launch → Bool) (status : BitVec 16) :
    s.SameStone (s.dropWaiting p status) := by
  simp [State.dropWaiting]

@[simp] theorem State.endIfDone_unfaulted (s : State) (t : Nat) : s.SameStone (s.endIfDone t) := by simp [State.endIfDone]

@[simp] theorem State.stopOn_unfaulted (s : State) (t : Nat) (p : Launch → Bool) (safety : Bool) :
    s.SameStone (s.stopOn t p safety) := by
  unfold State.stopOn
  split <;> simp

@[simp] theorem State.stopRunning_unfaulted (s : State) (p : Launch → Bool) (safety : Bool) :
    s.SameStone (s.stopRunning p safety) := by
  simp [State.stopRunning]

@[simp] theorem State.stopMover_unfaulted (s : State) (c : QCmd) : s.SameStone (s.stopMover c) := by simp [State.stopMover]

@[simp] theorem State.abortCmd_unfaulted (s : State) (q : Nat) (seq : BitVec 32) (status : BitVec 16) (detail : BitVec 32) :
    s.SameStone (s.abortCmd q seq status detail) := by
  unfold State.abortCmd
  split <;> simp

@[simp] theorem State.updQueues_unfaulted (s : State) (c : Nat) (f : Queue → Queue) : s.SameStone (s.updQueues c f) := by
  simp [State.updQueues]

@[simp] theorem State.stopQueues_unfaulted (s : State) (c : Nat) : s.SameStone (s.stopQueues c) := by simp [State.stopQueues]

@[simp] theorem State.setQuiesced_unfaulted (s : State) (c : Nat) : s.SameStone (s.setQuiesced c) := by simp [State.setQuiesced]

@[simp] theorem State.abortCtx_unfaulted (s : State) (c : Nat) (safety : Bool) : s.SameStone (s.abortCtx c safety) := by
  simp [State.abortCtx]

/-! ### Machine/Rilax -/

@[simp] theorem State.setG_unfaulted (s : State) (t i : Nat) (v : Word) : s.SameStone (s.setG t i v) := by simp [State.setG]

@[simp] theorem State.readUe_unfaulted (s : State) (t : Nat) (l : List Spot) : s.SameStone (s.readUe t l) := by simp [State.readUe]

/-! ### Machine/Tensors -/

@[simp] theorem State.writeAt_unfaulted (s : State) (t a : Nat) (bs : List Byte) : s.SameStone (s.writeAt t a bs) := by
  simp [State.writeAt]

/-! ### Machine/Tensor -/

@[simp] theorem State.markOp_unfaulted (s : State) (t id : Nat) (f : EngOp → EngOp) : s.SameStone (s.markOp t id f) := by
  simp [State.markOp]

/-! ### Machine/Exchange -/

@[simp] theorem State.useCredit_unfaulted (s : State) (t : Nat) (m : Outgoing) : s.SameStone (s.useCredit t m) := by
  simp [State.useCredit]

@[simp] theorem State.unsend_unfaulted (s : State) (t : Nat) (o : EngOp) (sent : List Sent) (l : List Outgoing) :
    s.SameStone (s.unsend t o sent l) := by
  simp [State.unsend]

@[simp] theorem pumpList_unfaulted (t : Nat) (r : Run) (l : List Outgoing) :
    ∀ (n : Nat) (un : List Sent) (kept : List Outgoing) (s : State), s.SameStone (pumpList t r n un kept l s).s := by
  induction l with
  | nil => intro n un kept s; cases n <;> exact rfl
  | cons m l ih =>
    intro n un kept s
    cases n with
    | zero => exact rfl
    | succ n =>
      unfold pumpList
      dsimp only
      split
      · exact ih ..
      · split
        · exact ih ..
        · split
          · exact ih ..
          · exact State.SameStone.trans (by simp) (ih ..)

@[simp] theorem State.pumpOp_unfaulted (s : State) (t id : Nat) : s.SameStone (s.pumpOp t id) := by
  unfold State.pumpOp
  dsimp only
  split
  · simp
  · exact .refl s

@[simp] theorem State.pump_unfaulted (s : State) (t : Nat) : s.SameStone (s.pump t) := by simp [State.pump]

@[simp] theorem State.queueOut_unfaulted (s : State) (t id : Nat) (l : List Outgoing) : s.SameStone (s.queueOut t id l) := by
  simp [State.queueOut]

@[simp] theorem State.sendBytes_unfaulted (s : State) (t : Nat) (va : Word) (n : Nat) : s.SameStone (s.sendBytes t va n).2 := by
  simp [State.sendBytes]

@[simp] theorem State.startDisp_unfaulted (s : State) (t : Nat) (r : Run) (o : EngOp) : s.SameStone (s.startDisp t r o) := by
  unfold State.startDisp
  dsimp only
  split <;> simp

@[simp] theorem State.startComb_unfaulted (s : State) (t : Nat) (r : Run) (o : EngOp) : s.SameStone (s.startComb t r o) := by
  simp [State.startComb]

@[simp] theorem State.recvTake_unfaulted (s : State) (t : Nat) (o : EngOp) (m : Msg) : s.SameStone (s.recvTake t o m) := by
  simp [State.recvTake]

@[simp] theorem State.holdSend_unfaulted (s : State) (t : Nat) (m : Msg) : s.SameStone (s.holdSend t m) := by
  unfold State.holdSend
  dsimp only
  split <;> simp

@[simp] theorem State.startPut_unfaulted (s : State) (t : Nat) (r : Run) (o : EngOp) : s.SameStone (s.startPut t r o) := by
  simp [State.startPut]

@[simp] theorem State.startGet_unfaulted (s : State) (t : Nat) (r : Run) (o : EngOp) : s.SameStone (s.startGet t r o) := by
  simp [State.startGet]

@[simp] theorem State.startSend_unfaulted (s : State) (t : Nat) (r : Run) (o : EngOp) : s.SameStone (s.startSend t r o) := by
  simp [State.startSend]

@[simp] theorem State.collPart_unfaulted (s : State) (t : Nat) (r : Run) (o : EngOp) (src seg flags : Nat) (bs : List Byte) :
    s.SameStone (s.collPart t r o src seg flags bs) := by
  unfold State.collPart
  split <;> simp

@[simp] theorem State.readFirst_unfaulted (s : State) (t : Nat) (o : EngOp) {go : State → State}
    (h : ∀ s : State, s.SameStone (go s)) : s.SameStone (s.readFirst t o go) := by
  unfold State.readFirst
  dsimp only
  split
  · simp
  · split
    · simp
    · exact State.SameStone.trans (by simp) (h _)

@[simp] theorem State.collBegin_unfaulted (s : State) (t : Nat) (r : Run) (o : EngOp) : s.SameStone (s.collBegin t r o) := by
  unfold State.collBegin
  split <;> simp

@[simp] theorem State.takeContrib_unfaulted (s : State) (t : Nat) (r : Run) (id : Nat) (m : Msg) :
    s.SameStone (s.takeContrib t r id m) := by
  unfold State.takeContrib
  split <;> simp

@[simp] theorem State.takeContribs_unfaulted (s : State) (t : Nat) (r : Run) (id : Nat) (data : Bool) :
    s.SameStone (s.takeContribs t r id data) := by
  unfold State.takeContribs
  split <;> simp

@[simp] theorem State.collAdvance_unfaulted (s : State) (t : Nat) (r : Run) (id : Nat) : s.SameStone (s.collAdvance t r id) := by
  unfold State.collAdvance
  dsimp only
  repeat' split
  all_goals simp

@[simp] theorem State.startColl_unfaulted (s : State) (t : Nat) (r : Run) (o : EngOp) : s.SameStone (s.startColl t r o) := by
  simp [State.startColl]

@[simp] theorem State.tryHeld_unfaulted (s : State) (t : Nat) (m : Msg) : s.SameStone (s.tryHeld t m).1 := by
  unfold State.tryHeld
  dsimp only
  repeat' split
  all_goals simp

@[simp] theorem State.retryHeld_unfaulted (s : State) (t : Nat) : s.SameStone (s.retryHeld t) := by
  unfold State.retryHeld
  refine foldl_inv (P := fun a : State × List Msg => s.SameStone a.1) (fun a m ha => ?_) _ _ (.refl s)
  split
  · exact ha
  · split
    · next h =>
      exact ((ha.trans (unfaulted_of_fst h (State.tryHeld_unfaulted ..))).trans (State.sendCredit_unfaulted ..)).trans
        (State.answer_unfaulted ..)
    · next h => exact ha.trans (unfaulted_of_fst h (State.tryHeld_unfaulted ..))

theorem resumeTake_unfaulted (t : Nat) (s : State) (rd : Nat) (v : Word) : s.SameStone (resumeTake t s rd v) := by simp [resumeTake]

@[simp] theorem State.settle_unfaulted (s : State) (t : Nat) : s.SameStone (s.settle t) :=
  ((State.settleIntakes_unfaulted (resumeTake_unfaulted t) _ s).trans (State.retryHeld_unfaulted ..)).trans (State.pump_unfaulted ..)

@[simp] theorem State.exStart_unfaulted (s : State) (t : Nat) (r : Run) (o : EngOp) : s.SameStone (s.exStart t r o) := by
  unfold State.exStart
  dsimp only
  repeat' split
  all_goals simp

@[simp] theorem State.exBegin_unfaulted (s : State) (t : Nat) (o : EngOp) : s.SameStone (s.exBegin t o) := by
  unfold State.exBegin
  split <;> simp

@[simp] theorem State.advance_unfaulted (t : Nat) : ∀ (n : Nat) (s : State), s.SameStone (s.advance n t)
  | 0, s => s.settle_unfaulted t
  | n + 1, s => by
    unfold State.advance
    dsimp only
    split
    · simp
    · split
      · simp
      · split
        · simp
        · exact State.SameStone.trans (by simp) (State.advance_unfaulted t n _)

@[simp] theorem State.proceed_unfaulted (s : State) (t : Nat) : s.SameStone (s.proceed t) := by simp [State.proceed]

/-! ### Machine/Arrival -/

@[simp] theorem State.degrade_unfaulted (s : State) (b : BitVec 32) : s.SameStone (s.degrade b) := by simp [State.degrade]

@[simp] theorem State.loseOn_unfaulted (s : State) (t : Nat) (b : BitVec 32) : s.SameStone (s.loseOn t b) := by
  unfold State.loseOn
  dsimp only
  split <;> simp

@[simp] theorem State.loseRanks_unfaulted (s : State) (b : BitVec 32) (ranks : List Nat) : s.SameStone (s.loseRanks b ranks) := by
  simp [State.loseRanks]

@[simp] theorem State.sendToModule_unfaulted (s : State) (b : BitVec 32) (module cls len : Nat) (param : BitVec 64)
    (payload : List Byte) :
    s.SameStone (s.sendToModule b module cls len param payload) := by
  unfold State.sendToModule
  dsimp only
  split <;> simp

@[simp] theorem State.declareLost_unfaulted (s : State) (b : BitVec 32) (ranks : List Nat) : s.SameStone (s.declareLost b ranks) := by
  simp [State.declareLost]

/-! ### Machine/Compose -/

/-! ### Machine/Grafts -/

@[simp] theorem State.flagFences_unfaulted (s : State) (c : Nat) : s.SameStone (s.flagFences c) := by simp [State.flagFences]

@[simp] theorem State.quiesceSafe_unfaulted (s : State) (c : Nat) : s.SameStone (s.quiesceSafe c) := by simp [State.quiesceSafe]

/-! ### Machine/Life, Machine/Runners -/

@[simp] theorem State.quadFault_unfaulted (s : State) (x : Nat) (code : BitVec 16) : s.SameStone (s.quadFault x code) := by
  simp [State.quadFault]

@[simp] theorem State.redo_unfaulted (s : State) (m : Msg) : s.SameStone (s.redo m) := by
  unfold State.redo
  dsimp only
  repeat' split
  all_goals simp

@[simp] theorem State.quadDown_unfaulted (s : State) (x : Nat) : s.SameStone (s.quadDown x) := by simp [State.quadDown]

/-! ### Machine/Ports -/

@[simp] theorem State.failPort_unfaulted (s : State) (m : Nat) : s.SameStone (s.failPort m) := by simp [State.failPort]

@[simp] theorem State.portLinkLost_unfaulted (s : State) (x : Nat) : s.SameStone (s.portLinkLost x) := by simp [State.portLinkLost]

@[simp] theorem State.loseCommand_unfaulted (s : State) : s.SameStone s.loseCommand := by
  unfold State.loseCommand
  dsimp only
  split <;> simp

@[simp] theorem State.failIsland_unfaulted (s : State) (i : Nat) : s.SameStone (s.failIsland i) := by simp [State.failIsland]


end Sys2Proof.Machine
end

section
/-! PROOFS. Safety reactions (R433, R443 to R452): what a reaction's beginning leaves of the latches and of SAFE_N. -/

namespace Sys2Proof.Machine

open Sys2Proof.Claims

/-! ### Latches, SAFE_N and its cause (R445, R447) -/

/-- The latches of the rows, SAFE_N, and the cause of its assertion. -/
def Stone.alarms (x : Stone) : Table Latch × Bool × BitVec 16 := (x.rows, x.safe, x.cause)

theorem State.SameStone.alarms {s u : State} (h : s.SameStone u) : u.stone.alarms = s.stone.alarms :=
  (congrArg Stone.alarms h :)

theorem State.quiesceAll_alarms (l : List Nat) (s : State) :
    (l.foldl (fun s c => s.quiesceSafe c) s).stone.alarms = s.stone.alarms :=
  foldl_part (fun s : State => s.stone.alarms) _ (fun s c => (s.quiesceSafe_unfaulted c).alarms) l s

/-- Husk bytes that are written leave the Stone island. -/
theorem State.huskPut_stone (m off : Nat) : ∀ (bs : List Byte) (s : State) (i : Nat), (s.huskPut m off i bs).stone = s.stone
  | [], _, _ => rfl
  | b :: bs, s, i => by
    have hpoke (a : Nat) : (s.poke a b).stone = s.stone := (congrArg State.stone (s.poke_unlanded a b) :)
    rw [State.huskPut, State.huskPut_stone m off bs, hpoke]

/-- A record counts itself and leaves the latches. -/
theorem State.writeHusk_alarms (s : State) (r : React) (units : List (BitVec 32)) (part : Bool) :
    (s.writeHusk r units part).stone.alarms = s.stone.alarms := by
  unfold State.writeHusk
  refine (State.SameStone.alarms (State.fault_unfaulted ..)).trans ?_
  refine foldl_part (fun s : State => s.stone.alarms) _ (fun s m => ?_) [0, huskPortOf s.boot.variant] s
  split
  · rw [State.SameStone.alarms (State.portMove_unfaulted ..), State.huskPut_stone]
  · rfl

theorem State.replaceLesser_alarms (s : State) (r : React) : (s.replaceLesser r).stone.alarms = s.stone.alarms := by
  unfold State.replaceLesser
  refine foldl_part (fun s : State => s.stone.alarms) _ (fun s q => ?_) _ s
  split
  · exact s.writeHusk_alarms ..
  · rfl

/-- A SHUTDOWN turns domains off, and leaves the Stone island (R412). -/
theorem State.shutDown_stone (s : State) : s.shutDown.stone = s.stone := by
  unfold State.shutDown
  generalize List.range 161 = l
  refine foldl_part State.stone _ (fun s d => ?_) l s
  split
  · exact (congrArg State.stone (State.enterLow_unpowered _ d 0) :)
  · rfl

/-- Step 3 of a reaction's beginning: the contexts that it affects are quiesced. -/
def State.quiesceFor (s : State) (r : React) : State :=
  (s.affected r.reaction r.served r.running (unitTile r.row r.src r.detail)).foldl (fun s c => s.quiesceSafe c) s

/-- The tile of a TILE reaction is fenced. -/
def State.fenceFor (s : State) (r : React) : State :=
  match unitTile r.row r.src r.detail with
  | some t => if r.reaction = 3 then s.fenceTile t else s
  | none => s

/-- A reaction is in progress. -/
def State.joinReact (s : State) (r : React) : State := { s with stone := { s.stone with reacts := s.stone.reacts ++ [r] } }

theorem State.beginReact_eq (s : State) (r : React) : s.beginReact r =
    if (s.quiesceFor r).outranked r then s.quiesceFor r
    else
      let u := (((s.quiesceFor r).replaceLesser r).fenceFor r).joinReact r
      if r.reaction = 7 then u.shutDown else if r.reaction = 2 && r.row = 23 then u.failIsland r.detail.toNat else u := rfl

theorem State.fenceFor_stone (s : State) (r : React) : (s.fenceFor r).stone = s.stone := by
  unfold State.fenceFor
  split
  · split <;> rfl
  · rfl

/-- What begins with a reaction latches nothing and releases nothing. -/
theorem State.beginReact_alarms (s : State) (r : React) : (s.beginReact r).stone.alarms = s.stone.alarms := by
  have hq : (s.quiesceFor r).stone.alarms = s.stone.alarms := State.quiesceAll_alarms _ _
  have hj : ((((s.quiesceFor r).replaceLesser r).fenceFor r).joinReact r).stone.alarms = s.stone.alarms :=
    (congrArg Stone.alarms (State.fenceFor_stone _ r)).trans ((State.replaceLesser_alarms _ r).trans hq)
  rw [State.beginReact_eq]
  split
  · exact hq
  · dsimp only
    split
    · rw [State.shutDown_stone, hj]
    · split
      · rw [(State.failIsland_unfaulted _ _).alarms, hj]
      · exact hj

/-! ### The end of a reaction's first step (R445) -/

theorem State.signal_stone (s : State) : s.signal.stone = s.stone := (congrArg State.stone s.signal_unsignalled :)

/-- SAFE_N stays asserted while a row is latched. -/
theorem State.settleSafe_safe {s : State} {e : Nat × Latch} (he : e ∈ s.stone.rows) (hset : e.2.set = true) :
    s.settleSafe.stone.safe = s.stone.safe := by
  have hrows : s.stone.rows.all (fun e => !e.2.set) = false := by
    simpa using ⟨e.1, e.2, he, hset⟩
  unfold State.settleSafe
  refine (congrArg Stone.safe (State.signal_stone _)).trans ?_
  dsimp only
  rw [hrows, if_neg (by simp)]

theorem State.settleSafe_latches (s : State) : s.settleSafe.stone.rows = s.stone.rows ∧ s.settleSafe.stone.cause = s.stone.cause :=
  ⟨(congrArg (fun u => u.stone.rows) s.settleSafe_unsettled :), (congrArg (fun u => u.stone.cause) s.settleSafe_unsettled :)⟩

/-- An entry that is set is one of the table. -/
theorem latch_mem {t : Table Latch} {r : Nat} (h : (tget {} t r : Latch).set = true) : (r, (tget {} t r : Latch)) ∈ t := by
  rcases tget_mem {} r t with hd | hm
  · rw [hd] at h
    exact absurd h Bool.false_ne_true
  · exact hm

/-- A row's latch after one more fault of it (R447). -/
def Latch.again (x : Latch) (src : BitVec 32) : Latch :=
  { set := true, count := satAdd 0xFFFF x.count 1, first := if x.set then x.first else src, life := x.life + 1 }

/-- A reaction latches its row, asserts SAFE_N and notes the row as its cause, and what follows keeps all three (R443, R445, R447). -/
theorem State.reactTo_alarms (s : State) (f : SafetyFault) :
    (s.reactTo f).stone.alarms = (tput s.stone.rows f.row ((s.latch f.row).again f.src), true, rowCode f.row) := by
  obtain ⟨v, hx, hv⟩ : ∃ v : State, s.reactTo f = v.settleSafe
      ∧ v.stone.alarms = (tput s.stone.rows f.row ((s.latch f.row).again f.src), true, rowCode f.row) := by
    refine ⟨_, rfl, ?_⟩
    rw [State.beginReact_alarms, State.SameStone.alarms (State.faultAt_unfaulted ..), State.quiesceAll_alarms]
    rfl
  obtain ⟨hrows, hsafe, hcause⟩ : v.stone.rows = tput s.stone.rows f.row ((s.latch f.row).again f.src) ∧ v.stone.safe = true
      ∧ v.stone.cause = rowCode f.row := by simpa [Stone.alarms] using hv
  have hset : (tget {} v.stone.rows f.row : Latch).set = true := by
    rw [hrows, tget_tput_same]
    rfl
  rw [hx, Stone.alarms, v.settleSafe_latches.1, v.settleSafe_latches.2, State.settleSafe_safe (latch_mem hset) hset, hrows, hsafe, hcause]

/-- SAFETY_FAULT_REACTION of a fault that was reported, or that this command reports itself (R443). -/
theorem exec_safetyFaultReaction {s : State} {flt : SafetyFault} (h : flt ∈ s.stone.faults ∨ s.ownReport flt = true) :
    ∃ v : State, exec (.safetyFaultReaction flt) s = .next (v.reactTo flt) := by
  change ∃ v : State, execSafetyFaultReaction flt s = _
  unfold execSafetyFaultReaction
  by_cases hm : flt ∈ s.stone.faults
  · exact ⟨_, if_pos (List.contains_iff_mem.2 hm)⟩
  · exact ⟨_, (if_neg (by simpa using hm)).trans (if_pos (h.resolve_left hm))⟩

end Sys2Proof.Machine
end

section
/-! PROOFS. The Stone island's other events (R439, R440, R449, R453, R461, R462): the Husk, its watchdogs and the rotation self-test. -/

namespace Sys2Proof.Machine

open Sys2Proof.Claims

/-! ### The Husk and escalation (R451, R461, R462) -/

theorem exec_huskRecordComplete {s : State} {r : React} {units : List (BitVec 32)} (h : s.huskFor = some r)
    (hu : s.huskAll r units = true) : exec (.huskRecordComplete units) s
      = .next (((s.writeHusk r units false).setReact r { r with phase := 1 }).runStep { r with phase := 1 }).settleSafe := by
  change execHuskRecordComplete units s = _
  unfold execHuskRecordComplete
  rw [h, Option.filter_some, if_pos hu]

/-- A unit of the scope that does not answer is noted, once. -/
theorem exec_huskUnitTimeout {s : State} {r : React} {src : BitVec 32} (h : s.huskFor = some r) (hs : src ∈ s.huskScope r) :
    exec (.huskUnitTimeout src) s = .next (s.setReact r
      { r with unreadable := if r.unreadable.contains src then r.unreadable else r.unreadable ++ [src] }) := by
  change execHuskUnitTimeout src s = _
  unfold execHuskUnitTimeout
  rw [h, Option.filter_some, if_pos (List.contains_iff_mem.2 hs)]

theorem exec_escalation {s : State} {row : Nat} {r : React} (h : s.stone.reacts.find? (fun r => r.row == row && r.reaction < 6) = some r) :
    exec (.escalation row) s = .next (s.escalate r) := by
  change execEscalation row s = _
  unfold execEscalation
  rw [h]

/-! ### Clocks and watchdogs (R439, R440, R449) -/

/-- The module's pacer that agrees with the system clock passes, whatever the third count is (R439). -/
theorem windowFails_near {p q : Nat} (h : p ≤ q + 100) (h' : q ≤ p + 100) (l : Nat) : windowFails p q l = false := by
  have hpq : countsAgree (100 * p) (100 * q) = true := by
    unfold countsAgree absDiff
    rw [decide_eq_true_eq]
    omega
  simp [windowFails, hpq]

theorem exec_pacerFreqWindow_passes {p q l : Nat} (h : windowFails p q l = false) (s : State) :
    exec (.pacerFreqWindow p q l) s = .next { s with stone := { s.stone with pacerBad := 0 } } := by
  change execPacerFreqWindow p q l s = _
  unfold execPacerFreqWindow
  rw [h, if_neg Bool.false_ne_true]

/-- An MGC that has not kicked, and is not being updated, is reported (R440, R510). -/
theorem exec_mgcWatchdog_silent {s : State} (h : s.stone.mgcAlive = false) (hs : s.stone.mgcSuspended = false) :
    exec .mgcWatchdog s = .next (s.raiseSafety 16 (srcId 7 0) [] 0) := by
  change execMgcWatchdog s = _
  unfold execMgcWatchdog
  rw [h, hs, if_neg (by decide)]

theorem exec_hostifWatchdog_silent {s : State} (h : s.stone.hostAlive = false) :
    exec .hostifWatchdog s = .next (s.raiseSafety 13 (srcId 5 0x1000) [] 0) := by
  change execHostifWatchdog s = _
  unfold execHostifWatchdog
  rw [h, if_neg Bool.false_ne_true]

/-- The Stone island's own lockstep drives the pins (R449); its record leaves them so. -/
theorem exec_stoneLockstep (s : State) : ∃ u, exec .stoneLockstep s = .next u ∧ u.stone.unfaulted
    = { s.stone with safe := true, cycleReq := true, nvRow17 := true, faults := []
                     rows := tput s.stone.rows 17 { s.latch 17 with life := (s.latch 17).life + 1 } } :=
  ⟨_, rfl, (congrArg Stone.unfaulted (State.signal_stone _)).trans (State.fault_unfaulted ..)⟩

/-! ### Turns of the rotation self-test (R453 to R456) -/

/-- A SPARE tile whose turn begins is TESTING, in turn (R453). -/
theorem State.startTurn_spare {s : State} {t : Nat} (hr : (s.tile t).role = 1) (hn : s.stone.inTurn.length < s.spares.length) :
    ∃ u, s.startTurn t = some u ∧ (u.tile t).role = 2 ∧ u.stone.inTurn = s.stone.inTurn ++ [t] := by
  refine ⟨_, (if_pos hr).trans (if_pos hn), ?_, (congrArg (fun u => u.stone.inTurn) (State.revote_unpowered _) :)⟩
  rw [((State.revote_dims _).1 t).role]
  refine (congrArg Tile.role (State.setTile_tile _ t _)).trans ?_
  exact congrArg Tile.role (State.setTile_tile _ t _)

theorem exec_rotationTurnStart {s u : State} {t : Nat} (ha : s.mgcAway = false) (hn : s.nextTurn = some t) (hu : s.startTurn t = some u) :
    exec .rotationTurnStart s = .next u := by
  change execRotationTurnStart s = _
  unfold execRotationTurnStart
  rw [ha, if_neg Bool.false_ne_true, hn, Option.bind_some, hu]

/-- A pass is counted, and changes no tile and no turn. -/
theorem State.passTile_keeps (s : State) (t : Nat) :
    (s.passTile t).tiles = s.tiles ∧ (s.passTile t).stone.inTurn = s.stone.inTurn :=
  ⟨ite_part State.tiles rfl rfl, ite_part (fun u : State => u.stone.inTurn) rfl rfl⟩

/-- A TESTING tile that passes is SPARE again, out of its turn (R338, R453). -/
theorem State.endTest_passed (s : State) (t : Nat) :
    ((s.endTest t true).tile t).role = 1 ∧ (s.endTest t true).stone.inTurn = s.stone.inTurn.erase t := by
  obtain ⟨v, hx, ht, hi⟩ : ∃ v : State, s.endTest t true = (v.passTile t).revote ∧ (v.tile t).role = 1
      ∧ v.stone.inTurn = s.stone.inTurn.erase t := by
    refine ⟨_, rfl, ?_, rfl⟩
    refine (congrArg Tile.role (State.setTile_tile _ t _)).trans ?_
    exact congrArg Tile.role (State.setTile_tile _ t _)
  obtain ⟨htiles, hturn⟩ := v.passTile_keeps t
  rw [hx]
  refine ⟨((State.revote_dims _).1 t).role.trans ?_, (congrArg (fun u => u.stone.inTurn) (State.revote_unpowered _) :).trans (hturn.trans hi)⟩
  rwa [State.tile, htiles]

theorem exec_rotationSelftestDone_testing {s : State} {t : Nat} (h : s.hasTile t = true) (hr : (s.tile t).role = 2) (pass : Bool) :
    exec (.rotationSelftestDone t pass) s = .next (s.endTest t pass).settleSafe := by
  change execRotationSelftestDone t pass s = _
  unfold execRotationSelftestDone
  rw [h, if_neg (by decide), if_pos hr]

/-! ### Commands of the orchestrator (R433, R445, R447, R457) -/

section
variable {s : State} {f : Frame} (hm : s.mgmtOpen = true) (hf : s.frameOk f = true)
include hm hf

/-- The latches after an acknowledgement of rows: each named one is clear and keeps its lifetime count (R447). -/
def State.acknowledged (s : State) (rows : List Nat) : State :=
  let clear := rows.foldl (fun t r => tput t r { (tget {} t r : Latch) with set := false, count := 0, first := 0 }) s.stone.rows
  { s with stone := { s.stone with rows := clear, nvRow17 := s.stone.nvRow17 && !rows.contains 17 } }

theorem answers_rowAcknowledge {rows : List Nat} (h : ∀ r ∈ rows, r < 24) :
    Answers (.rowAcknowledge f rows) s f ((s.takeFrame f).acknowledged rows).settleSafe 0 :=
  answers_framed hm hf (show execRowAcknowledge f rows s = _ from rfl) (if_neg (by simpa using h))

/-- A turn that can be had is noted (R457). -/
theorem answers_selftestRequest {t : Nat} : let w := s.takeFrame f
    w.hasTile t = true → (w.tile t).role < 2 → w.turnBusy t = false → t ∉ w.stone.asked →
      Answers (.selftestRequest f t) s f { w with stone := { w.stone with asked := w.stone.asked ++ [t] } } 0 := by
  intro w ht hr hb ha
  refine answers_framed hm hf (show execSelftestRequest f t s = _ from rfl) ?_
  refine (if_neg (by simpa using ⟨ht, Nat.lt_succ_iff.1 hr⟩)).trans ((if_neg (by rw [show (s.takeFrame f).turnBusy t = false from hb]; decide)).trans ?_)
  rw [show (s.takeFrame f).stone.asked.contains t = false by simpa using ha]
  rfl

/-- A module reset by the orchestrator, while no power cycle is in progress, answers and then resets (R433). -/
theorem exec_moduleReset_orchestrator (hc : s.cycling = false) : exec (.moduleReset (.orchestrator f false)) s
    = .next (((s.takeFrame f).respond f 0 []).closeHusks.moduleReset 3 false) := by
  change execModuleReset (.orchestrator f false) s = _
  unfold execModuleReset
  dsimp only
  rw [onMgmt, if_pos hm, if_pos hf]
  exact congrArg _ (if_neg (by rw [hc]; exact Bool.false_ne_true))

end

end Sys2Proof.Machine
end

section
/-! PROOFS. Sessions, credentials, quotes and firmware (R469 to R475, R509, R510): what each command answers when it may act. -/

namespace Sys2Proof.Machine

open Sys2Proof.Claims

/-! ### Answers (R472, R475) -/

/-- A frame taken while the management network is open. -/
theorem onMgmt_open {s : State} (hm : s.mgmtOpen = true) (t : State) : onMgmt s t = .next t := if_pos hm

theorem State.answerOpen_sec (s : State) (status : BitVec 16) (body : List Byte) : (s.answerOpen status body).sec = s.sec :=
  State.emit_sec _ _

/-- A response to a session counts in its session alone. -/
theorem State.respond_quote (s : State) (f : Frame) (status : BitVec 16) (body : List Byte) :
    (s.respond f status body).sec.quote = s.sec.quote ∧ (s.respond f status body).sec.quoteSeq = s.sec.quoteSeq := by
  unfold State.respond
  split
  · exact ⟨(congrArg Sec.quote (State.emit_sec s _) :), (congrArg Sec.quoteSeq (State.emit_sec s _) :)⟩
  · exact ⟨rfl, rfl⟩

theorem State.mboxEnd_sec (s : State) (status : BitVec 16) (detail : BitVec 32) : (s.mboxEnd status detail).sec = s.sec :=
  ite_part State.sec (congrArg State.sec (State.msix_unreported _ 0) :) rfl

/-! ### Attempts and sessions (R473, R474) -/

/-- HELLO of a slot that may open an attempt adds it. -/
theorem exec_hello {s : State} {i : Nat} {nc : BitVec 256} {c : Cred} (hm : s.mgmtOpen = true) (hc : (s.credSlot i).cred = some c)
    (hn : s.sec.sessions.length < 4) (hl : (s.credSlot i).locked = false) : exec (.hello i nc) s = .next (s.helloOk i c nc) := by
  change execHello i nc s = _
  unfold execHello
  rw [onMgmt_open hm, hc]
  exact congrArg _ (if_neg (by simpa [hl] using hn))

theorem State.helloOk_sessions (s : State) (i : Nat) (c : Cred) (nc : BitVec 256) : ∃ x : Session,
    (s.helloOk i c nc).sec.sessions = s.sec.sessions ++ [x] ∧ x.slot = i ∧ x.nc = nc :=
  ⟨_, congrArg Sec.sessions (State.answerOpen_sec _ _ _), rfl, rfl⟩

/-- An attempt that has become a session, with the keys derived from the credential's (R474). -/
def Session.opened (x : Session) (k : BitVec 256) : Session :=
  { x with isOpen := true, c2d := Config.kmac256 k 0 (sessionSeed x), d2c := Config.kmac256 k 1 (sessionSeed x)
           wrap := Config.kmac256 k 2 (sessionSeed x) }

/-- A session that an update opens is found by its identifier. -/
theorem find_updFirst_opened {sid : BitVec 32} {x : Session} {g : Session → Session} (ho : (g x).isOpen = true) (hs : (g x).sid = sid) :
    ∀ {l : List Session}, l.find? (fun y => y.sid == sid) = some x →
      (updFirst (fun y => y.sid == sid) g l).find? (fun y => y.isOpen && y.sid == sid) = some (g x)
  | a :: l, h => by
    by_cases ha : a.sid = sid
    · obtain rfl : a = x := by simpa [ha] using h
      rw [updFirst, if_pos (by simpa using ha), List.find?_cons_of_pos (by simp [ho, hs])]
    · rw [List.find?_cons_of_neg (by simpa using ha)] at h
      rw [updFirst, if_neg (by simpa using ha), List.find?_cons_of_neg (by simp [ha])]
      exact find_updFirst_opened ho hs h

/-- A PROOF that matches opens its attempt. -/
theorem exec_proof {s : State} {sid : BitVec 32} {x : Session} {c : Cred} (hm : s.mgmtOpen = true)
    (hx : s.sec.sessions.find? (fun x => !x.isOpen && x.sid == sid) = some x) (hc : (s.credSlot x.slot).cred = some c)
    (hl : (s.credSlot x.slot).locked = false) :
    exec (.proof sid (openProof (credKey c) x)) s = .next (s.proofPasses x (credKey c)) := by
  change execProof sid (openProof (credKey c) x) s = _
  unfold execProof
  rw [onMgmt_open hm, hx]
  dsimp only
  rw [hc]
  exact congrArg _ (if_pos (by simp [hl]))

theorem State.proofPasses_openSession {s : State} {x : Session} {sid : BitVec 32} (k : BitVec 256)
    (hx : s.sec.sessions.find? (fun y => y.sid == sid) = some x) :
    (s.proofPasses x k).openSession sid = some (x.opened k) := by
  have hsid : x.sid = sid := by simpa using List.find?_some hx
  subst hsid
  unfold State.openSession State.proofPasses
  dsimp only
  rw [State.answerOpen_sec]
  exact find_updFirst_opened (sid := x.sid) rfl rfl hx

/-- An unclaimed module to which a quote was taken accepts a key for its first slot (R473). -/
theorem exec_claim {s : State} {ct : List Byte} {k : BitVec 256} (hm : s.mgmtOpen = true)
    (hc : ∀ i, i < 8 → (s.credSlot i).cred = none) (hq : s.sec.quoteSeq ≠ 0) (hk : s.kemOpen ct = some k) :
    exec (.claim ct) s = .next ((s.setCred 0
      { cred := some (.key (Config.kmac256 k 4 (toBytes 8 Config.deviceId.toNat))) }).answerOpen 0 []) := by
  have hopen : ((List.range 8).any (fun i => (s.credSlot i).cred.isSome) || s.sec.quoteSeq = 0) = false := by
    rw [Bool.or_eq_false_iff, List.any_eq_false, decide_eq_false_iff_not]
    exact ⟨fun i hi => by simp [hc i (List.mem_range.1 hi)], hq⟩
  change execClaim ct s = _
  unfold execClaim
  rw [onMgmt_open hm, hopen, if_neg Bool.false_ne_true, hk]

theorem exec_sessionIdleTimeout {s : State} {sid : BitVec 32} (h : ∃ x ∈ s.sec.sessions, x.sid = sid) :
    exec (.sessionIdleTimeout sid) s = .next (s.closeSession sid) := by
  change execSessionIdleTimeout sid s = _
  unfold execSessionIdleTimeout
  exact if_pos (by simpa using h)

theorem exec_slotLockExpire {s : State} {i : Nat} (h : (s.credSlot i).locked = true) :
    exec (.slotLockExpire i) s = .next (s.setCred i { s.credSlot i with locked := false, fails := [] }) := if_pos h

/-! ### Quotes and updates (R469, R509, R510) -/

/-- A quote that no graft delays is delivered, and counts (R469). -/
theorem exec_quoteReady {s : State} {r : QuoteReq} (hr : s.sec.quote = some r) (hg : s.comp.grafts = []) (ha : s.mgcAway = false) :
    exec .quoteReady s = .next (State.deliverQuote { s with sec := { s.sec with quote := none, quoteSeq := s.sec.quoteSeq + 1 } } r
      (s.quoteBytes r.nonce)) := by
  change execQuoteReady s = _
  unfold execQuoteReady
  rw [hr]
  exact if_neg (by rw [hg, ha]; decide)

/-- Delivery asks for no quote and counts none. -/
theorem State.deliverQuote_quote (s : State) (r : QuoteReq) (bs : List Byte) :
    (s.deliverQuote r bs).sec.quote = s.sec.quote ∧ (s.deliverQuote r bs).sec.quoteSeq = s.sec.quoteSeq := by
  unfold State.deliverQuote
  split
  · split
    · rw [State.mboxEnd_sec, State.emit_sec]
      exact ⟨rfl, rfl⟩
    · exact ⟨rfl, rfl⟩
  · split
    · rw [State.answerOpen_sec]
      exact ⟨rfl, rfl⟩
    · exact s.respond_quote _ _ _

/-- The drained unit of an update loads its image (R509). -/
theorem exec_unitUpdateDone {s : State} {i : Nat} (ha : s.sec.updActive = true) (hi : s.updUnit = some i)
    (hd : s.sec.updDrained = true) (ok : Bool) :
    exec (.unitUpdateDone ok) s = .next (s.unitDone i (ok && s.flashOk s.otherBank s.sec.updKind)) := by
  change execUnitUpdateDone ok s = _
  unfold execUnitUpdateDone
  rw [ha, if_neg (by decide), hi]
  dsimp only
  rw [if_pos hd]

/-! ### Commands that answer before they act (R474, R473) -/

/-- Slot 0 is changed from a session of slot 0 alone, the others from any (R473). -/
theorem State.credAllowed_of {w : State} {f : Frame} {i : Nat} (h0 : i = 0 → w.slotOfFrame f = some 0) (hi : i < 8) :
    w.credAllowed f i = true := by
  unfold State.credAllowed
  by_cases h : i = 0
  · simp [h0 h, h]
  · simp [h, hi]

section
variable {s : State} {f : Frame} (hm : s.mgmtOpen = true) (hf : s.frameOk f = true)
include hm hf

/-- A command that may act answers OK and then closes what it closes. -/
theorem exec_closing {c : Instr} {k : State → Option (BitVec 16)} {act : State → State} (hc : exec c s = closing f s k act)
    (hk : k (s.takeFrame f) = none) : exec c s = .next (act ((s.takeFrame f).respond f 0 [])) := by
  rw [hc, closing, onMgmt_open hm, if_pos hf]
  dsimp only
  rw [hk]

theorem exec_close : exec (.close f) s = .next (((s.takeFrame f).respond f 0 []).closeSession f.sid) :=
  exec_closing hm hf (c := .close f) (show execClose f s = _ from rfl) rfl

theorem exec_credClear {i : Nat} (h0 : i = 0 → (s.takeFrame f).slotOfFrame f = some 0) (hi : i < 8) :
    exec (.credClear f i) s = .next ((((s.takeFrame f).respond f 0 []).setCred i {}).closeSlot i) :=
  exec_closing hm hf (c := .credClear f i) (show execCredClear f i s = _ from rfl) (if_pos (State.credAllowed_of h0 hi))

theorem exec_unclaim (h0 : (s.takeFrame f).slotOfFrame f = some 0) (hb : ∀ e ∈ (s.takeFrame f).comp.bunches, e.2.st = 0) :
    ∃ u, exec (.unclaim f) s = .next u ∧ u.sec.slots = [] ∧ u.sec.sessions = [] := by
  have hany : (s.takeFrame f).anyBunch = false := List.any_eq_false.2 fun e he => by simp [hb e he]
  refine ⟨_, exec_closing hm hf (show execUnclaim f s = _ from rfl) ?_, rfl, rfl⟩
  exact (if_neg (by rw [h0]; decide)).trans (if_neg (by rw [hany]; exact Bool.false_ne_true))

theorem answers_credSet {i : Nat} {c : Cred} (h0 : i = 0 → (s.takeFrame f).slotOfFrame f = some 0) (hi : i < 8)
    (hc : credOk c = true) : Answers (.credSet f i c) s f ((s.takeFrame f).setCred i { cred := some c }) 0 :=
  answers_framed hm hf (show execCredSet f i c s = _ from rfl) (if_pos (by rw [State.credAllowed_of h0 hi, hc]; rfl))

/-- A quote that a session asks for while none is produced (R469). -/
theorem exec_quote (nonce : BitVec 256) (hq : s.sec.quote = none) :
    exec (.quote (some f) nonce) s = .next ((s.takeFrame f).askQuote f.sid f.seq nonce) := by
  change execQuote (some f) nonce s = _
  unfold execQuote
  rw [onMgmt_open hm]
  dsimp only
  rw [if_pos hf, if_neg]
  rw [show (s.takeFrame f).sec.quote = none from hq]
  exact Bool.false_ne_true

/-! ### Firmware (R470, R471, R509) -/

theorem answers_fwWrite {imgs : List Image} (h : ∀ x ∈ imgs, (s.takeFrame f).imageOk x = true) :
    Answers (.fwWrite f imgs) s f (imgs.foldl (fun s x => s.writeImage x) (s.takeFrame f)) 0 :=
  answers_framed hm hf (show execFwWrite f imgs s = _ from rfl) (if_pos (List.all_eq_true.2 h))

theorem answers_fwTrial : let w := s.takeFrame f
    Answers (.fwTrial f) s f { w with sec := { w.sec with trial := true } } 0 :=
  answers_framed hm hf (show execFwTrial f s = _ from rfl) rfl

/-- A trial is committed without an advance while every KIND has one left (R471). -/
theorem answers_fwCommit : let w := s.takeFrame f
    w.sec.trial = true → (∀ e ∈ w.sec.minSvn, e.2.2 ≤ 64) → Answers (.fwCommit f false) s f
      { w with sec := { w.sec with committed := w.otherBank, trial := false, trialRun := false } } 0 := by
  intro w ht hn
  refine answers_framed hm hf (show execFwCommit f false s = _ from rfl) ((if_neg ?_).trans (if_neg ?_))
  · rw [show (s.takeFrame f).sec.trial = true from ht]
    decide
  · simpa using fun a b c h => hn (a, b, c) h

/-- The state in which an update of a KIND is active and its first unit has still to drain (R509). -/
def State.updateBegun (w : State) (f : Frame) (kind : Nat) : State :=
  { w with sec := { w.sec with
    updKind := kind, updDone := 0, updTotal := w.updateCount kind, updTiles := [], updFailed := false, updActive := true
    updSid := f.sid, updSeq := f.seq } }

theorem answers_fwUpdate {kind : Nat} : let w := s.takeFrame f
    2 ≤ kind → kind ≤ 5 → w.instances kind ≠ 0 → w.sec.updActive = false → w.sec.trial = true →
    (kind = 4 → ∀ j, j < 4 → w.lastQuads j = false) → Answers (.fwUpdate f kind) s f (w.updateBegun f kind).drainUnit 0 := by
  intro w h2 h5 hn ha ht hq
  refine answers_framed hm hf (show execFwUpdate f kind s = _ from rfl) ((if_neg ?_).trans (if_neg ?_))
  · simpa using ⟨⟨h2, h5⟩, hn⟩
  · have hlast : (kind = 4 && (List.range 4).any w.lastQuads) = false := by simpa using hq
    rw [show (s.takeFrame f).sec.updActive = false from ha, show (s.takeFrame f).sec.trial = true from ht]
    exact fun h => Bool.false_ne_true (hlast.symm.trans h)

end

end Sys2Proof.Machine
end

section
/-! PROOFS. Every management command completes when it may act (R321 to R346, R377, R457, R472 to R480, R509), and so does every step of
grafts, safety, rotation, sessions, quotes, updates, saves and restores. -/

namespace Sys2Proof.Machine

open Sys2Proof.Claims

/-! ### Management commands -/

section
variable {s : State} {f : Frame} (hm : s.mgmtOpen = true) (hf : s.frameOk f = true)
include hm hf

/-- A change that can be made and whose units are ON is made (R417). -/
theorem answers_change_ok {c : Instr} {ch : Change} (hc : changeOf c = some (f, ch)) (hst : ((s.takeFrame f).change ch).status = 0)
    (hon : (s.takeFrame f).unitsOn ((s.takeFrame f).changeUnits ch) = true) : Answers c s f ((s.takeFrame f).change ch).s 0 := by
  have h := answers_change hm hf hc (by rw [State.changeWaits, hon]; simp)
  rwa [hst] at h

/-- DISSOLVE_BUNCH of a bunch without queues, grafts and keys: it waits in DISSOLVING, or it is gone (R323). -/
theorem answers_dissolveBunch {b : BitVec 32} : let w := s.takeFrame f
    (w.findBunch b).isSome = true → (∀ c ∈ w.ctxsOf b, w.queuesOf c = []) → w.grafting b = false → (w.bunchOf b).st ≠ 6 →
    (∀ k ∈ w.sec.jobKeys, k.bunch ≠ b) → w.unitsOn (w.changeUnits (.dissolve b)) = true → ∃ u, Answers (.dissolveBunch f b) s f u 0 :=
  fun hb hq hg h6 hk hon => ⟨_, answers_made hm hf rfl hon (State.askDissolve_ok hb hq hg h6 (.inr hk))⟩

/-- QUAD_MOVE of a quad that may move: at once, or as a graft (R332). -/
theorem answers_quadMove_ok {x : Nat} {gaining : BitVec 32} : let w := s.takeFrame f
    w.graftBadOpt (tget 0 w.comp.quadOwner x) = none → w.graftBadOpt gaining = none → x < 16 → w.hasRunner (x / 4) = true →
    tget 0 w.comp.quadOwner x ≠ gaining → (tget 0 w.comp.quadOwner x = 0 → w.quadFree x = true) →
    (∀ g ∈ w.comp.grafts, g.kind ≠ 4 ∨ g.out ≠ x) → ∃ u, Answers (.quadMove f x gaining) s f u 0 := by
  intro w hl hg hx hr hne hfree hgr
  obtain ⟨g, -, -, -, -, hdone, hbegins⟩ := answers_quadMove hm hf hl hg hx hr hne hfree hgr
  cases h : w.quadDone g with
  | true => exact ⟨_, hdone h⟩
  | false => exact ⟨_, hbegins h⟩

/-- What may stop, thaw, resume or reset a known bunch, and what may set its policy or mark it, answers OK (R343 to R346, R416, R480). -/
theorem answers_knownBunch {b : BitVec 32} : let w := s.takeFrame f
    (w.findBunch b).isSome = true →
      let x := w.bunchOf b
      (x.parent = 0 → x.freezing = none → x.st = 2 ∨ x.st = 3 →
        (∀ g ∈ w.comp.grafts, ∀ k ∈ w.graftBunches g, w.nestedIn k b = false) → Answers (.freeze f b) s f (w.beginFreeze b) 0)
      ∧ (x.parent = 0 → x.st = 4 → Answers (.thaw f b) s f
            ((((w.nestedDeep b).foldl (fun u i => u.deliverAll i) (w.liveNested b).revote).holdOverdue b).dispatchBunch b) 0)
      ∧ (x.conf = false → x.st ≠ 1 → x.st ≠ 4 → x.st ≠ 6 →
          (∀ a ∈ w.ancestors 257 b, (w.bunchOf a).freezing = none ∧ (w.bunchOf a).wantFreeze = false) →
          ∃ u, Answers (.halt f b) s f u 0 ∧ (b ≠ 0 → (u.bunchOf b).st = 5))
      ∧ (x.st = 5 → ∃ u : State, Answers (.resume f b) s f ((u.holdOverdue b).dispatchBunch b) 0)
      ∧ Answers (.bunchReset f b) s f ((w.resetBunch b).changed) 0
      ∧ (∀ k, Answers (.setPowerPolicy f b k) s f (w.updBunch b (fun x => { x with keepIdle := k })).revote 0)
      ∧ (x.parent = 0 → x.st = 1 → w.boot.maint = false → Answers (.confSet f b) s f ((w.markConf b).changed) 0) := by
  intro w h x
  exact ⟨fun hp hfr hst => ((answers_freeze hm hf h hp).2.2 hfr hst).2, fun hp => (answers_thaw hm hf h hp).2,
    fun hc h1 h4 h6 hanc => ⟨_, (answers_halt hm hf h).2 hc h1 h4 h6 hanc, fun hb => State.haltBunch_bunchOf hb h h1 h6⟩,
    fun h5 => ⟨_, (answers_resume hm hf h).2 h5⟩, answers_bunchReset hm hf h, fun k => (answers_setPowerPolicy hm hf b k).2 h,
    ((answers_confSet hm hf b).2 h).2⟩

end

/-- Settles O59: each command's own equation, from the lemmas on its family. -/
theorem managementCommandsComplete : Obligations.ManagementCommandsComplete := by
  unfold Obligations.ManagementCommandsComplete
  intro s f hm hf w on
  obtain ⟨-, -, -, hbunch, hgrant, -, hrelease, hdetach⟩ := bunchCommands s f hm hf
  obtain ⟨hkeys, hbegin, hagree, hstore, -, -, henter, -, hleave, hunlock⟩ := keysAndModes s f hm hf
  obtain ⟨hperf, hcap, -, -, -, -, -, -⟩ := orchestratorSettings.1 s f hm hf
  refine ⟨fun c ch => answers_change_ok hm hf, fun b r hb hg hon => ?_, fun b m hr hk hg => ((hrelease b m).2 hr).1 hk hg,
    fun b hb => ((hbunch b).2 hb).1, fun b => answers_dissolveBunch hm hf, fun b out inc hb hi hl hin hfit hserve => ?_,
    fun t losing gaining pos heir reserve hl hg ht hne h2 h3 hb hin href hheir hfit hserve hgain => ?_,
    fun b m p i hb hv hfree htaken hc => ?_, fun b m gaining hb hg hv hne htaken hu => ?_, fun x gaining => answers_quadMove_ok hm hf,
    fun d => (hdetach d).1, fun b => answers_knownBunch hm hf, hperf, hcap, fun m h => ((answers_setFloors hm hf m none).2 h).1,
    fun v h => ((answers_setVcArb hm hf none v).2 h).1, fun d v => (answers_orchVote hm hf d v).2, fun x => (answers_portDisable hm hf x).2,
    fun q keep => (answers_setBankKeep hm hf q keep).2, fun rows h => ⟨_, answers_rowAcknowledge hm hf h, ?_, ?_⟩,
    fun t => answers_selftestRequest hm hf, exec_close hm hf, exec_quote hm hf, fun i c => answers_credSet hm hf,
    fun i h0 hi => ⟨_, exec_credClear hm hf h0 hi, tget_tput_same _ _ _ _⟩, exec_unclaim hm hf,
    fun b id bytes k hbad => ⟨answers_keyInstall hm hf hbad, answers_keyAccept hm hf hbad⟩,
    fun b id bytes k hbad => answers_imageKeyInstall hm hf hbad, ?_, fun b id qs hbad ha hq => ?_, fun b id h => ⟨?_, ?_⟩,
    fun imgs => answers_fwWrite hm hf, answers_fwTrial hm hf, answers_fwCommit hm hf,
    fun kind h2 h5 hn ha ht hq => ⟨w.updateBegun f kind, answers_fwUpdate hm hf h2 h5 hn ha ht hq, rfl, rfl, rfl⟩, henter, hleave,
    fun h0 => ((hunlock true).2 rfl h0).2, exec_moduleReset_orchestrator hm hf⟩
  · obtain ⟨t, ht, -⟩ := hgrant b r hb hg hon
    exact ⟨t, ht⟩
  · exact (((answers_tileReplace hm hf b out inc).2.2 hb hi).2 hl hin).1 ⟨hfit, hserve⟩
  · exact ⟨_, (answers_tileMove hm hf pos reserve hl hg ht hne h2 h3 hb hin href hheir).1 hfit hserve hgain, rfl, rfl⟩
  · obtain ⟨g, ha, hk, hb, -, ho, hp, -⟩ := (answers_rangeRelocate hm hf hb hv hfree htaken).1 hc
    exact ⟨g, ha, hk, hb, ho, hp⟩
  · obtain ⟨g, ha, hk, hb, hg, -⟩ := (answers_rangeMove hm hf hb hg hv hne htaken).1 hu
    exact ⟨g, ha, hk, hb, hg⟩
  · exact (congrArg State.tiles (State.settleSafe_unsettled _) :)
  · exact (congrArg State.mem (State.settleSafe_unsettled _) :)
  · obtain ⟨n, u, hx, -, hu⟩ := hbegin
    exact ⟨n, u, hx, by rw [hu]⟩
  · obtain ⟨k, ss, u, hx, -, -, hu⟩ := (hagree b id qs hbad).2 ha hq
    exact ⟨u, _, hx, by rw [hu]⟩
  · obtain ⟨u, hx, -, -, hu⟩ := (hstore b id).2.1 h
    rwa [hu] at hx
  · obtain ⟨u, hx, hgone, -⟩ := (hstore b id).2.2.2 (.inl h)
    exact ⟨u, hx, hgone⟩

/-! ### Steps and events of the module's control -/

/-- A fault that is reported, or that is reported with its reaction, is latched with SAFE_N asserted for it (R443, R447). -/
theorem safetyFaultReaction_latches {s : State} {flt : SafetyFault} (h : flt ∈ s.stone.faults ∨ s.ownReport flt = true) :
    ∃ u, exec (.safetyFaultReaction flt) s = .next u ∧ (u.latch flt.row).set = true ∧ u.stone.safe = true
      ∧ u.stone.cause = rowCode flt.row := by
  obtain ⟨v, hx⟩ := exec_safetyFaultReaction h
  have halarms := v.reactTo_alarms flt
  refine ⟨_, hx, ?_, (congrArg (fun a => a.2.1) halarms :), (congrArg (fun a => a.2.2) halarms :)⟩
  have hrows : (v.reactTo flt).stone.rows = tput v.stone.rows flt.row ((v.latch flt.row).again flt.src) := (congrArg Prod.fst halarms :)
  rw [State.latch, hrows, tget_tput_same]
  rfl

/-- A TESTING tile that passes is SPARE, and out of its turn once its reaction has settled (R453). -/
theorem rotationSelftestDone_spare {s : State} {t : Nat} (h : s.hasTile t = true) (hr : (s.tile t).role = 2) :
    ∃ u, exec (.rotationSelftestDone t true) s = .next u ∧ (u.tile t).role = 1 ∧ u.stone.inTurn = s.stone.inTurn.erase t := by
  obtain ⟨hrole, hturn⟩ := s.endTest_passed t
  have hsettle := State.settleSafe_unsettled (s.endTest t true)
  exact ⟨_, exec_rotationSelftestDone_testing h hr true, (congrArg (fun u => (State.tile u t).role) hsettle :).trans hrole,
    (congrArg (fun u => u.stone.inTurn) hsettle :).trans hturn⟩

/-- Settles O60: each event's own equation, and what its clause reads off it. -/
theorem controlEventsComplete : Obligations.ControlEventsComplete := by
  unfold Obligations.ControlEventsComplete
  intro s
  obtain ⟨hdrain, hdone, -, hshare, -, -, -, hrange, hquad⟩ := grafts.2 s
  obtain ⟨-, -, hsave, hrestore⟩ := contextImagesAndEnds
  refine ⟨fun b g h1 h3 => (hdone b g h1 h3).1, fun b g hg hd hmem hne => ?_, fun b g c rest bad hg ha ht hne hroom hfr => ?_, hrange, hquad,
    fun flt => safetyFaultReaction_latches, fun row r => exec_escalation, fun r units => exec_huskRecordComplete, fun r src hr hs hn => ?_,
    fun p q l h h' => exec_pacerFreqWindow_passes (windowFails_near h h' l) s, rfl, rfl,
    fun h hs => ⟨_, exec_mgcWatchdog_silent h hs, reported_raiseSafety rfl rfl fun _ => ⟨rfl, rfl⟩⟩,
    fun h => ⟨_, exec_hostifWatchdog_silent h, reported_raiseSafety rfl rfl fun _ => ⟨rfl, rfl⟩⟩, ?_, fun t ha hn hr hlt => ?_,
    fun t => rotationSelftestDone_spare, fun i nc c hm hc hn hl => ?_, fun sid x c hm hx hc hl hfirst => ?_,
    fun ct k => exec_claim, fun sid => exec_sessionIdleTimeout, fun i => exec_slotLockExpire, fun i ok ha hi hd => exec_unitUpdateDone ha hi hd ok,
    fun r hr hg ha => ?_, fun m hb hop hf hr => ((hsave s m hb hop).2 hf hr).1, fun m img k x u hb hop hmaj hk hi hu => ?_⟩
  · have htodo : (if (s.bunchOf g.bunch).members.contains (Member.tile g.out) then s.copyOrder g.out else []) = s.copyOrder g.out :=
      if_pos (List.contains_iff_mem.2 hmem)
    obtain ⟨u, hx, hu, -, hm, -⟩ := (hdrain b g hg hd).2 (by rwa [htodo])
    exact ⟨u, hx, htodo ▸ hu, hm⟩
  · have hx := hshare b g c rest bad hg ha ht hroom hfr
    dsimp only at hx
    rw [if_neg (by simpa using hne)] at hx
    exact ⟨_, _, _, hx, rfl⟩
  · rw [exec_huskUnitTimeout hr hs, if_neg (by simpa using hn)]
  · obtain ⟨u, hx, hu⟩ := exec_stoneLockstep s
    exact ⟨u, hx, (congrArg Stone.safe hu :), (congrArg Stone.cycleReq hu :), (congrArg Stone.nvRow17 hu :)⟩
  · obtain ⟨u, hu, hrole, hturn⟩ := State.startTurn_spare hr hlt
    exact ⟨u, exec_rotationTurnStart ha hn hu, hrole, hturn⟩
  · obtain ⟨x, hx⟩ := s.helloOk_sessions i c nc
    exact ⟨_, x, exec_hello hm hc hn hl, hx⟩
  · exact ⟨_, _, exec_proof hm hx hc hl, State.proofPasses_openSession _ hfirst, rfl⟩
  · obtain ⟨hq, hseq⟩ := State.deliverQuote_quote { s with sec := { s.sec with quote := none, quoteSeq := s.sec.quoteSeq + 1 } } r
      (s.quoteBytes r.nonce)
    exact ⟨_, exec_quoteReady hr hg ha, hq, hseq⟩
  · exact (((hrestore s m img hb hop).2.2.2.2 k x hmaj hk hi).1 u hu)

end Sys2Proof.Machine
end
